-- ==== Sys2Proof/Word.lean ====
section
/-! DEFINITION. The word types of the model and their plainest arithmetic. -/

namespace Sys2Proof

/-- A register, a uniform register or a counter: 64 bits (R18, R125). -/
abbrev Word := BitVec 64

/-- A per-thread register: 32 bits (R125). -/
abbrev Word32 := BitVec 32

/-- One byte of memory. -/
abbrev Byte := BitVec 8

/-- Bits hi down to lo of a word, as a number (R18's notation [hi:lo]). -/
def Word.bits (w : Word) (hi lo : Nat) : Nat := (w.toNat >>> lo) % 2 ^ (hi + 1 - lo)

/-- The word with bits hi down to lo replaced by the low bits of v. -/
def Word.setBits (w : Word) (hi lo v : Nat) : Word :=
  let mask : Word := BitVec.ofNat 64 ((2 ^ (hi + 1 - lo) - 1) <<< lo)
  (w &&& ~~~mask) ||| (BitVec.ofNat 64 (v <<< lo) &&& mask)

/-- Bits hi down to lo of a number. -/
def natBits (n hi lo : Nat) : Nat := (n >>> lo) % 2 ^ (hi + 1 - lo)

/-- Ceiling division. -/
def ceilDiv (a b : Nat) : Nat := (a + b - 1) / b

/-- The number read as a two's-complement integer of w bits. -/
def toSigned (w n : Nat) : Int :=
  let m := n % 2 ^ w
  if 2 * m < 2 ^ w then (m : Int) else (m : Int) - (2 ^ w : Nat)

/-- The integer reduced modulo 2^w to a number. -/
def toUnsigned (w : Nat) (i : Int) : Nat := (i % ((2 ^ w : Nat) : Int)).toNat

end Sys2Proof
end

