-- ==== Sys2Proof/Machine/Flags.lean ====
section
/-! DEFINITION. The sticky flags, rounding modes and rounding environment of 02_number_formats.md (R53 to R63). -/

namespace Sys2Proof.Machine

/-- Rounding modes (R53), in the order of CTX.FP_MODE.RM's codes (R60). -/
inductive Rm where
  | rne | rtz | rup | rdn | sr
deriving DecidableEq, Repr

/-- CTX.FP_MODE.RM's encoding; 5 to 7 are reserved (R60). -/
def Rm.ofCode (c : Nat) : Option Rm :=
  match c with
  | 0 => some .rne
  | 1 => some .rtz
  | 2 => some .rup
  | 3 => some .rdn
  | 4 => some .sr
  | _ => none

/-- Flag events, in the bit order of CTX.FP_STATUS (R60): IV, DZ, OF, UF, NX, FLUSH. -/
structure FpFlags where
  iv : Bool := false
  dz : Bool := false
  of : Bool := false
  uf : Bool := false
  nx : Bool := false
  flush : Bool := false
deriving DecidableEq, Repr

/-- No event. -/
def FpFlags.none : FpFlags := {}

/-- Flag events are ORed (R62). -/
def FpFlags.or (a b : FpFlags) : FpFlags :=
  { iv := a.iv || b.iv, dz := a.dz || b.dz, of := a.of || b.of,
    uf := a.uf || b.uf, nx := a.nx || b.nx, flush := a.flush || b.flush }

/-- The flags as the low bits of CTX.FP_STATUS (R60). -/
def FpFlags.toNat (f : FpFlags) : Nat :=
  (if f.iv then 1 else 0) + (if f.dz then 2 else 0) + (if f.of then 4 else 0)
    + (if f.uf then 8 else 0) + (if f.nx then 16 else 0) + (if f.flush then 32 else 0)

/-- How an operation rounds: its rounding mode, its subnormal mode's two halves (R57), its overflow mode (R54)
and the draw of its element under SR (R55, R56). -/
structure RoundEnv where
  rm : Rm := .rne
  flushIn : Bool := false
  flushOut : Bool := false
  sat : Bool := false
  draw : Nat := 0
deriving DecidableEq, Repr

/-- Rotate left modulo 2^64. -/
def rotl64 (x : Word) (n : Nat) : Word := x.rotateLeft n

/-- The rounds of sr_draw (R56). -/
def srRounds : Nat → Word → Word → Word
  | 0, _, x => x
  | n + 1, k, x =>
    let x1 := (x ^^^ k) * 0xD6E8FEB86659FD93#64
    srRounds n (rotl64 k 23 + 0x6A09E667F3BCC909#64) (x1 ^^^ (x1 >>> 32))

/-- The 32-bit draw of an element under stochastic rounding (R56). -/
def srDraw (seed : Word) (tensorId index : Nat) : Nat :=
  let k := seed ^^^ (BitVec.ofNat 64 (tensorId % 2 ^ 32) * 0x9E3779B97F4A7C15#64)
  ((srRounds 6 k (BitVec.ofNat 64 index)) >>> 32).toNat

end Sys2Proof.Machine
end

