-- ==== Sys2Proof/Machine/Formats.lean ====
section
/-! DEFINITION. The thirteen element formats, exact values, the one rounding, scales and conversions of
02_number_formats.md (R43 to R68). -/

namespace Sys2Proof.Machine

/-- The element formats in the order of their codes (R43). -/
inductive Format where
  | fp64 | fp32 | fp16 | bf16 | e5m2 | e4m3 | e3m2 | e2m3 | e2m1 | int8 | uint8 | int4 | uint4
deriving DecidableEq, Repr

/-- The format of a 4-bit format code; 0xD to 0xF are reserved (R43). -/
def Format.ofCode (c : Nat) : Option Format :=
  match c with
  | 0 => some .fp64
  | 1 => some .fp32
  | 2 => some .fp16
  | 3 => some .bf16
  | 4 => some .e5m2
  | 5 => some .e4m3
  | 6 => some .e3m2
  | 7 => some .e2m3
  | 8 => some .e2m1
  | 9 => some .int8
  | 10 => some .uint8
  | 11 => some .int4
  | 12 => some .uint4
  | _ => none

/-- The code of a format (R43). -/
def Format.code : Format → Nat
  | .fp64 => 0
  | .fp32 => 1
  | .fp16 => 2
  | .bf16 => 3
  | .e5m2 => 4
  | .e4m3 => 5
  | .e3m2 => 6
  | .e2m3 => 7
  | .e2m1 => 8
  | .int8 => 9
  | .uint8 => 10
  | .int4 => 11
  | .uint4 => 12

/-- Width in bits (R43). -/
def Format.width : Format → Nat
  | .fp64 => 64
  | .fp32 => 32
  | .fp16 | .bf16 => 16
  | .e5m2 | .e4m3 | .int8 | .uint8 => 8
  | .e3m2 | .e2m3 => 6
  | .e2m1 | .int4 | .uint4 => 4

def Format.isFloat : Format → Bool
  | .int8 | .uint8 | .int4 | .uint4 => false
  | _ => true

/-- The formats of the vector pipes (R69). -/
def Format.isVector : Format → Bool
  | .fp64 | .fp32 | .fp16 | .bf16 => true
  | _ => false

def Format.isSignedInt : Format → Bool
  | .int8 | .int4 => true
  | _ => false

/-- Mantissa bits m (R44). -/
def Format.mant : Format → Nat
  | .fp64 => 52
  | .fp32 => 23
  | .fp16 => 10
  | .bf16 => 7
  | .e5m2 => 2
  | .e4m3 => 3
  | .e3m2 => 2
  | .e2m3 => 3
  | .e2m1 => 1
  | _ => 0

/-- Exponent bits e (R44). -/
def Format.expo : Format → Nat
  | .fp64 => 11
  | .fp32 => 8
  | .fp16 => 5
  | .bf16 => 8
  | .e5m2 => 5
  | .e4m3 => 4
  | .e3m2 => 3
  | .e2m3 => 2
  | .e2m1 => 2
  | _ => 0

/-- Bias b (R44). -/
def Format.bias : Format → Nat
  | .fp64 => 1023
  | .fp32 => 127
  | .fp16 => 15
  | .bf16 => 127
  | .e5m2 => 15
  | .e4m3 => 7
  | .e3m2 => 3
  | .e2m3 => 1
  | .e2m1 => 1
  | _ => 0

/-- Formats with infinities (R46). -/
def Format.hasInf : Format → Bool
  | .fp64 | .fp32 | .fp16 | .bf16 | .e5m2 => true
  | _ => false

/-- Formats with a NaN (R46). -/
def Format.hasNan : Format → Bool
  | .fp64 | .fp32 | .fp16 | .bf16 | .e5m2 | .e4m3 => true
  | _ => false

/-- Exponent of the smallest normal, 1 - b. -/
def Format.emin (f : Format) : Int := 1 - (f.bias : Int)

/-- The spacing exponent of the subnormals, 1 - b - m. -/
def Format.gmin (f : Format) : Int := f.emin - (f.mant : Int)

/-- The largest finite value's integer significand (R44: all ones, but 0b1110 in E4M3, whose all-ones pattern is the
NaN, R46). -/
def Format.maxSig (f : Format) : Nat :=
  match f with
  | .e4m3 => 14
  | _ => 2 ^ (f.mant + 1) - 1

/-- The exponent of the largest finite value's last significand bit. -/
def Format.maxExp (f : Format) : Int :=
  let top : Nat := if f.hasInf then 2 ^ f.expo - 2 else 2 ^ f.expo - 1
  (top : Int) - (f.bias : Int) - (f.mant : Int)

/-- The default NaN's encoding (R46); 0 for a format without one (R66). -/
def Format.defaultNan : Format → Nat
  | .fp64 => 0x7FF8000000000000
  | .fp32 => 0x7FC00000
  | .fp16 => 0x7E00
  | .bf16 => 0x7FC0
  | .e5m2 => 0x7E
  | .e4m3 => 0x7F
  | _ => 0

def Format.signBit (f : Format) (neg : Bool) : Nat := if neg then 2 ^ (f.width - 1) else 0

/-- The encoding of an infinity, in a format that has one (R46). -/
def Format.infBits (f : Format) (neg : Bool) : Nat :=
  f.signBit neg + (2 ^ f.expo - 1) * 2 ^ f.mant

/-- The encoding of the largest finite value. -/
def Format.maxBits (f : Format) (neg : Bool) : Nat :=
  f.signBit neg + ((if f.hasInf then 2 ^ f.expo - 2 else 2 ^ f.expo - 1) * 2 ^ f.mant + f.maxSig % 2 ^ f.mant)

/-- An exact value: a NaN, an infinity, or (-1)^neg × m × 2^e. `sticky` says that a quotient or a square root goes on
below the last bit of m (it lies strictly between m and m + 1 in units of 2^e); it is false everywhere else. -/
inductive Val where
  | nan (signalling : Bool)
  | inf (neg : Bool)
  | num (neg : Bool) (m : Nat) (e : Int) (sticky : Bool)
deriving DecidableEq, Repr

def Val.zero (neg : Bool) : Val := .num neg 0 0 false

/-- An integer as an exact value. -/
def Val.ofInt (i : Int) : Val := .num (decide (i < 0)) i.natAbs 0 false

def Val.isNan : Val → Bool
  | .nan _ => true
  | _ => false

def Val.isSnan : Val → Bool
  | .nan s => s
  | _ => false

def Val.isInf : Val → Bool
  | .inf _ => true
  | _ => false

def Val.isZero : Val → Bool
  | .num _ m _ st => decide (m = 0) && !st
  | _ => false

def Val.neg? : Val → Bool
  | .nan _ => false
  | .inf n => n
  | .num n _ _ _ => n

/-- The value with its sign exchanged by XOR. -/
def Val.xorSign (v : Val) (s : Bool) : Val :=
  match v with
  | .nan q => .nan q
  | .inf n => .inf (n != s)
  | .num n m e st => .num (n != s) m e st

/-- The value an encoding stands for (R44 to R48). -/
def Format.decode (f : Format) (bits : Nat) : Val :=
  if f.isFloat then
    let neg := decide ((bits >>> (f.width - 1)) % 2 = 1)
    let ex := (bits >>> f.mant) % 2 ^ f.expo
    let m := bits % 2 ^ f.mant
    let top := 2 ^ f.expo - 1
    if f.hasInf && decide (ex = top) then
      if m = 0 then .inf neg
      else .nan (f.isVector && decide (m < 2 ^ (f.mant - 1)))
    else if decide (f = .e4m3) && decide (ex = top) && decide (m = 7) then .nan false
    else if ex = 0 then .num neg m f.gmin false
    else .num neg (m + 2 ^ f.mant) ((ex : Int) - (f.bias : Int) - (f.mant : Int)) false
  else if f.isSignedInt then Val.ofInt (toSigned f.width bits)
  else Val.ofInt ((bits % 2 ^ f.width : Nat) : Int)

/-- Is the encoding a nonzero subnormal (R44)? -/
def Format.isSubnormal (f : Format) (bits : Nat) : Bool :=
  f.isFloat && decide ((bits >>> f.mant) % 2 ^ f.expo = 0) && decide (bits % 2 ^ f.mant ≠ 0)

/-- An input element read under the subnormal mode: its value and the FLUSH event (R57, R58). -/
def Format.read (f : Format) (env : RoundEnv) (bits : Nat) : Val × FpFlags :=
  if env.flushIn && f.isSubnormal bits then
    (Val.zero (f.decode bits).neg?, { flush := true })
  else (f.decode bits, .none)

/-- The rounded magnitude of m × 2^e (with sticky) to a multiple of 2^g: the integer multiple, and whether it
differs from the exact value (R53, R55). -/
def roundMag (rm : Rm) (draw : Nat) (neg : Bool) (m : Nat) (e : Int) (sticky : Bool) (g : Int) : Nat × Bool :=
  if g ≤ e then (m <<< (e - g).toNat, false)
  else
    let sh := (g - e).toNat
    let q := m >>> sh
    let r := m % 2 ^ sh
    let inexact := decide (r ≠ 0) || sticky
    let half := 2 ^ (sh - 1)
    let up : Bool := match rm with
      | .rne => decide (r > half) || (decide (r = half) && (sticky || decide (q % 2 = 1)))
      | .rtz => false
      | .rup => inexact && !neg
      | .rdn => inexact && neg
      | .sr => decide (draw % 2 ^ 32 < (r <<< 32) >>> sh)
    (if up then q + 1 else q, inexact)

/-- The exponent of the leading bit of a nonzero m × 2^e. -/
def topExp (m : Nat) (e : Int) : Int := e + (Nat.log2 m : Int)

/-- m × 2^e compared with m' × 2^e'. -/
def magLt (m : Nat) (e : Int) (m' : Nat) (e' : Int) : Bool :=
  if e ≤ e' then decide (m < m' <<< (e' - e).toNat) else decide (m <<< (e - e').toNat < m')

/-- The encoding of neg, q × 2^g where g is the grid of the value in format f and q < 2^(mant + 2), in range. -/
def Format.encodeFinite (f : Format) (neg : Bool) (q : Nat) (g : Int) : Nat :=
  if q < 2 ^ f.mant then f.signBit neg + q
  else
    -- a carry out of the significand moves the exponent up by one
    let (q, g) := if 2 ^ (f.mant + 1) ≤ q then (q / 2, g + 1) else (q, g)
    f.signBit neg + ((g + (f.mant : Int) + (f.bias : Int)).toNat * 2 ^ f.mant + q % 2 ^ f.mant)

/-- The class of a result before encoding (R93). -/
inductive Cls where
  | nan | pinf | ninf | zero | sub
  | normal (e : Int)
deriving DecidableEq, Repr

/-- A result: its encoding, the flag events it raises, and its class before encoding (R93). -/
structure Rounded where
  bits : Nat
  flags : FpFlags
  cls : Cls
deriving DecidableEq, Repr

/-- Whether an overflowed rounded value becomes an infinity in the IEEE column of R54's table. -/
def overflowInf (rm : Rm) (neg : Bool) : Bool :=
  match rm with
  | .rne | .sr => true
  | .rtz => false
  | .rup => !neg
  | .rdn => neg

/-- The range of an integer format (R48). -/
def Format.intMin (f : Format) : Int := if f.isSignedInt then -((2 ^ (f.width - 1) : Nat) : Int) else 0
def Format.intMax (f : Format) : Int :=
  if f.isSignedInt then ((2 ^ (f.width - 1) : Nat) : Int) - 1 else ((2 ^ f.width : Nat) : Int) - 1

/-- One rounding to an integer range (R67): the result, its flags, and the rounded value before saturation. -/
def roundInt (env : RoundEnv) (lo hi : Int) (v : Val) : Int × FpFlags × Cls :=
  match v with
  | .nan _ => (0, { iv := true }, .nan)
  | .inf n => (if n then lo else hi, { iv := true }, if n then .ninf else .pinf)
  | .num n m e st =>
    let (q, inexact) := roundMag env.rm env.draw n m e st 0
    let i : Int := if n then -(q : Int) else (q : Int)
    let cls : Cls := if q = 0 then .zero else .normal (Nat.log2 q : Int)
    if i < lo then (lo, { iv := true, nx := true }, cls)
    else if hi < i then (hi, { iv := true, nx := true }, cls)
    else (i, { nx := inexact }, cls)

/-- The final rounding of a nonzero finite value into a floating-point format: R53, R54, R58. -/
def Format.roundNum (f : Format) (env : RoundEnv) (neg : Bool) (m : Nat) (e : Int) (sticky : Bool) : Rounded :=
  let te := topExp m e
  let g : Int := max (te - (f.mant : Int)) f.gmin
  let (q, inexact) := roundMag env.rm env.draw neg m e sticky g
  if magLt f.maxSig f.maxExp q g then
    -- R54: overflow on the rounded value
    let fl : FpFlags := { of := true, nx := true }
    let toInf := overflowInf env.rm neg && !env.sat
    let cls : Cls := if toInf then (if neg then .ninf else .pinf) else .normal (f.maxExp + (f.mant : Int))
    let bits :=
      if toInf && f.hasInf then f.infBits neg
      else if toInf && f.hasNan then f.defaultNan
      else f.maxBits neg
    ⟨bits, fl, cls⟩
  else
    -- R58: tiny after rounding to the significand precision with the exponent unbounded
    let gu : Int := te - (f.mant : Int)
    let (qu, _) := roundMag env.rm env.draw neg m e sticky gu
    let tiny := magLt qu gu 1 f.emin
    let isSub := decide (q ≠ 0) && magLt q g 1 f.emin
    if env.flushOut && isSub then
      ⟨f.signBit neg, { uf := true, nx := true, flush := true }, .zero⟩
    else
      let cls : Cls := if q = 0 then .zero else if isSub then .sub else .normal (topExp q g)
      ⟨f.encodeFinite neg q g, { uf := tiny && inexact, nx := inexact }, cls⟩

/-- One rounding and encoding of an exact value into a format (R53, R54, R58, R65 to R67). `conv` says that the
operation is a conversion or a drain, whose infinite result R66 replaces under OVF = 1; vector arithmetic keeps an
infinite result by R70. A signalling NaN's IV event is its reader's (R65, R70), not raised here. -/
def Format.round (f : Format) (env : RoundEnv) (conv : Bool) (v : Val) : Rounded :=
  if f.isFloat then
    match v with
    | .nan _ => if f.hasNan then ⟨f.defaultNan, .none, .nan⟩ else ⟨0, { iv := true }, .nan⟩
    | .inf n =>
      let cls : Cls := if n then .ninf else .pinf
      if f.hasInf then
        if env.sat && conv then ⟨f.maxBits n, { iv := true }, cls⟩ else ⟨f.infBits n, .none, cls⟩
      else if f.hasNan && !env.sat then ⟨f.defaultNan, .none, cls⟩
      else ⟨f.maxBits n, { iv := true }, cls⟩
    | .num n m e st =>
      if m = 0 ∧ st = false then ⟨f.signBit n, .none, .zero⟩ else f.roundNum env n m e st
  else
    let (i, fl, cls) := roundInt env f.intMin f.intMax v
    ⟨toUnsigned f.width i, fl, cls⟩

/-- The exact product of two values; a NaN where it is undefined (a NaN factor, or zero times an infinity). -/
def Val.mul (a b : Val) : Val :=
  let s := a.neg? != b.neg?
  match a, b with
  | .nan _, _ | _, .nan _ => .nan false
  | .inf _, .inf _ => .inf s
  | .inf _, .num _ m _ _ => if m = 0 then .nan false else .inf s
  | .num _ m _ _, .inf _ => if m = 0 then .nan false else .inf s
  | .num _ m e _, .num _ m' e' _ => .num s (m * m') (e + e') false

/-- The exact sum of two values: R70 for infinities, R71 for the sign of an exact zero. -/
def Val.add (rm : Rm) (a b : Val) : Val :=
  match a, b with
  | .nan _, _ | _, .nan _ => .nan false
  | .inf s, .inf s' => if s = s' then .inf s else .nan false
  | .inf s, _ => .inf s
  | _, .inf s => .inf s
  | .num s m e _, .num s' m' e' _ =>
    let g := min e e'
    let x : Int := ((m <<< (e - g).toNat : Nat) : Int)
    let y : Int := ((m' <<< (e' - g).toNat : Nat) : Int)
    let t : Int := (if s then -x else x) + (if s' then -y else y)
    if t = 0 then
      if s = s' then Val.zero s else Val.zero (decide (rm = .rdn))
    else .num (decide (t < 0)) t.natAbs g false

/-- The combined scale of R51: the exact product of the scales and the output multiplier, each a binary32. A NaN where
R52 calls the product undefined. -/
def combinedScale (scales : List Word32) : Val :=
  let vs := scales.map (fun w => Format.fp32.decode w.toNat)
  let sgn := vs.foldl (fun a v => a != v.neg?) false
  -- the sign of a NaN scale is its encoding's, and no result uses it
  if vs.any Val.isNan then .nan false
  else if vs.any Val.isInf then (if vs.any Val.isZero then .nan false else .inf sgn)
  else if vs.any Val.isZero then Val.zero sgn
  else vs.foldl Val.mul (.num false 1 0 false)

/-- An exact result under a combined scale, and whether IV is raised (R52). -/
def applyScale (x c : Val) : Val × Bool :=
  match c with
  | .nan _ => (.nan false, true)
  | .inf s =>
    match x with
    | .nan _ => (.nan false, false)
    | .inf n => (.inf (n != s), false)
    | .num n m _ _ => if m = 0 then (.nan false, true) else (.inf (n != s), false)
  | .num s cm ce _ =>
    if cm = 0 then
      match x with
      | .num n _ _ _ => (Val.zero (n != s), false)
      | _ => (.nan false, true)
    else
      match x with
      | .nan q => (.nan q, false)
      | .inf n => (.inf (n != s), false)
      | .num n m e _ => (.num (n != s) (m * cm) (e + ce) false, false)

/-- A combined scale of exactly 1.0 (R68). -/
def Val.isOne (v : Val) : Bool :=
  match v with
  | .num n m e _ => !n && decide (m ≠ 0) && decide (topExp m e = 0) && decide (m = 2 ^ (Nat.log2 m))
  | _ => false

/-- A conversion of one element from a format to a format under a combined scale (R51, R52, R57, R64 to R68). -/
def convert (src dst : Format) (env : RoundEnv) (scale : Val) (bits : Nat) : Nat × FpFlags :=
  if src = dst ∧ scale.isOne = true then (bits % 2 ^ src.width, .none)
  else
    let (v, fin) := src.read env bits
    let (x, iv) := applyScale v scale
    let r := dst.round env true x
    (r.bits, (fin.or r.flags).or { iv := iv || v.isSnan })

end Sys2Proof.Machine
end

