-- ==== Sys2Proof/Machine/Accum.lean ====
section
/-! DEFINITION. Long accumulators, long forms, the drain of one element and the classification of its result
(03_exact_accumulation.md, R72 to R96). -/

namespace Sys2Proof.Machine

/-- The accumulator classes (R72). -/
inductive AccClass where
  | n | s | d
deriving DecidableEq, Repr

/-- The CLASS byte of a long form (R87). -/
def AccClass.code : AccClass → Nat
  | .n => 1
  | .s => 2
  | .d => 3

def AccClass.ofCode (c : Nat) : Option AccClass :=
  match c with
  | 1 => some .n
  | 2 => some .s
  | 3 => some .d
  | _ => none

/-- The exponent of the grid weight (R72). -/
def AccClass.grid : AccClass → Int
  | .n => -64
  | .s => -298
  | .d => -2148

/-- Bits per output (R72). -/
def AccClass.bits : AccClass → Nat
  | .n => 128
  | .s => 576
  | .d => 4224

/-- Capacity in products per output (R72). -/
def AccClass.capacity : AccClass → Nat
  | .n => 2 ^ 31
  | .s => 2 ^ 21
  | .d => 2 ^ 27

/-- Buckets of a long form's range (R88): one above the accumulator's. -/
def AccClass.buckets : AccClass → Nat
  | .n => 3
  | .s => 10
  | .d => 67

/-- Slot size in memory (R88). -/
def AccClass.slotBytes : AccClass → Nat
  | .n => 32
  | .s => 88
  | .d => 544

/-- The floating-point formats of class N (R72). -/
def Format.isNarrow : Format → Bool
  | .fp16 | .e5m2 | .e4m3 | .e3m2 | .e2m3 | .e2m1 => true
  | _ => false

def Format.isSingle : Format → Bool
  | .bf16 | .fp32 => true
  | _ => false

/-- The class of an operand pair; none for the pairs of R73. -/
def pairClass (a b : Format) : Option AccClass :=
  if a.isNarrow && b.isNarrow then some .n
  else if !a.isFloat && !b.isFloat then some .n
  else if a.isSingle && b.isSingle then some .s
  else if a = .fp64 ∧ b = .fp64 then some .d
  else none

/-- The side bits of R79, bit 0 PINF to bit 6 NOTPOSZ. -/
abbrev Side := BitVec 7

namespace SideBit
def pinf : Side := 1
def ninf : Side := 2
def nan : Side := 4
def inv : Side := 8
def any : Side := 16
def notNegZ : Side := 32
def notPosZ : Side := 64
end SideBit

def Side.has (s b : Side) : Bool := decide (s &&& b ≠ 0)

/-- One output's long accumulator, or the value and side bits of a long form: V in units of the grid weight (R74). -/
structure Acc where
  v : Int := 0
  side : Side := 0
deriving DecidableEq, Repr

/-- A cleared accumulator (R74). -/
def Acc.clear : Acc := {}

/-- The side bits a term sets (R79); the term is the product of two factors, and `ints` says that they are integer
elements, whose zero product counts as +0. -/
def termSide (ints : Bool) (a b : Val) : Side :=
  let p := a.mul b
  let other := SideBit.any ||| SideBit.notNegZ ||| SideBit.notPosZ
  match p with
  | .nan _ =>
    let bad := a.isSnan || b.isSnan || !(a.isNan || b.isNan)
    other ||| SideBit.nan ||| (if bad then SideBit.inv else 0)
  | .inf n => other ||| (if n then SideBit.ninf else SideBit.pinf)
  | .num n m _ _ =>
    if m = 0 then
      SideBit.any ||| (if n && !ints then SideBit.notPosZ else SideBit.notNegZ)
    else other

/-- A finite value in units of 2^g, where the value is a multiple of 2^g. -/
def Val.units (v : Val) (g : Int) : Int :=
  match v with
  | .num n m e _ =>
    let x : Int := ((m <<< (e - g).toNat : Nat) : Int)
    if n then -x else x
  | _ => 0

/-- One product added to an accumulator (R77, R79). -/
def Acc.addTerm (cls : AccClass) (ints : Bool) (acc : Acc) (a b : Val) : Acc :=
  { v := acc.v + (a.mul b).units cls.grid, side := acc.side ||| termSide ints a b }

/-- The 8-bit slices of a significand, lowest first (R77). -/
def slices : Nat → Nat → List Nat
  | 0, _ => []
  | n + 1, m => m % 256 :: slices n (m / 256)

/-- The slices of a format's significand: three for FP32, one for BF16, seven for FP64 (R77). -/
def Format.sliceCount : Format → Nat
  | .fp32 => 3
  | .bf16 => 1
  | .fp64 => 7
  | _ => 1

/-- The sum of the slice products of two significands, each at its own weight (R77). -/
def sliceSum : List Nat → List Nat → Nat
  | [], _ => 0
  | a :: as, bs => bs.foldr (fun b t => a * b + 256 * t) 0 + 256 * sliceSum as bs

/-- A long form: its class, and its value and side bits (R87, R88). -/
structure LongForm where
  cls : AccClass
  acc : Acc
deriving DecidableEq, Repr

/-- V taken modulo the class's bucket range as a two's-complement integer (R91). -/
def AccClass.wrap (c : AccClass) (v : Int) : Int :=
  let w := 64 * c.buckets
  toSigned w (toUnsigned w v)

/-- How many low buckets of V are zero, up to n. -/
def lowZeroBuckets : Nat → Int → Nat
  | 0, _ => 0
  | n + 1, v => if v % 18446744073709551616 = 0 then 1 + lowZeroBuckets n (v / 18446744073709551616) else 0

/-- The least bucket count that holds V in two's complement, up to n. -/
def bucketCount : Nat → Int → Nat
  | 0, _ => 0
  | n + 1, v =>
    if -(9223372036854775808 : Int) ≤ v ∧ v < 9223372036854775808 then 1
    else 1 + bucketCount n (v / 18446744073709551616)

/-- The bytes of a number, lowest first. -/
def leBytes : Nat → Nat → List Byte
  | 0, _ => []
  | n + 1, v => BitVec.ofNat 8 v :: leBytes n (v / 256)

/-- The number of a list of bytes, lowest first. -/
def leNat : List Byte → Nat
  | [] => 0
  | b :: bs => b.toNat + 256 * leNat bs

/-- The canonical LO and COUNT of a long form (R89). -/
def LongForm.span (l : LongForm) : Nat × Nat :=
  if l.acc.v = 0 ∨ Side.has l.acc.side SideBit.nan = true then (0, 0)
  else
    let n := l.cls.buckets
    let lo := lowZeroBuckets n l.acc.v
    (lo, bucketCount n (l.acc.v / ((2 ^ (64 * lo) : Nat) : Int)))

/-- The packed long form: header and COUNT buckets, in canonical form (R87, R89). -/
def LongForm.pack (l : LongForm) : List Byte :=
  let (lo, cnt) := l.span
  let body := l.acc.v / ((2 ^ (64 * lo) : Nat) : Int)
  [BitVec.ofNat 8 l.cls.code, BitVec.ofNat 8 l.acc.side.toNat, BitVec.ofNat 8 lo, BitVec.ofNat 8 cnt, 0, 0, 0, 0]
    ++ leBytes (8 * cnt) (toUnsigned (64 * cnt) body)

/-- The long form in a memory slot: bytes past the last bucket are 0 (R89). -/
def LongForm.slot (l : LongForm) : List Byte :=
  let p := l.pack
  p ++ List.replicate (l.cls.slotBytes - p.length) 0

/-- A long form read from its bytes; none where it is malformed (R88). -/
def LongForm.parse (bs : List Byte) : Option LongForm :=
  match AccClass.ofCode (bs.getD 0 0).toNat with
  | none => none
  | some c =>
    let side : Side := BitVec.ofNat 7 (bs.getD 1 0).toNat
    let lo := (bs.getD 2 0).toNat
    let cnt := (bs.getD 3 0).toNat
    if cnt = 0 then (if lo = 0 then some ⟨c, ⟨0, side⟩⟩ else none)
    else if lo + cnt - 1 < c.buckets then
      let raw := leNat ((bs.drop 8).take (8 * cnt))
      some ⟨c, ⟨toSigned (64 * cnt) raw * ((2 ^ (64 * lo) : Nat) : Int), side⟩⟩
    else none

/-- What an adder outside a core takes a malformed long form for (R90). -/
def LongForm.malformed (bs : List Byte) : LongForm :=
  ⟨(AccClass.ofCode (bs.getD 0 0).toNat).getD .d, ⟨0, SideBit.nan ||| SideBit.inv⟩⟩

/-- The long form an adder outside a core uses, and whether LF_FORM is set (R90). -/
def LongForm.read (bs : List Byte) : LongForm × Bool :=
  match LongForm.parse bs with
  | some l => (l, false)
  | none => (LongForm.malformed bs, true)

/-- The events of a long-form add, in the bit order of CTX.DRAIN_STATUS (R91, R101). -/
structure LfEvents where
  cls : Bool := false
  range : Bool := false
  form : Bool := false
deriving DecidableEq, Repr

/-- The number LF_CLASS, LF_RANGE and LF_FORM make in CTX.DRAIN_STATUS [5:3] (R101). -/
def LfEvents.toStatus (e : LfEvents) : Nat :=
  (if e.cls then 8 else 0) + (if e.range then 16 else 0) + (if e.form then 32 else 0)

def AccClass.max (a b : AccClass) : AccClass := if a.code ≤ b.code then b else a

/-- A long form's V in units of another class's grid weight; only used between equal classes or where V is 0. -/
def LongForm.add (a b : LongForm) : LongForm × LfEvents :=
  let c := a.cls.max b.cls
  let differ := decide (a.cls ≠ b.cls)
  let side := a.acc.side ||| b.acc.side ||| (if differ then SideBit.nan ||| SideBit.inv else 0)
  if Side.has side SideBit.nan then (⟨c, ⟨0, side⟩⟩, { cls := differ })
  else
    let t := a.acc.v + b.acc.v
    (⟨c, ⟨c.wrap t, side⟩⟩, { range := decide (c.wrap t ≠ t) })

/-- What stops a load of a long form into a slot (R92). -/
inductive LoadFail where
  | malformed | capacity
deriving DecidableEq, Repr

/-- The checks of a load of one long form into an accumulator slot of class c whose count is cnt (R92). -/
def loadCheck (c : AccClass) (cnt : Nat) (l : LongForm) : Option LoadFail :=
  if l.cls ≠ c then some .malformed
  else if 2 ^ (c.bits - 2) ≤ l.acc.v.natAbs ∨ c.capacity < cnt + c.capacity / 2 then some .capacity
  else none

/-- The load itself (R92). -/
def Acc.load (acc : Acc) (l : LongForm) : Acc :=
  { v := acc.v + l.acc.v, side := acc.side ||| l.acc.side }

/-- The exact result of a sum and whether IV is raised (R80, R81, R83). `bias` is a bias element, already read under
the subnormal mode, with its scale. -/
def exactResult (rm : Rm) (c : AccClass) (acc : Acc) (bias : Option (Val × Val)) : Val × Bool :=
  let side := match bias with
    | some (b, sc) => acc.side ||| termSide false b sc
    | none => acc.side
  if Side.has side SideBit.nan then (.nan false, Side.has side SideBit.inv)
  else if Side.has side SideBit.pinf && Side.has side SideBit.ninf then (.nan false, true)
  else if Side.has side SideBit.pinf then (.inf false, false)
  else if Side.has side SideBit.ninf then (.inf true, false)
  else
    let v : Val := .num (decide (acc.v < 0)) acc.v.natAbs c.grid false
    let t : Val := match bias with
      | some (b, sc) => Val.add .rne v (b.mul sc)
      | none => v
    match t with
    | .num n m e st =>
      if m = 0 then
        let neg :=
          if !Side.has side SideBit.any || !Side.has side SideBit.notPosZ then false
          else if !Side.has side SideBit.notNegZ then true
          else decide (rm = .rdn)
        (Val.zero neg, false)
      else (.num n m e st, false)
    | w => (w, false)

/-- A bias element of a drain: its format, encoding and binary32 scale (R83). -/
structure Bias where
  fmt : Format
  bits : Nat
  scale : Nat
deriving DecidableEq, Repr

/-- The bias element's value after flushing under R57, its scale's, and the FLUSH event. -/
def Bias.read (b : Bias) (env : RoundEnv) : (Val × Val) × FpFlags :=
  let (v, fl) := b.fmt.read env b.bits
  ((v, Format.fp32.decode b.scale), fl)

/-- Steps 1 to 3 of the drain of one element (R82). The IV that R52 raises once per operation is in the result's
flags, which are ORed (R62). -/
def drainElement (dst : Format) (env : RoundEnv) (scale : Val) (bias : Option Bias) (l : LongForm) : Rounded :=
  let (b, bfl) := match bias with
    | some b => let (x, fl) := b.read env; (some x, fl)
    | none => (none, FpFlags.none)
  let (x, iv) := exactResult env.rm l.cls l.acc b
  let (y, iv') := applyScale x scale
  let r := dst.round env true y
  { r with flags := (r.flags.or bfl).or { iv := iv || iv' } }

/-- The kinds of a blot record (R94): 0 none, 1 NaN, 2 +inf, 3 -inf. -/
def Cls.kind : Cls → Nat
  | .nan => 1
  | .pinf => 2
  | .ninf => 3
  | _ => 0

/-- The value study's bin of a class (R96). -/
def Cls.bin (c : Cls) (base : Int) (width : Nat) : Nat :=
  match c with
  | .zero => 64
  | .sub => 65
  | .pinf | .ninf => 66
  | .nan => 67
  | .normal e => (min (max ((e - base) / (width : Int)) 0) 63).toNat

/-- A tile's blot record and value study (R94, R96): the first special element's linear index and kind, the number of
special elements, and the nonzero bin counts by bin. -/
structure TileRecord where
  first : Option (Nat × Nat) := none
  specials : Nat := 0
  bins : List (Nat × Nat) := []
deriving DecidableEq, Repr

/-- A bin's count raised by k. -/
def bumpBin (bins : List (Nat × Nat)) (b k : Nat) : List (Nat × Nat) :=
  match bins with
  | [] => [(b, k)]
  | (i, c) :: rest => if i = b then (i, c + k) :: rest else (i, c) :: bumpBin rest b k

/-- The lower-index blot entry; at equal index the higher kind (R95). -/
def firstSpecial (a b : Option (Nat × Nat)) : Option (Nat × Nat) :=
  match a, b with
  | none, x => x
  | x, none => x
  | some (i, k), some (j, l) => if i < j then some (i, k) else if j < i then some (j, l) else some (i, max k l)

/-- One classified element joins its tile's records (R82 step 4). -/
def TileRecord.element (t : TileRecord) (base : Int) (width : Nat) (index : Nat) (c : Cls) : TileRecord :=
  { first := if c.kind = 0 then t.first else firstSpecial t.first (some (index, c.kind)),
    specials := t.specials + (if c.kind = 0 then 0 else 1),
    bins := bumpBin t.bins (c.bin base width) 1 }

end Sys2Proof.Machine
end

