-- ==== Sys2Proof/Machine/Maps.lean ====
section
/-! DEFINITION. Sparse maps as lists of key and value pairs in one canonical form: keys strictly rising. Memory, the
register store and every table of the state are such maps. -/

namespace Sys2Proof.Machine

/-- A sparse map: keys strictly rising. -/
abbrev NMap (α : Type) := List (Nat × α)

/-- The value at a key. -/
def NMap.get? {α : Type} : NMap α → Nat → Option α
  | [], _ => none
  | (k, v) :: m, i => if k = i then some v else NMap.get? m i

/-- The value at a key, d where the map lists none. -/
def NMap.getD {α : Type} (m : NMap α) (i : Nat) (d : α) : α := (m.get? i).getD d

/-- The map with the key's entry replaced or inserted in its place. -/
def NMap.set {α : Type} : NMap α → Nat → α → NMap α
  | [], i, a => [(i, a)]
  | (k, v) :: m, i, a =>
    if k = i then (i, a) :: m
    else if i < k then (i, a) :: (k, v) :: m
    else (k, v) :: NMap.set m i a

/-- The map without the key's entry. -/
def NMap.del {α : Type} (m : NMap α) (i : Nat) : NMap α := m.filter (fun e => decide (e.1 ≠ i))

/-- The map with the key at v, where unlisted keys read d: writing d removes the entry. -/
def NMap.put {α : Type} [DecidableEq α] (d : α) (m : NMap α) (i : Nat) (v : α) : NMap α :=
  if v = d then m.del i else m.set i v

/-- Is the key listed? -/
def NMap.has {α : Type} (m : NMap α) (i : Nat) : Bool := (m.get? i).isSome

/-- The keys, rising. -/
def NMap.keys {α : Type} (m : NMap α) : List Nat := m.map Prod.fst

/-- The entries whose key satisfies a test. -/
def NMap.keep {α : Type} (m : NMap α) (p : Nat → Bool) : NMap α := m.filter (fun e => p e.1)

/-- The entry at a key changed by a function, where there is one. -/
def NMap.adjust {α : Type} (m : NMap α) (i : Nat) (f : α → α) : NMap α :=
  match m.get? i with
  | some a => m.set i (f a)
  | none => m

/-- Every key above a bound and the keys strictly rising. -/
def NMap.sortedFrom {α : Type} : Nat → NMap α → Bool
  | _, [] => true
  | b, (k, _) :: m => decide (b ≤ k) && NMap.sortedFrom (k + 1) m

/-- The canonical form: keys strictly rising. -/
def NMap.wf {α : Type} (m : NMap α) : Bool := NMap.sortedFrom 0 m

/-- The canonical form of a map whose unlisted keys read d: no entry equals d. -/
def NMap.wfD {α : Type} [DecidableEq α] (d : α) (m : NMap α) : Bool :=
  m.wf && m.all (fun e => decide (e.2 ≠ d))

/-- The first free key from i, among n. -/
def NMap.freeFrom {α : Type} (m : NMap α) : Nat → Nat → Option Nat
  | 0, _ => none
  | n + 1, i => if m.has i then NMap.freeFrom m n (i + 1) else some i

/-- An element placed in a sorted list before the first element it may precede. -/
def placeBy {α : Type} (le : α → α → Bool) (a : α) : List α → List α
  | [] => [a]
  | b :: l => if le a b then a :: b :: l else b :: placeBy le a l

/-- A list sorted stably. -/
def sortBy {α : Type} (le : α → α → Bool) (l : List α) : List α := l.foldr (placeBy le) []

end Sys2Proof.Machine
end

