-- ==== Sys2Proof/Machine/CoreState.lean ====
section
/-! DEFINITION. The state of a compute core, of a task and of the counters as types: what 04 to 08 give
(R102, R122 to R131, R204, R205, R213, R223, R233 to R237, R255). -/

namespace Sys2Proof.Machine

/-- What a parked thread does when the phase it waits for completes (R214): go on; or, for an instruction that met a
phase already holding its arrival, record the arrival in the new phase and wait there (`bar.sync`) or go on
(`bar.arrive`). -/
inductive AfterPhase where
  | goOn | rearriveSync | rearriveArrive
deriving DecidableEq, Repr

/-- The state of a thread (R205, R209, R213, R215). -/
inductive TStat where
  | run
  | exited
  | barrier (n : Nat) (after : AfterPhase)
  | held
  | counter
deriving DecidableEq, Repr

/-- The state of a group, with the codes of the group table of the save area (R204). -/
inductive GState where
  | live | held | faulted | stopped
deriving DecidableEq, Repr

/-- What a pending wait or claim names (R201): a counter of the core, or a region counter. -/
inductive CtrRef where
  | core (c : Nat)
  | region (r i : Nat)
deriving DecidableEq, Repr

/-- What an engine of a core waits on (R332): the fault record (region and number), and the DETAIL and the address that a fault
would carry. -/
structure EngStall where
  region : Nat
  seq : Nat
  detail : Nat
  va : Nat
deriving DecidableEq, Repr

/-- A pending wait or claim of a group (R241 to R244). `arrived` says that it has reached its arbiter; `order` is its
order of arrival there; `lanes` is the mask of the issuing set, `len` the instruction's length and `pred` the result predicate. -/
structure CtrWait where
  ref : CtrRef
  len : Nat
  claim : Bool
  target : Nat
  deadline : Option Nat
  lanes : Nat
  pred : Nat
  arrived : Bool := false
  order : Nat := 0
deriving DecidableEq, Repr

/-- A group of 32 threads (R123, R125, R204). `v` is keyed lane × 256 + register and `u` by uniform register;
unlisted registers hold zero (R128). `arr` is keyed by barrier: the mask of the lanes that have arrived in its current
phase (R213). `events` counts its journalled events (R423); `fence` is the unfinished fence it waits for (0 fence.wg, 1 fence.part,
2 fence.remote, 3 fence.global, R229, R249) and the first number that is not before it; `hostWrote` says that a write of it to host
memory has left the core and no fence has flushed it; `stall` says that it waits for room in the sketchbook's buffer (R426);
`fetchWait` is the translation fault record that its instruction fetch waits for (R332). -/
structure Group where
  slot : Nat
  num : Nat
  gstate : GState := .live
  pcs : List Word
  stats : List TStat
  preds : List Nat
  v : NMap Word32 := []
  u : NMap Word := []
  arr : NMap Nat := []
  wait : Option CtrWait := none
  readySteps : Nat := 0
  passed : NMap Nat := []
  events : Nat := 0
  fence : Option (Nat × Nat) := none
  hostWrote : Bool := false
  stall : Bool := false
  fetchWait : Option EngStall := none
deriving DecidableEq, Repr

/-- A resident workgroup: its linear index and the phase bits of its sixteen barriers (R204, R213). -/
structure WgSlot where
  linear : Nat
  phases : Nat := 0
deriving DecidableEq, Repr

/-- An accumulator slot: the count of R75 and the outputs that are not clear, keyed i × columns + j. -/
structure AccSlot where
  count : Nat := 0
  outs : NMap Acc := []
deriving DecidableEq, Repr

/-- Where a queued matrix instruction's operand tile comes from (R110, R111): its shared offset, or the bytes of the
register tile as they were at issue, keyed by byte. -/
inductive Tile where
  | slm (offset : Nat)
  | regs (bytes : NMap Byte)
deriving DecidableEq, Repr

/-- A drain as it was issued (R195, R196). -/
structure DrainOp where
  slot : Nat
  lf : Bool
  toGlobal : Bool
  clear : Bool
  fmt : Format
  bias : Nat
  biasFmt : Format
  blotRet : Option Nat
  env : RoundEnv
  seed : Word
  outAddr : Nat
  pitch : Nat
  rows : Nat
  cols : Nat
  row0 : Nat
  col0 : Nat
  tcols : Nat
  tensorId : Nat
  scales : List Word32
  biasScale : Nat
  biasAddr : Nat
  recAddr : Nat
  recCtl : Nat
deriving DecidableEq, Repr

/-- A matrix-unit instruction (R113). -/
inductive MxOp where
  | mma (slot kValid : Nat) (fa fb : Format) (ta tb : Tile) (flushIn : Bool)
  | ldlf (slot offset : Nat)
  | drain (d : DrainOp)
deriving DecidableEq, Repr

/-- An entry of the matrix queue: its number in issue order, its context and task, the issuing group's position and pc, and the
instruction. -/
structure MxEntry where
  id : Nat
  ctx : Nat
  task : Nat
  pos : Nat
  pc : Word
  op : MxOp
deriving DecidableEq, Repr

/-- A tile-mover descriptor as it was accepted (R188), with its number in issue order and the issuing group's position and
pc. -/
structure TmDesc where
  id : Nat
  pos : Nat
  pc : Word
  lanes : Nat
  va : Word
  rows : Nat
  cols : Nat
  origRow : Int
  origCol : Int
  pitch : Nat
  slm : Nat
  tileRows : Nat
  tileCols : Nat
  slmPitch : Nat
  fmt : Format
  transpose : Bool
  toMem : Bool
  mcast : Nat
  counter : Nat
  signal : Bool
deriving DecidableEq, Repr

/-- One register write of a load or an atomic's return: lane (32 for a uniform destination), register, value. -/
structure RegWrite where
  lane : Nat
  reg : Nat
  val : Nat
deriving DecidableEq, Repr

/-- A deferred fault that has been detected and not yet taken (R144, R145). -/
structure PendFault where
  pos : Nat
  pc : Word
  lanes : Nat
  code : Nat
  detail : Nat
  addr : Word
deriving DecidableEq, Repr

/-- The integer atomics (R182). -/
inductive AtomOp where
  | add | min | max | and | or | xor | exch | cas
deriving DecidableEq, Repr

/-- What a memory instruction does at its addresses (R182). -/
inductive MemKind where
  | load | store
  | atomic (op : AtomOp)
  | exact
  | longForm
deriving DecidableEq, Repr

/-- One lane's access: its address and its data: B, and C of a compare-and-exchange; of a long-form add, the source's bytes as a
number and how many they are (lane 32 acts for the group). -/
structure LaneAcc where
  lane : Nat
  addr : Word
  data : Nat
  cmp : Nat
deriving DecidableEq, Repr

/-- A memory instruction as it was issued (R182 to R185): `dest` is its destination register, `uni` says that the
register is uniform. -/
structure MemOp where
  kind : MemKind
  lanes : List LaneAcc
  size : Nat
  signed : Bool
  hint : Nat
  uni : Bool
  dest : Option Nat
  pos : Nat
  pc : Word
  mask : Nat
deriving DecidableEq, Repr

/-- The lines a .ca load fetches: line number, its 128 bytes and its poison marks (R223). -/
structure NcLine where
  line : Nat
  data : List Byte
  poison : Nat
deriving DecidableEq, Repr

/-- A set of the near cache: eight ways and the seven bits of its pseudo-LRU tree (R223). -/
structure NcSet where
  ways : NMap NcLine := []
  plru : Nat := 0
deriving DecidableEq, Repr

/-- What one outstanding memory transaction of a core is (R134, R257): data on its way back to registers; an exact-cell
add or a long-form add on its way to its home agent; an access that a translation fault record or an earlier access to the same
bytes holds back; an access to the host window, with the function and host bus address it goes out under and its number among its
group's journalled events; or the flushing read of a fence (R249). -/
inductive TxnKind where
  | load (writes : List RegWrite) (uni : Bool) (fills : List NcLine)
  | exact (pa : Nat) (addend : Nat) (dest : Option (Nat × Nat)) (va : Word)
  | longForm (pieces : List (Nat × Nat)) (src : List Byte) (va : Word)
  | stalled (op : MemOp) (seq : Option Nat)
  | host (op : MemOp) (fn bus pa n : Nat)
  | flush
deriving DecidableEq, Repr

/-- An outstanding memory transaction: its number in issue order, its group's position, pc and mask, the lines an
atomic keeps out of the near cache (R224), its context and its task, the entries it holds under the core bound (R257), and what
it is. -/
structure Txn where
  id : Nat
  ctx : Nat
  task : Nat
  pos : Nat
  pc : Word
  mask : Nat
  cost : Nat := 1
  atomLines : List Nat := []
  kind : TxnKind
deriving DecidableEq, Repr

/-- A counter: of a core or of a region (R233). -/
inductive CtrName where
  | core (c i : Nat)
  | region (r i : Nat)
deriving DecidableEq, Repr

/-- A counter operation between its issue and its arbiter (R241, R242). -/
inductive CtrOp where
  | add (val : Nat)
  | waitClaim
  | read (reg : Nat)
deriving DecidableEq, Repr

/-- An operation on its way to an arbiter: its number in issue order, the task and the group's position that issued it. -/
structure CtrFlight where
  id : Nat
  task : Nat
  pos : Nat
  ctr : CtrName
  op : CtrOp
deriving DecidableEq, Repr

/-- The state of one compute core. `ctrs` lists the counters that are not zero; `pend` is the pending-add store, keyed
by task and then by counter (R236); `idleSince` is the timebase at which the conditions of R255 began to hold. -/
structure CoreSt where
  task : Option Nat := none
  bound : List Nat := []
  slots : NMap WgSlot := []
  groups : NMap Group := []
  acc : NMap AccSlot := []
  slm : NMap Byte := []
  slmPoison : NMap Nat := []
  ctrs : NMap Nat := []
  pend : NMap (NMap Nat) := []
  nc : NMap NcSet := []
  txns : List Txn := []
  flights : List CtrFlight := []
  faults : List PendFault := []
  mxq : List MxEntry := []
  mxStall : Option EngStall := none
  tm0 : List TmDesc := []
  tm1 : List TmDesc := []
  tmStall : NMap EngStall := []
  nextId : Nat := 0
  retained : Bool := false
  idleSince : Option Nat := none
deriving DecidableEq, Repr

/-- The saved section of a core switched out of a context (R153, R154), and the remaining timeouts of its waits by
group position (R252). -/
structure SavedCore where
  core : CoreSt
  remaining : NMap Nat := []
deriving DecidableEq, Repr

/-- How a task stands (R124, R142). -/
inductive TaskPhase where
  | accepted | bound | running | switchedOut | ended
deriving DecidableEq, Repr

/-- The launch descriptor's fields (R137). -/
structure LaunchDesc where
  codeVa : Word
  argVa : Word
  gridX : Nat
  gridY : Nat
  gridZ : Nat
  groups : Nat
  regs : Nat
  slmKib : Nat
  layout : Nat
  slmZero : Bool
  coreMask : Nat
  argBytes : Nat
  clusterFirst : Nat
  clusterCount : Nat
  timeLimit : Nat
deriving DecidableEq, Repr

/-- A fault record's key and code, by which R150 selects the reported one. -/
structure FaultKey where
  wg : Nat
  group : Nat
  code : Nat
  record : Nat
deriving DecidableEq, Repr

/-- A task: the execution of a kernel launch (R123, R137 to R143). `records` lists the tensor records that its drains have
initialised (R97). The modes of R61, the fault policy (R151) and the
counter mode (R151) are those in force at its start. -/
structure Task where
  ctx : Nat
  queue : Nat
  tag : Nat
  part : Nat
  desc : LaunchDesc
  args : NMap Byte
  cores : List Nat
  accepted : Nat
  fpMode : Word
  seed : Word
  policy : Nat
  clearMode : Bool
  saveValid : Bool
  phase : TaskPhase := .accepted
  nextWg : Nat := 0
  endedWgs : Nat := 0
  begun : List Nat := []
  faulted : Bool := false
  timedOut : Bool := false
  reported : Option FaultKey := none
  heldGroups : Nat := 0
  records : List Nat := []
deriving DecidableEq, Repr

end Sys2Proof.Machine
end

