-- ==== Sys2Proof/Machine/MemState.lean ====
section
/-! DEFINITION. The state of the caches, of the home agents, of the stacks and of translation as types: what 09 to 11
give (R264 to R286, R289 to R310, R318, R331 to R336). -/

namespace Sys2Proof.Machine

/-- Sector states (R292). -/
inductive Sector where
  | i | s | e | o | m
deriving DecidableEq, Repr

/-- A line of a coherent agent: its number (physical address over 128), the states of its two sectors and the STREAM
mark (R264, R265). An application core's cache uses one line per 64-byte sector, in `s0`. -/
structure CacheLine where
  line : Nat
  s0 : Sector := .i
  s1 : Sector := .i
  stream : Bool := false
deriving DecidableEq, Repr

/-- A set of a coherent agent's cache: its ways and its pseudo-LRU tree (R266). -/
structure CacheSet where
  ways : NMap CacheLine := []
  plru : Nat := 0
deriving DecidableEq, Repr

/-- A streaming-store detector: the last line written whole and the count of consecutive ones (R267). -/
structure Detector where
  last : Nat
  count : Nat
deriving DecidableEq, Repr

/-- A line evicted from a canvas L2 and offered to its home region's victim cache (R268): which sectors are valid and
which are dirty. -/
structure Victim where
  line : Nat
  valid : Nat
  dirty : Nat
  stream : Bool
deriving DecidableEq, Repr

/-- A canvas L2 (R264 to R268). `sets` is keyed bank × 1024 + set and `lfsr` by bank, 0xACE1 where unlisted; `detectors`
is keyed by global core; `offers` are the evicted lines on their way to region SRAM, oldest first. -/
structure CanvasL2 where
  sets : NMap CacheSet := []
  lfsr : NMap Nat := []
  detectors : NMap Detector := []
  offers : List Victim := []
deriving DecidableEq, Repr

/-- A home's view of a sector in a mirror (R304). -/
inductive MirrorView where
  | notHeld | s | owner
deriving DecidableEq, Repr

/-- A way of a mirror set: a line number and the view of each of its sectors (R304). -/
structure MirrorWay where
  line : Nat
  v0 : MirrorView
  v1 : MirrorView
deriving DecidableEq, Repr

/-- A mirror set: its ways and its untracked mark (R304, R305). -/
structure MirrorSet where
  ways : NMap MirrorWay := []
  mark : Bool := false
deriving DecidableEq, Repr

/-- The requests agents send (R293). -/
inductive CohKind where
  | readShared | readUnique | readUniqueNoData | upgrade | cleanEvict | writeBack
deriving DecidableEq, Repr

/-- A request waiting at a home because its sector is busy (R296). -/
structure CohWait where
  sector : Nat
  agent : Nat
  kind : CohKind
deriving DecidableEq, Repr

/-- The coherence state of the device: application core caches keyed by agent × 1024 + set; mirrors keyed
(home × 128 + agent) × 32768 + set; the sectors with an unacknowledged grant and to whom; the requests that wait for
them, oldest first; agents declared dead and those whose lines are being reclaimed; and writebacks in flight (R299). -/
structure Coherence where
  appSets : NMap CacheSet := []
  mirrors : NMap MirrorSet := []
  busy : List (Nat × Nat) := []
  waiting : List CohWait := []
  dead : List Nat := []
  reclaiming : List Nat := []
  writebacks : List (Nat × Nat × Sector) := []
deriving DecidableEq, Repr

/-- A victim-cache line of region SRAM: which sectors are valid and which dirty (R271). -/
structure VcLine where
  line : Nat
  valid : Nat
  dirty : Nat
deriving DecidableEq, Repr

/-- A split change in progress (R273): the S it moves to. -/
structure Split where
  target : Nat
deriving DecidableEq, Repr

/-- Region SRAM (R270 to R273): the victim cache keyed set × 16 + way, its shift register, and the split change in progress. -/
structure RegionSram where
  vc : NMap VcLine := []
  lfsr : Nat := 0xACE1
  split : Option Split := none
deriving DecidableEq, Repr

/-- A channel controller (R277, R283): the writes it holds (fine block and arrival time), its bus direction, the
fine blocks of its atomic buffer, most recently used first, and the row open in each bank, keyed by pseudo-channel, stack
identifier and bank. -/
structure Channel where
  writes : List (Nat × Nat) := []
  busWrite : Bool := false
  atomBuf : List Nat := []
  rows : NMap Nat := []
deriving DecidableEq, Repr

/-- What a stack controller keeps beside its registers (R285, R286): since when it is restricted and since when its level is
not 0. -/
structure StackSt where
  restrictedSince : Option Nat := none
  throttledSince : Option Nat := none
  offline : Bool := false
deriving DecidableEq, Repr

/-- A cached translation (R318): its context, virtual page base, page size as a power of two, physical base and
permissions. -/
structure TlbEntry where
  ctx : Nat
  vbase : Nat
  log2 : Nat
  pbase : Nat
  r : Bool
  w : Bool
  x : Bool
  prefetched : Bool := false
deriving DecidableEq, Repr

/-- A record of a region's translation fault ring (R333, R336). -/
structure XfrRec where
  seq : Nat
  ctx : Nat
  cause : Nat
  access : Nat
  va : Word
  level : Nat
  format : Nat
  engines : Nat
  kind : Nat
  core : Nat
  entry : Word
  time : Nat
  queue : Nat
  tag : Nat
  published : Bool := false
  inOpen : Bool := true
deriving DecidableEq, Repr

/-- A region's fault ring: its unresolved records, oldest first, the opening time of its open batch, and the number of
records created (R334). -/
structure XfrRing where
  recs : List XfrRec := []
  opened : Option Nat := none
  created : Nat := 0
deriving DecidableEq, Repr

/-- What a merge into a tensor record carries (R95, R97, R99): which parts are kept, the study's base and width, the tensor
identifier, the columns of the output's index, and the tile's records. -/
structure MergeInfo where
  keepBlot : Bool
  keepStudy : Bool
  base : Nat
  width : Nat
  tensorId : Nat
  cols : Nat
  tile : TileRecord
deriving DecidableEq, Repr

/-- A tile's records on their way to the tensor record at its home agent (R95, R99): the context and task, and the record's 512
bytes as pieces of physical memory (address, length). -/
structure Merge where
  ctx : Nat
  task : Nat
  pieces : List (Nat × Nat)
  info : MergeInfo
deriving DecidableEq, Repr

/-- A page the pool has handed out (R278, R279): its size as a power of two and the context. -/
structure PoolPage where
  log2 : Nat
  ctx : Nat
deriving DecidableEq, Repr

end Sys2Proof.Machine
end

