-- ==== Sys2Proof/Machine/HostState.lean ====
section
/-! DEFINITION. The state of the host interface and of the queues as types: what 12 gives (R344, R347 to R365). -/

namespace Sys2Proof.Machine

/-- How far an accepted command has come (R350, R353): accepted and not started; running; ended with a status and
its result; its record discarded (R350, R361). -/
inductive CmdPhase where
  | accepted | running | done
deriving DecidableEq, Repr

/-- A command that a queue has accepted and not yet recorded (R349 to R353). `seq` counts the queue's commands;
`header` is the 64-byte header entry and `inlineData` its continuation data; `chunksDone` lists the chunks that a data mover has
moved, `task` is the kernel's task, `stalled` the fault record (region, seq) it waits for. -/
structure Cmd where
  seq : Nat
  header : List Byte
  inlineData : List Byte
  phase : CmdPhase := .accepted
  status : Nat := 0
  faultCode : Nat := 0
  result : Nat := 0
  task : Option Nat := none
  chunksDone : List Nat := []
  deadline : Option Nat := none
  waiting : Bool := false
  hostWait : Bool := false
  noRecord : Bool := false
  stalled : Option (Nat × Nat) := none
deriving DecidableEq, Repr

/-- A completion record held while the session is detached (R362). -/
structure HeldRecord where
  seq : Nat
  tag : Nat
  status : Nat
  fault : Nat
  result : Nat
deriving DecidableEq, Repr

/-- A queue pair beside its registers: the doorbells' values, the commands in flight oldest first, the next command's
number, the records held while detached, and the records discarded after a ring failed (R347 to R350, R362). -/
structure QueueSt where
  sqTail : Nat := 0
  cqHead : Nat := 0
  cmds : List Cmd := []
  nextSeq : Nat := 0
  held : List HeldRecord := []
  ringFailed : Bool := false
  ringStall : Option (Nat × Nat) := none
deriving DecidableEq, Repr

/-- A host access to memory through a BAR that waits through the handshake (R344): its number, its function, the context that it
carries, none for the platform tag, its physical address and length, its time of arrival, and for a write its bytes and whether they are
poisoned. -/
structure BarRead where
  id : Nat
  fn : Nat
  ctx : Option Nat
  addr : Nat
  len : Nat
  time : Nat
  write : Option (List Byte × Bool) := none
deriving DecidableEq, Repr

/-- The session beside HIF.SESSION (R363 to R365): the token issued, which halves and SPDM have taken it, the halves
presented, the end of a lockout, the time of the last KICK, and an ATTACH_FRESH that waits for a root (R461). -/
structure Session where
  token : Option Nat := none
  loRead : Bool := false
  hiRead : Bool := false
  spdmRead : Bool := false
  presentLo : Nat := 0
  presentHi : Nat := 0
  lockoutEnd : Option Nat := none
  lastKick : Nat := 0
  attachWaits : Bool := false
deriving DecidableEq, Repr

end Sys2Proof.Machine
end

