-- ==== Sys2Proof/Machine/NetState.lean ====
section
/-! DEFINITION. Packets and the state of the ports, the job slots, the connections and the collectives as types: what 13
gives (R376 to R414). -/

namespace Sys2Proof.Machine

/-- RoCE v2 packets of the subset (R385). The counter add of a command with SIGNAL (R387), and an RDMA_CNT_ADD, ride on
a write packet as (REMOTE_REF, VALUE). -/
inductive RoceOp where
  | write (last : Bool) (va : Nat) (data : List Byte) (signal : Option (Nat × Nat))
  | readRequest (va len : Nat)
  | readResponse (data : List Byte)
  | acknowledge
  | nakSequence
  | nakRnr
  | nakAccess (unmapped : Bool)
  | nakOperation
  | cnp
deriving DecidableEq, Repr

/-- What every DATA and RECORD packet of a collective carries for checking (R400). -/
structure CollShape where
  subop : Nat
  elems : Nat
  fmt : Nat
  inLf : Bool
  scale : Nat
  first : Nat
  count : Nat
  stride : Nat
deriving DecidableEq, Repr

/-- The payload of a PREPARE (R405). -/
structure PrepareInfo where
  ranks : Nat
  digest : Nat
  holdMs : Nat
deriving DecidableEq, Repr

/-- A subtree result (R405): ranks counted good, ranks counted failed, the eight lowest failed ranks. -/
structure SubtreeResult where
  good : Nat := 0
  failed : Nat := 0
  lowest : List Nat := []
deriving DecidableEq, Repr

/-- Fletus messages by type (R395). A DATA packet carries its collective's identifier and generation, the sender's shape for
checking, and whole elements; `ended` carries the status of a collective that has ended on a disagreement. -/
inductive FletusMsg where
  | data (coll use : Nat) (shape : CollShape) (first count : Nat) (native : Bool) (fmt : Nat) (payload : List Byte)
      (ended : Option Nat)
  | ack
  | nack
  | prepare (p : PrepareInfo)
  | prepareAck (r : SubtreeResult)
  | arm
  | armAck (r : SubtreeResult)
  | abort
  | abortAck (r : SubtreeResult)
  | notPrepared
  | cmd (bytes : List Byte)
  | cmdDone (record : List Byte)
  | record (coll use : Nat) (shape : CollShape) (payload : List Byte)
deriving DecidableEq, Repr

/-- A Fletus packet: SEQ, ACK_SEQ, ECN_ECHO, RESTART and its message (R394). -/
structure FletusPkt where
  seq : Nat
  ackSeq : Nat
  echo : Bool
  restart : Bool
  msg : FletusMsg
deriving DecidableEq, Repr

/-- What a frame carries: a packet of a transport, a Neighbor Solicitation for an address (R380), or anything else. -/
inductive NetPkt where
  | roce (psn : Nat) (op : RoceOp)
  | fletus (p : FletusPkt)
  | solicit (pre : Word) (ident : Nat)
  | foreign
deriving DecidableEq, Repr

/-- The SecTAG of a received frame (R517, R518): SCI, AN, packet number, and whether its integrity check value holds. -/
structure SecTag where
  sci : Nat
  an : Nat
  pn : Nat
  icv : Bool
deriving DecidableEq, Repr

/-- A received frame: the port within its block, IPv6, the destination prefix and identifier and the source identifier
(R380), the UDP destination port, the priority, its length, the CE mark, and its packet. `fields` says that the packet's own checks hold: its
version, checksum or ICRC, partition key, queue-pair number and header fields against its addresses (R385, R394). -/
structure Frame where
  sub : Nat
  ipv6 : Bool
  dstPrefix : Word
  dstId : Nat
  srcId : Nat
  dport : Nat
  prio : Nat
  len : Nat
  ce : Bool
  fields : Bool
  tag : Option SecTag := none
  pkt : NetPkt
deriving DecidableEq, Repr

/-- A frame accepted into a port block's receive buffer and not yet taken by its transport (R379, R382): its slot and
source rank. -/
structure RxFrame where
  part : Nat
  slot : Nat
  src : Nat
  prio : Nat
  len : Nat
  ce : Bool
  pkt : NetPkt
deriving DecidableEq, Repr

/-- A frame that a port block sends (R380, R384): the port within it, the destination's prefix and next hop, the source and
destination identifiers, the UDP ports, DSCP and priority, and its packet. -/
structure TxFrame where
  sub : Nat
  pre : Word
  nextHop : Nat
  src : Nat
  dst : Nat
  sport : Nat
  dport : Nat
  dscp : Nat
  prio : Nat
  pkt : NetPkt
deriving DecidableEq, Repr

/-- A port block beside its registers: its receive buffer, the priorities on which it has sent XOFF, the priorities its peer has
paused, keyed by port of the block, the frames that wait for them, and the mask of its lanes that are up (R378, R379). -/
structure PortSt where
  rx : List RxFrame := []
  xoff : List Nat := []
  paused : NMap (List Nat) := []
  held : List TxFrame := []
  lanesUp : Nat := 0
deriving DecidableEq, Repr

/-- A packet sent and not acknowledged, with the command it belongs to. -/
structure SentPkt where
  seq : Nat
  pkt : NetPkt
  q : Nat
  cmd : Nat
deriving DecidableEq, Repr

/-- A command with packets to send: its queue, its number and the bytes sent so far. -/
structure SendWork where
  q : Nat
  cmd : Nat
  sent : Nat
deriving DecidableEq, Repr

/-- One direction pair of packets with one peer: a RoCE connection (R386 to R390) or a Fletus stream (R396). `rate` is in
thousandths of the port rate; `fault` is the fault record that its packets wait on and `failed` that the record was resolved by a
failure, unmapped or not (R388). -/
structure Flow where
  next : Nat := 0
  expect : Nat := 0
  unacked : List SentPkt := []
  work : List SendWork := []
  rxHeld : Nat := 0
  rxSince : Nat := 0
  rto : Option Nat := none
  lastSend : Nat := 0
  expiries : Nat := 0
  restart : Bool := false
  lastNack : Option Nat := none
  lastEcho : Option Nat := none
  rate : Nat := 1000
  lastCut : Option Nat := none
  lastRaise : Nat := 0
  rnrUntil : Option Nat := none
  fault : Option (Nat × Nat) := none
  failed : Option Bool := none
deriving DecidableEq, Repr

/-- A rank-table entry (R383). -/
structure RankEntry where
  pre : Word
  nextHop : Nat
  port : Nat
  valid : Bool
deriving DecidableEq, Repr

/-- Which message a launch round sends (R405, R407). -/
inductive RoundKind where
  | prepare | arm | abort
deriving DecidableEq, Repr

/-- A launch round at a rank (R405 to R407): the rank to answer, the children not yet settled and their deadlines, what has been
gathered, and the result of the PREPARE round where this is a later one. -/
structure LaunchRound where
  kind : RoundKind
  parent : Option Nat
  waiting : NMap Nat
  res : SubtreeResult := {}
  prep : SubtreeResult := {}
deriving DecidableEq, Repr

/-- A collective in progress (R398 to R402): its generation and shape, the root, the position of this participant and the command;
the rounding environment and the seed in force at its start; its sums or bit copies so far, keyed by element or by position × E +
element; the number of elements that have come from each position, the records of a record all-reduce, and the events so far. -/
structure Coll where
  use : Nat
  shape : CollShape
  root : Nat
  pos : Nat
  q : Nat
  cmd : Nat
  env : RoundEnv
  seed : Word
  sums : NMap LongForm := []
  copies : NMap Nat := []
  heard : NMap Nat := []
  records : List (List Byte) := []
  flags : FpFlags := {}
  drain : Nat := 0
deriving DecidableEq, Repr

/-- A packet held in a slot's collective buffer (R400). -/
structure HeldData where
  src : Nat
  msg : FletusMsg
deriving DecidableEq, Repr

/-- A remote command taken from a peer (R403): its number in the slot's queue of remote commands and its source rank. -/
structure RemoteCmd where
  seq : Nat
  src : Nat
deriving DecidableEq, Repr

/-- A REMOTE_OP that waits for its peer's record (R403): rank, queue, number and the tag of the sent command. -/
structure RemoteWait where
  rank : Nat
  q : Nat
  cmd : Nat
  tag : Nat
deriving DecidableEq, Repr

/-- A job slot beside its registers (R381, R386, R396, R402, R405, R408, R409): the loader's digest and hold time, the JOB_LOAD that
waits, the launch round, the JOB_TEARDOWN that waits and its limit, connections and streams by rank, collectives and generations by
COLL_ID, packets held for later collectives, and remote commands. `timedOut` marks a slot that its hold time made idle (R408). -/
structure JobSlot where
  digest : Nat := 0
  holdMs : Nat := 0
  launcher : Bool := false
  deadline : Nat := 0
  failVa : Nat := 0
  load : Option (Nat × Nat) := none
  round : Option LaunchRound := none
  teardown : Option (Nat × Nat × Nat) := none
  conns : NMap Flow := []
  streams : NMap Flow := []
  colls : NMap Coll := []
  gens : NMap Nat := []
  held : List HeldData := []
  remote : List RemoteCmd := []
  waits : List RemoteWait := []
  timedOut : Bool := false
deriving DecidableEq, Repr

/-- What the IEEE 1588 servo keeps: consecutive synchronisations within 100 ns and the time of the last (R411). -/
structure PtpSt where
  good : Nat := 0
  last : Nat := 0
deriving DecidableEq, Repr

end Sys2Proof.Machine
end

