-- ==== Sys2Proof/Machine/MgmtState.lean ====
section
/-! DEFINITION. The state of the sketchbook, of power and thermal control, of the firmware cores and module flash, of the
event logs, of security and management and of the module as types: what 14 to 19 give. -/

namespace Sys2Proof.Machine

/-- A journal entry: its header's fields and its payload (R422). -/
structure JEntry where
  kind : Nat
  digest : Bool
  ctx : Nat
  seq : Nat
  time : Nat
  source : Nat
  payload : List Byte
deriving DecidableEq, Repr

/-- A requested check (R430): its range and the commands, queue and number, whose records it waits for; in a replay, the
entry's number and the sum to compare with. -/
structure SkbCheck where
  addr : Nat
  len : Nat
  waits : List (Nat × Nat)
  expect : Option (Nat × Nat) := none
deriving DecidableEq, Repr

/-- A partition's sketchbook beside its registers (R426 to R435): the entry buffer, a check and a stop in progress; in
replay the keyed entries already used, the time of the last entry consumed, and the records written and not yet compared
by queue offset. -/
structure SkbSt where
  buf : List JEntry := []
  check : Option SkbCheck := none
  stopping : Bool := false
  used : List Nat := []
  lastUse : Nat := 0
  lastSeq : Nat := 0
  records : List (Nat × List Byte) := []
deriving DecidableEq, Repr

/-- A region's power report (R444): P_r and demand in mW, haze, and whether either emergency bit is set. -/
structure PwrReport where
  power : Nat := 0
  haze : Nat := 0
  demand : Nat := 0
  emergency : Bool := false
deriving DecidableEq, Repr

/-- A region's power control beside its registers (R443 to R452). `lowered` is by how many mV the operating voltage stands below VSET_MV; the counts are of
consecutive periods. -/
structure PwrRegion where
  hctl : Nat := 0
  thermal : Nat := 0
  lowered : Nat := 0
  railOn : Bool := false
  report : PwrReport := {}
  fresh : Bool := false
  missing : Nat := 0
  overAt512 : Nat := 0
  under256 : Nat := 0
  overBudget : Nat := 0
  energyRest : Nat := 0
deriving DecidableEq, Repr

/-- Power control of the device (R442, R450): the powers of the last periods in mW, newest first, and how far back the
window goes; when the 10 ms mean rose above 5,800 W and fell below 5,400 W; the start of the last period. -/
structure PwrSt where
  window : List Nat := []
  windowMs : Nat := 2000
  overSince : Option Nat := none
  underSince : Option Nat := none
  period : Nat := 0
  energyRest : Nat := 0
  volts : Nat := 0
  amps : Nat := 0
  inlet : Int := 0
  outlet : Int := 0
deriving DecidableEq, Repr

/-- An image of module flash as the checks see it (R468, R504): type, SVN, body length, the header's and the body's
digests, and the revocation word of a type 0 body. -/
structure ImageInfo where
  ty : Nat
  version : Nat := 0
  svn : Nat := 0
  header : Nat := 0
  revoke : Nat := 0
  slots : Nat := 0
deriving DecidableEq, Repr

/-- A firmware core beside its registers (R462, R463): its watchdog expiries within the last hour, and the time by which
a restart ends, and an image run without being in flash (R506). Cores are numbered 3 × region + type for types 0 to 2 and 16 + global cluster for type 3. -/
structure FwCore where
  expiries : List Nat := []
  restartAt : Option Nat := none
  recovery : Option ImageInfo := none
deriving DecidableEq, Repr

/-- A staging in progress (R470): the image, the bank it goes to, when the flash write ends, and whether it is part of a
PLDM update. -/
structure Staging where
  image : ImageInfo
  bank : Nat
  doneAt : Nat
  pldm : Bool
deriving DecidableEq, Repr

/-- An activation request in progress (R471 to R476): partitions still to do, first the one in hand; the types; the
quiesce limit in ms; its deadlines; the restarted cores that have not kicked; whether the
root's own security core is still to restart (R473). -/
structure Activation where
  parts : List Nat
  types : Nat
  quiesceMs : Nat
  quiesceEnd : Nat := 0
  confirmEnd : Nat := 0
  unkicked : List Nat := []
  rootLast : Bool := false
  pldm : Bool := false
deriving DecidableEq, Repr

/-- A staging or activation request waiting for a root (R461, R478): since when, which register's write it is, the word
written, and what the checks of the image would find. -/
structure FwWait where
  since : Nat
  stage : Bool
  word : Word
  digestOk : Bool := false
  signaturesOk : Bool := false
deriving DecidableEq, Repr

/-- An event record before it is laid out (R488). -/
structure EvRec where
  code : Nat
  flags : Nat
  region : Nat
  unit : Nat
  ctx : Nat
  time : Nat
  location : Nat
  detail : Nat
deriving DecidableEq, Repr

/-- A region's events beside its registers (R466, R488 to R490): the hardware event queue and the records kept before a
ring base is set, both oldest first; the count of records; the time of the last interrupt and whether one is deferred;
`counts` holds, per counted unit, the times of its counted events,
and `bursts` the time of each burst's last counted event. `rowsDue` lists the bursts whose rows have reached the threshold and
are to be retired. -/
structure EventSt where
  queue : List EvRec := []
  kept : List (Nat × EvRec) := []
  lastIrq : Option Nat := none
  deferred : Bool := false
  counts : NMap (List Nat) := []
  bursts : NMap Nat := []
  rowsDue : List Nat := []
deriving DecidableEq, Repr

/-- The policy of R514 as it is stored in the module settings. -/
structure Policy where
  requireIde : Nat := 0
  bmcCap : Nat := 1
  bmcKeys : Nat := 0
  bmcFwu : Nat := 1
deriving DecidableEq, Repr

/-- The calibration set (R498, R499): the set in force and the one that awaits a cold reset, each none for the set written
at manufacture, whose bytes the spec leaves open; unlisted bytes of a set are 0. -/
structure CalSet where
  inForce : Option (NMap Byte) := none
  pending : Option (NMap Byte) := none
  factory : Bool := true
deriving DecidableEq, Repr

/-- Module flash (R467): settings, calibration set, ageing record, repair record and stage record. `split`, `isolate`,
`lanes` are bit masks; `retired` holds PHYS_RETIRED by global cluster; `spared` the rows retired with a spare and
`unspared` those without; `withdrawn` the withdrawn pages by 64 KiB page number; `banks` the bits of BANKS by region;
`staged`, `minSvn` are keyed by type, `images` by 2 × type + bank; `armed` lists (partition, type). -/
structure Flash where
  mode : Nat := 0
  split : Nat := 0
  macs : NMap Nat := []
  policy : Policy := {}
  cal : CalSet := {}
  age : NMap Nat := []
  retired : NMap Nat := []
  spared : List Nat := []
  unspared : List Nat := []
  withdrawn : List Nat := []
  lanes : Nat := 0
  isolate : Nat := 0
  banks : NMap Nat := []
  images : NMap ImageInfo := []
  staged : NMap Nat := []
  minSvn : NMap Nat := []
  armed : List (Nat × Nat) := []
deriving DecidableEq, Repr

/-- A transport that carries SPDM, and MCTP's media (R509, R521). -/
inductive Medium where
  | doe | vdm | i3c
deriving DecidableEq, Repr

/-- What an SPDM responder keeps of a requester's negotiation on one transport (R509). -/
structure SpdmConn where
  version : Nat := 0
  caps : Bool := false
  algs : Bool := false
deriving DecidableEq, Repr

/-- A secured session (R509): its identifier, transport, whether FINISH has come, the count of key updates, and the time of
the last heartbeat. -/
structure SpdmSession where
  id : Nat
  medium : Medium
  finished : Bool := false
  updates : Nat := 0
  beat : Nat := 0
deriving DecidableEq, Repr

/-- A MACsec security association (R513, R518): `pn` is the next packet number to send, or the highest accepted plus one. -/
structure MacsecSa where
  suite : Nat
  sci : Nat
  ssci : Nat
  salt : Nat
  pn : Nat
  sak : Nat
deriving DecidableEq, Repr

/-- An IDE key set programmed for a stream (R515): the stream, the key set, the direction and sub-stream. -/
structure IdeKey where
  stream : Nat
  set : Nat
  sub : Nat
  go : Bool := false
deriving DecidableEq, Repr

/-- Security beside its registers (R509 to R520): `ctxKeys` numbers the key of each encrypted context, and `keyWaits` lists
the contexts whose key waits for a root. SAs are keyed ((port × 2 + direction) × 4 + AN) followed by the SCI. -/
structure SecSt where
  conns : NMap SpdmConn := []
  sessions : List SpdmSession := []
  nextSession : Nat := 1
  txSa : NMap MacsecSa := []
  rxSa : List (Nat × MacsecSa) := []
  ide : List IdeKey := []
  ctxKeys : NMap Nat := []
  nextKey : Nat := 1
  electionEnd : Option Nat := none
  keyWaits : List Nat := []
deriving DecidableEq, Repr

/-- A PLDM firmware update in progress (R524): the types in the table, and those transferred. -/
structure PldmUpdate where
  medium : Medium := .vdm
  table : List Nat := []
  done : List Nat := []
  current : Option Nat := none
deriving DecidableEq, Repr

/-- Management beside its registers (R521 to R528): endpoint identifiers and terminus identifiers, the I3C dynamic address,
the event receiver, the PLDM update, and the SYNC_MARK pulse: the end of a high pulse, and of the low gap after it. -/
structure MgtSt where
  eids : NMap Nat := []
  tid : Nat := 0
  i3cAddr : Option Nat := none
  receiver : Option (Medium × Nat) := none
  update : Option PldmUpdate := none
  pulseEnd : Option Nat := none
  gapEnd : Option Nat := none
deriving DecidableEq, Repr

/-- The module's pins, supply and reset progress (R531 to R547). -/
structure ModuleSt where
  mated : Bool := true
  precharged : Bool := true
  mainSwitch : Bool := true
  pwrEn : Bool := true
  pwrGood : Bool := false
  perst : Bool := true
  refclk : Bool := true
  straps : Nat := 0
  standby : Bool := false
  up : Bool := false
  linkTraining : Bool := false
  dead : Bool := false
deriving DecidableEq, Repr

end Sys2Proof.Machine
end

