-- ==== Sys2Proof/Machine/Commands.lean ====
section
/-! DEFINITION. The operands of the commands: who makes a register access, a Kwaok instruction with the group and the lane
that name its set, host answers, and the measurements and test results that reach the device from outside. -/

namespace Sys2Proof.Machine

/-- Who makes a register access: a PCI Express function, 0 the physical function; an application core, and whether its
software runs in M mode; or a compute core. -/
inductive Origin where
  | fn (v : Nat)
  | app (hart : Nat) (mmode : Bool)
  | core (c : Nat)
deriving DecidableEq, Repr

/-- A register access: its offset from 0x0F00_0000_0000, its size in bytes and the value written (R18). -/
structure Access where
  origin : Origin
  addr : Nat
  size : Nat
  value : Word
deriving DecidableEq, Repr

/-- A Kwaok instruction at issue: the core, the group's position, a lane of the set that issues it, and the fields of its
base word and its extension word (R162 to R166). A word whose class or opcode is reserved names no instruction: it is handed over as a NOP
with `reserved` the bit position of that field, 0 for the class and 4 for the opcode. -/
structure Issue where
  core : Nat
  pos : Nat
  lane : Nat
  gp : Nat := 7
  gn : Bool := false
  d : Nat := 0
  a : Nat := 0
  b : Nat := 0
  c : Nat := 0
  mod : Nat := 0
  ext : Option Word := none
  reserved : Option Nat := none
deriving DecidableEq, Repr

/-- What the host answers to a read: the bytes, or a failure of the host (R352, R358). -/
inductive HostAns where
  | ok (bytes : List Byte)
  | error
deriving DecidableEq, Repr

/-- The parts of a block-level fault (R29). -/
inductive BlockPart where
  | cluster (k : Nat)
  | stack (s : Nat)
  | port (b : Nat)
deriving DecidableEq, Repr

/-- What a self-test and a boot find (R503 to R507, R543): images that fail verification, keyed region × 16 + 2 × type +
bank; regions whose stage record's MAC fails; compute cores that fail, as (cluster, slot); bond channels that fail per
canvas; seams that fail; regions with an unrepairable array and its event code; stacks that fail training; firmware cores
that fail; the lanes that do not train at a cold reset; the strap value. Everything unlisted passes. -/
structure SelfTest where
  badImages : List Nat := []
  badMac : List Nat := []
  badSlots : List (Nat × Nat) := []
  badBonds : NMap Nat := []
  badSeams : List Nat := []
  badArrays : List (Nat × Nat) := []
  badStacks : List Nat := []
  badFirmware : List Nat := []
  badLanes : List Nat := []
  straps : Nat := 0
deriving DecidableEq, Repr

/-- What a register write that starts a test meets outside the registers: the findings of a self-test and boot, whether a staged image's
digest and signatures hold (R470), and whether an imported calibration set's values are in their ranges (R499). -/
structure WriteEnv where
  test : SelfTest := {}
  digestOk : Bool := true
  signaturesOk : Bool := true
  rangesOk : Bool := true
deriving DecidableEq, Repr

/-- The measurements of one power period (R441): the module's input and the four regions in mW, and the input monitor. -/
structure PowerSample where
  input : Nat
  regions : List Nat
  volts : Nat := 0
  amps : Nat := 0
  inlet : Int := 0
  outlet : Int := 0
deriving DecidableEq, Repr

/-- A host access through a BAR (R341 to R344): the requester identifier, the function, the BAR (0, 2 or 4 for its first register), the
offset, the length, whether it writes, the data, whether it came on an IDE stream in the Secure state, whether it is poisoned, and
what a write that starts a test meets. -/
structure BarReq where
  rid : Nat
  fn : Nat
  bar : Nat
  off : Nat
  len : Nat
  write : Bool
  data : List Byte
  ide : Bool := false
  poisoned : Bool := false
  env : WriteEnv := {}
deriving DecidableEq, Repr

/-- A secured request's channel (R513): its medium and session. -/
structure SpdmChan where
  medium : Medium
  session : Option Nat
deriving DecidableEq, Repr

/-- The fields of MACSEC_SET_SA (R513). -/
structure SaFields where
  port : Nat
  dir : Nat
  an : Nat
  suite : Nat
  sci : Nat
  ssci : Nat
  salt : Nat
  pn : Nat
  sak : Nat
deriving DecidableEq, Repr

/-- What the scrubber finds at a burst (R485): no error, symbols corrected, or an uncorrectable burst. -/
inductive ScrubResult where
  | clean
  | corrected (symbols : Nat)
  | uncorrectable
deriving DecidableEq, Repr

/-- A fine request at a channel controller (R280 to R282). -/
inductive FineOp where
  | read (len : Nat)
  | write (bytes : List Byte)
  | atomic (op : AtomOp) (size data cmp : Nat)
deriving DecidableEq, Repr

/-- A pending timed wait or claim (R244): of a group of a core, by its position, or of a queue's CNT_WAIT command (R358). -/
inductive WaitName where
  | group (core pos : Nat)
  | command (q seq : Nat)
deriving DecidableEq, Repr

end Sys2Proof.Machine
end

