-- ==== Sys2Proof/Syntax.lean ====
section
/-! DEFINITION. The commands of the opcode table, one constructor per row (spec/opcode_table.json). -/

namespace Sys2Proof

open Sys2Proof.Machine

/-- The commands. Each constructor's operands are what the command's sender, or the event's cause, names. -/
inductive Instr where
  /-- REGISTER_WRITE (R19): A write to a register field that has no row of its own: RW, W1C and RWL fields are
  updated under their access codes and the register's own checks. -/
  | registerWrite (a : Access)
  /-- INVALID_ACCESS (R18): An unaligned, wrongly sized, unmapped or forbidden register access completes with no
  effect: reads return all ones, writes are discarded, and an access-error event is logged. -/
  | invalidAccess (a : Access) (write : Bool)
  /-- SEAM_FAIL (R28): A seam fails in service: it is marked failed, management traffic reroutes round the ring, and
  partitions the failure reaches stop. -/
  | seamFail (seam : Nat)
  /-- PARTITION_RESET (R38): A RESET bit of DEV.PART_CTL, with ZERO if also set, resets one partition through its
  numbered steps. -/
  | partitionReset (a : Access) (t : SelfTest)
  /-- CELL_FAULT (R486): An uncorrectable register-file or accumulator error, or a logic check, stops a core's cell,
  faults its groups and resets the cell. -/
  | cellFault (core code : Nat)
  /-- BLOCK_FAULT (R29): A fault in block-shared logic stops a cluster, stack or port block. -/
  | blockFault (part : BlockPart)
  /-- REGION_STOP (R496): A region-level fault stops the partition holding the region: cells halt, ports go down and
  queues stop. -/
  | regionStop (region code : Nat)
  /-- CORE_DISABLE (R42): The cluster control core disables a core in service, updating PHYS_RETIRED, the slot map
  and both CORES_ENABLED counts in one update. -/
  | coreDisable (core : Nat)
  /-- MOV (R173): Integer move of A to D. -/
  | mov (x : Issue)
  /-- ADD (R173): Integer add, wrapping modulo 2^W. -/
  | add (x : Issue)
  /-- SUB (R173): Integer subtract. -/
  | sub (x : Issue)
  /-- MUL (R173): Low W bits of an integer product. -/
  | mul (x : Issue)
  /-- MULHI (R173): High W bits of an integer product. -/
  | mulhi (x : Issue)
  /-- MAD (R173): Integer multiply-add, low W bits. -/
  | mad (x : Issue)
  /-- MIN (R173): Integer minimum. -/
  | min (x : Issue)
  /-- MAX (R173): Integer maximum. -/
  | max (x : Issue)
  /-- AND (R173): Bitwise AND. -/
  | and (x : Issue)
  /-- OR (R173): Bitwise OR. -/
  | or (x : Issue)
  /-- XOR (R173): Bitwise XOR. -/
  | xor (x : Issue)
  /-- NOT (R173): Bitwise NOT. -/
  | not (x : Issue)
  /-- SHL (R173): Shift left. -/
  | shl (x : Issue)
  /-- SHR (R173): Logical shift right. -/
  | shr (x : Issue)
  /-- SAR (R173): Arithmetic shift right. -/
  | sar (x : Issue)
  /-- POPC (R173): Population count. -/
  | popc (x : Issue)
  /-- CLZ (R173): Count of leading zeros. -/
  | clz (x : Issue)
  /-- BFE (R173): Bit-field extract. -/
  | bfe (x : Issue)
  /-- SEL (R173): Select A or B by a predicate. -/
  | sel (x : Issue)
  /-- CMP (R174): Integer compare that writes a predicate. -/
  | cmp (x : Issue)
  /-- SHFL (R175): Lane exchange among the executing threads. -/
  | shfl (x : Issue)
  /-- VOTE (R175): Ballot of a predicate over the executing threads. -/
  | vote (x : Issue)
  /-- POP (R173): Logic operation on predicates. -/
  | pop (x : Issue)
  /-- FP_ADD (R176): Floating-point add, rounded once. -/
  | fpAdd (x : Issue)
  /-- FP_SUB (R176): Floating-point subtract. -/
  | fpSub (x : Issue)
  /-- FP_MUL (R176): Floating-point multiply. -/
  | fpMul (x : Issue)
  /-- FP_FMA (R176): Fused multiply-add, rounded once. -/
  | fpFma (x : Issue)
  /-- FP_DIV (R176): Floating-point divide. -/
  | fpDiv (x : Issue)
  /-- FP_SQRT (R176): Floating-point square root. -/
  | fpSqrt (x : Issue)
  /-- FP_MIN (R177): Floating-point minimum, with -0 ordered below +0. -/
  | fpMin (x : Issue)
  /-- FP_MAX (R177): Floating-point maximum. -/
  | fpMax (x : Issue)
  /-- FP_NEG (R177): Inverts the sign bit only. -/
  | fpNeg (x : Issue)
  /-- FP_ABS (R177): Clears the sign bit only. -/
  | fpAbs (x : Issue)
  /-- FP_CMP (R176): Floating-point compare that writes a predicate. -/
  | fpCmp (x : Issue)
  /-- FP_CLASS (R177): Writes the class mask of A. -/
  | fpClass (x : Issue)
  /-- FP_FROMINT (R178): Rounds an integer to a floating-point format. -/
  | fpFromint (x : Issue)
  /-- FP_TOINT (R178): Rounds a floating-point value to an integer. -/
  | fpToint (x : Issue)
  /-- FP_EXP (R158): exp computed by the function unit. -/
  | fpExp (x : Issue)
  /-- FP_LOG (R158): log computed by the function unit. -/
  | fpLog (x : Issue)
  /-- FP_RSQRT (R158): Reciprocal square root computed by the function unit. -/
  | fpRsqrt (x : Issue)
  /-- FP_SIN (R158): sine computed by the function unit. -/
  | fpSin (x : Issue)
  /-- FP_COS (R158): cosine computed by the function unit. -/
  | fpCos (x : Issue)
  /-- CVT (R181): Converts one element between formats under the combined scale. -/
  | cvt (x : Issue)
  /-- LD (R132): Load from global, shared or argument space. -/
  | ld (x : Issue)
  /-- ST (R132): Store to global or shared space. -/
  | st (x : Issue)
  /-- ATOM_ADD (R182): Integer atomic add at the home agent. -/
  | atomAdd (x : Issue)
  /-- ATOM_MIN (R182): Integer atomic minimum. -/
  | atomMin (x : Issue)
  /-- ATOM_MAX (R182): Integer atomic maximum. -/
  | atomMax (x : Issue)
  /-- ATOM_AND (R182): Atomic AND. -/
  | atomAnd (x : Issue)
  /-- ATOM_OR (R182): Atomic OR. -/
  | atomOr (x : Issue)
  /-- ATOM_XOR (R182): Atomic XOR. -/
  | atomXor (x : Issue)
  /-- ATOM_EXCH (R182): Atomic exchange. -/
  | atomExch (x : Issue)
  /-- ATOM_CAS (R182): Atomic compare-and-exchange. -/
  | atomCas (x : Issue)
  /-- ATOM_EXACT (R185): Issues an exact-cell add, which travels by the fine path. -/
  | atomExact (x : Issue)
  /-- ATOM_LF (R185): Issues a long-form add into a memory slot. -/
  | atomLf (x : Issue)
  /-- FENCE_WG (R229): Stalls the group until its earlier accesses are performed at workgroup scope. -/
  | fenceWg (x : Issue)
  /-- FENCE_PART (R229): Stalls until partition scope, then invalidates the near cache. -/
  | fencePart (x : Issue)
  /-- FENCE_REMOTE (R249): Stalls until every earlier write of the group is committed at its destination. -/
  | fenceRemote (x : Issue)
  /-- FENCE_GLOBAL (R249): Stalls until every write of the core's groups is committed, then invalidates the near
  cache. -/
  | fenceGlobal (x : Issue)
  /-- NC_INV (R186): Invalidates the core's near cache over 32 steps. -/
  | ncInv (x : Issue)
  /-- TM_COPY (R187): Hands a tile-mover descriptor to a mover. -/
  | tmCopy (x : Issue)
  /-- TILE_MOVE_COMPLETE (R118): A mover finishes a descriptor and adds 1 to the named counter in each core written. -/
  | tileMoveComplete (core mover : Nat)
  /-- NOP (R190): No effect. -/
  | nop (x : Issue)
  /-- BRA (R190): Relative branch, which can split a set. -/
  | bra (x : Issue)
  /-- CALL (R190): Writes the link pair and branches. -/
  | call (x : Issue)
  /-- JMP (R191): Branches to a target held in a register. -/
  | jmp (x : Issue)
  /-- CONVERGE (R209): Holds a set at a reconvergence point. -/
  | converge (x : Issue)
  /-- CONVERGE_RELEASE (R209): A held set is released once no set of its group can progress. -/
  | convergeRelease (core pos : Nat)
  /-- EXIT (R215): The executing threads end and cease to be live for the barriers. -/
  | exit (x : Issue)
  /-- TRAP (R190): Raises the trap fault. -/
  | trap (x : Issue)
  /-- BAR_SYNC (R214): Arrives at a barrier and parks. -/
  | barSync (x : Issue)
  /-- BAR_ARRIVE (R214): Arrives at a barrier without waiting. -/
  | barArrive (x : Issue)
  /-- BAR_WAIT (R214): Parks until the phase of the thread's last arrival completes. -/
  | barWait (x : Issue)
  /-- BARRIER_DEADLOCK (R219): A group or workgroup deadlock condition is detected and raises fault 0x07. -/
  | barrierDeadlock (core slot : Nat)
  /-- GROUP_PROMOTION (R207): A group ready for 256 steps without issuing is issued first. -/
  | groupPromotion (core pos : Nat)
  /-- SET_PROMOTION (R207): A set passed over at 16 issues of its group is issued next. -/
  | setPromotion (core pos lane : Nat)
  /-- MX_MMA (R193): Matrix multiply-accumulate into a slot. -/
  | mxMma (x : Issue)
  /-- MX_LDLF (R194): Loads a tile of long forms into a slot, all or none. -/
  | mxLdlf (x : Issue)
  /-- MX_DRAIN (R195): Drains a slot to rounded elements or long forms. -/
  | mxDrain (x : Issue)
  /-- MX_ZERO (R192): Clears a slot after earlier drains have read it. -/
  | mxZero (x : Issue)
  /-- MATRIX_INSTRUCTION_START (R120): The lane array starts the next queued instruction once its operands are staged
  and its slot is free. -/
  | matrixInstructionStart (core : Nat)
  /-- RECORD_MERGE (R95): A tile blot record and value study merge into the tensor record at its home agent. -/
  | recordMerge (index : Nat)
  /-- CNT_ADD (R241): Counter add instruction. -/
  | cntAdd (x : Issue)
  /-- CNT_WAIT (R241): Waits until a counter is at least a target. -/
  | cntWait (x : Issue)
  /-- CNT_CLAIM (R241): Claims a turn when a counter equals a target. -/
  | cntClaim (x : Issue)
  /-- CNT_READ (R241): Reads a counter into a uniform register. -/
  | cntRead (x : Issue)
  /-- SYS_GET (R203): Copies a system value into a register. -/
  | sysGet (x : Issue)
  /-- COUNTER_ARBITRATION (R243): A counter operation reaches its arbiter: adds are applied, waits and claims are
  settled, and reads are served. -/
  | counterArbitration (ctr : CtrName) (sources : List (Nat × Nat))
  /-- COUNTER_DEADLINE (R244): A pending timed wait or claim reaches its deadline and times out. -/
  | counterDeadline (w : WaitName)
  /-- TASK_BIND (R235): The scheduler binds an accepted task to every core of its placement. -/
  | taskBind (task : Nat)
  /-- REGION_COUNTER_GRANT (R239): VALID of REG.CNT_OWNER_b goes from 0 to 1, granting the block and zeroing its
  counters. -/
  | regionCounterGrant (a : Access)
  /-- REGION_COUNTER_REVOKE (R239): VALID goes from 1 to 0, completing the block's pending waits and claims false. -/
  | regionCounterRevoke (a : Access)
  /-- RETENTION_ENTRY (R255): After 20,000 ns waiting with nothing in flight, a core enters wait retention. -/
  | retentionEntry (core : Nat)
  /-- RETENTION_EXIT (R256): A completing wait, a switch request, a time limit or a reset takes the core out of
  retention. -/
  | retentionExit (core : Nat)
  /-- LOAD_RETURN (R134): Load data returns and is written to its destination register. -/
  | loadReturn (core txn : Nat) (ans : HostAns)
  /-- DEFERRED_FAULT (R144): A fault is detected after issue, the group stops at its next boundary, and the fault
  policy applies. -/
  | deferredFault (core index : Nat)
  /-- FAULT_READ_WRITE (R148): A write of CTX.FAULT_READ.READ_COUNT is applied when it is within range, and ignored
  otherwise. -/
  | faultReadWrite (a : Access)
  /-- FAULT_RELEASE (R149): A write of RELEASE ends every held group of the context as under RUNOUT. -/
  | faultRelease (a : Access)
  /-- WORKGROUP_DISPATCH (R140): The next workgroup in ascending linear index is dispatched to a placed core with a
  free slot. -/
  | workgroupDispatch (task core : Nat)
  /-- CORE_TASK_BEGIN (R141): A core begins a task: it invalidates its near cache, clears its slots, zeroes shared
  memory and applies pending adds. -/
  | coreTaskBegin (task core : Nat)
  /-- TIME_LIMIT_EXPIRY (R143): The timebase passes the task's time limit and every group stops, ending the task with
  TIME_LIMIT. -/
  | timeLimitExpiry (task : Nat)
  /-- CONTEXT_SWITCH (R153): The scheduler switches a core out of a context and saves its section of the save area. -/
  | contextSwitch (ctx : Nat)
  /-- CONTEXT_RESUME (R153): A switched-out task is restored bit for bit on its cores and its waits are reissued. -/
  | contextResume (ctx : Nat)
  /-- VICTIM_OFFER (R268): An evicted L2 line is offered to the home region's victim cache, which accepts or declines
  it. -/
  | victimOffer (canvas : Nat)
  /-- SPLIT_CHANGE (R273): A write to SCRATCH_UNITS that changes S starts a split change. -/
  | splitChange (a : Access)
  /-- SPLIT_CHANGE_DONE (R273): The split change completes, BUSY clears and the new split takes force. -/
  | splitChangeDone (region : Nat)
  /-- FINE_REQUEST (R281): A fine-path read or write of a fine block is served coherently at the home agent. -/
  | fineRequest (ctx : Nat) (va : Nat) (op : FineOp)
  /-- EXACT_ADD_APPLY (R283): The atomic unit applies an exact-cell add, wrapping modulo 2^128. -/
  | exactAddApply (core txn : Nat)
  /-- LONG_FORM_ADD (R185): The home agent applies a long-form add to a slot within its extent. -/
  | longFormAdd (core txn : Nat)
  /-- WRITE_BATCH_TURN (R277): A write that has waited 2 µs in its channel controller turns the bus to write. -/
  | writeBatchTurn (chan : Nat)
  /-- STACK_TEMP_READ (R285): Every 1 ms a stack controller reads its temperature and sets the throttle level and
  refresh rate. -/
  | stackTempRead (stack temp : Nat)
  /-- STACK_OFFLINE (R286): A stack restricted for 10 s, or reaching 110 °C, goes offline. -/
  | stackOffline (stack : Nat)
  /-- SCRUB (R485): A scrub read corrects and writes back a burst, or poisons it. -/
  | scrub (stack addr : Nat) (result : ScrubResult)
  /-- READ_SHARED (R298): The home serves ReadShared and grants E or S. -/
  | readShared (agent sector : Nat)
  /-- READ_UNIQUE (R298): The home invalidates other holders and grants M with data. -/
  | readUnique (agent sector : Nat)
  /-- READ_UNIQUE_NO_DATA (R298): The home grants M without transferring data. -/
  | readUniqueNoData (agent sector : Nat)
  /-- UPGRADE (R298): The home invalidates other holders and grants M without data. -/
  | upgrade (agent sector : Nat)
  /-- CLEAN_EVICT (R298): The home removes the agent from the filter entry. -/
  | cleanEvict (agent sector : Nat)
  /-- WRITE_BACK (R298): The home writes back the data and removes the agent from the entry. -/
  | writeBack (agent sector : Nat)
  /-- GRANT_ACKNOWLEDGE (R298): The requester acknowledges a grant and the transaction completes. -/
  | grantAcknowledge (agent sector : Nat)
  /-- SNOOP_SHARED (R294): An agent answers SnoopShared from its current state. -/
  | snoopShared (agent sector : Nat)
  /-- SNOOP_INVALIDATE (R294): An agent answers SnoopInvalidate and becomes I. -/
  | snoopInvalidate (agent sector : Nat)
  /-- SNOOP_PEEK (R294): An agent supplies data without changing its state. -/
  | snoopPeek (agent sector : Nat)
  /-- SNOOP_PURGE (R307): An agent invalidates the S sectors of one set homed at the snooping region and answers the
  count. -/
  | snoopPurge (agent line : Nat)
  /-- NON_CACHING_READ (R297): The home serves a non-caching read. -/
  | nonCachingRead (sector : Nat)
  /-- NON_CACHING_WRITE (R297): The home serves a non-caching write after invalidating holders. -/
  | nonCachingWrite (sector offset : Nat) (bytes : List Byte)
  /-- NON_CACHING_ATOMIC (R297): The home serves an atomic as a partial write applied at the atomic unit. -/
  | nonCachingAtomic (addr : Nat) (op : AtomOp) (size data cmp : Nat)
  /-- AGENT_RECLAIM (R309): Every home reclaims the lines of an agent that has died. -/
  | agentReclaim (agent : Nat)
  /-- STREAM_PREFETCH (R338): The cluster translation unit walks ahead of a tile mover's stream. -/
  | streamPrefetch (cluster ctx va : Nat)
  /-- FAULT_BATCH_CLOSE (R334): A batch closes at 256 records or 50,000 ns and its records are published with an
  interrupt. -/
  | faultBatchClose (region : Nat)
  /-- XFR_RETRY (R335): A RETRY response makes the record's waiting engines walk the tables afresh. -/
  | xfrRetry (a : Access)
  /-- XFR_FAIL_UNMAPPED (R335): The waiting engines receive fault 0x10 or their chapter's status. -/
  | xfrFailUnmapped (a : Access)
  /-- XFR_FAIL_PERMISSION (R335): The waiting engines receive fault 0x11 or their chapter's status. -/
  | xfrFailPermission (a : Access)
  /-- XFR_READ_WRITE (R334): READ_COUNT advances, freeing slots for stalled faulting engines. -/
  | xfrReadWrite (a : Access)
  /-- TLB_INVALIDATE (R327): A write of GO to CTX.TLB_INV starts an invalidation of the context; BUSY clears when it
  completes. -/
  | tlbInvalidate (a : Access) (done : Bool)
  /-- CTX_PT_WRITE (R327): A write to PT_ROOT or PT_CTL outside running is applied and performs an invalidation. -/
  | ctxPtWrite (a : Access)
  /-- GRANT_WRITE (R324): A grant entry write without FLUSH takes effect after caches drop it and older requests
  finish. -/
  | grantWrite (a : Access)
  /-- GRANT_FLUSH_WRITE (R324): A grant write with FLUSH first recalls every cached copy of the granule. -/
  | grantFlushWrite (a : Access)
  /-- SFENCE_BROADCAST (R329): An application core fence instruction is broadcast to the partition's cores and I/O
  translation units. -/
  | sfenceBroadcast (region ctx : Nat) (va : Option Nat) (asid : Option Nat)
  /-- BAR_ACCESS (R343): A host memory request to a BAR is served or refused by requester ID. -/
  | barAccess (r : BarReq)
  /-- BAR2_ACCESS (R344): A PF BAR2 access is served as a non-caching request at a device physical address. -/
  | bar2Access (r : BarReq)
  /-- APERTURE_ACCESS (R345): A VF window access is translated under its context, or handled as a hole. -/
  | apertureAccess (r : BarReq)
  /-- BAR_READ_TIMEOUT (R344): A host read unanswered for 10 ms completes with all ones and logs 0xC402. -/
  | barReadTimeout (id : Nat)
  /-- VF_ASSIGN (R550): A write of HIF.VF_CFG_v assigns or unassigns a VF, subject to its checks. -/
  | vfAssign (a : Access)
  /-- SQ_DOORBELL (R348): A write of SQ_TAIL announces submission entries, or stops the queue if it is beyond the
  ring. -/
  | sqDoorbell (fn q value : Nat)
  /-- CQ_DOORBELL (R348): A write of CQ_HEAD frees completion slots, or stops the queue if it is beyond the tail. -/
  | cqDoorbell (fn q value : Nat)
  /-- COMMAND_FETCH (R349): The scheduler fetches a whole command once the doorbell covers it, by priority and
  bounds. -/
  | commandFetch (q : Nat) (ans : HostAns)
  /-- COMPLETION_RECORD (R353): The completion record is written once its ordering conditions hold, followed by
  MSI-X. -/
  | completionRecord (q seq : Nat) (hostOk : Bool)
  /-- QUEUE_ENABLE (R347): ENABLE is written to 1 and the queue runs. -/
  | queueEnable (a : Access)
  /-- QUEUE_DISABLE (R350): ENABLE is written to 0: commands are aborted and the queue drains to disabled. -/
  | queueDisable (a : Access)
  /-- DMA_CHUNK (R359): A 4 KiB chunk of a data-moving command completes or fails. -/
  | dmaChunk (q seq index : Nat) (ans : HostAns)
  /-- NOP_COMMAND (R357): A command with no action. -/
  | nopCommand (q seq : Nat)
  /-- FENCE (R357): Recorded when every earlier command of the queue is recorded. -/
  | fence (q seq : Nat)
  /-- LAUNCH (R358): Kernel launch: the descriptor is read and checked and the task is accepted. -/
  | launch (q seq : Nat)
  /-- CNT_ADD_COMMAND (R358): Region counter add after earlier commands are recorded. -/
  | cntAddCommand (q seq : Nat)
  /-- CNT_WAIT_COMMAND (R358): Region counter wait with a timeout. -/
  | cntWaitCommand (q seq : Nat)
  /-- ALLOC (R358): Allocates tier pages under the placement order. -/
  | alloc (q seq : Nat)
  /-- FREE (R358): Frees listed tier pages, all or none. -/
  | free (q seq : Nat)
  /-- HOST_TO_DEV (R359): Copies host memory to device memory. -/
  | hostToDev (q seq : Nat)
  /-- DEV_TO_HOST (R359): Copies device memory to host memory. -/
  | devToHost (q seq : Nat)
  /-- COPY (R358): Copies within device memory. -/
  | copy (q seq : Nat)
  /-- FILL (R358): Fills device memory with a pattern. -/
  | fill (q seq : Nat)
  /-- INLINE_WRITE (R358): Writes the inline data to device memory. -/
  | inlineWrite (q seq : Nat)
  /-- MATMUL (R370): Resident matrix multiply with exact accumulation. -/
  | matmul (q seq : Nat)
  /-- CONV (R370): Resident two-dimensional convolution. -/
  | conv (q seq : Nat)
  /-- MAP_CONVERT (R372): Elementwise convert. -/
  | mapConvert (q seq : Nat)
  /-- MAP_ADD (R372): Elementwise add. -/
  | mapAdd (q seq : Nat)
  /-- MAP_SUBTRACT (R372): Elementwise subtract. -/
  | mapSubtract (q seq : Nat)
  /-- MAP_MULTIPLY (R372): Elementwise multiply. -/
  | mapMultiply (q seq : Nat)
  /-- MAP_FMA (R372): Elementwise fused multiply-add. -/
  | mapFma (q seq : Nat)
  /-- MAP_DIVIDE (R372): Elementwise divide. -/
  | mapDivide (q seq : Nat)
  /-- MAP_SQUARE_ROOT (R372): Elementwise square root. -/
  | mapSquareRoot (q seq : Nat)
  /-- MAP_MIN (R372): Elementwise minimum. -/
  | mapMin (q seq : Nat)
  /-- MAP_MAX (R372): Elementwise maximum. -/
  | mapMax (q seq : Nat)
  /-- MAP_RELU (R372): Elementwise max with +0. -/
  | mapRelu (q seq : Nat)
  /-- MAP_EXP (R372): Elementwise exp through the function unit. -/
  | mapExp (q seq : Nat)
  /-- MAP_LOG (R372): Elementwise log. -/
  | mapLog (q seq : Nat)
  /-- MAP_RECIPROCAL_SQUARE_ROOT (R372): Elementwise reciprocal square root. -/
  | mapReciprocalSquareRoot (q seq : Nat)
  /-- MAP_SINE (R372): Elementwise sine. -/
  | mapSine (q seq : Nat)
  /-- MAP_COSINE (R372): Elementwise cosine. -/
  | mapCosine (q seq : Nat)
  /-- REDUCE_SUM (R371): Exact sum along one axis. -/
  | reduceSum (q seq : Nat)
  /-- REDUCE_MIN (R372): Minimum along one axis. -/
  | reduceMin (q seq : Nat)
  /-- REDUCE_MAX (R372): Maximum along one axis. -/
  | reduceMax (q seq : Nat)
  /-- SORT (R373): Stable sort of rows by key. -/
  | sort (q seq : Nat)
  /-- SELECT (R370): Compaction of the input by a mask. -/
  | select (q seq : Nat)
  /-- HOST_LOSS (R360): Link down, hot reset, PERST#, PF FLR or DETACH: configuration space resets and the session
  detaches. -/
  | hostLoss (cause : Nat)
  /-- HEARTBEAT_EXPIRY (R365): No KICK arrives within TIMEOUT_MS and the session detaches. -/
  | heartbeatExpiry
  /-- HEARTBEAT_KICK (R365): Writing KICK restarts the heartbeat interval. -/
  | heartbeatKick (a : Access)
  /-- DETACH (R360): Writing DETACH detaches the session. -/
  | detach (a : Access)
  /-- VF_FLR (R361): A VF Function Level Reset ends the work of that VF's queues. -/
  | vfFlr (v : Nat)
  /-- ATTACH_FRESH (R363): Issues a session token, or, while detached, performs a device-wide warm reset. -/
  | attachFresh (a : Access)
  /-- RESUME (R364): With a correct token, clears the windows, ends host-waiting commands with HOST_LOST and writes
  held records. -/
  | resume (a : Access)
  /-- RESUME_HOST (R364): With a correct token, keeps the windows and lets the waiting requests and held records
  proceed. -/
  | resumeHost (a : Access)
  /-- TOKEN_READ (R363): A 64-bit PF read of TOKEN_LO or TOKEN_HI returns its half once and then reads zero. -/
  | tokenRead (fn : Nat) (hi : Bool) (size : Nat)
  /-- TOKEN_LOCKOUT_END (R363): The 1 s lockout after a wrong token ends. -/
  | tokenLockoutEnd
  /-- FRAME_RECEIVE (R382): A received frame passes the acceptance checks in order or is dropped and counted. -/
  | frameReceive (block : Nat) (f : Frame)
  /-- PFC_RECEIVE (R379): A received PFC frame pauses or resumes a priority. -/
  | pfcReceive (block sub prio : Nat) (xoff : Bool)
  /-- SPLIT_WRITE (R378): A write of PORT.CFG.SPLIT is stored in flash and takes effect at the next reset. -/
  | splitWrite (a : Access)
  /-- RDMA_WRITE_PACKET (R387): A RoCE RDMA WRITE packet is translated and performed, then acknowledged, NAKed or
  RNR-NAKed. -/
  | rdmaWritePacket (block : Nat)
  /-- RDMA_READ_REQUEST (R387): A RoCE READ request is answered with data, as a .fine load would be. -/
  | rdmaReadRequest (block : Nat)
  /-- RDMA_READ_RESPONSE (R387): READ response data is written locally. -/
  | rdmaReadResponse (block : Nat)
  /-- ROCE_ACKNOWLEDGE (R387): A RoCE acknowledgement advances the connection. -/
  | roceAcknowledge (block : Nat)
  /-- ROCE_NAK (R389): A NAK causes go-back-N, an RNR wait, or the end of a command with an error. -/
  | roceNak (block : Nat)
  /-- CNP (R390): A congestion notification halves the connection's rate. -/
  | cnp (block : Nat)
  /-- RATE_RECOVERY (R390): Every 55 µs without notice, the rate rises by 5 % of the port rate. -/
  | rateRecovery (part slot rank : Nat) (fletus : Bool)
  /-- RETRANSMIT_TIMEOUT (R389): The retransmission timeout expires: the sender retransmits, or after 32 expiries
  declares the peer unreachable. -/
  | retransmitTimeout (part slot rank : Nat) (fletus : Bool)
  /-- RDMA_WRITE (R391): RDMA write command, with an optional remote counter add. -/
  | rdmaWrite (q seq : Nat)
  /-- RDMA_READ (R391): RDMA read command. -/
  | rdmaRead (q seq : Nat)
  /-- RDMA_CNT_ADD (R391): Remote counter add, ordered after earlier commands to the same rank. -/
  | rdmaCntAdd (q seq : Nat)
  /-- REMOTE_OP (R403): Sends a resident operator command to a peer. -/
  | remoteOp (q seq : Nat)
  /-- JOB_LOAD (R391): Loads a job slot and its rank table; with LAUNCH it starts the PREPARE round. -/
  | jobLoad (q seq : Nat)
  /-- JOB_TEARDOWN (R409): Moves a slot to tearing down. -/
  | jobTeardown (q seq : Nat)
  /-- TEARDOWN_DONE (R409): Streams are idle or 10 ms pass, and the slot becomes idle. -/
  | teardownDone (part slot : Nat)
  /-- ALL_REDUCE (R399): All-reduce sum collective. -/
  | allReduce (q seq : Nat)
  /-- REDUCE_SCATTER (R399): Reduce-scatter sum collective. -/
  | reduceScatter (q seq : Nat)
  /-- ALL_GATHER (R399): All-gather collective of bit copies. -/
  | allGather (q seq : Nat)
  /-- BROADCAST (R399): Broadcast of ROOT's input. -/
  | broadcast (q seq : Nat)
  /-- REDUCE_TO_ROOT (R399): Reduce sum to the root. -/
  | reduceToRoot (q seq : Nat)
  /-- RECORD_ALL_REDUCE (R401): Merges tensor records across the participants. -/
  | recordAllReduce (q seq : Nat)
  /-- COLLECTIVE_BARRIER (R399): Completes when every participant has issued it. -/
  | collectiveBarrier (q seq : Nat)
  /-- FLETUS_DATA (R397): A DATA packet is added under long-form addition, held, or discarded by generation. -/
  | fletusData (block : Nat)
  /-- FLETUS_ACK (R396): A cumulative stream acknowledgement. -/
  | fletusAck (block : Nat)
  /-- FLETUS_NACK (R396): Requests retransmission from ACK_SEQ. -/
  | fletusNack (block : Nat)
  /-- PREPARE (R405): The slot is checked and PREPARE is forwarded to the children. -/
  | prepare (block : Nat)
  /-- PREPARE_ACK (R405): A subtree result is gathered; when all children are settled the rank answers its parent or
  decides. -/
  | prepareAck (block : Nat)
  /-- NOT_PREPARED (R405): A refusal of PREPARE counts the rank as failed. -/
  | notPrepared (block : Nat)
  /-- ARM (R407): Arms the slot and forwards ARM. -/
  | arm (block : Nat)
  /-- ARM_ACK (R407): A subtree result for ARM. -/
  | armAck (block : Nat)
  /-- ABORT (R407): Returns the slot to idle with LAUNCH_ABORTED and forwards ABORT. -/
  | abort (block : Nat)
  /-- ABORT_ACK (R407): A subtree result for ABORT. -/
  | abortAck (block : Nat)
  /-- LAUNCH_CHILD_TIMEOUT (R406): A child unanswered for 200 µs counts as failed and its children are addressed
  directly. -/
  | launchChildTimeout (part slot child : Nat)
  /-- LAUNCH_HOLD_TIMEOUT (R408): A loaded or prepared slot not armed within HOLD_MS returns to idle. -/
  | launchHoldTimeout (part slot : Nat)
  /-- CMD (R403): A remote resident operator command is run or refused. -/
  | cmd (block : Nat)
  /-- CMD_DONE (R403): A remote completion record ends REMOTE_OP. -/
  | cmdDone (block : Nat)
  /-- FLETUS_RECORD (R401): A RECORD packet is merged into the local tensor record. -/
  | fletusRecord (block : Nat)
  /-- PTP_SYNC (R411): A synchronisation adjusts the timebase rate and the lock state. -/
  | ptpSync (offset residual rate : Int)
  /-- PTP_SYNC_LOSS (R411): No synchronisation for 4 s clears LOCKED. -/
  | ptpSyncLoss
  /-- RECORD_START (R425): MODE written 0 to 1 checks the range and writes BEGIN. -/
  | recordStart (a : Access)
  /-- RECORD_STOP (R427): MODE written 1 to 0 writes END once the buffer empties. -/
  | recordStop (a : Access)
  /-- REPLAY_START (R431): MODE written 0 to 2 checks the journal and loads the modes. -/
  | replayStart (a : Access)
  /-- REPLAY_STOP (R436): MODE written 2 to 0 ends the replay. -/
  | replayStop (a : Access)
  /-- JOURNAL_FLUSH (R426): The entry buffer is written to the journal range, releasing stalled sources. -/
  | journalFlush (part : Nat)
  /-- SKB_MARK (R429): A MARK entry is written and a SIDE_SIG pulse is requested. -/
  | skbMark (a : Access)
  /-- SKB_CHECK (R430): Writing CHECK_LEN sums a range after prior completions and writes CHECK. -/
  | skbCheck (a : Access)
  /-- SKB_RELEASE (R436): RELEASE returns the reserved range to the pool. -/
  | skbRelease (a : Access)
  /-- REPLAY_PAUSE_SEQ (R435): A write of PAUSE_SEQ pauses or resumes the replay. -/
  | replayPauseSeq (a : Access)
  /-- REPLAY_ENTRY (R432): The next positional journal entry is supplied or compared. -/
  | replayEntry (part : Nat)
  /-- REPLAY_STALL (R434): No entry is consumed for STALL_MS and the replay diverges. -/
  | replayStall (part : Nat)
  /-- POWER_PERIOD (R442): Each 1 ms period the target, budgets, haze and voltage stage are updated. -/
  | powerPeriod (p : PowerSample)
  /-- POWER_REPORT (R444): A region's power report arrives over the management channel. -/
  | powerReport (region power : Nat)
  /-- POWER_REPORT_TIMEOUT (R444): A report missing 100 µs after the period start is replaced by the previous one. -/
  | powerReportTimeout (region : Nat)
  /-- THERMAL_SAMPLE (R449): Every 100 µs Tj_max sets the thermal haze and emergency. -/
  | thermalSample (region : Nat) (clusters : List Int) (easel : List Int)
  /-- FAST_LIMIT_SAMPLE (R450): Every 100 µs the 10 ms mean engages or releases the fast clamp. -/
  | fastLimitSample (mean : Nat)
  /-- SUPPLY_FAULT (R450): The mean stays above 5,800 W for 100 ms with the clamp engaged and every partition stops. -/
  | supplyFault
  /-- DROOP (R440): A droop of more than 50 mV for 100 ns is counted. -/
  | droop (region depth ns : Nat)
  /-- VDD_UNDERVOLTAGE (R440): Below 0.50 V for more than 2 µs, the region stops. -/
  | vddUndervoltage (region : Nat)
  /-- VDD_OVERVOLTAGE (R440): Above 0.97 V for more than 2 µs, the region stops. -/
  | vddOvervoltage (region : Nat)
  /-- AGEING_UPDATE (R454): Every 24 h path monitors are read and AGE_MV is raised. -/
  | ageingUpdate (region : Nat) (growth required : List Nat)
  /-- WATCHDOG_EXPIRY (R462): A firmware core's watchdog expires and the core restarts, or fails after four expiries
  in an hour. -/
  | watchdogExpiry (fw : Nat)
  /-- FIRMWARE_RESTART_DONE (R462): A restarted firmware core returns to running. -/
  | firmwareRestartDone (fw : Nat)
  /-- EVENT_DRAIN (R466): The security core drains the hardware event queue into the event log. -/
  | eventDrain (region : Nat)
  /-- STAGE_IMAGE (R470): GO of FWU.STAGE_CTL checks an image and writes it to the unused bank. -/
  | stageImage (a : Access) (digestOk signaturesOk : Bool)
  /-- STAGING_DONE (R470): The flash write ends and the image is recorded as staged. -/
  | stagingDone
  /-- ACTIVATE (R471): GO of FWU.ACTIVATE submits an activation, held until every region reports normal. -/
  | activate (a : Access)
  /-- ACTIVATE_ON_RESET (R476): Arms the named types for the next reset. -/
  | activateOnReset (a : Access)
  /-- ACTIVATE_CANCEL (R477): Cancels a held or quiescing activation. -/
  | activateCancel (a : Access)
  /-- ACTIVATION_QUIESCE (R471): After 500 normal periods the partition quiesces, then restarts and confirms. -/
  | activationQuiesce
  /-- QUIESCE_TIMEOUT (R475): Quiesce passes QUIESCE_MS and the request ends with 0x05. -/
  | quiesceTimeout
  /-- CONFIRM_TIMEOUT (R474): A core that misses the 2 s kick rolls its type back. -/
  | confirmTimeout
  /-- ACTIVATION_CONFIRM (R471): Every restarted core has kicked, the new bank is recorded and MIN_SVN is raised. -/
  | activationConfirm (fw : Nat)
  /-- FWU_NO_ROOT_TIMEOUT (R478): A request that waited 60 s with no root ends with 0x0A. -/
  | fwuNoRootTimeout
  /-- ROW_RETIRE (R492): A row is retired by soft post-package repair, or without a spare with page withdrawal. -/
  | rowRetire (addr : Nat)
  /-- LANE_RETRAIN (R495): A lane retrains, taking its port down for up to 50 ms. -/
  | laneRetrain (lane : Nat)
  /-- EVENT_IRQ_DEFERRED (R488): An interrupt deferred within 1 ms of the last one is raised at the end of that 1 ms.
  -/
  | eventIrqDeferred (region : Nat)
  /-- EVT_BASE_WRITE (R488): A valid ring base receives the kept records, oldest first. -/
  | evtBaseWrite (a : Access)
  /-- CAL_EXPORT (R499): Copies the stored calibration set to memory. -/
  | calExport (a : Access)
  /-- CAL_IMPORT (R499): Checks and writes a new calibration set, pending until cold reset. -/
  | calImport (a : Access) (rangesOk : Bool)
  /-- GET_VERSION (R509): SPDM version negotiation. -/
  | getVersion (m : Medium)
  /-- GET_CAPABILITIES (R509): SPDM capability exchange. -/
  | getCapabilities (m : Medium) (version : Nat)
  /-- NEGOTIATE_ALGORITHMS (R509): SPDM algorithm negotiation. -/
  | negotiateAlgorithms (m : Medium)
  /-- GET_DIGESTS (R511): Returns the certificate chain digests. -/
  | getDigests (m : Medium)
  /-- GET_CERTIFICATE (R511): Returns the slot 0 or slot 1 chain. -/
  | getCertificate (m : Medium) (slot offset len : Nat)
  /-- CHALLENGE (R511): Signed challenge response. -/
  | challenge (m : Medium) (slot : Nat)
  /-- GET_MEASUREMENTS (R510): Returns the measurement blocks taken at response time. -/
  | getMeasurements (m : Medium) (index slot : Nat) (signed : Bool)
  /-- KEY_EXCHANGE (R509): Opens a secured session, up to 8 at once. -/
  | keyExchange (m : Medium) (slot : Nat)
  /-- FINISH (R509): Completes secured session establishment. -/
  | finish (session : Nat)
  /-- HEARTBEAT (R509): SPDM session heartbeat. -/
  | heartbeat (session : Nat)
  /-- KEY_UPDATE (R509): Updates session keys. -/
  | keyUpdate (session : Nat)
  /-- END_SESSION (R509): Closes a secured session. -/
  | endSession (session : Nat)
  /-- GET_SESSION_TOKEN (R513): Returns the session token once over SPDM. -/
  | getSessionToken (ch : SpdmChan)
  /-- MACSEC_SET_SA (R513): Installs a MACsec SA. -/
  | macsecSetSa (ch : SpdmChan) (sa : SaFields)
  /-- MACSEC_CLEAR_SA (R513): Removes a MACsec SA and erases its key. -/
  | macsecClearSa (ch : SpdmChan) (port dir an sci : Nat)
  /-- SET_POLICY (R514): Stores a new policy for the next cold reset. -/
  | setPolicy (ch : SpdmChan) (requireIde bmcCap bmcKeys bmcFwu : Nat)
  /-- QUERY (R515): IDE_KM query. -/
  | query (ch : SpdmChan)
  /-- KEY_PROG (R515): IDE_KM key programming. -/
  | keyProg (ch : SpdmChan) (stream set sub : Nat)
  /-- K_SET_GO (R515): Activates an IDE key set. -/
  | kSetGo (ch : SpdmChan) (stream set sub : Nat)
  /-- K_SET_STOP (R515): Stops an IDE key set. -/
  | kSetStop (ch : SpdmChan) (stream set sub : Nat)
  /-- IDE_CHECK_FAIL (R516): A stream fails an integrity check and becomes Insecure. -/
  | ideCheckFail (stream : Nat)
  /-- MACSEC_TX_AN_WRITE (R518): A new TX_AN selects the transmit SA at the next frame boundary. -/
  | macsecTxAnWrite (a : Access)
  /-- MEM_CRYPT_ENABLE (R520): ENABLE of CTX.MEM_CRYPT generates and installs, or erases, the context key. -/
  | memCryptEnable (a : Access)
  /-- SET_ENDPOINT_ID (R521): MCTP control: assigns the EID. -/
  | setEndpointId (m : Medium) (eid : Nat)
  /-- GET_ENDPOINT_ID (R521): MCTP control: returns the EID. -/
  | getEndpointId (m : Medium)
  /-- GET_MCTP_VERSION_SUPPORT (R521): MCTP control: returns the supported versions. -/
  | getMctpVersionSupport (m : Medium)
  /-- GET_MESSAGE_TYPE_SUPPORT (R521): MCTP control: returns the supported message types. -/
  | getMessageTypeSupport (m : Medium)
  /-- GET_ENDPOINT_UUID (R521): MCTP control: returns the endpoint UUID. -/
  | getEndpointUuid (m : Medium)
  /-- SETDASA (R522): I3C dynamic address assignment from the static address. -/
  | setdasa (static dynamic : Nat)
  /-- ENTDAA (R522): I3C dynamic address assignment procedure. -/
  | entdaa (dynamic : Nat)
  /-- GET_TID (R523): PLDM GetTID. -/
  | getTid (m : Medium)
  /-- SET_TID (R523): PLDM SetTID. -/
  | setTid (m : Medium) (tid : Nat)
  /-- GET_PLDM_VERSION (R523): PLDM GetPLDMVersion. -/
  | getPldmVersion (m : Medium)
  /-- GET_PLDM_TYPES (R523): PLDM GetPLDMTypes. -/
  | getPldmTypes (m : Medium)
  /-- GET_PLDM_COMMANDS (R523): PLDM GetPLDMCommands. -/
  | getPldmCommands (m : Medium) (ty : Nat)
  /-- GET_PDR_REPOSITORY_INFO (R523): PLDM GetPDRRepositoryInfo. -/
  | getPdrRepositoryInfo (m : Medium)
  /-- GET_PDR (R525): Returns a PDR of the repository. -/
  | getPdr (m : Medium) (id : Nat)
  /-- GET_SENSOR_READING (R525): Returns the last refreshed numeric sensor value. -/
  | getSensorReading (m : Medium) (id : Nat)
  /-- GET_STATE_SENSOR_READINGS (R525): Returns the state sensor readings. -/
  | getStateSensorReadings (m : Medium) (id : Nat)
  /-- GET_NUMERIC_EFFECTER_VALUE (R525): Reads a numeric effecter. -/
  | getNumericEffecterValue (m : Medium) (id : Nat)
  /-- SET_NUMERIC_EFFECTER_VALUE (R526): Writes the power cap or window, subject to range and BMC_CAP. -/
  | setNumericEffecterValue (m : Medium) (id value : Nat)
  /-- SET_STATE_EFFECTER_STATES (R527): Sets the SIDE_SIG function through effecter 0x0102. -/
  | setStateEffecterStates (m : Medium) (id state : Nat)
  /-- SET_EVENT_RECEIVER (R523): Sets the receiver of PlatformEventMessage. -/
  | setEventReceiver (m : Medium) (eid : Nat)
  /-- GET_FRU_RECORD_TABLE_METADATA (R523): PLDM FRU table metadata. -/
  | getFruRecordTableMetadata (m : Medium)
  /-- GET_FRU_RECORD_TABLE (R523): PLDM FRU record table. -/
  | getFruRecordTable (m : Medium)
  /-- REQUEST_UPDATE (R524): Begins a PLDM firmware update. -/
  | requestUpdate (m : Medium)
  /-- PASS_COMPONENT_TABLE (R524): PLDM component table. -/
  | passComponentTable (m : Medium) (types : List Nat)
  /-- UPDATE_COMPONENT (R524): Transfers one image type and stages it. -/
  | updateComponent (m : Medium) (ty : Nat) (image : List Byte) (digestOk signaturesOk : Bool)
  /-- ACTIVATE_FIRMWARE (R524): Submits an activation of the transferred types. -/
  | activateFirmware (m : Medium)
  /-- GET_STATUS (R524): Reports update progress. -/
  | getStatus (m : Medium)
  /-- CANCEL_UPDATE_COMPONENT (R524): Cancels a component transfer. -/
  | cancelUpdateComponent (m : Medium)
  /-- CANCEL_UPDATE (R524): Cancels the update. -/
  | cancelUpdate (m : Medium)
  /-- SIDE_CFG_WRITE (R527): A PF write of MGT.SIDE_CFG is applied, conflicts or displaces by the function rules. -/
  | sideCfgWrite (a : Access)
  /-- SIDE_PULSE_END (R528): A 1 µs SYNC_MARK pulse or its low gap ends and the next queued pulse may start. -/
  | sidePulseEnd
  /-- RECOVERY_IMAGE (R506): The boot ROM accepts a type 0 image over I3C and runs it if it verifies. -/
  | recoveryImage (region : Nat) (image : List Byte) (digestOk signaturesOk : Bool)
  /-- INSERTION (R534): Contacts mate and the bulk capacitance pre-charges. -/
  | insertion
  /-- MAIN_SWITCH_CLOSE (R534): Bulk within 2 V of P54V closes the main switch. -/
  | mainSwitchClose
  /-- EXTRACTION (R535): PRSNT_N breaks and the main switch opens within 200 µs. -/
  | extraction
  /-- INPUT_UNDERVOLTAGE (R536): Input below 44 V for 1 ms opens the switch and stops every partition. -/
  | inputUndervoltage
  /-- INPUT_RETURN (R536): Input back above 48 V pre-charges and performs a cold reset. -/
  | inputReturn (t : SelfTest)
  /-- POWER_UP (R540): A cold power-up runs from the auxiliary rails to running partitions. -/
  | powerUp (t : SelfTest)
  /-- PERST_DEASSERT (R541): PERST# deassertion starts link training within 20 ms. -/
  | perstDeassert
  /-- REFCLK_LOSS (R539): REFCLK is lost and the timebase switches to the oscillator while the link goes down. -/
  | refclkLoss
  /-- REFCLK_RETURN (R539): REFCLK is stable for 1 ms and the timebase switches back. -/
  | refclkReturn
  /-- COLD_RESET (R552): A COLD write resets the whole module, writing no completion records. -/
  | coldReset (a : Access) (t : SelfTest)
  /-- WARM_RESET (R545): A WARM write resets every region and applies MODE_NEXT. -/
  | warmReset (a : Access) (t : SelfTest)
  /-- STANDBY_ENTRY (R547): PWR_EN falling stops the partitions, self-refreshes the stacks and powers down VDD_CORE. -/
  | standbyEntry
  /-- STANDBY_EXIT (R547): PWR_EN rising boots every partition and keeps the tier contents. -/
  | standbyExit (t : SelfTest)
  /-- HOST_INTERFACE_FAULT (R29): A logic check in the host interface or timebase (event 0xC303) is a device-level
  fault that stops every partition. -/
  | hostInterfaceFault
  /-- HOST_LINK_UP (R541): PCI Express link training completes and the link goes up (HIF.LINK_STATUS.UP becomes 1),
  including after the link partner returns from a loss of host. -/
  | hostLinkUp (rate width : Nat) (flit : Bool)
  /-- LANE_TRAINING_DONE (R378): Ethernet lane training completes, and a port goes up once all its lanes are up. -/
  | laneTrainingDone (lane : Nat)
  /-- COUNT_CTL_CLEAR (R122): A write of 1 to CLEAR in MXU, SCH, L2, STK, XLT or REG.COH COUNT_CTL sets that block's
  event counters to zero in one update. -/
  | countCtlClear (a : Access)
  /-- ACK_COALESCE_TIMEOUT (R396): The 4 µs coalescing timer expires, and the receiver sends a cumulative Fletus ACK
  or a RoCE Acknowledge for the packets it holds unacknowledged. -/
  | ackCoalesceTimeout (part slot rank : Nat) (fletus : Bool)
  /-- RNR_RETRY_TIMEOUT (R388): The 0.01 ms RNR NAK timer expires, and the sender tries the held RDMA packet again. -/
  | rnrRetryTimeout (part slot rank : Nat)
deriving DecidableEq, Repr

end Sys2Proof
end

