-- ==== Sys2Proof/WellFormed.lean ====
section
/-! DEFINITION. Which commands are well formed: every operand in the range that its field has in the spec (R15, R18, R162). The
effect of a command is defined for every operand; well-formedness says which of them a sender can form. -/

namespace Sys2Proof.Machine

/-- The fields of a base word have 3, 8 and 15 bits (R162); a core, a group position and a lane are numbered as R15 and R204 say. -/
def Issue.wf (x : Issue) : Bool :=
  decide (x.core < 1152) && decide (x.pos < 64) && decide (x.lane < 32) && decide (x.gp < 8) && decide (x.d < 256)
    && decide (x.a < 256) && decide (x.b < 256) && decide (x.c < 256) && decide (x.mod < 2 ^ 15)
    && decide (x.reserved = none)

/-- A NOP also stands for a word whose class or opcode is reserved. -/
def Issue.wfNop (x : Issue) : Bool :=
  ({ x with reserved := none } : Issue).wf
    && (decide (x.reserved = none) || decide (x.reserved = some 0) || decide (x.reserved = some 4))

/-- A register access has four or eight bytes at a multiple of its size within the register space (R18, R340). -/
def Access.wf (a : Access) : Bool :=
  (decide (a.size = 4) || decide (a.size = 8)) && decide (a.addr % a.size = 0) && decide (a.addr < 2 ^ 40)

/-- A host access names a function, the first register of a BAR pair, and carries as many bytes as its length when it writes. -/
def BarReq.wf (r : BarReq) : Bool :=
  decide (r.rid < 2 ^ 16) && decide (r.fn < 64) && (decide (r.bar = 0) || decide (r.bar = 2) || decide (r.bar = 4))
    && decide (1 ≤ r.len) && (!r.write || decide (r.data.length = r.len))

/-- A self-test names clusters, seams, stacks and lanes that exist (R15). -/
def SelfTest.wf (t : SelfTest) : Bool :=
  t.badSlots.all (fun e => decide (e.1 < 144) && decide (e.2 < 8)) && t.badSeams.all (fun k => decide (k < 4))
    && t.badStacks.all (fun k => decide (k < 24)) && t.badLanes.all (fun k => decide (k < 64))

/-- A secured request names one of the sessions (R509). -/
def SpdmChan.wf (c : SpdmChan) : Bool := c.session.all (fun n => decide (n < 2 ^ 32))

/-- The fields of a security association have the widths of R513. -/
def SaFields.wf (f : SaFields) : Bool :=
  decide (f.port < 2 ^ 8) && decide (f.dir < 2 ^ 8) && decide (f.an < 2 ^ 8) && decide (f.suite < 2 ^ 8) && decide (f.sci < 2 ^ 64)
    && decide (f.ssci < 2 ^ 32) && decide (f.salt < 2 ^ 96) && decide (f.pn < 2 ^ 64) && decide (f.sak < 2 ^ 256)

/-- A block-level part is a cluster, a stack or a port block of the device (R15, R29). -/
def BlockPart.wf : BlockPart → Bool
  | .cluster k => decide (k < 144)
  | .stack k => decide (k < 24)
  | .port k => decide (k < 8)

/-- A counter is one of a core's 48 or of a region's 512 (R233). -/
def CtrName.wf : CtrName → Bool
  | .core c i => decide (c < 1152) && decide (i < 48)
  | .region r i => decide (r < 4) && decide (i < 512)

/-- A fine atomic has four or eight bytes (R182). -/
def FineOp.wf : FineOp → Bool
  | .atomic _ size _ _ => decide (size = 4) || decide (size = 8)
  | .read _ => true
  | .write _ => true

end Sys2Proof.Machine

namespace Sys2Proof

open Sys2Proof.Machine

/-- A firmware core: the security, power and scheduler cores of the regions, and the cluster control cores (R457). -/
def fwNumber (fw : Nat) : Bool := decide (fw < 12) || (decide (16 ≤ fw) && decide (fw < 160))

/-- An operator command comes from a queue, or from a peer into the remote commands of one of the 16 slots, numbered after the queues
(R403). -/
def operatorQueue (q : Nat) : Bool := decide (q < 32784)

/-- Is the command well formed? -/
def Instr.wf : Instr → Bool
  | .registerWrite a => a.wf
  | .invalidAccess a _ => a.wf
  | .seamFail seam => decide (seam < 4)
  | .partitionReset a t => a.wf && t.wf
  | .cellFault core _ => decide (core < 1152)
  | .blockFault part => part.wf
  | .regionStop region _ => decide (region < 4)
  | .coreDisable core => decide (core < 1152)
  | .mov x => x.wf
  | .add x => x.wf
  | .sub x => x.wf
  | .mul x => x.wf
  | .mulhi x => x.wf
  | .mad x => x.wf
  | .min x => x.wf
  | .max x => x.wf
  | .and x => x.wf
  | .or x => x.wf
  | .xor x => x.wf
  | .not x => x.wf
  | .shl x => x.wf
  | .shr x => x.wf
  | .sar x => x.wf
  | .popc x => x.wf
  | .clz x => x.wf
  | .bfe x => x.wf
  | .sel x => x.wf
  | .cmp x => x.wf
  | .shfl x => x.wf
  | .vote x => x.wf
  | .pop x => x.wf
  | .fpAdd x => x.wf
  | .fpSub x => x.wf
  | .fpMul x => x.wf
  | .fpFma x => x.wf
  | .fpDiv x => x.wf
  | .fpSqrt x => x.wf
  | .fpMin x => x.wf
  | .fpMax x => x.wf
  | .fpNeg x => x.wf
  | .fpAbs x => x.wf
  | .fpCmp x => x.wf
  | .fpClass x => x.wf
  | .fpFromint x => x.wf
  | .fpToint x => x.wf
  | .fpExp x => x.wf
  | .fpLog x => x.wf
  | .fpRsqrt x => x.wf
  | .fpSin x => x.wf
  | .fpCos x => x.wf
  | .cvt x => x.wf
  | .ld x => x.wf
  | .st x => x.wf
  | .atomAdd x => x.wf
  | .atomMin x => x.wf
  | .atomMax x => x.wf
  | .atomAnd x => x.wf
  | .atomOr x => x.wf
  | .atomXor x => x.wf
  | .atomExch x => x.wf
  | .atomCas x => x.wf
  | .atomExact x => x.wf
  | .atomLf x => x.wf
  | .fenceWg x => x.wf
  | .fencePart x => x.wf
  | .fenceRemote x => x.wf
  | .fenceGlobal x => x.wf
  | .ncInv x => x.wf
  | .tmCopy x => x.wf
  | .tileMoveComplete core _ => decide (core < 1152)
  | .nop x => x.wfNop
  | .bra x => x.wf
  | .call x => x.wf
  | .jmp x => x.wf
  | .converge x => x.wf
  | .convergeRelease core pos => decide (core < 1152) && decide (pos < 64)
  | .exit x => x.wf
  | .trap x => x.wf
  | .barSync x => x.wf
  | .barArrive x => x.wf
  | .barWait x => x.wf
  | .barrierDeadlock core _ => decide (core < 1152)
  | .groupPromotion core pos => decide (core < 1152) && decide (pos < 64)
  | .setPromotion core pos lane => decide (core < 1152) && decide (pos < 64) && decide (lane < 32)
  | .mxMma x => x.wf
  | .mxLdlf x => x.wf
  | .mxDrain x => x.wf
  | .mxZero x => x.wf
  | .matrixInstructionStart core => decide (core < 1152)
  | .recordMerge _ => true
  | .cntAdd x => x.wf
  | .cntWait x => x.wf
  | .cntClaim x => x.wf
  | .cntRead x => x.wf
  | .sysGet x => x.wf
  | .counterArbitration ctr _ => ctr.wf
  | .counterDeadline _ => true
  | .taskBind _ => true
  | .regionCounterGrant a => a.wf
  | .regionCounterRevoke a => a.wf
  | .retentionEntry core => decide (core < 1152)
  | .retentionExit core => decide (core < 1152)
  | .loadReturn core _ _ => decide (core < 1152)
  | .deferredFault core _ => decide (core < 1152)
  | .faultReadWrite a => a.wf
  | .faultRelease a => a.wf
  | .workgroupDispatch _ core => decide (core < 1152)
  | .coreTaskBegin _ core => decide (core < 1152)
  | .timeLimitExpiry _ => true
  | .contextSwitch ctx => decide (ctx < 4096)
  | .contextResume ctx => decide (ctx < 4096)
  | .victimOffer canvas => decide (canvas < 12)
  | .splitChange a => a.wf
  | .splitChangeDone region => decide (region < 4)
  | .fineRequest ctx _ op => decide (ctx < 4096) && op.wf
  | .exactAddApply core _ => decide (core < 1152)
  | .longFormAdd core _ => decide (core < 1152)
  | .writeBatchTurn chan => decide (chan < 768)
  | .stackTempRead stack _ => decide (stack < 24)
  | .stackOffline stack => decide (stack < 24)
  | .scrub stack _ _ => decide (stack < 24)
  | .readShared _ _ => true
  | .readUnique _ _ => true
  | .readUniqueNoData _ _ => true
  | .upgrade _ _ => true
  | .cleanEvict _ _ => true
  | .writeBack _ _ => true
  | .grantAcknowledge _ _ => true
  | .snoopShared _ _ => true
  | .snoopInvalidate _ _ => true
  | .snoopPeek _ _ => true
  | .snoopPurge _ _ => true
  | .nonCachingRead _ => true
  | .nonCachingWrite _ _ _ => true
  | .nonCachingAtomic _ _ _ _ _ => true
  | .agentReclaim _ => true
  | .streamPrefetch cluster ctx _ => decide (cluster < 144) && decide (ctx < 4096)
  | .faultBatchClose region => decide (region < 4)
  | .xfrRetry a => a.wf
  | .xfrFailUnmapped a => a.wf
  | .xfrFailPermission a => a.wf
  | .xfrReadWrite a => a.wf
  | .tlbInvalidate a _ => a.wf
  | .ctxPtWrite a => a.wf
  | .grantWrite a => a.wf
  | .grantFlushWrite a => a.wf
  | .sfenceBroadcast region ctx _ _ => decide (region < 4) && decide (ctx < 4096)
  | .barAccess r => r.wf
  | .bar2Access r => r.wf
  | .apertureAccess r => r.wf
  | .barReadTimeout _ => true
  | .vfAssign a => a.wf
  | .sqDoorbell fn q _ => decide (fn < 64) && decide (q < 32768)
  | .cqDoorbell fn q _ => decide (fn < 64) && decide (q < 32768)
  | .commandFetch q _ => decide (q < 32768)
  | .completionRecord q _ _ => decide (q < 32768)
  | .queueEnable a => a.wf
  | .queueDisable a => a.wf
  | .dmaChunk q _ _ _ => decide (q < 32768)
  | .nopCommand q _ => decide (q < 32768)
  | .fence q _ => decide (q < 32768)
  | .launch q _ => decide (q < 32768)
  | .cntAddCommand q _ => decide (q < 32768)
  | .cntWaitCommand q _ => decide (q < 32768)
  | .alloc q _ => decide (q < 32768)
  | .free q _ => decide (q < 32768)
  | .hostToDev q _ => decide (q < 32768)
  | .devToHost q _ => decide (q < 32768)
  | .copy q _ => decide (q < 32768)
  | .fill q _ => decide (q < 32768)
  | .inlineWrite q _ => decide (q < 32768)
  | .matmul q _ => operatorQueue q
  | .conv q _ => operatorQueue q
  | .mapConvert q _ => operatorQueue q
  | .mapAdd q _ => operatorQueue q
  | .mapSubtract q _ => operatorQueue q
  | .mapMultiply q _ => operatorQueue q
  | .mapFma q _ => operatorQueue q
  | .mapDivide q _ => operatorQueue q
  | .mapSquareRoot q _ => operatorQueue q
  | .mapMin q _ => operatorQueue q
  | .mapMax q _ => operatorQueue q
  | .mapRelu q _ => operatorQueue q
  | .mapExp q _ => operatorQueue q
  | .mapLog q _ => operatorQueue q
  | .mapReciprocalSquareRoot q _ => operatorQueue q
  | .mapSine q _ => operatorQueue q
  | .mapCosine q _ => operatorQueue q
  | .reduceSum q _ => operatorQueue q
  | .reduceMin q _ => operatorQueue q
  | .reduceMax q _ => operatorQueue q
  | .sort q _ => operatorQueue q
  | .select q _ => operatorQueue q
  | .hostLoss _ => true
  | .heartbeatExpiry => true
  | .heartbeatKick a => a.wf
  | .detach a => a.wf
  | .vfFlr v => decide (1 ≤ v) && decide (v ≤ 63)
  | .attachFresh a => a.wf
  | .resume a => a.wf
  | .resumeHost a => a.wf
  | .tokenRead fn _ _ => decide (fn < 64)
  | .tokenLockoutEnd => true
  | .frameReceive block _ => decide (block < 8)
  | .pfcReceive block _ _ _ => decide (block < 8)
  | .splitWrite a => a.wf
  | .rdmaWritePacket block => decide (block < 8)
  | .rdmaReadRequest block => decide (block < 8)
  | .rdmaReadResponse block => decide (block < 8)
  | .roceAcknowledge block => decide (block < 8)
  | .roceNak block => decide (block < 8)
  | .cnp block => decide (block < 8)
  | .rateRecovery part slot _ _ => decide (part < 4) && decide (slot < 4)
  | .retransmitTimeout part slot _ _ => decide (part < 4) && decide (slot < 4)
  | .rdmaWrite q _ => decide (q < 32768)
  | .rdmaRead q _ => decide (q < 32768)
  | .rdmaCntAdd q _ => decide (q < 32768)
  | .remoteOp q _ => decide (q < 32768)
  | .jobLoad q _ => decide (q < 32768)
  | .jobTeardown q _ => decide (q < 32768)
  | .teardownDone part slot => decide (part < 4) && decide (slot < 4)
  | .allReduce q _ => decide (q < 32768)
  | .reduceScatter q _ => decide (q < 32768)
  | .allGather q _ => decide (q < 32768)
  | .broadcast q _ => decide (q < 32768)
  | .reduceToRoot q _ => decide (q < 32768)
  | .recordAllReduce q _ => decide (q < 32768)
  | .collectiveBarrier q _ => decide (q < 32768)
  | .fletusData block => decide (block < 8)
  | .fletusAck block => decide (block < 8)
  | .fletusNack block => decide (block < 8)
  | .prepare block => decide (block < 8)
  | .prepareAck block => decide (block < 8)
  | .notPrepared block => decide (block < 8)
  | .arm block => decide (block < 8)
  | .armAck block => decide (block < 8)
  | .abort block => decide (block < 8)
  | .abortAck block => decide (block < 8)
  | .launchChildTimeout part slot _ => decide (part < 4) && decide (slot < 4)
  | .launchHoldTimeout part slot => decide (part < 4) && decide (slot < 4)
  | .cmd block => decide (block < 8)
  | .cmdDone block => decide (block < 8)
  | .fletusRecord block => decide (block < 8)
  | .ptpSync _ _ _ => true
  | .ptpSyncLoss => true
  | .recordStart a => a.wf
  | .recordStop a => a.wf
  | .replayStart a => a.wf
  | .replayStop a => a.wf
  | .journalFlush part => decide (part < 4)
  | .skbMark a => a.wf
  | .skbCheck a => a.wf
  | .skbRelease a => a.wf
  | .replayPauseSeq a => a.wf
  | .replayEntry part => decide (part < 4)
  | .replayStall part => decide (part < 4)
  | .powerPeriod _ => true
  | .powerReport region _ => decide (region < 4)
  | .powerReportTimeout region => decide (region < 4)
  | .thermalSample region _ _ => decide (region < 4)
  | .fastLimitSample _ => true
  | .supplyFault => true
  | .droop region _ _ => decide (region < 4)
  | .vddUndervoltage region => decide (region < 4)
  | .vddOvervoltage region => decide (region < 4)
  | .ageingUpdate region _ _ => decide (region < 4)
  | .watchdogExpiry fw => fwNumber fw
  | .firmwareRestartDone fw => fwNumber fw
  | .eventDrain region => decide (region < 4)
  | .stageImage a _ _ => a.wf
  | .stagingDone => true
  | .activate a => a.wf
  | .activateOnReset a => a.wf
  | .activateCancel a => a.wf
  | .activationQuiesce => true
  | .quiesceTimeout => true
  | .confirmTimeout => true
  | .activationConfirm fw => fwNumber fw
  | .fwuNoRootTimeout => true
  | .rowRetire _ => true
  | .laneRetrain lane => decide (lane < 64)
  | .eventIrqDeferred region => decide (region < 4)
  | .evtBaseWrite a => a.wf
  | .calExport a => a.wf
  | .calImport a _ => a.wf
  | .getVersion _ => true
  | .getCapabilities _ _ => true
  | .negotiateAlgorithms _ => true
  | .getDigests _ => true
  | .getCertificate _ _ _ _ => true
  | .challenge _ _ => true
  | .getMeasurements _ _ _ _ => true
  | .keyExchange _ _ => true
  | .finish _ => true
  | .heartbeat _ => true
  | .keyUpdate _ => true
  | .endSession _ => true
  | .getSessionToken ch => ch.wf
  | .macsecSetSa ch sa => ch.wf && sa.wf
  | .macsecClearSa ch port dir an sci =>
    ch.wf && decide (port < 2 ^ 8) && decide (dir < 2 ^ 8) && decide (an < 2 ^ 8) && decide (sci < 2 ^ 64)
  | .setPolicy ch a b c d => ch.wf && decide (a < 2 ^ 8) && decide (b < 2 ^ 8) && decide (c < 2 ^ 8) && decide (d < 2 ^ 8)
  | .query ch => ch.wf
  | .keyProg ch _ _ _ => ch.wf
  | .kSetGo ch _ _ _ => ch.wf
  | .kSetStop ch _ _ _ => ch.wf
  | .ideCheckFail _ => true
  | .macsecTxAnWrite a => a.wf
  | .memCryptEnable a => a.wf
  | .setEndpointId _ _ => true
  | .getEndpointId _ => true
  | .getMctpVersionSupport _ => true
  | .getMessageTypeSupport _ => true
  | .getEndpointUuid _ => true
  | .setdasa _ _ => true
  | .entdaa _ => true
  | .getTid _ => true
  | .setTid _ _ => true
  | .getPldmVersion _ => true
  | .getPldmTypes _ => true
  | .getPldmCommands _ _ => true
  | .getPdrRepositoryInfo _ => true
  | .getPdr _ _ => true
  | .getSensorReading _ _ => true
  | .getStateSensorReadings _ _ => true
  | .getNumericEffecterValue _ _ => true
  | .setNumericEffecterValue _ _ _ => true
  | .setStateEffecterStates _ _ _ => true
  | .setEventReceiver _ _ => true
  | .getFruRecordTableMetadata _ => true
  | .getFruRecordTable _ => true
  | .requestUpdate _ => true
  | .passComponentTable _ _ => true
  | .updateComponent _ _ _ _ _ => true
  | .activateFirmware _ => true
  | .getStatus _ => true
  | .cancelUpdateComponent _ => true
  | .cancelUpdate _ => true
  | .sideCfgWrite a => a.wf
  | .sidePulseEnd => true
  | .recoveryImage region _ _ _ => decide (region < 4)
  | .insertion => true
  | .mainSwitchClose => true
  | .extraction => true
  | .inputUndervoltage => true
  | .inputReturn t => t.wf
  | .powerUp t => t.wf
  | .perstDeassert => true
  | .refclkLoss => true
  | .refclkReturn => true
  | .coldReset a t => a.wf && t.wf
  | .warmReset a t => a.wf && t.wf
  | .standbyEntry => true
  | .standbyExit t => t.wf
  | .hostInterfaceFault => true
  | .hostLinkUp _ _ _ => true
  | .laneTrainingDone lane => decide (lane < 64)
  | .countCtlClear a => a.wf
  | .ackCoalesceTimeout part slot _ _ => decide (part < 4) && decide (slot < 4)
  | .rnrRetryTimeout part slot _ => decide (part < 4) && decide (slot < 4)

end Sys2Proof
end

