-- ==== Sys2Proof/Decode.lean ====
section
/-! DEFINITION. The words of commands. The opcode table gives no command bits; the Kwaok instructions have words of their own
(R162 to R166), read and written here. -/

namespace Sys2Proof

open Sys2Proof.Machine

/-- The command that a word spells by the table's bits: no row of spec/opcode_table.json gives bits, so none. -/
def decodeTableWord (_nbits _w : Nat) : Option Instr := none

/-- The class, the opcode and the fields of a Kwaok instruction (R165, R173, R176, R181, R182, R187, R190, R192, R200, R203). -/
def Instr.kwaok : Instr → Option (Nat × Nat × Issue)
  | .mov x => some (0x0, 0x00, x)
  | .add x => some (0x0, 0x01, x)
  | .sub x => some (0x0, 0x02, x)
  | .mul x => some (0x0, 0x03, x)
  | .mulhi x => some (0x0, 0x04, x)
  | .mad x => some (0x0, 0x05, x)
  | .min x => some (0x0, 0x06, x)
  | .max x => some (0x0, 0x07, x)
  | .and x => some (0x0, 0x08, x)
  | .or x => some (0x0, 0x09, x)
  | .xor x => some (0x0, 0x0A, x)
  | .not x => some (0x0, 0x0B, x)
  | .shl x => some (0x0, 0x0C, x)
  | .shr x => some (0x0, 0x0D, x)
  | .sar x => some (0x0, 0x0E, x)
  | .popc x => some (0x0, 0x0F, x)
  | .clz x => some (0x0, 0x10, x)
  | .bfe x => some (0x0, 0x11, x)
  | .sel x => some (0x0, 0x12, x)
  | .cmp x => some (0x0, 0x13, x)
  | .shfl x => some (0x0, 0x14, x)
  | .vote x => some (0x0, 0x15, x)
  | .pop x => some (0x0, 0x16, x)
  | .fpAdd x => some (0x1, 0x00, x)
  | .fpSub x => some (0x1, 0x01, x)
  | .fpMul x => some (0x1, 0x02, x)
  | .fpFma x => some (0x1, 0x03, x)
  | .fpDiv x => some (0x1, 0x04, x)
  | .fpSqrt x => some (0x1, 0x05, x)
  | .fpMin x => some (0x1, 0x06, x)
  | .fpMax x => some (0x1, 0x07, x)
  | .fpNeg x => some (0x1, 0x08, x)
  | .fpAbs x => some (0x1, 0x09, x)
  | .fpCmp x => some (0x1, 0x0A, x)
  | .fpClass x => some (0x1, 0x0B, x)
  | .fpFromint x => some (0x1, 0x0C, x)
  | .fpToint x => some (0x1, 0x0D, x)
  | .fpExp x => some (0x1, 0x10, x)
  | .fpLog x => some (0x1, 0x11, x)
  | .fpRsqrt x => some (0x1, 0x12, x)
  | .fpSin x => some (0x1, 0x13, x)
  | .fpCos x => some (0x1, 0x14, x)
  | .cvt x => some (0x2, 0x00, x)
  | .ld x => some (0x3, 0x00, x)
  | .st x => some (0x3, 0x01, x)
  | .atomAdd x => some (0x3, 0x02, x)
  | .atomMin x => some (0x3, 0x03, x)
  | .atomMax x => some (0x3, 0x04, x)
  | .atomAnd x => some (0x3, 0x05, x)
  | .atomOr x => some (0x3, 0x06, x)
  | .atomXor x => some (0x3, 0x07, x)
  | .atomExch x => some (0x3, 0x08, x)
  | .atomCas x => some (0x3, 0x09, x)
  | .atomExact x => some (0x3, 0x0A, x)
  | .atomLf x => some (0x3, 0x0B, x)
  | .fenceWg x => some (0x3, 0x10, x)
  | .fencePart x => some (0x3, 0x11, x)
  | .fenceRemote x => some (0x3, 0x12, x)
  | .fenceGlobal x => some (0x3, 0x13, x)
  | .ncInv x => some (0x3, 0x14, x)
  | .tmCopy x => some (0x4, 0x00, x)
  | .nop x => some (0x5, 0x00, x)
  | .bra x => some (0x5, 0x01, x)
  | .call x => some (0x5, 0x02, x)
  | .jmp x => some (0x5, 0x03, x)
  | .converge x => some (0x5, 0x04, x)
  | .exit x => some (0x5, 0x05, x)
  | .trap x => some (0x5, 0x06, x)
  | .barSync x => some (0x5, 0x08, x)
  | .barArrive x => some (0x5, 0x09, x)
  | .barWait x => some (0x5, 0x0A, x)
  | .mxMma x => some (0x6, 0x00, x)
  | .mxLdlf x => some (0x6, 0x01, x)
  | .mxDrain x => some (0x6, 0x02, x)
  | .mxZero x => some (0x6, 0x03, x)
  | .cntAdd x => some (0x7, 0x00, x)
  | .cntWait x => some (0x7, 0x01, x)
  | .cntClaim x => some (0x7, 0x02, x)
  | .cntRead x => some (0x7, 0x03, x)
  | .sysGet x => some (0x8, 0x00, x)
  | _ => none

/-- The Kwaok instruction of a class and an opcode; none for a reserved class or opcode, which R166 makes illegal. -/
def kwaokInstr (cls op : Nat) (x : Issue) : Option Instr :=
  match cls, op with
  | 0x0, 0x00 => some (.mov x)
  | 0x0, 0x01 => some (.add x)
  | 0x0, 0x02 => some (.sub x)
  | 0x0, 0x03 => some (.mul x)
  | 0x0, 0x04 => some (.mulhi x)
  | 0x0, 0x05 => some (.mad x)
  | 0x0, 0x06 => some (.min x)
  | 0x0, 0x07 => some (.max x)
  | 0x0, 0x08 => some (.and x)
  | 0x0, 0x09 => some (.or x)
  | 0x0, 0x0A => some (.xor x)
  | 0x0, 0x0B => some (.not x)
  | 0x0, 0x0C => some (.shl x)
  | 0x0, 0x0D => some (.shr x)
  | 0x0, 0x0E => some (.sar x)
  | 0x0, 0x0F => some (.popc x)
  | 0x0, 0x10 => some (.clz x)
  | 0x0, 0x11 => some (.bfe x)
  | 0x0, 0x12 => some (.sel x)
  | 0x0, 0x13 => some (.cmp x)
  | 0x0, 0x14 => some (.shfl x)
  | 0x0, 0x15 => some (.vote x)
  | 0x0, 0x16 => some (.pop x)
  | 0x1, 0x00 => some (.fpAdd x)
  | 0x1, 0x01 => some (.fpSub x)
  | 0x1, 0x02 => some (.fpMul x)
  | 0x1, 0x03 => some (.fpFma x)
  | 0x1, 0x04 => some (.fpDiv x)
  | 0x1, 0x05 => some (.fpSqrt x)
  | 0x1, 0x06 => some (.fpMin x)
  | 0x1, 0x07 => some (.fpMax x)
  | 0x1, 0x08 => some (.fpNeg x)
  | 0x1, 0x09 => some (.fpAbs x)
  | 0x1, 0x0A => some (.fpCmp x)
  | 0x1, 0x0B => some (.fpClass x)
  | 0x1, 0x0C => some (.fpFromint x)
  | 0x1, 0x0D => some (.fpToint x)
  | 0x1, 0x10 => some (.fpExp x)
  | 0x1, 0x11 => some (.fpLog x)
  | 0x1, 0x12 => some (.fpRsqrt x)
  | 0x1, 0x13 => some (.fpSin x)
  | 0x1, 0x14 => some (.fpCos x)
  | 0x2, 0x00 => some (.cvt x)
  | 0x3, 0x00 => some (.ld x)
  | 0x3, 0x01 => some (.st x)
  | 0x3, 0x02 => some (.atomAdd x)
  | 0x3, 0x03 => some (.atomMin x)
  | 0x3, 0x04 => some (.atomMax x)
  | 0x3, 0x05 => some (.atomAnd x)
  | 0x3, 0x06 => some (.atomOr x)
  | 0x3, 0x07 => some (.atomXor x)
  | 0x3, 0x08 => some (.atomExch x)
  | 0x3, 0x09 => some (.atomCas x)
  | 0x3, 0x0A => some (.atomExact x)
  | 0x3, 0x0B => some (.atomLf x)
  | 0x3, 0x10 => some (.fenceWg x)
  | 0x3, 0x11 => some (.fencePart x)
  | 0x3, 0x12 => some (.fenceRemote x)
  | 0x3, 0x13 => some (.fenceGlobal x)
  | 0x3, 0x14 => some (.ncInv x)
  | 0x4, 0x00 => some (.tmCopy x)
  | 0x5, 0x00 => some (.nop x)
  | 0x5, 0x01 => some (.bra x)
  | 0x5, 0x02 => some (.call x)
  | 0x5, 0x03 => some (.jmp x)
  | 0x5, 0x04 => some (.converge x)
  | 0x5, 0x05 => some (.exit x)
  | 0x5, 0x06 => some (.trap x)
  | 0x5, 0x08 => some (.barSync x)
  | 0x5, 0x09 => some (.barArrive x)
  | 0x5, 0x0A => some (.barWait x)
  | 0x6, 0x00 => some (.mxMma x)
  | 0x6, 0x01 => some (.mxLdlf x)
  | 0x6, 0x02 => some (.mxDrain x)
  | 0x6, 0x03 => some (.mxZero x)
  | 0x7, 0x00 => some (.cntAdd x)
  | 0x7, 0x01 => some (.cntWait x)
  | 0x7, 0x02 => some (.cntClaim x)
  | 0x7, 0x03 => some (.cntRead x)
  | 0x8, 0x00 => some (.sysGet x)
  | _, _ => none

/-- The base word of R162. -/
def baseWord (cls op : Nat) (x : Issue) : Word :=
  BitVec.ofNat 64 (cls + op * 2 ^ 4 + (if x.ext.isSome then 1 else 0) * 2 ^ 12 + x.gp * 2 ^ 13 + (if x.gn then 1 else 0) * 2 ^ 16
    + x.d * 2 ^ 17 + x.a * 2 ^ 25 + x.b * 2 ^ 33 + x.c * 2 ^ 41 + x.mod * 2 ^ 49)

/-- The words of a Kwaok instruction: its base word, and its extension word when it has one (R162 to R164). -/
def encode (i : Instr) : Option (List Word) :=
  i.kwaok.map (fun (cls, op, x) => baseWord cls op x :: x.ext.toList)

/-- The instruction that a base word and the word after it spell, at issue by the set of a lane of a group: the second word is the
extension word when EXT is 1 (R162, R163). A reserved class or opcode is an illegal NOP, by the position of that field (R166). -/
def decode (core pos lane : Nat) (base next : Word) : Instr :=
  let cls := base.bits 3 0
  let x : Issue :=
    { core := core, pos := pos, lane := lane, gp := base.bits 15 13, gn := decide (base.bits 16 16 = 1), d := base.bits 24 17,
      a := base.bits 32 25, b := base.bits 40 33, c := base.bits 48 41, mod := base.bits 63 49,
      ext := if base.bits 12 12 = 1 then some next else none }
  match kwaokInstr cls (base.bits 11 4) x with
  | some i => i
  | none => .nop { x with reserved := some (if 8 < cls then 0 else 4) }

/-- Where the instruction issues, for a Kwaok instruction. -/
def Instr.site (i : Instr) : Nat × Nat × Nat :=
  match i.kwaok with
  | some (_, _, x) => (x.core, x.pos, x.lane)
  | none => (0, 0, 0)

end Sys2Proof
end

