-- ==== Sys2Proof/Config.lean ====
section
/-! DEFINITION. What the spec leaves open: free values, opaque constants of which nothing can be proved. Each is applied to
the operands it depends on, or to the counter of free values held in the state (assumption 6). -/

namespace Sys2Proof.Config

/-- The value of a function of a function table edition: edition, function (exp 0, log 1, rsqrt 2, sin 3, cos 4, and the
approximations of the vector operators), format code, operand encoding (R156 to R159). -/
opaque functionTable : Nat → Nat → Nat → Nat → Nat

/-- The n-th 128-bit session token the device draws (R363). -/
opaque sessionToken : Nat → BitVec 128

/-- The byte that memory at an address decrypts to after the n-th change of its granule's key (R520). -/
opaque scrambledByte : Nat → Nat → BitVec 8

/-- The n-th value the spec leaves open. -/
opaque freeWord : Nat → BitVec 64

/-- The n-th generated order of a SELECT under dynamic load balancing: the place of each selected element (R374). -/
opaque selectOrder : Nat → List Nat

/-- The n-th value of a cryptographic operation: a signature, a digest, a key, a certificate chain. -/
opaque cryptoBytes : Nat → List (BitVec 8)

/-- A byte of the shared local memory, registers or accumulators that another workgroup left (R141). -/
opaque leftByte : Nat → Nat → BitVec 8

/-- A byte of the calibration set written at manufacture (R498). -/
opaque factoryCal : Nat → BitVec 8

/-- The module's Device Serial Number (R498). -/
opaque deviceSerial : BitVec 64

/-- The SHA-384 digest of an image's header, and of a region's boot ROM (R510). -/
opaque headerDigest : Nat → List (BitVec 8)
opaque romDigest : Nat → List (BitVec 8)

/-- The bytes of the standards' records that the spec does not list: PDRs, FRU records, the endpoint UUID (R521 to R525). -/
opaque pdrBytes : Nat → List (BitVec 8)
opaque fruBytes : List (BitVec 8)
opaque endpointUuid : List (BitVec 8)

end Sys2Proof.Config
end

