-- ==== Sys2Proof/Machine/RegMap.lean ====
section
/-! DEFINITION. The register map: every register table of the spec, with its block, offset, fields,
      access codes and reset
values (R18, R19, R40 and the register tables of 00 to 19). Where a reset value is fuse or flash content,
      the table gives
the model's shipped value (assumption 4). -/

namespace Sys2Proof.Machine

/-- The register blocks. -/
inductive Block where
  | dev | hif | hwt | awt | tb | pwr | fw | ras | cal | sec | mgt | ctx | qp | reg | stk | port | net | skb | clu | mxu
  | sch | cnt | l2 | xlt
deriving DecidableEq, Repr

/-- Access codes (R19). -/
inductive RegAccess where
  | rw | ro | wo | w1c | rwl
deriving DecidableEq, Repr

/-- The registers, one constructor per register or array of registers. -/
inductive Reg where
  | devIdent
  | devSeamStatus
  | devPartCfg
  | devPartCtl
  | devPartStatus
  | regBondStatus
  | cluIdent
  | cluSlotMap
  | ctxFpMode
  | ctxFpStatus
  | ctxSrSeed
  | ctxDrainCfg
  | ctxDrainStatus
  | mxuStatus
  | mxuActiveSteps
  | mxuFeedWaitSteps
  | mxuDrainWaitSteps
  | mxuHazeBubbles
  | mxuProducts
  | mxuCountCtl
  | ctxState
  | ctxSyncMode
  | ctxSaveBase
  | ctxFaultRing
  | ctxFaultStatus
  | ctxFaultRead
  | ctxFaultPolicy
  | ctxFtRequire
  | schStatus
  | schIssues
  | schPartialIssues
  | schBankReplays
  | schBankWaits
  | schNcHits
  | schNcMisses
  | schAgePromotions
  | schCountCtl
  | cntStatus
  | cntRetentionEntries
  | cntRetentionNs
  | cntDiscarded
  | cntValue
  | regCntOwner
  | regCntStatus
  | regCntDiscarded
  | regCntValue
  | l2Cfg
  | l2Status
  | l2Hits
  | l2Misses
  | l2Writebacks
  | l2VictimsDeclined
  | l2StreamWrites
  | l2CountCtl
  | regSramCfg
  | regSramStatus
  | regSramVictimHits
  | regSramVictimMisses
  | regSramExactWraps
  | regMemFreeNear
  | regMemFreeFar
  | regMemSpills
  | regMcStatus
  | stkStatus
  | stkReadBytes
  | stkWriteBytes
  | stkTurnarounds
  | stkRowConflicts
  | stkThrottleNs
  | stkExactWraps
  | stkCountCtl
  | regCohStatus
  | regCohSnoops
  | regCohRecalls
  | regCohDrops
  | regCohPurges
  | regCohPoisoned
  | regCohCountCtl
  | regGrantNear
  | regGrantFar
  | regGrantScratch
  | ctxPtRoot
  | ctxPtCtl
  | ctxTlbInv
  | regApcCtx
  | regXfrBase
  | regXfrWrite
  | regXfrRead
  | regXfrRespond
  | regXfrCtl
  | regXfrStatus
  | xltStatus
  | xltDemandWalks
  | xltPrefetchWalks
  | xltPrefetchUsed
  | xltCountCtl
  | hifVfCfg
  | qpCfg
  | qpSqBase
  | qpCqBase
  | qpSqHead
  | qpCqTail
  | qpStatus
  | qpDlbCtl
  | hifHostRid
  | hifLinkStatus
  | hifSession
  | hifSessionCtl
  | hifToken
  | hifHeartbeat
  | hwtEntry
  | awtWin
  | portCfg
  | portStatus
  | portMac
  | portPrefix
  | portRxForeign
  | portRxStale
  | portRxEarly
  | portRxOverflow
  | portTxDown
  | portFecUncorrected
  | netCfg
  | netSlot
  | netSlotTable
  | netRdmaStatus
  | tbNow
  | tbCfg
  | tbStatus
  | tbPtpOffset
  | tbRate
  | skbCfg
  | skbBase
  | skbStatus
  | skbWritten
  | skbNextSeq
  | skbReplayLen
  | skbPauseSeq
  | skbDivergeSeq
  | skbMark
  | skbCheckAddr
  | skbCheckLen
  | skbCtx
  | cluStepRate
  | cluTemp
  | cluPathMon
  | pwrCap
  | pwrShare
  | pwrStatus
  | pwrDevW
  | pwrEnergyMj
  | pwrFastEvents
  | regPwrCfg
  | regPwrStatus
  | regPwrBudget
  | regPwrAge
  | regPwrEnergyMj
  | regPwrHazeInt
  | regPwrDroops
  | regPwrRetained
  | fwRoot
  | fwuStageAddr
  | fwuStageCtl
  | fwuActivate
  | fwuStatus
  | regFwStatus
  | regFwEventsLost
  | cluCccStatus
  | rasCfg
  | rasRepairStatus
  | rasIsolate
  | calAddr
  | calCtl
  | calStatus
  | regEvtBase
  | regEvtWrite
  | regEvtRead
  | regEvtCtl
  | regEvtStatus
  | portSecCfg
  | portSecStatus
  | portSecDrops
  | ctxMemCrypt
  | secStatus
  | secCfg
  | secKeyFuses
  | secIdeStatus
  | mgtSideCfg
  | mgtSideStatus
  | mgtCfg
  | devResetCtl
  | devBootStatus
deriving DecidableEq, Repr

/-- A field of a register: its highest and lowest bit, for an array of fields the distance and the count,
      its access code
and its reset value. -/
structure Fld where
  reg : Reg
  hi : Nat
  lo : Nat
  step : Nat := 0
  count : Nat := 1
  acc : RegAccess := .rw
  reset : Nat := 0
deriving DecidableEq, Repr

/-- Where a register stands: its block, offset, and for an array its stride and count. -/
structure RegPlace where
  block : Block
  off : Nat
  stride : Nat := 8
  count : Nat := 1
deriving DecidableEq, Repr

namespace F

-- 00_scope.md
def devIdentGrade : Fld := { reg := .devIdent, hi := 7, lo := 0, acc := .ro, reset := 96 }
def devIdentCoresEnabled : Fld := { reg := .devIdent, hi := 18, lo := 8, acc := .ro, reset := 1152 }
def devIdentStepping : Fld := { reg := .devIdent, hi := 31, lo := 24, acc := .ro, reset := 1 }
def devIdentFtEdition : Fld := { reg := .devIdent, hi := 47, lo := 32, acc := .ro, reset := 1 }
-- 01_easels_and_canvases.md
def devSeamStatusSeam0 : Fld := { reg := .devSeamStatus, hi := 1, lo := 0, acc := .ro, reset := 1 }
def devSeamStatusSeam1 : Fld := { reg := .devSeamStatus, hi := 3, lo := 2, acc := .ro, reset := 1 }
def devSeamStatusSeam2 : Fld := { reg := .devSeamStatus, hi := 5, lo := 4, acc := .ro, reset := 1 }
def devSeamStatusSeam3 : Fld := { reg := .devSeamStatus, hi := 7, lo := 6, acc := .ro, reset := 1 }
def devPartCfgMode : Fld := { reg := .devPartCfg, hi := 1, lo := 0, acc := .ro, reset := 0 }
def devPartCfgModeNext : Fld := { reg := .devPartCfg, hi := 5, lo := 4, acc := .rw, reset := 0 }
def devPartCfgPersist : Fld := { reg := .devPartCfg, hi := 6, lo := 6, acc := .rw, reset := 0 }
def devPartCtlReset : Fld := { reg := .devPartCtl, hi := 3, lo := 0, acc := .wo, reset := 0 }
def devPartCtlZero : Fld := { reg := .devPartCtl, hi := 7, lo := 4, acc := .wo, reset := 0 }
def devPartStatusState : Fld :=
  { reg := .devPartStatus, hi := 3, lo := 0, step := 8, count := 4, acc := .ro, reset := 1 }
def devPartStatusModeChangePending : Fld := { reg := .devPartStatus, hi := 63, lo := 63, acc := .ro, reset := 0 }
def regBondStatusCnv0Active : Fld := { reg := .regBondStatus, hi := 5, lo := 0, acc := .ro, reset := 32 }
def regBondStatusCnv0Spares : Fld := { reg := .regBondStatus, hi := 7, lo := 6, acc := .ro, reset := 2 }
def regBondStatusCnv1Active : Fld := { reg := .regBondStatus, hi := 13, lo := 8, acc := .ro, reset := 32 }
def regBondStatusCnv1Spares : Fld := { reg := .regBondStatus, hi := 15, lo := 14, acc := .ro, reset := 2 }
def regBondStatusCnv2Active : Fld := { reg := .regBondStatus, hi := 21, lo := 16, acc := .ro, reset := 32 }
def regBondStatusCnv2Spares : Fld := { reg := .regBondStatus, hi := 23, lo := 22, acc := .ro, reset := 2 }
def cluIdentGlobalCluster : Fld := { reg := .cluIdent, hi := 7, lo := 0, acc := .ro, reset := 0 }
def cluIdentCluster : Fld := { reg := .cluIdent, hi := 11, lo := 8, acc := .ro, reset := 0 }
def cluIdentCanvas : Fld := { reg := .cluIdent, hi := 13, lo := 12, acc := .ro, reset := 0 }
def cluIdentRegion : Fld := { reg := .cluIdent, hi := 15, lo := 14, acc := .ro, reset := 0 }
def cluIdentQuota : Fld := { reg := .cluIdent, hi := 19, lo := 16, acc := .ro, reset := 8 }
def cluIdentCoresEnabled : Fld := { reg := .cluIdent, hi := 23, lo := 20, acc := .ro, reset := 8 }
def cluSlotMapLog : Fld := { reg := .cluSlotMap, hi := 3, lo := 0, step := 4, count := 8, acc := .ro, reset := 0 }
def cluSlotMapPhysFused : Fld := { reg := .cluSlotMap, hi := 40, lo := 32, acc := .ro, reset := 0 }
def cluSlotMapPhysRetired : Fld := { reg := .cluSlotMap, hi := 49, lo := 41, acc := .ro, reset := 0 }
-- 02_number_formats.md
def ctxFpModeRm : Fld := { reg := .ctxFpMode, hi := 2, lo := 0, acc := .rw, reset := 0 }
def ctxFpModeSubn : Fld := { reg := .ctxFpMode, hi := 5, lo := 4, acc := .rw, reset := 0 }
def ctxFpModeOvf : Fld := { reg := .ctxFpMode, hi := 6, lo := 6, acc := .rw, reset := 0 }
def ctxFpStatusIv : Fld := { reg := .ctxFpStatus, hi := 0, lo := 0, acc := .w1c, reset := 0 }
def ctxFpStatusDz : Fld := { reg := .ctxFpStatus, hi := 1, lo := 1, acc := .w1c, reset := 0 }
def ctxFpStatusOf : Fld := { reg := .ctxFpStatus, hi := 2, lo := 2, acc := .w1c, reset := 0 }
def ctxFpStatusUf : Fld := { reg := .ctxFpStatus, hi := 3, lo := 3, acc := .w1c, reset := 0 }
def ctxFpStatusNx : Fld := { reg := .ctxFpStatus, hi := 4, lo := 4, acc := .w1c, reset := 0 }
def ctxFpStatusFlush : Fld := { reg := .ctxFpStatus, hi := 5, lo := 5, acc := .w1c, reset := 0 }
def ctxSrSeedSeed : Fld := { reg := .ctxSrSeed, hi := 63, lo := 0, acc := .rw, reset := 0 }
-- 03_exact_accumulation.md
def ctxDrainCfgBlotForce : Fld := { reg := .ctxDrainCfg, hi := 0, lo := 0, acc := .rw, reset := 0 }
def ctxDrainCfgStudyBase : Fld := { reg := .ctxDrainCfg, hi := 23, lo := 8, acc := .rw, reset := 65504 }
def ctxDrainCfgStudyWidth : Fld := { reg := .ctxDrainCfg, hi := 28, lo := 24, acc := .rw, reset := 1 }
def ctxDrainStatusSpecial : Fld := { reg := .ctxDrainStatus, hi := 0, lo := 0, acc := .w1c, reset := 0 }
def ctxDrainStatusStudySat : Fld := { reg := .ctxDrainStatus, hi := 1, lo := 1, acc := .w1c, reset := 0 }
def ctxDrainStatusStudyMismatch : Fld := { reg := .ctxDrainStatus, hi := 2, lo := 2, acc := .w1c, reset := 0 }
def ctxDrainStatusLfClass : Fld := { reg := .ctxDrainStatus, hi := 3, lo := 3, acc := .w1c, reset := 0 }
def ctxDrainStatusLfRange : Fld := { reg := .ctxDrainStatus, hi := 4, lo := 4, acc := .w1c, reset := 0 }
def ctxDrainStatusLfForm : Fld := { reg := .ctxDrainStatus, hi := 5, lo := 5, acc := .w1c, reset := 0 }
-- 04_matrix_engine.md
def mxuStatusLayout : Fld := { reg := .mxuStatus, hi := 2, lo := 0, acc := .ro, reset := 0 }
def mxuStatusQueueOcc : Fld := { reg := .mxuStatus, hi := 6, lo := 4, acc := .ro, reset := 0 }
def mxuStatusDrainBusy : Fld := { reg := .mxuStatus, hi := 7, lo := 7, acc := .ro, reset := 0 }
def mxuActiveStepsCount : Fld := { reg := .mxuActiveSteps, hi := 63, lo := 0, acc := .ro, reset := 0 }
def mxuFeedWaitStepsCount : Fld := { reg := .mxuFeedWaitSteps, hi := 63, lo := 0, acc := .ro, reset := 0 }
def mxuDrainWaitStepsCount : Fld := { reg := .mxuDrainWaitSteps, hi := 63, lo := 0, acc := .ro, reset := 0 }
def mxuHazeBubblesCount : Fld := { reg := .mxuHazeBubbles, hi := 63, lo := 0, acc := .ro, reset := 0 }
def mxuProductsCount : Fld := { reg := .mxuProducts, hi := 63, lo := 0, acc := .ro, reset := 0 }
def mxuCountCtlRun : Fld := { reg := .mxuCountCtl, hi := 0, lo := 0, acc := .rw, reset := 1 }
def mxuCountCtlClear : Fld := { reg := .mxuCountCtl, hi := 1, lo := 1, acc := .wo, reset := 0 }
-- 05_kwaok_programming_model.md
def ctxStateState : Fld := { reg := .ctxState, hi := 2, lo := 0, acc := .ro, reset := 0 }
def ctxStatePartition : Fld := { reg := .ctxState, hi := 5, lo := 4, acc := .ro, reset := 0 }
def ctxStateFunction : Fld := { reg := .ctxState, hi := 11, lo := 6, acc := .rw, reset := 0 }
def ctxSyncModeClear : Fld := { reg := .ctxSyncMode, hi := 0, lo := 0, acc := .rw, reset := 0 }
def ctxSaveBaseValid : Fld := { reg := .ctxSaveBase, hi := 0, lo := 0, acc := .rw, reset := 0 }
def ctxSaveBaseBase : Fld := { reg := .ctxSaveBase, hi := 51, lo := 20, acc := .rw, reset := 0 }
def ctxFaultRingLog2Records : Fld := { reg := .ctxFaultRing, hi := 4, lo := 0, acc := .rw, reset := 6 }
def ctxFaultRingBase : Fld := { reg := .ctxFaultRing, hi := 51, lo := 12, acc := .rw, reset := 0 }
def ctxFaultStatusWriteCount : Fld := { reg := .ctxFaultStatus, hi := 31, lo := 0, acc := .ro, reset := 0 }
def ctxFaultStatusDropped : Fld := { reg := .ctxFaultStatus, hi := 47, lo := 32, acc := .w1c, reset := 0 }
def ctxFaultReadReadCount : Fld := { reg := .ctxFaultRead, hi := 31, lo := 0, acc := .rw, reset := 0 }
def ctxFaultPolicyPolicy : Fld := { reg := .ctxFaultPolicy, hi := 1, lo := 0, acc := .rw, reset := 0 }
def ctxFaultPolicyRelease : Fld := { reg := .ctxFaultPolicy, hi := 8, lo := 8, acc := .wo, reset := 0 }
def ctxFtRequireEdition : Fld := { reg := .ctxFtRequire, hi := 15, lo := 0, acc := .rw, reset := 0 }
def ctxFtRequireEnforce : Fld := { reg := .ctxFtRequire, hi := 16, lo := 16, acc := .rw, reset := 0 }
-- 07_thread_groups.md
def schStatusGroupsResident : Fld := { reg := .schStatus, hi := 6, lo := 0, acc := .ro, reset := 0 }
def schStatusWgResident : Fld := { reg := .schStatus, hi := 14, lo := 8, acc := .ro, reset := 0 }
def schStatusGroupsAtBarrier : Fld := { reg := .schStatus, hi := 22, lo := 16, acc := .ro, reset := 0 }
def schStatusGroupsWaiting : Fld := { reg := .schStatus, hi := 30, lo := 24, acc := .ro, reset := 0 }
def schStatusGroupsDiverged : Fld := { reg := .schStatus, hi := 38, lo := 32, acc := .ro, reset := 0 }
def schIssuesCount : Fld := { reg := .schIssues, hi := 63, lo := 0, acc := .ro, reset := 0 }
def schPartialIssuesCount : Fld := { reg := .schPartialIssues, hi := 63, lo := 0, acc := .ro, reset := 0 }
def schBankReplaysCount : Fld := { reg := .schBankReplays, hi := 63, lo := 0, acc := .ro, reset := 0 }
def schBankWaitsCount : Fld := { reg := .schBankWaits, hi := 63, lo := 0, acc := .ro, reset := 0 }
def schNcHitsCount : Fld := { reg := .schNcHits, hi := 63, lo := 0, acc := .ro, reset := 0 }
def schNcMissesCount : Fld := { reg := .schNcMisses, hi := 63, lo := 0, acc := .ro, reset := 0 }
def schAgePromotionsCount : Fld := { reg := .schAgePromotions, hi := 63, lo := 0, acc := .ro, reset := 0 }
def schCountCtlRun : Fld := { reg := .schCountCtl, hi := 0, lo := 0, acc := .rw, reset := 1 }
def schCountCtlClear : Fld := { reg := .schCountCtl, hi := 1, lo := 1, acc := .wo, reset := 0 }
-- 08_counters_and_waiting.md
def cntStatusRetention : Fld := { reg := .cntStatus, hi := 0, lo := 0, acc := .ro, reset := 0 }
def cntStatusNextBound : Fld := { reg := .cntStatus, hi := 1, lo := 1, acc := .ro, reset := 0 }
def cntStatusTxnOcc : Fld := { reg := .cntStatus, hi := 16, lo := 8, acc := .ro, reset := 0 }
def cntStatusTm0Occ : Fld := { reg := .cntStatus, hi := 31, lo := 24, acc := .ro, reset := 0 }
def cntStatusTm1Occ : Fld := { reg := .cntStatus, hi := 39, lo := 32, acc := .ro, reset := 0 }
def cntRetentionEntriesCount : Fld := { reg := .cntRetentionEntries, hi := 63, lo := 0, acc := .ro, reset := 0 }
def cntRetentionNsCount : Fld := { reg := .cntRetentionNs, hi := 63, lo := 0, acc := .ro, reset := 0 }
def cntDiscardedCount : Fld := { reg := .cntDiscarded, hi := 63, lo := 0, acc := .ro, reset := 0 }
def cntValueValue : Fld := { reg := .cntValue, hi := 63, lo := 0, acc := .ro, reset := 0 }
def regCntOwnerContext : Fld := { reg := .regCntOwner, hi := 11, lo := 0, acc := .rw, reset := 0 }
def regCntOwnerValid : Fld := { reg := .regCntOwner, hi := 12, lo := 12, acc := .rw, reset := 0 }
def regCntStatusWaitOcc : Fld := { reg := .regCntStatus, hi := 12, lo := 0, acc := .ro, reset := 0 }
def regCntDiscardedCount : Fld := { reg := .regCntDiscarded, hi := 63, lo := 0, acc := .ro, reset := 0 }
def regCntValueValue : Fld := { reg := .regCntValue, hi := 63, lo := 0, acc := .ro, reset := 0 }
-- 09_memory_tiers.md
def l2CfgRepl : Fld := { reg := .l2Cfg, hi := 0, lo := 0, acc := .rw, reset := 0 }
def l2CfgPairFill : Fld := { reg := .l2Cfg, hi := 1, lo := 1, acc := .rw, reset := 1 }
def l2CfgStreamDetect : Fld := { reg := .l2Cfg, hi := 2, lo := 2, acc := .rw, reset := 1 }
def l2StatusMissOcc : Fld := { reg := .l2Status, hi := 13, lo := 0, acc := .ro, reset := 0 }
def l2StatusBypassing : Fld := { reg := .l2Status, hi := 22, lo := 16, acc := .ro, reset := 0 }
def l2StatusBypassOcc : Fld := { reg := .l2Status, hi := 33, lo := 24, acc := .ro, reset := 0 }
def l2HitsCount : Fld := { reg := .l2Hits, hi := 63, lo := 0, acc := .ro, reset := 0 }
def l2MissesCount : Fld := { reg := .l2Misses, hi := 63, lo := 0, acc := .ro, reset := 0 }
def l2WritebacksCount : Fld := { reg := .l2Writebacks, hi := 63, lo := 0, acc := .ro, reset := 0 }
def l2VictimsDeclinedCount : Fld := { reg := .l2VictimsDeclined, hi := 63, lo := 0, acc := .ro, reset := 0 }
def l2StreamWritesCount : Fld := { reg := .l2StreamWrites, hi := 63, lo := 0, acc := .ro, reset := 0 }
def l2CountCtlRun : Fld := { reg := .l2CountCtl, hi := 0, lo := 0, acc := .rw, reset := 1 }
def l2CountCtlClear : Fld := { reg := .l2CountCtl, hi := 1, lo := 1, acc := .wo, reset := 0 }
def regSramCfgScratchUnits : Fld := { reg := .regSramCfg, hi := 3, lo := 0, acc := .rw, reset := 0 }
def regSramCfgCleanAccept : Fld := { reg := .regSramCfg, hi := 4, lo := 4, acc := .rw, reset := 1 }
def regSramStatusBusy : Fld := { reg := .regSramStatus, hi := 0, lo := 0, acc := .ro, reset := 0 }
def regSramStatusScratchInForce : Fld := { reg := .regSramStatus, hi := 7, lo := 4, acc := .ro, reset := 0 }
def regSramStatusVqOcc : Fld := { reg := .regSramStatus, hi := 18, lo := 8, acc := .ro, reset := 0 }
def regSramVictimHitsCount : Fld := { reg := .regSramVictimHits, hi := 63, lo := 0, acc := .ro, reset := 0 }
def regSramVictimMissesCount : Fld := { reg := .regSramVictimMisses, hi := 63, lo := 0, acc := .ro, reset := 0 }
def regSramExactWrapsCount : Fld := { reg := .regSramExactWraps, hi := 63, lo := 0, acc := .ro, reset := 0 }
def regMemFreeNearFree64k : Fld := { reg := .regMemFreeNear, hi := 23, lo := 0, acc := .ro, reset := 0 }
def regMemFreeFarFree64k : Fld := { reg := .regMemFreeFar, hi := 23, lo := 0, acc := .ro, reset := 0 }
def regMemSpillsCount : Fld := { reg := .regMemSpills, hi := 63, lo := 0, acc := .ro, reset := 0 }
def regMcStatusOcc : Fld := { reg := .regMcStatus, hi := 14, lo := 0, acc := .ro, reset := 0 }
def regMcStatusFull : Fld := { reg := .regMcStatus, hi := 23, lo := 16, acc := .ro, reset := 0 }
def stkStatusTemp : Fld := { reg := .stkStatus, hi := 7, lo := 0, acc := .ro, reset := 0 }
def stkStatusLevel : Fld := { reg := .stkStatus, hi := 10, lo := 8, acc := .ro, reset := 0 }
def stkStatusRefresh2x : Fld := { reg := .stkStatus, hi := 11, lo := 11, acc := .ro, reset := 0 }
def stkStatusOcc : Fld := { reg := .stkStatus, hi := 28, lo := 16, acc := .ro, reset := 0 }
def stkReadBytesCount : Fld := { reg := .stkReadBytes, hi := 63, lo := 0, acc := .ro, reset := 0 }
def stkWriteBytesCount : Fld := { reg := .stkWriteBytes, hi := 63, lo := 0, acc := .ro, reset := 0 }
def stkTurnaroundsCount : Fld := { reg := .stkTurnarounds, hi := 63, lo := 0, acc := .ro, reset := 0 }
def stkRowConflictsCount : Fld := { reg := .stkRowConflicts, hi := 63, lo := 0, acc := .ro, reset := 0 }
def stkThrottleNsCount : Fld := { reg := .stkThrottleNs, hi := 63, lo := 0, acc := .ro, reset := 0 }
def stkExactWrapsCount : Fld := { reg := .stkExactWraps, hi := 63, lo := 0, acc := .ro, reset := 0 }
def stkCountCtlRun : Fld := { reg := .stkCountCtl, hi := 0, lo := 0, acc := .rw, reset := 1 }
def stkCountCtlClear : Fld := { reg := .stkCountCtl, hi := 1, lo := 1, acc := .wo, reset := 0 }
-- 10_coherence.md
def regCohStatusTxnOcc : Fld := { reg := .regCohStatus, hi := 12, lo := 0, acc := .ro, reset := 0 }
def regCohStatusReclaimBusy : Fld := { reg := .regCohStatus, hi := 16, lo := 16, acc := .ro, reset := 0 }
def regCohStatusDeadAgents : Fld := { reg := .regCohStatus, hi := 30, lo := 24, acc := .ro, reset := 0 }
def regCohStatusMarkedSets : Fld := { reg := .regCohStatus, hi := 53, lo := 32, acc := .ro, reset := 0 }
def regCohSnoopsCount : Fld := { reg := .regCohSnoops, hi := 63, lo := 0, acc := .ro, reset := 0 }
def regCohRecallsCount : Fld := { reg := .regCohRecalls, hi := 63, lo := 0, acc := .ro, reset := 0 }
def regCohDropsCount : Fld := { reg := .regCohDrops, hi := 63, lo := 0, acc := .ro, reset := 0 }
def regCohPurgesCount : Fld := { reg := .regCohPurges, hi := 63, lo := 0, acc := .ro, reset := 0 }
def regCohPoisonedCount : Fld := { reg := .regCohPoisoned, hi := 63, lo := 0, acc := .ro, reset := 0 }
def regCohCountCtlRun : Fld := { reg := .regCohCountCtl, hi := 0, lo := 0, acc := .rw, reset := 1 }
def regCohCountCtlClear : Fld := { reg := .regCohCountCtl, hi := 1, lo := 1, acc := .wo, reset := 0 }
-- 11_address_translation.md
def regGrantNearContext : Fld := { reg := .regGrantNear, hi := 11, lo := 0, acc := .rw, reset := 0 }
def regGrantNearMode : Fld := { reg := .regGrantNear, hi := 13, lo := 12, acc := .rw, reset := 0 }
def regGrantNearFlush : Fld := { reg := .regGrantNear, hi := 14, lo := 14, acc := .wo, reset := 0 }
def regGrantFarContext : Fld := { reg := .regGrantFar, hi := 11, lo := 0, acc := .rw, reset := 0 }
def regGrantFarMode : Fld := { reg := .regGrantFar, hi := 13, lo := 12, acc := .rw, reset := 0 }
def regGrantFarFlush : Fld := { reg := .regGrantFar, hi := 14, lo := 14, acc := .wo, reset := 0 }
def regGrantScratchContext : Fld := { reg := .regGrantScratch, hi := 11, lo := 0, acc := .rw, reset := 0 }
def regGrantScratchMode : Fld := { reg := .regGrantScratch, hi := 13, lo := 12, acc := .rw, reset := 0 }
def regGrantScratchFlush : Fld := { reg := .regGrantScratch, hi := 14, lo := 14, acc := .wo, reset := 0 }
def ctxPtRootValid : Fld := { reg := .ctxPtRoot, hi := 0, lo := 0, acc := .rw, reset := 0 }
def ctxPtRootRoot : Fld := { reg := .ctxPtRoot, hi := 51, lo := 12, acc := .rw, reset := 0 }
def ctxPtCtlFormat : Fld := { reg := .ctxPtCtl, hi := 0, lo := 0, acc := .rw, reset := 0 }
def ctxPtCtlRing : Fld := { reg := .ctxPtCtl, hi := 1, lo := 1, acc := .rw, reset := 1 }
def ctxPtCtlAsid : Fld := { reg := .ctxPtCtl, hi := 31, lo := 16, acc := .rw, reset := 0 }
def ctxTlbInvGo : Fld := { reg := .ctxTlbInv, hi := 0, lo := 0, acc := .wo, reset := 0 }
def ctxTlbInvBusy : Fld := { reg := .ctxTlbInv, hi := 1, lo := 1, acc := .ro, reset := 0 }
def regApcCtxContext : Fld := { reg := .regApcCtx, hi := 11, lo := 0, acc := .rw, reset := 0 }
def regXfrBaseLog2Records : Fld := { reg := .regXfrBase, hi := 4, lo := 0, acc := .rw, reset := 8 }
def regXfrBaseBase : Fld := { reg := .regXfrBase, hi := 51, lo := 12, acc := .rw, reset := 0 }
def regXfrWriteWriteCount : Fld := { reg := .regXfrWrite, hi := 31, lo := 0, acc := .ro, reset := 0 }
def regXfrReadReadCount : Fld := { reg := .regXfrRead, hi := 31, lo := 0, acc := .rw, reset := 0 }
def regXfrRespondSeq : Fld := { reg := .regXfrRespond, hi := 31, lo := 0, acc := .wo, reset := 0 }
def regXfrRespondOutcome : Fld := { reg := .regXfrRespond, hi := 33, lo := 32, acc := .wo, reset := 0 }
def regXfrCtlVector : Fld := { reg := .regXfrCtl, hi := 10, lo := 0, acc := .rw, reset := 0 }
def regXfrCtlTarget : Fld := { reg := .regXfrCtl, hi := 11, lo := 11, acc := .rw, reset := 0 }
def regXfrCtlHart : Fld := { reg := .regXfrCtl, hi := 18, lo := 12, acc := .rw, reset := 0 }
def regXfrCtlIid : Fld := { reg := .regXfrCtl, hi := 29, lo := 19, acc := .rw, reset := 0 }
def regXfrCtlEnable : Fld := { reg := .regXfrCtl, hi := 30, lo := 30, acc := .rw, reset := 0 }
def regXfrStatusOutstanding : Fld := { reg := .regXfrStatus, hi := 16, lo := 0, acc := .ro, reset := 0 }
def regXfrStatusBatchOpen : Fld := { reg := .regXfrStatus, hi := 17, lo := 17, acc := .ro, reset := 0 }
def regXfrStatusBadResponses : Fld := { reg := .regXfrStatus, hi := 47, lo := 32, acc := .w1c, reset := 0 }
def regXfrStatusFullStalls : Fld := { reg := .regXfrStatus, hi := 63, lo := 48, acc := .w1c, reset := 0 }
def xltStatusWalksBusy : Fld := { reg := .xltStatus, hi := 3, lo := 0, acc := .ro, reset := 0 }
def xltStatusStalled : Fld := { reg := .xltStatus, hi := 31, lo := 16, acc := .ro, reset := 0 }
def xltDemandWalksCount : Fld := { reg := .xltDemandWalks, hi := 63, lo := 0, acc := .ro, reset := 0 }
def xltPrefetchWalksCount : Fld := { reg := .xltPrefetchWalks, hi := 63, lo := 0, acc := .ro, reset := 0 }
def xltPrefetchUsedCount : Fld := { reg := .xltPrefetchUsed, hi := 63, lo := 0, acc := .ro, reset := 0 }
def xltCountCtlRun : Fld := { reg := .xltCountCtl, hi := 0, lo := 0, acc := .rw, reset := 1 }
def xltCountCtlClear : Fld := { reg := .xltCountCtl, hi := 1, lo := 1, acc := .wo, reset := 0 }
-- 12_host_coupling.md
def hifVfCfgPartition : Fld := { reg := .hifVfCfg, hi := 1, lo := 0, acc := .rw, reset := 0 }
def hifVfCfgAssigned : Fld := { reg := .hifVfCfg, hi := 2, lo := 2, acc := .rw, reset := 0 }
def qpCfgEnable : Fld := { reg := .qpCfg, hi := 0, lo := 0, acc := .rw, reset := 0 }
def qpCfgSqLoc : Fld := { reg := .qpCfg, hi := 1, lo := 1, acc := .rw, reset := 0 }
def qpCfgCqLoc : Fld := { reg := .qpCfg, hi := 2, lo := 2, acc := .rw, reset := 0 }
def qpCfgLog2Sq : Fld := { reg := .qpCfg, hi := 12, lo := 8, acc := .rw, reset := 6 }
def qpCfgLog2Cq : Fld := { reg := .qpCfg, hi := 17, lo := 13, acc := .rw, reset := 6 }
def qpCfgContext : Fld := { reg := .qpCfg, hi := 29, lo := 18, acc := .rw, reset := 0 }
def qpCfgPriority : Fld := { reg := .qpCfg, hi := 31, lo := 30, acc := .rw, reset := 0 }
def qpCfgVector : Fld := { reg := .qpCfg, hi := 42, lo := 32, acc := .rw, reset := 0 }
def qpCfgIrqEn : Fld := { reg := .qpCfg, hi := 43, lo := 43, acc := .rw, reset := 0 }
def qpSqBaseBase : Fld := { reg := .qpSqBase, hi := 63, lo := 12, acc := .rw, reset := 0 }
def qpCqBaseBase : Fld := { reg := .qpCqBase, hi := 63, lo := 12, acc := .rw, reset := 0 }
def qpSqHeadCount : Fld := { reg := .qpSqHead, hi := 31, lo := 0, acc := .ro, reset := 0 }
def qpCqTailCount : Fld := { reg := .qpCqTail, hi := 31, lo := 0, acc := .ro, reset := 0 }
def qpStatusState : Fld := { reg := .qpStatus, hi := 2, lo := 0, acc := .ro, reset := 0 }
def qpStatusError : Fld := { reg := .qpStatus, hi := 15, lo := 8, acc := .ro, reset := 0 }
def qpStatusInflight : Fld := { reg := .qpStatus, hi := 24, lo := 16, acc := .ro, reset := 0 }
def qpDlbCtlEnable : Fld := { reg := .qpDlbCtl, hi := 0, lo := 0, acc := .rw, reset := 1 }
def hifHostRidRid : Fld := { reg := .hifHostRid, hi := 15, lo := 0, acc := .rw, reset := 0 }
def hifHostRidCheck : Fld := { reg := .hifHostRid, hi := 16, lo := 16, acc := .rw, reset := 1 }
def hifLinkStatusRate : Fld := { reg := .hifLinkStatus, hi := 2, lo := 0, acc := .ro, reset := 0 }
def hifLinkStatusWidth : Fld := { reg := .hifLinkStatus, hi := 7, lo := 3, acc := .ro, reset := 0 }
def hifLinkStatusFlit : Fld := { reg := .hifLinkStatus, hi := 8, lo := 8, acc := .ro, reset := 0 }
def hifLinkStatusUp : Fld := { reg := .hifLinkStatus, hi := 9, lo := 9, acc := .ro, reset := 0 }
def hifSessionState : Fld := { reg := .hifSession, hi := 1, lo := 0, acc := .ro, reset := 0 }
def hifSessionCause : Fld := { reg := .hifSession, hi := 7, lo := 4, acc := .ro, reset := 0 }
def hifSessionBadTokens : Fld := { reg := .hifSession, hi := 31, lo := 16, acc := .ro, reset := 0 }
def hifSessionHeld : Fld := { reg := .hifSession, hi := 47, lo := 32, acc := .ro, reset := 0 }
def hifSessionCtlAction : Fld := { reg := .hifSessionCtl, hi := 1, lo := 0, acc := .wo, reset := 0 }
def hifSessionCtlDetach : Fld := { reg := .hifSessionCtl, hi := 2, lo := 2, acc := .wo, reset := 0 }
def hifTokenToken : Fld := { reg := .hifToken, hi := 63, lo := 0, acc := .rw, reset := 0 }
def hifHeartbeatTimeoutMs : Fld := { reg := .hifHeartbeat, hi := 15, lo := 0, acc := .rw, reset := 0 }
def hifHeartbeatKick : Fld := { reg := .hifHeartbeat, hi := 16, lo := 16, acc := .wo, reset := 0 }
def hwtEntryValid : Fld := { reg := .hwtEntry, hi := 0, lo := 0, acc := .rw, reset := 0 }
def hwtEntryWrite : Fld := { reg := .hwtEntry, hi := 1, lo := 1, acc := .rw, reset := 0 }
def hwtEntryFunction : Fld := { reg := .hwtEntry, hi := 7, lo := 2, acc := .rw, reset := 0 }
def hwtEntryPartition : Fld := { reg := .hwtEntry, hi := 9, lo := 8, acc := .rw, reset := 0 }
def hwtEntryHostAddr : Fld := { reg := .hwtEntry, hi := 63, lo := 30, acc := .rw, reset := 0 }
def awtWinValid : Fld := { reg := .awtWin, hi := 0, lo := 0, acc := .rw, reset := 0 }
def awtWinWrite : Fld := { reg := .awtWin, hi := 1, lo := 1, acc := .rw, reset := 0 }
def awtWinContext : Fld := { reg := .awtWin, hi := 13, lo := 2, acc := .rw, reset := 0 }
def awtWinVaBase : Fld := { reg := .awtWin, hi := 56, lo := 30, acc := .rw, reset := 0 }
-- 13_ethernet_and_collectives.md
def portCfgSplit : Fld := { reg := .portCfg, hi := 0, lo := 0, acc := .rw, reset := 0 }
def portCfgPfcEn : Fld := { reg := .portCfg, hi := 1, lo := 1, acc := .rw, reset := 1 }
def portCfgPfcMask : Fld := { reg := .portCfg, hi := 9, lo := 2, acc := .rw, reset := 24 }
def portCfgPrioRoce : Fld := { reg := .portCfg, hi := 12, lo := 10, acc := .rw, reset := 3 }
def portCfgPrioFletus : Fld := { reg := .portCfg, hi := 15, lo := 13, acc := .rw, reset := 4 }
def portCfgDscpRoce : Fld := { reg := .portCfg, hi := 21, lo := 16, acc := .rw, reset := 26 }
def portCfgDscpFletus : Fld := { reg := .portCfg, hi := 27, lo := 22, acc := .rw, reset := 34 }
def portStatusSplitInForce : Fld := { reg := .portStatus, hi := 0, lo := 0, acc := .ro, reset := 0 }
def portStatusUpA : Fld := { reg := .portStatus, hi := 1, lo := 1, acc := .ro, reset := 0 }
def portStatusUpB : Fld := { reg := .portStatus, hi := 2, lo := 2, acc := .ro, reset := 0 }
def portStatusLanesRetired : Fld := { reg := .portStatus, hi := 15, lo := 8, acc := .ro, reset := 0 }
def portMacMac : Fld := { reg := .portMac, hi := 47, lo := 0, acc := .rw, reset := 0 }
def portPrefixPrefix : Fld := { reg := .portPrefix, hi := 63, lo := 0, acc := .rw, reset := 0 }
def portRxForeignCount : Fld := { reg := .portRxForeign, hi := 63, lo := 0, acc := .ro, reset := 0 }
def portRxStaleCount : Fld := { reg := .portRxStale, hi := 63, lo := 0, acc := .ro, reset := 0 }
def portRxEarlyCount : Fld := { reg := .portRxEarly, hi := 63, lo := 0, acc := .ro, reset := 0 }
def portRxOverflowCount : Fld := { reg := .portRxOverflow, hi := 63, lo := 0, acc := .ro, reset := 0 }
def portTxDownCount : Fld := { reg := .portTxDown, hi := 63, lo := 0, acc := .ro, reset := 0 }
def portFecUncorrectedCount : Fld := { reg := .portFecUncorrected, hi := 63, lo := 0, acc := .ro, reset := 0 }
def netCfgFletusPort : Fld := { reg := .netCfg, hi := 15, lo := 0, acc := .rw, reset := 49422 }
def netCfgLoopbackEn : Fld := { reg := .netCfg, hi := 16, lo := 16, acc := .rw, reset := 1 }
def netCfgRtoUs : Fld := { reg := .netCfg, hi := 31, lo := 24, acc := .rw, reset := 40 }
def netSlotJob : Fld := { reg := .netSlot, hi := 23, lo := 0, acc := .ro, reset := 0 }
def netSlotEpoch : Fld := { reg := .netSlot, hi := 39, lo := 24, acc := .ro, reset := 0 }
def netSlotOwnRank : Fld := { reg := .netSlot, hi := 59, lo := 40, acc := .ro, reset := 0 }
def netSlotState : Fld := { reg := .netSlot, hi := 62, lo := 60, acc := .ro, reset := 0 }
def netSlotRemoteCmd : Fld := { reg := .netSlot, hi := 63, lo := 63, acc := .ro, reset := 0 }
def netSlotTableBase : Fld := { reg := .netSlotTable, hi := 17, lo := 0, acc := .ro, reset := 0 }
def netSlotTableCount : Fld := { reg := .netSlotTable, hi := 37, lo := 19, acc := .ro, reset := 0 }
def netSlotTableContext : Fld := { reg := .netSlotTable, hi := 49, lo := 38, acc := .ro, reset := 0 }
def netRdmaStatusDevOcc : Fld := { reg := .netRdmaStatus, hi := 16, lo := 0, acc := .ro, reset := 0 }
def netRdmaStatusPartOcc : Fld := { reg := .netRdmaStatus, hi := 48, lo := 32, acc := .ro, reset := 0 }
def tbNowTime : Fld := { reg := .tbNow, hi := 63, lo := 0, acc := .ro, reset := 0 }
def tbCfgPtpEn : Fld := { reg := .tbCfg, hi := 0, lo := 0, acc := .rw, reset := 0 }
def tbCfgPortBlock : Fld := { reg := .tbCfg, hi := 3, lo := 1, acc := .rw, reset := 0 }
def tbCfgPortSub : Fld := { reg := .tbCfg, hi := 4, lo := 4, acc := .rw, reset := 0 }
def tbCfgTransport : Fld := { reg := .tbCfg, hi := 5, lo := 5, acc := .rw, reset := 0 }
def tbCfgDelay : Fld := { reg := .tbCfg, hi := 6, lo := 6, acc := .rw, reset := 0 }
def tbCfgDomain : Fld := { reg := .tbCfg, hi := 14, lo := 7, acc := .rw, reset := 0 }
def tbStatusLocked : Fld := { reg := .tbStatus, hi := 0, lo := 0, acc := .ro, reset := 0 }
def tbStatusResidualNs : Fld := { reg := .tbStatus, hi := 63, lo := 32, acc := .ro, reset := 0 }
def tbPtpOffsetOffset : Fld := { reg := .tbPtpOffset, hi := 63, lo := 0, acc := .ro, reset := 0 }
def tbRatePpb : Fld := { reg := .tbRate, hi := 31, lo := 0, acc := .ro, reset := 0 }
-- 14_determinism_and_replay.md
def skbCfgMode : Fld := { reg := .skbCfg, hi := 1, lo := 0, acc := .rw, reset := 0 }
def skbCfgHostData : Fld := { reg := .skbCfg, hi := 2, lo := 2, acc := .rw, reset := 1 }
def skbCfgRelease : Fld := { reg := .skbCfg, hi := 3, lo := 3, acc := .wo, reset := 0 }
def skbCfgStallMs : Fld := { reg := .skbCfg, hi := 15, lo := 8, acc := .rw, reset := 100 }
def skbBaseSizeGib : Fld := { reg := .skbBase, hi := 9, lo := 0, acc := .rw, reset := 0 }
def skbBaseBase : Fld := { reg := .skbBase, hi := 51, lo := 30, acc := .rw, reset := 0 }
def skbStatusState : Fld := { reg := .skbStatus, hi := 2, lo := 0, acc := .ro, reset := 0 }
def skbStatusReservedHeld : Fld := { reg := .skbStatus, hi := 3, lo := 3, acc := .ro, reset := 0 }
def skbStatusFull : Fld := { reg := .skbStatus, hi := 4, lo := 4, acc := .w1c, reset := 0 }
def skbStatusEditionDiffers : Fld := { reg := .skbStatus, hi := 5, lo := 5, acc := .ro, reset := 0 }
def skbStatusCheckBusy : Fld := { reg := .skbStatus, hi := 6, lo := 6, acc := .ro, reset := 0 }
def skbStatusError : Fld := { reg := .skbStatus, hi := 11, lo := 8, acc := .ro, reset := 0 }
def skbStatusCause : Fld := { reg := .skbStatus, hi := 15, lo := 12, acc := .ro, reset := 0 }
def skbStatusBufOcc : Fld := { reg := .skbStatus, hi := 29, lo := 16, acc := .ro, reset := 0 }
def skbWrittenBytes : Fld := { reg := .skbWritten, hi := 63, lo := 0, acc := .ro, reset := 0 }
def skbNextSeqSeq : Fld := { reg := .skbNextSeq, hi := 63, lo := 0, acc := .ro, reset := 0 }
def skbReplayLenBytes : Fld := { reg := .skbReplayLen, hi := 63, lo := 0, acc := .rw, reset := 0 }
def skbPauseSeqSeq : Fld := { reg := .skbPauseSeq, hi := 63, lo := 0, acc := .rw, reset := 0 }
def skbDivergeSeqSeq : Fld := { reg := .skbDivergeSeq, hi := 63, lo := 0, acc := .ro, reset := 0 }
def skbMarkValue : Fld := { reg := .skbMark, hi := 31, lo := 0, acc := .wo, reset := 0 }
def skbCheckAddrAddr : Fld := { reg := .skbCheckAddr, hi := 51, lo := 3, acc := .rw, reset := 0 }
def skbCheckLenLength : Fld := { reg := .skbCheckLen, hi := 30, lo := 0, acc := .wo, reset := 0 }
def skbCtxContext : Fld := { reg := .skbCtx, hi := 11, lo := 0, acc := .rw, reset := 0 }
def skbCtxValid : Fld := { reg := .skbCtx, hi := 12, lo := 12, acc := .rw, reset := 0 }
def skbCtxInternal : Fld := { reg := .skbCtx, hi := 13, lo := 13, acc := .rw, reset := 0 }
-- 15_power_and_thermal.md
def cluStepRateRate : Fld := { reg := .cluStepRate, hi := 15, lo := 0, acc := .ro, reset := 0 }
def cluTempTj : Fld := { reg := .cluTemp, hi := 7, lo := 0, acc := .ro, reset := 0 }
def cluPathMonGrowth : Fld := { reg := .cluPathMon, hi := 9, lo := 0, acc := .ro, reset := 0 }
def cluPathMonReqMv : Fld := { reg := .cluPathMon, hi := 15, lo := 10, acc := .ro, reset := 0 }
def pwrCapCapW : Fld := { reg := .pwrCap, hi := 12, lo := 0, acc := .rw, reset := 4600 }
def pwrCapWindowMs : Fld := { reg := .pwrCap, hi := 29, lo := 16, acc := .rw, reset := 2000 }
def pwrShareShare : Fld := { reg := .pwrShare, hi := 7, lo := 0, step := 8, count := 4, acc := .rw, reset := 64 }
def pwrShareCrossLend : Fld := { reg := .pwrShare, hi := 32, lo := 32, acc := .rw, reset := 1 }
def pwrStatusInputW : Fld := { reg := .pwrStatus, hi := 12, lo := 0, acc := .ro, reset := 0 }
def pwrStatusWindowW : Fld := { reg := .pwrStatus, hi := 28, lo := 16, acc := .ro, reset := 0 }
def pwrStatusTargetW : Fld := { reg := .pwrStatus, hi := 44, lo := 32, acc := .ro, reset := 4600 }
def pwrStatusFastClamp : Fld := { reg := .pwrStatus, hi := 48, lo := 48, acc := .ro, reset := 0 }
def pwrStatusThermalAlert : Fld := { reg := .pwrStatus, hi := 49, lo := 49, acc := .ro, reset := 0 }
def pwrDevWDevW : Fld := { reg := .pwrDevW, hi := 12, lo := 0, acc := .ro, reset := 0 }
def pwrEnergyMjCount : Fld := { reg := .pwrEnergyMj, hi := 63, lo := 0, acc := .ro, reset := 0 }
def pwrFastEventsCount : Fld := { reg := .pwrFastEvents, hi := 63, lo := 0, acc := .ro, reset := 0 }
def regPwrCfgVsetMv : Fld := { reg := .regPwrCfg, hi := 9, lo := 0, acc := .rw, reset := 750 }
def regPwrCfgStaticHaze : Fld := { reg := .regPwrCfg, hi := 19, lo := 10, acc := .rw, reset := 256 }
def regPwrCfgGain : Fld := { reg := .regPwrCfg, hi := 23, lo := 20, acc := .rw, reset := 8 }
def regPwrCfgVoltStage : Fld := { reg := .regPwrCfg, hi := 24, lo := 24, acc := .rw, reset := 1 }
def regPwrStatusHaze : Fld := { reg := .regPwrStatus, hi := 9, lo := 0, acc := .ro, reset := 256 }
def regPwrStatusSource : Fld := { reg := .regPwrStatus, hi := 11, lo := 10, acc := .ro, reset := 2 }
def regPwrStatusVddMv : Fld := { reg := .regPwrStatus, hi := 21, lo := 12, acc := .ro, reset := 750 }
def regPwrStatusPowerEmerg : Fld := { reg := .regPwrStatus, hi := 22, lo := 22, acc := .ro, reset := 0 }
def regPwrStatusThermalEmerg : Fld := { reg := .regPwrStatus, hi := 23, lo := 23, acc := .ro, reset := 0 }
def regPwrStatusCoreUp : Fld := { reg := .regPwrStatus, hi := 24, lo := 24, acc := .ro, reset := 0 }
def regPwrStatusTjMax : Fld := { reg := .regPwrStatus, hi := 39, lo := 32, acc := .ro, reset := 0 }
def regPwrBudgetBudgetW : Fld := { reg := .regPwrBudget, hi := 12, lo := 0, acc := .ro, reset := 0 }
def regPwrBudgetMeasuredW : Fld := { reg := .regPwrBudget, hi := 28, lo := 16, acc := .ro, reset := 0 }
def regPwrBudgetDemandW : Fld := { reg := .regPwrBudget, hi := 44, lo := 32, acc := .ro, reset := 0 }
def regPwrBudgetGuaranteeW : Fld := { reg := .regPwrBudget, hi := 60, lo := 48, acc := .ro, reset := 0 }
def regPwrAgeAgeMv : Fld := { reg := .regPwrAge, hi := 5, lo := 0, acc := .ro, reset := 0 }
def regPwrAgeAtLimit : Fld := { reg := .regPwrAge, hi := 6, lo := 6, acc := .ro, reset := 0 }
def regPwrEnergyMjCount : Fld := { reg := .regPwrEnergyMj, hi := 63, lo := 0, acc := .ro, reset := 0 }
def regPwrHazeIntCount : Fld := { reg := .regPwrHazeInt, hi := 63, lo := 0, acc := .ro, reset := 0 }
def regPwrDroopsCount : Fld := { reg := .regPwrDroops, hi := 63, lo := 0, acc := .ro, reset := 0 }
def regPwrRetainedCores : Fld := { reg := .regPwrRetained, hi := 8, lo := 0, acc := .ro, reset := 0 }
-- 16_firmware_cores.md
def fwRootRootRegion : Fld := { reg := .fwRoot, hi := 1, lo := 0, acc := .ro, reset := 0 }
def fwRootRootValid : Fld := { reg := .fwRoot, hi := 2, lo := 2, acc := .ro, reset := 0 }
def fwRootHealthy : Fld := { reg := .fwRoot, hi := 11, lo := 8, acc := .ro, reset := 0 }
def fwRootElections : Fld := { reg := .fwRoot, hi := 31, lo := 16, acc := .ro, reset := 0 }
def fwuStageAddrAddr : Fld := { reg := .fwuStageAddr, hi := 51, lo := 12, acc := .rw, reset := 0 }
def fwuStageCtlType : Fld := { reg := .fwuStageCtl, hi := 3, lo := 0, acc := .wo, reset := 0 }
def fwuStageCtlLengthKib : Fld := { reg := .fwuStageCtl, hi := 31, lo := 8, acc := .wo, reset := 0 }
def fwuStageCtlGo : Fld := { reg := .fwuStageCtl, hi := 32, lo := 32, acc := .wo, reset := 0 }
def fwuActivateParts : Fld := { reg := .fwuActivate, hi := 3, lo := 0, acc := .wo, reset := 0 }
def fwuActivateTypes : Fld := { reg := .fwuActivate, hi := 9, lo := 4, acc := .wo, reset := 0 }
def fwuActivateOnReset : Fld := { reg := .fwuActivate, hi := 10, lo := 10, acc := .wo, reset := 0 }
def fwuActivateCancel : Fld := { reg := .fwuActivate, hi := 11, lo := 11, acc := .wo, reset := 0 }
def fwuActivateQuiesceMs : Fld := { reg := .fwuActivate, hi := 27, lo := 12, acc := .wo, reset := 0 }
def fwuActivateGo : Fld := { reg := .fwuActivate, hi := 28, lo := 28, acc := .wo, reset := 0 }
def fwuStatusState : Fld := { reg := .fwuStatus, hi := 3, lo := 0, acc := .ro, reset := 0 }
def fwuStatusResult : Fld := { reg := .fwuStatus, hi := 11, lo := 4, acc := .ro, reset := 0 }
def fwuStatusPartNow : Fld := { reg := .fwuStatus, hi := 15, lo := 12, acc := .ro, reset := 0 }
def fwuStatusTypes : Fld := { reg := .fwuStatus, hi := 21, lo := 16, acc := .ro, reset := 0 }
def fwuStatusNormalMs : Fld := { reg := .fwuStatus, hi := 47, lo := 32, acc := .ro, reset := 0 }
def regFwStatusSecState : Fld := { reg := .regFwStatus, hi := 1, lo := 0, acc := .ro, reset := 1 }
def regFwStatusPwrState : Fld := { reg := .regFwStatus, hi := 3, lo := 2, acc := .ro, reset := 1 }
def regFwStatusSchState : Fld := { reg := .regFwStatus, hi := 5, lo := 4, acc := .ro, reset := 1 }
def regFwStatusSecExpiries : Fld := { reg := .regFwStatus, hi := 15, lo := 8, acc := .ro, reset := 0 }
def regFwStatusPwrExpiries : Fld := { reg := .regFwStatus, hi := 23, lo := 16, acc := .ro, reset := 0 }
def regFwStatusSchExpiries : Fld := { reg := .regFwStatus, hi := 31, lo := 24, acc := .ro, reset := 0 }
def regFwStatusBanks : Fld := { reg := .regFwStatus, hi := 37, lo := 32, acc := .ro, reset := 0 }
def regFwEventsLostCount : Fld := { reg := .regFwEventsLost, hi := 63, lo := 0, acc := .ro, reset := 0 }
def cluCccStatusState : Fld := { reg := .cluCccStatus, hi := 1, lo := 0, acc := .ro, reset := 1 }
def cluCccStatusExpiries : Fld := { reg := .cluCccStatus, hi := 15, lo := 8, acc := .ro, reset := 0 }
def cluCccStatusDispatchPaused : Fld := { reg := .cluCccStatus, hi := 16, lo := 16, acc := .ro, reset := 0 }
-- 17_faults_and_repair.md
def rasCfgRowN : Fld := { reg := .rasCfg, hi := 3, lo := 0, acc := .rw, reset := 3 }
def rasCfgRowWindowH : Fld := { reg := .rasCfg, hi := 11, lo := 4, acc := .rw, reset := 24 }
def rasCfgCoreN : Fld := { reg := .rasCfg, hi := 15, lo := 12, acc := .rw, reset := 2 }
def rasCfgCoreWindowMin : Fld := { reg := .rasCfg, hi := 27, lo := 16, acc := .rw, reset := 60 }
def rasCfgLaneN : Fld := { reg := .rasCfg, hi := 35, lo := 28, acc := .rw, reset := 16 }
def rasCfgLaneWindowMin : Fld := { reg := .rasCfg, hi := 47, lo := 36, acc := .rw, reset := 60 }
def rasCfgRowEn : Fld := { reg := .rasCfg, hi := 48, lo := 48, acc := .rw, reset := 1 }
def rasCfgCoreEn : Fld := { reg := .rasCfg, hi := 49, lo := 49, acc := .rw, reset := 1 }
def rasCfgLaneEn : Fld := { reg := .rasCfg, hi := 50, lo := 50, acc := .rw, reset := 1 }
def rasRepairStatusRowsSpared : Fld := { reg := .rasRepairStatus, hi := 15, lo := 0, acc := .ro, reset := 0 }
def rasRepairStatusRowsUnspared : Fld := { reg := .rasRepairStatus, hi := 31, lo := 16, acc := .ro, reset := 0 }
def rasRepairStatusCoresRetired : Fld := { reg := .rasRepairStatus, hi := 42, lo := 32, acc := .ro, reset := 0 }
def rasRepairStatusLanesRetired : Fld := { reg := .rasRepairStatus, hi := 49, lo := 43, acc := .ro, reset := 0 }
def rasIsolateRegions : Fld := { reg := .rasIsolate, hi := 3, lo := 0, acc := .rw, reset := 0 }
def rasIsolateInForce : Fld := { reg := .rasIsolate, hi := 7, lo := 4, acc := .ro, reset := 0 }
def calAddrAddr : Fld := { reg := .calAddr, hi := 51, lo := 12, acc := .rw, reset := 0 }
def calCtlExport : Fld := { reg := .calCtl, hi := 0, lo := 0, acc := .wo, reset := 0 }
def calCtlImport : Fld := { reg := .calCtl, hi := 1, lo := 1, acc := .wo, reset := 0 }
def calCtlForce : Fld := { reg := .calCtl, hi := 2, lo := 2, acc := .wo, reset := 0 }
def calStatusFactory : Fld := { reg := .calStatus, hi := 0, lo := 0, acc := .ro, reset := 1 }
def calStatusBusy : Fld := { reg := .calStatus, hi := 1, lo := 1, acc := .ro, reset := 0 }
def calStatusPending : Fld := { reg := .calStatus, hi := 2, lo := 2, acc := .ro, reset := 0 }
def calStatusResult : Fld := { reg := .calStatus, hi := 7, lo := 4, acc := .ro, reset := 0 }
def calStatusCrcInForce : Fld := { reg := .calStatus, hi := 63, lo := 32, acc := .ro, reset := 0 }
def regEvtBaseValid : Fld := { reg := .regEvtBase, hi := 0, lo := 0, acc := .rw, reset := 0 }
def regEvtBaseLog2Records : Fld := { reg := .regEvtBase, hi := 5, lo := 1, acc := .rw, reset := 10 }
def regEvtBaseBase : Fld := { reg := .regEvtBase, hi := 51, lo := 12, acc := .rw, reset := 0 }
def regEvtWriteWriteCount : Fld := { reg := .regEvtWrite, hi := 31, lo := 0, acc := .ro, reset := 0 }
def regEvtReadReadCount : Fld := { reg := .regEvtRead, hi := 31, lo := 0, acc := .rw, reset := 0 }
def regEvtCtlVector : Fld := { reg := .regEvtCtl, hi := 10, lo := 0, acc := .rw, reset := 0 }
def regEvtCtlTarget : Fld := { reg := .regEvtCtl, hi := 11, lo := 11, acc := .rw, reset := 0 }
def regEvtCtlHart : Fld := { reg := .regEvtCtl, hi := 18, lo := 12, acc := .rw, reset := 0 }
def regEvtCtlIid : Fld := { reg := .regEvtCtl, hi := 29, lo := 19, acc := .rw, reset := 0 }
def regEvtCtlEnable : Fld := { reg := .regEvtCtl, hi := 30, lo := 30, acc := .rw, reset := 0 }
def regEvtStatusOverwritten : Fld := { reg := .regEvtStatus, hi := 31, lo := 0, acc := .w1c, reset := 0 }
-- 18_security_and_management.md
def portSecCfgEnableA : Fld := { reg := .portSecCfg, hi := 0, lo := 0, acc := .rw, reset := 0 }
def portSecCfgEnableB : Fld := { reg := .portSecCfg, hi := 1, lo := 1, acc := .rw, reset := 0 }
def portSecCfgTxAnA : Fld := { reg := .portSecCfg, hi := 3, lo := 2, acc := .rw, reset := 0 }
def portSecCfgTxAnB : Fld := { reg := .portSecCfg, hi := 5, lo := 4, acc := .rw, reset := 0 }
def portSecCfgReplayWindow : Fld := { reg := .portSecCfg, hi := 63, lo := 32, acc := .rw, reset := 0 }
def portSecStatusTxSaA : Fld := { reg := .portSecStatus, hi := 3, lo := 0, acc := .ro, reset := 0 }
def portSecStatusTxSaB : Fld := { reg := .portSecStatus, hi := 7, lo := 4, acc := .ro, reset := 0 }
def portSecStatusPnWarnA : Fld := { reg := .portSecStatus, hi := 8, lo := 8, acc := .ro, reset := 0 }
def portSecStatusPnWarnB : Fld := { reg := .portSecStatus, hi := 9, lo := 9, acc := .ro, reset := 0 }
def portSecStatusPnExhaustedA : Fld := { reg := .portSecStatus, hi := 10, lo := 10, acc := .ro, reset := 0 }
def portSecStatusPnExhaustedB : Fld := { reg := .portSecStatus, hi := 11, lo := 11, acc := .ro, reset := 0 }
def portSecDropsRx : Fld := { reg := .portSecDrops, hi := 31, lo := 0, acc := .w1c, reset := 0 }
def portSecDropsTx : Fld := { reg := .portSecDrops, hi := 63, lo := 32, acc := .w1c, reset := 0 }
def ctxMemCryptEnable : Fld := { reg := .ctxMemCrypt, hi := 0, lo := 0, acc := .rw, reset := 0 }
def ctxMemCryptKeyReady : Fld := { reg := .ctxMemCrypt, hi := 1, lo := 1, acc := .ro, reset := 0 }
def secStatusBoot : Fld := { reg := .secStatus, hi := 1, lo := 0, step := 8, count := 4, acc := .ro, reset := 0 }
def secStatusRecordMacFail : Fld :=
  { reg := .secStatus, hi := 2, lo := 2, step := 8, count := 4, acc := .ro, reset := 0 }
def secStatusDebugLocked : Fld := { reg := .secStatus, hi := 32, lo := 32, acc := .ro, reset := 1 }
def secStatusSessions : Fld := { reg := .secStatus, hi := 36, lo := 33, acc := .ro, reset := 0 }
def secCfgRequireIde : Fld := { reg := .secCfg, hi := 0, lo := 0, acc := .rwl, reset := 0 }
def secKeyFusesEcdsaProvisioned : Fld := { reg := .secKeyFuses, hi := 3, lo := 0, acc := .ro, reset := 15 }
def secKeyFusesMldsaProvisioned : Fld := { reg := .secKeyFuses, hi := 7, lo := 4, acc := .ro, reset := 15 }
def secKeyFusesEcdsaRevoked : Fld := { reg := .secKeyFuses, hi := 11, lo := 8, acc := .ro, reset := 0 }
def secKeyFusesMldsaRevoked : Fld := { reg := .secKeyFuses, hi := 15, lo := 12, acc := .ro, reset := 0 }
def secIdeStatusSecure : Fld := { reg := .secIdeStatus, hi := 4, lo := 0, acc := .ro, reset := 0 }
def secIdeStatusCheckFails : Fld := { reg := .secIdeStatus, hi := 47, lo := 32, acc := .w1c, reset := 0 }
def mgtSideCfgFunc : Fld := { reg := .mgtSideCfg, hi := 1, lo := 0, acc := .rw, reset := 1 }
def mgtSideCfgLevel : Fld := { reg := .mgtSideCfg, hi := 2, lo := 2, acc := .rw, reset := 0 }
def mgtSideCfgPart : Fld := { reg := .mgtSideCfg, hi := 5, lo := 4, acc := .rw, reset := 0 }
def mgtSideCfgResult : Fld := { reg := .mgtSideCfg, hi := 7, lo := 6, acc := .ro, reset := 0 }
def mgtSideStatusLevelNow : Fld := { reg := .mgtSideStatus, hi := 0, lo := 0, acc := .ro, reset := 0 }
def mgtSideStatusQueued : Fld := { reg := .mgtSideStatus, hi := 5, lo := 1, acc := .ro, reset := 0 }
def mgtSideStatusMissed : Fld := { reg := .mgtSideStatus, hi := 31, lo := 16, acc := .w1c, reset := 0 }
def mgtCfgBmcCap : Fld := { reg := .mgtCfg, hi := 0, lo := 0, acc := .rwl, reset := 1 }
def mgtCfgBmcKeys : Fld := { reg := .mgtCfg, hi := 1, lo := 1, acc := .rwl, reset := 0 }
def mgtCfgBmcFwu : Fld := { reg := .mgtCfg, hi := 2, lo := 2, acc := .rwl, reset := 1 }
-- 19_module_bringup.md
def devResetCtlWarm : Fld := { reg := .devResetCtl, hi := 0, lo := 0, acc := .wo, reset := 0 }
def devResetCtlCold : Fld := { reg := .devResetCtl, hi := 1, lo := 1, acc := .wo, reset := 0 }
def devResetCtlKey : Fld := { reg := .devResetCtl, hi := 15, lo := 8, acc := .wo, reset := 0 }
def devBootStatusPhase : Fld := { reg := .devBootStatus, hi := 1, lo := 0, acc := .ro, reset := 0 }
def devBootStatusBootLocked : Fld := { reg := .devBootStatus, hi := 2, lo := 2, acc := .ro, reset := 0 }
def devBootStatusLastReset : Fld := { reg := .devBootStatus, hi := 7, lo := 4, acc := .ro, reset := 1 }
def devBootStatusStraps : Fld := { reg := .devBootStatus, hi := 9, lo := 8, acc := .ro, reset := 0 }
def devBootStatusRefclkOk : Fld := { reg := .devBootStatus, hi := 10, lo := 10, acc := .ro, reset := 0 }
def devBootStatusLockUs : Fld := { reg := .devBootStatus, hi := 63, lo := 32, acc := .ro, reset := 0 }

end F

/-- The fields of a register that are not reserved. -/
def Reg.fields : Reg → List Fld
  | .devIdent => [F.devIdentGrade, F.devIdentCoresEnabled, F.devIdentStepping, F.devIdentFtEdition]
  | .devSeamStatus => [F.devSeamStatusSeam0, F.devSeamStatusSeam1, F.devSeamStatusSeam2, F.devSeamStatusSeam3]
  | .devPartCfg => [F.devPartCfgMode, F.devPartCfgModeNext, F.devPartCfgPersist]
  | .devPartCtl => [F.devPartCtlReset, F.devPartCtlZero]
  | .devPartStatus => [F.devPartStatusState, F.devPartStatusModeChangePending]
  | .regBondStatus => [F.regBondStatusCnv0Active, F.regBondStatusCnv0Spares, F.regBondStatusCnv1Active,
      F.regBondStatusCnv1Spares, F.regBondStatusCnv2Active, F.regBondStatusCnv2Spares]
  | .cluIdent => [F.cluIdentGlobalCluster, F.cluIdentCluster, F.cluIdentCanvas, F.cluIdentRegion, F.cluIdentQuota,
      F.cluIdentCoresEnabled]
  | .cluSlotMap => [F.cluSlotMapLog, F.cluSlotMapPhysFused, F.cluSlotMapPhysRetired]
  | .ctxFpMode => [F.ctxFpModeRm, F.ctxFpModeSubn, F.ctxFpModeOvf]
  | .ctxFpStatus => [F.ctxFpStatusIv, F.ctxFpStatusDz, F.ctxFpStatusOf, F.ctxFpStatusUf, F.ctxFpStatusNx,
      F.ctxFpStatusFlush]
  | .ctxSrSeed => [F.ctxSrSeedSeed]
  | .ctxDrainCfg => [F.ctxDrainCfgBlotForce, F.ctxDrainCfgStudyBase, F.ctxDrainCfgStudyWidth]
  | .ctxDrainStatus => [F.ctxDrainStatusSpecial, F.ctxDrainStatusStudySat, F.ctxDrainStatusStudyMismatch,
      F.ctxDrainStatusLfClass, F.ctxDrainStatusLfRange, F.ctxDrainStatusLfForm]
  | .mxuStatus => [F.mxuStatusLayout, F.mxuStatusQueueOcc, F.mxuStatusDrainBusy]
  | .mxuActiveSteps => [F.mxuActiveStepsCount]
  | .mxuFeedWaitSteps => [F.mxuFeedWaitStepsCount]
  | .mxuDrainWaitSteps => [F.mxuDrainWaitStepsCount]
  | .mxuHazeBubbles => [F.mxuHazeBubblesCount]
  | .mxuProducts => [F.mxuProductsCount]
  | .mxuCountCtl => [F.mxuCountCtlRun, F.mxuCountCtlClear]
  | .ctxState => [F.ctxStateState, F.ctxStatePartition, F.ctxStateFunction]
  | .ctxSyncMode => [F.ctxSyncModeClear]
  | .ctxSaveBase => [F.ctxSaveBaseValid, F.ctxSaveBaseBase]
  | .ctxFaultRing => [F.ctxFaultRingLog2Records, F.ctxFaultRingBase]
  | .ctxFaultStatus => [F.ctxFaultStatusWriteCount, F.ctxFaultStatusDropped]
  | .ctxFaultRead => [F.ctxFaultReadReadCount]
  | .ctxFaultPolicy => [F.ctxFaultPolicyPolicy, F.ctxFaultPolicyRelease]
  | .ctxFtRequire => [F.ctxFtRequireEdition, F.ctxFtRequireEnforce]
  | .schStatus => [F.schStatusGroupsResident, F.schStatusWgResident, F.schStatusGroupsAtBarrier,
      F.schStatusGroupsWaiting, F.schStatusGroupsDiverged]
  | .schIssues => [F.schIssuesCount]
  | .schPartialIssues => [F.schPartialIssuesCount]
  | .schBankReplays => [F.schBankReplaysCount]
  | .schBankWaits => [F.schBankWaitsCount]
  | .schNcHits => [F.schNcHitsCount]
  | .schNcMisses => [F.schNcMissesCount]
  | .schAgePromotions => [F.schAgePromotionsCount]
  | .schCountCtl => [F.schCountCtlRun, F.schCountCtlClear]
  | .cntStatus => [F.cntStatusRetention, F.cntStatusNextBound, F.cntStatusTxnOcc, F.cntStatusTm0Occ,
      F.cntStatusTm1Occ]
  | .cntRetentionEntries => [F.cntRetentionEntriesCount]
  | .cntRetentionNs => [F.cntRetentionNsCount]
  | .cntDiscarded => [F.cntDiscardedCount]
  | .cntValue => [F.cntValueValue]
  | .regCntOwner => [F.regCntOwnerContext, F.regCntOwnerValid]
  | .regCntStatus => [F.regCntStatusWaitOcc]
  | .regCntDiscarded => [F.regCntDiscardedCount]
  | .regCntValue => [F.regCntValueValue]
  | .l2Cfg => [F.l2CfgRepl, F.l2CfgPairFill, F.l2CfgStreamDetect]
  | .l2Status => [F.l2StatusMissOcc, F.l2StatusBypassing, F.l2StatusBypassOcc]
  | .l2Hits => [F.l2HitsCount]
  | .l2Misses => [F.l2MissesCount]
  | .l2Writebacks => [F.l2WritebacksCount]
  | .l2VictimsDeclined => [F.l2VictimsDeclinedCount]
  | .l2StreamWrites => [F.l2StreamWritesCount]
  | .l2CountCtl => [F.l2CountCtlRun, F.l2CountCtlClear]
  | .regSramCfg => [F.regSramCfgScratchUnits, F.regSramCfgCleanAccept]
  | .regSramStatus => [F.regSramStatusBusy, F.regSramStatusScratchInForce, F.regSramStatusVqOcc]
  | .regSramVictimHits => [F.regSramVictimHitsCount]
  | .regSramVictimMisses => [F.regSramVictimMissesCount]
  | .regSramExactWraps => [F.regSramExactWrapsCount]
  | .regMemFreeNear => [F.regMemFreeNearFree64k]
  | .regMemFreeFar => [F.regMemFreeFarFree64k]
  | .regMemSpills => [F.regMemSpillsCount]
  | .regMcStatus => [F.regMcStatusOcc, F.regMcStatusFull]
  | .stkStatus => [F.stkStatusTemp, F.stkStatusLevel, F.stkStatusRefresh2x, F.stkStatusOcc]
  | .stkReadBytes => [F.stkReadBytesCount]
  | .stkWriteBytes => [F.stkWriteBytesCount]
  | .stkTurnarounds => [F.stkTurnaroundsCount]
  | .stkRowConflicts => [F.stkRowConflictsCount]
  | .stkThrottleNs => [F.stkThrottleNsCount]
  | .stkExactWraps => [F.stkExactWrapsCount]
  | .stkCountCtl => [F.stkCountCtlRun, F.stkCountCtlClear]
  | .regCohStatus => [F.regCohStatusTxnOcc, F.regCohStatusReclaimBusy, F.regCohStatusDeadAgents,
      F.regCohStatusMarkedSets]
  | .regCohSnoops => [F.regCohSnoopsCount]
  | .regCohRecalls => [F.regCohRecallsCount]
  | .regCohDrops => [F.regCohDropsCount]
  | .regCohPurges => [F.regCohPurgesCount]
  | .regCohPoisoned => [F.regCohPoisonedCount]
  | .regCohCountCtl => [F.regCohCountCtlRun, F.regCohCountCtlClear]
  | .regGrantNear => [F.regGrantNearContext, F.regGrantNearMode, F.regGrantNearFlush]
  | .regGrantFar => [F.regGrantFarContext, F.regGrantFarMode, F.regGrantFarFlush]
  | .regGrantScratch => [F.regGrantScratchContext, F.regGrantScratchMode, F.regGrantScratchFlush]
  | .ctxPtRoot => [F.ctxPtRootValid, F.ctxPtRootRoot]
  | .ctxPtCtl => [F.ctxPtCtlFormat, F.ctxPtCtlRing, F.ctxPtCtlAsid]
  | .ctxTlbInv => [F.ctxTlbInvGo, F.ctxTlbInvBusy]
  | .regApcCtx => [F.regApcCtxContext]
  | .regXfrBase => [F.regXfrBaseLog2Records, F.regXfrBaseBase]
  | .regXfrWrite => [F.regXfrWriteWriteCount]
  | .regXfrRead => [F.regXfrReadReadCount]
  | .regXfrRespond => [F.regXfrRespondSeq, F.regXfrRespondOutcome]
  | .regXfrCtl => [F.regXfrCtlVector, F.regXfrCtlTarget, F.regXfrCtlHart, F.regXfrCtlIid, F.regXfrCtlEnable]
  | .regXfrStatus => [F.regXfrStatusOutstanding, F.regXfrStatusBatchOpen, F.regXfrStatusBadResponses,
      F.regXfrStatusFullStalls]
  | .xltStatus => [F.xltStatusWalksBusy, F.xltStatusStalled]
  | .xltDemandWalks => [F.xltDemandWalksCount]
  | .xltPrefetchWalks => [F.xltPrefetchWalksCount]
  | .xltPrefetchUsed => [F.xltPrefetchUsedCount]
  | .xltCountCtl => [F.xltCountCtlRun, F.xltCountCtlClear]
  | .hifVfCfg => [F.hifVfCfgPartition, F.hifVfCfgAssigned]
  | .qpCfg => [F.qpCfgEnable, F.qpCfgSqLoc, F.qpCfgCqLoc, F.qpCfgLog2Sq, F.qpCfgLog2Cq, F.qpCfgContext,
      F.qpCfgPriority, F.qpCfgVector, F.qpCfgIrqEn]
  | .qpSqBase => [F.qpSqBaseBase]
  | .qpCqBase => [F.qpCqBaseBase]
  | .qpSqHead => [F.qpSqHeadCount]
  | .qpCqTail => [F.qpCqTailCount]
  | .qpStatus => [F.qpStatusState, F.qpStatusError, F.qpStatusInflight]
  | .qpDlbCtl => [F.qpDlbCtlEnable]
  | .hifHostRid => [F.hifHostRidRid, F.hifHostRidCheck]
  | .hifLinkStatus => [F.hifLinkStatusRate, F.hifLinkStatusWidth, F.hifLinkStatusFlit, F.hifLinkStatusUp]
  | .hifSession => [F.hifSessionState, F.hifSessionCause, F.hifSessionBadTokens, F.hifSessionHeld]
  | .hifSessionCtl => [F.hifSessionCtlAction, F.hifSessionCtlDetach]
  | .hifToken => [F.hifTokenToken]
  | .hifHeartbeat => [F.hifHeartbeatTimeoutMs, F.hifHeartbeatKick]
  | .hwtEntry => [F.hwtEntryValid, F.hwtEntryWrite, F.hwtEntryFunction, F.hwtEntryPartition, F.hwtEntryHostAddr]
  | .awtWin => [F.awtWinValid, F.awtWinWrite, F.awtWinContext, F.awtWinVaBase]
  | .portCfg => [F.portCfgSplit, F.portCfgPfcEn, F.portCfgPfcMask, F.portCfgPrioRoce, F.portCfgPrioFletus,
      F.portCfgDscpRoce, F.portCfgDscpFletus]
  | .portStatus => [F.portStatusSplitInForce, F.portStatusUpA, F.portStatusUpB, F.portStatusLanesRetired]
  | .portMac => [F.portMacMac]
  | .portPrefix => [F.portPrefixPrefix]
  | .portRxForeign => [F.portRxForeignCount]
  | .portRxStale => [F.portRxStaleCount]
  | .portRxEarly => [F.portRxEarlyCount]
  | .portRxOverflow => [F.portRxOverflowCount]
  | .portTxDown => [F.portTxDownCount]
  | .portFecUncorrected => [F.portFecUncorrectedCount]
  | .netCfg => [F.netCfgFletusPort, F.netCfgLoopbackEn, F.netCfgRtoUs]
  | .netSlot => [F.netSlotJob, F.netSlotEpoch, F.netSlotOwnRank, F.netSlotState, F.netSlotRemoteCmd]
  | .netSlotTable => [F.netSlotTableBase, F.netSlotTableCount, F.netSlotTableContext]
  | .netRdmaStatus => [F.netRdmaStatusDevOcc, F.netRdmaStatusPartOcc]
  | .tbNow => [F.tbNowTime]
  | .tbCfg => [F.tbCfgPtpEn, F.tbCfgPortBlock, F.tbCfgPortSub, F.tbCfgTransport, F.tbCfgDelay, F.tbCfgDomain]
  | .tbStatus => [F.tbStatusLocked, F.tbStatusResidualNs]
  | .tbPtpOffset => [F.tbPtpOffsetOffset]
  | .tbRate => [F.tbRatePpb]
  | .skbCfg => [F.skbCfgMode, F.skbCfgHostData, F.skbCfgRelease, F.skbCfgStallMs]
  | .skbBase => [F.skbBaseSizeGib, F.skbBaseBase]
  | .skbStatus => [F.skbStatusState, F.skbStatusReservedHeld, F.skbStatusFull, F.skbStatusEditionDiffers,
      F.skbStatusCheckBusy, F.skbStatusError, F.skbStatusCause, F.skbStatusBufOcc]
  | .skbWritten => [F.skbWrittenBytes]
  | .skbNextSeq => [F.skbNextSeqSeq]
  | .skbReplayLen => [F.skbReplayLenBytes]
  | .skbPauseSeq => [F.skbPauseSeqSeq]
  | .skbDivergeSeq => [F.skbDivergeSeqSeq]
  | .skbMark => [F.skbMarkValue]
  | .skbCheckAddr => [F.skbCheckAddrAddr]
  | .skbCheckLen => [F.skbCheckLenLength]
  | .skbCtx => [F.skbCtxContext, F.skbCtxValid, F.skbCtxInternal]
  | .cluStepRate => [F.cluStepRateRate]
  | .cluTemp => [F.cluTempTj]
  | .cluPathMon => [F.cluPathMonGrowth, F.cluPathMonReqMv]
  | .pwrCap => [F.pwrCapCapW, F.pwrCapWindowMs]
  | .pwrShare => [F.pwrShareShare, F.pwrShareCrossLend]
  | .pwrStatus => [F.pwrStatusInputW, F.pwrStatusWindowW, F.pwrStatusTargetW, F.pwrStatusFastClamp,
      F.pwrStatusThermalAlert]
  | .pwrDevW => [F.pwrDevWDevW]
  | .pwrEnergyMj => [F.pwrEnergyMjCount]
  | .pwrFastEvents => [F.pwrFastEventsCount]
  | .regPwrCfg => [F.regPwrCfgVsetMv, F.regPwrCfgStaticHaze, F.regPwrCfgGain, F.regPwrCfgVoltStage]
  | .regPwrStatus => [F.regPwrStatusHaze, F.regPwrStatusSource, F.regPwrStatusVddMv, F.regPwrStatusPowerEmerg,
      F.regPwrStatusThermalEmerg, F.regPwrStatusCoreUp, F.regPwrStatusTjMax]
  | .regPwrBudget => [F.regPwrBudgetBudgetW, F.regPwrBudgetMeasuredW, F.regPwrBudgetDemandW, F.regPwrBudgetGuaranteeW]
  | .regPwrAge => [F.regPwrAgeAgeMv, F.regPwrAgeAtLimit]
  | .regPwrEnergyMj => [F.regPwrEnergyMjCount]
  | .regPwrHazeInt => [F.regPwrHazeIntCount]
  | .regPwrDroops => [F.regPwrDroopsCount]
  | .regPwrRetained => [F.regPwrRetainedCores]
  | .fwRoot => [F.fwRootRootRegion, F.fwRootRootValid, F.fwRootHealthy, F.fwRootElections]
  | .fwuStageAddr => [F.fwuStageAddrAddr]
  | .fwuStageCtl => [F.fwuStageCtlType, F.fwuStageCtlLengthKib, F.fwuStageCtlGo]
  | .fwuActivate => [F.fwuActivateParts, F.fwuActivateTypes, F.fwuActivateOnReset, F.fwuActivateCancel,
      F.fwuActivateQuiesceMs, F.fwuActivateGo]
  | .fwuStatus => [F.fwuStatusState, F.fwuStatusResult, F.fwuStatusPartNow, F.fwuStatusTypes, F.fwuStatusNormalMs]
  | .regFwStatus => [F.regFwStatusSecState, F.regFwStatusPwrState, F.regFwStatusSchState, F.regFwStatusSecExpiries,
      F.regFwStatusPwrExpiries, F.regFwStatusSchExpiries, F.regFwStatusBanks]
  | .regFwEventsLost => [F.regFwEventsLostCount]
  | .cluCccStatus => [F.cluCccStatusState, F.cluCccStatusExpiries, F.cluCccStatusDispatchPaused]
  | .rasCfg => [F.rasCfgRowN, F.rasCfgRowWindowH, F.rasCfgCoreN, F.rasCfgCoreWindowMin, F.rasCfgLaneN,
      F.rasCfgLaneWindowMin, F.rasCfgRowEn, F.rasCfgCoreEn, F.rasCfgLaneEn]
  | .rasRepairStatus => [F.rasRepairStatusRowsSpared, F.rasRepairStatusRowsUnspared, F.rasRepairStatusCoresRetired,
      F.rasRepairStatusLanesRetired]
  | .rasIsolate => [F.rasIsolateRegions, F.rasIsolateInForce]
  | .calAddr => [F.calAddrAddr]
  | .calCtl => [F.calCtlExport, F.calCtlImport, F.calCtlForce]
  | .calStatus => [F.calStatusFactory, F.calStatusBusy, F.calStatusPending, F.calStatusResult, F.calStatusCrcInForce]
  | .regEvtBase => [F.regEvtBaseValid, F.regEvtBaseLog2Records, F.regEvtBaseBase]
  | .regEvtWrite => [F.regEvtWriteWriteCount]
  | .regEvtRead => [F.regEvtReadReadCount]
  | .regEvtCtl => [F.regEvtCtlVector, F.regEvtCtlTarget, F.regEvtCtlHart, F.regEvtCtlIid, F.regEvtCtlEnable]
  | .regEvtStatus => [F.regEvtStatusOverwritten]
  | .portSecCfg => [F.portSecCfgEnableA, F.portSecCfgEnableB, F.portSecCfgTxAnA, F.portSecCfgTxAnB,
      F.portSecCfgReplayWindow]
  | .portSecStatus => [F.portSecStatusTxSaA, F.portSecStatusTxSaB, F.portSecStatusPnWarnA, F.portSecStatusPnWarnB,
      F.portSecStatusPnExhaustedA, F.portSecStatusPnExhaustedB]
  | .portSecDrops => [F.portSecDropsRx, F.portSecDropsTx]
  | .ctxMemCrypt => [F.ctxMemCryptEnable, F.ctxMemCryptKeyReady]
  | .secStatus => [F.secStatusBoot, F.secStatusRecordMacFail, F.secStatusDebugLocked, F.secStatusSessions]
  | .secCfg => [F.secCfgRequireIde]
  | .secKeyFuses => [F.secKeyFusesEcdsaProvisioned, F.secKeyFusesMldsaProvisioned, F.secKeyFusesEcdsaRevoked,
      F.secKeyFusesMldsaRevoked]
  | .secIdeStatus => [F.secIdeStatusSecure, F.secIdeStatusCheckFails]
  | .mgtSideCfg => [F.mgtSideCfgFunc, F.mgtSideCfgLevel, F.mgtSideCfgPart, F.mgtSideCfgResult]
  | .mgtSideStatus => [F.mgtSideStatusLevelNow, F.mgtSideStatusQueued, F.mgtSideStatusMissed]
  | .mgtCfg => [F.mgtCfgBmcCap, F.mgtCfgBmcKeys, F.mgtCfgBmcFwu]
  | .devResetCtl => [F.devResetCtlWarm, F.devResetCtlCold, F.devResetCtlKey]
  | .devBootStatus => [F.devBootStatusPhase, F.devBootStatusBootLocked, F.devBootStatusLastReset,
      F.devBootStatusStraps, F.devBootStatusRefclkOk, F.devBootStatusLockUs]

/-- The place of a register. -/
def Reg.place : Reg → RegPlace
  | .devIdent => { block := .dev, off := 0x0 }
  | .devSeamStatus => { block := .dev, off := 0x58 }
  | .devPartCfg => { block := .dev, off := 0x40 }
  | .devPartCtl => { block := .dev, off := 0x48 }
  | .devPartStatus => { block := .dev, off := 0x50 }
  | .regBondStatus => { block := .reg, off := 0x100 }
  | .cluIdent => { block := .clu, off := 0x0 }
  | .cluSlotMap => { block := .clu, off := 0x8 }
  | .ctxFpMode => { block := .ctx, off := 0x40 }
  | .ctxFpStatus => { block := .ctx, off := 0x48 }
  | .ctxSrSeed => { block := .ctx, off := 0x50 }
  | .ctxDrainCfg => { block := .ctx, off := 0x58 }
  | .ctxDrainStatus => { block := .ctx, off := 0x60 }
  | .mxuStatus => { block := .mxu, off := 0x0 }
  | .mxuActiveSteps => { block := .mxu, off := 0x8 }
  | .mxuFeedWaitSteps => { block := .mxu, off := 0x10 }
  | .mxuDrainWaitSteps => { block := .mxu, off := 0x18 }
  | .mxuHazeBubbles => { block := .mxu, off := 0x20 }
  | .mxuProducts => { block := .mxu, off := 0x28 }
  | .mxuCountCtl => { block := .mxu, off := 0x30 }
  | .ctxState => { block := .ctx, off := 0x0 }
  | .ctxSyncMode => { block := .ctx, off := 0x8 }
  | .ctxSaveBase => { block := .ctx, off := 0x10 }
  | .ctxFaultRing => { block := .ctx, off := 0x18 }
  | .ctxFaultStatus => { block := .ctx, off := 0x20 }
  | .ctxFaultRead => { block := .ctx, off := 0x28 }
  | .ctxFaultPolicy => { block := .ctx, off := 0x30 }
  | .ctxFtRequire => { block := .ctx, off := 0x38 }
  | .schStatus => { block := .sch, off := 0x0 }
  | .schIssues => { block := .sch, off := 0x8 }
  | .schPartialIssues => { block := .sch, off := 0x10 }
  | .schBankReplays => { block := .sch, off := 0x18 }
  | .schBankWaits => { block := .sch, off := 0x20 }
  | .schNcHits => { block := .sch, off := 0x28 }
  | .schNcMisses => { block := .sch, off := 0x30 }
  | .schAgePromotions => { block := .sch, off := 0x38 }
  | .schCountCtl => { block := .sch, off := 0x40 }
  | .cntStatus => { block := .cnt, off := 0x0 }
  | .cntRetentionEntries => { block := .cnt, off := 0x8 }
  | .cntRetentionNs => { block := .cnt, off := 0x10 }
  | .cntDiscarded => { block := .cnt, off := 0x18 }
  | .cntValue => { block := .cnt, off := 0x100, stride := 8, count := 48 }
  | .regCntOwner => { block := .reg, off := 0x200, stride := 8, count := 8 }
  | .regCntStatus => { block := .reg, off := 0x240 }
  | .regCntDiscarded => { block := .reg, off := 0x248 }
  | .regCntValue => { block := .reg, off := 0x1000, stride := 8, count := 512 }
  | .l2Cfg => { block := .l2, off := 0x0 }
  | .l2Status => { block := .l2, off := 0x8 }
  | .l2Hits => { block := .l2, off := 0x10 }
  | .l2Misses => { block := .l2, off := 0x18 }
  | .l2Writebacks => { block := .l2, off := 0x20 }
  | .l2VictimsDeclined => { block := .l2, off := 0x28 }
  | .l2StreamWrites => { block := .l2, off := 0x30 }
  | .l2CountCtl => { block := .l2, off := 0x38 }
  | .regSramCfg => { block := .reg, off := 0x300 }
  | .regSramStatus => { block := .reg, off := 0x308 }
  | .regSramVictimHits => { block := .reg, off := 0x310 }
  | .regSramVictimMisses => { block := .reg, off := 0x318 }
  | .regSramExactWraps => { block := .reg, off := 0x340 }
  | .regMemFreeNear => { block := .reg, off := 0x328 }
  | .regMemFreeFar => { block := .reg, off := 0x330 }
  | .regMemSpills => { block := .reg, off := 0x338 }
  | .regMcStatus => { block := .reg, off := 0x320 }
  | .stkStatus => { block := .stk, off := 0x0 }
  | .stkReadBytes => { block := .stk, off := 0x8 }
  | .stkWriteBytes => { block := .stk, off := 0x10 }
  | .stkTurnarounds => { block := .stk, off := 0x18 }
  | .stkRowConflicts => { block := .stk, off := 0x20 }
  | .stkThrottleNs => { block := .stk, off := 0x28 }
  | .stkExactWraps => { block := .stk, off := 0x30 }
  | .stkCountCtl => { block := .stk, off := 0x38 }
  | .regCohStatus => { block := .reg, off := 0x400 }
  | .regCohSnoops => { block := .reg, off := 0x408 }
  | .regCohRecalls => { block := .reg, off := 0x410 }
  | .regCohDrops => { block := .reg, off := 0x418 }
  | .regCohPurges => { block := .reg, off := 0x420 }
  | .regCohPoisoned => { block := .reg, off := 0x428 }
  | .regCohCountCtl => { block := .reg, off := 0x438 }
  | .regGrantNear => { block := .reg, off := 0x20000, stride := 8, count := 6144 }
  | .regGrantFar => { block := .reg, off := 0x30000, stride := 8, count := 8192 }
  | .regGrantScratch => { block := .reg, off := 0x40000, stride := 8, count := 9 }
  | .ctxPtRoot => { block := .ctx, off := 0x68 }
  | .ctxPtCtl => { block := .ctx, off := 0x70 }
  | .ctxTlbInv => { block := .ctx, off := 0x78 }
  | .regApcCtx => { block := .reg, off := 0x500, stride := 8, count := 24 }
  | .regXfrBase => { block := .reg, off := 0x600 }
  | .regXfrWrite => { block := .reg, off := 0x608 }
  | .regXfrRead => { block := .reg, off := 0x610 }
  | .regXfrRespond => { block := .reg, off := 0x618 }
  | .regXfrCtl => { block := .reg, off := 0x620 }
  | .regXfrStatus => { block := .reg, off := 0x628 }
  | .xltStatus => { block := .xlt, off := 0x0 }
  | .xltDemandWalks => { block := .xlt, off := 0x8 }
  | .xltPrefetchWalks => { block := .xlt, off := 0x10 }
  | .xltPrefetchUsed => { block := .xlt, off := 0x18 }
  | .xltCountCtl => { block := .xlt, off := 0x20 }
  | .hifVfCfg => { block := .hif, off := 0x100, stride := 8, count := 63 }
  | .qpCfg => { block := .qp, off := 0x0 }
  | .qpSqBase => { block := .qp, off := 0x8 }
  | .qpCqBase => { block := .qp, off := 0x10 }
  | .qpSqHead => { block := .qp, off := 0x18 }
  | .qpCqTail => { block := .qp, off := 0x20 }
  | .qpStatus => { block := .qp, off := 0x28 }
  | .qpDlbCtl => { block := .qp, off := 0x30 }
  | .hifHostRid => { block := .hif, off := 0x0 }
  | .hifLinkStatus => { block := .hif, off := 0x8 }
  | .hifSession => { block := .hif, off := 0x10 }
  | .hifSessionCtl => { block := .hif, off := 0x18 }
  | .hifToken => { block := .hif, off := 0x20, stride := 8, count := 2 }
  | .hifHeartbeat => { block := .hif, off := 0x30 }
  | .hwtEntry => { block := .hwt, off := 0x0, stride := 8, count := 16384 }
  | .awtWin => { block := .awt, off := 0x0, stride := 8, count := 4032 }
  | .portCfg => { block := .port, off := 0x0 }
  | .portStatus => { block := .port, off := 0x8 }
  | .portMac => { block := .port, off := 0x10, stride := 8, count := 2 }
  | .portPrefix => { block := .port, off := 0x20, stride := 8, count := 2 }
  | .portRxForeign => { block := .port, off := 0x40 }
  | .portRxStale => { block := .port, off := 0x48 }
  | .portRxEarly => { block := .port, off := 0x50 }
  | .portRxOverflow => { block := .port, off := 0x58 }
  | .portTxDown => { block := .port, off := 0x60 }
  | .portFecUncorrected => { block := .port, off := 0x68 }
  | .netCfg => { block := .net, off := 0x0 }
  | .netSlot => { block := .net, off := 0x10, stride := 16, count := 4 }
  | .netSlotTable => { block := .net, off := 0x18, stride := 16, count := 4 }
  | .netRdmaStatus => { block := .net, off := 0x50 }
  | .tbNow => { block := .tb, off := 0x0 }
  | .tbCfg => { block := .tb, off := 0x8 }
  | .tbStatus => { block := .tb, off := 0x10 }
  | .tbPtpOffset => { block := .tb, off := 0x18 }
  | .tbRate => { block := .tb, off := 0x20 }
  | .skbCfg => { block := .skb, off := 0x0 }
  | .skbBase => { block := .skb, off := 0x8 }
  | .skbStatus => { block := .skb, off := 0x10 }
  | .skbWritten => { block := .skb, off := 0x18 }
  | .skbNextSeq => { block := .skb, off := 0x20 }
  | .skbReplayLen => { block := .skb, off := 0x28 }
  | .skbPauseSeq => { block := .skb, off := 0x30 }
  | .skbDivergeSeq => { block := .skb, off := 0x38 }
  | .skbMark => { block := .skb, off := 0x40 }
  | .skbCheckAddr => { block := .skb, off := 0x48 }
  | .skbCheckLen => { block := .skb, off := 0x50 }
  | .skbCtx => { block := .skb, off := 0x80, stride := 8, count := 16 }
  | .cluStepRate => { block := .clu, off := 0x10 }
  | .cluTemp => { block := .clu, off := 0x18 }
  | .cluPathMon => { block := .clu, off := 0x20 }
  | .pwrCap => { block := .pwr, off := 0x0 }
  | .pwrShare => { block := .pwr, off := 0x8 }
  | .pwrStatus => { block := .pwr, off := 0x10 }
  | .pwrDevW => { block := .pwr, off := 0x18 }
  | .pwrEnergyMj => { block := .pwr, off := 0x20 }
  | .pwrFastEvents => { block := .pwr, off := 0x28 }
  | .regPwrCfg => { block := .reg, off := 0x700 }
  | .regPwrStatus => { block := .reg, off := 0x708 }
  | .regPwrBudget => { block := .reg, off := 0x710 }
  | .regPwrAge => { block := .reg, off := 0x718 }
  | .regPwrEnergyMj => { block := .reg, off := 0x720 }
  | .regPwrHazeInt => { block := .reg, off := 0x728 }
  | .regPwrDroops => { block := .reg, off := 0x730 }
  | .regPwrRetained => { block := .reg, off := 0x738 }
  | .fwRoot => { block := .fw, off := 0x0 }
  | .fwuStageAddr => { block := .fw, off := 0x8 }
  | .fwuStageCtl => { block := .fw, off := 0x10 }
  | .fwuActivate => { block := .fw, off := 0x18 }
  | .fwuStatus => { block := .fw, off := 0x20 }
  | .regFwStatus => { block := .reg, off := 0x800 }
  | .regFwEventsLost => { block := .reg, off := 0x808 }
  | .cluCccStatus => { block := .clu, off := 0x28 }
  | .rasCfg => { block := .ras, off := 0x0 }
  | .rasRepairStatus => { block := .ras, off := 0x8 }
  | .rasIsolate => { block := .ras, off := 0x10 }
  | .calAddr => { block := .cal, off := 0x0 }
  | .calCtl => { block := .cal, off := 0x8 }
  | .calStatus => { block := .cal, off := 0x10 }
  | .regEvtBase => { block := .reg, off := 0x900 }
  | .regEvtWrite => { block := .reg, off := 0x908 }
  | .regEvtRead => { block := .reg, off := 0x910 }
  | .regEvtCtl => { block := .reg, off := 0x918 }
  | .regEvtStatus => { block := .reg, off := 0x920 }
  | .portSecCfg => { block := .port, off := 0x70 }
  | .portSecStatus => { block := .port, off := 0x78 }
  | .portSecDrops => { block := .port, off := 0x80 }
  | .ctxMemCrypt => { block := .ctx, off := 0x80 }
  | .secStatus => { block := .sec, off := 0x0 }
  | .secCfg => { block := .sec, off := 0x8 }
  | .secKeyFuses => { block := .sec, off := 0x10 }
  | .secIdeStatus => { block := .sec, off := 0x18 }
  | .mgtSideCfg => { block := .mgt, off := 0x0 }
  | .mgtSideStatus => { block := .mgt, off := 0x8 }
  | .mgtCfg => { block := .mgt, off := 0x10 }
  | .devResetCtl => { block := .dev, off := 0x60 }
  | .devBootStatus => { block := .dev, off := 0x68 }

/-- The registers of a block. -/
def Block.regs : Block → List Reg
  | .dev => [.devIdent, .devSeamStatus, .devPartCfg, .devPartCtl, .devPartStatus, .devResetCtl, .devBootStatus]
  | .hif => [.hifVfCfg, .hifHostRid, .hifLinkStatus, .hifSession, .hifSessionCtl, .hifToken, .hifHeartbeat]
  | .hwt => [.hwtEntry]
  | .awt => [.awtWin]
  | .tb => [.tbNow, .tbCfg, .tbStatus, .tbPtpOffset, .tbRate]
  | .pwr => [.pwrCap, .pwrShare, .pwrStatus, .pwrDevW, .pwrEnergyMj, .pwrFastEvents]
  | .fw => [.fwRoot, .fwuStageAddr, .fwuStageCtl, .fwuActivate, .fwuStatus]
  | .ras => [.rasCfg, .rasRepairStatus, .rasIsolate]
  | .cal => [.calAddr, .calCtl, .calStatus]
  | .sec => [.secStatus, .secCfg, .secKeyFuses, .secIdeStatus]
  | .mgt => [.mgtSideCfg, .mgtSideStatus, .mgtCfg]
  | .ctx => [.ctxFpMode, .ctxFpStatus, .ctxSrSeed, .ctxDrainCfg, .ctxDrainStatus, .ctxState, .ctxSyncMode,
      .ctxSaveBase, .ctxFaultRing, .ctxFaultStatus, .ctxFaultRead, .ctxFaultPolicy, .ctxFtRequire, .ctxPtRoot,
      .ctxPtCtl, .ctxTlbInv, .ctxMemCrypt]
  | .qp => [.qpCfg, .qpSqBase, .qpCqBase, .qpSqHead, .qpCqTail, .qpStatus, .qpDlbCtl]
  | .reg => [.regBondStatus, .regCntOwner, .regCntStatus, .regCntDiscarded, .regCntValue, .regSramCfg,
      .regSramStatus, .regSramVictimHits, .regSramVictimMisses, .regSramExactWraps, .regMemFreeNear, .regMemFreeFar,
      .regMemSpills, .regMcStatus, .regCohStatus, .regCohSnoops, .regCohRecalls, .regCohDrops, .regCohPurges,
      .regCohPoisoned, .regCohCountCtl, .regGrantNear, .regGrantFar, .regGrantScratch, .regApcCtx, .regXfrBase,
      .regXfrWrite, .regXfrRead, .regXfrRespond, .regXfrCtl, .regXfrStatus, .regPwrCfg, .regPwrStatus, .regPwrBudget,
      .regPwrAge, .regPwrEnergyMj, .regPwrHazeInt, .regPwrDroops, .regPwrRetained, .regFwStatus, .regFwEventsLost,
      .regEvtBase, .regEvtWrite, .regEvtRead, .regEvtCtl, .regEvtStatus]
  | .stk => [.stkStatus, .stkReadBytes, .stkWriteBytes, .stkTurnarounds, .stkRowConflicts, .stkThrottleNs,
      .stkExactWraps, .stkCountCtl]
  | .port => [.portCfg, .portStatus, .portMac, .portPrefix, .portRxForeign, .portRxStale, .portRxEarly,
      .portRxOverflow, .portTxDown, .portFecUncorrected, .portSecCfg, .portSecStatus, .portSecDrops]
  | .net => [.netCfg, .netSlot, .netSlotTable, .netRdmaStatus]
  | .skb => [.skbCfg, .skbBase, .skbStatus, .skbWritten, .skbNextSeq, .skbReplayLen, .skbPauseSeq, .skbDivergeSeq,
      .skbMark, .skbCheckAddr, .skbCheckLen, .skbCtx]
  | .clu => [.cluIdent, .cluSlotMap, .cluStepRate, .cluTemp, .cluPathMon, .cluCccStatus]
  | .mxu => [.mxuStatus, .mxuActiveSteps, .mxuFeedWaitSteps, .mxuDrainWaitSteps, .mxuHazeBubbles, .mxuProducts,
      .mxuCountCtl]
  | .sch => [.schStatus, .schIssues, .schPartialIssues, .schBankReplays, .schBankWaits, .schNcHits, .schNcMisses,
      .schAgePromotions, .schCountCtl]
  | .cnt => [.cntStatus, .cntRetentionEntries, .cntRetentionNs, .cntDiscarded, .cntValue]
  | .l2 => [.l2Cfg, .l2Status, .l2Hits, .l2Misses, .l2Writebacks, .l2VictimsDeclined, .l2StreamWrites, .l2CountCtl]
  | .xlt => [.xltStatus, .xltDemandWalks, .xltPrefetchWalks, .xltPrefetchUsed, .xltCountCtl]

/-- How many instances of a block there are. -/
def Block.count : Block → Nat
  | .ctx => 4096
  | .qp => 32768
  | .reg | .net | .skb => 4
  | .stk => 24
  | .port => 8
  | .clu | .xlt => 144
  | .mxu | .sch | .cnt => 1152
  | .l2 => 12
  | _ => 1

/-- The offset of a region's easel blocks from 0x0F00_0000_0000 (R40). -/
def regionBase (r : Nat) : Nat := 0x10000000 * (1 + r)

/-- The offset of a global canvas's window (R40). -/
def canvasBase (c : Nat) : Nat := regionBase (c / 3) + 0x4000000 + c % 3 * 0x1000000

/-- The offset of a global cluster's window (R40). -/
def clusterBase (k : Nat) : Nat := canvasBase (k / 12) + k % 12 * 0x100000

/-- The offset of instance i of a block from 0x0F00_0000_0000. Stacks are numbered region × 6 + s, near stacks first. -/
def Block.base : Block → Nat → Nat
  | .dev, _ => 0
  | .hif, _ => 0x10000
  | .hwt, _ => 0x20000
  | .awt, _ => 0x40000
  | .tb, _ => 0x50000
  | .pwr, _ => 0x60000
  | .fw, _ => 0x70000
  | .ras, _ => 0x80000
  | .cal, _ => 0x90000
  | .sec, _ => 0xA0000
  | .mgt, _ => 0xB0000
  | .ctx, i => 0x1000000 + i * 0x1000
  | .qp, i => 0x2000000 + i * 0x40
  | .reg, i => regionBase i
  | .stk, i => regionBase (i / 6) + 0x100000 + i % 6 * 0x10000
  | .port, i => regionBase (i / 2) + 0x200000 + i % 2 * 0x10000
  | .net, i => regionBase i + 0x220000
  | .skb, i => regionBase i + 0x240000
  | .clu, i => clusterBase i
  | .mxu, i => clusterBase (i / 8) + 0x80000 + i % 8 * 0x1000
  | .sch, i => clusterBase (i / 8) + 0x90000 + i % 8 * 0x1000
  | .cnt, i => clusterBase (i / 8) + 0xA0000 + i % 8 * 0x1000
  | .l2, i => canvasBase i + 0xC00000
  | .xlt, i => clusterBase i + 0xB0000

/-- The instance of the block whose window holds an offset, and the offset in that window. -/
def blockOf (a : Nat) : Option (Block × Nat × Nat) :=
  if a < 0x10000 then some (.dev, 0, a)
  else if a < 0x20000 then some (.hif, 0, a - 0x10000)
  else if a < 0x40000 then some (.hwt, 0, a - 0x20000)
  else if a < 0x50000 then some (.awt, 0, a - 0x40000)
  else if a < 0x60000 then some (.tb, 0, a - 0x50000)
  else if a < 0x70000 then some (.pwr, 0, a - 0x60000)
  else if a < 0x80000 then some (.fw, 0, a - 0x70000)
  else if a < 0x90000 then some (.ras, 0, a - 0x80000)
  else if a < 0xA0000 then some (.cal, 0, a - 0x90000)
  else if a < 0xB0000 then some (.sec, 0, a - 0xA0000)
  else if a < 0xC0000 then some (.mgt, 0, a - 0xB0000)
  else if a < 0x1000000 then none
  else if a < 0x2000000 then some (.ctx, (a - 0x1000000) / 0x1000, a % 0x1000)
  else if a < 0x2200000 then some (.qp, (a - 0x2000000) / 0x40, a % 0x40)
  else if a < 0x10000000 then none
  else if a < 0x50000000 then
    let r := a / 0x10000000 - 1
    let o := a % 0x10000000
    if o < 0x100000 then some (.reg, r, o)
    else if o < 0x160000 then some (.stk, r * 6 + (o - 0x100000) / 0x10000, o % 0x10000)
    else if o < 0x200000 then none
    else if o < 0x220000 then some (.port, r * 2 + (o - 0x200000) / 0x10000, o % 0x10000)
    else if o < 0x230000 then some (.net, r, o - 0x220000)
    else if o < 0x240000 then none
    else if o < 0x250000 then some (.skb, r, o - 0x240000)
    else if o < 0x4000000 then none
    else if o < 0x7000000 then
      let c := r * 3 + (o - 0x4000000) / 0x1000000
      let q := o % 0x1000000
      if q < 0xC00000 then
        let k := c * 12 + q / 0x100000
        let u := q % 0x100000
        if u < 0x80000 then some (.clu, k, u)
        else if u < 0x88000 then some (.mxu, k * 8 + (u - 0x80000) / 0x1000, u % 0x1000)
        else if u < 0x90000 then none
        else if u < 0x98000 then some (.sch, k * 8 + (u - 0x90000) / 0x1000, u % 0x1000)
        else if u < 0xA0000 then none
        else if u < 0xA8000 then some (.cnt, k * 8 + (u - 0xA0000) / 0x1000, u % 0x1000)
        else if u < 0xB0000 then none
        else if u < 0xC0000 then some (.xlt, k, u - 0xB0000)
        else none
      else if q < 0xD00000 then some (.l2, c, q - 0xC00000)
      else none
    else none
  else none

/-- The register of a list that has an element at an offset of the block's window, and the element. -/
def findReg (o : Nat) : List Reg → Option (Reg × Nat)
  | [] => none
  | r :: rs =>
    let p := r.place
    if p.off ≤ o ∧ (o - p.off) % p.stride = 0 ∧ (o - p.off) / p.stride < p.count then some (r, (o - p.off) / p.stride)
    else findReg o rs

/-- The register at an aligned offset from 0x0F00_0000_0000, with its flat index instance × count + element. -/
def regAt (a : Nat) : Option (Reg × Nat) :=
  match blockOf a with
  | none => none
  | some (b, i, o) =>
    match findReg o b.regs with
    | some (r, k) => some (r, i * r.place.count + k)
    | none => none

/-- The offset of a register's flat index from 0x0F00_0000_0000. -/
def Reg.addr (r : Reg) (n : Nat) : Nat :=
  let p := r.place
  p.block.base (n / p.count) + p.off + n % p.count * p.stride

/-- One field's bits in the reset word. -/
def Fld.resetBits (f : Fld) : Nat :=
  (List.range f.count).foldl (fun a k => a + f.reset <<< (f.lo + k * f.step)) 0

/-- The identification of a cluster in CLU.IDENT (R15, R40): region, canvas, cluster and global cluster. -/
def cluIdentFixed (k : Nat) : Nat :=
  k % 144 + (k % 12) <<< 8 + (k / 12 % 3) <<< 12 + (k / 36 % 4) <<< 14

/-- The reset value of a register: its fields' reset values, and what the table says is fixed per instance. In whole mode,
partition 0 is present (R38), so its state alone is 1. -/
def Reg.reset (r : Reg) (n : Nat) : Word :=
  match r with
  | .cluIdent => BitVec.ofNat 64 (cluIdentFixed n + 8 <<< 16 + 8 <<< 20)
  | .cluSlotMap => 0x76543210
  | .devPartStatus => 1
  | _ => BitVec.ofNat 64 (r.fields.foldl (fun a f => a + f.resetBits) 0)

end Sys2Proof.Machine
end

