-- ==== Sys2Proof/Machine/State.lean ====
section
/-! DEFINITION. The state of the device, the reasons for which a command can stop, and the state after reset. -/

namespace Sys2Proof.Machine

/-- What the device sends out: a byte string to host memory; an interrupt to a PCI Express function or an application core;
an answer to a host read; a network packet, with its SecTAG's AN and packet number where it is protected; a Neighbor
Advertisement; a PFC frame; a message of MCTP control (type 0), PLDM (1) or SPDM (5); an AER report. -/
inductive Sent where
  | hostWrite (fn addr : Nat) (bytes : List Byte)
  | msix (fn vector : Nat)
  | appIrq (hart iid : Nat)
  | barData (id : Nat) (bytes : List Byte) (poisoned : Bool)
  | barAllOnes (id len : Nat)
  | barUnsupported (id : Nat)
  | packet (block : Nat) (f : TxFrame) (tag : Option (Nat × Nat))
  | neighbor (block sub : Nat) (ident : Nat) (mac : Nat)
  | pfc (block sub prio : Nat) (xoff : Bool)
  | message (medium : Medium) (ty code : Nat) (bytes : List Byte)
  | aer (code : Nat)
deriving DecidableEq, Repr

/-- The reasons for which a command ends in a fault. There are none: every error of this part is an effect on its state
(an event, a status, a record), as the spec describes, and no command ends a run. -/
inductive Fault where
deriving DecidableEq, Repr

/-- The reasons for which a command is refused. -/
inductive Refusal where
  /-- Raised by `exec` alone, for a command whose meaning is not written yet. Safe: no state follows. -/
  | notModelled (mnemonic : String)
deriving DecidableEq, Repr

/-- The state of the device: everything the spec gives it, and the queue of the commands that wait.
`regs` holds every register of the register map by its offset from 0x0F00_0000_0000, unlisted registers at their reset
value; `mem` the coherent value of every byte of the physical address space, and `poison` its poisoned 32-byte granules;
`scrambled` the granules whose key has changed and the number of the change (R520). `stopped` lists the cores that a cell-level or
block-level fault has stopped and `downClusters` the clusters that have stopped (R29); `nextArrival` numbers the arrivals of waits
and claims at their arbiters (R243); `msix` holds the bytes of the functions' MSI-X tables (R342), keyed function × 2^20 + offset; `freeIdx` counts the free values used:
it is the model's own field, and no statement rests on it. -/
structure State where
  pending : List Instr := []
  now : Nat := 0
  regs : NMap Word := []
  mem : List Host.Cell := []
  poison : NMap Unit := []
  scrambled : NMap Nat := []
  cores : NMap CoreSt := []
  stopped : List Nat := []
  downClusters : List Nat := []
  tasks : NMap Task := []
  nextTask : Nat := 0
  saved : NMap SavedCore := []
  regionCtrs : NMap Nat := []
  nextArrival : Nat := 0
  merges : List Merge := []
  canvases : NMap CanvasL2 := []
  coh : Coherence := {}
  srams : NMap RegionSram := []
  channels : NMap Channel := []
  stackSts : NMap StackSt := []
  tlbs : NMap (List TlbEntry) := []
  xfr : NMap XfrRing := []
  pages : NMap PoolPage := []
  queues : NMap QueueSt := []
  barReads : List BarRead := []
  nextBarRead : Nat := 0
  msix : NMap Byte := []
  session : Session := {}
  ports : NMap PortSt := []
  slots : NMap JobSlot := []
  ranks : NMap RankEntry := []
  ptp : PtpSt := {}
  skbs : NMap SkbSt := []
  power : PwrSt := {}
  pwrRegions : NMap PwrRegion := []
  fwCores : NMap FwCore := []
  staging : Option Staging := none
  activation : Option Activation := none
  normalRun : Nat := 0
  fwWaits : List FwWait := []
  events : NMap EventSt := []
  flash : Flash := {}
  sec : SecSt := {}
  mgt : MgtSt := {}
  modSt : ModuleSt := {}
  freeIdx : Nat := 0
  sent : List Sent := []
deriving DecidableEq, Repr

/-- The machine right after a cold reset, before its power-up sequence runs (R19, R540, R544): every register at its Reset
value, memory zero, nothing in any queue. -/
def State.reset : State := {}

end Sys2Proof.Machine
end

