-- ==== Sys2Proof/Machine/Ops.lean ====
section
/-! DEFINITION. The named operations over the registers, the partitions, the physical address space and its memory, and the
hardware event queues. Every register read and write and every memory read and write goes through them. -/

namespace Sys2Proof.Machine

-- registers

/-- A register's stored word: its reset value where the store does not list it. -/
def State.reg (s : State) (r : Reg) (n : Nat) : Word := s.regs.getD (r.addr n) (r.reset n)

/-- The state with a register's stored word replaced. -/
def State.setReg (s : State) (r : Reg) (n : Nat) (w : Word) : State :=
  { s with regs := s.regs.put (r.reset n) (r.addr n) w }

/-- Element k of a field of register n, as a number. -/
def State.rd (s : State) (f : Fld) (n : Nat := 0) (k : Nat := 0) : Nat :=
  (s.reg f.reg n).bits (f.hi + k * f.step) (f.lo + k * f.step)

/-- Element k of a field of register n set to the low bits of v. -/
def State.wr (s : State) (f : Fld) (n : Nat) (v : Nat) (k : Nat := 0) : State :=
  s.setReg f.reg n ((s.reg f.reg n).setBits (f.hi + k * f.step) (f.lo + k * f.step) v)

/-- A field read as one bit. -/
def State.flag (s : State) (f : Fld) (n : Nat := 0) (k : Nat := 0) : Bool := decide (s.rd f n k = 1)

/-- A counter field raised by a number; it wraps at its width. -/
def State.bump (s : State) (f : Fld) (n : Nat) (v : Nat := 1) : State := s.wr f n (s.rd f n + v)

/-- A counter field raised by a number; it saturates at its width. -/
def State.bumpSat (s : State) (f : Fld) (n : Nat) (v : Nat := 1) : State :=
  s.wr f n (min (s.rd f n + v) (2 ^ (f.hi + 1 - f.lo) - 1))

/-- A counter field raised while its block's RUN bit is 1. -/
def State.bumpRun (s : State) (run f : Fld) (n : Nat) (v : Nat := 1) : State :=
  if s.flag run n then s.bump f n v else s

/-- A register back at its reset value. -/
def State.clearReg (s : State) (r : Reg) (n : Nat) : State := s.setReg r n (r.reset n)

/-- The next free value's number, and the state with it used. -/
def State.draw (s : State) : Nat × State := (s.freeIdx, { s with freeIdx := s.freeIdx + 1 })

/-- What is sent out is appended to what was sent. -/
def State.send (s : State) (m : Sent) : State := { s with sent := s.sent ++ [m] }

-- partitions (R15, R33)

/-- The mode in force: 0 whole, 1 dual, 2 quad. -/
def State.mode (s : State) : Nat := s.rd F.devPartCfgMode

/-- How many partitions a mode has. -/
def partCount (mode : Nat) : Nat := if mode = 0 then 1 else if mode = 1 then 2 else 4

/-- How many regions a partition of a mode has. -/
def regionsPer (mode : Nat) : Nat := 4 / partCount mode

def partOfRegion (mode r : Nat) : Nat := r / regionsPer mode

/-- The regions of a partition, ascending. -/
def partRegions (mode p : Nat) : List Nat := (List.range (regionsPer mode)).map (fun i => p * regionsPer mode + i)

def lowestRegion (mode p : Nat) : Nat := p * regionsPer mode

/-- The partition of a queue. A number from 32768 on stands for the remote commands of a job slot: 32768 + region × 4 + slot. -/
def partOfQueue (mode q : Nat) : Nat :=
  if q < 32768 then q / (32768 / partCount mode) else partOfRegion mode ((q - 32768) / 4)

def partOfCtx (mode c : Nat) : Nat := c / (4096 / partCount mode)

def firstCtx (mode p : Nat) : Nat := p * (4096 / partCount mode)

def firstQueue (mode p : Nat) : Nat := p * (32768 / partCount mode)

/-- The partition's firmware context (R33). -/
def firmwareCtx (mode p : Nat) : Nat := firstCtx mode p

/-- Is the context a partition's firmware context (R152)? -/
def isFirmwareCtx (mode c : Nat) : Bool := decide (c = firmwareCtx mode (partOfCtx mode c))

/-- Is the queue a partition's resident operator queue (R33)? -/
def isResidentQueue (mode q : Nat) : Bool := decide (q = firstQueue mode (partOfQueue mode q))

/-- The region whose scheduler core serves a queue (R459). -/
def servingRegion (mode q : Nat) : Nat :=
  lowestRegion mode (partOfQueue mode q) + q % regionsPer mode

def regionOfCluster (k : Nat) : Nat := k / 36
def regionOfCore (c : Nat) : Nat := c / 288
def clusterOfCore (c : Nat) : Nat := c / 8
def canvasOfCore (c : Nat) : Nat := c / 96

/-- Is a global core number vacant (R17)? -/
def State.vacant (s : State) (c : Nat) : Bool :=
  decide (1152 ≤ c) || decide (s.rd F.cluSlotMapLog (c / 8) (c % 8) = 0xF)

/-- The state of a partition in DEV.PART_STATUS. -/
def State.partState (s : State) (p : Nat) : Nat := s.rd F.devPartStatusState 0 p

/-- A message of PlatformEventMessage (R523): sent to the event receiver when a state sensor's value changes. -/
def State.sensorEvent (s : State) (sensor before after : Nat) : State :=
  if before = after then s
  else
    match s.mgt.receiver with
    | some (m, eid) =>
      s.send (.message m 1 0x0A (leBytes 1 eid ++ leBytes 2 sensor ++ leBytes 1 before ++ leBytes 1 after))
    | none => s

/-- A partition's state changed; its state sensor reports the change (R523, R525). -/
def State.setPartState (s : State) (p v : Nat) : State :=
  (s.wr F.devPartStatusState 0 v p).sensorEvent (0x82 + p) (s.partState p) v

/-- Is the partition running, or activating a firmware update (which leaves accepted work running, R471)? -/
def State.partLive (s : State) (p : Nat) : Bool := decide (s.partState p = 2) || decide (s.partState p = 5)

def State.core (s : State) (c : Nat) : CoreSt := s.cores.getD c {}

/-- The state with a core's state replaced; a core that differs from the reset core in nothing is not listed. -/
def State.setCore (s : State) (c : Nat) (x : CoreSt) : State := { s with cores := s.cores.put {} c x }

-- the physical address space (R260 to R262, R270, R272)

/-- What a physical address names. Scratch is so only while its unit is in force. -/
inductive PaKind where
  | near (region off : Nat)
  | far (region off : Nat)
  | scratch (region off : Nat)
  | regs (off : Nat)
  | host (off : Nat)
  | hole
deriving DecidableEq, Repr

/-- The physical address map (R260, R272). -/
def State.paKind (s : State) (a : Nat) : PaKind :=
  if a < 0x018000000000 then .near (a / 0x6000000000) (a % 0x6000000000)
  else if a < 0x020000000000 then .hole
  else if a < 0x040000000000 then .far ((a - 0x020000000000) / 0x8000000000) (a % 0x8000000000)
  else if a < 0x080000000000 then .hole
  else if a < 0x080400000000 then
    let r := (a - 0x080000000000) / 0x100000000
    let o := a % 0x100000000
    if o < s.rd F.regSramStatusScratchInForce r * 0x4000000 then .scratch r o else .hole
  else if a < 0x0F0000000000 then .hole
  else if a < 0x0F0050000000 then .regs (a - 0x0F0000000000)
  else if a < 0x100000000000 then .hole
  else if a < 0x200000000000 then .host (a - 0x100000000000)
  else .hole

/-- The region of memory at an address: near tier, far tier or scratch. -/
def PaKind.region? : PaKind → Option Nat
  | .near r _ | .far r _ | .scratch r _ => some r
  | _ => none

/-- Is it in a near or far tier? -/
def PaKind.isTier : PaKind → Bool
  | .near _ _ | .far _ _ => true
  | _ => false

/-- Does a whole range lie in the near and far tiers of a partition? A range that starts in a tier of one region and ends
in the same tier of a region of the partition lies in it. -/
def State.rangeInTiers (s : State) (p a len : Nat) : Bool :=
  match s.paKind a, s.paKind (a + len - 1) with
  | .near r _, .near r' _ => decide (partOfRegion s.mode r = p ∧ partOfRegion s.mode r' = p)
  | .far r _, .far r' _ => decide (partOfRegion s.mode r = p ∧ partOfRegion s.mode r' = p)
  | _, _ => false

/-- The place of a tier's block: channel, pseudo-channel, byte of the row, bank, stack identifier and row (R262). -/
structure TierLoc where
  channel : Nat
  pseudo : Nat
  column : Nat
  bank : Nat
  sid : Nat
  row : Nat
deriving DecidableEq, Repr

/-- The decode of an offset within a tier (R262). -/
def tierDecode (o w sids : Nat) : TierLoc :=
  let b := o >>> 8
  let hi := b >>> w
  let f := hi ^^^ (hi >>> w) ^^^ (hi >>> (2 * w)) ^^^ (hi >>> (3 * w)) ^^^ (hi >>> (4 * w))
  { channel := (b ^^^ f) % 2 ^ w,
    pseudo := hi % 2,
    column := (hi >>> 1) % 4 * 256 + o % 256,
    bank := ((hi >>> 3) ^^^ (hi >>> 7)) % 16,
    sid := (hi >>> 7) % sids,
    row := (hi >>> 7) / sids }

/-- The stack of a tier address, numbered region × 6 + s, near stacks first; none outside the tiers. -/
def PaKind.stack? : PaKind → Option Nat
  | .near r o => some (r * 6 + (tierDecode o 7 3).channel / 32)
  | .far r o => some (r * 6 + 4 + (tierDecode o 6 4).channel / 32)
  | _ => none

/-- The channel controller of a tier address: 192 per region, the near tier's 128 first. -/
def PaKind.chan? : PaKind → Option Nat
  | .near r o => some (r * 192 + (tierDecode o 7 3).channel)
  | .far r o => some (r * 192 + 128 + (tierDecode o 6 4).channel)
  | _ => none

/-- The global number of a stack in an event record (R487): near 0 to 15, far 16 to 23. -/
def stackUnit (k : Nat) : Nat := if k % 6 < 4 then k / 6 * 4 + k % 6 else 16 + k / 6 * 2 + (k % 6 - 4)

/-- The grant register and its index for an address of memory (R320). -/
def PaKind.granule? : PaKind → Option (Fld × Fld × Nat)
  | .near r o => some (F.regGrantNearMode, F.regGrantNearContext, r * 6144 + o / 0x4000000)
  | .far r o => some (F.regGrantFarMode, F.regGrantFarContext, r * 8192 + o / 0x4000000)
  | .scratch r o => some (F.regGrantScratchMode, F.regGrantScratchContext, r * 9 + o / 0x4000000)
  | _ => none

-- memory

/-- What an unlisted byte of memory reads as: zero, as a reset leaves it (R37, R548); in a granule whose encryption key has
changed, the free value of R520. -/
def State.memDefault (s : State) (a : Nat) : Byte :=
  match s.scrambled.get? (a / 0x4000000) with
  | some n => Config.scrambledByte n a
  | none => 0

/-- One byte of memory. -/
def State.readByte (s : State) (a : Nat) : Byte := NMap.getD s.mem a (s.memDefault a)

/-- n bytes of memory, rising. -/
def State.readBytes (s : State) (a : Nat) : Nat → List Byte
  | 0 => []
  | n + 1 => s.readByte a :: s.readBytes (a + 1) n

/-- One byte written; the canonical form is kept. -/
def State.writeByte (s : State) (a : Nat) (b : Byte) : State :=
  { s with mem := NMap.put (s.memDefault a) s.mem a b }

/-- Bytes written, rising. -/
def State.writeBytes (s : State) (a : Nat) : List Byte → State
  | [] => s
  | b :: bs => (s.writeByte a b).writeBytes (a + 1) bs

/-- Is a stack offline (R286)? -/
def State.stackOffline (s : State) (k : Nat) : Bool := (s.stackSts.getD k {}).offline

/-- Is the 32-byte burst at a block number poisoned: marked, or at an offline stack (R483, R286)? -/
def State.blockPoisoned (s : State) (b : Nat) : Bool :=
  s.poison.has b ||
    match (s.paKind (b * 32)).stack? with
    | some k => s.stackOffline k
    | none => false

/-- The 32-byte blocks that n bytes from an address touch. -/
def blocksOf (a n : Nat) : List Nat :=
  if n = 0 then [] else (List.range ((a + n - 1) / 32 - a / 32 + 1)).map (fun i => a / 32 + i)

/-- Does a range touch poison? -/
def State.poisoned (s : State) (a n : Nat) : Bool := (blocksOf a n).any s.blockPoisoned

/-- A block's poison mark set. -/
def State.markPoison (s : State) (b : Nat) : State := { s with poison := s.poison.set b () }

/-- A block's poison mark cleared. -/
def State.clearPoison (s : State) (b : Nat) : State := { s with poison := s.poison.del b }

/-- Memory of a range back at zero, its poison marks gone (R37, R38, R279). A granule wholly in the range loses its key
change; in one partly in it, the zeros are listed. -/
def State.zeroRange (s : State) (a n : Nat) : State :=
  let part := s.scrambled.keys.filter (fun g =>
    decide (g * 0x4000000 < a + n ∧ a < (g + 1) * 0x4000000) && !decide (a ≤ g * 0x4000000 ∧ (g + 1) * 0x4000000 ≤ a + n))
  let s := { s with
    mem := NMap.keep s.mem (fun k => decide (k < a) || decide (a + n ≤ k)),
    poison := s.poison.keep (fun b => decide (b * 32 + 32 ≤ a) || decide (a + n ≤ b * 32)),
    scrambled := s.scrambled.keep (fun g => !decide (a ≤ g * 0x4000000 ∧ (g + 1) * 0x4000000 ≤ a + n)) }
  part.foldl (fun t g =>
    let lo := max a (g * 0x4000000)
    let hi := min (a + n) ((g + 1) * 0x4000000)
    (List.range (hi - lo)).foldl (fun u i => u.writeByte (lo + i) 0) t) s

/-- The first physical address of a region's near tier, far tier and scratch. -/
def nearBase (r : Nat) : Nat := r * 0x6000000000
def farBase (r : Nat) : Nat := 0x020000000000 + r * 0x8000000000
def scratchBase (r : Nat) : Nat := 0x080000000000 + r * 0x100000000

-- events (R466, R487)

/-- The region whose hardware event queue takes a device-level event (R488): the root's, or region 0 without one. -/
def State.rootRegion (s : State) : Nat := if s.flag F.fwRootRootValid then s.rd F.fwRootRootRegion else 0

/-- An event enters a region's hardware event queue of 1,024 entries, or is counted as lost (R466). -/
def State.enqueueEvent (s : State) (r : Nat) (e : EvRec) : State :=
  let q := s.events.getD r {}
  if q.queue.length < 1024 then { s with events := s.events.set r { q with queue := q.queue ++ [e] } }
  else s.bump F.regFwEventsLostCount r

/-- A hardware event of a region, with its unit, context, location and detail. -/
def State.hwEvent (s : State) (r code unit : Nat) (ctx : Nat := 0xFFFF) (loc : Nat := 0) (detail : Nat := 0)
    (flags : Nat := 0) : State :=
  let r' := if 0xC000 ≤ code then s.rootRegion else r
  s.enqueueEvent r'
    { code := code, flags := flags, region := r', unit := unit, ctx := ctx, time := s.now, location := loc,
      detail := detail }

/-- The access-error event (R18, R487). -/
def State.accessError (s : State) : State := s.hwEvent 0 0xC001 0xFFFF

/-- Bytes written to memory: the marks of the blocks wholly covered are cleared, the others stay (R484). Bytes of an
offline stack are discarded, each such burst logged with event 0x4013 (R286). -/
def State.writeMem (s : State) (a : Nat) (bs : List Byte) : State :=
  let off := (blocksOf a bs.length).filter (fun b =>
    match (s.paKind (b * 32)).stack? with
    | some k => s.stackOffline k
    | none => false)
  if off = [] then
    (blocksOf a bs.length).foldl
      (fun t b => if a ≤ b * 32 ∧ b * 32 + 32 ≤ a + bs.length then t.clearPoison b else t) (s.writeBytes a bs)
  else
    let s := (List.range bs.length).foldl
      (fun t i => if (a + i) / 32 ∈ off then t else t.writeByte (a + i) (bs.getD i 0)) s
    let s := (blocksOf a bs.length).foldl
      (fun t b => if a ≤ b * 32 ∧ b * 32 + 32 ≤ a + bs.length ∧ b ∉ off then t.clearPoison b else t) s
    off.foldl (fun t b =>
      let k := ((t.paKind (b * 32)).stack?).getD 0
      t.hwEvent (k / 6) 0x4013 (stackUnit k) 0xFFFF (b * 32)) s

/-- An interrupt by a control word of the form VECTOR, TARGET, HART, IID, ENABLE (R337, R502); none goes to the host while the
session is detached (R362). -/
def State.raiseIrq (s : State) (vector target hart iid enable : Nat) : State :=
  if enable = 0 then s
  else if target = 0 then (if s.rd F.hifSessionState = 2 then s else s.send (.msix 0 vector))
  else s.send (.appIrq hart iid)

end Sys2Proof.Machine
end

