-- ==== Sys2Proof/Machine/Events.lean ====
section
/-! DEFINITION. The event log, window counting and its interrupt (17_faults_and_repair.md, R466, R487 to R491), and the
draining of the hardware event queue. -/

namespace Sys2Proof.Machine

/-- An event record's 32 bytes (R488). -/
def EvRec.bytes (e : EvRec) (seq : Nat) : List Byte :=
  leBytes 2 e.code ++ leBytes 1 e.flags ++ leBytes 1 e.region ++ leBytes 2 e.unit ++ leBytes 2 e.ctx
    ++ leBytes 8 e.time ++ leBytes 8 e.location ++ leBytes 4 seq ++ leBytes 4 e.detail

/-- The key of a row (R489): region, channel, pseudo-channel, stack identifier, bank and row. -/
def State.rowKey (s : State) (a : Nat) : Nat :=
  let f := fun (r c : Nat) (l : TierLoc) =>
    ((((r * 192 + c) * 2 + l.pseudo) * 4 + l.sid) * 16 + l.bank) * 65536 + l.row
  match s.paKind a with
  | .near r o => let l := tierDecode o 7 3; f r l.channel l
  | .far r o => let l := tierDecode o 6 4; f r (128 + l.channel) l
  | _ => 0

/-- The kinds of counted events (R489). -/
inductive CountKind where
  | row | core | lane
deriving DecidableEq, Repr

def CountKind.ofCode (code : Nat) : Option CountKind :=
  if code = 0x0110 then some .row
  else if code = 0x0201 ∨ code = 0x0301 then some .core
  else if code = 0x4420 then some .lane
  else none

/-- The key of a counted event's unit in the table of counts. -/
def State.countKey (s : State) (k : CountKind) (e : EvRec) : Nat :=
  match k with
  | .row => s.rowKey e.location * 4
  | .core => e.unit * 4 + 1
  | .lane => e.unit * 4 + 2

/-- The threshold N, the window W in nanoseconds and the enable of a kind (RAS.CFG, R490, R491). -/
def State.countCfg (s : State) : CountKind → Nat × Nat × Bool
  | .row => (s.rd F.rasCfgRowN, s.rd F.rasCfgRowWindowH * 3600000000000, s.flag F.rasCfgRowEn)
  | .core => (s.rd F.rasCfgCoreN, s.rd F.rasCfgCoreWindowMin * 60000000000, s.flag F.rasCfgCoreEn)
  | .lane => (s.rd F.rasCfgLaneN, s.rd F.rasCfgLaneWindowMin * 60000000000, s.flag F.rasCfgLaneEn)

/-- A lane's retirement (R495): its bit in LANES_RETIRED is set, its port goes down and the repair record keeps it; the
0x4620 event is logged by the caller. -/
def State.retireLane (s : State) (lane : Nat) : State :=
  let b := lane / 8
  let n := s.rd F.portStatusLanesRetired b
  let s := s.wr F.portStatusLanesRetired b (n ||| (1 <<< (lane % 8)))
  let split := s.flag F.portStatusSplitInForce b
  let s := if split ∧ 4 ≤ lane % 8 then s.wr F.portStatusUpB b 0 else s.wr F.portStatusUpA b 0
  let fl := s.flash
  let s := { s with flash := { fl with lanes := fl.lanes ||| (1 <<< lane) } }
  s.wr F.rasRepairStatusLanesRetired 0 (((List.range 64).filter (fun i => s.flash.lanes.testBit i)).length)

/-- The action of a threshold (R490): a row is noted for its retirement (R492), a core for its disabling (R494), a lane is
retired (R495). A unit already noted or retired is left as it is. -/
def State.thresholdAction (s : State) (r : Nat) (k : CountKind) (e : EvRec) : State :=
  match k with
  | .row =>
    let ev := s.events.getD r {}
    if ev.rowsDue.any (fun a => decide (s.rowKey a = s.rowKey e.location)) then s
    else { s with events := s.events.set r { ev with rowsDue := ev.rowsDue ++ [e.location] } }
  | .core => if e.unit ∈ s.stopped then s else { s with stopped := s.stopped ++ [e.unit] }
  | .lane => if s.flash.lanes.testBit e.unit then s else s.retireLane e.unit

/-- Window counting (R490): the event with its flags, the state with its count, and whether the threshold's action is due. -/
def State.countEvent (s : State) (r : Nat) (e : EvRec) : State × EvRec × Bool :=
  match CountKind.ofCode e.code with
  | none => (s, e, false)
  | some k =>
    let ev := s.events.getD r {}
    let burst := e.location / 32
    let last := ev.bursts.get? burst
    let rep := decide (k = .row) && (match last with
      | some t => decide (e.time < t + 1000000000)
      | none => false)
    if rep then (s, { e with flags := e.flags ||| 1 }, false)
    else
      let (n, w, en) := s.countCfg k
      let key := s.countKey k e
      let times := ((ev.counts.getD key []).filter (fun t => decide (e.time < t + w ∧ t ≤ e.time))) ++ [e.time]
      let hit := decide (n ≤ times.length)
      let ev := { ev with
        counts := if hit then ev.counts.del key else ev.counts.set key times,
        bursts := if k = .row then ev.bursts.set burst e.time else ev.bursts }
      let s := { s with events := s.events.set r ev }
      (s, if hit then { e with flags := e.flags ||| 2 } else e, hit && en)

/-- The interrupt of a region's event log (R502). -/
def State.evtIrq (s : State) (r : Nat) : State :=
  s.raiseIrq (s.rd F.regEvtCtlVector r) (s.rd F.regEvtCtlTarget r) (s.rd F.regEvtCtlHart r) (s.rd F.regEvtCtlIid r)
    (s.rd F.regEvtCtlEnable r)

/-- The interrupt rule of a record (R488): at once when ACTION is set; otherwise at most once per 1 ms, deferred to its
end. -/
def State.recordIrq (s : State) (r : Nat) (action : Bool) : State :=
  if s.flag F.regEvtCtlEnable r then
    let ev := s.events.getD r {}
    let due := match ev.lastIrq with
      | some t => decide (t + 1000000 ≤ s.now)
      | none => true
    if action || due then
      ({ s with events := s.events.set r { ev with lastIrq := some s.now } }).evtIrq r
    else { s with events := s.events.set r { ev with deferred := true } }
  else s

/-- Has the region a ring in use (R488, R551)? -/
def State.evtRing (s : State) (r : Nat) : Bool := s.flag F.regEvtBaseValid r

/-- The record of number seq written to its slot of the ring. -/
def State.evtSlotWrite (s : State) (r seq : Nat) (e : EvRec) : State :=
  let size := 2 ^ s.rd F.regEvtBaseLog2Records r
  s.writeMem (s.rd F.regEvtBaseBase r * 0x1000 + 32 * (seq % size)) (e.bytes seq)

/-- An event logged in a region's event log (R488): counted, numbered, written to the ring or kept among the last 256 in
the firmware unit, its interrupt raised, its threshold's action taken. -/
def State.logRecord (s : State) (r : Nat) (e0 : EvRec) : State :=
  let (s, e, act) := s.countEvent r e0
  let seq := s.rd F.regEvtWriteWriteCount r
  let s :=
    if s.evtRing r then
      let size := 2 ^ s.rd F.regEvtBaseLog2Records r
      let behind := (seq + 2 ^ 32 - s.rd F.regEvtReadReadCount r) % 2 ^ 32
      let s := if size ≤ behind then s.bumpSat F.regEvtStatusOverwritten r else s
      s.evtSlotWrite r seq e
    else
      let ev := s.events.getD r {}
      let kept := ev.kept ++ [(seq, e)]
      let s := if 256 < kept.length then s.bumpSat F.regEvtStatusOverwritten r else s
      { s with events := s.events.set r { ev with kept := kept.drop (kept.length - 256) } }
  let s := s.bump F.regEvtWriteWriteCount r
  let s := s.recordIrq r (e.flags.testBit 1)
  if act then
    match CountKind.ofCode e.code with
    | some k => s.thresholdAction r k e
    | none => s
  else s

/-- An event that a firmware core logs itself (R466, R488). -/
def State.logDirect (s : State) (r code unit : Nat) (ctx : Nat := 0xFFFF) (loc : Nat := 0) (detail : Nat := 0)
    (flags : Nat := 0) : State :=
  let r' := if 0xC000 ≤ code then s.rootRegion else r
  s.logRecord r'
    { code := code, flags := flags, region := r', unit := unit, ctx := ctx, time := s.now, location := loc,
      detail := detail }

/-- The records of a hardware event queue logged in order (R466). A record logged after its detection carries FROM_QUEUE; a
lane retired by its threshold logs 0x4620. -/
def State.drainEvents (r : Nat) : List EvRec → State → State
  | [], s => s
  | e :: es, s =>
    let late := decide (e.time < s.now)
    let before := s.flash.lanes
    let s := s.logRecord r (if late then { e with flags := e.flags ||| 4 } else e)
    let s :=
      if e.code = 0x4420 ∧ s.flash.lanes ≠ before then s.logDirect r 0x4620 e.unit (flags := 2) else s
    State.drainEvents r es s

/-- EVENT_DRAIN (R466): the region's running security core drains the queue into the event log. -/
def execEventDrain (region : Nat) (s : State) : Host.Outcome State Fault Refusal :=
  if region < 4 ∧ s.rd F.regFwStatusSecState region = 0 then
    let ev := s.events.getD region {}
    let q := ev.queue
    .next (State.drainEvents region q { s with events := s.events.set region { ev with queue := [] } })
  else .next s

/-- EVENT_IRQ_DEFERRED (R488): at the end of the 1 ms, the deferred interrupt is raised once. -/
def execEventIrqDeferred (region : Nat) (s : State) : Host.Outcome State Fault Refusal :=
  let ev := s.events.getD region {}
  match ev.deferred, ev.lastIrq with
  | true, some t =>
    if region < 4 ∧ t + 1000000 ≤ s.now then
      .next (({ s with events := s.events.set region { ev with deferred := false, lastIrq := some s.now } }).evtIrq
        region)
    else .next s
  | _, _ => .next s

end Sys2Proof.Machine
end

