-- ==== Sys2Proof/Machine/Translate.lean ====
section
/-! DEFINITION. Address translation, grants and the translation fault rings (11_address_translation.md, R312 to R338). -/

namespace Sys2Proof.Machine

/-- What an access does, in the bit order of a record's ACCESS: read, write, fetch, atomic (R316, R336). -/
inductive AccKind where
  | read | write | fetch | atomic
deriving DecidableEq, Repr

def AccKind.bit : AccKind → Nat
  | .read => 1
  | .write => 2
  | .fetch => 4
  | .atomic => 8

/-- Who makes a memory request (R321): the platform, or a context. -/
inductive Req where
  | platform
  | ctx (c : Nat)
deriving DecidableEq, Repr

/-- A leaf that a walk reached: its page's size as a power of two, its physical base and its permissions. -/
structure Leaf where
  log2 : Nat
  pbase : Nat
  r : Bool
  w : Bool
  x : Bool
deriving DecidableEq, Repr

/-- Has a leaf the permissions of an access (R316)? -/
def Leaf.allows (l : Leaf) : AccKind → Bool
  | .read => l.r
  | .write => l.w
  | .atomic => l.r && l.w
  | .fetch => l.x

/-- The end of a walk: a leaf with the level and entry it stands in; or a translation fault with its CAUSE, LEVEL and ENTRY
(R331, R336). -/
inductive WalkRes where
  | leaf (l : Leaf) (level : Nat) (entry : Nat)
  | fail (cause level entry : Nat)
deriving DecidableEq, Repr

/-- Does a table of n bytes lie in a partition's near tiers, far tiers and scratch (R315)? -/
def State.tableInside (s : State) (p a : Nat) : Bool :=
  match (s.paKind a).region? with
  | some r => decide (partOfRegion s.mode r = p)
  | none => false

/-- The lowest virtual address bit that a compute-format level indexes (R313). -/
def levelBit : Nat → Nat
  | 0 => 16
  | 1 => 21
  | 2 => 30
  | 3 => 39
  | _ => 48

/-- Is a valid compute-format entry malformed at a level (R315)? -/
def pteMalformed (level e : Nat) : Bool :=
  let leaf := e.testBit 1
  let rsv := decide (natBits e 7 5 ≠ 0) || e.testBit 63
  let badLeaf := (decide (level = 0) && !leaf) || (decide (3 ≤ level) && leaf)
  let misaligned :=
    if leaf then
      decide (natBits e 15 8 ≠ 0) || (decide (1 ≤ level) && decide (natBits e 20 16 ≠ 0))
        || (decide (2 ≤ level) && decide (natBits e 29 16 ≠ 0))
    else decide (level ≠ 1) && decide (natBits e 11 8 ≠ 0)
  let badPerm := leaf && ((e.testBit 3 && !e.testBit 2) || (!e.testBit 2 && !e.testBit 3 && !e.testBit 4))
  rsv || badLeaf || misaligned || badPerm

/-- The compute-format walk from a level's table downwards (R313 to R317). -/
def State.walkCompute (s : State) (p va : Nat) : Nat → Nat → WalkRes
  | level, table =>
    let lo := levelBit level
    let idx := (va >>> lo) % (if level = 0 then 32 else 512)
    let a := table + 8 * idx
    if s.poisoned a 8 then .fail 5 level 0
    else
      let e := leNat (s.readBytes a 8)
      if !e.testBit 0 then .fail 1 level e
      else if pteMalformed level e then .fail 3 level e
      else
        let addr := natBits e 51 8 * 256
        if e.testBit 1 then .leaf ⟨lo, addr, e.testBit 2, e.testBit 3, e.testBit 4⟩ level e
        else if !s.tableInside p addr then .fail 4 level e
        else
          match level with
          | 0 => .fail 3 0 e
          | l + 1 => State.walkCompute s p va l addr

/-- The Sv57 walk of an I/O-format context (R328). -/
def State.walkIo (s : State) (p va : Nat) (write : Bool) : Nat → Nat → WalkRes
  | level, table =>
    let lo := 12 + 9 * level
    let a := table + 8 * ((va >>> lo) % 512)
    if s.poisoned a 8 then .fail 5 level 0
    else
      let e := leNat (s.readBytes a 8)
      let ppn := natBits e 53 10
      if !e.testBit 0 then .fail 1 level e
      else if decide (natBits e 62 54 ≠ 0) || (e.testBit 2 && !e.testBit 1) then .fail 3 level e
      else if e.testBit 1 || e.testBit 3 then
        let napot := e.testBit 63
        if napot && (decide (level ≠ 0) || decide (ppn % 16 ≠ 8)) then .fail 3 level e
        else if decide (ppn % 2 ^ (9 * level) ≠ 0) && !napot then .fail 3 level e
        else if !e.testBit 4 || !e.testBit 6 || (write && !e.testBit 7) then .fail 1 level e
        else
          let base := if napot then (ppn / 16 * 16) * 4096 else ppn * 4096
          .leaf ⟨if napot then 16 else lo, base, e.testBit 1, e.testBit 2, e.testBit 3⟩ level e
      else if e.testBit 63 then .fail 3 level e
      else if !s.tableInside p (ppn * 4096) then .fail 4 level e
      else
        match level with
        | 0 => .fail 3 0 e
        | l + 1 => State.walkIo s p va write l (ppn * 4096)

/-- A context's walk of a virtual address (R312, R313, R315). -/
def State.walk (s : State) (ctx va : Nat) (k : AccKind) : WalkRes :=
  let p := partOfCtx s.mode ctx
  let root := s.rd F.ctxPtRootRoot ctx * 4096
  if !s.tableInside p root then .fail 4 4 0
  else if s.flag F.ctxPtCtlFormat ctx then s.walkIo p va (decide (k = .write ∨ k = .atomic)) 4 root
  else s.walkCompute p va 4 root

/-- Is a 57-bit virtual address properly sign-extended (R130)? -/
def vaCanonical (va : Nat) : Bool := decide (va / 2 ^ 56 = 0) || decide (va / 2 ^ 56 = 255)

/-- The translation caches an access goes through, nearest first (R318), by the key of the table of caches. -/
inductive XUnit where
  | core (c : Nat)
  | engine (region : Nat)
deriving DecidableEq, Repr

def XUnit.caches (io : Bool) : XUnit → List (Nat × Nat)
  | .core c => [(c, 64), (2000 + c / 8, 4096)]
  | .engine r => if io then [(3010 + r, 2048)] else [(3000 + r, 4096)]

/-- Does a cached translation cover an address of a context? -/
def TlbEntry.covers (e : TlbEntry) (ctx va : Nat) : Bool :=
  decide (e.ctx = ctx) && decide (va >>> e.log2 = e.vbase >>> e.log2)

/-- An entry put into a cache of a capacity, replacing those that cover its page; the oldest goes when it is full. -/
def State.tlbFill (s : State) (key cap : Nat) (e : TlbEntry) : State :=
  let l := ((s.tlbs.getD key []).filter (fun x => !x.covers e.ctx e.vbase)) ++ [e]
  { s with tlbs := s.tlbs.set key (l.drop (l.length - cap)) }

/-- A translation's outcome: a physical address; no translation at once (a bad address, PT_ROOT invalid); or a translation
fault (R331). -/
inductive TransRes where
  | ok (pa : Nat)
  | unmapped
  | fault (cause level entry : Nat)
deriving DecidableEq, Repr

/-- The partition that holds a scratch window address, or none elsewhere. -/
def State.scratchPart (s : State) (pa : Nat) : Option Nat :=
  if 0x080000000000 ≤ pa ∧ pa < 0x080400000000 then some (partOfRegion s.mode ((pa - 0x080000000000) / 0x100000000)) else none

/-- The translation of one address (R312 to R319, R331): the caches, then a walk, which fills them; a cached translation
that lacks a permission is walked once more (R316). A firmware context's tables map its partition's tiers and scratch to themselves
(R368). -/
def State.translate (s : State) (u : XUnit) (ctx va : Nat) (k : AccKind) : State × TransRes :=
  if !vaCanonical va then (s, .unmapped)
  else if isFirmwareCtx s.mode ctx then
    (s, if s.tableInside (partOfCtx s.mode ctx) va || decide (s.scratchPart va = some (partOfCtx s.mode ctx)) then .ok va
        else .unmapped)
  else if !s.flag F.ctxPtRootValid ctx then (s, .unmapped)
  else
    let caches := u.caches (s.flag F.ctxPtCtlFormat ctx)
    let hit := caches.findSome? (fun c => (s.tlbs.getD c.1 []).find? (fun e => e.covers ctx va))
    let good := match hit with
      | some e => if (Leaf.mk e.log2 e.pbase e.r e.w e.x).allows k then some e else none
      | none => none
    match good with
    | some e =>
      let s := match u, e.prefetched with
        | .core c, true =>
          let s := s.bumpRun F.xltCountCtlRun F.xltPrefetchUsedCount (c / 8)
          let cl := (s.tlbs.getD (2000 + c / 8) []).map (fun x => if x = e then { x with prefetched := false } else x)
          { s with tlbs := s.tlbs.set (2000 + c / 8) cl }
        | _, _ => s
      let s := caches.foldl (fun t c => if (t.tlbs.getD c.1 []).any (fun x => x.covers ctx va) then t
        else t.tlbFill c.1 c.2 { e with prefetched := false }) s
      (s, .ok (e.pbase + va % 2 ^ e.log2))
    | none =>
      let s := match u with
        | .core c => s.bumpRun F.xltCountCtlRun F.xltDemandWalksCount (c / 8)
        | .engine _ => s
      match s.walk ctx va k with
      | .fail c l e => (s, .fault c l e)
      | .leaf l level e =>
        if l.allows k then
          let t : TlbEntry := { ctx := ctx, vbase := va / 2 ^ l.log2 * 2 ^ l.log2, log2 := l.log2, pbase := l.pbase,
                                r := l.r, w := l.w, x := l.x }
          (caches.foldl (fun st c => st.tlbFill c.1 c.2 t) s, .ok (l.pbase + va % 2 ^ l.log2))
        else (s, .fault 2 level e)

/-- The grant check of R322 for memory of a partition. -/
def State.grantAdmits (s : State) (q : Req) (pa : Nat) (write : Bool) : Bool :=
  match q with
  | .platform => true
  | .ctx c =>
    match (s.paKind pa).granule? with
    | none => true
    | some (fm, fc, n) =>
      let m := s.rd fm n
      let owner := decide (s.rd fc n = c)
      isFirmwareCtx s.mode c || (decide (m = 1 ∨ m = 2) && owner) || (decide (m = 2) && !write) || decide (m = 3)

/-- Why a request to a physical address is refused, or that it goes to memory, to a register or to the host (R34, R261,
R322). -/
inductive PaRes where
  | memory
  | register (off : Nat)
  | host (off : Nat)
  | unmapped
  | partition
  | denied
  | wait
deriving DecidableEq, Repr

/-- Does a request at an address wait through the handshake: at a scratch unit in transition (R273), or at a restricted stack
(R286)? -/
def State.paWaits (s : State) (pa : Nat) : Bool :=
  if 0x080000000000 ≤ pa ∧ pa < 0x080400000000 then
    match (s.srams.getD ((pa - 0x080000000000) / 0x100000000) {}).split with
    | some x =>
      let u := pa % 0x100000000 / 0x4000000
      let f := s.rd F.regSramStatusScratchInForce ((pa - 0x080000000000) / 0x100000000)
      decide (min x.target f ≤ u ∧ u < max x.target f)
    | none => false
  else
    match (s.paKind pa).stack? with
    | some k => decide (s.rd F.stkStatusLevel k = 6)
    | none => false

/-- A request of a partition's requester at a physical address. -/
def State.paCheck (s : State) (p : Nat) (q : Req) (pa : Nat) (write : Bool) : PaRes :=
  if s.scratchPart pa = some p ∧ s.paWaits pa = true then .wait else
  match s.paKind pa with
  | .hole => .unmapped
  | .regs o => .register o
  | .host o => .host o
  | k =>
    match k.region? with
    | none => .unmapped
    | some r =>
      if partOfRegion s.mode r ≠ p then .partition
      else if !s.grantAdmits q pa write then .denied
      else if s.paWaits pa then .wait
      else .memory

/-- The event of a grant refusal (R322, R487): UNIT the region. -/
def State.grantEvent (s : State) (pa ctx : Nat) : State :=
  let r := ((s.paKind pa).region?).getD 0
  s.hwEvent r 0x8003 r ctx pa

/-- How an access ends after translation and the checks: where it goes, or why it fails. -/
inductive AccRes where
  | memory (pa : Nat)
  | register (off : Nat)
  | host (off : Nat)
  | unmapped
  | permission
  | partition
  | denied
  | ring (cause level entry : Nat)
  | wait
deriving DecidableEq, Repr

/-- Translation, then the checks at the physical address, for an access of a context (R316, R322, R331). With RING at 1 a
translation fault is for the ring; with RING at 0 it ends the access (R331). -/
def State.access (s : State) (u : XUnit) (ctx va : Nat) (k : AccKind) : State × AccRes :=
  match s.translate u ctx va k with
  | (s, .unmapped) => (s, .unmapped)
  | (s, .fault c l e) =>
    if s.flag F.ctxPtCtlRing ctx then (s, .ring c l e)
    else (s, if c = 2 then .permission else .unmapped)
  | (s, .ok pa) =>
    match s.paCheck (partOfCtx s.mode ctx) (.ctx ctx) pa (decide (k = .write ∨ k = .atomic)) with
    | .memory => (s, .memory pa)
    | .register o => (s, .register o)
    | .host o => (s, .host o)
    | .unmapped => (s, .unmapped)
    | .partition => (s, .partition)
    | .denied => (s.grantEvent pa ctx, .denied)
    | .wait => (s, .wait)

-- the fault rings (R331 to R337)

/-- An XFR record's 64 bytes (R336). -/
def XfrRec.bytes (r : XfrRec) : List Byte :=
  leBytes 4 r.seq ++ leBytes 2 r.ctx ++ leBytes 1 r.cause ++ leBytes 1 r.access ++ leBytes 8 r.va.toNat
    ++ leBytes 1 r.level ++ leBytes 1 r.format ++ leBytes 2 r.engines ++ leBytes 1 r.kind ++ leBytes 1 0
    ++ leBytes 2 r.core ++ leBytes 8 r.entry.toNat ++ leBytes 8 r.time ++ leBytes 2 r.queue ++ leBytes 2 0
    ++ leBytes 4 r.tag ++ leBytes 16 0

/-- The size of a region's fault ring. -/
def State.xfrSize (s : State) (r : Nat) : Nat := 2 ^ s.rd F.regXfrBaseLog2Records r

/-- Has the ring memory behind it (R551)? -/
def State.xfrBacked (s : State) (r : Nat) : Bool :=
  s.rangeInTiers (partOfRegion s.mode r) (s.rd F.regXfrBaseBase r * 4096) (64 * s.xfrSize r)

/-- REG.XFR_STATUS's two occupancy fields brought up to the ring. -/
def State.xfrStatus (s : State) (r : Nat) : State :=
  let g := s.xfr.getD r {}
  (s.wr F.regXfrStatusOutstanding r g.recs.length).wr F.regXfrStatusBatchOpen r (if g.opened.isSome then 1 else 0)

/-- The open batch closes (R334): its records are written to their slots in order, XFR_WRITE advances, the interrupt is
raised. -/
def State.xfrClose (s : State) (r : Nat) : State :=
  let g := s.xfr.getD r {}
  let batch := g.recs.filter (fun x => x.inOpen)
  let s :=
    if s.xfrBacked r then
      batch.foldl (fun t x =>
        t.writeMem (t.rd F.regXfrBaseBase r * 4096 + 64 * (x.seq % t.xfrSize r)) x.bytes) s
    else s
  let recs := g.recs.map (fun x => if x.inOpen then { x with inOpen := false, published := true } else x)
  let s := { s with xfr := s.xfr.set r { g with recs := recs, opened := none } }
  let s := s.bump F.regXfrWriteWriteCount r batch.length
  (s.xfrStatus r).raiseIrq (s.rd F.regXfrCtlVector r) (s.rd F.regXfrCtlTarget r) (s.rd F.regXfrCtlHart r)
    (s.rd F.regXfrCtlIid r) (s.rd F.regXfrCtlEnable r)

/-- What an engine reports with a translation fault (R333, R336). -/
structure XfrInfo where
  region : Nat
  ctx : Nat
  va : Nat
  kind : AccKind
  engine : Nat
  core : Nat
  queue : Nat
  tag : Nat
deriving DecidableEq, Repr

/-- A translation fault reported to a ring (R333, R334): it joins an outstanding record or creates one; the record's SEQ, or
none where the ring has no free slot. -/
def State.xfrReport (s : State) (i : XfrInfo) (cause level entry : Nat) : State × Option Nat :=
  let g := s.xfr.getD i.region {}
  let joins := fun (x : XfrRec) =>
    decide (x.ctx = i.ctx) && decide (x.va.toNat / 65536 = i.va / 65536)
      && (x.inOpen || decide (x.access &&& i.kind.bit ≠ 0))
  match g.recs.find? joins with
  | some x =>
    let y := if x.inOpen then { x with access := x.access ||| i.kind.bit, engines := x.engines + 1 } else x
    let recs := g.recs.map (fun z => if z.seq = x.seq then y else z)
    ({ s with xfr := s.xfr.set i.region { g with recs := recs } }, some x.seq)
  | none =>
    if s.xfrSize i.region ≤ (g.created + 2 ^ 32 - s.rd F.regXfrReadReadCount i.region) % 2 ^ 32 then
      (s.bumpSat F.regXfrStatusFullStalls i.region, none)
    else
      let seq := g.created % 2 ^ 32
      let x : XfrRec :=
        { seq := seq, ctx := i.ctx, cause := cause, access := i.kind.bit, va := BitVec.ofNat 64 i.va, level := level,
          format := s.rd F.ctxPtCtlFormat i.ctx, engines := 1, kind := i.engine, core := i.core,
          entry := BitVec.ofNat 64 entry, time := s.now, queue := i.queue, tag := i.tag }
      let g := { g with recs := g.recs ++ [x], created := g.created + 1,
                        opened := some (g.opened.getD s.now) }
      let s := ({ s with xfr := s.xfr.set i.region g }).xfrStatus i.region
      if 256 ≤ (g.recs.filter (fun z => z.inOpen)).length then (s.xfrClose i.region, some seq) else (s, some seq)

/-- An engine that waited on an unpublished record is cancelled (R336). -/
def State.xfrCancel (s : State) (region seq : Nat) : State :=
  let g := s.xfr.getD region {}
  { s with xfr := s.xfr.set region { g with recs := g.recs.map (fun x =>
      if x.seq = seq && x.inOpen then { x with engines := x.engines - 1 } else x) } }

/-- FAULT_BATCH_CLOSE (R334): the timebase reaches the batch's opening time plus 50,000 ns. -/
def execFaultBatchClose (region : Nat) (s : State) : Host.Outcome State Fault Refusal :=
  match (s.xfr.getD region {}).opened with
  | some t => if t + 50000 ≤ s.now then .next (s.xfrClose region) else .next s
  | none => .next s

/-- STREAM_PREFETCH (R338): the cluster translation unit walks one page for a mover's descriptor; a failed walk leaves no
trace. -/
def execStreamPrefetch (cluster ctx va : Nat) (s : State) : Host.Outcome State Fault Refusal :=
  if cluster < 144 ∧ ctx < 4096 ∧ vaCanonical va = true ∧ s.flag F.ctxPtRootValid ctx = true then
    if (s.tlbs.getD (2000 + cluster) []).any (fun e => e.covers ctx va) then .next s
    else
      let s := s.bumpRun F.xltCountCtlRun F.xltPrefetchWalksCount cluster
      match s.walk ctx va .read with
      | .leaf l _ _ =>
        .next (s.tlbFill (2000 + cluster) 4096
          { ctx := ctx, vbase := va / 2 ^ l.log2 * 2 ^ l.log2, log2 := l.log2, pbase := l.pbase, r := l.r, w := l.w,
            x := l.x, prefetched := true })
      | .fail _ _ _ => .next s
  else .next s

end Sys2Proof.Machine
end

