-- ==== Sys2Proof/Machine/Access.lean ====
section
/-! DEFINITION. Register accesses: who reaches which register, how a write of either size merges under the access codes, and
invalid accesses (R18, R19, R36, R40, R550). -/

namespace Sys2Proof.Machine

/-- Is the requester the physical function? -/
def Origin.isPf : Origin → Bool
  | .fn v => decide (v = 0)
  | _ => false

/-- The partition a requester belongs to: an assigned virtual function's (R550), an application core's or a compute core's;
none for the physical function, which reaches all, and for an unassigned virtual function. -/
def State.originPart (s : State) : Origin → Option Nat
  | .fn v =>
    if 1 ≤ v ∧ v ≤ 63 ∧ s.flag F.hifVfCfgAssigned (v - 1) = true then some (s.rd F.hifVfCfgPartition (v - 1)) else none
  | .app h _ => if h < 96 then some (partOfRegion s.mode (h / 24)) else none
  | .core c => if c < 1152 then some (partOfRegion s.mode (regionOfCore c)) else none

/-- The partition in whose windows a block's instance lies; none for a device-level block. -/
def State.blockPart (s : State) (b : Block) (i : Nat) : Option Nat :=
  match b with
  | .ctx => some (partOfCtx s.mode i)
  | .qp => some (partOfQueue s.mode i)
  | .reg | .net | .skb => some (partOfRegion s.mode i)
  | .stk => some (partOfRegion s.mode (i / 6))
  | .port => some (partOfRegion s.mode (i / 2))
  | .clu | .xlt => some (partOfRegion s.mode (i / 36))
  | .mxu | .sch | .cnt => some (partOfRegion s.mode (i / 288))
  | .l2 => some (partOfRegion s.mode (i / 3))
  | _ => none

/-- The blocks that only the physical function reaches (R365, R414, R436, R456, R478, R501, R529). -/
def Block.pfBlock : Block → Bool
  | .hif | .hwt | .tb | .pwr | .fw | .ras | .cal | .sec | .mgt | .skb => true
  | _ => false

/-- Does a requester reach a register (R36)? A virtual function reaches its own aperture windows (R365). -/
def State.reaches (s : State) (o : Origin) (r : Reg) (n : Nat) : Bool :=
  if o.isPf then true
  else
    let b := r.place.block
    if b.pfBlock then false
    else if b = .dev then decide (r = .devIdent)
    else if b = .awt then
      match o with
      | .fn v => decide (n / 64 = v - 1) && (s.originPart o).isSome
      | _ => false
    else
      match s.originPart o, s.blockPart b (n / r.place.count) with
      | some p, some p' => decide (p = p')
      | _, _ => false

/-- The registers of the partition windows that only the physical function writes (R259, R269, R274, R288, R311, R323, R337,
R339, R412, R413, R457, R502); REG.APC_CTX_k is also M-mode software's on its core (R330). -/
def Reg.pfOnly : Reg → Bool
  | .regCntOwner | .l2Cfg | .l2CountCtl | .regSramCfg | .stkCountCtl | .regCohCountCtl | .regGrantNear | .regGrantFar
  | .regGrantScratch | .regApcCtx | .regXfrBase | .regXfrRead | .regXfrRespond | .regXfrCtl | .xltCountCtl
  | .regXfrWrite | .regEvtWrite | .netCfg | .regPwrCfg | .regEvtBase | .regEvtRead
  | .regEvtCtl | .regEvtStatus | .regXfrStatus => true
  | r => decide (r.place.block = Block.port)

/-- The context registers that only the physical function and the function that owns the context write (R327, R520). -/
def Reg.ownerOnly : Reg → Bool
  | .ctxPtRoot | .ctxPtCtl | .ctxTlbInv | .ctxMemCrypt => true
  | _ => false

/-- May a requester write a register that it reaches? -/
def State.mayWrite (s : State) (o : Origin) (r : Reg) (n : Nat) : Bool :=
  if o.isPf then !(decide (r.place.block = .ctx) && isFirmwareCtx s.mode n)
  else if r = .regApcCtx then
    match o with
    | .app h m => m && decide (h = n)
    | _ => false
  else if r.pfOnly then false
  else if r.place.block = .ctx then
    let own := match o with
      | .fn v => decide (s.rd F.ctxStateFunction n = v)
      | _ => true
    !isFirmwareCtx s.mode n && (!r.ownerOnly || own)
  else true

/-- A valid register access: aligned, 32 or 64 bits (R18), at a register (R40) that is not in the window of a vacant core;
the register and its flat index. -/
def State.accessTarget (s : State) (a : Access) : Option (Reg × Nat) :=
  if (a.size = 4 ∨ a.size = 8) ∧ a.addr % a.size = 0 then
    match regAt (a.addr / 8 * 8) with
    | some (r, n) =>
      match r.place.block with
      | .mxu | .sch | .cnt => if s.vacant (n / r.place.count) then none else some (r, n)
      | _ => some (r, n)
    | none => none
  else none

/-- Is the register one of a NET or SKB block of a region that is not its partition's lowest (R413, R436)? -/
def State.shadowBlock (s : State) (r : Reg) (n : Nat) : Bool :=
  match r.place.block with
  | .net | .skb => let g := n / r.place.count; decide (lowestRegion s.mode (partOfRegion s.mode g) ≠ g)
  | _ => false

/-- A write after the checks of reach: the register and its index, who writes, the bits written (the other half's zero), the
bits covered, the old word, and the word with its RW bits merged (R18, R19). -/
structure RegWriteReq where
  reg : Reg
  n : Nat
  origin : Origin
  raw : Word
  cover : Word
  old : Word
  merged : Word
deriving DecidableEq, Repr

/-- A field's mask of bits. -/
def Fld.mask (f : Fld) : Word :=
  BitVec.ofNat 64 ((List.range f.count).foldl
    (fun a k => a + (2 ^ (f.hi + 1 - f.lo) - 1) <<< (f.lo + k * f.step)) 0)

/-- The bits of a register under an access code. -/
def Reg.maskOf (r : Reg) (a : RegAccess) : Word :=
  (r.fields.filter (fun f => decide (f.acc = a))).foldl (fun m f => m ||| f.mask) 0

/-- The bits a write covers and the bits it writes (R18). -/
def Access.cover (a : Access) : Word :=
  if a.size = 8 then 0xFFFFFFFFFFFFFFFF else if a.addr % 8 = 0 then 0xFFFFFFFF else 0xFFFFFFFF00000000

def Access.raw (a : Access) : Word :=
  if a.size = 8 then a.value
  else if a.addr % 8 = 0 then a.value &&& 0xFFFFFFFF
  else a.value <<< 32

/-- The merge of a write: RW bits covered take the value written; RWL bits too while the boot lock is not applied; W1C bits
written 1 clear (R18, R19). -/
def State.mergeWrite (s : State) (r : Reg) (n : Nat) (a : Access) : RegWriteReq :=
  let old := s.reg r n
  let rwl := if s.flag F.devBootStatusBootLocked then 0 else r.maskOf .rwl
  let m := (r.maskOf .rw ||| rwl) &&& a.cover
  let clr := r.maskOf .w1c &&& a.raw
  { reg := r, n := n, origin := a.origin, raw := a.raw, cover := a.cover, old := old,
    merged := ((old &&& ~~~m) ||| (a.raw &&& m)) &&& ~~~clr }

/-- A field of the word written, as the device acts on it: a WO field's bits of the half not covered count as 0. -/
def RegWriteReq.wrote (q : RegWriteReq) (f : Fld) (k : Nat := 0) : Nat := q.raw.bits (f.hi + k * f.step) (f.lo + k * f.step)

/-- A field of the merged word. -/
def RegWriteReq.new (q : RegWriteReq) (f : Fld) (k : Nat := 0) : Nat :=
  q.merged.bits (f.hi + k * f.step) (f.lo + k * f.step)

/-- A field of the old word. -/
def RegWriteReq.was (q : RegWriteReq) (f : Fld) (k : Nat := 0) : Nat := q.old.bits (f.hi + k * f.step) (f.lo + k * f.step)

/-- Does the write cover a bit of a field? -/
def RegWriteReq.covers (q : RegWriteReq) (f : Fld) : Bool := decide (q.cover &&& f.mask ≠ 0)

/-- The write with a field put back to its old value, where a check refuses the value. -/
def RegWriteReq.keep (q : RegWriteReq) (f : Fld) : RegWriteReq :=
  { q with merged := (q.merged &&& ~~~f.mask) ||| (q.old &&& f.mask) }

/-- The write's word stored. -/
def State.store (s : State) (q : RegWriteReq) : State := s.setReg q.reg q.n q.merged

/-- What becomes of a write before its register's own rules: no effect and an access-error event (invalid, out of reach, or
not the requester's to write); no effect at all (a block that ignores writes); or a write to be carried out. -/
inductive WriteGate where
  | refuse
  | ignore
  | go (q : RegWriteReq)
deriving DecidableEq, Repr

/-- The gate of a register write (R18, R36, R40). -/
def State.writeGate (s : State) (a : Access) : WriteGate :=
  match s.accessTarget a with
  | none => .refuse
  | some (r, n) =>
    if !s.reaches a.origin r n then .refuse
    else if s.shadowBlock r n then .ignore
    else if !s.mayWrite a.origin r n then .refuse
    else .go (s.mergeWrite r n a)

/-- A command that is a write of one register: the write is carried out by the register's rule; a write that reaches another
register is none of this command's; a refused one is an invalid access. -/
def State.onWrite (s : State) (a : Access) (regs : List Reg) (f : RegWriteReq → State) :
    Host.Outcome State Fault Refusal :=
  match s.writeGate a with
  | .refuse => .next s.accessError
  | .ignore => .next s
  | .go q => .next (if q.reg ∈ regs then f q else s)

/-- INVALID_ACCESS (R18, R36, R40): an access that is unaligned, wrongly sized, at no register, or forbidden to its requester
has no effect but the access-error event. An access that is valid is none of this command's. -/
def execInvalidAccess (a : Access) (write : Bool) (s : State) : Host.Outcome State Fault Refusal :=
  match s.accessTarget a with
  | none => .next s.accessError
  | some (r, n) =>
    if !s.reaches a.origin r n || (write && !s.shadowBlock r n && !s.mayWrite a.origin r n) then .next s.accessError
    else .next s

end Sys2Proof.Machine
end

