-- ==== Sys2Proof/Machine/Stops.lean ====
section
/-! DEFINITION. Stopping regions and partitions (R29, R496), the election of the root security core (R460, R461), and the
level of SIDE_SIG (R527). -/

namespace Sys2Proof.Machine

/-- Is a region's security core healthy (R460): running, and its region not stopped on error, not resetting and not
isolated? -/
def State.secHealthy (s : State) (r : Nat) : Bool :=
  let st := s.partState (partOfRegion s.mode r)
  decide (s.rd F.regFwStatusSecState r = 0) && decide (st ≠ 4) && decide (st ≠ 3)
    && !((s.rd F.rasIsolateInForce).testBit r)

/-- The health mask of FW.ROOT. -/
def State.healthMask (s : State) : Nat :=
  (List.range 4).foldl (fun m r => if s.secHealthy r then m + 2 ^ r else m) 0

/-- A partition that is activating returns to running; in any other state it stays as it is. -/
def State.resumePart (s : State) (p : Nat) : State := if s.partState p = 5 then s.setPartState p 2 else s

/-- When the root ceases to be healthy during an activation that is held or quiescing, the hold restarts with a run of zero,
and a quiescing partition's queues fetch again (R477). -/
def State.holdRestarts (s : State) : State :=
  let st := s.rd F.fwuStatusState
  if st = 3 ∨ st = 4 then
    let p := (s.activation.bind (fun a => a.parts.head?)).getD 0
    let s := if st = 4 then s.resumePart p else s
    (({ s with normalRun := 0 }).wr F.fwuStatusNormalMs 0 0).wr F.fwuStatusState 0 3
  else s

/-- A fresh key for a context, installed in every channel controller of its partition. -/
def State.installKey (s : State) (ctx : Nat) : State :=
  let sec := s.sec
  ({ s with sec := { sec with ctxKeys := sec.ctxKeys.set ctx sec.nextKey, nextKey := sec.nextKey + 1 } }).wr
    F.ctxMemCryptKeyReady ctx 1

/-- The keys that waited for a root are installed once one exists. -/
def State.serveKeys (s : State) : State :=
  if s.flag F.fwRootRootValid then
    let sec := s.sec
    sec.keyWaits.foldl State.installKey { s with sec := { sec with keyWaits := [] } }
  else s

/-- The session becomes attached with a token of the root's issue (R363). -/
def State.issueToken (s : State) : State :=
  let (n, s) := s.draw
  let x : Session := { token := some (Config.sessionToken n).toNat, lastKick := s.now }
  ({ s with session := x }).wr F.hifSessionState 0 1

/-- What waited for a root and needs no more than one is served (R461, R512): context keys, and a session's token. -/
def State.rootServes (s : State) : State :=
  let s := s.serveKeys
  if s.flag F.fwRootRootValid && s.session.attachWaits then s.issueToken else s

/-- FW.ROOT brought up to date (R461): the root stays while it is healthy; otherwise the lowest healthy region's security
core is elected, or there is none. -/
def State.refreshRoot (s : State) : State :=
  let h := s.healthMask
  let s := s.wr F.fwRootHealthy 0 h
  if s.flag F.fwRootRootValid && h.testBit (s.rd F.fwRootRootRegion) then s
  else
    let handover := s.flag F.fwRootRootValid
    let s := if handover then s.holdRestarts else s
    let sec := s.sec
    let s := if handover then { s with sec := { sec with electionEnd := some (s.now + 10000000) } } else s
    match (List.range 4).find? (fun r => h.testBit r) with
    | some r =>
      let s := s.wr F.fwRootRootRegion 0 r
      ((s.wr F.fwRootRootValid 0 1).bumpSat F.fwRootElections 0).rootServes
    | none => s.wr F.fwRootRootValid 0 0

/-- The ports of a block go link-down. -/
def State.portDown (s : State) (b : Nat) : State := (s.wr F.portStatusUpA b 0).wr F.portStatusUpB b 0

/-- The port blocks of a partition. -/
def partBlocks (mode p : Nat) : List Nat := (partRegions mode p).flatMap (fun r => [2 * r, 2 * r + 1])

/-- A partition stops on error (R496): its cells halt, its state becomes 0x4, its ports go link-down, and a root in it ceases
to be healthy. -/
def State.stopPartition (s : State) (p : Nat) : State :=
  if s.partState p = 0 then s
  else ((partBlocks s.mode p).foldl State.portDown (s.setPartState p 4)).refreshRoot

/-- A region-level fault (R29, R496): its event is logged and the partition that holds the region stops. -/
def State.regionFault (s : State) (r code unit : Nat) : State :=
  (s.hwEvent r code unit (flags := 2)).stopPartition (partOfRegion s.mode r)

/-- A device-level fault that reaches every partition (R29). -/
def State.deviceFault (s : State) (code : Nat) : State :=
  (List.range 4).foldl State.stopPartition (s.hwEvent 0 code 0xFFFF (flags := 2))

/-- The level of SIDE_SIG by the function in force (R527); low until PWR_GOOD (R532). -/
def State.sideLevel (s : State) : Nat :=
  if !s.modSt.pwrGood then 0
  else
    match s.rd F.mgtSideCfgFunc with
    | 0 => 0
    | 1 => s.rd F.pwrStatusThermalAlert
    | 2 => if s.mgt.pulseEnd.isSome then 1 else 0
    | _ => s.rd F.mgtSideCfgLevel

/-- MGT.SIDE_STATUS.LEVEL_NOW brought up to the signal. -/
def State.refreshSide (s : State) : State := s.wr F.mgtSideStatusLevelNow 0 s.sideLevel

/-- REGION_STOP (R29, R308): a region-level fault with its event code: L2 tag or coherence logic (0x8305, UNIT the canvas of
the region it names), easel fabric, home agent or SRAM control logic (0x8307), or a bond channel (0x8308). -/
def execRegionStop (region code : Nat) (s : State) : Host.Outcome State Fault Refusal :=
  if region < 4 ∧ (code = 0x8305 ∨ code = 0x8307 ∨ code = 0x8308) then
    .next (s.regionFault region code (if code = 0x8307 then region else region * 3))
  else .next s

/-- HOST_INTERFACE_FAULT (R29): event 0xC303, and every partition stops. -/
def execHostInterfaceFault (s : State) : Host.Outcome State Fault Refusal := .next (s.deviceFault 0xC303)

/-- SEAM_FAIL (R28): the seam is marked failed and logged; the partition that it lies inside stops, and on a boundary both
sides run on. A seam already failed stays as it is. -/
def execSeamFail (seam : Nat) (s : State) : Host.Outcome State Fault Refusal :=
  let f := [F.devSeamStatusSeam0, F.devSeamStatusSeam1, F.devSeamStatusSeam2, F.devSeamStatusSeam3]
  let ends := [(0, 1), (2, 3), (0, 2), (1, 3)]
  match f[seam]?, ends[seam]? with
  | some fld, some (a, b) =>
    if s.rd fld = 2 then .next s
    else
      let s := (s.wr fld 0 2).hwEvent 0 0xC401 seam (flags := 2)
      let p := partOfRegion s.mode a
      .next (if p = partOfRegion s.mode b then s.stopPartition p else s)
  | _, _ => .next s

end Sys2Proof.Machine
end

