-- ==== Sys2Proof/Machine/Power.lean ====
section
/-! DEFINITION. Power capping, haze, thermal control, the fast limit and ageing (15_power_and_thermal.md, R437 to R457).
Powers are held in mW; the register fields give watts, rounded down (assumption 12). -/

namespace Sys2Proof.Machine

def State.pwr (s : State) (r : Nat) : PwrRegion := s.pwrRegions.getD r {}

def State.setPwr (s : State) (r : Nat) (x : PwrRegion) : State := { s with pwrRegions := s.pwrRegions.set r x }

/-- The operating voltage of a region (R439): VSET_MV lowered by the voltage stage and by thermal emergency, not below
620 mV. -/
def State.operatingMv (s : State) (r : Nat) : Nat :=
  let v := s.rd F.regPwrCfgVsetMv r
  max (v - (s.pwr r).lowered) (min v 620)

/-- Does the region's power core run (R452)? -/
def State.pwrCoreUp (s : State) (r : Nat) : Bool := decide (s.rd F.regFwStatusPwrState r = 0)

/-- The haze in force and its source (R447): the largest term, the later of equal ones. -/
def State.hazeInForce (s : State) (r : Nat) : Nat × Nat :=
  let x := s.pwr r
  let base : Nat × Nat := if s.pwrCoreUp r then (x.hctl, 0) else (s.rd F.regPwrCfgStaticHaze r, 2)
  let b := if base.1 ≤ x.thermal then (x.thermal, 1) else base
  let c : Nat × Nat := if s.flag F.pwrStatusFastClamp then (512, 3) else b
  (min c.1 512, c.2)

/-- Is a region in power emergency (R451)? -/
def State.powerEmergency (s : State) (r : Nat) : Bool :=
  let x := s.pwr r
  s.flag F.pwrStatusFastClamp ||
    (decide (x.hctl = 512) && (decide (s.operatingMv r = 620) || !s.flag F.regPwrCfgVoltStage r)
      && decide (100 ≤ x.overBudget))

/-- REG.PWR_STATUS brought up to date. -/
def State.refreshPwr (s : State) (r : Nat) : State :=
  let (h, src) := s.hazeInForce r
  let s := (s.wr F.regPwrStatusHaze r h).wr F.regPwrStatusSource r src
  let s := s.wr F.regPwrStatusVddMv r (s.operatingMv r + s.rd F.regPwrAgeAgeMv r)
  let s := s.wr F.regPwrStatusPowerEmerg r (if s.powerEmergency r then 1 else 0)
  s.wr F.regPwrStatusCoreUp r (if s.pwrCoreUp r then 1 else 0)

/-- The target T of R442 in mW: the cap plus the credit of the window over its length, held between half the cap and
5,700 W. -/
def powerTarget (capMw windowMs : Nat) (window : List Nat) : Nat :=
  let c : Int := window.foldl (fun (a : Int) (p : Nat) => a + ((capMw : Int) - (p : Int))) 0
  let t : Int := (capMw : Int) + c / (windowMs : Int)
  (min (max t ((capMw / 2 : Nat) : Int)) 5700000).toNat

/-- The budgets of one scope (R443): guarantees and demands by region. -/
def allocateScope (rs : List (Nat × Nat × Nat)) : List (Nat × Nat) :=
  let pool : Nat := rs.foldl (fun a x => a + (x.2.1 - x.2.2)) 0
  let need : Nat := rs.foldl (fun a x => a + (x.2.2 - x.2.1)) 0
  rs.map (fun x =>
    let excess := x.2.2 - x.2.1
    let extra := if need = 0 then 0 else pool * excess / need
    (x.1, x.2.1 + min extra excess))

/-- The budgets of the four regions (R443), given A in mW and the demands: (region, guarantee, demand, budget). -/
def State.budgets (s : State) (a : Nat) (demand : Nat → Nat → Nat) : List (Nat × Nat × Nat × Nat) :=
  let m := s.mode
  let total := (List.range (partCount m)).foldl (fun t p => t + s.rd F.pwrShareShare 0 p) 0
  let rows := (List.range 4).map (fun r =>
    let g := a * s.rd F.pwrShareShare 0 (partOfRegion m r) / (regionsPer m * max total 1)
    (r, g, demand r g))
  let scopes := if s.flag F.pwrShareCrossLend then [rows]
    else (List.range (partCount m)).map (fun p => rows.filter (fun x => decide (partOfRegion m x.1 = p)))
  let bs := scopes.flatMap allocateScope
  rows.map (fun x => (x.1, x.2.1, x.2.2, ((bs.find? (fun b => decide (b.1 = x.1))).map (fun b => b.2)).getD x.2.1))

/-- The haze law (R446) in units of 1/1,024, rounded to the nearest. -/
def hazeLaw (h gain power budget : Nat) : Nat :=
  let b : Int := ((max budget 10000 : Nat) : Int)
  let num : Int := (h : Int) * b + 64 * (gain : Int) * ((power : Int) - (max budget 10000 : Nat))
  let q : Int := (2 * num + b) / (2 * b)
  (min (max q 0) 512).toNat

/-- One region at the start of a period (R446, R448, R449): haze law, voltage stage, thermal lowering and the counters of
the status registers. -/
def State.regionPeriod (s : State) (power : Nat) (row : Nat × Nat × Nat × Nat) : State :=
  let (r, g, d, b) := row
  let x := s.pwr r
  let up := s.pwrCoreUp r
  let hctl := if up && !s.flag F.pwrStatusFastClamp then hazeLaw x.hctl (s.rd F.regPwrCfgGain r) power b else x.hctl
  let excess := decide (b < power)
  let c512 := if hctl = 512 ∧ excess = true then x.overAt512 + 1 else 0
  let c256 := if hctl < 256 then x.under256 + 1 else 0
  let stage := s.flag F.regPwrCfgVoltStage r
  let room := s.rd F.regPwrCfgVsetMv r - 620
  let emerg := s.flag F.regPwrStatusThermalEmerg r
  let lowered :=
    if !up then x.lowered
    else if emerg then min (x.lowered + 10) room
    else if stage && decide (10 ≤ c512) then min (x.lowered + 10) room
    else if decide (10 ≤ c256) then x.lowered - 10
    else x.lowered
  let x := { x with
    hctl := hctl, lowered := lowered,
    overAt512 := if 10 ≤ c512 then 0 else c512, under256 := if 10 ≤ c256 then 0 else c256,
    overBudget := if excess then x.overBudget + 1 else 0, fresh := false,
    energyRest := (x.energyRest + power) % 1000 }
  let e := ((s.pwr r).energyRest + power) / 1000
  let s := s.setPwr r x
  let s := (s.wr F.regPwrBudgetBudgetW r (b / 1000)).wr F.regPwrBudgetMeasuredW r (power / 1000)
  let s := (s.wr F.regPwrBudgetDemandW r (d / 1000)).wr F.regPwrBudgetGuaranteeW r (g / 1000)
  let s := (s.bump F.regPwrEnergyMjCount r e).refreshPwr r
  s.bump F.regPwrHazeIntCount r (s.rd F.regPwrStatusHaze r)

/-- Does a region count as normal in a period (R451, R471)? -/
def State.regionNormal (s : State) (r : Nat) : Bool :=
  decide (s.partState (partOfRegion s.mode r) = 4) ||
    (s.pwrCoreUp r && !s.flag F.regPwrStatusPowerEmerg r && !s.flag F.regPwrStatusThermalEmerg r)

/-- The run of normal periods brought forward by one (R471, R477); a quiescing activation goes back to held when an emergency
falls into it. -/
def State.normalPeriod (s : State) : State :=
  let ok : Bool := (List.range 4).all s.regionNormal
  let n := if ok then s.normalRun + 1 else 0
  let s := ({ s with normalRun := n }).wr F.fwuStatusNormalMs 0 (min n 0xFFFF)
  let emerg : Bool :=
    (List.range 4).any (fun r => s.flag F.regPwrStatusPowerEmerg r || s.flag F.regPwrStatusThermalEmerg r)
  if emerg && decide (s.rd F.fwuStatusState = 4) then
    ((s.activation.bind (fun a => a.parts.head?)).elim s (fun p => s.resumePart p)).wr F.fwuStatusState 0 3
  else s

/-- POWER_PERIOD (R442 to R448): the start of a period with the measurements of the one before. -/
def execPowerPeriod (p : PowerSample) (s : State) : Host.Outcome State Fault Refusal :=
  let w := s.rd F.pwrCapWindowMs
  let cap := s.rd F.pwrCapCapW * 1000
  let old := if s.power.windowMs = w then s.power.window else []
  let window := (p.input :: old).take w
  let target := powerTarget cap w window
  let dev := p.input - p.regions.foldl (· + ·) 0
  let a := max (target - dev) 200000
  let pw := s.power
  let s := { s with power := { pw with
    window := window, windowMs := w, period := pw.period + 1, energyRest := (pw.energyRest + p.input) % 1000,
    volts := p.volts, amps := p.amps, inlet := p.inlet, outlet := p.outlet } }
  let s := s.bump F.pwrEnergyMjCount 0 ((pw.energyRest + p.input) / 1000)
  let s := (s.wr F.pwrStatusInputW 0 (p.input / 1000)).wr F.pwrDevWDevW 0 (dev / 1000)
  let s := (s.wr F.pwrStatusWindowW 0 (window.foldl (· + ·) 0 / window.length / 1000)).wr F.pwrStatusTargetW 0
    (target / 1000)
  let rows := s.budgets a (fun r g => if 3 ≤ (s.pwr r).missing then g else (s.pwr r).report.demand)
  .next ((rows.foldl (fun t row => t.regionPeriod (p.regions.getD row.1 0) row) s).normalPeriod)

/-- POWER_REPORT (R443, R444): a region's report arrives: its power, its haze in force, its demand and its emergency state. A
region whose power core does not run sends none (R452). -/
def execPowerReport (region power : Nat) (s : State) : Host.Outcome State Fault Refusal :=
  if region < 4 ∧ s.pwrCoreUp region = true then
    let h := s.rd F.regPwrStatusHaze region
    let x := s.pwr region
    .next (s.setPwr region { x with
      report := { power := power, haze := h, demand := power * 1024 / (1024 - h),
                  emergency := s.flag F.regPwrStatusPowerEmerg region || s.flag F.regPwrStatusThermalEmerg region },
      fresh := true, missing := 0 })
  else .next s

/-- POWER_REPORT_TIMEOUT (R444): a report missing 100 µs after the period's start; the previous one stays in use, and the
third in a row takes the region out of lending. -/
def execPowerReportTimeout (region : Nat) (s : State) : Host.Outcome State Fault Refusal :=
  let x := s.pwr region
  if region < 4 ∧ x.fresh = false then .next (s.setPwr region { x with missing := x.missing + 1 }) else .next s

/-- An 8-bit two's-complement field of a temperature. -/
def tempField (t : Int) : Nat := toUnsigned 8 (max (min t 127) (-128))

/-- Is any stack of a region restricted (R285)? -/
def State.stackRestricted (s : State) (r : Nat) : Bool :=
  (List.range 6).any (fun i => decide (s.rd F.stkStatusLevel (r * 6 + i) = 6))

/-- THERMAL_ALERT and the sensors that follow it (R449, R525, R527). -/
def State.refreshAlert (s : State) : State :=
  let before := s.rd F.pwrStatusThermalAlert
  let a := if (List.range 4).any (fun r => s.flag F.regPwrStatusThermalEmerg r) then 1 else 0
  ((s.wr F.pwrStatusThermalAlert 0 a).refreshSide).sensorEvent 0x80 before a

/-- THERMAL_SAMPLE (R449): a region's sensors are read; thermal haze, thermal emergency and the trip follow. -/
def execThermalSample (region : Nat) (clusters : List Int) (easel : List Int) (s : State) :
    Host.Outcome State Fault Refusal :=
  if region < 4 then
    let s := (List.range (min clusters.length 36)).foldl
      (fun t i => t.wr F.cluTempTj (region * 36 + i) (tempField (clusters.getD i 0))) s
    let tj : Int := (clusters ++ easel).foldl max (-128)
    let h : Nat := if tj < 95 then 0 else if 105 ≤ tj then 512 else (512 * (tj - 95) / 10).toNat
    let s := s.setPwr region { s.pwr region with thermal := h }
    let s := s.wr F.regPwrStatusTjMax region (tempField tj)
    let em := decide (105 ≤ tj) || s.stackRestricted region
    let s := (s.wr F.regPwrStatusThermalEmerg region (if em then 1 else 0)).refreshPwr region
    let s := s.refreshAlert
    if 115 ≤ tj ∧ (s.pwr region).railOn = true then
      .next ((s.setPwr region { s.pwr region with railOn := false }).regionFault region 0x8503 region)
    else .next s
  else .next s

/-- FAST_LIMIT_SAMPLE (R450): the mean input power of the last 10 ms, in mW, engages or releases the fast clamp. -/
def execFastLimitSample (mean : Nat) (s : State) : Host.Outcome State Fault Refusal :=
  let pw := s.power
  let excess := if 5800000 < mean then some (pw.overSince.getD s.now) else none
  let under := if mean < 5400000 then some (pw.underSince.getD s.now) else none
  let s := { s with power := { pw with overSince := excess, underSince := under } }
  if s.flag F.pwrStatusFastClamp then
    match under with
    | some t =>
      if t + 10000000 ≤ s.now then
        let s := (s.wr F.pwrStatusFastClamp 0 0).sensorEvent 0x81 1 0
        .next ((List.range 4).foldl State.refreshPwr s)
      else .next s
    | none => .next s
  else if 5800000 < mean then
    let pw := s.power
    let s := { s with power := { pw with overSince := some s.now } }
    let s := ((s.wr F.pwrStatusFastClamp 0 1).bump F.pwrFastEventsCount 0).hwEvent 0 0xC501 0xFFFF
    .next ((List.range 4).foldl State.refreshPwr (s.sensorEvent 0x81 0 1))
  else .next s

/-- SUPPLY_FAULT (R450): the mean has stayed above 5,800 W for 100 ms with the clamp engaged; every partition stops. -/
def execSupplyFault (s : State) : Host.Outcome State Fault Refusal :=
  match s.flag F.pwrStatusFastClamp, s.power.overSince with
  | true, some t => if t + 100000000 ≤ s.now then .next (s.deviceFault 0xC502) else .next s
  | _, _ => .next s

/-- DROOP (R440): a fall of more than 50 mV below the delivered setting for at least 100 ns is counted. -/
def execDroop (region depth ns : Nat) (s : State) : Host.Outcome State Fault Refusal :=
  if region < 4 ∧ 50 < depth ∧ 100 ≤ ns then .next (s.bump F.regPwrDroopsCount region) else .next s

/-- VDD_UNDERVOLTAGE (R440): the region stops with 0x8501. -/
def execVddUndervoltage (region : Nat) (s : State) : Host.Outcome State Fault Refusal :=
  if region < 4 then .next (s.regionFault region 0x8501 region) else .next s

/-- VDD_OVERVOLTAGE (R440): the region stops with 0x8502. -/
def execVddOvervoltage (region : Nat) (s : State) : Host.Outcome State Fault Refusal :=
  if region < 4 then .next (s.regionFault region 0x8502 region) else .next s

/-- AGEING_UPDATE (R454): the power core writes each cluster's path monitor and sets the region's offset: up to the largest
requirement rounded up to 5 mV, by at most 5 mV an update, never above 40 mV, never down, and not in an emergency. -/
def execAgeingUpdate (region : Nat) (growth required : List Nat) (s : State) : Host.Outcome State Fault Refusal :=
  if region < 4 ∧ s.pwrCoreUp region = true then
    let s := (List.range (min (min growth.length required.length) 36)).foldl
      (fun t i => (t.wr F.cluPathMonGrowth (region * 36 + i) (growth.getD i 0)).wr F.cluPathMonReqMv (region * 36 + i)
        (required.getD i 0)) s
    let need := ceilDiv (required.foldl max 0) 5 * 5
    let cur := s.rd F.regPwrAgeAgeMv region
    let emerg := s.flag F.regPwrStatusPowerEmerg region || s.flag F.regPwrStatusThermalEmerg region
    let next := if emerg then cur else max cur (min (min need (cur + 5)) 40)
    let s := s.wr F.regPwrAgeAgeMv region next
    let fl := s.flash
    let limit := decide (40 < need)
    let s := if limit && !s.flag F.regPwrAgeAtLimit region then
        (s.wr F.regPwrAgeAtLimit region 1).logDirect region 0x8506 region else s
    let s := { s with flash := { fl with age := fl.age.set region (s.reg .regPwrAge region).toNat } }
    .next (s.refreshPwr region)
  else .next s

/-- A write of PWR.CAP (R442, R456): a value out of range is ignored and logged. -/
def State.writePwrCap (s : State) (q : RegWriteReq) : State :=
  let c := q.new F.pwrCapCapW
  let w := q.new F.pwrCapWindowMs
  let badC := decide (c < 1800) || decide (5400 < c)
  let badW := decide (w < 1000) || decide (10000 < w)
  let q := if badC then q.keep F.pwrCapCapW else q
  let q := if badW then q.keep F.pwrCapWindowMs else q
  let s := s.store q
  if badC || badW then s.accessError else s

/-- A write of PWR.SHARE (R443, R456): a zero weight is ignored and logged. -/
def State.writePwrShare (s : State) (q : RegWriteReq) : State :=
  let word := (List.range 4).foldl (fun (w : Word) p =>
    if q.new F.pwrShareShare p = 0 then w.setBits (8 * p + 7) (8 * p) (q.was F.pwrShareShare p) else w) q.merged
  let s' := s.store { q with merged := word }
  if word = q.merged then s' else s'.accessError

/-- A write of REG.PWR_CFG (R457). -/
def State.writePwrCfg (s : State) (q : RegWriteReq) : State :=
  let v := q.new F.regPwrCfgVsetMv
  let badV := decide (v < 620) || decide (880 < v) || decide (v % 5 ≠ 0)
  let badS := decide (512 < q.new F.regPwrCfgStaticHaze)
  let badG := decide (q.new F.regPwrCfgGain = 0)
  let q := if badV then q.keep F.regPwrCfgVsetMv else q
  let q := if badS then q.keep F.regPwrCfgStaticHaze else q
  let q := if badG then q.keep F.regPwrCfgGain else q
  let s := (s.store q).refreshPwr q.n
  if badV || badS || badG then s.accessError else s

end Sys2Proof.Machine
end

