-- ==== Sys2Proof/Machine/Firmware.lean ====
section
/-! DEFINITION. Firmware cores, watchdogs, staging and activation of images (16_firmware_cores.md, R458 to R480; R504,
R505). Firmware cores are numbered 3 × region + type for the security, power and scheduler core, and 16 + global cluster for
a cluster control core. -/

namespace Sys2Proof.Machine

/-- The type of a firmware core (R467). -/
def fwType (fw : Nat) : Nat := if fw < 12 then fw % 3 else 3

/-- The region of a firmware core. -/
def fwRegion (fw : Nat) : Nat := if fw < 12 then fw / 3 else (fw - 16) / 36

/-- Does the number name a firmware core? -/
def fwExists (fw : Nat) : Bool := decide (fw < 12) || (decide (16 ≤ fw) && decide (fw < 160))

/-- The state and expiry fields of a firmware core, and the index of their register. -/
def fwFields (fw : Nat) : Fld × Fld × Nat :=
  if fw < 12 then
    match fw % 3 with
    | 0 => (F.regFwStatusSecState, F.regFwStatusSecExpiries, fw / 3)
    | 1 => (F.regFwStatusPwrState, F.regFwStatusPwrExpiries, fw / 3)
    | _ => (F.regFwStatusSchState, F.regFwStatusSchExpiries, fw / 3)
  else (F.cluCccStatusState, F.cluCccStatusExpiries, fw - 16)

/-- A firmware core's state: 0 running, 1 restarting, 2 failed, 3 activating (R479). -/
def State.fwState (s : State) (fw : Nat) : Nat := let (f, _, n) := fwFields fw; s.rd f n

/-- The effects of a core's change of state on what follows it: dispatch to its cluster, the region's haze, the root
(R464). -/
def State.fwFollow (s : State) (fw : Nat) : State :=
  match fwType fw with
  | 0 => s.refreshRoot
  | 1 => s.refreshPwr (fwRegion fw)
  | 2 => s
  | _ => s.wr F.cluCccStatusDispatchPaused (fw - 16) (if s.fwState fw = 0 then 0 else 1)

def State.setFwState (s : State) (fw v : Nat) : State :=
  let (f, _, n) := fwFields fw
  (s.wr f n v).fwFollow fw

/-- Restart times (R462). -/
def fwRestartNs (fw : Nat) : Nat :=
  match fwType fw with
  | 0 => 150000000
  | 1 => 10000000
  | 2 => 50000000
  | _ => 5000000

/-- A firmware core starts running; a power core resumes with h_ctl equal to STATIC_HAZE (R452). -/
def State.fwRun (s : State) (fw : Nat) : State :=
  let c := s.fwCores.getD fw {}
  let s := { s with fwCores := s.fwCores.set fw { c with restartAt := none } }
  let s := if fwType fw = 1 then
      let r := fwRegion fw
      s.setPwr r { s.pwr r with hctl := s.rd F.regPwrCfgStaticHaze r }
    else s
  s.setFwState fw 0

/-- A firmware core begins a restart. -/
def State.fwRestart (s : State) (fw : Nat) : State :=
  let c := s.fwCores.getD fw {}
  ({ s with fwCores := s.fwCores.set fw { c with restartAt := some (s.now + fwRestartNs fw) } }).setFwState fw 1

/-- The firmware cores of a type in a partition. -/
def fwOfType (mode p t : Nat) : List Nat :=
  (partRegions mode p).flatMap (fun r =>
    if t < 3 then [3 * r + t]
    else if t = 3 then (List.range 36).map (fun i => 16 + 36 * r + i)
    else [])

/-- WATCHDOG_EXPIRY (R462, R463): a running core restarts, with event 0x8701 or 0x4701; the fourth expiry within one hour
makes it failed, with 0x8702 or 0x4702. -/
def execWatchdogExpiry (fw : Nat) (s : State) : Host.Outcome State Fault Refusal :=
  if fwExists fw = true ∧ s.fwState fw = 0 then
    let (_, e, n) := fwFields fw
    let s := s.bumpSat e n
    let c := s.fwCores.getD fw {}
    let times := (c.expiries.filter (fun t => decide (s.now < t + 3600000000000))) ++ [s.now]
    let s := { s with fwCores := s.fwCores.set fw { c with expiries := times } }
    let log := fun (t : State) (a b : Nat) =>
      if fw < 12 then t.hwEvent (fwRegion fw) a (fwRegion fw) (detail := fwType fw)
      else t.hwEvent (fwRegion fw) b (fw - 16)
    if 4 ≤ times.length then .next ((log s 0x8702 0x4702).setFwState fw 2)
    else .next ((log s 0x8701 0x4701).fwRestart fw)
  else .next s

-- images

/-- What the header and the signature block of an image say, read through a function of offset and length (R468, R504); none
where the header is not well formed. -/
def parseImage (rd : Nat → Nat → Nat) (ty limit : Nat) : Option ImageInfo :=
  let body := rd 0x10 8
  if rd 0 4 = 0x57464954 ∧ rd 4 1 = 1 ∧ rd 5 1 = ty ∧ ty ≤ 5 ∧ rd 6 2 = 0 ∧ rd 0x18 4 = 7424 ∧ rd 0x1C 36 = 0
      ∧ rd 0x70 16 = 0 ∧ 128 + body + 7424 ≤ limit then
    some { ty := ty, version := rd 8 4, svn := rd 0xC 4, header := rd 0 128, revoke := if ty = 0 then rd 128 1 else 0,
           slots := rd (128 + body + 4) 1 + 16 * rd (128 + body + 5) 1 }
  else none

/-- Are the signing slots of an image fused and not revoked (R504 steps 2 and 4)? -/
def State.slotsGood (s : State) (i : ImageInfo) : Bool :=
  let e := i.slots % 16
  let m := i.slots / 16
  decide (e < 4) && decide (m < 4) && (s.rd F.secKeyFusesEcdsaProvisioned).testBit e
    && (s.rd F.secKeyFusesMldsaProvisioned).testBit m && !(s.rd F.secKeyFusesEcdsaRevoked).testBit e
    && !(s.rd F.secKeyFusesMldsaRevoked).testBit m

/-- The bank a region runs of a type. -/
def State.bankOf (s : State) (r t : Nat) : Nat := if (s.rd F.regFwStatusBanks r).testBit t then 1 else 0

/-- The four checks of staging, in order (R470): the image to stage, or the RESULT. -/
def State.stageCheck (s : State) (img : Option ImageInfo) (digestOk signaturesOk : Bool) : Except Nat ImageInfo :=
  match img with
  | none => .error 9
  | some i =>
    if !(digestOk && signaturesOk && s.slotsGood i) then .error 1
    else if i.svn < s.flash.minSvn.getD i.ty 0 then .error 2
    else if (List.range 4).any (fun r => decide (s.bankOf r i.ty ≠ s.bankOf 0 i.ty)) then .error 3
    else .ok i

/-- Staging begins (R470): the bank no region runs, written at 40 MB/s. -/
def State.beginStaging (s : State) (i : ImageInfo) (bytes : Nat) (pldm : Bool) : State :=
  let g : Staging := { image := i, bank := 1 - s.bankOf 0 i.ty, doneAt := s.now + 25 * bytes, pldm := pldm }
  ({ s with staging := some g }).wr F.fwuStatusState 0 1

/-- May a request be taken now (R478): idle, staged or armed for reset? -/
def State.fwuFree (s : State) : Bool :=
  let st := s.rd F.fwuStatusState
  decide (st = 0) || decide (st = 2) || decide (st = 6)

/-- A staging request as the root handles it (R470). -/
def State.stageRequest (s : State) (word : Word) (digestOk signaturesOk : Bool) : State :=
  let base := s.rd F.fwuStageAddrAddr * 4096
  let limit := word.bits 31 8 * 1024
  let img := parseImage (fun o n => leNat (s.readBytes (base + o) n)) (word.bits 3 0) limit
  match s.stageCheck img digestOk signaturesOk with
  | .error e => s.wr F.fwuStatusResult 0 e
  | .ok i => s.beginStaging i limit false

/-- The RESULT that refuses an activation request (R471), or none. -/
def State.activateRefusal (s : State) (parts types ms : Nat) (onReset : Bool) : Option Nat :=
  let absent := (List.range 4).any (fun p => parts.testBit p && decide (partCount s.mode ≤ p))
  if absent || (types.testBit 5 && !onReset) || (decide (ms ≠ 0) && (decide (ms < 1000) || decide (60000 < ms))) then some 9
  else if (List.range 6).any (fun t => types.testBit t && !s.flash.staged.has t) then some 4
  else none

def bitList (n m : Nat) : List Nat := (List.range n).filter (fun i => m.testBit i)

/-- The state of FWU.STATUS between requests: staged while a staged image waits, idle otherwise. -/
def State.fwuRest (s : State) : Nat := if s.flash.staged = [] then 0 else 2

/-- An activation request ends with a RESULT. -/
def State.endActivation (s : State) (state result : Nat) : State :=
  let s := { s with activation := none }
  let s := (s.wr F.fwuStatusState 0 state).wr F.fwuStatusResult 0 result
  (s.wr F.fwuStatusPartNow 0 0).wr F.fwuStatusTypes 0 0

/-- An activation request as the root handles it (R471, R476). -/
def State.activateRequest (s : State) (word : Word) (pldm : Bool := false) : State :=
  let parts := word.bits 3 0
  let types := word.bits 9 4
  let onReset := word.bits 10 10 = 1
  let ms := word.bits 27 12
  match s.activateRefusal parts types ms onReset with
  | some e => s.wr F.fwuStatusResult 0 e
  | none =>
    if onReset then
      let fl := s.flash
      let armed := (bitList 4 parts).flatMap (fun p => (bitList 6 types).map (fun t => (p, t)))
      ({ s with flash := { fl with armed := armed } }).wr F.fwuStatusState 0 6
    else
      let ps := bitList 4 parts
      match ps with
      | [] => s.endActivation s.fwuRest 0
      | p :: _ =>
        let a : Activation := { parts := ps, types := types, quiesceMs := if ms = 0 then 10000 else ms, pldm := pldm }
        let s := { s with activation := some a }
        let s := (s.wr F.fwuStatusState 0 3).wr F.fwuStatusPartNow 0 (2 ^ p)
        s.wr F.fwuStatusTypes 0 types

/-- A request to the root: refused with RESULT 0x08 while another is in progress (R470, R478), waiting while there is no root
(R461), otherwise handled. -/
def State.fwuRequest (s : State) (stage : Bool) (word : Word) (digestOk signaturesOk : Bool) : State :=
  if !s.fwuFree then (s.wr F.fwuStatusResult 0 8).accessError
  else if !s.flag F.fwRootRootValid then
    let w : FwWait :=
      { since := s.now, stage := stage, word := word, digestOk := digestOk, signaturesOk := signaturesOk }
    { s with fwWaits := s.fwWaits ++ [w] }
  else if stage then s.stageRequest word digestOk signaturesOk
  else s.activateRequest word

/-- The requests that waited for a root are handled in order once one exists. -/
def State.serveWaits (s : State) : State :=
  if s.flag F.fwRootRootValid then
    s.fwWaits.foldl (fun t w => t.fwuRequest w.stage w.word w.digestOk w.signaturesOk) { s with fwWaits := [] }
  else s

/-- FIRMWARE_RESTART_DONE (R462): a restarting core runs again. -/
def execFirmwareRestartDone (fw : Nat) (s : State) : Host.Outcome State Fault Refusal :=
  if fwExists fw = true ∧ s.fwState fw = 1 then .next ((s.fwRun fw).serveWaits) else .next s

/-- STAGE_IMAGE (R470): a write of FWU.STAGE_CTL with GO. -/
def execStageImage (a : Access) (digestOk signaturesOk : Bool) (s : State) : Host.Outcome State Fault Refusal :=
  s.onWrite a [.fwuStageCtl] (fun q =>
    if q.wrote F.fwuStageCtlGo = 1 then s.fwuRequest true q.raw digestOk signaturesOk else s)

/-- STAGING_DONE (R470): the flash write has ended and the image is staged. -/
def execStagingDone (s : State) : Host.Outcome State Fault Refusal :=
  match s.staging with
  | some g =>
    if g.doneAt ≤ s.now then
      let fl := s.flash
      let t := g.image.ty
      let s := { s with
        staging := none,
        flash := { fl with staged := fl.staged.set t g.bank, images := fl.images.set (2 * t + g.bank) g.image } }
      let s := s.wr F.fwuStatusResult 0 0
      if g.pldm then
        match s.mgt.update with
        | some u =>
          let m := s.mgt
          let u := { u with done := u.done ++ [t], current := none }
          .next (({ s with mgt := { m with update := some u } }).send (.message u.medium 1 0x18 [0]))
        | none => .next (s.wr F.fwuStatusState 0 2)
      else .next (s.wr F.fwuStatusState 0 2)
    else .next s
  | none => .next s

/-- ACTIVATE (R471): a write of FWU.ACTIVATE with GO and neither ON_RESET nor CANCEL. -/
def execActivate (a : Access) (s : State) : Host.Outcome State Fault Refusal :=
  s.onWrite a [.fwuActivate] (fun q =>
    if q.wrote F.fwuActivateGo = 1 ∧ q.wrote F.fwuActivateOnReset = 0 ∧ q.wrote F.fwuActivateCancel = 0 then
      s.fwuRequest false q.raw false false
    else s)

/-- ACTIVATE_ON_RESET (R476): a write of FWU.ACTIVATE with GO and ON_RESET. -/
def execActivateOnReset (a : Access) (s : State) : Host.Outcome State Fault Refusal :=
  s.onWrite a [.fwuActivate] (fun q =>
    if q.wrote F.fwuActivateGo = 1 ∧ q.wrote F.fwuActivateOnReset = 1 ∧ q.wrote F.fwuActivateCancel = 0 then
      s.fwuRequest false q.raw false false
    else s)

/-- A held or quiescing request is cancelled (R477): RESULT 0x07, the queues fetch again. -/
def State.cancelActivation (s : State) : State :=
  let st := s.rd F.fwuStatusState
  if st = 3 ∨ st = 4 then
    let p := (s.activation.bind (fun a => a.parts.head?)).getD 0
    (if st = 4 then s.resumePart p else s).endActivation s.fwuRest 7
  else s

/-- ACTIVATE_CANCEL (R477): a write of FWU.ACTIVATE with CANCEL. -/
def execActivateCancel (a : Access) (s : State) : Host.Outcome State Fault Refusal :=
  s.onWrite a [.fwuActivate] (fun q => if q.wrote F.fwuActivateCancel = 1 then s.cancelActivation else s)

/-- Every write of FWU.ACTIVATE by its bits (R471, R476, R477). -/
def State.writeActivate (s : State) (q : RegWriteReq) : State :=
  if q.wrote F.fwuActivateCancel = 1 then s.cancelActivation
  else if q.wrote F.fwuActivateGo = 1 then s.fwuRequest false q.raw false false
  else s

/-- Has a partition no accepted command without its record (R471 step 2)? -/
def State.quiet (s : State) (p : Nat) : Bool :=
  s.queues.all (fun e => decide (partOfQueue s.mode e.1 ≠ p) || e.2.cmds.isEmpty)

/-- Step 3 of an activation (R471, R473): the cores of the named types restart on the staged bank. In whole mode the root's
own security core restarts last; elsewhere the root role passes on before its core restarts. -/
def State.activationRestart (s : State) (a : Activation) (p : Nat) : State :=
  let root := 3 * s.rd F.fwRootRootRegion
  let all := (bitList 4 a.types).flatMap (fun t => fwOfType s.mode p t)
  let last := decide (s.mode = 0) && decide (root ∈ all)
  let now := if last then all.filter (fun f => decide (f ≠ root)) else all
  let s := now.foldl (fun t f => t.setFwState f 3) s
  let b := { a with unkicked := now, rootLast := last, confirmEnd := s.now + 2000000000 }
  let s := { s with activation := some b }
  s.wr F.fwuStatusState 0 5

/-- The new bank of a type recorded by the regions of a partition, and MIN_SVN raised (R471 step 4); once every region that is
present and not isolated runs a confirmed type 0 image, the fuses its revocation word names are blown, but those of the
slots that signed it (R505). -/
def State.recordBank (s : State) (p t : Nat) : State :=
  match s.flash.staged.get? t with
  | none => s
  | some bank =>
    let s := (partRegions s.mode p).foldl (fun u r =>
      let b := u.rd F.regFwStatusBanks r
      let b' := if bank = 1 then b ||| 2 ^ t else b &&& (2 ^ 6 - 1 - 2 ^ t)
      let fl := u.flash
      ({ u with flash := { fl with banks := fl.banks.set r b' } }).wr F.regFwStatusBanks r b') s
    let fl := s.flash
    let img := fl.images.getD (2 * t + bank) { ty := t }
    let allRun := (List.range 4).all (fun r =>
      decide (s.bankOf r t = bank) || (s.rd F.rasIsolateInForce).testBit r)
    let s := { s with flash := { fl with
      minSvn := fl.minSvn.set t img.svn,
      staged := if allRun then fl.staged.del t else fl.staged } }
    if t = 0 ∧ allRun = true then
      let e := img.revoke % 16 &&& (15 - 2 ^ (img.slots % 16) % 16)
      let m := img.revoke / 16 % 16 &&& (15 - 2 ^ (img.slots / 16) % 16)
      let s := s.wr F.secKeyFusesEcdsaRevoked 0 (s.rd F.secKeyFusesEcdsaRevoked ||| e)
      s.wr F.secKeyFusesMldsaRevoked 0 (s.rd F.secKeyFusesMldsaRevoked ||| m)
    else s

/-- A partition has been confirmed (R471): its banks are recorded, it returns to running, and the next named partition is
held, or the request ends with RESULT 0x00. -/
def State.activationNext (s : State) (a : Activation) (p : Nat) : State :=
  let s := (bitList 6 a.types).foldl (fun u t => u.recordBank p t) s
  let s := s.resumePart p
  match a.parts.drop 1 with
  | [] => s.endActivation 0 0
  | p' :: ps =>
    let s := { s with activation := some { a with parts := p' :: ps, unkicked := [], rootLast := false } }
    (s.wr F.fwuStatusState 0 3).wr F.fwuStatusPartNow 0 (2 ^ p')

/-- ACTIVATION_QUIESCE (R471): a held request whose run of normal periods has reached 500 quiesces its partition; a quiesced
partition's cores restart. With no core to restart (type 4 alone) the partition is confirmed at once. -/
def execActivationQuiesce (s : State) : Host.Outcome State Fault Refusal :=
  match s.activation with
  | none => .next s
  | some a =>
    match a.parts with
    | [] => .next s
    | p :: _ =>
      let held := decide (s.rd F.fwuStatusState = 3) && decide (500 ≤ s.normalRun)
      let a := if held then { a with quiesceEnd := s.now + a.quiesceMs * 1000000 } else a
      let s := if held then
          ({ s with activation := some a }).setPartState p 5 |>.wr F.fwuStatusState 0 4
        else s
      if s.rd F.fwuStatusState = 4 ∧ s.quiet p = true then
        let s := s.activationRestart a p
        match s.activation with
        | some b => if b.unkicked = [] ∧ b.rootLast = false then .next (s.activationNext b p) else .next s
        | none => .next s
      else .next s

/-- QUIESCE_TIMEOUT (R475): quiesce has passed QUIESCE_MS; the partition runs on and the request ends with 0x05. -/
def execQuiesceTimeout (s : State) : Host.Outcome State Fault Refusal :=
  match s.activation with
  | some a =>
    if s.rd F.fwuStatusState = 4 ∧ a.quiesceEnd ≤ s.now then
      .next ((s.resumePart ((a.parts.head?).getD 0)).endActivation s.fwuRest 5)
    else .next s
  | none => .next s

/-- CONFIRM_TIMEOUT (R474): the types with a core that has not kicked roll back: their cores restart on the previous bank,
MIN_SVN stays; the other types keep their new images; the request ends with 0x06 and the image stays staged. -/
def execConfirmTimeout (s : State) : Host.Outcome State Fault Refusal :=
  match s.activation with
  | some a =>
    if s.rd F.fwuStatusState = 5 ∧ a.confirmEnd ≤ s.now ∧ a.unkicked ≠ [] then
      let p := (a.parts.head?).getD 0
      let bad := (bitList 6 a.types).filter (fun t => a.unkicked.any (fun f => decide (fwType f = t)))
      let s := (bitList 6 a.types).foldl (fun u t =>
        if t ∈ bad then (fwOfType u.mode p t).foldl State.fwRestart u else u.recordBank p t) s
      .next ((s.resumePart p).endActivation s.fwuRest 6)
    else .next s
  | none => .next s

/-- ACTIVATION_CONFIRM (R471 step 4, R473): a restarted core kicks its watchdog within 2 s; when every one has, the partition
is confirmed, in whole mode after the root's own core has restarted and kicked. -/
def execActivationConfirm (fw : Nat) (s : State) : Host.Outcome State Fault Refusal :=
  match s.activation with
  | some a =>
    if s.rd F.fwuStatusState = 5 ∧ fw ∈ a.unkicked ∧ s.now < a.confirmEnd then
      let p := (a.parts.head?).getD 0
      let s := s.fwRun fw
      let left := a.unkicked.filter (fun f => decide (f ≠ fw))
      if left ≠ [] then .next { s with activation := some { a with unkicked := left } }
      else if a.rootLast then
        let root := 3 * s.rd F.fwRootRootRegion
        let b := { a with unkicked := [root], rootLast := false, confirmEnd := s.now + 2000000000 }
        .next (({ s with activation := some b }).setFwState root 3)
      else .next ((s.activationNext { a with unkicked := [] } p).serveWaits)
    else .next s
  | none => .next s

/-- FWU_NO_ROOT_TIMEOUT (R478): a request that has waited 60 s with no root ends with RESULT 0x0A. -/
def execFwuNoRootTimeout (s : State) : Host.Outcome State Fault Refusal :=
  match s.fwWaits with
  | w :: ws =>
    if w.since + 60000000000 ≤ s.now then .next (({ s with fwWaits := ws }).wr F.fwuStatusResult 0 0xA) else .next s
  | [] => .next s

end Sys2Proof.Machine
end

