-- ==== Sys2Proof/Machine/Repair.lean ====
section
/-! DEFINITION. Retiring rows and lanes, the event log's registers and the calibration set (17_faults_and_repair.md, R488,
R492 to R502, R551). -/

namespace Sys2Proof.Machine

/-- The bank of a row's key: one repair per bank, stack identifier and pseudo-channel (R492). -/
def State.bankKey (s : State) (a : Nat) : Nat := s.rowKey a / 65536

/-- The 64 KiB pages that hold a row's blocks (R493): the aligned 256 KiB of a near-tier row, 128 KiB of a far-tier row. -/
def State.rowPages (s : State) (a : Nat) : List Nat :=
  match s.paKind a with
  | .near _ _ => (List.range 4).map (fun i => a / 0x40000 * 4 + i)
  | .far _ _ => (List.range 2).map (fun i => a / 0x20000 * 2 + i)
  | _ => []

/-- ROW_RETIRE (R492, R493): a row that has reached its threshold is repaired, with event 0x0610, where its bank has a repair
left; otherwise it stays in use, with event 0x0611, and its pages are withdrawn. No value changes. -/
def execRowRetire (addr : Nat) (s : State) : Host.Outcome State Fault Refusal :=
  match (s.paKind addr).region?, (s.paKind addr).stack? with
  | some r, some k =>
    let ev := s.events.getD r {}
    match ev.rowsDue.find? (fun a => decide (s.rowKey a = s.rowKey addr)) with
    | none => .next s
    | some a =>
      let due := ev.rowsDue.filter (fun x => decide (s.rowKey x ≠ s.rowKey addr))
      let s := { s with events := s.events.set r { ev with rowsDue := due } }
      let fl := s.flash
      if fl.spared.any (fun x => decide (x / 65536 = s.bankKey a)) then
        let s := { s with flash := { fl with
          unspared := fl.unspared ++ [s.rowKey a],
          withdrawn := fl.withdrawn ++ (s.rowPages a).filter (fun p => decide (p ∉ fl.withdrawn)) } }
        .next ((s.bumpSat F.rasRepairStatusRowsUnspared 0).hwEvent r 0x0611 (stackUnit k) 0xFFFF a 0 2)
      else
        let s := { s with flash := { fl with spared := fl.spared ++ [s.rowKey a] } }
        .next ((s.bumpSat F.rasRepairStatusRowsSpared 0).hwEvent r 0x0610 (stackUnit k) 0xFFFF a 0 2)
  | _, _ => .next s

-- lanes and ports

/-- The lanes of a port of a block in the configuration in force (R376), as a mask of the block's lanes; none for a port
that does not exist. -/
def State.portLanes (s : State) (b sub : Nat) : Option Nat :=
  if s.flag F.portStatusSplitInForce b then
    match sub with
    | 0 => some 0x0F
    | 1 => some 0xF0
    | _ => none
  else if sub = 0 then some 0xFF else none

/-- A block's ports by its lanes: a port is up only when all its lanes are up and none is retired (R378), in a partition that
runs or boots. -/
def State.refreshPorts (s : State) (b : Nat) : State :=
  let up := (s.ports.getD b {}).lanesUp
  let ret := s.rd F.portStatusLanesRetired b
  let st := s.partState (partOfRegion s.mode (b / 2))
  let live := decide (st = 1) || decide (st = 2) || decide (st = 5)
  let ok := fun (sub : Nat) =>
    match s.portLanes b sub with
    | some m => live && decide (up &&& m = m) && decide (ret &&& m = 0)
    | none => false
  (s.wr F.portStatusUpA b (if ok 0 then 1 else 0)).wr F.portStatusUpB b (if ok 1 then 1 else 0)

/-- A lane's up bit. -/
def State.setLane (s : State) (lane : Nat) (up : Bool) : State :=
  let b := lane / 8
  let p := s.ports.getD b {}
  let m := 2 ^ (lane % 8)
  let l := p.lanesUp &&& (255 - m)
  ({ s with ports := s.ports.set b { p with lanesUp := if up then l + m else l } }).refreshPorts b

/-- LANE_RETRAIN (R495): the lane's port goes down while the lane trains; event 0x4420 enters its region's queue. -/
def execLaneRetrain (lane : Nat) (s : State) : Host.Outcome State Fault Refusal :=
  if lane < 64 then .next ((s.setLane lane false).hwEvent (lane / 16) 0x4420 lane) else .next s

/-- LANE_TRAINING_DONE (R378): a lane that is not retired is up, and its port once all its lanes are. -/
def execLaneTrainingDone (lane : Nat) (s : State) : Host.Outcome State Fault Refusal :=
  if lane < 64 ∧ (s.rd F.portStatusLanesRetired (lane / 8)).testBit (lane % 8) = false then .next (s.setLane lane true)
  else .next s

-- the event log's registers

/-- A write of REG.EVT_BASE (R488, R502, R551): a bad size or a ring outside the partition's tiers is ignored and logged;
when the base becomes valid, the kept records are written to the ring, oldest first. -/
def State.writeEvtBase (s : State) (q : RegWriteReq) : State :=
  let lg := q.new F.regEvtBaseLog2Records
  let r := q.n
  if lg < 8 ∨ 16 < lg ∨
      s.rangeInTiers (partOfRegion s.mode r) (q.new F.regEvtBaseBase * 4096) (32 * 2 ^ lg) = false then s.accessError
  else
    let s := s.store q
    if q.new F.regEvtBaseValid = 1 ∧ q.was F.regEvtBaseValid = 0 then
      let ev := s.events.getD r {}
      let s := { s with events := s.events.set r { ev with kept := [] } }
      ev.kept.foldl (fun t e => t.evtSlotWrite r e.1 e.2) s
    else s

/-- EVT_BASE_WRITE (R488): a write of REG.EVT_BASE. -/
def execEvtBaseWrite (a : Access) (s : State) : Host.Outcome State Fault Refusal :=
  s.onWrite a [.regEvtBase] s.writeEvtBase

-- the calibration set

/-- The memory of a range replaced by given bytes inside it, the rest of it zero. -/
def State.setRange (s : State) (a n : Nat) (cells : List Host.Cell) : State :=
  cells.foldl (fun s c => s.writeByte c.1 c.2) (s.zeroRange a n)

/-- The bytes of a set, from offset 0. -/
def CalSet.stored (c : CalSet) : List Host.Cell :=
  match c.pending, c.inForce with
  | some m, _ => m
  | none, some m => m
  | none, none => (List.range 0x100000).map (fun i => (i, Config.factoryCal i))

/-- EXPORT of CAL.CTL (R499): the stored set, or the imported one while it is pending, is copied to the 1 MiB at
CAL.ADDR. -/
def State.calExport (s : State) : State :=
  let a := s.rd F.calAddrAddr * 4096
  let p := (((s.paKind a).region?).map (partOfRegion s.mode)).getD 0
  if s.rangeInTiers p a 0x100000 then
    s.setRange a 0x100000 (s.flash.cal.stored.map (fun c => (a + c.1, c.2)))
  else s.accessError

/-- CRC-32 of IEEE 802.3, a bit at a time. -/
def crcBits : Nat → Nat → Nat
  | 0, c => c
  | n + 1, c => crcBits n (if c % 2 = 1 then (c / 2) ^^^ 0xEDB88320 else c / 2)

def crcByte (c : Nat) (b : Byte) : Nat := crcBits 8 (c ^^^ b.toNat)

/-- CRC-32 over n bytes of a map from an offset. -/
def crcRange (m : NMap Byte) : Nat → Nat → Nat → Nat
  | _, 0, c => c ^^^ 0xFFFFFFFF
  | o, n + 1, c => crcRange m (o + 1) n (crcByte c (m.getD o 0))

/-- A little-endian number of a map's bytes. -/
def mapNat (m : NMap Byte) (o n : Nat) : Nat := leNat ((List.range n).map (fun i => m.getD (o + i) 0))

/-- The checks of an import, in order (R499); whether every value is in its range is the set's own matter. -/
def calCheck (m : NMap Byte) (rangesOk force : Bool) : Nat :=
  if mapNat m 0 4 ≠ 0x4C414354 ∨ mapNat m 4 4 ≠ 1 then 1
  else
    let len := mapNat m 0x10 4
    if 0x100000 < len ∨ mapNat m 0x14 4 ≠ crcRange m 0x40 (len - 0x40) 0xFFFFFFFF then 2
    else if !rangesOk then 3
    else if !force && decide (mapNat m 8 8 ≠ Config.deviceSerial.toNat) then 4
    else 0

/-- IMPORT of CAL.CTL (R499). -/
def State.calImport (s : State) (rangesOk force : Bool) : State :=
  let a := s.rd F.calAddrAddr * 4096
  let m : NMap Byte := (s.mem.filter (fun c => decide (a ≤ c.1 ∧ c.1 < a + 0x100000))).map (fun c => (c.1 - a, c.2))
  let res := calCheck m rangesOk force
  let s := s.wr F.calStatusResult 0 res
  if res = 0 then
    let fl := s.flash
    let c := fl.cal
    let s := { s with flash := { fl with cal := { c with pending := some m, factory := false } } }
    (s.wr F.calStatusPending 0 1).wr F.calStatusFactory 0 0
  else s

/-- CAL_EXPORT (R499): a write of CAL.CTL with EXPORT. -/
def execCalExport (a : Access) (s : State) : Host.Outcome State Fault Refusal :=
  s.onWrite a [.calCtl] (fun q => if q.wrote F.calCtlExport = 1 then s.calExport else s)

/-- CAL_IMPORT (R499): a write of CAL.CTL with IMPORT. -/
def execCalImport (a : Access) (rangesOk : Bool) (s : State) : Host.Outcome State Fault Refusal :=
  s.onWrite a [.calCtl] (fun q =>
    if q.wrote F.calCtlImport = 1 then s.calImport rangesOk (decide (q.wrote F.calCtlForce = 1)) else s)

/-- A write of RAS.CFG (R501): a zero threshold or window is out of range, ignored and logged. -/
def State.writeRasCfg (s : State) (q : RegWriteReq) : State :=
  let fs := [F.rasCfgRowN, F.rasCfgRowWindowH, F.rasCfgCoreN, F.rasCfgCoreWindowMin, F.rasCfgLaneN, F.rasCfgLaneWindowMin]
  let bad := fs.filter (fun f => decide (q.new f = 0))
  let s := s.store (bad.foldl RegWriteReq.keep q)
  if bad = [] then s else s.accessError

/-- A write of RAS.ISOLATE (R497): the marks are kept in the repair record. -/
def State.writeIsolate (s : State) (q : RegWriteReq) : State :=
  let s := s.store q
  let fl := s.flash
  { s with flash := { fl with isolate := q.new F.rasIsolateRegions } }

end Sys2Proof.Machine
end

