-- ==== Sys2Proof/Machine/Security.lean ====
section
/-! DEFINITION. Attestation, keys, IDE, MACsec and memory encryption (18_security_and_management.md, R503 to R520). Message
codes are those of DSP0274 (assumption 14); signatures, digests and certificates are free values. -/

namespace Sys2Proof.Machine

/-- A message sent to a requester. -/
def State.reply (s : State) (m : Medium) (code : Nat) (bytes : List Byte) : State := s.send (.message m 5 code bytes)

/-- An SPDM ERROR answer. -/
def State.spdmError (s : State) (m : Medium) (code : Nat) (data : Nat := 0) : State :=
  s.reply m 0x7F (leBytes 1 code ++ leBytes 1 data)

/-- The answers of a responder that is not ready (R512): RDTExponent 20 with no root, 14 while an election is in
progress. -/
def State.notReady (s : State) : Option Nat :=
  if !s.flag F.fwRootRootValid then some 20
  else
    match s.sec.electionEnd with
    | some t => if s.now < t then some 14 else none
    | none => none

/-- An SPDM request served by the root, or answered ResponseNotReady (R512). -/
def State.spdm (s : State) (m : Medium) (f : State → State) : State :=
  match s.notReady with
  | some e => s.spdmError m 0x42 e
  | none => f s

/-- The next free bytes of a cryptographic value. -/
def State.crypto (s : State) : List Byte × State :=
  let (n, s) := s.draw
  (Config.cryptoBytes n, s)

def Medium.index : Medium → Nat
  | .doe => 0
  | .vdm => 1
  | .i3c => 2

def State.spdmConn (s : State) (m : Medium) : SpdmConn := s.sec.conns.getD m.index {}

def State.setSpdmConn (s : State) (m : Medium) (c : SpdmConn) : State :=
  let sec := s.sec
  { s with sec := { sec with conns := sec.conns.set m.index c } }

/-- GET_VERSION (R509): versions 1.3 and 1.2; a new negotiation begins. -/
def execGetVersion (m : Medium) (s : State) : Host.Outcome State Fault Refusal :=
  .next (s.spdm m (fun s => (s.setSpdmConn m {}).reply m 0x04 [0x12, 0x13]))

/-- GET_CAPABILITIES (R509): 1.3, or 1.2 when the requester offers no higher; the capabilities CERT, CHAL, MEAS, KEY_EX,
ENCRYPT, MAC, HBEAT, KEY_UPD and CHUNK. -/
def execGetCapabilities (m : Medium) (version : Nat) (s : State) : Host.Outcome State Fault Refusal :=
  .next (s.spdm m (fun s =>
    if version < 0x12 then s.spdmError m 0x41
    else
      let v := if version < 0x13 then 0x12 else 0x13
      (s.setSpdmConn m { version := v, caps := true, algs := false }).reply m 0x61 [BitVec.ofNat 8 v]))

/-- NEGOTIATE_ALGORITHMS (R509): ECDSA P-384, SHA-384, secp384r1, AES-256-GCM. -/
def execNegotiateAlgorithms (m : Medium) (s : State) : Host.Outcome State Fault Refusal :=
  .next (s.spdm m (fun s =>
    let c := s.spdmConn m
    if c.caps then (s.setSpdmConn m { c with algs := true }).reply m 0x63 [] else s.spdmError m 0x04))

/-- A request that needs the negotiation to be complete. -/
def State.spdmReady (s : State) (m : Medium) (f : State → State) : State :=
  s.spdm m (fun s => if (s.spdmConn m).algs then f s else s.spdmError m 0x04)

/-- GET_DIGESTS (R511): slots 0 and 1. -/
def execGetDigests (m : Medium) (s : State) : Host.Outcome State Fault Refusal :=
  .next (s.spdmReady m (fun s => let (b, s) := s.crypto; s.reply m 0x01 (3 :: b)))

/-- GET_CERTIFICATE (R511): a part of the chain of slot 0 or 1. -/
def execGetCertificate (m : Medium) (slot offset len : Nat) (s : State) : Host.Outcome State Fault Refusal :=
  .next (s.spdmReady m (fun s =>
    if 1 < slot then s.spdmError m 0x01
    else
      let (b, s) := s.crypto
      s.reply m 0x02 (BitVec.ofNat 8 slot :: (b.drop offset).take len)))

/-- CHALLENGE (R511): a signed answer of either slot. -/
def execChallenge (m : Medium) (slot : Nat) (s : State) : Host.Outcome State Fault Refusal :=
  .next (s.spdmReady m (fun s =>
    if 1 < slot then s.spdmError m 0x01 else let (b, s) := s.crypto; s.reply m 0x03 (BitVec.ofNat 8 slot :: b)))

/-- Has a region's security core run (R510)? -/
def State.secRan (s : State) (r : Nat) : Bool :=
  let b := s.rd F.secStatusBoot 0 r
  decide (b = 1) || decide (b = 2) || (s.fwCores.getD (3 * r) {}).recovery.isSome

/-- The value of a measurement block, taken now (R510). -/
def State.measurement (s : State) (index : Nat) : Option (List Byte) :=
  if index = 1 then some (leBytes 8 (s.reg .devIdent 0).toNat)
  else if index = 2 then
    let split := (List.range 8).foldl (fun a b => a + s.rd F.portCfgSplit b * 2 ^ b) 0
    some (leBytes 1 s.mode ++ leBytes 1 (s.rd F.rasIsolateInForce) ++ leBytes 1 split)
  else if index = 3 then some (leBytes 4 (s.rd F.calStatusCrcInForce) ++ leBytes 1 (s.rd F.calStatusFactory))
  else if 0x10 ≤ index ∧ index < 0x30 then
    let r := (index - 0x10) / 8
    let i := (index - 0x10) % 8
    if !s.secRan r then some (List.replicate 48 0)
    else if i = 0 then some (Config.romDigest r)
    else if i ≤ 6 then
      let t := i - 1
      let run := s.flash.images.getD (2 * t + s.bankOf r t) { ty := t }
      let img := if t = 0 then ((s.fwCores.getD (3 * r) {}).recovery).getD run else run
      some (Config.headerDigest img.header)
    else some (leBytes 1 (s.rd F.regFwStatusBanks r) ++ leBytes 1 (s.rd F.secStatusBoot 0 r))
  else none

/-- The indexes of the measurement blocks. -/
def measurementIndexes : List Nat := [1, 2, 3] ++ (List.range 32).map (fun i => 0x10 + i)

/-- GET_MEASUREMENTS (R510): index 0 the number of blocks, 0xFF all of them, otherwise one block; signed on request. -/
def execGetMeasurements (m : Medium) (index slot : Nat) (signed : Bool) (s : State) : Host.Outcome State Fault Refusal :=
  .next (s.spdmReady m (fun s =>
    let sig := fun (t : State) (body : List Byte) =>
      if signed then let (b, t) := t.crypto; t.reply m 0x60 (body ++ b) else t.reply m 0x60 body
    if 1 < slot then s.spdmError m 0x01
    else if index = 0 then sig s [BitVec.ofNat 8 measurementIndexes.length]
    else if index = 0xFF then
      sig s (measurementIndexes.flatMap (fun i => BitVec.ofNat 8 i :: (s.measurement i).getD []))
    else
      match s.measurement index with
      | some b => sig s (BitVec.ofNat 8 index :: b)
      | none => s.spdmError m 0x01))

/-- The open sessions, and their count in SEC.STATUS. -/
def State.setSessions (s : State) (l : List SpdmSession) : State :=
  let sec := s.sec
  ({ s with sec := { sec with sessions := l } }).wr F.secStatusSessions 0 l.length

/-- KEY_EXCHANGE (R509): a secured session opens, up to eight at once; a further one is answered SessionLimitExceeded. -/
def execKeyExchange (m : Medium) (slot : Nat) (s : State) : Host.Outcome State Fault Refusal :=
  .next (s.spdmReady m (fun s =>
    if 1 < slot then s.spdmError m 0x01
    else if 8 ≤ s.sec.sessions.length then s.spdmError m 0x0A
    else
      let id := s.sec.nextSession
      let sec := s.sec
      let s := { s with sec := { sec with nextSession := id + 1 } }
      let s := s.setSessions (s.sec.sessions ++ [{ id := id, medium := m, beat := s.now }])
      let (b, s) := s.crypto
      s.reply m 0x64 ([10] ++ leBytes 2 id ++ b)))

/-- A request in a secured session: served by the root, or UnexpectedRequest where no such session is open. -/
def State.inSession (s : State) (id : Nat) (f : SpdmSession → State → State) : State :=
  match s.sec.sessions.find? (fun x => decide (x.id = id)) with
  | some x => s.spdm x.medium (f x)
  | none => s.spdmError .doe 0x04

/-- A session replaced. -/
def State.setSession (s : State) (x : SpdmSession) : State :=
  s.setSessions (s.sec.sessions.map (fun y => if y.id = x.id then x else y))

/-- FINISH (R509): the session is established. -/
def execFinish (session : Nat) (s : State) : Host.Outcome State Fault Refusal :=
  .next (s.inSession session (fun x s => (s.setSession { x with finished := true }).reply x.medium 0x65 []))

/-- HEARTBEAT (R509). -/
def execHeartbeat (session : Nat) (s : State) : Host.Outcome State Fault Refusal :=
  .next (s.inSession session (fun x s =>
    if x.finished then (s.setSession { x with beat := s.now }).reply x.medium 0x68 [] else s.spdmError x.medium 0x04))

/-- KEY_UPDATE (R509): the session's keys are updated. -/
def execKeyUpdate (session : Nat) (s : State) : Host.Outcome State Fault Refusal :=
  .next (s.inSession session (fun x s =>
    if x.finished then (s.setSession { x with updates := x.updates + 1 }).reply x.medium 0x69 []
    else s.spdmError x.medium 0x04))

/-- END_SESSION (R509): the session closes. -/
def execEndSession (session : Nat) (s : State) : Host.Outcome State Fault Refusal :=
  .next (s.inSession session (fun x s =>
    (s.setSessions (s.sec.sessions.filter (fun y => decide (y.id ≠ x.id)))).reply x.medium 0x6C []))

/-- A vendor-defined response with its status (R513). -/
def State.vendorReply (s : State) (m : Medium) (status : Nat) (body : List Byte := []) : State :=
  s.reply m 0x7E (leBytes 2 status ++ body)

/-- A vendor-defined request (R513): within an established secured session, over the PF's DOE, or over MCTP when BMC_KEYS is
1; otherwise UnsupportedRequest. -/
def State.vendor (s : State) (ch : SpdmChan) (f : State → State) : State :=
  s.spdm ch.medium (fun s =>
    let ok := s.sec.sessions.any (fun x =>
      decide (some x.id = ch.session) && decide (x.medium = ch.medium) && x.finished)
    if ok && (decide (ch.medium = .doe) || s.flag F.mgtCfgBmcKeys) then f s else s.spdmError ch.medium 0x07)

/-- GET_SESSION_TOKEN (R513, R363): the token while it is unread; afterwards status 1. -/
def execGetSessionToken (ch : SpdmChan) (s : State) : Host.Outcome State Fault Refusal :=
  .next (s.vendor ch (fun s =>
    match s.session.token with
    | some t =>
      if s.session.spdmRead || s.session.loRead || s.session.hiRead then s.vendorReply ch.medium 1
      else
        let se := s.session
        ({ s with session := { se with spdmRead := true } }).vendorReply ch.medium 0 (leBytes 16 t)
    | none => s.vendorReply ch.medium 1))

-- MACsec (R517, R518)

/-- The port block and the port within it of a port number of MACSEC_SET_SA; none for a port that does not exist (R376). -/
def State.portNumber (s : State) (port : Nat) : Option (Nat × Nat) :=
  if port < 8 then (if s.flag F.portStatusSplitInForce port then none else some (port, 0))
  else if 0x80 ≤ port ∧ port < 0x90 then
    let q := port - 0x80
    if s.flag F.portStatusSplitInForce (q / 2) then some (q / 2, q % 2) else none
  else none

/-- The installed transmit SAs of a block in PORT.SEC_STATUS. -/
def State.refreshSa (s : State) (b : Nat) : State :=
  let bits := fun (sub : Nat) =>
    (List.range 4).foldl (fun a n => if s.sec.txSa.has ((b * 2 + sub) * 4 + n) then a + 2 ^ n else a) 0
  (s.wr F.portSecStatusTxSaA b (bits 0)).wr F.portSecStatusTxSaB b (bits 1)

/-- MACSEC_SET_SA (R513, R517): the SA is installed, replacing any at the same port, direction, SCI and AN. -/
def execMacsecSetSa (ch : SpdmChan) (sa : SaFields) (s : State) : Host.Outcome State Fault Refusal :=
  .next (s.vendor ch (fun s =>
    match s.portNumber sa.port with
    | none => s.vendorReply ch.medium 2
    | some (b, sub) =>
      let k0 := (b * 2 + sub) * 4
      let sec := s.sec
      let rec0 : MacsecSa := { suite := sa.suite, sci := sa.sci, ssci := sa.ssci, salt := sa.salt, pn := sa.pn, sak := sa.sak }
      let sameRx := fun (e : Nat × MacsecSa) => decide (e.1 = k0 + sa.an ∧ e.2.sci = sa.sci)
      let scis := ((sec.rxSa.filter (fun e => decide (e.1 / 4 = b * 2 + sub))).map (fun e => e.2.sci)).eraseDups
      let txOther := (List.range 4).any (fun n =>
        match sec.txSa.get? (k0 + n) with
        | some x => decide (x.sci ≠ sa.sci) && decide (n ≠ sa.an)
        | none => false)
      if 1 < sa.dir ∨ 3 < sa.an ∨ 1 < sa.suite ∨ (sa.dir = 0 ∧ txOther = true)
          ∨ (sa.dir = 1 ∧ sa.sci ∉ scis ∧ 16 ≤ scis.length) then s.vendorReply ch.medium 2
      else if sa.dir = 0 then
        (({ s with sec := { sec with txSa := sec.txSa.set (k0 + sa.an) rec0 } }).refreshSa b).vendorReply ch.medium 0
      else
        let l := (sec.rxSa.filter (fun e => !sameRx e)) ++ [(k0 + sa.an, rec0)]
        ({ s with sec := { sec with rxSa := l } }).vendorReply ch.medium 0))

/-- MACSEC_CLEAR_SA (R513): the SA is removed and its key erased. -/
def execMacsecClearSa (ch : SpdmChan) (port dir an sci : Nat) (s : State) : Host.Outcome State Fault Refusal :=
  .next (s.vendor ch (fun s =>
    match s.portNumber port with
    | none => s.vendorReply ch.medium 2
    | some (b, sub) =>
      if 1 < dir ∨ 3 < an then s.vendorReply ch.medium 2
      else
        let k := (b * 2 + sub) * 4 + an
        let sec := s.sec
        let sec : SecSt := if dir = 0 then
            (match sec.txSa.get? k with
              | some x => if x.sci = sci then { sec with txSa := sec.txSa.del k } else sec
              | none => sec)
          else { sec with rxSa := sec.rxSa.filter (fun e => !decide (e.1 = k ∧ e.2.sci = sci)) }
        (({ s with sec := sec }).refreshSa b).vendorReply ch.medium 0))

/-- SET_POLICY (R513, R514): the policy of the module settings; only on the PF's DOE. -/
def execSetPolicy (ch : SpdmChan) (requireIde bmcCap bmcKeys bmcFwu : Nat) (s : State) :
    Host.Outcome State Fault Refusal :=
  .next (s.vendor ch (fun s =>
    if ch.medium ≠ .doe then s.vendorReply ch.medium 3
    else if 1 < requireIde ∨ 1 < bmcCap ∨ 1 < bmcKeys ∨ 1 < bmcFwu then s.vendorReply ch.medium 2
    else
      let fl := s.flash
      ({ s with flash := { fl with policy :=
          { requireIde := requireIde, bmcCap := bmcCap, bmcKeys := bmcKeys, bmcFwu := bmcFwu } } }).vendorReply ch.medium 0))

-- IDE (R515, R516)

/-- IDE_KM requests: over a secured session on the PF's DOE; otherwise UnsupportedRequest. -/
def State.ideKm (s : State) (ch : SpdmChan) (f : State → State) : State :=
  s.spdm ch.medium (fun s =>
    let ok := s.sec.sessions.any (fun x =>
      decide (some x.id = ch.session) && decide (x.medium = ch.medium) && x.finished)
    if ok && decide (ch.medium = .doe) then f s else s.spdmError ch.medium 0x07)

/-- The Secure bits of the streams: a stream is Secure while some key set of it is programmed and every key of that set has
its GO (R516). -/
def State.refreshIde (s : State) : State :=
  let secure := fun (st : Nat) => [0, 1].any (fun k =>
    let keys := s.sec.ide.filter (fun x => decide (x.stream = st ∧ x.set = k))
    !keys.isEmpty && keys.all (fun x => x.go))
  s.wr F.secIdeStatusSecure 0 ((List.range 5).foldl (fun a st => if secure st then a + 2 ^ st else a) 0)

/-- QUERY (R515): the answer names the link stream and four selective streams. -/
def execQuery (ch : SpdmChan) (s : State) : Host.Outcome State Fault Refusal :=
  .next (s.ideKm ch (fun s => s.reply .doe 0x01 [4]))

/-- KEY_PROG (R515): one key of a stream's key set is programmed. -/
def execKeyProg (ch : SpdmChan) (stream set sub : Nat) (s : State) : Host.Outcome State Fault Refusal :=
  .next (s.ideKm ch (fun s =>
    if 4 < stream ∨ 1 < set ∨ 5 < sub then s.reply .doe 0x03 [1]
    else
      let sec := s.sec
      let l := sec.ide.filter (fun x => !decide (x.stream = stream ∧ x.set = set ∧ x.sub = sub))
      let k : IdeKey := { stream := stream, set := set, sub := sub }
      ({ s with sec := { sec with ide := l ++ [k] } }).refreshIde.reply .doe 0x03 [0]))

/-- K_SET_GO and K_SET_STOP mark the keys they name. -/
def State.ideMark (s : State) (stream set sub : Nat) (go : Bool) : State :=
  let sec := s.sec
  let l := sec.ide.map (fun x =>
    if x.stream = stream ∧ x.set = set ∧ x.sub = sub then { x with go := go } else x)
  ({ s with sec := { sec with ide := l } }).refreshIde

/-- K_SET_GO (R515). -/
def execKSetGo (ch : SpdmChan) (stream set sub : Nat) (s : State) : Host.Outcome State Fault Refusal :=
  .next (s.ideKm ch (fun s => (s.ideMark stream set sub true).reply .doe 0x06 []))

/-- K_SET_STOP (R515). -/
def execKSetStop (ch : SpdmChan) (stream set sub : Nat) (s : State) : Host.Outcome State Fault Refusal :=
  .next (s.ideKm ch (fun s => (s.ideMark stream set sub false).reply .doe 0x06 []))

/-- IDE_CHECK_FAIL (R516): a Secure stream fails an integrity check: Insecure, counted, reported by AER. -/
def execIdeCheckFail (stream : Nat) (s : State) : Host.Outcome State Fault Refusal :=
  if stream < 5 ∧ (s.rd F.secIdeStatusSecure).testBit stream = true then
    let sec := s.sec
    let s := { s with sec := { sec with ide := sec.ide.filter (fun x => decide (x.stream ≠ stream)) } }
    .next (((s.refreshIde).bumpSat F.secIdeStatusCheckFails 0).send (.aer 0))
  else .next s

/-- A write of PORT.SEC_CFG (R518): a new TX_AN names an installed SA, or is ignored and logged; it clears the port's
packet-number marks. -/
def State.writeSecCfg (s : State) (q : RegWriteReq) : State :=
  let b := q.n
  let one := fun (t : State × RegWriteReq) (sub : Nat) (f warn exh : Fld) =>
    let (s, q) := t
    if q.new f = q.was f then (s, q)
    else if s.sec.txSa.has ((b * 2 + sub) * 4 + q.new f) then ((s.wr warn b 0).wr exh b 0, q)
    else (s.accessError, q.keep f)
  let t := one (s, q) 0 F.portSecCfgTxAnA F.portSecStatusPnWarnA F.portSecStatusPnExhaustedA
  let (s, q) := one t 1 F.portSecCfgTxAnB F.portSecStatusPnWarnB F.portSecStatusPnExhaustedB
  s.store q

/-- MACSEC_TX_AN_WRITE (R518): a write of PORT.SEC_CFG. -/
def execMacsecTxAnWrite (a : Access) (s : State) : Host.Outcome State Fault Refusal :=
  s.onWrite a [.portSecCfg] s.writeSecCfg

-- memory encryption (R519, R520)

/-- Does a grant entry of any region name a context? -/
def State.granted (s : State) (ctx : Nat) : Bool :=
  s.regs.any (fun e =>
    match regAt e.1 with
    | some (r, n) =>
      (decide (r = .regGrantNear) && decide (s.rd F.regGrantNearMode n ≠ 0) && decide (s.rd F.regGrantNearContext n = ctx))
        || (decide (r = .regGrantFar) && decide (s.rd F.regGrantFarMode n ≠ 0)
            && decide (s.rd F.regGrantFarContext n = ctx))
        || (decide (r = .regGrantScratch) && decide (s.rd F.regGrantScratchMode n ≠ 0)
            && decide (s.rd F.regGrantScratchContext n = ctx))
    | none => false)

/-- A context's key erased. -/
def State.eraseKey (s : State) (ctx : Nat) : State :=
  let sec := s.sec
  ({ s with sec := { sec with ctxKeys := sec.ctxKeys.del ctx,
                              keyWaits := sec.keyWaits.filter (fun c => decide (c ≠ ctx)) } }).wr
    F.ctxMemCryptKeyReady ctx 0

/-- A write of CTX.MEM_CRYPT (R520): ENABLE changes only while no grant entry names the context. -/
def State.writeMemCrypt (s : State) (q : RegWriteReq) : State :=
  let ctx := q.n
  let new := q.new F.ctxMemCryptEnable
  if new = q.was F.ctxMemCryptEnable then s
  else if s.granted ctx then s.accessError
  else
    let s := s.wr F.ctxMemCryptEnable ctx new
    if new = 1 then
      let sec := s.sec
      ({ s with sec := { sec with keyWaits := sec.keyWaits ++ [ctx] } }).serveKeys
    else s.eraseKey ctx

/-- MEM_CRYPT_ENABLE (R520): a write of CTX.MEM_CRYPT. -/
def execMemCryptEnable (a : Access) (s : State) : Host.Outcome State Fault Refusal :=
  s.onWrite a [.ctxMemCrypt] s.writeMemCrypt

/-- The key of a granule of a tier under a grant (R519): 0 where its bursts are plaintext. -/
def State.granuleKey (s : State) (mode ctx : Nat) : Nat :=
  if mode ≠ 0 ∧ s.flag F.ctxMemCryptEnable ctx = true then s.sec.ctxKeys.getD ctx 0 else 0

/-- A granule of a tier whose key changes reads as free values from then on (R520). -/
def State.scramble (s : State) (granule : Nat) : State :=
  let (n, s) := s.draw
  { s with
    mem := NMap.keep s.mem (fun a => decide (a / 0x4000000 ≠ granule)),
    scrambled := s.scrambled.set granule n }

end Sys2Proof.Machine
end

