-- ==== Sys2Proof/Machine/Management.lean ====
section
/-! DEFINITION. MCTP, PLDM and SIDE_SIG (18_security_and_management.md, R506, R521 to R528). Command and completion codes are
those of DSP0236, DSP0240, DSP0248, DSP0257 and DSP0267 (assumption 14). -/

namespace Sys2Proof.Machine

/-- An MCTP endpoint: one on PCI Express and one on I3C (R521); a DOE mailbox carries no MCTP. -/
def State.mctp (s : State) (m : Medium) (f : State → State) : Host.Outcome State Fault Refusal :=
  .next (if m = .doe then s else f s)

/-- A successful answer of MCTP control. -/
def State.control (s : State) (m : Medium) (code : Nat) (bytes : List Byte) : State :=
  s.send (.message m 0 code (0 :: bytes))

/-- A PLDM answer: completion code and data. -/
def State.pldm (s : State) (m : Medium) (code cc : Nat) (bytes : List Byte := []) : State :=
  s.send (.message m 1 code (leBytes 1 cc ++ bytes))

/-- A PLDM request: ERROR_NOT_READY (0x04) until a root exists (R521). -/
def State.pldmRequest (s : State) (m : Medium) (code : Nat) (f : State → State) : Host.Outcome State Fault Refusal :=
  s.mctp m (fun s => if s.flag F.fwRootRootValid then f s else s.pldm m code 4)

/-- SET_ENDPOINT_ID (R521). -/
def execSetEndpointId (m : Medium) (eid : Nat) (s : State) : Host.Outcome State Fault Refusal :=
  s.mctp m (fun s =>
    let g := s.mgt
    ({ s with mgt := { g with eids := g.eids.set m.index (eid % 256) } }).control m 1 (0 :: leBytes 1 eid))

/-- GET_ENDPOINT_ID (R521). -/
def execGetEndpointId (m : Medium) (s : State) : Host.Outcome State Fault Refusal :=
  s.mctp m (fun s => s.control m 2 (leBytes 1 (s.mgt.eids.getD m.index 0)))

/-- GET_ENDPOINT_UUID (R521). -/
def execGetEndpointUuid (m : Medium) (s : State) : Host.Outcome State Fault Refusal :=
  s.mctp m (fun s => s.control m 3 Config.endpointUuid)

/-- GET_MCTP_VERSION_SUPPORT (R521): DSP0236 1.3. -/
def execGetMctpVersionSupport (m : Medium) (s : State) : Host.Outcome State Fault Refusal :=
  s.mctp m (fun s => s.control m 4 [1, 0xF1, 0xF3])

/-- GET_MESSAGE_TYPE_SUPPORT (R521): PLDM, SPDM and secured messages beside control. -/
def execGetMessageTypeSupport (m : Medium) (s : State) : Host.Outcome State Fault Refusal :=
  s.mctp m (fun s => s.control m 5 [0, 1, 5, 6])

/-- SETDASA (R522): the static address 0x74 plus the ADDR_SEL strap takes a dynamic address. -/
def execSetdasa (static dynamic : Nat) (s : State) : Host.Outcome State Fault Refusal :=
  let g := s.mgt
  .next (if static = 0x74 + s.modSt.straps % 4 then { s with mgt := { g with i3cAddr := some dynamic } } else s)

/-- ENTDAA (R522): a device without a dynamic address takes the one assigned. -/
def execEntdaa (dynamic : Nat) (s : State) : Host.Outcome State Fault Refusal :=
  let g := s.mgt
  .next (if g.i3cAddr.isNone then { s with mgt := { g with i3cAddr := some dynamic } } else s)

-- PLDM base

/-- SET_TID (R523). -/
def execSetTid (m : Medium) (tid : Nat) (s : State) : Host.Outcome State Fault Refusal :=
  s.pldmRequest m 1 (fun s =>
    let g := s.mgt
    ({ s with mgt := { g with tid := tid % 256 } }).pldm m 1 0)

/-- GET_TID (R523). -/
def execGetTid (m : Medium) (s : State) : Host.Outcome State Fault Refusal :=
  s.pldmRequest m 2 (fun s => s.pldm m 2 0 (leBytes 1 s.mgt.tid))

/-- GET_PLDM_VERSION (R523): its versions are free, since the table names none. -/
def execGetPldmVersion (m : Medium) (s : State) : Host.Outcome State Fault Refusal :=
  s.pldmRequest m 3 (fun s =>
    let (n, s) := s.draw
    s.pldm m 3 0 (leBytes 4 (Config.freeWord n).toNat))

/-- GET_PLDM_TYPES (R523): types 0, 2, 4 and 5. -/
def execGetPldmTypes (m : Medium) (s : State) : Host.Outcome State Fault Refusal :=
  s.pldmRequest m 4 (fun s => s.pldm m 4 0 (leBytes 8 0x35))

/-- The commands of a PLDM type (R523). -/
def pldmCommands (ty : Nat) : List Nat :=
  if ty = 0 then [1, 2, 3, 4, 5]
  else if ty = 2 then [0x04, 0x11, 0x21, 0x31, 0x32, 0x39, 0x50, 0x51]
  else if ty = 4 then [1, 2]
  else if ty = 5 then [0x10, 0x13, 0x14, 0x1A, 0x1B, 0x1C, 0x1D]
  else []

/-- GET_PLDM_COMMANDS (R523): one bit per command of the type; INVALID_PLDM_TYPE (0x83) for a type it lacks. -/
def execGetPldmCommands (m : Medium) (ty : Nat) (s : State) : Host.Outcome State Fault Refusal :=
  s.pldmRequest m 5 (fun s =>
    if pldmCommands ty = [] then s.pldm m 5 0x83
    else s.pldm m 5 0 (leBytes 32 ((pldmCommands ty).foldl (fun a c => a + 2 ^ c) 0)))

-- platform monitoring and control

/-- The identifiers of the sensors and effecters of the repository (R525). -/
def pdrIds : List Nat :=
  [1, 2, 3] ++ (List.range 12).map (fun i => 0x10 + i) ++ (List.range 16).map (fun i => 0x20 + i)
    ++ (List.range 8).map (fun i => 0x30 + i) ++ [0x40, 0x41] ++ (List.range 6).map (fun i => 0x80 + i)
    ++ [0x100, 0x101, 0x102]

/-- GET_PDR_REPOSITORY_INFO (R523, R525): one record for each sensor and effecter. -/
def execGetPdrRepositoryInfo (m : Medium) (s : State) : Host.Outcome State Fault Refusal :=
  s.pldmRequest m 0x50 (fun s => s.pldm m 0x50 0 (leBytes 4 pdrIds.length))

/-- GET_PDR (R525): the record of a sensor or effecter; INVALID_RECORD_HANDLE (0x82) for another. -/
def execGetPdr (m : Medium) (id : Nat) (s : State) : Host.Outcome State Fault Refusal :=
  s.pldmRequest m 0x51 (fun s =>
    if id ∈ pdrIds then s.pldm m 0x51 0 (leBytes 2 id ++ Config.pdrBytes id) else s.pldm m 0x51 0x82)

/-- A signed 8-bit temperature field as an integer. -/
def readTemp (n : Nat) : Int := toSigned 8 n

/-- A far or near stack's index of STK.STATUS by its global number (R487). -/
def stackIndex (g : Nat) : Nat := if g < 16 then g / 4 * 6 + g % 4 else (g - 16) / 2 * 6 + 4 + (g - 16) % 2

/-- The reading of a numeric sensor (R525): the value last refreshed, in the unit of the table. -/
def State.sensorReading (s : State) (id : Nat) : Option Int :=
  if id = 1 then some (s.rd F.pwrStatusInputW)
  else if id = 2 then some s.power.volts
  else if id = 3 then some s.power.amps
  else if 0x10 ≤ id ∧ id < 0x14 then some (s.rd F.regPwrBudgetMeasuredW (id - 0x10))
  else if 0x14 ≤ id ∧ id < 0x18 then some (readTemp (s.rd F.regPwrStatusTjMax (id - 0x14)))
  else if 0x18 ≤ id ∧ id < 0x1C then some ((s.rd F.regPwrStatusHaze (id - 0x18) * 100 / 1024 : Nat) : Int)
  else if 0x20 ≤ id ∧ id < 0x30 then some (readTemp (s.rd F.stkStatusTemp (stackIndex (id - 0x20))))
  else if 0x30 ≤ id ∧ id < 0x38 then some (readTemp (s.rd F.stkStatusTemp (stackIndex (16 + (id - 0x30)))))
  else if id = 0x40 then some s.power.inlet
  else if id = 0x41 then some s.power.outlet
  else none

/-- GET_SENSOR_READING (R525): INVALID_SENSOR_ID (0x80) for an unknown sensor. -/
def execGetSensorReading (m : Medium) (id : Nat) (s : State) : Host.Outcome State Fault Refusal :=
  s.pldmRequest m 0x11 (fun s =>
    match s.sensorReading id with
    | some v => s.pldm m 0x11 0 (leBytes 4 (toUnsigned 32 v))
    | none => s.pldm m 0x11 0x80)

/-- The reading of a state sensor (R525). -/
def State.stateReading (s : State) (id : Nat) : Option Nat :=
  if id = 0x80 then some (s.rd F.pwrStatusThermalAlert)
  else if id = 0x81 then some (s.rd F.pwrStatusFastClamp)
  else if 0x82 ≤ id ∧ id < 0x86 then some (s.partState (id - 0x82))
  else none

/-- GET_STATE_SENSOR_READINGS (R525). -/
def execGetStateSensorReadings (m : Medium) (id : Nat) (s : State) : Host.Outcome State Fault Refusal :=
  s.pldmRequest m 0x21 (fun s =>
    match s.stateReading id with
    | some v => s.pldm m 0x21 0 (leBytes 1 v)
    | none => s.pldm m 0x21 0x80)

/-- SET_NUMERIC_EFFECTER_VALUE (R526): the power cap or its window, within its range and with BMC_CAP at 1. -/
def execSetNumericEffecterValue (m : Medium) (id value : Nat) (s : State) : Host.Outcome State Fault Refusal :=
  s.pldmRequest m 0x31 (fun s =>
    if id ≠ 0x100 ∧ id ≠ 0x101 then s.pldm m 0x31 0x80
    else if s.rd F.mgtCfgBmcCap = 0 then s.pldm m 0x31 5
    else if id = 0x100 then
      if value < 1800 ∨ 5400 < value then s.pldm m 0x31 2 else (s.wr F.pwrCapCapW 0 value).pldm m 0x31 0
    else if value < 1000 ∨ 10000 < value then s.pldm m 0x31 2
    else (s.wr F.pwrCapWindowMs 0 value).pldm m 0x31 0)

/-- GET_NUMERIC_EFFECTER_VALUE (R525). -/
def execGetNumericEffecterValue (m : Medium) (id : Nat) (s : State) : Host.Outcome State Fault Refusal :=
  s.pldmRequest m 0x32 (fun s =>
    if id = 0x100 then s.pldm m 0x32 0 (leBytes 2 (s.rd F.pwrCapCapW))
    else if id = 0x101 then s.pldm m 0x32 0 (leBytes 2 (s.rd F.pwrCapWindowMs))
    else s.pldm m 0x32 0x80)

-- SIDE_SIG (R527, R528)

/-- A SYNC_MARK pulse starts: 1 µs high. -/
def State.startPulse (s : State) : State :=
  let g := s.mgt
  ({ s with mgt := { g with pulseEnd := some (s.now + 1000) } }).refreshSide

/-- A MARK of a partition requests a pulse while SYNC_MARK names the partition (R528). -/
def State.markPulse (s : State) (p : Nat) : State :=
  if s.rd F.mgtSideCfgFunc = 2 ∧ s.rd F.mgtSideCfgPart = p then
    if s.mgt.pulseEnd.isNone && s.mgt.gapEnd.isNone then s.startPulse
    else if s.rd F.mgtSideStatusQueued < 16 then s.bump F.mgtSideStatusQueued 0
    else s.bumpSat F.mgtSideStatusMissed 0
  else s

/-- The function of SIDE_SIG changes (R528): a pulse in progress ends at once, and queued requests are dropped and counted. -/
def State.changeSide (s : State) (func : Nat) : State :=
  if s.rd F.mgtSideCfgFunc = func then s
  else
    let g := s.mgt
    let s := { s with mgt := { g with
      pulseEnd := none, gapEnd := if g.pulseEnd.isSome then some (s.now + 1000) else g.gapEnd } }
    let s := (s.bumpSat F.mgtSideStatusMissed 0 (s.rd F.mgtSideStatusQueued)).wr F.mgtSideStatusQueued 0 0
    s.wr F.mgtSideCfgFunc 0 func

/-- A write of SIDE_SIG's function with its level and partition (R527): the state after it, and whether it took effect. -/
def State.sideWrite (s : State) (func level part : Nat) : State × Bool :=
  let old := s.rd F.mgtSideCfgFunc
  let apply := fun (r : Nat) =>
    let s := (s.changeSide func).wr F.mgtSideCfgLevel 0 level
    ((s.wr F.mgtSideCfgPart 0 part).wr F.mgtSideCfgResult 0 r).refreshSide
  if func = 2 ∧ partCount s.mode ≤ part then (s.accessError, false)
  else if func = 1 then (apply (if old = 2 ∨ old = 3 then 2 else 0), true)
  else if func = 0 then (apply 0, true)
  else if old = 1 then (s.wr F.mgtSideCfgResult 0 1, false)
  else (apply 0, true)

/-- A PF write of MGT.SIDE_CFG (R527). A write of the upper half reaches no field. -/
def State.writeSide (s : State) (q : RegWriteReq) : State :=
  if q.covers F.mgtSideCfgFunc then
    (s.sideWrite (q.new F.mgtSideCfgFunc) (q.new F.mgtSideCfgLevel) (q.new F.mgtSideCfgPart)).1
  else s

/-- SIDE_CFG_WRITE (R527). -/
def execSideCfgWrite (a : Access) (s : State) : Host.Outcome State Fault Refusal := s.onWrite a [.mgtSideCfg] s.writeSide

/-- SET_STATE_EFFECTER_STATES (R527): effecter 0x0102 writes FUNC; a write that has no effect is answered with
ERROR_INVALID_DATA. -/
def execSetStateEffecterStates (m : Medium) (id state : Nat) (s : State) : Host.Outcome State Fault Refusal :=
  s.pldmRequest m 0x39 (fun s =>
    if id ≠ 0x102 then s.pldm m 0x39 0x80
    else if 3 < state then s.pldm m 0x39 2
    else
      let (s, ok) := s.sideWrite state (s.rd F.mgtSideCfgLevel) (s.rd F.mgtSideCfgPart)
      s.pldm m 0x39 (if ok then 0 else 2))

/-- SIDE_PULSE_END (R528): a pulse ends after 1 µs, and its low gap 1 µs later, when the next queued pulse starts. -/
def execSidePulseEnd (s : State) : Host.Outcome State Fault Refusal :=
  let g := s.mgt
  match g.pulseEnd, g.gapEnd with
  | some t, _ =>
    if t ≤ s.now then .next ({ s with mgt := { g with pulseEnd := none, gapEnd := some (t + 1000) } }).refreshSide
    else .next s
  | none, some t =>
    if t ≤ s.now then
      let s := { s with mgt := { g with gapEnd := none } }
      if 0 < s.rd F.mgtSideStatusQueued then
        .next (s.wr F.mgtSideStatusQueued 0 (s.rd F.mgtSideStatusQueued - 1)).startPulse
      else .next s
    else .next s
  | none, none => .next s

/-- SET_EVENT_RECEIVER (R523). -/
def execSetEventReceiver (m : Medium) (eid : Nat) (s : State) : Host.Outcome State Fault Refusal :=
  s.pldmRequest m 4 (fun s =>
    let g := s.mgt
    ({ s with mgt := { g with receiver := some (m, eid) } }).pldm m 4 0)

/-- GET_FRU_RECORD_TABLE_METADATA (R523). -/
def execGetFruRecordTableMetadata (m : Medium) (s : State) : Host.Outcome State Fault Refusal :=
  s.pldmRequest m 1 (fun s => s.pldm m 1 0 (leBytes 4 Config.fruBytes.length))

/-- GET_FRU_RECORD_TABLE (R523). -/
def execGetFruRecordTable (m : Medium) (s : State) : Host.Outcome State Fault Refusal :=
  s.pldmRequest m 2 (fun s => s.pldm m 2 0 Config.fruBytes)

-- firmware update (R524)

/-- A PLDM command of type 5: ERROR_UNSUPPORTED_PLDM_CMD (0x05) with BMC_FWU at 0. -/
def State.updateCommand (s : State) (m : Medium) (code : Nat) (f : State → State) : Host.Outcome State Fault Refusal :=
  s.pldmRequest m code (fun s => if s.rd F.mgtCfgBmcFwu = 0 then s.pldm m code 5 else f s)

/-- A command of an update in progress; NOT_IN_UPDATE_MODE (0x80) without one. -/
def State.inUpdate (s : State) (m : Medium) (code : Nat) (f : PldmUpdate → State → State) :
    Host.Outcome State Fault Refusal :=
  s.updateCommand m code (fun s =>
    match s.mgt.update with
    | some u => f u s
    | none => s.pldm m code 0x80)

def State.setUpdate (s : State) (u : Option PldmUpdate) : State :=
  let g := s.mgt
  { s with mgt := { g with update := u } }

/-- REQUEST_UPDATE (R524): STATE reads staging until the update ends; refused with ALREADY_IN_UPDATE_MODE (0x81) while STATE is
not idle or staged. -/
def execRequestUpdate (m : Medium) (s : State) : Host.Outcome State Fault Refusal :=
  s.updateCommand m 0x10 (fun s =>
    let st := s.rd F.fwuStatusState
    if st = 0 ∨ st = 2 then ((s.setUpdate (some { medium := m })).wr F.fwuStatusState 0 1).pldm m 0x10 0
    else s.pldm m 0x10 0x81)

/-- PASS_COMPONENT_TABLE (R524): each component is an image type, 0 to 5. -/
def execPassComponentTable (m : Medium) (types : List Nat) (s : State) : Host.Outcome State Fault Refusal :=
  s.inUpdate m 0x13 (fun u s =>
    if types.all (fun t => decide (t ≤ 5)) then (s.setUpdate (some { u with table := types })).pldm m 0x13 0
    else s.pldm m 0x13 2)

/-- UPDATE_COMPONENT (R524): one image is transferred, checked as R470 checks it, and its flash write begins; a failed check is
reported by VerifyComplete. -/
def execUpdateComponent (m : Medium) (ty : Nat) (image : List Byte) (digestOk signaturesOk : Bool) (s : State) :
    Host.Outcome State Fault Refusal :=
  s.inUpdate m 0x14 (fun u s =>
    if ty ∉ u.table ∨ u.current ≠ none then s.pldm m 0x14 2
    else
      let s := (s.pldm m 0x14 0).send (.message m 1 0x15 (leBytes 1 ty))
      let s := s.send (.message m 1 0x16 [0])
      let img := parseImage (fun o n => leNat ((image.drop o).take n)) ty image.length
      match s.stageCheck img digestOk signaturesOk with
      | .error e => (s.wr F.fwuStatusResult 0 e).send (.message m 1 0x17 (leBytes 1 e))
      | .ok i =>
        let s := s.send (.message m 1 0x17 [0])
        (s.setUpdate (some { u with current := some ty })).beginStaging i image.length true)

/-- ACTIVATE_FIRMWARE (R524): an activation of every present partition and every type transferred, ON_RESET with type 5. -/
def execActivateFirmware (m : Medium) (s : State) : Host.Outcome State Fault Refusal :=
  s.inUpdate m 0x1A (fun u s =>
    if u.current ≠ none then s.pldm m 0x1A 2
    else
      let types := (List.range 6).foldl (fun a t => if t ∈ u.done then a + 2 ^ t else a) 0
      let parts := 2 ^ partCount s.mode - 1
      let word : Nat := parts + types * 16 + (if 5 ∈ u.done then 1024 else 0)
      let s := (s.setUpdate none).wr F.fwuStatusState 0 s.fwuRest
      (s.activateRequest (BitVec.ofNat 64 word) true).pldm m 0x1A 0)

/-- GET_STATUS (R524): the update's state, or the activation's progress. -/
def execGetStatus (m : Medium) (s : State) : Host.Outcome State Fault Refusal :=
  s.updateCommand m 0x1B (fun s =>
    s.pldm m 0x1B 0 (leBytes 1 (s.rd F.fwuStatusState) ++ leBytes 1 (s.rd F.fwuStatusResult)))

/-- A component's flash write stops. -/
def State.dropStaging (s : State) : State :=
  match s.staging with
  | some g => if g.pldm then { s with staging := none } else s
  | none => s

/-- CANCEL_UPDATE_COMPONENT (R524). -/
def execCancelUpdateComponent (m : Medium) (s : State) : Host.Outcome State Fault Refusal :=
  s.inUpdate m 0x1C (fun u s => ((s.setUpdate (some { u with current := none })).dropStaging).pldm m 0x1C 0)

/-- CANCEL_UPDATE (R524): the update ends. -/
def execCancelUpdate (m : Medium) (s : State) : Host.Outcome State Fault Refusal :=
  s.inUpdate m 0x1D (fun _ s =>
    let s := (s.setUpdate none).dropStaging
    (s.wr F.fwuStatusState 0 s.fwuRest).pldm m 0x1D 0)

/-- RECOVERY_IMAGE (R506): the boot ROM of a region whose type 0 failed accepts one type 0 image over I3C; an image that
passes R504 runs, and flash is not written. -/
def execRecoveryImage (region : Nat) (image : List Byte) (digestOk signaturesOk : Bool) (s : State) :
    Host.Outcome State Fault Refusal :=
  let c := s.fwCores.getD (3 * region) {}
  if region < 4 ∧ s.rd F.secStatusBoot 0 region = 3 ∧ c.recovery = none then
    match parseImage (fun o n => leNat ((image.drop o).take n)) 0 image.length with
    | some i =>
      if digestOk && signaturesOk && s.slotsGood i && decide (s.flash.minSvn.getD 0 0 ≤ i.svn) then
        let s := { s with fwCores := s.fwCores.set (3 * region) { c with recovery := some i } }
        .next ((s.fwRun (3 * region)).serveWaits)
      else .next s
    | none => .next s
  else .next s

end Sys2Proof.Machine
end

