-- ==== Sys2Proof/Machine/Journal.lean ====
section
/-! DEFINITION. The sketchbook's journal (14_determinism_and_replay.md, R421 to R435): entries formed, buffered and written,
and the keyed and positional entries that a replay reads. -/

namespace Sys2Proof.Machine

def State.skb (s : State) (p : Nat) : SkbSt := s.skbs.getD p {}

def State.setSkb (s : State) (p : Nat) (k : SkbSt) : State := { s with skbs := s.skbs.set p k }

/-- The index of a partition's SKB block: its lowest region (R436). -/
def State.skbIdx (s : State) (p : Nat) : Nat := lowestRegion s.mode p

/-- The entry of SKB.CTX_n that names a context. -/
def State.skbEntry (s : State) (ctx : Nat) : Option Nat :=
  let b := s.skbIdx (partOfCtx s.mode ctx) * 16
  (List.range 16).find? (fun n => s.flag F.skbCtxValid (b + n) && decide (s.rd F.skbCtxContext (b + n) = ctx))

/-- Is a context being recorded? -/
def State.recording (s : State) (ctx : Nat) : Bool :=
  let p := partOfCtx s.mode ctx
  decide (s.rd F.skbStatusState (s.skbIdx p) = 1) && !(s.skb p).stopping && (s.skbEntry ctx).isSome

/-- Is a context being replayed, its inputs served from the journal (R432 to R435)? -/
def State.replaying (s : State) (ctx : Nat) : Bool :=
  let st := s.rd F.skbStatusState (s.skbIdx (partOfCtx s.mode ctx))
  (decide (st = 2) || decide (st = 3)) && (s.skbEntry ctx).isSome

/-- Has a context INTERNAL set (R421, R432)? -/
def State.skbInternal (s : State) (ctx : Nat) : Bool :=
  match s.skbEntry ctx with
  | some n => s.flag F.skbCtxInternal (s.skbIdx (partOfCtx s.mode ctx) * 16 + n)
  | none => false

/-- The padded size of a payload, and of an entry (R422). -/
def padSize (n : Nat) : Nat := (n + 31) / 32 * 32

def JEntry.size (e : JEntry) : Nat := 32 + padSize e.payload.length

/-- An entry's bytes (R422). -/
def JEntry.bytes (e : JEntry) : List Byte :=
  leBytes 1 e.kind ++ leBytes 1 (if e.digest then 1 else 0) ++ leBytes 2 e.ctx ++ leBytes 4 e.payload.length
    ++ leBytes 8 e.seq ++ leBytes 8 e.time ++ leBytes 8 e.source
    ++ e.payload ++ List.replicate (padSize e.payload.length - e.payload.length) 0

/-- Bytes waiting in the entry buffer. -/
def SkbSt.pending (k : SkbSt) : Nat := k.buf.foldl (fun a e => a + e.size) 0

/-- SKB.STATUS.BUF_OCC brought up to the buffer. -/
def State.skbOcc (s : State) (p : Nat) : State :=
  s.wr F.skbStatusBufOcc (s.skbIdx p) (min ((s.skb p).pending / 1024) 8192)

/-- Has the buffer room for entries of n bytes (R426)? -/
def State.skbRoom (s : State) (p n : Nat) : Bool := decide ((s.skb p).pending + n ≤ 0x800000)

/-- The range's size in bytes. -/
def State.skbRange (s : State) (p : Nat) : Nat := s.rd F.skbBaseSizeGib (s.skbIdx p) * 0x40000000

/-- The range's first address. -/
def State.skbBase (s : State) (p : Nat) : Nat := s.rd F.skbBaseBase (s.skbIdx p) * 0x40000000

/-- An entry put into the buffer with the next number. -/
def State.skbPush (s : State) (p kind : Nat) (digest : Bool) (ctx source : Nat) (payload : List Byte) : State :=
  let k := s.skb p
  let e : JEntry :=
    { kind := kind, digest := digest, ctx := ctx, seq := s.rd F.skbNextSeqSeq (s.skbIdx p) + k.buf.length, time := s.now,
      source := source, payload := payload }
  (s.setSkb p { k with buf := k.buf ++ [e] }).skbOcc p

/-- The END entry, with its reason and the number of entries before it (R423, R427); recording stops. -/
def State.skbEnd (s : State) (p reason : Nat) : State :=
  let n := s.rd F.skbNextSeqSeq (s.skbIdx p) + (s.skb p).buf.length
  let s := s.skbPush p 0x0D false 0xFFFF reason (leBytes 8 n)
  (s.setSkb p { s.skb p with stopping := false }).wr F.skbStatusState (s.skbIdx p) 0

/-- An entry of a recorded context's journal (R423). When it would not leave room for END in the range, END with reason 2 is
written instead and recording stops (R427). -/
def State.journal (s : State) (p kind ctx source : Nat) (payload : List Byte) (digest : Bool := false) : State :=
  let held := s.rd F.skbWrittenBytes (s.skbIdx p) + (s.skb p).pending
  if held + 32 + padSize payload.length + 64 ≤ s.skbRange p then s.skbPush p kind digest ctx source payload
  else (s.skbEnd p 2).wr F.skbStatusFull (s.skbIdx p) 1

/-- A context's offset within its partition, and a queue's. -/
def State.ctxOff (s : State) (ctx : Nat) : Nat := ctx - firstCtx s.mode (partOfCtx s.mode ctx)
def State.queueOff (s : State) (q : Nat) : Nat := q - firstQueue s.mode (partOfQueue s.mode q)

/-- An entry journalled for a context, where it is recorded. -/
def State.journalCtx (s : State) (ctx kind source : Nat) (payload : List Byte) (digest : Bool := false) : State :=
  if s.recording ctx then s.journal (partOfCtx s.mode ctx) kind (s.ctxOff ctx) source payload digest else s

-- the journal as a replay reads it

/-- An entry found in the journal: its place in it, and its fields. -/
structure JRead where
  off : Nat
  kind : Nat
  digest : Bool
  ctx : Nat
  len : Nat
  seq : Nat
  source : Nat
deriving DecidableEq, Repr

/-- The entry at an offset of the journal. -/
def State.jRead (s : State) (p off : Nat) : JRead :=
  let a := s.skbBase p + off
  let f := fun (o n : Nat) => leNat (s.readBytes (a + o) n)
  { off := off, kind := f 0 1, digest := decide (f 1 1 % 2 = 1), ctx := f 2 2, len := f 4 4, seq := f 8 8, source := f 24 8 }

def JRead.size (e : JRead) : Nat := 32 + padSize e.len

/-- An entry's payload. -/
def State.jPayload (s : State) (p : Nat) (e : JRead) : List Byte := s.readBytes (s.skbBase p + e.off + 32) e.len

/-- Is an entry's header malformed at a place (R431)? -/
def State.jBad (s : State) (p : Nat) (e : JRead) (expect limit : Nat) : Bool :=
  decide (e.kind = 0) || decide (0x0D < e.kind) || decide (e.seq ≠ expect) || decide (limit < e.off + e.size)
    || decide (2 ≤ leNat (s.readBytes (s.skbBase p + e.off + 1) 1))

/-- The entries of the journal from an offset, up to a number of them. -/
def State.jEntries (s : State) (p limit : Nat) : Nat → Nat → List JRead
  | 0, _ => []
  | n + 1, off =>
    if limit ≤ off then []
    else
      let e := s.jRead p off
      e :: s.jEntries p limit n (off + e.size)

/-- Every entry of a replaying partition's journal. -/
def State.jAll (s : State) (p : Nat) : List JRead :=
  let limit := s.rd F.skbReplayLenBytes (s.skbIdx p)
  s.jEntries p limit (limit / 32) 0

/-- Is an entry replayed by key (R423, R433)? -/
def JRead.keyed (e : JRead) : Bool := decide (e.kind = 5) || decide (e.kind = 7) || decide (e.kind = 8)

/-- The replay diverges (R434): no further positional entry is supplied, and keyed inputs are served live. -/
def State.diverge (s : State) (p cause seq : Nat) : State :=
  let i := s.skbIdx p
  let st := s.rd F.skbStatusState i
  if st = 2 ∨ st = 3 then
    ((s.wr F.skbStatusState i 4).wr F.skbStatusCause i cause).wr F.skbDivergeSeqSeq i seq
  else s

/-- A replay that has consumed every entry becomes off (R435): the queues fetch from their rings again. -/
def State.replayEnd (s : State) (p : Nat) : State :=
  let i := s.skbIdx p
  if s.rd F.skbReplayLenBytes i ≤ s.rd F.skbWrittenBytes i
      ∧ ((s.jAll p).filter JRead.keyed).all (fun e => decide (e.seq ∈ (s.skb p).used)) = true then
    s.wr F.skbStatusState i 0
  else s

/-- A keyed entry is consumed. -/
def State.consumeKeyed (s : State) (p seq : Nat) : State :=
  let k := s.skb p
  (s.setSkb p { k with used := k.used ++ [seq], lastUse := s.now, lastSeq := seq }).replayEnd p

/-- The keyed entry of a source, TAG and event number (R433). -/
def State.keyedEntry (s : State) (p source tag n : Nat) : Option JRead :=
  (s.jAll p).find? (fun e =>
    let key := s.readBytes (s.skbBase p + e.off + 32) 8
    e.keyed && decide (e.seq ∉ (s.skb p).used) && decide (e.source = source)
      && decide (leNat (key.take 4) = tag) && decide (leNat (key.drop 4) = n))

/-- The program key of a group (R423). -/
def programKey (wg group : Nat) : Nat := wg % 2 ^ 48 + group * 2 ^ 48

end Sys2Proof.Machine
end

