-- ==== Sys2Proof/Machine/Ports.lean ====
section
/-! DEFINITION. Ports, frames, and the packets of the two transports on their way (13_ethernet_and_collectives.md, R376 to R384,
R390, R396; 18_security_and_management.md, R517, R518). -/

namespace Sys2Proof.Machine

-- job slots (R381, R383)

/-- The index of a slot's registers: region × 4 + slot, for the lowest region of a partition. -/
def State.netIdx (s : State) (p slot : Nat) : Nat := lowestRegion s.mode p * 4 + slot

def State.job (s : State) (n : Nat) : JobSlot := s.slots.getD n {}
def State.setJob (s : State) (n : Nat) (j : JobSlot) : State := { s with slots := s.slots.set n j }
def State.slotState (s : State) (n : Nat) : Nat := s.rd F.netSlotState n
def State.netPart (s : State) (n : Nat) : Nat := partOfRegion s.mode (n / 4)
def State.netCtx (s : State) (n : Nat) : Nat := s.rd F.netSlotTableContext n
def State.ownRank (s : State) (n : Nat) : Nat := s.rd F.netSlotOwnRank n

/-- A rank's entry in a slot's range of the rank table. -/
def State.rankEntry (s : State) (n rank : Nat) : Option RankEntry :=
  if rank < s.rd F.netSlotTableCount n then s.ranks.get? (n / 4 * 262144 + s.rd F.netSlotTableBase n + rank) else none

/-- May traffic go to a rank: in the slot's range, not its own, with a valid entry (R383, R392)? -/
def State.rankGood (s : State) (n rank : Nat) : Bool :=
  decide (rank ≠ s.ownRank n) && (match s.rankEntry n rank with
    | some e => e.valid
    | none => false)

/-- The interface identifier of a job address (R380). -/
def jobIdent (job epoch rank : Nat) : Nat := job * 2 ^ 40 + epoch * 2 ^ 24 + rank

/-- Is a slot's traffic kept off the network, because its context is replayed with INTERNAL at 0 (R432)? -/
def State.netQuiet (s : State) (n : Nat) : Bool := s.replaying (s.netCtx n) && !s.skbInternal (s.netCtx n)

-- bytes of packets (R394, R385, R423)

/-- A length-prefixed byte string. -/
def prefixed (b : List Byte) : List Byte := leBytes 4 b.length ++ b

def CollShape.bytes (c : CollShape) : List Byte :=
  leBytes 1 c.subop ++ leBytes 4 c.elems ++ leBytes 1 c.fmt ++ leBytes 1 (if c.inLf then 1 else 0) ++ leBytes 4 c.scale
    ++ leBytes 4 c.first ++ leBytes 4 c.count ++ leBytes 4 c.stride

/-- A RoCE packet from its transport header on, as the journal keeps it: opcode, packet number, and its fields. -/
def roceBytes (psn : Nat) (op : RoceOp) : List Byte :=
  let head := fun (k : Nat) => leBytes 1 k ++ leBytes 3 psn
  match op with
  | .write last va data signal =>
    head (if last then 1 else 0) ++ leBytes 8 va ++ leBytes 1 (if signal.isSome then 1 else 0)
      ++ leBytes 8 ((signal.map Prod.fst).getD 0) ++ leBytes 8 ((signal.map Prod.snd).getD 0) ++ prefixed data
  | .readRequest va len => head 2 ++ leBytes 8 va ++ leBytes 4 len
  | .readResponse data => head 3 ++ prefixed data
  | .acknowledge => head 5
  | .nakSequence => head 6
  | .nakRnr => head 7
  | .nakAccess u => head (if u then 8 else 9)
  | .nakOperation => head 10
  | .cnp => head 11

/-- A Fletus packet as the journal keeps it: VERSION, TYPE, FLAGS, SEQ, ACK_SEQ and the fields of its message. -/
def fletusBytes (p : FletusPkt) : List Byte :=
  let head := fun (ty : Nat) => leBytes 1 1 ++ leBytes 1 ty
    ++ leBytes 2 ((if p.echo then 1 else 0) + (if p.restart then 2 else 0)) ++ leBytes 4 p.seq ++ leBytes 4 p.ackSeq
  match p.msg with
  | .data coll use shape first count native fmt payload ended =>
    head 1 ++ leBytes 4 coll ++ leBytes 1 use ++ shape.bytes ++ leBytes 8 first ++ leBytes 2 count
      ++ leBytes 1 (if native then 1 else 0) ++ leBytes 1 fmt ++ leBytes 1 (if ended.isSome then 1 else 0)
      ++ leBytes 1 (ended.getD 0) ++ prefixed payload
  | .cmd bytes => head 0x20 ++ prefixed bytes
  | .cmdDone rec => head 0x21 ++ prefixed rec
  | .record coll use shape payload => head 0x30 ++ leBytes 4 coll ++ leBytes 1 use ++ shape.bytes ++ prefixed payload
  | .ack => head 2
  | .nack => head 3
  | _ => head 0x10

def NetPkt.bytes : NetPkt → List Byte
  | .roce psn op => leBytes 1 0 ++ roceBytes psn op
  | .fletus p => leBytes 1 1 ++ fletusBytes p
  | _ => []

/-- A field of a byte string. -/
def fieldAt (b : List Byte) (o n : Nat) : Nat := leNat ((b.drop o).take n)

/-- A length-prefixed byte string at a place. -/
def prefixedAt (b : List Byte) (o : Nat) : List Byte := (b.drop (o + 4)).take (fieldAt b o 4)

def CollShape.parse (b : List Byte) : CollShape :=
  { subop := fieldAt b 0 1, elems := fieldAt b 1 4, fmt := fieldAt b 5 1, inLf := decide (fieldAt b 6 1 = 1),
    scale := fieldAt b 7 4, first := fieldAt b 11 4, count := fieldAt b 15 4, stride := fieldAt b 19 4 }

/-- The packet that a journal's bytes hold. -/
def NetPkt.parse (b : List Byte) : NetPkt :=
  match fieldAt b 0 1 with
  | 0 =>
    let psn := fieldAt b 2 3
    match fieldAt b 1 1 with
    | 0 | 1 =>
      .roce psn (.write (decide (fieldAt b 1 1 = 1)) (fieldAt b 5 8) (prefixedAt b 30)
        (if fieldAt b 13 1 = 1 then some (fieldAt b 14 8, fieldAt b 22 8) else none))
    | 2 => .roce psn (.readRequest (fieldAt b 5 8) (fieldAt b 13 4))
    | 3 => .roce psn (.readResponse (prefixedAt b 5))
    | _ => .foreign
  | 1 =>
    let seq := fieldAt b 5 4
    let ack := fieldAt b 9 4
    let mk := fun (m : FletusMsg) =>
      NetPkt.fletus { seq := seq, ackSeq := ack, echo := false, restart := decide (fieldAt b 3 2 / 2 % 2 = 1), msg := m }
    match fieldAt b 2 1 with
    | 1 =>
      mk (.data (fieldAt b 13 4) (fieldAt b 17 1) (CollShape.parse (b.drop 18)) (fieldAt b 41 8) (fieldAt b 49 2)
        (decide (fieldAt b 51 1 = 1)) (fieldAt b 52 1) (prefixedAt b 55)
        (if fieldAt b 53 1 = 1 then some (fieldAt b 54 1) else none))
    | 0x20 => mk (.cmd (prefixedAt b 13))
    | 0x21 => mk (.cmdDone (prefixedAt b 13))
    | 0x30 => mk (.record (fieldAt b 13 4) (fieldAt b 17 1) (CollShape.parse (b.drop 18)) (prefixedAt b 41))
    | _ => .foreign
  | _ => .foreign

/-- The payload bytes of a packet. -/
def NetPkt.payloadLen : NetPkt → Nat
  | .roce _ (.write _ _ d _) => d.length
  | .roce _ (.readResponse d) => d.length
  | .fletus p =>
    match p.msg with
    | .data _ _ _ _ _ _ _ b _ => b.length
    | .cmd b | .cmdDone b | .record _ _ _ b => b.length
    | .prepare _ => 16
    | .prepareAck _ | .armAck _ | .abortAck _ => 40
    | _ => 0
  | _ => 0

/-- The length of a frame on seam loopback: its headers, of at most 114 bytes, and its payload. -/
def NetPkt.frameLen (p : NetPkt) : Nat := 114 + p.payloadLen

/-- Does a packet belong to Fletus? -/
def NetPkt.isFletus : NetPkt → Bool
  | .fletus _ => true
  | _ => false

/-- Is a packet a launch message (R395)? -/
def NetPkt.isLaunch : NetPkt → Bool
  | .fletus p =>
    match p.msg with
    | .prepare _ | .prepareAck _ | .arm | .armAck _ | .abort | .abortAck _ | .notPrepared => true
    | _ => false
  | _ => false

-- the receive buffer (R379)

def State.port (s : State) (b : Nat) : PortSt := s.ports.getD b {}
def State.setPort (s : State) (b : Nat) (x : PortSt) : State := { s with ports := s.ports.set b x }

/-- The ports of a block that exist. -/
def State.subs (s : State) (b : Nat) : List Nat := (List.range 2).filter (fun sub => (s.portLanes b sub).isSome)

/-- Is a port up? -/
def State.portUp (s : State) (b sub : Nat) : Bool := s.flag (if sub = 0 then F.portStatusUpA else F.portStatusUpB) b

/-- Is a priority under PFC? -/
def State.pfcPrio (s : State) (b prio : Nat) : Bool := (s.rd F.portCfgPfcMask b).testBit prio

/-- The share of the 4 MiB buffer of each priority under PFC. -/
def State.rxShare (s : State) (b : Nat) : Nat :=
  let n := ((List.range 8).filter (s.pfcPrio b)).length
  if n = 0 then 0 else 0x400000 / n

/-- The bytes of a priority in a block's buffer. -/
def PortSt.occ (x : PortSt) (prio : Nat) : Nat := x.rx.foldl (fun a f => a + (if f.prio = prio then f.len else 0)) 0

/-- XOFF at three quarters of a share, XON below half (R379). -/
def State.settlePfc (s : State) (b prio : Nat) : State :=
  let x := s.port b
  let occ := x.occ prio
  let share := s.rxShare b
  if s.flag F.portCfgPfcEn b ∧ s.pfcPrio b prio = true ∧ prio ∉ x.xoff ∧ 3 * share ≤ 4 * occ then
    (s.subs b).foldl (fun (t : State) sub => t.send (.pfc b sub prio true)) (s.setPort b { x with xoff := x.xoff ++ [prio] })
  else if prio ∈ x.xoff ∧ 2 * occ < share then
    (s.subs b).foldl (fun (t : State) sub => t.send (.pfc b sub prio false))
      (s.setPort b { x with xoff := x.xoff.filter (fun p => decide (p ≠ prio)) })
  else s

-- acceptance (R382)

/-- What a frame's checks find: its slot's index and source rank, or the counter of the drop. -/
inductive Accept where
  | slot (n src : Nat)
  | drop (f : Fld)
deriving DecidableEq, Repr

/-- The UDP destination port of a transport in a slot's partition (R385, R394). -/
def State.udpPort (s : State) (n : Nat) (pkt : NetPkt) : Nat :=
  if pkt.isFletus then s.rd F.netCfgFletusPort (n / 4) else 4791

/-- The acceptance checks, in their order. A PREPARE for a slot that its hold time has made idle goes on to its own check, which it
fails (R408). -/
def State.acceptFrame (s : State) (b : Nat) (f : Frame) : Accept :=
  let p := partOfRegion s.mode (b / 2)
  let job := f.dstId / 2 ^ 40 % 2 ^ 24
  let epoch := f.dstId / 2 ^ 24 % 2 ^ 16
  let idx := (List.range 4).map (s.netIdx p)
  let late := match f.pkt with
    | .fletus q => (match q.msg with
      | .prepare _ => idx.find? (fun n =>
          (s.job n).timedOut && decide (s.slotState n = 0) && decide (s.rd F.netSlotJob n = job)
            && decide (s.rd F.netSlotEpoch n = epoch) && decide (s.ownRank n = f.dstId % 2 ^ 24))
      | _ => none)
    | _ => none
  if !f.ipv6 ∨ f.dstPrefix ≠ s.reg .portPrefix (2 * b + f.sub) ∨ f.pkt = .foreign then .drop F.portRxForeignCount
  else
    match idx.find? (fun n => decide (s.slotState n ≠ 0) && decide (s.rd F.netSlotJob n = job)) with
    | none => match late with
      | some n => .slot n (f.srcId % 2 ^ 20)
      | none => .drop F.portRxForeignCount
    | some n =>
      if s.rd F.netSlotEpoch n ≠ epoch then .drop F.portRxStaleCount
      else if f.dstId % 2 ^ 24 ≠ s.ownRank n then .drop F.portRxForeignCount
      else if f.srcId / 2 ^ 24 ≠ f.dstId / 2 ^ 24 ∨ f.srcId % 2 ^ 24 ≠ f.srcId % 2 ^ 20
          ∨ s.rd F.netSlotTableCount n ≤ f.srcId % 2 ^ 20 then .drop F.portRxForeignCount
      else if s.slotState n < 3 ∧ f.pkt.isLaunch = false then .drop F.portRxEarlyCount
      else if f.fields = false ∨ f.dport ≠ s.udpPort n f.pkt then .drop F.portRxForeignCount
      else .slot n (f.srcId % 2 ^ 20)

/-- A frame past its port's protection: the buffer check, the acceptance checks, and its place in the buffer (R379, R382). A
Neighbor Solicitation for an address of the port's /64 is answered (R380). -/
def State.bufferFrame (s : State) (b : Nat) (f : Frame) : State :=
  match f.pkt with
  | .solicit pre ident =>
    if f.ipv6 ∧ pre = s.reg .portPrefix (2 * b + f.sub) then s.send (.neighbor b f.sub ident (s.rd F.portMacMac (2 * b + f.sub)))
    else s.bump F.portRxForeignCount b
  | _ =>
    let x := s.port b
    if s.pfcPrio b f.prio = false ∨ s.rxShare b < x.occ f.prio + f.len then s.bump F.portRxOverflowCount b
    else
      match s.acceptFrame b f with
      | .drop c => s.bump c b
      | .slot n src =>
        let r : RxFrame := { part := s.netPart n, slot := n % 4, src := src, prio := f.prio, len := f.len, ce := f.ce, pkt := f.pkt }
        (s.setPort b { x with rx := x.rx ++ [r] }).settlePfc b f.prio

/-- MACsec on a port (R517, R518). -/
def State.macsecOn (s : State) (b sub : Nat) : Bool :=
  if sub = 0 then s.flag F.portSecCfgEnableA b else s.flag F.portSecCfgEnableB b && s.flag F.portStatusSplitInForce b

/-- The check of a received frame on a port with MACsec: strict validation and the replay window. -/
def State.macsecReceive (s : State) (b : Nat) (f : Frame) : Option State :=
  let k := (b * 2 + f.sub) * 4
  match f.tag with
  | none => none
  | some t =>
    match s.sec.rxSa.find? (fun e => decide (e.1 = k + t.an) && decide (e.2.sci = t.sci)) with
    | none => none
    | some (key, sa) =>
      if t.icv = false ∨ t.pn + s.rd F.portSecCfgReplayWindow b < sa.pn then none
      else
        let sa : MacsecSa := { sa with pn := max sa.pn (t.pn + 1) }
        let sec := s.sec
        let l := sec.rxSa.map (fun e => if e.1 = key ∧ e.2.sci = t.sci then (key, sa) else e)
        some { s with sec := { sec with rxSa := l } }

/-- FRAME_RECEIVE (R379, R382, R518): a frame at a port that is up. -/
def execFrameReceive (block : Nat) (f : Frame) (s : State) : Host.Outcome State Fault Refusal :=
  if block < 8 ∧ s.portUp block f.sub = true ∧ f.sub < 2 ∧ f.prio < 8 then
    if s.macsecOn block f.sub then
      match s.macsecReceive block f with
      | some s => .next (s.bufferFrame block f)
      | none => .next (s.bumpSat F.portSecDropsRx block)
    else .next (s.bufferFrame block f)
  else .next s

-- transmission (R378 to R380, R384, R518)

/-- The number of the last packet an SA's suite allows, and the number past which it warns (R518). -/
def MacsecSa.lastPn (a : MacsecSa) : Nat := if a.suite = 1 then 2 ^ 64 - 1 else 2 ^ 32 - 1
def MacsecSa.warnPn (a : MacsecSa) : Nat := if a.suite = 1 then 2 ^ 62 else 0xC0000000

/-- A frame leaves by a port: on the SA that TX_AN names, where MACsec is on. -/
def State.emit (s : State) (b : Nat) (f : TxFrame) : State :=
  if s.macsecOn b f.sub then
    let an := s.rd (if f.sub = 0 then F.portSecCfgTxAnA else F.portSecCfgTxAnB) b
    let k := (b * 2 + f.sub) * 4 + an
    match s.sec.txSa.get? k with
    | none => s.bumpSat F.portSecDropsTx b
    | some sa =>
      if sa.lastPn < sa.pn then
        (s.wr (if f.sub = 0 then F.portSecStatusPnExhaustedA else F.portSecStatusPnExhaustedB) b 1).bumpSat F.portSecDropsTx b
      else
        let sec := s.sec
        let s : State := { s with sec := { sec with txSa := sec.txSa.set k { sa with pn := sa.pn + 1 } } }
        let s : State :=
          if sa.warnPn < sa.pn then s.wr (if f.sub = 0 then F.portSecStatusPnWarnA else F.portSecStatusPnWarnB) b 1 else s
        s.send (.packet b f (some (an, sa.pn)))
  else s.send (.packet b f none)

/-- A packet handed to a port: discarded where the port is down, held while its priority is paused. -/
def State.handOver (s : State) (b : Nat) (f : TxFrame) : State :=
  if s.portUp b f.sub = false then s.bump F.portTxDownCount b
  else
    let x := s.port b
    if f.prio ∈ x.paused.getD f.sub [] then s.setPort b { x with held := x.held ++ [f] } else s.emit b f

/-- PFC_RECEIVE (R379): a priority under PFC is paused, or resumes and its held frames go out. -/
def execPfcReceive (block sub prio : Nat) (xoff : Bool) (s : State) : Host.Outcome State Fault Refusal :=
  if block < 8 ∧ sub < 2 ∧ s.portUp block sub = true ∧ s.flag F.portCfgPfcEn block = true ∧ prio < 8
      ∧ s.pfcPrio block prio = true then
    let x := s.port block
    let others := (x.paused.getD sub []).filter (fun p => decide (p ≠ prio))
    if xoff then .next (s.setPort block { x with paused := x.paused.set sub (others ++ [prio]) })
    else
      let mine := fun (f : TxFrame) => decide (f.sub = sub) && decide (f.prio = prio)
      let s : State := s.setPort block
        { x with paused := x.paused.set sub others, held := x.held.filter (fun f => !mine f) }
      .next ((x.held.filter mine).foldl (fun (t : State) f => t.handOver block f) s)
  else .next s

/-- The seams of the fixed route between two regions (R27). -/
def routeSeams (a b : Nat) : List Fld :=
  (if a % 2 ≠ b % 2 then [if a / 2 = 0 then F.devSeamStatusSeam0 else F.devSeamStatusSeam1] else [])
    ++ (if a / 2 ≠ b / 2 then [if b % 2 = 0 then F.devSeamStatusSeam2 else F.devSeamStatusSeam3] else [])

/-- The port, of another partition, that seam loopback reaches under a prefix from a port block (R384). -/
def State.loopPort (s : State) (n b : Nat) (pre : Word) : Option (Nat × Nat) :=
  if s.flag F.netCfgLoopbackEn (n / 4) then
    ((List.range 16).find? (fun k =>
      (s.portLanes (k / 2) (k % 2)).isSome && decide (s.reg .portPrefix k = pre)
        && decide (partOfRegion s.mode (k / 4) ≠ s.netPart n)
        && (routeSeams (b / 2) (k / 4)).all (fun f => decide (s.rd f = 1)))).map (fun k => (k / 2, k % 2))
  else none

/-- A packet of a slot to a rank: by seam loopback where it applies, else by the entry's port (R384). Nothing leaves for a slot that
a replay keeps off the network (R432). -/
def State.xmit (s : State) (n rank : Nat) (pkt : NetPkt) : State :=
  if s.netQuiet n then s
  else
    match s.rankEntry n rank with
    | none => s
    | some e =>
      match s.portNumber e.port with
      | none => s
      | some (b, sub) =>
        let own := s.ownRank n
        let job := s.rd F.netSlotJob n
        let epoch := s.rd F.netSlotEpoch n
        let fl := pkt.isFletus
        let f : TxFrame :=
          { sub := sub, pre := e.pre, nextHop := e.nextHop, src := jobIdent job epoch own, dst := jobIdent job epoch rank,
            sport := 0xC000 + (own ^^^ rank) % 16384, dport := s.udpPort n pkt,
            dscp := s.rd (if fl then F.portCfgDscpFletus else F.portCfgDscpRoce) b,
            prio := s.rd (if fl then F.portCfgPrioFletus else F.portCfgPrioRoce) b, pkt := pkt }
        match s.loopPort n b e.pre with
        | some (b', sub') =>
          s.bufferFrame b'
            { sub := sub', ipv6 := true, dstPrefix := e.pre, dstId := f.dst, srcId := f.src, dport := f.dport, prio := f.prio, len := pkt.frameLen,
              ce := false, fields := true, pkt := pkt }
        | none => s.handOver b f

-- flows (R386, R389, R390, R396)

def State.flow (s : State) (n rank : Nat) (fletus : Bool) : Flow :=
  let j := s.job n
  (if fletus then j.streams else j.conns).getD rank {}

def State.setFlow (s : State) (n rank : Nat) (fletus : Bool) (f : Flow) : State :=
  let j := s.job n
  s.setJob n (if fletus then { j with streams := j.streams.set rank f } else { j with conns := j.conns.set rank f })

/-- A flow's retransmission timeout in nanoseconds. -/
def State.rtoOf (s : State) (n : Nat) (f : Flow) : Nat := f.rto.getD (s.rd F.netCfgRtoUs (n / 4) * 1000)

/-- How far a number lies ahead of another, modulo m. -/
def seqAhead (m a b : Nat) : Nat := (b + m - a % m) % m

/-- Is a number below another, by less than half the modulus? -/
def seqBefore (m a b : Nat) : Bool := decide (seqAhead m a b ≠ 0) && decide (seqAhead m a b < m / 2)

/-- A RoCE packet to a rank. -/
def State.sendRoce (s : State) (n rank psn : Nat) (op : RoceOp) : State := s.xmit n rank (.roce psn op)

/-- A Fletus packet to a rank; every packet carries the next sequence number expected from the peer. -/
def State.sendFletus (s : State) (n rank seq : Nat) (restart echo : Bool) (msg : FletusMsg) : State :=
  s.xmit n rank
    (.fletus { seq := seq, ackSeq := (s.flow n rank true).expect, echo := echo, restart := restart, msg := msg })

/-- A launch message: sequence 0 (R396). -/
def State.sendLaunch (s : State) (n rank : Nat) (msg : FletusMsg) : State := s.sendFletus n rank 0 false false msg

/-- A message on a rank's stream: numbered, sent, and kept until acknowledged; in a quiet slot it counts as acknowledged (R432). The
packet carries the acknowledgement of what the stream holds. -/
def State.streamSend (s : State) (n rank : Nat) (msg : FletusMsg) (q cmd : Nat) : State :=
  let f := s.flow n rank true
  let restart := f.restart
  let pkt : NetPkt := .fletus { seq := f.next, ackSeq := f.expect, echo := false, restart := restart, msg := msg }
  let f' : Flow :=
    { f with next := (f.next + 1) % 2 ^ 32, restart := false, rxHeld := 0, lastSend := if f.unacked = [] then s.now else f.lastSend,
             unacked := if s.netQuiet n then f.unacked else f.unacked ++ [{ seq := f.next, pkt := pkt, q := q, cmd := cmd }] }
  (s.setFlow n rank true f').xmit n rank pkt

/-- A message on the streams of several ranks. -/
def State.streamAll (s : State) (n : Nat) (ranks : List Nat) (msg : FletusMsg) (q cmd : Nat) : State :=
  ranks.foldl (fun (t : State) r => t.streamSend n r msg q cmd) s

/-- A remote command's record (R351, R403): on the partition's resident operator queue, its ring fields zero. -/
def State.remoteRecord (s : State) (n : Nat) (tag status fault result : Nat) : List Byte :=
  leBytes 4 tag ++ leBytes 2 (firstQueue s.mode (s.netPart n)) ++ leBytes 1 status ++ leBytes 1 fault ++ leBytes 16 result ++ leBytes 8 0

/-- A packet of a recorded slot from a rank outside the recording is journalled (R421, R423). -/
def State.journalPacket (s : State) (f : RxFrame) : State :=
  let ctx := s.netCtx (s.netIdx f.part f.slot)
  if s.skbInternal ctx then s else s.journalCtx ctx 6 (f.src + f.slot * 2 ^ 20) f.pkt.bytes

/-- The first frame of a block's buffer that a packet command takes: of its kind, with no earlier frame of the same slot, source and
transport. -/
def takeFrame (kind : NetPkt → Bool) : List RxFrame → List RxFrame → Option RxFrame
  | _, [] => none
  | before, f :: l =>
    if kind f.pkt && before.all (fun g =>
        !(decide (g.part = f.part) && decide (g.slot = f.slot) && decide (g.src = f.src) && decide (g.pkt.isFletus = f.pkt.isFletus)))
    then some f
    else takeFrame kind (before ++ [f]) l

/-- A list without its first element equal to a given one. -/
def dropOne (f : RxFrame) : List RxFrame → List RxFrame
  | [] => []
  | g :: l => if g = f then l else g :: dropOne f l

/-- A frame leaves a block's buffer. -/
def State.dropFrame (s : State) (b : Nat) (x : RxFrame) : State :=
  let p := s.port b
  (s.setPort b { p with rx := dropOne x p.rx }).settlePfc b x.prio

/-- A packet command of a block: its transport acts on the frame, and says whether the frame is done with or stays. A frame whose
slot has become idle since is dropped as foreign; frames wait for room in the journal (R426). -/
def State.onPacket (s : State) (b : Nat) (kind : NetPkt → Bool) (f : State → Nat → RxFrame → State × Bool) :
    Host.Outcome State Fault Refusal :=
  match takeFrame kind [] (s.port b).rx with
  | none => .next s
  | some x =>
    let n := s.netIdx x.part x.slot
    if s.slotState n = 0 ∧ x.pkt.isLaunch = false then .next ((s.dropFrame b x).bump F.portRxForeignCount b)
    else if s.skbRoom x.part 0 = false then .next s
    else
      match f s n x with
      | (t, true) => .next (t.dropFrame b x)
      | (t, false) => .next t

/-- The congestion answer to a CE-marked packet (R390): one CNP, or one Fletus ACK with ECN_ECHO, per flow in 50 µs. -/
def State.echoCe (s : State) (n : Nat) (x : RxFrame) : State :=
  let fl := x.pkt.isFletus
  let f := s.flow n x.src fl
  if x.ce = false then s
  else if f.lastEcho.any (fun t => decide (s.now < t + 50000)) then s
  else
    let s : State := s.setFlow n x.src fl { f with lastEcho := some s.now }
    if fl then s.sendFletus n x.src 0 false true .ack else s.sendRoce n x.src 0 .cnp

/-- A congestion notice (R390): the rate is halved, at most once in 50 µs. -/
def Flow.notice (f : Flow) (now : Nat) : Flow :=
  if f.lastCut.any (fun t => decide (now < t + 50000)) then { f with lastRaise := now }
  else { f with rate := f.rate / 2, lastCut := some now, lastRaise := now }

/-- RATE_RECOVERY (R390): 55 µs after the last notice or raise, the rate rises by 5 % of the port rate. -/
def execRateRecovery (part slot rank : Nat) (fletus : Bool) (s : State) : Host.Outcome State Fault Refusal :=
  let n := s.netIdx part slot
  let f := s.flow n rank fletus
  if part < partCount s.mode ∧ slot < 4 ∧ f.rate < 1000 ∧ f.lastRaise + 55000 ≤ s.now then
    .next (s.setFlow n rank fletus { f with rate := min 1000 (f.rate + 50), lastRaise := s.now })
  else .next s

/-- ACK_COALESCE_TIMEOUT (R385, R396): 4 µs after the first packet that is held unacknowledged, it is acknowledged. -/
def execAckCoalesceTimeout (part slot rank : Nat) (fletus : Bool) (s : State) : Host.Outcome State Fault Refusal :=
  let n := s.netIdx part slot
  let f := s.flow n rank fletus
  if part < partCount s.mode ∧ slot < 4 ∧ f.rxHeld ≠ 0 ∧ f.rxSince + 4000 ≤ s.now then
    let s : State := s.setFlow n rank fletus { f with rxHeld := 0 }
    .next (if fletus then s.sendFletus n rank 0 false false .ack
      else s.sendRoce n rank ((f.expect + 2 ^ 24 - 1) % 2 ^ 24) .acknowledge)
  else .next s

/-- A packet received in order is held for acknowledgement; the sixteenth is acknowledged at once (R385, R396). -/
def State.holdAck (s : State) (n rank : Nat) (fletus : Bool) : State :=
  let f := s.flow n rank fletus
  if 15 ≤ f.rxHeld then
    let s : State := s.setFlow n rank fletus { f with rxHeld := 0 }
    if fletus then s.sendFletus n rank 0 false false .ack
    else s.sendRoce n rank ((f.expect + 2 ^ 24 - 1) % 2 ^ 24) .acknowledge
  else
    s.setFlow n rank fletus { f with rxHeld := f.rxHeld + 1, rxSince := if f.rxHeld = 0 then s.now else f.rxSince }

/-- Every unacknowledged packet of a flow sent again, oldest first. -/
def State.resend (s : State) (n rank : Nat) (fletus : Bool) : State :=
  let f := s.flow n rank fletus
  let s : State := s.setFlow n rank fletus { f with lastSend := s.now }
  f.unacked.foldl (fun (t : State) x => t.xmit n rank x.pkt) s

/-- An expiry of a flow's retransmission timeout (R389): what is unacknowledged is sent again and the timeout doubles, up to 5 ms. -/
def State.expire (s : State) (n rank : Nat) (fletus : Bool) : State :=
  let f := s.flow n rank fletus
  (s.setFlow n rank fletus { f with expiries := f.expiries + 1, rto := some (min 5000000 (2 * s.rtoOf n f)) }).resend n rank fletus

end Sys2Proof.Machine
end

