-- ==== Sys2Proof/Machine/Queue.lean ====
section
/-! DEFINITION. Queue pairs and their commands (12_host_coupling.md, R347 to R353): lookup, status and end of a command. -/

namespace Sys2Proof.Machine

def State.queue (s : State) (q : Nat) : QueueSt := s.queues.getD q {}

/-- The state with a queue's state replaced, and INFLIGHT brought up to it. -/
def State.setQueue (s : State) (q : Nat) (x : QueueSt) : State :=
  let s : State := { s with queues := s.queues.set q x }
  if q < 32768 then s.wr F.qpStatusInflight q x.cmds.length else s

/-- A queue's context and the function that owns it (R347); remote commands run under their slot's network context (R403). -/
def State.queueCtx (s : State) (q : Nat) : Nat :=
  if q < 32768 then s.rd F.qpCfgContext q else s.rd F.netSlotTableContext (q - 32768)
def State.queueFn (s : State) (q : Nat) : Nat := s.rd F.ctxStateFunction (s.queueCtx q)

/-- A command of a queue by its number. -/
def State.cmd? (s : State) (q seq : Nat) : Option Cmd := (s.queue q).cmds.find? (fun c => decide (c.seq = seq))

/-- A command changed by a function. -/
def State.updCmd (s : State) (q seq : Nat) (f : Cmd → Cmd) : State :=
  let x := s.queue q
  s.setQueue q { x with cmds := x.cmds.map (fun c => if c.seq = seq then f c else c) }

/-- A command ends with a status, a result and a fault code; its record is still to be written. -/
def State.endCmd (s : State) (q seq status : Nat) (result : Nat := 0) (fault : Nat := 0) : State :=
  s.updCmd q seq (fun c =>
    if c.phase = .done then c
    else { c with phase := .done, status := status, result := result, faultCode := fault, waiting := false,
                  hostWait := false, stalled := none })

/-- A field of a command's header entry. -/
def Cmd.field (c : Cmd) (off n : Nat) : Nat := leNat ((c.header.drop off).take n)

def Cmd.opcode (c : Cmd) : Nat := c.field 0 1
def Cmd.flags (c : Cmd) : Nat := c.field 1 1
def Cmd.tag (c : Cmd) : Nat := c.field 4 4

/-- Are all earlier commands of the queue recorded? A recorded command leaves the list. -/
def State.earlierDone (s : State) (q seq : Nat) : Bool := (s.queue q).cmds.all (fun c => decide (seq ≤ c.seq))

/-- Has every earlier command of the queue started (R350, start order)? -/
def State.earlierStarted (s : State) (q seq : Nat) : Bool :=
  (s.queue q).cmds.all (fun c => decide (seq ≤ c.seq) || decide (c.phase ≠ .accepted))

/-- A waiting FENCE or CNT_WAIT among the earlier commands holds back later ones (R350, R357, R358). -/
def State.earlierBlocks (s : State) (q seq : Nat) : Bool :=
  (s.queue q).cmds.any (fun c => decide (c.seq < seq) && (decide (c.opcode = 1) || decide (c.opcode = 4)))

/-- May a command start (R349, R350)? -/
def State.mayStart (s : State) (q seq : Nat) : Bool :=
  match s.cmd? q seq with
  | some c =>
    decide (c.phase = .accepted) && s.partLive (partOfQueue s.mode q) && s.earlierStarted q seq && !s.earlierBlocks q seq
      && (!c.flags.testBit 0 || s.earlierDone q seq)
  | none => false

end Sys2Proof.Machine
end

