-- ==== Sys2Proof/Machine/Tasks.lean ====
section
/-! DEFINITION. Groups, barriers, faults of a program and the end of workgroups and tasks (05_kwaok_programming_model.md and
07_thread_groups.md: R124, R143 to R150, R213 to R219). -/

namespace Sys2Proof.Machine

/-- The mask of a list of lanes. -/
def laneMask (l : List Nat) : Nat := l.foldl (fun m i => m ||| 2 ^ i) 0

def Group.stat (g : Group) (lane : Nat) : TStat := g.stats.getD lane .exited
def Group.pc (g : Group) (lane : Nat) : Word := g.pcs.getD lane 0

/-- A group's live lanes: those that have not ended (R205). -/
def Group.live (g : Group) : List Nat := (List.range 32).filter (fun i => decide (g.stat i ≠ .exited))

/-- The state of a list of lanes set. -/
def Group.setStat (g : Group) (lanes : List Nat) (t : TStat) : Group :=
  { g with stats := (List.range 32).map (fun i => if i ∈ lanes then t else g.stat i) }

/-- The program counter of a list of lanes set by a function of the lane. -/
def Group.setPc (g : Group) (lanes : List Nat) (f : Nat → Word) : Group :=
  { g with pcs := (List.range 32).map (fun i => if i ∈ lanes then f i else g.pc i) }

/-- Has a group nothing left to run: every thread ended, or the group faulted or stopped? -/
def Group.ended (g : Group) : Bool :=
  match g.gstate with
  | .live => g.live.isEmpty
  | .held => false
  | _ => true

/-- The barrier at which a lane waits. -/
def TStat.barrier? : TStat → Option Nat
  | .barrier b _ => some b
  | _ => none

/-- Is a thread parked: waiting in bar.sync or bar.wait (R218)? -/
def TStat.parked : TStat → Bool
  | .barrier _ .rearriveArrive => false
  | .barrier _ _ => true
  | _ => false

-- tasks

def State.task? (s : State) (t : Nat) : Option Task := s.tasks.get? t

def State.updTask (s : State) (t : Nat) (f : Task → Task) : State := { s with tasks := s.tasks.adjust t f }

/-- The task a core runs: the one it has begun and that has not ended. -/
def State.running? (s : State) (c : Nat) : Option (Nat × Task) :=
  match (s.core c).task with
  | none => none
  | some t =>
    match s.task? t with
    | some k => if k.phase = .ended then none else some (t, k)
    | none => none

/-- The workgroups of a task's grid. -/
def LaunchDesc.total (d : LaunchDesc) : Nat := d.gridX * d.gridY * d.gridZ

/-- The command of a task: its queue and number. -/
def State.taskCmd (s : State) (t : Nat) : Option (Nat × Nat) :=
  (s.task? t).bind (fun k => ((s.queue k.queue).cmds.find? (fun c => decide (c.task = some t))).map (fun c => (k.queue, c.seq)))

/-- The groups of a core in a workgroup slot. -/
def CoreSt.slotGroups (x : CoreSt) (slot : Nat) : NMap Group := x.groups.filter (fun e => decide (e.2.slot = slot))

/-- A context's state in CTX.STATE once its tasks have changed: running while a task of it has started, holding with a held
group, otherwise idle; free stays free and a context switched out stays so. -/
def State.refreshCtx (s : State) (ctx : Nat) : State :=
  let live := s.tasks.filter (fun e => decide (e.2.ctx = ctx ∧ e.2.phase = .running))
  let st := s.rd F.ctxStateState ctx
  if live = [] then
    if st = 2 ∨ st = 4 then s.wr F.ctxStateState ctx 1 else s
  else if live.any (fun e => decide (0 < e.2.heldGroups)) then s.wr F.ctxStateState ctx 4
  else s.wr F.ctxStateState ctx 2

/-- The key under which a core's saved section, or the counters kept between tasks, of a context stands. -/
def savedKey (ctx core : Nat) : Nat := ctx * 2048 + core

/-- The address of a core's section of a context's save area (R154). -/
def State.saveSection (s : State) (ctx core : Nat) : Nat :=
  let first := lowestRegion s.mode (partOfCtx s.mode ctx) * 288
  s.rd F.ctxSaveBaseBase ctx * 0x100000 + (1 + (core - first)) * 0x100000

/-- The counters of a core as the 384 bytes of the save area (R154). -/
def CoreSt.ctrBytes (x : CoreSt) : List Byte := (List.range 48).flatMap (fun i => leBytes 8 (x.ctrs.getD i 0))

/-- The engines of a core that wait on translation fault records, cancelled (R336): held-back accesses, instruction fetches, the
first descriptor of a stalled mover and a stalled drain. -/
def State.cancelWaits (s : State) (c : Nat) : State :=
  let x : CoreSt := s.core c
  let r := regionOfCore c
  let recs := x.txns.filterMap (fun t => match t.kind with
      | .stalled _ n => n
      | _ => none)
    ++ x.groups.filterMap (fun e => e.2.fetchWait.map (fun w => w.seq)) ++ x.tmStall.map (fun e => e.2.seq)
    ++ (match x.mxStall with
      | some w => [w.seq]
      | none => [])
  let s : State := recs.foldl (fun (u : State) n => u.xfrCancel r n) s
  let tm0 := if x.tmStall.has 0 then x.tm0.drop 1 else x.tm0
  let tm1 := if x.tmStall.has 1 then x.tm1.drop 1 else x.tm1
  let mxq := if x.mxStall.isSome then x.mxq.drop 1 else x.mxq
  let txns := x.txns.filter (fun t => match t.kind with
    | .stalled _ _ => false
    | _ => true)
  s.setCore c { x with txns := txns, tm0 := tm0, tm1 := tm1, mxq := mxq, tmStall := [], mxStall := none,
                       groups := x.groups.map (fun e => (e.1, { e.2 with fetchWait := none })) }

/-- A task's end at one core: its groups go, its pending adds and binding go; in saved mode its counters are kept (R237). A task
that is stopped cancels its engines that wait on fault records (R336). -/
def State.leaveCore (s : State) (t : Nat) (k : Task) (cancel : Bool) (c : Nat) : State :=
  let x : CoreSt := s.core c
  let s : State :=
    if x.task = some t ∧ k.saveValid = true ∧ k.clearMode = false then
      let s : State := { s with saved := s.saved.set (savedKey k.ctx c) { core := { ctrs := x.ctrs } } }
      s.writeMem (s.saveSection k.ctx c + 0x800) x.ctrBytes
    else s
  let s : State := if x.task = some t ∧ cancel = true then s.cancelWaits c else s
  let x : CoreSt := s.core c
  let x : CoreSt := { x with bound := x.bound.filter (fun b => decide (b ≠ t)), pend := x.pend.del t }
  let x := if x.task = some t then
      { x with groups := [], slots := [], ctrs := [], faults := [], slm := [], slmPoison := [], idleSince := none,
               flights := x.flights.filter (fun f => match f.op with
                 | .add _ => true
                 | _ => false),
               txns := x.txns.filter (fun y => match y.kind with
                 | .load .. => false
                 | .host .. | .flush => false
                 | _ => true) }
    else x
  s.setCore c x

/-- A task ends (R124, R142): every core leaves it, and its command ends with the status, the reported fault's code and the
timebase as its result (R150, R358). The reported record's flag is set in the ring (R147). -/
def State.endTask (s : State) (t status : Nat) (cancel : Bool := true) : State :=
  match s.task? t with
  | none => s
  | some k =>
    if k.phase = .ended then s
    else
      let s : State := k.cores.foldl (fun (u : State) c => u.leaveCore t k cancel c) s
      let code : Nat := (k.reported.map (fun (f : FaultKey) => f.code)).getD 0
      let s : State := match k.reported with
        | some f =>
          let size := 2 ^ s.rd F.ctxFaultRingLog2Records k.ctx
          let base := s.rd F.ctxFaultRingBase k.ctx * 4096
          let w := s.rd F.ctxFaultStatusWriteCount k.ctx
          if (w + 2 ^ 32 - f.record) % 2 ^ 32 ≤ size ∧ s.rangeInTiers k.part base (64 * size) = true then
            let a := base + 64 * (f.record % size) + 1
            s.writeMem a [s.readByte a ||| 2]
          else s
        | none => s
      let cmd := s.taskCmd t
      let s : State := s.updTask t (fun y => { y with phase := .ended })
      let s : State := match cmd with
        | some (q, seq) => s.endCmd q seq status s.now code
        | none => s
      let s : State := s.refreshCtx k.ctx
      let key := fun (e : JRead) => decide (leNat ((s.readBytes (s.skbBase k.part + e.off + 32) 4)) = k.tag)
      if s.replaying k.ctx = true
          ∧ (s.jAll k.part).any (fun e => e.keyed && key e && decide (e.seq ∉ (s.skb k.part).used)) = true then
        s.diverge k.part 6 (s.skb k.part).lastSeq
      else s

/-- The status with which a task ends that runs to its end. -/
def Task.endStatus (k : Task) : Nat := if k.timedOut then 0x31 else if k.faulted then 0x30 else 0

/-- Does something of a group still have to complete on the core: an access, or a fault to be taken? -/
def CoreSt.pendingAt (x : CoreSt) (pos : Nat) : Bool :=
  x.txns.any (fun t => decide (t.pos = pos)) || x.faults.any (fun f => decide (f.pos = pos))
    || x.mxq.any (fun e => decide (e.pos = pos))

/-- A workgroup whose groups have all ended, with nothing outstanding, leaves its slot; the last workgroup of the grid ends
the task (R124). -/
def State.settleWg (s : State) (c slot : Nat) : State :=
  let x := s.core c
  match s.running? c, x.slots.get? slot with
  | some (t, k), some _ =>
    let gs := x.slotGroups slot
    if gs.all (fun e => e.2.ended && !x.pendingAt e.1) then
      let s : State := s.setCore c { x with groups := x.groups.filter (fun e => decide (e.2.slot ≠ slot)), slots := x.slots.del slot }
      let s : State := s.updTask t (fun y => { y with endedWgs := y.endedWgs + 1 })
      if k.endedWgs + 1 = k.desc.total then s.endTask t k.endStatus false else s
    else s
  | _, _ => s

-- barriers (R213 to R219)

/-- Has every live thread of a workgroup arrived at a barrier in its current phase? A held group's threads have not. -/
def phaseFull (gs : NMap Group) (b : Nat) : Bool :=
  gs.any (fun e => decide (e.2.live ≠ []))
    && gs.all (fun e => e.2.live.all (fun i => ((e.2.arr.getD b 0).testBit i)))

/-- A group at the completion of a barrier's phase: its waiting threads are released, and those that met a phase already
holding their arrival arrive in the new one (R213, R214). -/
def Group.release (g : Group) (b : Nat) : Group :=
  let wait := (List.range 32).filter (fun i => decide ((g.stat i).barrier? = some b))
  let re := wait.filter (fun i => decide (g.stat i ≠ .barrier b .goOn))
  let syncs := wait.filter (fun i => decide (g.stat i = .barrier b .rearriveSync))
  let go := wait.filter (fun i => decide (i ∉ syncs))
  let g := { g with arr := g.arr.put 0 b (laneMask re) }
  ((g.setStat go .run).setPc go (fun i => g.pc i + 8)).setStat syncs (.barrier b .goOn)

/-- Barriers of a workgroup settled: every full phase completes, at most n times over. -/
def State.settleBarriers (s : State) (c slot : Nat) : Nat → State
  | 0 => s
  | n + 1 =>
    let x := s.core c
    let gs := x.slotGroups slot
    match (List.range 16).find? (fun b => phaseFull gs b) with
    | none => s
    | some b =>
      let groups := x.groups.map (fun e => if e.2.slot = slot then (e.1, e.2.release b) else e)
      let slots := x.slots.adjust slot (fun w => { w with phases := w.phases ^^^ 2 ^ b })
      (s.setCore c { x with groups := groups, slots := slots }).settleBarriers c slot n

/-- The group condition of a barrier deadlock (R218). -/
def Group.deadlocked (g : Group) : Bool :=
  decide (g.gstate = .live) && decide (g.live ≠ [])
    && g.live.all (fun i =>
      match g.stat i with
      | .barrier b w => decide (w ≠ .rearriveArrive) && g.live.any (fun j => !(g.arr.getD b 0).testBit j)
      | _ => false)

/-- The workgroup condition of a barrier deadlock (R218). -/
def wgDeadlocked (gs : NMap Group) : Bool :=
  gs.any (fun e => decide (e.2.live ≠ [])) && gs.all (fun e => decide (e.2.gstate ≠ .held))
    && gs.all (fun e => e.2.live.all (fun i => (e.2.stat i).parked))

-- faults (R144 to R150)

/-- A fault record written into the context's ring (R147, R148), and its number; none where it is dropped. -/
def State.writeFault (s : State) (k : Task) (c : Nat) (wg group : Nat) (f : PendFault) (deferred held : Bool) :
    State × Option Nat :=
  let size := 2 ^ s.rd F.ctxFaultRingLog2Records k.ctx
  let w := s.rd F.ctxFaultStatusWriteCount k.ctx
  if (w + 2 ^ 32 - s.rd F.ctxFaultReadReadCount k.ctx) % 2 ^ 32 = size then (s.bumpSat F.ctxFaultStatusDropped k.ctx, none)
  else
    let base := s.rd F.ctxFaultRingBase k.ctx * 4096
    let flags := (if deferred then 1 else 0) + (if held then 4 else 0)
    let bytes := leBytes 1 f.code ++ leBytes 1 flags ++ leBytes 2 f.detail ++ leBytes 2 c ++ leBytes 1 group ++ leBytes 1 0
      ++ leBytes 4 f.lanes ++ leBytes 2 k.queue ++ leBytes 2 0 ++ leBytes 8 wg ++ leBytes 8 f.pc.toNat
      ++ leBytes 8 f.addr.toNat ++ leBytes 8 s.now ++ leBytes 4 k.tag ++ leBytes 12 0
    let s : State := if s.rangeInTiers k.part base (64 * size) then s.writeMem (base + 64 * (w % size)) bytes else s
    (s.bump F.ctxFaultStatusWriteCount k.ctx, some w)

/-- Is a fault key before another (R150)? -/
def FaultKey.before (a b : FaultKey) : Bool := decide (a.wg < b.wg) || (decide (a.wg = b.wg) && decide (a.group < b.group))

/-- Waits and claims of a group withdrawn (R253). -/
def CoreSt.withdraw (x : CoreSt) (pos : Nat) : CoreSt :=
  { x with flights := x.flights.filter (fun f => decide (f.pos ≠ pos) || (match f.op with
      | .add _ => true
      | _ => false)) }

/-- A group's threads cease to be live, as under RUNOUT (R149, R216). -/
def State.runOut (s : State) (c pos : Nat) : State :=
  let x := s.core c
  match x.groups.get? pos with
  | none => s
  | some g =>
    let g' := { (g.setStat (List.range 32) .exited) with gstate := .faulted, wait := none, fence := none, stall := false }
    let s : State := s.setCore c { (x.withdraw pos) with groups := x.groups.set pos g' }
    (s.settleBarriers c g.slot 4).settleWg c g.slot

/-- Every group of a task stops, and the task ends (R143, R149, R350). -/
def State.stopTask (s : State) (t status : Nat) : State := s.endTask t status

/-- The record of a group's fault (R147, R148, R150): it is written, and the task is marked faulted. A group that has already
stopped records nothing more (R146). -/
def State.recordFault (s : State) (c pos : Nat) (f : PendFault) (deferred : Bool) : State :=
  let x := s.core c
  match s.running? c, x.groups.get? pos with
  | some (t, k), some g =>
    if g.gstate ≠ .live then s
    else
      let wg := ((x.slots.get? g.slot).map (fun w => w.linear)).getD 0
      let hold := decide (k.policy = 2) && decide (f.code ≠ 0x20)
      let (s, rec) := s.writeFault k c wg g.num f deferred hold
      s.updTask t (fun y =>
        let rep := match rec with
          | none => y.reported
          | some n =>
            let key : FaultKey := { wg := wg, group := g.num, code := f.code, record := n }
            match y.reported with
            | some o => if key.before o then some key else some o
            | none => some key
        { y with faulted := true, reported := rep, heldGroups := y.heldGroups + (if hold then 1 else 0) })
  | _, _ => s

/-- The context's fault policy applied to a group that has faulted (R149, R216). -/
def State.applyPolicy (s : State) (c pos : Nat) : State :=
  let x := s.core c
  match s.running? c, x.groups.get? pos with
  | some (t, k), some g =>
    if g.gstate ≠ .live then s
    else if k.policy = 0 then s.stopTask t 0x30
    else if k.policy = 1 then s.runOut c pos
    else
      let g' := { g with gstate := .held, arr := [], wait := g.wait.map (fun w => { w with arrived := false }) }
      (s.setCore c { (x.withdraw pos) with groups := x.groups.set pos g' }).refreshCtx k.ctx
  | _, _ => s

/-- A group faults (R144 to R150): its record is written and its context's policy is applied. -/
def State.takeFault (s : State) (c pos : Nat) (f : PendFault) (deferred : Bool) : State :=
  (s.recordFault c pos f deferred).applyPolicy c pos

/-- Several groups of a core fault in one step: their records, oldest group first, then the policy (R219). -/
def State.takeFaults (s : State) (c : Nat) (l : List PendFault) : State :=
  (l.foldl (fun (u : State) f => u.recordFault c f.pos f false) s |> fun u =>
    l.foldl (fun (v : State) f => v.applyPolicy c f.pos) u)

/-- The groups of a workgroup that raise the barrier-deadlock fault (R218, R219), oldest first, each with the lanes parked at
the barrier instruction at which its lowest parked lane waits, and that barrier. -/
def deadlockedGroups (gs : NMap Group) : List (Nat × Group × List Nat × Nat) :=
  let whole := wgDeadlocked gs
  let hit := gs.filter (fun e => decide (e.2.gstate = .live)
    && (e.2.deadlocked || (whole && e.2.live.any (fun i => (e.2.stat i).parked))))
  (sortBy (fun a b => decide (a.2.num ≤ b.2.num)) hit).filterMap (fun e =>
    let g := e.2
    (g.live.find? (fun i => (g.stat i).parked)).map (fun l =>
      let b := ((g.stat l).barrier?).getD 0
      (e.1, g, g.live.filter (fun i => decide (g.pc i = g.pc l) && decide ((g.stat i).barrier? = some b)), b)))

/-- A group's arrivals at a barrier withdrawn for some lanes. -/
def Group.unarrive (g : Group) (b : Nat) (lanes : List Nat) : Group :=
  { g with arr := g.arr.put 0 b ((g.arr.getD b 0) &&& (2 ^ 32 - 1 - laneMask lanes)) }

/-- Groups that fault at a barrier and not at their own issue: their arrivals there are withdrawn (R219). -/
def State.deadlockFaults (s : State) (core : Nat) (l : List (Nat × Group × List Nat × Nat)) : State × List PendFault :=
  (l.foldl (fun (u : State) (e : Nat × Group × List Nat × Nat) =>
      let x : CoreSt := u.core core
      u.setCore core { x with groups := x.groups.adjust e.1 (fun g => g.unarrive e.2.2.2 e.2.2.1) }) s,
    l.map (fun (e : Nat × Group × List Nat × Nat) =>
      { pos := e.1, pc := e.2.1.pc (e.2.2.1.headD 0), lanes := laneMask e.2.2.1, code := 0x07, detail := e.2.2.2,
        addr := 0 }))

/-- BARRIER_DEADLOCK (R218, R219): every group of the slot that meets the group condition, or that holds a parked thread under
the workgroup condition, faults at the barrier at which its lowest parked lane waits. -/
def execBarrierDeadlock (core slot : Nat) (s : State) : Host.Outcome State Fault Refusal :=
  let (s, l) := s.deadlockFaults core (deadlockedGroups ((s.core core).slotGroups slot))
  .next (s.takeFaults core l)

/-- DEFERRED_FAULT (R144): a fault detected after issue is taken at the group's next instruction boundary. -/
def execDeferredFault (core index : Nat) (s : State) : Host.Outcome State Fault Refusal :=
  let x := s.core core
  match x.faults[index]? with
  | none => .next s
  | some f =>
    let slot := ((x.groups.get? f.pos).map (fun g => g.slot)).getD 0
    let s : State := s.setCore core
      { x with faults := x.faults.eraseIdx index, groups := x.groups.adjust f.pos (fun g => { g with fetchWait := none }) }
    .next ((s.takeFault core f.pos f true).settleWg core slot)

/-- The release of every held group of a context, as under RUNOUT (R149). -/
def State.releaseHeld (s : State) (ctx : Nat) : State :=
  let tasks := s.tasks.filter (fun e => decide (e.2.ctx = ctx ∧ 0 < e.2.heldGroups))
  let s : State := tasks.foldl (fun u e =>
    let u := u.updTask e.1 (fun k => { k with heldGroups := 0 })
    e.2.cores.foldl (fun v c =>
      if (v.core c).task = some e.1 then
        ((v.core c).groups.filter (fun g => decide (g.2.gstate = .held))).foldl (fun w g => w.runOut c g.1) v
      else v) u) s
  s.refreshCtx ctx

/-- A write of CTX.FAULT_POLICY: a policy of 3 is ignored; RELEASE ends every held group. -/
def State.writeFaultPolicy (s : State) (q : RegWriteReq) : State :=
  let q := if q.new F.ctxFaultPolicyPolicy = 3 then q.keep F.ctxFaultPolicyPolicy else q
  let s : State := s.store q
  if q.wrote F.ctxFaultPolicyRelease = 1 then s.releaseHeld q.n else s

/-- FAULT_RELEASE (R149): a write of CTX.FAULT_POLICY with RELEASE. -/
def execFaultRelease (a : Access) (s : State) : Host.Outcome State Fault Refusal :=
  s.onWrite a [.ctxFaultPolicy] s.writeFaultPolicy

/-- A write of CTX.FAULT_READ (R148): ignored, with an access-error event, where READ_COUNT would pass WRITE_COUNT or fall more
than the ring's size behind it. -/
def State.writeFaultRead (s : State) (q : RegWriteReq) : State :=
  let w := s.rd F.ctxFaultStatusWriteCount q.n
  let size := 2 ^ s.rd F.ctxFaultRingLog2Records q.n
  if size < (w + 2 ^ 32 - q.new F.ctxFaultReadReadCount) % 2 ^ 32 then s.accessError else s.store q

/-- FAULT_READ_WRITE (R148). -/
def execFaultReadWrite (a : Access) (s : State) : Host.Outcome State Fault Refusal :=
  s.onWrite a [.ctxFaultRead] s.writeFaultRead

end Sys2Proof.Machine
end

