-- ==== Sys2Proof/Machine/Issue.lean ====
section
/-! DEFINITION. The issue of a Kwaok instruction (06_kwaok_instruction_reference.md, R162 to R171; 07_thread_groups.md, R205 to
R208): the set that issues, its operands and their legality, register hazards, precise faults, and the advance. -/

namespace Sys2Proof.Machine

-- fields of the words (R162, R164, R168)

/-- Bits hi down to lo of the base word's MOD field, numbered as bits of the word. -/
def Issue.m (i : Issue) (hi lo : Nat) : Nat := natBits i.mod (hi - 49) (lo - 49)

/-- Bits of the extension word, zero where there is none. -/
def Issue.e (i : Issue) (hi lo : Nat) : Nat := (i.ext.getD 0).bits hi lo

def Issue.kd (i : Issue) : Bool := decide (i.m 49 49 = 1)
def Issue.ka (i : Issue) : Bool := decide (i.m 50 50 = 1)
def Issue.kb (i : Issue) : Bool := decide (i.m 51 51 = 1)
def Issue.kc (i : Issue) : Bool := decide (i.m 52 52 = 1)

/-- Is source B the immediate? -/
def Issue.bi (i : Issue) : Bool := decide (i.e 47 47 = 1)

/-- The instruction's bytes (R163). -/
def Issue.len (i : Issue) : Nat := if i.ext.isSome then 16 else 8

-- the issuing set (R167, R205)

/-- A set that can issue: its task, core, group and workgroup; its lanes and those that execute; its program counter. -/
structure Ready where
  t : Nat
  k : Task
  x : CoreSt
  g : Group
  wg : Nat
  set : List Nat
  exec : List Nat
  pc : Word
deriving DecidableEq, Repr

def Group.predAt (g : Group) (lane p : Nat) : Bool := decide (p = 7) || (g.preds.getD lane 0).testBit p

/-- The set of a lane in a group: the running lanes at its program counter. -/
def Group.setAt (g : Group) (lane : Nat) : List Nat :=
  (List.range 32).filter (fun j => decide (g.stat j = .run) && decide (g.pc j = g.pc lane))

/-- The set that an issue names, where it is able to issue (R205): its task runs, its core is not stopped or in retention, its
group is live and waits for no fence. -/
def State.ready? (s : State) (i : Issue) : Option Ready :=
  let x := s.core i.core
  match s.running? i.core, x.groups.get? i.pos with
  | some (t, k), some g =>
    let ok := decide (k.phase = .running) && s.partLive k.part && decide (i.core ∉ s.stopped) && !x.retained
      && decide (g.gstate = .live) && g.fence.isNone && !g.stall && g.fetchWait.isNone
      && decide (i.lane < 32) && decide (g.stat i.lane = .run)
    if ok then
      let set := g.setAt i.lane
      let exec := set.filter (fun j => g.predAt j i.gp != i.gn)
      some { t := t, k := k, x := x, g := g, wg := ((x.slots.get? g.slot).map (fun w => w.linear)).getD 0,
             set := set, exec := exec, pc := g.pc i.lane }
    else none
  | _, _ => none

-- registers (R125 to R127, R168)

def Group.readV (g : Group) (lane n : Nat) : Nat := if n = 255 then 0 else (g.v.getD (lane * 256 + n) 0).toNat
def Group.readU (g : Group) (n : Nat) : Nat := (g.u.getD n 0).toNat

def Group.writeV (g : Group) (lane n v : Nat) : Group :=
  if n = 255 then g else { g with v := g.v.put 0 (lane * 256 + n) (BitVec.ofNat 32 v) }
def Group.writeU (g : Group) (n v : Nat) : Group := { g with u := g.u.put 0 n (BitVec.ofNat 64 v) }

/-- A source of w bits: of a lane's vector registers, or uniform. -/
def Group.src (g : Group) (uni : Bool) (lane base w : Nat) : Nat :=
  if uni then
    if w = 128 then g.readU base + 2 ^ 64 * g.readU (base + 1) else g.readU base % 2 ^ w
  else (List.range (w / 32)).foldl (fun a k => a + g.readV lane (base + k) * 2 ^ (32 * k)) 0

/-- A result of w bits written; a 32-bit result in a uniform register is zero-extended. -/
def Group.dst (g : Group) (uni : Bool) (lane base w v : Nat) : Group :=
  if uni then
    if w = 128 then (g.writeU base v).writeU (base + 1) (v / 2 ^ 64) else g.writeU base (v % 2 ^ w)
  else (List.range (w / 32)).foldl (fun u k => u.writeV lane (base + k) (v / 2 ^ (32 * k))) g

/-- A predicate written in a lane; a write to p7 is discarded (R174). -/
def Group.writePred (g : Group) (lane p : Nat) (b : Bool) : Group :=
  if p = 7 then g
  else
    let old := g.preds.getD lane 0
    let new := if b then old ||| 2 ^ p else old &&& (2 ^ 7 - 1 - 2 ^ p)
    { g with preds := (List.range 32).map (fun j => if j = lane then new else g.preds.getD j 0) }

/-- Is a register operand of w bits legal under a kind and a declared count R (R126, R127, R168)? -/
def regLegal (uni : Bool) (n w r : Nat) : Bool :=
  if uni then decide (n < 64) && (decide (w ≠ 128) || decide (n % 2 = 0))
  else if w ≤ 32 then decide (n = 255) || decide (n < r ∧ n < 255)
  else if w = 64 then decide (n % 2 = 0) && decide (n ≤ 252) && decide (n + 1 < r)
  else decide (n % 4 = 0) && decide (n ≤ 248) && decide (n + 3 < r)

-- legality (R166)

/-- A field found bad, by its lowest bit position. -/
abbrev Bad := Nat × Bool

/-- The DETAIL of an illegal instruction: the lowest position among the fields that offend. -/
def illegal? (l : List Bad) : Option Nat :=
  (l.filter (fun b => b.2)).foldl (fun a b => match a with
    | none => some b.1
    | some p => some (min p b.1)) none

/-- What an instruction makes of a field: nothing, a register of so many bits, a predicate, or a value of its own. -/
inductive Use where
  | none
  | reg (w : Nat)
  | pred
  | raw (ok : Bool)
deriving DecidableEq, Repr

/-- The checks of one field: its position, its kind bit's position, the field and its kind. -/
def Use.bad (u : Use) (r pos kpos n : Nat) (uni : Bool) : List Bad :=
  match u with
  | .none => [(pos, decide (n ≠ 0)), (kpos, uni)]
  | .reg w => [(pos, !regLegal uni n w r)]
  | .pred => [(pos, decide (7 < n)), (kpos, uni)]
  | .raw ok => [(pos, !ok), (kpos, uni)]

def Use.isReg : Use → Bool
  | .reg _ => true
  | _ => false

/-- The checks of the four fields of the register classes: with KD = 1 no source is a vector register (R168); with BI = 1 field
B is reserved. -/
def Issue.fieldsBad (i : Issue) (r : Nat) (ud ua ub uc : Use) : List Bad :=
  let ub' := if i.bi then .none else ub
  let mix := fun (u : Use) (uni : Bool) => i.kd && u.isReg && !uni
  ud.bad r 17 49 i.d i.kd ++ ua.bad r 25 50 i.a i.ka ++ ub'.bad r 33 51 i.b i.kb ++ uc.bad r 41 52 i.c i.kc
    ++ [(50, mix ua i.ka), (51, mix ub' i.kb), (52, mix uc i.kc)]

/-- The checks of the extension word: whether one may stand, whether IMM32 is used without BI, whether BI is allowed, whether
the stochastic operands are, and the bits of XMOD in use. -/
def Issue.extBad (i : Issue) (r : Nat) (may imm bi sr : Bool) (xmod : Nat) : List Bad :=
  match i.ext with
  | none => []
  | some _ =>
    let sre := decide (i.e 46 46 = 1)
    [(12, !may),
     (64, decide (i.e 31 0 ≠ 0) && !(imm || (bi && i.bi))),
     (96, if sr && sre then !regLegal false (i.e 39 32) 64 r else decide (i.e 39 32 ≠ 0)),
     (104, decide (i.e 45 40 ≠ 0) && !(sr && sre)),
     (110, sre && !sr),
     (111, i.bi && !bi),
     (112, decide ((i.e 63 48) / 2 ^ xmod ≠ 0))]

-- hazards (R170)

/-- The registers of a group that something in flight is still to write: (uniform, number). -/
def CoreSt.busyRegs (x : CoreSt) (pos : Nat) : List (Bool × Nat) :=
  x.txns.flatMap (fun t =>
    if t.pos ≠ pos then []
    else
      match t.kind with
      | .load ws uni _ => ws.map (fun w => (uni, w.reg))
      | .exact _ _ (some (l, d)) _ =>
        if l = 32 then [(true, d), (true, d + 1)] else (List.range 4).map (fun k => (false, d + k))
      | .stalled op _ | .host op _ _ _ _ =>
        match op.dest with
        | some d => (List.range (if op.uni then max 1 (op.size / 8) else max 1 (op.size / 4))).map (fun k => (op.uni, d + k))
        | none => []
      | _ => [])
    ++ x.flights.flatMap (fun f => match f.op with
      | .read d => if f.pos = pos then [(true, d)] else []
      | _ => [])
    ++ x.mxq.flatMap (fun e =>
      if e.pos ≠ pos then []
      else
        match e.op with
        | .drain d => match d.blotRet with
          | some u => [(true, u), (true, u + 1)]
          | none => []
        | _ => [])

/-- The registers of an operand. -/
def operandRegs (uni : Bool) (n w : Nat) : List (Bool × Nat) :=
  (List.range (if uni then (w + 63) / 64 else (w + 31) / 32)).map (fun k => (uni, n + k))

def Use.regs (u : Use) (uni : Bool) (n : Nat) : List (Bool × Nat) :=
  match u with
  | .reg w => operandRegs uni n w
  | _ => []

/-- Must an instruction wait for a register (R170)? -/
def Ready.hazard (r : Ready) (i : Issue) (l : List (Bool × Nat)) : Bool :=
  let busy := r.x.busyRegs i.pos
  l.any (fun x => decide (x ∈ busy))

/-- The registers of the four fields. -/
def Issue.regs (i : Issue) (ud ua ub uc : Use) : List (Bool × Nat) :=
  ud.regs i.kd i.d ++ ua.regs i.ka i.a ++ (if i.bi then [] else ub.regs i.kb i.b) ++ uc.regs i.kc i.c

-- fences (R229, R249)

/-- Is a transaction a write that has still to be committed, or a fence's flushing read? -/
def Txn.uncommitted (t : Txn) : Bool :=
  match t.kind with
  | .exact .. | .longForm .. | .flush => true
  | .stalled op _ | .host op .. => decide (op.kind ≠ .load)
  | .load .. => false

/-- Is the condition of a group's fence met: its kind, and the first number that is not before it? The fences of a workgroup and a
partition wait for every earlier access of the group; the other two for earlier writes, of the group or of every group of the task, with
the tile moves accepted before. -/
def CoreSt.fenceMet (x : CoreSt) (pos kind bound : Nat) : Bool :=
  let mine := fun (p : Nat) => decide (kind = 3) || decide (p = pos)
  x.txns.all (fun t => decide (bound ≤ t.id) || !mine t.pos || (decide (2 ≤ kind) && !t.uncommitted))
    && x.mxq.all (fun e => decide (bound ≤ e.id) || !mine e.pos || (match e.op with
      | .drain _ => false
      | _ => true))
    && (decide (kind ≠ 3) || (x.tm0 ++ x.tm1).all (fun d => decide (bound ≤ d.id)))

/-- The near cache emptied; a refill in flight completes its load and does not allocate (R225). -/
def CoreSt.ncInvalidate (x : CoreSt) : CoreSt :=
  { x with nc := [],
           txns := x.txns.map (fun t => match t.kind with
             | .load ws u _ => { t with kind := .load ws u [] }
             | _ => t) }

/-- The fences of a core whose condition is met complete; `fence.part` and `fence.global` then invalidate the near cache. -/
def CoreSt.settleFences (x : CoreSt) : CoreSt :=
  let met := fun (e : Nat × Group) => match e.2.fence with
    | some (k, b) => x.fenceMet e.1 k b
    | none => false
  let inv := x.groups.any (fun e => met e && (match e.2.fence with
    | some (k, _) => decide (k = 1) || decide (k = 3)
    | none => false))
  let y : CoreSt := { x with groups := x.groups.map (fun e => if met e then (e.1, { e.2 with fence := none }) else e) }
  if inv then y.ncInvalidate else y

def State.settleFences (s : State) (c : Nat) : State := s.setCore c (s.core c).settleFences

-- the result of an issue

/-- Can a group issue, as the waiting bounds of R207 see it? -/
def Group.looksReady (g : Group) : Bool :=
  decide (g.gstate = .live) && g.fence.isNone && !g.stall && g.fetchWait.isNone
    && (List.range 32).any (fun j => decide (g.stat j = .run))

/-- The lowest lanes of the running sets of a group. -/
def Group.setLanes (g : Group) : List Nat :=
  (List.range 32).filter (fun j => decide (g.stat j = .run) && decide ((g.setAt j).head? = some j))

/-- An instruction has issued (R207, R232): its group's new state is stored, SCH.ISSUES and PARTIAL_ISSUES count it, and the
waits of the scheduler's other groups and of the group's other sets grow by one. -/
def State.issued (s : State) (i : Issue) (r : Ready) (g : Group) : State :=
  let x := s.core i.core
  let lead := r.set.headD 0
  let others := (r.g.setLanes).filter (fun l => decide (l ≠ lead))
  let passed : NMap Nat := others.foldl (fun m l => m.set l (r.g.passed.getD l 0 + 1)) []
  let g := { g with readySteps := 0, passed := passed }
  let groups := x.groups.map (fun e =>
    if e.1 = i.pos then (e.1, g)
    else if e.1 / 16 = i.pos / 16 ∧ e.2.looksReady = true then (e.1, { e.2 with readySteps := e.2.readySteps + 1 })
    else e)
  let s := s.setCore i.core { x with groups := groups, idleSince := none }
  let s := s.bumpRun F.schCountCtlRun F.schIssuesCount i.core
  if r.set.length < r.g.live.length then s.bumpRun F.schCountCtlRun F.schPartialIssuesCount i.core else s

/-- An instruction that faults at issue has issued, with no effect on its group (R144, R232). -/
def State.issuedSame (s : State) (i : Issue) (r : Ready) : State := s.issued i r (((s.core i.core).groups.get? i.pos).getD r.g)

/-- A precise fault of the issuing set (R144). -/
def State.precise (s : State) (i : Issue) (r : Ready) (code detail : Nat) (addr : Word := 0) (lanes : List Nat := r.set) :
    State :=
  (s.issuedSame i r).takeFault i.core i.pos
    { pos := i.pos, pc := r.pc, lanes := laneMask lanes, code := code, detail := detail, addr := addr } false

/-- A group with the issuing set at the next instruction in sequence. -/
def Ready.next (r : Ready) (i : Issue) (g : Group) : Group := g.setPc r.set (fun _ => r.pc + BitVec.ofNat 64 i.len)

/-- An instruction that has issued and whose set continues in sequence. -/
def State.done (s : State) (i : Issue) (r : Ready) (g : Group) : State := s.issued i r (r.next i g)

/-- The fault code of an access that fails (R145, R331, R335). -/
def AccRes.faultCode : AccRes → Option Nat
  | .unmapped => some 0x10
  | .permission => some 0x11
  | .partition => some 0x12
  | .denied => some 0x13
  | _ => none

/-- The fetch of eight bytes of an instruction (R163, R331, R332): they can be read; or the group takes a deferred fault as a
load would, with DETAIL 0 and the address of the bytes as ADDRESS; or it stalls on a translation fault record. -/
def State.fetchWord (s : State) (i : Issue) (r : Ready) (va : Word) : State × Bool :=
  let fault := fun (s : State) (code : Nat) =>
    (s.takeFault i.core i.pos
      { pos := i.pos, pc := r.pc, lanes := laneMask r.set, code := code, detail := 0, addr := va } true, false)
  match s.access (.core i.core) r.k.ctx va.toNat .fetch with
  | (s, .ring c l e) =>
    let (s, rec) := s.xfrReport
      { region := regionOfCore i.core, ctx := r.k.ctx, va := va.toNat, kind := .fetch, engine := 1, core := i.core,
        queue := r.k.queue, tag := r.k.tag } c l e
    match rec with
    | none => (s, false)
    | some n =>
      let x := s.core i.core
      (s.setCore i.core { x with
        groups := x.groups.adjust i.pos (fun g => { g with fetchWait := some { region := regionOfCore i.core, seq := n, detail := 0, va := va.toNat } }) }, false)
  | (s, .memory pa) => if s.poisoned pa 8 then fault s 0x14 else (s, true)
  | (s, .wait) => (s, false)
  | (s, a) =>
    match a.faultCode with
    | some code => fault s code
    | none => (s, true)

/-- The fetch of an instruction: its base word, and its extension word where it has one. -/
def State.fetch (s : State) (i : Issue) (r : Ready) : State × Bool :=
  let (s, ok) := s.fetchWord i r r.pc
  if ok && i.ext.isSome then s.fetchWord i r (r.pc + 8) else (s, ok)

/-- An instruction at issue: nothing while its set cannot issue or a register it names is still to be written; the outcome of
a fetch that fails; a precise illegal-instruction fault; otherwise its effect. -/
def State.onIssue (s : State) (i : Issue) (bad : Ready → List Bad) (regs : List (Bool × Nat)) (f : State → Ready → State) :
    Host.Outcome State Fault Refusal :=
  match s.ready? i with
  | none => .next s
  | some r =>
    if r.hazard i regs then .next s
    else
      let (s, ok) := s.fetch i r
      if ok then
        match illegal? (bad r) with
        | some d => .next (s.precise i r 0x01 d)
        | none => .next (f s r)
      else .next s

/-- The lanes in which an instruction acts: each executing lane; once, with lane 32, where it acts for the group (R169). -/
def Ready.lanes (r : Ready) (once : Bool) : List Nat := if once then (if r.exec = [] then [] else [32]) else r.exec

/-- Flags ORed into a context's FP_STATUS (R62). -/
def State.orFlags (s : State) (ctx : Nat) (f : FpFlags) : State :=
  s.setReg .ctxFpStatus ctx (s.reg .ctxFpStatus ctx ||| BitVec.ofNat 64 f.toNat)

/-- Events ORed into a context's DRAIN_STATUS (R101). -/
def State.orDrain (s : State) (ctx bits : Nat) : State :=
  s.setReg .ctxDrainStatus ctx (s.reg .ctxDrainStatus ctx ||| BitVec.ofNat 64 (bits % 64))

/-- GROUP_PROMOTION (R207, R208): a group ready for 256 steps without issuing is taken first, and counted. -/
def execGroupPromotion (core pos : Nat) (s : State) : Host.Outcome State Fault Refusal :=
  let x := s.core core
  match x.groups.get? pos with
  | some g =>
    if 256 ≤ g.readySteps ∧ g.looksReady = true then
      .next ((s.setCore core { x with groups := x.groups.set pos { g with readySteps := 0 } }).bumpRun F.schCountCtlRun
        F.schAgePromotionsCount core)
    else .next s
  | none => .next s

/-- SET_PROMOTION (R207, R208): a ready set passed over at 16 consecutive issues of its group is issued next, and counted. -/
def execSetPromotion (core pos lane : Nat) (s : State) : Host.Outcome State Fault Refusal :=
  let x := s.core core
  match x.groups.get? pos with
  | some g =>
    if 16 ≤ g.passed.getD lane 0 ∧ g.looksReady = true then
      .next ((s.setCore core { x with groups := x.groups.set pos { g with passed := g.passed.del lane } }).bumpRun
        F.schCountCtlRun F.schAgePromotionsCount core)
    else .next s
  | none => .next s

end Sys2Proof.Machine
end

