-- ==== Sys2Proof/Machine/Integer.lean ====
section
/-! DEFINITION. The integer instructions (06_kwaok_instruction_reference.md, R173 to R175). -/

namespace Sys2Proof.Machine

/-- The width an integer instruction works in. -/
def Issue.w (i : Issue) : Nat := if i.m 53 53 = 1 then 64 else 32

/-- Is it signed? -/
def Issue.sgn (i : Issue) : Bool := decide (i.m 54 54 = 1)

def Issue.cc (i : Issue) : Nat := i.m 57 55

/-- The immediate as a source of w bits: IMM32, sign-extended to 64 (assumption 16). -/
def Issue.imm (i : Issue) (w : Nat) : Nat := toUnsigned w (toSigned 32 (i.e 31 0))

/-- Source B of w bits. -/
def Issue.srcB (i : Issue) (g : Group) (lane w : Nat) : Nat := if i.bi then i.imm w else g.src i.kb lane i.b w

/-- An operand read as an integer of w bits, by signedness. -/
def asInt (signed : Bool) (w n : Nat) : Int := if signed then toSigned w n else (n : Int)

/-- The bits that integer instructions leave reserved (R166, R172): [63:58], and CC and S where they are not used. -/
def Issue.intBad (i : Issue) (s cc : Bool) : List Bad :=
  [(54, i.sgn && !s), (55, decide (i.cc ≠ 0) && !cc), (58, decide (i.m 63 58 ≠ 0))]

/-- An integer instruction that writes register D: its operands, the reserved bits, and its value in a lane. -/
def State.intOp (s : State) (i : Issue) (ua ub uc : Use) (bi sgn : Bool) (f : Group → Nat → Nat) :
    Host.Outcome State Fault Refusal :=
  s.onIssue i
    (fun r => i.fieldsBad r.k.desc.regs (.reg i.w) ua ub uc ++ i.intBad sgn false
      ++ i.extBad r.k.desc.regs true false bi false 0)
    (i.regs (.reg i.w) ua ub uc)
    (fun s r =>
      s.done i r ((r.lanes i.kd).foldl (fun g l => g.dst i.kd l i.d i.w (f r.g l % 2 ^ i.w)) r.g))

/-- A two-source integer instruction. -/
def State.int2 (s : State) (i : Issue) (sgn : Bool) (f : Nat → Nat → Nat) : Host.Outcome State Fault Refusal :=
  s.intOp i (.reg i.w) (.reg i.w) .none true sgn (fun g l => f (g.src i.ka l i.a i.w) (i.srcB g l i.w))

/-- A one-source integer instruction. -/
def State.int1 (s : State) (i : Issue) (f : Nat → Nat) : Host.Outcome State Fault Refusal :=
  s.intOp i (.reg i.w) .none .none false false (fun g l => f (g.src i.ka l i.a i.w))

/-- mov (R173). -/
def execMov (x : Issue) (s : State) : Host.Outcome State Fault Refusal := s.int1 x (fun a => a)

/-- add (R173). -/
def execAdd (x : Issue) (s : State) : Host.Outcome State Fault Refusal := s.int2 x false (fun a b => a + b)

/-- sub (R173). -/
def execSub (x : Issue) (s : State) : Host.Outcome State Fault Refusal := s.int2 x false (fun a b => a + 2 ^ x.w - b)

/-- mul (R173): the low half of the product. -/
def execMul (x : Issue) (s : State) : Host.Outcome State Fault Refusal := s.int2 x false (fun a b => a * b)

/-- mulhi (R173): the high half of the 2W-bit product, signed when S = 1. -/
def execMulhi (x : Issue) (s : State) : Host.Outcome State Fault Refusal :=
  s.int2 x true (fun a b => toUnsigned (2 * x.w) (asInt x.sgn x.w a * asInt x.sgn x.w b) / 2 ^ x.w)

/-- mad (R173). -/
def execMad (x : Issue) (s : State) : Host.Outcome State Fault Refusal :=
  s.intOp x (.reg x.w) (.reg x.w) (.reg x.w) true false
    (fun g l => g.src x.ka l x.a x.w * x.srcB g l x.w + g.src x.kc l x.c x.w)

/-- min (R173). -/
def execMin (x : Issue) (s : State) : Host.Outcome State Fault Refusal :=
  s.int2 x true (fun a b => if asInt x.sgn x.w a ≤ asInt x.sgn x.w b then a else b)

/-- max (R173). -/
def execMax (x : Issue) (s : State) : Host.Outcome State Fault Refusal :=
  s.int2 x true (fun a b => if asInt x.sgn x.w a ≤ asInt x.sgn x.w b then b else a)

/-- and (R173). -/
def execAnd (x : Issue) (s : State) : Host.Outcome State Fault Refusal := s.int2 x false (fun a b => a &&& b)

/-- or (R173). -/
def execOr (x : Issue) (s : State) : Host.Outcome State Fault Refusal := s.int2 x false (fun a b => a ||| b)

/-- xor (R173). -/
def execXor (x : Issue) (s : State) : Host.Outcome State Fault Refusal := s.int2 x false (fun a b => a ^^^ b)

/-- not (R173). -/
def execNot (x : Issue) (s : State) : Host.Outcome State Fault Refusal := s.int1 x (fun a => 2 ^ x.w - 1 - a)

/-- shl (R173): the count is taken modulo the width. -/
def execShl (x : Issue) (s : State) : Host.Outcome State Fault Refusal := s.int2 x false (fun a b => a * 2 ^ (b % x.w))

/-- shr (R173). -/
def execShr (x : Issue) (s : State) : Host.Outcome State Fault Refusal := s.int2 x false (fun a b => a / 2 ^ (b % x.w))

/-- sar (R173). -/
def execSar (x : Issue) (s : State) : Host.Outcome State Fault Refusal :=
  s.int2 x false (fun a b => toUnsigned x.w (toSigned x.w a / (2 ^ (b % x.w) : Nat)))

/-- popc (R173). -/
def execPopc (x : Issue) (s : State) : Host.Outcome State Fault Refusal :=
  s.int1 x (fun a => ((List.range x.w).filter (fun k => a.testBit k)).length)

/-- clz (R173): W when A = 0. -/
def execClz (x : Issue) (s : State) : Host.Outcome State Fault Refusal :=
  s.int1 x (fun a => ((List.range x.w).takeWhile (fun k => !a.testBit (x.w - 1 - k))).length)

/-- The field of bfe: len bits of a from bit b, bits past the width reading 0, sign-extended when signed. -/
def bitField (w a b len : Nat) (signed : Bool) : Nat :=
  if len = 0 then 0
  else
    let v := if w ≤ b then 0 else a / 2 ^ b % 2 ^ len
    if signed then toUnsigned w (toSigned len v) else v

/-- bfe (R173): C is taken modulo 128. -/
def execBfe (x : Issue) (s : State) : Host.Outcome State Fault Refusal :=
  s.intOp x (.reg x.w) (.reg x.w) (.reg x.w) true true
    (fun g l => bitField x.w (g.src x.ka l x.a x.w) (x.srcB g l x.w) (g.src x.kc l x.c x.w % 128) x.sgn)

/-- sel (R173): C is a predicate number. A uniform result selects by the lowest executing lane (assumption 16). -/
def execSel (x : Issue) (s : State) : Host.Outcome State Fault Refusal :=
  s.onIssue x
    (fun r => x.fieldsBad r.k.desc.regs (.reg x.w) (.reg x.w) (.reg x.w) .pred ++ x.intBad false false
      ++ x.extBad r.k.desc.regs true false true false 0)
    (x.regs (.reg x.w) (.reg x.w) (.reg x.w) .pred)
    (fun s r =>
      s.done x r ((r.lanes x.kd).foldl (fun g l =>
        let p := r.g.predAt (if l = 32 then r.exec.headD 0 else l) x.c
        g.dst x.kd l x.d x.w (if p then r.g.src x.ka l x.a x.w else x.srcB r.g l x.w)) r.g))

/-- The condition of cmp (R174). -/
def intCond (cc : Nat) (a b : Int) : Bool :=
  match cc with
  | 0 => decide (a = b)
  | 1 => decide (a ≠ b)
  | 2 => decide (a < b)
  | 3 => decide (a ≤ b)
  | 4 => decide (b < a)
  | _ => decide (b ≤ a)

/-- cmp (R173, R174): a predicate is written; conditions 6 and 7 are reserved. -/
def execCmp (x : Issue) (s : State) : Host.Outcome State Fault Refusal :=
  s.onIssue x
    (fun r => x.fieldsBad r.k.desc.regs .pred (.reg x.w) (.reg x.w) .none ++ x.intBad true true
      ++ [(55, decide (5 < x.cc))] ++ x.extBad r.k.desc.regs true false true false 0)
    (x.regs .pred (.reg x.w) (.reg x.w) .none)
    (fun s r =>
      s.done x r (r.exec.foldl (fun g l =>
        g.writePred l x.d (intCond x.cc (asInt x.sgn x.w (r.g.src x.ka l x.a x.w)) (asInt x.sgn x.w (x.srcB r.g l x.w))))
        r.g))

/-- The source lane of shfl (R175), or none outside 0 to 31. -/
def shflLane (mode lane b : Nat) : Option Nat :=
  match mode with
  | 0 => some (b % 32)
  | 1 => if b ≤ lane then some (lane - b) else none
  | 2 => if lane + b < 32 then some (lane + b) else none
  | _ => some (lane ^^^ (b % 32))

/-- shfl (R175, R212): the value of A in a source lane of the executing threads, else the thread's own. With KD = 1 the
instruction acts once, and A is uniform. -/
def execShfl (x : Issue) (s : State) : Host.Outcome State Fault Refusal :=
  s.onIssue x
    (fun r => x.fieldsBad r.k.desc.regs (.reg x.w) (.reg x.w) (.reg 32) .none ++ x.intBad false true
      ++ [(55, decide (3 < x.cc))] ++ x.extBad r.k.desc.regs true false true false 0)
    (x.regs (.reg x.w) (.reg x.w) (.reg 32) .none)
    (fun s r =>
      s.done x r ((r.lanes x.kd).foldl (fun g l =>
        let src := match shflLane x.cc l (x.srcB r.g l 32) with
          | some j => if j ∈ r.exec then j else l
          | none => l
        g.dst x.kd l x.d x.w (r.g.src x.ka src x.a x.w)) r.g))

/-- vote (R175, R212): the mask of the executing threads whose predicate is true. -/
def execVote (x : Issue) (s : State) : Host.Outcome State Fault Refusal :=
  s.onIssue x
    (fun r => x.fieldsBad r.k.desc.regs (.reg 32) .pred .none .none ++ x.intBad false false
      ++ [(53, decide (x.w = 64))] ++ x.extBad r.k.desc.regs true false false false 0)
    (x.regs (.reg 32) .pred .none .none)
    (fun s r =>
      let v := laneMask (r.exec.filter (fun l => r.g.predAt l x.a))
      s.done x r ((r.lanes x.kd).foldl (fun g l => g.dst x.kd l x.d 32 v) r.g))

/-- pop (R173): a logic operation of two predicates; operations 4 to 7 are reserved. -/
def execPop (x : Issue) (s : State) : Host.Outcome State Fault Refusal :=
  s.onIssue x
    (fun r => x.fieldsBad r.k.desc.regs .pred .pred .pred .none ++ x.intBad false true
      ++ [(53, decide (x.w = 64)), (55, decide (3 < x.cc))] ++ x.extBad r.k.desc.regs true false false false 0)
    []
    (fun s r =>
      s.done x r (r.exec.foldl (fun g l =>
        let a := r.g.predAt l x.a
        let b := r.g.predAt l x.b
        let v := match x.cc with
          | 0 => a && b
          | 1 => a || b
          | 2 => a != b
          | _ => a && !b
        g.writePred l x.d v) r.g))

end Sys2Proof.Machine
end

