-- ==== Sys2Proof/Machine/Float.lean ====
section
/-! DEFINITION. The floating-point instructions, the function unit and the conversion (06_kwaok_instruction_reference.md, R176 to
R181; 02_number_formats.md, R69 to R71; 05_kwaok_programming_model.md, R156 to R158). -/

namespace Sys2Proof.Machine

-- modes (R61, R63, R179)

/-- The rounding mode that a modifier selects: reserved values give none, 7 the default in force when the task started. -/
def Task.rm (k : Task) (code : Nat) : Option Rm := if code = 7 then Rm.ofCode (k.fpMode.bits 2 0) else Rm.ofCode code

/-- The subnormal mode that a modifier selects (R57). -/
def Task.subn (k : Task) (code : Nat) : Option Nat :=
  if code = 7 then some (k.fpMode.bits 5 4) else if code ≤ 3 then some code else none

/-- The environment of modifiers under a task's modes. -/
def Task.env (k : Task) (rmCode subnCode : Nat) : RoundEnv :=
  let sn := (k.subn subnCode).getD 0
  { rm := (k.rm rmCode).getD .rne, flushIn := sn.testBit 0, flushOut := sn.testBit 1, sat := k.fpMode.bits 6 6 = 1 }

/-- The registers that supply the stochastic operands (R180). -/
def Issue.srRegs (i : Issue) : List (Bool × Nat) :=
  if i.e 46 46 = 1 then operandRegs false (i.e 39 32) 64 ++ [(true, i.e 45 40)] else []

/-- The draw of an element in a lane under SR (R56, R180); lane 32 stands for lane 0. -/
def Issue.draw (i : Issue) (r : Ready) (lane elem : Nat) : Nat :=
  let l := if lane = 32 then 0 else lane
  let (tid, idx) :=
    if i.e 46 46 = 1 then (r.g.readU (i.e 45 40) % 2 ^ 32, r.g.src false l (i.e 39 32) 64 % 2 ^ 48)
    else (0, (r.wg * 2048 + r.g.num * 32 + l) % 2 ^ 48)
  srDraw r.k.seed tid ((idx + elem) % 2 ^ 48)

-- fields of the floating-point class (R172)

def Issue.fmtCode (i : Issue) : Nat := i.m 56 53
def Issue.fmt (i : Issue) : Format := (Format.ofCode i.fmtCode).getD .fp32

/-- The width of a floating-point operand: a pair for FP64. -/
def Issue.fw (i : Issue) : Nat := if i.fmtCode = 0 then 64 else 32

/-- The elements of a register: their first bit and width; two packed halves with FP16 and BF16. -/
def Issue.elems (i : Issue) : List (Nat × Nat) :=
  if i.fmtCode = 0 then [(0, 64)] else if i.fmtCode = 1 then [(0, 32)] else [(0, 16), (16, 16)]

def Issue.fpBad (i : Issue) (k : Task) (fu : Bool) : List Bad :=
  [(53, decide (3 < i.fmtCode) || (fu && decide (i.fmtCode = 0))), (57, (k.rm (i.m 59 57)).isNone),
   (60, (k.subn (i.m 62 60)).isNone), (63, decide (i.m 63 63 = 1))]

/-- A binary32 encoding as FP64, exactly; a NaN keeps its payload and its signalling bit. -/
def widenFp32 (b : Nat) : Nat :=
  match Format.fp32.decode b with
  | .nan _ => b / 2 ^ 31 % 2 * 2 ^ 63 + 0x7FF * 2 ^ 52 + b % 2 ^ 23 * 2 ^ 29
  | v => (Format.fp64.round {} false v).bits

/-- Source B of a floating-point instruction (R176). -/
def Issue.fpB (i : Issue) (g : Group) (lane : Nat) : Nat :=
  if i.bi then (if i.fmtCode = 0 then widenFp32 (i.e 31 0) else i.e 31 0) else g.src i.kb lane i.b i.fw

/-- A floating-point instruction that writes D element by element: its operands, whether it rounds, and its element. -/
def State.fpOp (s : State) (i : Issue) (ua ub uc : Use) (bi sr fu : Bool)
    (f : Format → RoundEnv → Nat → Nat → Nat → Nat × FpFlags) : Host.Outcome State Fault Refusal :=
  s.onIssue i
    (fun r => i.fieldsBad r.k.desc.regs (.reg i.fw) ua ub uc ++ i.fpBad r.k fu
      ++ i.extBad r.k.desc.regs true false bi sr 0)
    (i.regs (.reg i.fw) ua ub uc ++ (if sr then i.srRegs else []))
    (fun s r =>
      let env := r.k.env (i.m 59 57) (i.m 62 60)
      let (g, fl) := (r.lanes i.kd).foldl (fun (acc : Group × FpFlags) l =>
        let a := r.g.src i.ka l i.a i.fw
        let b := i.fpB r.g l
        let c := r.g.src i.kc l i.c i.fw
        let (v, fl) := (List.range i.elems.length).foldl (fun (v : Nat × FpFlags) e =>
          let (lo, w) := i.elems.getD e (0, 32)
          let env := if env.rm = .sr then { env with draw := i.draw r l e } else env
          let x := f i.fmt env (natBits a (lo + w - 1) lo) (natBits b (lo + w - 1) lo) (natBits c (lo + w - 1) lo)
          (v.1 + x.1 % 2 ^ w * 2 ^ lo, v.2.or x.2)) (0, acc.2)
        (acc.1.dst i.kd l i.d i.fw v, fl)) (r.g, FpFlags.none)
      (s.orFlags r.k.ctx fl).done i r g)

-- arithmetic (R69 to R71)

/-- The final rounding of an exact result of operands that were read: IV for a signalling operand, and where no operand is a
NaN and the result is one. -/
def fpResult (f : Format) (env : RoundEnv) (ins : List (Val × FpFlags)) (v : Val) (iv dz : Bool) : Nat × FpFlags :=
  let r := f.round env false v
  let fin := ins.foldl (fun a x => a.or x.2) FpFlags.none
  let bad := ins.any (fun x => x.1.isSnan) || (v.isNan && !ins.any (fun x => x.1.isNan)) || iv
  (r.bits, (fin.or r.flags).or { iv := bad, dz := dz })

/-- A sum. -/
def fpAdd (f : Format) (env : RoundEnv) (a b : Nat) : Nat × FpFlags :=
  let x := f.read env a
  let y := f.read env b
  fpResult f env [x, y] (Val.add env.rm x.1 y.1) false false

/-- The operand with its sign inverted, as subtraction uses it. -/
def negate (f : Format) (b : Nat) : Nat := b ^^^ 2 ^ (f.width - 1)

/-- A product. -/
def fpMul (f : Format) (env : RoundEnv) (a b : Nat) : Nat × FpFlags :=
  let x := f.read env a
  let y := f.read env b
  fpResult f env [x, y] (x.1.mul y.1) false false

/-- A fused multiply-add: zero times infinity sets IV whatever the addend is. -/
def fpFma (f : Format) (env : RoundEnv) (a b c : Nat) : Nat × FpFlags :=
  let x := f.read env a
  let y := f.read env b
  let z := f.read env c
  let p := x.1.mul y.1
  fpResult f env [x, y, z] (Val.add env.rm p z.1) (p.isNan && !x.1.isNan && !y.1.isNan) false

/-- The exact quotient, to 128 bits and more with a sticky mark. -/
def Val.div (a b : Val) : Val :=
  let s := a.neg? != b.neg?
  match a, b with
  | .nan _, _ | _, .nan _ => .nan false
  | .inf _, .inf _ => .nan false
  | .inf _, _ => .inf s
  | _, .inf _ => Val.zero s
  | .num _ m e _, .num _ m' e' _ =>
    if m' = 0 then (if m = 0 then .nan false else .inf s)
    else if m = 0 then Val.zero s
    else
      let k := 130 + Nat.log2 m'
      .num s ((m <<< k) / m') (e - (k : Int) - e') (decide ((m <<< k) % m' ≠ 0))

/-- A quotient: DZ for a finite nonzero dividend and a zero divisor. -/
def fpDiv (f : Format) (env : RoundEnv) (a b : Nat) : Nat × FpFlags :=
  let x := f.read env a
  let y := f.read env b
  let dz := y.1.isZero && !x.1.isZero && !x.1.isInf && !x.1.isNan
  fpResult f env [x, y] (x.1.div y.1) false dz

/-- The integer square root by binary digits from the n-th down. -/
def isqrt (v : Nat) : Nat → Nat → Nat
  | 0, r => r
  | n + 1, r => let t := r + 2 ^ n; isqrt v n (if t * t ≤ v then t else r)

/-- The exact square root, to 150 bits and more with a sticky mark. -/
def Val.sqrt (a : Val) : Val :=
  match a with
  | .nan _ => .nan false
  | .inf n => if n then .nan false else .inf false
  | .num n m e _ =>
    if m = 0 then Val.zero n
    else if n then .nan false
    else
      let k := if (e - 300) % 2 = 0 then 300 else 301
      let v := m <<< k
      let q := isqrt v (Nat.log2 v / 2 + 1) 0
      .num false q ((e - (k : Int)) / 2) (decide (q * q ≠ v))

def fpSqrt (f : Format) (env : RoundEnv) (a : Nat) : Nat × FpFlags :=
  let x := f.read env a
  fpResult f env [x] x.1.sqrt false false

/-- Is a value less than another, −0 below +0 where so asked? NaNs are not compared. -/
def Val.less (zeros : Bool) (a b : Val) : Bool :=
  match a, b with
  | .inf x, .inf y => x && !y
  | .inf x, .num .. => x
  | .num .., .inf y => !y
  | .num s m e _, .num s' m' e' _ =>
    let g := min e e'
    let x : Int := ((m <<< (e - g).toNat : Nat) : Int)
    let y : Int := ((m' <<< (e' - g).toNat : Nat) : Int)
    let x := if s then -x else x
    let y := if s' then -y else y
    decide (x < y) || (zeros && decide (m = 0) && decide (m' = 0) && s && !s')
  | _, _ => false

/-- An operand's encoding as it is used: a flushed subnormal is a zero of its sign. -/
def flushed (f : Format) (env : RoundEnv) (b : Nat) : Nat :=
  if env.flushIn && f.isSubnormal b then f.signBit (f.decode b).neg? else b

/-- fp.min and fp.max (R177). -/
def fpMinMax (greater : Bool) (f : Format) (env : RoundEnv) (a b : Nat) : Nat × FpFlags :=
  let x := f.read env a
  let y := f.read env b
  let fl := (x.2.or y.2).or { iv := x.1.isSnan || y.1.isSnan }
  let v :=
    if x.1.isNan && y.1.isNan then f.defaultNan
    else if x.1.isNan then flushed f env b
    else if y.1.isNan then flushed f env a
    else if (if greater then x.1.less true y.1 else y.1.less true x.1) then flushed f env b
    else flushed f env a
  (v, fl)

/-- The conditions of fp.cmp (R174, R176): the outcome and IV. -/
def fpCond (cond : Nat) (x y : Val) : Bool × Bool :=
  let un := x.isNan || y.isNan
  let eq := !un && !x.less false y && !y.less false x
  let res := match cond with
    | 0 => eq
    | 1 => !eq
    | 2 => !un && x.less false y
    | 3 => !un && (x.less false y || eq)
    | 4 => !un && y.less false x
    | 5 => !un && (y.less false x || eq)
    | 6 => un
    | _ => !un
  (res, if 2 ≤ cond ∧ cond ≤ 5 then un else x.isSnan || y.isSnan)

/-- The class mask of an encoding (R177). -/
def fpClassMask (f : Format) (b : Nat) : Nat :=
  match f.decode b with
  | .nan s => if s then 2 ^ 8 else 2 ^ 9
  | .inf n => if n then 2 ^ 0 else 2 ^ 7
  | .num n m _ _ =>
    if m = 0 then (if n then 2 ^ 3 else 2 ^ 4)
    else if f.isSubnormal b then (if n then 2 ^ 2 else 2 ^ 5)
    else (if n then 2 ^ 1 else 2 ^ 6)

/-- The function unit (R156 to R158): 0 exp, 1 log, 2 reciprocal square root, 3 sine, 4 cosine. Where R158's table gives a
result, that; otherwise the edition's table, whose overflow and tiny results are handled as R54 and R58 give, without NX. -/
def functionUnit (edition fn : Nat) (f : Format) (env : RoundEnv) (a : Nat) : Nat × FpFlags :=
  let (x, fl) := f.read env a
  let nan : Nat × FpFlags := (f.defaultNan, fl.or { iv := true })
  match x with
  | .nan s => (f.defaultNan, fl.or { iv := s })
  | .inf n =>
    match fn with
    | 0 => (if n then f.signBit false else f.infBits false, fl)
    | 1 => if n then nan else (f.infBits false, fl)
    | 2 => if n then nan else (f.signBit false, fl)
    | _ => nan
  | .num n m _ _ =>
    if m = 0 ∧ 1 ≤ fn then
      match fn with
      | 1 => (f.infBits true, fl.or { dz := true })
      | 2 => (f.infBits n, fl.or { dz := true })
      | 3 => (f.signBit n, fl)
      | _ => ((f.round {} false (.num false 1 0 false)).bits, fl)
    else if n = true ∧ (fn = 1 ∨ fn = 2) then nan
    else
      let r := Config.functionTable edition fn f.code (flushed f env a) % 2 ^ f.width
      let v := f.decode r
      if fn = 0 ∧ v.isInf = true then (if env.sat then f.maxBits v.neg? else r, fl.or { of := true })
      else if f.isSubnormal r && env.flushOut then (f.signBit v.neg?, fl.or { uf := decide (fn = 0), flush := true })
      else (r, fl.or { uf := decide (fn = 0) && (f.isSubnormal r || v.isZero) })

-- the instructions

/-- fp.add (R176). -/
def execFpAdd (x : Issue) (s : State) : Host.Outcome State Fault Refusal :=
  s.fpOp x (.reg x.fw) (.reg x.fw) .none true true false (fun f e a b _ => fpAdd f e a b)

/-- fp.sub (R176): a sum with B's sign inverted; a NaN's sign is never used. -/
def execFpSub (x : Issue) (s : State) : Host.Outcome State Fault Refusal :=
  s.fpOp x (.reg x.fw) (.reg x.fw) .none true true false (fun f e a b _ => fpAdd f e a (negate f b))

/-- fp.mul (R176). -/
def execFpMul (x : Issue) (s : State) : Host.Outcome State Fault Refusal :=
  s.fpOp x (.reg x.fw) (.reg x.fw) .none true true false (fun f e a b _ => fpMul f e a b)

/-- fp.fma (R176). -/
def execFpFma (x : Issue) (s : State) : Host.Outcome State Fault Refusal :=
  s.fpOp x (.reg x.fw) (.reg x.fw) (.reg x.fw) true true false fpFma

/-- fp.div (R176). -/
def execFpDiv (x : Issue) (s : State) : Host.Outcome State Fault Refusal :=
  s.fpOp x (.reg x.fw) (.reg x.fw) .none true true false (fun f e a b _ => fpDiv f e a b)

/-- fp.sqrt (R176). -/
def execFpSqrt (x : Issue) (s : State) : Host.Outcome State Fault Refusal :=
  s.fpOp x (.reg x.fw) .none .none false true false (fun f e a _ _ => fpSqrt f e a)

/-- fp.min (R177). -/
def execFpMin (x : Issue) (s : State) : Host.Outcome State Fault Refusal :=
  s.fpOp x (.reg x.fw) (.reg x.fw) .none true false false (fun f e a b _ => fpMinMax false f e a b)

/-- fp.max (R177). -/
def execFpMax (x : Issue) (s : State) : Host.Outcome State Fault Refusal :=
  s.fpOp x (.reg x.fw) (.reg x.fw) .none true false false (fun f e a b _ => fpMinMax true f e a b)

/-- fp.neg (R177): only the sign bit changes. -/
def execFpNeg (x : Issue) (s : State) : Host.Outcome State Fault Refusal :=
  s.fpOp x (.reg x.fw) .none .none false false false (fun f _ a _ _ => (negate f a, .none))

/-- fp.abs (R177). -/
def execFpAbs (x : Issue) (s : State) : Host.Outcome State Fault Refusal :=
  s.fpOp x (.reg x.fw) .none .none false false false (fun f _ a _ _ => (a % 2 ^ (f.width - 1), .none))

/-- fp.cmp (R174, R176): field C is the condition; with packed halves element 0 is compared (assumption 16). -/
def execFpCmp (x : Issue) (s : State) : Host.Outcome State Fault Refusal :=
  s.onIssue x
    (fun r => x.fieldsBad r.k.desc.regs .pred (.reg x.fw) (.reg x.fw) (.raw (decide (x.c ≤ 7))) ++ x.fpBad r.k false
      ++ x.extBad r.k.desc.regs true false true false 0)
    (x.regs .pred (.reg x.fw) (.reg x.fw) .none)
    (fun s r =>
      let env := r.k.env (x.m 59 57) (x.m 62 60)
      let w := x.fmt.width
      let (g, fl) := r.exec.foldl (fun (acc : Group × FpFlags) l =>
        let a := x.fmt.read env (r.g.src x.ka l x.a x.fw % 2 ^ w)
        let b := x.fmt.read env (x.fpB r.g l % 2 ^ w)
        let (v, iv) := fpCond x.c a.1 b.1
        (acc.1.writePred l x.d v, ((acc.2.or a.2).or b.2).or { iv := iv })) (r.g, FpFlags.none)
      (s.orFlags r.k.ctx fl).done x r g)

/-- fp.class (R177). -/
def execFpClass (x : Issue) (s : State) : Host.Outcome State Fault Refusal :=
  s.onIssue x
    (fun r => x.fieldsBad r.k.desc.regs (.reg 32) (.reg x.fw) .none .none ++ x.fpBad r.k false
      ++ x.extBad r.k.desc.regs true false false false 0)
    (x.regs (.reg 32) (.reg x.fw) .none .none)
    (fun s r =>
      s.done x r ((r.lanes x.kd).foldl (fun g l =>
        let a := r.g.src x.ka l x.a x.fw
        let v := (List.range x.elems.length).foldl (fun v e =>
          let (lo, w) := x.elems.getD e (0, 32)
          v + fpClassMask x.fmt (natBits a (lo + w - 1) lo) * 2 ^ (16 * e)) 0
        g.dst x.kd l x.d 32 v) r.g))

/-- The integer width and signedness in field C of fp.fromint and fp.toint (R178). -/
def Issue.intW (i : Issue) : Nat := if i.c.testBit 0 then 64 else 32
def Issue.intS (i : Issue) : Bool := i.c.testBit 1

/-- fp.fromint (R178): with packed halves element 0 is written and element 1 is +0. -/
def execFpFromint (x : Issue) (s : State) : Host.Outcome State Fault Refusal :=
  s.onIssue x
    (fun r => x.fieldsBad r.k.desc.regs (.reg x.fw) (.reg x.intW) .none (.raw (decide (x.c < 4))) ++ x.fpBad r.k false
      ++ x.extBad r.k.desc.regs true false false true 0)
    (x.regs (.reg x.fw) (.reg x.intW) .none .none ++ x.srRegs)
    (fun s r =>
      let env := r.k.env (x.m 59 57) (x.m 62 60)
      let (g, fl) := (r.lanes x.kd).foldl (fun (acc : Group × FpFlags) l =>
        let env := if env.rm = .sr then { env with draw := x.draw r l 0 } else env
        let v := x.fmt.round env false (Val.ofInt (asInt x.intS x.intW (r.g.src x.ka l x.a x.intW)))
        (acc.1.dst x.kd l x.d x.fw v.bits, acc.2.or v.flags)) (r.g, FpFlags.none)
      (s.orFlags r.k.ctx fl).done x r g)

/-- fp.toint (R178): element 0 of packed halves is read; out of range, NaN and infinity as R67 gives. -/
def execFpToint (x : Issue) (s : State) : Host.Outcome State Fault Refusal :=
  s.onIssue x
    (fun r => x.fieldsBad r.k.desc.regs (.reg x.intW) (.reg x.fw) .none (.raw (decide (x.c < 4))) ++ x.fpBad r.k false
      ++ x.extBad r.k.desc.regs true false false true 0)
    (x.regs (.reg x.intW) (.reg x.fw) .none .none ++ x.srRegs)
    (fun s r =>
      let env := r.k.env (x.m 59 57) (x.m 62 60)
      let w := x.intW
      let lo : Int := if x.intS then -((2 ^ (w - 1) : Nat) : Int) else 0
      let hi : Int := if x.intS then ((2 ^ (w - 1) : Nat) : Int) - 1 else ((2 ^ w : Nat) : Int) - 1
      let (g, fl) := (r.lanes x.kd).foldl (fun (acc : Group × FpFlags) l =>
        let env := if env.rm = .sr then { env with draw := x.draw r l 0 } else env
        let a := x.fmt.read env (r.g.src x.ka l x.a x.fw % 2 ^ x.fmt.width)
        let (n, f, _) := roundInt env lo hi a.1
        (acc.1.dst x.kd l x.d w (toUnsigned w n), (acc.2.or a.2).or f)) (r.g, FpFlags.none)
      (s.orFlags r.k.ctx fl).done x r g)

/-- An instruction of the function unit (R176). -/
def State.fuOp (s : State) (x : Issue) (fn : Nat) : Host.Outcome State Fault Refusal :=
  s.fpOp x (.reg x.fw) .none .none false false true
    (fun f e a _ _ => functionUnit (s.rd F.devIdentFtEdition) fn f e a)

/-- fp.exp (R176). -/
def execFpExp (x : Issue) (s : State) : Host.Outcome State Fault Refusal := s.fuOp x 0

/-- fp.log (R176). -/
def execFpLog (x : Issue) (s : State) : Host.Outcome State Fault Refusal := s.fuOp x 1

/-- fp.rsqrt (R176). -/
def execFpRsqrt (x : Issue) (s : State) : Host.Outcome State Fault Refusal := s.fuOp x 2

/-- fp.sin (R176). -/
def execFpSin (x : Issue) (s : State) : Host.Outcome State Fault Refusal := s.fuOp x 3

/-- fp.cos (R176). -/
def execFpCos (x : Issue) (s : State) : Host.Outcome State Fault Refusal := s.fuOp x 4

-- conversion (R181)

/-- How many elements of a format one register holds (R50, R181). -/
def Format.perReg (f : Format) : Nat :=
  if 32 ≤ f.width then 1 else if f.width = 16 then 2 else if f.width = 4 then 8 else 4

/-- The distance between the elements of a register. -/
def Format.regStep (f : Format) : Nat := if f.width = 6 then 8 else f.width

def Format.regWidth (f : Format) : Nat := if f.width = 64 then 64 else 32

/-- cvt (R181). -/
def execCvt (x : Issue) (s : State) : Host.Outcome State Fault Refusal :=
  let sf := Format.ofCode (x.e 51 48)
  let df := Format.ofCode (x.e 55 52)
  let fs := sf.getD .fp32
  let fd := df.getD .fp32
  let ss := x.e 58 56
  let sd := x.e 61 59
  let scaled := decide (x.m 59 59 = 1)
  let uc : Use := if scaled then .raw (decide (x.c < 64)) else .none
  s.onIssue x
    (fun r => x.fieldsBad r.k.desc.regs (.reg fd.regWidth) (.reg fs.regWidth) .none uc
      ++ [(12, x.ext.isNone), (53, (r.k.rm (x.m 55 53)).isNone), (56, (r.k.subn (x.m 58 56)).isNone),
          (60, decide (x.m 63 60 ≠ 0)), (112, sf.isNone), (116, df.isNone), (120, decide (fs.perReg ≤ ss)),
          (123, decide (fd.perReg ≤ sd)), (126, decide (x.e 63 62 ≠ 0))]
      ++ x.extBad r.k.desc.regs true false false true 16)
    (x.regs (.reg fd.regWidth) (.reg fs.regWidth) .none .none ++ x.srRegs ++ (if scaled then [(true, x.c)] else []))
    (fun s r =>
      let env := r.k.env (x.m 55 53) (x.m 58 56)
      let scale := if scaled then combinedScale [BitVec.ofNat 32 (r.g.readU x.c)] else .num false 1 0 false
      let (g, fl) := (r.lanes x.kd).foldl (fun (acc : Group × FpFlags) l =>
        let env := if env.rm = .sr then { env with draw := x.draw r l 0 } else env
        let a := r.g.src x.ka l x.a fs.regWidth / 2 ^ (ss * fs.regStep) % 2 ^ fs.width
        let (v, f) := convert fs fd env scale a
        let old := r.g.src x.kd l x.d fd.regWidth
        let lo := sd * fd.regStep
        let new := old % 2 ^ lo + v % 2 ^ fd.width * 2 ^ lo + old / 2 ^ (lo + fd.regStep) * 2 ^ (lo + fd.regStep)
        (acc.1.dst x.kd l x.d fd.regWidth new, acc.2.or f)) (r.g, FpFlags.none)
      (s.orFlags r.k.ctx fl).done x r g)

end Sys2Proof.Machine
end

