-- ==== Sys2Proof/Machine/Control.lean ====
section
/-! DEFINITION. The control instructions: branches, reconvergence, thread ends, traps and barriers
(06_kwaok_instruction_reference.md, R190, R191; 07_thread_groups.md, R209 to R219). -/

namespace Sys2Proof.Machine

/-- The MOD bits of the control class: `jmp` uses bit 50, and every other instruction none (R191). A reserved bit reports
the first bit of its run: 49, 50, or 51 for the bits above. -/
def Issue.modBad (i : Issue) : List Bad :=
  [(49, decide (i.m 49 49 ≠ 0)), (50, decide (i.m 50 50 ≠ 0)), (51, decide (i.m 63 51 ≠ 0))]

/-- The checks of a control instruction: the fields D, A, B, C that it does not use, its MOD bits, and its extension word. -/
def Issue.ctlBad (i : Issue) (d a b c : Bool) : List Bad :=
  [(17, !d && decide (i.d ≠ 0)), (25, !a && decide (i.a ≠ 0)), (33, !b && decide (i.b ≠ 0)), (41, !c && decide (i.c ≠ 0)),
   (12, i.ext.isSome)] ++ i.modBad

/-- The threads that execute continue at a target of their own, the others in sequence. -/
def Ready.branch (r : Ready) (i : Issue) (g : Group) (f : Nat → Word) : Group :=
  (r.next i g).setPc r.exec f

/-- A byte displacement of a signed count of 8-byte units. -/
def jumpTo (pc : Word) (units : Nat) : Word := pc + BitVec.ofInt 64 (8 * toSigned 32 units)

/-- nop (R190), and the illegal-instruction fault of a word whose class or opcode is reserved (R165, R166). -/
def execNop (x : Issue) (s : State) : Host.Outcome State Fault Refusal :=
  s.onIssue x (fun _ => match x.reserved with
      | some p => [(p, true)]
      | none => x.ctlBad false false false false) [] (fun s r => s.done x r r.g)

/-- bra (R190, R191): OFFSET stands in bits 48 to 17. -/
def execBra (x : Issue) (s : State) : Host.Outcome State Fault Refusal :=
  s.onIssue x (fun _ => x.ctlBad true true true true) []
    (fun s r =>
      let off := x.d + x.a * 2 ^ 8 + x.b * 2 ^ 16 + x.c * 2 ^ 24
      s.issued x r (r.branch x r.g (fun _ => jumpTo r.pc off)))

/-- call (R190): PC + 16 goes to the link pair. -/
def execCall (x : Issue) (s : State) : Host.Outcome State Fault Refusal :=
  s.onIssue x
    (fun r => [(12, x.ext.isNone), (17, !regLegal false x.d 64 r.k.desc.regs), (25, decide (x.a ≠ 0)),
        (33, decide (x.b ≠ 0)), (41, decide (x.c ≠ 0))] ++ x.modBad
      ++ x.extBad r.k.desc.regs true true false false 0)
    (operandRegs false x.d 64)
    (fun s r =>
      let g := r.exec.foldl (fun g l => g.dst false l x.d 64 (r.pc + 16).toNat) r.g
      s.issued x r (r.branch x g (fun _ => jumpTo r.pc (x.e 31 0))))

/-- jmp (R190, R191): the target stands in a vector pair or a uniform register and is a multiple of 8. -/
def execJmp (x : Issue) (s : State) : Host.Outcome State Fault Refusal :=
  let uni := decide (x.m 50 50 = 1)
  s.onIssue x
    (fun r => [(12, x.ext.isSome), (17, decide (x.d ≠ 0)), (25, !regLegal uni x.a 64 r.k.desc.regs), (33, decide (x.b ≠ 0)),
        (41, decide (x.c ≠ 0)), (49, decide (x.m 49 49 ≠ 0)), (51, decide (x.m 63 51 ≠ 0))])
    (operandRegs uni x.a 64)
    (fun s r =>
      let target := fun l => r.g.src uni l x.a 64
      match r.exec.find? (fun l => decide (target l % 8 ≠ 0)) with
      | some l => s.precise x r 0x05 8 (BitVec.ofNat 64 (target l))
      | none => s.issued x r (r.branch x r.g (fun l => BitVec.ofNat 64 (target l))))

/-- converge (R209): the whole set is held there. -/
def execConverge (x : Issue) (s : State) : Host.Outcome State Fault Refusal :=
  s.onIssue x (fun _ => x.ctlBad false false false false) []
    (fun s r =>
      let y : CoreSt := s.core x.core
      s.setCore x.core { y with groups := y.groups.set x.pos (r.g.setStat r.set .held) })

/-- The lanes of the held set at the lowest program counter, where no set of the group can progress (R209). -/
def Group.releasable (g : Group) : List Nat :=
  let held := (List.range 32).filter (fun l => decide (g.stat l = .held))
  if (List.range 32).any (fun l => decide (g.stat l = .run)) then []
  else
    match sortBy (fun a b => decide (a.toNat ≤ b.toNat)) (held.map g.pc) with
    | [] => []
    | p :: _ => held.filter (fun l => decide (g.pc l = p))

/-- CONVERGE_RELEASE (R209, R210): the held set at the lowest program counter issues its converge and continues. -/
def execConvergeRelease (core pos : Nat) (s : State) : Host.Outcome State Fault Refusal :=
  let x := s.core core
  match s.running? core, x.groups.get? pos with
  | some (_, k), some g =>
    let lanes := g.releasable
    if lanes ≠ [] ∧ g.gstate = .live ∧ k.phase = .running ∧ s.partLive k.part = true ∧ core ∉ s.stopped ∧ g.fence = none then
      let g' := (g.setStat lanes .run).setPc lanes (fun l => g.pc l + 8)
      let s := (s.setCore core { x with groups := x.groups.set pos g' }).bumpRun F.schCountCtlRun F.schIssuesCount core
      .next (if lanes.length < g.live.length then s.bumpRun F.schCountCtlRun F.schPartialIssuesCount core else s)
    else .next s
  | _, _ => .next s

/-- exit (R190, R215): the executing threads end, which can complete a barrier's phase, the workgroup and the task. -/
def execExit (x : Issue) (s : State) : Host.Outcome State Fault Refusal :=
  s.onIssue x (fun _ => x.ctlBad false false false false) []
    (fun s r =>
      let g := (r.next x r.g).setStat r.exec .exited
      ((s.issued x r g).settleBarriers x.core r.g.slot 4).settleWg x.core r.g.slot)

/-- trap (R190): its record names the threads that executed it. -/
def execTrap (x : Issue) (s : State) : Host.Outcome State Fault Refusal :=
  s.onIssue x (fun _ => x.ctlBad true true false false) []
    (fun s r =>
      if r.exec = [] then s.done x r r.g
      else s.precise x r 0x08 ((x.d + x.a * 2 ^ 8) % 2 ^ 16) 0 r.exec)

-- barriers

/-- Are a group's earlier accesses performed at workgroup scope (R217, R227): no transaction, no drain in flight? -/
def CoreSt.performed (x : CoreSt) (pos : Nat) : Bool :=
  x.txns.all (fun t => decide (t.pos ≠ pos)) && x.mxq.all (fun e => decide (e.pos ≠ pos) || (match e.op with
    | .drain _ => false
    | _ => true))

/-- How a barrier instruction treats a thread: its new state, and whether it arrives. -/
abbrev BarRule := Bool → TStat × Bool

/-- A group after a barrier instruction: the executing threads arrive or park, and those that do not park go on. -/
def Ready.atBarrier (r : Ready) (i : Issue) (rule : BarRule) : Group :=
  let b := i.a
  let old := r.g.arr.getD b 0
  let parked := r.exec.filter (fun l => decide ((rule (old.testBit l)).1 ≠ .run))
  let arrive := r.exec.filter (fun l => (rule (old.testBit l)).2)
  let g := { r.g with arr := r.g.arr.put 0 b (old ||| laneMask arrive) }
  let g := parked.foldl (fun (g : Group) l => g.setStat [l] (rule (old.testBit l)).1) g
  g.setPc (r.set.filter (fun l => decide (l ∉ parked))) (fun _ => r.pc + 8)

/-- A barrier instruction (R214, R217, R219): it waits for the group's earlier accesses where it arrives; where the parking
of its threads would make a deadlock, it is refused and its group faults, with the workgroup's other deadlocked groups. -/
def State.barrierOp (s : State) (i : Issue) (arrives : Bool) (rule : BarRule) : Host.Outcome State Fault Refusal :=
  if arrives && !(s.core i.core).performed i.pos then .next s
  else
    s.onIssue i
      (fun _ => i.ctlBad false true false false ++ [(25, decide (15 < i.a))]) []
      (fun s r =>
        let u := (s.issued i r (r.atBarrier i rule)).settleBarriers i.core r.g.slot 4
        let dead := deadlockedGroups ((u.core i.core).slotGroups r.g.slot)
        if dead.any (fun e => decide (e.1 = i.pos)) then
          let others := dead.filter (fun e => decide (e.1 ≠ i.pos))
          let (v, fs) := (s.issued i r r.g).deadlockFaults i.core others
          let own : PendFault :=
            { pos := i.pos, pc := r.pc, lanes := laneMask r.set, code := 0x07, detail := i.a, addr := 0 }
          let num : PendFault → Nat := fun (f : PendFault) => ((r.x.groups.get? f.pos).map (fun g => g.num)).getD 0
          v.takeFaults i.core (sortBy (fun (a b : PendFault) => decide (num a ≤ num b)) (own :: fs))
        else u)

/-- bar.sync (R214): the threads arrive and park; one whose arrival the phase already holds arrives in the next. -/
def execBarSync (x : Issue) (s : State) : Host.Outcome State Fault Refusal :=
  s.barrierOp x true (fun old => if old then (.barrier x.a .rearriveSync, false) else (.barrier x.a .goOn, true))

/-- bar.arrive (R214). -/
def execBarArrive (x : Issue) (s : State) : Host.Outcome State Fault Refusal :=
  s.barrierOp x true (fun old => if old then (.barrier x.a .rearriveArrive, false) else (.run, true))

/-- bar.wait (R214): it parks the threads whose last arrival's phase is the current one. -/
def execBarWait (x : Issue) (s : State) : Host.Outcome State Fault Refusal :=
  s.barrierOp x false (fun old => if old then (.barrier x.a .goOn, false) else (.run, false))

end Sys2Proof.Machine
end

