-- ==== Sys2Proof/Machine/Counters.lean ====
section
/-! DEFINITION. Counters: their instructions, their arbiters, region grants and wait retention (08_counters_and_waiting.md, R233
to R259; 06_kwaok_instruction_reference.md, R200 to R203), and the journalled events of a group (R423, R433). -/

namespace Sys2Proof.Machine

-- journalled events of a group (R421, R423, R433)

/-- The program key of a group at a position. -/
def State.groupKey (s : State) (c pos : Nat) : Nat :=
  let x := s.core c
  match x.groups.get? pos with
  | some g => programKey (((x.slots.get? g.slot).map (fun w => w.linear)).getD 0) g.num
  | none => 0

/-- A group's next event number is used. -/
def State.countEventOf (s : State) (c pos : Nat) : State :=
  let x : CoreSt := s.core c
  s.setCore c { x with groups := x.groups.adjust pos (fun g => { g with events := g.events + 1 }) }

/-- A keyed entry journalled for a group of a recorded context, after its key prefix; the group stalls while the entry buffer
is over its size (R426). -/
def State.groupJournal (s : State) (k : Task) (c pos kind : Nat) (tail : List Byte) : State :=
  if s.recording k.ctx then
    let n := (((s.core c).groups.get? pos).map (fun g => g.events)).getD 0
    let s : State := s.journalCtx k.ctx kind (s.groupKey c pos) (leBytes 4 k.tag ++ leBytes 4 n ++ tail)
    let s : State := s.countEventOf c pos
    if s.skbRoom k.part 0 then s
    else
      let x : CoreSt := s.core c
      s.setCore c { x with groups := x.groups.adjust pos (fun g => { g with stall := true }) }
  else s

/-- The keyed entry that serves a group's next event in a replay, consumed: its payload after the key prefix. A missing entry, or
one that a test refuses, makes the replay diverge, and the input is served live (R433, R434). -/
def State.groupReplay (s : State) (k : Task) (c pos kind : Nat) (test : List Byte → Bool) : State × Option (List Byte) :=
  if s.replaying k.ctx then
    let n := (((s.core c).groups.get? pos).map (fun g => g.events)).getD 0
    match s.keyedEntry k.part (s.groupKey c pos) k.tag n with
    | some e =>
      let body := (s.jPayload k.part e).drop 8
      if e.kind = kind ∧ test body = true then ((s.consumeKeyed k.part e.seq).countEventOf c pos, some body)
      else (s.diverge k.part 4 (s.skb k.part).lastSeq, none)
    | none => (s.diverge k.part 4 (s.skb k.part).lastSeq, none)
  else (s, none)

-- references (R201)

def CtrName.encode : CtrName → Bool → Nat
  | .core c i, other => (if other then 1 + c * 2 ^ 18 else 0) + i * 2 ^ 8
  | .region r i, _ => 2 + i * 2 ^ 8 + r * 2 ^ 32

def CtrRef.name (r : CtrRef) (core : Nat) : CtrName :=
  match r with
  | .core i => .core core i
  | .region r i => .region r i

/-- The lowest bit of an offending field of a counter reference. -/
def refBad (w : Nat) (add : Bool) : Option Nat :=
  let kind := natBits w 1 0
  illegal? [(0, decide (kind = 3) || (decide (kind = 1) && !add)), (2, decide (natBits w 7 2 ≠ 0)),
    (8, decide ((if kind = 2 then 512 else 48) ≤ natBits w 17 8)),
    (18, decide (kind ≠ 1) && decide (natBits w 28 18 ≠ 0)), (29, decide (natBits w 31 29 ≠ 0)),
    (32, decide (kind ≠ 2) && decide (natBits w 33 32 ≠ 0)), (34, decide (natBits w 63 34 ≠ 0))]

/-- The counter that a legal reference names from a core. -/
def refName (w core : Nat) : CtrName :=
  match natBits w 1 0 with
  | 0 => .core core (natBits w 17 8)
  | 1 => .core (natBits w 28 18) (natBits w 17 8)
  | _ => .region (natBits w 33 32) (natBits w 17 8)

/-- Is a region counter's block validly granted to a context (R239)? -/
def State.blockGranted (s : State) (r i ctx : Nat) : Bool :=
  let n := r * 8 + i / 64
  s.flag F.regCntOwnerValid n && decide (s.rd F.regCntOwnerContext n = ctx)

-- occupancy (R257)

/-- Entries of a core in use under its bound: transactions, and counter operations leaving the core until applied or answered. -/
def CoreSt.txnOcc (x : CoreSt) (core : Nat) : Nat :=
  (x.txns.map (fun t => t.cost)).sum
    + (x.flights.filter (fun f => match f.ctr, f.op with
      | .region _ _, _ => true
      | .core c _, _ => decide (c ≠ core))).length
    + (x.groups.filter (fun e => match e.2.wait with
      | some w => w.arrived && (match w.ref with
        | .region _ _ => true
        | .core _ => false)
      | none => false)).length

/-- The waits of queue commands (CNT_WAIT, R358) that stand at a region's counter unit: queue and command. -/
def State.cmdWaits (s : State) (r : Nat) : List (Nat × Cmd) :=
  s.queues.flatMap (fun (e : Nat × QueueSt) => e.2.cmds.filterMap (fun (c : Cmd) =>
    if c.waiting && decide (c.opcode = 4) && decide (natBits (c.field 0x10 8) 33 32 = r) then some (e.1, c) else none))

/-- Pending waits and claims held by a region's counter unit. -/
def State.regionWaits (s : State) (r : Nat) : Nat :=
  (s.cmdWaits r).length + s.cores.foldl (fun a e => a + (e.2.groups.filter (fun g => match g.2.wait with
    | some w => w.arrived && (match w.ref with
      | .region r' _ => decide (r' = r)
      | .core _ => false)
    | none => false)).length) 0

-- adds (R233, R236, R240)

def State.ctrVal (s : State) : CtrName → Nat
  | .core c i => (s.core c).ctrs.getD i 0
  | .region r i => s.regionCtrs.getD (r * 512 + i) 0

def State.setCtr (s : State) (n : CtrName) (v : Nat) : State :=
  match n with
  | .core c i => let x : CoreSt := s.core c; s.setCore c { x with ctrs := x.ctrs.put 0 i v }
  | .region r i => { s with regionCtrs := s.regionCtrs.put 0 (r * 512 + i) v }

/-- An add applied: it stops at 2^64 − 1, and a sum past that is logged (R233). -/
def State.addTo (s : State) (n : CtrName) (v ctx : Nat) : State :=
  let sum := s.ctrVal n + v
  let s : State := s.setCtr n (min sum (2 ^ 64 - 1))
  if 2 ^ 64 ≤ sum then
    match n with
    | .core c _ => s.hwEvent (regionOfCore c) 0x0001 c ctx
    | .region r i => s.hwEvent r 0x0001 (0x8000 + i) ctx
  else s

/-- An add that a core discards (R240): counted and logged. -/
def State.discardAdd (s : State) (c ctx : Nat) : State :=
  (s.bump F.cntDiscardedCount c).hwEvent (regionOfCore c) 0x0002 c ctx

/-- Is a task running on a core: begun there, not ended, not switched out? -/
def State.runningOn (s : State) (t c : Nat) : Bool :=
  match s.running? c with
  | some (t', k) => decide (t' = t) && decide (k.phase = .running)
  | none => false

/-- An add of a task reaching a core's counter: applied, held for a bound task that is not running there, or discarded. -/
def State.coreAdd (s : State) (t c i v : Nat) : State :=
  let ctx := ((s.task? t).map (fun k => k.ctx)).getD 0xFFFF
  let x : CoreSt := s.core c
  if c ∈ s.stopped ∨ s.vacant c = true ∨ t ∉ x.bound then s.discardAdd c ctx
  else if s.runningOn t c then s.addTo (.core c i) v ctx
  else
    let sums := x.pend.getD t []
    s.setCore c { x with pend := x.pend.set t (sums.set i (min (sums.getD i 0 + v) (2 ^ 64 - 1))) }

/-- An add of a context reaching a region counter: applied, or discarded and counted where its block is not granted. -/
def State.regionAdd (s : State) (ctx r i v : Nat) : State :=
  if s.blockGranted r i ctx then s.addTo (.region r i) v ctx else s.bump F.regCntDiscardedCount r

-- waits and claims settled (R243)

/-- A pending wait or claim of a counter, where it stands: core, position, and the wait. -/
structure Pending where
  core : Nat
  pos : Nat
  wg : Nat
  num : Nat
  w : CtrWait
deriving DecidableEq, Repr

/-- The waits and claims that have reached a counter's arbiter. -/
def State.pendingOn (s : State) (n : CtrName) : List Pending :=
  let of := fun (c : Nat) (x : CoreSt) => x.groups.filterMap (fun e =>
    match e.2.wait with
    | some w =>
      if w.arrived && decide (w.ref.name c = n) && decide (e.2.gstate = .live) then
        some { core := c, pos := e.1, wg := ((x.slots.get? e.2.slot).map (fun y => y.linear)).getD 0, num := e.2.num, w := w }
      else none
    | none => none)
  match n with
  | .core c _ => of c (s.core c)
  | .region _ _ => s.cores.flatMap (fun e => of e.1 e.2)

/-- How a wait or claim ends: satisfied or granted, completed false, or timed out. -/
inductive WaitEnd where
  | true_ | false_ | timeout
deriving DecidableEq, Repr

def WaitEnd.code : WaitEnd → Nat
  | .true_ => 1
  | .false_ => 0
  | .timeout => 2

/-- A group whose wait or claim ends: the result predicate is written in every active thread, the set goes on (R202), and the
outcome of a claim or a timed wait is journalled (R245). -/
def State.endWait (s : State) (p : Pending) (e : WaitEnd) (replayed : Bool) : State :=
  let x : CoreSt := s.core p.core
  match s.running? p.core, x.groups.get? p.pos with
  | some (_, k), some g =>
    let lanes := (List.range 32).filter (fun l => p.w.lanes.testBit l)
    let g := lanes.foldl (fun (h : Group) l => h.writePred l p.w.pred (decide (e = .true_))) g
    let g := (g.setStat lanes .run).setPc lanes (fun l => g.pc l + BitVec.ofNat 64 p.w.len)
    let s : State := s.setCore p.core { x with groups := x.groups.set p.pos { g with wait := none } }
    if (p.w.claim || p.w.deadline.isSome) && !replayed then
      let name := p.w.ref.name p.core
      s.groupJournal k p.core p.pos 0x08
        (leBytes 1 (if p.w.claim then 1 else 0) ++ leBytes 1 e.code ++ leBytes 6 0 ++ leBytes 8 (name.encode false)
          ++ leBytes 8 p.w.target ++ leBytes 8 (s.ctrVal name))
    else s
  | _, _ => s

/-- A CNT_WAIT command ends (R358): its status, the counter's value as its RESULT, and its journal entry (R423). -/
def State.endCmdWait (s : State) (q : Nat) (c : Cmd) (e : WaitEnd) : State :=
  let ref := c.field 0x10 8
  let v := s.ctrVal (.region (natBits ref 33 32) (natBits ref 17 8))
  let st := match e with
    | .true_ => 0
    | .false_ => 0x09
    | .timeout => 0x0E
  (s.endCmd q c.seq st v).journalCtx (s.queueCtx q) 0x08 (2 ^ 63 + s.queueOff q)
    (leBytes 4 c.tag ++ leBytes 4 0 ++ leBytes 1 3 ++ leBytes 1 e.code ++ leBytes 6 0 ++ leBytes 8 ref
      ++ leBytes 8 (c.field 0x18 8) ++ leBytes 8 v)

/-- The CNT_WAIT commands at a counter that a test takes end. -/
def State.endCmdWaits (s : State) (n : CtrName) (test : Cmd → Bool) (e : WaitEnd) : State :=
  match n with
  | .core _ _ => s
  | .region r i =>
    ((s.cmdWaits r).filter (fun x => decide (natBits (x.2.field 0x10 8) 17 8 = i) && test x.2)).foldl
      (fun (u : State) x => u.endCmdWait x.1 x.2 e) s

def State.endWaits (s : State) (l : List Pending) (e : WaitEnd) : State :=
  l.foldl (fun (u : State) p => u.endWait p e false) s

/-- Is a pending claim before another at the arbiter: by arrival, then the lower core, then the older group? -/
def Pending.before (a b : Pending) : Bool :=
  decide (a.w.order < b.w.order)
    || (decide (a.w.order = b.w.order)
      && (decide (a.core < b.core)
        || (decide (a.core = b.core) && (decide (a.wg < b.wg) || (decide (a.wg = b.wg) && decide (a.num ≤ b.num))))))

/-- Steps 2 to 5 of an arbitration (R243). -/
def State.settleCtr (s : State) (n : CtrName) : State :=
  let s : State := s.endWaits ((s.pendingOn n).filter (fun p => !p.w.claim && decide (p.w.target ≤ s.ctrVal n))) .true_
  let s : State := s.endCmdWaits n (fun c => decide (c.field 0x18 8 ≤ s.ctrVal n)) .true_
  let v := s.ctrVal n
  let s : State :=
    match sortBy Pending.before ((s.pendingOn n).filter (fun p => p.w.claim && decide (p.w.target = v))) with
    | p :: _ => if v < 2 ^ 64 - 1 then (s.setCtr n (v + 1)).endWait p .true_ false else s
    | [] => s
  let v := s.ctrVal n
  let s : State := s.endWaits ((s.pendingOn n).filter (fun p => p.w.claim && decide (p.w.target < v))) .false_
  let due := fun (d : Option Nat) => match d with
    | some d => decide (d ≤ s.now)
    | none => false
  let s : State := s.endWaits ((s.pendingOn n).filter (fun p => due p.w.deadline)) .timeout
  s.endCmdWaits n (fun c => due c.deadline) .timeout

-- the instructions (R200 to R202, R241)

/-- The checks of a counter instruction: D, the counter A, the value or target B, and the timeout C with TO. -/
def Issue.cntBad (i : Issue) (d : Use) (b timed : Bool) : List Bad :=
  let ref := decide (i.m 49 49 = 1)
  let tmo := decide (i.m 50 50 = 1)
  let dBad := match d with
    | .pred => decide (7 < i.d)
    | .reg _ => decide (64 ≤ i.d)
    | _ => decide (i.d ≠ 0)
  [(17, dBad), (25, decide ((if ref then 64 else 48) ≤ i.a)),
   (33, if b && !i.bi then decide (64 ≤ i.b) else decide (i.b ≠ 0)),
   (41, if tmo && timed then decide (64 ≤ i.c) else decide (i.c ≠ 0)),
   (50, tmo && !timed), (51, decide (i.m 63 51 ≠ 0))]
    ++ i.extBad 0 true false b false 0

/-- The uniform registers that a counter instruction reads. -/
def Issue.cntRegs (i : Issue) (b : Bool) : List (Bool × Nat) :=
  (if i.m 49 49 = 1 then [(true, i.a)] else []) ++ (if b && !i.bi then [(true, i.b)] else [])
    ++ (if i.m 50 50 = 1 then [(true, i.c)] else [])

/-- A deferred fault detected at issue: it waits for the group's next instruction boundary. -/
def State.defer (s : State) (i : Issue) (r : Ready) (code detail : Nat) (addr : Word := 0) (lanes : List Nat := r.set) :
    State :=
  let x : CoreSt := s.core i.core
  s.setCore i.core { x with faults := x.faults ++
    [{ pos := i.pos, pc := r.pc, lanes := laneMask lanes, code := code, detail := detail, addr := addr }] }

/-- The fault that a counter reference meets (R239, R240), if any. -/
def State.refFault (s : State) (k : Task) (n : CtrName) : Option Nat :=
  match n with
  | .core c _ =>
    if 1152 ≤ c ∨ partOfRegion s.mode (regionOfCore c) ≠ k.part then some 0x12 else if c ∉ k.cores then some 0x13 else none
  | .region r i =>
    if partOfRegion s.mode r ≠ k.part then some 0x12 else if !s.blockGranted r i k.ctx then some 0x13 else none

/-- A counter operation put on its way to its arbiter. -/
def State.fly (s : State) (core pos task : Nat) (n : CtrName) (op : CtrOp) : State :=
  let x : CoreSt := s.core core
  s.setCore core { x with flights := x.flights ++ [{ id := x.nextId, task := task, pos := pos, ctr := n, op := op }],
                          nextId := x.nextId + 1 }

/-- Does the operation leave the core? -/
def CtrName.remote (n : CtrName) (core : Nat) : Bool :=
  match n with
  | .core c _ => decide (c ≠ core)
  | .region _ _ => true

/-- A counter instruction (R200, R201, R240): its reference is decoded and checked, its fault deferred, its bound met; then its
own effect. It acts once, where a thread executes it. -/
def State.cntOp (s : State) (i : Issue) (d : Use) (b timed add : Bool)
    (f : State → Ready → CtrName → State) : Host.Outcome State Fault Refusal :=
  s.onIssue i (fun _ => i.cntBad d b timed)
    (i.cntRegs b ++ (match d with
      | .reg _ => [(true, i.d)]
      | _ => []))
    (fun s r =>
      let ref := decide (i.m 49 49 = 1)
      let w := r.g.readU i.a
      match (if ref then refBad w add else none) with
      | some bit => s.precise i r 0x01 (0x8000 + bit)
      | none =>
        if r.exec = [] then s.done i r r.g
        else
          let n := if ref then refName w i.core else .core i.core i.a
          match (if ref then s.refFault r.k n else none) with
          | some code => (s.done i r r.g).defer i r code 2
          | none =>
            if n.remote i.core && decide (256 ≤ (s.core i.core).txnOcc i.core) then s
            else f s r n)

/-- The value or target: IMM32 zero-extended, or a uniform register. -/
def Issue.cntVal (i : Issue) (g : Group) : Nat := if i.bi then i.e 31 0 else g.readU i.b

/-- cnt.add (R241): the group goes on at once. -/
def execCntAdd (x : Issue) (s : State) : Host.Outcome State Fault Refusal :=
  s.cntOp x .none true false true (fun s r n =>
    (s.done x r r.g).fly x.core x.pos r.t n (.add (x.cntVal r.g)))

/-- A wait or a claim (R202, R241, R244): the issuing set waits, its deadline stamped at issue. A group has one waiting entry; a
second set waits for it to be free. -/
def State.cntWaitOp (s : State) (x : Issue) (claim : Bool) : Host.Outcome State Fault Refusal :=
  s.cntOp x .pred true true false (fun s r n =>
    if r.g.wait.isSome then s
    else
      let ref : CtrRef := match n with
        | .core _ i => .core i
        | .region rg i => .region rg i
      let deadline := if x.m 50 50 = 1 then some (s.now + min (r.g.readU x.c) (2 ^ 32 - 1)) else none
      let w : CtrWait :=
        { ref := ref, len := x.len, claim := claim, target := x.cntVal r.g, deadline := deadline, lanes := laneMask r.set,
          pred := x.d }
      (s.issued x r { (r.g.setStat r.set .counter) with wait := some w }).fly x.core x.pos r.t n .waitClaim)

/-- cnt.wait (R241). -/
def execCntWait (x : Issue) (s : State) : Host.Outcome State Fault Refusal := s.cntWaitOp x false

/-- cnt.claim (R241). -/
def execCntClaim (x : Issue) (s : State) : Host.Outcome State Fault Refusal := s.cntWaitOp x true

/-- cnt.read (R241). -/
def execCntRead (x : Issue) (s : State) : Host.Outcome State Fault Refusal :=
  s.cntOp x (.reg 64) false false false (fun s r n => (s.done x r r.g).fly x.core x.pos r.t n (.read x.d))

-- arbitration (R243)

/-- The region of a counter. -/
def CtrName.homeRegion : CtrName → Nat
  | .core c _ => regionOfCore c
  | .region r _ => r

/-- Does a transaction write at a home in a region (R246)? A load does not. -/
def Txn.writesTo (s : State) (t : Txn) (region : Nat) : Bool :=
  let home := fun pa => decide ((s.paKind pa).region? = some region)
  match t.kind with
  | .exact pa _ _ _ => home pa
  | .longForm ps _ _ => ps.any (fun p => home p.1)
  | .stalled op _ => decide (op.kind ≠ .load)
  | .load .. => !t.atomLines.isEmpty && t.atomLines.any (fun l => home (l * 128))
  | .host .. | .flush => false

/-- Can an operation be taken by its arbiter (R242, R246, R257): it is its group's first to the counter, and what its adds are
ordered after has been performed? -/
def State.mayArrive (s : State) (core : Nat) (f : CtrFlight) : Bool :=
  let x := s.core core
  x.flights.all (fun e => decide (f.id ≤ e.id) || decide (e.pos ≠ f.pos) || decide (e.ctr ≠ f.ctr))
    && (match f.op with
      | .add _ =>
        if f.ctr.remote core then
          x.txns.all (fun t => decide (f.id ≤ t.id) || decide (t.pos ≠ f.pos) || !t.writesTo s f.ctr.homeRegion)
            && x.mxq.all (fun e => decide (f.id ≤ e.id) || decide (e.pos ≠ f.pos) || (match e.op with
              | .drain d => !d.toGlobal
              | _ => true))
        else
          x.txns.all (fun t => decide (f.id ≤ t.id) || decide (t.pos ≠ f.pos))
            && x.mxq.all (fun e => decide (f.id ≤ e.id) || decide (e.pos ≠ f.pos) || (match e.op with
              | .drain _ => false
              | _ => true))
      | .waitClaim =>
        match f.ctr with
        | .region r _ => decide (s.regionWaits r < 4096)
        | .core _ _ => true
      | .read _ => true)

/-- The body of a COUNTER entry: does it match an operation and a reference? -/
def counterEntry (op : Nat) (n : CtrName) (b : List Byte) : Bool :=
  decide (leNat (b.take 1) = op) && decide (leNat ((b.drop 8).take 8) = n.encode false)

/-- A wait or claim reaching its arbiter (R239, R433): it completes false where its block is not granted to its context, or as
the journal of a replay says; otherwise it joins the pending ones. -/
def State.waitArrives (s : State) (core : Nat) (f : CtrFlight) : State :=
  let x : CoreSt := s.core core
  match s.running? core, x.groups.get? f.pos with
  | some (_, k), some g =>
    match g.wait with
    | none => s
    | some w =>
      let p : Pending :=
        { core := core, pos := f.pos, wg := ((x.slots.get? g.slot).map (fun y => y.linear)).getD 0, num := g.num, w := w }
      let granted := match f.ctr with
        | .region r i => s.blockGranted r i k.ctx
        | .core _ _ => true
      if !granted then s.endWait p .false_ false
      else
        let join := fun (u : State) (w : CtrWait) =>
          let y : CoreSt := u.core core
          let w : CtrWait := { w with arrived := true, order := u.nextArrival }
          let groups := y.groups.adjust f.pos (fun h => { h with wait := some w })
          u.setCore core { y with groups := groups }
        if w.claim || w.deadline.isSome then
          match s.groupReplay k core f.pos 0x08 (counterEntry (if w.claim then 1 else 0) f.ctr) with
          | (s, none) => join s w
          | (s, some b) =>
            if leNat ((b.drop 1).take 1) = 1 then join s { w with deadline := none }
            else s.endWait p .false_ true
        else join s w
  | _, _ => s

/-- A read served (R243 step 6, R433): the value is written, journalled, or taken from the journal. -/
def State.readArrives (s : State) (core : Nat) (f : CtrFlight) (reg : Nat) : State :=
  let write := fun (u : State) (v : Nat) =>
    let y : CoreSt := u.core core
    u.setCore core { y with groups := y.groups.adjust f.pos (fun h => h.writeU reg v) }
  match s.running? core with
  | some (_, k) =>
    match s.groupReplay k core f.pos 0x08 (counterEntry 2 f.ctr) with
    | (s, some b) => write s (leNat ((b.drop 24).take 8))
    | (s, none) =>
      let v := s.ctrVal f.ctr
      (write s v).groupJournal k core f.pos 0x08
        (leBytes 1 2 ++ leBytes 1 1 ++ leBytes 6 0 ++ leBytes 8 (f.ctr.encode false) ++ leBytes 8 0 ++ leBytes 8 v)
  | none => s

/-- COUNTER_ARBITRATION (R243): the operations that arrive for a counter in one step, named by core and number, in their order
of arrival; those that cannot arrive yet are left on their way. -/
def execCounterArbitration (ctr : CtrName) (sources : List (Nat × Nat)) (s : State) : Host.Outcome State Fault Refusal :=
  let take := fun (acc : State × List (Nat × CtrFlight)) (e : Nat × Nat) =>
    let u : State := acc.1
    let x : CoreSt := u.core e.1
    match x.flights.find? (fun f => decide (f.id = e.2)) with
    | some f =>
      if f.ctr = ctr ∧ u.mayArrive e.1 f = true then
        (u.setCore e.1 { x with flights := x.flights.filter (fun g => decide (g.id ≠ e.2)) }, acc.2 ++ [(e.1, f)])
      else acc
    | none => acc
  let (s, l) := sources.foldl take (s, [])
  let s : State := l.foldl (fun (u : State) e => match e.2.op, ctr with
    | .add v, .core c i => u.coreAdd e.2.task c i v
    | .add v, .region r i => u.regionAdd (((u.task? e.2.task).map (fun k => k.ctx)).getD 0xFFFF) r i v
    | _, _ => u) s
  let s : State := l.foldl (fun (u : State) e => match e.2.op with
    | .waitClaim => u.waitArrives e.1 e.2
    | _ => u) s
  let s : State := ({ s with nextArrival := s.nextArrival + 1 }).settleCtr ctr
  .next (l.foldl (fun (u : State) e => match e.2.op with
    | .read reg => u.readArrives e.1 e.2 reg
    | _ => u) s)

/-- COUNTER_DEADLINE (R243, R244, R358): the deadline of a pending wait or claim, of a group or of a CNT_WAIT command, is reached, which
takes an arbitration. -/
def execCounterDeadline (w : WaitName) (s : State) : Host.Outcome State Fault Refusal :=
  match w with
  | .group core pos =>
    match ((s.core core).groups.get? pos).bind (fun g => g.wait) with
    | some w =>
      match w.arrived, w.deadline with
      | true, some d => .next (if d ≤ s.now then s.settleCtr (w.ref.name core) else s)
      | _, _ => .next s
    | none => .next s
  | .command q seq =>
    match s.cmd? q seq with
    | some c =>
      match c.waiting, c.deadline with
      | true, some d =>
        .next (if d ≤ s.now then s.settleCtr (.region (natBits (c.field 0x10 8) 33 32) (natBits (c.field 0x10 8) 17 8)) else s)
      | _, _ => .next s
    | none => .next s

-- region grants (R239, R259)

/-- The pending waits and claims of a block completed false. -/
def State.revokeBlock (s : State) (r b : Nat) : State :=
  let l := s.cores.flatMap (fun (e : Nat × CoreSt) => e.2.groups.filterMap (fun g =>
    match g.2.wait with
    | some w =>
      match w.ref with
      | .region r' i =>
        if w.arrived && decide (r' = r) && decide (i / 64 = b) then
          some { core := e.1, pos := g.1, wg := ((e.2.slots.get? g.2.slot).map (fun y => y.linear)).getD 0, num := g.2.num,
                 w := w : Pending }
        else none
      | .core _ => none
    | none => none))
  let s : State := s.endWaits l .false_
  ((s.cmdWaits r).filter (fun x => decide (natBits (x.2.field 0x10 8) 17 8 / 64 = b))).foldl
    (fun (u : State) x => u.endCmdWait x.1 x.2 .false_) s

/-- A write of REG.CNT_OWNER_b (R239, R259). -/
def State.writeCntOwner (s : State) (q : RegWriteReq) : State :=
  let r := q.n / 8
  let b := q.n % 8
  let was := q.was F.regCntOwnerValid
  let new := q.new F.regCntOwnerValid
  if new = 1 ∧ partOfCtx s.mode (q.new F.regCntOwnerContext) ≠ partOfRegion s.mode r then s.accessError
  else if was = 1 ∧ new = 1 then
    if q.new F.regCntOwnerContext ≠ q.was F.regCntOwnerContext then s.accessError else s
  else if was = 0 ∧ new = 1 then
    let s : State := s.store q
    { s with regionCtrs := s.regionCtrs.keep (fun k => decide (k / 64 ≠ r * 8 + b)) }
  else if was = 1 then (s.store q).revokeBlock r b
  else s.store q

/-- REGION_COUNTER_GRANT (R239): a write of REG.CNT_OWNER_b. -/
def execRegionCounterGrant (a : Access) (s : State) : Host.Outcome State Fault Refusal :=
  s.onWrite a [.regCntOwner] s.writeCntOwner

/-- REGION_COUNTER_REVOKE (R239): a write of REG.CNT_OWNER_b. -/
def execRegionCounterRevoke (a : Access) (s : State) : Host.Outcome State Fault Refusal :=
  s.onWrite a [.regCntOwner] s.writeCntOwner

-- wait retention (R255, R256)

def Group.waitsOnCounter (g : Group) : Bool := g.wait.isSome && decide (g.gstate = .live)

/-- The conditions under which a core can enter wait retention. -/
def CoreSt.idle (x : CoreSt) : Bool :=
  let gs := x.groups.filter (fun e => !e.2.ended)
  gs.all (fun e => e.2.waitsOnCounter && e.2.live.all (fun l => decide (e.2.stat l = .counter)) || decide (e.2.gstate = .held))
    && gs.any (fun e => e.2.waitsOnCounter)
    && x.txns.isEmpty && x.tm0.isEmpty && x.tm1.isEmpty && x.mxq.isEmpty

/-- The cores in retention of a region, as REG.PWR_RETAINED counts them (R453). -/
def State.countRetained (s : State) (r : Nat) : State :=
  s.wr F.regPwrRetainedCores r (s.cores.filter (fun e => e.2.retained && decide (regionOfCore e.1 = r))).length

/-- RETENTION_ENTRY (R255): the conditions have held for 20,000 ns. -/
def execRetentionEntry (core : Nat) (s : State) : Host.Outcome State Fault Refusal :=
  let x : CoreSt := s.core core
  match x.idleSince with
  | some t =>
    if !x.retained && x.idle && decide (t + 20000 ≤ s.now) then
      .next (((s.setCore core { x with retained := true, idleSince := some s.now }).bump F.cntRetentionEntriesCount core).countRetained
        (regionOfCore core))
    else .next s
  | none => .next s

/-- A core leaves retention; the time it spent there is counted. -/
def State.leaveRetention (s : State) (core : Nat) : State :=
  let x : CoreSt := s.core core
  if x.retained then
    ((s.setCore core { x with retained := false, idleSince := none }).bump F.cntRetentionNsCount core
      (s.now - x.idleSince.getD s.now)).countRetained (regionOfCore core)
  else s

/-- RETENTION_EXIT (R256): a core whose wait has completed leaves retention. -/
def execRetentionExit (core : Nat) (s : State) : Host.Outcome State Fault Refusal :=
  let x : CoreSt := s.core core
  .next (if x.retained && !x.idle then s.leaveRetention core else s)

-- sys.get (R129, R203)

/-- The width of a system value, and whether it is a varying one that the journal holds (R129, R421); none where the selector
is reserved. -/
def sysSelector (n : Nat) : Option (Nat × Bool) :=
  if n = 0x05 then some (64, false)
  else if n = 0x0F then some (64, true)
  else if n ≤ 0x08 then some (32, false)
  else if n = 0x0C ∨ n = 0x10 ∨ n = 0x11 ∨ n = 0x12 then some (32, false)
  else if n ≤ 0x0E then some (32, true)
  else none

/-- A system value, for a lane. -/
def State.sysValue (s : State) (i : Issue) (r : Ready) (lane : Nat) : Nat :=
  let d := r.k.desc
  match i.b with
  | 0x00 => if lane = 32 then 0 else lane
  | 0x01 => r.g.num
  | 0x02 => r.wg % d.gridX
  | 0x03 => r.wg / d.gridX % d.gridY
  | 0x04 => r.wg / (d.gridX * d.gridY)
  | 0x05 => r.wg
  | 0x06 => d.gridX
  | 0x07 => d.gridY
  | 0x08 => d.gridZ
  | 0x09 => r.g.slot * d.slmKib * 1024
  | 0x0A => r.g.slot
  | 0x0B => i.core
  | 0x0C => r.k.ctx
  | 0x0D => r.k.part
  | 0x0E => s.rd F.cluStepRateRate (clusterOfCore i.core)
  | 0x0F => s.now
  | 0x10 => s.rd F.devIdentFtEdition
  | 0x11 => (s.reg .ctxFpStatus r.k.ctx).bits 5 0
  | _ => (s.reg .ctxDrainStatus r.k.ctx).bits 5 0

/-- sys.get (R203): a varying value of a recorded context is journalled, and comes from the journal in a replay (R433). -/
def execSysGet (x : Issue) (s : State) : Host.Outcome State Fault Refusal :=
  let w := ((sysSelector x.b).map (fun e => e.1)).getD 32
  s.onIssue x
    (fun r => x.fieldsBad r.k.desc.regs (.reg w) .none (.raw (sysSelector x.b).isSome) .none
      ++ [(53, decide (x.m 63 53 ≠ 0)), (12, x.ext.isSome)])
    ((Use.reg w).regs x.kd x.d)
    (fun s r =>
      let give := fun (u : State) (v : Nat → Nat) =>
        let g := (((u.core x.core).groups.get? x.pos).getD r.g)
        u.done x { r with g := g } ((r.lanes x.kd).foldl (fun (h : Group) l => h.dst x.kd l x.d w (v l)) g)
      if ((sysSelector x.b).map (fun e => e.2)).getD false && decide (r.exec ≠ []) then
        match s.groupReplay r.k x.core x.pos 0x07 (fun b => decide (leNat (b.take 4) = x.b)) with
        | (s, some b) => give s (fun _ => leNat ((b.drop 8).take 8))
        | (s, none) =>
          let v := s.sysValue x r 0
          give (s.groupJournal r.k x.core x.pos 0x07 (leBytes 4 x.b ++ leBytes 4 0 ++ leBytes 8 v)) (fun _ => v)
      else give s (s.sysValue x r))

end Sys2Proof.Machine
end

