-- ==== Sys2Proof/Machine/Kernels.lean ====
section
/-! DEFINITION. Tasks on cores: binding, their beginning, dispatch, time limits, context switches, and cores that fault or are
disabled (05_kwaok_programming_model.md, R123 to R155; 08_counters_and_waiting.md, R235 to R238, R252; R29, R42, R486, R494). -/

namespace Sys2Proof.Machine

-- binding and beginning (R235 to R237, R141)

/-- The region whose scheduler core serves a queue, with that core running (R459, R464)? -/
def State.schedulerUp (s : State) (q : Nat) : Bool := decide (s.rd F.regFwStatusSchState (servingRegion s.mode q) = 0)

/-- Is the control core of a core's cluster running, so that it binds, dispatches and switches (R464)? -/
def State.clusterUp (s : State) (c : Nat) : Bool := decide (s.rd F.cluCccStatusState (clusterOfCore c) = 0)

/-- TASK_BIND (R235): an accepted task whose command has started (R350) is bound to every core of its placement, at most two tasks to a core. -/
def execTaskBind (task : Nat) (s : State) : Host.Outcome State Fault Refusal :=
  match s.task? task with
  | some k =>
    let started := match s.taskCmd task with
      | some (q, seq) => (s.cmd? q seq).any (fun (c : Cmd) => decide (c.phase = .running))
      | none => false
    if k.phase = .accepted ∧ started = true ∧ s.partLive k.part = true ∧ s.schedulerUp k.queue = true
        ∧ k.cores.all (fun c => s.clusterUp c && decide ((s.core c).bound.length < 2)) = true then
      let s : State := k.cores.foldl (fun (u : State) c =>
        let x : CoreSt := u.core c
        u.setCore c { x with bound := x.bound ++ [task] }) s
      .next (s.updTask task (fun y => { y with phase := .bound }))
    else .next s
  | none => .next s

/-- A replaying partition has still to supply a task's TASK_START entry (R432). -/
def State.startPending (s : State) (k : Task) : Bool :=
  s.replaying k.ctx && (s.jAll k.part).any (fun e =>
    decide (e.kind = 3) && decide (s.rd F.skbNextSeqSeq (s.skbIdx k.part) ≤ e.seq) && decide (e.source = s.queueOff k.queue)
      && decide (leNat ((s.jPayload k.part e).take 4) = k.tag))

/-- A task starts (R61, R151, R237): the modes in force are its own from now on, and a recorded context journals them. -/
def State.startTask (s : State) (t : Nat) (k : Task) : State :=
  let c := k.ctx
  let k' : Task :=
    { k with phase := .running, fpMode := s.reg .ctxFpMode c, seed := s.reg .ctxSrSeed c,
             policy := s.rd F.ctxFaultPolicyPolicy c, clearMode := s.flag F.ctxSyncModeClear c,
             saveValid := s.flag F.ctxSaveBaseValid c }
  let s : State := (s.updTask t (fun _ => k')).refreshCtx c
  s.journalCtx c 0x03 (s.queueOff k.queue)
    (leBytes 4 k.tag ++ leBytes 4 0 ++ leBytes 8 k'.fpMode.toNat ++ leBytes 8 k'.seed.toNat)

/-- A task's pending adds on a core added to its counters (R236). -/
def State.takePending (s : State) (t ctx c : Nat) : State :=
  let x : CoreSt := s.core c
  let sums := x.pend.getD t []
  let s : State := s.setCore c { x with pend := x.pend.del t }
  sums.foldl (fun (u : State) e => u.addTo (.core c e.1) e.2 ctx) s

/-- Can a core begin or resume a task: it runs none, and nothing of an earlier one is in flight (R124)? -/
def State.coreFree (s : State) (c : Nat) : Bool :=
  let x := s.core c
  (s.running? c).isNone && x.txns.isEmpty && x.tm0.isEmpty && x.tm1.isEmpty && x.mxq.isEmpty && decide (c ∉ s.stopped)
    && !s.vacant c

/-- CORE_TASK_BEGIN (R141, R237): a core begins a bound task: its near cache is invalidated, its slots are cleared, its shared
local memory is zero, its counters take their starting values and then the pending adds. -/
def execCoreTaskBegin (task core : Nat) (s : State) : Host.Outcome State Fault Refusal :=
  match s.task? task with
  | some k =>
    if (k.phase = .bound ∨ k.phase = .running) ∧ core ∈ k.cores ∧ core ∉ k.begun ∧ task ∈ (s.core core).bound
        ∧ s.coreFree core = true ∧ s.partLive k.part = true ∧ s.clusterUp core = true
        ∧ (k.phase = .running ∨ s.startPending k = false) then
      let s : State := if k.phase = .bound then s.startTask task k else s
      let k : Task := (s.task? task).getD k
      let x : CoreSt := s.core core
      let kept := if k.saveValid && !k.clearMode then
          (match s.saved.get? (savedKey k.ctx core) with
            | some y => y.core.ctrs
            | none => [])
        else []
      let y : CoreSt := { bound := x.bound, pend := x.pend, flights := x.flights, nextId := x.nextId, task := some task,
                          ctrs := kept }
      let s : State := (s.setCore core y).updTask task (fun z => { z with begun := z.begun ++ [core] })
      .next (s.takePending task k.ctx core)
    else .next s
  | none => .next s

-- dispatch (R128, R131, R139, R140)

/-- The workgroups of a launch that a core holds at once (R139). -/
def LaunchDesc.resident (d : LaunchDesc) : Nat :=
  let w := min (64 / d.groups) (3072 / (d.groups * d.regs))
  if d.slmKib = 0 then w else min w (256 / d.slmKib)

/-- A group at its start (R128). -/
def Task.group (k : Task) (wg slot num : Nat) : Group :=
  let d := k.desc
  let x := wg % d.gridX
  let y := wg / d.gridX % d.gridY
  let z := wg / (d.gridX * d.gridY)
  let args := (List.range 56).map (fun r => (8 + r, leNat ((List.range 8).map (fun b => k.args.getD (8 * r + b) 0))))
  let u : NMap Word := ([(0, d.argVa.toNat), (1, wg), (2, x + y * 2 ^ 32), (3, z + num * 2 ^ 32),
    (4, slot * d.slmKib * 1024)] ++ args : List (Nat × Nat)).foldl (fun (m : NMap Word) (e : Nat × Nat) => m.put 0 e.1 (BitVec.ofNat 64 e.2)) []
  { slot := slot, num := num, pcs := List.replicate 32 d.codeVa, stats := List.replicate 32 .run,
    preds := List.replicate 32 0,
    v := (List.range 32).foldl (fun (m : NMap Word32) l => m.put 0 (l * 256) (BitVec.ofNat 32 l)) [], u := u }

/-- The positions for a workgroup's groups: group g goes to scheduler g mod 4, at the lowest free place of its sixteen; none
where they do not all find one. -/
def CoreSt.places (x : CoreSt) (groups : Nat) : Option (List Nat) :=
  (List.range groups).foldl (fun (acc : Option (List Nat)) g =>
    acc.bind (fun l =>
      ((List.range 16).map (fun i => g % 4 * 16 + i)).find? (fun p => !x.groups.has p && decide (p ∉ l))
        |>.map (fun p => l ++ [p]))) (some [])

/-- WORKGROUP_DISPATCH (R140, R141, R131): the next workgroup in ascending linear index goes to the lowest free slot of a placed
core. -/
def execWorkgroupDispatch (task core : Nat) (s : State) : Host.Outcome State Fault Refusal :=
  match s.task? task with
  | some k =>
    let x : CoreSt := s.core core
    let slot := (List.range k.desc.resident).find? (fun n => !x.slots.has n)
    if k.phase = .running ∧ x.task = some task ∧ core ∈ k.begun ∧ core ∉ s.stopped ∧ s.partLive k.part = true
        ∧ k.nextWg < k.desc.total ∧ s.rd F.cluCccStatusDispatchPaused (clusterOfCore core) = 0 then
      match slot, x.places k.desc.groups with
      | some slot, some ps =>
        let base := slot * k.desc.slmKib * 1024
        let inSlot := fun (a : Nat) => decide (base ≤ a) && decide (a < base + k.desc.slmKib * 1024)
        let x : CoreSt :=
          if k.desc.slmZero then
            { x with slm := x.slm.keep (fun a => !inSlot a), slmPoison := x.slmPoison.keep (fun w => !inSlot (w * 8)) }
          else x
        let groups := (List.range k.desc.groups).foldl (fun (m : NMap Group) g =>
          m.set (ps.getD g 0) (k.group k.nextWg slot g)) x.groups
        let s : State := s.setCore core { x with groups := groups, slots := x.slots.set slot { linear := k.nextWg },
                                                 idleSince := none }
        .next (s.updTask task (fun y => { y with nextWg := y.nextWg + 1 }))
      | _, _ => .next s
    else .next s
  | none => .next s

-- time limits (R143)

/-- TIME_LIMIT_EXPIRY (R143): the timebase has passed the task's acceptance by more than its limit; every group stops and the
task ends. A replaying context takes its expiries from the journal (R432). -/
def execTimeLimitExpiry (task : Nat) (s : State) : Host.Outcome State Fault Refusal :=
  match s.task? task with
  | some k =>
    if k.phase ≠ .ended ∧ k.desc.timeLimit ≠ 0 ∧ k.accepted + k.desc.timeLimit < s.now ∧ s.replaying k.ctx = false then
      let s : State := s.journalCtx k.ctx 0x09 (s.queueOff k.queue) (leBytes 4 k.tag)
      let s : State := k.cores.foldl (fun (u : State) c => if (u.core c).task = some task then u.leaveRetention c else u) s
      .next ((s.updTask task (fun y => { y with timedOut := true })).stopTask task 0x31)
    else .next s
  | none => .next s

-- context switches (R153 to R155, R204, R252)

/-- The STATE code of a group in the group table (R204). -/
def Group.tableState (g : Group) : Nat :=
  match g.gstate with
  | .held => 3
  | .faulted => 4
  | .stopped => 5
  | .live =>
    match g.wait with
    | some w => if w.claim then 2 else 1
    | none => if g.live.isEmpty then 6 else 0

/-- The core header of a core's section (R204). -/
def CoreSt.header (x : CoreSt) (k : Task) (now : Nat) : List Byte :=
  let wgs := (List.range 64).flatMap (fun n => match x.slots.get? n with
    | some w => leBytes 8 (w.linear + w.phases * 2 ^ 48)
    | none => leBytes 8 0)
  let grp := (List.range 64).flatMap (fun p => match x.groups.get? p with
    | none => leBytes 16 0
    | some g =>
      let w := match g.wait with
        | none => 0
        | some w =>
          (if w.deadline.isSome then 2 ^ 16 else 0) + (match w.ref with
            | .core i => i * 2 ^ 19
            | .region r i => 2 * 2 ^ 17 + i * 2 ^ 19 + r * 2 ^ 29)
            + ((w.deadline.map (fun d => d - now)).getD 0) * 2 ^ 32
      leBytes 8 (1 + g.slot * 2 + g.num * 2 ^ 7 + g.tableState * 2 ^ 13 + w)
        ++ leBytes 8 ((g.wait.map (fun w => w.target)).getD 0))
  leBytes 1 (k.desc.layout + 1) ++ leBytes 1 k.desc.groups ++ leBytes 1 (k.desc.regs / 8) ++ leBytes 1 x.slots.length
    ++ leBytes 4 k.tag ++ leBytes 2 k.desc.slmKib ++ leBytes 54 0 ++ wgs ++ grp ++ leBytes 448 0

/-- A thread's eight bytes in the save area (R204). -/
def Group.threadWord (g : Group) (lane : Nat) : Nat :=
  (g.pc lane).toNat % 2 ^ 57 + (match g.stat lane with
    | .exited => 2 ^ 57
    | .barrier b _ => 2 ^ 58 + b * 2 ^ 59
    | _ => 0)

/-- A core's section written into the save area (R154, R204). The spec gives the vector register file's and the accumulator
store's sections no layout: their bytes are free values. -/
def State.saveCore (s : State) (k : Task) (c : Nat) : State :=
  let x : CoreSt := s.core c
  let a := s.saveSection k.ctx c
  let (n, s) := s.draw
  let grp := fun (f : Group → List Byte) (size : Nat) => (List.range 64).flatMap (fun p => match x.groups.get? p with
    | some g => f g
    | none => leBytes size 0)
  let s : State := s.writeMem a (x.header k s.now)
  let s : State := if k.clearMode then s else s.writeMem (a + 0x800) x.ctrBytes
  let s : State := s.writeMem (a + 0x1000) (grp (fun g => (List.range 32).flatMap (fun l => leBytes 8 (g.threadWord l))) 256)
  let s : State := s.writeMem (a + 0x5000) (grp (fun g => (List.range 32).flatMap (fun l => leBytes 1 (g.preds.getD l 0))) 32)
  let s : State := s.writeMem (a + 0x6000) (grp (fun g => (List.range 64).flatMap (fun u => leBytes 8 (g.readU u))) 512)
  let free := fun (off len : Nat) => (List.range len).map (fun i => Config.leftByte n (off + i))
  let s : State := s.writeMem (a + 0x10000) (free 0x10000 0x60000)
  let s : State := s.writeMem (a + 0x70000) ((List.range 0x40000).map (fun i => x.slm.getD i 0))
  let s : State := x.slmPoison.foldl (fun (u : State) e => u.markPoison ((a + 0x70000 + e.1 * 8) / 32)) s
  s.writeMem (a + 0xB0000) (free 0xB0000 0x28000)

/-- Has a core nothing in flight that steps 2 to 4 of R153 wait for, and in cleared mode no resident workgroup (R238)? -/
def CoreSt.quiet (x : CoreSt) (clearMode : Bool) : Bool :=
  x.txns.isEmpty && x.tm0.isEmpty && x.tm1.isEmpty && x.mxq.isEmpty
    && x.flights.all (fun f => match f.op with
      | .read _ => false
      | _ => true)
    && (!clearMode || x.slots.isEmpty)

/-- A core switched out of a task (R153, R252): its waits are withdrawn with what remains of their timeouts, its section is
saved, and its near cache is empty. -/
def State.switchOut (s : State) (t : Nat) (k : Task) (c : Nat) : State :=
  let s : State := s.leaveRetention c
  let x : CoreSt := s.core c
  let remaining := x.groups.filterMap (fun e => (e.2.wait.bind (fun w => w.deadline)).map (fun d => (e.1, d - s.now)))
  let s : State := s.saveCore k c
  let groups := x.groups.map (fun e => (e.1, { e.2 with wait := e.2.wait.map (fun w => { w with arrived := false }) }))
  let kept : CoreSt := { x with groups := groups, nc := [], flights := [], pend := [], bound := [], faults := [],
                                ctrs := if k.clearMode then [] else x.ctrs }
  let s : State := { s with saved := s.saved.set (savedKey k.ctx c) { core := kept, remaining := remaining } }
  let adds := x.flights.filter (fun f => match f.op with
    | .add _ => true
    | _ => false)
  s.setCore c { bound := x.bound, pend := x.pend, flights := adds, nextId := x.nextId }

/-- The faults that a core has detected and not yet taken, recorded at once (R155). -/
def State.flushFaults (s : State) (c : Nat) : State :=
  let x : CoreSt := s.core c
  let s : State := s.setCore c { x with faults := [] }
  x.faults.foldl (fun (u : State) f => u.takeFault c f.pos f true) s

/-- CONTEXT_SWITCH (R153, R155, R238): the running task of a context is switched out of its cores once nothing of it is in
flight, where the context has a save area. The context section holds the switch timebase and the queue position in a layout
that the spec does not give: its first 16 bytes are free values. -/
def execContextSwitch (ctx : Nat) (s : State) : Host.Outcome State Fault Refusal :=
  match s.tasks.find? (fun e => decide (e.2.ctx = ctx) && decide (e.2.phase = .running)) with
  | some (t, k) =>
    let on := k.cores.filter (fun c => decide ((s.core c).task = some t))
    if k.saveValid = true ∧ s.flag F.ctxSaveBaseValid ctx = true ∧ s.partLive k.part = true ∧ s.schedulerUp k.queue = true
        ∧ on.all (fun c => s.clusterUp c && (s.core c).quiet k.clearMode) = true then
      let s : State := on.foldl State.flushFaults s
      match s.task? t with
      | some k =>
        if k.phase = .running then
          let s : State := on.foldl (fun (u : State) c => u.switchOut t k c) s
          let s : State := s.updTask t (fun y => { y with phase := .switchedOut })
          let (n, s) := s.draw
          let s : State := s.writeMem (s.rd F.ctxSaveBaseBase ctx * 0x100000)
            ((List.range 16).map (fun i => Config.leftByte n i))
          .next (s.wr F.ctxStateState ctx 3)
        else .next s
      | none => .next s
    else .next s
  | none => .next s

/-- A core restored from a context's saved section (R153, R236, R252): its state bit for bit, then the pending adds; its waits
are issued again with their remaining timeouts, but not those of held groups. -/
def State.switchIn (s : State) (t : Nat) (k : Task) (c : Nat) (v : SavedCore) : State :=
  let x : CoreSt := s.core c
  let groups := v.core.groups.map (fun e => (e.1, { e.2 with wait := e.2.wait.map (fun w =>
    { w with deadline := w.deadline.map (fun _ => s.now + v.remaining.getD e.1 0) }) }))
  let y : CoreSt := { v.core with groups := groups, bound := x.bound, pend := x.pend, flights := x.flights,
                                  nextId := max x.nextId v.core.nextId, task := some t }
  let s : State := (s.setCore c y).takePending t k.ctx c
  groups.foldl (fun (u : State) e =>
    match e.2.wait, e.2.gstate with
    | some w, .live => u.fly c e.1 t (w.ref.name c) .waitClaim
    | _, _ => u) s

/-- CONTEXT_RESUME (R153, R252): a task that was switched out is restored on the cores it was switched out from. -/
def execContextResume (ctx : Nat) (s : State) : Host.Outcome State Fault Refusal :=
  match s.tasks.find? (fun e => decide (e.2.ctx = ctx) && decide (e.2.phase = .switchedOut)) with
  | some (t, k) =>
    let from_ := k.begun.filterMap (fun c => (s.saved.get? (savedKey ctx c)).bind (fun v =>
      if v.core.task = some t then some (c, v) else none))
    if s.partLive k.part = true ∧ s.schedulerUp k.queue = true
        ∧ from_.all (fun e => s.coreFree e.1 && s.clusterUp e.1) = true then
      let s : State := from_.foldl (fun (u : State) e => u.switchIn t k e.1 e.2) s
      let s : State := (s.updTask t (fun y => { y with phase := .running })).wr F.ctxStateState ctx 2
      .next (s.refreshCtx ctx)
    else .next s
  | none => .next s

-- cores that fault or are disabled (R29, R42, R140, R486, R494)

/-- What a core whose cell fails has in flight: adds that have left it go on to their homes for no group, position 64; the rest
is gone. -/
def State.orphan (s : State) (c : Nat) : State :=
  let x : CoreSt := s.core c
  let txns := x.txns.filterMap (fun t => match t.kind with
    | .exact pa a _ va => some { t with pos := 64, kind := .exact pa a none va }
    | .longForm .. => some { t with pos := 64 }
    | _ => none)
  s.setCore c { x with txns := txns, faults := [], mxq := [], mxStall := none, tm0 := [], tm1 := [], tmStall := [] }

/-- Every group of a core ends with the cell-error fault (R486, R140): recorded as deferred, oldest group first, with the event
code as DETAIL; under ABORT the task ends, otherwise the groups stop. -/
def State.cellError (s : State) (c code : Nat) : State :=
  let s : State := s.orphan c
  let x : CoreSt := s.core c
  let wg := fun (g : Group) => ((x.slots.get? g.slot).map (fun w => w.linear)).getD 0
  let order := sortBy
    (fun (a b : Nat × Group) => decide (wg a.2 < wg b.2) || (decide (wg a.2 = wg b.2) && decide (a.2.num ≤ b.2.num)))
    (x.groups.filter (fun e => decide (e.2.gstate = .live ∨ e.2.gstate = .held)))
  let fault := fun (e : Nat × Group) =>
    let l := e.2.live.headD 0
    ({ pos := e.1, pc := e.2.pc l, lanes := laneMask (e.2.live.filter (fun j => decide (e.2.pc j = e.2.pc l))), code := 0x20,
       detail := code, addr := 0 } : PendFault)
  let s : State := order.foldl (fun (u : State) e => u.recordFault c e.1 (fault e) true) s
  let held := (order.filter (fun e => decide (e.2.gstate = .held))).length
  match s.running? c with
  | some (t, k) =>
    if k.policy = 0 then s.stopTask t 0x30
    else
      let s : State := s.updTask t (fun y => { y with heldGroups := y.heldGroups - held })
      (order.foldl (fun (u : State) e => u.runOut c e.1) s).refreshCtx k.ctx
  | none => s

/-- The cell of a core reset (R486): its registers, slots, shared local memory, near cache and queues are empty; its counters,
and what has left the core, stay. -/
def State.resetCell (s : State) (c : Nat) : State :=
  let s : State := s.leaveRetention c
  let x : CoreSt := s.core c
  s.setCore c
    { task := x.task, bound := x.bound, pend := x.pend, ctrs := x.ctrs, flights := x.flights, nextId := x.nextId,
      txns := x.txns }

/-- An application core dies (R308, R309): its agent answers no snoop until the next cold reset, and reclaim begins. -/
def State.agentDies (s : State) (hart : Nat) : State :=
  let a := 16 + hart
  if a ∈ s.coh.dead then s
  else
    let p := partOfRegion s.mode (hart / 24)
    let coh := s.coh
    let s : State := { s with coh := { coh with dead := coh.dead ++ [a], reclaiming := coh.reclaiming ++ [a] } }
    (partRegions s.mode p).foldl (fun (u : State) r =>
      (u.bump F.regCohStatusDeadAgents r).wr F.regCohStatusReclaimBusy r 1) s

/-- CELL_FAULT (R486, R29): an uncorrectable store error (0x0201) or a logic check (0x0301) of a compute core faults its groups
and resets its cell; a logic check of an application core (0x0302) kills its agent. -/
def execCellFault (core code : Nat) (s : State) : Host.Outcome State Fault Refusal :=
  if code = 0x0201 ∨ code = 0x0301 then
    if s.vacant core then .next s
    else .next (((s.hwEvent (regionOfCore core) code core).cellError core code).resetCell core)
  else if code = 0x0302 ∧ core < 96 then .next ((s.hwEvent (core / 24) code core).agentDies core)
  else .next s

/-- The logical numbers of a cluster that are not vacant, as global core numbers. -/
def State.clusterCores (s : State) (k : Nat) : List Nat := ((List.range 8).map (fun n => k * 8 + n)).filter (fun c => !s.vacant c)

/-- A cluster stops (R29): its cores stop, their work is faulted, and it receives no further dispatch. -/
def State.stopCluster (s : State) (k : Nat) : State :=
  if k ∈ s.downClusters then s
  else
    let cores := s.clusterCores k
    let s : State := { (s.hwEvent (regionOfCluster k) 0x4303 k) with
      downClusters := s.downClusters ++ [k],
      stopped := s.stopped ++ cores.filter (fun c => decide (c ∉ s.stopped)) }
    cores.foldl (fun (u : State) c => (u.cellError c 0x4303).resetCell c) s

/-- A stack goes offline (R286): its level reads 7 and its event is logged; the writes that its controllers hold are discarded,
each logged. -/
def State.stackDown (s : State) (k : Nat) : State :=
  let x := s.stackSts.getD k {}
  if x.offline then s
  else
    let x : StackSt := { x with offline := true, restrictedSince := none, throttledSince := some (x.throttledSince.getD s.now) }
    let s : State := { s with stackSts := s.stackSts.set k x }
    let s : State := (s.wr F.stkStatusLevel k 7).hwEvent (k / 6) 0x4310 (stackUnit k) (flags := 2)
    (List.range 32).foldl (fun (t : State) i =>
      let c := k / 6 * 192 + k % 6 * 32 + i
      match t.channels.get? c with
      | none => t
      | some ch =>
        ch.writes.foldl (fun (u : State) w => u.hwEvent (k / 6) 0x4013 (stackUnit k) 0xFFFF (w.1 * 32))
          { t with channels := t.channels.set c { ch with writes := [] } }) s

/-- BLOCK_FAULT (R29): a cluster stops, a stack goes offline, or a port block's ports go link-down. -/
def execBlockFault (part : BlockPart) (s : State) : Host.Outcome State Fault Refusal :=
  match part with
  | .cluster k => .next (if k < 144 then s.stopCluster k else s)
  | .stack k => .next (if k < 24 then s.stackDown k else s)
  | .port b => .next (if b < 8 then s.portDown b else s)

/-- CORE_DISABLE (R42, R140, R494): a core that its cell-level fault keeps stopped is disabled by its cluster control core: its slot is
retired, its number is vacant, both counts fall, and the work it held ends. -/
def execCoreDisable (core : Nat) (s : State) : Host.Outcome State Fault Refusal :=
  let k := clusterOfCore core
  if core ∈ s.stopped ∧ s.vacant core = false ∧ k ∉ s.downClusters ∧ s.clusterUp core = true then
    let slot := s.rd F.cluSlotMapLog k (core % 8)
    let s : State := (s.cellError core 0x0601).resetCell core
    let s : State := s.wr F.cluSlotMapPhysRetired k (s.rd F.cluSlotMapPhysRetired k ||| 2 ^ slot)
    let s : State := s.wr F.cluSlotMapLog k 0xF (core % 8)
    let s : State := s.wr F.cluIdentCoresEnabled k (s.rd F.cluIdentCoresEnabled k - 1)
    let s : State := s.wr F.devIdentCoresEnabled 0 (s.rd F.devIdentCoresEnabled - 1)
    let fl := s.flash
    let s : State := { s with flash := { fl with retired := fl.retired.set k (fl.retired.getD k 0 ||| 2 ^ slot) } }
    let s : State := s.bumpSat F.rasRepairStatusCoresRetired 0
    .next (s.logDirect (regionOfCore core) 0x0601 core 0xFFFF 0 (slot * 256) 2)
  else .next s

end Sys2Proof.Machine
end

