-- ==== Sys2Proof/Machine/Coherence.lean ====
section
/-! DEFINITION. The channel controllers' traffic, the region SRAM's victim cache, the canvas L2s and the coherence of their
sectors (09_memory_tiers.md, 10_coherence.md; R264 to R283, R289 to R310).
Memory as the state holds it has the coherent value of every byte; what is modelled here is where copies lie and what the
counters of these units show. -/

namespace Sys2Proof.Machine

-- channel controllers (R277, R283)

/-- The channel controller of a 32-byte fine block of a tier. -/
def State.blockChan (s : State) (b : Nat) : Option Nat := (s.paKind (b * 32)).chan?

/-- The stack of a channel controller. -/
def stackOfChan (c : Nat) : Nat := c / 192 * 6 + c % 192 / 32

/-- The bank of a tier's fine block, keyed by pseudo-channel, stack identifier and bank, and its row (R262). -/
def State.bankRow (s : State) (b : Nat) : Nat × Nat :=
  let f := fun (l : TierLoc) => ((l.pseudo * 4 + l.sid) * 16 + l.bank, l.row)
  match s.paKind (b * 32) with
  | .near _ o => f (tierDecode o 7 3)
  | .far _ o => f (tierDecode o 6 4)
  | _ => (0, 0)

/-- A counter of a stack raised while its RUN bit is 1. -/
def State.stkCount (s : State) (f : Fld) (k n : Nat) : State := s.bumpRun F.stkCountCtlRun f k n

/-- A burst opens its row; an access that finds another row open in its bank counts as a conflict (R288). -/
def State.openRow (s : State) (c b : Nat) : State :=
  let ch := s.channels.getD c {}
  let (bank, row) := s.bankRow b
  let s : State := match ch.rows.get? bank with
    | some r => if r = row then s else s.stkCount F.stkRowConflictsCount (stackOfChan c) 1
    | none => s
  { s with channels := s.channels.set c { ch with rows := ch.rows.set bank row } }

/-- The bus of a channel controller turned to write or to read (R276, R288). -/
def State.turnBus (s : State) (c : Nat) (write : Bool) : State :=
  let ch := s.channels.getD c {}
  if ch.busWrite = write then s
  else
    (State.stkCount { s with channels := s.channels.set c { ch with busWrite := write } }
      F.stkTurnaroundsCount (stackOfChan c) 1)

/-- The writes that a channel controller holds go to their rows (R277). -/
def State.drainWrites (s : State) (c : Nat) : State :=
  let ch := s.channels.getD c {}
  if ch.writes = [] then s
  else
    let s : State := s.turnBus c true
    let s : State := ch.writes.foldl (fun (t : State) w =>
      (t.openRow c w.1).stkCount F.stkWriteBytesCount (stackOfChan c) 32) s
    let ch := s.channels.getD c {}
    { s with channels := s.channels.set c { ch with writes := [] } }

/-- A fine block read from its tier, unless a write of it is pending in its controller (R277). -/
def State.readBurst (s : State) (b : Nat) : State :=
  match s.blockChan b with
  | none => s
  | some c =>
    if (s.channels.getD c {}).writes.any (fun w => decide (w.1 = b)) then s
    else
      let s : State := s.turnBus c false
      (s.openRow c b).stkCount F.stkReadBytesCount (stackOfChan c) 32

/-- A fine block's write given to its controller, which turns the bus when it holds 128 requests (R277, R287). -/
def State.writeBurst (s : State) (b : Nat) : State :=
  match s.blockChan b with
  | none => s
  | some c =>
    let ch := s.channels.getD c {}
    if ch.writes.any (fun w => decide (w.1 = b)) then s
    else
      let s : State := { s with channels := s.channels.set c { ch with writes := ch.writes ++ [(b, s.now)] } }
      if 128 ≤ ch.writes.length + 1 then s.drainWrites c else s

/-- A buffered fine block written back and removed from the atomic buffer, before a fill or a write that is not fine (R283). -/
def State.atomFlush (s : State) (b : Nat) : State :=
  match s.blockChan b with
  | none => s
  | some c =>
    let ch := s.channels.getD c {}
    if b ∈ ch.atomBuf then
      let s : State := { s with channels := s.channels.set c { ch with atomBuf := ch.atomBuf.filter (fun x => decide (x ≠ b)) } }
      s.writeBurst b
    else s

/-- Is a fine block in its controller's atomic buffer? -/
def State.atomHeld (s : State) (b : Nat) : Bool :=
  match s.blockChan b with
  | some c => decide (b ∈ (s.channels.getD c {}).atomBuf)
  | none => false

/-- A fine block taken into the atomic buffer of 128 blocks for an atomic, the least recently used one written back (R283). -/
def State.atomUse (s : State) (b : Nat) : State :=
  match s.blockChan b with
  | none => s
  | some c =>
    let held := decide (b ∈ (s.channels.getD c {}).atomBuf)
    let s : State := if held then s else s.readBurst b
    let ch := s.channels.getD c {}
    let l := b :: ch.atomBuf.filter (fun x => decide (x ≠ b))
    let s : State := { s with channels := s.channels.set c { ch with atomBuf := l.take 128 } }
    match l.drop 128 with
    | x :: _ => s.writeBurst x
    | [] => s

/-- WRITE_BATCH_TURN (R277): once a write has waited 2 µs in its controller, the bus turns to write. -/
def execWriteBatchTurn (chan : Nat) (s : State) : Host.Outcome State Fault Refusal :=
  if (s.channels.getD chan {}).writes.any (fun w => decide (w.2 + 2000 ≤ s.now)) then .next (s.drainWrites chan) else .next s

-- trees of pseudo-LRU bits (R223, R266)

/-- The tree of depth d pointed away from a way: node n is bit n − 1, and its children are 2n and 2n + 1. -/
def plruTouch (way : Nat) (at_ : Bool) : Nat → Nat → Nat → Nat
  | 0, _, t => t
  | d + 1, node, t =>
    let dir := (way >>> d) % 2
    let bit := if at_ then dir else 1 - dir
    let t := if t.testBit (node - 1) = decide (bit = 1) then t else t ^^^ (1 <<< (node - 1))
    plruTouch way at_ d (2 * node + dir) t

/-- The way that a tree of depth d points at. -/
def plruVictim (t : Nat) : Nat → Nat → Nat
  | 0, _ => 0
  | d + 1, node =>
    let dir := if t.testBit (node - 1) then 1 else 0
    dir * 2 ^ d + plruVictim t d (2 * node + dir)

/-- The 16-bit shift register with taps x^16 + x^14 + x^13 + x^11 + 1, advanced once (R266). -/
def lfsrNext (x : Nat) : Nat :=
  let b := (x ^^^ (x >>> 2) ^^^ (x >>> 3) ^^^ (x >>> 5)) % 2
  x / 2 + b * 32768

-- the victim cache (R270, R271)

/-- The victim cache's units. -/
def State.vcUnits (s : State) (r : Nat) : Nat := 9 - s.rd F.regSramStatusScratchInForce r

/-- The key of way 0 of the set of a line: the units hold 32,768 sets each. -/
def State.vcSet (s : State) (r line : Nat) : Nat := line % (s.vcUnits r * 32768) * 16

/-- The key of a line in the victim cache. -/
def State.vcFind (s : State) (r line : Nat) : Option Nat :=
  let b := s.vcSet r line
  ((List.range 16).map (fun w => b + w)).find? (fun k =>
    match (s.srams.getD r {}).vc.get? k with
    | some l => decide (l.line = line)
    | none => false)

/-- The fine blocks of the sectors of a line that a mask names. -/
def sectorBlocks (line mask : Nat) : List Nat :=
  ((List.range 4).filter (fun i => mask.testBit (i / 2))).map (fun i => line * 4 + i)

/-- The dirty sectors of a line written to its tier. -/
def State.tierWrite (s : State) (line mask : Nat) : State :=
  (sectorBlocks line mask).foldl (fun (t : State) b => (t.atomFlush b).writeBurst b) s

/-- A line leaves the victim cache; its dirty sectors go to the tier. -/
def State.vcDrop (s : State) (r k : Nat) : State :=
  let m := s.srams.getD r {}
  match m.vc.get? k with
  | none => s
  | some l => State.tierWrite { s with srams := s.srams.set r { m with vc := m.vc.del k } } l.line l.dirty

/-- A victim put into the victim cache: the lowest invalid way, else the way that the shift register names (R271). -/
def State.vcInsert (s : State) (r : Nat) (v : Victim) : State :=
  let s : State := match s.vcFind r v.line with
    | some k => s.vcDrop r k
    | none => s
  let b := s.vcSet r v.line
  let m := s.srams.getD r {}
  let way := (m.vc.freeFrom 16 b).getD (b + m.lfsr % 16)
  let s : State := s.vcDrop r way
  let m := s.srams.getD r {}
  { s with srams := s.srams.set r { m with lfsr := lfsrNext m.lfsr, vc := m.vc.set way ⟨v.line, v.valid, v.dirty⟩ } }

/-- A victim offered to the region SRAM of its home: accepted, declined, or written to its tier (R268). -/
def State.serveOffer (s : State) (canvas : Nat) (v : Victim) : State :=
  match (s.paKind (v.line * 128)).region? with
  | none => s
  | some r =>
    let can := decide (s.vcUnits r ≠ 0) && (s.srams.getD r {}).split.isNone
    if v.dirty ≠ 0 then if can then s.vcInsert r v else s.tierWrite v.line v.dirty
    else if can && !v.stream && s.flag F.regSramCfgCleanAccept r then s.vcInsert r v
    else s.bumpRun F.l2CountCtlRun F.l2VictimsDeclinedCount canvas

/-- VICTIM_OFFER (R268): the oldest evicted line of a canvas L2 reaches its home's region SRAM. -/
def execVictimOffer (canvas : Nat) (s : State) : Host.Outcome State Fault Refusal :=
  let l2 := s.canvases.getD canvas {}
  match l2.offers with
  | [] => .next s
  | v :: vs => .next (State.serveOffer { s with canvases := s.canvases.set canvas { l2 with offers := vs } } canvas v)

/-- The offers of a line that stand before a later request for it (R296) are served. -/
def State.offersFor (s : State) (line : Nat) : State :=
  (List.range 12).foldl (fun (t : State) c =>
    let l2 := t.canvases.getD c {}
    let (mine, rest) := l2.offers.partition (fun v => decide (v.line = line))
    if mine = [] then t
    else mine.foldl (fun (u : State) v => u.serveOffer c v) { t with canvases := t.canvases.set c { l2 with offers := rest } }) s

-- agents' caches (R264, R289, R290)

/-- The bank × 1024 + set of a line in a canvas L2 (R264). -/
def l2Set (line : Nat) : Nat := (line ^^^ (line >>> 5)) % 32 * 1024 + ((line >>> 5) ^^^ (line >>> 15)) % 1024

/-- The line of an agent that holds a sector (the physical address over 64), and the sector's place in it. -/
def agentLine (agent sector : Nat) : Nat := if agent < 16 then sector / 2 else sector
def agentHalf (agent sector : Nat) : Nat := if agent < 16 then sector % 2 else 0

/-- The set of a line in an agent's cache. -/
def agentSet (agent line : Nat) : Nat := if agent < 16 then l2Set line else line % 1024

def State.cacheSet (s : State) (agent set : Nat) : CacheSet :=
  if agent < 16 then (s.canvases.getD agent {}).sets.getD set {} else s.coh.appSets.getD (agent * 1024 + set) {}

def State.setCacheSet (s : State) (agent set : Nat) (x : CacheSet) : State :=
  if agent < 16 then
    let l2 := s.canvases.getD agent {}
    { s with canvases := s.canvases.set agent { l2 with sets := l2.sets.put {} set x } }
  else
    let coh := s.coh
    { s with coh := { coh with appSets := coh.appSets.put {} (agent * 1024 + set) x } }

/-- The way of a set that holds a line. -/
def CacheSet.find (x : CacheSet) (line : Nat) : Option Nat :=
  (x.ways.find? (fun (e : Nat × CacheLine) => decide (e.2.line = line))).map Prod.fst

def CacheLine.sector (l : CacheLine) (half : Nat) : Sector := if half = 0 then l.s0 else l.s1

def CacheLine.setSector (l : CacheLine) (half : Nat) (x : Sector) : CacheLine :=
  if half = 0 then { l with s0 := x } else { l with s1 := x }

/-- The state in which an agent holds a sector (R292). -/
def State.agentState (s : State) (agent sector : Nat) : Sector :=
  let line := agentLine agent sector
  let x := s.cacheSet agent (agentSet agent line)
  match (x.find line).bind x.ways.get? with
  | some l => l.sector (agentHalf agent sector)
  | none => .i

/-- An agent's state of a sector of a line it has a way for; a way with no valid sector is free. -/
def State.setAgentState (s : State) (agent sector : Nat) (st : Sector) : State :=
  let line := agentLine agent sector
  let set := agentSet agent line
  let x := s.cacheSet agent set
  match x.find line with
  | none => s
  | some w =>
    let l := (x.ways.getD w { line := line }).setSector (agentHalf agent sector) st
    s.setCacheSet agent set
      { x with ways := if l.s0 = .i ∧ l.s1 = .i then x.ways.del w else x.ways.set w l }

def Sector.valid : Sector → Bool
  | .i => false
  | _ => true

def Sector.dirty : Sector → Bool
  | .m | .o => true
  | _ => false

-- mirrors (R304 to R307)

/-- The region whose home agent serves a sector (R295). -/
def State.homeOf (s : State) (sector : Nat) : Option Nat := (s.paKind (sector * 64)).region?

/-- The agents of a partition, in ascending agent number (R289). -/
def partAgents (mode p : Nat) : List Nat :=
  (partRegions mode p).flatMap (fun r => [3 * r, 3 * r + 1, 3 * r + 2])
    ++ (partRegions mode p).flatMap (fun r => (List.range 24).map (fun i => 16 + 24 * r + i))

/-- The region an agent stands in. -/
def agentRegion (agent : Nat) : Nat := if agent < 16 then agent / 3 else (agent - 16) / 24

/-- Ways per mirror set by mode (R304). -/
def mirrorWays (mode : Nat) : Nat := if mode = 0 then 8 else if mode = 1 then 12 else 16

def mirrorKey (home agent set : Nat) : Nat := (home * 128 + agent) * 32768 + set

def State.mirror (s : State) (home agent line : Nat) : MirrorSet :=
  s.coh.mirrors.getD (mirrorKey home agent (agentSet agent line)) {}

def State.setMirror (s : State) (home agent line : Nat) (m : MirrorSet) : State :=
  let coh := s.coh
  { s with coh := { coh with mirrors := coh.mirrors.put {} (mirrorKey home agent (agentSet agent line)) m } }

def MirrorSet.find (m : MirrorSet) (line : Nat) : Option Nat :=
  (m.ways.find? (fun (e : Nat × MirrorWay) => decide (e.2.line = line))).map Prod.fst

def MirrorWay.view (w : MirrorWay) (half : Nat) : MirrorView := if half = 0 then w.v0 else w.v1

def MirrorWay.setView (w : MirrorWay) (half : Nat) (v : MirrorView) : MirrorWay :=
  if half = 0 then { w with v0 := v } else { w with v1 := v }

def MirrorWay.owns (w : MirrorWay) : Bool := decide (w.v0 = .owner) || decide (w.v1 = .owner)

/-- The home's view of a sector at an agent. -/
def State.mirrorView (s : State) (home agent sector : Nat) : MirrorView :=
  let m := s.mirror home agent (agentLine agent sector)
  match (m.find (agentLine agent sector)).bind m.ways.get? with
  | some w => w.view (agentHalf agent sector)
  | none => .notHeld

/-- The home's view of a sector at an agent changed; a way that lists nothing is free. -/
def State.setView (s : State) (home agent sector : Nat) (v : MirrorView) : State :=
  let line := agentLine agent sector
  let m := s.mirror home agent line
  match m.find line with
  | none => s
  | some k =>
    let w := (m.ways.getD k ⟨line, .notHeld, .notHeld⟩).setView (agentHalf agent sector) v
    s.setMirror home agent line
      { m with ways := if w.v0 = .notHeld ∧ w.v1 = .notHeld then m.ways.del k else m.ways.set k w }

/-- A snoop sent by a home is counted. -/
def State.cohCount (s : State) (f : Fld) (home : Nat) : State := s.bumpRun F.regCohCountCtlRun f home

/-- The state from which an agent answers a snoop: a writeback in flight answers as in its former state (R299). -/
def State.answerState (s : State) (agent sector : Nat) : Sector :=
  match s.coh.writebacks.find? (fun w => decide (w.1 = agent ∧ w.2.1 = sector)) with
  | some w => w.2.2
  | none => s.agentState agent sector

/-- Dirty data of a sector leaves an agent for its home's memory. -/
def State.dirtyOut (s : State) (agent sector : Nat) : State :=
  let s : State := if agent < 16 then s.bumpRun F.l2CountCtlRun F.l2WritebacksCount agent else s
  s.tierWrite (sector / 2) (1 <<< (sector % 2))

/-- SnoopInvalidate (R294): the agent becomes I; `back` says that dirty data is written back. -/
def State.snoopInvalidate (s : State) (home agent sector : Nat) (back : Bool) : State :=
  let s : State := s.cohCount F.regCohSnoopsCount home
  let st := s.answerState agent sector
  let s : State := if st.dirty && back then s.dirtyOut agent sector else s
  (s.setAgentState agent sector .i).setView home agent sector .notHeld

/-- SnoopShared (R294): the agent keeps the sector as O or S, or answers miss, which removes a stale listing (R306). -/
def State.snoopShared (s : State) (home agent sector : Nat) : State :=
  let s : State := s.cohCount F.regCohSnoopsCount home
  match s.answerState agent sector with
  | .m => (s.setAgentState agent sector .o).setView home agent sector .owner
  | .o => s
  | .e => (s.setAgentState agent sector .s).setView home agent sector .s
  | .s => s.setView home agent sector .s
  | .i => s.setView home agent sector .notHeld

/-- SnoopPurge (R307): every S sector of the cache set homed at the snooping region becomes I; the mirror set's S listings of
the agent and its mark go. -/
def State.snoopPurge (s : State) (home agent line : Nat) : State :=
  let s : State := (s.cohCount F.regCohSnoopsCount home).cohCount F.regCohPurgesCount home
  let set := agentSet agent line
  let x := s.cacheSet agent set
  let homed := fun (l : Nat) => decide (s.homeOf (if agent < 16 then 2 * l else l) = some home)
  let purge := fun (v : Sector) => if v = .s then .i else v
  let ways := (x.ways.map (fun (e : Nat × CacheLine) =>
    if homed e.2.line then (e.1, { e.2 with s0 := purge e.2.s0, s1 := purge e.2.s1 }) else e)).filter
      (fun (e : Nat × CacheLine) => decide (e.2.s0 ≠ .i) || decide (e.2.s1 ≠ .i))
  let s : State := s.setCacheSet agent set { x with ways := ways }
  let m := s.mirror home agent line
  let strip := fun (v : MirrorView) => if v = .s then .notHeld else v
  let mways := (m.ways.map (fun (e : Nat × MirrorWay) => (e.1, { e.2 with v0 := strip e.2.v0, v1 := strip e.2.v1 }))).filter
    (fun (e : Nat × MirrorWay) => decide (e.2.v0 ≠ .notHeld) || decide (e.2.v1 ≠ .notHeld))
  let s : State :=
    if m.mark then s.wr F.regCohStatusMarkedSets home (s.rd F.regCohStatusMarkedSets home - 1) else s
  s.setMirror home agent line { ways := mways, mark := false }

/-- Every holder of a sector but one invalidated, and every agent whose untracked mark covers it purged (R297, R298, R307). -/
def State.invalidateHolders (s : State) (home sector : Nat) (except : Option Nat) (back : Bool) : State :=
  (partAgents s.mode (partOfRegion s.mode home)).foldl (fun (t : State) a =>
    if except = some a ∨ a ∈ t.coh.dead then t
    else if t.mirrorView home a sector ≠ .notHeld then t.snoopInvalidate home a sector back
    else if (t.mirror home a (agentLine a sector)).mark then t.snoopPurge home a (agentLine a sector)
    else t) s

/-- A mirror way's line recalled from its agent (R305). -/
def State.recallWay (s : State) (home agent line key : Nat) : State :=
  let m := s.mirror home agent line
  match m.ways.get? key with
  | none => s
  | some w =>
    let s : State := s.cohCount F.regCohRecallsCount home
    let held := (List.range 2).filter (fun h => decide (w.view h ≠ .notHeld))
    held.foldl (fun (t : State) h =>
      t.snoopInvalidate home agent (if agent < 16 then 2 * w.line + h else w.line) true) s

/-- A way for a line in a mirror set, one freed under R305 where there is none. -/
def State.mirrorRoom (s : State) (home agent line : Nat) : State :=
  let m := s.mirror home agent line
  if (m.find line).isSome then s
  else
    let n := mirrorWays s.mode
    let s : State :=
      if (m.ways.freeFrom n 0).isSome then s
      else
        match m.ways.find? (fun (e : Nat × MirrorWay) => !e.2.owns) with
        | some (k, _) =>
          if s.mode = 0 then
            let s : State := s.cohCount F.regCohDropsCount home
            let s : State := if m.mark then s else s.bump F.regCohStatusMarkedSets home
            s.setMirror home agent line { ways := m.ways.del k, mark := true }
          else s.recallWay home agent line k
        | none => s.recallWay home agent line 0
    let m := s.mirror home agent line
    match m.ways.freeFrom n 0 with
    | some k => s.setMirror home agent line { m with ways := m.ways.set k ⟨line, .notHeld, .notHeld⟩ }
    | none => s

/-- An evicted sector's notice or writeback is served at its home: the agent is removed from the entry (R293, R298). In whole
mode a clean sector goes silently. -/
def State.evictSector (s : State) (agent sector : Nat) (st : Sector) : State :=
  match s.homeOf sector with
  | none => s
  | some h => if st.dirty || (st.valid && decide (s.mode ≠ 0)) then s.setView h agent sector .notHeld else s

/-- A way for a line in an agent's cache, where it has none: the victim of R266, whose sectors are evicted and, from a canvas
L2, offered (R268). An application core cache's victim is a free value. -/
def State.cacheRoom (s : State) (agent line : Nat) (stream : Bool) : State :=
  let set := agentSet agent line
  let x := s.cacheSet agent set
  if (x.find line).isSome then s
  else
    let l2 := s.canvases.getD agent {}
    let bank := set / 1024
    let reg := l2.lfsr.getD bank 0xACE1
    let (idx, s) := if 16 ≤ agent then s.draw else (0, s)
    let way :=
      match x.ways.freeFrom 16 0 with
      | some w => w
      | none =>
        if 16 ≤ agent then (Config.freeWord idx).toNat % 16
        else
          match x.ways.find? (fun (e : Nat × CacheLine) => e.2.stream) with
          | some (w, _) => w
          | none => if s.rd F.l2CfgRepl agent = 0 then reg % 16 else plruVictim x.plru 4 1
    let s : State :=
      match x.ways.get? way with
      | none => s
      | some l =>
        let secs := (List.range (if agent < 16 then 2 else 1)).map (fun h => (h, l.sector h))
        let s : State := secs.foldl (fun (t : State) e =>
          let sec := if agent < 16 then 2 * l.line + e.1 else l.line
          let t : State := t.evictSector agent sec e.2
          if e.2.dirty && decide (agent < 16) then t.bumpRun F.l2CountCtlRun F.l2WritebacksCount agent
          else if e.2.dirty then t.tierWrite (sec / 2) (1 <<< (sec % 2)) else t) s
        let mask := fun (p : Sector → Bool) => secs.foldl (fun a e => if p e.2 then a + 2 ^ e.1 else a) 0
        if agent < 16 ∧ (s.paKind (l.line * 128)).isTier = true then
          let l2 := s.canvases.getD agent {}
          let v : Victim := ⟨l.line, mask Sector.valid, mask Sector.dirty, l.stream⟩
          let l2 : CanvasL2 := { l2 with offers := l2.offers ++ [v] }
          { s with canvases := s.canvases.set agent l2 }
        else s
    let s : State :=
      if agent < 16 then
        let l2 := s.canvases.getD agent {}
        { s with canvases := s.canvases.set agent { l2 with lfsr := l2.lfsr.set bank (lfsrNext reg) } }
      else s
    let x := s.cacheSet agent set
    s.setCacheSet agent set
      { ways := x.ways.set way { line := line, stream := stream }, plru := plruTouch way stream 4 1 x.plru }

-- requests at the home (R281, R297, R298)

/-- The home's lookup of the victim cache for a request to a tier address (R271); a canvas L2's fill takes the line out. -/
def State.vcLookup (s : State) (home sector : Nat) (take : Bool) : State × Bool :=
  if (s.paKind (sector * 64)).isTier then
    let line := sector / 2
    let s : State := s.offersFor line
    let hit := match s.vcFind home line with
      | some k =>
        match (s.srams.getD home {}).vc.get? k with
        | some l => l.valid.testBit (sector % 2)
        | none => false
      | none => false
    let s : State := s.bump (if hit then F.regSramVictimHitsCount else F.regSramVictimMissesCount) home
    match take, s.vcFind home line with
    | true, some k => (s.vcDrop home k, hit)
    | _, _ => (s, hit)
  else (s, false)

/-- The home's data for a fill: the victim cache's, or the tier's after its buffered fine blocks are written back (R283). -/
def State.homeFill (s : State) (home agent sector : Nat) (data : Bool) : State :=
  let (s, hit) := s.vcLookup home sector (decide (agent < 16))
  if hit || !data then s
  else
    [2 * sector, 2 * sector + 1].foldl (fun (t : State) b => (t.atomFlush b).readBurst b) s

/-- The owner that the home lists for a sector, among an agent's peers. -/
def State.listedOwner (s : State) (home sector : Nat) (except : Option Nat) : Option Nat :=
  (partAgents s.mode (partOfRegion s.mode home)).find? (fun a =>
    decide (except ≠ some a) && decide (s.mirrorView home a sector = .owner))

/-- ReadShared served (R298): E where no other agent is listed and no untracked mark covers the sector, and S otherwise. -/
def State.serveReadShared (s : State) (home agent sector : Nat) (stream : Bool := false) : State :=
  let s : State := s.cacheRoom agent (agentLine agent sector) stream
  let s : State := s.mirrorRoom home agent (agentLine agent sector)
  let s : State := match s.listedOwner home sector (some agent) with
    | some o => s.snoopShared home o sector
    | none => s
  let owned := (s.listedOwner home sector (some agent)).isSome
  let s : State := s.homeFill home agent sector (!owned)
  let free := (partAgents s.mode (partOfRegion s.mode home)).all (fun a =>
    (decide (a = agent) || decide (s.mirrorView home a sector = .notHeld))
      && !(s.mirror home a (agentLine a sector)).mark)
  (s.setAgentState agent sector (if free then .e else .s)).setView home agent sector (if free then .owner else .s)

/-- ReadUnique, ReadUniqueNoData and Upgrade served (R298): the other holders are invalidated and the requester becomes M. -/
def State.serveUnique (s : State) (home agent sector : Nat) (data : Bool) (stream : Bool := false) : State :=
  let s : State := s.cacheRoom agent (agentLine agent sector) stream
  let s : State := s.mirrorRoom home agent (agentLine agent sector)
  let owned := (s.listedOwner home sector (some agent)).isSome
  let s : State := s.invalidateHolders home sector (some agent) false
  let s : State := s.homeFill home agent sector (data && !owned)
  (s.setAgentState agent sector .m).setView home agent sector .owner

/-- An agent's request served at the home of its sector (R298, R299). -/
def State.serveCoh (s : State) (home agent sector : Nat) (k : CohKind) : State :=
  match k with
  | .readShared => s.serveReadShared home agent sector
  | .readUnique => s.serveUnique home agent sector true
  | .readUniqueNoData => s.serveUnique home agent sector false
  | .upgrade => s.serveUnique home agent sector (!(s.agentState agent sector).valid)
  | .cleanEvict => s.setView home agent sector .notHeld
  | .writeBack =>
    let coh := s.coh
    let listed := decide (s.mirrorView home agent sector = .owner)
    let s : State := { s with coh := { coh with
      writebacks := coh.writebacks.filter (fun w => !decide (w.1 = agent ∧ w.2.1 = sector)) } }
    if !listed then s
    else
      let s : State := s.setView home agent sector .notHeld
      if agent < 16 ∧ (s.paKind (sector * 64)).isTier = true then
        (s.bumpRun F.l2CountCtlRun F.l2WritebacksCount agent).serveOffer agent
          ⟨sector / 2, 1 <<< (sector % 2), 1 <<< (sector % 2), false⟩
      else s.tierWrite (sector / 2) (1 <<< (sector % 2))

/-- Do its grants await an acknowledgement? -/
def CohKind.grants : CohKind → Bool
  | .cleanEvict | .writeBack => false
  | _ => true

/-- The requests that wait for a sector served in order, up to the next grant (R296). -/
def State.serveWaiting (home sector : Nat) : Nat → State → State
  | 0, s => s
  | n + 1, s =>
    let coh := s.coh
    if coh.busy.any (fun b => decide (b.1 = sector)) then s
    else
      match coh.waiting.find? (fun w => decide (w.sector = sector)) with
      | none => s
      | some w =>
        let s : State := { s with coh := { coh with waiting := coh.waiting.erase w } }
        let s : State := s.serveCoh home w.agent sector w.kind
        let coh := s.coh
        let s : State := if w.kind.grants then { s with coh := { coh with busy := coh.busy ++ [(sector, w.agent)] } } else s
        State.serveWaiting home sector n s

/-- May an agent send a request for a sector: a live agent of the partition that holds the sector's home (R289, R291)? -/
def State.agentMay (s : State) (agent sector : Nat) : Option Nat :=
  match s.homeOf sector with
  | none => none
  | some h =>
    if agent ∈ partAgents s.mode (partOfRegion s.mode h) ∧ agent ∉ s.coh.dead then some h else none

/-- Does a dead agent's mirror list the sector, so that requests for it wait (R310)? -/
def State.reclaimHolds (s : State) (home sector : Nat) : Bool :=
  s.coh.reclaiming.any (fun a => decide (s.mirrorView home a sector ≠ .notHeld))

/-- A request sent by an agent: it joins the queue of its sector, and is served if nothing stands before it. -/
def State.cohRequest (s : State) (agent sector : Nat) (k : CohKind) : State :=
  match s.agentMay agent sector with
  | none => s
  | some h =>
    let coh := s.coh
    let s : State := { s with coh := { coh with waiting := coh.waiting ++ [⟨sector, agent, k⟩] } }
    if s.reclaimHolds h sector then s else State.serveWaiting h sector (coh.waiting.length + 1) s

/-- A request that an agent sends from state I. -/
def State.cohFromI (s : State) (agent sector : Nat) (k : CohKind) : Host.Outcome State Fault Refusal :=
  .next (if s.agentState agent sector = .i then s.cohRequest agent sector k else s)

/-- READ_SHARED (R293, R298): an agent's load of a sector it does not hold. -/
def execReadShared (agent sector : Nat) (s : State) : Host.Outcome State Fault Refusal := s.cohFromI agent sector .readShared

/-- READ_UNIQUE (R293, R298): an agent's store to a sector it does not hold. -/
def execReadUnique (agent sector : Nat) (s : State) : Host.Outcome State Fault Refusal := s.cohFromI agent sector .readUnique

/-- READ_UNIQUE_NO_DATA (R293, R298): an agent's store that covers a whole sector it does not hold. -/
def execReadUniqueNoData (agent sector : Nat) (s : State) : Host.Outcome State Fault Refusal :=
  s.cohFromI agent sector .readUniqueNoData

/-- UPGRADE (R293, R298): an agent's store to a sector it holds as S or O; one whose copy a snoop has removed is served as
ReadUnique (R299). -/
def execUpgrade (agent sector : Nat) (s : State) : Host.Outcome State Fault Refusal :=
  match s.agentState agent sector with
  | .m | .e => .next s
  | _ => .next (s.cohRequest agent sector .upgrade)

/-- CLEAN_EVICT (R293, R299): in quad and dual mode an agent evicts a clean sector with a notice; its copy goes at once. In whole
mode it evicts silently. -/
def execCleanEvict (agent sector : Nat) (s : State) : Host.Outcome State Fault Refusal :=
  match s.agentMay agent sector, s.agentState agent sector with
  | some _, .s | some _, .e =>
    let s : State := s.setAgentState agent sector .i
    .next (if s.mode = 0 then s else s.cohRequest agent sector .cleanEvict)
  | _, _ => .next s

/-- WRITE_BACK (R293, R299): an agent evicts a dirty sector; its data stands in the writeback buffer until the home has served
it. -/
def execWriteBack (agent sector : Nat) (s : State) : Host.Outcome State Fault Refusal :=
  match s.agentMay agent sector, s.agentState agent sector with
  | some _, st =>
    if st.dirty then
      let s : State := s.setAgentState agent sector .i
      let coh := s.coh
      .next (State.cohRequest { s with coh := { coh with writebacks := coh.writebacks ++ [(agent, sector, st)] } }
        agent sector .writeBack)
    else .next s
  | none, _ => .next s

/-- GRANT_ACKNOWLEDGE (R298): the transaction completes, and the next request for the sector is served. -/
def execGrantAcknowledge (agent sector : Nat) (s : State) : Host.Outcome State Fault Refusal :=
  let coh := s.coh
  match s.homeOf sector with
  | none => .next s
  | some h =>
    if (sector, agent) ∈ coh.busy then
      .next (State.serveWaiting h sector coh.waiting.length
        { s with coh := { coh with busy := coh.busy.erase (sector, agent) } })
    else .next s

/-- SNOOP_SHARED (R294): an agent answers SnoopShared from its current state. -/
def execSnoopShared (agent sector : Nat) (s : State) : Host.Outcome State Fault Refusal :=
  match s.agentMay agent sector with
  | some h => .next (s.snoopShared h agent sector)
  | none => .next s

/-- SNOOP_INVALIDATE (R294): an agent answers SnoopInvalidate and becomes I; dirty data is sent to the home. -/
def execSnoopInvalidate (agent sector : Nat) (s : State) : Host.Outcome State Fault Refusal :=
  match s.agentMay agent sector with
  | some h => .next (s.snoopInvalidate h agent sector true)
  | none => .next s

/-- SNOOP_PEEK (R294): an agent supplies data, or answers miss, and its state stays; a miss removes a stale owner (R306). -/
def execSnoopPeek (agent sector : Nat) (s : State) : Host.Outcome State Fault Refusal :=
  match s.agentMay agent sector with
  | some h =>
    let s : State := s.cohCount F.regCohSnoopsCount h
    .next (if (s.answerState agent sector).valid then s else s.setView h agent sector .notHeld)
  | none => .next s

/-- SNOOP_PURGE (R294, R307): in whole mode, an agent invalidates the S sectors of the set of a line that are homed at the
snooping region, the home of that line. -/
def execSnoopPurge (agent line : Nat) (s : State) : Host.Outcome State Fault Refusal :=
  match s.agentMay agent (if agent < 16 then 2 * line else line) with
  | some h => .next (if s.mode = 0 then s.snoopPurge h agent line else s)
  | none => .next s

-- non-caching requests (R281, R297)

/-- The home's part of a fine read of the fine blocks of a sector (R281): the owner is peeked; else the data comes from the
victim cache, the atomic buffer or memory. -/
def State.ncRead (s : State) (home sector : Nat) (blocks : List Nat) : State :=
  match s.listedOwner home sector none with
  | some o =>
    let s : State := s.cohCount F.regCohSnoopsCount home
    if (s.answerState o sector).valid then (s.vcLookup home sector false).1
    else
      let (s, hit) := (s.setView home o sector .notHeld).vcLookup home sector false
      if hit then s else blocks.foldl (fun (t : State) b => if t.atomHeld b then t else t.readBurst b) s
  | none =>
    let (s, hit) := s.vcLookup home sector false
    if hit then s else blocks.foldl (fun (t : State) b => if t.atomHeld b then t else t.readBurst b) s

/-- The home's part of a non-caching write (R281, R282, R297): holders are invalidated, dirty data written back first where the
sector is not wholly covered; the write commits at the victim cache or at the channel controller, which reads a fine block that is
not whole before it merges. -/
def State.ncWrite (s : State) (home sector : Nat) (whole : Bool) (blocks : List (Nat × Bool)) : State :=
  let s : State := s.invalidateHolders home sector none (!whole)
  let (s, _) := s.vcLookup home sector false
  match s.vcFind home (sector / 2) with
  | some k =>
    let m := s.srams.getD home {}
    let upd : VcLine → VcLine := fun l =>
      if whole || l.valid.testBit (sector % 2) then
        ⟨l.line, l.valid ||| (1 <<< (sector % 2)), l.dirty ||| (1 <<< (sector % 2))⟩
      else l
    { s with srams := s.srams.set home { m with vc := m.vc.adjust k upd } }
  | none =>
    blocks.foldl (fun (t : State) b =>
      if t.atomHeld b.1 then t
      else
        let t : State := if b.2 then t else t.readBurst b.1
        t.writeBurst b.1) s

/-- The home's part of an atomic at a fine block (R283, R297): as a partial write, applied in the atomic buffer. -/
def State.ncAtomic (s : State) (home b : Nat) : State :=
  let s : State := s.invalidateHolders home (b / 2) none true
  let (s, _) := s.vcLookup home (b / 2) true
  s.atomUse b

/-- The fine blocks of n bytes from an address, with whether the bytes cover each whole. -/
def fineBlocks (a n : Nat) : List (Nat × Bool) :=
  (blocksOf a n).map (fun b => (b, decide (a ≤ b * 32 ∧ b * 32 + 32 ≤ a + n)))

/-- A non-caching read of n bytes at memory addresses (R297). -/
def State.ncReadRange (s : State) (a n : Nat) : State :=
  let secs := (blocksOf a n).map (fun b => b / 2) |>.eraseDups
  secs.foldl (fun (t : State) x =>
    match t.homeOf x with
    | some h => t.ncRead h x ((blocksOf a n).filter (fun b => decide (b / 2 = x)))
    | none => t) s

/-- A non-caching write of n bytes at memory addresses (R297); the bytes themselves are written with it. -/
def State.ncWriteRange (s : State) (a : Nat) (bs : List Byte) : State :=
  let n := bs.length
  let secs := (blocksOf a n).map (fun b => b / 2) |>.eraseDups
  let s : State := secs.foldl (fun (t : State) x =>
    match t.homeOf x with
    | some h => t.ncWrite h x (decide (a ≤ x * 64 ∧ x * 64 + 64 ≤ a + n)) ((fineBlocks a n).filter (fun b => decide (b.1 / 2 = x)))
    | none => t) s
  s.writeMem a bs

-- canvas L2 accesses by cores and movers (R265 to R267)

/-- The line's STREAM mark cleared and the tree pointed away, on a hit (R266). -/
def State.l2Touch (s : State) (canvas line : Nat) (stream : Bool) : State :=
  let set := l2Set line
  let x := s.cacheSet canvas set
  match x.find line with
  | none => s
  | some w =>
    let ways := if stream then x.ways else x.ways.adjust w (fun (l : CacheLine) => { l with stream := false })
    s.setCacheSet canvas set { ways := ways, plru := plruTouch w false 4 1 x.plru }

/-- A read of the sectors of a line that a mask names, through a canvas L2 (R265): missing sectors are fetched, and with PAIR_FILL
the line's other sector. `stream` marks a .st read. -/
def State.l2Read (s : State) (canvas line mask : Nat) (stream : Bool) : State :=
  let missing := (List.range 2).filter (fun h => mask.testBit h && !(s.agentState canvas (2 * line + h)).valid)
  if missing = [] then (s.bumpRun F.l2CountCtlRun F.l2HitsCount canvas).l2Touch canvas line stream
  else
    let s : State := s.bumpRun F.l2CountCtlRun F.l2MissesCount canvas
    let want := if s.flag F.l2CfgPairFill canvas then
        (List.range 2).filter (fun h => !(s.agentState canvas (2 * line + h)).valid) else missing
    let present := ((s.cacheSet canvas (l2Set line)).find line).isSome
    let s : State := if present then s.l2Touch canvas line stream else s
    want.foldl (fun (t : State) h =>
      match t.homeOf (2 * line + h) with
      | some home => t.serveReadShared home canvas (2 * line + h) stream
      | none => t) s

/-- A write through a canvas L2 that does not bypass (R265): `mask` names the sectors written, `full` those wholly covered. -/
def State.l2Write (s : State) (canvas line mask full : Nat) : State :=
  let secs := (List.range 2).filter (fun h => mask.testBit h)
  let valid := fun (h : Nat) => (s.agentState canvas (2 * line + h)).valid
  let s : State :=
    if secs.all valid then s.bumpRun F.l2CountCtlRun F.l2HitsCount canvas
    else if secs.any (fun h => !valid h && !full.testBit h) then s.bumpRun F.l2CountCtlRun F.l2MissesCount canvas
    else s
  let s : State := s.l2Touch canvas line false
  secs.foldl (fun (t : State) h =>
    let x := 2 * line + h
    match t.homeOf x with
    | none => t
    | some home =>
      match t.agentState canvas x with
      | .m => t
      | .e => t.setAgentState canvas x .m
      | .s | .o => t.serveUnique home canvas x false
      | .i => t.serveUnique home canvas x (!full.testBit h)) s

/-- A full-line write that bypasses allocation (R267): every other copy of the line goes, the victim cache's too, and the line
is written to its tier. -/
def State.bypassWrite (s : State) (canvas line : Nat) : State :=
  let s : State := s.bumpRun F.l2CountCtlRun F.l2StreamWritesCount canvas
  let s : State := [2 * line, 2 * line + 1].foldl (fun (t : State) x =>
    match t.homeOf x with
    | some home => t.invalidateHolders home x none false
    | none => t) s
  let s : State := s.offersFor line
  let s : State := match (s.paKind (line * 128)).region? with
    | some r =>
      match s.vcFind r line with
      | some k =>
        let m := s.srams.getD r {}
        { s with srams := s.srams.set r { m with vc := m.vc.del k } }
      | none => s
    | none => s
  s.tierWrite line 3

/-- A write of a source core reaching its canvas L2: the streaming-store detector, then the bypass or an ordinary write
(R267). -/
def State.l2Store (s : State) (core line mask full : Nat) : State :=
  let canvas := canvasOfCore core
  let l2 := s.canvases.getD canvas {}
  let on := s.flag F.l2CfgStreamDetect canvas
  let d := l2.detectors.get? core
  let asc := match d with
    | some d => decide (full = 3) && decide (line = d.last + 1)
    | none => false
  let count := match d with
    | some d => d.count
    | none => 0
  let d' := if !on || full ≠ 3 then none else some (⟨line, if asc then min 64 (count + 1) else 0⟩ : Detector)
  let det : NMap Detector := match d' with
    | some d' => l2.detectors.set core d'
    | none => l2.detectors.del core
  let s : State := { s with canvases := s.canvases.set canvas { l2 with detectors := det } }
  if on && asc && decide (64 ≤ count) then s.bypassWrite canvas line else s.l2Write canvas line mask full

-- dead agents (R308 to R310)

/-- A sector poisoned by a reclaim (R309). -/
def State.reclaimPoison (s : State) (home sector : Nat) : State :=
  ((s.markPoison (2 * sector)).markPoison (2 * sector + 1)).bump F.regCohPoisonedCount home

/-- A dirty sector of a dead agent: an O sector's data is taken from the lowest-numbered S holder that supplies it; otherwise the
sector is poisoned (R309). -/
def State.reclaimOwner (s : State) (home agent sector : Nat) : State :=
  match s.agentState agent sector with
  | .m => s.reclaimPoison home sector
  | .o =>
    let holders := (partAgents s.mode (partOfRegion s.mode home)).filter (fun a =>
      decide (a ≠ agent) && decide (s.mirrorView home a sector = .s))
    let rec ask : List Nat → State → State
      | [], t => t.reclaimPoison home sector
      | a :: as, t =>
        let ok := (t.answerState a sector).valid
        let t : State := t.snoopShared home a sector
        if ok then t.tierWrite (sector / 2) (1 <<< (sector % 2)) else ask as t
    ask holders s
  | _ => s

/-- A home's reclaim of a dead agent (R309): its listings removed, its marks cleared, and the reclaim logged. -/
def State.reclaimAt (s : State) (home agent : Nat) : State :=
  let lo := mirrorKey home agent 0
  let mine := s.coh.mirrors.filter (fun (e : Nat × MirrorSet) => decide (lo ≤ e.1 ∧ e.1 < lo + 32768))
  let sectors := mine.flatMap (fun (e : Nat × MirrorSet) => e.2.ways.filterMap (fun (w : Nat × MirrorWay) =>
    if w.2.v0 = .owner then some w.2.line else none))
  let granted := (s.coh.busy.filter (fun b => decide (b.2 = agent) && decide (s.homeOf b.1 = some home)
    && decide (s.mirrorView home agent b.1 = .owner))).map Prod.fst
  let s : State := sectors.foldl (fun (t : State) x =>
    if x ∈ granted then t.reclaimPoison home x else t.reclaimOwner home agent x) s
  let marks := (mine.filter (fun (e : Nat × MirrorSet) => e.2.mark)).length
  let s : State := s.wr F.regCohStatusMarkedSets home (s.rd F.regCohStatusMarkedSets home - marks)
  let coh := s.coh
  let s : State := { s with coh := { coh with
    mirrors := coh.mirrors.keep (fun k => !decide (lo ≤ k ∧ k < lo + 32768)) } }
  s.hwEvent home 0x8309 agent

/-- AGENT_RECLAIM (R309, R310): every home of the partition reclaims the lines of a dead agent; its queued requests and grants are
discarded, and the requests that waited are served. -/
def execAgentReclaim (agent : Nat) (s : State) : Host.Outcome State Fault Refusal :=
  if agent ∈ s.coh.reclaiming then
    let p := partOfRegion s.mode (agentRegion agent)
    let s : State := (partRegions s.mode p).foldl (fun (t : State) h => t.reclaimAt h agent) s
    let coh := s.coh
    let freed := (coh.busy.filter (fun b => decide (b.2 = agent))).map Prod.fst
    let s : State := { s with coh := { coh with
      reclaiming := coh.reclaiming.filter (fun a => decide (a ≠ agent)),
      busy := coh.busy.filter (fun b => decide (b.2 ≠ agent)),
      waiting := coh.waiting.filter (fun w => decide (w.agent ≠ agent)),
      writebacks := coh.writebacks.filter (fun w => decide (w.1 ≠ agent)),
      appSets := coh.appSets.keep (fun k => decide (k / 1024 ≠ agent)) } }
    let left := s.coh.reclaiming.any (fun a => decide (partOfRegion s.mode (agentRegion a) = p))
    let s : State := (partRegions s.mode p).foldl (fun (t : State) h =>
      t.wr F.regCohStatusReclaimBusy h (if left then 1 else 0)) s
    let again := (freed ++ s.coh.waiting.map CohWait.sector).eraseDups
    .next (again.foldl (fun (t : State) x =>
      match t.homeOf x with
      | some h => if t.reclaimHolds h x then t else State.serveWaiting h x t.coh.waiting.length t
      | none => t) s)
  else .next s

-- the commands of the non-caching requesters (R297)

/-- NON_CACHING_READ (R297): a sector read through its home. -/
def execNonCachingRead (sector : Nat) (s : State) : Host.Outcome State Fault Refusal :=
  .next (s.ncReadRange (sector * 64) 64)

/-- NON_CACHING_WRITE (R297): bytes of one sector written through its home. -/
def execNonCachingWrite (sector offset : Nat) (bytes : List Byte) (s : State) : Host.Outcome State Fault Refusal :=
  if 0 < bytes.length ∧ offset + bytes.length ≤ 64 ∧ (s.homeOf sector).isSome = true then
    .next (s.ncWriteRange (sector * 64 + offset) bytes)
  else .next s

/-- The new value of an integer atomic of a width in bits: the old value, B and C (R182). Minimum and maximum are unsigned unless
`signed`. -/
def AtomOp.apply (op : AtomOp) (signed : Bool) (w old b c : Nat) : Nat :=
  let lt := fun (x y : Nat) => if signed then decide (toSigned w x < toSigned w y) else decide (x < y)
  match op with
  | .add => (old + b) % 2 ^ w
  | .min => if lt old b then old else b
  | .max => if lt old b then b else old
  | .and => old &&& b
  | .or => old ||| b
  | .xor => old ^^^ b
  | .exch => b
  | .cas => if old = c then b else old

/-- An integer atomic of 4 or 8 bytes applied at memory; poison stays as it is (R484). -/
def State.atomicAt (s : State) (a : Nat) (op : AtomOp) (signed : Bool) (size b c : Nat) : State :=
  if s.poisoned a size then s
  else
    let m := 2 ^ (8 * size)
    s.writeMem a (leBytes size (op.apply signed (8 * size) (leNat (s.readBytes a size)) (b % m) (c % m)))

/-- NON_CACHING_ATOMIC (R297, R283): an integer atomic at an aligned address, applied at the atomic unit. -/
def execNonCachingAtomic (addr : Nat) (op : AtomOp) (size data cmp : Nat) (s : State) : Host.Outcome State Fault Refusal :=
  match s.homeOf (addr / 64) with
  | some h =>
    if (size = 4 ∨ size = 8) ∧ addr % size = 0 then
      .next ((s.ncAtomic h (addr / 32)).atomicAt addr op false size data cmp)
    else .next s
  | none => .next s

end Sys2Proof.Machine
end

