-- ==== Sys2Proof/Machine/Stacks.lean ====
section
/-! DEFINITION. The stacks, their temperature and throttling, the scrubber, the split of region SRAM, and fine requests
(09_memory_tiers.md, R272 to R286; 17_faults_and_repair.md, R482 to R485). -/

namespace Sys2Proof.Machine

/-- The time a stack has spent at a level other than 0 added to STK.THROTTLE_NS, up to now (R288). -/
def State.throttleAcc (s : State) (k : Nat) : State :=
  let x := s.stackSts.getD k {}
  match x.throttledSince with
  | none => s
  | some t =>
    State.stkCount { s with stackSts := s.stackSts.set k { x with throttledSince := some s.now } }
      F.stkThrottleNsCount k (s.now - t)

/-- The entry temperature of a throttle level (R285). -/
def levelEntry (l : Nat) : Int := 93 + 2 * (l : Int)

/-- The level after a reading (R285): it rises to the highest level whose entry temperature is reached, and falls by one below
2 °C under the current level's. -/
def throttleLevel (old : Nat) (t : Int) : Nat :=
  let reached := (List.range 7).foldl (fun a l => if l ≠ 0 ∧ levelEntry l ≤ t then l else a) 0
  if old ≤ reached then reached
  else if t < levelEntry old - 2 then old - 1
  else old

/-- STACK_TEMP_READ (R277, R285): a stack's reading in degrees, as a byte: its level, its refresh rate, and the event of a change
of level. -/
def execStackTempRead (stack temp : Nat) (s : State) : Host.Outcome State Fault Refusal :=
  if stack < 24 then
    let t := toSigned 8 temp
    let s : State := (s.wr F.stkStatusTemp stack temp).throttleAcc stack
    let s : State :=
      if 85 < t then s.wr F.stkStatusRefresh2x stack 1 else if t < 83 then s.wr F.stkStatusRefresh2x stack 0 else s
    let old := s.rd F.stkStatusLevel stack
    let x := s.stackSts.getD stack {}
    if x.offline then .next s
    else
      let new := throttleLevel old t
      let since := if new = 6 then some (x.restrictedSince.getD s.now) else none
      let x : StackSt := { x with restrictedSince := since, throttledSince := if new = 0 then none else some s.now }
      let s : State := { s with stackSts := s.stackSts.set stack x }
      .next (if new = old then s
        else (s.wr F.stkStatusLevel stack new).hwEvent (stack / 6) 0x4510 (stackUnit stack))
  else .next s

/-- STACK_OFFLINE (R286): a stack that has stayed restricted for 10 s, or whose reading is at 110 °C, goes offline. -/
def execStackOffline (stack : Nat) (s : State) : Host.Outcome State Fault Refusal :=
  let x := s.stackSts.getD stack {}
  let long := match x.restrictedSince with
    | some t => decide (t + 10000000000 ≤ s.now)
    | none => false
  if stack < 24 ∧ (long = true ∨ 110 ≤ toSigned 8 (s.rd F.stkStatusTemp stack)) then
    .next ((s.throttleAcc stack).stackDown stack)
  else .next s

/-- SCRUB (R482, R485): a scrub read of a burst of a stack, or of region SRAM, named 24 + region: a correction is written back, an
uncorrectable burst is poisoned, and either is logged. -/
def execScrub (stack addr : Nat) (result : ScrubResult) (s : State) : Host.Outcome State Fault Refusal :=
  let b := addr / 32
  let k := s.paKind addr
  let loc := b * 32
  if k.stack? = some stack ∧ s.stackOffline stack = false then
    match result with
    | .clean => .next s
    | .corrected n => .next ((s.writeBurst b).hwEvent (stack / 6) 0x0110 (stackUnit stack) 0xFFFF loc n)
    | .uncorrectable => .next ((s.markPoison b).hwEvent (stack / 6) 0x0210 (stackUnit stack) 0xFFFF loc)
  else
    match k with
    | .scratch r _ =>
      if stack = 24 + r then
        match result with
        | .clean => .next s
        | .corrected n => .next (s.hwEvent r 0x8105 (12 + r) 0xFFFF loc n)
        | .uncorrectable => .next ((s.markPoison b).hwEvent r 0x8205 (12 + r) 0xFFFF loc)
      else .next s
    | _ => .next s

-- the split of region SRAM (R272, R273)

/-- The sectors an agent holds. -/
def State.heldSectors (s : State) (agent : Nat) : List Nat :=
  let sets := if agent < 16 then (s.canvases.getD agent {}).sets
    else s.coh.appSets.keep (fun k => decide (k / 1024 = agent))
  sets.flatMap (fun (e : Nat × CacheSet) => e.2.ways.flatMap (fun (w : Nat × CacheLine) =>
    if agent < 16 then
      (if w.2.s0.valid then [2 * w.2.line] else []) ++ (if w.2.s1.valid then [2 * w.2.line + 1] else [])
    else if w.2.s0.valid then [w.2.line] else []))

/-- Every cached copy of the lines of an address range recalled from its partition's agents; dirty data is written back or
discarded. -/
def State.recallRange (s : State) (home lo hi : Nat) (back : Bool) : State :=
  (partAgents s.mode (partOfRegion s.mode home)).foldl (fun (t : State) a =>
    (t.heldSectors a).foldl (fun (u : State) x =>
      if lo ≤ x * 64 ∧ x * 64 < hi then u.snoopInvalidate home a x back else u) t) s

/-- A write of REG.SRAM_CFG (R273, R274): ignored and logged while a change is in progress or for a number of units of 10 to 15; a
change of S starts a split change, which empties the victim cache and recalls the scratch lines it releases. -/
def State.writeSramCfg (s : State) (q : RegWriteReq) : State :=
  let r := q.n
  let new := q.new F.regSramCfgScratchUnits
  if s.flag F.regSramStatusBusy r then s.accessError
  else if 10 ≤ new then s.accessError
  else
    let old := s.rd F.regSramStatusScratchInForce r
    let s : State := s.store q
    if new = old then s
    else
      let s : State := (s.wr F.regSramStatusBusy r 1)
      let s : State := (s.srams.getD r {}).vc.keys.foldl (fun (t : State) k => t.vcDrop r k) s
      let s : State :=
        if new < old then s.recallRange r (scratchBase r + new * 0x4000000) (scratchBase r + old * 0x4000000) false else s
      let m := s.srams.getD r {}
      { s with srams := s.srams.set r { m with split := some ⟨new⟩ } }

/-- SPLIT_CHANGE (R273): a write of REG.SRAM_CFG. -/
def execSplitChange (a : Access) (s : State) : Host.Outcome State Fault Refusal := s.onWrite a [.regSramCfg] s.writeSramCfg

/-- SPLIT_CHANGE_DONE (R273): the units in transition are zero, the grants of units that leave scratch are 0
(R324), the split is in force, and BUSY clears. -/
def execSplitChangeDone (region : Nat) (s : State) : Host.Outcome State Fault Refusal :=
  let m := s.srams.getD region {}
  match m.split with
  | none => .next s
  | some x =>
    let old := s.rd F.regSramStatusScratchInForce region
    let lo := min old x.target
    let hi := max old x.target
    let s : State := s.zeroRange (scratchBase region + lo * 0x4000000) ((hi - lo) * 0x4000000)
    let s : State := { s with srams := s.srams.set region { m with split := none } }
    let s : State := ((List.range 9).filter (fun u => decide (x.target ≤ u ∧ u < old))).foldl (fun (t : State) u =>
      t.clearReg .regGrantScratch (region * 9 + u)) s
    .next ((s.wr F.regSramStatusScratchInForce region x.target).wr F.regSramStatusBusy region 0)

/-- FINE_REQUEST (R280 to R283): a fine read, write or integer atomic of one fine block by a context's engine, translated and
checked, and served at the home agent. -/
def execFineRequest (ctx va : Nat) (op : FineOp) (s : State) : Host.Outcome State Fault Refusal :=
  let n := match op with
    | .read n => n
    | .write bs => bs.length
    | .atomic _ size _ _ => size
  let kind := match op with
    | .read _ => AccKind.read
    | .write _ => .write
    | .atomic _ _ _ _ => .atomic
  let shape := match op with
    | .atomic _ size _ _ => decide (size = 4 ∨ size = 8) && decide (va % size = 0)
    | _ => true
  if ctx < 4096 ∧ 0 < n ∧ va / 32 = (va + n - 1) / 32 ∧ shape = true then
    match s.access (.engine (lowestRegion s.mode (partOfCtx s.mode ctx))) ctx va kind with
    | (s, .memory pa) =>
      match op with
      | .read n => .next (s.ncReadRange pa n)
      | .write bs => .next (s.ncWriteRange pa bs)
      | .atomic op size b c =>
        match s.homeOf (pa / 64) with
        | some h => .next ((s.ncAtomic h (pa / 32)).atomicAt pa op false size b c)
        | none => .next s
    | (s, _) => .next s
  else .next s

end Sys2Proof.Machine
end

