-- ==== Sys2Proof/Machine/Xlate.lean ====
section
/-! DEFINITION. The responses of the driver to translation fault records, invalidations and grant writes
(11_address_translation.md, R320 to R337). -/

namespace Sys2Proof.Machine

-- data movers' chunks (R359)

/-- A data mover's destination address and its length. -/
def Cmd.moveDst (c : Cmd) : Nat :=
  match c.opcode with
  | 0x11 => c.field 0x10 8
  | 0x13 | 0x14 => c.field 0x10 8
  | _ => c.field 0x18 8

def Cmd.moveLen (c : Cmd) : Nat := if c.opcode = 0x14 then c.field 0x18 2 else c.field 0x20 8

/-- Where chunk i of a data mover begins, relative to its first byte: chunks are of 4 KiB, aligned to the destination. -/
def Cmd.chunkStart (c : Cmd) (i : Nat) : Nat := i * 4096 - c.moveDst % 4096

/-- The bytes of chunk i; none beyond the last. -/
def Cmd.chunkLen (c : Cmd) (i : Nat) : Nat := min c.moveLen (c.chunkStart (i + 1)) - c.chunkStart i

/-- The number of chunks. -/
def Cmd.chunks (c : Cmd) : Nat := (c.moveDst % 4096 + c.moveLen + 4095) / 4096

/-- The least number not in a list. -/
def leastFree (l : List Nat) : Nat → Nat → Nat
  | 0, i => i
  | n + 1, i => if i ∈ l then leastFree l n (i + 1) else i

/-- The byte offset of the lowest chunk not written (R359). -/
def Cmd.lowestUnwritten (c : Cmd) : Nat := c.chunkStart (leastFree c.chunksDone c.chunksDone.length 0)

/-- Is the command a data mover? -/
def Cmd.moves (c : Cmd) : Bool := decide (0x10 ≤ c.opcode) && decide (c.opcode ≤ 0x14)

/-- A running command ends with an error's status; a data mover's RESULT is the offset of its lowest chunk not written, an RDMA
transfer's the bytes completed (R392). -/
def State.failCmd (s : State) (q seq status : Nat) : State :=
  match s.cmd? q seq with
  | some c =>
    s.endCmd q seq status
      (if c.moves then c.lowestUnwritten else if c.opcode = 0x40 ∨ c.opcode = 0x41 then c.result else 0)
  | none => s

/-- A queue stops on an error (R347, R348, R350): nothing more is fetched. -/
def State.stopQueue (s : State) (q error : Nat) : State :=
  if s.rd F.qpStatusState q = 2 then s
  else (s.wr F.qpStatusState q 2).wr F.qpStatusError q error

/-- The ring of a queue cannot be reached (R350): the queue stops with ERROR 0x03, and its records are discarded from then on. -/
def State.ringFails (s : State) (q : Nat) : State :=
  let x := s.queue q
  (s.setQueue q { x with ringFailed := true, ringStall := none, held := [] }).stopQueue q 3

-- responses (R335)

/-- The lanes' addresses of a memory instruction: the address of its lowest lane. -/
def MemOp.addr (m : MemOp) : Word := (m.lanes.head?.map LaneAcc.addr).getD 0

/-- DETAIL of the address faults 0x10 to 0x14 (R145): 0 load, 1 store, 2 atomic. -/
def MemKind.detail : MemKind → Nat
  | .load => 0
  | .store => 1
  | _ => 2

/-- How a resolved record leaves its engines: to try again, or with a fault: unmapped or permission (R335). -/
inductive XfrOutcome where
  | retry
  | fail (unmapped : Bool)
deriving DecidableEq, Repr

def XfrOutcome.code : XfrOutcome → Nat
  | .fail true => 0x10
  | _ => 0x11

def XfrOutcome.status : XfrOutcome → Nat
  | .fail true => 0x07
  | _ => 0x08

/-- A deferred fault joins a core's pending ones. -/
def State.pushFault (s : State) (c : Nat) (f : PendFault) : State :=
  let x : CoreSt := s.core c
  s.setCore c { x with faults := x.faults ++ [f] }

/-- The engines of a core that wait on a record (R332, R335): each tries again, or takes its fault. A group whose fetch failed
issues nothing more before its fault is taken. -/
def State.resolveCore (s : State) (c : Nat) (r n : Nat) (o : XfrOutcome) : State :=
  let x : CoreSt := s.core c
  let hit := fun (w : Option Nat) => decide (w = some n)
  let fail := decide (o ≠ .retry)
  let ldFaults := x.txns.filterMap (fun (t : Txn) => match t.kind with
    | .stalled op w =>
      if hit w && fail then
        some ({ pos := t.pos, pc := t.pc, lanes := op.mask, code := o.code, detail := op.kind.detail,
                addr := op.addr } : PendFault)
      else none
    | _ => none)
  let txns := x.txns.filterMap (fun (t : Txn) => match t.kind with
    | .stalled op w => if hit w then (if fail then none else some { t with kind := .stalled op none }) else some t
    | _ => some t)
  let fetchHit := fun (g : Group) => g.fetchWait.any (fun w => decide (w.region = r ∧ w.seq = n))
  let gFaults := x.groups.filterMap (fun (g : Nat × Group) =>
    if fetchHit g.2 = true ∧ fail = true then
      match (List.range 32).find? (fun l => decide (g.2.stat l = .run)) with
      | some l =>
        some ({ pos := g.1, pc := g.2.pc l, lanes := laneMask (g.2.setAt l), code := o.code, detail := 0,
                addr := BitVec.ofNat 64 ((g.2.fetchWait.map (fun w => w.va)).getD 0) } : PendFault)
      | none => none
    else none)
  let groups := x.groups.map (fun (g : Nat × Group) =>
    if fetchHit g.2 = true ∧ fail = false then (g.1, { g.2 with fetchWait := none }) else g)
  let tmHit := fun (m : Nat) => ((x.tmStall.get? m).any (fun w => decide (w.region = r ∧ w.seq = n)))
  let tmVa := fun (m : Nat) => BitVec.ofNat 64 (((x.tmStall.get? m).map (fun w => w.va)).getD 0)
  let tmFault := fun (m : Nat) (l : List TmDesc) =>
    if tmHit m && fail then (l.take 1).map (fun (d : TmDesc) =>
      ({ pos := d.pos, pc := d.pc, lanes := d.lanes, code := o.code, detail := 3, addr := tmVa m } : PendFault)) else []
  let mxHit := x.mxStall.any (fun w => decide (w.region = r ∧ w.seq = n))
  let mxFault := if mxHit && fail then (x.mxq.take 1).map (fun (e : MxEntry) =>
      let w := x.mxStall.getD { region := 0, seq := 0, detail := 0, va := 0 }
      ({ pos := e.pos, pc := e.pc, lanes := 0xFFFFFFFF, code := o.code, detail := w.detail, addr := BitVec.ofNat 64 w.va } : PendFault))
    else []
  let x : CoreSt := { x with
    txns := txns,
    groups := groups,
    faults := x.faults ++ ldFaults ++ gFaults ++ tmFault 0 x.tm0 ++ tmFault 1 x.tm1 ++ mxFault,
    tm0 := if tmHit 0 && fail then x.tm0.drop 1 else x.tm0,
    tm1 := if tmHit 1 && fail then x.tm1.drop 1 else x.tm1,
    mxq := if mxHit && fail then x.mxq.drop 1 else x.mxq,
    tmStall := (x.tmStall.filter (fun (e : Nat × EngStall) => !decide (e.2.region = r ∧ e.2.seq = n))),
    mxStall := if mxHit then none else x.mxStall }
  s.setCore c x.settleFences

/-- The commands and the rings of a queue that wait on a record. -/
def State.resolveQueue (s : State) (q : Nat) (r n : Nat) (o : XfrOutcome) : State :=
  let x := s.queue q
  let fail := decide (o ≠ .retry)
  let waiting := x.cmds.filter (fun (c : Cmd) => decide (c.stalled = some (r, n)))
  let s : State := waiting.foldl (fun (t : State) c =>
    let t : State := t.updCmd q c.seq (fun y => { y with stalled := none })
    if fail then t.failCmd q c.seq o.status else t) s
  if x.ringStall = some (r, n) then
    let x := s.queue q
    let s : State := s.setQueue q { x with ringStall := none }
    if fail then s.ringFails q else s
  else s

/-- The flows of a job slot that wait on a record (R388). -/
def JobSlot.resolve (j : JobSlot) (r n : Nat) (o : XfrOutcome) : JobSlot :=
  let one := fun (f : Flow) =>
    if f.fault = some (r, n) then
      { f with fault := none, failed := (match o with
        | .retry => none
        | .fail u => some u) }
    else f
  { j with conns := j.conns.map (fun (e : Nat × Flow) => (e.1, one e.2)),
           streams := j.streams.map (fun (e : Nat × Flow) => (e.1, one e.2)) }

/-- A write of REG.XFR_RESPOND (R335): a published record is resolved; any other response is counted as bad, and an OUTCOME of 0
is ignored. -/
def State.writeXfrRespond (s : State) (q : RegWriteReq) : State :=
  let r := q.n
  let n := q.wrote F.regXfrRespondSeq
  match q.wrote F.regXfrRespondOutcome with
  | 0 => s
  | k =>
    let o : XfrOutcome := if k = 1 then .retry else .fail (decide (k = 2))
    let g := s.xfr.getD r {}
    if g.recs.any (fun x => decide (x.seq = n) && x.published) then
      let s : State := State.xfrStatus
        { s with xfr := s.xfr.set r { g with recs := g.recs.filter (fun x => decide (x.seq ≠ n)) } } r
      let s : State := ((List.range 288).map (fun i => r * 288 + i)).foldl (fun (t : State) c =>
        if t.cores.has c then t.resolveCore c r n o else t) s
      let s : State := s.queues.keys.foldl (fun (t : State) i => t.resolveQueue i r n o) s
      { s with slots := s.slots.map (fun (e : Nat × JobSlot) => (e.1, e.2.resolve r n o)) }
    else s.bumpSat F.regXfrStatusBadResponses r

/-- A response command: a write of REG.XFR_RESPOND with a given OUTCOME. -/
def State.onRespond (s : State) (a : Access) (k : Nat) : Host.Outcome State Fault Refusal :=
  s.onWrite a [.regXfrRespond] (fun q => if q.wrote F.regXfrRespondOutcome = k then s.writeXfrRespond q else s)

/-- XFR_RETRY (R335): the waiting engines walk the tables afresh at their next attempt. -/
def execXfrRetry (a : Access) (s : State) : Host.Outcome State Fault Refusal := s.onRespond a 1

/-- XFR_FAIL_UNMAPPED (R335): the waiting engines receive fault 0x10 or the status UNMAPPED. -/
def execXfrFailUnmapped (a : Access) (s : State) : Host.Outcome State Fault Refusal := s.onRespond a 2

/-- XFR_FAIL_PERMISSION (R335): the waiting engines receive fault 0x11 or the status PERMISSION. -/
def execXfrFailPermission (a : Access) (s : State) : Host.Outcome State Fault Refusal := s.onRespond a 3

/-- A write of REG.XFR_READ (R334, R337): ignored where it would exceed WRITE_COUNT. Engines that wait for a free slot find it at
their next attempt. -/
def State.writeXfrRead (s : State) (q : RegWriteReq) : State :=
  let w := s.rd F.regXfrWriteWriteCount q.n
  if s.xfrSize q.n < (w + 2 ^ 32 - q.new F.regXfrReadReadCount) % 2 ^ 32 then s else s.store q

/-- XFR_READ_WRITE (R334). -/
def execXfrReadWrite (a : Access) (s : State) : Host.Outcome State Fault Refusal := s.onWrite a [.regXfrRead] s.writeXfrRead

/-- A write of REG.XFR_BASE (R337, R551): ignored with a record outstanding or for a ring outside the partition's tiers; a size
outside 8 to 16 keeps the size. -/
def State.writeXfrBase (s : State) (q : RegWriteReq) : State :=
  let l := q.new F.regXfrBaseLog2Records
  let q := if 8 ≤ l ∧ l ≤ 16 then q else q.keep F.regXfrBaseLog2Records
  if (s.xfr.getD q.n {}).recs ≠ [] then s.accessError
  else if s.rangeInTiers (partOfRegion s.mode q.n) (q.new F.regXfrBaseBase * 4096) (64 * 2 ^ q.new F.regXfrBaseLog2Records) then
    s.store q
  else s.accessError

-- invalidations (R327, R329)

/-- The compute-format translations of a context dropped from every cache of cores, clusters and regions (R318, R327). -/
def State.dropTranslations (s : State) (ctx : Nat) : State :=
  { s with tlbs := s.tlbs.map (fun (e : Nat × List TlbEntry) =>
      if e.1 < 3010 then (e.1, e.2.filter (fun x => decide (x.ctx ≠ ctx))) else e) }

/-- Has every access of a context that used a translation been performed (R327)? -/
def State.ctxPerformed (s : State) (ctx : Nat) : Bool :=
  s.cores.all (fun (e : Nat × CoreSt) =>
    e.2.txns.all (fun (t : Txn) => decide (t.ctx ≠ ctx) || (match t.kind with
      | .stalled _ _ => true
      | _ => false)))

/-- A write of CTX.TLB_INV (R327): GO drops the context's translations and sets BUSY. -/
def State.writeTlbInv (s : State) (q : RegWriteReq) : State :=
  if q.wrote F.ctxTlbInvGo = 1 then (s.dropTranslations q.n).wr F.ctxTlbInvBusy q.n 1 else s

/-- TLB_INVALIDATE (R327): a write of CTX.TLB_INV; or, with `done`, the completion of the invalidation of the register that the
access names, once the accesses that used older translations are performed. -/
def execTlbInvalidate (a : Access) (done : Bool) (s : State) : Host.Outcome State Fault Refusal :=
  if done then
    match s.accessTarget a with
    | some (.ctxTlbInv, n) => .next (if s.ctxPerformed n then s.wr F.ctxTlbInvBusy n 0 else s)
    | _ => .next s
  else s.onWrite a [.ctxTlbInv] s.writeTlbInv

/-- A write of CTX.PT_ROOT or CTX.PT_CTL (R327): ignored while the context is running; otherwise it also drops the context's
translations. -/
def State.writePt (s : State) (q : RegWriteReq) : State :=
  if s.rd F.ctxStateState q.n = 2 then s.accessError else (s.store q).dropTranslations q.n

/-- CTX_PT_WRITE (R327). -/
def execCtxPtWrite (a : Access) (s : State) : Host.Outcome State Fault Refusal :=
  s.onWrite a [.ctxPtRoot, .ctxPtCtl] s.writePt

/-- SFENCE_BROADCAST (R329): an application core's fence reaches its partition's I/O translation units, which drop the entries that
its address and address-space identifier select; HFENCE.GVMA names neither. -/
def execSfenceBroadcast (region _ctx : Nat) (va asid : Option Nat) (s : State) : Host.Outcome State Fault Refusal :=
  if region < 4 then
    let hit := fun (x : TlbEntry) =>
      (match va with
        | some v => x.covers x.ctx v
        | none => true) && (match asid with
        | some n => decide (s.rd F.ctxPtCtlAsid x.ctx = n)
        | none => true)
    let units := (partRegions s.mode (partOfRegion s.mode region)).map (fun r => 3010 + r)
    .next { s with tlbs := s.tlbs.map (fun (e : Nat × List TlbEntry) =>
      if e.1 ∈ units then (e.1, e.2.filter (fun x => !hit x)) else e) }
  else .next s

-- grants (R320 to R325)

/-- The fields of a grant register: MODE, CONTEXT and FLUSH, the region it belongs to and the address of its granule. -/
def grantFields (r : Reg) (n : Nat) : Option (Fld × Fld × Fld × Nat × Nat) :=
  match r with
  | .regGrantNear =>
    some (F.regGrantNearMode, F.regGrantNearContext, F.regGrantNearFlush, n / 6144, nearBase (n / 6144) + n % 6144 * 0x4000000)
  | .regGrantFar =>
    some (F.regGrantFarMode, F.regGrantFarContext, F.regGrantFarFlush, n / 8192, farBase (n / 8192) + n % 8192 * 0x4000000)
  | .regGrantScratch =>
    some (F.regGrantScratchMode, F.regGrantScratchContext, F.regGrantScratchFlush, n / 9, scratchBase (n / 9) + n % 9 * 0x4000000)
  | _ => none

/-- A grant entry takes a new mode and context: a granule of a tier whose key changes is unreadable from then on (R520). -/
def State.setGrant (s : State) (fm fc : Fld) (n pa mode ctx : Nat) : State :=
  let old := s.granuleKey (s.rd fm n) (s.rd fc n)
  let s : State := (s.wr fm n mode).wr fc n ctx
  if (s.paKind pa).isTier ∧ old ≠ s.granuleKey mode ctx then s.scramble (pa / 0x4000000) else s

/-- A write of a grant entry (R323, R324, R520): one that names a context outside the partition is discarded and logged; one that
names a context whose key is not ready waits; FLUSH recalls every cached copy of the granule first. -/
def State.writeGrant (s : State) (q : RegWriteReq) : State :=
  match grantFields q.reg q.n with
  | none => s
  | some (fm, fc, ff, region, pa) =>
    let ctx := q.new fc
    let mode := q.new fm
    if partOfCtx s.mode ctx ≠ partOfRegion s.mode region then s.accessError
    else if mode ≠ 0 ∧ s.flag F.ctxMemCryptEnable ctx = true ∧ s.flag F.ctxMemCryptKeyReady ctx = false then s
    else
      let s : State := if q.wrote ff = 1 then s.recallRange region pa (pa + 0x4000000) true else s
      s.setGrant fm fc q.n pa mode ctx

/-- GRANT_WRITE (R324): a write of a grant entry without FLUSH. -/
def execGrantWrite (a : Access) (s : State) : Host.Outcome State Fault Refusal :=
  s.onWrite a [.regGrantNear, .regGrantFar, .regGrantScratch] (fun q =>
    match grantFields q.reg q.n with
    | some (_, _, ff, _, _) => if q.wrote ff = 0 then s.writeGrant q else s
    | none => s)

/-- GRANT_FLUSH_WRITE (R324): a write of a grant entry with FLUSH. -/
def execGrantFlushWrite (a : Access) (s : State) : Host.Outcome State Fault Refusal :=
  s.onWrite a [.regGrantNear, .regGrantFar, .regGrantScratch] (fun q =>
    match grantFields q.reg q.n with
    | some (_, _, ff, _, _) => if q.wrote ff = 1 then s.writeGrant q else s
    | none => s)

end Sys2Proof.Machine
end

