-- ==== Sys2Proof/Machine/Sketch.lean ====
section
/-! DEFINITION. The sketchbook: starting and stopping a recording or a replay, the journal's way to memory, marks and checks
(14_determinism_and_replay.md, R424 to R436). -/

namespace Sys2Proof.Machine

/-- The word sum of a byte string (R424): each byte counts at its place in its word. -/
def wordSum (off : Nat) : List Byte → Nat
  | [] => 0
  | b :: bs => (b.toNat * 2 ^ (8 * (off % 8)) + wordSum (off + 1) bs) % 2 ^ 64

/-- Do two ranges of addresses meet? -/
def rangesMeet (a n b m : Nat) : Bool := decide (a < b + m) && decide (b < a + n)

/-- The register contexts of a partition's sketchbook entries that are valid. -/
def State.skbContexts (s : State) (p : Nat) : List Nat :=
  ((List.range 16).map (fun i => s.skbIdx p * 16 + i)).filterMap (fun n =>
    if s.flag F.skbCtxValid n then some (s.rd F.skbCtxContext n) else none)

/-- Why a range and contexts cannot start (R425, SKB.STATUS.ERROR): 1 the range is invalid, 2 it holds an allocated page, 3 a
context is busy; 0 where they can. -/
def State.skbStartError (s : State) (p : Nat) : Nat :=
  let base := s.skbBase p
  let size := s.skbRange p
  let n := s.rd F.skbBaseSizeGib (s.skbIdx p)
  let inside := match s.paKind base, s.paKind (base + size - 1) with
    | .far r _, .far r' _ => decide (r = r') && decide (partOfRegion s.mode r = p)
    | _, _ => false
  if n = 0 ∨ 512 < n ∨ inside = false then 1
  else if s.pages.any (fun (e : Nat × PoolPage) => rangesMeet base size e.1 (2 ^ e.2.log2)) then 2
  else if s.tasks.any (fun (e : Nat × Task) => decide (e.2.phase ≠ .ended) && decide (e.2.ctx ∈ s.skbContexts p)) then 3
  else 0

/-- The BEGIN entry's payload (R423). -/
def State.skbBegin (s : State) (p : Nat) : List Byte :=
  leBytes 8 (s.reg .devIdent 0).toNat ++ (s.skbContexts p).flatMap (fun c =>
    leBytes 2 (s.ctxOff c) ++ leBytes 6 0 ++ leBytes 8 (s.reg .ctxFpMode c).toNat ++ leBytes 8 (s.reg .ctxSrSeed c).toNat
      ++ leBytes 8 (s.reg .ctxFtRequire c).toNat ++ leBytes 8 (s.reg .ctxSyncMode c).toNat
      ++ leBytes 8 (s.reg .ctxDrainCfg c).toNat)

/-- The granules of a range put into MODE 0, so that no context touches the journal (R425). -/
def State.grantNone (s : State) (base size : Nat) : State :=
  ((List.range (size / 0x4000000)).map (fun i => base + i * 0x4000000)).foldl (fun (t : State) a =>
    match (t.paKind a).granule? with
    | some (fm, fc, n) => if t.rd fm n = 0 then t else t.setGrant fm fc n a 0 (t.rd fc n)
    | none => t) s

/-- Recording starts (R425). -/
def State.recordStart (s : State) (p : Nat) : State :=
  let i := s.skbIdx p
  match s.skbStartError p with
  | 0 =>
    let s : State := (s.wr F.skbStatusError i 0).wr F.skbCfgMode i 1
    let s : State := s.wr F.skbStatusReservedHeld i 1
    let s : State := s.grantNone (s.skbBase p) (s.skbRange p)
    let s : State := ((s.wr F.skbWrittenBytes i 0).wr F.skbNextSeqSeq i 0).wr F.skbStatusState i 1
    let s : State := s.setSkb p { s.skb p with buf := [], stopping := false, used := [], records := [] }
    s.skbPush p 1 false 0xFFFF (s.mode + p * 4) (s.skbBegin p)
  | e => s.wr F.skbStatusError i e

/-- Recording stops by software (R427): END with reason 1 is written once the buffer is empty. -/
def State.recordStop (s : State) (p : Nat) : State :=
  let i := s.skbIdx p
  let s : State := s.wr F.skbCfgMode i 0
  if s.rd F.skbStatusState i = 1 then
    if (s.skb p).buf = [] then s.skbEnd p 1 else s.setSkb p { s.skb p with stopping := true }
  else s

/-- Is every header of a journal of some length well formed (R431)? The entries follow one another with rising numbers and fill
it. -/
def State.jWellFormed (s : State) (p limit : Nat) : Nat → Nat → Nat → Bool
  | 0, _, off => decide (off = limit)
  | n + 1, seq, off =>
    if off = limit then true
    else
      let e := s.jRead p off
      !s.jBad p e seq limit && State.jWellFormed s p limit n (seq + 1) (off + e.size)

/-- A replay whose PAUSE_SEQ is reached is paused; one whose PAUSE_SEQ is ahead goes on (R435). -/
def State.replayPause (s : State) (p : Nat) : State :=
  let i := s.skbIdx p
  let pause := s.rd F.skbPauseSeqSeq i
  let st := s.rd F.skbStatusState i
  if st = 2 ∨ st = 3 then
    s.wr F.skbStatusState i (if pause ≠ 0 ∧ pause ≤ s.rd F.skbNextSeqSeq i then 3 else 2)
  else s

/-- A replay starts (R431): the journal is checked, the journalled modes are loaded, and a differing edition is noted. -/
def State.replayStart (s : State) (p : Nat) : State :=
  let i := s.skbIdx p
  let limit := s.rd F.skbReplayLenBytes i
  match s.skbStartError p with
  | 0 =>
    let b := s.jRead p 0
    if limit % 32 = 0 ∧ limit ≤ s.skbRange p ∧ limit ≠ 0 ∧ b.kind = 1 ∧ s.jWellFormed p limit (limit / 32) 0 0 = true then
      let body := s.jPayload p b
      let word := fun (o : Nat) => leNat ((body.drop o).take 8)
      let s : State := (List.range ((body.length - 8) / 48)).foldl (fun (t : State) k =>
        let o := 8 + 48 * k
        let c := firstCtx t.mode p + leNat ((body.drop o).take 2)
        if partOfCtx t.mode c ≠ p then t
        else
          let t : State := t.setReg .ctxFpMode c (BitVec.ofNat 64 (word (o + 8)))
          let t : State := t.setReg .ctxSrSeed c (BitVec.ofNat 64 (word (o + 16)))
          let t : State := t.setReg .ctxSyncMode c (BitVec.ofNat 64 (word (o + 32)))
          t.setReg .ctxDrainCfg c (BitVec.ofNat 64 (word (o + 40)))) s
      let ed := natBits (word 0) F.devIdentFtEdition.hi F.devIdentFtEdition.lo
      let s : State := s.wr F.skbStatusEditionDiffers i (if ed = s.rd F.devIdentFtEdition then 0 else 1)
      let s : State := ((s.wr F.skbStatusError i 0).wr F.skbCfgMode i 2).wr F.skbStatusCause i 0
      let s : State := ((s.wr F.skbWrittenBytes i b.size).wr F.skbNextSeqSeq i 1).wr F.skbStatusState i 2
      let s : State := s.setSkb p { s.skb p with used := [], records := [], lastUse := s.now, lastSeq := 0 }
      (s.replayPause p).replayEnd p
    else s.wr F.skbStatusError i 4
  | e => s.wr F.skbStatusError i e

/-- A write of SKB.CFG (R436): MODE's allowed changes start or stop, RELEASE returns the range, and the other fields change only
while MODE is 0. -/
def State.writeSkbCfg (s : State) (q : RegWriteReq) : State :=
  let i := q.n
  let p := partOfRegion s.mode i
  let was := q.was F.skbCfgMode
  let new := q.new F.skbCfgMode
  let other := decide (q.new F.skbCfgHostData ≠ q.was F.skbCfgHostData) || decide (q.new F.skbCfgStallMs ≠ q.was F.skbCfgStallMs)
  let s : State :=
    if was ≠ 0 then if other then s.accessError else s
    else
      let s : State := s.wr F.skbCfgHostData i (q.new F.skbCfgHostData)
      if q.new F.skbCfgStallMs = 0 then s else s.wr F.skbCfgStallMs i (q.new F.skbCfgStallMs)
  let s : State := if q.covers F.skbCfgMode then s.wr F.skbStatusEditionDiffers i 0 else s
  let s : State := if q.wrote F.skbCfgRelease = 1 ∧ was = 0 then s.wr F.skbStatusReservedHeld i 0 else s
  if new = was ∨ new = 3 then s
  else
    match was, new with
    | 0, 1 => s.recordStart p
    | 0, 2 => s.replayStart p
    | 1, 0 => s.recordStop p
    | 2, 0 => (s.wr F.skbCfgMode i 0).wr F.skbStatusState i 0
    | _, _ => s.accessError

/-- A write of SKB.CFG that a command names by the change of MODE it makes. -/
def State.onSkbMode (s : State) (a : Access) (was new : Nat) : Host.Outcome State Fault Refusal :=
  s.onWrite a [.skbCfg] (fun q => if q.was F.skbCfgMode = was ∧ q.new F.skbCfgMode = new then s.writeSkbCfg q else s)

/-- RECORD_START (R425). -/
def execRecordStart (a : Access) (s : State) : Host.Outcome State Fault Refusal := s.onSkbMode a 0 1

/-- RECORD_STOP (R427). -/
def execRecordStop (a : Access) (s : State) : Host.Outcome State Fault Refusal := s.onSkbMode a 1 0

/-- REPLAY_START (R431). -/
def execReplayStart (a : Access) (s : State) : Host.Outcome State Fault Refusal := s.onSkbMode a 0 2

/-- REPLAY_STOP (R436). -/
def execReplayStop (a : Access) (s : State) : Host.Outcome State Fault Refusal := s.onSkbMode a 2 0

/-- SKB_RELEASE (R425, R436): with MODE 0, the reserved range returns to the pool. -/
def execSkbRelease (a : Access) (s : State) : Host.Outcome State Fault Refusal :=
  s.onWrite a [.skbCfg] (fun q => if q.wrote F.skbCfgRelease = 1 then s.writeSkbCfg q else s)

/-- The buffered entries written to the range (R422, R426). -/
def State.flushBuf (s : State) (p : Nat) : State :=
  let i := s.skbIdx p
  let k := s.skb p
  let s : State := k.buf.foldl (fun (t : State) e =>
    let t : State := t.writeMem (t.skbBase p + t.rd F.skbWrittenBytes i) e.bytes
    (t.bump F.skbWrittenBytes i e.size).bump F.skbNextSeqSeq i) s
  (s.setSkb p { k with buf := [] }).skbOcc p

/-- The groups of a partition that waited for room in its buffer go on (R426). -/
def State.unstallGroups (s : State) (p : Nat) : State :=
  { s with cores := s.cores.map (fun (e : Nat × CoreSt) =>
      if partOfRegion s.mode (regionOfCore e.1) = p then
        let groups := e.2.groups.map (fun (g : Nat × Group) => (g.1, { g.2 with stall := false }))
        (e.1, { e.2 with groups := groups })
      else e) }

/-- JOURNAL_FLUSH (R426, R427): the entry buffer reaches the range; a stop that waited for it writes END. -/
def execJournalFlush (part : Nat) (s : State) : Host.Outcome State Fault Refusal :=
  if part < partCount s.mode then
    let stopping := (s.skb part).stopping
    let s : State := s.flushBuf part
    let s : State := if stopping then (s.skbEnd part 1).flushBuf part else s
    .next (s.unstallGroups part)
  else .next s

/-- A write of SKB.MARK (R429): while recording, a MARK entry is written and its pulse requested. -/
def State.writeSkbMark (s : State) (q : RegWriteReq) : State :=
  let p := partOfRegion s.mode q.n
  if s.rd F.skbStatusState q.n = 1 ∧ (s.skb p).stopping = false then
    (s.journal p 0x0B 0xFFFF (q.wrote F.skbMarkValue) []).markPulse p
  else s

/-- SKB_MARK (R429). -/
def execSkbMark (a : Access) (s : State) : Host.Outcome State Fault Refusal := s.onWrite a [.skbMark] s.writeSkbMark

/-- The commands of a partition that are accepted and not yet recorded. -/
def State.openCmds (s : State) (p : Nat) : List (Nat × Nat) :=
  s.queues.flatMap (fun (e : Nat × QueueSt) =>
    if partOfQueue s.mode e.1 = p then e.2.cmds.map (fun c => (e.1, c.seq)) else [])

/-- A requested check whose commands are all recorded is made (R430): its CHECK entry is written, or, in a replay, its sum is
compared (R432, R434). -/
def State.serveCheck (s : State) (p : Nat) : State :=
  match (s.skb p).check with
  | none => s
  | some c =>
    let opened := s.openCmds p
    if c.waits.any (fun w => decide (w ∈ opened)) then s
    else
      let sum := wordSum 0 (s.readBytes c.addr c.len)
      let s : State := (s.setSkb p { s.skb p with check := none }).wr F.skbStatusCheckBusy (s.skbIdx p) 0
      match c.expect with
      | some (seq, v) => if v = sum then s else s.diverge p 2 seq
      | none => s.journal p 0x0C 0xFFFF c.addr (leBytes 8 c.len ++ leBytes 8 sum)

/-- A range of a partition's tiers or scratch. -/
def State.rangeInMemory (s : State) (p a n : Nat) : Bool :=
  s.rangeInTiers p a n || (match s.paKind a, s.paKind (a + n - 1) with
    | .scratch r _, .scratch r' _ => decide (r = r') && decide (partOfRegion s.mode r = p)
    | _, _ => false)

/-- A write of SKB.CHECK_ADDR (R430). -/
def State.writeCheckAddr (s : State) (q : RegWriteReq) : State :=
  if s.flag F.skbStatusCheckBusy q.n then s.accessError else s.store q

/-- A write of SKB.CHECK_LEN (R430): a nonzero length while recording requests a check of a range of the partition's memory. -/
def State.writeCheckLen (s : State) (q : RegWriteReq) : State :=
  let p := partOfRegion s.mode q.n
  let n := q.wrote F.skbCheckLenLength
  let a := s.rd F.skbCheckAddrAddr q.n * 8
  if s.flag F.skbStatusCheckBusy q.n then s.accessError
  else if n = 0 ∨ s.rd F.skbStatusState q.n ≠ 1 ∨ (s.skb p).stopping = true then s
  else if n % 8 ≠ 0 ∨ 0x40000000 < n ∨ s.rangeInMemory p a n = false then s.accessError
  else
    let s : State := s.wr F.skbStatusCheckBusy q.n 1
    (s.setSkb p { s.skb p with check := some { addr := a, len := n, waits := s.openCmds p } }).serveCheck p

/-- SKB_CHECK (R430). -/
def execSkbCheck (a : Access) (s : State) : Host.Outcome State Fault Refusal :=
  s.onWrite a [.skbCheckAddr, .skbCheckLen] (fun q =>
    if q.reg = .skbCheckAddr then s.writeCheckAddr q else s.writeCheckLen q)

/-- A write of SKB.BASE, SKB.REPLAY_LEN or SKB.CTX_n (R436): ignored and logged while MODE is not 0, or for a context outside the
partition. -/
def State.writeSkbSetup (s : State) (q : RegWriteReq) : State :=
  let r := q.n / q.reg.place.count
  let p := partOfRegion s.mode r
  if s.rd F.skbCfgMode r ≠ 0 then s.accessError
  else if q.reg = .skbCtx ∧ partOfCtx s.mode (q.new F.skbCtxContext) ≠ p then s.accessError
  else s.store q

/-- A write of SKB.PAUSE_SEQ (R435). -/
def State.writePauseSeq (s : State) (q : RegWriteReq) : State := (s.store q).replayPause (partOfRegion s.mode q.n)

/-- REPLAY_PAUSE_SEQ (R435). -/
def execReplayPauseSeq (a : Access) (s : State) : Host.Outcome State Fault Refusal :=
  s.onWrite a [.skbPauseSeq] s.writePauseSeq

/-- REPLAY_STALL (R434): no entry has been consumed for STALL_MS while entries remain. -/
def execReplayStall (part : Nat) (s : State) : Host.Outcome State Fault Refusal :=
  let i := s.skbIdx part
  if part < partCount s.mode ∧ s.rd F.skbStatusState i = 2
      ∧ (s.skb part).lastUse + s.rd F.skbCfgStallMs i * 1000000 ≤ s.now then
    .next (s.diverge part 5 (s.rd F.skbNextSeqSeq i))
  else .next s

end Sys2Proof.Machine
end

