-- ==== Sys2Proof/Machine/Queues.lean ====
section
/-! DEFINITION. Queue pairs: their registers and doorbells, the fetching and refusal of commands, completion records, and the
end of a queue's work (12_host_coupling.md, R347 to R357, R361, R362). -/

namespace Sys2Proof.Machine

-- accesses to a context's memory by engines

/-- An access by an engine of a partition: its data moved; a status; a stall on a fault record, or without one where the ring is
full; or a wait through the handshake. -/
inductive CtxIo (α : Type) where
  | ok (a : α)
  | status (n : Nat)
  | stall (rec : Option (Nat × Nat))
  | wait
deriving DecidableEq, Repr

/-- The status of an access that fails (R352, R359): an address in register space or the host window is a hole. -/
def AccRes.status : AccRes → Nat
  | .permission => 0x08
  | .partition => 0x0A
  | .denied => 0x09
  | _ => 0x07

/-- A range cut at 4 KiB boundaries. -/
def pagesOf : Nat → Nat → Nat → List (Nat × Nat)
  | 0, _, _ => []
  | f + 1, va, n => if n = 0 then [] else
      let k := min n (4096 - va % 4096)
      (va, k) :: pagesOf f (va + k) (n - k)

/-- The number of 4 KiB pages that a range can touch. -/
def pageFuel (n : Nat) : Nat := n / 4096 + 2

/-- Who makes an engine's access: its region, context, kind of engine (R336), queue and tag. -/
structure EngineInfo where
  region : Nat
  ctx : Nat
  engine : Nat
  queue : Nat
  tag : Nat
deriving DecidableEq, Repr

/-- One page's access by an engine. -/
def State.engineAccess (s : State) (e : EngineInfo) (va : Nat) (k : AccKind) : State × CtxIo Nat :=
  match s.access (.engine e.region) e.ctx va k with
  | (s, .memory pa) => (s, .ok pa)
  | (s, .wait) => (s, .wait)
  | (s, .ring c l n) =>
    let (s, rec) := s.xfrReport
      { region := e.region, ctx := e.ctx, va := va, kind := k, engine := e.engine, core := 0xFFFF, queue := e.queue, tag := e.tag }
      c l n
    (s, .stall (rec.map (fun x => (e.region, x))))
  | (s, a) => (s, .status a.status)

/-- Bytes read by an engine from a context's memory (R331, R352). -/
def State.ctxReadPages (e : EngineInfo) : List (Nat × Nat) → State → State × CtxIo (List Byte)
  | [], s => (s, .ok [])
  | (va, n) :: l, s =>
    match s.engineAccess e va .read with
    | (s, .ok pa) =>
      if s.poisoned pa n then (s, .status 0x0B)
      else
        match State.ctxReadPages e l (s.ncReadRange pa n) with
        | (s, .ok bs) => (s, .ok (s.readBytes pa n ++ bs))
        | r => r
    | (s, .status n) => (s, .status n)
    | (s, .stall r) => (s, .stall r)
    | (s, .wait) => (s, .wait)

def State.ctxRead (s : State) (e : EngineInfo) (va n : Nat) : State × CtxIo (List Byte) :=
  State.ctxReadPages e (pagesOf (pageFuel n) va n) s

/-- Bytes written by an engine to a context's memory. -/
def State.ctxWritePages (e : EngineInfo) : List (Nat × Nat) → List Byte → State → State × CtxIo Unit
  | [], _, s => (s, .ok ())
  | (va, n) :: l, bs, s =>
    match s.engineAccess e va .write with
    | (s, .ok pa) => State.ctxWritePages e l (bs.drop n) (s.ncWriteRange pa (bs.take n))
    | (s, .status n) => (s, .status n)
    | (s, .stall r) => (s, .stall r)
    | (s, .wait) => (s, .wait)

def State.ctxWrite (s : State) (e : EngineInfo) (va : Nat) (bs : List Byte) : State × CtxIo Unit :=
  State.ctxWritePages e (pagesOf (pageFuel bs.length) va bs.length) bs s

/-- The engines of a queue: its scheduler core's own accesses (7), and host DMA (5), which reports to the lowest region (R332). -/
def State.schedEngine (s : State) (q tag : Nat) : EngineInfo :=
  { region := servingRegion s.mode q, ctx := s.queueCtx q, engine := 7, queue := q, tag := tag }

def State.dmaEngine (s : State) (q tag : Nat) : EngineInfo :=
  { region := lowestRegion s.mode (partOfQueue s.mode q), ctx := s.queueCtx q, engine := 5, queue := q, tag := tag }

-- queue registers (R347)

/-- May a requester write a queue's registers: the physical function, or the function that owns the queue's context? -/
def State.ownsQueue (s : State) (o : Origin) (q : Nat) : Bool :=
  o.isPf || (match o with
    | .fn v => decide (s.queueFn q = v)
    | _ => true)

/-- A queue whose commands have all ended and been recorded after a disable is disabled (R350). -/
def State.queueDrained (s : State) (q : Nat) : State :=
  if q < 32768 ∧ s.rd F.qpStatusState q = 4 ∧ (s.queue q).cmds = [] then s.wr F.qpStatusState q 0 else s

/-- Every command of a queue that has not ended ends with a status: kernels stop as under ABORT, data movers between chunks
(R350, R361, R364). -/
def State.abortCmds (s : State) (q status : Nat) (test : Cmd → Bool) : State :=
  ((s.queue q).cmds.filter (fun c => decide (c.phase ≠ .done) && test c)).foldl (fun (t : State) c =>
    match c.task with
    | some k => t.stopTask k status
    | none => t.failCmd q c.seq status) s

/-- Is the session detached (R362)? -/
def State.detached (s : State) : Bool := decide (s.rd F.hifSessionState = 2)

/-- May the device send requests toward the host: the session is not detached, and, where IDE is required, a stream is in the
Secure state (R362, R516)? -/
def State.hostOpen (s : State) : Bool :=
  !s.detached && (!s.flag F.secCfgRequireIde || decide (s.rd F.secIdeStatusSecure ≠ 0))

/-- A queue starts to run (R347, R348). -/
def State.enableQueue (s : State) (q : Nat) : State :=
  let x := s.queue q
  let s : State := s.setQueue q { x with ringFailed := false, ringStall := none }
  let s : State := (s.wr F.qpCfgEnable q 1).wr F.qpStatusError q 0
  let s : State := s.wr F.qpStatusState q (if s.detached then 3 else 1)
  if 2 ^ s.rd F.qpCfgLog2Sq q < ((s.queue q).sqTail + 2 ^ 32 - s.rd F.qpSqHeadCount q) % 2 ^ 32 then s.stopQueue q 1 else s

/-- A queue is disabled (R350): what has not started and what runs is aborted, and it drains. -/
def State.disableQueue (s : State) (q : Nat) : State :=
  let s : State := ((s.wr F.qpCfgEnable q 0).wr F.qpStatusState q 4).abortCmds q 0x05 (fun _ => true)
  s.queueDrained q

/-- A write of QP.CFG (R347, R350). -/
def State.writeQpCfg (s : State) (r : RegWriteReq) : State :=
  let q := r.n
  if !s.ownsQueue r.origin q then s.accessError
  else
    let was := decide (r.was F.qpCfgEnable = 1)
    let size := fun (r : RegWriteReq) (f : Fld) => if 6 ≤ r.new f ∧ r.new f ≤ 16 then r else r.keep f
    let r := size (size r F.qpCfgLog2Sq) F.qpCfgLog2Cq
    let r := if was then
        [F.qpCfgSqLoc, F.qpCfgCqLoc, F.qpCfgLog2Sq, F.qpCfgLog2Cq, F.qpCfgContext].foldl RegWriteReq.keep r else r
    let badCtx := decide (r.new F.qpCfgContext ≠ r.was F.qpCfgContext)
      && (!r.origin.isPf || decide (partOfCtx s.mode (r.new F.qpCfgContext) ≠ partOfQueue s.mode q))
    let (s, r) := if badCtx then (s.accessError, r.keep F.qpCfgContext) else (s, r)
    let on := decide (r.new F.qpCfgEnable = 1)
    let s : State := s.store (r.keep F.qpCfgEnable)
    let c := s.queueCtx q
    let s : State := if s.rd F.ctxStateState c = 0 then s.wr F.ctxStateState c 1 else s
    if on = was then s
    else if on then if s.rd F.qpStatusState q = 4 then s.accessError else s.enableQueue q
    else s.disableQueue q

/-- A write of QP.SQ_BASE or QP.CQ_BASE: ignored while the queue is enabled, but for a queue held while detached (R364). -/
def State.writeQpBase (s : State) (r : RegWriteReq) : State :=
  if !s.ownsQueue r.origin r.n then s.accessError
  else if s.flag F.qpCfgEnable r.n ∧ s.rd F.qpStatusState r.n ≠ 3 then s
  else s.store r

/-- A write of QP.DLB_CTL (R347, R374). -/
def State.writeQpDlb (s : State) (r : RegWriteReq) : State :=
  if s.ownsQueue r.origin r.n then s.store r else s.accessError

/-- QUEUE_ENABLE (R347): a write of QP.CFG that takes ENABLE to 1. -/
def execQueueEnable (a : Access) (s : State) : Host.Outcome State Fault Refusal :=
  s.onWrite a [.qpCfg] (fun r => if r.new F.qpCfgEnable = 1 then s.writeQpCfg r else s)

/-- QUEUE_DISABLE (R350): a write of QP.CFG that takes ENABLE to 0. -/
def execQueueDisable (a : Access) (s : State) : Host.Outcome State Fault Refusal :=
  s.onWrite a [.qpCfg] (fun r => if r.new F.qpCfgEnable = 0 then s.writeQpCfg r else s)

-- doorbells (R348)

/-- May a function ring a queue's doorbell: it owns the queue's context, and a virtual function is assigned (R348, R550)? -/
def State.ownsDoorbell (s : State) (fn q : Nat) : Bool :=
  decide (q < 32768) && decide (s.queueFn q = fn) && (decide (fn = 0) || (s.originPart (.fn fn)).isSome)

/-- Is a queue enabled and not stopped? -/
def State.queueOn (s : State) (q : Nat) : Bool := decide (s.rd F.qpStatusState q = 1) || decide (s.rd F.qpStatusState q = 3)

/-- SQ_DOORBELL (R348): the count of submission entries written; a count beyond the ring stops the queue. -/
def execSqDoorbell (fn q value : Nat) (s : State) : Host.Outcome State Fault Refusal :=
  if !s.ownsDoorbell fn q then .next s.accessError
  else
    let v := value % 2 ^ 32
    let x := s.queue q
    let s : State := s.setQueue q { x with sqTail := v }
    .next (if s.queueOn q ∧ 2 ^ s.rd F.qpCfgLog2Sq q < (v + 2 ^ 32 - s.rd F.qpSqHeadCount q) % 2 ^ 32 then s.stopQueue q 1
      else s)

/-- CQ_DOORBELL (R348): the count of records consumed; a count beyond the tail stops the queue. -/
def execCqDoorbell (fn q value : Nat) (s : State) : Host.Outcome State Fault Refusal :=
  if !s.ownsDoorbell fn q then .next s.accessError
  else
    let v := value % 2 ^ 32
    let x := s.queue q
    let s : State := s.setQueue q { x with cqHead := v }
    .next (if s.queueOn q ∧ 2 ^ s.rd F.qpCfgLog2Cq q < (s.rd F.qpCqTailCount q + 2 ^ 32 - v) % 2 ^ 32 then s.stopQueue q 4
      else s)

-- fetching (R349, R350, R352, R357)

/-- Is an opcode known (R357, R391)? -/
def knownOpcode (o : Nat) : Bool :=
  decide (o ≤ 0x06) || (decide (0x10 ≤ o) && decide (o ≤ 0x14)) || (decide (0x20 ≤ o) && decide (o ≤ 0x25)) || decide (o = 0x28)
    || (decide (0x40 ≤ o) && decide (o ≤ 0x43)) || decide (o = 0x48) || decide (o = 0x4A)

/-- The opcodes of the resident operator queue, those an I/O-format context accepts, and those of queues that the physical
function owns. -/
def residentOpcode (o : Nat) : Bool := decide (0x20 ≤ o) && decide (o ≤ 0x3F)
def ioOpcode (o : Nat) : Bool := decide (o ≤ 0x01) || decide (o = 0x10) || decide (o = 0x11) || decide (0x40 ≤ o)
def pfOpcode (o : Nat) : Bool := decide (o = 0x05) || decide (o = 0x06) || decide (0x48 ≤ o)

/-- The status of a command that its header refuses (R352, R357); none where it is accepted so far. -/
def State.headerRefused (s : State) (q : Nat) (c : Cmd) : Option Nat :=
  let o := c.opcode
  if !knownOpcode o || (residentOpcode o && !isResidentQueue s.mode q)
      || (s.flag F.ctxPtCtlFormat (s.queueCtx q) && !ioOpcode o) then some 0x02
  else if pfOpcode o ∧ s.queueFn q ≠ 0 then some 0x03
  else if c.flags / 8 ≠ 0 ∨ c.field 3 1 ≠ 0 ∨ c.field 8 8 ≠ 0 then some 0x01
  else none

/-- A command accepted on a queue (R349): it is journalled, and one that its header refuses ends at once. -/
def State.acceptCmd (s : State) (q : Nat) (header data : List Byte) : State :=
  let s : State := s.journalCtx (s.queueCtx q) 0x02 (s.queueOff q) (header ++ data)
  let x := s.queue q
  let c : Cmd := { seq := x.nextSeq, header := header, inlineData := data }
  let s : State := s.setQueue q { x with cmds := x.cmds ++ [c], nextSeq := x.nextSeq + 1 }
  match s.headerRefused q c with
  | some st => s.endCmd q c.seq st
  | none => s

/-- Commands of a partition accepted and not yet recorded. -/
def State.partInflight (s : State) (p : Nat) : Nat := (s.openCmds p).length

/-- Has a queue commands that it may fetch (R350, R362, R471)? The doorbell is ahead, and no bound and no stall holds it. -/
def State.mayFetch (s : State) (q : Nat) : Bool :=
  let x := s.queue q
  let p := partOfQueue s.mode q
  decide (q < 32768) && decide (s.rd F.qpStatusState q = 1) && decide (s.partState p = 2) && s.schedulerUp q && !s.replaying (s.queueCtx q)
    && x.ringStall.isNone && x.cmds.all (fun c => c.stalled.isNone || decide (c.opcode ≠ 0x02))
    && (s.flag F.qpCfgSqLoc q || s.hostOpen) && decide (x.sqTail ≠ s.rd F.qpSqHeadCount q) && decide (x.cmds.length < 256) && decide (s.partInflight p < 16384)

/-- Does a queue of a higher priority, of the same scheduler core, have commands to fetch? -/
def State.outranked (s : State) (q : Nat) : Bool :=
  s.queues.any (fun (e : Nat × QueueSt) =>
    decide (servingRegion s.mode e.1 = servingRegion s.mode q) && decide (s.rd F.qpCfgPriority q < s.rd F.qpCfgPriority e.1)
      && s.mayFetch e.1)

/-- The submission entries from a count on, read from a ring in device memory, one entry at a time. -/
def State.readEntries (q : Nat) : Nat → Nat → State → State × CtxIo (List Byte)
  | 0, _, s => (s, .ok [])
  | n + 1, i, s =>
    let slot := i % 2 ^ s.rd F.qpCfgLog2Sq q
    match s.ctxRead (s.schedEngine q 0) (s.rd F.qpSqBaseBase q * 4096 + 64 * slot) 64 with
    | (s, .ok bs) =>
      match State.readEntries q n (i + 1) s with
      | (s, .ok r) => (s, .ok (bs ++ r))
      | r => r
    | r => r

/-- The bytes of a command's entries: a header and, by its INLINE field, its continuations; from device memory, or the host's
answer. A host answer of too few bytes is no answer yet. -/
def State.readCommand (s : State) (q : Nat) (ans : HostAns) : State × CtxIo (List Byte) :=
  let head := s.rd F.qpSqHeadCount q
  if s.flag F.qpCfgSqLoc q then
    match State.readEntries q 1 head s with
    | (s, .ok h) =>
      match State.readEntries q (leNat ((h.drop 2).take 1) % 64) (head + 1) s with
      | (s, .ok r) => (s, .ok (h ++ r))
      | r => r
    | r => r
  else
    match ans with
    | .error => (s, .status 0x0C)
    | .ok bs =>
      if bs.length < 64 ∨ bs.length < 64 * (1 + leNat ((bs.drop 2).take 1) % 64) then (s, .wait)
      else (s, .ok (bs.take (64 * (1 + leNat ((bs.drop 2).take 1) % 64))))

/-- COMMAND_FETCH (R349, R350): the scheduler core fetches a queue's next command once the doorbell covers all its entries. -/
def execCommandFetch (q : Nat) (ans : HostAns) (s : State) : Host.Outcome State Fault Refusal :=
  if q < 32768 ∧ s.mayFetch q = true ∧ s.outranked q = false ∧ s.skbRoom (partOfQueue s.mode q) 0 = true then
    match s.readCommand q ans with
    | (s, .ok bs) =>
      let inl := leNat ((bs.drop 2).take 1)
      let head := s.rd F.qpSqHeadCount q
      if 64 ≤ inl then .next (s.stopQueue q 2)
      else if ((s.queue q).sqTail + 2 ^ 32 - head) % 2 ^ 32 < 1 + inl then .next s
      else
        let s : State := s.wr F.qpSqHeadCount q (head + 1 + inl)
        .next (s.acceptCmd q (bs.take 64) (bs.drop 64))
    | (s, .status _) => .next (s.ringFails q)
    | (s, .stall r) =>
      let x := s.queue q
      .next (s.setQueue q { x with ringStall := r })
    | (s, .wait) => .next s
  else .next s

-- completion records (R351, R353, R355, R362)

/-- Are a command's writes performed (R353)? A kernel's transactions, drains and tile moves are done at every core of its task, and
with END_GLOBAL its counter adds too. -/
def State.writesDone (s : State) (c : Cmd) : Bool :=
  match c.task with
  | none => true
  | some t =>
    s.merges.all (fun m => decide (m.task ≠ t)) && s.cores.all (fun (e : Nat × CoreSt) =>
      e.2.txns.all (fun x => decide (x.task ≠ t)) && e.2.mxq.all (fun x => decide (x.task ≠ t))
        && (decide (e.2.task ≠ some t) || (e.2.tm0.isEmpty && e.2.tm1.isEmpty))
        && (!c.flags.testBit 1 || e.2.flights.all (fun f => decide (f.task ≠ t))))

/-- A completion record's 32 bytes (R351): record n of its ring. -/
def State.recordBytes (s : State) (q n : Nat) (c : Cmd) : List Byte :=
  leBytes 4 c.tag ++ leBytes 2 q ++ leBytes 1 c.status ++ leBytes 1 c.faultCode ++ leBytes 16 c.result
    ++ leBytes 4 (s.rd F.qpSqHeadCount q) ++ leBytes 3 0 ++ leBytes 1 ((n / 2 ^ s.rd F.qpCfgLog2Cq q + 1) % 2)

/-- The COMPLETION entry of a record (R423), and in a replay the record kept for its comparison (R432). -/
def State.journalRecord (s : State) (q : Nat) (c : Cmd) : State :=
  let ctx := s.queueCtx q
  let p := partOfQueue s.mode q
  let c' : Cmd := if c.opcode = 0x02 then { c with result := 0 } else c
  let bytes := (s.recordBytes q 0 c').take 24
  if s.replaying ctx then s.setSkb p { s.skb p with records := (s.skb p).records ++ [(s.queueOff q, bytes)] }
  else s.journalCtx ctx 0x0A (s.queueOff q) bytes

/-- A command leaves its queue: recorded, or its record discarded. -/
def State.dropCmd (s : State) (q seq : Nat) : State :=
  let x := s.queue q
  let s : State := s.setQueue q { x with cmds := x.cmds.filter (fun c => decide (c.seq ≠ seq)) }
  (s.queueDrained q).serveCheck (partOfQueue s.mode q)

/-- The interrupt of a record, unless NO_IRQ, IRQ_EN 0 or a detached session keeps it back (R355, R362). -/
def State.recordIrqOf (s : State) (q : Nat) (c : Cmd) : State :=
  if s.flag F.qpCfgIrqEn q ∧ c.flags.testBit 2 = false ∧ s.hostOpen = true then
    s.send (.msix (s.queueFn q) (s.rd F.qpCfgVector q))
  else s

/-- A record that has its slot: the tail advances, and the command leaves the queue. -/
def State.recorded (s : State) (q : Nat) (c : Cmd) : State :=
  ((s.bump F.qpCqTailCount q).journalRecord q c).dropCmd q c.seq

/-- A record written into its ring's next slot: in host memory, where the host may answer with an error; or in device memory. The
result says whether it was written. -/
def State.writeRecord (s : State) (q : Nat) (c : Cmd) (hostOk : Bool) : State × Bool :=
  let n := s.rd F.qpCqTailCount q
  let addr := s.rd F.qpCqBaseBase q * 4096 + 32 * (n % 2 ^ s.rd F.qpCfgLog2Cq q)
  let bytes := s.recordBytes q n c
  if s.flag F.qpCfgCqLoc q then
    match s.ctxWrite (s.schedEngine q c.tag) addr bytes with
    | (s, .ok _) => (s.recorded q c, true)
    | (s, .status _) => (s.ringFails q, false)
    | (s, .stall r) =>
      let x := s.queue q
      (s.setQueue q { x with ringStall := r }, false)
    | (s, .wait) => (s, false)
  else if hostOk then ((s.send (.hostWrite (s.queueFn q) addr bytes)).recorded q c, true)
  else (s.ringFails q, false)

/-- A remote command's completion goes back to its source (R403), and the command leaves the slot. -/
def State.remoteDone (s : State) (n : Nat) (c : Cmd) : State :=
  let q := 32768 + n
  let x := s.queue q
  let s : State := s.setQueue q { x with cmds := x.cmds.filter (fun y => decide (y.seq ≠ c.seq)) }
  let j := s.job n
  match j.remote.find? (fun r => decide (r.seq = c.seq)) with
  | none => s
  | some r =>
    let s : State := s.setJob n { j with remote := j.remote.filter (fun r => decide (r.seq ≠ c.seq)) }
    (s.streamSend n r.src (.cmdDone (s.remoteRecord n c.tag c.status c.faultCode c.result)) 0 0).serveCheck (s.netPart n)

/-- COMPLETION_RECORD (R353, R355, R362): a command that has ended is recorded once its writes are performed and its ring has a free
slot. A remote command's record goes back to its source (R403). While the session is detached a record for host memory is held; once the ring has failed records are discarded. -/
def execCompletionRecord (q seq : Nat) (hostOk : Bool) (s : State) : Host.Outcome State Fault Refusal :=
  match s.cmd? q seq with
  | none => .next s
  | some c =>
    let x := s.queue q
    if c.phase ≠ .done ∨ s.writesDone c = false ∨ s.schedulerUp q = false
        ∨ (c.opcode = 0x01 ∧ s.earlierDone q seq = false) then .next s
    else if 32768 ≤ q then .next (s.remoteDone (q - 32768) c)
    else if c.noRecord ∨ x.ringFailed then .next (s.dropCmd q seq)
    else if x.ringStall.isSome ∨ x.cmds.any (fun y => y.stalled.isSome && decide (y.opcode = 0x02))
        ∨ 2 ^ s.rd F.qpCfgLog2Cq q ≤ (s.rd F.qpCqTailCount q + 2 ^ 32 - x.cqHead) % 2 ^ 32
        ∨ s.skbRoom (partOfQueue s.mode q) 0 = false then .next s
    else if s.detached ∧ s.flag F.qpCfgCqLoc q = false then
      if x.held.any (fun h => decide (h.seq = seq)) then .next s
      else
        let h : HeldRecord :=
          { seq := seq, tag := c.tag, status := c.status, fault := c.faultCode, result := c.result }
        .next ((s.setQueue q { x with held := x.held ++ [h] }).bump F.hifSessionHeld 0)
    else if s.flag F.qpCfgCqLoc q = false ∧ s.hostOpen = false then .next s
    else
      match s.writeRecord q c hostOk with
      | (s, true) => .next (s.recordIrqOf q c)
      | (s, false) => .next s

-- commands without an action of their own

/-- A command that may start, with an opcode of a list; its body is checked, and a bad one is refused (R352). -/
def State.onStart (s : State) (q seq : Nat) (opcode : Nat) (ok : Cmd → Bool) (f : Cmd → State) :
    Host.Outcome State Fault Refusal :=
  match s.cmd? q seq with
  | none => .next s
  | some c =>
    if c.opcode = opcode ∧ s.mayStart q seq = true then
      if ok c then .next (f c) else .next (s.endCmd q seq 0x01)
    else .next s

/-- Are bytes of a command's body, given by offset and number, all zero? -/
def Cmd.zeroAt (c : Cmd) (l : List (Nat × Nat)) : Bool := l.all (fun e => decide (c.field e.1 e.2 = 0))

/-- A command changes to running. -/
def State.runCmd (s : State) (q seq : Nat) : State := s.updCmd q seq (fun c => { c with phase := .running })

/-- NOP_COMMAND (R357): no action. -/
def execNopCommand (q seq : Nat) (s : State) : Host.Outcome State Fault Refusal :=
  s.onStart q seq 0x00 (fun c => c.zeroAt [(0x10, 48)]) (fun _ => s.endCmd q seq 0)

/-- FENCE (R357): it is recorded when every earlier command of the queue has been recorded. -/
def execFence (q seq : Nat) (s : State) : Host.Outcome State Fault Refusal :=
  s.onStart q seq 0x01 (fun c => c.zeroAt [(0x10, 48)]) (fun _ => s.endCmd q seq 0)

end Sys2Proof.Machine
end

