-- ==== Sys2Proof/Machine/HostCmds.lean ====
section
/-! DEFINITION. The commands of queues that launch kernels, act on region counters, allocate pages and move data
(12_host_coupling.md, R357 to R359; R137 to R142, R278, R279, R325). -/

namespace Sys2Proof.Machine

-- kernel launches (R137 to R142, R358)

/-- The fields of a launch descriptor's 64 bytes (R137). -/
def LaunchDesc.parse (b : List Byte) : LaunchDesc :=
  let f := fun (o n : Nat) => leNat ((b.drop o).take n)
  { codeVa := BitVec.ofNat 64 (f 0x00 8), argVa := BitVec.ofNat 64 (f 0x08 8), gridX := f 0x10 4, gridY := f 0x14 2,
    gridZ := f 0x16 2, groups := f 0x18 1, regs := 8 * f 0x19 1, slmKib := f 0x1A 2, layout := f 0x1C 1 % 4,
    slmZero := (f 0x1C 1).testBit 2, coreMask := f 0x1D 1, argBytes := f 0x1E 2, clusterFirst := f 0x20 1,
    clusterCount := f 0x21 1, timeLimit := f 0x28 8 }

/-- Are a launch descriptor's fields in range (R137)? With inline arguments, ARG_VA is ignored and ARG_BYTES bounded (R358). -/
def LaunchDesc.ok (d : LaunchDesc) (inlineLen : Option Nat) : Bool :=
  decide (d.codeVa.toNat % 256 = 0)
    && (match inlineLen with
      | some n => decide (d.argBytes ≤ n)
      | none => decide (d.argVa.toNat % 64 = 0) && (decide (d.argBytes ≠ 0) || decide (d.argVa = 0)))
    && decide (0 < d.gridX) && decide (0 < d.gridY) && decide (0 < d.gridZ) && decide (d.total < 2 ^ 48)
    && decide (1 ≤ d.groups) && decide (d.groups ≤ 64) && decide (1 ≤ d.regs) && decide (d.regs ≤ 256)
    && decide (d.slmKib ≤ 256) && decide (d.layout ≠ 3) && decide (d.argBytes ≤ 4032)
    && decide (1 ≤ d.clusterCount) && decide (d.clusterCount ≤ 144)

/-- The cores of a placement (R138): in each cluster those of the mask, or every enabled one. -/
def State.placed (s : State) (d : LaunchDesc) : List Nat :=
  (List.range d.clusterCount).flatMap (fun i =>
    ((List.range 8).map (fun n => ((d.clusterFirst + i) * 8 + n, n))).filterMap (fun e =>
      if (if d.coreMask = 0 then !s.vacant e.1 else d.coreMask.testBit e.2) then some e.1 else none))

/-- The status that refuses a launch, in the order of R142; none where it is accepted. -/
def State.launchRefused (s : State) (ctx : Nat) (d : LaunchDesc) (inlineLen : Option Nat) : Option Nat :=
  let p := partOfCtx s.mode ctx
  if !d.ok inlineLen then some 0x01
  else if 144 < d.clusterFirst + d.clusterCount ∨ (List.range d.clusterCount).any (fun i =>
      decide (partOfRegion s.mode (regionOfCluster (d.clusterFirst + i)) ≠ p)) = true then some 0x20
  else if d.coreMask ≠ 0 ∧ (s.placed d).any s.vacant = true then some 0x21
  else if d.resident = 0 then some 0x22
  else if s.flag F.ctxFtRequireEnforce ctx ∧ s.rd F.ctxFtRequireEdition ctx ≠ s.rd F.devIdentFtEdition then some 0x23
  else none

/-- A task accepted for a command (R124, R358). -/
def State.acceptTask (s : State) (q : Nat) (c : Cmd) (d : LaunchDesc) (args : List Byte) : State :=
  let ctx := s.queueCtx q
  let t := s.nextTask
  let argMap : NMap Byte := (List.range args.length).map (fun i => (i, args.getD i 0))
  let k : Task :=
    { ctx := ctx, queue := q, tag := c.tag, part := partOfCtx s.mode ctx, desc := d, args := argMap, cores := s.placed d,
      accepted := s.now, fpMode := s.reg .ctxFpMode ctx, seed := s.reg .ctxSrSeed ctx,
      policy := s.rd F.ctxFaultPolicyPolicy ctx, clearMode := s.flag F.ctxSyncModeClear ctx,
      saveValid := s.flag F.ctxSaveBaseValid ctx }
  let s : State := { s with tasks := s.tasks.set t k, nextTask := t + 1 }
  s.updCmd q c.seq (fun y => { y with task := some t, stalled := none })

/-- An engine's access of a command that does not end well: the command ends with its status, or stalls. -/
def State.ioFail {α : Type} (s : State) (q seq : Nat) (r : CtxIo α) : State :=
  match r with
  | .status n => s.failCmd q seq n
  | .stall rec => s.updCmd q seq (fun y => { y with stalled := rec })
  | _ => s

/-- A launch whose command may start is started; otherwise it waits for the commands that hold it back (R350). -/
def State.launchStarts (s : State) (q seq : Nat) : State := if s.mayStart q seq then s.runCmd q seq else s

/-- LAUNCH (R137, R142, R358): the descriptor and the argument block are read and checked, and the task is accepted. -/
def execLaunch (q seq : Nat) (s : State) : Host.Outcome State Fault Refusal :=
  match s.cmd? q seq with
  | none => .next s
  | some c =>
    if c.opcode ≠ 0x02 ∨ c.phase ≠ .accepted ∨ s.partLive (partOfQueue s.mode q) = false ∨ s.schedulerUp q = false
        ∨ c.stalled.isSome = true then .next s
    else if c.task.isSome then .next (s.launchStarts q seq)
    else if c.field 0x10 8 % 64 ≠ 0 ∨ 1 < c.field 0x18 1 ∨ c.zeroAt [(0x19, 39)] = false then .next (s.endCmd q seq 0x01)
    else
      let inl := decide (c.field 0x18 1 = 1)
      match s.ctxRead (s.schedEngine q c.tag) (c.field 0x10 8) 64 with
      | (s, .ok b) =>
        let d := LaunchDesc.parse b
        match s.launchRefused (s.queueCtx q) d (if inl then some c.inlineData.length else none) with
        | some st => .next (s.endCmd q seq st)
        | none =>
          if inl then .next ((s.acceptTask q c d (c.inlineData.take d.argBytes)).launchStarts q seq)
          else
            match s.ctxRead (s.schedEngine q c.tag) d.argVa.toNat d.argBytes with
            | (s, .ok args) => .next ((s.acceptTask q c d args).launchStarts q seq)
            | (s, r) => .next (s.ioFail q seq r)
      | (s, r) => .next (s.ioFail q seq r)

-- region counters (R358)

/-- Is a command's reference a region counter's (R201, R358)? -/
def Cmd.regionRef (c : Cmd) : Bool :=
  decide (natBits (c.field 0x10 8) 1 0 = 2) && (refBad (c.field 0x10 8) true).isNone

/-- The status that refuses a command's region counter: another partition's, or not granted to the queue's context. -/
def State.cmdCtrRefused (s : State) (q : Nat) (c : Cmd) : Option Nat :=
  let r := natBits (c.field 0x10 8) 33 32
  if partOfRegion s.mode r ≠ partOfQueue s.mode q then some 0x0A
  else if !s.blockGranted r (natBits (c.field 0x10 8) 17 8) (s.queueCtx q) then some 0x09
  else none

/-- CNT_ADD_COMMAND (R358): once every earlier command is recorded, an add to a region counter, which takes an arbitration. -/
def execCntAddCommand (q seq : Nat) (s : State) : Host.Outcome State Fault Refusal :=
  s.onStart q seq 0x03 (fun c => c.regionRef && c.zeroAt [(0x20, 32)]) (fun c =>
    if s.earlierDone q seq = false then s
    else
      match s.cmdCtrRefused q c with
      | some st => s.endCmd q seq st
      | none =>
        let r := natBits (c.field 0x10 8) 33 32
        let i := natBits (c.field 0x10 8) 17 8
        ((s.regionAdd (s.queueCtx q) r i (c.field 0x18 8)).settleCtr (.region r i)).endCmd q seq 0)

/-- The outcome of a CNT_WAIT that a replay's journal holds (R433): its status and value. -/
def State.replayCntWait (s : State) (q : Nat) (c : Cmd) : State × Option (Nat × Nat) :=
  let p := partOfQueue s.mode q
  if s.replaying (s.queueCtx q) then
    match s.keyedEntry p (2 ^ 63 + s.queueOff q) c.tag 0 with
    | some e =>
      let b := (s.jPayload p e).drop 8
      if e.kind = 8 ∧ leNat (b.take 1) = 3 ∧ leNat ((b.drop 8).take 8) = c.field 0x10 8 then
        let o := leNat ((b.drop 1).take 1)
        (s.consumeKeyed p e.seq, some (if o = 1 then 0 else if o = 2 then 0x0E else 0x09, leNat ((b.drop 24).take 8)))
      else (s.diverge p 4 (s.skb p).lastSeq, none)
    | none => (s.diverge p 4 (s.skb p).lastSeq, none)
  else (s, none)

/-- CNT_WAIT_COMMAND (R358): a region counter's wait, its deadline stamped at the start. -/
def execCntWaitCommand (q seq : Nat) (s : State) : Host.Outcome State Fault Refusal :=
  s.onStart q seq 0x04 (fun c => c.regionRef && c.zeroAt [(0x24, 28)]) (fun c =>
    match s.cmdCtrRefused q c with
    | some st => s.endCmd q seq st
    | none =>
      let r := natBits (c.field 0x10 8) 33 32
      let i := natBits (c.field 0x10 8) 17 8
      if 4096 ≤ s.regionWaits r then s
      else
        match s.replayCntWait q c with
        | (s, some (st, v)) => s.endCmd q seq st v
        | (s, none) =>
          let t := c.field 0x20 4
          let d := if t = 0xFFFFFFFF then none else some (s.now + t)
          (s.updCmd q seq (fun y => { y with phase := .running, waiting := true, deadline := d })).settleCtr (.region r i))

-- the page pool (R278, R279, R325)

/-- The size of a page as a power of two by its code. -/
def pageLog2 (code : Nat) : Nat := if code = 0 then 16 else if code = 1 then 21 else 30

/-- Does a range hold no allocated page, no withdrawn page, and nothing of the sketchbook's reserved range (R279, R493)? -/
def State.poolClear (s : State) (p a n : Nat) : Bool :=
  s.pages.all (fun (e : Nat × PoolPage) => !rangesMeet a n e.1 (2 ^ e.2.log2))
    && s.flash.withdrawn.all (fun w => !rangesMeet a n (w * 65536) 65536)
    && !(s.flag F.skbStatusReservedHeld (s.skbIdx p) && rangesMeet a n (s.skbBase p) (s.skbRange p))

/-- May the pool place a page of a context in a granule (R325): the context's in MODE 1, or MODE 0 with no allocated page? -/
def State.granuleOpen (s : State) (g ctx : Nat) : Bool :=
  match (s.paKind (g * 0x4000000)).granule? with
  | none => false
  | some (fm, fc, n) =>
    (decide (s.rd fm n = 1) && decide (s.rd fc n = ctx))
      || (decide (s.rd fm n = 0)
        && s.pages.all (fun (e : Nat × PoolPage) => !rangesMeet (g * 0x4000000) 0x4000000 e.1 (2 ^ e.2.log2)))

/-- The granules of a page. -/
def pageGranules (a log2 : Nat) : List Nat :=
  (List.range ((2 ^ log2 + 0x3FFFFFF) / 0x4000000)).map (fun i => a / 0x4000000 + i)

/-- Can the pool place a page there? -/
def State.pageFree (s : State) (p a log2 ctx : Nat) : Bool :=
  s.poolClear p a (2 ^ log2) && (pageGranules a log2).all (fun g => s.granuleOpen g ctx)

/-- The first free page at or after a page of a tier, its pages taken in a circle. -/
def State.findPage (s : State) (p base count log2 ctx : Nat) : Nat → Nat → Option Nat
  | 0, _ => none
  | f + 1, i =>
    let a := base + i % count * 2 ^ log2
    if s.pageFree p a log2 ctx then some a else State.findPage s p base count log2 ctx f (i + 1)

/-- A page placed (R279, R325): its granules granted to the context in MODE 1, the page zero, and handed out. -/
def State.placePage (s : State) (a log2 ctx : Nat) : State :=
  let s : State := (pageGranules a log2).foldl (fun (t : State) g =>
    match (t.paKind (g * 0x4000000)).granule? with
    | some (fm, fc, n) => t.setGrant fm fc n (g * 0x4000000) 1 ctx
    | none => t) s
  let s : State := s.zeroRange a (2 ^ log2)
  { s with pages := s.pages.set a { log2 := log2, ctx := ctx } }

/-- The seams between two regions (R27). -/
def seamHops (a b : Nat) : Nat := (a ^^^ b) % 2 + (a ^^^ b) / 2

/-- The tiers of a request in their order (R278): whether near, and the region. -/
def State.tierOrder (s : State) (p region : Nat) (nearOnly any far : Bool) : List (Bool × Nat) :=
  let others := sortBy (fun a b =>
    decide (seamHops region a < seamHops region b) || (decide (seamHops region a = seamHops region b) && decide (a ≤ b)))
    ((partRegions s.mode p).filter (fun r => decide (r ≠ region)))
  (if far then [] else [(true, region)]) ++ (if nearOnly then [] else [(false, region)])
    ++ (if any then others.map (fun r => (true, r)) else [])
    ++ (if any && !nearOnly then others.map (fun r => (false, r)) else [])

/-- One page placed in the first tier of an order with a free page; which free page of the tier it is, the spec leaves open. -/
def State.placeOne (s : State) (p log2 ctx : Nat) : List (Bool × Nat) → Option (State × Nat × Bool)
  | [] => none
  | (near, r) :: l =>
    let base := if near then nearBase r else farBase r
    let count := (if near then 0x6000000000 else 0x8000000000) / 2 ^ log2
    match s.findPage p base count log2 ctx count ((Config.freeWord s.freeIdx).toNat % count) with
    | some a => some ((State.draw s).2.placePage a log2 ctx, a, near)
    | none => State.placeOne s p log2 ctx l

/-- The pages of an allocation placed in turn: their addresses, the number on near and on far tiers; none where one finds no
place. -/
def State.placeAll (p region log2 ctx : Nat) (far : Bool) (order : List (Bool × Nat)) :
    Nat → State → Option (State × List Nat × Nat × Nat)
  | 0, s => some (s, [], 0, 0)
  | n + 1, s =>
    match s.placeOne p log2 ctx order with
    | none => none
    | some (s, a, near) =>
      let s : State := if !near && !far then s.bump F.regMemSpillsCount region else s
      (State.placeAll p region log2 ctx far order n s).map (fun r =>
        (r.1, a :: r.2.1, r.2.2.1 + (if near then 1 else 0), r.2.2.2 + (if near then 0 else 1)))

/-- A list's pages translated for a write, without the write: what keeps it from being written, if anything. -/
def State.probeWrite (e : EngineInfo) : List (Nat × Nat) → State → State × CtxIo Unit
  | [], s => (s, .ok ())
  | (va, _) :: l, s =>
    match s.engineAccess e va .write with
    | (s, .ok _) => State.probeWrite e l s
    | (s, .status n) => (s, .status n)
    | (s, .stall r) => (s, .stall r)
    | (s, .wait) => (s, .wait)

/-- Are the common fields of ALLOC and FREE in range (R358)? -/
def State.poolBodyOk (s : State) (q : Nat) (c : Cmd) : Bool :=
  decide (1 ≤ c.field 0x18 4) && decide (c.field 0x18 4 ≤ 2 ^ 24) && decide (c.field 0x1C 1 ≤ 2)
    && decide (c.field 0x20 2 < 4096) && decide (partOfCtx s.mode (c.field 0x20 2) = partOfQueue s.mode q)
    && c.zeroAt [(0x22, 30)]

/-- ALLOC (R278, R279, R325, R358). -/
def execAlloc (q seq : Nat) (s : State) : Host.Outcome State Fault Refusal :=
  s.onStart q seq 0x05 (fun c =>
    s.poolBodyOk q c && decide (c.field 0x1E 1 < 8) && !((c.field 0x1E 1).testBit 0 && (c.field 0x1E 1).testBit 2)
      && c.zeroAt [(0x1F, 1)] && decide (c.field 0x1D 1 < 4)
      && decide (partOfRegion s.mode (c.field 0x1D 1) = partOfQueue s.mode q)) (fun c =>
    let p := partOfQueue s.mode q
    let ctx := c.field 0x20 2
    let n := c.field 0x18 4
    let region := c.field 0x1D 1
    let log2 := pageLog2 (c.field 0x1C 1)
    let flags := c.field 0x1E 1
    let va := c.field 0x10 8
    if c.stalled.isSome ∨ (s.flag F.ctxMemCryptEnable ctx = true ∧ s.flag F.ctxMemCryptKeyReady ctx = false) then s
    else
      match State.probeWrite (s.dmaEngine q c.tag) (pagesOf (pageFuel (8 * n)) va (8 * n)) s with
      | (s, .stall r) => s.ioFail q seq (.stall r : CtxIo Unit)
      | (s, .wait) => s
      | (s, probe) =>
        match State.placeAll p region log2 ctx (flags.testBit 2)
            (s.tierOrder p region (flags.testBit 0) (flags.testBit 1) (flags.testBit 2)) n s with
        | none => s.endCmd q seq 0x0D
        | some (s', l, near, far) =>
          match probe with
          | .status st => s.endCmd q seq st
          | _ =>
            match s'.ctxWrite (s'.dmaEngine q c.tag) va (l.flatMap (leBytes 8)) with
            | (s', .ok _) => s'.endCmd q seq 0 (near + far * 2 ^ 32)
            | (_, .status st) => s.endCmd q seq st
            | _ => s)

/-- The pages of a list freed (R279, R325): a granule whose last pool page goes back becomes MODE 0. -/
def State.freePages (s : State) (l : List Nat) (log2 : Nat) : State :=
  let s : State := { s with pages := s.pages.keep (fun a => decide (a ∉ l)) }
  (l.flatMap (fun a => pageGranules a log2)).eraseDups.foldl (fun (t : State) g =>
    if t.pages.any (fun (e : Nat × PoolPage) => rangesMeet (g * 0x4000000) 0x4000000 e.1 (2 ^ e.2.log2)) then t
    else
      match (t.paKind (g * 0x4000000)).granule? with
      | some (fm, fc, n) => t.setGrant fm fc n (g * 0x4000000) 0 (t.rd fc n)
      | none => t) s

/-- The 8-byte words of a byte string. -/
def words8 : Nat → List Byte → List Nat
  | 0, _ => []
  | n + 1, b => leNat (b.take 8) :: words8 n (b.drop 8)

/-- FREE (R358): the listed pages, all or none. -/
def execFree (q seq : Nat) (s : State) : Host.Outcome State Fault Refusal :=
  s.onStart q seq 0x06 (fun c => s.poolBodyOk q c && c.zeroAt [(0x1D, 3)]) (fun c =>
    let n := c.field 0x18 4
    let log2 := pageLog2 (c.field 0x1C 1)
    let ctx := c.field 0x20 2
    if c.stalled.isSome then s
    else
      match s.ctxRead (s.dmaEngine q c.tag) (c.field 0x10 8) (8 * n) with
      | (s, .ok b) =>
        let l := words8 n b
        if l.Nodup ∧ l.all (fun a => decide (s.pages.get? a = some { log2 := log2, ctx := ctx })) = true then
          (s.freePages l log2).endCmd q seq 0
        else s.endCmd q seq 0x01
      | (s, r) => s.ioFail q seq r)

-- data movers (R358, R359)

/-- HOST_TO_DEV (R358, R359). -/
def execHostToDev (q seq : Nat) (s : State) : Host.Outcome State Fault Refusal :=
  s.onStart q seq 0x10 (fun c =>
    decide (1 ≤ c.moveLen) && decide (c.moveLen ≤ 2 ^ 40) && c.zeroAt [(0x28, 24)]) (fun _ => s.runCmd q seq)

/-- DEV_TO_HOST (R358, R359). -/
def execDevToHost (q seq : Nat) (s : State) : Host.Outcome State Fault Refusal :=
  s.onStart q seq 0x11 (fun c =>
    decide (1 ≤ c.moveLen) && decide (c.moveLen ≤ 2 ^ 40) && c.zeroAt [(0x28, 24)]) (fun _ => s.runCmd q seq)

/-- COPY (R358): overlapping ranges are refused. -/
def execCopy (q seq : Nat) (s : State) : Host.Outcome State Fault Refusal :=
  s.onStart q seq 0x12 (fun c =>
    decide (1 ≤ c.moveLen) && decide (c.moveLen ≤ 2 ^ 40) && c.zeroAt [(0x28, 24)]
      && !rangesMeet (c.field 0x10 8) c.moveLen (c.field 0x18 8) c.moveLen) (fun _ => s.runCmd q seq)

/-- FILL (R358): destination and length are multiples of 8. -/
def execFill (q seq : Nat) (s : State) : Host.Outcome State Fault Refusal :=
  s.onStart q seq 0x13 (fun c =>
    decide (8 ≤ c.moveLen) && decide (c.moveLen ≤ 2 ^ 40) && decide (c.moveLen % 8 = 0) && decide (c.moveDst % 8 = 0)
      && c.zeroAt [(0x28, 24)]) (fun _ => s.runCmd q seq)

/-- INLINE_WRITE (R358). -/
def execInlineWrite (q seq : Nat) (s : State) : Host.Outcome State Fault Refusal :=
  s.onStart q seq 0x14 (fun c =>
    decide (1 ≤ c.moveLen) && decide (c.moveLen ≤ c.inlineData.length) && c.zeroAt [(0x1A, 38)]) (fun _ => s.runCmd q seq)

/-- The digest that a replay's journal holds in place of a command's host data, so that it is read from the host again (R428,
R432). -/
def State.digestOf (s : State) (q : Nat) (c : Cmd) : Option JRead :=
  let p := partOfQueue s.mode q
  (s.jAll p).find? (fun e =>
    decide (e.kind = 4) && e.digest && decide (e.source = s.queueOff q) && decide (s.rd F.skbNextSeqSeq (s.skbIdx p) ≤ e.seq)
      && decide (leNat ((s.jPayload p e).take 4) = c.tag))

/-- The word sum of a command's host data compared with its digest in a replay (R432, R434). -/
def State.checkDigest (s : State) (q : Nat) (c : Cmd) : State :=
  let p := partOfQueue s.mode q
  if c.opcode = 0x10 ∧ s.replaying (s.queueCtx q) = true then
    match s.digestOf q c with
    | some e => if leNat (((s.jPayload p e).drop 16).take 8) = c.result then s else s.diverge p 3 e.seq
    | none => s
  else s

/-- A chunk of a data mover is done; the command succeeds with its last one, and its digest is journalled (R423, R428). -/
def State.chunkDone (s : State) (q seq index : Nat) (sum : Nat) : State :=
  let s : State := s.updCmd q seq (fun c =>
    { c with chunksDone := c.chunksDone ++ [index], result := (c.result + sum) % 2 ^ 64 })
  match s.cmd? q seq with
  | none => s
  | some c =>
    if c.chunksDone.length < c.chunks then s
    else
      let ctx := s.queueCtx q
      let s : State := s.checkDigest q c
      let s : State :=
        if c.opcode = 0x10 ∧ s.flag F.skbCfgHostData (s.skbIdx (partOfCtx s.mode ctx)) = false then
          s.journalCtx ctx 0x04 (s.queueOff q)
            (leBytes 4 c.tag ++ leBytes 4 0 ++ leBytes 8 c.moveLen ++ leBytes 8 c.result) true
        else s
      s.endCmd q seq 0

/-- The bytes of a chunk that do not come from the host: from device memory, the fill pattern, or the inline data. -/
def State.chunkSource (s : State) (q : Nat) (c : Cmd) (index : Nat) : State × CtxIo (List Byte) :=
  let off := c.chunkStart index
  let n := c.chunkLen index
  match c.opcode with
  | 0x11 => s.ctxRead (s.dmaEngine q c.tag) (c.field 0x18 8 + off) n
  | 0x12 => s.ctxRead (s.dmaEngine q c.tag) (c.field 0x10 8 + off) n
  | 0x13 => (s, .ok ((List.range n).map (fun i => BitVec.ofNat 8 (c.field 0x18 8 >>> (8 * ((off + i) % 8))))))
  | _ => (s, .ok ((c.inlineData.drop off).take n))

/-- The engine's address refused a write into register space or the host window: a hole (R359). -/
def State.writeChunk (s : State) (q seq : Nat) (c : Cmd) (index : Nat) (bs : List Byte) (sum : Nat) : State :=
  match s.ctxWrite (s.dmaEngine q c.tag) (c.moveDst + c.chunkStart index) bs with
  | (s, .ok _) => s.chunkDone q seq index sum
  | (s, r) => s.ioFail q seq r

/-- The host data of a chunk written to the device, and journalled whole where HOST_DATA says so (R428). -/
def State.hostChunk (s : State) (q seq : Nat) (c : Cmd) (index : Nat) (bs : List Byte) : State :=
  let off := c.chunkStart index
  let ctx := s.queueCtx q
  let before := s.cmd? q seq
  let s : State := s.writeChunk q seq c index bs (wordSum off bs)
  if s.flag F.skbCfgHostData (s.skbIdx (partOfCtx s.mode ctx))
      ∧ (before.map Cmd.chunksDone) ≠ ((s.cmd? q seq).map Cmd.chunksDone) then
    s.journalCtx ctx 0x04 (s.queueOff q) (leBytes 4 c.tag ++ leBytes 4 0 ++ leBytes 8 off ++ bs)
  else s

/-- DMA_CHUNK (R359): one chunk of a running data mover. A chunk toward or from the host waits while the device may send no
request there (R362, R516), and host data of a recorded context waits for room in the journal (R426). -/
def execDmaChunk (q seq index : Nat) (ans : HostAns) (s : State) : Host.Outcome State Fault Refusal :=
  match s.cmd? q seq with
  | none => .next s
  | some c =>
    let host := decide (c.opcode = 0x10) || decide (c.opcode = 0x11)
    let replayed := s.replaying (s.queueCtx q) && decide (c.opcode = 0x10) && (s.digestOf q c).isNone
    if !c.moves || decide (c.phase ≠ .running) || c.stalled.isSome || decide (c.chunks ≤ index) || decide (index ∈ c.chunksDone)
        || (host && !s.hostOpen) || replayed || !s.partLive (partOfQueue s.mode q)
        || !s.skbRoom (partOfQueue s.mode q) 0 then .next s
    else if c.opcode = 0x10 then
      match ans with
      | .error => .next (s.failCmd q seq 0x0C)
      | .ok bs => .next (if bs.length = c.chunkLen index then s.hostChunk q seq c index bs else s)
    else
      match s.chunkSource q c index with
      | (s, .ok bs) =>
        if c.opcode = 0x11 then
          .next ((s.send (.hostWrite (s.queueFn q) (c.moveDst + c.chunkStart index) bs)).chunkDone q seq index 0)
        else .next (s.writeChunk q seq c index bs 0)
      | (s, r) => .next (s.ioFail q seq r)

end Sys2Proof.Machine
end

