-- ==== Sys2Proof/Machine/Resets.lean ====
section
/-! DEFINITION. Loss of the host, the self-test, the boot of the firmware, and the resets of a partition and of the whole device
(R16, R37 to R42, R352, R360, R476, R477, R497, R503 to R507, R534 to R552). A reset and the boot that follows it are one
step. -/

namespace Sys2Proof.Machine

-- loss of the host (R360, R362)

/-- The enabled queues as a session leaves or enters the detached state (R362, R364). -/
def State.holdQueues (s : State) (before after : Nat) : State :=
  s.queues.foldl (fun (t : State) e => if e.1 < 32768 ∧ t.rd F.qpStatusState e.1 = before then t.wr F.qpStatusState e.1 after else t) s

/-- The host is lost (R360): the link and the configuration space are reset, the reads that wait are gone, and an attached session
is detached. -/
def State.hostLost (s : State) (cause : Nat) : State :=
  let s : State := (s.wr F.hifSessionCause 0 cause).clearReg .hifLinkStatus 0
  let m := s.modSt
  let s : State := { s with barReads := [], msix := [], modSt := { m with linkTraining := true } }
  if s.rd F.hifSessionState = 1 then (s.wr F.hifSessionState 0 2).holdQueues 1 3 else s

-- the records of a reset (R352)

/-- A queue's commands ended by a reset of its partition: each is recorded in the next free slot of a ring in host memory; those that
find the ring full have no record. -/
def State.resetRecords (s : State) (q : Nat) : State :=
  let x := s.queue q
  if decide (32768 ≤ q) || s.flag F.qpCfgCqLoc q || !s.hostOpen || x.ringFailed || decide (s.rd F.qpStatusState q = 0) then s
  else
    x.cmds.foldl (fun (t : State) c =>
      let n := t.rd F.qpCqTailCount q
      if 2 ^ t.rd F.qpCfgLog2Cq q ≤ (n + 2 ^ 32 - x.cqHead) % 2 ^ 32 ∨ c.noRecord = true then t
      else
        let c : Cmd := { c with status := 4, faultCode := 0, result := 0 }
        let addr := t.rd F.qpCqBaseBase q * 4096 + 32 * (n % 2 ^ t.rd F.qpCfgLog2Cq q)
        let t : State := t.send (.hostWrite (t.queueFn q) addr (t.recordBytes q n c))
        (t.bump F.qpCqTailCount q).recordIrqOf q c) s

/-- The queues of a set of partitions ended by a reset, in ascending order. -/
def State.endQueues (s : State) (ps : List Nat) : State :=
  s.queues.foldl (fun (t : State) e => if partOfQueue t.mode e.1 ∈ ps then t.resetRecords e.1 else t) s

-- what a reset clears

/-- The registers that keep their values through every reset but a cold one: what only a cold reset numbers, fuses, counts since
cold reset, and what the queues' driver compares (R17, R42, R311, R352, R454, R456, R457). -/
def Reg.keptAlways : Reg → Bool
  | .cluIdent | .cluSlotMap | .regBondStatus | .regPwrAge | .qpCqTail | .regCohPoisoned | .regPwrEnergyMj | .pwrEnergyMj => true
  | _ => false

/-- The device-level registers that a device-wide warm reset and a standby exit keep (R544, R548): those of the timebase, the host
interface, the boot lock and its policy, security, seams, elections and the repair record. -/
def Reg.keptWarm (r : Reg) : Bool :=
  r.keptAlways ||
    match r.place.block with
    | .hif | .tb | .sec => true
    | _ =>
      match r with
      | .devIdent | .devSeamStatus | .devPartCfg | .devPartStatus | .devBootStatus | .fwRoot | .rasRepairStatus | .rasIsolate
      | .calStatus | .mgtCfg => true
      | _ => false

/-- The registers of a partition that a reset of it keeps (R38, R427): with the range reserved for the sketchbook unless ZERO is
requested. -/
def Reg.keptPart (r : Reg) (zero : Bool) : Bool :=
  r.keptAlways ||
    match r with
    | .skbWritten | .skbNextSeq | .regSramCfg => true
    | .skbBase | .skbStatus => !zero
    | _ => false

/-- The register store with the entries of a test kept, and with them the discarded adds of disabled cores, which last until the next
cold reset (R258). -/
def State.keepRegs (s : State) (k : Reg → Nat → Bool) : State :=
  { s with regs := s.regs.keep (fun a =>
      match regAt a with
      | some (r, n) => k r n || (decide (r = .cntDiscarded) && s.vacant n)
      | none => false) }

/-- Granules of encrypted contexts whose keys are erased while their bytes stay (R520). -/
def State.loseKeys (s : State) (rs : List Nat) : State :=
  s.regs.foldl (fun (t : State) e =>
    match regAt e.1 with
    | some (.regGrantNear, n) =>
      if n / 6144 ∈ rs ∧ s.granuleKey (s.rd F.regGrantNearMode n) (s.rd F.regGrantNearContext n) ≠ 0 then
        t.scramble ((nearBase (n / 6144)) / 0x4000000 + n % 6144) else t
    | some (.regGrantFar, n) =>
      if n / 8192 ∈ rs ∧ s.granuleKey (s.rd F.regGrantFarMode n) (s.rd F.regGrantFarContext n) ≠ 0 then
        t.scramble ((farBase (n / 8192)) / 0x4000000 + n % 8192) else t
    | _ => t) s

/-- The tables beside the registers, of a set of regions of a mode (R38 steps 5 and 6): cores, tasks, queues, caches, translations, slots,
events and the rest are empty. A queue keeps the doorbell of its completion ring beside its tail. -/
def State.clearTables (s : State) (mode : Nat) (rs : List Nat) : State :=
  let out := fun (r : Nat) => decide (r ∉ rs)
  let outP := fun (p : Nat) => out (lowestRegion mode p)
  let outA := fun (a : Nat) => match (s.paKind a).region? with
    | some r => out r
    | none => true
  let coh := s.coh
  let sec := s.sec
  let coh' : Coherence := { coh with
    appSets := coh.appSets.keep (fun k => out (agentRegion (k / 1024))),
    mirrors := coh.mirrors.keep (fun k => out (k / 32768 / 128)),
    busy := coh.busy.filter (fun b => outA (b.1 * 64)),
    waiting := coh.waiting.filter (fun w => outA (w.sector * 64)),
    reclaiming := coh.reclaiming.filter (fun a => out (agentRegion a)),
    writebacks := coh.writebacks.filter (fun w => outA (w.2.1 * 64)) }
  let sec' : SecSt := { sec with
    txSa := sec.txSa.keep (fun k => out (k / 16 / 2)),
    rxSa := sec.rxSa.filter (fun e => out (e.1 / 16 / 2)),
    ctxKeys := sec.ctxKeys.keep (fun c => outP (partOfCtx mode c)),
    keyWaits := sec.keyWaits.filter (fun c => outP (partOfCtx mode c)) }
  { s with
    cores := s.cores.keep (fun c => out (regionOfCore c)),
    stopped := s.stopped.filter (fun c => out (regionOfCore c) || s.vacant c),
    downClusters := s.downClusters.filter (fun k => out (regionOfCluster k)),
    tasks := s.tasks.filter (fun e => outP e.2.part),
    saved := s.saved.keep (fun k => outP (partOfCtx mode (k / 2048))),
    regionCtrs := s.regionCtrs.keep (fun k => out (k / 512)),
    merges := s.merges.filter (fun m => m.pieces.all (fun e => outA e.1)),
    canvases := s.canvases.keep (fun c => out (c / 3)),
    coh := coh',
    srams := s.srams.keep out,
    channels := s.channels.keep (fun c => out (c / 192)),
    stackSts := s.stackSts.map (fun e => if out (e.1 / 6) then e else (e.1, { offline := e.2.offline })),
    tlbs := s.tlbs.keep (fun k =>
      if k < 2000 then out (regionOfCore k) else if k < 3000 then out (regionOfCluster (k - 2000)) else out (k % 10)),
    xfr := s.xfr.keep out,
    pages := s.pages.filter (fun e => outA e.1),
    queues := s.queues.filterMap (fun e =>
      if outP (partOfQueue mode e.1) then some e
      else if e.2.cqHead = 0 then none else some (e.1, { cqHead := e.2.cqHead })),
    ports := s.ports.keep (fun b => out (b / 2)),
    slots := s.slots.keep (fun k => out (k / 4)),
    ranks := s.ranks.keep (fun k => out (k / 262144)),
    skbs := s.skbs.keep outP,
    pwrRegions := s.pwrRegions.keep out,
    fwCores := s.fwCores.keep (fun f => out (fwRegion f)),
    events := s.events.keep out,
    sec := sec' }

/-- Memory that a reset zeroes in a region: scratch always, the tiers where asked (R37, R38). -/
def State.zeroRegion (s : State) (tiers : Bool) (r : Nat) : State :=
  let s : State := s.zeroRange (scratchBase r) 0x100000000
  if tiers then (s.zeroRange (nearBase r) 0x6000000000).zeroRange (farBase r) 0x8000000000 else s

-- what comes back from flash

/-- The registers of a region that flash holds (R378, R412, R454, R467, R479, R495). -/
def State.loadRegion (s : State) (r : Nat) : State :=
  let fl := s.flash
  let s : State := s.wr F.regFwStatusBanks r (fl.banks.getD r 0)
  let s : State := s.setReg .regPwrAge r (BitVec.ofNat 64 (fl.age.getD r 0))
  [2 * r, 2 * r + 1].foldl (fun (t : State) b =>
    let split := if fl.split.testBit b then 1 else 0
    let t : State := (t.wr F.portCfgSplit b split).wr F.portStatusSplitInForce b split
    let t : State := t.wr F.portStatusLanesRetired b (fl.lanes / 2 ^ (8 * b) % 256)
    (t.wr F.portMacMac (2 * b) (fl.macs.getD (2 * b) 0)).wr F.portMacMac (2 * b + 1) (fl.macs.getD (2 * b + 1) 0)) s

/-- RAS.REPAIR_STATUS from the repair record (R501). -/
def State.loadRepair (s : State) : State :=
  let fl := s.flash
  let bits := fun (n w : Nat) => ((List.range w).filter (fun i => n.testBit i)).length
  let s : State := s.wr F.rasRepairStatusRowsSpared 0 (min fl.spared.length 0xFFFF)
  let s : State := s.wr F.rasRepairStatusRowsUnspared 0 (min fl.unspared.length 0xFFFF)
  let s : State := s.wr F.rasRepairStatusCoresRetired 0 (fl.retired.foldl (fun n e => n + bits e.2 9) 0)
  s.wr F.rasRepairStatusLanesRetired 0 (bits fl.lanes 64)

/-- The healthy slots of a cluster (R41). -/
def State.healthySlots (s : State) (k : Nat) : List Nat :=
  let bad := s.rd F.cluSlotMapPhysFused k ||| s.rd F.cluSlotMapPhysRetired k
  (List.range 9).filter (fun i => !bad.testBit i)

/-- The numbering of a cluster's cores at a cold reset (R16, R41). -/
def State.numberCluster (s : State) (k : Nat) : State :=
  let l := (s.healthySlots k).take (s.rd F.cluIdentQuota k)
  let s : State := (List.range 8).foldl (fun (t : State) n => t.wr F.cluSlotMapLog k (l.getD n 0xF) n) s
  s.wr F.cluIdentCoresEnabled k l.length

/-- The retired slots of flash in PHYS_RETIRED, and every cluster numbered: one of eight cores with no slot fused or retired has the map of
the Reset column. -/
def State.numberCores (s : State) : State :=
  let s : State := s.flash.retired.foldl (fun (t : State) e => t.wr F.cluSlotMapPhysRetired e.1 e.2) s
  let s : State := (List.range 144).foldl (fun (t : State) k =>
    if t.rd F.cluIdentQuota k = 8 ∧ t.rd F.cluSlotMapPhysFused k = 0 ∧ t.rd F.cluSlotMapPhysRetired k = 0 then t else t.numberCluster k) s
  s.wr F.devIdentCoresEnabled 0 ((List.range 144).foldl (fun n k => n + s.rd F.cluIdentCoresEnabled k) 0)

-- the self-test (R494, R543)

/-- A compute core slot fails: it is retired in the repair record, and 0x0601 is logged by its cluster control core. A logical core
behind it becomes vacant (R42); before the numbering of a cold reset there is none. -/
def State.slotFails (s : State) (cold : Bool) (k slot : Nat) : State :=
  let bad := s.rd F.cluSlotMapPhysFused k ||| s.rd F.cluSlotMapPhysRetired k ||| s.flash.retired.getD k 0
  if 144 ≤ k ∨ 9 ≤ slot ∨ bad.testBit slot = true then s
  else
    let fl := s.flash
    let s : State := { s with flash := { fl with retired := fl.retired.set k (fl.retired.getD k 0 ||| 2 ^ slot) } }
    let s : State := s.bumpSat F.rasRepairStatusCoresRetired 0
    let s : State :=
      if cold then s
      else
        let s : State := s.wr F.cluSlotMapPhysRetired k (s.rd F.cluSlotMapPhysRetired k ||| 2 ^ slot)
        match (List.range 8).find? (fun n => decide (s.rd F.cluSlotMapLog k n = slot)) with
        | some n =>
          let s : State := s.wr F.cluSlotMapLog k 0xF n
          let s : State := s.wr F.cluIdentCoresEnabled k (s.rd F.cluIdentCoresEnabled k - 1)
          s.wr F.devIdentCoresEnabled 0 (s.rd F.devIdentCoresEnabled - 1)
        | none => s
    s.logDirect (regionOfCluster k) 0x0601 (0x8000 + k) 0xFFFF 0 (1 + slot * 256) 2

/-- The channels of a canvas bond (R23): 32 in service and two spares, less those that fail. -/
def State.bondFails (s : State) (canvas bad : Nat) : State :=
  let r := canvas / 3
  let f := match canvas % 3 with
    | 0 => (F.regBondStatusCnv0Active, F.regBondStatusCnv0Spares)
    | 1 => (F.regBondStatusCnv1Active, F.regBondStatusCnv1Spares)
    | _ => (F.regBondStatusCnv2Active, F.regBondStatusCnv2Spares)
  (s.wr f.1 r (min 32 (34 - bad))).wr f.2 r (2 - bad)

def seamFields : List Fld := [F.devSeamStatusSeam0, F.devSeamStatusSeam1, F.devSeamStatusSeam2, F.devSeamStatusSeam3]

/-- The regions a seam joins (R15). -/
def seamEnds : List (Nat × Nat) := [(0, 1), (2, 3), (0, 2), (1, 3)]

/-- A seam fails its test: it is marked failed until the next cold reset, and logged (R28). -/
def State.seamFails (s : State) (seam : Nat) : State :=
  match seamFields[seam]? with
  | some f => if s.rd f = 2 then s else (s.wr f 0 2).hwEvent 0 0xC401 seam (flags := 2)
  | none => s

/-- The self-test of a set of regions: slots, bonds, seams; and at a cold reset the stacks. -/
def State.selfTest (s : State) (t : SelfTest) (cold : Bool) (rs : List Nat) : State :=
  let s : State := t.badSlots.foldl (fun (u : State) b =>
    if regionOfCluster b.1 ∈ rs then u.slotFails cold b.1 b.2 else u) s
  let s : State := (List.range 12).foldl (fun (u : State) c =>
    if c / 3 ∈ rs then (match t.badBonds.get? c with
      | some n => u.bondFails c n
      | none => u) else u) s
  let s : State := t.badSeams.foldl (fun (u : State) m =>
    match seamEnds[m]? with
    | some (a, b) => if a ∈ rs ∨ b ∈ rs then u.seamFails m else u
    | none => u) s
  if cold then t.badStacks.foldl (fun (u : State) k => if k < 24 ∧ k / 6 ∈ rs then u.stackDown k else u) s else s

-- the boot of the firmware (R476, R503 to R507)

/-- Does the boot ROM or the security core verify a bank of a type for a region: its signatures hold, and its SVN is not below MIN_SVN (R504)?
A record whose MAC fails gives no MIN_SVN (R507). -/
def State.bankGood (s : State) (t : SelfTest) (r ty bank : Nat) : Bool :=
  let i := s.flash.images.getD (2 * ty + bank) { ty := ty }
  decide (r * 16 + 2 * ty + bank ∉ t.badImages) && (decide (r ∈ t.badMac) || decide (s.flash.minSvn.getD ty 0 ≤ i.svn))

/-- The bank a region runs of a type, and whether it is a fallback (R506, R507); none where no bank verifies. -/
def State.bootBank (s : State) (t : SelfTest) (r ty : Nat) : Option (Nat × Bool) :=
  let a := if (s.flash.banks.getD r 0).testBit ty then 1 else 0
  let svn := fun (b : Nat) => (s.flash.images.getD (2 * ty + b) { ty := ty }).svn
  let ok := s.bankGood t r ty
  let first := if r ∈ t.badMac ∧ ok a = true ∧ ok (1 - a) = true ∧ svn a < svn (1 - a) then 1 - a else a
  if ok first then some (first, decide (first ≠ a))
  else if ok (1 - first) then some (1 - first, decide (1 - first ≠ a))
  else none

/-- The bank of a type recorded for a region; with a failed MAC the record is rewritten with its SVN as MIN_SVN (R507). -/
def State.recordBoot (s : State) (t : SelfTest) (r ty bank : Nat) : State :=
  let fl := s.flash
  let old := fl.banks.getD r 0
  let b := if bank = 1 then old ||| 2 ^ ty else old &&& (63 - 2 ^ ty)
  let svn := (fl.images.getD (2 * ty + bank) { ty := ty }).svn
  let s : State := { s with flash := { fl with
    banks := fl.banks.set r b, minSvn := if r ∈ t.badMac then fl.minSvn.set ty svn else fl.minSvn } }
  s.wr F.regFwStatusBanks r b

/-- A firmware core started by a boot: it runs, or it fails its memory's self-test (R543). -/
def State.bootCore (s : State) (t : SelfTest) (fw : Nat) : State :=
  if fw ∈ t.badFirmware then s.setFwState fw 2 else s.fwRun fw

/-- The boot of a region's firmware: the type 0 image and its core, then the other types and theirs. -/
def State.bootRegion (s : State) (t : SelfTest) (r : Nat) : State :=
  let s : State := s.wr F.secStatusRecordMacFail 0 (if r ∈ t.badMac then 1 else 0) r
  match s.bootBank t r 0 with
  | none => s.wr F.secStatusBoot 0 3 r
  | some (b, fb) =>
    let s : State := (s.wr F.secStatusBoot 0 (if fb then 2 else 1) r).recordBoot t r 0 b
    let s : State := s.bootCore t (3 * r)
    if s.fwState (3 * r) ≠ 0 then s
    else
      [1, 2, 3, 4, 5].foldl (fun (u : State) ty =>
        let cores := if ty < 3 then [3 * r + ty] else if ty = 3 then (List.range 36).map (fun i => 16 + 36 * r + i) else []
        match u.bootBank t r ty with
        | some (b, _) => cores.foldl (fun (v : State) f => v.bootCore t f) (u.recordBoot t r ty b)
        | none => cores.foldl (fun (v : State) f => v.setFwState f 2) u) s

/-- The types armed for a partition's reset take the staged banks where those verify in all its regions (R476). -/
def State.bootArmed (s : State) (t : SelfTest) (p : Nat) : State :=
  let mine := s.flash.armed.filter (fun e => decide (e.1 = p))
  if mine = [] then s
  else
    let s : State := mine.foldl (fun (u : State) e =>
      match u.flash.staged.get? e.2 with
      | some b => if (partRegions u.mode p).all (fun r => u.bankGood t r e.2 b) then u.recordBank p e.2 else u
      | none => u) s
    let fl := s.flash
    let s : State := { s with flash := { fl with armed := fl.armed.filter (fun e => decide (e.1 ≠ p)) } }
    if s.flash.armed = [] ∧ s.rd F.fwuStatusState = 6 then s.wr F.fwuStatusState 0 s.fwuRest else s

/-- Does a partition form (R28, R497, R506, R543): no region of it isolated or with an unrepairable array, every security core verified, and in
dual mode the seam inside it up? -/
def State.forms (s : State) (t : SelfTest) (p : Nat) : Bool :=
  (partRegions s.mode p).all (fun r =>
    !(s.rd F.rasIsolateInForce).testBit r && t.badArrays.all (fun e => decide (e.1 ≠ r)) && decide (s.rd F.secStatusBoot 0 r ≠ 3))
  && (decide (s.mode ≠ 1) || decide (s.rd (if p = 0 then F.devSeamStatusSeam0 else F.devSeamStatusSeam1) ≠ 2))

/-- The boot of a partition after its regions have been cleared (R540 steps 7 and 8, R368, R548): banks, firmware, the firmware context and the
resident operator queue, the application cores' contexts (R330), then booting, and running or stopped on error. -/
def State.bootPart (s : State) (t : SelfTest) (p : Nat) : State :=
  let rs := partRegions s.mode p
  let s : State := (s.setPartState p 1).bootArmed t p
  let up := rs.filter (fun r => !(s.rd F.rasIsolateInForce).testBit r)
  let s : State := up.foldl (fun (u : State) r =>
    let x := u.pwr r
    ((u.setPwr r { x with railOn := true }).bootRegion t r).refreshPwr r) s
  let s : State := t.badArrays.foldl (fun (u : State) e =>
    if e.1 ∈ up then u.hwEvent e.1 e.2 (if e.2 = 0x8307 then e.1 else e.1 * 3) (flags := 2) else u) s
  let c := firmwareCtx s.mode p
  let s : State := (s.wr F.ctxStateState c 1).wr F.ctxPtCtlRing c 0
  let s : State := s.wr F.qpCfgContext (firstQueue s.mode p) c
  let dead := (s.coh.dead.filter (fun a => decide (partOfRegion s.mode (agentRegion a) = p))).length
  let s : State := rs.foldl (fun (u : State) r =>
    (List.range 24).foldl (fun (v : State) k => v.wr F.regApcCtxContext (r * 24 + k) c) (u.wr F.regCohStatusDeadAgents r dead)) s
  let s : State := s.setPartState p (if s.forms t p then 2 else 4)
  (partBlocks s.mode p).foldl State.refreshPorts s

/-- The root is elected anew and serves what waits for it. -/
def State.settleRoot (s : State) : State := (s.refreshRoot.rootServes).serveWaits

-- firmware update and staging at a reset (R477, R546)

/-- A staging in progress ends with RESULT 0x07, its bank not recorded. -/
def State.cutStaging (s : State) : State :=
  if s.staging.isSome then ({ s with staging := none }).wr F.fwuStatusResult 0 7 else s

/-- An activation ends at a device-wide reset with RESULT 0x07; the FWU block is otherwise at its reset values, its STATE by what is staged and
armed. -/
def State.resetFwu (s : State) : State :=
  let cut := s.activation.isSome || s.staging.isSome
  let s : State := { s with activation := none, staging := none, fwWaits := [], normalRun := 0 }
  let s : State := [Reg.fwuStageAddr, .fwuStageCtl, .fwuActivate, .fwuStatus].foldl (fun (u : State) r => u.clearReg r 0) s
  let s : State := s.wr F.fwuStatusState 0 (if s.flash.armed = [] then s.fwuRest else 6)
  if cut then s.wr F.fwuStatusResult 0 7 else s

/-- Calibration: a set that awaits a cold reset comes into force (R499). -/
def State.loadCal (s : State) : State :=
  let fl := s.flash
  let c := fl.cal
  let f : Option (NMap Byte) := if c.pending.isSome then c.pending else c.inForce
  let c : CalSet := { c with inForce := f, pending := none }
  let s : State := { s with flash := { fl with cal := c } }
  let s : State := (s.wr F.calStatusFactory 0 (if c.factory then 1 else 0)).wr F.calStatusPending 0 0
  match c.inForce with
  | some m => s.wr F.calStatusCrcInForce 0 (mapNat m 0x14 4)
  | none => s

-- the cold reset (R540 to R543, R552)

/-- The fuses of a device in another state of it (R7, R41, R505): the grade, the edition and the stepping, the quotas and the slots disabled at
manufacture, and the keys provisioned and revoked. -/
def State.withFuses (t s : State) : State :=
  let t : State := [F.devIdentGrade, F.devIdentFtEdition, F.devIdentStepping, F.secKeyFusesEcdsaProvisioned,
    F.secKeyFusesMldsaProvisioned, F.secKeyFusesEcdsaRevoked, F.secKeyFusesMldsaRevoked].foldl (fun (u : State) f => u.wr f 0 (s.rd f)) t
  (List.range 144).foldl (fun (u : State) k =>
    (u.wr F.cluIdentQuota k (s.rd F.cluIdentQuota k)).wr F.cluSlotMapPhysFused k (s.rd F.cluSlotMapPhysFused k)) t

/-- The device as a cold reset begins: only flash, fuses, the module's pins and what was sent remain. -/
def State.coldStart (s : State) : State :=
  let t : State := { pending := s.pending, sent := s.sent, freeIdx := s.freeIdx, flash := s.flash, modSt := s.modSt }
  t.withFuses s

/-- A cold reset and the power-up that follows it. -/
def State.coldBoot (s : State) (t : SelfTest) (why : Nat) : State :=
  let s : State := s.coldStart.loadCal
  let m := s.modSt
  let s : State := { s with modSt := { m with pwrGood := true, up := true, standby := false, linkTraining := !m.perst, straps := t.straps % 4 } }
  let s : State := (s.wr F.devBootStatusLastReset 0 why).wr F.devBootStatusStraps 0 t.straps
  let s : State := s.wr F.devBootStatusRefclkOk 0 1
  let fl := s.flash
  let still := (List.range 64).filter (fun l => fl.lanes.testBit l && decide (l ∈ t.badLanes))
  let s : State := { s with flash := { fl with lanes := still.foldl (fun n l => n + 2 ^ l) 0 } }
  let s : State := (s.wr F.devPartCfgMode 0 fl.mode).wr F.devPartCfgModeNext 0 fl.mode
  let s : State := (List.range 4).foldl (fun (u : State) p =>
    u.wr F.devPartStatusState 0 (if p < partCount fl.mode then 1 else 0) p) s
  let s : State := (s.wr F.rasIsolateRegions 0 fl.isolate).wr F.rasIsolateInForce 0 fl.isolate
  let s : State := (List.range 4).foldl State.loadRegion s.loadRepair
  let s : State := s.wr F.fwuStatusState 0 (if fl.armed = [] then s.fwuRest else 6)
  let s : State := s.wr F.secCfgRequireIde 0 fl.policy.requireIde
  let s : State := (s.wr F.mgtCfgBmcCap 0 fl.policy.bmcCap).wr F.mgtCfgBmcKeys 0 fl.policy.bmcKeys
  let s : State := s.wr F.mgtCfgBmcFwu 0 fl.policy.bmcFwu
  let rs := (List.range 4).filter (fun r => !fl.isolate.testBit r)
  let s : State := (s.selfTest t true rs).numberCores
  let s : State := s.wr F.devBootStatusBootLocked 0 1
  let s : State := (s.wr F.devBootStatusLockUs 0 (s.now / 1000)).wr F.devBootStatusPhase 0 1
  let s : State := (List.range (partCount fl.mode)).foldl (fun (u : State) p => u.bootPart t p) s
  (s.wr F.devBootStatusPhase 0 2).settleRoot.refreshSide

-- warm resets (R37, R545) and standby (R547)

/-- The boot after every region has been cleared by a warm reset or a standby exit. -/
def State.rebootAll (s : State) (t : SelfTest) (mode : Nat) : State :=
  let s : State := (List.range 4).foldl State.loadRegion s
  let s : State := s.wr F.rasIsolateInForce 0 (s.rd F.rasIsolateRegions)
  let s : State := s.selfTest t false ((List.range 4).filter (fun r => !(s.rd F.rasIsolateInForce).testBit r))
  let s : State := (s.wr F.devBootStatusPhase 0 1).resetFwu
  let s : State := (List.range (partCount mode)).foldl (fun (u : State) p => u.bootPart t p) s
  (s.wr F.devBootStatusPhase 0 2).settleRoot.refreshSide

/-- The device-level state beside the registers that a warm reset returns to its reset value. -/
def State.clearDevice (s : State) : State :=
  { s with power := {}, mgt := {}, nextTask := 0 }

/-- A mode change (R37, R550): the assignments of virtual functions to partitions that the new mode lacks are cleared. -/
def State.changeMode (s : State) (mode : Nat) : State :=
  let s : State := (List.range 63).foldl (fun (u : State) v =>
    if u.flag F.hifVfCfgAssigned v && decide (partCount mode ≤ u.rd F.hifVfCfgPartition v) then u.wr F.hifVfCfgAssigned v 0 else u) s
  let fl := s.flash
  if s.flag F.devPartCfgPersist then { s with flash := { fl with mode := mode } } else s

/-- A device-wide warm reset (R545, R37): the reason is that of LAST_RESET. -/
def State.warmBoot (s : State) (t : SelfTest) (why : Nat) : State :=
  let old := s.mode
  let mode := s.rd F.devPartCfgModeNext
  let s : State := s.endQueues (List.range 4)
  let s : State := if mode = old then s else s.changeMode mode
  let s : State := (List.range 4).foldl (fun (u : State) p => if u.partState p = 0 then u else u.setPartState p 3) s
  let s : State := s.refreshRoot
  let s : State := ((s.clearTables old (List.range 4)).clearDevice).keepRegs (fun r _ => r.keptWarm)
  let s : State := { s with mem := [], poison := [], scrambled := [] }
  let s : State := (s.wr F.devPartCfgMode 0 mode).wr F.devPartCfgModeNext 0 mode
  let s : State := (s.wr F.devPartCfgPersist 0 0).wr F.devPartStatusModeChangePending 0 0
  let s : State := (List.range 4).foldl (fun (u : State) p => if partCount mode ≤ p then u.setPartState p 0 else u) s
  let s : State := (s.wr F.devBootStatusLastReset 0 why).wr F.hifSessionHeld 0 0
  s.rebootAll t mode

/-- HELD counted afresh (R365). -/
def State.refreshHeld (s : State) : State :=
  s.wr F.hifSessionHeld 0 (s.queues.foldl (fun n e => n + e.2.held.length) 0)

/-- The fields of region SRAM that outlast a partition reset (R273): the scratch size, in force as it is set. -/
def State.keepScratch (s : State) (r : Nat) : State :=
  let n := s.rd F.regSramCfgScratchUnits r
  ((s.clearReg .regSramCfg r).wr F.regSramCfgScratchUnits r n).wr F.regSramStatusScratchInForce r n

/-- The sketchbook of a partition after its reset (R427): off; a reserved range stays reserved unless ZERO was requested. -/
def State.keepSketch (s : State) (p held : Nat) : State :=
  let i := s.skbIdx p
  (s.clearReg .skbStatus i).wr F.skbStatusReservedHeld i held

/-- A reset of one partition up to its boot (R38 steps 1 to 6). -/
def State.clearPart (s : State) (p : Nat) (zero : Bool) : State :=
  let rs := partRegions s.mode p
  let held := if zero then 0 else s.rd F.skbStatusReservedHeld (s.skbIdx p)
  let s : State := s.endQueues [p]
  let s : State := (partBlocks s.mode p).foldl State.portDown (s.setPartState p 3)
  let s : State := s.refreshRoot
  let s : State := if zero then s else s.loseKeys rs
  let s : State := s.clearTables s.mode rs
  let s : State := s.keepRegs (fun r n =>
    decide (s.blockPart r.place.block (n / r.place.count) ≠ some p) || r.keptPart zero)
  let s : State := (rs.foldl State.keepScratch s).keepSketch p held
  (rs.foldl (fun (u : State) r => (u.zeroRegion zero r).loadRegion r) s).refreshHeld

/-- A reset of one partition (R38). -/
def State.partReset (s : State) (t : SelfTest) (p : Nat) (zero : Bool) : State :=
  let s : State := s.clearPart p zero
  let rs := partRegions s.mode p
  let iso := (List.range 4).foldl (fun n r =>
    let f := if r ∈ rs then F.rasIsolateRegions else F.rasIsolateInForce
    if (s.rd f).testBit r then n + 2 ^ r else n) 0
  let s : State := s.wr F.rasIsolateInForce 0 iso
  let s : State := s.selfTest t false (rs.filter (fun r => !iso.testBit r))
  (s.bootPart t p).settleRoot

/-- The effect of a partition reset on an activation (R477): one held or quiescing in the partition ends with RESULT 0x07. -/
def State.cutActivation (s : State) (p : Nat) : State :=
  match s.activation with
  | some a =>
    if a.parts.head? = some p ∧ (s.rd F.fwuStatusState = 3 ∨ s.rd F.fwuStatusState = 4) then s.endActivation s.fwuRest 7 else s
  | none => s

/-- A RESET bit of DEV.PART_CTL (R38, R39, R477, R546). -/
def State.partRequest (s : State) (t : SelfTest) (p : Nat) (zero : Bool) : State :=
  if s.modSt.standby ∨ s.partState p = 0 then s.accessError
  else if s.partState p = 3 ∨ (s.partState p = 5 ∧ s.rd F.fwuStatusState = 5) then s
  else (s.cutActivation p).partReset t p zero

/-- A write of DEV.PART_CTL (R38): each named partition, in ascending order. -/
def State.writePartCtl (s : State) (t : SelfTest) (q : RegWriteReq) : State :=
  (bitList 4 (q.wrote F.devPartCtlReset)).foldl (fun (u : State) p =>
    u.partRequest t p ((q.wrote F.devPartCtlZero).testBit p)) s

/-- PARTITION_RESET (R38): a write of DEV.PART_CTL. -/
def execPartitionReset (a : Access) (t : SelfTest) (s : State) : Host.Outcome State Fault Refusal :=
  s.onWrite a [.devPartCtl] (s.writePartCtl t)

/-- Standby entry (R547): every partition stops as at a reset without ZERO, its rails off, and reads in standby. -/
def State.enterStandby (s : State) : State :=
  let mode := s.mode
  let s : State := s.endQueues (List.range 4)
  let m := s.modSt
  let s : State := { s with modSt := { m with pwrEn := false, standby := true } }
  let s : State := (List.range (partCount mode)).foldl (fun (u : State) p =>
    let u : State := (partBlocks mode p).foldl State.portDown u
    u.setPartState p 6) s
  let s : State := (s.loseKeys (List.range 4)).clearTables mode (List.range 4)
  let s : State := s.keepRegs (fun r n =>
    match r.place.block with
    | .qp => r.keptAlways
    | .ctx => false
    | _ => true)
  (s.wr F.devBootStatusPhase 0 3).refreshHeld

/-- A standby exit (R547): every partition boots as after a reset without ZERO. -/
def State.exitStandby (s : State) (t : SelfTest) : State :=
  let mode := s.mode
  let m := s.modSt
  let s : State := { s with modSt := { m with pwrEn := true, standby := false } }
  let held := (List.range (partCount mode)).map (fun p => (p, s.rd F.skbStatusReservedHeld (s.skbIdx p)))
  let s : State := ((s.clearTables mode (List.range 4)).clearDevice).keepRegs (fun r _ => r.keptWarm || r.keptPart false)
  let s : State := (List.range 4).foldl (fun (u : State) r => (u.keepScratch r).zeroRegion false r) s
  let s : State := held.foldl (fun (u : State) e => u.keepSketch e.1 e.2) s
  let s : State := (s.wr F.devPartCfgModeNext 0 mode).wr F.devPartCfgPersist 0 0
  let s : State := (s.wr F.devPartStatusModeChangePending 0 0).wr F.devBootStatusLastReset 0 6
  s.rebootAll t mode

-- commands of the module (R532 to R549)

/-- INSERTION (R534): the contacts mate and the bulk capacitance charges; the main switch is open. -/
def execInsertion (s : State) : Host.Outcome State Fault Refusal :=
  let m := s.modSt
  .next (if m.mated then s else { s with modSt := { m with mated := true, precharged := true, mainSwitch := false } })

/-- MAIN_SWITCH_CLOSE (R534): the bulk is within 2 V of P54V. -/
def execMainSwitchClose (s : State) : Host.Outcome State Fault Refusal :=
  let m := s.modSt
  .next (if m.mated ∧ m.precharged then { s with modSt := { m with mainSwitch := true } } else s)

/-- The module loses its supply: all work and all memory are lost; flash, fuses and pins remain. A flash write that was under way leaves its
earlier state (R546). -/
def State.powerLost (s : State) (m : ModuleSt) : State :=
  { s.coldStart with modSt := { m with mainSwitch := false, precharged := false, pwrGood := false, up := false, standby := false, linkTraining := false } }

/-- EXTRACTION (R535): PRSNT_N breaks, and the main switch opens within 200 µs. -/
def execExtraction (s : State) : Host.Outcome State Fault Refusal :=
  let m := s.modSt
  .next (if m.mated then s.powerLost { m with mated := false, perst := true } else s)

/-- INPUT_UNDERVOLTAGE (R536): the main switch opens; every partition stops, with 0xC502 logged where the state of the device still holds
it. -/
def execInputUndervoltage (s : State) : Host.Outcome State Fault Refusal :=
  let m := s.modSt
  .next (if m.mainSwitch then { s.deviceFault 0xC502 with modSt := { m with mainSwitch := false, precharged := false } } else s)

/-- INPUT_RETURN (R536): the module pre-charges again and performs a cold reset. -/
def execInputReturn (t : SelfTest) (s : State) : Host.Outcome State Fault Refusal :=
  let m := s.modSt
  if m.mated ∧ m.mainSwitch = false then
    let m : ModuleSt := { m with precharged := true, mainSwitch := true, up := false, pwrGood := false }
    let s : State := { s with modSt := m }
    .next (if m.pwrEn ∧ m.refclk then s.coldBoot t 1 else s.coldStart)
  else .next s

/-- POWER_UP (R540): with the main switch closed and PWR_EN high, the power-up sequence; without REFCLK it waits at step 4, PWR_GOOD
released. -/
def execPowerUp (t : SelfTest) (s : State) : Host.Outcome State Fault Refusal :=
  let m := s.modSt
  if m.mainSwitch ∧ m.pwrEn ∧ m.up = false then
    .next (if m.refclk then s.coldBoot t 1 else { s with modSt := { m with pwrGood := true } })
  else .next s

/-- PERST_DEASSERT (R541): link training begins. -/
def execPerstDeassert (s : State) : Host.Outcome State Fault Refusal :=
  let m := s.modSt
  .next { s with modSt := { m with perst := false, linkTraining := m.pwrGood } }

/-- REFCLK_LOSS (R539): the host interface and the timebase run on the module's oscillator; the link goes down. -/
def execRefclkLoss (s : State) : Host.Outcome State Fault Refusal :=
  let m := s.modSt
  if m.refclk then
    let s : State := { s with modSt := { m with refclk := false } }
    if m.up then
      let s : State := (s.wr F.devBootStatusRefclkOk 0 0).hostLost 1
      let m := s.modSt
      .next { s with modSt := { m with linkTraining := false } }
    else .next s
  else .next s

/-- REFCLK_RETURN (R539): both switch back, and the link may train again. -/
def execRefclkReturn (s : State) : Host.Outcome State Fault Refusal :=
  let m := s.modSt
  if m.refclk then .next s
  else
    let s : State := { s with modSt := { m with refclk := true, linkTraining := m.up && !m.perst } }
    .next (if m.up then s.wr F.devBootStatusRefclkOk 0 1 else s)

/-- HOST_LINK_UP (R541, R360): link training completes. -/
def execHostLinkUp (rate width : Nat) (flit : Bool) (s : State) : Host.Outcome State Fault Refusal :=
  let m := s.modSt
  if m.linkTraining ∧ m.perst = false then
    let s : State := { s with modSt := { m with linkTraining := false } }
    let s : State := (s.wr F.hifLinkStatusRate 0 rate).wr F.hifLinkStatusWidth 0 width
    .next ((s.wr F.hifLinkStatusFlit 0 (if flit then 1 else 0)).wr F.hifLinkStatusUp 0 1)
  else .next s

/-- A write of DEV.RESET_CTL (R549, R545, R546, R552). A cold reset takes the link down; a reset waits for no export or import here, since
those are over within their own step. -/
def State.writeResetCtl (s : State) (t : SelfTest) (q : RegWriteReq) : State :=
  if q.wrote F.devResetCtlKey ≠ 0xA5 then s.accessError
  else if q.wrote F.devResetCtlCold = 1 then s.coldBoot t 2
  else if q.wrote F.devResetCtlWarm = 1 then
    if s.modSt.standby then s.accessError
    else s.warmBoot t (if s.rd F.devPartCfgModeNext = s.mode then 3 else 4)
  else s

/-- COLD_RESET (R552): a write of DEV.RESET_CTL with COLD. -/
def execColdReset (a : Access) (t : SelfTest) (s : State) : Host.Outcome State Fault Refusal :=
  s.onWrite a [.devResetCtl] (fun q =>
    if q.wrote F.devResetCtlKey ≠ 0xA5 ∨ q.wrote F.devResetCtlCold = 1 then s.writeResetCtl t q else s)

/-- WARM_RESET (R545): a write of DEV.RESET_CTL with WARM and not COLD. -/
def execWarmReset (a : Access) (t : SelfTest) (s : State) : Host.Outcome State Fault Refusal :=
  s.onWrite a [.devResetCtl] (fun q =>
    if q.wrote F.devResetCtlKey ≠ 0xA5 ∨ (q.wrote F.devResetCtlWarm = 1 ∧ q.wrote F.devResetCtlCold = 0) then s.writeResetCtl t q
    else s)

/-- STANDBY_ENTRY (R547): PWR_EN falls while the main switch is closed; before the first power-up there is nothing to stop. -/
def execStandbyEntry (s : State) : Host.Outcome State Fault Refusal :=
  let m := s.modSt
  if m.up ∧ m.mainSwitch ∧ m.standby = false then .next s.enterStandby
  else if m.up = false then .next { s with modSt := { m with pwrEn := false } }
  else .next s

/-- STANDBY_EXIT (R547): PWR_EN rises in standby. -/
def execStandbyExit (t : SelfTest) (s : State) : Host.Outcome State Fault Refusal :=
  let m := s.modSt
  if m.standby then .next (s.exitStandby t)
  else .next { s with modSt := { m with pwrEn := true } }

end Sys2Proof.Machine
end

