-- ==== Sys2Proof/Machine/Sessions.lean ====
section
/-! DEFINITION. The host session, the assignment of virtual functions, and the HIF, HWT and AWT registers (12_host_coupling.md, R360 to
R365, R550). -/

namespace Sys2Proof.Machine

-- loss of the host

/-- HOST_LOSS (R360): 1 the link goes down, 2 a hot reset or PERST#, 3 a Function Level Reset of the physical function, 4 the heartbeat,
5 DETACH. The heartbeat and DETACH have commands of their own. -/
def execHostLoss (cause : Nat) (s : State) : Host.Outcome State Fault Refusal :=
  if cause = 1 ∨ cause = 2 ∨ cause = 3 then .next (s.hostLost cause) else .next s

/-- HEARTBEAT_EXPIRY (R365): an attached session whose interval has passed without a KICK is detached. -/
def execHeartbeatExpiry (s : State) : Host.Outcome State Fault Refusal :=
  let ms := s.rd F.hifHeartbeatTimeoutMs
  if s.rd F.hifSessionState = 1 ∧ ms ≠ 0 ∧ s.session.lastKick + ms * 1000000 ≤ s.now then .next (s.hostLost 4) else .next s

/-- A write of HIF.HEARTBEAT (R365): KICK restarts the interval, and so does a new TIMEOUT_MS. -/
def State.writeHeartbeat (s : State) (q : RegWriteReq) : State :=
  let x := s.session
  let restart := decide (q.wrote F.hifHeartbeatKick = 1) || decide (q.new F.hifHeartbeatTimeoutMs ≠ q.was F.hifHeartbeatTimeoutMs)
  (if restart then { s with session := { x with lastKick := s.now } } else s).store q

/-- HEARTBEAT_KICK (R365): a write of HIF.HEARTBEAT. -/
def execHeartbeatKick (a : Access) (s : State) : Host.Outcome State Fault Refusal := s.onWrite a [.hifHeartbeat] s.writeHeartbeat

/-- A write of HIF.TOKEN_LO or HIF.TOKEN_HI presents half a token (R363). -/
def State.writeToken (s : State) (q : RegWriteReq) : State :=
  let x := s.session
  let merge := fun (old : Nat) => (BitVec.ofNat 64 old &&& ~~~q.cover ||| q.raw &&& q.cover).toNat
  if q.n = 0 then { s with session := { x with presentLo := merge x.presentLo } }
  else { s with session := { x with presentHi := merge x.presentHi } }

-- attaching and resuming (R363, R364)

/-- Is an accepted command waiting on a request toward the host (R364)? -/
def State.hostWaiting (s : State) (c : Cmd) : Bool :=
  decide (c.phase = .running) && (decide (c.opcode = 0x10) || decide (c.opcode = 0x11) || c.hostWait ||
    (match c.task with
      | some t => s.cores.any (fun (e : Nat × CoreSt) => e.2.txns.any (fun x => decide (x.task = t) && (match x.kind with
          | .host .. => true
          | _ => false)))
      | none => false))

/-- The records a queue holds are written into its ring, as far as it has free slots, with one interrupt (R364). -/
def State.writeHeld (s : State) (q : Nat) : State :=
  let x := s.queue q
  if x.held = [] then s
  else
    let s : State := s.setQueue q { x with held := [] }
    let before := s.rd F.qpCqTailCount q
    let s : State := x.held.foldl (fun (t : State) h =>
      match t.cmd? q h.seq with
      | some c =>
        if 2 ^ t.rd F.qpCfgLog2Cq q ≤ (t.rd F.qpCqTailCount q + 2 ^ 32 - x.cqHead) % 2 ^ 32 then t
        else (t.writeRecord q c true).1
      | none => t) s
    if s.flag F.qpCfgIrqEn q ∧ s.rd F.qpCqTailCount q ≠ before then s.send (.msix (s.queueFn q) (s.rd F.qpCfgVector q)) else s

/-- A correct token (R364): the session is attached again. -/
def State.resumeSession (s : State) (clear : Bool) : State :=
  let s : State := s.wr F.hifSessionState 0 1
  let x := s.session
  let s : State := { s with session := { x with lastKick := s.now } }
  let s : State :=
    if clear then
      let s : State := s.keepRegs (fun r _ => match r.place.block with
        | .hwt | .awt => false
        | _ => true)
      s.queues.foldl (fun (t : State) (e : Nat × QueueSt) => t.abortCmds e.1 6 (fun c => t.hostWaiting c)) s
    else s
  let s : State := s.holdQueues 3 1
  (s.queues.foldl (fun (t : State) (e : Nat × QueueSt) => t.writeHeld e.1) s).refreshHeld

/-- A claim with the token presented (R363): a wrong one counts, and locks ACTION for 1 s. -/
def State.claimSession (s : State) (clear : Bool) : State :=
  let x := s.session
  if x.token = some (x.presentLo + x.presentHi * 2 ^ 64) then s.resumeSession clear
  else ({ s with session := { x with lockoutEnd := some (s.now + 1000000000) } }).bumpSat F.hifSessionBadTokens 0

/-- ATTACH_FRESH (R363): from unclaimed a token is issued once there is a root; while detached, a device-wide warm reset first. -/
def State.attachFresh (s : State) : State :=
  let s : State := if s.detached then (s.warmBoot {} 5).wr F.hifSessionState 0 0 else s
  let x : Session := { attachWaits := true, lastKick := s.now }
  ({ s with session := x }).rootServes

/-- Is ACTION locked after a wrong token? -/
def State.sessionLocked (s : State) : Bool :=
  match s.session.lockoutEnd with
  | some t => decide (s.now < t)
  | none => false

/-- An ACTION of HIF.SESSION_CTL (R363). -/
def State.sessionAction (s : State) (act : Nat) : State :=
  if act = 0 ∨ s.sessionLocked then s
  else
    match s.rd F.hifSessionState with
    | 0 => if act = 1 then (if s.session.attachWaits then s else s.attachFresh) else s.accessError
    | 1 => s.accessError
    | _ =>
      if act = 1 then (if s.modSt.standby then s.accessError else s.attachFresh)
      else s.claimSession (decide (act = 2))

/-- A write of HIF.SESSION_CTL (R360, R363): the ACTION, then DETACH. -/
def State.writeSessionCtl (s : State) (q : RegWriteReq) : State :=
  let s : State := s.sessionAction (q.wrote F.hifSessionCtlAction)
  if q.wrote F.hifSessionCtlDetach = 1 then s.hostLost 5 else s

/-- A write of HIF.SESSION_CTL of one kind: its ACTION, or DETACH alone. -/
def State.onSession (s : State) (a : Access) (act : Nat) : Host.Outcome State Fault Refusal :=
  s.onWrite a [.hifSessionCtl] (fun q =>
    if q.wrote F.hifSessionCtlAction = act ∧ (act ≠ 0 ∨ q.wrote F.hifSessionCtlDetach = 1) then s.writeSessionCtl q else s)

/-- DETACH (R360): a write of HIF.SESSION_CTL with DETACH and no ACTION. -/
def execDetach (a : Access) (s : State) : Host.Outcome State Fault Refusal := s.onSession a 0

/-- ATTACH_FRESH (R363): a write of HIF.SESSION_CTL with ACTION 1. -/
def execAttachFresh (a : Access) (s : State) : Host.Outcome State Fault Refusal := s.onSession a 1

/-- RESUME (R363, R364): a write of HIF.SESSION_CTL with ACTION 2. -/
def execResume (a : Access) (s : State) : Host.Outcome State Fault Refusal := s.onSession a 2

/-- RESUME_HOST (R363, R364): a write of HIF.SESSION_CTL with ACTION 3. -/
def execResumeHost (a : Access) (s : State) : Host.Outcome State Fault Refusal := s.onSession a 3

/-- A read of HIF.TOKEN_LO or HIF.TOKEN_HI by the physical function (R363): the first 64-bit read after issue returns the half. -/
def State.readToken (s : State) (hi : Bool) (size : Nat) : State × Word :=
  let x := s.session
  match x.token with
  | none => (s, 0)
  | some t =>
    if size ≠ 8 ∨ x.spdmRead ∨ (if hi then x.hiRead else x.loRead) then (s, 0)
    else
      ({ s with session := if hi then { x with hiRead := true } else { x with loRead := true } },
        BitVec.ofNat 64 (if hi then t / 2 ^ 64 else t))

/-- A read's answer to the host, under the next number. -/
def State.answerRead (s : State) (bytes : List Byte) (poisoned : Bool := false) : State :=
  ({ s with nextBarRead := s.nextBarRead + 1 }).send (.barData s.nextBarRead bytes poisoned)

/-- TOKEN_READ (R363): a read by a function; only the physical function reaches the HIF block. -/
def execTokenRead (fn : Nat) (hi : Bool) (size : Nat) (s : State) : Host.Outcome State Fault Refusal :=
  if fn ≠ 0 ∨ (size ≠ 4 ∧ size ≠ 8) then
    .next ((s.answerRead (List.replicate size 0xFF)).accessError)
  else
    match s.readToken hi size with
    | (s, w) => .next (s.answerRead (leBytes size w.toNat))

/-- TOKEN_LOCKOUT_END (R363): the 1 s has passed. -/
def execTokenLockoutEnd (s : State) : Host.Outcome State Fault Refusal :=
  let x := s.session
  match x.lockoutEnd with
  | some t => .next (if t ≤ s.now then { s with session := { x with lockoutEnd := none } } else s)
  | none => .next s

-- virtual functions (R361, R550)

/-- A queue's work ended without a record (R361): its kernels stop, its commands are gone, ENABLE is 0. -/
def State.flrQueue (s : State) (q : Nat) : State :=
  let s : State := s.abortCmds q 5 (fun _ => true)
  let x := s.queue q
  let s : State := s.setQueue q { x with cmds := [], held := [], ringStall := none }
  (s.wr F.qpCfgEnable q 0).wr F.qpStatusState q 0

/-- VF_FLR (R361): the work of every queue whose context the function owns ends. -/
def execVfFlr (v : Nat) (s : State) : Host.Outcome State Fault Refusal :=
  if 1 ≤ v ∧ v ≤ 63 then
    .next ((s.queues.foldl (fun (t : State) (e : Nat × QueueSt) =>
      if e.1 < 32768 ∧ t.queueFn e.1 = v then t.flrQueue e.1 else t) s).refreshHeld)
  else .next s

/-- Does any context name a virtual function, or any window of it map (R550)? -/
def State.vfBusy (s : State) (v : Nat) : Bool :=
  s.regs.any (fun e =>
    match regAt e.1 with
    | some (.ctxState, n) => decide (s.rd F.ctxStateFunction n = v)
    | some (.awtWin, n) => decide (n / 64 = v - 1) && s.flag F.awtWinValid n
    | _ => false)

/-- A write of HIF.VF_CFG_v (R550). -/
def State.writeVfCfg (s : State) (q : RegWriteReq) : State :=
  let v := q.n + 1
  let was := decide (q.was F.hifVfCfgAssigned = 1)
  let on := decide (q.new F.hifVfCfgAssigned = 1)
  let change := was && (!on || decide (q.new F.hifVfCfgPartition ≠ q.was F.hifVfCfgPartition))
  if (on && decide (partCount s.mode ≤ q.new F.hifVfCfgPartition)) || (change && s.vfBusy v) then s.accessError
  else s.store q

/-- VF_ASSIGN (R550): a write of HIF.VF_CFG_v. -/
def execVfAssign (a : Access) (s : State) : Host.Outcome State Fault Refusal := s.onWrite a [.hifVfCfg] s.writeVfCfg

/-- A write of CTX.STATE (R550, R151): FUNCTION by the physical function, a virtual function only if it is assigned to the context's
partition. -/
def State.writeCtxState (s : State) (q : RegWriteReq) : State :=
  let v := q.new F.ctxStateFunction
  if q.origin.isPf = false ∨ (v ≠ 0 ∧ s.originPart (.fn v) ≠ some (partOfCtx s.mode q.n)) then s.accessError else s.store q

/-- A write of HWT.ENTRY_n (R365). -/
def State.writeHwt (s : State) (q : RegWriteReq) : State :=
  let p := q.new F.hwtEntryPartition
  let v := q.new F.hwtEntryFunction
  if q.new F.hwtEntryValid = 1 ∧ (partCount s.mode ≤ p ∨ (v ≠ 0 ∧ s.originPart (.fn v) ≠ some p)) then s.accessError
  else s.store q

/-- A write of AWT.WIN_v_w (R365): the window's context is one that the function owns. -/
def State.writeAwt (s : State) (q : RegWriteReq) : State :=
  if q.new F.awtWinValid = 1 ∧ s.rd F.ctxStateFunction (q.new F.awtWinContext) ≠ q.n / 64 + 1 then s.accessError else s.store q

end Sys2Proof.Machine
end

