-- ==== Sys2Proof/Machine/Records.lean ====
section
/-! DEFINITION. Tensor records: their layout, the record-control word and the merges at their home agents
(03_exact_accumulation.md, R94 to R101). -/

namespace Sys2Proof.Machine

/-- What a record-control word keeps (R97). -/
structure RecordKeep where
  blot : Bool
  study : Bool
  init : Bool
  base : Nat
  width : Nat
deriving DecidableEq, Repr

/-- Are a record-control word's reserved bits 0 and its STUDY_WIDTH in range (R97)? -/
def recordCtlOk (ctl : Nat) : Bool :=
  decide (natBits ctl 7 3 = 0) && decide (natBits ctl 63 29 = 0) && decide (natBits ctl 28 24 ≤ 16)

/-- A record-control word read under a context's DRAIN_CFG (R97, R101): BLOT_FORCE keeps the blot fields of every output with a
record address, and a STUDY_WIDTH of 0 takes the context's base and width. -/
def State.recordKeep (s : State) (ctx addr ctl : Nat) : RecordKeep :=
  let own := decide (natBits ctl 28 24 ≠ 0)
  { blot := ctl.testBit 0 || (s.flag F.ctxDrainCfgBlotForce ctx && decide (addr ≠ 0)),
    study := ctl.testBit 1,
    init := ctl.testBit 2,
    base := if own then natBits ctl 23 8 else s.rd F.ctxDrainCfgStudyBase ctx,
    width := if own then natBits ctl 28 24 else s.rd F.ctxDrainCfgStudyWidth ctx }

def RecordKeep.any (k : RecordKeep) : Bool := k.blot || k.study

/-- The initial bytes of a tensor record (R98). -/
def RecordKeep.initial (k : RecordKeep) (tensorId : Nat) : List Byte :=
  leBytes 4 0xFFFFFFFF ++ leBytes 4 0xFFFFFFFF ++ leBytes 8 0 ++ leBytes 2 k.base ++ leBytes 1 k.width ++ leBytes 5 0
    ++ leBytes 4 tensorId ++ leBytes 484 0

/-- A field of a record. -/
def recField (rec : List Byte) (off n : Nat) : Nat := leNat ((rec.drop off).take n)

/-- A count raised, saturating at 2^48 − 1, and whether it saturated (R95). -/
def satCount (a b : Nat) : Nat × Bool := (min (a + b) (2 ^ 48 - 1), decide (2 ^ 48 ≤ a + b))

/-- The blot entry after a merge, by row, column and kind (R95): the lower linear index, at equal index the higher kind. -/
def mergeBlot (old : Nat × Nat × Nat) (new : Option (Nat × Nat × Nat)) : Nat × Nat × Nat :=
  match new with
  | none => old
  | some (r, c, k) =>
    let (r', c', k') := old
    if k' = 0 ∨ r < r' ∨ (r = r' ∧ c < c') then (r, c, k)
    else if r = r' ∧ c = c' then (r, c, max k k')
    else old

/-- A merge into a record's bytes (R95, R98, R99): the bytes, and the DRAIN_STATUS bits STUDY_SAT and STUDY_MISMATCH. -/
def MergeInfo.into (m : MergeInfo) (rec : List Byte) : List Byte × Nat :=
  let blot := mergeBlot (recField rec 0 4, recField rec 4 4, recField rec 8 1)
    (if m.keepBlot then m.tile.first.map (fun x => (x.1 / m.cols, x.1 % m.cols, x.2)) else none)
  let special := decide (m.tile.specials ≠ 0)
  let count := satCount (recField rec 0x0A 6) (if m.keepBlot then m.tile.specials else 0)
  let differs := decide (m.tensorId ≠ recField rec 0x18 4)
    || (m.keepStudy && (decide (m.base ≠ recField rec 0x10 2) || decide (m.width ≠ recField rec 0x12 1)))
  let adds := m.keepStudy && !differs
  let bins := (List.range 68).map (fun b =>
    satCount (recField rec (0x20 + 6 * b) 6) (if adds then ((m.tile.bins.find? (fun e => decide (e.1 = b))).map Prod.snd).getD 0 else 0))
  let sat := count.2 || bins.any Prod.snd
  let status := recField rec 9 1 ||| ((if special then 1 else 0) + (if sat then 2 else 0) + (if differs then 4 else 0))
  (leBytes 4 blot.1 ++ leBytes 4 blot.2.1 ++ leBytes 1 blot.2.2 ++ leBytes 1 status ++ leBytes 6 count.1
    ++ (rec.drop 0x10).take 16 ++ bins.flatMap (fun b => leBytes 6 b.1) ++ (rec.drop 0x1B8).take 72,
   (if sat then 2 else 0) + (if differs then 4 else 0))

/-- Bytes written over pieces of physical memory. -/
def State.writePieces (s : State) : List (Nat × Nat) → List Byte → State
  | [], _ => s
  | (a, n) :: l, bs => (s.ncWriteRange a (bs.take n)).writePieces l (bs.drop n)

/-- The bytes of pieces of physical memory, as the home agents see them. -/
def State.readPieces (s : State) : List (Nat × Nat) → State × List Byte
  | [] => (s, [])
  | (a, n) :: l =>
    let s : State := s.ncReadRange a n
    let (s, r) := s.readPieces l
    (s, s.readBytes a n ++ r)

/-- RECORD_MERGE (R95, R99): one of the waiting merges is applied by its record's home agent. -/
def execRecordMerge (index : Nat) (s : State) : Host.Outcome State Fault Refusal :=
  match s.merges[index]? with
  | none => .next s
  | some m =>
    let (s, rec) := s.readPieces m.pieces
    let (rec, bits) := m.info.into rec
    let s : State := (s.writePieces m.pieces rec).orDrain m.ctx bits
    .next { s with merges := s.merges.eraseIdx index }

-- packed rows (R49)

/-- The bytes of a row of n elements: 6-bit elements end on a group, 4-bit elements on a byte. -/
def Format.rowBytes (f : Format) (n : Nat) : Nat :=
  match f.width with
  | 4 => (n + 1) / 2
  | 6 => (n + 3) / 4 * 3
  | w => n * (w / 8)

/-- The elements of a row. -/
def Format.unpackRow (f : Format) (n : Nat) (bs : List Byte) : List Nat :=
  let v := leNat bs
  (List.range n).map (fun i => v >>> (f.width * i) % 2 ^ f.width)

/-- The number of a row's elements, the first lowest. -/
def packNat (w : Nat) : List Nat → Nat
  | [] => 0
  | x :: l => x % 2 ^ w + 2 ^ w * packNat w l

/-- The bytes of a row; unused positions are zero. -/
def Format.packRow (f : Format) (l : List Nat) : List Byte := leBytes (f.rowBytes l.length) (packNat f.width l)

/-- The class of an encoding (R93), for a result that is a bit-copy. -/
def Format.clsOf (f : Format) (bits : Nat) : Cls :=
  match f.decode bits with
  | .nan _ => .nan
  | .inf n => if n then .ninf else .pinf
  | .num _ m e _ => if m = 0 then .zero else if f.isSubnormal bits then .sub else .normal (topExp m e)

/-- A signed 16-bit study base (R97). -/
def studyBase (b : Nat) : Int := toSigned 16 b

end Sys2Proof.Machine
end

