-- ==== Sys2Proof/Machine/Operators.lean ====
section
/-! DEFINITION. The resident operators (12_host_coupling.md, R368 to R375): tensor descriptors, operator bodies, and the operators. -/

namespace Sys2Proof.Machine

-- tensor descriptors (R369)

/-- A tensor descriptor. -/
structure Tensor where
  va : Nat
  fmt : Nat
  rank : Nat
  tensorId : Nat
  shape : List Nat
  strides : List Nat
  scale : Nat
  recAddr : Nat
  recCtl : Nat
  reserved : Bool
deriving DecidableEq, Repr

/-- A descriptor's 96 bytes. -/
def Tensor.parse (b : List Byte) : Tensor :=
  let f := fun (o n : Nat) => leNat ((b.drop o).take n)
  let rank := f 9 1
  { va := f 0 8, fmt := f 8 1, rank := rank, tensorId := f 0x0C 4,
    shape := (List.range (min rank 4)).map (fun i => f (0x10 + 4 * i) 4),
    strides := (List.range (min rank 4 - 1)).map (fun i => f (0x20 + 8 * i) 8),
    scale := f 0x38 4, recAddr := f 0x40 8, recCtl := f 0x48 8,
    reserved := decide (f 0x0A 2 ≠ 0) || decide (f 0x3C 4 ≠ 0) || decide (f 0x50 16 ≠ 0)
      || (List.range 4).any (fun i => decide (rank ≤ i) && decide (f (0x10 + 4 * i) 4 ≠ 0))
      || (List.range 3).any (fun i => decide (rank ≤ i + 1) && decide (f (0x20 + 8 * i) 8 ≠ 0)) }

/-- Are a descriptor's fields in range? `lf` says that it is written in long form, whose FORMAT is ignored. -/
def Tensor.ok (t : Tensor) (lf : Bool) : Bool :=
  (lf || (Format.ofCode t.fmt).isSome) && decide (1 ≤ t.rank) && decide (t.rank ≤ 4) && !t.reserved
    && t.shape.all (fun n => decide (1 ≤ n)) && t.strides.all (fun n => decide (n % 16 = 0))

def Tensor.format (t : Tensor) : Format := (Format.ofCode t.fmt).getD .fp32
def Tensor.dim (t : Tensor) (i : Nat) : Nat := t.shape.getD i 1
def Tensor.inner (t : Tensor) : Nat := t.dim (t.rank - 1)
def Tensor.rows (t : Tensor) : Nat := (t.shape.take (t.rank - 1)).foldl (· * ·) 1
def Tensor.scaleVal (t : Tensor) : Val := Format.fp32.decode t.scale

/-- The digits of a row-major index over extents. -/
def digitsOf : List Nat → Nat → List Nat
  | [], _ => []
  | n :: l, i => (i / l.foldl (· * ·) 1) % n :: digitsOf l i

/-- The row-major index of digits, a digit of an extent of 1 counting as 0. -/
def indexOf : List Nat → List Nat → Nat → Nat
  | n :: l, d :: ds, acc => indexOf l ds (acc * n + (if n = 1 then 0 else d))
  | _, _, acc => acc

/-- The address of a row. -/
def Tensor.rowAddr (t : Tensor) (r : Nat) : Nat :=
  let ds := digitsOf (t.shape.take (t.rank - 1)) r
  ((List.range ds.length).foldl (fun a i => a + ds.getD i 0 * t.strides.getD i 0) t.va) % 2 ^ 64

/-- The rows of a tensor read by an engine, each as its elements. -/
def State.readRows (e : EngineInfo) (t : Tensor) : List Nat → State → State × CtxIo (List Nat)
  | [], s => (s, .ok [])
  | r :: l, s =>
    match s.ctxRead e (t.rowAddr r) (t.format.rowBytes t.inner) with
    | (s, .ok bs) =>
      match State.readRows e t l s with
      | (s, .ok rest) => (s, .ok (t.format.unpackRow t.inner bs ++ rest))
      | r => r
    | (s, .status n) => (s, .status n)
    | (s, .stall r) => (s, .stall r)
    | (s, .wait) => (s, .wait)

/-- The elements of tensors, each in row-major order. -/
def State.readTensors (e : EngineInfo) : List Tensor → State → State × CtxIo (List (List Nat))
  | [], s => (s, .ok [])
  | t :: l, s =>
    match State.readRows e t (List.range t.rows) s with
    | (s, .ok x) =>
      match State.readTensors e l s with
      | (s, .ok xs) => (s, .ok (x :: xs))
      | r => r
    | (s, .status n) => (s, .status n)
    | (s, .stall r) => (s, .stall r)
    | (s, .wait) => (s, .wait)

-- bodies (R370)

/-- Descriptor i of a command. -/
def Cmd.tensor (c : Cmd) (i : Nat) : Tensor := Tensor.parse ((c.inlineData.drop (96 * i)).take 96)
def Cmd.opCtl (c : Cmd) : Nat := c.field 0x10 8
def Cmd.subop (c : Cmd) : Nat := natBits c.opCtl 19 12
def Cmd.outLf (c : Cmd) : Bool := c.opCtl.testBit 6
def Cmd.opBias (c : Cmd) : Nat := natBits c.opCtl 10 9
def Cmd.opAxis (c : Cmd) : Nat := natBits c.opCtl 21 20

/-- Are the OP_CTL bits outside RM, SUBN and a mask 0, RM and SUBN no reserved values (R63), the rest of the header zero, and the
descriptors there? -/
def Cmd.bodyOk (c : Cmd) (mask descs : Nat) (params : Bool) : Bool :=
  decide (c.opCtl ||| (mask ||| 0x3F) = (mask ||| 0x3F)) && (decide (c.opCtl % 8 ≤ 4) || decide (c.opCtl % 8 = 7))
    && (decide (natBits c.opCtl 5 3 ≤ 3) || decide (natBits c.opCtl 5 3 = 7)) && c.zeroAt [(0x30, 16)]
    && (params || c.zeroAt [(0x18, 24)]) && decide (96 * descs ≤ c.inlineData.length)

/-- The rounding environment of an operator (R60 to R63). -/
def State.opEnv (s : State) (q : Nat) (c : Cmd) : RoundEnv :=
  let mode := s.reg .ctxFpMode (s.queueCtx q)
  let rm := if c.opCtl % 8 = 7 then mode.bits 2 0 else c.opCtl % 8
  let sn := if natBits c.opCtl 5 3 = 7 then mode.bits 5 4 else natBits c.opCtl 5 3
  { rm := (Rm.ofCode rm).getD .rne, flushIn := sn.testBit 0, flushOut := sn.testBit 1, sat := decide (mode.bits 6 6 = 1) }

/-- The environment of an element of an output: its draw under SR (R56). -/
def RoundEnv.at (env : RoundEnv) (seed : Word) (t : Tensor) (i : Nat) : RoundEnv :=
  if env.rm = .sr then { env with draw := srDraw seed t.tensorId i } else env

/-- The engine of a resident operator (R336). -/
def State.operEngine (s : State) (q tag : Nat) : EngineInfo :=
  { region := lowestRegion s.mode (partOfQueue s.mode q), ctx := s.queueCtx q, engine := 4, queue := q, tag := tag }

/-- A tensor that an operator writes: the rows of bytes, the first at row 0. -/
structure OpOut where
  t : Tensor
  rows : List (List Byte)
deriving DecidableEq, Repr

/-- What an operator produces: its outputs, flag events, the classes of the elements of a recorded output, further DRAIN_STATUS bits,
and RESULT. -/
structure OpRes where
  outs : List OpOut
  flags : FpFlags := FpFlags.none
  recorded : Option (Tensor × List Cls) := none
  drain : Nat := 0
  result : Nat := 0
deriving DecidableEq, Repr

/-- An output tensor's elements cut into rows of bytes. -/
def Tensor.pack (t : Tensor) (l : List Nat) : OpOut :=
  { t := t, rows := (List.range t.rows).map (fun r => t.format.packRow ((l.drop (r * t.inner)).take t.inner)) }

/-- A long-form output, in slots (R86, R88). -/
def Tensor.packLf (t : Tensor) (l : List LongForm) : OpOut :=
  { t := t, rows := (List.range t.rows).map (fun r => ((l.drop (r * t.inner)).take t.inner).flatMap LongForm.slot) }

def OpOut.ranges (o : OpOut) : List (Nat × List Byte) := (List.range o.rows.length).map (fun r => (o.t.rowAddr r, o.rows.getD r []))

/-- Ranges probed for a write. -/
def State.probeAll (e : EngineInfo) : List (Nat × Nat) → State → State × CtxIo Unit
  | [], s => (s, .ok ())
  | (va, n) :: l, s =>
    match State.probeWrite e (pagesOf (pageFuel n) va n) s with
    | (s, .ok _) => State.probeAll e l s
    | r => r

/-- Ranges written. -/
def State.writeAll (e : EngineInfo) : List (Nat × List Byte) → State → State × CtxIo Unit
  | [], s => (s, .ok ())
  | (va, bs) :: l, s =>
    match s.ctxWrite e va bs with
    | (s, .ok _) => State.writeAll e l s
    | r => r

/-- The records of a tensor's elements as one tile's (R94, R96). -/
def tileOf (base width : Nat) (l : List Cls) : TileRecord :=
  (l.zipIdx).foldl (fun (t : TileRecord) x => t.element (studyBase base) width x.2 x.1) {}

/-- The tensor record of an output brought up to date: the ranges to write, and DRAIN_STATUS bits (R95 to R99, R371). -/
def State.opRecord (s : State) (e : EngineInfo) (r : Option (Tensor × List Cls)) : State × CtxIo (List (Nat × List Byte) × Nat) :=
  match r with
  | none => (s, .ok ([], 0))
  | some (t, cls) =>
    let k := s.recordKeep e.ctx t.recAddr t.recCtl
    let tile := tileOf k.base k.width cls
    let special := if tile.specials = 0 then 0 else 1
    if k.any = false then (s, .ok ([], special))
    else
      let m : MergeInfo :=
        { keepBlot := k.blot, keepStudy := k.study, base := k.base, width := k.width, tensorId := t.tensorId, cols := t.inner,
          tile := tile }
      if k.init then
        let (b, bits) := m.into (k.initial t.tensorId)
        (s, .ok ([(t.recAddr, b)], special + bits))
      else
        match s.ctxRead e t.recAddr 512 with
        | (s, .ok old) =>
          let (b, bits) := m.into old
          (s, .ok ([(t.recAddr, b)], special + bits))
        | (s, .status n) => (s, .status n)
        | (s, .stall r) => (s, .stall r)
        | (s, .wait) => (s, .wait)

/-- What an operator produced is written: its outputs and its record, once nothing keeps any of them from being written; its events
are kept and the command ends (R371, R375). A translation fault stalls it before anything is written. -/
def State.finishOperator (s : State) (e : EngineInfo) (q seq : Nat) (r : OpRes) : State :=
  match s.opRecord e r.recorded with
  | (s, .ok (recs, bits)) =>
    let out := r.outs.flatMap OpOut.ranges ++ recs
    match State.probeAll e (out.map (fun x => (x.1, x.2.length))) s with
    | (s, .ok _) =>
      match State.writeAll e out s with
      | (s, .ok _) => ((s.orFlags e.ctx r.flags).orDrain e.ctx (r.drain + bits)).endCmd q seq 0 r.result
      | (s, x) => s.ioFail q seq x
    | (s, x) => s.ioFail q seq x
  | (s, x) => s.ioFail q seq x

/-- Does a context's edition requirement refuse its operators (R159)? -/
def State.editionRefused (s : State) (ctx : Nat) : Bool :=
  s.flag F.ctxFtRequireEnforce ctx && decide (s.rd F.ctxFtRequireEdition ctx ≠ s.rd F.devIdentFtEdition)

/-- An operator that may start with a good body runs: its inputs are read and its results written. -/
def State.runOperator (s : State) (q seq : Nat) (c : Cmd) (ins : List Tensor) (f : List (List Nat) → OpRes) : State :=
  let e := s.operEngine q c.tag
  if c.stalled.isSome then s
  else if s.editionRefused e.ctx then s.endCmd q seq 0x23
  else
    match State.readTensors e ins s with
    | (s, .ok data) => s.finishOperator e q seq (f data)
    | (s, x) => s.ioFail q seq x

-- matrix operators (R370, R371)

/-- A sum of products of element pairs, accumulated exactly, with the events of the elements' reading (R77, R57). -/
def dotAcc (cls : AccClass) (fa fb : Format) (env : RoundEnv) (terms : List (Nat × Nat)) : Acc × FpFlags :=
  terms.foldl (fun (r : Acc × FpFlags) x =>
    let a := fa.read env x.1
    let b := fb.read env x.2
    (r.1.addTerm cls (!fa.isFloat && !fb.isFloat) a.1 b.1, (r.2.or a.2).or b.2)) (Acc.clear, FpFlags.none)

/-- A sum operator's output: every element drained, or written as a long form (R82, R86). -/
def drainAll (cls : AccClass) (out : Tensor) (lf : Bool) (env : RoundEnv) (seed : Word) (scale : Val) (bias : Nat → Option Bias)
    (accs : List (Acc × FpFlags)) : OpRes :=
  let fin := accs.foldl (fun fl x => fl.or x.2) FpFlags.none
  if lf then
    { outs := [out.packLf (accs.map (fun x => ⟨cls, ⟨cls.wrap x.1.v, x.1.side⟩⟩))], flags := fin }
  else
    let rs := accs.zipIdx.map (fun x => drainElement out.format (env.at seed out x.2) scale (bias x.2) ⟨cls, x.1.1⟩)
    { outs := [out.pack (rs.map Rounded.bits)], flags := rs.foldl (fun fl r => fl.or r.flags) fin,
      recorded := some (out, rs.map Rounded.cls) }

/-- Is a bias descriptor good: rank 1, a length and a bias format (R83)? -/
def biasOk (t : Tensor) (n : Nat) : Bool :=
  t.ok false && decide (t.rank = 1) && decide (t.dim 0 = n) && t.format.isVector

/-- Is an output's record good (R97)? -/
def Tensor.recordOk (s : State) (ctx : Nat) (t : Tensor) : Bool :=
  recordCtlOk t.recCtl && (!(s.recordKeep ctx t.recAddr t.recCtl).any || decide (t.recAddr % 64 = 0))

/-- The accumulator class of two formats. -/
def tensorClass (a b : Tensor) : Option AccClass := pairClass a.format b.format

/-- The batch, rows and columns of a matrix operand, transposed or not. -/
def Tensor.matrix (t : Tensor) (trans : Bool) : Nat × Nat × Nat :=
  let o := t.rank - 2
  let (r, c) := (t.dim o, t.dim (o + 1))
  (if t.rank = 3 then t.dim 0 else 1, if trans then c else r, if trans then r else c)

/-- Element (b, i, j) of a matrix operand. -/
def Tensor.matrixAt (t : Tensor) (trans : Bool) (data : List Nat) (b i j : Nat) : Nat :=
  let o := t.rank - 2
  let b := if t.rank = 3 ∧ t.dim 0 ≠ 1 then b else 0
  let (i, j) := if trans then (j, i) else (i, j)
  data.getD ((b * t.dim o + i) * t.dim (o + 1) + j) 0

/-- MATMUL's body (R370). -/
def State.matmulOk (s : State) (q : Nat) (c : Cmd) : Bool :=
  let nb := if c.opBias = 0 then 3 else 4
  let (a, b, o) := (c.tensor 0, c.tensor 1, c.tensor 2)
  let (ba, m, k) := a.matrix (c.opCtl.testBit 7)
  let (bb, k', n) := b.matrix (c.opCtl.testBit 8)
  let (bc, m', n') := o.matrix false
  c.bodyOk 0x7C0 nb false && decide (c.opBias ≤ 2) && !(c.outLf && decide (c.opBias ≠ 0))
    && a.ok false && b.ok false && o.ok c.outLf && decide (2 ≤ a.rank) && decide (a.rank ≤ 3) && decide (2 ≤ b.rank)
    && decide (b.rank ≤ 3) && decide (o.rank = max a.rank b.rank) && (decide (ba = bb) || decide (ba = 1) || decide (bb = 1))
    && decide (bc = max ba bb) && decide (m = m') && decide (n = n') && decide (k = k') && (tensorClass a b).isSome
    && Tensor.recordOk s (s.queueCtx q) o
    && (decide (c.opBias = 0) || biasOk (c.tensor 3) (if c.opBias = 1 then n else m))

/-- A bias element of an operator's bias tensor. -/
def opBias (t : Tensor) (data : List Nat) (i : Nat) : Bias := { fmt := t.format, bits := data.getD i 0, scale := t.scale }

/-- MATMUL (R370, R371). -/
def execMatmul (q seq : Nat) (s : State) : Host.Outcome State Fault Refusal :=
  s.onStart q seq 0x20 (s.matmulOk q) (fun c =>
    let (a, b, o) := (c.tensor 0, c.tensor 1, c.tensor 2)
    let (ta, tb) := (c.opCtl.testBit 7, c.opCtl.testBit 8)
    let (_, m, k) := a.matrix ta
    let n := (b.matrix tb).2.2
    let env := s.opEnv q c
    let cls := (tensorClass a b).getD .n
    let bias := c.tensor 3
    s.runOperator q seq c ([a, b] ++ (if c.opBias = 0 then [] else [bias])) (fun data =>
      let (da, db, dbias) := (data.getD 0 [], data.getD 1 [], data.getD 2 [])
      let accs := (List.range (o.rows * o.inner)).map (fun x =>
        let (bt, i, j) := (x / (m * n), x / n % m, x % n)
        dotAcc cls a.format b.format env
          ((List.range k).map (fun kk => (a.matrixAt ta da bt i kk, b.matrixAt tb db bt kk j))))
      drainAll cls o c.outLf env (s.reg .ctxSrSeed (s.queueCtx q))
        (combinedScale [BitVec.ofNat 32 a.scale, BitVec.ofNat 32 b.scale, BitVec.ofNat 32 o.scale])
        (fun x => if c.opBias = 0 then none else some (opBias bias dbias (if c.opBias = 1 then x % n else x / n % m))) accs))

/-- CONV's body (R370). -/
def State.convOk (s : State) (q : Nat) (c : Cmd) : Bool :=
  let nb := if c.opBias = 0 then 3 else 4
  let (x, w, o) := (c.tensor 0, c.tensor 1, c.tensor 2)
  c.bodyOk 0x600 nb true && decide (c.opBias ≤ 1) && c.zeroAt [(0x24, 12)]
    && decide (1 ≤ c.field 0x18 2) && decide (1 ≤ c.field 0x1A 2) && decide (1 ≤ c.field 0x20 2) && decide (1 ≤ c.field 0x22 2)
    && x.ok false && w.ok false && o.ok false && decide (x.rank = 4) && decide (w.rank = 4) && decide (o.rank = 4)
    && decide (x.dim 0 = o.dim 0) && decide (x.dim 3 = w.dim 2) && decide (w.dim 3 = o.dim 3) && (tensorClass x w).isSome
    && Tensor.recordOk s (s.queueCtx q) o && (decide (c.opBias = 0) || biasOk (c.tensor 3) (w.dim 3))

/-- The input row or column of a filter position; none outside the input (R370). -/
def convPos (o stride pad k dil ext : Nat) : Option Nat :=
  let i : Int := ((o * stride + k * dil : Nat) : Int) - (pad : Int)
  if 0 ≤ i ∧ i < (ext : Int) then some i.toNat else none

/-- CONV (R370, R371): positions outside the input are absent terms (R108). -/
def execConv (q seq : Nat) (s : State) : Host.Outcome State Fault Refusal :=
  s.onStart q seq 0x21 (s.convOk q) (fun c =>
    let (x, w, o, bias) := (c.tensor 0, c.tensor 1, c.tensor 2, c.tensor 3)
    let env := s.opEnv q c
    let cls := (tensorClass x w).getD .n
    s.runOperator q seq c ([x, w] ++ (if c.opBias = 0 then [] else [bias])) (fun data =>
      let (dx, dw, dbias) := (data.getD 0 [], data.getD 1 [], data.getD 2 [])
      let accs := (List.range (o.rows * o.inner)).map (fun y =>
        let ds := digitsOf o.shape y
        let terms := (List.range (w.dim 0)).flatMap (fun kh => (List.range (w.dim 1)).flatMap (fun kw =>
          match convPos (ds.getD 1 0) (c.field 0x18 2) (c.field 0x1C 2) kh (c.field 0x20 2) (x.dim 1),
                convPos (ds.getD 2 0) (c.field 0x1A 2) (c.field 0x1E 2) kw (c.field 0x22 2) (x.dim 2) with
          | some ih, some iw =>
            (List.range (x.dim 3)).map (fun ch =>
              (dx.getD (((ds.getD 0 0 * x.dim 1 + ih) * x.dim 2 + iw) * x.dim 3 + ch) 0,
               dw.getD (((kh * w.dim 1 + kw) * w.dim 2 + ch) * w.dim 3 + ds.getD 3 0) 0))
          | _, _ => []))
        dotAcc cls x.format w.format env terms)
      drainAll cls o false env (s.reg .ctxSrSeed (s.queueCtx q))
        (combinedScale [BitVec.ofNat 32 x.scale, BitVec.ofNat 32 w.scale, BitVec.ofNat 32 o.scale])
        (fun y => if c.opBias = 0 then none else some (opBias bias dbias (y % w.dim 3))) accs))

-- elementwise operators (R372)

/-- A conversion of one element with its class before encoding (R65 to R68, R93). -/
def convertCls (src dst : Format) (env : RoundEnv) (scale : Val) (bits : Nat) : Rounded :=
  if src = dst ∧ scale.isOne = true then ⟨bits % 2 ^ src.width, .none, src.clsOf bits⟩
  else
    let (v, fin) := src.read env bits
    let (x, iv) := applyScale v scale
    let r := dst.round env true x
    { r with flags := (fin.or r.flags).or { iv := iv || v.isSnan } }

/-- An input element of an arithmetic operation: its value with its scale applied, and its events; IV for a signalling NaN and an
undefined scaling (R51, R52, R57). -/
def scaledInput (env : RoundEnv) (t : Tensor) (bits : Nat) : Val × FpFlags :=
  let (v, fl) := t.format.read env bits
  let (x, iv) := applyScale v t.scaleVal
  (match x with
    | .nan _ => .nan false
    | y => y, fl.or { iv := iv || v.isSnan })

/-- The lesser or the greater of two values (R177). -/
def Val.pick (greater : Bool) (x y : Val) : Val :=
  if x.isNan then y
  else if y.isNan then x
  else if (if greater then x.less true y else y.less true x) then y
  else x

/-- Is a value a nonzero finite number? -/
def Val.finiteNonzero : Val → Bool
  | .num _ m _ _ => decide (m ≠ 0)
  | _ => false

/-- A quotient and a square root with an output multiplier: an ordinary multiplier joins the operand, so that the exact result
keeps its sticky mark. -/
def divScaled (x y m : Val) : Val × Bool :=
  if m.finiteNonzero then ((x.mul m).div y, false) else applyScale (x.div y) m

def sqrtScaled (x m : Val) : Val × Bool :=
  if m.finiteNonzero then
    let r := match x with
      | .num n .. => if n && !x.isZero then Val.nan false else ((x.mul m).mul m).sqrt
      | w => w.sqrt
    (r.xorSign m.neg?, false)
  else applyScale x.sqrt m

/-- The exact result of an arithmetic operation with the output multiplier applied, whether it is invalid, and DZ. -/
def mapExact (sub : Nat) (rm : Rm) (m x y z : Val) : Val × Bool × Bool :=
  let made := fun (ins : List Val) (v : Val) => v.isNan && !ins.any Val.isNan
  let scaled := fun (v : Val) (bad : Bool) => let (w, iv) := applyScale v m; (w, iv || bad, false)
  match sub with
  | 1 => let v := Val.add rm x y; scaled v (made [x, y] v)
  | 2 => let v := Val.add rm x (y.xorSign true); scaled v (made [x, y] v)
  | 3 => let v := x.mul y; scaled v (made [x, y] v)
  | 4 =>
    let p := x.mul y
    let v := Val.add rm p z
    scaled v (made [x, y] p || made [x, y, z] v)
  | 5 =>
    let (w, iv) := divScaled x y m
    (w, iv || made [x, y] (x.div y), y.isZero && x.finiteNonzero)
  | 6 =>
    let (w, iv) := sqrtScaled x m
    (w, iv || made [x] x.sqrt, false)
  | 7 => scaled (Val.pick false x y) false
  | 8 => scaled (Val.pick true x y) false
  | _ => scaled (Val.pick true x (Val.zero false)) false

/-- One element of a MAP: SUBOP 0 converts, 1 to 9 compute once and round once, 0x10 to 0x14 run the function unit (R372). -/
def mapElement (edition sub : Nat) (env : RoundEnv) (out : Tensor) (ins : List (Tensor × Nat)) : Rounded :=
  let arg := fun (i : Nat) => ins.getD i (out, 0)
  let (t, b) := arg 0
  if sub = 0 then
    convertCls t.format out.format env (combinedScale [BitVec.ofNat 32 t.scale, BitVec.ofNat 32 out.scale]) b
  else if sub ≤ 9 then
    let xs := ins.map (fun x => scaledInput env x.1 x.2)
    let v := fun (i : Nat) => (xs.getD i (Val.zero false, FpFlags.none)).1
    let (w, iv, dz) := mapExact sub env.rm out.scaleVal (v 0) (v 1) (v 2)
    let r := out.format.round env false w
    let fin := xs.foldl (fun (fl : FpFlags) x => fl.or x.2) FpFlags.none
    { r with flags := (fin.or r.flags).or { iv := iv, dz := dz } }
  else
    let unit := if t.format = out.format ∧ (t.format = .fp16 ∨ t.format = .bf16) then t.format else .fp32
    let a := convert t.format unit env t.scaleVal b
    let u := functionUnit edition (sub - 0x10) unit env a.1
    let r := convertCls unit out.format env out.scaleVal u.1
    { r with flags := (a.2.or u.2).or r.flags }

/-- The inputs of a MAP operation. -/
def mapArity (sub : Nat) : Nat :=
  if sub = 4 then 3 else if (1 ≤ sub ∧ sub ≤ 3) ∨ sub = 5 ∨ sub = 7 ∨ sub = 8 then 2 else 1

/-- Does a SUBOP name a MAP operation? -/
def mapNamed (sub : Nat) : Bool := decide (sub ≤ 9) || (decide (0x10 ≤ sub) && decide (sub ≤ 0x14))

/-- MAP's body (R370, R372). -/
def State.mapOk (s : State) (q : Nat) (c : Cmd) : Bool :=
  let n := mapArity c.subop
  let o := c.tensor n
  let ins := (List.range n).map c.tensor
  c.bodyOk 0xFF000 (n + 1) false && mapNamed c.subop && o.ok false && Tensor.recordOk s (s.queueCtx q) o
    && ins.all (fun t => t.ok false && decide (t.rank = o.rank)
      && (List.range o.rank).all (fun d => decide (t.dim d = o.dim d) || decide (t.dim d = 1)))
    && (decide (c.subop < 10) || (o.format != .fp64 && ins.all (fun t => t.format != .fp64)))

/-- A MAP command of an operation; a command whose SUBOP names none is refused by whichever operation meets it. -/
def State.mapOp (s : State) (q seq sub : Nat) : Host.Outcome State Fault Refusal :=
  match s.cmd? q seq with
  | none => .next s
  | some c =>
    if c.subop ≠ sub ∧ mapNamed c.subop = true then .next s
    else
      s.onStart q seq 0x22 (s.mapOk q) (fun c =>
        let n := mapArity sub
        let o := c.tensor n
        let ins := (List.range n).map c.tensor
        let env := s.opEnv q c
        s.runOperator q seq c ins (fun data =>
          let rs := (List.range (o.rows * o.inner)).map (fun i =>
            let ds := digitsOf o.shape i
            mapElement (s.rd F.devIdentFtEdition) sub (env.at (s.reg .ctxSrSeed (s.queueCtx q)) o i) o
              (ins.zipIdx.map (fun x => (x.1, (data.getD x.2 []).getD (indexOf x.1.shape ds 0) 0))))
          { outs := [o.pack (rs.map Rounded.bits)], flags := rs.foldl (fun (fl : FpFlags) r => fl.or r.flags) FpFlags.none,
            recorded := some (o, rs.map Rounded.cls) }))

/-- MAP_CONVERT (R372). -/
def execMapConvert (q seq : Nat) (s : State) : Host.Outcome State Fault Refusal := s.mapOp q seq 0
/-- MAP_ADD (R372). -/
def execMapAdd (q seq : Nat) (s : State) : Host.Outcome State Fault Refusal := s.mapOp q seq 1
/-- MAP_SUBTRACT (R372). -/
def execMapSubtract (q seq : Nat) (s : State) : Host.Outcome State Fault Refusal := s.mapOp q seq 2
/-- MAP_MULTIPLY (R372). -/
def execMapMultiply (q seq : Nat) (s : State) : Host.Outcome State Fault Refusal := s.mapOp q seq 3
/-- MAP_FMA (R372). -/
def execMapFma (q seq : Nat) (s : State) : Host.Outcome State Fault Refusal := s.mapOp q seq 4
/-- MAP_DIVIDE (R372). -/
def execMapDivide (q seq : Nat) (s : State) : Host.Outcome State Fault Refusal := s.mapOp q seq 5
/-- MAP_SQUARE_ROOT (R372). -/
def execMapSquareRoot (q seq : Nat) (s : State) : Host.Outcome State Fault Refusal := s.mapOp q seq 6
/-- MAP_MIN (R372). -/
def execMapMin (q seq : Nat) (s : State) : Host.Outcome State Fault Refusal := s.mapOp q seq 7
/-- MAP_MAX (R372). -/
def execMapMax (q seq : Nat) (s : State) : Host.Outcome State Fault Refusal := s.mapOp q seq 8
/-- MAP_RELU (R372): the greater of the input and +0. -/
def execMapRelu (q seq : Nat) (s : State) : Host.Outcome State Fault Refusal := s.mapOp q seq 9
/-- MAP_EXP (R372). -/
def execMapExp (q seq : Nat) (s : State) : Host.Outcome State Fault Refusal := s.mapOp q seq 0x10
/-- MAP_LOG (R372). -/
def execMapLog (q seq : Nat) (s : State) : Host.Outcome State Fault Refusal := s.mapOp q seq 0x11
/-- MAP_RECIPROCAL_SQUARE_ROOT (R372). -/
def execMapReciprocalSquareRoot (q seq : Nat) (s : State) : Host.Outcome State Fault Refusal := s.mapOp q seq 0x12
/-- MAP_SINE (R372). -/
def execMapSine (q seq : Nat) (s : State) : Host.Outcome State Fault Refusal := s.mapOp q seq 0x13
/-- MAP_COSINE (R372). -/
def execMapCosine (q seq : Nat) (s : State) : Host.Outcome State Fault Refusal := s.mapOp q seq 0x14

-- reductions (R370 to R372)

/-- REDUCE's body. -/
def State.reduceOk (s : State) (q : Nat) (c : Cmd) : Bool :=
  let (x, o) := (c.tensor 0, c.tensor 1)
  c.bodyOk 0x3FF040 2 false && decide (c.subop ≤ 2) && !(c.outLf && decide (c.subop ≠ 0)) && x.ok false && o.ok c.outLf
    && decide (c.opAxis < x.rank) && decide (o.shape = x.shape.set c.opAxis 1) && Tensor.recordOk s (s.queueCtx q) o

/-- The elements that an output element of a reduction gathers, in order along the axis. -/
def reduceRun (x o : Tensor) (axis : Nat) (data : List Nat) (i : Nat) : List Nat :=
  let ds := digitsOf o.shape i
  (List.range (x.dim axis)).map (fun a => data.getD (indexOf x.shape (ds.set axis a) 0) 0)

/-- A REDUCE command of a sub-operation; a command whose SUBOP names none is refused by whichever meets it. -/
def State.reduceOp (s : State) (q seq sub : Nat) (f : Cmd → Tensor → Tensor → RoundEnv → List (List Nat) → OpRes) :
    Host.Outcome State Fault Refusal :=
  match s.cmd? q seq with
  | none => .next s
  | some c =>
    if c.subop ≠ sub ∧ c.subop ≤ 2 then .next s
    else
      s.onStart q seq 0x23 (s.reduceOk q) (fun c =>
        let (x, o) := (c.tensor 0, c.tensor 1)
        let env := s.opEnv q c
        s.runOperator q seq c [x] (fun data =>
          let d := data.getD 0 []
          f c x o env ((List.range (o.rows * o.inner)).map (reduceRun x o c.opAxis d))))

/-- The number 1 of a format: REDUCE sum multiplies each element by it, so that the class is the format's with itself. -/
def oneVal : Val := .num false 1 0 false

/-- REDUCE_SUM (R371): the exact sum, drained or written as long forms. -/
def execReduceSum (q seq : Nat) (s : State) : Host.Outcome State Fault Refusal :=
  s.reduceOp q seq 0 (fun c x o env runs =>
    let cls := (tensorClass x x).getD .n
    let accs := runs.map (fun run => run.foldl (fun (r : Acc × FpFlags) b =>
      let v := x.format.read env b
      (r.1.addTerm cls (!x.format.isFloat) v.1 oneVal, r.2.or v.2)) (Acc.clear, FpFlags.none))
    drainAll cls o c.outLf env (s.reg .ctxSrSeed (s.queueCtx q))
      (combinedScale [BitVec.ofNat 32 x.scale, BitVec.ofNat 32 o.scale]) (fun _ => none) accs)

/-- REDUCE min and max (R372): an element is selected under R177 and converted. -/
def State.reducePick (s : State) (q seq sub : Nat) (greater : Bool) : Host.Outcome State Fault Refusal :=
  s.reduceOp q seq sub (fun _ x o env runs =>
    let scale := combinedScale [BitVec.ofNat 32 x.scale, BitVec.ofNat 32 o.scale]
    let rs := runs.zipIdx.map (fun run =>
      let p := (run.1.drop 1).foldl (fun (a : Nat × FpFlags) b =>
        let r := fpMinMax greater x.format env a.1 b
        (r.1, a.2.or r.2)) (run.1.getD 0 0, FpFlags.none)
      let r := convertCls x.format o.format (env.at (s.reg .ctxSrSeed (s.queueCtx q)) o run.2) scale p.1
      { r with flags := p.2.or r.flags })
    { outs := [o.pack (rs.map Rounded.bits)], flags := rs.foldl (fun (fl : FpFlags) r => fl.or r.flags) FpFlags.none,
      recorded := some (o, rs.map Rounded.cls) })

/-- REDUCE_MIN (R372). -/
def execReduceMin (q seq : Nat) (s : State) : Host.Outcome State Fault Refusal := s.reducePick q seq 1 false
/-- REDUCE_MAX (R372). -/
def execReduceMax (q seq : Nat) (s : State) : Host.Outcome State Fault Refusal := s.reducePick q seq 2 true

-- SORT and SELECT (R370, R373, R374)

/-- The order of keys: numbers from −∞ to +∞, −0 before +0, then NaNs, all equal. -/
def keyLe (f : Format) (a b : Nat) : Bool :=
  let (x, y) := (f.decode a, f.decode b)
  y.isNan || (!x.isNan && !y.less true x)

/-- May a format carry a payload? -/
def payloadFormat (f : Format) : Bool :=
  match f with
  | .uint8 | .int8 | .fp32 | .fp64 => true
  | _ => false

/-- Has a SORT a payload: its inline data goes past two descriptors. -/
def Cmd.hasPayload (c : Cmd) : Bool := decide (192 < c.inlineData.length)

/-- SORT's body. -/
def Cmd.sortOk (c : Cmd) : Bool :=
  let (k, o) := (c.tensor 0, c.tensor 1)
  let (p, po) := (c.tensor 2, c.tensor 3)
  c.bodyOk 0x800 (if c.hasPayload then 4 else 2) false && k.ok false && o.ok false && decide (k.shape = o.shape)
    && decide (k.fmt = o.fmt)
    && (!c.hasPayload || (p.ok false && po.ok false && decide (p.shape = k.shape) && decide (po.shape = k.shape)
      && decide (p.fmt = po.fmt) && payloadFormat p.format))

/-- SORT (R373): each row of keys in order, equal keys in their input order, payloads with their keys. -/
def execSort (q seq : Nat) (s : State) : Host.Outcome State Fault Refusal :=
  s.onStart q seq 0x24 Cmd.sortOk (fun c =>
    let k := c.tensor 0
    let desc := c.opCtl.testBit 11
    let le : Nat × Nat → Nat × Nat → Bool := fun a b =>
      if desc then keyLe k.format b.1 a.1 else keyLe k.format a.1 b.1
    s.runOperator q seq c ([k] ++ (if c.hasPayload then [c.tensor 2] else [])) (fun data =>
      let d := (data.getD 0 []).zip (if c.hasPayload then data.getD 1 [] else data.getD 0 [])
      let rows := (List.range k.rows).flatMap (fun r => sortBy le ((d.drop (r * k.inner)).take k.inner))
      { outs := [(c.tensor 1).pack (rows.map Prod.fst)] ++ (if c.hasPayload then [(c.tensor 3).pack (rows.map Prod.snd)] else []) }))

/-- SELECT's body. -/
def Cmd.selectOk (c : Cmd) : Bool :=
  let (x, m, o) := (c.tensor 0, c.tensor 1, c.tensor 2)
  c.bodyOk 0 3 false && x.ok false && m.ok false && o.ok false && decide (x.rank = 1) && decide (m.rank = 1) && decide (o.rank = 1)
    && decide (m.dim 0 = x.dim 0) && decide (x.dim 0 ≤ o.dim 0) && decide (o.fmt = x.fmt)

/-- Is a mask element nonzero? A NaN counts as nonzero. -/
def maskOn (f : Format) (b : Nat) : Bool := !(f.decode b).isZero

/-- SELECT (R370, R374): the elements whose mask is nonzero, in input order, or under dynamic load balancing in an order that the
spec leaves open. Later output elements are unchanged. -/
def execSelect (q seq : Nat) (s : State) : Host.Outcome State Fault Refusal :=
  s.onStart q seq 0x25 Cmd.selectOk (fun c =>
    let (x, m, o) := (c.tensor 0, c.tensor 1, c.tensor 2)
    let dlb := decide (q < 32768) && s.flag F.qpDlbCtlEnable q
    let (n, s) := if dlb then s.draw else (0, s)
    let order := Config.selectOrder n
    let le : Nat × Nat → Nat × Nat → Bool := fun a b => decide (order.getD a.2 0 ≤ order.getD b.2 0)
    s.runOperator q seq c [x, m, o] (fun data =>
      let (dx, dm, dout) := (data.getD 0 [], data.getD 1 [], data.getD 2 [])
      let picked := ((dx.zip dm).filter (fun e => maskOn m.format e.2)).map Prod.fst
      let got := if dlb then (sortBy le picked.zipIdx).map Prod.fst else picked
      let row := o.format.packRow (got ++ dout.drop got.length)
      let bytes := if got.length = o.inner then row.length else min row.length (o.format.rowBytes got.length)
      { outs := if got = [] then [] else [{ t := o, rows := [row.take bytes] }], result := got.length }))

end Sys2Proof.Machine
end

