-- ==== Sys2Proof/Machine/Rdma.lean ====
section
/-! DEFINITION. RoCE v2 connections and the RDMA commands (13_ethernet_and_collectives.md, R385 to R393). -/

namespace Sys2Proof.Machine

-- engines, statuses and the bound of R393

/-- The RDMA engine of a command, and of a slot's incoming operations (R332, R336). -/
def State.rdmaEngine (s : State) (q tag : Nat) : EngineInfo :=
  { region := lowestRegion s.mode (partOfQueue s.mode q), ctx := s.queueCtx q, engine := 6, queue := q, tag := tag }

def State.inEngine (s : State) (n : Nat) : EngineInfo :=
  { region := n / 4, ctx := s.netCtx n, engine := 6, queue := 0xFFFF, tag := 0 }

/-- Does a command count against the device's bound while it runs (R393)? -/
def Cmd.isNetOp (c : Cmd) : Bool := decide (c.opcode = 0x28) || (decide (0x40 ≤ c.opcode) && decide (c.opcode ≤ 0x43))

/-- The operations counted under R393 that queues of some partitions have started. -/
def State.netOps (s : State) (own : Nat → Bool) : Nat :=
  s.queues.foldl (fun a e =>
    if own (partOfQueue s.mode e.1) then a + (e.2.cmds.filter (fun c => c.isNetOp && decide (c.phase = .running))).length else a) 0

/-- The slot that a command names, as its index. -/
def State.cmdSlot (s : State) (q slot : Nat) : Nat := s.netIdx (partOfQueue s.mode q) slot

/-- May a queue's commands use a slot: armed, with the queue's context as its network context (R381)? -/
def State.slotOpen (s : State) (q n : Nat) : Bool := decide (s.slotState n = 3) && decide (s.netCtx n = s.queueCtx q)

/-- Is a counter reference of a command good (R391): KIND 1 or 2, with nothing reserved set? -/
def netRefOk (ref : Nat) : Bool := decide (natBits ref 1 0 ≠ 0) && (refBad ref true).isNone

/-- Does a counter reference name a counter of a partition? -/
def State.refInPart (s : State) (p ref : Nat) : Bool :=
  if natBits ref 1 0 = 1 then decide (natBits ref 28 18 < 1152) && decide (partOfRegion s.mode (regionOfCore (natBits ref 28 18)) = p)
  else decide (partOfRegion s.mode (natBits ref 33 32) = p)

/-- An RDMA counter add under a context (R387, R391): a core's counter takes it only while the core runs a task of the context. -/
def State.netAdd (s : State) (ctx ref v : Nat) : State :=
  let i := natBits ref 17 8
  if natBits ref 1 0 = 1 then
    let c := natBits ref 28 18
    match s.running? c with
    | some (t, k) => if k.ctx = ctx then (s.coreAdd t c i v).settleCtr (.core c i) else s.discardAdd c ctx
    | none => s.discardAdd c ctx
  else
    let r := natBits ref 33 32
    (s.regionAdd ctx r i v).settleCtr (.region r i)

-- sending (R387, R389)

/-- The command of a flow's work, while it runs. -/
def State.workCmd (s : State) (w : SendWork) : Option Cmd :=
  (s.cmd? w.q w.cmd).filter (fun c => decide (c.phase = .running))

/-- A command's RESULT raised. -/
def State.credit (s : State) (q cmd n : Nat) : State := s.updCmd q cmd (fun c => { c with result := c.result + n })

/-- A command that has done all its work succeeds with its RESULT so far. -/
def State.succeed (s : State) (q cmd : Nat) : State :=
  match s.cmd? q cmd with
  | some c => s.endCmd q cmd 0 c.result
  | none => s

/-- A flow with its head work advanced, and a packet numbered and kept. -/
def Flow.advance (f : Flow) (w : SendWork) (more : Bool) (x : Option SentPkt) (now : Nat) : Flow :=
  { f with work := if more then { w with } :: f.work.drop 1 else f.work.drop 1,
           next := (f.next + 1) % 2 ^ 24, lastSend := if f.unacked = [] then now else f.lastSend,
           unacked := f.unacked ++ x.toList }

/-- A packet of a flow's head work is sent. In a quiet slot a write counts as acknowledged at once (R432). -/
def State.sendWork (s : State) (n rank : Nat) (w : SendWork) (len : Nat) (last : Bool) (op : RoceOp) : State :=
  let f := s.flow n rank false
  let pkt := NetPkt.roce f.next op
  let isRead := match op with
    | .readRequest _ _ => true
    | _ => false
  let acked := s.netQuiet n && !isRead
  let s : State := s.setFlow n rank false
    (f.advance { w with sent := w.sent + len } (!last) (if acked then none else some { seq := f.next, pkt := pkt, q := w.q, cmd := w.cmd })
      s.now)
  if acked then
    let s : State := s.credit w.q w.cmd len
    if last then s.succeed w.q w.cmd else s
  else s.xmit n rank pkt

/-- The signal of a command: its counter reference and value, where FLAGS asks for it. -/
def Cmd.signal (c : Cmd) : Option (Nat × Nat) :=
  if c.opcode = 0x42 ∨ (c.field 0x11 1).testBit 0 then some (c.field 0x30 8, c.field 0x38 8) else none

/-- The next packets of a connection: commands in the order they were started, up to 128 packets unacknowledged. -/
def State.pump (n rank : Nat) : Nat → State → State
  | 0, s => s
  | k + 1, s =>
    let f := s.flow n rank false
    if 128 ≤ f.unacked.length ∨ f.rnrUntil.isSome then s
    else
      match f.work with
      | [] => s
      | w :: rest =>
        match s.workCmd w with
        | none => State.pump n rank k (s.setFlow n rank false { f with work := rest })
        | some c =>
          if c.stalled.isSome then s
          else
            let len := min 4096 (c.field 0x28 8 - w.sent)
            let last := decide (c.field 0x28 8 ≤ w.sent + len)
            match c.opcode with
            | 0x42 => State.pump n rank k (s.sendWork n rank w 0 true (.write true 0 [] c.signal))
            | 0x41 => State.pump n rank k (s.sendWork n rank w len last (.readRequest ((c.field 0x20 8 + w.sent) % 2 ^ 64) len))
            | _ =>
              match s.ctxRead (s.rdmaEngine w.q c.tag) (c.field 0x18 8 + w.sent) len with
              | (s, .ok bs) =>
                State.pump n rank k
                  (s.sendWork n rank w len last (.write last ((c.field 0x20 8 + w.sent) % 2 ^ 64) bs (if last then c.signal else none)))
              | (s, .status st) => State.pump n rank k (s.failCmd w.q w.cmd st)
              | (s, r) => s.ioFail w.q w.cmd r

def State.pumpFlow (s : State) (n rank : Nat) : State := State.pump n rank 256 s

/-- Unacknowledged writes up to a packet number are acknowledged; a read among them has lost its response, and stops it. -/
def State.ackTo (n rank psn : Nat) : Nat → State → State × Bool
  | 0, s => (s, false)
  | k + 1, s =>
    let f := s.flow n rank false
    match f.unacked with
    | [] => (s, false)
    | x :: rest =>
      if seqBefore (2 ^ 24) psn x.seq then (s, false)
      else
        match x.pkt with
        | .roce _ (.write last _ d _) =>
          let s : State := s.setFlow n rank false { f with unacked := rest, expiries := 0, rto := none, lastSend := s.now }
          let s : State := s.credit x.q x.cmd d.length
          State.ackTo n rank psn k (if last then s.succeed x.q x.cmd else s)
        | _ => (s, true)

/-- An acknowledgement of everything up to a packet number: what a lost response leaves open is sent again. -/
def State.ackThrough (s : State) (n rank psn : Nat) : State :=
  match State.ackTo n rank psn (s.flow n rank false).unacked.length s with
  | (s, true) => s.resend n rank false
  | (s, false) => s

/-- A flow's packets numbered afresh from a number on. -/
def Flow.renumber (f : Flow) (m start : Nat) : Flow :=
  { f with
    unacked := f.unacked.zipIdx.map (fun x =>
      let seq := (start + x.2) % m
      { x.1 with seq := seq, pkt := (match x.1.pkt with
        | .roce _ op => .roce seq op
        | .fletus p => .fletus { p with seq := seq }
        | p => p) }),
    next := (start + f.unacked.length) % m }

/-- A command of a connection ended by its peer's answer (R388, R392): its packets are given up, and later ones take their numbers. -/
def State.failSent (s : State) (n rank psn status : Nat) : State :=
  let f := s.flow n rank false
  match f.unacked.find? (fun x => decide (x.seq = psn)) with
  | none => s
  | some x =>
    let mine := fun (q cmd : Nat) => decide (q = x.q) && decide (cmd = x.cmd)
    let f : Flow := { f with unacked := f.unacked.filter (fun y => !mine y.q y.cmd),
                             work := f.work.filter (fun w => !mine w.q w.cmd), expiries := 0, rto := none }
    ((((s.setFlow n rank false (f.renumber (2 ^ 24) psn)).failCmd x.q x.cmd status).resend n rank false).pumpFlow n rank)

-- commands (R391)

/-- The body of RDMA_WRITE and RDMA_READ. -/
def Cmd.rdmaOk (c : Cmd) : Bool :=
  decide (c.field 0x10 1 < 4) && decide (c.field 0x11 1 < 2) && c.zeroAt [(0x12, 2)] && decide (1 ≤ c.field 0x28 8)
    && decide (c.field 0x28 8 ≤ 2 ^ 40) && (decide (c.field 0x11 1 = 0) || netRefOk (c.field 0x30 8))

/-- A network command that may start: NO_JOB and BAD_RANK are checked, and the device's bound holds it back. -/
def State.netStart (s : State) (q seq : Nat) (c : Cmd) (f : Nat → Nat → State) : State :=
  let n := s.cmdSlot q (c.field 0x10 1)
  let rank := c.field 0x14 4
  if s.slotOpen q n = false then s.endCmd q seq 0x40
  else if s.rankGood n rank = false then s.endCmd q seq 0x41
  else if 65536 ≤ s.netOps (fun _ => true) then s
  else f n rank

/-- A command joins its connection's work (R387). -/
def State.startRdma (s : State) (q seq : Nat) (c : Cmd) : State :=
  s.netStart q seq c (fun n rank =>
    let s : State := s.runCmd q seq
    let f := s.flow n rank false
    (s.setFlow n rank false { f with work := f.work ++ [{ q := q, cmd := seq, sent := 0 }] }).pumpFlow n rank)

/-- An RDMA command: it starts, or, running, goes on sending. -/
def State.rdmaCmd (s : State) (q seq opcode : Nat) (ok : Cmd → Bool) : Host.Outcome State Fault Refusal :=
  match s.cmd? q seq with
  | some c =>
    if c.opcode = opcode ∧ c.phase = .running then .next (s.pumpFlow (s.cmdSlot q (c.field 0x10 1)) (c.field 0x14 4))
    else s.onStart q seq opcode ok (fun c => s.startRdma q seq c)
  | none => .next s

/-- RDMA_WRITE (R387, R391). -/
def execRdmaWrite (q seq : Nat) (s : State) : Host.Outcome State Fault Refusal := s.rdmaCmd q seq 0x40 Cmd.rdmaOk

/-- RDMA_READ (R387, R391). -/
def execRdmaRead (q seq : Nat) (s : State) : Host.Outcome State Fault Refusal := s.rdmaCmd q seq 0x41 Cmd.rdmaOk

/-- RDMA_CNT_ADD (R387, R391). -/
def execRdmaCntAdd (q seq : Nat) (s : State) : Host.Outcome State Fault Refusal :=
  s.rdmaCmd q seq 0x42 (fun c => decide (c.field 0x10 1 < 4) && c.zeroAt [(0x11, 3), (0x18, 24)] && netRefOk (c.field 0x30 8))

-- receiving (R387, R388)

/-- What an incoming operation comes to: it is done, with the data of a read; its data waits on a fault record; it is refused; or it
waits. -/
inductive Served where
  | done (data : List Byte)
  | faulted (rec : Option (Nat × Nat))
  | nak (op : RoceOp)
  | wait
deriving DecidableEq, Repr

def CtxIo.served {α : Type} (r : CtxIo α) (f : α → List Byte) : Served :=
  match r with
  | .ok a => .done (f a)
  | .stall rec => .faulted rec
  | .wait => .wait
  | .status n => .nak (if n = 0x07 then .nakAccess true else if n = 0x0B then .nakOperation else .nakAccess false)

/-- An incoming operation performed under the slot's network context. -/
def State.serve (s : State) (n : Nat) (op : RoceOp) : State × Served :=
  match op with
  | .write _ va data signal =>
    if signal.any (fun x => !(netRefOk x.1 && s.refInPart (s.netPart n) x.1)) then (s, .nak (.nakAccess false))
    else
      match State.probeWrite (s.inEngine n) (pagesOf (pageFuel data.length) va data.length) s with
      | (s, .ok _) =>
        match s.ctxWrite (s.inEngine n) va data with
        | (s, .ok _) =>
          (match signal with
            | some (ref, v) => s.netAdd (s.netCtx n) ref v
            | none => s, .done [])
        | (s, r) => (s, r.served (fun _ => []))
      | (s, r) => (s, r.served (fun _ => []))
  | .readRequest va len =>
    match s.ctxRead (s.inEngine n) va len with
    | (s, r) => (s, r.served id)
  | _ => (s, .done [])

/-- An operation's answer: a read's response, or a write held for acknowledgement. -/
def State.answerOp (s : State) (n src psn : Nat) (op : RoceOp) (data : List Byte) : State :=
  match op with
  | .readRequest _ _ =>
    let f := s.flow n src false
    (s.setFlow n src false { f with rxHeld := 0 }).sendRoce n src psn (.readResponse data)
  | _ => s.holdAck n src false

/-- A request packet of a connection (R387 to R389): in order it is performed and answered; one before it is answered again; one after
it is a sequence error. While a fault record is outstanding every packet is answered with RNR NAK. -/
def State.request (s : State) (n : Nat) (x : RxFrame) (psn : Nat) (op : RoceOp) : State × Bool :=
  let s : State := s.echoCe n x
  let f := s.flow n x.src false
  let f : Flow := if f.restart ∧ psn = 0 then { (f.renumber (2 ^ 24) 0) with expect := 0, restart := false, rxHeld := 0 } else f
  let s : State := s.setFlow n x.src false f
  let ahead := seqAhead (2 ^ 24) f.expect psn
  if f.fault.isSome then (s.sendRoce n x.src psn .nakRnr, true)
  else if ahead = 0 then
    match f.failed with
    | some u => ((s.setFlow n x.src false { f with failed := none }).sendRoce n x.src psn (.nakAccess u), true)
    | none =>
      match s.serve n op with
      | (t, .done data) =>
        let t : State := t.journalPacket x
        let g := t.flow n x.src false
        ((t.setFlow n x.src false { g with expect := (g.expect + 1) % 2 ^ 24 }).answerOp n x.src psn op data, true)
      | (t, .faulted rec) =>
        let g := t.flow n x.src false
        ((t.setFlow n x.src false { g with fault := rec }).sendRoce n x.src psn .nakRnr, true)
      | (t, .nak r) => (t.sendRoce n x.src psn r, true)
      | (t, .wait) => (t, false)
  else if ahead < 2 ^ 23 then (s.sendRoce n x.src f.expect .nakSequence, true)
  else
    match op with
    | .readRequest va len =>
      match s.ctxRead (s.inEngine n) va len with
      | (s, .ok data) => (s.sendRoce n x.src psn (.readResponse data), true)
      | (s, .wait) => (s, false)
      | (s, .status n') => (s.sendRoce n x.src psn (if n' = 0x07 then .nakAccess true else if n' = 0x0B then .nakOperation
          else .nakAccess false), true)
      | (s, .stall _) => (s.sendRoce n x.src psn .nakRnr, true)
    | _ => (s.sendRoce n x.src ((f.expect + 2 ^ 24 - 1) % 2 ^ 24) .acknowledge, true)

/-- RDMA_WRITE_PACKET (R387, R388). -/
def execRdmaWritePacket (block : Nat) (s : State) : Host.Outcome State Fault Refusal :=
  s.onPacket block (fun p => match p with
    | .roce _ (.write _ _ _ _) => true
    | _ => false) (fun s n x => match x.pkt with
    | .roce psn op => s.request n x psn op
    | _ => (s, true))

/-- RDMA_READ_REQUEST (R387, R388). -/
def execRdmaReadRequest (block : Nat) (s : State) : Host.Outcome State Fault Refusal :=
  s.onPacket block (fun p => match p with
    | .roce _ (.readRequest _ _) => true
    | _ => false) (fun s n x => match x.pkt with
    | .roce psn op => s.request n x psn op
    | _ => (s, true))

/-- The response to the oldest unacknowledged read is written locally; with the last, the local counter add is made and the command
succeeds. A translation fault holds the response. -/
def State.readBack (s : State) (n : Nat) (x : RxFrame) (psn : Nat) (data : List Byte) : State × Bool :=
  let s : State := s.echoCe n x
  let s : State := s.ackThrough n x.src ((psn + 2 ^ 24 - 1) % 2 ^ 24)
  let f := s.flow n x.src false
  match f.unacked with
  | [] => (s, true)
  | y :: rest =>
    match y.pkt with
    | .roce seq (.readRequest va len) =>
      if seq ≠ psn ∨ data.length ≠ len then (s, true)
      else
        let popped := fun (t : State) =>
          t.setFlow n x.src false { f with unacked := rest, expiries := 0, rto := none, lastSend := t.now }
        match s.workCmd { q := y.q, cmd := y.cmd, sent := 0 } with
        | none => ((popped s).pumpFlow n x.src, true)
        | some c =>
          let off := (va + 2 ^ 64 - c.field 0x20 8) % 2 ^ 64
          if c.stalled.isSome then (s, false)
          else
            match s.ctxWrite (s.rdmaEngine y.q c.tag) (c.field 0x18 8 + off) data with
            | (s, .ok _) =>
              let s : State := ((popped s).journalPacket x).credit y.q y.cmd len
              let s : State :=
                if c.field 0x28 8 ≤ off + len then
                  (match c.signal with
                    | some (ref, v) => s.netAdd (s.queueCtx y.q) ref v
                    | none => s).succeed y.q y.cmd
                else s
              (s.pumpFlow n x.src, true)
            | (s, .status st) => ((((popped s).failCmd y.q y.cmd st)).pumpFlow n x.src, true)
            | (s, .stall r) => (s.updCmd y.q y.cmd (fun c => { c with stalled := r }), false)
            | (s, .wait) => (s, false)
    | _ => (s, true)

/-- RDMA_READ_RESPONSE (R387). -/
def execRdmaReadResponse (block : Nat) (s : State) : Host.Outcome State Fault Refusal :=
  s.onPacket block (fun p => match p with
    | .roce _ (.readResponse _) => true
    | _ => false) (fun s n x => match x.pkt with
    | .roce psn (.readResponse d) => s.readBack n x psn d
    | _ => (s, true))

/-- ROCE_ACKNOWLEDGE (R387, R389). -/
def execRoceAcknowledge (block : Nat) (s : State) : Host.Outcome State Fault Refusal :=
  s.onPacket block (fun p => match p with
    | .roce _ .acknowledge => true
    | _ => false) (fun s n x => match x.pkt with
    | .roce psn _ => (((s.echoCe n x).ackThrough n x.src psn).pumpFlow n x.src, true)
    | _ => (s, true))

/-- The NAKs (R388, R389): everything before the packet is acknowledged; a sequence error sends the rest again, an RNR NAK waits
0.01 ms, and the others end the command. -/
def State.nak (s : State) (n : Nat) (x : RxFrame) (psn : Nat) (op : RoceOp) : State :=
  let s : State := (s.echoCe n x).ackThrough n x.src ((psn + 2 ^ 24 - 1) % 2 ^ 24)
  match op with
  | .nakSequence => (s.resend n x.src false).pumpFlow n x.src
  | .nakRnr =>
    let f := s.flow n x.src false
    s.setFlow n x.src false { f with rnrUntil := some (s.now + 10000), expiries := 0, rto := none }
  | .nakAccess u => s.failSent n x.src psn (if u then 0x43 else 0x44)
  | _ => s.failSent n x.src psn 0x45

/-- ROCE_NAK (R388, R389). -/
def execRoceNak (block : Nat) (s : State) : Host.Outcome State Fault Refusal :=
  s.onPacket block (fun p => match p with
    | .roce _ .nakSequence | .roce _ .nakRnr | .roce _ (.nakAccess _) | .roce _ .nakOperation => true
    | _ => false) (fun s n x => match x.pkt with
    | .roce psn op => (s.nak n x psn op, true)
    | _ => (s, true))

/-- CNP (R390). -/
def execCnp (block : Nat) (s : State) : Host.Outcome State Fault Refusal :=
  s.onPacket block (fun p => match p with
    | .roce _ .cnp => true
    | _ => false) (fun s n x => (s.setFlow n x.src false ((s.flow n x.src false).notice s.now), true))

/-- RNR_RETRY_TIMEOUT (R388): the held packets are tried again. -/
def execRnrRetryTimeout (part slot rank : Nat) (s : State) : Host.Outcome State Fault Refusal :=
  let n := s.netIdx part slot
  let f := s.flow n rank false
  if part < partCount s.mode ∧ slot < 4 ∧ f.rnrUntil.any (fun t => decide (t ≤ s.now)) = true then
    .next (((s.setFlow n rank false { f with rnrUntil := none }).resend n rank false).pumpFlow n rank)
  else .next s

-- unreachable peers (R389, R396)

/-- The commands of a flow, each once: queue and number. -/
def Flow.cmds (f : Flow) : List (Nat × Nat) :=
  (f.work.map (fun w => (w.q, w.cmd)) ++ f.unacked.map (fun x => (x.q, x.cmd))).eraseDups

/-- Commands ended with a status. -/
def State.failCmds (s : State) (l : List (Nat × Nat)) (status : Nat) : State :=
  l.foldl (fun (t : State) x => t.failCmd x.1 x.2 status) s

/-- The participants of a collective, by position (R398). -/
def CollShape.rank (c : CollShape) (i : Nat) : Nat := c.first + i * c.stride

/-- The position of a rank among the participants. -/
def CollShape.posOf (c : CollShape) (rank : Nat) : Option Nat :=
  (List.range c.count).find? (fun i => decide (c.rank i = rank))

/-- A collective of a slot ends with a status. -/
def State.endColl (s : State) (n coll status : Nat) : State :=
  let j := s.job n
  match j.colls.get? coll with
  | none => s
  | some x => (s.setJob n { j with colls := j.colls.del coll }).endCmd x.q x.cmd status

/-- A peer that a connection cannot reach (R389): its commands end, and it starts afresh; a Fletus ACK tells the peer. -/
def State.connUnreachable (s : State) (n rank : Nat) : State :=
  let s : State := s.failCmds (s.flow n rank false).cmds 0x42
  (s.setFlow n rank false {}).sendFletus n rank 0 true false .ack

/-- A peer that a stream cannot reach (R396): every collective and remote command that involves it ends, and the stream starts
afresh. -/
def State.streamUnreachable (s : State) (n rank : Nat) : State :=
  let j := s.job n
  let hit := j.colls.filter (fun (e : Nat × Coll) => (e.2.shape.posOf rank).isSome)
  let s : State := hit.foldl (fun (t : State) e => t.endColl n e.1 0x42) s
  let s : State := (j.waits.filter (fun w => decide (w.rank = rank))).foldl (fun (t : State) w => t.endCmd w.q w.cmd 0x42) s
  let j := s.job n
  let s : State := s.setJob n { j with waits := j.waits.filter (fun w => decide (w.rank ≠ rank)) }
  let f := s.flow n rank true
  s.setFlow n rank true { f with next := 0, unacked := [], restart := true, expiries := 0, rto := none }

/-- RETRANSMIT_TIMEOUT (R389, R396): without progress what is unacknowledged is sent again; the thirty-second expiry finds the peer
unreachable. -/
def execRetransmitTimeout (part slot rank : Nat) (fletus : Bool) (s : State) : Host.Outcome State Fault Refusal :=
  let n := s.netIdx part slot
  let f := s.flow n rank fletus
  if part < partCount s.mode ∧ slot < 4 ∧ f.unacked ≠ [] ∧ f.rnrUntil.isNone = true ∧ f.lastSend + s.rtoOf n f ≤ s.now then
    .next (if f.expiries + 1 < 32 then s.expire n rank fletus
      else if fletus then s.streamUnreachable n rank else s.connUnreachable n rank)
  else .next s

end Sys2Proof.Machine
end

