-- ==== Sys2Proof/Machine/Fletus.lean ====
section
/-! DEFINITION. Fletus streams, remote commands and collectives (13_ethernet_and_collectives.md, R394 to R403). -/

namespace Sys2Proof.Machine

-- streams (R396)

/-- A stream's packets acknowledged up to, and without, a sequence number. -/
def State.streamAck (s : State) (n rank ack : Nat) : State :=
  let f := s.flow n rank true
  let l := f.unacked.filter (fun x => !seqBefore (2 ^ 32) x.seq ack)
  if l.length = f.unacked.length then s
  else s.setFlow n rank true { f with unacked := l, expiries := 0, rto := none, lastSend := s.now }

/-- What every packet of a stream brings beside its message: congestion marks and notices, and the acknowledgement it carries. -/
def State.streamCommon (s : State) (n : Nat) (x : RxFrame) (p : FletusPkt) : State :=
  let s : State := s.echoCe n x
  let s : State := if p.echo then s.setFlow n x.src true ((s.flow n x.src true).notice s.now) else s
  s.streamAck n x.src p.ackSeq

/-- A NACK to a rank, at most once in 4 µs (R396). -/
def State.sendNack (s : State) (n rank : Nat) : State :=
  let f := s.flow n rank true
  if f.lastNack.any (fun t => decide (s.now < t + 4000)) then s
  else (s.setFlow n rank true { f with lastNack := some s.now, rxHeld := 0 }).sendFletus n rank 0 false false .nack

/-- What becomes of a message in sequence: taken; turned away, and asked for again (R400); or left for later. -/
inductive Taken where
  | yes | again | later
deriving DecidableEq, Repr

/-- A packet of a stream (R396): only the next in sequence is taken. -/
def State.streamIn (s : State) (n : Nat) (x : RxFrame) (p : FletusPkt) (f : State → State × Taken) : State × Bool :=
  let t : State := s.streamCommon n x p
  let fl := t.flow n x.src true
  let t : State := if p.restart ∧ p.seq = 0 then t.setFlow n x.src true { fl with expect := 0, rxHeld := 0 } else t
  if p.seq ≠ (t.flow n x.src true).expect then (t.sendNack n x.src, true)
  else
    match f t with
    | (u, .yes) =>
      let g := u.flow n x.src true
      (((u.setFlow n x.src true { g with expect := (g.expect + 1) % 2 ^ 32 }).holdAck n x.src true).journalPacket x, true)
    | (_, .again) => (t.sendNack n x.src, true)
    | (u, .later) => (u, false)

/-- A packet command for Fletus messages of a kind. -/
def State.onFletus (s : State) (b : Nat) (kind : FletusMsg → Bool) (f : State → Nat → RxFrame → FletusPkt → State × Bool) :
    Host.Outcome State Fault Refusal :=
  s.onPacket b (fun p => match p with
    | .fletus p => kind p.msg
    | _ => false) (fun s n x => match x.pkt with
    | .fletus p => f s n x p
    | _ => (s, true))

/-- FLETUS_ACK (R389, R396): with RESTART it says that the peer's RoCE connection starts afresh. -/
def execFletusAck (block : Nat) (s : State) : Host.Outcome State Fault Refusal :=
  s.onFletus block (fun m => decide (m = .ack)) (fun s n x p =>
    let s : State := s.streamCommon n x p
    (if p.restart then s.setFlow n x.src false { s.flow n x.src false with restart := true } else s, true))

/-- FLETUS_NACK (R396). -/
def execFletusNack (block : Nat) (s : State) : Host.Outcome State Fault Refusal :=
  s.onFletus block (fun m => decide (m = .nack)) (fun s n x p => ((s.streamCommon n x p).resend n x.src true, true))

-- remote commands (R403)

/-- REMOTE_OP (R391, R403): the command at CMD_VA goes to the peer. -/
def execRemoteOp (q seq : Nat) (s : State) : Host.Outcome State Fault Refusal :=
  s.onStart q seq 0x43 (fun c =>
    decide (c.field 0x10 1 < 4) && c.zeroAt [(0x11, 3), (0x21, 31)] && decide (1 ≤ c.field 0x20 1) && decide (c.field 0x20 1 ≤ 64))
    (fun c =>
      if c.stalled.isSome then s
      else
        s.netStart q seq c (fun n rank =>
          match s.ctxRead (s.rdmaEngine q c.tag) (c.field 0x18 8) (64 * c.field 0x20 1) with
          | (s, .ok bs) =>
            let s : State := s.runCmd q seq
            let j := s.job n
            let s : State := s.setJob n { j with waits := j.waits ++ [{ rank := rank, q := q, cmd := seq, tag := fieldAt bs 4 4 }] }
            s.streamSend n rank (.cmd bs) q seq
          | (s, r) => s.ioFail q seq r))

/-- The status that refuses a remote command (R403, R352): only the resident operators' opcodes are carried. -/
def Cmd.remoteRefused (c : Cmd) : Option Nat :=
  if c.opcode < 0x20 ∨ 0x25 < c.opcode then some 0x02
  else if c.flags / 8 ≠ 0 ∨ c.field 3 1 ≠ 0 ∨ c.field 8 8 ≠ 0 then some 0x01
  else none

/-- A remote command joins the slot's queue of them, or is answered at once. -/
def State.takeCmd (s : State) (n src : Nat) (bs : List Byte) : State :=
  if s.flag F.netSlotRemoteCmd n = false then
    s.streamSend n src (.cmdDone (s.remoteRecord n (fieldAt bs 4 4) 0x4D 0 0)) 0 0
  else
    let q := 32768 + n
    let x := s.queue q
    let c : Cmd := { seq := x.nextSeq, header := bs.take 64, inlineData := bs.drop 64 }
    let s : State := s.setQueue q { x with cmds := x.cmds ++ [c], nextSeq := x.nextSeq + 1 }
    let j := s.job n
    let s : State := s.setJob n { j with remote := j.remote ++ [{ seq := c.seq, src := src }] }
    match c.remoteRefused with
    | some st => s.endCmd q c.seq st
    | none => s

/-- CMD (R403). -/
def execCmd (block : Nat) (s : State) : Host.Outcome State Fault Refusal :=
  s.onFletus block (fun m => match m with
    | .cmd _ => true
    | _ => false) (fun s n x p => match p.msg with
    | .cmd bs => s.streamIn n x p (fun s => (s.takeCmd n x.src bs, .yes))
    | _ => (s, true))

/-- A peer's record ends the oldest REMOTE_OP to it with the record's tag: RESULT takes the record's first 16 bytes. -/
def State.takeDone (s : State) (n src : Nat) (rec : List Byte) : State :=
  let j := s.job n
  match j.waits.find? (fun w => decide (w.rank = src) && decide (w.tag = fieldAt rec 0 4)) with
  | none => s
  | some w =>
    let s : State := s.setJob n { j with waits := j.waits.filter (fun v => decide (v ≠ w)) }
    s.endCmd w.q w.cmd (if fieldAt rec 6 1 = 0x4D then 0x4D else 0) (fieldAt rec 0 16)

/-- CMD_DONE (R403). -/
def execCmdDone (block : Nat) (s : State) : Host.Outcome State Fault Refusal :=
  s.onFletus block (fun m => match m with
    | .cmdDone _ => true
    | _ => false) (fun s n x p => match p.msg with
    | .cmdDone rec => s.streamIn n x p (fun s => (s.takeDone n x.src rec, .yes))
    | _ => (s, true))

-- elements of collectives (R397, R399)

/-- The class of an input format (R399). -/
def Format.collClass (f : Format) : AccClass :=
  match f with
  | .fp64 => .d
  | .fp32 | .bf16 => .s
  | _ => .n

/-- The bits of an element as it is stored: its format's width, or a long-form slot. -/
def elemBits (f : Format) (lf : Bool) : Nat := if lf then 8 * f.collClass.slotBytes else f.width

/-- The bytes of a row of elements. -/
def elemRow (f : Format) (lf : Bool) (n : Nat) : Nat := if lf then n * f.collClass.slotBytes else f.rowBytes n

/-- The rows of a tensor read as elements of their stored width. -/
def State.readElems (e : EngineInfo) (t : Tensor) (lf : Bool) : List Nat → State → State × CtxIo (List Nat)
  | [], s => (s, .ok [])
  | r :: l, s =>
    match s.ctxRead e (t.rowAddr r) (elemRow t.format lf t.inner) with
    | (s, .ok bs) =>
      match State.readElems e t lf l s with
      | (s, .ok rest) =>
        let w := elemBits t.format lf
        let v := leNat bs
        (s, .ok ((List.range t.inner).map (fun i => v >>> (w * i) % 2 ^ w) ++ rest))
      | r => r
    | (s, .status n) => (s, .status n)
    | (s, .stall r) => (s, .stall r)
    | (s, .wait) => (s, .wait)

/-- Elements of their stored width written as a tensor's rows. -/
def Tensor.packElems (t : Tensor) (lf : Bool) (l : List Nat) : OpOut :=
  { t := t, rows := (List.range t.rows).map (fun r =>
      let row := (l.drop (r * t.inner)).take t.inner
      leBytes (elemRow t.format lf row.length) (packNat (elemBits t.format lf) row)) }

/-- The long form of a stored element, with its events: a native element under the subnormal mode, or a slot (R90, R397). -/
def elemForm (f : Format) (lf : Bool) (env : RoundEnv) (b : Nat) : LongForm × FpFlags × Nat :=
  if lf then
    let (x, bad) := LongForm.read (leBytes f.collClass.slotBytes b)
    (x, FpFlags.none, if bad then 32 else 0)
  else
    let v := f.read env b
    (⟨f.collClass, Acc.clear.addTerm f.collClass (!f.isFloat) v.1 oneVal⟩, v.2, 0)

/-- Long forms packed one after another, read from their bytes. -/
def unpackForms : Nat → List Byte → List LongForm
  | 0, _ => []
  | n + 1, bs =>
    let size := 8 + 8 * fieldAt bs 3 1
    (LongForm.read (bs.take size)).1 :: unpackForms n (bs.drop size)

-- shapes and ranges (R398 to R400)

/-- The elements that a collective puts out at position i: the first and the number (R399). -/
def CollShape.outRange (c : CollShape) (root i : Nat) : Nat × Nat :=
  match c.subop with
  | 1 => (i * c.elems / c.count, (i + 1) * c.elems / c.count - i * c.elems / c.count)
  | 4 => (0, if c.rank i = root then c.elems else 0)
  | 0 | 2 | 3 => (0, c.elems)
  | _ => (0, 0)

/-- The elements that position j sends to position i. -/
def CollShape.sent (c : CollShape) (root j i : Nat) : Nat × Nat :=
  if c.subop = 3 then (0, if c.rank j = root then c.elems else 0) else c.outRange root i

/-- Does a collective add long forms? -/
def CollShape.sums (c : CollShape) : Bool := decide (c.subop = 0) || decide (c.subop = 1) || decide (c.subop = 4)

/-- Does a collective's input format exist, and which is it? -/
def CollShape.format (c : CollShape) : Format := (Format.ofCode c.fmt).getD .fp32

/-- The elements that fit a packet's 8,192 bytes. -/
def CollShape.perPacket (c : CollShape) : Nat :=
  if c.inLf then 8192 / c.format.collClass.slotBytes
  else match c.format.width with
    | 4 => 16384
    | 6 => 10920
    | w => 8192 * 8 / w

/-- The DATA messages of a range of elements: whole elements, natively or as long forms; an empty range has one empty message. -/
def Coll.messages (x : Coll) (coll : Nat) (data : List Nat) : Nat → Nat → Nat → List FletusMsg
  | 0, _, _ => []
  | k + 1, first, len =>
    let m := min len x.shape.perPacket
    let els := (data.drop first).take m
    let fmt := x.shape.format
    let payload := if x.shape.inLf then
        (if x.shape.sums then els.flatMap (fun b => (elemForm fmt true x.env b).1.pack)
          else els.flatMap (leBytes fmt.collClass.slotBytes))
      else fmt.packRow els
    let msg : FletusMsg := .data coll x.use x.shape first m (!x.shape.inLf) (if x.shape.inLf then fmt.collClass.code else x.shape.fmt) payload none
    if len ≤ m then [msg] else msg :: Coll.messages x coll data k (first + m) (len - m)

-- contributions (R397, R400 to R402)

/-- Elements of a position added to a collective. -/
def Coll.addForms (x : Coll) (first : Nat) (l : List LongForm) : Coll :=
  l.zipIdx.foldl (fun (y : Coll) e =>
    let i := first + e.2
    match y.sums.get? i with
    | none => { y with sums := y.sums.set i e.1 }
    | some a =>
      let (r, ev) := a.add e.1
      { y with sums := y.sums.set i r, drain := y.drain ||| ev.toStatus }) x

def Coll.addCopies (x : Coll) (pos first : Nat) (l : List Nat) : Coll :=
  { x with copies := l.zipIdx.foldl (fun (m : NMap Nat) e => m.set (pos * x.shape.elems + first + e.2) e.1) x.copies }

/-- Stored elements of a position joined to a collective. -/
def Coll.addElems (x : Coll) (pos first : Nat) (l : List Nat) : Coll :=
  if x.shape.sums then
    let fs := l.map (elemForm x.shape.format x.shape.inLf x.env)
    let y := x.addForms first (fs.map Prod.fst)
    { y with flags := fs.foldl (fun (fl : FpFlags) f => fl.or f.2.1) y.flags,
             drain := fs.foldl (fun d f => d ||| f.2.2) y.drain }
  else x.addCopies pos first l

/-- A message's elements joined to a collective. -/
def Coll.addMsg (x : Coll) (pos first count : Nat) (native : Bool) (payload : List Byte) : Coll :=
  let y := if x.shape.sums && !native then x.addForms first (unpackForms count payload)
    else if native then x.addElems pos first (x.shape.format.unpackRow count payload)
    else x.addCopies pos first ((List.range count).map (fun i =>
      fieldAt payload (i * x.shape.format.collClass.slotBytes) x.shape.format.collClass.slotBytes))
  { y with heard := y.heard.set pos (y.heard.getD pos 0 + count) }

/-- Has every position's contribution come? -/
def Coll.complete (x : Coll) : Bool :=
  (List.range x.shape.count).all (fun j =>
    decide (j = x.pos) || decide (x.heard.get? j = some (x.shape.sent x.root j x.pos).2))

/-- The merge of another participant's record into one's own (R95, R99, R401), and DRAIN_STATUS bits. -/
def mergeRecords (own other : List Byte) : List Byte × Nat :=
  let blot := mergeBlot (recField own 0 4, recField own 4 4, recField own 8 1)
    (if recField other 8 1 = 0 then none else some (recField other 0 4, recField other 4 4, recField other 8 1))
  let count := satCount (recField own 0x0A 6) (recField other 0x0A 6)
  let differs := decide (recField own 0x10 3 ≠ recField other 0x10 3) || decide (recField own 0x18 4 ≠ recField other 0x18 4)
  let bins := (List.range 68).map (fun b =>
    satCount (recField own (0x20 + 6 * b) 6) (if differs then 0 else recField other (0x20 + 6 * b) 6))
  let sat := count.2 || bins.any Prod.snd
  let status := recField own 9 1 ||| recField other 9 1 ||| ((if sat then 2 else 0) + (if differs then 4 else 0))
  (leBytes 4 blot.1 ++ leBytes 4 blot.2.1 ++ leBytes 1 blot.2.2 ++ leBytes 1 status ++ leBytes 6 count.1
    ++ (own.drop 0x10).take 16 ++ bins.flatMap (fun b => leBytes 6 b.1) ++ (own.drop 0x1B8).take 72,
   (if sat then 2 else 0) + (if differs then 4 else 0))

-- the end of a collective

/-- A collective's outputs (R399): sums drained with no bias, or written as long forms; or bit copies. -/
def Coll.output (x : Coll) (c : Cmd) : OpRes :=
  let out := c.tensor 1
  let (first, len) := x.shape.outRange x.root x.pos
  if len = 0 then { outs := [], flags := x.flags, drain := x.drain }
  else if x.shape.sums then
    let forms := (List.range len).map (fun i => x.sums.getD (first + i) ⟨x.shape.format.collClass, Acc.clear⟩)
    if c.outLf then { outs := [out.packLf forms], flags := x.flags, drain := x.drain }
    else
      let scale := combinedScale [BitVec.ofNat 32 x.shape.scale, BitVec.ofNat 32 out.scale]
      let rs := forms.zipIdx.map (fun f => drainElement out.format (x.env.at x.seed out f.2) scale none f.1)
      { outs := [out.pack (rs.map Rounded.bits)], flags := rs.foldl (fun (fl : FpFlags) r => fl.or r.flags) x.flags,
        recorded := some (out, rs.map Rounded.cls), drain := x.drain }
  else
    let ks := if x.shape.subop = 2 then (List.range (x.shape.count * x.shape.elems))
      else (match x.shape.posOf x.root with
        | some p => (List.range x.shape.elems).map (fun i => p * x.shape.elems + i)
        | none => [])
    { outs := [out.packElems x.shape.inLf (ks.map (fun i => x.copies.getD i 0))] }

/-- A complete collective writes its output and ends (R399, R401); a translation fault stalls it. -/
def State.finishColl (s : State) (n coll : Nat) : State :=
  match (s.job n).colls.get? coll with
  | none => s
  | some x =>
    match s.workCmd { q := x.q, cmd := x.cmd, sent := 0 } with
    | none => s
    | some c =>
      if x.complete = false ∨ c.stalled.isSome then s
      else
        let e := s.operEngine x.q c.tag
        let s : State :=
          if x.shape.subop = 5 then
            let va := fieldAt c.inlineData 0 8
            match s.ctxRead e va 512 with
            | (s, .ok own) =>
              let r := x.records.foldl (fun (a : List Byte × Nat) o => let m := mergeRecords a.1 o; (m.1, a.2 ||| m.2)) (own, 0)
              (match s.ctxWrite e va r.1 with
                | (s, .ok _) => (s.orDrain e.ctx r.2).endCmd x.q x.cmd 0
                | (s, y) => s.ioFail x.q x.cmd y)
            | (s, y) => s.ioFail x.q x.cmd y
          else s.finishOperator e x.q x.cmd (x.output c)
        match s.workCmd { q := x.q, cmd := x.cmd, sent := 0 } with
        | some _ => s
        | none =>
          let j := s.job n
          s.setJob n { j with colls := j.colls.del coll }

/-- The ranks of a collective's other participants. -/
def Coll.others (x : Coll) : List Nat :=
  ((List.range x.shape.count).filter (fun i => decide (i ≠ x.pos))).map x.shape.rank

/-- A collective ends on a disagreement, and every participant hears of it (R400, R402). -/
def State.disagree (s : State) (n coll status : Nat) : State :=
  match (s.job n).colls.get? coll with
  | none => s
  | some x =>
    let msg : FletusMsg := .data coll x.use x.shape 0 0 true x.shape.fmt [] (some status)
    (s.streamAll n x.others msg x.q x.cmd).endColl n coll status

/-- A message for a collective in progress (R400, R401): a disagreement ends it; elements or a record join it. -/
def State.applyMsg (s : State) (n src : Nat) (msg : FletusMsg) : State :=
  let j := s.job n
  let go := fun (coll : Nat) (shape : CollShape) (ended : Option Nat) (f : Coll → Nat → Option Coll) =>
    match j.colls.get? coll with
    | none => s
    | some x =>
      match ended with
      | some st => s.disagree n coll st
      | none =>
        if shape ≠ x.shape then s.disagree n coll (if { shape with scale := x.shape.scale } = x.shape then 0x47 else 0x48)
        else
          match x.shape.posOf src with
          | none => s.disagree n coll 0x48
          | some p =>
            match f x p with
            | none => s.disagree n coll 0x48
            | some y => (s.setJob n { j with colls := j.colls.set coll y }).finishColl n coll
  match msg with
  | .data coll _ shape first count native _ payload ended =>
    go coll shape ended (fun x p =>
      let r := x.shape.sent x.root p x.pos
      if r.1 ≤ first ∧ first + count ≤ r.1 + r.2 then some (x.addMsg p first count native payload) else none)
  | .record coll _ shape payload =>
    go coll shape none (fun x p => some { x with records := x.records ++ [payload], heard := x.heard.set p 0 })
  | _ => s

/-- A collective in progress: its command runs. -/
def State.liveColl (s : State) (n coll : Nat) : Option Coll :=
  ((s.job n).colls.get? coll).filter (fun x => (s.workCmd { q := x.q, cmd := x.cmd, sent := 0 }).isSome)

/-- The next generation of a COLL_ID (R402). -/
def JobSlot.nextGen (j : JobSlot) (coll : Nat) : Nat := (j.gens.getD coll 0 + 1) % 256

/-- The bytes in a slot's collective buffer (R400). -/
def JobSlot.heldBytes (j : JobSlot) : Nat :=
  j.held.foldl (fun a h => a + (NetPkt.fletus { seq := 0, ackSeq := 0, echo := false, restart := false, msg := h.msg }).payloadLen) 0

/-- A DATA or RECORD packet by its generation (R400, R402): applied to its collective, held for the next one, or discarded as stale,
which ends a collective in progress. -/
def State.collIn (s : State) (b n src coll use size : Nat) (msg : FletusMsg) : State × Taken :=
  let j := s.job n
  match s.liveColl n coll with
  | some x =>
    if x.use = use then (s.applyMsg n src msg, .yes)
    else if use = j.nextGen coll then
      if 0x1000000 < j.heldBytes + size then (s, .again)
      else (s.setJob n { j with held := j.held ++ [{ src := src, msg := msg }] }, .yes)
    else ((s.bump F.portRxStaleCount b).disagree n coll 0x48, .yes)
  | none =>
    if use = j.nextGen coll then
      if 0x1000000 < j.heldBytes + size then (s, .again)
      else (s.setJob n { j with held := j.held ++ [{ src := src, msg := msg }] }, .yes)
    else (s.bump F.portRxStaleCount b, .yes)

/-- FLETUS_DATA (R397, R400, R402). -/
def execFletusData (block : Nat) (s : State) : Host.Outcome State Fault Refusal :=
  s.onFletus block (fun m => match m with
    | .data _ _ _ _ _ _ _ _ _ => true
    | _ => false) (fun s n x p => match p.msg with
    | .data coll use _ _ _ _ _ payload _ => s.streamIn n x p (fun s => s.collIn block n x.src coll use payload.length p.msg)
    | _ => (s, true))

/-- FLETUS_RECORD (R401, R402). -/
def execFletusRecord (block : Nat) (s : State) : Host.Outcome State Fault Refusal :=
  s.onFletus block (fun m => match m with
    | .record _ _ _ _ => true
    | _ => false) (fun s n x p => match p.msg with
    | .record coll use _ payload => s.streamIn n x p (fun s => s.collIn block n x.src coll use payload.length p.msg)
    | _ => (s, true))

-- COLLECTIVE commands (R398, R399)

/-- The participants and the input of a COLLECTIVE. -/
def Cmd.collShape (c : Cmd) : CollShape :=
  let t := c.tensor 0
  let plain := decide (c.subop < 5)
  let lf := plain && c.opCtl.testBit 7
  { subop := c.subop, elems := if plain then t.rows * t.inner else 0, fmt := if plain then t.fmt else 0, inLf := lf,
    scale := if plain then t.scale else 0, first := c.field 0x24 4, count := c.field 0x28 4, stride := c.field 0x2C 4 }

/-- A COLLECTIVE's body, for what the descriptors alone decide. -/
def Cmd.collOk (c : Cmd) : Bool :=
  let t := c.tensor 0
  let o := c.tensor 1
  let sums := c.collShape.sums
  let mask := if sums then 0xFF0C0 else if c.subop < 5 then 0xFF080 else 0xFF000
  c.bodyOk mask (if c.subop < 5 then 2 else 0) true && decide (c.subop ≤ 6) && decide (c.field 0x18 1 < 4) && c.zeroAt [(0x19, 3)]
    && decide (1 ≤ c.field 0x28 4) && decide (1 ≤ c.field 0x2C 4)
    && (decide (c.subop ≠ 5) || (decide (8 ≤ c.inlineData.length) && decide (fieldAt c.inlineData 0 8 % 64 = 0)))
    && (decide (5 ≤ c.subop) || (t.ok false && o.ok (sums && c.outLf)
      && (sums || decide (o.fmt = t.fmt)) && recordCtlOk o.recCtl))

/-- Does the output descriptor have the elements that a position puts out? -/
def Cmd.collOutOk (c : Cmd) (pos : Nat) : Bool :=
  let sh := c.collShape
  let o := c.tensor 1
  let len := (sh.outRange (c.field 0x20 4) pos).2
  decide (5 ≤ c.subop) || decide (len = 0) || decide (o.rows * o.inner = if c.subop = 2 then sh.count * len else len)

/-- The status that refuses a COLLECTIVE on an armed slot, and the issuer's position (R392, R398, R402). -/
def State.collRefused (s : State) (n : Nat) (c : Cmd) : Nat × Nat :=
  let sh := c.collShape
  let j := s.job n
  let coll := c.field 0x1C 4
  if s.rd F.netSlotTableCount n < sh.count then (0x01, 0)
  else
    match sh.posOf (s.ownRank n) with
    | none => (0x01, 0)
    | some pos =>
      if (List.range sh.count).any (fun i => decide (i ≠ pos) && !s.rankGood n (sh.rank i)) then (0x41, pos)
      else if c.collOutOk pos = false ∨ ((c.subop = 3 ∨ c.subop = 4) ∧ (sh.posOf (c.field 0x20 4)).isNone) then (0x01, pos)
      else if (s.liveColl n coll).isSome || (!j.gens.has coll && decide (65536 ≤ j.gens.length)) then (0x4E, pos)
      else (0, pos)

/-- The input of a COLLECTIVE that sends elements, or its tensor record. -/
def State.collInput (s : State) (e : EngineInfo) (c : Cmd) (own root : Nat) : State × CtxIo (List Nat × List Byte) :=
  if c.subop = 5 then
    match s.ctxRead e (fieldAt c.inlineData 0 8) 512 with
    | (s, .ok b) => (s, .ok ([], b))
    | (s, .status n) => (s, .status n)
    | (s, .stall r) => (s, .stall r)
    | (s, .wait) => (s, .wait)
  else if c.subop = 6 ∨ (c.subop = 3 ∧ own ≠ root) then (s, .ok ([], []))
  else
    let t := c.tensor 0
    match State.readElems e t c.collShape.inLf (List.range t.rows) s with
    | (s, .ok l) => (s, .ok (l, []))
    | (s, .status n) => (s, .status n)
    | (s, .stall r) => (s, .stall r)
    | (s, .wait) => (s, .wait)

/-- An accepted COLLECTIVE (R399, R402): its generation, its packets to every other participant, its own contribution, and the
packets that were held for it. -/
def State.issueColl (s : State) (n q seq : Nat) (c : Cmd) (pos : Nat) (data : List Nat) (rec : List Byte) : State :=
  let coll := c.field 0x1C 4
  let sh := c.collShape
  let j := s.job n
  let use := j.nextGen coll
  let x : Coll :=
    { use := use, shape := sh, root := c.field 0x20 4, pos := pos, q := q, cmd := seq, env := s.opEnv q c,
      seed := s.reg .ctxSrSeed (s.queueCtx q) }
  let own := sh.sent x.root pos pos
  let y := if sh.subop < 5 ∧ own.2 ≠ 0 then x.addElems pos own.1 ((data.drop own.1).take own.2) else x
  let mine := fun (h : HeldData) => match h.msg with
    | .data k u _ _ _ _ _ _ _ => decide (k = coll) && decide (u = use)
    | .record k u _ _ => decide (k = coll) && decide (u = use)
    | _ => false
  let s : State := (s.runCmd q seq).setJob n
    { j with gens := j.gens.set coll use, colls := j.colls.set coll y, held := j.held.filter (fun h => !mine h) }
  let s : State := ((List.range sh.count).filter (fun i => decide (i ≠ pos))).foldl (fun (t : State) i =>
    let r := sh.sent x.root pos i
    let msgs := if sh.subop = 5 then [FletusMsg.record coll use sh rec]
      else x.messages coll data (r.2 / max 1 sh.perPacket + 1) r.1 r.2
    msgs.foldl (fun (u : State) m => u.streamSend n (sh.rank i) m q seq) t) s
  let s : State := (j.held.filter mine).foldl (fun (t : State) h => t.applyMsg n h.src h.msg) s
  s.finishColl n coll

/-- A COLLECTIVE of a SUBOP starts, or, running and complete, tries again to write its output. A command whose SUBOP names none is
refused by whichever operation meets it. -/
def State.collOp (s : State) (q seq sub : Nat) : Host.Outcome State Fault Refusal :=
  match s.cmd? q seq with
  | none => .next s
  | some c =>
    if c.opcode ≠ 0x28 ∨ (c.subop ≠ sub ∧ c.subop ≤ 6) then .next s
    else if c.phase = .running then .next (s.finishColl (s.cmdSlot q (c.field 0x18 1)) (c.field 0x1C 4))
    else
      s.onStart q seq 0x28 Cmd.collOk (fun c =>
        let n := s.cmdSlot q (c.field 0x18 1)
        let e := s.operEngine q c.tag
        if c.stalled.isSome then s
        else if s.editionRefused e.ctx then s.endCmd q seq 0x23
        else if s.slotOpen q n = false then s.endCmd q seq 0x40
        else
          match s.collRefused n c with
          | (0, pos) =>
            if 65536 ≤ s.netOps (fun _ => true) then s
            else
              (match s.collInput e c (s.ownRank n) (c.field 0x20 4) with
                | (s, .ok (data, rec)) => s.issueColl n q seq c pos data rec
                | (s, r) => s.ioFail q seq r)
          | (st, _) => s.endCmd q seq st)

/-- ALL_REDUCE (R399). -/
def execAllReduce (q seq : Nat) (s : State) : Host.Outcome State Fault Refusal := s.collOp q seq 0
/-- REDUCE_SCATTER (R399). -/
def execReduceScatter (q seq : Nat) (s : State) : Host.Outcome State Fault Refusal := s.collOp q seq 1
/-- ALL_GATHER (R399). -/
def execAllGather (q seq : Nat) (s : State) : Host.Outcome State Fault Refusal := s.collOp q seq 2
/-- BROADCAST (R399). -/
def execBroadcast (q seq : Nat) (s : State) : Host.Outcome State Fault Refusal := s.collOp q seq 3
/-- REDUCE_TO_ROOT (R399). -/
def execReduceToRoot (q seq : Nat) (s : State) : Host.Outcome State Fault Refusal := s.collOp q seq 4
/-- RECORD_ALL_REDUCE (R401). -/
def execRecordAllReduce (q seq : Nat) (s : State) : Host.Outcome State Fault Refusal := s.collOp q seq 5
/-- COLLECTIVE_BARRIER (R399). -/
def execCollectiveBarrier (q seq : Nat) (s : State) : Host.Outcome State Fault Refusal := s.collOp q seq 6

end Sys2Proof.Machine
end

