-- ==== Sys2Proof/Machine/Launch.lean ====
section
/-! DEFINITION. Job slots: their load, the launch tree, teardown; the timebase's discipline; and the writes of the port and network
registers (13_ethernet_and_collectives.md, R376 to R383, R404 to R414). -/

namespace Sys2Proof.Machine

-- a slot's way to idle (R386, R402, R408, R409)

/-- A slot becomes idle: connections, streams, collectives and remote commands are gone. -/
def State.slotIdle (s : State) (n : Nat) (timedOut : Bool) : State :=
  let s : State := { s with queues := s.queues.del (32768 + n) }
  ((s.setJob n { timedOut := timedOut }).wr F.netSlotState n 0).wr F.netSlotRemoteCmd n 0

/-- The JOB_LOAD of a slot ends. -/
def State.endLoad (s : State) (n status : Nat) (result : Nat := 0) : State :=
  let j := s.job n
  match j.load with
  | some (q, seq) => (s.setJob n { j with load := none }).endCmd q seq status result
  | none => s

-- the launch tree (R404 to R408)

/-- The children of a rank (R404). -/
def State.childRanks (s : State) (n rank : Nat) : List Nat :=
  ((List.range 16).map (fun i => 16 * rank + 1 + i)).filter (fun r => decide (r < s.rd F.netSlotTableCount n))

/-- Is a rank an ancestor of another in the tree: its primary or secondary parent, or one acting for them (R404, R406)? -/
def ancestorOf : Nat → Nat → Nat → Bool
  | 0, _, _ => false
  | k + 1, a, r => if r = 0 then false else let p := (r - 1) / 16; decide (a = p) || ancestorOf k a p

/-- Two subtree results joined (R405). -/
def SubtreeResult.join (a b : SubtreeResult) : SubtreeResult :=
  { good := a.good + b.good, failed := a.failed + b.failed,
    lowest := (sortBy (fun x y => decide (x ≤ y)) (a.lowest ++ b.lowest).eraseDups).take 8 }

def State.setRound (s : State) (n : Nat) (r : LaunchRound) : State :=
  let j := s.job n
  s.setJob n { j with round := some r }

/-- The message of a round. -/
def State.roundMsg (s : State) (n : Nat) : RoundKind → FletusMsg
  | .prepare =>
    let j := s.job n
    .prepare { ranks := s.rd F.netSlotTableCount n, digest := j.digest, holdMs := j.holdMs }
  | .arm => .arm
  | .abort => .abort

/-- A round's message to ranks, each to answer within 200 µs. -/
def State.askRanks (s : State) (n : Nat) (kind : RoundKind) (ranks : List Nat) : State :=
  let j := s.job n
  match j.round with
  | none => s
  | some r =>
    let w := ranks.foldl (fun (m : NMap Nat) c => m.set c (s.now + 200000)) r.waiting
    let s : State := s.setRound n { r with waiting := w }
    ranks.foldl (fun (t : State) c => t.sendLaunch n c (t.roundMsg n kind)) s

/-- The lowest failed ranks written at FAIL_VA (R407); where the address does not translate, nothing is written. -/
def State.writeFail (s : State) (n : Nat) (l : List Nat) : State :=
  let j := s.job n
  match j.load with
  | some (q, seq) =>
    match s.cmd? q seq with
    | some c => (s.ctxWrite (s.rdmaEngine q c.tag) j.failVa (l.flatMap (leBytes 4))).1
    | none => s
  | none => s

/-- A slot arms (R405, R407): its JOB_LOAD succeeds, unless another status is given. -/
def State.armSlot (s : State) (n : Nat) (status : Nat) : State := (s.wr F.netSlotState n 3).endLoad n status

/-- A new round at rank 0 or on the way down the tree. -/
def State.startRound (s : State) (n : Nat) (kind : RoundKind) (parent : Option Nat) (prep : SubtreeResult) : State :=
  (s.setRound n { kind := kind, parent := parent, waiting := [], prep := prep }).askRanks n kind (s.childRanks n (s.ownRank n))

/-- The end of rank 0's ARM or ABORT round (R407). -/
def State.rootEnds (s : State) (n : Nat) (r : LaunchRound) : State :=
  match r.kind with
  | .abort =>
    let s : State := s.writeFail n r.prep.lowest
    (s.endLoad n 0x49 (r.prep.failed + r.prep.lowest.headD 0 * 2 ^ 32)).slotIdle n false
  | _ =>
    if r.res.failed = 0 then s.armSlot n 0
    else (s.writeFail n r.res.lowest).armSlot n 0x4B

/-- A round whose children are all settled (R405, R407): a rank answers the rank it was asked by; rank 0 decides, or ends. -/
def State.settleRound (s : State) (n : Nat) : State :=
  let j := s.job n
  match j.round with
  | none => s
  | some r =>
    if r.waiting ≠ [] then s
    else
      match r.parent, r.kind with
      | some p, .prepare =>
        let res : SubtreeResult := { r.res with good := r.res.good + 1 }
        (s.wr F.netSlotState n 2).sendLaunch n p (.prepareAck res)
      | some p, .arm => s.sendLaunch n p (.armAck { r.res with good := r.res.good + 1 })
      | some p, .abort =>
        let res : SubtreeResult := { r.res with good := r.res.good + 1 }
        ((s.sendLaunch n p (.abortAck res)).endLoad n 0x4A).slotIdle n false
      | none, .prepare =>
        let s : State :=
          if r.res.failed = 0 then (s.wr F.netSlotState n 2).startRound n .arm none r.res else s.startRound n .abort none r.res
        match (s.job n).round with
        | some t => if t.waiting = [] then s.rootEnds n t else s
        | none => s
      | none, _ => s.rootEnds n r

/-- A child of a round settled with a result; the ranks that are then asked directly (R405, R406). -/
def State.settleChild (s : State) (n child : Nat) (kind : RoundKind) (res : SubtreeResult) (ask : List Nat) : State :=
  let j := s.job n
  match j.round with
  | none => s
  | some r =>
    if r.kind ≠ kind ∨ r.waiting.has child = false then s
    else ((s.setRound n { r with waiting := r.waiting.del child, res := r.res.join res }).askRanks n kind ask).settleRound n

/-- A rank counted failed, its children to be asked directly (R406). -/
def State.failChild (s : State) (n child : Nat) (kind : RoundKind) : State :=
  s.settleChild n child kind { failed := 1, lowest := [child] } (s.childRanks n child)

/-- PREPARE (R405): the slot is checked; the children are asked, and the sender is answered once they are settled. A slot that is
already prepared, or gathering, answers the rank that asks it last (R406). -/
def State.takePrepare (s : State) (n src : Nat) (p : PrepareInfo) : State :=
  let j := s.job n
  let st := s.slotState n
  if ancestorOf 8 src (s.ownRank n) = false then s
  else if (st ≠ 1 ∧ st ≠ 2) ∨ p.ranks ≠ s.rd F.netSlotTableCount n ∨ p.digest ≠ j.digest then s.sendLaunch n src .notPrepared
  else
    match j.round with
    | some r =>
      if r.kind = .prepare then (s.setRound n { r with parent := some src }).settleRound n else s
    | none => (s.startRound n .prepare (some src) {}).settleRound n

/-- ARM (R407, R408): a prepared slot arms and forwards it; an armed one answers again. -/
def State.takeArm (s : State) (n src : Nat) : State :=
  let j := s.job n
  if ancestorOf 8 src (s.ownRank n) = false then s
  else if s.slotState n = 2 then ((s.armSlot n 0).startRound n .arm (some src) {}).settleRound n
  else
    match j.round with
    | some r => if s.slotState n = 3 ∧ r.kind = .arm then (s.setRound n { r with parent := some src }).settleRound n else s
    | none => s

/-- ABORT (R407, R408): a slot returns to loaded, forwards it, and becomes idle once its children are settled. -/
def State.takeAbort (s : State) (n src : Nat) : State :=
  let j := s.job n
  let again : Bool := match j.round with
    | some r => decide (r.kind = .abort)
    | none => false
  if ancestorOf 8 src (s.ownRank n) = false then s
  else if again then
    (match j.round with
      | some r => (s.setRound n { r with parent := some src }).settleRound n
      | none => s)
  else if s.slotState n = 1 ∨ s.slotState n = 2 then ((s.wr F.netSlotState n 1).startRound n .abort (some src) {}).settleRound n
  else s

/-- A launch message's command. -/
def State.onLaunch (s : State) (b : Nat) (kind : FletusMsg → Bool) (f : State → Nat → Nat → FletusMsg → State) :
    Host.Outcome State Fault Refusal :=
  s.onFletus b kind (fun s n x p => (f s n x.src p.msg, true))

/-- PREPARE (R405). -/
def execPrepare (block : Nat) (s : State) : Host.Outcome State Fault Refusal :=
  s.onLaunch block (fun m => match m with
    | .prepare _ => true
    | _ => false) (fun s n src m => match m with
    | .prepare p => s.takePrepare n src p
    | _ => s)

/-- PREPARE_ACK (R405). -/
def execPrepareAck (block : Nat) (s : State) : Host.Outcome State Fault Refusal :=
  s.onLaunch block (fun m => match m with
    | .prepareAck _ => true
    | _ => false) (fun s n src m => match m with
    | .prepareAck r => s.settleChild n src .prepare r []
    | _ => s)

/-- NOT_PREPARED (R405): the rank counts as failed; its children are asked directly. -/
def execNotPrepared (block : Nat) (s : State) : Host.Outcome State Fault Refusal :=
  s.onLaunch block (fun m => decide (m = .notPrepared)) (fun s n src _ => s.failChild n src .prepare)

/-- ARM (R407). -/
def execArm (block : Nat) (s : State) : Host.Outcome State Fault Refusal :=
  s.onLaunch block (fun m => decide (m = .arm)) (fun s n src _ => s.takeArm n src)

/-- ARM_ACK (R407). -/
def execArmAck (block : Nat) (s : State) : Host.Outcome State Fault Refusal :=
  s.onLaunch block (fun m => match m with
    | .armAck _ => true
    | _ => false) (fun s n src m => match m with
    | .armAck r => s.settleChild n src .arm r []
    | _ => s)

/-- ABORT (R407). -/
def execAbort (block : Nat) (s : State) : Host.Outcome State Fault Refusal :=
  s.onLaunch block (fun m => decide (m = .abort)) (fun s n src _ => s.takeAbort n src)

/-- ABORT_ACK (R407). -/
def execAbortAck (block : Nat) (s : State) : Host.Outcome State Fault Refusal :=
  s.onLaunch block (fun m => match m with
    | .abortAck _ => true
    | _ => false) (fun s n src m => match m with
    | .abortAck r => s.settleChild n src .abort r []
    | _ => s)

/-- LAUNCH_CHILD_TIMEOUT (R406): a child that has not answered within 200 µs counts as failed, and its children are asked. -/
def execLaunchChildTimeout (part slot child : Nat) (s : State) : Host.Outcome State Fault Refusal :=
  let n := s.netIdx part slot
  match (s.job n).round with
  | none => .next s
  | some r =>
    if part < partCount s.mode ∧ slot < 4 ∧ (r.waiting.get? child).any (fun t => decide (t ≤ s.now)) = true then
      .next (s.failChild n child r.kind)
    else .next s

/-- LAUNCH_HOLD_TIMEOUT (R408): a slot that has neither armed nor aborted in its hold time returns to idle. -/
def execLaunchHoldTimeout (part slot : Nat) (s : State) : Host.Outcome State Fault Refusal :=
  let n := s.netIdx part slot
  let st := s.slotState n
  if part < partCount s.mode ∧ slot < 4 ∧ (st = 1 ∨ st = 2) ∧ (s.job n).deadline ≤ s.now then
    .next ((s.endLoad n 0x4A).slotIdle n true)
  else .next s

-- JOB_LOAD (R383, R391)

/-- The address in FAIL_VA: bits 47 to 0, sign-extended. -/
def failAddr (f : Nat) : Nat := if f.testBit 47 then f + (2 ^ 64 - 2 ^ 48) else f

/-- JOB_LOAD's body. -/
def State.loadOk (s : State) (q : Nat) (c : Cmd) : Bool :=
  decide (c.field 0x10 1 < 4) && decide (c.field 0x11 1 < 4) && c.zeroAt [(0x12, 2)] && decide (c.field 0x14 4 < 2 ^ 24)
    && decide (1 ≤ c.field 0x28 4) && decide (c.field 0x28 4 ≤ 262144) && decide (c.field 0x2C 4 + c.field 0x28 4 ≤ 262144)
    && decide (c.field 0x1C 4 < c.field 0x28 4) && decide (c.field 0x3A 6 % 64 = 0) && decide (c.field 0x38 2 < 4096)
    && decide (partOfCtx s.mode (c.field 0x38 2) = partOfQueue s.mode q)

/-- The other slots of a partition that are not idle. -/
def State.otherSlots (s : State) (n : Nat) : List Nat :=
  ((List.range 4).map (fun i => n / 4 * 4 + i)).filter (fun m => decide (m ≠ n) && decide (s.slotState m ≠ 0))

/-- The entry at a place of a load image. -/
def imageEntry (b : List Byte) (k : Nat) : RankEntry × Nat :=
  let e := (b.drop (16 * k)).take 16
  ({ pre := BitVec.ofNat 64 (fieldAt e 0 8), nextHop := fieldAt e 8 6, port := fieldAt e 14 1, valid := decide (fieldAt e 15 1 % 2 = 1) },
   fieldAt e 15 1)

/-- Is an image good: no reserved bit, every valid entry's port in the partition and existing, and its range clear of the other
slots' ranges (R383)? -/
def State.imageOk (s : State) (n base count : Nat) (b : List Byte) : Bool :=
  (List.range count).all (fun k =>
    let (e, flags) := imageEntry b k
    decide (flags < 2) && (!e.valid || (match s.portNumber e.port with
      | some (blk, _) => decide (partOfRegion s.mode (blk / 2) = s.netPart n)
      | none => false)))
    && (s.otherSlots n).all (fun m =>
      !rangesMeet base count (s.rd F.netSlotTableBase m) (s.rd F.netSlotTableCount m))

/-- The entries of an image in the rank table. -/
def State.loadRanks (s : State) (n base count : Nat) (b : List Byte) : State :=
  { s with ranks := (List.range count).foldl (fun (m : NMap RankEntry) k =>
      m.set (n / 4 * 262144 + base + k) (imageEntry b k).1) s.ranks }

/-- A slot loaded with a job. -/
def State.loadSlot (s : State) (n q seq : Nat) (c : Cmd) (b : List Byte) : State :=
  let s : State := s.loadRanks n (c.field 0x2C 4) (c.field 0x28 4) b
  let s : State := (s.wr F.netSlotJob n (c.field 0x14 4)).wr F.netSlotEpoch n (c.field 0x18 2)
  let s : State := ((s.wr F.netSlotOwnRank n (c.field 0x1C 4)).wr F.netSlotState n 1).wr F.netSlotRemoteCmd n (c.field 0x11 1 / 2)
  let s : State := ((s.wr F.netSlotTableBase n (c.field 0x2C 4)).wr F.netSlotTableCount n (c.field 0x28 4)).wr F.netSlotTableContext n
    (c.field 0x38 2)
  let hold := if c.field 0x1A 2 = 0 then 1000 else c.field 0x1A 2
  let launcher := (c.field 0x11 1).testBit 0 && decide (c.field 0x1C 4 = 0)
  let s : State := s.setJob n
    { digest := c.field 0x30 8, holdMs := hold, launcher := launcher, deadline := s.now + hold * 1000000,
      failVa := failAddr (c.field 0x3A 6), load := some (q, seq) }
  s.runCmd q seq

/-- The journalled completion of a command's tag in a replay: its status (R432). -/
def State.journalledStatus (s : State) (q : Nat) (c : Cmd) : Option Nat :=
  let p := partOfQueue s.mode q
  ((s.jAll p).find? (fun e =>
    decide (e.kind = 0x0A) && decide (e.source = s.queueOff q) && decide (s.rd F.skbNextSeqSeq (s.skbIdx p) ≤ e.seq)
      && decide (fieldAt (s.jPayload p e) 0 4 = c.tag))).map (fun e => fieldAt (s.jPayload p e) 6 1)

/-- A loaded slot's launch: rank 0 with LAUNCH begins the PREPARE round; a replayed slot takes its journalled completion. -/
def State.beginLaunch (s : State) (n q : Nat) (c : Cmd) : State :=
  if s.netQuiet n then
    match s.journalledStatus q c with
    | some 0 => s.armSlot n 0
    | some st => (s.endLoad n st).slotIdle n false
    | none => s
  else if (s.job n).launcher then (s.startRound n .prepare none {}).settleRound n
  else s

/-- JOB_LOAD (R383, R391, R405): the slot must be idle, and the job held by no other slot. -/
def execJobLoad (q seq : Nat) (s : State) : Host.Outcome State Fault Refusal :=
  s.onStart q seq 0x48 (s.loadOk q) (fun c =>
    let n := s.cmdSlot q (c.field 0x10 1)
    if c.stalled.isSome then s
    else if s.slotState n ≠ 0 then s.endCmd q seq 0x4C
    else if (s.otherSlots n).any (fun m => decide (s.rd F.netSlotJob m = c.field 0x14 4)) then s.endCmd q seq 0x4F
    else
      match s.ctxRead (s.rdmaEngine q c.tag) (c.field 0x20 8) (16 * c.field 0x28 4) with
      | (s, .ok b) =>
        if s.imageOk n (c.field 0x2C 4) (c.field 0x28 4) b then (s.loadSlot n q seq c b).beginLaunch n q c
        else s.endCmd q seq 0x01
      | (s, r) => s.ioFail q seq r)

-- teardown (R409)

/-- Every command of a slot ends with JOB_ENDED; packets already sent stay to be acknowledged. -/
def State.endSlotCmds (s : State) (n : Nat) : State :=
  let j := s.job n
  let s : State := s.failCmds (j.conns.flatMap (fun (e : Nat × Flow) => e.2.cmds)) 0x46
  let s : State := (j.colls.map (fun (e : Nat × Coll) => (e.2.q, e.2.cmd)) ++ j.waits.map (fun w => (w.q, w.cmd))).foldl
    (fun (t : State) x => t.endCmd x.1 x.2 0x46) s
  let j := s.job n
  let conns := j.conns.map (fun (e : Nat × Flow) =>
    let f := e.2
    (e.1, { f with work := [] }))
  s.setJob n { j with conns := conns, colls := [], waits := [], round := none }

/-- JOB_TEARDOWN (R409). -/
def execJobTeardown (q seq : Nat) (s : State) : Host.Outcome State Fault Refusal :=
  s.onStart q seq 0x4A (fun c => decide (c.field 0x10 1 < 4) && c.zeroAt [(0x11, 47)]) (fun c =>
    let n := s.cmdSlot q (c.field 0x10 1)
    let st := s.slotState n
    if st = 0 ∨ st = 4 then s.endCmd q seq 0x40
    else
      let s : State := ((s.endLoad n 0x4A).endSlotCmds n).wr F.netSlotState n 4
      let j := s.job n
      (s.setJob n { j with teardown := some (q, seq, s.now + 10000000) }).runCmd q seq)

/-- TEARDOWN_DONE (R409): nothing that the slot sent is unacknowledged, or 10 ms have passed. -/
def execTeardownDone (part slot : Nat) (s : State) : Host.Outcome State Fault Refusal :=
  let n := s.netIdx part slot
  let j := s.job n
  match j.teardown with
  | none => .next s
  | some (q, seq, limit) =>
    let quiet := (j.conns ++ j.streams).all (fun (e : Nat × Flow) => decide (e.2.unacked = []))
    if part < partCount s.mode ∧ slot < 4 ∧ s.slotState n = 4 ∧ (quiet = true ∨ limit ≤ s.now) then
      .next ((s.slotIdle n false).endCmd q seq 0)
    else .next s

-- the timebase (R410, R411, R414)

/-- A number of w bits, two's complement, saturating. -/
def satSigned (w : Nat) (i : Int) : Nat :=
  let m : Int := ((2 ^ (w - 1) : Nat) : Int)
  toUnsigned w (max (-m) (min i (m - 1)))

/-- PTP_SYNC (R411): a synchronisation of the servo, with its offset, residual and rate. -/
def execPtpSync (offset residual rate : Int) (s : State) : Host.Outcome State Fault Refusal :=
  if s.flag F.tbCfgPtpEn 0 then
    let s : State := s.wr F.tbRatePpb 0 (toUnsigned 32 (max (-200000) (min rate 200000)))
    let s : State := (s.wr F.tbStatusResidualNs 0 (satSigned 32 residual)).wr F.tbPtpOffsetOffset 0 (toUnsigned 64 offset)
    let near := decide (residual.natAbs ≤ 100)
    let good := if near then s.ptp.good + 1 else 0
    let s : State := { s with ptp := { good := good, last := s.now } }
    .next (if 16 ≤ good then s.wr F.tbStatusLocked 0 1
      else if 1000 < residual.natAbs then s.wr F.tbStatusLocked 0 0 else s)
  else .next s

/-- PTP_SYNC_LOSS (R411): no synchronisation for 4 s; the last rate is held. -/
def execPtpSyncLoss (s : State) : Host.Outcome State Fault Refusal :=
  if s.flag F.tbStatusLocked 0 ∧ s.ptp.last + 4000000000 ≤ s.now then
    .next { s.wr F.tbStatusLocked 0 0 with ptp := { good := 0, last := s.ptp.last } }
  else .next s

-- register writes (R378, R380, R412, R413)

/-- A write of PORT.CFG (R378): SPLIT is kept in flash too, and takes effect at the next reset. -/
def State.writePortCfg (s : State) (q : RegWriteReq) : State :=
  let fl := s.flash
  let s : State := if q.covers F.portCfgSplit then
      let split := fl.split - (if fl.split.testBit q.n then 2 ^ q.n else 0) + q.new F.portCfgSplit * 2 ^ q.n
      { s with flash := { fl with split := split } } else s
  (List.range 8).foldl (fun (t : State) i => t.settlePfc q.n i) (s.store q)

/-- SPLIT_WRITE (R378): a write of PORT.CFG that covers SPLIT. -/
def execSplitWrite (a : Access) (s : State) : Host.Outcome State Fault Refusal :=
  s.onWrite a [.portCfg] (fun q => if q.covers F.portCfgSplit then s.writePortCfg q else s)

/-- Is every slot of a partition idle? -/
def State.slotsIdle (s : State) (p : Nat) : Bool := (List.range 4).all (fun i => decide (s.slotState (s.netIdx p i) = 0))

/-- A write of PORT.MAC_k or PORT.PREFIX_k (R412): ignored and logged while any slot of the partition is not idle. -/
def State.writePortAddr (s : State) (q : RegWriteReq) : State :=
  if s.slotsIdle (partOfRegion s.mode (q.n / 4)) then s.store q else s.accessError

/-- A write of NET.CFG (R413): only while every slot is idle; RTO_US below 8 is ignored. -/
def State.writeNetCfg (s : State) (q : RegWriteReq) : State :=
  if s.slotsIdle (partOfRegion s.mode q.n) then s.store (if q.new F.netCfgRtoUs < 8 then q.keep F.netCfgRtoUs else q)
  else s.accessError

end Sys2Proof.Machine
end

