-- ==== Sys2Proof/Machine/RegAccess.lean ====
section
/-! DEFINITION. Register writes by register, register reads, and the commands REGISTER_WRITE and COUNT_CTL_CLEAR (R18, R19, R40, and
the register tables of 00 to 19). -/

namespace Sys2Proof.Machine

-- writes whose only rule is a check of the fields

/-- A write of DEV.PART_CFG (R33): MODE_NEXT keeps its value where 3 is written; MODE_CHANGE_PENDING follows. -/
def State.writePartCfg (s : State) (q : RegWriteReq) : State :=
  let q := if q.new F.devPartCfgModeNext = 3 then q.keep F.devPartCfgModeNext else q
  let s : State := s.store q
  s.wr F.devPartStatusModeChangePending 0 (if s.rd F.devPartCfgModeNext = s.mode then 0 else 1)

/-- A write of CTX.FP_MODE (R60): a reserved RM keeps the field; every SUBN is defined. -/
def State.writeFpMode (s : State) (q : RegWriteReq) : State :=
  s.store (if 4 < q.new F.ctxFpModeRm then q.keep F.ctxFpModeRm else q)

/-- A write of CTX.DRAIN_CFG (R101): a STUDY_WIDTH outside 1 to 16 keeps the field. -/
def State.writeDrainCfg (s : State) (q : RegWriteReq) : State :=
  let w := q.new F.ctxDrainCfgStudyWidth
  s.store (if w = 0 ∨ 16 < w then q.keep F.ctxDrainCfgStudyWidth else q)

/-- A write of CTX.FAULT_RING (R148, R551): a size outside 6 to 16 keeps the field; a ring outside the partition's tiers is ignored and
logged. -/
def State.writeFaultRing (s : State) (q : RegWriteReq) : State :=
  let l := q.new F.ctxFaultRingLog2Records
  let q := if 6 ≤ l ∧ l ≤ 16 then q else q.keep F.ctxFaultRingLog2Records
  if s.rangeInTiers (partOfCtx s.mode q.n) (q.new F.ctxFaultRingBase * 4096) (64 * 2 ^ q.new F.ctxFaultRingLog2Records) then s.store q
  else s.accessError

/-- The event counters of a block's COUNT_CTL, and its CLEAR field (R122, R269, R288, R311, R339; 07's registers). -/
def countersOf : Reg → Option (Fld × List Reg)
  | .mxuCountCtl => some (F.mxuCountCtlClear,
      [.mxuActiveSteps, .mxuFeedWaitSteps, .mxuDrainWaitSteps, .mxuHazeBubbles, .mxuProducts])
  | .schCountCtl => some (F.schCountCtlClear,
      [.schIssues, .schPartialIssues, .schBankReplays, .schBankWaits, .schNcHits, .schNcMisses, .schAgePromotions])
  | .l2CountCtl => some (F.l2CountCtlClear, [.l2Hits, .l2Misses, .l2Writebacks, .l2VictimsDeclined, .l2StreamWrites])
  | .stkCountCtl => some (F.stkCountCtlClear,
      [.stkReadBytes, .stkWriteBytes, .stkTurnarounds, .stkRowConflicts, .stkThrottleNs, .stkExactWraps])
  | .xltCountCtl => some (F.xltCountCtlClear, [.xltDemandWalks, .xltPrefetchWalks, .xltPrefetchUsed])
  | .regCohCountCtl => some (F.regCohCountCtlClear, [.regCohSnoops, .regCohRecalls, .regCohDrops, .regCohPurges])
  | _ => none

/-- A write of a COUNT_CTL register: RUN is stored, and CLEAR zeroes the block's counters. A stack's time under throttling is counted up
to the write first. -/
def State.writeCountCtl (s : State) (q : RegWriteReq) : State :=
  match countersOf q.reg with
  | none => s
  | some (clear, rs) =>
    let s : State := if q.reg = .stkCountCtl then s.throttleAcc q.n else s
    let s : State := s.store q
    if q.wrote clear = 1 then rs.foldl (fun (t : State) r => t.clearReg r q.n) s else s

/-- May the FWU registers be written: STATE is idle, staged or armed for a reset (R478)? -/
def State.fwuOpen (s : State) : Bool :=
  let st := s.rd F.fwuStatusState
  decide (st = 0) || decide (st = 2) || decide (st = 6)

/-- A write of FWU.STAGE_ADDR (R478). -/
def State.writeStageAddr (s : State) (q : RegWriteReq) : State := if s.fwuOpen then s.store q else s.accessError

/-- A write of FWU.STAGE_CTL (R470, R478). -/
def State.writeStageCtl (s : State) (e : WriteEnv) (q : RegWriteReq) : State :=
  if q.wrote F.fwuStageCtlGo = 1 then s.fwuRequest true q.raw e.digestOk e.signaturesOk
  else if s.fwuOpen then s else s.accessError

/-- A write of CAL.CTL (R499): EXPORT, then IMPORT. An export or import is over within its own write, so BUSY holds none back. -/
def State.writeCalCtl (s : State) (e : WriteEnv) (q : RegWriteReq) : State :=
  let s : State := if q.wrote F.calCtlExport = 1 then s.calExport else s
  if q.wrote F.calCtlImport = 1 then s.calImport e.rangesOk (decide (q.wrote F.calCtlForce = 1)) else s

/-- A write of FWU.ACTIVATE (R471, R476 to R478). -/
def State.writeFwuActivate (s : State) (q : RegWriteReq) : State :=
  if q.wrote F.fwuActivateCancel = 1 ∨ q.wrote F.fwuActivateGo = 1 then s.writeActivate q
  else if s.fwuOpen then s else s.accessError

/-- A register written, by its own rule; every other register takes its RW and W1C bits as they were merged (R18, R19). -/
def State.regWrite (s : State) (e : WriteEnv) (q : RegWriteReq) : State :=
  match q.reg with
  | .devPartCfg => s.writePartCfg q
  | .devPartCtl => s.writePartCtl e.test q
  | .ctxFpMode => s.writeFpMode q
  | .ctxDrainCfg => s.writeDrainCfg q
  | .mxuCountCtl | .schCountCtl | .l2CountCtl | .stkCountCtl | .xltCountCtl | .regCohCountCtl => s.writeCountCtl q
  | .ctxState => s.writeCtxState q
  | .ctxFaultRing => s.writeFaultRing q
  | .ctxFaultRead => s.writeFaultRead q
  | .ctxFaultPolicy => s.writeFaultPolicy q
  | .regCntOwner => s.writeCntOwner q
  | .regSramCfg => s.writeSramCfg q
  | .regGrantNear | .regGrantFar | .regGrantScratch => s.writeGrant q
  | .ctxPtRoot | .ctxPtCtl => s.writePt q
  | .ctxTlbInv => s.writeTlbInv q
  | .regXfrBase => s.writeXfrBase q
  | .regXfrRead => s.writeXfrRead q
  | .regXfrRespond => s.writeXfrRespond q
  | .hifVfCfg => s.writeVfCfg q
  | .qpCfg => s.writeQpCfg q
  | .qpSqBase | .qpCqBase => s.writeQpBase q
  | .qpDlbCtl => s.writeQpDlb q
  | .hifSessionCtl => s.writeSessionCtl q
  | .hifToken => s.writeToken q
  | .hifHeartbeat => s.writeHeartbeat q
  | .hwtEntry => s.writeHwt q
  | .awtWin => s.writeAwt q
  | .portCfg => s.writePortCfg q
  | .portMac | .portPrefix => s.writePortAddr q
  | .netCfg => s.writeNetCfg q
  | .skbCfg => s.writeSkbCfg q
  | .skbBase | .skbReplayLen | .skbCtx => s.writeSkbSetup q
  | .skbPauseSeq => s.writePauseSeq q
  | .skbMark => s.writeSkbMark q
  | .skbCheckAddr => s.writeCheckAddr q
  | .skbCheckLen => s.writeCheckLen q
  | .pwrCap => s.writePwrCap q
  | .pwrShare => s.writePwrShare q
  | .regPwrCfg => s.writePwrCfg q
  | .fwuStageAddr => s.writeStageAddr q
  | .fwuStageCtl => s.writeStageCtl e q
  | .fwuActivate => s.writeFwuActivate q
  | .rasCfg => s.writeRasCfg q
  | .rasIsolate => s.writeIsolate q
  | .calCtl => s.writeCalCtl e q
  | .regEvtBase => s.writeEvtBase q
  | .portSecCfg => s.writeSecCfg q
  | .ctxMemCrypt => s.writeMemCrypt q
  | .mgtSideCfg => s.writeSide q
  | .devResetCtl => s.writeResetCtl e.test q
  | _ => s.store q

/-- A register write of any requester, through the gate of R18, R36 and R40. -/
def State.writeAccess (s : State) (e : WriteEnv) (a : Access) : State :=
  match s.writeGate a with
  | .refuse => s.accessError
  | .ignore => s
  | .go q => s.regWrite e q

/-- REGISTER_WRITE (R19): a write of a register. -/
def execRegisterWrite (a : Access) (s : State) : Host.Outcome State Fault Refusal := .next (s.writeAccess {} a)

/-- COUNT_CTL_CLEAR (R122, R269, R288, R311, R339): a write of 1 to CLEAR of a COUNT_CTL register. -/
def execCountCtlClear (a : Access) (s : State) : Host.Outcome State Fault Refusal :=
  s.onWrite a [.mxuCountCtl, .schCountCtl, .l2CountCtl, .stkCountCtl, .xltCountCtl, .regCohCountCtl] (fun q =>
    match countersOf q.reg with
    | some (clear, _) => if q.wrote clear = 1 then s.writeCountCtl q else s
    | none => s)

-- reads

/-- A field placed in a word that a read builds. -/
def Fld.put (f : Fld) (v : Nat) (w : Word) (k : Nat := 0) : Word := w.setBits (f.hi + k * f.step) (f.lo + k * f.step) v

/-- MXU.STATUS (R122). A drain is in progress while the drain at the queue's head waits at an address. -/
def State.mxuStatusWord (s : State) (c : Nat) : Word :=
  let x : CoreSt := s.core c
  let layout := match s.running? c with
    | some (_, k) => k.desc.layout + 1
    | none => 0
  let drain := x.mxStall.isSome && (match x.mxq with
    | e :: _ => (match e.op with
      | .drain _ => true
      | _ => false)
    | [] => false)
  F.mxuStatusLayout.put layout (F.mxuStatusQueueOcc.put x.mxq.length (F.mxuStatusDrainBusy.put (if drain then 1 else 0) 0))

/-- The sets of a group's live threads: the program counters of those that run, each counted once (R205). -/
def Group.pcSets (g : Group) : Nat :=
  ((g.pcs.zip g.stats).filterMap (fun e => if e.2 = .exited then none else some e.1)).eraseDups.length

/-- SCH.STATUS. -/
def State.schStatusWord (s : State) (c : Nat) : Word :=
  let gs := (s.core c).groups.map Prod.snd
  let atBar := gs.filter (fun g => g.stats.any (fun t => match t with
    | .barrier _ _ => true
    | _ => false))
  F.schStatusGroupsResident.put gs.length (F.schStatusWgResident.put (s.core c).slots.length
    (F.schStatusGroupsAtBarrier.put atBar.length
      (F.schStatusGroupsWaiting.put (gs.filter (fun g => g.wait.isSome)).length
        (F.schStatusGroupsDiverged.put (gs.filter (fun g => decide (1 < g.pcSets))).length 0))))

/-- CNT.STATUS (R258). -/
def State.cntStatusWord (s : State) (c : Nat) : Word :=
  let x : CoreSt := s.core c
  F.cntStatusRetention.put (if x.retained then 1 else 0)
    (F.cntStatusNextBound.put (if x.bound.any (fun t => decide (x.task ≠ some t)) then 1 else 0)
      (F.cntStatusTxnOcc.put (x.txnOcc c)
        (F.cntStatusTm0Occ.put x.tm0.length (F.cntStatusTm1Occ.put x.tm1.length 0))))

/-- Engines of a cluster that wait on records of the fault ring (R339). -/
def State.clusterStalled (s : State) (k : Nat) : Nat :=
  ((List.range 8).map (fun i =>
    let x : CoreSt := s.core (8 * k + i)
    (x.groups.filter (fun g => g.2.fetchWait.isSome)).length
      + (x.txns.filter (fun t => match t.kind with
          | .stalled _ (some _) => true
          | _ => false)).length
      + x.tmStall.length + (if x.mxStall.isSome then 1 else 0))).sum

/-- How many bytes two ranges share. -/
def sharedBytes (a n b m : Nat) : Nat := min (a + n) (b + m) - max a b

/-- Free space of a tier in 64 KiB units (R279): the tier less the pages handed out, those withdrawn and the sketchbook's range. -/
def State.freeUnits (s : State) (r base size : Nat) : Nat :=
  let p := partOfRegion s.mode r
  let used := (s.pages.map (fun (e : Nat × PoolPage) => sharedBytes base size e.1 (2 ^ e.2.log2))).sum
  let gone := (s.flash.withdrawn.map (fun w => sharedBytes base size (w * 65536) 65536)).sum
  let held := if s.flag F.skbStatusReservedHeld (s.skbIdx p) then sharedBytes base size (s.skbBase p) (s.skbRange p) else 0
  (size - used - gone - held) / 65536

/-- Requests held at some channel controllers (R277, R288). -/
def State.heldAt (s : State) (test : Nat → Bool) : Nat :=
  ((s.channels.filter (fun e => test e.1)).map (fun e => e.2.writes.length)).sum

/-- Lines on their way from the canvases to a region's SRAM (R268, R274). -/
def State.offersTo (s : State) (r : Nat) : Nat :=
  (s.canvases.map (fun e => (e.2.offers.filter (fun v => decide ((s.paKind (v.line * 128)).region? = some r))).length)).sum

/-- The fields of a register that are formed when it is read, over its stored word. -/
def State.formed (s : State) (r : Reg) (n : Nat) : Word :=
  let w := s.reg r n
  match r with
  | .mxuStatus => s.mxuStatusWord n
  | .schStatus => s.schStatusWord n
  | .cntStatus => s.cntStatusWord n
  | .cntValue => BitVec.ofNat 64 ((s.core (n / r.place.count)).ctrs.getD (n % r.place.count) 0)
  | .regCntStatus => F.regCntStatusWaitOcc.put (s.regionWaits n) w
  | .regCntValue => BitVec.ofNat 64 (s.regionCtrs.getD n 0)
  | .ctxState => F.ctxStatePartition.put (partOfCtx s.mode n) w
  | .l2Status =>
    F.l2StatusBypassing.put (((s.canvases.getD n {}).detectors.filter (fun e => decide (64 ≤ e.2.count))).length) w
  | .regSramStatus => F.regSramStatusVqOcc.put (s.offersTo n) w
  | .regMemFreeNear => F.regMemFreeNearFree64k.put (s.freeUnits n (nearBase n) 0x6000000000) w
  | .regMemFreeFar => F.regMemFreeFarFree64k.put (s.freeUnits n (farBase n) 0x8000000000) w
  | .regMcStatus =>
    F.regMcStatusOcc.put (s.heldAt (fun c => decide (c / 192 = n)))
      (F.regMcStatusFull.put ((s.channels.filter (fun e => decide (e.1 / 192 = n) && decide (128 ≤ e.2.writes.length))).length) w)
  | .stkStatus => F.stkStatusOcc.put (s.heldAt (fun c => decide (c / 192 * 6 + c % 192 / 32 = n))) w
  | .stkThrottleNs => (s.throttleAcc n).reg r n
  | .regCohStatus => F.regCohStatusTxnOcc.put ((s.coh.busy.filter (fun b => decide (s.homeOf b.1 = some n))).length) w
  | .xltStatus => F.xltStatusStalled.put (s.clusterStalled n) w
  | .netRdmaStatus =>
    F.netRdmaStatusDevOcc.put (s.netOps (fun _ => true))
      (F.netRdmaStatusPartOcc.put (s.netOps (fun p => decide (p = partOfRegion s.mode n))) w)
  | .tbNow => BitVec.ofNat 64 s.now
  | _ => w

/-- The counter values that only the physical function reads (R258, R259). -/
def Reg.pfRead : Reg → Bool
  | .cntValue | .regCntValue => true
  | _ => false

/-- A register read by a requester that reaches it: its word, and a session-token register's effect (R363). -/
def State.readReg (s : State) (r : Reg) (n size : Nat) : State × Word :=
  match r with
  | .hifToken => s.readToken (decide (n = 1)) size
  | _ => (s, s.formed r n)

/-- Is the address CNT.DISCARDED of a core disabled in service (R258)? -/
def State.keptDiscards (s : State) (a : Access) : Option Nat :=
  match a.origin.isPf && decide (a.size = 4 ∨ a.size = 8) && decide (a.addr % a.size = 0), regAt (a.addr / 8 * 8) with
  | true, some (.cntDiscarded, n) => if s.vacant n && decide (n ∈ s.stopped) then some n else none
  | _, _ => none

/-- The half or the whole of a word that an access names. -/
def Access.part (a : Access) (w : Word) : List Byte :=
  if a.size = 8 then leBytes 8 w.toNat else leBytes 4 (if a.addr % 8 = 0 then w.toNat else w.toNat / 2 ^ 32)

/-- A register read (R18, R36, R40): the bytes; or all ones and an access-error event for an invalid one. The NET and SKB blocks of a
partition's other regions read zero. -/
def State.readAccess (s : State) (a : Access) : State × List Byte :=
  let bad : State × List Byte := (s.accessError, List.replicate a.size 0xFF)
  match s.accessTarget a with
  | none =>
    match s.keptDiscards a with
    | some n => (s, a.part (s.reg .cntDiscarded n))
    | none => bad
  | some (r, n) =>
    if !s.reaches a.origin r n || (r.pfRead && !a.origin.isPf) then bad
    else if s.shadowBlock r n then (s, List.replicate a.size 0)
    else
      let x := s.readReg r n a.size
      (x.1, a.part x.2)

end Sys2Proof.Machine
end

