-- ==== Sys2Proof/Machine/Bars.lean ====
section
/-! DEFINITION. Host accesses through the BARs: the admission of requests, registers, doorbells, device memory and the aperture
windows (12_host_coupling.md, R342 to R345, R348; R516, R541, R547). -/

namespace Sys2Proof.Machine

/-- Is a request one that the device's BARs serve at all: the link up and the boot lock applied (R541), a function that exists (R341), a BAR,
and a length that PCI Express allows, within 4 KiB? -/
def State.barServed (s : State) (r : BarReq) : Bool :=
  s.flag F.hifLinkStatusUp && s.flag F.devBootStatusBootLocked && decide (r.fn < 64) && decide (r.bar = 0 ∨ r.bar = 2 ∨ r.bar = 4)
    && decide (1 ≤ r.len) && decide (r.off % 4096 + r.len ≤ 4096) && (!r.write || decide (r.data.length = r.len))

/-- Is a request admitted: by its requester identifier (R343), and, where IDE is required, its stream (R516)? -/
def State.barAdmitted (s : State) (r : BarReq) : Bool :=
  (decide (r.rid = s.rd F.hifHostRidRid) || !s.flag F.hifHostRidCheck) && (r.ide || !s.flag F.secCfgRequireIde)

/-- A refused request (R343): Unsupported Request for a read, nothing for a write, and an access-error event. -/
def State.barRefuse (s : State) (r : BarReq) : State :=
  if r.write then s.accessError
  else State.accessError (({ s with nextBarRead := s.nextBarRead + 1 }).send (.barUnsupported s.nextBarRead))

/-- A hole (R344): all ones for a read, nothing for a write, and an access-error event. -/
def State.barHole (s : State) (r : BarReq) : State :=
  if r.write then s.accessError else (s.answerRead (List.replicate r.len 0xFF)).accessError

/-- Does standby leave a register in service: of the DEV and HIF blocks (R547)? -/
def standbyReg (off : Nat) : Bool :=
  match regAt (off / 8 * 8) with
  | some (r, _) => decide (r.place.block = Block.dev) || decide (r.place.block = Block.hif)
  | none => false

/-- BAR0: the register space (R342). -/
def State.bar0 (s : State) (r : BarReq) : State :=
  if (0x50000000 ≤ r.off) ∨ (s.modSt.standby = true ∧ standbyReg r.off = false) then s.barHole r
  else
    let a : Access := { origin := .fn r.fn, addr := r.off, size := r.len, value := BitVec.ofNat 64 (leNat r.data) }
    if r.write then s.writeAccess r.env a
    else
      let x := s.readAccess a
      x.1.answerRead x.2

/-- The word that a doorbell's write sets, of the two counts of a queue. -/
def State.ringBell (s : State) (fn q bell v : Nat) : State :=
  match (if bell = 0 then execSqDoorbell fn q v s else execCqDoorbell fn q v s) with
  | .next t => t
  | _ => s

/-- May a function read a queue's doorbells (R36): the queue is of its partition? -/
def State.seesQueue (s : State) (fn q : Nat) : Bool := decide (fn = 0) || decide (s.originPart (.fn fn) = some (partOfQueue s.mode q))

/-- A queue's doorbell page (R348). -/
def State.doorbellPage (s : State) (r : BarReq) : State :=
  let q := r.off / 4096
  let o := r.off % 4096
  if (r.len ≠ 4 ∧ r.len ≠ 8) ∨ o % r.len ≠ 0 ∨ 16 ≤ o then s.barHole r
  else if r.write then
    if !s.ownsDoorbell r.fn q then s.accessError
    else if o % 8 = 4 then s
    else s.ringBell r.fn q (o / 8) (leNat (r.data.take 4))
  else if !s.seesQueue r.fn q then s.barHole r
  else
    let v := if o / 8 = 0 then (s.queue q).sqTail else (s.queue q).cqHead
    s.answerRead (leBytes r.len (if o % 8 = 4 then 0 else v))

/-- The bytes of a function's MSI-X table: 2,048 vectors of the physical function, 64 of a virtual function (R342). -/
def msixBytes (fn : Nat) : Nat := if fn = 0 then 0x8000 else 0x400

/-- BAR4: doorbells, the MSI-X table, and the pending-bit array, in which nothing is ever pending (R342, R348). -/
def State.bar4 (s : State) (r : BarReq) : State :=
  let o := r.off - 0x8000000
  if s.modSt.standby then s.barHole r
  else if r.off < 0x8000000 then s.doorbellPage r
  else if o + r.len ≤ msixBytes r.fn then
    let k := r.fn * 0x100000 + o
    if r.write then { s with msix := (List.range r.len).foldl (fun m i => m.put 0 (k + i) (r.data.getD i 0)) s.msix }
    else s.answerRead ((List.range r.len).map (fun i => s.msix.getD (k + i) 0))
  else if 0x100000 ≤ o ∧ o + r.len ≤ 0x100000 + msixBytes r.fn / 128 then
    if r.write then s else s.answerRead (List.replicate r.len 0)
  else s.barHole r

-- device memory (R344)

/-- Where a host access to memory stands: it is refused as a hole, it waits through the handshake, or it is served. -/
inductive BarMem where
  | hole | wait | serve
deriving DecidableEq, Repr

/-- The checks of a host access at a physical address: under a context, with its grants and its partition, or under the platform tag.
The memory of a partition that has stopped on error is a hole to the host (R496). -/
def State.barCheck (s : State) (ctx : Option Nat) (pa len : Nat) (write : Bool) : BarMem :=
  let p := match ctx with
    | some c => partOfCtx s.mode c
    | none => if 0x080000000000 ≤ pa ∧ pa < 0x080400000000 then partOfRegion s.mode ((pa - 0x080000000000) / 0x100000000)
      else (((s.paKind pa).region?).map (partOfRegion s.mode)).getD 0
  let q : Req := match ctx with
    | some c => .ctx c
    | none => .platform
  if s.partState p = 4 then .hole
  else match s.paCheck p q pa write with
  | .memory => if (blocksOf pa len).any (fun b => s.paWaits (b * 32)) then .wait else .serve
  | .wait => .wait
  | _ => .hole

/-- A host read of memory served by the home as a non-caching request (R297, R344). -/
def State.barRead (s : State) (pa len : Nat) : State × List Byte × Bool :=
  let s : State := s.ncReadRange pa len
  (s, s.readBytes pa len, s.poisoned pa len)

/-- A host write of memory; a poisoned one poisons the sectors it covers. -/
def State.barWrite (s : State) (pa : Nat) (bs : List Byte) (poisoned : Bool) : State :=
  let s : State := s.ncWriteRange pa bs
  if poisoned then
    ((blocksOf pa bs.length).flatMap (fun b => [b / 2 * 2, b / 2 * 2 + 1])).foldl (fun (t : State) b => t.markPoison b) s
  else s

/-- A host access to memory at a physical address. One that waits keeps its place. -/
def State.barMem (s : State) (r : BarReq) (ctx : Option Nat) (pa : Nat) : State :=
  match s.barCheck ctx pa r.len r.write with
  | .hole => s.barHole r
  | .serve =>
    if r.write then s.barWrite pa r.data r.poisoned
    else
      let x := s.barRead pa r.len
      x.1.answerRead x.2.1 x.2.2
  | .wait =>
    let w : BarRead :=
      { id := s.nextBarRead, fn := r.fn, ctx := ctx, addr := pa, len := r.len, time := s.now,
        write := if r.write then some (r.data, r.poisoned) else none }
    { s with barReads := s.barReads ++ [w], nextBarRead := s.nextBarRead + 1 }

/-- One access that waits, tried again: it is served once nothing holds it, and a read that has waited 10 ms is left to its timeout. -/
def State.barRetry (s : State) (w : BarRead) : State :=
  let drop : State := { s with barReads := s.barReads.filter (fun x => decide (x.id ≠ w.id)) }
  match s.barCheck w.ctx w.addr w.len w.write.isSome, w.write with
  | .serve, some (bs, p) => drop.barWrite w.addr bs p
  | .serve, none =>
    if w.time + 10000000 ≤ s.now then s
    else
      let x := drop.barRead w.addr w.len
      x.1.send (.barData w.id x.2.1 x.2.2)
  | .hole, some _ => drop.accessError
  | .hole, none => (drop.send (.barAllOnes w.id w.len)).accessError
  | .wait, _ => s

/-- The accesses that wait, tried again in their order. -/
def State.barRetryAll (s : State) : State := s.barReads.foldl State.barRetry s

/-- The physical function's BAR2 (R344): register space is a hole whatever the width. -/
def State.bar2 (s : State) (r : BarReq) : State := if s.modSt.standby then s.barHole r else s.barMem r none r.off

/-- A virtual function's window (R345): an address is translated under the compute-format tables of the window's context. -/
def State.aperture (s : State) (r : BarReq) : State :=
  let n := (r.fn - 1) * 64 + r.off / 0x40000000
  let c := s.rd F.awtWinContext n
  if s.modSt.standby ∨ 0x1000000000 ≤ r.off ∨ s.flag F.awtWinValid n = false ∨ s.rd F.ctxStateFunction c ≠ r.fn
      ∨ s.originPart (.fn r.fn) ≠ some (partOfCtx s.mode c) ∨ s.flag F.ctxPtCtlFormat c = true
      ∨ s.partState (partOfCtx s.mode c) = 4 then s.barHole r
  else if r.write ∧ s.flag F.awtWinWrite n = false then s
  else
    let va := s.rd F.awtWinVaBase n * 0x40000000 + r.off % 0x40000000
    match s.translate (.engine (lowestRegion s.mode (partOfCtx s.mode c))) c va (if r.write then .write else .read) with
    | (s, .ok pa) =>
      (match s.paCheck (partOfCtx s.mode c) (.ctx c) pa r.write with
        | .denied => (s.grantEvent pa c).barHole r
        | _ => s.barMem r (some c) pa)
    | (s, _) => s.barHole r

/-- A request to a BAR, after those that wait: refused, or served by its BAR (R342, R343). -/
def State.barServe (s : State) (r : BarReq) : State :=
  let s : State := s.barRetryAll
  if !s.barAdmitted r then s.barRefuse r
  else if r.bar = 0 then s.bar0 r
  else if r.bar = 4 then s.bar4 r
  else if r.fn = 0 then s.bar2 r
  else s.aperture r

/-- BAR_ACCESS (R343): a host memory request to a BAR. -/
def execBarAccess (r : BarReq) (s : State) : Host.Outcome State Fault Refusal := .next (if s.barServed r then s.barServe r else s)

/-- BAR2_ACCESS (R344): a request to the physical function's BAR2. -/
def execBar2Access (r : BarReq) (s : State) : Host.Outcome State Fault Refusal :=
  .next (if s.barServed r ∧ r.bar = 2 ∧ r.fn = 0 then s.barServe r else s)

/-- APERTURE_ACCESS (R345): a request to a virtual function's BAR2. -/
def execApertureAccess (r : BarReq) (s : State) : Host.Outcome State Fault Refusal :=
  .next (if s.barServed r ∧ r.bar = 2 ∧ r.fn ≠ 0 then s.barServe r else s)

/-- BAR_READ_TIMEOUT (R344): a read that has waited 10 ms completes with all ones, and is logged; its late data is discarded. An access that
nothing holds any more is served instead. -/
def execBarReadTimeout (id : Nat) (s : State) : Host.Outcome State Fault Refusal :=
  let s : State := s.barRetryAll
  match s.barReads.find? (fun w => decide (w.id = id)) with
  | some w =>
    if w.write.isNone = true ∧ w.time + 10000000 ≤ s.now then
      let s : State := { s with barReads := s.barReads.filter (fun x => decide (x.id ≠ id)) }
      .next ((s.send (.barAllOnes id w.len)).hwEvent 0 0xC402 0xFFFF)
    else .next s
  | none => .next s

end Sys2Proof.Machine
end

