-- ==== Sys2Proof/Machine/Memory.lean ====
section
/-! DEFINITION. The memory instructions, their fences, and the completion of accesses that are in flight
(06_kwaok_instruction_reference.md, R182 to R186; R130 to R136, R220 to R230, R249, R257, R265, R280 to R284, R346). -/

namespace Sys2Proof.Machine

-- operands (R164, R182 to R185)

def Issue.space (i : Issue) : Nat := i.m 54 53
def Issue.memSize (i : Issue) : Nat := i.m 57 55
def Issue.sx (i : Issue) : Bool := decide (i.m 58 58 = 1)
def Issue.hint (i : Issue) : Nat := i.m 60 59

/-- The width of an access's register, in bits: a register, a pair or a quad (R127). -/
def Issue.dataWidth (i : Issue) : Nat := if i.memSize ≤ 2 then 32 else if i.memSize = 3 then 64 else 128

/-- The width of a base address in registers. -/
def Issue.baseWidth (i : Issue) : Nat := if i.space = 0 then 64 else 32

/-- The checks of a memory instruction beside its register fields: SPACE, SIZE, SX, HINT and the reserved bits. -/
def Issue.memBad (i : Issue) (r : Nat) (space size sx hint : Bool) : List Bad :=
  [(53, !space), (55, !size), (58, i.sx && !sx), (59, decide (i.hint ≠ 0) && !hint), (61, decide (i.m 63 61 ≠ 0))]
    ++ i.extBad r true true false false 0

/-- A lane's address: the base plus the signed offset, as 64 bits (R183). A base in shared or argument space is the low 32 bits
of its register (assumption 16), and a negative sum lies outside every space. -/
def Issue.address (i : Issue) (g : Group) (lane : Nat) : Nat :=
  (g.src i.ka lane i.a i.baseWidth + i.imm 64) % 2 ^ 64

/-- The memory instruction that an issue stands for; its destination is a register other than v255. -/
def Issue.memOp (i : Issue) (r : Ready) (kind : MemKind) (size : Nat) (dest : Bool) : MemOp :=
  { kind := kind,
    lanes := (r.lanes i.kd).map (fun l =>
      { lane := l, addr := BitVec.ofNat 64 (i.address r.g l), data := r.g.src i.kb l i.b (max 32 (8 * size)),
        cmp := r.g.src i.kc l i.c (max 32 (8 * size)) }),
    size := size, signed := i.sx, hint := i.hint, uni := i.kd,
    dest := if dest && (i.kd || decide (i.d ≠ 255)) then some i.d else none,
    pos := i.pos, pc := r.pc, mask := laneMask r.set }

/-- How an access translates (R316). -/
def MemKind.access : MemKind → AccKind
  | .load => .read
  | .store => .write
  | _ => .atomic

/-- The bytes a lane's access covers. -/
def MemOp.len (op : MemOp) (l : LaneAcc) : Nat :=
  match op.kind with
  | .longForm => (LongForm.read (leBytes l.cmp l.data)).1.cls.slotBytes
  | _ => op.size

/-- The register writes of a value that a lane receives (R132). -/
def MemOp.returns (op : MemOp) (lane v : Nat) : List RegWrite :=
  match op.dest with
  | none => []
  | some d =>
    let v := if op.signed && decide (op.size < 4) && decide (op.kind = .load) then toUnsigned 32 (toSigned (8 * op.size) v) else v
    if op.uni then
      if op.size = 16 then [⟨32, d, v % 2 ^ 64⟩, ⟨32, d + 1, v / 2 ^ 64⟩] else [⟨32, d, v⟩]
    else (List.range ((op.size + 3) / 4)).map (fun k => ⟨lane, d + k, v / 2 ^ (32 * k) % 2 ^ 32⟩)

/-- One write of a returning access. -/
def Group.applyWrite (g : Group) (w : RegWrite) : Group :=
  if w.lane = 32 then g.writeU w.reg w.val else g.writeV w.lane w.reg w.val

-- the near cache (R223, R224)

def CoreSt.ncFind (x : CoreSt) (line : Nat) : Option (Nat × NcLine) :=
  (x.nc.getD (line % 128) {}).ways.find? (fun (e : Nat × NcLine) => decide (e.2.line = line))

def CoreSt.ncTouch (x : CoreSt) (line way : Nat) : CoreSt :=
  let set := x.nc.getD (line % 128) {}
  { x with nc := x.nc.set (line % 128) { set with plru := plruTouch way false 3 1 set.plru } }

/-- A fetched line allocated: in the way that holds it, the lowest free way, or the tree's victim. -/
def CoreSt.ncInstall (x : CoreSt) (l : NcLine) : CoreSt :=
  let set := x.nc.getD (l.line % 128) {}
  let way := match x.ncFind l.line with
    | some (w, _) => w
    | none => (set.ways.freeFrom 8 0).getD (plruVictim set.plru 3 1)
  { x with nc := x.nc.set (l.line % 128) { ways := set.ways.set way l, plru := plruTouch way false 3 1 set.plru } }

/-- The refills in flight of some lines are discarded (R224). -/
def CoreSt.ncCancel (x : CoreSt) (lines : List Nat) : CoreSt :=
  { x with txns := x.txns.map (fun t => match t.kind with
      | .load ws u fs => { t with kind := .load ws u (fs.filter (fun f => decide (f.line ∉ lines))) }
      | _ => t) }

/-- Some lines leave the near cache. -/
def CoreSt.ncDrop (x : CoreSt) (lines : List Nat) : CoreSt :=
  { x with nc := x.nc.map (fun (e : Nat × NcSet) =>
      (e.1, { e.2 with ways := e.2.ways.filter (fun w => decide (w.2.line ∉ lines)) })) }

/-- A line after stored bytes: those it holds are updated; a word written whole is no longer poisoned. -/
def NcLine.update (l : NcLine) (bytes : NMap Byte) : NcLine :=
  let data := (List.range 128).map (fun i => (bytes.get? (l.line * 128 + i)).getD (l.data.getD i 0))
  let whole := fun (w : Nat) => (List.range 8).all (fun i => bytes.has (l.line * 128 + 8 * w + i))
  let clear := (List.range 16).foldl (fun m w => if l.poison.testBit w && !whole w then m + 2 ^ w else m) 0
  { l with data := data, poison := clear }

/-- A store of a core passing its near cache. -/
def CoreSt.ncStore (x : CoreSt) (bytes : NMap Byte) : CoreSt :=
  let lines := (bytes.keys.map (fun a => a / 128)).eraseDups
  let x := x.ncCancel lines
  { x with nc := x.nc.map (fun (e : Nat × NcSet) =>
      (e.1, { e.2 with ways := e.2.ways.map (fun w => (w.1, if w.2.line ∈ lines then w.2.update bytes else w.2)) })) }

/-- A line as a refill finds it in memory. -/
def State.ncFetch (s : State) (line : Nat) : NcLine :=
  let bad := (List.range 16).foldl (fun m w => if s.poisoned (line * 128 + 8 * w) 8 then m + 2 ^ w else m) 0
  { line := line, data := s.readBytes (line * 128) 128, poison := bad }

-- the lanes of an access, as translation leaves them

/-- A memory instruction's lanes, each with where it goes. -/
abbrev Resolved := List (LaneAcc × AccRes)

/-- Every lane translated and checked. -/
def State.resolve (s : State) (core ctx : Nat) (op : MemOp) : State × Resolved :=
  op.lanes.foldl (fun (acc : State × Resolved) l =>
    let (u, r) := acc.1.access (.core core) ctx l.addr.toNat op.kind.access
    (u, acc.2 ++ [(l, r)])) (s, [])

def Resolved.memory (rs : Resolved) : List (LaneAcc × Nat) := rs.filterMap (fun x => match x.2 with
  | .memory pa => some (x.1, pa)
  | _ => none)

def Resolved.registers (rs : Resolved) : List (LaneAcc × Nat) := rs.filterMap (fun x => match x.2 with
  | .register o => some (x.1, o)
  | _ => none)

def Resolved.host (rs : Resolved) : List (LaneAcc × Nat) := rs.filterMap (fun x => match x.2 with
  | .host o => some (x.1, o)
  | _ => none)

/-- The lanes that fail, each with its fault code (R145). -/
def Resolved.failed (rs : Resolved) : List (LaneAcc × Nat) := rs.filterMap (fun x => x.2.faultCode.map (fun c => (x.1, c)))

/-- The entry of the host-window table for an offset in the host window: the function and the host bus address (R346); none
where the request is refused as a hole. -/
def State.hostEntry (s : State) (part : Nat) (write : Bool) (off : Nat) : Option (Nat × Nat) :=
  let n := off / 0x40000000
  if s.flag F.hwtEntryValid n && decide (s.rd F.hwtEntryPartition n = part) && (!write || s.flag F.hwtEntryWrite n) then
    some (s.rd F.hwtEntryFunction n, s.rd F.hwtEntryHostAddr n * 0x40000000 + off % 0x40000000)
  else none

/-- Where a load or a store of the host window goes. An atomic has no home agent there and is refused as a hole. -/
def State.hostTarget (s : State) (part : Nat) (op : MemOp) (off : Nat) : Option (Nat × Nat) :=
  match op.kind with
  | .load => s.hostEntry part false off
  | .store => s.hostEntry part true off
  | _ => none

/-- Do two ranges share a byte? -/
def overlaps (a n b m : Nat) : Bool := decide (a < b + m) && decide (b < a + n)

/-- Must an access wait for an earlier one of its group to the same bytes (R228)? Adds wait for adds at their home agent
instead. -/
def Txn.holds (t : Txn) (op : MemOp) (rs : Resolved) : Bool :=
  let add := decide (op.kind = .exact) || decide (op.kind = .longForm)
  let va := fun (a n : Nat) => op.lanes.any (fun l => overlaps l.addr.toNat (op.len l) a n)
  let pa := fun (a n : Nat) => rs.any (fun x => match x.2 with
    | .memory p => overlaps p (op.len x.1) a n
    | _ => false)
  match t.kind with
  | .stalled o _ | .host o _ _ _ _ => o.lanes.any (fun l => va l.addr.toNat (o.len l))
  | .exact p _ _ a => !add && (va a.toNat 16 || pa p 16)
  | .longForm ps src a => !add && (va a.toNat (LongForm.read src).1.cls.slotBytes || ps.any (fun p => pa p.1 p.2))
  | _ => false

def CoreSt.blocks (x : CoreSt) (op : MemOp) (rs : Resolved) (base : Nat) : Bool :=
  x.txns.any (fun t => decide (t.pos = op.pos) && decide (t.id < base) && t.holds op rs)

-- the effects of the lanes

/-- An outstanding transaction added to a core. -/
def State.addTxn (s : State) (core : Nat) (t : Txn) : State :=
  let x : CoreSt := s.core core
  s.setCore core { x with txns := x.txns ++ [t] }

/-- The distinct fine blocks of an access's lanes (R280). -/
def MemOp.fineOf (op : MemOp) (ms : List (LaneAcc × Nat)) : List Nat :=
  (ms.flatMap (fun x => blocksOf x.2 (op.len x.1))).eraseDups

/-- A .ca load's lines taken from the near cache, or fetched: the lines' contents and the refills (R223, R265). -/
def State.caLines (s : State) (core : Nat) (lines : List Nat) : State × List NcLine × List NcLine :=
  lines.foldl (fun (acc : State × List NcLine × List NcLine) line =>
    let u : State := acc.1
    match (u.core core).ncFind line with
    | some (w, l) =>
      ((u.setCore core ((u.core core).ncTouch line w)).bumpRun F.schCountCtlRun F.schNcHitsCount core, acc.2.1 ++ [l], acc.2.2)
    | none =>
      let u : State := (u.bumpRun F.schCountCtlRun F.schNcMissesCount core).l2Read (canvasOfCore core) line 3 false
      let l := u.ncFetch line
      (u, acc.2.1 ++ [l], acc.2.2 ++ [l])) (s, [], [])

/-- The sectors of a line that some memory ranges touch. -/
def sectorMask (line : Nat) (l : List (Nat × Nat)) : Nat :=
  (List.range 2).foldl (fun m h => if l.any (fun r => overlaps r.1 r.2 (line * 128 + 64 * h) 64) then m + 2 ^ h else m) 0

/-- What a load's lanes read from memory: each lane's bytes and whether they are poisoned, and the refills. -/
def State.loadMemory (s : State) (core : Nat) (op : MemOp) (ms : List (LaneAcc × Nat)) :
    State × List (LaneAcc × List Byte × Bool) × List NcLine :=
  let lines := (ms.map (fun x => x.2 / 128)).eraseDups
  let plain := fun (u : State) => ms.map (fun x => (x.1, u.readBytes x.2 op.size, u.poisoned x.2 op.size))
  if op.hint = 0 then
    let (s, all, fills) := s.caLines core lines
    let lane := fun (x : LaneAcc × Nat) =>
      match all.find? (fun l => decide (l.line = x.2 / 128)) with
      | some l =>
        let o := x.2 % 128
        (x.1, (l.data.drop o).take op.size, (List.range 16).any (fun w => l.poison.testBit w && overlaps o op.size (8 * w) 8))
      | none => (x.1, [], false)
    (s, ms.map lane, fills)
  else if op.hint = 3 then
    let s : State := (op.fineOf ms).foldl (fun (u : State) b => u.ncReadRange (b * 32) 32) s
    (s, plain s, [])
  else
    let ranges := ms.map (fun x => (x.2, op.size))
    let s : State := lines.foldl (fun (u : State) l =>
      u.l2Read (canvasOfCore core) l (sectorMask l ranges) (decide (op.hint = 2))) s
    (s, plain s, [])

/-- The bytes that a store's lanes write; the highest-numbered lane's value stands (R184). -/
def MemOp.storeBytes (op : MemOp) (ms : List (LaneAcc × Nat)) : NMap Byte :=
  ms.foldl (fun (m : NMap Byte) x =>
    (List.range op.size).foldl (fun (m : NMap Byte) i => m.set (x.2 + i) (BitVec.ofNat 8 (x.1.data / 256 ^ i))) m) []

/-- Bytes as runs of consecutive addresses. -/
def byteRuns (m : NMap Byte) : List (Nat × List Byte) :=
  m.foldr (fun (e : Nat × Byte) acc => match acc with
    | (a, bs) :: rest => if e.1 + 1 = a then (e.1, e.2 :: bs) :: rest else (e.1, [e.2]) :: (a, bs) :: rest
    | [] => [(e.1, [e.2])]) []

/-- Bytes of a core written to memory by its path (R133, R223, R265, R280 to R282). -/
def State.storeMemory (s : State) (core : Nat) (fine : Bool) (bytes : NMap Byte) : State :=
  let s : State := s.setCore core ((s.core core).ncStore bytes)
  if fine then (byteRuns bytes).foldl (fun (u : State) r => u.ncWriteRange r.1 r.2) s
  else
    let lines := (bytes.keys.map (fun a => a / 128)).eraseDups
    let touched := fun (l h : Nat) => (List.range 64).any (fun i => bytes.has (l * 128 + 64 * h + i))
    let whole := fun (l h : Nat) => (List.range 64).all (fun i => bytes.has (l * 128 + 64 * h + i))
    let mask := fun (p : Nat → Bool) => (if p 0 then 1 else 0) + (if p 1 then 2 else 0)
    let s : State := lines.foldl (fun (u : State) l => u.l2Store core l (mask (touched l)) (mask (whole l))) s
    (byteRuns bytes).foldl (fun (u : State) r => u.writeMem r.1 r.2) s

/-- Event 0x4012: an atomic applied to poisoned data for no destination (R484). Scratch has no stack: UNIT is then 0xFFFF. -/
def State.poisonEvent (s : State) (ctx pa : Nat) : State :=
  let k := s.paKind pa
  s.hwEvent (k.region?.getD 0) 0x4012 ((k.stack?.map stackUnit).getD 0xFFFF) ctx pa

/-- The integer atomics of an instruction applied at their home agents in ascending lane order (R184, R283): the values found,
and the lanes that met poison and wait for a value. -/
def State.atomics (s : State) (ctx : Nat) (op : MemOp) (a : AtomOp) (ms : List (LaneAcc × Nat)) :
    State × List (LaneAcc × Nat) × List LaneAcc :=
  ms.foldl (fun (acc : State × List (LaneAcc × Nat) × List LaneAcc) x =>
    let u : State := acc.1
    let home := ((u.paKind x.2).region?).getD 0
    let u : State := u.ncAtomic home (x.2 / 32)
    if u.poisoned x.2 op.size then
      if op.dest.isSome then (u, acc.2.1, acc.2.2 ++ [x.1]) else (u.poisonEvent ctx x.2, acc.2.1, acc.2.2)
    else
      let old := leNat (u.readBytes x.2 op.size)
      (u.atomicAt x.2 a op.signed op.size x.1.data x.1.cmp, acc.2.1 ++ [(x.1, old)], acc.2.2)) (s, [], [])

/-- The register accesses of an instruction (R18): a load's or an atomic's values, all ones for an invalid access. -/
def State.registerLanes (s : State) (core : Nat) (op : MemOp) (l : List (LaneAcc × Nat)) : State × List (LaneAcc × Nat) :=
  l.foldl (fun (acc : State × List (LaneAcc × Nat)) x =>
    let u : State := acc.1
    let a : Access := { origin := .core core, addr := x.2, size := op.size, value := BitVec.ofNat 64 x.1.data }
    match op.kind with
    | .load =>
      let (u, bs) := u.readAccess a
      (u, acc.2 ++ [(x.1, leNat bs)])
    | .store => (u.writeAccess {} a, acc.2)
    | _ => (u.accessError, acc.2 ++ [(x.1, 2 ^ (8 * op.size) - 1)])) (s, [])

/-- The number of a group's next journalled event, used where its context is recorded (R423). -/
def State.takeEvent (s : State) (k : Task) (core pos : Nat) : State × Nat :=
  let n := (((s.core core).groups.get? pos).map (fun g => g.events)).getD 0
  (if s.recording k.ctx then s.countEventOf core pos else s, n)

/-- The host-window lanes of a load or a store (R346, R433): a replay serves a load from its journal; the rest wait for the
host. -/
def State.hostLanes (s : State) (core t : Nat) (k : Task) (op : MemOp) (base : Nat) (l : List (LaneAcc × Nat × Nat × Nat)) :
    State × List (LaneAcc × Nat) :=
  l.foldl (fun (acc : State × List (LaneAcc × Nat)) x =>
    let u : State := acc.1
    let (lane, fn, bus, pa) := x
    let wait := fun (u : State) (n : Nat) =>
      u.addTxn core { id := base + lane.lane, ctx := k.ctx, task := t, pos := op.pos, pc := op.pc, mask := op.mask,
                      kind := .host { op with lanes := [lane] } fn bus pa n }
    if op.kind = .load then
      match u.groupReplay k core op.pos 0x05 (fun b => decide (leNat (b.take 8) = pa) && decide (b.length = 8 + op.size)) with
      | (u, some b) => (u, acc.2 ++ [(lane, leNat (b.drop 8))])
      | (u, none) =>
        let (u, n) := u.takeEvent k core op.pos
        (wait u n, acc.2)
    else (wait u 0, acc.2)) (s, [])

/-- The pieces of a range of virtual memory, 4 KiB page by page: their physical addresses and lengths, or the first failure. -/
def State.vaPieces (s : State) (core ctx : Nat) (kind : AccKind) : Nat → Nat → Nat → State × Except AccRes (List (Nat × Nat))
  | 0, _, _ => (s, .ok [])
  | f + 1, va, n =>
    if n = 0 then (s, .ok [])
    else
      let len := min n (4096 - va % 4096)
      match s.access (.core core) ctx va kind with
      | (s, .memory pa) =>
        match s.vaPieces core ctx kind f (va + len) (n - len) with
        | (s, .ok l) => (s, .ok ((pa, len) :: l))
        | (s, .error e) => (s, .error e)
      | (s, r) => (s, .error r)

/-- The translation fault records that lanes wait on, one transaction for each: the instruction is one engine on a 64 KiB page, whatever
the number of its lanes (R332, R333). -/
def State.stallLanes (s : State) (core t : Nat) (k : Task) (op : MemOp) (base : Nat) (rs : Resolved) : State :=
  let step := fun (acc : State × List (Option Nat × LaneAcc)) (x : LaneAcc × AccRes) =>
    match x.2, acc.2.find? (fun y => decide (y.2.addr.toNat / 65536 = x.1.addr.toNat / 65536)) with
    | .ring _ _ _, some y => (acc.1, acc.2 ++ [(y.1, x.1)])
    | .ring c l e, none =>
      let (u, rec) := acc.1.xfrReport
        { region := regionOfCore core, ctx := k.ctx, va := x.1.addr.toNat, kind := op.kind.access, engine := 0, core := core,
          queue := k.queue, tag := k.tag } c l e
      (u, acc.2 ++ [(rec, x.1)])
    | .wait, _ => (acc.1, acc.2 ++ [(none, x.1)])
    | _, _ => acc
  let (s, l) := rs.foldl step (s, [])
  (l.map Prod.fst).eraseDups.foldl (fun (u : State) rec =>
    let mine := (l.filter (fun e => decide (e.1 = rec))).map Prod.snd
    u.addTxn core
      { id := base + ((mine.head?.map LaneAcc.lane).getD 0), ctx := k.ctx, task := t, pos := op.pos, pc := op.pc, mask := op.mask,
        kind := .stalled { op with lanes := mine } rec }) s

/-- The exact-cell adds of an instruction sent to their home agents (R283). -/
def State.exactLanes (s : State) (core t : Nat) (k : Task) (op : MemOp) (base : Nat) (ms : List (LaneAcc × Nat)) : State :=
  ms.foldl (fun (u : State) x =>
    u.addTxn core
      { id := base + x.1.lane, ctx := k.ctx, task := t, pos := op.pos, pc := op.pc, mask := op.mask,
        kind := .exact x.2 x.1.data (op.dest.map (fun d => (x.1.lane, d))) x.1.addr }) s

/-- The long-form adds of an instruction sent to their home agents (R185): a slot that crosses a page is several pieces. -/
def State.longLanes (s : State) (core t : Nat) (k : Task) (op : MemOp) (base : Nat) (ms : List (LaneAcc × Nat)) :
    State × Resolved :=
  ms.foldl (fun (acc : State × Resolved) x =>
    let u : State := acc.1
    match u.vaPieces core k.ctx .atomic 3 x.1.addr.toNat (op.len x.1) with
    | (u, .ok ps) =>
      (u.addTxn core
        { id := base + x.1.lane, ctx := k.ctx, task := t, pos := op.pos, pc := op.pc, mask := op.mask,
          kind := .longForm ps (leBytes x.1.cmp x.1.data) x.1.addr }, acc.2)
    | (u, .error r) => (u, acc.2 ++ [(x.1, r)])) (s, [])

/-- The lowest lane's failure as the group's deferred fault (R144, R145). -/
def State.failLanes (s : State) (core : Nat) (op : MemOp) (l : List (LaneAcc × Nat)) : State :=
  match sortBy (fun a b => decide (a.1.lane ≤ b.1.lane)) l with
  | [] => s
  | (lane, code) :: _ =>
    s.pushFault core { pos := op.pos, pc := op.pc, lanes := op.mask, code := code, detail := op.kind.detail, addr := lane.addr }

/-- A memory instruction's lanes go their ways: to memory, to registers, to the host, to a fault record, or into a fault. -/
def State.runLanes (s : State) (core t : Nat) (k : Task) (op : MemOp) (base : Nat) (rs : Resolved) : State :=
  let ms := rs.memory
  let hosts := rs.host.map (fun x => (x.1, x.2, s.hostTarget k.part op x.2))
  let out := hosts.filterMap (fun x => x.2.2.map (fun h => (x.1, h.1, h.2, 0x100000000000 + x.2.1)))
  let bad := rs.failed ++ hosts.filterMap (fun x => if x.2.2.isNone then some (x.1, 0x10) else none)
  let txn := fun (u : State) (ws : List RegWrite) (fills : List NcLine) (lines : List Nat) (cost : Nat) =>
    let first := ((rs.filter (fun x => match x.2 with
      | .memory _ | .register _ => true
      | _ => false)).head?.map (fun x => x.1.lane)).getD 0
    if ms = [] ∧ rs.registers = [] ∧ ws = [] then u
    else
      u.addTxn core { id := base + first, ctx := k.ctx, task := t, pos := op.pos, pc := op.pc, mask := op.mask, cost := cost,
                      atomLines := lines, kind := .load ws op.uni fills }
  let give := fun (l : List (LaneAcc × Nat)) => l.flatMap (fun x => op.returns x.1.lane x.2)
  match op.kind with
  | .load =>
    let (s, got, fills) := s.loadMemory core op ms
    let (s, regs) := s.registerLanes core op rs.registers
    let (s, served) := s.hostLanes core t k op base out
    let good := (got.filter (fun x => !x.2.2)).map (fun x => (x.1, leNat x.2.1))
    let poison := (got.filter (fun x => x.2.2)).map (fun x => (x.1, 0x14))
    let cost := if op.hint = 3 then max 1 (op.fineOf ms).length else 1
    let s : State := txn s (give (good ++ regs ++ served)) fills [] cost
    (s.stallLanes core t k op base rs).failLanes core op (bad ++ poison)
  | .store =>
    let s : State := if ms = [] then s else s.storeMemory core (decide (op.hint = 3)) (op.storeBytes ms)
    let (s, _) := s.registerLanes core op rs.registers
    let (s, _) := s.hostLanes core t k op base out
    (s.stallLanes core t k op base rs).failLanes core op bad
  | .atomic a =>
    let lines := (ms.map (fun x => x.2 / 128)).eraseDups
    let s : State := s.setCore core (((s.core core).ncDrop lines).ncCancel lines)
    let (s, old, poison) := s.atomics k.ctx op a ms
    let (s, regs) := s.registerLanes core op rs.registers
    let s : State := txn s (give (old ++ regs)) [] lines 1
    (s.stallLanes core t k op base rs).failLanes core op (bad ++ poison.map (fun l => (l, 0x14)))
  | .exact =>
    let lines := (ms.map (fun x => x.2 / 128)).eraseDups
    let s : State := s.setCore core (((s.core core).ncDrop lines).ncCancel lines)
    let s : State := s.exactLanes core t k op base ms
    let (s, regs) := s.registerLanes core op rs.registers
    let s : State := if regs = [] ∨ op.dest.isNone = true then s else
      s.addTxn core { id := base + ((regs.head?.map (fun x => x.1.lane)).getD 0), ctx := k.ctx, task := t, pos := op.pos,
                      pc := op.pc, mask := op.mask, kind := .load (give regs) op.uni [] }
    (s.stallLanes core t k op base rs).failLanes core op bad
  | .longForm =>
    let (s, late) := s.longLanes core t k op base ms
    let (s, _) := s.registerLanes core op rs.registers
    let rest := rs.filter (fun x => match x.2 with
      | .memory _ => false
      | _ => true) ++ late
    (s.stallLanes core t k op base rest).failLanes core op (bad ++ Resolved.failed late)

/-- The entries under the core bound that an access takes (R134, R257, R280). -/
def MemOp.need (op : MemOp) (rs : Resolved) : Nat :=
  let ms := rs.memory
  let rest := rs.length - ms.length
  match op.kind with
  | .exact | .longForm => max 1 rs.length
  | _ => max 1 ((if op.hint = 3 then (op.fineOf ms).length else 1) + rest)

-- issue

/-- A memory instruction to global memory: it stalls at the core bound (R134); an access to bytes that an earlier access of the group
has still to reach is held back (R228). -/
def State.global (s : State) (i : Issue) (r : Ready) (op : MemOp) : State :=
  let x : CoreSt := s.core i.core
  let base := x.nextId
  let go := fun (u : State) =>
    let u : State := u.done i r r.g
    let y : CoreSt := u.core i.core
    u.setCore i.core { y with nextId := base + 64 }
  if op.lanes = [] then s.done i r r.g
  else
    let (u, rs) := s.resolve i.core r.k.ctx op
    if x.blocks op rs base then
      if 256 ≤ x.txnOcc i.core then s
      else
        (go s).addTxn i.core
          { id := base + ((op.lanes.head?.map LaneAcc.lane).getD 0), ctx := r.k.ctx, task := r.t, pos := op.pos, pc := op.pc,
            mask := op.mask, kind := .stalled op none }
    else if 256 < x.txnOcc i.core + op.need rs then s
    else (go u).runLanes i.core r.t r.k op base rs

/-- The workgroup's slot in shared local memory: its first byte and its end (R131). -/
def Ready.slmRange (r : Ready) : Nat × Nat :=
  let n := r.k.desc.slmKib * 1024
  (r.g.slot * n, r.g.slot * n + n)

/-- The replays of a shared access (R220): the distinct words of the busiest of 32 banks, less one. -/
def bankReplays (offs : List Nat) (size : Nat) : Nat :=
  let words := (offs.flatMap (fun o => (List.range ((size + 7) / 8)).map (fun k => o / 8 + k))).eraseDups
  ((List.range 32).map (fun b => (words.filter (fun w => decide (w % 32 = b))).length)).foldl max 1 - 1

/-- Is a word of shared local memory that a range touches poisoned? -/
def CoreSt.slmBad (x : CoreSt) (o n : Nat) : Bool :=
  (List.range ((o + n + 7) / 8 - o / 8)).any (fun w => x.slmPoison.has (o / 8 + w))

/-- The bytes of shared local memory. -/
def CoreSt.slmBytes (x : CoreSt) (o n : Nat) : List Byte := (List.range n).map (fun i => x.slm.getD (o + i) 0)

/-- Bytes stored to shared local memory: a word wholly written is no longer poisoned. -/
def CoreSt.slmStore (x : CoreSt) (bytes : NMap Byte) : CoreSt :=
  let whole := fun (w : Nat) => (List.range 8).all (fun i => bytes.has (8 * w + i))
  { x with slm := bytes.foldl (fun (m : NMap Byte) e => m.put 0 e.1 e.2) x.slm,
           slmPoison := x.slmPoison.keep (fun w => !whole w) }

/-- The class of a launch's accumulator layout, and the side of its tiles (R102). -/
def layoutClass (layout : Nat) : AccClass := if layout = 0 then .n else if layout = 1 then .s else .d
def AccClass.dim : AccClass → Nat
  | .n => 64
  | .s => 32
  | .d => 16

/-- The bytes of an operand tile of k positions (R110). -/
def AccClass.tileBytes (c : AccClass) (f : Format) (k : Nat) : Nat := k * c.dim * f.width / 8

/-- K_INST: the largest of 64, 32 and 16 for which both tiles occupy at most 2 KiB (R107). -/
def AccClass.kInst (c : AccClass) (fa fb : Format) : Nat :=
  if c.tileBytes fa 64 ≤ 2048 ∧ c.tileBytes fb 64 ≤ 2048 then 64
  else if c.tileBytes fa 32 ≤ 2048 ∧ c.tileBytes fb 32 ≤ 2048 then 32
  else 16

/-- The shared memory that a queued matrix instruction reads when it is staged (R111). -/
def MxOp.reads (op : MxOp) (c : AccClass) : List (Nat × Nat) :=
  let tile := fun (t : Tile) (f : Format) (k : Nat) => match t with
    | .slm o => [(o, c.tileBytes f k)]
    | .regs _ => []
  match op with
  | .mma _ _ fa fb ta tb _ => tile ta fa (c.kInst fa fb) ++ tile tb fb (c.kInst fa fb)
  | .ldlf _ o => [(o, c.dim * c.dim * c.slotBytes)]
  | .drain _ => []

/-- Has a matrix instruction of a group still to read some bytes of shared local memory (R111)? -/
def CoreSt.staging (x : CoreSt) (layout pos o n : Nat) : Bool :=
  x.mxq.any (fun e => decide (e.pos = pos) && (e.op.reads (layoutClass layout)).any (fun r => overlaps o n r.1 r.2))

/-- A shared load or store: performed at its banks at once (R221, R227); a store to an operand tile that the group's matrix
instruction has still to read waits (R111). -/
def State.shared (s : State) (i : Issue) (r : Ready) (op : MemOp) : State :=
  let offs := op.lanes.map (fun l => l.addr.toNat)
  let (lo, hi) := r.slmRange
  match op.lanes.find? (fun l => decide (l.addr.toNat < lo) || decide (hi < l.addr.toNat + op.size)) with
  | some l => s.precise i r 0x06 0 l.addr
  | none =>
    if decide (op.kind = .store) && offs.any (fun o => (s.core i.core).staging r.k.desc.layout i.pos o op.size) then s
    else
    let x : CoreSt := s.core i.core
    let s : State := s.bumpRun F.schCountCtlRun F.schBankReplaysCount i.core (bankReplays offs op.size)
    match op.kind with
    | .load =>
      let good := op.lanes.filter (fun l => !x.slmBad l.addr.toNat op.size)
      let writes := good.flatMap (fun l => op.returns l.lane (leNat (x.slmBytes l.addr.toNat op.size)))
      let s : State := s.done i r (writes.foldl Group.applyWrite r.g)
      s.failLanes i.core op ((op.lanes.filter (fun l => x.slmBad l.addr.toNat op.size)).map (fun l => (l, 0x14)))
    | _ =>
      let s : State := s.done i r r.g
      s.setCore i.core ((s.core i.core).slmStore (op.storeBytes (op.lanes.map (fun l => (l, l.addr.toNat)))))

/-- An argument load (R130): bytes at or past ARG_BYTES read zero. -/
def State.argument (s : State) (i : Issue) (r : Ready) (op : MemOp) : State :=
  let byte := fun (o : Nat) => if o < r.k.desc.argBytes then r.k.args.getD o 0 else 0
  let writes := op.lanes.flatMap (fun l =>
    op.returns l.lane (leNat ((List.range op.size).map (fun j => byte (l.addr.toNat + j)))))
  s.done i r (writes.foldl Group.applyWrite r.g)

/-- A memory instruction past its legality: alignment first (R146), then its space. -/
def State.memAccess (s : State) (i : Issue) (r : Ready) (op : MemOp) : State :=
  let align := if op.kind = .longForm then 8 else op.size
  match op.lanes.find? (fun l => decide (l.addr.toNat % align ≠ 0)) with
  | some l => s.precise i r 0x05 align l.addr
  | none =>
    match i.space with
    | 0 => s.global i r op
    | 1 => s.shared i r op
    | _ => s.argument i r op

/-- The checks of a load. -/
def Issue.ldBad (i : Issue) (r : Nat) : List Bad :=
  i.fieldsBad r (.reg i.dataWidth) (.reg i.baseWidth) .none .none
    ++ i.memBad r (decide (i.space ≤ 2)) (decide (i.memSize ≤ 4)) true (decide (i.space = 0))

/-- ld (R182, R130 to R134). -/
def execLd (x : Issue) (s : State) : Host.Outcome State Fault Refusal :=
  s.onIssue x (fun r => x.ldBad r.k.desc.regs) (x.regs (.reg x.dataWidth) (.reg x.baseWidth) .none .none)
    (fun s r => s.memAccess x r (x.memOp r .load (2 ^ x.memSize) true))

/-- st (R182, R184). -/
def execSt (x : Issue) (s : State) : Host.Outcome State Fault Refusal :=
  s.onIssue x
    (fun r => x.fieldsBad r.k.desc.regs .none (.reg x.baseWidth) (.reg x.dataWidth) .none
      ++ x.memBad r.k.desc.regs (decide (x.space ≤ 1)) (decide (x.memSize ≤ 4)) false (decide (x.space = 0)))
    (x.regs .none (.reg x.baseWidth) (.reg x.dataWidth) .none)
    (fun s r => s.memAccess x r (x.memOp r .store (2 ^ x.memSize) false))

/-- What an atomic makes of D: v255 names no destination (R185). -/
def Issue.atomDest (i : Issue) (w : Nat) : Use := if i.d = 255 ∧ i.kd = false then .raw true else .reg w

/-- An integer atomic (R182, R185). -/
def State.atom (s : State) (x : Issue) (a : AtomOp) (sx : Bool) : Host.Outcome State Fault Refusal :=
  let w := x.dataWidth
  let c : Use := if a = .cas then .reg w else .none
  s.onIssue x
    (fun r => x.fieldsBad r.k.desc.regs (x.atomDest w) (.reg x.baseWidth) (.reg w) c
      ++ x.memBad r.k.desc.regs (decide (x.space = 0)) (decide (x.memSize = 2 ∨ x.memSize = 3)) sx true)
    (x.regs (x.atomDest w) (.reg x.baseWidth) (.reg w) c)
    (fun s r => s.memAccess x r (x.memOp r (.atomic a) (2 ^ x.memSize) true))

/-- atom.add (R182). -/
def execAtomAdd (x : Issue) (s : State) : Host.Outcome State Fault Refusal := s.atom x .add false

/-- atom.min (R182): signed when SX = 1. -/
def execAtomMin (x : Issue) (s : State) : Host.Outcome State Fault Refusal := s.atom x .min true

/-- atom.max (R182): signed when SX = 1. -/
def execAtomMax (x : Issue) (s : State) : Host.Outcome State Fault Refusal := s.atom x .max true

/-- atom.and (R182). -/
def execAtomAnd (x : Issue) (s : State) : Host.Outcome State Fault Refusal := s.atom x .and false

/-- atom.or (R182). -/
def execAtomOr (x : Issue) (s : State) : Host.Outcome State Fault Refusal := s.atom x .or false

/-- atom.xor (R182). -/
def execAtomXor (x : Issue) (s : State) : Host.Outcome State Fault Refusal := s.atom x .xor false

/-- atom.exch (R182). -/
def execAtomExch (x : Issue) (s : State) : Host.Outcome State Fault Refusal := s.atom x .exch false

/-- atom.cas (R182): B is written where the memory value equals C. -/
def execAtomCas (x : Issue) (s : State) : Host.Outcome State Fault Refusal := s.atom x .cas false

/-- atom.exact (R182, R185, R283). -/
def execAtomExact (x : Issue) (s : State) : Host.Outcome State Fault Refusal :=
  s.onIssue x
    (fun r => x.fieldsBad r.k.desc.regs (x.atomDest 128) (.reg x.baseWidth) (.reg 128) .none
      ++ x.memBad r.k.desc.regs (decide (x.space = 0)) (decide (x.memSize = 4)) false true)
    (x.regs (x.atomDest 128) (.reg x.baseWidth) (.reg 128) .none)
    (fun s r => s.memAccess x r (x.memOp r .exact 16 true))

/-- atom.lf (R182, R185): the source long form stands at shared offset B. -/
def execAtomLf (x : Issue) (s : State) : Host.Outcome State Fault Refusal :=
  s.onIssue x
    (fun r => x.fieldsBad r.k.desc.regs (.raw (decide (x.d = 255))) (.reg x.baseWidth) (.reg 32) .none
      ++ x.memBad r.k.desc.regs (decide (x.space = 0)) (decide (x.memSize = 0)) false true)
    (x.regs .none (.reg x.baseWidth) (.reg 32) .none)
    (fun s r =>
      let op := x.memOp r .longForm 4 false
      let y : CoreSt := s.core x.core
      let (lo, hi) := r.slmRange
      let len := fun (o : Nat) => ((AccClass.ofCode ((y.slm.getD o 0).toNat)).map AccClass.slotBytes).getD 8
      match op.lanes.find? (fun l => decide (l.addr.toNat % 8 ≠ 0) || decide (l.data % 8 ≠ 0)) with
      | some l => s.precise x r 0x05 8 (if l.addr.toNat % 8 ≠ 0 then l.addr else BitVec.ofNat 64 l.data)
      | none =>
        match op.lanes.find? (fun l => decide (l.data < lo) || decide (hi < l.data + len l.data)) with
        | some l => s.precise x r 0x06 0 (BitVec.ofNat 64 l.data)
        | none =>
          let bad := op.lanes.filter (fun l => y.slmBad l.data (len l.data))
          let good := op.lanes.filter (fun l => !y.slmBad l.data (len l.data))
          let lanes := good.map (fun l => { l with data := leNat (y.slmBytes l.data (len l.data)), cmp := len l.data })
          (s.global x r { op with lanes := lanes } |> fun u =>
            if (u.core x.core).nextId = y.nextId ∧ lanes ≠ [] then u
            else u.failLanes x.core op (bad.map (fun l => ({ l with addr := BitVec.ofNat 64 l.data }, 0x14)))))

-- fences and the near cache (R186, R229, R249)

/-- A fence that issues: its group waits until its condition holds. `fence.remote` and `fence.global` send a flushing read behind the
host writes of their group, or of every group. -/
def State.fenceOp (s : State) (i : Issue) (kind : Nat) : Host.Outcome State Fault Refusal :=
  s.onIssue i (fun _ => i.ctlBad false false false false) []
    (fun s r =>
      if r.exec = [] then s.done i r r.g
      else
        let mine := fun (p : Nat) => decide (kind = 3) || decide (p = i.pos)
        let flush := decide (2 ≤ kind) && (r.x.groups.any (fun g => mine g.1 && g.2.hostWrote)
          || r.x.txns.any (fun t => mine t.pos && (match t.kind with
            | .host op .. => decide (op.kind = .store)
            | _ => false)))
        let s : State := s.done i r r.g
        let x : CoreSt := s.core i.core
        let groups := x.groups.map (fun (g : Nat × Group) =>
          let h : Group := if flush && mine g.1 then { g.2 with hostWrote := false } else g.2
          (g.1, if g.1 = i.pos then { h with fence := some (kind, x.nextId + 1) } else h))
        let t : Txn := { id := x.nextId, ctx := r.k.ctx, task := r.t, pos := i.pos, pc := r.pc, mask := laneMask r.set,
                         kind := .flush }
        let y : CoreSt := { x with groups := groups, nextId := x.nextId + 1, txns := if flush then x.txns ++ [t] else x.txns }
        s.setCore i.core y.settleFences)

/-- fence.wg (R229). -/
def execFenceWg (x : Issue) (s : State) : Host.Outcome State Fault Refusal := s.fenceOp x 0

/-- fence.part (R229). -/
def execFencePart (x : Issue) (s : State) : Host.Outcome State Fault Refusal := s.fenceOp x 1

/-- fence.remote (R249). -/
def execFenceRemote (x : Issue) (s : State) : Host.Outcome State Fault Refusal := s.fenceOp x 2

/-- fence.global (R249). -/
def execFenceGlobal (x : Issue) (s : State) : Host.Outcome State Fault Refusal := s.fenceOp x 3

/-- nc.inv (R186, R225). -/
def execNcInv (x : Issue) (s : State) : Host.Outcome State Fault Refusal :=
  s.onIssue x (fun _ => x.ctlBad false false false false) []
    (fun s r =>
      let s : State := s.done x r r.g
      if r.exec = [] then s else s.setCore x.core (s.core x.core).ncInvalidate)

-- completions

/-- A transaction of a core leaves it; what waited for it goes on. -/
def State.retire (s : State) (core : Nat) (t : Txn) : State :=
  let x : CoreSt := s.core core
  let y : CoreSt := { x with txns := x.txns.filter (fun u => decide (u.id ≠ t.id)) }
  let slot := ((y.groups.get? t.pos).map (fun g => g.slot)).getD 0
  (s.setCore core y.settleFences).settleWg core slot

/-- Registers written by a returning access. -/
def State.giveRegs (s : State) (core pos : Nat) (ws : List RegWrite) : State :=
  let x : CoreSt := s.core core
  s.setCore core { x with groups := x.groups.adjust pos (fun g => ws.foldl Group.applyWrite g) }

/-- LOAD_RETURN (R134, R224, R346): an outstanding access completes, the host's answer given for one that went to the host; or an
access that was held back is made. A refill whose line an atomic keeps out does not allocate. -/
def execLoadReturn (core txn : Nat) (ans : HostAns) (s : State) : Host.Outcome State Fault Refusal :=
  let x : CoreSt := s.core core
  match x.txns.find? (fun t => decide (t.id = txn)) with
  | none => .next s
  | some t =>
    match t.kind with
    | .load ws _ fills =>
      let s : State := s.giveRegs core t.pos ws
      let kept := (x.txns.filter (fun u => decide (u.id ≠ txn))).flatMap (fun (u : Txn) => u.atomLines)
      let y : CoreSt := (fills.filter (fun (f : NcLine) => decide (f.line ∉ kept))).foldl CoreSt.ncInstall (s.core core)
      .next ((s.setCore core y).retire core t)
    | .host op fn bus pa n =>
      if !s.hostOpen then .next s
      else if op.kind = .store then
        let l := op.lanes.headD ⟨0, 0, 0, 0⟩
        let s : State := s.send (.hostWrite fn bus (leBytes op.size l.data))
        let y : CoreSt := s.core core
        let y : CoreSt := { y with groups := y.groups.adjust t.pos (fun g => { g with hostWrote := true }) }
        .next ((s.setCore core y).retire core t)
      else
        match ans with
        | .error => .next (((s.failLanes core op (op.lanes.map (fun l => (l, 0x14)))).retire core t))
        | .ok bs =>
          if bs.length ≠ op.size then .next s
          else
            let s : State := s.giveRegs core t.pos (op.lanes.flatMap (fun l => op.returns l.lane (leNat bs)))
            let s : State := match s.task? t.task with
              | some k =>
                if s.recording k.ctx then
                  let s : State := s.journalCtx k.ctx 0x05 (s.groupKey core t.pos)
                    (leBytes 4 k.tag ++ leBytes 4 n ++ leBytes 8 pa ++ bs)
                  if s.skbRoom k.part 0 then s
                  else
                    let y : CoreSt := s.core core
                    s.setCore core { y with groups := y.groups.adjust t.pos (fun g => { g with stall := true }) }
                else s
              | none => s
            .next (s.retire core t)
    | .flush =>
      let before := x.txns.any (fun u => decide (u.id < t.id) && (match u.kind with
        | .host op .. => decide (op.kind = .store)
        | _ => false))
      .next (if s.hostOpen && !before then s.retire core t else s)
    | .stalled op none =>
      match s.task? t.task with
      | none => .next s
      | some k =>
        let base := t.id - ((op.lanes.head?.map LaneAcc.lane).getD 0)
        let (u, rs) := s.resolve core t.ctx op
        if x.blocks op rs t.id || decide (256 < x.txnOcc core - t.cost + op.need rs) then .next s
        else
          let y : CoreSt := u.core core
          let u : State := u.setCore core { y with txns := y.txns.filter (fun v => decide (v.id ≠ txn)) }
          .next (((u.runLanes core t.task k op base rs).settleFences core).settleWg core
            (((x.groups.get? t.pos).map (fun g => g.slot)).getD 0))
    | _ => .next s

/-- Do the earlier adds of an add's group leave its memory to it (R184, R228)? -/
def CoreSt.addReady (x : CoreSt) (t : Txn) : Bool :=
  let mine := match t.kind with
    | .exact p _ _ _ => [(p, 16)]
    | .longForm ps _ _ => ps
    | _ => []
  x.txns.all (fun u => decide (t.id ≤ u.id) || decide (u.pos ≠ t.pos) || (match u.kind with
    | .exact p _ _ _ => !mine.any (fun m => overlaps p 16 m.1 m.2)
    | .longForm ps _ _ => !ps.any (fun p => mine.any (fun m => overlaps p.1 p.2 m.1 m.2))
    | _ => true))

/-- EXACT_ADD_APPLY (R283, R284): the atomic unit of a cell's channel applies an add, which wraps modulo 2^128 and counts a
wrap; a poisoned cell stays as it is. -/
def execExactAddApply (core txn : Nat) (s : State) : Host.Outcome State Fault Refusal :=
  let x : CoreSt := s.core core
  match x.txns.find? (fun t => decide (t.id = txn)) with
  | none => .next s
  | some t =>
    match t.kind with
    | .exact pa addend dest va =>
      if !x.addReady t then .next s
      else
        let k := s.paKind pa
        let s : State := s.ncAtomic (k.region?.getD 0) (pa / 32)
        if s.poisoned pa 16 then
          match dest with
          | some _ =>
            .next ((s.pushFault core { pos := t.pos, pc := t.pc, lanes := t.mask, code := 0x14, detail := 2, addr := va }).retire
              core t)
          | none => .next ((s.poisonEvent t.ctx pa).retire core t)
        else
          let old := leNat (s.readBytes pa 16)
          let sum := toSigned 128 old + toSigned 128 addend
          let wrapped := decide (sum < -(2 ^ 127 : Nat)) || decide (((2 ^ 127 : Nat) : Int) ≤ sum)
          let s : State := s.writeMem pa (leBytes 16 (toUnsigned 128 sum))
          let s : State :=
            if wrapped then
              match k.stack? with
              | some st => s.stkCount F.stkExactWrapsCount st 1
              | none => s.bump F.regSramExactWrapsCount (k.region?.getD 0)
            else s
          let s : State := match dest with
            | some (l, d) =>
              s.giveRegs core t.pos (if l = 32 then [⟨32, d, old % 2 ^ 64⟩, ⟨32, d + 1, old / 2 ^ 64⟩]
                else (List.range 4).map (fun j => ⟨l, d + j, old / 2 ^ (32 * j) % 2 ^ 32⟩))
            | none => s
          .next (s.retire core t)
    | _ => .next s

/-- LONG_FORM_ADD (R185, R90, R91): the home agent adds a long form into a slot within the extent of the source's class. -/
def execLongFormAdd (core txn : Nat) (s : State) : Host.Outcome State Fault Refusal :=
  let x : CoreSt := s.core core
  match x.txns.find? (fun t => decide (t.id = txn)) with
  | none => .next s
  | some t =>
    match t.kind with
    | .longForm ps src _ =>
      if !x.addReady t then .next s
      else
        let s : State := (ps.flatMap (fun p => blocksOf p.1 p.2)).foldl (fun (u : State) b =>
          u.ncAtomic (((u.paKind (b * 32)).region?).getD 0) b) s
        match ps.find? (fun p => s.poisoned p.1 p.2) with
        | some p => .next ((s.poisonEvent t.ctx p.1).retire core t)
        | none =>
          let (a, badA) := LongForm.read src
          let (b, badB) := LongForm.read (ps.flatMap (fun p => s.readBytes p.1 p.2))
          let (sum, ev) := a.add b
          let ext := a.cls.slotBytes
          let bytes := (sum.pack ++ List.replicate ext 0).take ext
          let (s, _) := ps.foldl (fun (acc : State × List Byte) p => (acc.1.writeMem p.1 (acc.2.take p.2), acc.2.drop p.2)) (s, bytes)
          let s : State := s.orDrain t.ctx ({ ev with form := ev.form || badA || badB } : LfEvents).toStatus
          .next (s.retire core t)
    | _ => .next s

end Sys2Proof.Machine
end

