-- ==== Sys2Proof/Machine/Tiles.lean ====
section
/-! DEFINITION. The tile movers (04_matrix_engine.md, R117, R118; 06_kwaok_instruction_reference.md, R187 to R189), and the global
accesses of a core's movers and drains. -/

namespace Sys2Proof.Machine

-- accesses of an engine of a core

/-- Where a piece of a range goes. -/
inductive Dest where
  | mem (pa : Nat)
  | host (fn bus : Nat)
deriving DecidableEq, Repr

/-- A range of virtual memory, 4 KiB page by page; or the first failure and its address. A write may go through the host window;
a read of it, and any register, is refused as a hole. -/
def State.spans (s : State) (core : Nat) (k : Task) (kind : AccKind) :
    Nat → Nat → Nat → State × Except (AccRes × Nat) (List (Dest × Nat))
  | 0, _, _ => (s, .ok [])
  | f + 1, va, n =>
    if n = 0 then (s, .ok [])
    else
      let va := va % 2 ^ 64
      let len := min n (4096 - va % 4096)
      let more := fun (u : State) (d : Dest) =>
        match State.spans u core k kind f (va + len) (n - len) with
        | (u, .ok l) => (u, Except.ok ((d, len) :: l))
        | (u, .error e) => (u, .error e)
      match s.access (.core core) k.ctx va kind with
      | (s, .memory pa) => more s (.mem pa)
      | (s, .host o) =>
        match (if kind = .write then s.hostEntry k.part true o else none) with
        | some (fn, bus) => more s (.host fn bus)
        | none => (s, .error (.unmapped, va))
      | (s, .register _) => (s, .error (.unmapped, va))
      | (s, r) => (s, .error (r, va))

/-- Several ranges (address, length). -/
def State.allSpans (s : State) (core : Nat) (k : Task) (kind : AccKind) :
    List (Nat × Nat) → State × Except (AccRes × Nat) (List (List (Dest × Nat)))
  | [] => (s, .ok [])
  | (va, n) :: l =>
    match s.spans core k kind (n / 4096 + 2) va n with
    | (s, .error e) => (s, .error e)
    | (s, .ok x) =>
      match State.allSpans s core k kind l with
      | (s, .ok xs) => (s, .ok (x :: xs))
      | (s, .error e) => (s, .error e)

/-- How an access of an engine that cannot go on leaves it: it waits, it stalls on a fault record, or it faults. -/
inductive EngFail where
  | wait
  | stall (w : EngStall)
  | fault (code : Nat)
deriving DecidableEq, Repr

/-- The failure of an access of a mover (ENGINE_KIND 2) or a drain (3) (R331 to R333, R336). -/
def State.engFail (s : State) (core : Nat) (k : Task) (engine detail : Nat) (kind : AccKind) (va : Nat) (r : AccRes) :
    State × EngFail :=
  match r with
  | .ring c l e =>
    let (s, rec) := s.xfrReport
      { region := regionOfCore core, ctx := k.ctx, va := va, kind := kind, engine := engine, core := core, queue := k.queue,
        tag := k.tag } c l e
    match rec with
    | some n => (s, .stall { region := regionOfCore core, seq := n, detail := detail, va := va })
    | none => (s, .wait)
  | .wait => (s, .wait)
  | r => (s, .fault (r.faultCode.getD 0x10))

/-- Bytes read by an engine of a core through its canvas L2, as .cg accesses (R265), each with whether it is poisoned. -/
def State.engRead (s : State) (core : Nat) : List (Dest × Nat) → State × List (Byte × Bool)
  | [] => (s, [])
  | (.host _ _, n) :: l =>
    let (s, r) := s.engRead core l
    (s, List.replicate n (0, false) ++ r)
  | (.mem pa, n) :: l =>
    let lines := (List.range ((pa + n - 1) / 128 + 1 - pa / 128)).map (fun i => pa / 128 + i)
    let s : State := lines.foldl (fun (u : State) x => u.l2Read (canvasOfCore core) x (sectorMask x [(pa, n)]) false) s
    let bytes := (s.readBytes pa n).zipIdx.map (fun x => (x.1, s.poisoned (pa + x.2) 1))
    let (s, r) := s.engRead core l
    (s, bytes ++ r)

/-- Bytes written by an engine of a core for a group: to memory as .cg accesses, or to the host. Bytes that are poisoned leave
their marks. -/
def State.engWrite (s : State) (core pos : Nat) : List (Dest × Nat) → List (Byte × Bool) → State
  | [], _ => s
  | (.mem pa, n) :: l, bs =>
    let mine := bs.take n
    let bytes : NMap Byte := mine.zipIdx.foldl (fun (m : NMap Byte) x => m.set (pa + x.2) x.1.1) []
    let s : State := s.storeMemory core false bytes
    let s : State := mine.zipIdx.foldl (fun (u : State) x => if x.1.2 then u.markPoison ((pa + x.2) / 32) else u) s
    s.engWrite core pos l (bs.drop n)
  | (.host fn bus, n) :: l, bs =>
    let s : State := s.send (.hostWrite fn bus ((bs.take n).map Prod.fst))
    let x : CoreSt := s.core core
    let s : State := s.setCore core { x with groups := x.groups.adjust pos (fun g => { g with hostWrote := true }) }
    s.engWrite core pos l (bs.drop n)

/-- Do some pieces go to a host that takes no requests now (R362)? -/
def State.hostHolds (s : State) (l : List (List (Dest × Nat))) : Bool :=
  !s.hostOpen && l.any (fun x => x.any (fun d => match d.1 with
    | .host _ _ => true
    | .mem _ => false))

-- tm.copy (R187 to R189)

/-- The DETAIL of an illegal descriptor, block or reference: the lowest among its offending fields (R166). -/
def blockDetail (l : List (Nat × Nat × Bool)) : Option Nat :=
  (illegal? (l.map (fun x => (64 * x.1 + x.2.1, x.2.2)))).map (fun d => 0x8000 + d)

/-- The checks of a tile-mover descriptor of six registers. -/
def tmBad (u : Nat → Nat) : Option Nat :=
  let fmt := Format.ofCode (natBits (u 4) 59 56)
  let w := (fmt.map Format.width).getD 8
  let per := if w = 4 then 2 else if w = 6 then 4 else 1
  blockDetail [(0, 0, decide (u 0 % 16 ≠ 0)), (1, 0, decide (natBits (u 1) 31 0 = 0)), (1, 32, decide (natBits (u 1) 63 32 = 0)),
    (2, 32, decide (natBits (u 2) 63 32 % per ≠ 0)), (3, 0, decide (natBits (u 3) 39 0 % 16 ≠ 0)),
    (3, 40, decide (natBits (u 3) 63 40 ≠ 0)), (4, 0, decide (natBits (u 4) 17 0 % 16 ≠ 0)),
    (4, 39, decide (natBits (u 4) 55 39 % 16 ≠ 0)), (4, 56, fmt.isNone), (4, 60, (u 4).testBit 60 && decide (w < 8)),
    (4, 62, decide (natBits (u 4) 63 62 ≠ 0)), (5, 0, (u 4).testBit 61 && decide (natBits (u 5) 7 0 ≠ 0)),
    (5, 8, decide (48 ≤ natBits (u 5) 13 8)), (5, 15, decide (natBits (u 5) 63 15 ≠ 0))]

/-- A descriptor as a mover accepts it. -/
def tmDesc (u : Nat → Nat) (id pos lanes : Nat) (pc : Word) : TmDesc :=
  { id := id, pos := pos, pc := pc, lanes := lanes, va := BitVec.ofNat 64 (u 0), rows := natBits (u 1) 31 0,
    cols := natBits (u 1) 63 32, origRow := toSigned 32 (natBits (u 2) 31 0), origCol := toSigned 32 (natBits (u 2) 63 32),
    pitch := natBits (u 3) 39 0, slm := natBits (u 4) 17 0, tileRows := natBits (u 4) 26 18 + 1,
    tileCols := natBits (u 4) 38 27 + 1, slmPitch := natBits (u 4) 55 39,
    fmt := (Format.ofCode (natBits (u 4) 59 56)).getD .fp32, transpose := (u 4).testBit 60, toMem := (u 4).testBit 61,
    mcast := natBits (u 5) 7 0, counter := natBits (u 5) 13 8, signal := (u 5).testBit 14 }

/-- The shared rows of a descriptor: how many, and the elements of each. -/
def TmDesc.slmRows (d : TmDesc) : Nat := if d.transpose then d.tileCols else d.tileRows
def TmDesc.slmElems (d : TmDesc) : Nat := if d.transpose then d.tileRows else d.tileCols

/-- The first byte past the shared rows. -/
def TmDesc.slmEnd (d : TmDesc) : Nat := d.slm + (d.slmRows - 1) * d.slmPitch + d.fmt.rowBytes d.slmElems

/-- tm.copy (R187): a descriptor is checked and handed to a mover; with 128 outstanding it stalls its group (R117). -/
def execTmCopy (x : Issue) (s : State) : Host.Outcome State Fault Refusal :=
  s.onIssue x
    (fun _ => [(12, x.ext.isSome), (17, decide (x.d ≠ 0)), (25, decide (58 < x.a)), (33, decide (x.b ≠ 0)), (41, decide (x.c ≠ 0)),
      (50, decide (x.m 63 50 ≠ 0))])
    ((List.range 6).map (fun j => (true, x.a + j)))
    (fun s r =>
      if r.exec = [] then s.done x r r.g
      else
        let u := fun (j : Nat) => r.g.readU (x.a + j)
        match tmBad u with
        | some d => s.precise x r 0x01 d
        | none =>
          let y : CoreSt := s.core x.core
          let d := tmDesc u y.nextId x.pos (laneMask r.set) r.pc
          let (lo, hi) := r.slmRange
          if d.slm < lo ∨ hi < d.slmEnd then s.precise x r 0x06 0 (BitVec.ofNat 64 d.slm)
          else if 128 ≤ (if x.m 49 49 = 0 then y.tm0 else y.tm1).length then s
          else
            let s : State := s.done x r r.g
            let y : CoreSt := s.core x.core
            let z : CoreSt := { y with nextId := y.nextId + 1 }
            s.setCore x.core
              (if x.m 49 49 = 0 then { z with tm0 := z.tm0 ++ [d] } else { z with tm1 := z.tm1 ++ [d] }))

-- the transfer (R117, R118, R189)

/-- The tensor columns that a descriptor's tile covers inside the tensor. -/
def TmDesc.colRange (d : TmDesc) : Nat × Nat :=
  (d.origCol.toNat, min d.cols (d.origCol + (d.tileCols : Int)).toNat)

/-- The tile rows that lie inside the tensor. -/
def TmDesc.rowsIn (d : TmDesc) : List Nat :=
  let (lo, hi) := d.colRange
  if hi ≤ lo then []
  else (List.range d.tileRows).filter (fun (r : Nat) => decide (0 ≤ d.origRow + (r : Int)) && decide (d.origRow + (r : Int) < (d.rows : Int)))

/-- The virtual addresses and lengths of the tensor's bytes under those rows. -/
def TmDesc.ranges (d : TmDesc) : List (Nat × Nat) :=
  let (lo, hi) := d.colRange
  d.rowsIn.map (fun (r : Nat) =>
    (d.va.toNat + (d.origRow + (r : Int)).toNat * d.pitch + d.fmt.rowBytes lo, d.fmt.rowBytes hi - d.fmt.rowBytes lo))

/-- Does an element of packed bytes touch poison? -/
def elemBad (w j : Nat) (bad : List Bool) : Bool :=
  (List.range ((w * j + w - 1) / 8 + 1 - w * j / 8)).any (fun i => bad.getD (w * j / 8 + i) false)

/-- A tile's elements with their poison, keyed row × 4096 + column; positions outside the tensor are +0. -/
abbrev TileGrid := NMap (Nat × Bool)

/-- A tile as the tensor's rows give it. -/
def TmDesc.gridOf (d : TmDesc) (rows : List (List (Byte × Bool))) : TileGrid :=
  let (lo, hi) := d.colRange
  let c0 := ((lo : Int) - d.origCol).toNat
  (d.rowsIn.zip rows).foldl (fun (m : TileGrid) x =>
    let vals := d.fmt.unpackRow (hi - lo) (x.2.map Prod.fst)
    let bad := x.2.map Prod.snd
    vals.zipIdx.foldl (fun (m : TileGrid) v => m.put (0, false) (x.1 * 4096 + c0 + v.2) (v.1, elemBad d.fmt.width v.2 bad)) m) []

/-- Element e of shared row n. -/
def TmDesc.key (d : TmDesc) (n e : Nat) : Nat := if d.transpose then e * 4096 + n else n * 4096 + e

/-- A tile written to the shared local memory of a core; its poison marks the words it lands in (R136). -/
def TmDesc.toSlm (d : TmDesc) (g : TileGrid) (x : CoreSt) : CoreSt :=
  (List.range d.slmRows).foldl (fun (x : CoreSt) n =>
    let es := (List.range d.slmElems).map (fun e => g.getD (d.key n e) (0, false))
    let a := d.slm + n * d.slmPitch
    let bytes : NMap Byte := (d.fmt.packRow (es.map Prod.fst)).zipIdx.foldl (fun (m : NMap Byte) b => m.set (a + b.2) b.1) []
    let x : CoreSt := x.slmStore bytes
    let words := es.zipIdx.flatMap (fun e =>
      if e.1.2 then [(a + d.fmt.width * e.2 / 8) / 8, (a + (d.fmt.width * e.2 + d.fmt.width - 1) / 8) / 8] else [])
    { x with slmPoison := words.foldl (fun (m : NMap Nat) w => m.set w 1) x.slmPoison }) x

/-- The tile that a core's shared local memory holds. -/
def TmDesc.ofSlm (d : TmDesc) (x : CoreSt) : TileGrid :=
  (List.range d.slmRows).foldl (fun (m : TileGrid) n =>
    let a := d.slm + n * d.slmPitch
    let bytes := x.slmBytes a (d.fmt.rowBytes d.slmElems)
    let bad := (List.range bytes.length).map (fun i => x.slmBad (a + i) 1)
    (d.fmt.unpackRow d.slmElems bytes).zipIdx.foldl (fun (m : TileGrid) v =>
      m.put (0, false) (d.key n v.2) (v.1, elemBad d.fmt.width v.2 bad)) m) []

/-- The bytes of a tensor row under a tile, over the bytes that stand there: a group of the row's end is filled with zeros, one that
other elements of the tensor share keeps them (R49, R189). -/
def TmDesc.rowOut (d : TmDesc) (g : TileGrid) (r : Nat) (old : List Byte) : List (Byte × Bool) :=
  let (lo, hi) := d.colRange
  let c0 := ((lo : Int) - d.origCol).toNat
  let es := (List.range (hi - lo)).map (fun j => g.getD (r * 4096 + c0 + j) (0, false))
  let per := if d.fmt.width = 4 then 2 else if d.fmt.width = 6 then 4 else 1
  let full := (hi - lo + per - 1) / per * per
  let rest := if hi < d.cols then (d.fmt.unpackRow full old).drop (hi - lo) else []
  let bytes := d.fmt.packRow (es.map Prod.fst ++ rest)
  bytes.zipIdx.map (fun b => (b.1, es.zipIdx.any (fun e =>
    e.1.2 && decide (d.fmt.width * e.2 / 8 ≤ b.2) && decide (b.2 ≤ (d.fmt.width * e.2 + d.fmt.width - 1) / 8))))

/-- The cores that a descriptor writes (R118). -/
def State.tmTargets (s : State) (core : Nat) (k : Task) (d : TmDesc) : List Nat :=
  if d.mcast = 0 then [core]
  else
    ((List.range 8).filter (fun n => d.mcast.testBit n)).map (fun n => clusterOfCore core * 8 + n) |>.filter (fun c =>
      !s.vacant c && decide (c ∉ s.stopped) && (match s.running? c with
        | some (_, k') => decide (k'.ctx = k.ctx)
        | none => false))

/-- The counter of a finished descriptor raised in a core (R118, R189). -/
def State.tmSignal (s : State) (k : Task) (d : TmDesc) (c : Nat) : State :=
  if d.signal then
    if (s.running? c).isSome then (s.addTo (.core c d.counter) 1 k.ctx).settleCtr (.core c d.counter) else s.discardAdd c k.ctx
  else s

/-- The first descriptor of a mover leaves it. -/
def State.tmPop (s : State) (core mover : Nat) : State :=
  let x : CoreSt := s.core core
  s.setCore core (if mover = 0 then { x with tm0 := x.tm0.drop 1 } else { x with tm1 := x.tm1.drop 1 })

/-- TILE_MOVE_COMPLETE (R117, R118, R189): a mover moves the tile of its first descriptor and adds to its counter in each core
written; or it stalls on a translation fault record, or its group takes a deferred fault with DETAIL 3. -/
def execTileMoveComplete (core mover : Nat) (s : State) : Host.Outcome State Fault Refusal :=
  let x : CoreSt := s.core core
  match (if mover = 0 then x.tm0 else x.tm1), x.task.bind s.task? with
  | d :: _, some k =>
    if mover < 2 ∧ core ∉ s.stopped ∧ s.partLive k.part = true ∧ x.tmStall.has mover = false then
      let kind : AccKind := if d.toMem then .write else .read
      match s.allSpans core k kind d.ranges with
      | (s, .error (r, va)) =>
        match s.engFail core k 2 3 kind va r with
        | (s, .wait) => .next s
        | (s, .stall w) =>
          let y : CoreSt := s.core core
          .next (s.setCore core { y with tmStall := y.tmStall.set mover w })
        | (s, .fault code) =>
          .next (((s.tmPop core mover).pushFault core
            { pos := d.pos, pc := d.pc, lanes := d.lanes, code := code, detail := 3, addr := BitVec.ofNat 64 va }).settleFences core)
      | (s, .ok pieces) =>
        if s.hostHolds pieces then .next s
        else if d.toMem then
          let g := d.ofSlm (s.core core)
          let s : State := (d.rowsIn.zip pieces).foldl (fun (u : State) x =>
            let old := x.2.flatMap (fun p => match p.1 with
              | .mem pa => u.readBytes pa p.2
              | .host _ _ => List.replicate p.2 0)
            u.engWrite core d.pos x.2 (d.rowOut g x.1 old)) s
          .next (((s.tmPop core mover).tmSignal k d core).settleFences core)
        else
          let (s, rows) := pieces.foldl (fun (acc : State × List (List (Byte × Bool))) p =>
            let (u, bs) := acc.1.engRead core p
            (u, acc.2 ++ [bs])) (s, [])
          let g := d.gridOf rows
          let cs := s.tmTargets core k d
          let s : State := cs.foldl (fun (u : State) c => u.setCore c (d.toSlm g (u.core c))) s
          .next ((cs.foldl (fun (u : State) c => u.tmSignal k d c) (s.tmPop core mover)).settleFences core)
    else .next s
  | _, _ => .next s

end Sys2Proof.Machine
end

