-- ==== Sys2Proof/Machine/Matrix.lean ====
section
/-! DEFINITION. The matrix unit (04_matrix_engine.md, R102 to R116, R120; 06_kwaok_instruction_reference.md, R192 to R199; 03_exact_accumulation.md,
R73 to R101). -/

namespace Sys2Proof.Machine

-- legality (R103, R192 to R197)

/-- Is a slot present in a layout (R102)? -/
def slotPresent (layout slot : Nat) : Bool := decide (slot < (if layout = 2 then 1 else 2))

/-- The checks that every matrix instruction makes: the guard, and no extension word. -/
def Issue.mxBad (i : Issue) (slotPos slot layout : Nat) : List Bad :=
  [(12, i.ext.isSome), (13, decide (i.gp ≠ 7)), (16, i.gn), (slotPos, !slotPresent layout slot)]

/-- Is a subnormal or a rounding modifier legal (R63)? -/
def subnOk (c : Nat) : Bool := decide (c ≤ 3) || decide (c = 7)
def rmOk (c : Nat) : Bool := decide (c ≤ 4) || decide (c = 7)

def Issue.mmaA (i : Issue) : Option Format := Format.ofCode (i.m 57 54)
def Issue.mmaB (i : Issue) : Option Format := Format.ofCode (i.m 61 58)
def Issue.sa (i : Issue) : Bool := decide (i.m 49 49 = 1)
def Issue.sb (i : Issue) : Bool := decide (i.m 50 50 = 1)

/-- Is an operand's field legal: a uniform register with an offset, or the base of sixteen registers (R110, R193)? -/
def mxSrcOk (regs : Bool) (n r : Nat) : Bool := if regs then decide (n % 16 = 0) && decide (n + 15 < r) else decide (n < 64)

/-- The checks of mx.mma (R193): a pair of another class offends by its formats. -/
def Issue.mmaBad (i : Issue) (r layout : Nat) : List Bad :=
  let cls := match i.mmaA, i.mmaB with
    | some a, some b => pairClass a b
    | _, _ => none
  let kMax := match i.mmaA, i.mmaB with
    | some a, some b => (layoutClass layout).kInst a b
    | _, _ => 64
  i.mxBad 17 i.d layout
    ++ [(25, !mxSrcOk i.sa i.a r), (33, !mxSrcOk i.sb i.b r), (41, decide (i.c = 0) || decide (kMax < i.c)),
      (51, !subnOk (i.m 53 51)), (54, i.mmaA.isNone), (58, i.mmaB.isNone),
      (54, i.mmaA.isSome && i.mmaB.isSome && decide (cls ≠ some (layoutClass layout))), (62, decide (i.m 63 62 ≠ 0))]

/-- The registers that a matrix operand names. -/
def mxSrcRegs (regs : Bool) (n : Nat) : List (Bool × Nat) :=
  if regs then (List.range 16).map (fun k => (false, n + k)) else [(true, n)]

/-- The bytes of a register tile (R110): byte b lies in byte b mod 4 of register n + b / 128 of thread b / 4 mod 32. -/
def Group.tileRegs (g : Group) (n bytes : Nat) : NMap Byte :=
  (List.range bytes).foldl (fun (m : NMap Byte) b =>
    m.put 0 b (BitVec.ofNat 8 (g.readV (b / 4 % 32) (n + b / 128) / 256 ^ (b % 4)))) []

/-- An instruction that has issued enters the matrix queue. -/
def State.enqueueMx (s : State) (i : Issue) (r : Ready) (op : MxOp) : State :=
  let s : State := s.done i r r.g
  let x : CoreSt := s.core i.core
  s.setCore i.core { x with
    mxq := x.mxq ++ [{ id := x.nextId, ctx := r.k.ctx, task := r.t, pos := i.pos, pc := r.pc, op := op }],
    nextId := x.nextId + 1 }

def MxOp.slot : MxOp → Nat
  | .mma slot .. => slot
  | .ldlf slot _ => slot
  | .drain d => d.slot

/-- The count that a slot will have when the queued instructions have run; none while a queued load of long forms, which can fail,
keeps it open. -/
def CoreSt.slotCount (x : CoreSt) (slot : Nat) : Option Nat :=
  x.mxq.foldl (fun (n : Option Nat) e =>
    if e.op.slot ≠ slot then n
    else
      match e.op with
      | .mma _ k .. => n.map (fun v => v + k)
      | .ldlf .. => none
      | .drain d => if d.clear then some 0 else n) (some (x.acc.getD slot {}).count)

/-- A matrix instruction past its legality (R109, R146): the whole group issues it, its shared operands are aligned and within the
workgroup's slot, each given as address, length and alignment. -/
def State.mxChecked (s : State) (i : Issue) (r : Ready) (ops : List (Nat × Nat × Nat)) (f : State → State) : State :=
  if r.set.length < 32 then s.precise i r 0x02 0
  else
    match ops.find? (fun o => decide (o.1 % o.2.2 ≠ 0)) with
    | some o => s.precise i r 0x05 o.2.2 (BitVec.ofNat 64 o.1)
    | none =>
      let (lo, hi) := r.slmRange
      match ops.find? (fun o => decide (o.1 < lo) || decide (hi < o.1 + o.2.1)) with
      | some o => s.precise i r 0x06 0 (BitVec.ofNat 64 o.1)
      | none => f s

/-- mx.mma (R193, R75, R107 to R113): with four instructions queued it stalls its group. -/
def execMxMma (x : Issue) (s : State) : Host.Outcome State Fault Refusal :=
  s.onIssue x (fun r => x.mmaBad r.k.desc.regs r.k.desc.layout) (mxSrcRegs x.sa x.a ++ mxSrcRegs x.sb x.b)
    (fun s r =>
      let fa := x.mmaA.getD .fp32
      let fb := x.mmaB.getD .fp32
      let c := layoutClass r.k.desc.layout
      let k := c.kInst fa fb
      let src : Bool → Nat → Format → List (Nat × Nat × Nat) := fun regs n f =>
        if regs then [] else [(r.g.readU n % 2 ^ 18, c.tileBytes f k, 256)]
      s.mxChecked x r (src x.sa x.a fa ++ src x.sb x.b fb) (fun s =>
        let y : CoreSt := s.core x.core
        match y.slotCount x.d with
        | none => s
        | some n =>
          if c.capacity < n + x.c then s.precise x r 0x03 x.d
          else if 4 ≤ y.mxq.length then s
          else
            let tile := fun (regs : Bool) (n : Nat) (f : Format) =>
              if regs then Tile.regs (r.g.tileRegs n (c.tileBytes f k)) else Tile.slm (r.g.readU n % 2 ^ 18)
            s.enqueueMx x r (.mma x.d x.c fa fb (tile x.sa x.a fa) (tile x.sb x.b fb) (r.k.env 7 (x.m 53 51)).flushIn)))

/-- mx.ldlf (R194). -/
def execMxLdlf (x : Issue) (s : State) : Host.Outcome State Fault Refusal :=
  s.onIssue x
    (fun r => x.mxBad 17 x.d r.k.desc.layout
      ++ [(25, decide (64 ≤ x.a)), (33, decide (x.b ≠ 0)), (41, decide (x.c ≠ 0)), (49, decide (x.mod ≠ 0))])
    [(true, x.a)]
    (fun s r =>
      let c := layoutClass r.k.desc.layout
      let o := r.g.readU x.a % 2 ^ 18
      s.mxChecked x r [(o, c.dim * c.dim * c.slotBytes, 8)] (fun s =>
        if 4 ≤ (s.core x.core).mxq.length then s else s.enqueueMx x r (.ldlf x.d o)))

/-- mx.zero (R192): the slot is cleared once nothing queued names it. -/
def execMxZero (x : Issue) (s : State) : Host.Outcome State Fault Refusal :=
  s.onIssue x
    (fun r => x.mxBad 17 x.d r.k.desc.layout
      ++ [(25, decide (x.a ≠ 0)), (33, decide (x.b ≠ 0)), (41, decide (x.c ≠ 0)), (49, decide (x.mod ≠ 0))])
    []
    (fun s r =>
      s.mxChecked x r [] (fun s =>
        if (s.core x.core).mxq.any (fun e => decide (e.op.slot = x.d)) then s
        else
          let s : State := s.done x r r.g
          let y : CoreSt := s.core x.core
          s.setCore x.core { y with acc := y.acc.del x.d }))

-- mx.drain (R195 to R199)

def Issue.drLf (i : Issue) : Bool := decide (i.m 50 50 = 1)
def Issue.drRet (i : Issue) : Bool := decide (i.m 56 56 = 1)

/-- The checks of mx.drain's word (R195). -/
def Issue.drainBad (i : Issue) (layout : Nat) : List Bad :=
  let lf := i.drLf
  let bias := i.m 53 52
  i.mxBad 33 i.b layout
    ++ [(17, if i.drRet && !lf then decide (i.d % 2 ≠ 0) || decide (62 < i.d) else decide (i.d ≠ 0)), (25, decide (55 < i.a)),
      (41, if lf then decide (i.c ≠ 0) else (Format.ofCode (i.c % 16)).isNone), (45, !lf && decide (16 ≤ i.c)),
      (52, if lf then decide (bias ≠ 0) else decide (bias = 3)), (54, (lf || decide (bias = 0)) && decide (i.m 55 54 ≠ 0)),
      (56, lf && i.drRet), (57, if lf then decide (i.m 59 57 ≠ 0) else !rmOk (i.m 59 57)),
      (60, if lf then decide (i.m 62 60 ≠ 0) else !subnOk (i.m 62 60)), (63, decide (i.m 63 63 ≠ 0))]

/-- A drain block read at issue (R196). -/
def Issue.drainOp (i : Issue) (g : Group) (k : Task) : DrainOp :=
  let u := fun (j : Nat) => g.readU (i.a + j)
  let w := fun (n : Nat) => BitVec.ofNat 32 n
  { slot := i.b, lf := i.drLf, toGlobal := decide (i.m 49 49 = 1), clear := decide (i.m 51 51 = 1),
    fmt := (Format.ofCode (i.c % 16)).getD .fp32, bias := i.m 53 52,
    biasFmt := [Format.fp64, .fp32, .fp16, .bf16].getD (i.m 55 54) .fp64, blotRet := if i.drRet then some i.d else none,
    env := k.env (i.m 59 57) (i.m 62 60), seed := k.seed,
    outAddr := if i.m 49 49 = 1 then u 0 else u 0 % 2 ^ 18, pitch := natBits (u 1) 39 0, rows := natBits (u 1) 47 40,
    cols := natBits (u 1) 55 48, row0 := natBits (u 2) 31 0, col0 := natBits (u 2) 63 32, tcols := natBits (u 3) 31 0,
    tensorId := natBits (u 3) 63 32, scales := [w (u 4), w (u 4 / 2 ^ 32), w (u 5)], biasScale := natBits (u 5) 63 32,
    biasAddr := u 6, recAddr := u 7, recCtl := u 8 }

/-- The checks of a drain block (R197), each at the first of the fields that offend together. -/
def State.drainBlockBad (s : State) (ctx : Nat) (d : DrainOp) (top : Nat) (dim : Nat) : Option Nat :=
  let keep := s.recordKeep ctx d.recAddr d.recCtl
  blockDetail [(1, 40, decide (d.rows = 0) || decide (dim < d.rows)), (1, 48, decide (d.cols = 0) || decide (dim < d.cols)),
    (1, 56, decide (top ≠ 0)), (1, 48, decide (d.tcols < d.col0 + d.cols)),
    (1, 40, decide (2 ^ 48 ≤ (d.row0 + d.rows - 1) * d.tcols + d.col0 + d.cols - 1)),
    (7, 0, !d.lf && decide (d.recAddr ≠ 0) && keep.any && decide (d.recAddr % 64 ≠ 0)),
    (8, 3, decide (natBits d.recCtl 7 3 ≠ 0)), (8, 24, decide (16 < natBits d.recCtl 28 24)),
    (8, 29, decide (natBits d.recCtl 63 29 ≠ 0))]

/-- The width that an output's address and pitch are multiples of, and the bytes of an output row. -/
def DrainOp.unit (d : DrainOp) : Nat := if d.lf then 8 else max 1 (d.fmt.width / 8)
def DrainOp.rowBytes (d : DrainOp) (c : AccClass) : Nat := if d.lf then d.cols * c.slotBytes else d.fmt.rowBytes d.cols

/-- mx.drain (R195 to R199): its block is read and checked at issue. -/
def execMxDrain (x : Issue) (s : State) : Host.Outcome State Fault Refusal :=
  s.onIssue x (fun r => x.drainBad r.k.desc.layout)
    ((List.range 9).map (fun j => (true, x.a + j)) ++ (if x.drRet then [(true, x.d), (true, x.d + 1)] else []))
    (fun s r =>
      let c := layoutClass r.k.desc.layout
      let d := x.drainOp r.g r.k
      match s.drainBlockBad r.k.ctx d (natBits (r.g.readU (x.a + 1)) 63 56) c.dim with
      | some b => s.precise x r 0x01 b
      | none =>
        if r.set.length < 32 then s.precise x r 0x02 0
        else if d.outAddr % d.unit ≠ 0 ∨ d.pitch % d.unit ≠ 0 then s.precise x r 0x05 d.unit (BitVec.ofNat 64 d.outAddr)
        else
          let (lo, hi) := r.slmRange
          if d.toGlobal = false ∧ (d.outAddr < lo ∨ hi < d.outAddr + (d.rows - 1) * d.pitch + d.rowBytes c) then
            s.precise x r 0x06 0 (BitVec.ofNat 64 d.outAddr)
          else if 4 ≤ (s.core x.core).mxq.length then s
          else s.enqueueMx x r (.drain d))

-- execution (R112, R114, R77, R79)

/-- The bytes of an operand tile as it is staged; none where it meets poison (R136). -/
def CoreSt.tile (x : CoreSt) (t : Tile) (n : Nat) : Option (List Byte) :=
  match t with
  | .regs b => some ((List.range n).map (fun i => b.getD i 0))
  | .slm o => if x.slmBad o n then none else some (x.slmBytes o n)

/-- The elements of one K position of a tile, read under the subnormal mode, with their FLUSH events. -/
def tileColumn (c : AccClass) (f : Format) (env : RoundEnv) (img : List Byte) (k : Nat) : List (Val × FpFlags) :=
  let n := c.dim * f.width / 8
  (f.unpackRow c.dim ((img.drop (k * n)).take n)).map (f.read env)

/-- A slot's outputs after the products of the present K positions (R108). -/
def mmaAcc (c : AccClass) (ints : Bool) (cols : List (List (Val × FpFlags) × List (Val × FpFlags))) (outs : NMap Acc) : NMap Acc :=
  (List.range c.dim).foldl (fun (m : NMap Acc) i =>
    (List.range c.dim).foldl (fun (m : NMap Acc) j =>
      let key := i * c.dim + j
      m.put {} key (cols.foldl (fun (a : Acc) ab =>
        a.addTerm c ints (ab.1.getD i (Val.zero false, .none)).1 (ab.2.getD j (Val.zero false, .none)).1) (m.getD key {}))) m) outs

/-- The width of a significand with its hidden bit; of an integer, its magnitude (R104). -/
def Format.sigBits (f : Format) : Nat := if f.isFloat then f.mant + 1 else f.width

/-- Twice the slice products per product (R104). -/
def slicePairs (a b : Format) : Nat :=
  let (x, y) := (a.sigBits, b.sigBits)
  if x ≤ 4 ∧ y ≤ 4 then 1 else 2 * (((x + 7) / 8) * ((y + 7) / 8))

/-- The steps that an instruction occupies the lane array (R105, R107). -/
def AccClass.mmaSteps (c : AccClass) (a b : Format) : Nat :=
  let k := c.kInst a b
  Nat.max (k * slicePairs a b * (c.dim * c.dim) / 8192) (k * c.dim * (a.width + b.width) / 1024)

/-- The instruction at the head of the matrix queue leaves it, as do its fences' waits. -/
def State.mxPop (s : State) (core : Nat) (e : MxEntry) : State :=
  let x : CoreSt := s.core core
  let slot := ((x.groups.get? e.pos).map (fun g => g.slot)).getD 0
  let y : CoreSt := { x with mxq := x.mxq.drop 1 }
  (s.setCore core y.settleFences).settleWg core slot

/-- A deferred fault of a matrix instruction, which leaves the queue. -/
def State.mxFail (s : State) (core : Nat) (e : MxEntry) (code detail addr : Nat) : State :=
  (s.pushFault core
    { pos := e.pos, pc := e.pc, lanes := 2 ^ 32 - 1, code := code, detail := detail, addr := BitVec.ofNat 64 addr }).mxPop core e

/-- A multiply-accumulate runs: one indivisible update of its slot (R114). -/
def State.runMma (s : State) (core : Nat) (k : Task) (e : MxEntry) (slot kv : Nat) (fa fb : Format) (ta tb : Tile)
    (flushIn : Bool) : State :=
  let x : CoreSt := s.core core
  let c := layoutClass k.desc.layout
  let n := c.kInst fa fb
  let at_ := fun (t : Tile) => match t with
    | .slm o => o
    | .regs _ => 0
  match x.tile ta (c.tileBytes fa n), x.tile tb (c.tileBytes fb n) with
  | some a, some b =>
    let env : RoundEnv := { flushIn := flushIn }
    let cols := (List.range kv).map (fun i => (tileColumn c fa env a i, tileColumn c fb env b i))
    let flags := cols.foldl (fun (f : FpFlags) ab => (ab.1 ++ ab.2).foldl (fun (g : FpFlags) v => g.or v.2) f) FpFlags.none
    let old := x.acc.getD slot {}
    let new : AccSlot := { count := old.count + kv, outs := mmaAcc c (!fa.isFloat && !fb.isFloat) cols old.outs }
    let s : State := (s.setCore core { x with acc := x.acc.set slot new }).orFlags e.ctx flags
    let s : State := s.bumpRun F.mxuCountCtlRun F.mxuActiveStepsCount core (c.mmaSteps fa fb)
    (s.bumpRun F.mxuCountCtlRun F.mxuProductsCount core (kv * c.dim * c.dim)).mxPop core e
  | none, _ => s.mxFail core e 0x14 0 (at_ ta)
  | _, none => s.mxFail core e 0x14 0 (at_ tb)

/-- A load of a tile of long forms runs: every element is checked, then all are applied or none (R92, R194). The fault of a refused
element names its slot, and no address (assumption 16). -/
def State.runLdlf (s : State) (core : Nat) (k : Task) (e : MxEntry) (slot off : Nat) : State :=
  let x : CoreSt := s.core core
  let c := layoutClass k.desc.layout
  let n := c.dim * c.dim
  if x.slmBad off (n * c.slotBytes) then s.mxFail core e 0x14 0 off
  else
    let old := x.acc.getD slot {}
    let forms := (List.range n).map (fun i =>
      let a := off + i * c.slotBytes
      (a, LongForm.parse (x.slmBytes a c.slotBytes)))
    let fail : Nat × Option LongForm → Option Nat := fun f => match f.2 with
      | none => some 0x04
      | some l => (loadCheck c old.count l).map (fun (b : LoadFail) => match b with
        | .malformed => 0x04
        | .capacity => 0x03)
    match forms.find? (fun f => (fail f).isSome) with
    | some f => s.mxFail core e ((fail f).getD 0x04) slot 0
    | none =>
      let outs := forms.zipIdx.foldl (fun (m : NMap Acc) f =>
        m.put {} f.2 (Acc.load (m.getD f.2 {}) (f.1.2.getD ⟨c, {}⟩))) old.outs
      let new : AccSlot := { count := old.count + c.capacity / 2, outs := outs }
      (s.setCore core { x with acc := x.acc.set slot new }).mxPop core e

/-- A drain's rounded elements, row by row, each with its linear index (R82, R197). -/
def DrainOp.elements (d : DrainOp) (c : AccClass) (x : AccSlot) (bias : List Nat) : List (List (Nat × Rounded)) :=
  (List.range d.rows).map (fun i => (List.range d.cols).map (fun j =>
    let idx := (d.row0 + i) * d.tcols + d.col0 + j
    let env := if d.env.rm = .sr then { d.env with draw := srDraw d.seed d.tensorId idx } else d.env
    let b : Option Bias :=
      if d.bias = 0 then none
      else some { fmt := d.biasFmt, bits := bias.getD (if d.bias = 1 then j else i) 0, scale := d.biasScale }
    (idx, drainElement d.fmt env (combinedScale d.scales) b ⟨c, x.outs.getD (i * c.dim + j) {}⟩)))

/-- A drain's output rows in long form (R86). -/
def DrainOp.longRows (d : DrainOp) (c : AccClass) (x : AccSlot) : List (List Byte) :=
  (List.range d.rows).map (fun i => (List.range d.cols).flatMap (fun j =>
    LongForm.slot ⟨c, x.outs.getD (i * c.dim + j) {}⟩))

/-- The tile records of a drain's elements (R94, R96). -/
def drainTile (base width : Nat) (l : List (List (Nat × Rounded))) : TileRecord :=
  l.foldl (fun (t : TileRecord) row => row.foldl (fun (t : TileRecord) e => t.element (studyBase base) width e.1 e.2.cls) t) {}

/-- The tile blot record as the two uniform registers hold it (R199). -/
def TileRecord.blot (t : TileRecord) (cols : Nat) : Nat × Nat :=
  match t.first with
  | some (idx, kind) => (idx / cols + idx % cols * 2 ^ 32, kind + 4 + 8 * t.specials)
  | none => (2 ^ 64 - 1, 0)

/-- Where a drain's bias elements stand, its output rows, and its record, as ranges of virtual memory. -/
def DrainOp.biasRange (d : DrainOp) : List (Nat × Nat) :=
  if d.lf ∨ d.bias = 0 then [] else [(d.biasAddr, (if d.bias = 1 then d.cols else d.rows) * (d.biasFmt.width / 8))]

def DrainOp.outRanges (d : DrainOp) (c : AccClass) : List (Nat × Nat) :=
  if d.toGlobal then (List.range d.rows).map (fun i => (d.outAddr + i * d.pitch, d.rowBytes c)) else []

/-- The first of several groups of ranges that cannot be reached, with its access kind and the DETAIL of its fault. -/
def State.drainSpans (s : State) (core : Nat) (k : Task) :
    List (AccKind × Nat × List (Nat × Nat)) → State × Except (AccKind × Nat × AccRes × Nat) (List (List (List (Dest × Nat))))
  | [] => (s, .ok [])
  | (kind, detail, l) :: rest =>
    match s.allSpans core k kind l with
    | (s, .error (r, va)) => (s, .error (kind, detail, r, va))
    | (s, .ok x) =>
      match State.drainSpans s core k rest with
      | (s, .ok xs) => (s, .ok (x :: xs))
      | (s, .error e) => (s, .error e)

/-- A drain's blot return, flags and record (R84, R95, R97, R101, R199). -/
def State.drainRecords (s : State) (core : Nat) (e : MxEntry) (d : DrainOp) (els : List (List (Nat × Rounded)))
    (record : List (Dest × Nat)) : State :=
  let keep := s.recordKeep e.ctx d.recAddr d.recCtl
  let tile := drainTile keep.base keep.width els
  let flags := els.foldl (fun (f : FpFlags) row => row.foldl (fun (g : FpFlags) x => g.or x.2.flags) f) FpFlags.none
  let s : State := (s.orFlags e.ctx flags).orDrain e.ctx (if tile.specials = 0 then 0 else 1)
  let s : State := match d.blotRet with
    | some u =>
      let x : CoreSt := s.core core
      let b := tile.blot d.tcols
      s.setCore core { x with groups := x.groups.adjust e.pos (fun g => (g.writeU u b.1).writeU (u + 1) b.2) }
    | none => s
  if d.recAddr = 0 ∨ keep.any = false then s
  else
    let pieces := record.filterMap (fun p => match p.1 with
      | .mem pa => some (pa, p.2)
      | .host _ _ => none)
    let first := keep.init && !((s.task? e.task).any (fun k => decide (d.recAddr ∈ k.records)))
    let s : State :=
      if first then
        (s.writePieces pieces (keep.initial d.tensorId)).updTask e.task (fun k => { k with records := k.records ++ [d.recAddr] })
      else s
    let info : MergeInfo :=
      { keepBlot := keep.blot, keepStudy := keep.study, base := keep.base, width := keep.width, tensorId := d.tensorId,
        cols := d.tcols, tile := tile }
    let m : Merge := { ctx := e.ctx, task := e.task, pieces := pieces, info := info }
    { s with merges := s.merges ++ [m] }

/-- A drain runs (R82, R85, R86, R195 to R199): nothing is written until every page it needs can be reached; a translation fault
stalls it, and another failure is a deferred fault. -/
def State.runDrain (s : State) (core : Nat) (k : Task) (e : MxEntry) (d : DrainOp) : State :=
  let c := layoutClass k.desc.layout
  let keep := s.recordKeep e.ctx d.recAddr d.recCtl
  let rec_ := if d.lf ∨ d.recAddr = 0 ∨ keep.any = false then [] else [(d.recAddr, 512)]
  let clear := fun (u : State) =>
    if d.clear then
      let x : CoreSt := u.core core
      u.setCore core { x with acc := x.acc.del d.slot }
    else u
  match s.drainSpans core k [(.read, 0, d.biasRange), (.write, 1, d.outRanges c), (.atomic, 1, rec_)] with
  | (s, .error (kind, detail, r, va)) =>
    match s.engFail core k 3 detail kind va r with
    | (s, .wait) => s
    | (s, .stall w) =>
      let x : CoreSt := s.core core
      s.setCore core { x with mxStall := some w }
    | (s, .fault code) => (clear s).mxFail core e code detail va
  | (s, .ok parts) =>
    let outs := parts.getD 1 []
    if s.hostHolds outs then s
    else
      let (s, bias) := s.engRead core ((parts.getD 0 []).flatMap (fun p => p))
      if bias.any Prod.snd then (clear s).mxFail core e 0x14 0 d.biasAddr
      else
        let x : CoreSt := s.core core
        let slot := x.acc.getD d.slot {}
        let n := d.biasFmt.width / 8
        let bits := (List.range (bias.length / n)).map (fun i => leNat (((bias.map Prod.fst).drop (i * n)).take n))
        let els := if d.lf then [] else d.elements c slot bits
        let rows := if d.lf then d.longRows c slot else els.map (fun r => d.fmt.packRow (r.map (fun e => e.2.bits)))
        let s : State :=
          if d.toGlobal then
            (outs.zip rows).foldl (fun (u : State) o => u.engWrite core e.pos o.1 (o.2.map (fun b => (b, false)))) s
          else
            rows.zipIdx.foldl (fun (u : State) r =>
              let a := d.outAddr + r.2 * d.pitch
              let bytes : NMap Byte := r.1.zipIdx.foldl (fun (m : NMap Byte) b => m.set (a + b.2) b.1) []
              u.setCore core ((u.core core).slmStore bytes)) s
        let s : State := if d.lf then s else s.drainRecords core e d els ((parts.getD 2 []).flatMap (fun p => p))
        (clear s).mxPop core e

/-- MATRIX_INSTRUCTION_START (R113, R120): the instruction at the head of the queue runs. -/
def execMatrixInstructionStart (core : Nat) (s : State) : Host.Outcome State Fault Refusal :=
  let x : CoreSt := s.core core
  match x.mxq with
  | [] => .next s
  | e :: _ =>
    match s.task? e.task with
    | none => .next s
    | some k =>
      if core ∉ s.stopped ∧ s.partLive k.part = true ∧ x.mxStall = none then
        match e.op with
        | .mma slot kv fa fb ta tb fl => .next (s.runMma core k e slot kv fa fb ta tb fl)
        | .ldlf slot off => .next (s.runLdlf core k e slot off)
        | .drain d => .next (s.runDrain core k e d)
      else .next s

end Sys2Proof.Machine
end

