-- ==== Sys2Proof/Machine/Replay.lean ====
section
/-! DEFINITION. The supply and comparison of a replay's positional journal entries (14_determinism_and_replay.md, R432 to R435). -/

namespace Sys2Proof.Machine

/-- The place of a replay in its journal moved past an entry; keyed entries are passed over without being used. -/
def State.replayStep (s : State) (p : Nat) (e : JRead) : State :=
  let i := s.skbIdx p
  let s : State := (s.bump F.skbWrittenBytes i e.size).bump F.skbNextSeqSeq i
  let s : State := if e.keyed then s else s.setSkb p { s.skb p with lastUse := s.now, lastSeq := e.seq }
  (s.replayPause p).replayEnd p

/-- A command of a queue by its TAG. -/
def State.cmdByTag (s : State) (q tag : Nat) (test : Cmd → Bool) : Option Cmd :=
  (s.queue q).cmds.find? (fun c => decide (c.tag = tag) && test c)

/-- COMMAND: accepted on the queue at its offset, as though fetched; it waits for room in the queue. -/
def State.replayCommand (s : State) (p q : Nat) (e : JRead) (b : List Byte) : State :=
  if s.rd F.qpStatusState q = 1 ∧ s.partState p = 2 ∧ (s.queue q).cmds.length < 256 ∧ s.partInflight p < 16384 then
    (s.acceptCmd q (b.take 64) (b.drop 64)).replayStep p e
  else s

/-- TASK_START: the journalled modes and seed are loaded before the task begins. -/
def State.replayTaskStart (s : State) (p q : Nat) (e : JRead) (b : List Byte) : State :=
  let c := s.queueCtx q
  let word := fun (o : Nat) => BitVec.ofNat 64 (leNat ((b.drop o).take 8))
  ((s.setReg .ctxFpMode c (word 8)).setReg .ctxSrSeed c (word 16)).replayStep p e

/-- HOST_DATA: a whole chunk is supplied to the running command; a digest, which is compared as the command ends, is passed once it
has. -/
def State.replayHostData (s : State) (p q : Nat) (e : JRead) (b : List Byte) : State :=
  let tag := leNat (b.take 4)
  match s.cmdByTag q tag (fun c => decide (c.opcode = 0x10) && decide (c.phase ≠ .done)) with
  | none => if e.digest then s.replayStep p e else s
  | some c =>
    if e.digest || decide (c.phase ≠ .running) || c.stalled.isSome then s
    else
      let off := leNat ((b.drop 8).take 8)
      match (List.range c.chunks).find? (fun i => decide (c.chunkStart i = off) && decide (i ∉ c.chunksDone)) with
      | none => s
      | some i =>
        let t := s.hostChunk q c.seq c i (b.drop 16)
        if (t.cmd? q c.seq).any (fun d => decide (d.phase = .running) && decide (i ∉ d.chunksDone)) then t else t.replayStep p e

/-- PACKET: received as though from the journalled rank. -/
def State.replayPacket (s : State) (p : Nat) (e : JRead) (b : List Byte) : State :=
  let blk := 2 * s.skbIdx p
  let pkt := NetPkt.parse b
  let f : RxFrame :=
    { part := p, slot := natBits e.source 21 20, src := natBits e.source 19 0, prio := 0, len := pkt.frameLen, ce := false,
      pkt := pkt }
  let x := s.port blk
  (s.setPort blk { x with rx := x.rx ++ [f] }).replayStep p e

/-- TIME_LIMIT: the task is ended when the entry is reached. -/
def State.replayTimeLimit (s : State) (p q : Nat) (e : JRead) (b : List Byte) : State :=
  match s.tasks.find? (fun t => decide (t.2.queue = q) && decide (t.2.tag = leNat (b.take 4)) && decide (t.2.phase ≠ .ended)) with
  | some (t, k) =>
    let s : State := k.cores.foldl (fun (u : State) c => if (u.core c).task = some t then u.leaveRetention c else u) s
    ((s.updTask t (fun y => { y with timedOut := true })).stopTask t 0x31).replayStep p e
  | none => s

/-- A completion record without its queue number, which a replay on another partition changes. -/
def recordKey (b : List Byte) : List Byte := b.take 4 ++ b.drop 6

/-- COMPLETION: compared with the record that the command of its queue and TAG has written. -/
def State.replayCompletion (s : State) (p : Nat) (e : JRead) (b : List Byte) : State :=
  let k := s.skb p
  match k.records.find? (fun r => decide (r.1 = e.source) && decide (r.2.take 4 = b.take 4)) with
  | none => s
  | some r =>
    let s : State := s.setSkb p { k with records := k.records.erase r }
    if recordKey r.2 = recordKey b then s.replayStep p e else s.diverge p 1 e.seq

/-- CHECK: the sum of the range is formed again and compared. Every command that the recording's check waited for has its record by
then. -/
def State.replayCheck (s : State) (p : Nat) (e : JRead) (b : List Byte) : State :=
  let c : SkbCheck :=
    { addr := e.source, len := leNat (b.take 8), waits := [], expect := some (e.seq, leNat ((b.drop 8).take 8)) }
  let t := (s.setSkb p { s.skb p with check := some c }).serveCheck p
  if t.rd F.skbStatusState (t.skbIdx p) = 4 then t else t.replayStep p e

/-- REPLAY_ENTRY (R432 to R435): the next positional entry of a running replay is supplied or compared, or waits for what it
concerns. -/
def execReplayEntry (part : Nat) (s : State) : Host.Outcome State Fault Refusal :=
  let i := s.skbIdx part
  if part < partCount s.mode ∧ s.rd F.skbStatusState i = 2 then
    let off := s.rd F.skbWrittenBytes i
    if s.rd F.skbReplayLenBytes i ≤ off then .next (s.replayEnd part)
    else
      let e := s.jRead part off
      let b := s.jPayload part e
      let q := firstQueue s.mode part + e.source
      match e.kind with
      | 0x02 => .next (s.replayCommand part q e b)
      | 0x03 => .next (s.replayTaskStart part q e b)
      | 0x04 => .next (s.replayHostData part q e b)
      | 0x06 => .next (s.replayPacket part e b)
      | 0x09 => .next (s.replayTimeLimit part q e b)
      | 0x0A => .next (s.replayCompletion part e b)
      | 0x0C => .next (s.replayCheck part e b)
      | 0x0B => .next ((s.markPulse part).replayStep part e)
      | _ => .next (s.replayStep part e)
  else .next s

end Sys2Proof.Machine
end

