-- ==== Sys2Proof/Machine/Dispatch.lean ====
section
/-! DEFINITION. The effect of each command: one arm per row of the opcode table. -/

namespace Sys2Proof.Machine

def exec (i : Instr) (s : State) : Host.Outcome State Fault Refusal :=
  match i with
  | .registerWrite a => Sys2Proof.Machine.execRegisterWrite a s
  | .invalidAccess a write => Sys2Proof.Machine.execInvalidAccess a write s
  | .seamFail seam => Sys2Proof.Machine.execSeamFail seam s
  | .partitionReset a t => Sys2Proof.Machine.execPartitionReset a t s
  | .cellFault core code => Sys2Proof.Machine.execCellFault core code s
  | .blockFault part => Sys2Proof.Machine.execBlockFault part s
  | .regionStop region code => Sys2Proof.Machine.execRegionStop region code s
  | .coreDisable core => Sys2Proof.Machine.execCoreDisable core s
  | .mov x => Sys2Proof.Machine.execMov x s
  | .add x => Sys2Proof.Machine.execAdd x s
  | .sub x => Sys2Proof.Machine.execSub x s
  | .mul x => Sys2Proof.Machine.execMul x s
  | .mulhi x => Sys2Proof.Machine.execMulhi x s
  | .mad x => Sys2Proof.Machine.execMad x s
  | .min x => Sys2Proof.Machine.execMin x s
  | .max x => Sys2Proof.Machine.execMax x s
  | .and x => Sys2Proof.Machine.execAnd x s
  | .or x => Sys2Proof.Machine.execOr x s
  | .xor x => Sys2Proof.Machine.execXor x s
  | .not x => Sys2Proof.Machine.execNot x s
  | .shl x => Sys2Proof.Machine.execShl x s
  | .shr x => Sys2Proof.Machine.execShr x s
  | .sar x => Sys2Proof.Machine.execSar x s
  | .popc x => Sys2Proof.Machine.execPopc x s
  | .clz x => Sys2Proof.Machine.execClz x s
  | .bfe x => Sys2Proof.Machine.execBfe x s
  | .sel x => Sys2Proof.Machine.execSel x s
  | .cmp x => Sys2Proof.Machine.execCmp x s
  | .shfl x => Sys2Proof.Machine.execShfl x s
  | .vote x => Sys2Proof.Machine.execVote x s
  | .pop x => Sys2Proof.Machine.execPop x s
  | .fpAdd x => Sys2Proof.Machine.execFpAdd x s
  | .fpSub x => Sys2Proof.Machine.execFpSub x s
  | .fpMul x => Sys2Proof.Machine.execFpMul x s
  | .fpFma x => Sys2Proof.Machine.execFpFma x s
  | .fpDiv x => Sys2Proof.Machine.execFpDiv x s
  | .fpSqrt x => Sys2Proof.Machine.execFpSqrt x s
  | .fpMin x => Sys2Proof.Machine.execFpMin x s
  | .fpMax x => Sys2Proof.Machine.execFpMax x s
  | .fpNeg x => Sys2Proof.Machine.execFpNeg x s
  | .fpAbs x => Sys2Proof.Machine.execFpAbs x s
  | .fpCmp x => Sys2Proof.Machine.execFpCmp x s
  | .fpClass x => Sys2Proof.Machine.execFpClass x s
  | .fpFromint x => Sys2Proof.Machine.execFpFromint x s
  | .fpToint x => Sys2Proof.Machine.execFpToint x s
  | .fpExp x => Sys2Proof.Machine.execFpExp x s
  | .fpLog x => Sys2Proof.Machine.execFpLog x s
  | .fpRsqrt x => Sys2Proof.Machine.execFpRsqrt x s
  | .fpSin x => Sys2Proof.Machine.execFpSin x s
  | .fpCos x => Sys2Proof.Machine.execFpCos x s
  | .cvt x => Sys2Proof.Machine.execCvt x s
  | .ld x => Sys2Proof.Machine.execLd x s
  | .st x => Sys2Proof.Machine.execSt x s
  | .atomAdd x => Sys2Proof.Machine.execAtomAdd x s
  | .atomMin x => Sys2Proof.Machine.execAtomMin x s
  | .atomMax x => Sys2Proof.Machine.execAtomMax x s
  | .atomAnd x => Sys2Proof.Machine.execAtomAnd x s
  | .atomOr x => Sys2Proof.Machine.execAtomOr x s
  | .atomXor x => Sys2Proof.Machine.execAtomXor x s
  | .atomExch x => Sys2Proof.Machine.execAtomExch x s
  | .atomCas x => Sys2Proof.Machine.execAtomCas x s
  | .atomExact x => Sys2Proof.Machine.execAtomExact x s
  | .atomLf x => Sys2Proof.Machine.execAtomLf x s
  | .fenceWg x => Sys2Proof.Machine.execFenceWg x s
  | .fencePart x => Sys2Proof.Machine.execFencePart x s
  | .fenceRemote x => Sys2Proof.Machine.execFenceRemote x s
  | .fenceGlobal x => Sys2Proof.Machine.execFenceGlobal x s
  | .ncInv x => Sys2Proof.Machine.execNcInv x s
  | .tmCopy x => Sys2Proof.Machine.execTmCopy x s
  | .tileMoveComplete core mover => Sys2Proof.Machine.execTileMoveComplete core mover s
  | .nop x => Sys2Proof.Machine.execNop x s
  | .bra x => Sys2Proof.Machine.execBra x s
  | .call x => Sys2Proof.Machine.execCall x s
  | .jmp x => Sys2Proof.Machine.execJmp x s
  | .converge x => Sys2Proof.Machine.execConverge x s
  | .convergeRelease core pos => Sys2Proof.Machine.execConvergeRelease core pos s
  | .exit x => Sys2Proof.Machine.execExit x s
  | .trap x => Sys2Proof.Machine.execTrap x s
  | .barSync x => Sys2Proof.Machine.execBarSync x s
  | .barArrive x => Sys2Proof.Machine.execBarArrive x s
  | .barWait x => Sys2Proof.Machine.execBarWait x s
  | .barrierDeadlock core slot => Sys2Proof.Machine.execBarrierDeadlock core slot s
  | .groupPromotion core pos => Sys2Proof.Machine.execGroupPromotion core pos s
  | .setPromotion core pos lane => Sys2Proof.Machine.execSetPromotion core pos lane s
  | .mxMma x => Sys2Proof.Machine.execMxMma x s
  | .mxLdlf x => Sys2Proof.Machine.execMxLdlf x s
  | .mxDrain x => Sys2Proof.Machine.execMxDrain x s
  | .mxZero x => Sys2Proof.Machine.execMxZero x s
  | .matrixInstructionStart core => Sys2Proof.Machine.execMatrixInstructionStart core s
  | .recordMerge index => Sys2Proof.Machine.execRecordMerge index s
  | .cntAdd x => Sys2Proof.Machine.execCntAdd x s
  | .cntWait x => Sys2Proof.Machine.execCntWait x s
  | .cntClaim x => Sys2Proof.Machine.execCntClaim x s
  | .cntRead x => Sys2Proof.Machine.execCntRead x s
  | .sysGet x => Sys2Proof.Machine.execSysGet x s
  | .counterArbitration ctr sources => Sys2Proof.Machine.execCounterArbitration ctr sources s
  | .counterDeadline w => Sys2Proof.Machine.execCounterDeadline w s
  | .taskBind task => Sys2Proof.Machine.execTaskBind task s
  | .regionCounterGrant a => Sys2Proof.Machine.execRegionCounterGrant a s
  | .regionCounterRevoke a => Sys2Proof.Machine.execRegionCounterRevoke a s
  | .retentionEntry core => Sys2Proof.Machine.execRetentionEntry core s
  | .retentionExit core => Sys2Proof.Machine.execRetentionExit core s
  | .loadReturn core txn ans => Sys2Proof.Machine.execLoadReturn core txn ans s
  | .deferredFault core index => Sys2Proof.Machine.execDeferredFault core index s
  | .faultReadWrite a => Sys2Proof.Machine.execFaultReadWrite a s
  | .faultRelease a => Sys2Proof.Machine.execFaultRelease a s
  | .workgroupDispatch task core => Sys2Proof.Machine.execWorkgroupDispatch task core s
  | .coreTaskBegin task core => Sys2Proof.Machine.execCoreTaskBegin task core s
  | .timeLimitExpiry task => Sys2Proof.Machine.execTimeLimitExpiry task s
  | .contextSwitch ctx => Sys2Proof.Machine.execContextSwitch ctx s
  | .contextResume ctx => Sys2Proof.Machine.execContextResume ctx s
  | .victimOffer canvas => Sys2Proof.Machine.execVictimOffer canvas s
  | .splitChange a => Sys2Proof.Machine.execSplitChange a s
  | .splitChangeDone region => Sys2Proof.Machine.execSplitChangeDone region s
  | .fineRequest ctx va op => Sys2Proof.Machine.execFineRequest ctx va op s
  | .exactAddApply core txn => Sys2Proof.Machine.execExactAddApply core txn s
  | .longFormAdd core txn => Sys2Proof.Machine.execLongFormAdd core txn s
  | .writeBatchTurn chan => Sys2Proof.Machine.execWriteBatchTurn chan s
  | .stackTempRead stack temp => Sys2Proof.Machine.execStackTempRead stack temp s
  | .stackOffline stack => Sys2Proof.Machine.execStackOffline stack s
  | .scrub stack addr result => Sys2Proof.Machine.execScrub stack addr result s
  | .readShared agent sector => Sys2Proof.Machine.execReadShared agent sector s
  | .readUnique agent sector => Sys2Proof.Machine.execReadUnique agent sector s
  | .readUniqueNoData agent sector => Sys2Proof.Machine.execReadUniqueNoData agent sector s
  | .upgrade agent sector => Sys2Proof.Machine.execUpgrade agent sector s
  | .cleanEvict agent sector => Sys2Proof.Machine.execCleanEvict agent sector s
  | .writeBack agent sector => Sys2Proof.Machine.execWriteBack agent sector s
  | .grantAcknowledge agent sector => Sys2Proof.Machine.execGrantAcknowledge agent sector s
  | .snoopShared agent sector => Sys2Proof.Machine.execSnoopShared agent sector s
  | .snoopInvalidate agent sector => Sys2Proof.Machine.execSnoopInvalidate agent sector s
  | .snoopPeek agent sector => Sys2Proof.Machine.execSnoopPeek agent sector s
  | .snoopPurge agent line => Sys2Proof.Machine.execSnoopPurge agent line s
  | .nonCachingRead sector => Sys2Proof.Machine.execNonCachingRead sector s
  | .nonCachingWrite sector offset bytes => Sys2Proof.Machine.execNonCachingWrite sector offset bytes s
  | .nonCachingAtomic addr op size data cmp => Sys2Proof.Machine.execNonCachingAtomic addr op size data cmp s
  | .agentReclaim agent => Sys2Proof.Machine.execAgentReclaim agent s
  | .streamPrefetch cluster ctx va => Sys2Proof.Machine.execStreamPrefetch cluster ctx va s
  | .faultBatchClose region => Sys2Proof.Machine.execFaultBatchClose region s
  | .xfrRetry a => Sys2Proof.Machine.execXfrRetry a s
  | .xfrFailUnmapped a => Sys2Proof.Machine.execXfrFailUnmapped a s
  | .xfrFailPermission a => Sys2Proof.Machine.execXfrFailPermission a s
  | .xfrReadWrite a => Sys2Proof.Machine.execXfrReadWrite a s
  | .tlbInvalidate a done => Sys2Proof.Machine.execTlbInvalidate a done s
  | .ctxPtWrite a => Sys2Proof.Machine.execCtxPtWrite a s
  | .grantWrite a => Sys2Proof.Machine.execGrantWrite a s
  | .grantFlushWrite a => Sys2Proof.Machine.execGrantFlushWrite a s
  | .sfenceBroadcast region ctx va asid => Sys2Proof.Machine.execSfenceBroadcast region ctx va asid s
  | .barAccess r => Sys2Proof.Machine.execBarAccess r s
  | .bar2Access r => Sys2Proof.Machine.execBar2Access r s
  | .apertureAccess r => Sys2Proof.Machine.execApertureAccess r s
  | .barReadTimeout id => Sys2Proof.Machine.execBarReadTimeout id s
  | .vfAssign a => Sys2Proof.Machine.execVfAssign a s
  | .sqDoorbell fn q value => Sys2Proof.Machine.execSqDoorbell fn q value s
  | .cqDoorbell fn q value => Sys2Proof.Machine.execCqDoorbell fn q value s
  | .commandFetch q ans => Sys2Proof.Machine.execCommandFetch q ans s
  | .completionRecord q seq hostOk => Sys2Proof.Machine.execCompletionRecord q seq hostOk s
  | .queueEnable a => Sys2Proof.Machine.execQueueEnable a s
  | .queueDisable a => Sys2Proof.Machine.execQueueDisable a s
  | .dmaChunk q seq index ans => Sys2Proof.Machine.execDmaChunk q seq index ans s
  | .nopCommand q seq => Sys2Proof.Machine.execNopCommand q seq s
  | .fence q seq => Sys2Proof.Machine.execFence q seq s
  | .launch q seq => Sys2Proof.Machine.execLaunch q seq s
  | .cntAddCommand q seq => Sys2Proof.Machine.execCntAddCommand q seq s
  | .cntWaitCommand q seq => Sys2Proof.Machine.execCntWaitCommand q seq s
  | .alloc q seq => Sys2Proof.Machine.execAlloc q seq s
  | .free q seq => Sys2Proof.Machine.execFree q seq s
  | .hostToDev q seq => Sys2Proof.Machine.execHostToDev q seq s
  | .devToHost q seq => Sys2Proof.Machine.execDevToHost q seq s
  | .copy q seq => Sys2Proof.Machine.execCopy q seq s
  | .fill q seq => Sys2Proof.Machine.execFill q seq s
  | .inlineWrite q seq => Sys2Proof.Machine.execInlineWrite q seq s
  | .matmul q seq => Sys2Proof.Machine.execMatmul q seq s
  | .conv q seq => Sys2Proof.Machine.execConv q seq s
  | .mapConvert q seq => Sys2Proof.Machine.execMapConvert q seq s
  | .mapAdd q seq => Sys2Proof.Machine.execMapAdd q seq s
  | .mapSubtract q seq => Sys2Proof.Machine.execMapSubtract q seq s
  | .mapMultiply q seq => Sys2Proof.Machine.execMapMultiply q seq s
  | .mapFma q seq => Sys2Proof.Machine.execMapFma q seq s
  | .mapDivide q seq => Sys2Proof.Machine.execMapDivide q seq s
  | .mapSquareRoot q seq => Sys2Proof.Machine.execMapSquareRoot q seq s
  | .mapMin q seq => Sys2Proof.Machine.execMapMin q seq s
  | .mapMax q seq => Sys2Proof.Machine.execMapMax q seq s
  | .mapRelu q seq => Sys2Proof.Machine.execMapRelu q seq s
  | .mapExp q seq => Sys2Proof.Machine.execMapExp q seq s
  | .mapLog q seq => Sys2Proof.Machine.execMapLog q seq s
  | .mapReciprocalSquareRoot q seq => Sys2Proof.Machine.execMapReciprocalSquareRoot q seq s
  | .mapSine q seq => Sys2Proof.Machine.execMapSine q seq s
  | .mapCosine q seq => Sys2Proof.Machine.execMapCosine q seq s
  | .reduceSum q seq => Sys2Proof.Machine.execReduceSum q seq s
  | .reduceMin q seq => Sys2Proof.Machine.execReduceMin q seq s
  | .reduceMax q seq => Sys2Proof.Machine.execReduceMax q seq s
  | .sort q seq => Sys2Proof.Machine.execSort q seq s
  | .select q seq => Sys2Proof.Machine.execSelect q seq s
  | .hostLoss cause => Sys2Proof.Machine.execHostLoss cause s
  | .heartbeatExpiry => Sys2Proof.Machine.execHeartbeatExpiry s
  | .heartbeatKick a => Sys2Proof.Machine.execHeartbeatKick a s
  | .detach a => Sys2Proof.Machine.execDetach a s
  | .vfFlr v => Sys2Proof.Machine.execVfFlr v s
  | .attachFresh a => Sys2Proof.Machine.execAttachFresh a s
  | .resume a => Sys2Proof.Machine.execResume a s
  | .resumeHost a => Sys2Proof.Machine.execResumeHost a s
  | .tokenRead fn hi size => Sys2Proof.Machine.execTokenRead fn hi size s
  | .tokenLockoutEnd => Sys2Proof.Machine.execTokenLockoutEnd s
  | .frameReceive block f => Sys2Proof.Machine.execFrameReceive block f s
  | .pfcReceive block sub prio xoff => Sys2Proof.Machine.execPfcReceive block sub prio xoff s
  | .splitWrite a => Sys2Proof.Machine.execSplitWrite a s
  | .rdmaWritePacket block => Sys2Proof.Machine.execRdmaWritePacket block s
  | .rdmaReadRequest block => Sys2Proof.Machine.execRdmaReadRequest block s
  | .rdmaReadResponse block => Sys2Proof.Machine.execRdmaReadResponse block s
  | .roceAcknowledge block => Sys2Proof.Machine.execRoceAcknowledge block s
  | .roceNak block => Sys2Proof.Machine.execRoceNak block s
  | .cnp block => Sys2Proof.Machine.execCnp block s
  | .rateRecovery part slot rank fletus => Sys2Proof.Machine.execRateRecovery part slot rank fletus s
  | .retransmitTimeout part slot rank fletus => Sys2Proof.Machine.execRetransmitTimeout part slot rank fletus s
  | .rdmaWrite q seq => Sys2Proof.Machine.execRdmaWrite q seq s
  | .rdmaRead q seq => Sys2Proof.Machine.execRdmaRead q seq s
  | .rdmaCntAdd q seq => Sys2Proof.Machine.execRdmaCntAdd q seq s
  | .remoteOp q seq => Sys2Proof.Machine.execRemoteOp q seq s
  | .jobLoad q seq => Sys2Proof.Machine.execJobLoad q seq s
  | .jobTeardown q seq => Sys2Proof.Machine.execJobTeardown q seq s
  | .teardownDone part slot => Sys2Proof.Machine.execTeardownDone part slot s
  | .allReduce q seq => Sys2Proof.Machine.execAllReduce q seq s
  | .reduceScatter q seq => Sys2Proof.Machine.execReduceScatter q seq s
  | .allGather q seq => Sys2Proof.Machine.execAllGather q seq s
  | .broadcast q seq => Sys2Proof.Machine.execBroadcast q seq s
  | .reduceToRoot q seq => Sys2Proof.Machine.execReduceToRoot q seq s
  | .recordAllReduce q seq => Sys2Proof.Machine.execRecordAllReduce q seq s
  | .collectiveBarrier q seq => Sys2Proof.Machine.execCollectiveBarrier q seq s
  | .fletusData block => Sys2Proof.Machine.execFletusData block s
  | .fletusAck block => Sys2Proof.Machine.execFletusAck block s
  | .fletusNack block => Sys2Proof.Machine.execFletusNack block s
  | .prepare block => Sys2Proof.Machine.execPrepare block s
  | .prepareAck block => Sys2Proof.Machine.execPrepareAck block s
  | .notPrepared block => Sys2Proof.Machine.execNotPrepared block s
  | .arm block => Sys2Proof.Machine.execArm block s
  | .armAck block => Sys2Proof.Machine.execArmAck block s
  | .abort block => Sys2Proof.Machine.execAbort block s
  | .abortAck block => Sys2Proof.Machine.execAbortAck block s
  | .launchChildTimeout part slot child => Sys2Proof.Machine.execLaunchChildTimeout part slot child s
  | .launchHoldTimeout part slot => Sys2Proof.Machine.execLaunchHoldTimeout part slot s
  | .cmd block => Sys2Proof.Machine.execCmd block s
  | .cmdDone block => Sys2Proof.Machine.execCmdDone block s
  | .fletusRecord block => Sys2Proof.Machine.execFletusRecord block s
  | .ptpSync offset residual rate => Sys2Proof.Machine.execPtpSync offset residual rate s
  | .ptpSyncLoss => Sys2Proof.Machine.execPtpSyncLoss s
  | .recordStart a => Sys2Proof.Machine.execRecordStart a s
  | .recordStop a => Sys2Proof.Machine.execRecordStop a s
  | .replayStart a => Sys2Proof.Machine.execReplayStart a s
  | .replayStop a => Sys2Proof.Machine.execReplayStop a s
  | .journalFlush part => Sys2Proof.Machine.execJournalFlush part s
  | .skbMark a => Sys2Proof.Machine.execSkbMark a s
  | .skbCheck a => Sys2Proof.Machine.execSkbCheck a s
  | .skbRelease a => Sys2Proof.Machine.execSkbRelease a s
  | .replayPauseSeq a => Sys2Proof.Machine.execReplayPauseSeq a s
  | .replayEntry part => Sys2Proof.Machine.execReplayEntry part s
  | .replayStall part => Sys2Proof.Machine.execReplayStall part s
  | .powerPeriod p => Sys2Proof.Machine.execPowerPeriod p s
  | .powerReport region power => Sys2Proof.Machine.execPowerReport region power s
  | .powerReportTimeout region => Sys2Proof.Machine.execPowerReportTimeout region s
  | .thermalSample region clusters easel => Sys2Proof.Machine.execThermalSample region clusters easel s
  | .fastLimitSample mean => Sys2Proof.Machine.execFastLimitSample mean s
  | .supplyFault => Sys2Proof.Machine.execSupplyFault s
  | .droop region depth ns => Sys2Proof.Machine.execDroop region depth ns s
  | .vddUndervoltage region => Sys2Proof.Machine.execVddUndervoltage region s
  | .vddOvervoltage region => Sys2Proof.Machine.execVddOvervoltage region s
  | .ageingUpdate region growth required => Sys2Proof.Machine.execAgeingUpdate region growth required s
  | .watchdogExpiry fw => Sys2Proof.Machine.execWatchdogExpiry fw s
  | .firmwareRestartDone fw => Sys2Proof.Machine.execFirmwareRestartDone fw s
  | .eventDrain region => Sys2Proof.Machine.execEventDrain region s
  | .stageImage a digestOk signaturesOk => Sys2Proof.Machine.execStageImage a digestOk signaturesOk s
  | .stagingDone => Sys2Proof.Machine.execStagingDone s
  | .activate a => Sys2Proof.Machine.execActivate a s
  | .activateOnReset a => Sys2Proof.Machine.execActivateOnReset a s
  | .activateCancel a => Sys2Proof.Machine.execActivateCancel a s
  | .activationQuiesce => Sys2Proof.Machine.execActivationQuiesce s
  | .quiesceTimeout => Sys2Proof.Machine.execQuiesceTimeout s
  | .confirmTimeout => Sys2Proof.Machine.execConfirmTimeout s
  | .activationConfirm fw => Sys2Proof.Machine.execActivationConfirm fw s
  | .fwuNoRootTimeout => Sys2Proof.Machine.execFwuNoRootTimeout s
  | .rowRetire addr => Sys2Proof.Machine.execRowRetire addr s
  | .laneRetrain lane => Sys2Proof.Machine.execLaneRetrain lane s
  | .eventIrqDeferred region => Sys2Proof.Machine.execEventIrqDeferred region s
  | .evtBaseWrite a => Sys2Proof.Machine.execEvtBaseWrite a s
  | .calExport a => Sys2Proof.Machine.execCalExport a s
  | .calImport a rangesOk => Sys2Proof.Machine.execCalImport a rangesOk s
  | .getVersion m => Sys2Proof.Machine.execGetVersion m s
  | .getCapabilities m version => Sys2Proof.Machine.execGetCapabilities m version s
  | .negotiateAlgorithms m => Sys2Proof.Machine.execNegotiateAlgorithms m s
  | .getDigests m => Sys2Proof.Machine.execGetDigests m s
  | .getCertificate m slot offset len => Sys2Proof.Machine.execGetCertificate m slot offset len s
  | .challenge m slot => Sys2Proof.Machine.execChallenge m slot s
  | .getMeasurements m index slot signed => Sys2Proof.Machine.execGetMeasurements m index slot signed s
  | .keyExchange m slot => Sys2Proof.Machine.execKeyExchange m slot s
  | .finish session => Sys2Proof.Machine.execFinish session s
  | .heartbeat session => Sys2Proof.Machine.execHeartbeat session s
  | .keyUpdate session => Sys2Proof.Machine.execKeyUpdate session s
  | .endSession session => Sys2Proof.Machine.execEndSession session s
  | .getSessionToken ch => Sys2Proof.Machine.execGetSessionToken ch s
  | .macsecSetSa ch sa => Sys2Proof.Machine.execMacsecSetSa ch sa s
  | .macsecClearSa ch port dir an sci => Sys2Proof.Machine.execMacsecClearSa ch port dir an sci s
  | .setPolicy ch requireIde bmcCap bmcKeys bmcFwu => Sys2Proof.Machine.execSetPolicy ch requireIde bmcCap bmcKeys bmcFwu s
  | .query ch => Sys2Proof.Machine.execQuery ch s
  | .keyProg ch stream set sub => Sys2Proof.Machine.execKeyProg ch stream set sub s
  | .kSetGo ch stream set sub => Sys2Proof.Machine.execKSetGo ch stream set sub s
  | .kSetStop ch stream set sub => Sys2Proof.Machine.execKSetStop ch stream set sub s
  | .ideCheckFail stream => Sys2Proof.Machine.execIdeCheckFail stream s
  | .macsecTxAnWrite a => Sys2Proof.Machine.execMacsecTxAnWrite a s
  | .memCryptEnable a => Sys2Proof.Machine.execMemCryptEnable a s
  | .setEndpointId m eid => Sys2Proof.Machine.execSetEndpointId m eid s
  | .getEndpointId m => Sys2Proof.Machine.execGetEndpointId m s
  | .getMctpVersionSupport m => Sys2Proof.Machine.execGetMctpVersionSupport m s
  | .getMessageTypeSupport m => Sys2Proof.Machine.execGetMessageTypeSupport m s
  | .getEndpointUuid m => Sys2Proof.Machine.execGetEndpointUuid m s
  | .setdasa static dynamic => Sys2Proof.Machine.execSetdasa static dynamic s
  | .entdaa dynamic => Sys2Proof.Machine.execEntdaa dynamic s
  | .getTid m => Sys2Proof.Machine.execGetTid m s
  | .setTid m tid => Sys2Proof.Machine.execSetTid m tid s
  | .getPldmVersion m => Sys2Proof.Machine.execGetPldmVersion m s
  | .getPldmTypes m => Sys2Proof.Machine.execGetPldmTypes m s
  | .getPldmCommands m ty => Sys2Proof.Machine.execGetPldmCommands m ty s
  | .getPdrRepositoryInfo m => Sys2Proof.Machine.execGetPdrRepositoryInfo m s
  | .getPdr m id => Sys2Proof.Machine.execGetPdr m id s
  | .getSensorReading m id => Sys2Proof.Machine.execGetSensorReading m id s
  | .getStateSensorReadings m id => Sys2Proof.Machine.execGetStateSensorReadings m id s
  | .getNumericEffecterValue m id => Sys2Proof.Machine.execGetNumericEffecterValue m id s
  | .setNumericEffecterValue m id value => Sys2Proof.Machine.execSetNumericEffecterValue m id value s
  | .setStateEffecterStates m id state => Sys2Proof.Machine.execSetStateEffecterStates m id state s
  | .setEventReceiver m eid => Sys2Proof.Machine.execSetEventReceiver m eid s
  | .getFruRecordTableMetadata m => Sys2Proof.Machine.execGetFruRecordTableMetadata m s
  | .getFruRecordTable m => Sys2Proof.Machine.execGetFruRecordTable m s
  | .requestUpdate m => Sys2Proof.Machine.execRequestUpdate m s
  | .passComponentTable m types => Sys2Proof.Machine.execPassComponentTable m types s
  | .updateComponent m ty image digestOk signaturesOk => Sys2Proof.Machine.execUpdateComponent m ty image digestOk signaturesOk s
  | .activateFirmware m => Sys2Proof.Machine.execActivateFirmware m s
  | .getStatus m => Sys2Proof.Machine.execGetStatus m s
  | .cancelUpdateComponent m => Sys2Proof.Machine.execCancelUpdateComponent m s
  | .cancelUpdate m => Sys2Proof.Machine.execCancelUpdate m s
  | .sideCfgWrite a => Sys2Proof.Machine.execSideCfgWrite a s
  | .sidePulseEnd => Sys2Proof.Machine.execSidePulseEnd s
  | .recoveryImage region image digestOk signaturesOk => Sys2Proof.Machine.execRecoveryImage region image digestOk signaturesOk s
  | .insertion => Sys2Proof.Machine.execInsertion s
  | .mainSwitchClose => Sys2Proof.Machine.execMainSwitchClose s
  | .extraction => Sys2Proof.Machine.execExtraction s
  | .inputUndervoltage => Sys2Proof.Machine.execInputUndervoltage s
  | .inputReturn t => Sys2Proof.Machine.execInputReturn t s
  | .powerUp t => Sys2Proof.Machine.execPowerUp t s
  | .perstDeassert => Sys2Proof.Machine.execPerstDeassert s
  | .refclkLoss => Sys2Proof.Machine.execRefclkLoss s
  | .refclkReturn => Sys2Proof.Machine.execRefclkReturn s
  | .coldReset a t => Sys2Proof.Machine.execColdReset a t s
  | .warmReset a t => Sys2Proof.Machine.execWarmReset a t s
  | .standbyEntry => Sys2Proof.Machine.execStandbyEntry s
  | .standbyExit t => Sys2Proof.Machine.execStandbyExit t s
  | .hostInterfaceFault => Sys2Proof.Machine.execHostInterfaceFault s
  | .hostLinkUp rate width flit => Sys2Proof.Machine.execHostLinkUp rate width flit s
  | .laneTrainingDone lane => Sys2Proof.Machine.execLaneTrainingDone lane s
  | .countCtlClear a => Sys2Proof.Machine.execCountCtlClear a s
  | .ackCoalesceTimeout part slot rank fletus => Sys2Proof.Machine.execAckCoalesceTimeout part slot rank fletus s
  | .rnrRetryTimeout part slot rank => Sys2Proof.Machine.execRnrRetryTimeout part slot rank s

end Sys2Proof.Machine
end

