-- ==== Sys2Proof/Machine/Tick.lean ====
section
/-! DEFINITION. The clock: what a step does when no command waits. -/

namespace Sys2Proof.Machine

/-- A core notes when the conditions of wait retention begin to hold, and forgets it when they cease (R255). -/
def State.trackIdle (s : State) (c : Nat) : State :=
  let x : CoreSt := s.core c
  match x.idle, x.retained, x.idleSince with
  | true, false, none => s.setCore c { x with idleSince := some s.now }
  | false, false, some _ => s.setCore c { x with idleSince := none }
  | _, _, _ => s

/-- One nanosecond of the timebase (R14). -/
def State.tick (s : State) : State :=
  let s : State := { s with now := s.now + 1 }
  s.cores.foldl (fun s e => s.trackIdle e.1) s

end Sys2Proof.Machine
end

