-- ==== Sys2Proof/Safety.lean ====
section
/-! DEFINITION. What claims take for a sound state and for a safe step. -/

namespace Sys2Proof.Machine

/-- The canonical form of memory: addresses strictly rising, no entry equal to what an unlisted address reads as; the granules of
changed keys are strictly rising too. -/
def Memory.wf (s : State) : Bool :=
  NMap.wf s.mem && s.mem.all (fun c => decide (c.2 ≠ s.memDefault c.1)) && NMap.wf s.scrambled

/-- A step is safe when it goes on to a next state: no command of the table ends a run. -/
def State.safe (s : State) : Prop := ∃ t, step s = .next t

end Sys2Proof.Machine
end

