-- ==== Sys2Proof/Claims.lean ====
section
/-! DEFINITION. The words that the statements are said in. -/

namespace Sys2Proof.Claims

open Sys2Proof.Machine

-- words of the statements about Kwaok instructions

/-- A Kwaok instruction executes (R144, R166, R170, R205): its set can issue, as r; no register it names is still to be written;
its words are fetched, which leaves the state u; and none of its fields offends. -/
def Executes (s : State) (x : Issue) (regs : List (Bool × Nat)) (bad : Ready → List Bad) (r : Ready) (u : State) : Prop :=
  s.ready? x = some r ∧ r.hazard x regs = false ∧ s.fetch x r = (u, true) ∧ ∀ b ∈ bad r, b.2 = false

/-- Group g is group h but for the registers D names: in each lane that acts, the registers of a result of w bits hold that
lane's value v, and v255 discards its write (R125, R168, R169). Every other register, and all else of the group, is as it was. -/
def WritesD (x : Issue) (lanes : List Nat) (w : Nat) (v : Nat → Nat) (h g : Group) : Prop :=
  (∀ l n, n < 256 → g.readV l n =
    if x.kd = false ∧ l ∈ lanes ∧ x.d ≤ n ∧ n < x.d + w / 32 ∧ n < 255 then v l / 2 ^ (32 * (n - x.d)) % 2 ^ 32
    else h.readV l n) ∧
  (∀ n, g.readU n = if x.kd = true ∧ lanes ≠ [] ∧ n = x.d then v 32 % 2 ^ w else h.readU n) ∧
  { g with v := [], u := [] } = { h with v := [], u := [] }

/-- Group g is group h but for predicate D of the executing lanes, which takes the lane's truth value; a write to p7 is discarded
(R174). -/
def WritesP (x : Issue) (lanes : List Nat) (v : Nat → Bool) (h g : Group) : Prop :=
  (∀ l < 32, ∀ p < 8, g.predAt l p = if l ∈ lanes ∧ p = x.d ∧ p ≠ 7 then v l else h.predAt l p) ∧
  { g with preds := [] } = { h with preds := [] }

/-- An integer instruction executes, with the uses it makes of fields A, B and C, of an immediate and of S (R168, R172, R173). -/
def IntExecutes (s : State) (x : Issue) (ua ub uc : Use) (bi sgn : Bool) (r : Ready) (u : State) : Prop :=
  Executes s x (x.regs (.reg x.w) ua ub uc)
    (fun r => x.fieldsBad r.k.desc.regs (.reg x.w) ua ub uc ++ x.intBad sgn false ++ x.extBad r.k.desc.regs true false bi false 0) r u

/-- The instruction writes D with the value v of each lane, and the set goes on. -/
def IntGives (i : Instr) (s : State) (x : Issue) (r : Ready) (u : State) (v : Nat → BitVec x.w) : Prop :=
  ∃ g, WritesD x (r.lanes x.kd) x.w (fun l => (v l).toNat) r.g g ∧ exec i s = .next (u.done x r g)

/-- Source A, B or C of a lane, as a word of the instruction's width. -/
def srcA (x : Issue) (r : Ready) (l : Nat) : BitVec x.w := BitVec.ofNat x.w (r.g.src x.ka l x.a x.w)
def srcB (x : Issue) (r : Ready) (l : Nat) : BitVec x.w := BitVec.ofNat x.w (x.srcB r.g l x.w)
def srcC (x : Issue) (r : Ready) (l : Nat) : BitVec x.w := BitVec.ofNat x.w (r.g.src x.kc l x.c x.w)

/-- Group g is group h but for the program counter, which is f in each lane. -/
def PcsAre (h g : Group) (f : Nat → Word) : Prop :=
  (∀ l < 32, g.pc l = f l) ∧ { g with pcs := [] } = { h with pcs := [] }

/-- Where the threads of an issuing set stand after a branch: the executing ones at their target, the others of the set at the next
instruction, len bytes on (R190, R191). -/
def branchPc (r : Ready) (len : Nat) (target : Nat → Word) (l : Nat) : Word :=
  if l ∈ r.exec then target l else if l ∈ r.set then r.pc + BitVec.ofNat 64 len else r.g.pc l

-- words of the statements about floating-point instructions

/-- How many elements a register of the instruction's format holds, and how wide they are (R50, R176). -/
def elemCount (x : Issue) : Nat := if x.fmtCode ≤ 1 then 1 else 2
def elemWidth (x : Issue) : Nat := if x.fmtCode = 0 then 64 else if x.fmtCode = 1 then 32 else 16

/-- Element e of a register's value. -/
def element (x : Issue) (e v : Nat) : Nat := v / 2 ^ (16 * e) % 2 ^ elemWidth x

/-- A register's value of its elements. -/
def joined (x : Issue) (v : Nat → Nat) : Nat :=
  if x.fmtCode ≤ 1 then v 0 % 2 ^ elemWidth x else v 0 % 2 ^ 16 + v 1 % 2 ^ 16 * 2 ^ 16

/-- The environment of an element's rounding: the instruction's modifiers under the task's modes, and the element's draw under SR
(R179, R180). -/
def fpEnv (x : Issue) (r : Ready) (l e : Nat) : RoundEnv :=
  let env := r.k.env (x.m 59 57) (x.m 62 60)
  if env.rm = .sr then { env with draw := x.draw r l e } else env

/-- Element e of source A, B or C of a lane. -/
def elemA (x : Issue) (r : Ready) (l e : Nat) : Nat := element x e (r.g.src x.ka l x.a x.fw)
def elemB (x : Issue) (r : Ready) (l e : Nat) : Nat := element x e (x.fpB r.g l)
def elemC (x : Issue) (r : Ready) (l e : Nat) : Nat := element x e (r.g.src x.kc l x.c x.fw)

/-- The flags of an instruction: bit k is one where some element of some lane that acts raises it. -/
def FlagsOf (lanes : List Nat) (n : Nat) (f : Nat → Nat → FpFlags) (fl : FpFlags) : Prop :=
  ∀ k, fl.toNat.testBit k = true ↔ ∃ l ∈ lanes, ∃ e < n, (f l e).toNat.testBit k = true

/-- A floating-point instruction executes, with the uses of its fields (R168, R172, R176). -/
def FpExecutes (s : State) (x : Issue) (ua ub uc : Use) (bi sr fu : Bool) (r : Ready) (u : State) : Prop :=
  Executes s x (x.regs (.reg x.fw) ua ub uc ++ (if sr then x.srRegs else []))
    (fun r => x.fieldsBad r.k.desc.regs (.reg x.fw) ua ub uc ++ x.fpBad r.k fu ++ x.extBad r.k.desc.regs true false bi sr 0) r u

/-- The instruction writes D element by element with f, ORs the flags that f raises into the context's FP_STATUS, and the set goes
on. -/
def FpGives (i : Instr) (s : State) (x : Issue) (r : Ready) (u : State) (f : Nat → Nat → Nat × FpFlags) : Prop :=
  ∃ g fl, WritesD x (r.lanes x.kd) x.fw (fun l => joined x (fun e => (f l e).1)) r.g g ∧
    FlagsOf (r.lanes x.kd) (elemCount x) (fun l e => (f l e).2) fl ∧
    exec i s = .next ((u.orFlags r.k.ctx fl).done x r g)

-- words of the statements about memory instructions

/-- The lanes of an access to global memory go their ways at once (R134, R228): there are some, their addresses resolve to rs, which
leaves the state w, no earlier access of the group holds them back, and the core has room for them. -/
def GoesGlobal (u : State) (x : Issue) (r : Ready) (op : MemOp) (rs : Resolved) (w : State) : Prop :=
  op.lanes ≠ [] ∧ u.resolve x.core r.k.ctx op = (w, rs) ∧ (u.core x.core).blocks op rs (u.core x.core).nextId = false ∧
    (u.core x.core).txnOcc x.core + op.need rs ≤ 256

/-- The instruction has issued, and its lanes go to memory, to registers, to the host, to a fault record or into a fault. -/
def globalDone (u w : State) (x : Issue) (r : Ready) (op : MemOp) (rs : Resolved) : State :=
  let v := w.done x r r.g
  (v.setCore x.core { v.core x.core with nextId := (u.core x.core).nextId + 64 }).runLanes x.core r.t r.k op (u.core x.core).nextId rs

/-- Every lane's address is a multiple of n. -/
def Aligned (op : MemOp) (n : Nat) : Prop := ∀ l ∈ op.lanes, l.addr.toNat % n = 0

/-- Every lane's shared offset lies in the workgroup's slot (R131). -/
def InSlot (r : Ready) (op : MemOp) : Prop :=
  ∀ l ∈ op.lanes, r.slmRange.1 ≤ l.addr.toNat ∧ l.addr.toNat + op.size ≤ r.slmRange.2

-- words of the statements about registers

/-- The register map has register r at index n. -/
def IsReg (r : Reg) (n : Nat) : Prop := regAt (r.addr n) = some (r, n)

/-- Nothing but the registers of a list changes from s to t. -/
def OnlyRegs (l : List (Reg × Nat)) (s t : State) : Prop :=
  (∀ r n, IsReg r n → (r, n) ∉ l → t.reg r n = s.reg r n) ∧ { t with regs := [] } = { s with regs := [] }

-- words of the statements about counters, register commands and tasks

/-- The counter that a counter instruction names, where its reference is legal, granted and placed (R201, R239, R240). -/
def NamesCounter (u : State) (x : Issue) (r : Ready) (add : Bool) (n : CtrName) : Prop :=
  (x.m 49 49 = 0 ∧ n = .core x.core x.a) ∨
  (x.m 49 49 = 1 ∧ refBad (r.g.readU x.a) add = none ∧ n = refName (r.g.readU x.a) x.core ∧ u.refFault r.k n = none)

/-- An operation on a counter has room under the core's bound (R257). -/
def HasRoom (u : State) (x : Issue) (n : CtrName) : Prop := n.remote x.core = true → (u.core x.core).txnOcc x.core < 256

/-- A register write that passes the checks of reach is one of the given register; q is the write (R18, R19, R36). -/
def Writes (s : State) (a : Access) (r : Reg) (q : RegWriteReq) : Prop := s.writeGate a = .go q ∧ q.reg = r

/-- A core's flight of a number is f, to be taken by its arbiter now (R242). -/
def Flies (s : State) (core id : Nat) (f : CtrFlight) : Prop :=
  (s.core core).flights.find? (fun g => decide (g.id = id)) = some f ∧ s.mayArrive core f = true

/-- The state with a flight taken from its core. -/
def State.landed (s : State) (core id : Nat) : State :=
  s.setCore core { s.core core with flights := (s.core core).flights.filter (fun g => decide (g.id ≠ id)) }

/-- A queue's command of a number is c, has an opcode and may start (R349, R350). -/
def Starts (s : State) (q seq opcode : Nat) (c : Cmd) : Prop := s.cmd? q seq = some c ∧ c.opcode = opcode ∧ s.mayStart q seq = true

-- words of the statements about the network

/-- The oldest frame of a port block's buffer is x, which carries the packet p; its slot, of index n, is not idle, and the journal has
room (R382, R426). -/
def Heads (s : State) (b : Nat) (p : NetPkt) (x : RxFrame) (n : Nat) : Prop :=
  (∃ rest, (s.port b).rx = x :: rest) ∧ x.pkt = p ∧ n = s.netIdx x.part x.slot ∧ s.slotState n ≠ 0 ∧ s.skbRoom x.part 0 = true

/-- The oldest frame carries a packet of a Fletus stream that is next in sequence (R396); u is the state once its marks and its
acknowledgement are dealt with. -/
def InSequence (s : State) (b : Nat) (m : FletusMsg) (x : RxFrame) (n : Nat) (u : State) : Prop :=
  ∃ p : FletusPkt, Heads s b (.fletus p) x n ∧ p.msg = m ∧ p.restart = false ∧ u = s.streamCommon n x p ∧
    p.seq = (u.flow n x.src true).expect

/-- The message of a packet in sequence has been taken, which left the state v: the next number is expected, and the packet is held for
acknowledgement (R396). -/
def taken (v : State) (n b : Nat) (x : RxFrame) : State :=
  let g := v.flow n x.src true
  (((v.setFlow n x.src true { g with expect := (g.expect + 1) % 2 ^ 32 }).holdAck n x.src true).journalPacket x).dropFrame b x

end Sys2Proof.Claims
end

