-- ==== Sys2Proof/Certificates/Slice0/Obligations.lean ====
section
/-! DEFINITION. The statements for the provers. -/

open Sys2Proof Sys2Proof.Machine Sys2Proof.Claims

/-- R173: the results of the integer instructions of two and three sources, at both widths, in every lane that acts, with the
frame of the group: nothing but D changes. -/
def Obligations.IntegerArithmeticResults : Prop :=
  ∀ (s : State) (x : Issue) (r : Ready) (u : State),
    (IntExecutes s x (.reg x.w) .none .none false false r u →
      IntGives (.mov x) s x r u (fun l => srcA x r l)) ∧
    (IntExecutes s x (.reg x.w) (.reg x.w) .none true false r u →
      IntGives (.add x) s x r u (fun l => srcA x r l + srcB x r l) ∧
      IntGives (.sub x) s x r u (fun l => srcA x r l - srcB x r l) ∧
      IntGives (.mul x) s x r u (fun l => srcA x r l * srcB x r l)) ∧
    (IntExecutes s x (.reg x.w) (.reg x.w) .none true true r u →
      IntGives (.mulhi x) s x r u (fun l =>
        if x.sgn then (((srcA x r l).signExtend (2 * x.w)) * ((srcB x r l).signExtend (2 * x.w))).extractLsb' x.w x.w
        else (((srcA x r l).zeroExtend (2 * x.w)) * ((srcB x r l).zeroExtend (2 * x.w))).extractLsb' x.w x.w) ∧
      IntGives (.min x) s x r u (fun l =>
        if (if x.sgn then (srcB x r l).slt (srcA x r l) else (srcB x r l).ult (srcA x r l)) then srcB x r l else srcA x r l) ∧
      IntGives (.max x) s x r u (fun l =>
        if (if x.sgn then (srcA x r l).slt (srcB x r l) else (srcA x r l).ult (srcB x r l)) then srcB x r l else srcA x r l)) ∧
    (IntExecutes s x (.reg x.w) (.reg x.w) (.reg x.w) true false r u →
      IntGives (.mad x) s x r u (fun l => srcA x r l * srcB x r l + srcC x r l))

/-- R173: the results of the logic, shift, counting and bit-field instructions: shift counts are taken modulo the width, and bit k of
a field of C bits from bit B is bit B + k of A below the length, its sign above it when S = 1, where bits past the width read 0. -/
def Obligations.IntegerLogicResults : Prop :=
  ∀ (s : State) (x : Issue) (r : Ready) (u : State),
    (IntExecutes s x (.reg x.w) (.reg x.w) .none true false r u →
      IntGives (.and x) s x r u (fun l => srcA x r l &&& srcB x r l) ∧
      IntGives (.or x) s x r u (fun l => srcA x r l ||| srcB x r l) ∧
      IntGives (.xor x) s x r u (fun l => srcA x r l ^^^ srcB x r l) ∧
      IntGives (.shl x) s x r u (fun l => srcA x r l <<< ((srcB x r l).toNat % x.w)) ∧
      IntGives (.shr x) s x r u (fun l => srcA x r l >>> ((srcB x r l).toNat % x.w)) ∧
      IntGives (.sar x) s x r u (fun l => (srcA x r l).sshiftRight ((srcB x r l).toNat % x.w))) ∧
    (IntExecutes s x (.reg x.w) .none .none false false r u →
      IntGives (.not x) s x r u (fun l => ~~~(srcA x r l)) ∧
      IntGives (.popc x) s x r u (fun l => BitVec.ofNat x.w ((List.range x.w).countP (fun k => (srcA x r l).getLsbD k))) ∧
      IntGives (.clz x) s x r u (fun l => (srcA x r l).clz)) ∧
    (IntExecutes s x (.reg x.w) (.reg x.w) (.reg x.w) true true r u →
      ∃ v : Nat → BitVec x.w, IntGives (.bfe x) s x r u v ∧ ∀ l k, k < x.w →
        (v l).getLsbD k =
          (let len := (srcC x r l).toNat % 128
           if k < len then (srcA x r l).getLsbD ((srcB x r l).toNat + k)
           else x.sgn && decide (0 < len) && (srcA x r l).getLsbD ((srcB x r l).toNat + len - 1)))

/-- R173, R174: sel takes A where its predicate is true; cmp writes a predicate from the two's-complement or unsigned order; pop
combines two predicates; a write to p7 is discarded. That a uniform result of sel takes the predicate of the lowest executing lane is
the model's choice (assumption 16). -/
def Obligations.PredicateInstructions : Prop :=
  ∀ (s : State) (x : Issue) (r : Ready) (u : State),
    (IntExecutes s x (.reg x.w) (.reg x.w) .pred true false r u → x.kd = false →
      IntGives (.sel x) s x r u (fun l => if r.g.predAt l x.c then srcA x r l else srcB x r l)) ∧
    (IntExecutes s x (.reg x.w) (.reg x.w) .pred true false r u → x.kd = true →
      IntGives (.sel x) s x r u (fun _ => if r.g.predAt (r.exec.headD 0) x.c then srcA x r 32 else srcB x r 32)) ∧
    (Executes s x (x.regs .pred (.reg x.w) (.reg x.w) .none)
        (fun r => x.fieldsBad r.k.desc.regs .pred (.reg x.w) (.reg x.w) .none ++ x.intBad true true ++ [(55, decide (5 < x.cc))]
          ++ x.extBad r.k.desc.regs true false true false 0) r u →
      ∃ g, WritesP x r.exec (fun l =>
          let less := fun (a b : BitVec x.w) => if x.sgn then a.slt b else a.ult b
          let a := srcA x r l
          let b := srcB x r l
          if x.cc = 0 then decide (a = b) else if x.cc = 1 then decide (a ≠ b) else if x.cc = 2 then less a b
          else if x.cc = 3 then !less b a else if x.cc = 4 then less b a else !less a b) r.g g ∧
        exec (.cmp x) s = .next (u.done x r g)) ∧
    (Executes s x []
        (fun r => x.fieldsBad r.k.desc.regs .pred .pred .pred .none ++ x.intBad false true
          ++ [(53, decide (x.w = 64)), (55, decide (3 < x.cc))] ++ x.extBad r.k.desc.regs true false false false 0) r u →
      ∃ g, WritesP x r.exec (fun l =>
          let a := r.g.predAt l x.a
          let b := r.g.predAt l x.b
          if x.cc = 0 then a && b else if x.cc = 1 then a || b else if x.cc = 2 then xor a b else a && !b) r.g g ∧
        exec (.pop x) s = .next (u.done x r g))

/-- R175: shfl gives each executing thread the value of A in its source lane, its own where that lane is outside 0 to 31 or does not
execute; vote writes the mask of the executing threads whose p[A] is true. -/
def Obligations.LaneExchange : Prop :=
  ∀ (s : State) (x : Issue) (r : Ready) (u : State),
    (Executes s x (x.regs (.reg x.w) (.reg x.w) (.reg 32) .none)
        (fun r => x.fieldsBad r.k.desc.regs (.reg x.w) (.reg x.w) (.reg 32) .none ++ x.intBad false true
          ++ [(55, decide (3 < x.cc))] ++ x.extBad r.k.desc.regs true false true false 0) r u →
      IntGives (.shfl x) s x r u (fun l =>
        let b : Nat := x.srcB r.g l 32
        let j : Int := if x.cc = 0 then ((b % 32 : Nat) : Int) else if x.cc = 1 then (l : Int) - b
          else if x.cc = 2 then (l : Int) + b else ((l ^^^ (b % 32) : Nat) : Int)
        if 0 ≤ j ∧ j < 32 ∧ j.toNat ∈ r.exec then srcA x r j.toNat else srcA x r l)) ∧
    (Executes s x (x.regs (.reg 32) .pred .none .none)
        (fun r => x.fieldsBad r.k.desc.regs (.reg 32) .pred .none .none ++ x.intBad false false
          ++ [(53, decide (x.w = 64))] ++ x.extBad r.k.desc.regs true false false false 0) r u →
      ∃ (m : Nat) (g : Group), (∀ n, m.testBit n = (decide (n ∈ r.exec) && r.g.predAt n x.a)) ∧
        WritesD x (r.lanes x.kd) 32 (fun _ => m) r.g g ∧ exec (.vote x) s = .next (u.done x r g))

/-- R62, R176, R177: the floating-point instructions write D element by element and OR the flags of all elements into FP_STATUS;
fp.neg and fp.abs change only the sign bit and raise none. -/
def Obligations.FloatArithmeticResults : Prop :=
  ∀ (s : State) (x : Issue) (r : Ready) (u : State),
    (FpExecutes s x (.reg x.fw) (.reg x.fw) .none true true false r u →
      FpGives (.fpAdd x) s x r u (fun l e => fpAdd x.fmt (fpEnv x r l e) (elemA x r l e) (elemB x r l e)) ∧
      FpGives (.fpSub x) s x r u (fun l e => fpAdd x.fmt (fpEnv x r l e) (elemA x r l e) (negate x.fmt (elemB x r l e))) ∧
      FpGives (.fpMul x) s x r u (fun l e => fpMul x.fmt (fpEnv x r l e) (elemA x r l e) (elemB x r l e)) ∧
      FpGives (.fpDiv x) s x r u (fun l e => fpDiv x.fmt (fpEnv x r l e) (elemA x r l e) (elemB x r l e))) ∧
    (FpExecutes s x (.reg x.fw) (.reg x.fw) (.reg x.fw) true true false r u →
      FpGives (.fpFma x) s x r u (fun l e => fpFma x.fmt (fpEnv x r l e) (elemA x r l e) (elemB x r l e) (elemC x r l e))) ∧
    (FpExecutes s x (.reg x.fw) .none .none false true false r u →
      FpGives (.fpSqrt x) s x r u (fun l e => fpSqrt x.fmt (fpEnv x r l e) (elemA x r l e))) ∧
    (FpExecutes s x (.reg x.fw) (.reg x.fw) .none true false false r u →
      FpGives (.fpMin x) s x r u (fun l e => fpMinMax false x.fmt (fpEnv x r l e) (elemA x r l e) (elemB x r l e)) ∧
      FpGives (.fpMax x) s x r u (fun l e => fpMinMax true x.fmt (fpEnv x r l e) (elemA x r l e) (elemB x r l e))) ∧
    (FpExecutes s x (.reg x.fw) .none .none false false false r u →
      FpGives (.fpNeg x) s x r u (fun l e => (elemA x r l e ^^^ 2 ^ (elemWidth x - 1), {})) ∧
      FpGives (.fpAbs x) s x r u (fun l e => (elemA x r l e % 2 ^ (elemWidth x - 1), {})))

/-- R156, R158, R176: the function unit's instructions write the part's table of its edition, element by element. -/
def Obligations.FunctionUnitResults : Prop :=
  ∀ (s : State) (x : Issue) (r : Ready) (u : State),
    FpExecutes s x (.reg x.fw) .none .none false false true r u →
      FpGives (.fpExp x) s x r u (fun l e => functionUnit (s.rd F.devIdentFtEdition) 0 x.fmt (fpEnv x r l e) (elemA x r l e)) ∧
      FpGives (.fpLog x) s x r u (fun l e => functionUnit (s.rd F.devIdentFtEdition) 1 x.fmt (fpEnv x r l e) (elemA x r l e)) ∧
      FpGives (.fpRsqrt x) s x r u (fun l e => functionUnit (s.rd F.devIdentFtEdition) 2 x.fmt (fpEnv x r l e) (elemA x r l e)) ∧
      FpGives (.fpSin x) s x r u (fun l e => functionUnit (s.rd F.devIdentFtEdition) 3 x.fmt (fpEnv x r l e) (elemA x r l e)) ∧
      FpGives (.fpCos x) s x r u (fun l e => functionUnit (s.rd F.devIdentFtEdition) 4 x.fmt (fpEnv x r l e) (elemA x r l e))

/-- R174, R177, R178, R181: fp.cmp writes a predicate and raises IV as R176 says; fp.class writes the class masks; fp.fromint and
fp.toint convert element 0; cvt converts the element at SEL_S into the position SEL_D of D and keeps the other positions. -/
def Obligations.FloatCompareAndConvert : Prop :=
  ∀ (s : State) (x : Issue) (r : Ready) (u : State),
    (Executes s x (x.regs .pred (.reg x.fw) (.reg x.fw) .none)
        (fun r => x.fieldsBad r.k.desc.regs .pred (.reg x.fw) (.reg x.fw) (.raw (decide (x.c ≤ 7))) ++ x.fpBad r.k false
          ++ x.extBad r.k.desc.regs true false true false 0) r u →
      ∃ g fl,
        WritesP x r.exec (fun l =>
          let a := (x.fmt.read (r.k.env (x.m 59 57) (x.m 62 60)) (elemA x r l 0)).1
          let b := (x.fmt.read (r.k.env (x.m 59 57) (x.m 62 60)) (elemB x r l 0)).1
          let un := a.isNan || b.isNan
          let lt := !un && a.less false b
          let gt := !un && b.less false a
          if x.c = 0 then !un && !lt && !gt else if x.c = 1 then un || lt || gt else if x.c = 2 then lt
          else if x.c = 3 then !un && !gt else if x.c = 4 then gt else if x.c = 5 then !un && !lt
          else if x.c = 6 then un else !un) r.g g ∧
        FlagsOf r.exec 1 (fun l _ =>
          let a := x.fmt.read (r.k.env (x.m 59 57) (x.m 62 60)) (elemA x r l 0)
          let b := x.fmt.read (r.k.env (x.m 59 57) (x.m 62 60)) (elemB x r l 0)
          { iv := if 2 ≤ x.c ∧ x.c ≤ 5 then a.1.isNan || b.1.isNan else a.1.isSnan || b.1.isSnan,
            flush := a.2.flush || b.2.flush }) fl ∧
        exec (.fpCmp x) s = .next ((u.orFlags r.k.ctx fl).done x r g)) ∧
    (Executes s x (x.regs (.reg 32) (.reg x.fw) .none .none)
        (fun r => x.fieldsBad r.k.desc.regs (.reg 32) (.reg x.fw) .none .none ++ x.fpBad r.k false
          ++ x.extBad r.k.desc.regs true false false false 0) r u →
      ∃ g, WritesD x (r.lanes x.kd) 32 (fun l => fpClassMask x.fmt (elemA x r l 0)
          + (if x.fmtCode ≤ 1 then 0 else fpClassMask x.fmt (elemA x r l 1) * 2 ^ 16)) r.g g ∧
        exec (.fpClass x) s = .next (u.done x r g)) ∧
    (Executes s x (x.regs (.reg x.fw) (.reg x.intW) .none .none ++ x.srRegs)
        (fun r => x.fieldsBad r.k.desc.regs (.reg x.fw) (.reg x.intW) .none (.raw (decide (x.c < 4))) ++ x.fpBad r.k false
          ++ x.extBad r.k.desc.regs true false false true 0) r u →
      ∃ g fl,
        WritesD x (r.lanes x.kd) x.fw (fun l => (x.fmt.round (fpEnv x r l 0) false (Val.ofInt (asInt (x.c.testBit 1)
          (if x.c.testBit 0 then 64 else 32) (r.g.src x.ka l x.a (if x.c.testBit 0 then 64 else 32))))).bits) r.g g ∧
        FlagsOf (r.lanes x.kd) 1 (fun l _ => (x.fmt.round (fpEnv x r l 0) false (Val.ofInt (asInt (x.c.testBit 1)
          (if x.c.testBit 0 then 64 else 32) (r.g.src x.ka l x.a (if x.c.testBit 0 then 64 else 32))))).flags) fl ∧
        exec (.fpFromint x) s = .next ((u.orFlags r.k.ctx fl).done x r g)) ∧
    (Executes s x (x.regs (.reg x.intW) (.reg x.fw) .none .none ++ x.srRegs)
        (fun r => x.fieldsBad r.k.desc.regs (.reg x.intW) (.reg x.fw) .none (.raw (decide (x.c < 4))) ++ x.fpBad r.k false
          ++ x.extBad r.k.desc.regs true false false true 0) r u →
      ∃ g fl,
        let w := if x.c.testBit 0 then 64 else 32
        let lo : Int := if x.c.testBit 1 then -2 ^ (w - 1) else 0
        let hi : Int := if x.c.testBit 1 then 2 ^ (w - 1) - 1 else 2 ^ w - 1
        let val := fun (l : Nat) => x.fmt.read (fpEnv x r l 0) (elemA x r l 0)
        WritesD x (r.lanes x.kd) w (fun l => (BitVec.ofInt w (roundInt (fpEnv x r l 0) lo hi (val l).1).1).toNat) r.g g ∧
        FlagsOf (r.lanes x.kd) 1 (fun l _ => ((val l).2).or (roundInt (fpEnv x r l 0) lo hi (val l).1).2.1) fl ∧
        exec (.fpToint x) s = .next ((u.orFlags r.k.ctx fl).done x r g)) ∧
    (∀ fs fd, Format.ofCode (x.e 51 48) = some fs → Format.ofCode (x.e 55 52) = some fd →
      Executes s x (x.regs (.reg fd.regWidth) (.reg fs.regWidth) .none .none ++ x.srRegs
          ++ (if x.m 59 59 = 1 then [(true, x.c)] else []))
        (fun r => x.fieldsBad r.k.desc.regs (.reg fd.regWidth) (.reg fs.regWidth) .none
            (if x.m 59 59 = 1 then .raw (decide (x.c < 64)) else .none)
          ++ [(12, x.ext.isNone), (53, (r.k.rm (x.m 55 53)).isNone), (56, (r.k.subn (x.m 58 56)).isNone),
              (60, decide (x.m 63 60 ≠ 0)), (120, decide (fs.perReg ≤ x.e 58 56)), (123, decide (fd.perReg ≤ x.e 61 59)),
              (126, decide (x.e 63 62 ≠ 0))]
          ++ x.extBad r.k.desc.regs true false false true 16) r u →
      ∃ g fl,
        let scale := if x.m 59 59 = 1 then combinedScale [BitVec.ofNat 32 (r.g.readU x.c)] else .num false 1 0 false
        let env := fun (l : Nat) =>
          let env := r.k.env (x.m 55 53) (x.m 58 56)
          if env.rm = .sr then { env with draw := x.draw r l 0 } else env
        let from' := fun (l : Nat) => r.g.src x.ka l x.a fs.regWidth / 2 ^ (x.e 58 56 * fs.regStep) % 2 ^ fs.width
        let old := fun (l : Nat) => r.g.src x.kd l x.d fd.regWidth
        let lo := x.e 61 59 * fd.regStep
        WritesD x (r.lanes x.kd) fd.regWidth (fun l =>
          old l % 2 ^ lo + (convert fs fd (env l) scale (from' l)).1 % 2 ^ fd.width * 2 ^ lo
            + old l / 2 ^ (lo + fd.regStep) * 2 ^ (lo + fd.regStep)) r.g g ∧
        FlagsOf (r.lanes x.kd) 1 (fun l _ => (convert fs fd (env l) scale (from' l)).2) fl ∧
        exec (.cvt x) s = .next ((u.orFlags r.k.ctx fl).done x r g))

/-- R69 to R71: special values of vector arithmetic in its four formats: a NaN operand gives the default NaN, and IV when one is
signalling; invalid operations give the default NaN and IV; a division by zero gives an infinity of the product of the signs and DZ;
an exact zero sum is -0 under RDN and +0 otherwise.
R177: fp.min and fp.max take the other operand where one is a NaN, the default NaN where both are, and otherwise the lesser or
the greater, -0 below +0; IV is set by a signalling operand only. -/
def Obligations.FloatSpecialsAndSelection : Prop :=
  (∀ f ∈ [Format.fp64, .fp32, .fp16, .bf16], ∀ (env : RoundEnv) (a b c : Nat),
     let va := (f.read env a).1
     let vb := (f.read env b).1
     let vc := (f.read env c).1
     let invalid : Nat × FpFlags → Prop := fun r => r.1 = f.defaultNan ∧ r.2.iv = true
     ((va.isNan || vb.isNan) = true →
       ∀ r ∈ [fpAdd f env a b, fpMul f env a b, fpDiv f env a b],
         r.1 = f.defaultNan ∧ r.2.iv = (va.isSnan || vb.isSnan) ∧ r.2.dz = false) ∧
     ((va.isNan || vb.isNan || vc.isNan) = true → (fpFma f env a b c).1 = f.defaultNan ∧
       (fpFma f env a b c).2.iv = (va.isSnan || vb.isSnan || vc.isSnan || (va.isInf && vb.isZero) || (va.isZero && vb.isInf))) ∧
     (va.isNan = true → (fpSqrt f env a).1 = f.defaultNan ∧ (fpSqrt f env a).2.iv = va.isSnan) ∧
     (∀ n, va = .inf n → vb = .inf (!n) → invalid (fpAdd f env a b)) ∧
     (va.isZero = true → vb.isInf = true → invalid (fpMul f env a b) ∧ invalid (fpMul f env b a)) ∧
     (va.isZero = true → vb.isZero = true → invalid (fpDiv f env a b)) ∧
     (va.isInf = true → vb.isInf = true → invalid (fpDiv f env a b)) ∧
     (va.isNan = false → va.isZero = false → va.neg? = true → invalid (fpSqrt f env a)) ∧
     (va.isNan = false → va.isInf = false → va.isZero = false → vb.isZero = true →
       (fpDiv f env a b).1 = f.infBits (va.neg? != vb.neg?) ∧ (fpDiv f env a b).2.dz = true ∧ (fpDiv f env a b).2.iv = false) ∧
     (∀ n m e, va = .num n m e false → vb = .num (!n) m e false →
       (fpAdd f env a b).1 = f.signBit (decide (env.rm = .rdn)))) ∧
  (∀ (greater : Bool) (f : Format) (env : RoundEnv) (a b : Nat),
     let va := (f.read env a).1
     let vb := (f.read env b).1
     let r := fpMinMax greater f env a b
     r.2.iv = (va.isSnan || vb.isSnan) ∧
     (va.isNan = true → vb.isNan = true → r.1 = f.defaultNan) ∧
     (va.isNan = true → vb.isNan = false → r.1 = flushed f env b) ∧
     (va.isNan = false → vb.isNan = true → r.1 = flushed f env a) ∧
     (va.isNan = false → vb.isNan = false →
       ((if greater then va.less true vb else vb.less true va) = true → r.1 = flushed f env b) ∧
       ((if greater then vb.less true va else va.less true vb) = true → r.1 = flushed f env a)))

/-- R190, R191, R166: nop only advances the set; bra, call and jmp move the executing threads to their targets and the rest of the set
to the next instruction; call writes the link pair; a misaligned jump target faults, and a word of a reserved class or opcode too. -/
def Obligations.ControlTransfers : Prop :=
  ∀ (s : State) (x : Issue) (r : Ready) (u : State),
    (x.reserved = none → Executes s x [] (fun _ => x.ctlBad false false false false) r u →
      ∃ g, PcsAre r.g g (fun l => if l ∈ r.set then r.pc + 8 else r.g.pc l) ∧ exec (.nop x) s = .next (u.issued x r g)) ∧
    (∀ p, x.reserved = some p → Executes s x [] (fun _ => []) r u → exec (.nop x) s = .next (u.precise x r 0x01 p)) ∧
    (Executes s x [] (fun _ => x.ctlBad true true true true) r u →
      ∃ g, PcsAre r.g g (branchPc r 8 (fun _ =>
          r.pc + BitVec.ofInt 64 (8 * (BitVec.ofNat 32 (x.d + x.a * 2 ^ 8 + x.b * 2 ^ 16 + x.c * 2 ^ 24)).toInt)) ) ∧
        exec (.bra x) s = .next (u.issued x r g)) ∧
    (Executes s x (operandRegs false x.d 64)
        (fun r => [(12, x.ext.isNone), (17, !regLegal false x.d 64 r.k.desc.regs), (25, decide (x.a ≠ 0)), (33, decide (x.b ≠ 0)),
          (41, decide (x.c ≠ 0))] ++ x.modBad ++ x.extBad r.k.desc.regs true true false false 0) r u →
      ∃ h g, WritesD { x with mod := 0 } r.exec 64 (fun _ => (r.pc + 16).toNat) r.g h ∧
        PcsAre h g (branchPc r 16 (fun _ => r.pc + BitVec.ofInt 64 (8 * (BitVec.ofNat 32 (x.e 31 0)).toInt))) ∧
        exec (.call x) s = .next (u.issued x r g)) ∧
    (Executes s x (operandRegs (decide (x.m 50 50 = 1)) x.a 64)
        (fun r => [(12, x.ext.isSome), (17, decide (x.d ≠ 0)), (25, !regLegal (decide (x.m 50 50 = 1)) x.a 64 r.k.desc.regs),
          (33, decide (x.b ≠ 0)), (41, decide (x.c ≠ 0)), (49, decide (x.m 49 49 ≠ 0)), (51, decide (x.m 63 51 ≠ 0))]) r u →
      ((∀ l ∈ r.exec, r.g.src (decide (x.m 50 50 = 1)) l x.a 64 % 8 = 0) →
        ∃ g, PcsAre r.g g (branchPc r 8 (fun l => BitVec.ofNat 64 (r.g.src (decide (x.m 50 50 = 1)) l x.a 64))) ∧
          exec (.jmp x) s = .next (u.issued x r g)) ∧
      (∀ l ∈ r.exec, r.g.src (decide (x.m 50 50 = 1)) l x.a 64 % 8 ≠ 0 →
        ∃ l' ∈ r.exec, r.g.src (decide (x.m 50 50 = 1)) l' x.a 64 % 8 ≠ 0 ∧
          exec (.jmp x) s = .next (u.precise x r 0x05 8 (BitVec.ofNat 64 (r.g.src (decide (x.m 50 50 = 1)) l' x.a 64)))))

/-- R209, R190, R215: converge holds its whole set; where no set of a group can run, the held set at the lowest program counter goes on;
exit ends the executing threads; trap raises a software trap that names the threads that executed it. -/
def Obligations.HoldEndAndTrap : Prop :=
  ∀ (s : State) (x : Issue) (r : Ready) (u : State),
    (Executes s x [] (fun _ => x.ctlBad false false false false) r u →
      (∃ g, (∀ l < 32, g.stat l = if l ∈ r.set then .held else r.g.stat l) ∧ { g with stats := [] } = { r.g with stats := [] } ∧
        exec (.converge x) s = .next (u.setCore x.core { u.core x.core with groups := (u.core x.core).groups.set x.pos g })) ∧
      (∃ g, (∀ l < 32, g.stat l = if l ∈ r.exec then .exited else r.g.stat l) ∧
        (∀ l < 32, g.pc l = if l ∈ r.set then r.pc + 8 else r.g.pc l) ∧
        { g with stats := [], pcs := [] } = { r.g with stats := [], pcs := [] } ∧
        exec (.exit x) s = .next (((u.issued x r g).settleBarriers x.core r.g.slot 4).settleWg x.core r.g.slot))) ∧
    (Executes s x [] (fun _ => x.ctlBad true true false false) r u →
      (r.exec = [] → exec (.trap x) s = .next (u.done x r r.g)) ∧
      (r.exec ≠ [] → exec (.trap x) s = .next (u.precise x r 0x08 ((x.d + x.a * 256) % 65536) 0 r.exec))) ∧
    (∀ (core pos t l0 : Nat) (k : Task) (g : Group),
      s.running? core = some (t, k) → (s.core core).groups.get? pos = some g → g.gstate = .live → g.fence = none →
      k.phase = .running → s.partLive k.part = true → core ∉ s.stopped → (∀ l < 32, g.stat l ≠ .run) →
      l0 < 32 → g.stat l0 = .held → (∀ l < 32, g.stat l = .held → (g.pc l0).toNat ≤ (g.pc l).toNat) →
      let freed := (List.range 32).filter (fun l => decide (g.stat l = .held) && decide (g.pc l = g.pc l0))
      ∃ g', (∀ l < 32, g'.stat l = if l ∈ freed then .run else g.stat l) ∧
        (∀ l < 32, g'.pc l = if l ∈ freed then g.pc l + 8 else g.pc l) ∧
        { g' with stats := [], pcs := [] } = { g with stats := [], pcs := [] } ∧
        exec (.convergeRelease core pos) s = .next
          (let v := (s.setCore core { s.core core with groups := (s.core core).groups.set pos g' }).bumpRun F.schCountCtlRun
            F.schIssuesCount core
           if freed.length < g.live.length then v.bumpRun F.schCountCtlRun F.schPartialIssuesCount core else v))

/-- R213, R214: at a barrier every executing thread arrives (bar.sync, bar.arrive) or looks at its arrival (bar.wait), and parks or
goes on as the rule says; the instruction completes where its parking makes no deadlock. -/
def Obligations.BarrierInstructions : Prop :=
  ∀ (s : State) (x : Issue) (r : Ready) (u : State),
    Executes s x [] (fun _ => x.ctlBad false true false false ++ [(25, decide (15 < x.a))]) r u →
    let old := fun (l : Nat) => (r.g.arr.getD x.a 0).testBit l
    let sound := fun (g : Group) => ∀ e ∈ deadlockedGroups
      ((((u.issued x r g).settleBarriers x.core r.g.slot 4).core x.core).slotGroups r.g.slot), e.1 ≠ x.pos
    let gives := fun (i : Instr) (stat : Nat → TStat) (arrives : Nat → Bool) =>
      ∃ g, (∀ l < 32, g.stat l = if l ∈ r.exec then stat l else r.g.stat l) ∧
        (∀ l < 32, g.pc l = if l ∈ r.set ∧ (l ∉ r.exec ∨ stat l = .run) then r.pc + 8 else r.g.pc l) ∧
        (∀ l < 32, (g.arr.getD x.a 0).testBit l = (old l || (decide (l ∈ r.exec) && arrives l))) ∧
        { g with stats := [], pcs := [], arr := [] } = { r.g with stats := [], pcs := [], arr := [] } ∧
        (sound g → exec i s = .next ((u.issued x r g).settleBarriers x.core r.g.slot 4))
    ((s.core x.core).performed x.pos = true →
      gives (.barSync x) (fun l => .barrier x.a (if old l then .rearriveSync else .goOn)) (fun _ => true) ∧
      gives (.barArrive x) (fun l => if old l then .barrier x.a .rearriveArrive else .run) (fun _ => true)) ∧
    gives (.barWait x) (fun l => if old l then .barrier x.a .goOn else .run) (fun _ => false)

/-- R207, R208: a group that was ready for 256 issues, and a set passed over 16 times, is taken first, its wait starts again, and
SCH.AGE_PROMOTIONS counts it. -/
def Obligations.Promotions : Prop :=
  ∀ (s : State) (core pos lane : Nat) (g : Group),
    (s.core core).groups.get? pos = some g → g.looksReady = true →
    (256 ≤ g.readySteps → exec (.groupPromotion core pos) s = .next
      ((s.setCore core { s.core core with groups := (s.core core).groups.set pos { g with readySteps := 0 } }).bumpRun
        F.schCountCtlRun F.schAgePromotionsCount core)) ∧
    (16 ≤ g.passed.getD lane 0 → exec (.setPromotion core pos lane) s = .next
      ((s.setCore core { s.core core with groups := (s.core core).groups.set pos { g with passed := g.passed.del lane } }).bumpRun
        F.schCountCtlRun F.schAgePromotionsCount core))

/-- R182 to R185, R133, R134: loads, stores and atomics of global memory whose addresses are aligned go to memory, lane by lane. -/
def Obligations.GlobalMemoryInstructions : Prop :=
  ∀ (s : State) (x : Issue) (r : Ready) (u w : State) (rs : Resolved), x.space = 0 →
    (Executes s x (x.regs (.reg x.dataWidth) (.reg x.baseWidth) .none .none) (fun r => x.ldBad r.k.desc.regs) r u →
      let op := x.memOp r .load (2 ^ x.memSize) true
      Aligned op op.size → GoesGlobal u x r op rs w → exec (.ld x) s = .next (globalDone u w x r op rs)) ∧
    (Executes s x (x.regs .none (.reg x.baseWidth) (.reg x.dataWidth) .none)
        (fun r => x.fieldsBad r.k.desc.regs .none (.reg x.baseWidth) (.reg x.dataWidth) .none
          ++ x.memBad r.k.desc.regs true (decide (x.memSize ≤ 4)) false true) r u →
      let op := x.memOp r .store (2 ^ x.memSize) false
      Aligned op op.size → GoesGlobal u x r op rs w → exec (.st x) s = .next (globalDone u w x r op rs)) ∧
    (∀ (i : Instr) (a : AtomOp) (sx : Bool),
      (i, a, sx) ∈ [(.atomAdd x, .add, false), (.atomMin x, .min, true), (.atomMax x, .max, true), (.atomAnd x, .and, false),
        (.atomOr x, .or, false), (.atomXor x, .xor, false), (.atomExch x, .exch, false), (.atomCas x, .cas, false)] →
      let c : Use := if a = .cas then .reg x.dataWidth else .none
      Executes s x (x.regs (x.atomDest x.dataWidth) (.reg x.baseWidth) (.reg x.dataWidth) c)
        (fun r => x.fieldsBad r.k.desc.regs (x.atomDest x.dataWidth) (.reg x.baseWidth) (.reg x.dataWidth) c
          ++ x.memBad r.k.desc.regs true (decide (x.memSize = 2 ∨ x.memSize = 3)) sx true) r u →
      let op := x.memOp r (.atomic a) (2 ^ x.memSize) true
      Aligned op op.size → GoesGlobal u x r op rs w → exec i s = .next (globalDone u w x r op rs)) ∧
    (Executes s x (x.regs (x.atomDest 128) (.reg x.baseWidth) (.reg 128) .none)
        (fun r => x.fieldsBad r.k.desc.regs (x.atomDest 128) (.reg x.baseWidth) (.reg 128) .none
          ++ x.memBad r.k.desc.regs true (decide (x.memSize = 4)) false true) r u →
      let op := x.memOp r .exact 16 true
      Aligned op 16 → GoesGlobal u x r op rs w → exec (.atomExact x) s = .next (globalDone u w x r op rs)) ∧
    (Executes s x (x.regs .none (.reg x.baseWidth) (.reg 32) .none)
        (fun r => x.fieldsBad r.k.desc.regs (.raw (decide (x.d = 255))) (.reg x.baseWidth) (.reg 32) .none
          ++ x.memBad r.k.desc.regs true (decide (x.memSize = 0)) false true) r u →
      let op := x.memOp r .longForm 4 false
      let y := u.core x.core
      let len := fun (o : Nat) => ((AccClass.ofCode ((y.slm.getD o 0).toNat)).map AccClass.slotBytes).getD 8
      let op' := { op with lanes := op.lanes.map (fun l => { l with data := leNat (y.slmBytes l.data (len l.data)), cmp := len l.data }) }
      Aligned op 8 →
      (∀ l ∈ op.lanes, l.data % 8 = 0 ∧ r.slmRange.1 ≤ l.data ∧ l.data + len l.data ≤ r.slmRange.2
        ∧ y.slmBad l.data (len l.data) = false) →
      GoesGlobal u x r op' rs w → exec (.atomLf x) s = .next (globalDone u w x r op' rs))

/-- R130, R131, R146, R221: a load or a store of shared memory is performed at its banks at once, a load of argument space reads the
task's arguments and zero past them; the lowest lane at fault is reported, for alignment first, then for its slot's range.
R186, R225, R229, R249: a fence that issues holds its group until its earlier accesses are done, with a flushing read behind host
writes; nc.inv empties the near cache; with no executing lane either only advances. -/
def Obligations.SharedMemoryAndFences : Prop :=
  (∀ (s : State) (x : Issue) (r : Ready) (u : State),
     (Executes s x (x.regs (.reg x.dataWidth) (.reg x.baseWidth) .none .none) (fun r => x.ldBad r.k.desc.regs) r u →
       let op := x.memOp r .load (2 ^ x.memSize) true
       let y := u.core x.core
       (x.space = 1 → Aligned op op.size → InSlot r op → (∀ l ∈ op.lanes, y.slmBad l.addr.toNat op.size = false) →
         exec (.ld x) s = .next ((u.bumpRun F.schCountCtlRun F.schBankReplaysCount x.core
             (bankReplays (op.lanes.map (fun l => l.addr.toNat)) op.size)).done x r
           ((op.lanes.flatMap (fun l => op.returns l.lane (leNat (y.slmBytes l.addr.toNat op.size)))).foldl Group.applyWrite r.g))) ∧
       (x.space = 2 → Aligned op op.size →
         exec (.ld x) s = .next (u.done x r ((op.lanes.flatMap (fun l => op.returns l.lane (leNat ((List.range op.size).map (fun j =>
           if l.addr.toNat + j < r.k.desc.argBytes then r.k.args.getD (l.addr.toNat + j) 0 else 0))))).foldl Group.applyWrite r.g))) ∧
       (∀ l, op.lanes.find? (fun l => decide (l.addr.toNat % op.size ≠ 0)) = some l →
         exec (.ld x) s = .next (u.precise x r 0x05 op.size l.addr)) ∧
       (∀ l, x.space = 1 → Aligned op op.size →
         op.lanes.find? (fun l => decide (l.addr.toNat < r.slmRange.1) || decide (r.slmRange.2 < l.addr.toNat + op.size)) = some l →
         exec (.ld x) s = .next (u.precise x r 0x06 0 l.addr))) ∧
     (Executes s x (x.regs .none (.reg x.baseWidth) (.reg x.dataWidth) .none)
         (fun r => x.fieldsBad r.k.desc.regs .none (.reg x.baseWidth) (.reg x.dataWidth) .none
           ++ x.memBad r.k.desc.regs true (decide (x.memSize ≤ 4)) false (decide (x.space = 0))) r u →
       let op := x.memOp r .store (2 ^ x.memSize) false
       x.space = 1 → Aligned op op.size → InSlot r op →
       (∀ l ∈ op.lanes, (u.core x.core).staging r.k.desc.layout x.pos l.addr.toNat op.size = false) →
       ∃ v : State, v = (u.bumpRun F.schCountCtlRun F.schBankReplaysCount x.core
           (bankReplays (op.lanes.map (fun l => l.addr.toNat)) op.size)).done x r r.g ∧
         exec (.st x) s = .next (v.setCore x.core
           ((v.core x.core).slmStore (op.storeBytes (op.lanes.map (fun l => (l, l.addr.toNat)))))))) ∧
  (∀ (s : State) (x : Issue) (r : Ready) (u : State),
     Executes s x [] (fun _ => x.ctlBad false false false false) r u →
     let v := u.done x r r.g
     let y := v.core x.core
     let read : Txn := { id := y.nextId, ctx := r.k.ctx, task := r.t, pos := x.pos, pc := r.pc, mask := laneMask r.set, kind := .flush }
     let host := fun (mine : Nat → Bool) => r.x.groups.any (fun g => mine g.1 && g.2.hostWrote)
       || r.x.txns.any (fun t => mine t.pos && (match t.kind with
         | .host op _ _ _ _ => decide (op.kind = .store)
         | _ => false))
     let fence := fun (i : Instr) (kind : Nat) (mine : Nat → Bool) (flush : Bool) =>
       exec i s = .next (v.setCore x.core
         { y with
           groups := y.groups.map (fun (g : Nat × Group) =>
             let h : Group := if flush && mine g.1 then { g.2 with hostWrote := false } else g.2
             (g.1, if g.1 = x.pos then { h with fence := some (kind, y.nextId + 1) } else h)),
           nextId := y.nextId + 1,
           txns := if flush then y.txns ++ [read] else y.txns }.settleFences)
     (r.exec ≠ [] →
       fence (.fenceWg x) 0 (fun p => decide (p = x.pos)) false ∧ fence (.fencePart x) 1 (fun p => decide (p = x.pos)) false ∧
       fence (.fenceRemote x) 2 (fun p => decide (p = x.pos)) (host (fun p => decide (p = x.pos))) ∧
       fence (.fenceGlobal x) 3 (fun _ => true) (host (fun _ => true)) ∧
       exec (.ncInv x) s = .next (v.setCore x.core y.ncInvalidate) ∧ y.ncInvalidate.nc = []) ∧
     (r.exec = [] → ∀ i ∈ [Instr.fenceWg x, .fencePart x, .fenceRemote x, .fenceGlobal x, .ncInv x], exec i s = .next v))

/-- R134, R184, R185, R224, R283, R284, R484: what is outstanding completes: a load gives its group its registers; an exact-cell add
puts the sum modulo 2^128 into its cell and touches no other byte; a long-form add puts the sum into its slot. -/
def Obligations.MemoryCompletions : Prop :=
  ∀ (s : State) (core txn : Nat) (ans : HostAns) (t : Txn),
    (s.core core).txns.find? (fun t => decide (t.id = txn)) = some t →
    (∀ ws uni fills, t.kind = .load ws uni fills →
      let v := s.giveRegs core t.pos ws
      let kept := ((s.core core).txns.filter (fun u => decide (u.id ≠ txn))).flatMap (fun u => u.atomLines)
      exec (.loadReturn core txn ans) s = .next ((v.setCore core
        ((fills.filter (fun f => decide (f.line ∉ kept))).foldl CoreSt.ncInstall (v.core core))).retire core t)) ∧
    (∀ pa addend dest va, t.kind = .exact pa addend dest va → (s.core core).addReady t = true →
      let v := s.ncAtomic ((s.paKind pa).region?.getD 0) (pa / 32)
      v.poisoned pa 16 = false →
      ∃ w : State, exec (.exactAddApply core txn) s = .next (w.retire core t) ∧
        leNat (w.readBytes pa 16) = (leNat (v.readBytes pa 16) + addend) % 2 ^ 128 ∧
        (∀ a, a < pa ∨ pa + 16 ≤ a → w.readByte a = v.readByte a) ∧ w.poison = v.poison) ∧
    (∀ ps src va, t.kind = .longForm ps src va → (s.core core).addReady t = true →
      let v := (ps.flatMap (fun p => blocksOf p.1 p.2)).foldl (fun (u : State) b => u.ncAtomic (((u.paKind (b * 32)).region?).getD 0) b) s
      (∀ p ∈ ps, v.poisoned p.1 p.2 = false) →
      let a := LongForm.read src
      let b := LongForm.read (ps.flatMap (fun p => v.readBytes p.1 p.2))
      let sum := a.1.add b.1
      let bytes := (sum.1.pack ++ List.replicate a.1.cls.slotBytes 0).take a.1.cls.slotBytes
      exec (.longFormAdd core txn) s = .next
        (((ps.foldl (fun (acc : State × List Byte) p => (acc.1.writeMem p.1 (acc.2.take p.2), acc.2.drop p.2)) (v, bytes)).1.orDrain
          t.ctx ({ sum.2 with form := sum.2.form || a.2 || b.2 } : LfEvents).toStatus).retire core t))

/-- R182: an integer atomic of 4 or 8 bytes leaves in memory what its operation makes of the old value, B and C, and every other byte
as it was; poison it does not touch. -/
def Obligations.AtomicOperations : Prop :=
  ∀ (s : State) (a : Nat) (signed : Bool) (b c w : Nat), w = 32 ∨ w = 64 →
    let size := w / 8
    s.poisoned a size = false →
    let old : BitVec w := BitVec.ofNat w (leNat (s.readBytes a size))
    let vb : BitVec w := BitVec.ofNat w b
    let vc : BitVec w := BitVec.ofNat w c
    let lt := fun (x y : BitVec w) => if signed then x.slt y else x.ult y
    let after := fun (op : AtomOp) (v : BitVec w) =>
      BitVec.ofNat w (leNat ((s.atomicAt a op signed size b c).readBytes a size)) = v ∧
        ∀ k, k < a ∨ a + size ≤ k → (s.atomicAt a op signed size b c).readByte k = s.readByte k
    after .add (old + vb) ∧ after .min (if lt old vb then old else vb) ∧ after .max (if lt old vb then vb else old) ∧
    after .and (old &&& vb) ∧ after .or (old ||| vb) ∧ after .xor (old ^^^ vb) ∧ after .exch vb ∧
    after .cas (if old = vc then vb else old)

/-- R484, R286: bytes written are read back where every stack is online, every other byte is as it was, and the poison marks of the
blocks wholly covered go, no other mark changing. -/
def Obligations.MemoryWriteReadBack : Prop :=
  ∀ (s : State) (a : Nat) (bs : List Byte),
    (∀ b ∈ blocksOf a bs.length, ∀ k, (s.paKind (b * 32)).stack? = some k → s.stackOffline k = false) →
    (s.writeMem a bs).readBytes a bs.length = bs ∧
    (∀ k, k < a ∨ a + bs.length ≤ k → (s.writeMem a bs).readByte k = s.readByte k) ∧
    (∀ b, (s.writeMem a bs).poison.has b =
      (s.poison.has b && !(decide (b ∈ blocksOf a bs.length) && decide (a ≤ b * 32) && decide (b * 32 + 32 ≤ a + bs.length))))

/-- R109 to R113, R146, R192 to R197: a matrix instruction that the whole group issues, with its shared operands aligned and in the slot
and room for it, enters the matrix queue; mx.zero clears its slot and its count; a group that is not whole faults. -/
def Obligations.MatrixIssue : Prop :=
  ∀ (s : State) (x : Issue) (r : Ready) (u : State),
    let c := layoutClass r.k.desc.layout
    let fits := fun (o n a : Nat) => o % a = 0 ∧ r.slmRange.1 ≤ o ∧ o + n ≤ r.slmRange.2
    let queue := (u.core x.core).mxq
    (∀ fa fb n, x.mmaA = some fa → x.mmaB = some fb →
      Executes s x (mxSrcRegs x.sa x.a ++ mxSrcRegs x.sb x.b) (fun r => x.mmaBad r.k.desc.regs r.k.desc.layout) r u →
      r.set.length = 32 → (u.core x.core).slotCount x.d = some n → n + x.c ≤ c.capacity → queue.length < 4 →
      (x.sa = false → fits (r.g.readU x.a % 2 ^ 18) (c.tileBytes fa (c.kInst fa fb)) 256) →
      (x.sb = false → fits (r.g.readU x.b % 2 ^ 18) (c.tileBytes fb (c.kInst fa fb)) 256) →
      exec (.mxMma x) s = .next (u.enqueueMx x r (.mma x.d x.c fa fb
        (if x.sa then .regs (r.g.tileRegs x.a (c.tileBytes fa (c.kInst fa fb))) else .slm (r.g.readU x.a % 2 ^ 18))
        (if x.sb then .regs (r.g.tileRegs x.b (c.tileBytes fb (c.kInst fa fb))) else .slm (r.g.readU x.b % 2 ^ 18))
        (r.k.env 7 (x.m 53 51)).flushIn))) ∧
    (Executes s x [(true, x.a)]
        (fun r => x.mxBad 17 x.d r.k.desc.layout
          ++ [(25, decide (64 ≤ x.a)), (33, decide (x.b ≠ 0)), (41, decide (x.c ≠ 0)), (49, decide (x.mod ≠ 0))]) r u →
      r.set.length = 32 → queue.length < 4 → fits (r.g.readU x.a % 2 ^ 18) (c.dim * c.dim * c.slotBytes) 8 →
      exec (.mxLdlf x) s = .next (u.enqueueMx x r (.ldlf x.d (r.g.readU x.a % 2 ^ 18)))) ∧
    (Executes s x ((List.range 9).map (fun j => (true, x.a + j)) ++ (if x.drRet then [(true, x.d), (true, x.d + 1)] else []))
        (fun r => x.drainBad r.k.desc.layout) r u →
      let d := x.drainOp r.g r.k
      u.drainBlockBad r.k.ctx d (natBits (r.g.readU (x.a + 1)) 63 56) c.dim = none → r.set.length = 32 →
      d.outAddr % d.unit = 0 → d.pitch % d.unit = 0 →
      (d.toGlobal = false → r.slmRange.1 ≤ d.outAddr ∧ d.outAddr + (d.rows - 1) * d.pitch + d.rowBytes c ≤ r.slmRange.2) →
      queue.length < 4 → exec (.mxDrain x) s = .next (u.enqueueMx x r (.drain d))) ∧
    (Executes s x []
        (fun r => x.mxBad 17 x.d r.k.desc.layout
          ++ [(25, decide (x.a ≠ 0)), (33, decide (x.b ≠ 0)), (41, decide (x.c ≠ 0)), (49, decide (x.mod ≠ 0))]) r u →
      (r.set.length = 32 → (∀ e ∈ queue, e.op.slot ≠ x.d) →
        ∃ y : CoreSt, y.acc.get? x.d = none ∧ (∀ k, k ≠ x.d → y.acc.get? k = ((u.done x r r.g).core x.core).acc.get? k) ∧
          { y with acc := [] } = { (u.done x r r.g).core x.core with acc := [] } ∧
          exec (.mxZero x) s = .next ((u.done x r r.g).setCore x.core y)) ∧
      (r.set.length < 32 → exec (.mxZero x) s = .next (u.precise x r 0x02 0)))

/-- R75, R108, R113, R114: the instruction at the head of a core's matrix queue runs; a multiply-accumulate raises its slot's count by
its K positions, adds their products, counts them and ORs the flags of its reads. -/
def Obligations.MatrixExecution : Prop :=
  ∀ (s : State) (core : Nat) (e : MxEntry) (rest : List MxEntry) (k : Task),
    (s.core core).mxq = e :: rest → s.task? e.task = some k → core ∉ s.stopped → s.partLive k.part = true →
    (s.core core).mxStall = none →
    let x := s.core core
    let c := layoutClass k.desc.layout
    (∀ slot kv fa fb ta tb fl a b, e.op = .mma slot kv fa fb ta tb fl →
      x.tile ta (c.tileBytes fa (c.kInst fa fb)) = some a → x.tile tb (c.tileBytes fb (c.kInst fa fb)) = some b →
      let cols := (List.range kv).map (fun i =>
        (tileColumn c fa { flushIn := fl } a i, tileColumn c fb { flushIn := fl } b i))
      let new : AccSlot := { count := (x.acc.getD slot {}).count + kv,
                             outs := mmaAcc c (!fa.isFloat && !fb.isFloat) cols (x.acc.getD slot {}).outs }
      ∃ flags : FpFlags,
        (∀ n, flags.toNat.testBit n = true ↔ ∃ ab ∈ cols, ∃ v ∈ ab.1 ++ ab.2, v.2.toNat.testBit n = true) ∧
        exec (.matrixInstructionStart core) s = .next
          (((((s.setCore core { x with acc := x.acc.set slot new }).orFlags e.ctx flags).bumpRun F.mxuCountCtlRun
            F.mxuActiveStepsCount core (c.mmaSteps fa fb)).bumpRun F.mxuCountCtlRun F.mxuProductsCount core
            (kv * c.dim * c.dim)).mxPop core e)) ∧
    (∀ slot off, e.op = .ldlf slot off → exec (.matrixInstructionStart core) s = .next (s.runLdlf core k e slot off)) ∧
    (∀ d, e.op = .drain d → exec (.matrixInstructionStart core) s = .next (s.runDrain core k e d))

/-- R74, R77, R95, R99: exact accumulation does not depend on the order of the products, and a product is the sum of its slice products,
each at its own weight. A waiting merge is applied to its tensor record; the merge of blot entries and of counts does not depend on the order
or the grouping. -/
def Obligations.ExactAccumulationAndRecordMerges : Prop :=
  (∀ (c : AccClass) (ints : Bool) (acc : Acc) (l m : List (Val × Val)), l.Perm m →
    l.foldl (fun a t => a.addTerm c ints t.1 t.2) acc = m.foldl (fun a t => a.addTerm c ints t.1 t.2) acc) ∧
  (∀ n m a b : Nat, a < 256 ^ n → b < 256 ^ m → sliceSum (slices n a) (slices m b) = a * b) ∧
  (∀ (s u t : State) (n : Nat) (m : Merge) (rec : List Byte), s.merges[n]? = some m → s.readPieces m.pieces = (u, rec) →
    t = (u.writePieces m.pieces (m.info.into rec).1).orDrain m.ctx (m.info.into rec).2 →
    exec (.recordMerge n) s = .next { t with merges := t.merges.eraseIdx n }) ∧
  (∀ a b c : Nat × Nat × Nat, a.2.2 ≠ 0 → b.2.2 ≠ 0 → c.2.2 ≠ 0 →
    mergeBlot a none = a ∧ mergeBlot a (some b) = mergeBlot b (some a) ∧
      mergeBlot (mergeBlot a (some b)) (some c) = mergeBlot a (some (mergeBlot b (some c)))) ∧
  (∀ a b c : Nat, (satCount a b).1 = (satCount b a).1 ∧ (satCount (satCount a b).1 c).1 = (satCount a (satCount b c).1).1 ∧
    ((satCount a b).2 = true ↔ 2 ^ 48 - 1 < a + b))

/-- R91: the long-form add has the higher class, the OR of the side bits with NAN and INV where the classes differ, the value 0 where NAN
is set, and otherwise the exact sum reduced modulo 2^(64 × n) into the class's range, with LF_CLASS and LF_RANGE as the rule says; and it is
commutative and associative in every case: its class, its value and its side bits do not depend on the order or the grouping of the
contributions. -/
def Obligations.LongFormAddCommutesAndAssociates : Prop :=
  (∀ a b : LongForm,
     let c := (a.add b).1
     let n := 64 * c.cls.buckets
     c.cls.code = max a.cls.code b.cls.code ∧
     c.acc.side = a.acc.side ||| b.acc.side ||| (if a.cls = b.cls then 0 else SideBit.nan ||| SideBit.inv) ∧
     ((a.add b).2.cls = true ↔ a.cls ≠ b.cls) ∧
     (Side.has c.acc.side SideBit.nan = true → c.acc.v = 0 ∧ (a.add b).2.range = false) ∧
     (Side.has c.acc.side SideBit.nan = false →
       -2 ^ (n - 1) ≤ c.acc.v ∧ c.acc.v < 2 ^ (n - 1) ∧ (∃ k : Int, a.acc.v + b.acc.v = c.acc.v + k * 2 ^ n) ∧
         ((a.add b).2.range = true ↔ ¬(-2 ^ (n - 1) ≤ a.acc.v + b.acc.v ∧ a.acc.v + b.acc.v < 2 ^ (n - 1))))) ∧
  (∀ a b : LongForm, (a.add b).1 = (b.add a).1 ∧ (a.add b).2.cls = (b.add a).2.cls) ∧
  (∀ a b c : LongForm, ((a.add b).1.add c).1 = (a.add (b.add c).1).1)

/-- R87 to R89, R162 to R166: a long form packed canonically is read back whole: every value of its class's bucket range with every setting
of the side bits; a zero value, and one whose NAN bit is set, takes no bucket. The words of a Kwaok instruction are read back as that
instruction, with every field at every value that it can have and with or without an extension word. -/
def Obligations.EncodingsReadBack : Prop :=
  (∀ l : LongForm,
     -2 ^ (64 * l.cls.buckets - 1) ≤ l.acc.v → l.acc.v < 2 ^ (64 * l.cls.buckets - 1) →
     (Side.has l.acc.side SideBit.nan = true → l.acc.v = 0) →
     LongForm.parse l.pack = some l ∧ LongForm.read l.slot = (l, false) ∧ l.slot.length = l.cls.slotBytes ∧
       (l.acc.v = 0 → l.pack.length = 8) ∧ (l.acc.v ≠ 0 → leNat ((l.pack.drop 8).take 8) ≠ 0)) ∧
  (∀ (i : Instr) (cls op : Nat) (x : Issue), i.kwaok = some (cls, op, x) → x.gp < 8 → x.d < 256 → x.a < 256 → x.b < 256 → x.c < 256 →
     x.mod < 2 ^ 15 → x.reserved = none →
     encode i = some (baseWord cls op x :: x.ext.toList) ∧
       ∀ next, decode x.core x.pos x.lane (baseWord cls op x) (x.ext.getD next) = i)

/-- R117, R118, R187, R189: tm.copy hands its checked descriptor to a mover with room; a descriptor at fault raises the
illegal-instruction fault with its DETAIL.
R117, R118, R189: a mover whose first descriptor's rows all translate moves the tile: into shared memory of every core written, or
to memory, and adds to its counter there. -/
def Obligations.TileMoves : Prop :=
  (∀ (s : State) (x : Issue) (r : Ready) (u : State),
     Executes s x ((List.range 6).map (fun j => (true, x.a + j)))
       (fun _ => [(12, x.ext.isSome), (17, decide (x.d ≠ 0)), (25, decide (58 < x.a)), (33, decide (x.b ≠ 0)), (41, decide (x.c ≠ 0)),
         (50, decide (x.m 63 50 ≠ 0))]) r u →
     let words := fun (j : Nat) => r.g.readU (x.a + j)
     let d := tmDesc words (u.core x.core).nextId x.pos (laneMask r.set) r.pc
     let v := u.done x r r.g
     let y := v.core x.core
     (r.exec ≠ [] → tmBad words = none → r.slmRange.1 ≤ d.slm → d.slmEnd ≤ r.slmRange.2 →
       (x.m 49 49 = 0 → (u.core x.core).tm0.length < 128 →
         exec (.tmCopy x) s = .next (v.setCore x.core { y with nextId := y.nextId + 1, tm0 := y.tm0 ++ [d] })) ∧
       (x.m 49 49 = 1 → (u.core x.core).tm1.length < 128 →
         exec (.tmCopy x) s = .next (v.setCore x.core { y with nextId := y.nextId + 1, tm1 := y.tm1 ++ [d] }))) ∧
     (∀ b, r.exec ≠ [] → tmBad words = some b → exec (.tmCopy x) s = .next (u.precise x r 0x01 b)) ∧
     (r.exec = [] → exec (.tmCopy x) s = .next v)) ∧
  (∀ (s : State) (core mover : Nat) (d : TmDesc) (rest : List TmDesc) (k : Task) (v : State) (pieces : List (List (Dest × Nat))),
     mover < 2 → (if mover = 0 then (s.core core).tm0 else (s.core core).tm1) = d :: rest →
     (s.core core).task.bind s.task? = some k → core ∉ s.stopped → s.partLive k.part = true →
     (s.core core).tmStall.has mover = false →
     s.allSpans core k (if d.toMem then .write else .read) d.ranges = (v, .ok pieces) → v.hostHolds pieces = false →
     (∀ w rows, d.toMem = false →
       pieces.foldl (fun (acc : State × List (List (Byte × Bool))) p =>
         ((acc.1.engRead core p).1, acc.2 ++ [(acc.1.engRead core p).2])) (v, []) = (w, rows) →
       let into := (w.tmTargets core k d).foldl (fun (u : State) c => u.setCore c (d.toSlm (d.gridOf rows) (u.core c))) w
       exec (.tileMoveComplete core mover) s = .next
         (((w.tmTargets core k d).foldl (fun (u : State) c => u.tmSignal k d c) (into.tmPop core mover)).settleFences core)) ∧
     (d.toMem = true →
       exec (.tileMoveComplete core mover) s = .next
         (((((d.rowsIn.zip pieces).foldl (fun (u : State) x =>
           u.engWrite core d.pos x.2 (d.rowOut (d.ofSlm (v.core core)) x.1 (x.2.flatMap (fun p => match p.1 with
             | .mem pa => u.readBytes pa p.2
             | .host _ _ => List.replicate p.2 0)))) v).tmPop core mover).tmSignal k d core).settleFences core)))

/-- R200 to R202, R241, R244, R129, R203: a counter instruction whose counter is named legally sends its operation to the counter's
arbiter; a wait or a claim parks the issuing set; sys.get writes a system value that needs no journal. -/
def Obligations.CounterInstructionsAndSystem : Prop :=
  ∀ (s : State) (x : Issue) (r : Ready) (u : State) (n : CtrName),
    (r.exec ≠ [] → HasRoom u x n →
      (Executes s x (x.cntRegs true) (fun _ => x.cntBad .none true false) r u → NamesCounter u x r true n →
        exec (.cntAdd x) s = .next ((u.done x r r.g).fly x.core x.pos r.t n (.add (if x.bi then x.e 31 0 else r.g.readU x.b)))) ∧
      (Executes s x (x.cntRegs false ++ [(true, x.d)]) (fun _ => x.cntBad (.reg 64) false false) r u → NamesCounter u x r false n →
        exec (.cntRead x) s = .next ((u.done x r r.g).fly x.core x.pos r.t n (.read x.d))) ∧
      (Executes s x (x.cntRegs true) (fun _ => x.cntBad .pred true true) r u → NamesCounter u x r false n → r.g.wait = none →
        ∀ i claim, (i, claim) ∈ [(Instr.cntWait x, false), (.cntClaim x, true)] →
          ∃ g, (∀ l < 32, g.stat l = if l ∈ r.set then .counter else r.g.stat l) ∧
            g.wait = some {
              ref := (match n with
                | .core _ c => .core c
                | .region rg c => .region rg c)
              len := x.len, claim := claim, target := if x.bi then x.e 31 0 else r.g.readU x.b
              deadline := if x.m 50 50 = 1 then some (u.now + min (r.g.readU x.c) (2 ^ 32 - 1)) else none
              lanes := laneMask r.set, pred := x.d } ∧
            { g with stats := [], wait := none } = { r.g with stats := [], wait := none } ∧
            exec i s = .next ((u.issued x r g).fly x.core x.pos r.t n .waitClaim))) ∧
    (∀ w varies, sysSelector x.b = some (w, varies) →
      Executes s x ((Use.reg w).regs x.kd x.d)
        (fun r => x.fieldsBad r.k.desc.regs (.reg w) .none (.raw true) .none ++ [(53, decide (x.m 63 53 ≠ 0)), (12, x.ext.isSome)]) r u →
      u.recording r.k.ctx = false → u.replaying r.k.ctx = false → (u.core x.core).groups.get? x.pos = some r.g →
      ∃ g, WritesD x (r.lanes x.kd) w (u.sysValue x r) r.g g ∧ exec (.sysGet x) s = .next (u.done x r g))

/-- R233: a counter add stops at 2^64 - 1, and a sum past that is logged as event 0x0001; no other counter changes.
R242, R243, R358: an operation that reaches its arbiter: an add is applied and the waits are settled; a wait or a claim joins the
pending ones and is settled; a deadline that has passed settles its counter. -/
def Obligations.CountersSaturateAndArbitrate : Prop :=
  (∀ (s : State) (n m : CtrName) (v ctx : Nat), (∀ r i, n = .region r i → i < 512) → (∀ r i, m = .region r i → i < 512) →
     (s.addTo n v ctx).ctrVal m = (if m = n then min (s.ctrVal n + v) (2 ^ 64 - 1) else s.ctrVal m) ∧
     (s.ctrVal n + v < 2 ^ 64 → (s.addTo n v ctx).events = s.events ∧ (s.addTo n v ctx).regs = s.regs)) ∧
  (∀ (s : State) (ctr : CtrName) (core id : Nat) (f : CtrFlight),
     (Flies s core id f → f.ctr = ctr →
       let v := State.landed s core id
       (∀ val c i, f.op = .add val → ctr = .core c i → exec (.counterArbitration ctr [(core, id)]) s = .next
         ({ v.coreAdd f.task c i val with nextArrival := (v.coreAdd f.task c i val).nextArrival + 1 }.settleCtr ctr)) ∧
       (∀ val r i k, f.op = .add val → ctr = .region r i → v.task? f.task = some k → exec (.counterArbitration ctr [(core, id)]) s = .next
         ({ v.regionAdd k.ctx r i val with nextArrival := (v.regionAdd k.ctx r i val).nextArrival + 1 }.settleCtr ctr)) ∧
       (f.op = .waitClaim → exec (.counterArbitration ctr [(core, id)]) s = .next
         ({ v.waitArrives core f with nextArrival := (v.waitArrives core f).nextArrival + 1 }.settleCtr ctr)) ∧
       (∀ reg, f.op = .read reg → exec (.counterArbitration ctr [(core, id)]) s = .next
         (({ v with nextArrival := v.nextArrival + 1 }.settleCtr ctr).readArrives core f reg))) ∧
     (∀ pos g w d, (s.core core).groups.get? pos = some g → g.wait = some w → w.arrived = true → w.deadline = some d → d ≤ s.now →
       exec (.counterDeadline (.group core pos)) s = .next (s.settleCtr (w.ref.name core))) ∧
     (∀ q seq c d, s.cmd? q seq = some c → c.waiting = true → c.deadline = some d → d ≤ s.now →
       exec (.counterDeadline (.command q seq)) s = .next
         (s.settleCtr (.region (natBits (c.field 0x10 8) 33 32) (natBits (c.field 0x10 8) 17 8)))))

/-- R202, R243: a wait that ends writes its predicate in every thread that waited, frees the group's entry and lets them go on past
the instruction. -/
def Obligations.WaitEnds : Prop :=
  ∀ (s : State) (p : Pending) (e : WaitEnd) (t : Nat) (k : Task) (g : Group),
    s.running? p.core = some (t, k) → (s.core p.core).groups.get? p.pos = some g → p.w.pred < 8 → s.recording k.ctx = false →
    ∃ h, ((s.endWait p e false).core p.core).groups.get? p.pos = some h ∧ h.wait = none ∧
      (∀ l < 32, p.w.lanes.testBit l = true →
        h.stat l = .run ∧ h.pc l = g.pc l + BitVec.ofNat 64 p.w.len ∧
        (p.w.pred < 7 → h.predAt l p.w.pred = decide (e = .true_)) ∧ ∀ n < 8, n ≠ p.w.pred → h.predAt l n = g.predAt l n) ∧
      (∀ l < 32, p.w.lanes.testBit l = false → h.stat l = g.stat l ∧ h.pc l = g.pc l ∧ ∀ n < 8, h.predAt l n = g.predAt l n) ∧
      h.v = g.v ∧ h.u = g.u

/-- R239: a block of region counters is granted to a context of its partition, which zeroes its 64 counters; a write that would grant it
to another context while granted, or across partitions, is refused; a revocation ends what waits on it.
R255, R256: a core that has been idle on its counters for 20,000 ns enters retention, and one whose wait has ended leaves it. -/
def Obligations.CounterBlocksAndRetention : Prop :=
  (∀ (s : State) (a : Access) (q : RegWriteReq), Writes s a .regCntOwner q → ∀ i ∈ [Instr.regionCounterGrant a, .regionCounterRevoke a],
     let r := q.n / 8
     (q.new F.regCntOwnerValid = 1 → q.was F.regCntOwnerValid = 0 →
       partOfCtx s.mode (q.new F.regCntOwnerContext) = partOfRegion s.mode r →
       ∃ t, exec i s = .next t ∧ t.reg .regCntOwner q.n = q.merged ∧
         (∀ k, t.regionCtrs.get? k = if k / 64 = q.n / 8 * 8 + q.n % 8 then none else s.regionCtrs.get? k)) ∧
     (q.new F.regCntOwnerValid = 0 → q.was F.regCntOwnerValid = 1 → exec i s = .next ((s.store q).revokeBlock r (q.n % 8))) ∧
     (q.new F.regCntOwnerValid = 1 → q.was F.regCntOwnerValid = 1 → q.new F.regCntOwnerContext ≠ q.was F.regCntOwnerContext →
       exec i s = .next s.accessError) ∧
     (q.new F.regCntOwnerValid = 1 → partOfCtx s.mode (q.new F.regCntOwnerContext) ≠ partOfRegion s.mode r →
       exec i s = .next s.accessError)) ∧
  (∀ (s : State) (core t : Nat), (s.core core).idleSince = some t →
     ((s.core core).retained = false → (s.core core).idle = true → t + 20000 ≤ s.now →
       exec (.retentionEntry core) s = .next (((s.setCore core { s.core core with retained := true, idleSince := some s.now }).bump
         F.cntRetentionEntriesCount core).countRetained (regionOfCore core))) ∧
     ((s.core core).retained = true → (s.core core).idle = false →
       exec (.retentionExit core) s = .next (((s.setCore core { s.core core with retained := false, idleSince := none }).bump
         F.cntRetentionNsCount core (s.now - t)).countRetained (regionOfCore core))))

/-- R140 to R143, R235, R237: a task is bound to its cores, begins on each with its state cleared, and its workgroups are dispatched in
ascending order to the lowest free slot; past its time limit it stops. -/
def Obligations.TasksBindBeginDispatch : Prop :=
  ∀ (s : State) (t core : Nat) (k : Task), s.task? t = some k → s.partLive k.part = true →
    (∀ q seq c, s.taskCmd t = some (q, seq) → s.cmd? q seq = some c → c.phase = .running → k.phase = .accepted →
      s.schedulerUp k.queue = true → (∀ c ∈ k.cores, s.clusterUp c = true ∧ (s.core c).bound.length < 2) →
      exec (.taskBind t) s = .next ((k.cores.foldl (fun (u : State) c => u.setCore c { u.core c with bound := (u.core c).bound ++ [t] })
        s).updTask t (fun y => { y with phase := .bound }))) ∧
    (k.phase = .running → core ∈ k.cores → core ∉ k.begun → t ∈ (s.core core).bound → s.coreFree core = true →
      s.clusterUp core = true → k.saveValid = false →
      exec (.coreTaskBegin t core) s = .next (((s.setCore core
        { bound := (s.core core).bound, pend := (s.core core).pend, flights := (s.core core).flights, nextId := (s.core core).nextId,
          task := some t }).updTask t (fun z => { z with begun := z.begun ++ [core] })).takePending t k.ctx core)) ∧
    (∀ slot ps, k.phase = .running → (s.core core).task = some t → core ∈ k.begun → core ∉ s.stopped →
      k.nextWg < k.desc.total → s.rd F.cluCccStatusDispatchPaused (clusterOfCore core) = 0 → k.desc.slmZero = false →
      slot < k.desc.resident → (s.core core).slots.has slot = false → (∀ n < slot, (s.core core).slots.has n = true) →
      (s.core core).places k.desc.groups = some ps →
      exec (.workgroupDispatch t core) s = .next ((s.setCore core { s.core core with
        groups := (List.range k.desc.groups).foldl (fun (m : NMap Group) g => m.set (ps.getD g 0) (k.group k.nextWg slot g))
          (s.core core).groups
        slots := (s.core core).slots.set slot { linear := k.nextWg }
        idleSince := none }).updTask t (fun y => { y with nextWg := y.nextWg + 1 }))) ∧
    (k.phase ≠ .ended → k.desc.timeLimit ≠ 0 → k.accepted + k.desc.timeLimit < s.now → s.replaying k.ctx = false →
      s.recording k.ctx = false → (∀ c ∈ k.cores, (s.core c).retained = false) →
      exec (.timeLimitExpiry t) s = .next ((s.updTask t (fun y => { y with timedOut := true })).stopTask t 0x31))

/-- R153, R155, R238, R252: the running task of a context with a save area is switched out of its quiet cores, leaving CTX.STATE switched
out, and a task that was switched out is restored on its cores. The first 16 bytes of the save area are free values (assumption 4). -/
def Obligations.ContextsSwitchAndResume : Prop :=
  ∀ (s : State) (ctx t : Nat) (k : Task),
    (s.tasks.find? (fun e => decide (e.2.ctx = ctx) && decide (e.2.phase = .running)) = some (t, k) → s.task? t = some k →
      let on := k.cores.filter (fun c => decide ((s.core c).task = some t))
      k.saveValid = true → s.flag F.ctxSaveBaseValid ctx = true → s.partLive k.part = true → s.schedulerUp k.queue = true →
      (∀ c ∈ on, s.clusterUp c = true ∧ (s.core c).quiet k.clearMode = true) → on.foldl State.flushFaults s = s → k.phase = .running →
      let u := (on.foldl (fun (u : State) c => u.switchOut t k c) s).updTask t (fun y => { y with phase := .switchedOut })
      let v : State := { u with freeIdx := u.freeIdx + 1 }
      exec (.contextSwitch ctx) s = .next ((v.writeMem (v.rd F.ctxSaveBaseBase ctx * 0x100000)
        ((List.range 16).map (fun i => Config.leftByte u.freeIdx i))).wr F.ctxStateState ctx 3)) ∧
    (s.tasks.find? (fun e => decide (e.2.ctx = ctx) && decide (e.2.phase = .switchedOut)) = some (t, k) →
      let saved := k.begun.filterMap (fun c => (s.saved.get? (savedKey ctx c)).bind (fun v =>
        if v.core.task = some t then some (c, v) else none))
      s.partLive k.part = true → s.schedulerUp k.queue = true → (∀ e ∈ saved, s.coreFree e.1 = true ∧ s.clusterUp e.1 = true) →
      exec (.contextResume ctx) s = .next ((((saved.foldl (fun (u : State) e => u.switchIn t k e.1 e.2) s).updTask t
        (fun y => { y with phase := .running })).wr F.ctxStateState ctx 2).refreshCtx ctx))

/-- R28, R29, R440, R449, R450, R496: a region-level fault is logged and stops the partition that holds the region; a seam, a supply or a
host-interface fault stops the partitions it reaches; a droop is only counted.
R496: a partition that stops reads stopped on error, its ports are link-down, and no queue, task, core or byte of memory changes. -/
def Obligations.RegionFaultsStopPartitions : Prop :=
  (∀ (s : State) (region : Nat), region < 4 →
     (∀ code ∈ [0x8305, 0x8308], exec (.regionStop region code) s = .next
       ((s.hwEvent region code (region * 3) (flags := 2)).stopPartition (partOfRegion s.mode region))) ∧
     exec (.regionStop region 0x8307) s = .next
       ((s.hwEvent region 0x8307 region (flags := 2)).stopPartition (partOfRegion s.mode region)) ∧
     exec (.vddUndervoltage region) s = .next
       ((s.hwEvent region 0x8501 region (flags := 2)).stopPartition (partOfRegion s.mode region)) ∧
     exec (.vddOvervoltage region) s = .next
       ((s.hwEvent region 0x8502 region (flags := 2)).stopPartition (partOfRegion s.mode region)) ∧
     exec .hostInterfaceFault s = .next
       ((List.range 4).foldl State.stopPartition (s.hwEvent 0 0xC303 0xFFFF (flags := 2))) ∧
     (∀ t, s.flag F.pwrStatusFastClamp = true → s.power.overSince = some t → t + 100000000 ≤ s.now →
       exec .supplyFault s = .next ((List.range 4).foldl State.stopPartition (s.hwEvent 0 0xC502 0xFFFF (flags := 2)))) ∧
     (∀ depth ns, 50 < depth → 100 ≤ ns →
       exec (.droop region depth ns) s = .next (s.bump F.regPwrDroopsCount region)) ∧
     (∀ seam f a b, (seam, f, a, b) ∈ [(0, F.devSeamStatusSeam0, 0, 1), (1, F.devSeamStatusSeam1, 2, 3), (2, F.devSeamStatusSeam2, 0, 2),
         (3, F.devSeamStatusSeam3, 1, 3)] → s.rd f ≠ 2 →
       let v := (s.wr f 0 2).hwEvent 0 0xC401 seam (flags := 2)
       exec (.seamFail seam) s = .next
         (if partOfRegion s.mode a = partOfRegion s.mode b then v.stopPartition (partOfRegion s.mode a) else v))) ∧
  (∀ (s : State) (p : Nat), p < 4 → s.partState p ≠ 0 → (∀ c ∈ s.sec.keyWaits, c < 4096) →
     let t := s.stopPartition p
     t.partState p = 4 ∧
     (∀ b ∈ partBlocks s.mode p, b < 8 → t.rd F.portStatusUpA b = 0 ∧ t.rd F.portStatusUpB b = 0) ∧
     t.mem = s.mem ∧ t.poison = s.poison ∧ t.cores = s.cores ∧ t.tasks = s.tasks ∧ t.queues = s.queues)

/-- R29, R42, R286, R309, R486, R494: cell-level and block-level faults are contained: a cell is reset and its work faulted, an
application core's agent dies, a cluster stops, a stack goes offline, a port block's ports go down, and a stopped core can be
disabled for good. -/
def Obligations.CellAndBlockFaults : Prop :=
  ∀ (s : State) (core k : Nat),
    (s.vacant core = false → ∀ code ∈ [0x0201, 0x0301],
      exec (.cellFault core code) s = .next (((s.hwEvent (core / 288) code core).cellError core code).resetCell core)) ∧
    (core < 96 → exec (.cellFault core 0x0302) s = .next ((s.hwEvent (core / 24) 0x0302 core).agentDies core)) ∧
    (k < 144 → k ∉ s.downClusters → ∃ t, exec (.blockFault (.cluster k)) s = .next t ∧
      t = (s.clusterCores k).foldl (fun (u : State) c => (u.cellError c 0x4303).resetCell c)
        { s.hwEvent (k / 36) 0x4303 k with
            downClusters := s.downClusters ++ [k]
            stopped := s.stopped ++ (s.clusterCores k).filter (fun c => decide (c ∉ s.stopped)) }) ∧
    (k < 24 → s.stackOffline k = false → ∃ t, exec (.blockFault (.stack k)) s = .next t ∧ t.stackOffline k = true ∧
      t.rd F.stkStatusLevel k = 7 ∧ t.mem = s.mem ∧ t.poison = s.poison) ∧
    (k < 8 → ∃ t, exec (.blockFault (.port k)) s = .next t ∧ t.rd F.portStatusUpA k = 0 ∧ t.rd F.portStatusUpB k = 0 ∧
      OnlyRegs [(.portStatus, k)] s t) ∧
    (core ∈ s.stopped → s.vacant core = false → clusterOfCore core ∉ s.downClusters → s.clusterUp core = true →
      let k := core / 8
      let slot := s.rd F.cluSlotMapLog k (core % 8)
      let v := (s.cellError core 0x0601).resetCell core
      let w := v.wr F.cluSlotMapPhysRetired k (v.rd F.cluSlotMapPhysRetired k ||| 2 ^ slot)
      let w := w.wr F.cluSlotMapLog k 0xF (core % 8)
      let w := w.wr F.cluIdentCoresEnabled k (w.rd F.cluIdentCoresEnabled k - 1)
      let w := w.wr F.devIdentCoresEnabled 0 (w.rd F.devIdentCoresEnabled - 1)
      let w : State := { w with flash := { w.flash with retired := w.flash.retired.set k (w.flash.retired.getD k 0 ||| 2 ^ slot) } }
      exec (.coreDisable core) s = .next ((w.bumpSat F.rasRepairStatusCoresRetired 0).logDirect (core / 288) 0x0601 core 0xFFFF 0
        (slot * 256) 2))

/-- R144, R148, R149, R218, R219: a detected fault is taken at its group's next instruction boundary; a deadlock faults its groups;
READ_COUNT moves only within the ring; a release ends every held group of the context.
R147, R148: a fault record is written at the ring's base + 64 × (WRITE_COUNT mod size) and WRITE_COUNT grows by one; while the ring is
full it is dropped, which DROPPED counts, and no byte changes. -/
def Obligations.FaultCommandsAndRecords : Prop :=
  (∀ (s : State) (core : Nat),
     (∀ index f, (s.core core).faults[index]? = some f →
       let x := s.core core
       exec (.deferredFault core index) s = .next (((s.setCore core { x with
           faults := x.faults.eraseIdx index
           groups := x.groups.adjust f.pos (fun g => { g with fetchWait := none }) }).takeFault core f.pos f true).settleWg core
         (((x.groups.get? f.pos).map (fun g => g.slot)).getD 0))) ∧
     (∀ slot, exec (.barrierDeadlock core slot) s = .next
       ((s.deadlockFaults core (deadlockedGroups ((s.core core).slotGroups slot))).1.takeFaults core
         (s.deadlockFaults core (deadlockedGroups ((s.core core).slotGroups slot))).2)) ∧
     (∀ a q, Writes s a .ctxFaultRead q →
       let behind := (s.rd F.ctxFaultStatusWriteCount q.n + 2 ^ 32 - q.new F.ctxFaultReadReadCount) % 2 ^ 32
       exec (.faultReadWrite a) s = .next
         (if behind ≤ 2 ^ s.rd F.ctxFaultRingLog2Records q.n then s.setReg .ctxFaultRead q.n q.merged else s.accessError)) ∧
     (∀ a q, Writes s a .ctxFaultPolicy q → q.wrote F.ctxFaultPolicyRelease = 1 → q.new F.ctxFaultPolicyPolicy ≠ 3 →
       exec (.faultRelease a) s = .next ((s.setReg .ctxFaultPolicy q.n q.merged).releaseHeld q.n))) ∧
  (∀ (s : State) (k : Task) (c wg group : Nat) (f : PendFault) (deferred held : Bool), k.ctx < 4096 →
     let size := 2 ^ s.rd F.ctxFaultRingLog2Records k.ctx
     let w := s.rd F.ctxFaultStatusWriteCount k.ctx
     let base := s.rd F.ctxFaultRingBase k.ctx * 4096
     let used := (w + 2 ^ 32 - s.rd F.ctxFaultReadReadCount k.ctx) % 2 ^ 32
     (used = size →
       (s.writeFault k c wg group f deferred held).2 = none ∧
       (s.writeFault k c wg group f deferred held).1.rd F.ctxFaultStatusDropped k.ctx =
         min (s.rd F.ctxFaultStatusDropped k.ctx + 1) (2 ^ (F.ctxFaultStatusDropped.hi + 1 - F.ctxFaultStatusDropped.lo) - 1) ∧
       (s.writeFault k c wg group f deferred held).1.rd F.ctxFaultStatusWriteCount k.ctx = w ∧
       { (s.writeFault k c wg group f deferred held).1 with regs := [] } = { s with regs := [] }) ∧
     (used ≠ size → s.rangeInTiers k.part base (64 * size) = true →
       (∀ b ∈ blocksOf (base + 64 * (w % size)) 64, ∀ n, (s.paKind (b * 32)).stack? = some n → s.stackOffline n = false) →
       let t := (s.writeFault k c wg group f deferred held).1
       (s.writeFault k c wg group f deferred held).2 = some w ∧
       t.rd F.ctxFaultStatusWriteCount k.ctx = (w + 1) % 2 ^ 32 ∧
       t.readBytes (base + 64 * (w % size)) 64 =
         leBytes 1 f.code ++ leBytes 1 ((if deferred then 1 else 0) + (if held then 4 else 0)) ++ leBytes 2 f.detail ++ leBytes 2 c
           ++ leBytes 1 group ++ leBytes 1 0 ++ leBytes 4 f.lanes ++ leBytes 2 k.queue ++ leBytes 2 0 ++ leBytes 8 wg
           ++ leBytes 8 f.pc.toNat ++ leBytes 8 f.addr.toNat ++ leBytes 8 s.now ++ leBytes 4 k.tag ++ leBytes 12 0 ∧
       (∀ a, a < base + 64 * (w % size) ∨ base + 64 * (w % size) + 64 ≤ a → t.readByte a = s.readByte a)))

/-- R466, R488 to R490: an event's record is numbered, written to the ring's slot WRITE_COUNT mod size as the table lays it out, and an
overwritten one counted; without a ring the last 256 are kept; a counted event that reaches its threshold carries ACTION; the security
core logs the queue's records in order, late ones with FROM_QUEUE; a deferred interrupt is raised 1 ms after the one before. -/
def Obligations.EventLog : Prop :=
  ∀ (s : State) (r : Nat) (e : EvRec), r < 4 →
    let ev := s.events.getD r {}
    (CountKind.ofCode e.code = none → s.flag F.regEvtBaseValid r = true →
      let seq := s.rd F.regEvtWriteWriteCount r
      let size := 2 ^ s.rd F.regEvtBaseLog2Records r
      let base := s.rd F.regEvtBaseBase r * 0x1000 + 32 * (seq % size)
      (∀ k, (s.paKind base).stack? = some k → s.stackOffline k = false) →
      let t := s.logRecord r e
      t.readBytes base 32 = leBytes 2 e.code ++ leBytes 1 e.flags ++ leBytes 1 e.region ++ leBytes 2 e.unit ++ leBytes 2 e.ctx
        ++ leBytes 8 e.time ++ leBytes 8 e.location ++ leBytes 4 seq ++ leBytes 4 e.detail ∧
      (∀ a, a < base ∨ base + 32 ≤ a → t.readByte a = s.readByte a) ∧
      t.rd F.regEvtWriteWriteCount r = (seq + 1) % 2 ^ 32 ∧
      t.rd F.regEvtStatusOverwritten r =
        (if size ≤ (seq + 2 ^ 32 - s.rd F.regEvtReadReadCount r) % 2 ^ 32 then
          min (s.rd F.regEvtStatusOverwritten r + 1) (2 ^ (F.regEvtStatusOverwritten.hi + 1 - F.regEvtStatusOverwritten.lo) - 1)
        else s.rd F.regEvtStatusOverwritten r)) ∧
    (CountKind.ofCode e.code = none → s.flag F.regEvtBaseValid r = false →
      let kept := ev.kept ++ [(s.rd F.regEvtWriteWriteCount r, e)]
      ((s.logRecord r e).events.getD r {}).kept = kept.drop (kept.length - 256) ∧ (s.logRecord r e).mem = s.mem) ∧
    (∀ t, CountKind.ofCode e.code = some .row → ev.bursts.get? (e.location / 32) = some t → e.time < t + 1000000000 →
      s.countEvent r e = (s, { e with flags := e.flags ||| 1 }, false)) ∧
    (∀ k, CountKind.ofCode e.code = some k →
      (k = .row → ∀ t, ev.bursts.get? (e.location / 32) = some t → t + 1000000000 ≤ e.time) →
      let recent := ((ev.counts.getD (s.countKey k e) []).filter (fun t => decide (e.time < t + (s.countCfg k).2.1 ∧ t ≤ e.time))).length
      (s.countEvent r e).2 =
        (if (s.countCfg k).1 ≤ recent + 1 then { e with flags := e.flags ||| 2 } else e,
          decide ((s.countCfg k).1 ≤ recent + 1) && (s.countCfg k).2.2)) ∧
    (s.rd F.regFwStatusSecState r = 0 → ev.queue = [e] → e.code ≠ 0x4420 →
      exec (.eventDrain r) s = .next (({ s with events := s.events.set r { ev with queue := [] } } : State).logRecord r
        (if e.time < s.now then { e with flags := e.flags ||| 4 } else e))) ∧
    (∀ t, ev.deferred = true → ev.lastIrq = some t → t + 1000000 ≤ s.now → exec (.eventIrqDeferred r) s = .next
      (({ s with events := s.events.set r { ev with deferred := false, lastIrq := some s.now } } : State).raiseIrq
        (s.rd F.regEvtCtlVector r) (s.rd F.regEvtCtlTarget r) (s.rd F.regEvtCtlHart r) (s.rd F.regEvtCtlIid r)
        (s.rd F.regEvtCtlEnable r)))

/-- R462, R463: a firmware core whose watchdog expires restarts, and at its fourth expiry within an hour it has failed; a restart ends
after the core's time, and the core runs.
R470, R478: a staging request while another is in progress has RESULT 8; one whose image fails a check has RESULT 9, 1, 2 or 3, in
that order; otherwise the image is written to the bank that runs nowhere at 25 ns a byte, and is then staged. A request that waits 60 s
for a root has RESULT 0x0A. -/
def Obligations.FirmwareCoresAndStaging : Prop :=
  (∀ (s : State) (fw : Nat), fwExists fw = true → (∀ c ∈ s.sec.keyWaits, c < 4096) →
     (s.fwState fw = 0 →
       let recent := ((s.fwCores.getD fw {}).expiries.filter (fun t => decide (s.now < t + 3600000000000))) ++ [s.now]
       ∃ t, exec (.watchdogExpiry fw) s = .next t ∧ (t.fwCores.getD fw {}).expiries = recent ∧
         (recent.length < 4 → t.fwState fw = 1 ∧ (t.fwCores.getD fw {}).restartAt = some (s.now + fwRestartNs fw)) ∧
         (4 ≤ recent.length → t.fwState fw = 2) ∧ t.mem = s.mem ∧ t.cores = s.cores ∧ t.tasks = s.tasks ∧ t.queues = s.queues) ∧
     (s.fwState fw = 1 → s.fwWaits = [] →
       exec (.firmwareRestartDone fw) s = .next (s.fwRun fw) ∧ (s.fwRun fw).fwState fw = 0)) ∧
  (∀ (s : State) (a : Access) (q : RegWriteReq) (digestOk signaturesOk : Bool),
     (Writes s a .fwuStageCtl q → q.wrote F.fwuStageCtlGo = 1 →
       (s.rd F.fwuStatusState ∉ [0, 2, 6] →
         exec (.stageImage a digestOk signaturesOk) s = .next ((s.wr F.fwuStatusResult 0 8).accessError)) ∧
       (s.rd F.fwuStatusState ∈ [0, 2, 6] → s.flag F.fwRootRootValid = true →
         let limit := q.raw.bits 31 8 * 1024
         let base := s.rd F.fwuStageAddrAddr * 4096
         match parseImage (fun o n => leNat (s.readBytes (base + o) n)) (q.raw.bits 3 0) limit with
         | none => exec (.stageImage a digestOk signaturesOk) s = .next (s.wr F.fwuStatusResult 0 9)
         | some i =>
           (digestOk = false ∨ signaturesOk = false ∨ s.slotsGood i = false →
             exec (.stageImage a digestOk signaturesOk) s = .next (s.wr F.fwuStatusResult 0 1)) ∧
           (digestOk = true → signaturesOk = true → s.slotsGood i = true →
             (i.svn < s.flash.minSvn.getD i.ty 0 →
               exec (.stageImage a digestOk signaturesOk) s = .next (s.wr F.fwuStatusResult 0 2)) ∧
             (s.flash.minSvn.getD i.ty 0 ≤ i.svn → (∃ r < 4, s.bankOf r i.ty ≠ s.bankOf 0 i.ty) →
               exec (.stageImage a digestOk signaturesOk) s = .next (s.wr F.fwuStatusResult 0 3)) ∧
             (s.flash.minSvn.getD i.ty 0 ≤ i.svn → (∀ r < 4, s.bankOf r i.ty = s.bankOf 0 i.ty) →
               exec (.stageImage a digestOk signaturesOk) s = .next
                 (({ s with staging := some { image := i, bank := 1 - s.bankOf 0 i.ty, doneAt := s.now + 25 * limit, pldm := false } }
                   : State).wr F.fwuStatusState 0 1))))) ∧
     (∀ g, s.staging = some g → g.doneAt ≤ s.now → g.pldm = false → ∃ t, exec .stagingDone s = .next t ∧ t.staging = none ∧
       t.rd F.fwuStatusState = 2 ∧ t.rd F.fwuStatusResult = 0 ∧ t.flash.staged.get? g.image.ty = some g.bank ∧
       t.flash.images.get? (2 * g.image.ty + g.bank) = some g.image ∧ OnlyRegs [(.fwuStatus, 0)] s { t with
         staging := s.staging, flash := s.flash }) ∧
     (∀ w ws, s.fwWaits = w :: ws → w.since + 60000000000 ≤ s.now →
       exec .fwuNoRootTimeout s = .next (({ s with fwWaits := ws } : State).wr F.fwuStatusResult 0 0xA)))

/-- R471, R473 to R477: an activation is held until 500 normal periods in a row, quiesces its partition, restarts the cores of its types
on the staged bank and ends once each has kicked its watchdog; it can be armed for a reset or cancelled, and it times out. -/
def Obligations.FirmwareActivation : Prop :=
  ∀ (s : State) (a : Access) (q : RegWriteReq),
    (Writes s a .fwuActivate q →
      (q.wrote F.fwuActivateGo = 1 → q.wrote F.fwuActivateCancel = 0 → s.rd F.fwuStatusState ∈ [0, 2, 6] →
        s.flag F.fwRootRootValid = true →
        let parts := q.raw.bits 3 0
        let types := q.raw.bits 9 4
        let ms := q.raw.bits 27 12
        (q.wrote F.fwuActivateOnReset = 0 →
          (types.testBit 5 = true ∨ (ms ≠ 0 ∧ (ms < 1000 ∨ 60000 < ms)) →
            exec (.activate a) s = .next (s.wr F.fwuStatusResult 0 9)) ∧
          (∀ p ps, s.activateRefusal parts types ms false = none → bitList 4 parts = p :: ps →
            exec (.activate a) s = .next (((({ s with activation := some {
                parts := p :: ps, types := types, quiesceMs := if ms = 0 then 10000 else ms } } : State).wr F.fwuStatusState 0 3).wr
              F.fwuStatusPartNow 0 (2 ^ p)).wr F.fwuStatusTypes 0 types))) ∧
        (q.wrote F.fwuActivateOnReset = 1 → s.activateRefusal parts types ms true = none →
          exec (.activateOnReset a) s = .next (({ s with flash := { s.flash with
            armed := (bitList 4 parts).flatMap (fun p => (bitList 6 types).map (fun t => (p, t))) } } : State).wr
            F.fwuStatusState 0 6))) ∧
      (q.wrote F.fwuActivateCancel = 1 → s.rd F.fwuStatusState = 3 →
        exec (.activateCancel a) s = .next (s.endActivation s.fwuRest 7)) ∧
      (q.wrote F.fwuActivateCancel = 1 → s.rd F.fwuStatusState = 4 →
        exec (.activateCancel a) s = .next
          ((s.resumePart ((s.activation.bind (fun x => x.parts.head?)).getD 0)).endActivation s.fwuRest 7))) ∧
    (∀ x p ps, s.activation = some x → x.parts = p :: ps → s.rd F.fwuStatusState = 3 → 500 ≤ s.normalRun →
      (∃ e ∈ s.queues, partOfQueue s.mode e.1 = p ∧ e.2.cmds ≠ []) →
      exec .activationQuiesce s = .next ((({ s with activation := some { x with
        quiesceEnd := s.now + x.quiesceMs * 1000000 } } : State).setPartState p 5).wr F.fwuStatusState 0 4)) ∧
    (∀ x p ps, s.activation = some x → x.parts = p :: ps → s.rd F.fwuStatusState = 4 → s.quiet p = true →
      (s.activationRestart x p).activation.any (fun b => decide (b.unkicked ≠ [])) = true →
      exec .activationQuiesce s = .next (s.activationRestart x p)) ∧
    (∀ x p ps, s.activation = some x → x.parts = p :: ps → s.rd F.fwuStatusState = 4 → x.quiesceEnd ≤ s.now →
      exec .quiesceTimeout s = .next ((s.resumePart p).endActivation s.fwuRest 5)) ∧
    (∀ x p ps fw, s.activation = some x → x.parts = p :: ps → s.rd F.fwuStatusState = 5 → s.now < x.confirmEnd → fw ∈ x.unkicked →
      let left := x.unkicked.filter (fun f => decide (f ≠ fw))
      (left ≠ [] → exec (.activationConfirm fw) s = .next { s.fwRun fw with activation := some { x with unkicked := left } }) ∧
      (left = [] → x.rootLast = false →
        exec (.activationConfirm fw) s = .next (((s.fwRun fw).activationNext { x with unkicked := [] } p).serveWaits))) ∧
    (∀ x p ps, s.activation = some x → x.parts = p :: ps → s.rd F.fwuStatusState = 5 → x.confirmEnd ≤ s.now → x.unkicked ≠ [] →
      ∃ t, exec .confirmTimeout s = .next t ∧ t.activation = none ∧ t.rd F.fwuStatusResult = 6)

/-- R442, R444, R446, R449, R450, R454: a power period sets the target and each region's haze; a report gives a region's demand, and a
missing one counts; a thermal sample sets thermal haze, emergency and trip; the fast clamp engages above 5,800 W and releases after 10 ms
below 5,400 W; an ageing update raises a region's offset by at most 5 mV to at most 40 mV. -/
def Obligations.PowerAndThermal : Prop :=
  ∀ (s : State) (r : Nat), r < 4 →
    (∀ p, s.rd F.pwrCapWindowMs ≠ 0 →
      let w := s.rd F.pwrCapWindowMs
      let window := (p.input :: (if s.power.windowMs = w then s.power.window else [])).take w
      let target := powerTarget (s.rd F.pwrCapCapW * 1000) w window
      ∃ t, exec (.powerPeriod p) s = .next t ∧ t.power.window = window ∧ t.rd F.pwrStatusTargetW = target / 1000 ∧
        t.rd F.pwrStatusInputW = p.input / 1000 % 2 ^ 13 ∧
        (s.pwrCoreUp r = true → s.flag F.pwrStatusFastClamp = false → ∃ guarantee demand budget,
          (r, guarantee, demand, budget) ∈ s.budgets (max (target - (p.input - p.regions.foldl (· + ·) 0)) 200000)
            (fun k g => if 3 ≤ (s.pwr k).missing then g else (s.pwr k).report.demand) ∧
          t.rd F.regPwrBudgetBudgetW r = budget / 1000 % 2 ^ 13 ∧
          (t.pwr r).hctl = hazeLaw (s.pwr r).hctl (s.rd F.regPwrCfgGain r) (p.regions.getD r 0) budget) ∧
        (s.flag F.pwrStatusFastClamp = true → (t.pwr r).hctl = (s.pwr r).hctl)) ∧
    (∀ power, s.pwrCoreUp r = true → ∃ x, exec (.powerReport r power) s = .next (s.setPwr r x) ∧ x.fresh = true ∧ x.missing = 0 ∧
      x.report.power = power ∧ x.report.haze = s.rd F.regPwrStatusHaze r ∧
      x.report.demand = power * 1024 / (1024 - s.rd F.regPwrStatusHaze r)) ∧
    ((s.pwr r).fresh = false →
      exec (.powerReportTimeout r) s = .next (s.setPwr r { s.pwr r with missing := (s.pwr r).missing + 1 })) ∧
    (∀ clusters easel, let tj : Int := (clusters ++ easel).foldl max (-128)
      tj < 115 → ∃ t, exec (.thermalSample r clusters easel) s = .next t ∧
        (t.pwr r).thermal = (if tj < 95 then 0 else if 105 ≤ tj then 512 else (512 * (tj - 95) / 10).toNat) ∧
        (t.flag F.regPwrStatusThermalEmerg r = true ↔ 105 ≤ tj ∨ ∃ i < 6, s.rd F.stkStatusLevel (r * 6 + i) = 6) ∧
        (t.flag F.pwrStatusThermalAlert = true ↔ ∃ k < 4, t.flag F.regPwrStatusThermalEmerg k = true) ∧ t.mem = s.mem) ∧
    (∀ mean, s.flag F.pwrStatusFastClamp = false → 5800000 < mean → ∃ t, exec (.fastLimitSample mean) s = .next t ∧
      t.flag F.pwrStatusFastClamp = true ∧ t.rd F.pwrFastEventsCount = (s.rd F.pwrFastEventsCount + 1) % 2 ^ (F.pwrFastEventsCount.hi + 1 - F.pwrFastEventsCount.lo) ∧
      t.rd F.regPwrStatusHaze r = 512 ∧ t.rd F.regPwrStatusSource r = 3) ∧
    (∀ mean, s.flag F.pwrStatusFastClamp = false → mean ≤ 5800000 → ∃ x, exec (.fastLimitSample mean) s = .next { s with power := x } ∧
      x.overSince = none) ∧
    (∀ mean t, s.flag F.pwrStatusFastClamp = true → mean < 5400000 → s.power.underSince = some t → t + 10000000 ≤ s.now →
      ∃ u, exec (.fastLimitSample mean) s = .next u ∧ u.flag F.pwrStatusFastClamp = false) ∧
    (∀ growth required, s.pwrCoreUp r = true →
      let need := (required.foldl max 0 + 4) / 5 * 5
      let cur := s.rd F.regPwrAgeAgeMv r
      ∃ t, exec (.ageingUpdate r growth required) s = .next t ∧
        t.rd F.regPwrAgeAgeMv r =
          (if s.flag F.regPwrStatusPowerEmerg r = true ∨ s.flag F.regPwrStatusThermalEmerg r = true then cur
          else max cur (min (min need (cur + 5)) 40)) ∧
        (40 < need → t.flag F.regPwrAgeAtLimit r = true) ∧ t.flash.age.get? r = some (t.reg .regPwrAge r).toNat)

/-- R378, R492, R495, R499: a row due for retirement is repaired where its bank has a repair left, and no byte changes; a lane that trains
holds its port down; a calibration set is exported to CAL.ADDR, and an import is checked and then waits for a cold reset. A set out of
the partition's tiers, or a bad ring base, is refused. -/
def Obligations.RepairAndCalibration : Prop :=
  ∀ (s : State),
    (∀ addr r k x, (s.paKind addr).region? = some r → (s.paKind addr).stack? = some k →
      (s.events.getD r {}).rowsDue.find? (fun y => decide (s.rowKey y = s.rowKey addr)) = some x →
      ∃ t, exec (.rowRetire addr) s = .next t ∧ t.mem = s.mem ∧
        (if ∃ y ∈ s.flash.spared, y / 65536 = s.rowKey x / 65536 then
          t.flash.unspared = s.flash.unspared ++ [s.rowKey x] ∧ ∀ g ∈ s.rowPages x, g ∈ t.flash.withdrawn
        else t.flash.spared = s.flash.spared ++ [s.rowKey x])) ∧
    (∀ lane < 64, ∃ t, exec (.laneRetrain lane) s = .next t ∧ (t.ports.getD (lane / 8) {}).lanesUp.testBit (lane % 8) = false ∧
      (if s.flag F.portStatusSplitInForce (lane / 8) = true ∧ 4 ≤ lane % 8 then t.rd F.portStatusUpB (lane / 8) = 0
      else t.rd F.portStatusUpA (lane / 8) = 0)) ∧
    (∀ lane < 64, (s.rd F.portStatusLanesRetired (lane / 8)).testBit (lane % 8) = false →
      ∃ t, exec (.laneTrainingDone lane) s = .next t ∧ (t.ports.getD (lane / 8) {}).lanesUp.testBit (lane % 8) = true) ∧
    (∀ a q, Writes s a .regEvtBase q →
      let lg := q.new F.regEvtBaseLog2Records
      let ok := 8 ≤ lg ∧ lg ≤ 16 ∧
        s.rangeInTiers (partOfRegion s.mode q.n) (q.new F.regEvtBaseBase * 4096) (32 * 2 ^ lg) = true
      (¬ok → exec (.evtBaseWrite a) s = .next s.accessError) ∧
      (ok → q.new F.regEvtBaseValid = 0 → exec (.evtBaseWrite a) s = .next (s.setReg .regEvtBase q.n q.merged)) ∧
      (ok → q.new F.regEvtBaseValid = 1 → q.was F.regEvtBaseValid = 0 → ∃ t, exec (.evtBaseWrite a) s = .next t ∧
        (t.events.getD q.n {}).kept = [])) ∧
    (∀ a q, Writes s a .calCtl q →
      let base := s.rd F.calAddrAddr * 4096
      let p := (((s.paKind base).region?).map (partOfRegion s.mode)).getD 0
      (q.wrote F.calCtlExport = 1 → s.rangeInTiers p base 0x100000 = false → exec (.calExport a) s = .next s.accessError) ∧
      (q.wrote F.calCtlExport = 1 → s.rangeInTiers p base 0x100000 = true → (∀ c ∈ s.flash.cal.stored, c.1 < 0x100000) →
        ∃ t, exec (.calExport a) s = .next t ∧
        ∀ x, x < base ∨ base + 0x100000 ≤ x → t.readByte x = s.readByte x) ∧
      (∀ m rangesOk, q.wrote F.calCtlImport = 1 →
        (s.mem.filter (fun c => decide (base ≤ c.1 ∧ c.1 < base + 0x100000))).map (fun c => (c.1 - base, c.2)) = m →
        let res := calCheck m rangesOk (decide (q.wrote F.calCtlForce = 1))
        ∃ t, exec (.calImport a rangesOk) s = .next t ∧ t.rd F.calStatusResult = res ∧ t.mem = s.mem ∧
          (res = 0 → t.rd F.calStatusPending = 1 ∧ t.flash.cal.pending = some m) ∧ (res ≠ 0 → t.flash = s.flash)))

/-- R37, R38, R476, R534 to R536, R539 to R541, R545, R547, R552: a reset of a partition, a warm reset, a cold reset and standby: what they
leave of memory, the partitions' states and LAST_RESET; insertion, the main switch, extraction, loss and return of the input and of
the reference clock, power-up, PERST# and link training. -/
def Obligations.ResetsAndModuleEvents : Prop :=
  (∀ (s : State) (a : Access) (q : RegWriteReq) (st : SelfTest),
     (∀ p < partCount s.mode, Writes s a .devPartCtl q → bitList 4 (q.wrote F.devPartCtlReset) = [p] → s.modSt.standby = false →
       s.partState p ∉ [0, 3] → (s.partState p = 5 → s.rd F.fwuStatusState ≠ 5) →
       ∃ t, exec (.partitionReset a st) s = .next t ∧ (t.partState p = 2 ∨ t.partState p = 4) ∧
         (∀ x r, (s.paKind x).region? = some r →
           (partOfRegion s.mode r ≠ p → t.readByte x = s.readByte x) ∧
           (partOfRegion s.mode r = p → (q.wrote F.devPartCtlZero).testBit p = true ∨ scratchBase r ≤ x → t.readByte x = 0))) ∧
     (Writes s a .devResetCtl q →
       (q.wrote F.devResetCtlKey ≠ 0xA5 → exec (.coldReset a st) s = .next s.accessError ∧ exec (.warmReset a st) s = .next s.accessError) ∧
       (q.wrote F.devResetCtlKey = 0xA5 → q.wrote F.devResetCtlCold = 1 → ∃ t, exec (.coldReset a st) s = .next t ∧ t.mem = [] ∧
         t.poison = [] ∧ t.queues = [] ∧ t.tasks = [] ∧ t.rd F.devBootStatusLastReset = 2 ∧ t.rd F.devBootStatusPhase = 2 ∧
         t.rd F.devBootStatusBootLocked = 1) ∧
       (q.wrote F.devResetCtlKey = 0xA5 → q.wrote F.devResetCtlCold = 0 → q.wrote F.devResetCtlWarm = 1 →
         (s.modSt.standby = true → exec (.warmReset a st) s = .next s.accessError) ∧
         (s.modSt.standby = false → ∃ t, exec (.warmReset a st) s = .next t ∧ t.mem = [] ∧ t.poison = [] ∧
           t.mode = s.rd F.devPartCfgModeNext ∧
           t.rd F.devBootStatusLastReset = (if s.rd F.devPartCfgModeNext = s.mode then 3 else 4) ∧ t.rd F.devBootStatusPhase = 2))) ∧
     (s.modSt.up = true → s.modSt.mainSwitch = true → s.modSt.standby = false → ∃ t, exec .standbyEntry s = .next t ∧
       t.modSt.standby = true ∧ t.modSt.pwrEn = false ∧ t.rd F.devBootStatusPhase = 3 ∧ ∀ p < partCount s.mode, t.partState p = 6) ∧
     (s.modSt.standby = true → ∃ t, exec (.standbyExit st) s = .next t ∧ t.modSt.standby = false ∧ t.modSt.pwrEn = true ∧
       t.rd F.devBootStatusLastReset = 6 ∧ ∀ x, x < 0x080000000000 → t.readByte x = s.readByte x)) ∧
  (∀ (s : State) (st : SelfTest), let m := s.modSt
     (m.mated = false →
       exec .insertion s = .next { s with modSt := { m with mated := true, precharged := true, mainSwitch := false } }) ∧
     (m.mated = true → m.precharged = true → exec .mainSwitchClose s = .next { s with modSt := { m with mainSwitch := true } }) ∧
     (m.mated = true → ∃ t, exec .extraction s = .next t ∧ t.mem = [] ∧ t.flash = s.flash ∧ t.modSt.mated = false ∧
       t.modSt.mainSwitch = false ∧ t.modSt.pwrGood = false ∧ t.modSt.up = false) ∧
     (m.mainSwitch = true → ∃ t, exec .inputUndervoltage s = .next t ∧ t.modSt.mainSwitch = false ∧ t.mem = s.mem ∧
       ∀ p < 4, s.partState p ≠ 0 → t.partState p = 4) ∧
     (m.mated = true → m.mainSwitch = false → m.pwrEn = true → m.refclk = true → ∃ t, exec (.inputReturn st) s = .next t ∧ t.mem = [] ∧
       t.modSt.mainSwitch = true ∧ t.modSt.up = true ∧ t.rd F.devBootStatusLastReset = 1 ∧ t.rd F.devBootStatusPhase = 2) ∧
     (m.mainSwitch = true → m.pwrEn = true → m.up = false →
       (m.refclk = true → exec (.powerUp st) s = .next (s.coldBoot st 1)) ∧
       (m.refclk = false → exec (.powerUp st) s = .next { s with modSt := { m with pwrGood := true } })) ∧
     exec .perstDeassert s = .next { s with modSt := { m with perst := false, linkTraining := m.pwrGood } } ∧
     (m.refclk = true → m.up = true → ∃ t, exec .refclkLoss s = .next t ∧ t.modSt.refclk = false ∧ t.rd F.devBootStatusRefclkOk = 0 ∧
       t.rd F.hifLinkStatusUp = 0 ∧ (s.rd F.hifSessionState = 1 → t.rd F.hifSessionState = 2)) ∧
     (m.refclk = false → m.up = true → ∃ t, exec .refclkReturn s = .next t ∧ t.modSt.refclk = true ∧ t.rd F.devBootStatusRefclkOk = 1 ∧
       t.modSt.linkTraining = !m.perst) ∧
     (∀ rate width flit, m.linkTraining = true → m.perst = false → rate < 8 → width < 32 →
       ∃ t, exec (.hostLinkUp rate width flit) s = .next t ∧ t.modSt.linkTraining = false ∧ t.rd F.hifLinkStatusUp = 1 ∧
         t.rd F.hifLinkStatusRate = rate ∧ t.rd F.hifLinkStatusWidth = width ∧ t.rd F.hifLinkStatusFlit = (if flit then 1 else 0) ∧
         OnlyRegs [(.hifLinkStatus, 0)] s { t with modSt := m }))

/-- R360, R361, R363 to R365, R550: loss of the host detaches an attached session and holds its queues; the session token is claimed, read
once and locked after a wrong claim; a function's reset ends its queues' work; a virtual function is assigned to a partition of the
mode. The token is a free value (assumption 4). -/
def Obligations.HostSession : Prop :=
  ∀ (s : State) (a : Access) (q : RegWriteReq),
    (∀ c i, (i, c) ∈ [(Instr.hostLoss 1, 1), (.hostLoss 2, 2), (.hostLoss 3, 3)] ∨
        (i = .heartbeatExpiry ∧ c = 4 ∧ s.rd F.hifSessionState = 1 ∧ s.rd F.hifHeartbeatTimeoutMs ≠ 0 ∧
          s.session.lastKick + s.rd F.hifHeartbeatTimeoutMs * 1000000 ≤ s.now) ∨
        (i = .detach a ∧ c = 5 ∧ Writes s a .hifSessionCtl q ∧ q.wrote F.hifSessionCtlAction = 0 ∧ q.wrote F.hifSessionCtlDetach = 1) →
      ∃ t, exec i s = .next t ∧ t.rd F.hifSessionCause = c ∧ t.rd F.hifLinkStatusUp = 0 ∧ t.barReads = [] ∧ t.mem = s.mem ∧
        t.cores = s.cores ∧ t.tasks = s.tasks ∧ t.queues = s.queues ∧
        (s.rd F.hifSessionState = 1 → t.rd F.hifSessionState = 2 ∧
          ∀ e ∈ s.queues, e.1 < 32768 → s.rd F.qpStatusState e.1 = 1 → t.rd F.qpStatusState e.1 = 3)) ∧
    (Writes s a .hifHeartbeat q → q.wrote F.hifHeartbeatKick = 1 → exec (.heartbeatKick a) s = .next
      (({ s with session := { s.session with lastKick := s.now } } : State).setReg .hifHeartbeat q.n q.merged)) ∧
    (Writes s a .hifSessionCtl q → q.wrote F.hifSessionCtlDetach = 0 → s.sessionLocked = false →
      (q.wrote F.hifSessionCtlAction = 1 → s.rd F.hifSessionState = 0 → s.session.attachWaits = false → s.flag F.fwRootRootValid = true →
        s.sec.keyWaits = [] → ∃ t, exec (.attachFresh a) s = .next t ∧
          t.session.token = some (Config.sessionToken s.freeIdx).toNat ∧ t.session.lastKick = s.now ∧ t.rd F.hifSessionState = 1) ∧
      (∀ i act, (i, act) ∈ [(Instr.resume a, 2), (.resumeHost a, 3)] → q.wrote F.hifSessionCtlAction = act →
        (s.rd F.hifSessionState = 0 ∨ s.rd F.hifSessionState = 1 → exec i s = .next s.accessError) ∧
        (2 ≤ s.rd F.hifSessionState → s.session.token = some (s.session.presentLo + s.session.presentHi * 2 ^ 64) →
          exec i s = .next (s.resumeSession (decide (act = 2)))) ∧
        (2 ≤ s.rd F.hifSessionState → s.session.token ≠ some (s.session.presentLo + s.session.presentHi * 2 ^ 64) →
          exec i s = .next (({ s with session := { s.session with lockoutEnd := some (s.now + 1000000000) } } : State).bumpSat
            F.hifSessionBadTokens 0)))) ∧
    (∀ hi tok, s.session.token = some tok → s.session.spdmRead = false → (if hi then s.session.hiRead else s.session.loRead) = false →
      ∃ t, exec (.tokenRead 0 hi 8) s = .next t ∧
        t.sent = s.sent ++ [.barData s.nextBarRead (leBytes 8 (if hi then tok / 2 ^ 64 % 2 ^ 64 else tok % 2 ^ 64)) false] ∧
        (if hi then t.session.hiRead else t.session.loRead) = true) ∧
    (∀ hi, s.session.token = none ∨ (if hi then s.session.hiRead else s.session.loRead) = true →
      ∃ t, exec (.tokenRead 0 hi 8) s = .next t ∧ t.sent = s.sent ++ [.barData s.nextBarRead (leBytes 8 0) false] ∧
        t.session = s.session) ∧
    (∀ t, s.session.lockoutEnd = some t → t ≤ s.now →
      exec .tokenLockoutEnd s = .next { s with session := { s.session with lockoutEnd := none } }) ∧
    (∀ v, 1 ≤ v → v ≤ 63 → exec (.vfFlr v) s = .next ((s.queues.foldl (fun (t : State) (e : Nat × QueueSt) =>
      if e.1 < 32768 ∧ t.queueFn e.1 = v then t.flrQueue e.1 else t) s).refreshHeld)) ∧
    (∀ k < 32768, ((s.flrQueue k).queue k).cmds = [] ∧ (s.flrQueue k).rd F.qpStatusState k = 0 ∧ (s.flrQueue k).rd F.qpCfgEnable k = 0) ∧
    (Writes s a .hifVfCfg q → q.new F.hifVfCfgAssigned = 1 →
      (partCount s.mode ≤ q.new F.hifVfCfgPartition → exec (.vfAssign a) s = .next s.accessError) ∧
      (q.new F.hifVfCfgPartition < partCount s.mode → q.was F.hifVfCfgAssigned = 0 →
        exec (.vfAssign a) s = .next (s.setReg .hifVfCfg q.n q.merged)))

/-- R18, R19: a write of 4 or 8 bytes at a multiple of its size merges bit by bit by the access codes: a covered RW bit takes the bit
written, an RWL bit too while BOOT_LOCKED is 0, a W1C bit written one clears, and every other bit stays. A register with no rule of its
own takes the merged word, and nothing else changes.
R122, R269, R288, R311, R339: CLEAR of a COUNT_CTL register returns the block's event counters to zero. -/
def Obligations.RegisterWritesAndClears : Prop :=
  (∀ (s : State) (a : Access) (q : RegWriteReq), s.writeGate a = .go q →
     (∀ i < 64, q.merged.getLsbD i =
       if (q.reg.maskOf .w1c).getLsbD i && q.raw.getLsbD i then false
       else if q.cover.getLsbD i && ((q.reg.maskOf .rw).getLsbD i ||
         ((q.reg.maskOf .rwl).getLsbD i && !s.flag F.devBootStatusBootLocked)) then q.raw.getLsbD i
       else (s.reg q.reg q.n).getLsbD i) ∧
     (∀ i < 64, q.cover.getLsbD i = (decide (a.size = 8) || decide (i / 32 = a.addr / 4 % 2))) ∧
     (∀ i < 64, q.raw.getLsbD i = (q.cover.getLsbD i && a.value.getLsbD (if a.size = 8 then i else i % 32))) ∧
     IsReg q.reg q.n ∧
     (q.reg ∈ [Reg.ctxFpStatus, .ctxSrSeed, .ctxDrainStatus, .ctxSyncMode, .ctxSaveBase, .ctxFaultStatus, .ctxFtRequire, .l2Cfg,
         .regApcCtx, .regXfrCtl, .regXfrStatus, .hifHostRid, .tbCfg, .skbStatus, .calAddr, .regEvtRead, .regEvtCtl, .regEvtStatus,
         .portSecDrops, .secCfg, .secIdeStatus, .mgtSideStatus, .mgtCfg] →
       ∃ t, exec (.registerWrite a) s = .next t ∧ t.reg q.reg q.n = q.merged ∧ OnlyRegs [(q.reg, q.n)] s t)) ∧
  (∀ (s : State) (a : Access) (q : RegWriteReq) (clear : Fld) (rs : List Reg), s.writeGate a = .go q →
     countersOf q.reg = some (clear, rs) → q.wrote clear = 1 → (∀ r ∈ rs, IsReg r q.n) →
     ∃ t, exec (.countCtlClear a) s = .next t ∧ (∀ r ∈ rs, t.reg r q.n = r.reset q.n) ∧ t.mem = s.mem)

/-- R18, R36, R40: a write that is no register access, is out of its requester's reach or is not the requester's to make has no effect but
the access-error event, whatever command it is; a register block that ignores writes ignores it. A function but the physical one reaches
no block of the device, and no window of another partition. -/
def Obligations.RefusedWrites : Prop :=
  ∀ (s : State) (a : Access) (st : SelfTest) (b c : Bool),
    (∀ i ∈ [Instr.registerWrite a, .partitionReset a st, .regionCounterGrant a, .regionCounterRevoke a, .faultReadWrite a,
        .faultRelease a, .splitChange a, .xfrRetry a, .xfrFailUnmapped a, .xfrFailPermission a, .xfrReadWrite a, .tlbInvalidate a false,
        .ctxPtWrite a, .grantWrite a, .grantFlushWrite a, .vfAssign a, .queueEnable a, .queueDisable a, .heartbeatKick a, .detach a,
        .attachFresh a, .resume a, .resumeHost a, .splitWrite a, .recordStart a, .recordStop a, .replayStart a, .replayStop a, .skbMark a,
        .skbCheck a, .skbRelease a, .replayPauseSeq a, .stageImage a b c, .activate a, .activateOnReset a, .activateCancel a,
        .evtBaseWrite a, .calExport a, .calImport a b, .macsecTxAnWrite a, .memCryptEnable a, .sideCfgWrite a, .coldReset a st,
        .warmReset a st, .countCtlClear a],
      (s.writeGate a = .refuse → exec i s = .next s.accessError) ∧ (s.writeGate a = .ignore → exec i s = .next s)) ∧
    (s.accessTarget a = none → exec (.invalidAccess a b) s = .next s.accessError ∧ s.writeGate a = .refuse) ∧
    (∀ r n, s.accessTarget a = some (r, n) → s.reaches a.origin r n = false →
      exec (.invalidAccess a b) s = .next s.accessError ∧ s.writeGate a = .refuse) ∧
    (∀ r n, a.origin.isPf = false → (r.place.block.pfBlock = true ∨ ∃ p p', s.originPart a.origin = some p ∧
        s.blockPart r.place.block (n / r.place.count) = some p' ∧ p ≠ p' ∧ r.place.block ≠ .awt ∧ r.place.block ≠ .dev) →
      s.reaches a.origin r n = false)

/-- R342 to R345, R348: a request to a BAR is served where the link is up and the boot lock applied: BAR0 by the register rules, BAR4 by
the doorbells and the MSI-X table, BAR2 of the physical function by physical address, BAR2 of a virtual function by its windows. One
from another requester identifier is refused where the check is on. A read that has waited 10 ms answers all ones. -/
def Obligations.HostAccesses : Prop :=
  ∀ (s : State) (r : BarReq), s.barServed r = true → s.barReads = [] →
    (s.barAdmitted r = false →
      (r.write = true → exec (.barAccess r) s = .next s.accessError) ∧
      (r.write = false → ∃ t, exec (.barAccess r) s = .next t ∧ t.sent = s.sent ++ [.barUnsupported s.nextBarRead])) ∧
    (s.barAdmitted r = true → s.modSt.standby = false →
      (r.bar = 0 → r.off < 0x50000000 →
        let a : Access := { origin := .fn r.fn, addr := r.off, size := r.len, value := BitVec.ofNat 64 (leNat r.data) }
        (r.write = true → exec (.barAccess r) s = .next (s.writeAccess r.env a)) ∧
        (r.write = false → exec (.barAccess r) s = .next ((s.readAccess a).1.answerRead (s.readAccess a).2))) ∧
      (r.bar = 4 → r.off < 0x8000000 → r.write = true → r.len = 4 → s.ownsDoorbell r.fn (r.off / 4096) = true →
        (r.off % 4096 = 0 → exec (.barAccess r) s = exec (.sqDoorbell r.fn (r.off / 4096) (leNat (r.data.take 4))) s) ∧
        (r.off % 4096 = 8 → exec (.barAccess r) s = exec (.cqDoorbell r.fn (r.off / 4096) (leNat (r.data.take 4))) s)) ∧
      (r.bar = 2 → r.fn = 0 → s.barCheck none r.off r.len r.write = .serve → ∀ i ∈ [Instr.barAccess r, .bar2Access r],
        (r.write = true → exec i s = .next (s.barWrite r.off r.data r.poisoned)) ∧
        (r.write = false →
          let u := s.ncReadRange r.off r.len
          exec i s = .next (u.answerRead (u.readBytes r.off r.len) (u.poisoned r.off r.len)))) ∧
      (r.bar = 2 → r.fn ≠ 0 → r.off < 0x1000000000 → ∀ u pa,
        let n := (r.fn - 1) * 64 + r.off / 0x40000000
        let c := s.rd F.awtWinContext n
        let p := partOfCtx s.mode c
        s.flag F.awtWinValid n = true → s.rd F.ctxStateFunction c = r.fn → s.originPart (.fn r.fn) = some p →
        s.flag F.ctxPtCtlFormat c = false → s.partState p ≠ 4 →
        (r.write = true → s.flag F.awtWinWrite n = false → exec (.apertureAccess r) s = .next s) ∧
        (r.write = false ∨ s.flag F.awtWinWrite n = true →
          s.translate (.engine (lowestRegion s.mode p)) c (s.rd F.awtWinVaBase n * 0x40000000 + r.off % 0x40000000)
            (if r.write then .write else .read) = (u, .ok pa) →
          u.paCheck (partOfCtx u.mode c) (.ctx c) pa r.write ≠ .denied → exec (.apertureAccess r) s = .next (u.barMem r (some c) pa)))) ∧
    (∀ t id w, t.barReads = [w] → w.id = id → w.write = none → w.time + 10000000 ≤ t.now →
      t.barCheck w.ctx w.addr w.len false ≠ .hole →
      exec (.barReadTimeout id) t = .next ((({ t with barReads := [] } : State).send (.barAllOnes id w.len)).hwEvent 0 0xC402 0xFFFF))

/-- R347 to R350: a queue runs from its enable; a doorbell sets its count, and one beyond the ring stops the queue; a disable aborts what has
not ended. -/
def Obligations.QueuesAndDoorbells : Prop :=
  ∀ (s : State) (a : Access) (r : RegWriteReq),
    (Writes s a .qpCfg r → r.n < 32768 → s.ownsQueue r.origin r.n = true →
      (r.new F.qpCfgEnable = 1 → r.was F.qpCfgEnable = 0 → 6 ≤ r.new F.qpCfgLog2Sq → r.new F.qpCfgLog2Sq ≤ 16 →
        6 ≤ r.new F.qpCfgLog2Cq → r.new F.qpCfgLog2Cq ≤ 16 → r.new F.qpCfgContext = r.was F.qpCfgContext →
        s.rd F.qpStatusState r.n ≠ 4 →
        ((s.queue r.n).sqTail + 2 ^ 32 - s.rd F.qpSqHeadCount r.n) % 2 ^ 32 ≤ 2 ^ r.new F.qpCfgLog2Sq →
        ∃ t, exec (.queueEnable a) s = .next t ∧ t.flag F.qpCfgEnable r.n = true ∧ t.rd F.qpStatusError r.n = 0 ∧
          t.rd F.qpStatusState r.n = (if s.rd F.hifSessionState = 2 then 3 else 1) ∧ t.rd F.qpCfgLog2Sq r.n = r.new F.qpCfgLog2Sq ∧
          t.rd F.qpCfgLog2Cq r.n = r.new F.qpCfgLog2Cq ∧ t.mem = s.mem) ∧
      (r.new F.qpCfgEnable = 1 → r.was F.qpCfgEnable = 0 → r.new F.qpCfgContext = r.was F.qpCfgContext → s.rd F.qpStatusState r.n = 4 →
        ∃ t, exec (.queueEnable a) s = .next t ∧ t.rd F.qpStatusState r.n = 4 ∧ t.flag F.qpCfgEnable r.n = false) ∧
      (r.new F.qpCfgEnable = 0 → r.was F.qpCfgEnable = 1 → (∀ c ∈ (s.queue r.n).cmds, c.task = none) →
        ∃ t, exec (.queueDisable a) s = .next t ∧ t.flag F.qpCfgEnable r.n = false ∧
          t.rd F.qpStatusState r.n = (if (s.queue r.n).cmds = [] then 0 else 4) ∧
          ∀ c ∈ (t.queue r.n).cmds, c.phase = .done)) ∧
    (∀ fn q v, (s.ownsDoorbell fn q = false →
        exec (.sqDoorbell fn q v) s = .next s.accessError ∧ exec (.cqDoorbell fn q v) s = .next s.accessError) ∧
      (s.ownsDoorbell fn q = true →
        (∃ t, exec (.sqDoorbell fn q v) s = .next t ∧ t.queue q = { s.queue q with sqTail := v % 2 ^ 32 } ∧
          (if s.queueOn q = true ∧ 2 ^ s.rd F.qpCfgLog2Sq q < (v % 2 ^ 32 + 2 ^ 32 - s.rd F.qpSqHeadCount q) % 2 ^ 32 then
            t.rd F.qpStatusState q = 2 ∧ t.rd F.qpStatusError q = 1
          else t.rd F.qpStatusState q = s.rd F.qpStatusState q) ∧ OnlyRegs [(.qpStatus, q)] s { t with queues := s.queues }) ∧
        (∃ t, exec (.cqDoorbell fn q v) s = .next t ∧ t.queue q = { s.queue q with cqHead := v % 2 ^ 32 } ∧
          (if s.queueOn q = true ∧ 2 ^ s.rd F.qpCfgLog2Cq q < (s.rd F.qpCqTailCount q + 2 ^ 32 - v % 2 ^ 32) % 2 ^ 32 then
            t.rd F.qpStatusState q = 2 ∧ t.rd F.qpStatusError q = 4
          else t.rd F.qpStatusState q = s.rd F.qpStatusState q) ∧ OnlyRegs [(.qpStatus, q)] s { t with queues := s.queues })))

/-- R349 to R353, R355, R357, R362: the next command of a ring in host memory is fetched with its continuations, one that the header
refuses ends at once, and a ring that fails stops its queue; a command that has ended is recorded at CQ_TAIL mod size, unless its ring
is full or the session is detached; NOP and FENCE end with status 0. -/
def Obligations.CommandsFetchedAndRecorded : Prop :=
  ∀ (s : State) (q seq : Nat) (c : Cmd), q < 32768 →
    (s.mayFetch q = true → s.outranked q = false → s.skbRoom (partOfQueue s.mode q) 0 = true → s.flag F.qpCfgSqLoc q = false →
      exec (.commandFetch q .error) s = .next (s.ringFails q) ∧
      (∀ bs, 64 ≤ bs.length →
        let inl := leNat ((bs.drop 2).take 1)
        64 * (1 + inl % 64) ≤ bs.length →
        (64 ≤ inl → exec (.commandFetch q (.ok bs)) s = .next (s.stopQueue q 2)) ∧
        (inl < 64 → 1 + inl ≤ ((s.queue q).sqTail + 2 ^ 32 - s.rd F.qpSqHeadCount q) % 2 ^ 32 →
          exec (.commandFetch q (.ok bs)) s = .next ((s.wr F.qpSqHeadCount q (s.rd F.qpSqHeadCount q + 1 + inl)).acceptCmd q
            (bs.take 64) ((bs.drop 64).take (64 * inl)))))) ∧
    (∀ header data, s.recording (s.queueCtx q) = false →
      let x := s.queue q
      let new : Cmd := { seq := x.nextSeq, header := header, inlineData := data }
      let t := s.acceptCmd q header data
      (s.headerRefused q new = none → (t.queue q).cmds = x.cmds ++ [new] ∧ (t.queue q).nextSeq = x.nextSeq + 1) ∧
      (∀ st, s.headerRefused q new = some st → (∀ y ∈ x.cmds, y.seq ≠ x.nextSeq) →
        (t.queue q).cmds = x.cmds ++ [{ new with phase := .done, status := st }])) ∧
    (s.cmd? q seq = some c → c.phase = .done → s.writesDone c = true → s.schedulerUp q = true →
      (c.opcode = 0x01 → s.earlierDone q seq = true) → c.noRecord = false → (s.queue q).ringFailed = false →
      (s.queue q).ringStall = none → (∀ y ∈ (s.queue q).cmds, y.stalled = none) → s.skbRoom (partOfQueue s.mode q) 0 = true →
      s.flag F.qpCfgCqLoc q = false →
      let n := s.rd F.qpCqTailCount q
      let size := 2 ^ s.rd F.qpCfgLog2Cq q
      let used := (n + 2 ^ 32 - (s.queue q).cqHead) % 2 ^ 32
      (size ≤ used → ∀ ok, exec (.completionRecord q seq ok) s = .next s) ∧
      (used < size → s.rd F.hifSessionState = 2 → (∀ h ∈ (s.queue q).held, h.seq ≠ seq) → ∀ ok,
        ∃ t h, exec (.completionRecord q seq ok) s = .next t ∧ (t.queue q).held = (s.queue q).held ++ [h] ∧ h.seq = seq ∧
          h.status = c.status ∧ h.result = c.result ∧ t.sent = s.sent) ∧
      (used < size → s.hostOpen = true →
        exec (.completionRecord q seq false) s = .next (s.ringFails q) ∧
        exec (.completionRecord q seq true) s = .next (((s.send (.hostWrite (s.queueFn q)
          (s.rd F.qpCqBaseBase q * 4096 + 32 * (n % size))
          (leBytes 4 c.tag ++ leBytes 2 q ++ leBytes 1 c.status ++ leBytes 1 c.faultCode ++ leBytes 16 c.result
            ++ leBytes 4 (s.rd F.qpSqHeadCount q) ++ leBytes 3 0 ++ leBytes 1 ((n / size + 1) % 2)))).recorded q c).recordIrqOf q c))) ∧
    (∀ i o, (i, o) ∈ [(Instr.nopCommand q seq, 0x00), (.fence q seq, 0x01)] → Starts s q seq o c →
      exec i s = .next (s.endCmd q seq (if c.zeroAt [(0x10, 48)] = true then 0 else 1))) ∧
    (∀ st res, s.cmd? q seq = some c → c.phase ≠ .done → ∃ d, (s.endCmd q seq st res).cmd? q seq = some d ∧ d.phase = .done ∧
      d.status = st ∧ d.result = res ∧ d.header = c.header ∧ (s.endCmd q seq st res).mem = s.mem)

/-- R137, R278, R279, R352, R358, R359: a launch is read, checked and accepted; a region counter is added to or waited on; pages are
placed, zeroed and granted, or freed; a data mover starts and moves its range in chunks of 4 KiB of the destination. A command with a bad body
ends with status 0x01. -/
def Obligations.HostCommandsRun : Prop :=
  ∀ (s : State) (q seq : Nat) (c : Cmd),
    (s.cmd? q seq = some c → c.opcode = 0x02 → c.phase = .accepted → s.partLive (partOfQueue s.mode q) = true →
      s.schedulerUp q = true → c.stalled = none → c.task = none →
      (c.field 0x10 8 % 64 ≠ 0 → exec (.launch q seq) s = .next (s.endCmd q seq 0x01)) ∧
      (∀ u b, c.field 0x10 8 % 64 = 0 → c.field 0x18 1 = 1 → c.zeroAt [(0x19, 39)] = true →
        s.ctxRead (s.schedEngine q c.tag) (c.field 0x10 8) 64 = (u, .ok b) →
        let d := LaunchDesc.parse b
        (∀ st, u.launchRefused (u.queueCtx q) d (some c.inlineData.length) = some st →
          exec (.launch q seq) s = .next (u.endCmd q seq st)) ∧
        (u.launchRefused (u.queueCtx q) d (some c.inlineData.length) = none →
          exec (.launch q seq) s = .next ((u.acceptTask q c d (c.inlineData.take d.argBytes)).launchStarts q seq)))) ∧
    (∀ r i, Starts s q seq 0x03 c → c.regionRef = true → c.zeroAt [(0x20, 32)] = true → s.earlierDone q seq = true →
      natBits (c.field 0x10 8) 33 32 = r → natBits (c.field 0x10 8) 17 8 = i →
      (partOfRegion s.mode r ≠ partOfQueue s.mode q → exec (.cntAddCommand q seq) s = .next (s.endCmd q seq 0x0A)) ∧
      (partOfRegion s.mode r = partOfQueue s.mode q → s.blockGranted r i (s.queueCtx q) = false →
        exec (.cntAddCommand q seq) s = .next (s.endCmd q seq 0x09)) ∧
      (partOfRegion s.mode r = partOfQueue s.mode q → s.blockGranted r i (s.queueCtx q) = true →
        exec (.cntAddCommand q seq) s = .next
          (((s.regionAdd (s.queueCtx q) r i (c.field 0x18 8)).settleCtr (.region r i)).endCmd q seq 0))) ∧
    (∀ r i, Starts s q seq 0x04 c → c.regionRef = true → c.zeroAt [(0x24, 28)] = true → s.cmdCtrRefused q c = none →
      natBits (c.field 0x10 8) 33 32 = r → natBits (c.field 0x10 8) 17 8 = i → s.regionWaits r < 4096 → s.replaying (s.queueCtx q) = false →
      let t := c.field 0x20 4
      exec (.cntWaitCommand q seq) s = .next ((s.updCmd q seq (fun y => { y with
        phase := .running, waiting := true, deadline := if t = 0xFFFFFFFF then none else some (s.now + t) })).settleCtr (.region r i))) ∧
    (Starts s q seq 0x05 c → s.poolBodyOk q c = true → c.field 0x1E 1 < 8 →
      ((c.field 0x1E 1).testBit 0 = false ∨ (c.field 0x1E 1).testBit 2 = false) → c.field 0x1F 1 = 0 → c.field 0x1D 1 < 4 →
      partOfRegion s.mode (c.field 0x1D 1) = partOfQueue s.mode q → c.stalled = none → s.flag F.ctxMemCryptEnable (c.field 0x20 2) = false →
      let n := c.field 0x18 4
      let fl := c.field 0x1E 1
      ∀ u, State.probeWrite (s.dmaEngine q c.tag) (pagesOf (pageFuel (8 * n)) (c.field 0x10 8) (8 * n)) s = (u, .ok ()) →
        let placed := State.placeAll (partOfQueue s.mode q) (c.field 0x1D 1) (pageLog2 (c.field 0x1C 1)) (c.field 0x20 2) (fl.testBit 2)
          (u.tierOrder (partOfQueue s.mode q) (c.field 0x1D 1) (fl.testBit 0) (fl.testBit 1) (fl.testBit 2)) n u
        (placed = none → exec (.alloc q seq) s = .next (u.endCmd q seq 0x0D)) ∧
        (∀ v l near far w, placed = some (v, l, near, far) →
          v.ctxWrite (v.dmaEngine q c.tag) (c.field 0x10 8) (l.flatMap (leBytes 8)) = (w, .ok ()) →
          exec (.alloc q seq) s = .next (w.endCmd q seq 0 (near + far * 2 ^ 32)))) ∧
    (∀ a log2 ctx x, a ≤ x → x < a + 2 ^ log2 → (s.placePage a log2 ctx).readByte x = 0 ∧
      (s.placePage a log2 ctx).pages.get? a = some { log2 := log2, ctx := ctx }) ∧
    (∀ u b, Starts s q seq 0x06 c → s.poolBodyOk q c = true → c.zeroAt [(0x1D, 3)] = true → c.stalled = none →
      s.ctxRead (s.dmaEngine q c.tag) (c.field 0x10 8) (8 * c.field 0x18 4) = (u, .ok b) →
      let l := words8 (c.field 0x18 4) b
      let mine := l.Nodup ∧ ∀ a ∈ l, u.pages.get? a = some { log2 := pageLog2 (c.field 0x1C 1), ctx := c.field 0x20 2 }
      (mine → exec (.free q seq) s = .next ((u.freePages l (pageLog2 (c.field 0x1C 1))).endCmd q seq 0)) ∧
      (¬mine → exec (.free q seq) s = .next (u.endCmd q seq 0x01))) ∧
    (∀ i o, (i, o) ∈ [(Instr.hostToDev q seq, 0x10), (.devToHost q seq, 0x11), (.copy q seq, 0x12), (.fill q seq, 0x13)] →
      Starts s q seq o c →
      (1 ≤ c.moveLen → c.moveLen ≤ 2 ^ 40 → c.zeroAt [(0x28, 24)] = true →
        (o = 0x12 → rangesMeet (c.field 0x10 8) c.moveLen (c.field 0x18 8) c.moveLen = false) →
        (o = 0x13 → c.moveLen % 8 = 0 ∧ c.moveDst % 8 = 0) →
        exec i s = .next (s.updCmd q seq (fun y => { y with phase := .running }))) ∧
      (c.moveLen = 0 → exec i s = .next (s.endCmd q seq 0x01))) ∧
    (Starts s q seq 0x14 c → c.zeroAt [(0x1A, 38)] = true →
      (1 ≤ c.moveLen → c.moveLen ≤ c.inlineData.length →
        exec (.inlineWrite q seq) s = .next (s.updCmd q seq (fun y => { y with phase := .running }))) ∧
      (c.inlineData.length < c.moveLen → exec (.inlineWrite q seq) s = .next (s.endCmd q seq 0x01))) ∧
    (∀ index ans, s.cmd? q seq = some c → c.phase = .running → c.stalled = none → index < c.chunks → index ∉ c.chunksDone →
      s.partLive (partOfQueue s.mode q) = true → s.skbRoom (partOfQueue s.mode q) 0 = true → s.replaying (s.queueCtx q) = false →
      let dst := c.moveDst + c.chunkStart index
      let len := c.chunkLen index
      (∀ u, c.opcode = 0x13 → s.ctxWrite (s.dmaEngine q c.tag) dst
          ((List.range len).map (fun i => BitVec.ofNat 8 (c.field 0x18 8 >>> (8 * ((c.chunkStart index + i) % 8))))) = (u, .ok ()) →
        exec (.dmaChunk q seq index ans) s = .next (u.chunkDone q seq index 0)) ∧
      (∀ u, c.opcode = 0x14 → s.ctxWrite (s.dmaEngine q c.tag) dst ((c.inlineData.drop (c.chunkStart index)).take len) = (u, .ok ()) →
        exec (.dmaChunk q seq index ans) s = .next (u.chunkDone q seq index 0)) ∧
      (∀ u v bs, c.opcode = 0x12 → s.ctxRead (s.dmaEngine q c.tag) (c.field 0x10 8 + c.chunkStart index) len = (u, .ok bs) →
        u.ctxWrite (u.dmaEngine q c.tag) dst bs = (v, .ok ()) →
        exec (.dmaChunk q seq index ans) s = .next (v.chunkDone q seq index 0)) ∧
      (∀ u bs, c.opcode = 0x11 → s.hostOpen = true →
        s.ctxRead (s.dmaEngine q c.tag) (c.field 0x18 8 + c.chunkStart index) len = (u, .ok bs) →
        exec (.dmaChunk q seq index ans) s = .next ((u.send (.hostWrite (u.queueFn q) dst bs)).chunkDone q seq index 0)) ∧
      (c.opcode = 0x10 → s.hostOpen = true → exec (.dmaChunk q seq index .error) s = .next (s.failCmd q seq 0x0C)) ∧
      (∀ bs, c.opcode = 0x10 → s.hostOpen = true → bs.length = len →
        exec (.dmaChunk q seq index (.ok bs)) s = .next (s.hostChunk q seq c index bs)))

/-- R159, R368 to R375: a resident operator with a good body reads its inputs, and its results are written before it ends: matrix products and
convolutions as exact sums drained once, elementwise operations one element at a time with broadcasting, reductions along the axis,
stable sorts and selections. A bad body ends with status 0x01. -/
def Obligations.OperatorsRun : Prop :=
  ∀ (s : State) (q seq : Nat) (c : Cmd) (u : State) (data : List (List Nat)),
    let e := s.operEngine q c.tag
    let env := s.opEnv q c
    let seed := s.reg .ctxSrSeed (s.queueCtx q)
    let t := c.tensor
    (c.stalled = none → s.editionRefused e.ctx = false →
      (Starts s q seq 0x20 c → s.matmulOk q c = true → State.readTensors e ([t 0, t 1] ++ (if c.opBias = 0 then [] else [t 3])) s = (u, .ok data) →
        let m := ((t 0).matrix (c.opCtl.testBit 7)).2.1
        let k := ((t 0).matrix (c.opCtl.testBit 7)).2.2
        let n := ((t 1).matrix (c.opCtl.testBit 8)).2.2
        let cls := (pairClass (t 0).format (t 1).format).getD .n
        exec (.matmul q seq) s = .next (u.finishOperator e q seq (drainAll cls (t 2) c.outLf env seed
          (combinedScale [BitVec.ofNat 32 (t 0).scale, BitVec.ofNat 32 (t 1).scale, BitVec.ofNat 32 (t 2).scale])
          (fun x => if c.opBias = 0 then none
            else some (opBias (t 3) (data.getD 2 []) (if c.opBias = 1 then x % n else x / n % m)))
          ((List.range ((t 2).rows * (t 2).inner)).map (fun x => dotAcc cls (t 0).format (t 1).format env
            ((List.range k).map (fun kk =>
              ((t 0).matrixAt (c.opCtl.testBit 7) (data.getD 0 []) (x / (m * n)) (x / n % m) kk,
               (t 1).matrixAt (c.opCtl.testBit 8) (data.getD 1 []) (x / (m * n)) kk (x % n))))))))) ∧
      (Starts s q seq 0x21 c → s.convOk q c = true → State.readTensors e ([t 0, t 1] ++ (if c.opBias = 0 then [] else [t 3])) s = (u, .ok data) →
        let x := t 0
        let w := t 1
        let terms := fun (y : Nat) => (List.range (w.dim 0)).flatMap (fun kh => (List.range (w.dim 1)).flatMap (fun kw =>
          let ds := digitsOf (t 2).shape y
          match convPos (ds.getD 1 0) (c.field 0x18 2) (c.field 0x1C 2) kh (c.field 0x20 2) (x.dim 1),
                convPos (ds.getD 2 0) (c.field 0x1A 2) (c.field 0x1E 2) kw (c.field 0x22 2) (x.dim 2) with
          | some ih, some iw => (List.range (x.dim 3)).map (fun ch =>
              ((data.getD 0 []).getD (((ds.getD 0 0 * x.dim 1 + ih) * x.dim 2 + iw) * x.dim 3 + ch) 0,
               (data.getD 1 []).getD (((kh * w.dim 1 + kw) * w.dim 2 + ch) * w.dim 3 + ds.getD 3 0) 0))
          | _, _ => []))
        let cls := (pairClass x.format w.format).getD .n
        exec (.conv q seq) s = .next (u.finishOperator e q seq (drainAll cls (t 2) false env seed
          (combinedScale [BitVec.ofNat 32 x.scale, BitVec.ofNat 32 w.scale, BitVec.ofNat 32 (t 2).scale])
          (fun y => if c.opBias = 0 then none else some (opBias (t 3) (data.getD 2 []) (y % w.dim 3)))
          ((List.range ((t 2).rows * (t 2).inner)).map (fun y => dotAcc cls x.format w.format env (terms y)))))) ∧
      (∀ i sub, (i, sub) ∈ [(Instr.mapConvert q seq, 0), (.mapAdd q seq, 1), (.mapSubtract q seq, 2), (.mapMultiply q seq, 3),
          (.mapFma q seq, 4), (.mapDivide q seq, 5), (.mapSquareRoot q seq, 6), (.mapMin q seq, 7), (.mapMax q seq, 8), (.mapRelu q seq, 9),
          (.mapExp q seq, 0x10), (.mapLog q seq, 0x11), (.mapReciprocalSquareRoot q seq, 0x12), (.mapSine q seq, 0x13),
          (.mapCosine q seq, 0x14)] →
        Starts s q seq 0x22 c → c.subop = sub → s.mapOk q c = true →
        State.readTensors e ((List.range (mapArity sub)).map t) s = (u, .ok data) →
        let o := t (mapArity sub)
        ∃ rs : List Rounded, rs.length = o.rows * o.inner ∧
          (∀ k, ∀ r ∈ rs[k]?, r = mapElement (s.rd F.devIdentFtEdition) sub (env.at seed o k) o
            (((List.range (mapArity sub)).map t).zipIdx.map (fun x =>
              (x.1, (data.getD x.2 []).getD (indexOf x.1.shape (digitsOf o.shape k) 0) 0)))) ∧
          exec i s = .next (u.finishOperator e q seq (OpRes.mk [o.pack (rs.map Rounded.bits)]
            (rs.foldl (fun fl r => fl.or r.flags) FpFlags.none) (some (o, rs.map Rounded.cls)) 0 0))) ∧
      (∀ i sub, (i, sub) ∈ [(Instr.reduceSum q seq, 0), (.reduceMin q seq, 1), (.reduceMax q seq, 2)] →
        Starts s q seq 0x23 c → c.subop = sub → s.reduceOk q c = true → State.readTensors e [t 0] s = (u, .ok data) →
        let runs := (List.range ((t 1).rows * (t 1).inner)).map (reduceRun (t 0) (t 1) c.opAxis (data.getD 0 []))
        (sub = 0 → exec i s = .next (u.finishOperator e q seq (drainAll ((tensorClass (t 0) (t 0)).getD .n) (t 1) c.outLf env seed
          (combinedScale [BitVec.ofNat 32 (t 0).scale, BitVec.ofNat 32 (t 1).scale]) (fun _ => none)
          (runs.map (fun run => run.foldl (fun (r : Acc × FpFlags) b =>
            (r.1.addTerm ((tensorClass (t 0) (t 0)).getD .n) (!(t 0).format.isFloat) ((t 0).format.read env b).1 oneVal,
              r.2.or ((t 0).format.read env b).2)) (Acc.clear, FpFlags.none)))))) ∧
        (sub ≠ 0 → ∃ rs : List Rounded, rs.length = runs.length ∧
          (∀ k, ∀ r ∈ rs[k]?, ∃ fl, r = { convertCls (t 0).format (t 1).format (env.at seed (t 1) k)
              (combinedScale [BitVec.ofNat 32 (t 0).scale, BitVec.ofNat 32 (t 1).scale])
              (((runs.getD k []).drop 1).foldl (fun m b => (fpMinMax (decide (sub = 2)) (t 0).format env m b).1)
                ((runs.getD k []).getD 0 0)) with flags := fl }) ∧
          exec i s = .next (u.finishOperator e q seq (OpRes.mk [(t 1).pack (rs.map Rounded.bits)]
            (rs.foldl (fun fl r => fl.or r.flags) FpFlags.none) (some (t 1, rs.map Rounded.cls)) 0 0)))) ∧
      (Starts s q seq 0x24 c → c.sortOk = true → c.hasPayload = false → State.readTensors e [t 0] s = (u, .ok data) →
        let le := fun (a b : Nat) => if c.opCtl.testBit 11 then keyLe (t 0).format b a else keyLe (t 0).format a b
        exec (.sort q seq) s = .next (u.finishOperator e q seq (OpRes.mk [(t 1).pack ((List.range (t 0).rows).flatMap (fun r =>
          sortBy le (((data.getD 0 []).drop (r * (t 0).inner)).take (t 0).inner)))] FpFlags.none none 0 0))) ∧
      (Starts s q seq 0x25 c → c.selectOk = true → s.flag F.qpDlbCtlEnable q = false →
        State.readTensors e [t 0, t 1, t 2] s = (u, .ok data) →
        let got := (((data.getD 0 []).zip (data.getD 1 [])).filter (fun x => maskOn (t 1).format x.2)).map Prod.fst
        ∃ r, exec (.select q seq) s = .next (u.finishOperator e q seq r) ∧ r.result = got.length ∧ r.flags = FpFlags.none ∧
          (got = [] → r.outs = []))) ∧
    (∀ i o ok, (i, o, ok) ∈ [(Instr.matmul q seq, 0x20, s.matmulOk q c), (.conv q seq, 0x21, s.convOk q c), (.sort q seq, 0x24, c.sortOk),
        (.select q seq, 0x25, c.selectOk)] → Starts s q seq o c → ok = false → exec i s = .next (s.endCmd q seq 0x01)) ∧
    (∀ res v w out bits, s.opRecord e res.recorded = (v, .ok (out, bits)) →
      let all := res.outs.flatMap OpOut.ranges ++ out
      State.probeAll e (all.map (fun x => (x.1, x.2.length))) v = (u, .ok ()) → State.writeAll e all u = (w, .ok ()) →
      s.finishOperator e q seq res = (((w.orFlags e.ctx res.flags).orDrain e.ctx (res.drain + bits)).endCmd q seq 0 res.result)) ∧
    (∀ (le : Nat → Nat → Bool) (l : List Nat), (sortBy le l).Perm l ∧
      ((∀ a b, le a b = true ∨ le b a = true) → (∀ a b c, le a b = true → le b c = true → le a c = true) →
        (sortBy le l).Pairwise (fun a b => le a b = true)))

/-- R293, R294, R297 to R299: an agent's request for a sector that nothing holds back is served by its home and granted; an eviction
leaves the agent without the sector; an agent answers a snoop from its state, M becoming O and E becoming S under SnoopShared and any
state I under SnoopInvalidate; no request changes the value of a byte. -/
def Obligations.CoherenceRequests : Prop :=
  ∀ (s : State) (a x h : Nat), s.agentMay a x = some h →
    let set := s.cacheSet a (agentSet a (agentLine a x))
    (s.reclaimHolds h x = false → (∀ b ∈ s.coh.busy, b.1 ≠ x) → (∀ w ∈ s.coh.waiting, w.sector ≠ x) → set.ways.wf = true →
      (∀ i ∈ [Instr.readUnique a x, .readUniqueNoData a x], s.agentState a x = .i →
        ∃ t, exec i s = .next t ∧ t.agentState a x = .m ∧ (x, a) ∈ t.coh.busy ∧ t.mem = s.mem) ∧
      (s.agentState a x = .i → ∃ t, exec (.readShared a x) s = .next t ∧ (t.agentState a x = .e ∨ t.agentState a x = .s) ∧
        (x, a) ∈ t.coh.busy ∧ t.mem = s.mem) ∧
      (s.agentState a x ∉ [.m, .e] → ∃ t, exec (.upgrade a x) s = .next t ∧ t.agentState a x = .m ∧ (x, a) ∈ t.coh.busy ∧
        t.mem = s.mem)) ∧
    (s.agentState a x = .s ∨ s.agentState a x = .e →
      (s.mode = 0 → exec (.cleanEvict a x) s = .next (s.setAgentState a x .i)) ∧
      (s.mode ≠ 0 → exec (.cleanEvict a x) s = .next ((s.setAgentState a x .i).cohRequest a x .cleanEvict))) ∧
    (s.agentState a x = .m ∨ s.agentState a x = .o → ∃ t, exec (.writeBack a x) s = .next t ∧ t.mem = s.mem ∧
      ((set.ways.map (fun e => e.2.line)).Nodup → s.reclaimHolds h x = true → t.agentState a x = .i ∧
        (a, x, s.agentState a x) ∈ t.coh.writebacks)) ∧
    ((x, a) ∈ s.coh.busy → (∀ w ∈ s.coh.waiting, w.sector ≠ x) →
      exec (.grantAcknowledge a x) s = .next { s with coh := { s.coh with busy := s.coh.busy.erase (x, a) } }) ∧
    ((∀ w ∈ s.coh.writebacks, w.1 ≠ a ∨ w.2.1 ≠ x) →
      (∀ p ∈ [(Sector.m, Sector.o), (.o, .o), (.e, .s), (.s, .s), (.i, .i)], s.agentState a x = p.1 →
        ∃ t, exec (.snoopShared a x) s = .next t ∧ t.agentState a x = p.2 ∧ t.mem = s.mem) ∧
      ((set.ways.map (fun e => e.2.line)).Nodup →
        ∃ t, exec (.snoopInvalidate a x) s = .next t ∧ t.agentState a x = .i ∧ t.mem = s.mem) ∧
      (∃ t, exec (.snoopPeek a x) s = .next t ∧ t.agentState a x = s.agentState a x ∧ t.mem = s.mem)) ∧
    (s.mode = 0 → exec (.snoopPurge a (agentLine a x)) s = .next (s.snoopPurge h a (agentLine a x)))

/-- R268, R277, R281 to R283, R297, R309: a victim reaches its home's region SRAM; held writes go to their rows after 2 µs; a requester
without a cache reads, writes and updates memory through the home; a dead agent's lines are reclaimed, and its requests dropped. -/
def Obligations.HomeMemory : Prop :=
  ∀ (s : State),
    (∀ canvas v vs, (s.canvases.getD canvas {}).offers = v :: vs → exec (.victimOffer canvas) s = .next (State.serveOffer
      { s with canvases := s.canvases.set canvas { s.canvases.getD canvas {} with offers := vs } } canvas v)) ∧
    (∀ canvas v r, (s.paKind (v.line * 128)).region? = some r → v.dirty = 0 → v.stream = true →
      s.serveOffer canvas v = s.bumpRun F.l2CountCtlRun F.l2VictimsDeclinedCount canvas) ∧
    (∀ chan, (∃ w ∈ (s.channels.getD chan {}).writes, w.2 + 2000 ≤ s.now) → ∃ t, exec (.writeBatchTurn chan) s = .next t ∧
      (t.channels.getD chan {}).writes = [] ∧ (t.channels.getD chan {}).busWrite = true ∧ t.mem = s.mem) ∧
    (∀ x, ∃ t, exec (.nonCachingRead x) s = .next t ∧ t.mem = s.mem ∧ t.poison = s.poison) ∧
    (∀ x off bs, 0 < bs.length → off + bs.length ≤ 64 → (s.homeOf x).isSome = true →
      (∀ b ∈ blocksOf (x * 64 + off) bs.length, ∀ k, (s.paKind (b * 32)).stack? = some k → s.stackOffline k = false) →
      ∃ t, exec (.nonCachingWrite x off bs) s = .next t ∧ t.readBytes (x * 64 + off) bs.length = bs ∧
        ∀ y, y < x * 64 + off ∨ x * 64 + off + bs.length ≤ y → t.readByte y = s.readByte y) ∧
    (∀ addr op size d k h, s.homeOf (addr / 64) = some h → size = 4 ∨ size = 8 → addr % size = 0 → s.poisoned addr size = false →
      ∃ t, exec (.nonCachingAtomic addr op size d k) s = .next t ∧
        t.readBytes addr size = leBytes size (op.apply false (8 * size) (leNat (s.readBytes addr size)) (d % 2 ^ (8 * size))
          (k % 2 ^ (8 * size))) ∧
        ∀ y, y < addr ∨ addr + size ≤ y → t.readByte y = s.readByte y) ∧
    (∀ a, a ∈ s.coh.reclaiming → ∃ t, exec (.agentReclaim a) s = .next t ∧ a ∉ t.coh.reclaiming ∧ (∀ b ∈ t.coh.busy, b.2 ≠ a) ∧
      (∀ w ∈ t.coh.waiting, w.agent ≠ a) ∧ (∀ w ∈ t.coh.writebacks, w.1 ≠ a) ∧ t.mem = s.mem)

/-- R273, R277, R280 to R286, R482, R485: a temperature reading moves a stack's throttle level, and past its limit the stack goes offline; a scrub
corrects or poisons; a change of the SRAM split zeroes the units in transition; a fine request is translated, checked and served. -/
def Obligations.StacksAndSram : Prop :=
  ∀ (s : State),
    (∀ k temp, k < 24 → s.stackOffline k = false → s.rd F.stkStatusLevel k ≤ 6 → ∃ t, exec (.stackTempRead k temp) s = .next t ∧
      t.rd F.stkStatusTemp k = temp % 256 ∧ t.mem = s.mem ∧
      let d := toSigned 8 temp
      let old := s.rd F.stkStatusLevel k
      (∀ l, 1 ≤ l → l ≤ 6 → old ≤ l → 93 + 2 * (l : Int) ≤ d → (l = 6 ∨ d < 93 + 2 * ((l + 1 : Nat) : Int)) → t.rd F.stkStatusLevel k = l) ∧
      (1 ≤ old → d < 93 + 2 * (old : Int) - 2 → t.rd F.stkStatusLevel k = old - 1) ∧
      (1 ≤ old → 93 + 2 * (old : Int) - 2 ≤ d → d < 93 + 2 * (old : Int) → t.rd F.stkStatusLevel k = old) ∧
      (85 < d → t.rd F.stkStatusRefresh2x k = 1) ∧ (d < 83 → t.rd F.stkStatusRefresh2x k = 0)) ∧
    (∀ k, k < 24 → s.stackOffline k = false →
      (110 ≤ toSigned 8 (s.rd F.stkStatusTemp k) ∨
        ∃ since, (s.stackSts.getD k {}).restrictedSince = some since ∧ since + 10000000000 ≤ s.now) →
      ∃ t, exec (.stackOffline k) s = .next t ∧ t.stackOffline k = true ∧ t.rd F.stkStatusLevel k = 7 ∧ t.mem = s.mem) ∧
    (∀ k addr, (s.paKind addr).stack? = some k → s.stackOffline k = false →
      exec (.scrub k addr .clean) s = .next s ∧
      (∀ n, ∃ t, exec (.scrub k addr (.corrected n)) s = .next t ∧ t.mem = s.mem ∧ t.poison = s.poison) ∧
      exec (.scrub k addr .uncorrectable) s = .next ((s.markPoison (addr / 32)).hwEvent (k / 6) 0x0210 (stackUnit k) 0xFFFF
        (addr / 32 * 32))) ∧
    (∀ r off addr, s.paKind addr = .scratch r off →
      exec (.scrub (24 + r) addr .clean) s = .next s ∧
      (∀ n, exec (.scrub (24 + r) addr (.corrected n)) s = .next (s.hwEvent r 0x8105 (12 + r) 0xFFFF (addr / 32 * 32) n)) ∧
      exec (.scrub (24 + r) addr .uncorrectable) s = .next ((s.markPoison (addr / 32)).hwEvent r 0x8205 (12 + r) 0xFFFF
        (addr / 32 * 32))) ∧
    (∀ a q, Writes s a .regSramCfg q → q.n < 4 →
      (s.flag F.regSramStatusBusy q.n = true ∨ 10 ≤ q.new F.regSramCfgScratchUnits → exec (.splitChange a) s = .next s.accessError) ∧
      (s.flag F.regSramStatusBusy q.n = false → q.new F.regSramCfgScratchUnits < 10 →
        (q.new F.regSramCfgScratchUnits = s.rd F.regSramStatusScratchInForce q.n →
          exec (.splitChange a) s = .next (s.setReg .regSramCfg q.n q.merged)) ∧
        (q.new F.regSramCfgScratchUnits ≠ s.rd F.regSramStatusScratchInForce q.n → ∃ t, exec (.splitChange a) s = .next t ∧
          t.flag F.regSramStatusBusy q.n = true ∧ t.rd F.regSramStatusScratchInForce q.n = s.rd F.regSramStatusScratchInForce q.n ∧
          (t.srams.getD q.n {}).split = some ⟨q.new F.regSramCfgScratchUnits⟩ ∧ t.mem = s.mem))) ∧
    (∀ r x, r < 4 → (s.srams.getD r {}).split = some x → x.target ≤ 9 → s.rd F.regSramStatusScratchInForce r ≤ 9 →
      let old := s.rd F.regSramStatusScratchInForce r
      ∃ t, exec (.splitChangeDone r) s = .next t ∧ t.rd F.regSramStatusScratchInForce r = x.target ∧
        t.flag F.regSramStatusBusy r = false ∧ (t.srams.getD r {}).split = none ∧
        (∀ u, x.target ≤ u → u < old → t.reg .regGrantScratch (r * 9 + u) = Reg.reset .regGrantScratch (r * 9 + u)) ∧
        (∀ y, scratchBase r + min old x.target * 0x4000000 ≤ y → y < scratchBase r + max old x.target * 0x4000000 → t.readByte y = 0) ∧
        (∀ y, y < scratchBase r + min old x.target * 0x4000000 ∨ scratchBase r + max old x.target * 0x4000000 ≤ y →
          t.readByte y = s.readByte y)) ∧
    (∀ ctx va u pa, ctx < 4096 →
      let e := XUnit.engine (lowestRegion s.mode (partOfCtx s.mode ctx))
      (∀ n, 0 < n → va / 32 = (va + n - 1) / 32 → s.access e ctx va .read = (u, .memory pa) →
        exec (.fineRequest ctx va (.read n)) s = .next (u.ncReadRange pa n)) ∧
      (∀ bs : List Byte, 0 < bs.length → va / 32 = (va + bs.length - 1) / 32 → s.access e ctx va .write = (u, .memory pa) →
        exec (.fineRequest ctx va (.write bs)) s = .next (u.ncWriteRange pa bs)) ∧
      (∀ op size b c h, size = 4 ∨ size = 8 → va % size = 0 → s.access e ctx va .atomic = (u, .memory pa) → u.homeOf (pa / 64) = some h →
        exec (.fineRequest ctx va (.atomic op size b c)) s = .next ((u.ncAtomic h (pa / 32)).atomicAt pa op false size b c)))

/-- R322, R324, R327, R329, R334, R335, R338: a fault batch closes after 50,000 ns and its records are published; a response resolves a published
record and what waits on it; translations are dropped and tables set; a grant admits its context, and MODE 2 and 3 more; a prefetch
fills the cluster's cache. -/
def Obligations.TranslationAndGrants : Prop :=
  ∀ (s : State) (a : Access) (q : RegWriteReq),
    (∀ r t, (s.xfr.getD r {}).opened = some t → t + 50000 ≤ s.now → r < 4 → ∃ u, exec (.faultBatchClose r) s = .next u ∧
      (u.xfr.getD r {}).opened = none ∧ (u.xfr.getD r {}).recs = (s.xfr.getD r {}).recs.map (fun x =>
        if x.inOpen then { x with inOpen := false, published := true } else x) ∧
      u.rd F.regXfrWriteWriteCount r = (s.rd F.regXfrWriteWriteCount r
        + ((s.xfr.getD r {}).recs.filter (fun x => x.inOpen)).length) % 2 ^ 32) ∧
    (Writes s a .regXfrRespond q → q.n < 4 →
      ∀ i k o, (i, k, o) ∈ [(Instr.xfrRetry a, 1, XfrOutcome.retry), (.xfrFailUnmapped a, 2, .fail true), (.xfrFailPermission a, 3, .fail false)] →
      q.wrote F.regXfrRespondOutcome = k →
      let n := q.wrote F.regXfrRespondSeq
      ((∀ x ∈ (s.xfr.getD q.n {}).recs, x.seq = n → x.published = false) →
        exec i s = .next (s.bumpSat F.regXfrStatusBadResponses q.n)) ∧
      ((∃ x ∈ (s.xfr.getD q.n {}).recs, x.seq = n ∧ x.published = true) → ∃ t, exec i s = .next t ∧
        (t.xfr.getD q.n {}).recs = (s.xfr.getD q.n {}).recs.filter (fun x => decide (x.seq ≠ n)) ∧ t.mem = s.mem ∧
        ∀ c, q.n * 288 ≤ c → c < q.n * 288 + 288 → s.cores.has c = true → t.core c = (s.resolveCore c q.n n o).core c)) ∧
    (Writes s a .regXfrRead q → exec (.xfrReadWrite a) s = .next
      (if (s.rd F.regXfrWriteWriteCount q.n + 2 ^ 32 - q.new F.regXfrReadReadCount) % 2 ^ 32 ≤ 2 ^ s.rd F.regXfrBaseLog2Records q.n then
        s.setReg .regXfrRead q.n q.merged else s)) ∧
    (Writes s a .ctxTlbInv q → q.n < 4096 → q.wrote F.ctxTlbInvGo = 1 → ∃ t, exec (.tlbInvalidate a false) s = .next t ∧
      t.rd F.ctxTlbInvBusy q.n = 1 ∧ ∀ e ∈ t.tlbs, e.1 < 3010 → ∀ x ∈ e.2, x.ctx ≠ q.n) ∧
    (∀ n, s.accessTarget a = some (.ctxTlbInv, n) → exec (.tlbInvalidate a true) s = .next
      (if s.ctxPerformed n then s.wr F.ctxTlbInvBusy n 0 else s)) ∧
    (∀ r ∈ [Reg.ctxPtRoot, .ctxPtCtl], Writes s a r q →
      (s.rd F.ctxStateState q.n = 2 → exec (.ctxPtWrite a) s = .next s.accessError) ∧
      (s.rd F.ctxStateState q.n ≠ 2 → ∃ t, exec (.ctxPtWrite a) s = .next t ∧ t.reg r q.n = q.merged ∧
        (∀ e ∈ t.tlbs, e.1 < 3010 → ∀ x ∈ e.2, x.ctx ≠ q.n) ∧ OnlyRegs [(r, q.n)] s { t with tlbs := s.tlbs })) ∧
    (∀ r ctx va asid, r < 4 → ∃ t, exec (.sfenceBroadcast r ctx va asid) s = .next t ∧ { t with tlbs := [] } = { s with tlbs := [] } ∧
      ∀ e ∈ t.tlbs, (∃ k ∈ partRegions s.mode (partOfRegion s.mode r), e.1 = 3010 + k) → ∀ x ∈ e.2,
        ¬((∀ v ∈ va, x.covers x.ctx v = true) ∧ ∀ n ∈ asid, s.rd F.ctxPtCtlAsid x.ctx = n)) ∧
    (∀ r fm fc ff region pa flush i, Writes s a r q → grantFields r q.n = some (fm, fc, ff, region, pa) → q.wrote ff = flush →
      (i, flush) ∈ [(Instr.grantWrite a, 0), (.grantFlushWrite a, 1)] →
      (partOfCtx s.mode (q.new fc) ≠ partOfRegion s.mode region → exec i s = .next s.accessError) ∧
      (partOfCtx s.mode (q.new fc) = partOfRegion s.mode region → s.flag F.ctxMemCryptEnable (q.new fc) = false →
        (flush = 0 → exec i s = .next (s.setGrant fm fc q.n pa (q.new fm) (q.new fc))) ∧
        (flush = 1 → exec i s = .next ((s.recallRange region pa (pa + 0x4000000) true).setGrant fm fc q.n pa (q.new fm) (q.new fc))))) ∧
    (∀ pa fm fc n c write, (s.paKind pa).granule? = some (fm, fc, n) → isFirmwareCtx s.mode c = false →
      (s.grantAdmits (.ctx c) pa write = true ↔ s.rd fm n = 3 ∨ (s.rd fm n = 2 ∧ (write = false ∨ s.rd fc n = c)) ∨
        (s.rd fm n = 1 ∧ s.rd fc n = c))) ∧
    (∀ k ctx va l lv en, k < 144 → ctx < 4096 → vaCanonical va = true → s.flag F.ctxPtRootValid ctx = true →
      (∀ e ∈ s.tlbs.getD (2000 + k) [], e.covers ctx va = false) → s.walk ctx va .read = .leaf l lv en →
      ∃ t e, exec (.streamPrefetch k ctx va) s = .next t ∧ e ∈ t.tlbs.getD (2000 + k) [] ∧ e.covers ctx va = true ∧ e.pbase = l.pbase ∧
        e.prefetched = true ∧ t.mem = s.mem)


/-- R379, R380, R382, R385 to R390, R392: a frame that fails a check is counted and dropped, and one that passes goes into the buffer of
its block; PFC pauses and resumes a priority; a write packet in order is performed and held for acknowledgement, a read request is
answered, and one out of order is a sequence error; acknowledgements, NAKs, congestion notices and timeouts act on the flow; an RDMA
command needs an armed slot and a good rank, and joins its connection's work. -/
def Obligations.PacketsAndRdmaCommands : Prop :=
  ∀ (s : State) (b : Nat) (x : RxFrame) (n : Nat),
    (∀ f : Frame, b < 8 → s.portUp b f.sub = true → f.sub < 2 → f.prio < 8 → s.macsecOn b f.sub = false →
      (∀ pre ident, f.pkt = .solicit pre ident → exec (.frameReceive b f) s = .next
        (if f.ipv6 = true ∧ pre = s.reg .portPrefix (2 * b + f.sub) then
          s.send (.neighbor b f.sub ident (s.rd F.portMacMac (2 * b + f.sub))) else s.bump F.portRxForeignCount b)) ∧
      ((∀ pre ident, f.pkt ≠ .solicit pre ident) →
        (s.pfcPrio b f.prio = false ∨ s.rxShare b < (s.port b).occ f.prio + f.len →
          exec (.frameReceive b f) s = .next (s.bump F.portRxOverflowCount b)) ∧
        (s.pfcPrio b f.prio = true → (s.port b).occ f.prio + f.len ≤ s.rxShare b →
          (∀ c, s.acceptFrame b f = .drop c → exec (.frameReceive b f) s = .next (s.bump c b)) ∧
          (∀ src, s.acceptFrame b f = .slot n src → ∃ t, exec (.frameReceive b f) s = .next t ∧ t.mem = s.mem ∧ t.regs = s.regs ∧
            (t.port b).rx = (s.port b).rx ++
              [{ part := s.netPart n, slot := n % 4, src := src, prio := f.prio, len := f.len, ce := f.ce, pkt := f.pkt }]))) ∧
      (f.pkt.isLaunch = false → ∀ src, s.acceptFrame b f = .slot n src →
        f.ipv6 = true ∧ f.dstPrefix = s.reg .portPrefix (2 * b + f.sub) ∧ 3 ≤ s.slotState n ∧
          s.rd F.netSlotJob n = f.dstId / 2 ^ 40 % 2 ^ 24 ∧ s.rd F.netSlotEpoch n = f.dstId / 2 ^ 24 % 2 ^ 16 ∧
          s.ownRank n = f.dstId % 2 ^ 24 ∧ f.srcId / 2 ^ 24 = f.dstId / 2 ^ 24 ∧ src = f.srcId % 2 ^ 20 ∧
          src < s.rd F.netSlotTableCount n ∧ f.dport = s.udpPort n f.pkt ∧ f.fields = true)) ∧
    (∀ sub prio, b < 8 → sub < 2 → s.portUp b sub = true → s.flag F.portCfgPfcEn b = true → prio < 8 → s.pfcPrio b prio = true →
      let y := s.port b
      let others := (y.paused.getD sub []).filter (fun p => decide (p ≠ prio))
      exec (.pfcReceive b sub prio true) s = .next (s.setPort b { y with paused := y.paused.set sub (others ++ [prio]) }) ∧
      (y.held = [] → exec (.pfcReceive b sub prio false) s = .next (s.setPort b { y with paused := y.paused.set sub others })) ∧
      (∀ f, y.held = [f] → f.sub = sub → f.prio = prio → exec (.pfcReceive b sub prio false) s =
        .next ((s.setPort b { y with paused := y.paused.set sub others, held := [] }).handOver b f)) ∧
      (∀ f : TxFrame, f.sub = sub → f.prio = prio → prio ∈ y.paused.getD sub [] →
        s.handOver b f = s.setPort b { y with held := y.held ++ [f] })) ∧
    (∀ part slot rank fletus, part < partCount s.mode → slot < 4 → n = s.netIdx part slot →
      let f := s.flow n rank fletus
      (f.rate < 1000 → f.lastRaise + 55000 ≤ s.now → exec (.rateRecovery part slot rank fletus) s =
        .next (s.setFlow n rank fletus { f with rate := min 1000 (f.rate + 50), lastRaise := s.now })) ∧
      (f.rxHeld ≠ 0 → f.rxSince + 4000 ≤ s.now →
        let t := s.setFlow n rank fletus { f with rxHeld := 0 }
        exec (.ackCoalesceTimeout part slot rank fletus) s = .next
          (if fletus = true then t.sendFletus n rank 0 false false .ack
          else t.sendRoce n rank ((f.expect + 2 ^ 24 - 1) % 2 ^ 24) .acknowledge)) ∧
      (f.unacked ≠ [] → f.rnrUntil = none → f.lastSend + s.rtoOf n f ≤ s.now →
        (f.expiries < 31 → exec (.retransmitTimeout part slot rank fletus) s = .next
          ((s.setFlow n rank fletus { f with expiries := f.expiries + 1, rto := some (min 5000000 (2 * s.rtoOf n f)) }).resend
            n rank fletus)) ∧
        (31 ≤ f.expiries → exec (.retransmitTimeout part slot rank fletus) s = .next
          (if fletus = true then s.streamUnreachable n rank
          else ((s.failCmds f.cmds 0x42).setFlow n rank false {}).sendFletus n rank 0 true false .ack))) ∧
      (∀ due, fletus = false → f.rnrUntil = some due → due ≤ s.now → exec (.rnrRetryTimeout part slot rank) s =
        .next (((s.setFlow n rank false { f with rnrUntil := none }).resend n rank false).pumpFlow n rank))) ∧
    (∀ psn, x.ce = false →
      let f := s.flow n x.src false
      let acked := s.ackThrough n x.src ((psn + 2 ^ 24 - 1) % 2 ^ 24)
      (Heads s b (.roce psn .acknowledge) x n →
        exec (.roceAcknowledge b) s = .next (((s.ackThrough n x.src psn).pumpFlow n x.src).dropFrame b x)) ∧
      (Heads s b (.roce psn .nakSequence) x n →
        exec (.roceNak b) s = .next (((acked.resend n x.src false).pumpFlow n x.src).dropFrame b x)) ∧
      (Heads s b (.roce psn .nakRnr) x n → ∀ h, h = acked.flow n x.src false →
        exec (.roceNak b) s = .next ((acked.setFlow n x.src false
          { h with rnrUntil := some (acked.now + 10000), expiries := 0, rto := none }).dropFrame b x)) ∧
      (∀ u, Heads s b (.roce psn (.nakAccess u)) x n →
        exec (.roceNak b) s = .next ((acked.failSent n x.src psn (if u = true then 0x43 else 0x44)).dropFrame b x)) ∧
      (Heads s b (.roce psn .nakOperation) x n →
        exec (.roceNak b) s = .next ((acked.failSent n x.src psn 0x45).dropFrame b x)) ∧
      (Heads s b (.roce psn .cnp) x n → f.lastCut = none → exec (.cnp b) s = .next ((s.setFlow n x.src false
        { f with rate := f.rate / 2, lastCut := some s.now, lastRaise := s.now }).dropFrame b x)) ∧
      (f.restart = false → f.failed = none →
        let u := s.setFlow n x.src false f
        (∀ last va d signal, Heads s b (.roce psn (.write last va d signal)) x n →
          (f.fault ≠ none → exec (.rdmaWritePacket b) s = .next ((u.sendRoce n x.src psn .nakRnr).dropFrame b x)) ∧
          (f.fault = none → f.expect % 2 ^ 24 = psn → psn < 2 ^ 24 →
            (∀ t e, u.serve n (.write last va d signal) = (t, .done e) → ∀ v g, v = t.journalPacket x → g = v.flow n x.src false →
              exec (.rdmaWritePacket b) s = .next
                (((v.setFlow n x.src false { g with expect := (g.expect + 1) % 2 ^ 24 }).holdAck n x.src false).dropFrame b x)) ∧
            (∀ t a, u.serve n (.write last va d signal) = (t, .nak a) →
              exec (.rdmaWritePacket b) s = .next ((t.sendRoce n x.src psn a).dropFrame b x))) ∧
          (f.fault = none → f.expect < psn → psn < f.expect + 2 ^ 23 → psn < 2 ^ 24 →
            exec (.rdmaWritePacket b) s = .next ((u.sendRoce n x.src f.expect .nakSequence).dropFrame b x)) ∧
          (f.fault = none → psn < f.expect → f.expect ≤ psn + 2 ^ 23 → f.expect < 2 ^ 24 →
            exec (.rdmaWritePacket b) s =
              .next ((u.sendRoce n x.src ((f.expect + 2 ^ 24 - 1) % 2 ^ 24) .acknowledge).dropFrame b x))) ∧
        (∀ va len, Heads s b (.roce psn (.readRequest va len)) x n → f.fault = none → f.expect % 2 ^ 24 = psn → psn < 2 ^ 24 →
          ∀ t e v g h w, u.serve n (.readRequest va len) = (t, .done e) → v = t.journalPacket x → g = v.flow n x.src false →
            w = v.setFlow n x.src false { g with expect := (g.expect + 1) % 2 ^ 24 } → h = w.flow n x.src false →
            exec (.rdmaReadRequest b) s = .next
              (((w.setFlow n x.src false { h with rxHeld := 0 }).sendRoce n x.src psn (.readResponse e)).dropFrame b x)) ∧
        (∀ va d t v, State.probeWrite (u.inEngine n) (pagesOf (pageFuel d.length) va d.length) u = (t, .ok ()) →
          t.ctxWrite (t.inEngine n) va d = (v, .ok ()) → u.serve n (.write true va d none) = (v, .done [])) ∧
        (∀ va len t d, u.ctxRead (u.inEngine n) va len = (t, .ok d) → u.serve n (.readRequest va len) = (t, .done d)))) ∧
    (∀ psn d rest va len c y u v, x.ce = false → Heads s b (.roce psn (.readResponse d)) x n →
      u = s.ackThrough n x.src ((psn + 2 ^ 24 - 1) % 2 ^ 24) → (u.flow n x.src false).unacked = y :: rest →
      y.pkt = .roce psn (.readRequest va len) → d.length = len → u.cmd? y.q y.cmd = some c → c.phase = .running → c.stalled = none →
      c.field 0x20 8 ≤ va → va < c.field 0x20 8 + 2 ^ 40 →
      let off := va - c.field 0x20 8
      u.ctxWrite (u.rdmaEngine y.q c.tag) (c.field 0x18 8 + off) d = (v, .ok ()) →
      let f := u.flow n x.src false
      let w := ((v.setFlow n x.src false { f with unacked := rest, expiries := 0, rto := none, lastSend := v.now }).journalPacket x).credit
        y.q y.cmd len
      (off + len < c.field 0x28 8 → exec (.rdmaReadResponse b) s = .next ((w.pumpFlow n x.src).dropFrame b x)) ∧
      (c.field 0x28 8 ≤ off + len → c.signal = none →
        exec (.rdmaReadResponse b) s = .next (((w.succeed y.q y.cmd).pumpFlow n x.src).dropFrame b x))) ∧
    (∀ i o q seq c, (i, o) ∈ [(Instr.rdmaWrite q seq, 0x40), (.rdmaRead q seq, 0x41), (.rdmaCntAdd q seq, 0x42)] → Starts s q seq o c →
      (if o = 0x42 then c.field 0x10 1 < 4 ∧ c.zeroAt [(0x11, 3), (0x18, 24)] = true ∧ netRefOk (c.field 0x30 8) = true
        else c.rdmaOk = true) →
      n = s.cmdSlot q (c.field 0x10 1) →
      let rank := c.field 0x14 4
      (s.slotState n ≠ 3 ∨ s.netCtx n ≠ s.queueCtx q → exec i s = .next (s.endCmd q seq 0x40)) ∧
      (s.slotOpen q n = true → s.rankGood n rank = false → exec i s = .next (s.endCmd q seq 0x41)) ∧
      (s.slotOpen q n = true → s.rankGood n rank = true → s.netOps (fun _ => true) < 65536 → ∀ f, f = (s.runCmd q seq).flow n rank false →
        exec i s = .next (((s.runCmd q seq).setFlow n rank false
          { f with work := f.work ++ [{ q := q, cmd := seq, sent := 0 }] }).pumpFlow n rank)))

/-- R389, R391, R395 to R403: a Fletus message next in sequence is taken, and one that is not is answered with a NACK; remote commands
go to a peer's operators and come back as records; elements join the collective of their generation, and a disagreement ends it; a
COLLECTIVE that may not run ends with its status, and one that may is issued, or finished. -/
def Obligations.StreamsAndCollectives : Prop :=
  ∀ (s : State) (b : Nat) (x : RxFrame) (n : Nat) (u : State),
    (∀ p : FletusPkt, Heads s b (.fletus p) x n → u = s.streamCommon n x p →
      (p.msg = .ack → p.restart = false → exec (.fletusAck b) s = .next (u.dropFrame b x)) ∧
      (p.msg = .ack → p.restart = true → exec (.fletusAck b) s =
        .next ((u.setFlow n x.src false { u.flow n x.src false with restart := true }).dropFrame b x)) ∧
      (p.msg = .nack → exec (.fletusNack b) s = .next ((u.resend n x.src true).dropFrame b x)) ∧
      (p.restart = false → p.seq ≠ (u.flow n x.src true).expect →
        (∀ bs, p.msg = .cmd bs → exec (.cmd b) s = .next ((u.sendNack n x.src).dropFrame b x)) ∧
        (∀ rec, p.msg = .cmdDone rec → exec (.cmdDone b) s = .next ((u.sendNack n x.src).dropFrame b x)) ∧
        (∀ coll use shape first count native fmt payload ended,
          p.msg = .data coll use shape first count native fmt payload ended →
          exec (.fletusData b) s = .next ((u.sendNack n x.src).dropFrame b x)))) ∧
    (∀ bs, InSequence s b (.cmd bs) x n u →
      exec (.cmd b) s = .next (taken (u.takeCmd n x.src bs) n b x) ∧
      (u.flag F.netSlotRemoteCmd n = false →
        u.takeCmd n x.src bs = u.streamSend n x.src (.cmdDone (u.remoteRecord n (fieldAt bs 4 4) 0x4D 0 0)) 0 0)) ∧
    (∀ rec, InSequence s b (.cmdDone rec) x n u →
      exec (.cmdDone b) s = .next (taken (u.takeDone n x.src rec) n b x) ∧
      (∀ w rest, (u.job n).waits = w :: rest → w.rank = x.src → w.tag = fieldAt rec 0 4 → w ∉ rest →
        u.takeDone n x.src rec = (u.setJob n { u.job n with waits := rest }).endCmd w.q w.cmd
          (if fieldAt rec 6 1 = 0x4D then 0x4D else 0) (fieldAt rec 0 16))) ∧
    (∀ coll use (i : Instr) (m : FletusMsg),
      (∃ shape payload, (i = .fletusRecord b ∧ m = .record coll use shape payload) ∨
        ∃ first count native fmt ended, i = .fletusData b ∧ m = .data coll use shape first count native fmt payload ended) →
      InSequence s b m x n u →
      (∀ y, u.liveColl n coll = some y → y.use = use → exec i s = .next (taken (u.applyMsg n x.src m) n b x)) ∧
      (∀ y, u.liveColl n coll = some y → y.use ≠ use → use ≠ (u.job n).nextGen coll →
        exec i s = .next (taken ((u.bump F.portRxStaleCount b).disagree n coll 0x48) n b x)) ∧
      (u.liveColl n coll = none → use ≠ (u.job n).nextGen coll → exec i s = .next (taken (u.bump F.portRxStaleCount b) n b x)) ∧
      (u.liveColl n coll = none → use = (u.job n).nextGen coll →
        let size := (NetPkt.fletus { seq := 0, ackSeq := 0, echo := false, restart := false, msg := m }).payloadLen
        ((u.job n).heldBytes + size ≤ 0x1000000 →
          exec i s = .next (taken (u.setJob n { u.job n with held := (u.job n).held ++ [{ src := x.src, msg := m }] }) n b x)) ∧
        (0x1000000 < (u.job n).heldBytes + size → exec i s = .next ((u.sendNack n x.src).dropFrame b x)))) ∧
    (∀ src coll y use shape first count native fmt payload, (u.job n).colls.get? coll = some y →
      let d : FletusMsg := .data coll use shape first count native fmt payload none
      (shape ≠ y.shape → u.applyMsg n src d =
        u.disagree n coll (if { shape with scale := y.shape.scale } = y.shape then 0x47 else 0x48)) ∧
      (∀ p, shape = y.shape → y.shape.posOf src = some p → (y.shape.sent y.root p y.pos).1 ≤ first →
        first + count ≤ (y.shape.sent y.root p y.pos).1 + (y.shape.sent y.root p y.pos).2 →
        u.applyMsg n src d =
          (u.setJob n { u.job n with colls := (u.job n).colls.set coll (y.addMsg p first count native payload) }).finishColl n coll)) ∧
    (∀ q seq c, Starts s q seq 0x43 c → c.field 0x10 1 < 4 → c.zeroAt [(0x11, 3), (0x21, 31)] = true → 1 ≤ c.field 0x20 1 →
      c.field 0x20 1 ≤ 64 → c.stalled = none → n = s.cmdSlot q (c.field 0x10 1) →
      let rank := c.field 0x14 4
      (s.slotOpen q n = false → exec (.remoteOp q seq) s = .next (s.endCmd q seq 0x40)) ∧
      (s.slotOpen q n = true → s.rankGood n rank = false → exec (.remoteOp q seq) s = .next (s.endCmd q seq 0x41)) ∧
      (∀ v bs, s.slotOpen q n = true → s.rankGood n rank = true → s.netOps (fun _ => true) < 65536 →
        s.ctxRead (s.rdmaEngine q c.tag) (c.field 0x18 8) (64 * c.field 0x20 1) = (v, .ok bs) →
        let w := v.runCmd q seq
        exec (.remoteOp q seq) s = .next ((w.setJob n { w.job n with
          waits := (w.job n).waits ++ [{ rank := rank, q := q, cmd := seq, tag := fieldAt bs 4 4 }] }).streamSend n rank (.cmd bs) q seq))) ∧
    (∀ (i : Instr) sub q seq c,
      (i, sub) ∈ [(Instr.allReduce q seq, 0), (.reduceScatter q seq, 1), (.allGather q seq, 2), (.broadcast q seq, 3),
        (.reduceToRoot q seq, 4), (.recordAllReduce q seq, 5), (.collectiveBarrier q seq, 6)] → c.subop = sub →
      (s.cmd? q seq = some c → c.opcode = 0x28 → c.phase = .running →
        exec i s = .next (s.finishColl (s.cmdSlot q (c.field 0x18 1)) (c.field 0x1C 4))) ∧
      (Starts s q seq 0x28 c → c.collOk = false → exec i s = .next (s.endCmd q seq 0x01)) ∧
      (Starts s q seq 0x28 c → c.collOk = true → c.stalled = none → n = s.cmdSlot q (c.field 0x18 1) →
        let e := s.operEngine q c.tag
        (s.editionRefused e.ctx = true → exec i s = .next (s.endCmd q seq 0x23)) ∧
        (s.editionRefused e.ctx = false → s.slotOpen q n = false → exec i s = .next (s.endCmd q seq 0x40)) ∧
        (∀ st pos, s.editionRefused e.ctx = false → s.slotOpen q n = true → s.collRefused n c = (st, pos) → st ≠ 0 →
          exec i s = .next (s.endCmd q seq st)) ∧
        (∀ pos v data rec, s.editionRefused e.ctx = false → s.slotOpen q n = true → s.collRefused n c = (0, pos) →
          s.netOps (fun _ => true) < 65536 → s.collInput e c (s.ownRank n) (c.field 0x20 4) = (v, .ok (data, rec)) →
          exec i s = .next (v.issueColl n q seq c pos data rec)))) ∧
    (∀ (sh : CollShape) root, sh.subop = 1 → 0 < sh.count →
      (sh.outRange root 0).1 = 0 ∧ (∀ i, (sh.outRange root i).1 + (sh.outRange root i).2 = (sh.outRange root (i + 1)).1) ∧
      (sh.outRange root sh.count).1 = sh.elems) ∧
    (∀ (sh : CollShape) root i, (sh.subop = 0 ∨ sh.subop = 2 ∨ sh.subop = 3 → sh.outRange root i = (0, sh.elems)) ∧
      (sh.subop = 4 → sh.outRange root i = (0, if sh.rank i = root then sh.elems else 0)) ∧
      (5 ≤ sh.subop → sh.outRange root i = (0, 0)))

/-- R378, R383, R391, R404 to R409, R411: a job is loaded into an idle slot, and the launch tree arms or aborts it; a child that does not
answer is counted failed and its children are asked; a slot is torn down; PTP disciplines the timebase; SPLIT is kept in flash. -/
def Obligations.JobsAndTimebase : Prop :=
  ∀ (s : State) (b : Nat) (x : RxFrame) (n : Nat),
    (∀ q seq c, Starts s q seq 0x48 c → n = s.cmdSlot q (c.field 0x10 1) →
      (s.loadOk q c = false → exec (.jobLoad q seq) s = .next (s.endCmd q seq 0x01)) ∧
      (s.loadOk q c = true → c.stalled = none →
        (s.slotState n ≠ 0 → exec (.jobLoad q seq) s = .next (s.endCmd q seq 0x4C)) ∧
        (s.slotState n = 0 → (∃ m ∈ s.otherSlots n, s.rd F.netSlotJob m = c.field 0x14 4) →
          exec (.jobLoad q seq) s = .next (s.endCmd q seq 0x4F)) ∧
        (∀ u img, s.slotState n = 0 → (∀ m ∈ s.otherSlots n, s.rd F.netSlotJob m ≠ c.field 0x14 4) →
          s.ctxRead (s.rdmaEngine q c.tag) (c.field 0x20 8) (16 * c.field 0x28 4) = (u, .ok img) →
          (u.imageOk n (c.field 0x2C 4) (c.field 0x28 4) img = false → exec (.jobLoad q seq) s = .next (u.endCmd q seq 0x01)) ∧
          (u.imageOk n (c.field 0x2C 4) (c.field 0x28 4) img = true →
            ∃ v : State, exec (.jobLoad q seq) s = .next (v.beginLaunch n q c) ∧ v.slotState n = 1 ∧ v.rd F.netSlotJob n = c.field 0x14 4 ∧
              v.rd F.netSlotEpoch n = c.field 0x18 2 ∧ v.ownRank n = c.field 0x1C 4 ∧ v.netCtx n = c.field 0x38 2 ∧
              v.rd F.netSlotTableBase n = c.field 0x2C 4 ∧ v.rd F.netSlotTableCount n = c.field 0x28 4 ∧
              v.flag F.netSlotRemoteCmd n = (c.field 0x11 1).testBit 1 ∧
              ∀ k < c.field 0x28 4, v.ranks.get? (n / 4 * 262144 + c.field 0x2C 4 + k) = some (imageEntry img k).1)))) ∧
    (∀ q seq c, Starts s q seq 0x4A c → c.field 0x10 1 < 4 → c.zeroAt [(0x11, 47)] = true → n = s.cmdSlot q (c.field 0x10 1) →
      (s.slotState n = 0 ∨ s.slotState n = 4 → exec (.jobTeardown q seq) s = .next (s.endCmd q seq 0x40)) ∧
      (s.slotState n ≠ 0 → s.slotState n ≠ 4 → ∀ t, t = ((s.endLoad n 0x4A).endSlotCmds n).wr F.netSlotState n 4 →
        exec (.jobTeardown q seq) s =
          .next ((t.setJob n { t.job n with teardown := some (q, seq, t.now + 10000000) }).runCmd q seq))) ∧
    (∀ part slot, part < partCount s.mode → slot < 4 → n = s.netIdx part slot →
      (∀ q seq limit, (s.job n).teardown = some (q, seq, limit) → s.slotState n = 4 →
        (limit ≤ s.now ∨ ∀ e ∈ (s.job n).conns ++ (s.job n).streams, e.2.unacked = []) →
        exec (.teardownDone part slot) s = .next ((s.slotIdle n false).endCmd q seq 0) ∧ (s.slotIdle n false).slotState n = 0) ∧
      (∀ r child limit, (s.job n).round = some r → r.waiting.get? child = some limit → limit ≤ s.now →
        exec (.launchChildTimeout part slot child) s =
          .next (s.settleChild n child r.kind { failed := 1, lowest := [child] } (s.childRanks n child))) ∧
      (s.slotState n = 1 ∨ s.slotState n = 2 → (s.job n).deadline ≤ s.now →
        exec (.launchHoldTimeout part slot) s = .next ((s.endLoad n 0x4A).slotIdle n true))) ∧
    (∀ r, s.childRanks n r = ((List.range 16).map (fun i => 16 * r + 1 + i)).filter (fun k => decide (k < s.rd F.netSlotTableCount n))) ∧
    (∀ (p : FletusPkt), Heads s b (.fletus p) x n →
      (∀ i, p.msg = .prepare i → exec (.prepare b) s = .next ((s.takePrepare n x.src i).dropFrame b x) ∧
        (ancestorOf 8 x.src (s.ownRank n) = true →
          (s.slotState n = 3 ∨ s.slotState n = 4 ∨ i.ranks ≠ s.rd F.netSlotTableCount n ∨ i.digest ≠ (s.job n).digest →
            s.takePrepare n x.src i = s.sendLaunch n x.src .notPrepared) ∧
          (s.slotState n = 1 → i.ranks = s.rd F.netSlotTableCount n → i.digest = (s.job n).digest → (s.job n).round = none →
            s.takePrepare n x.src i = (s.startRound n .prepare (some x.src) {}).settleRound n))) ∧
      (∀ r, p.msg = .prepareAck r → exec (.prepareAck b) s = .next ((s.settleChild n x.src .prepare r []).dropFrame b x)) ∧
      (p.msg = .notPrepared → exec (.notPrepared b) s =
        .next ((s.settleChild n x.src .prepare { failed := 1, lowest := [x.src] } (s.childRanks n x.src)).dropFrame b x)) ∧
      (p.msg = .arm → exec (.arm b) s = .next ((s.takeArm n x.src).dropFrame b x) ∧
        (ancestorOf 8 x.src (s.ownRank n) = true → s.slotState n = 2 →
          s.takeArm n x.src = ((s.armSlot n 0).startRound n .arm (some x.src) {}).settleRound n)) ∧
      (∀ r, p.msg = .armAck r → exec (.armAck b) s = .next ((s.settleChild n x.src .arm r []).dropFrame b x)) ∧
      (p.msg = .abort → exec (.abort b) s = .next ((s.takeAbort n x.src).dropFrame b x) ∧
        (ancestorOf 8 x.src (s.ownRank n) = true → (s.job n).round = none → s.slotState n = 1 ∨ s.slotState n = 2 →
          s.takeAbort n x.src = ((s.wr F.netSlotState n 1).startRound n .abort (some x.src) {}).settleRound n)) ∧
      (∀ r, p.msg = .abortAck r → exec (.abortAck b) s = .next ((s.settleChild n x.src .abort r []).dropFrame b x))) ∧
    (∀ r, (s.job n).round = some r → r.waiting = [] →
      (∀ p, r.parent = some p → r.kind = .prepare →
        s.settleRound n = (s.wr F.netSlotState n 2).sendLaunch n p (.prepareAck { r.res with good := r.res.good + 1 })) ∧
      (∀ p, r.parent = some p → r.kind = .arm →
        s.settleRound n = s.sendLaunch n p (.armAck { r.res with good := r.res.good + 1 })) ∧
      (r.parent = none → r.kind = .arm → r.res.failed = 0 → s.settleRound n = s.armSlot n 0) ∧
      (r.parent = none → r.kind = .arm → r.res.failed ≠ 0 → s.settleRound n = (s.writeFail n r.res.lowest).armSlot n 0x4B)) ∧
    (∀ offset residual rate : Int, s.flag F.tbCfgPtpEn 0 = true → ∃ t, exec (.ptpSync offset residual rate) s = .next t ∧
      t.rd F.tbRatePpb 0 = toUnsigned 32 (max (-200000) (min rate 200000)) ∧ t.rd F.tbPtpOffsetOffset 0 = toUnsigned 64 offset ∧
      t.ptp.last = s.now ∧ t.ptp.good = (if residual.natAbs ≤ 100 then s.ptp.good + 1 else 0) ∧
      t.flag F.tbStatusLocked 0 = (if 16 ≤ t.ptp.good then true else if 1000 < residual.natAbs then false else s.flag F.tbStatusLocked 0) ∧
      OnlyRegs [(.tbRate, 0), (.tbStatus, 0), (.tbPtpOffset, 0)] { s with ptp := t.ptp } t) ∧
    (s.flag F.tbStatusLocked 0 = true → s.ptp.last + 4000000000 ≤ s.now → ∃ t, exec .ptpSyncLoss s = .next t ∧
      t.flag F.tbStatusLocked 0 = false ∧ t.rd F.tbRatePpb 0 = s.rd F.tbRatePpb 0) ∧
    (∀ a r, Writes s a .portCfg r → r.n < 8 → r.covers F.portCfgSplit = true → ∃ t, exec (.splitWrite a) s = .next t ∧
      t.flash.split.testBit r.n = decide (r.new F.portCfgSplit = 1) ∧ t.rd F.portCfgSplit r.n = r.new F.portCfgSplit)

/-- R422, R425 to R427, R429 to R436: a recording starts in a good range and its entries reach the range; it stops, marks and checks;
a replay checks its journal, supplies and compares its positional entries in order, pauses, stalls and diverges. -/
def Obligations.SketchbookRecordsAndReplays : Prop :=
  ∀ (s : State) (a : Access) (q : RegWriteReq) (p : Nat), p < partCount s.mode → q.n = s.skbIdx p →
    (Writes s a .skbCfg q → q.new F.skbCfgHostData = q.was F.skbCfgHostData → q.new F.skbCfgStallMs = q.was F.skbCfgStallMs →
      (q.was F.skbCfgMode = 0 → q.new F.skbCfgMode = 1 →
        (s.skbStartError p ≠ 0 → ∃ t, exec (.recordStart a) s = .next t ∧ t.rd F.skbStatusError q.n = s.skbStartError p ∧
          t.rd F.skbCfgMode q.n = s.rd F.skbCfgMode q.n ∧ t.rd F.skbStatusState q.n = s.rd F.skbStatusState q.n) ∧
        (s.skbStartError p = 0 → ∃ t e, exec (.recordStart a) s = .next t ∧ t.rd F.skbStatusError q.n = 0 ∧
          t.rd F.skbCfgMode q.n = 1 ∧ t.rd F.skbStatusState q.n = 1 ∧ t.flag F.skbStatusReservedHeld q.n = true ∧
          t.rd F.skbWrittenBytes q.n = 0 ∧ t.rd F.skbNextSeqSeq q.n = 0 ∧ (t.skb p).buf = [e] ∧ e.kind = 1 ∧ e.seq = 0 ∧
          e.ctx = 0xFFFF ∧ e.source = s.mode + p * 4 ∧ (t.skb p).stopping = false)) ∧
      (q.was F.skbCfgMode = 1 → q.new F.skbCfgMode = 0 → s.rd F.skbStatusState q.n = 1 →
        ((s.skb p).buf = [] → ∃ t e, exec (.recordStop a) s = .next t ∧ t.rd F.skbStatusState q.n = 0 ∧ t.rd F.skbCfgMode q.n = 0 ∧
          (t.skb p).buf = [e] ∧ e.kind = 0x0D ∧ e.source = 1 ∧ e.payload = leBytes 8 (s.rd F.skbNextSeqSeq q.n)) ∧
        ((s.skb p).buf ≠ [] → ∃ t, exec (.recordStop a) s = .next t ∧ t.rd F.skbCfgMode q.n = 0 ∧ t.rd F.skbStatusState q.n = 1 ∧
          (t.skb p).stopping = true ∧ (t.skb p).buf = (s.skb p).buf)) ∧
      (q.was F.skbCfgMode = 0 → q.new F.skbCfgMode = 2 →
        (s.skbStartError p ≠ 0 → ∃ t, exec (.replayStart a) s = .next t ∧ t.rd F.skbStatusError q.n = s.skbStartError p ∧
          t.rd F.skbCfgMode q.n = s.rd F.skbCfgMode q.n) ∧
        (s.skbStartError p = 0 → (s.jRead p 0).kind ≠ 1 → ∃ t, exec (.replayStart a) s = .next t ∧ t.rd F.skbStatusError q.n = 4 ∧
          t.rd F.skbCfgMode q.n = s.rd F.skbCfgMode q.n) ∧
        (s.skbStartError p = 0 → (s.jRead p 0).kind = 1 →
          let limit := s.rd F.skbReplayLenBytes q.n
          limit % 32 = 0 → limit ≤ s.skbRange p → (s.jRead p 0).size < limit → s.jWellFormed p limit (limit / 32) 0 0 = true →
          ∃ t, exec (.replayStart a) s = .next t ∧ t.rd F.skbStatusError q.n = 0 ∧ t.rd F.skbCfgMode q.n = 2 ∧
            t.rd F.skbNextSeqSeq q.n = 1 ∧ t.rd F.skbWrittenBytes q.n = (s.jRead p 0).size ∧
            t.rd F.skbStatusState q.n =
              (if s.rd F.skbPauseSeqSeq q.n ≠ 0 ∧ s.rd F.skbPauseSeqSeq q.n ≤ 1 then 3 else 2))) ∧
      (q.was F.skbCfgMode = 2 → q.new F.skbCfgMode = 0 → ∃ t, exec (.replayStop a) s = .next t ∧ t.rd F.skbCfgMode q.n = 0 ∧
        t.rd F.skbStatusState q.n = 0) ∧
      (q.was F.skbCfgMode = 0 → q.new F.skbCfgMode = 0 → q.wrote F.skbCfgRelease = 1 → ∃ t, exec (.skbRelease a) s = .next t ∧
        t.flag F.skbStatusReservedHeld q.n = false)) ∧
    ((s.skb p).stopping = false → exec (.journalFlush p) s = .next ((s.flushBuf p).unstallGroups p)) ∧
    ((s.skb p).stopping = true →
      exec (.journalFlush p) s = .next ((((s.flushBuf p).skbEnd p 1).flushBuf p).unstallGroups p)) ∧
    (∀ e, (s.skb p).buf = [e] → s.rd F.skbWrittenBytes q.n + e.size < 2 ^ 64 → s.rd F.skbNextSeqSeq q.n + 1 < 2 ^ 64 →
      ((s.flushBuf p).skb p).buf = [] ∧ (s.flushBuf p).rd F.skbWrittenBytes q.n = s.rd F.skbWrittenBytes q.n + e.size ∧
      (s.flushBuf p).rd F.skbNextSeqSeq q.n = s.rd F.skbNextSeqSeq q.n + 1 ∧
      (s.flushBuf p).mem = (s.writeMem (s.skbBase p + s.rd F.skbWrittenBytes q.n) e.bytes).mem) ∧
    (Writes s a .skbMark q →
      (s.rd F.skbStatusState q.n = 1 → (s.skb p).stopping = false →
        exec (.skbMark a) s = .next ((s.journal p 0x0B 0xFFFF (q.wrote F.skbMarkValue) []).markPulse p)) ∧
      (s.rd F.skbStatusState q.n ≠ 1 → exec (.skbMark a) s = .next s)) ∧
    (Writes s a .skbCheckAddr q →
      (s.flag F.skbStatusCheckBusy q.n = true → exec (.skbCheck a) s = .next s.accessError) ∧
      (s.flag F.skbStatusCheckBusy q.n = false → ∃ t, exec (.skbCheck a) s = .next t ∧
        t.rd F.skbCheckAddrAddr q.n = q.new F.skbCheckAddrAddr ∧ OnlyRegs [(.skbCheckAddr, q.n)] s t)) ∧
    (∀ n addr, Writes s a .skbCheckLen q → n = q.wrote F.skbCheckLenLength → addr = s.rd F.skbCheckAddrAddr q.n * 8 →
      s.flag F.skbStatusCheckBusy q.n = false → s.rd F.skbStatusState q.n = 1 → (s.skb p).stopping = false → n ≠ 0 →
      (n % 8 ≠ 0 ∨ 0x40000000 < n ∨ s.rangeInMemory p addr n = false → exec (.skbCheck a) s = .next s.accessError) ∧
      (n % 8 = 0 → n ≤ 0x40000000 → s.rangeInMemory p addr n = true → s.openCmds p = [] → ∃ t u : State, exec (.skbCheck a) s = .next t ∧
        t = u.journal p 0x0C 0xFFFF addr (leBytes 8 n ++ leBytes 8 (wordSum 0 (s.readBytes addr n))) ∧
        u.flag F.skbStatusCheckBusy q.n = false ∧ (u.skb p).check = none ∧ u.mem = s.mem)) ∧
    (∀ st, Writes s a .skbPauseSeq q → s.rd F.skbStatusState q.n = st → st = 2 ∨ st = 3 → ∃ t, exec (.replayPauseSeq a) s = .next t ∧
      t.rd F.skbPauseSeqSeq q.n = q.new F.skbPauseSeqSeq ∧ t.rd F.skbStatusState q.n =
        (if q.new F.skbPauseSeqSeq ≠ 0 ∧ q.new F.skbPauseSeqSeq ≤ s.rd F.skbNextSeqSeq q.n then 3 else 2)) ∧
    (s.rd F.skbStatusState q.n = 2 →
      (s.rd F.skbReplayLenBytes q.n ≤ s.rd F.skbWrittenBytes q.n → exec (.replayEntry p) s = .next (s.replayEnd p)) ∧
      (s.rd F.skbWrittenBytes q.n < s.rd F.skbReplayLenBytes q.n →
        let e := s.jRead p (s.rd F.skbWrittenBytes q.n)
        let b := s.jPayload p e
        let w := firstQueue s.mode p + e.source
        (e.kind = 0x02 → s.rd F.qpStatusState w = 1 → s.partState p = 2 → (s.queue w).cmds.length < 256 → s.partInflight p < 16384 →
          exec (.replayEntry p) s = .next ((s.acceptCmd w (b.take 64) (b.drop 64)).replayStep p e)) ∧
        (e.kind = 0x03 → ∃ u : State, exec (.replayEntry p) s = .next (u.replayStep p e) ∧ (s.queueCtx w < 4096 →
          u.reg .ctxFpMode (s.queueCtx w) = BitVec.ofNat 64 (leNat ((b.drop 8).take 8)) ∧
          u.reg .ctxSrSeed (s.queueCtx w) = BitVec.ofNat 64 (leNat ((b.drop 16).take 8)))) ∧
        (e.kind = 0x06 → ∃ u : State, exec (.replayEntry p) s = .next (u.replayStep p e) ∧ ∃ f,
          (u.port (2 * q.n)).rx = (s.port (2 * q.n)).rx ++ [f] ∧ f.part = p ∧ f.slot = e.source / 2 ^ 20 % 4 ∧
          f.src = e.source % 2 ^ 20 ∧ f.pkt = NetPkt.parse b) ∧
        (∀ r, e.kind = 0x0A → (s.skb p).records.find? (fun r => decide (r.1 = e.source) && decide (r.2.take 4 = b.take 4)) = some r →
          let k := s.skb p
          let u := s.setSkb p { k with records := k.records.erase r }
          exec (.replayEntry p) s = .next (if recordKey r.2 = recordKey b then u.replayStep p e else u.diverge p 1 e.seq)) ∧
        (e.kind = 0x0B → exec (.replayEntry p) s = .next ((s.markPulse p).replayStep p e)) ∧
        (e.kind = 0x05 ∨ e.kind = 0x07 ∨ e.kind = 0x08 → exec (.replayEntry p) s = .next (s.replayStep p e)))) ∧
    (∀ cause seq, cause < 16 → seq < 2 ^ 64 → s.rd F.skbStatusState q.n = 2 ∨ s.rd F.skbStatusState q.n = 3 →
      (s.diverge p cause seq).rd F.skbStatusState q.n = 4 ∧ (s.diverge p cause seq).rd F.skbStatusCause q.n = cause ∧
      (s.diverge p cause seq).rd F.skbDivergeSeqSeq q.n = seq) ∧
    (s.rd F.skbStatusState q.n = 2 → (s.skb p).lastUse + s.rd F.skbCfgStallMs q.n * 1000000 ≤ s.now →
      exec (.replayStall p) s = .next (s.diverge p 5 (s.rd F.skbNextSeqSeq q.n)))

/-- R461, R509 to R518, R520: with no root every SPDM request is answered ResponseNotReady; otherwise versions, capabilities and algorithms are
negotiated, certificates and measurements are answered, sessions open, live and close; vendor requests and IDE keys need a finished
session; security associations are installed and removed, and protect the frames of a port; memory encryption gives a context a key. -/
def Obligations.AttestationAndKeys : Prop :=
  ∀ (s : State) (m : Medium) (ch : SpdmChan),
    (s.flag F.fwRootRootValid = false → ∀ i ∈ [Instr.getVersion m, .negotiateAlgorithms m, .getDigests m, .challenge m 0,
        .keyExchange m 0, .getCapabilities m 0x13, .getMeasurements m 1 0 true, .getCertificate m 0 0 1024],
      exec i s = .next (s.send (.message m 5 0x7F [0x42, 20]))) ∧
    (s.flag F.fwRootRootValid = true → (∀ t, s.sec.electionEnd = some t → t ≤ s.now) →
      let c := s.spdmConn m
      (∃ t, exec (.getVersion m) s = .next t ∧ t.spdmConn m = {} ∧ t.sent = s.sent ++ [.message m 5 0x04 [0x12, 0x13]]) ∧
      (∀ v, 0x12 ≤ v → ∃ t, exec (.getCapabilities m v) s = .next t ∧ (t.spdmConn m).caps = true ∧
        (t.spdmConn m).version = (if v < 0x13 then 0x12 else 0x13)) ∧
      (c.caps = true → ∃ t, exec (.negotiateAlgorithms m) s = .next t ∧ t.spdmConn m = { c with algs := true }) ∧
      (c.caps = false → exec (.negotiateAlgorithms m) s = .next (s.send (.message m 5 0x7F [4, 0]))) ∧
      (c.algs = false → ∀ i ∈ [Instr.getDigests m, .getCertificate m 0 0 1024, .challenge m 0, .getMeasurements m 1 0 true,
          .keyExchange m 0], exec i s = .next (s.send (.message m 5 0x7F [4, 0]))) ∧
      (c.algs = true →
        (∀ t, t = { s with freeIdx := s.freeIdx + 1 } →
          exec (.getDigests m) s = .next (t.send (.message m 5 0x01 (3 :: Config.cryptoBytes s.freeIdx))) ∧
          (∀ slot off len, slot ≤ 1 → exec (.getCertificate m slot off len) s = .next
            (t.send (.message m 5 0x02 (BitVec.ofNat 8 slot :: ((Config.cryptoBytes s.freeIdx).drop off).take len)))) ∧
          (∀ slot, slot ≤ 1 → exec (.challenge m slot) s =
            .next (t.send (.message m 5 0x03 (BitVec.ofNat 8 slot :: Config.cryptoBytes s.freeIdx)))) ∧
          (∀ index slot b, slot ≤ 1 → s.measurement index = some b → index ≠ 0 → index ≠ 0xFF →
            exec (.getMeasurements m index slot false) s = .next (s.send (.message m 5 0x60 (BitVec.ofNat 8 index :: b))) ∧
            exec (.getMeasurements m index slot true) s =
              .next (t.send (.message m 5 0x60 ((BitVec.ofNat 8 index :: b) ++ Config.cryptoBytes s.freeIdx))))) ∧
        (∀ slot, 1 < slot → ∀ i ∈ [Instr.getCertificate m slot 0 0, .challenge m slot, .getMeasurements m 1 slot false,
          .keyExchange m slot], exec i s = .next (s.send (.message m 5 0x7F [1, 0]))) ∧
        (∀ slot, slot ≤ 1 → 8 ≤ s.sec.sessions.length → exec (.keyExchange m slot) s = .next (s.send (.message m 5 0x7F [0x0A, 0]))) ∧
        (∀ slot, slot ≤ 1 → s.sec.sessions.length < 8 → ∃ t, exec (.keyExchange m slot) s = .next t ∧
          t.sec.sessions = s.sec.sessions ++ [{ id := s.sec.nextSession, medium := m, beat := s.now }] ∧
          t.sec.nextSession = s.sec.nextSession + 1 ∧ t.rd F.secStatusSessions = s.sec.sessions.length + 1)) ∧
      (∀ x, s.sec.sessions = [x] → x.medium = m →
        (∃ t, exec (.finish x.id) s = .next t ∧ t.sec.sessions = [{ x with finished := true }] ∧
          t.sent = s.sent ++ [.message m 5 0x65 []]) ∧
        (x.finished = true →
          (∃ t, exec (.heartbeat x.id) s = .next t ∧ t.sec.sessions = [{ x with beat := s.now }] ∧
            t.sent = s.sent ++ [.message m 5 0x68 []]) ∧
          (∃ t, exec (.keyUpdate x.id) s = .next t ∧ t.sec.sessions = [{ x with updates := x.updates + 1 }])) ∧
        (x.finished = false → exec (.heartbeat x.id) s = .next (s.send (.message m 5 0x7F [4, 0]))) ∧
        (∃ t, exec (.endSession x.id) s = .next t ∧ t.sec.sessions = [] ∧ t.rd F.secStatusSessions = 0)) ∧
      (ch.medium = m → (∀ x ∈ s.sec.sessions, ¬(some x.id = ch.session ∧ x.medium = m ∧ x.finished = true)) →
        ∀ i ∈ [Instr.getSessionToken ch, .setPolicy ch 0 0 0 0, .query ch, .macsecClearSa ch 0 0 0 0, .keyProg ch 0 0 0, .kSetGo ch 0 0 0,
            .kSetStop ch 0 0 0], exec i s = .next (s.send (.message m 5 0x7F [7, 0]))) ∧
      (ch.medium = m → (∃ x ∈ s.sec.sessions, some x.id = ch.session ∧ x.medium = m ∧ x.finished = true) → m = .doe →
        (∀ k, s.session.token = some k → s.session.spdmRead = false → s.session.loRead = false → s.session.hiRead = false →
          ∃ t, exec (.getSessionToken ch) s = .next t ∧ t.session = { s.session with spdmRead := true } ∧
            t.sent = s.sent ++ [.message m 5 0x7E ([0, 0] ++ leBytes 16 k)]) ∧
        (∀ k, s.session.token = some k → s.session.spdmRead = true ∨ s.session.loRead = true ∨ s.session.hiRead = true →
          exec (.getSessionToken ch) s = .next (s.send (.message m 5 0x7E [1, 0]))) ∧
        (∀ a b c d, a ≤ 1 → b ≤ 1 → c ≤ 1 → d ≤ 1 → ∃ t, exec (.setPolicy ch a b c d) s = .next t ∧
          t.flash.policy = { requireIde := a, bmcCap := b, bmcKeys := c, bmcFwu := d } ∧ t.regs = s.regs) ∧
        (∀ b c d, exec (.setPolicy ch 2 b c d) s = .next (s.send (.message m 5 0x7E [2, 0]))) ∧
        (∀ sa b sub, s.portNumber sa.port = some (b, sub) → sa.an ≤ 3 → sa.suite ≤ 1 →
          let k := (b * 2 + sub) * 4 + sa.an
          let r : MacsecSa := { suite := sa.suite, sci := sa.sci, ssci := sa.ssci, salt := sa.salt, pn := sa.pn, sak := sa.sak }
          (sa.dir = 0 → s.sec.txSa = [] → ∃ t, exec (.macsecSetSa ch sa) s = .next t ∧ t.sec.txSa = [(k, r)] ∧
            t.sent = s.sent ++ [.message m 5 0x7E [0, 0]] ∧
            (exec (.macsecClearSa ch sa.port 0 sa.an sa.sci) t = .next ((({ t with sec := s.sec } : State).refreshSa b).send
              (.message m 5 0x7E [0, 0])))) ∧
          (sa.dir = 1 → s.sec.rxSa = [] → ∃ t, exec (.macsecSetSa ch sa) s = .next t ∧ t.sec.rxSa = [(k, r)])) ∧
        (∀ sa, s.portNumber sa.port = none → exec (.macsecSetSa ch sa) s = .next (s.send (.message m 5 0x7E [2, 0]))) ∧
        (exec (.query ch) s = .next (s.send (.message .doe 5 0x01 [4]))) ∧
        (∀ st k sub, st ≤ 4 → k ≤ 1 → sub ≤ 5 → s.sec.ide = [] →
          (∃ t, exec (.keyProg ch st k sub) s = .next t ∧ t.sec.ide = [{ stream := st, set := k, sub := sub }] ∧
            t.rd F.secIdeStatusSecure = 0 ∧
            ∃ u, exec (.kSetGo ch st k sub) t = .next u ∧ u.sec.ide = [{ stream := st, set := k, sub := sub, go := true }] ∧
              u.rd F.secIdeStatusSecure = 2 ^ st ∧ ∃ v, exec (.kSetStop ch st k sub) u = .next v ∧ v.rd F.secIdeStatusSecure = 0)) ∧
        (∀ k sub, exec (.keyProg ch 5 k sub) s = .next (s.send (.message .doe 5 0x03 [1]))))) ∧
    (∀ st, st < 5 → (s.rd F.secIdeStatusSecure).testBit st = true → ∃ t, exec (.ideCheckFail st) s = .next t ∧
      t.rd F.secIdeStatusCheckFails = min (s.rd F.secIdeStatusCheckFails + 1) 0xFFFF ∧ t.sent = s.sent ++ [.aer 0] ∧
      t.sec.ide = s.sec.ide.filter (fun x => decide (x.stream ≠ st))) ∧
    (∀ a q, Writes s a .portSecCfg q → q.n < 8 → q.new F.portSecCfgTxAnB = q.was F.portSecCfgTxAnB →
      q.new F.portSecCfgTxAnA ≠ q.was F.portSecCfgTxAnA →
      (s.sec.txSa.has (q.n * 8 + q.new F.portSecCfgTxAnA) = true → ∃ t, exec (.macsecTxAnWrite a) s = .next t ∧
        t.rd F.portSecCfgTxAnA q.n = q.new F.portSecCfgTxAnA ∧ t.rd F.portSecStatusPnWarnA q.n = 0 ∧
        t.rd F.portSecStatusPnExhaustedA q.n = 0) ∧
      (s.sec.txSa.has (q.n * 8 + q.new F.portSecCfgTxAnA) = false → ∃ t, exec (.macsecTxAnWrite a) s = .next t ∧
        t.rd F.portSecCfgTxAnA q.n = s.rd F.portSecCfgTxAnA q.n)) ∧
    (∀ b sub f sa an, b < 8 → sub ≤ 1 → f.sub = sub → s.macsecOn b sub = true →
      an = s.rd (if sub = 0 then F.portSecCfgTxAnA else F.portSecCfgTxAnB) b → s.sec.txSa.get? ((b * 2 + sub) * 4 + an) = some sa →
      (sa.pn ≤ sa.lastPn → ∃ t, s.emit b f = t ∧ t.sent = s.sent ++ [.packet b f (some (an, sa.pn))] ∧
        t.sec.txSa.get? ((b * 2 + sub) * 4 + an) = some { sa with pn := sa.pn + 1 }) ∧
      (sa.lastPn < sa.pn → (s.emit b f).sent = s.sent ∧
        (s.emit b f).rd F.portSecDropsTx b = min (s.rd F.portSecDropsTx b + 1) 0xFFFFFFFF)) ∧
    (∀ b (f : Frame) t sa, f.tag = some t → s.sec.rxSa = [((b * 2 + f.sub) * 4 + t.an, sa)] → sa.sci = t.sci →
      (t.icv = false ∨ t.pn + s.rd F.portSecCfgReplayWindow b < sa.pn → s.macsecReceive b f = none) ∧
      (t.icv = true → sa.pn ≤ t.pn + s.rd F.portSecCfgReplayWindow b → ∃ u, s.macsecReceive b f = some u ∧
        u.sec.rxSa = [((b * 2 + f.sub) * 4 + t.an, { sa with pn := max sa.pn (t.pn + 1) })])) ∧
    (∀ a q, Writes s a .ctxMemCrypt q →
      (q.new F.ctxMemCryptEnable = q.was F.ctxMemCryptEnable → exec (.memCryptEnable a) s = .next s) ∧
      (q.new F.ctxMemCryptEnable ≠ q.was F.ctxMemCryptEnable → s.granted q.n = true →
        exec (.memCryptEnable a) s = .next s.accessError) ∧
      (q.new F.ctxMemCryptEnable = 1 → q.was F.ctxMemCryptEnable = 0 → s.granted q.n = false → s.sec.keyWaits = [] →
        ∃ t, exec (.memCryptEnable a) s = .next t ∧ t.flag F.ctxMemCryptEnable q.n = true ∧
          (s.flag F.fwRootRootValid = true → t.flag F.ctxMemCryptKeyReady q.n = true) ∧
          (s.flag F.fwRootRootValid = false → t.sec.keyWaits = [q.n])) ∧
      (q.new F.ctxMemCryptEnable = 0 → q.was F.ctxMemCryptEnable = 1 → s.granted q.n = false →
        ∃ t, exec (.memCryptEnable a) s = .next t ∧ t.flag F.ctxMemCryptEnable q.n = false ∧
          t.flag F.ctxMemCryptKeyReady q.n = false ∧ t.sec.ctxKeys.get? q.n = none))

/-- R501, R506, R521 to R528: MCTP control is answered on both media; a PLDM request is answered not ready without a root; platform readings,
effecters, events and firmware update follow PLDM; SIDE_SIG's function changes by register or effecter, and its pulses follow one another. -/
def Obligations.ManagementCommands : Prop :=
  ∀ (s : State) (m : Medium), m ≠ .doe →
    (∀ eid, eid < 256 → ∃ t, exec (.setEndpointId m eid) s = .next t ∧ t.mgt.eids.get? m.index = some eid ∧
      exec (.getEndpointId m) t = .next (t.send (.message m 0 2 [0, BitVec.ofNat 8 eid]))) ∧
    exec (.getMctpVersionSupport m) s = .next (s.send (.message m 0 4 [0, 1, 0xF1, 0xF3])) ∧
    exec (.getMessageTypeSupport m) s = .next (s.send (.message m 0 5 [0, 0, 1, 5, 6])) ∧
    exec (.getEndpointUuid m) s = .next (s.send (.message m 0 3 (0 :: Config.endpointUuid))) ∧
    (∀ d, exec (.setdasa (0x74 + s.modSt.straps % 4) d) s = .next { s with mgt := { s.mgt with i3cAddr := some d } }) ∧
    (∀ d, s.mgt.i3cAddr = none → exec (.entdaa d) s = .next { s with mgt := { s.mgt with i3cAddr := some d } }) ∧
    (s.flag F.fwRootRootValid = false → ∀ i k, (i, k) ∈ [(Instr.setTid m 1, 1), (.getTid m, 2), (.getPldmVersion m, 3), (.getPldmTypes m, 4),
        (.getPldmCommands m 0, 5), (.getPdrRepositoryInfo m, 0x50), (.getPdr m 1, 0x51), (.getSensorReading m 1, 0x11),
        (.getStateSensorReadings m 0x80, 0x21), (.getNumericEffecterValue m 0x100, 0x32), (.setNumericEffecterValue m 0x100 2000, 0x31),
        (.setStateEffecterStates m 0x102 0, 0x39), (.setEventReceiver m 0, 4), (.getFruRecordTableMetadata m, 1), (.getFruRecordTable m, 2),
        (.requestUpdate m, 0x10), (.getStatus m, 0x1B)] →
      exec i s = .next (s.send (.message m 1 k [4]))) ∧
    (s.flag F.fwRootRootValid = true →
      (∀ tid, tid < 256 → ∃ t, exec (.setTid m tid) s = .next t ∧ t.mgt = { s.mgt with tid := tid } ∧
        exec (.getTid m) t = .next (t.send (.message m 1 2 [0, BitVec.ofNat 8 tid]))) ∧
      (∃ t, exec (.getPldmVersion m) s = .next t ∧ t.regs = s.regs ∧ t.mgt = s.mgt ∧ t.freeIdx = s.freeIdx + 1) ∧
      exec (.getPldmTypes m) s = .next (s.send (.message m 1 4 (0 :: leBytes 8 0x35))) ∧
      exec (.getPldmCommands m 4) s = .next (s.send (.message m 1 5 (0 :: leBytes 32 6))) ∧
      exec (.getPldmCommands m 3) s = .next (s.send (.message m 1 5 [0x83])) ∧
      exec (.getPdrRepositoryInfo m) s = .next (s.send (.message m 1 0x50 (0 :: leBytes 4 50))) ∧
      (∀ id ∈ pdrIds, exec (.getPdr m id) s = .next (s.send (.message m 1 0x51 (0 :: (leBytes 2 id ++ Config.pdrBytes id))))) ∧
      (∀ id, id ∉ pdrIds → exec (.getPdr m id) s = .next (s.send (.message m 1 0x51 [0x82]))) ∧
      (∀ id v, s.sensorReading id = some v →
        exec (.getSensorReading m id) s = .next (s.send (.message m 1 0x11 (0 :: leBytes 4 (toUnsigned 32 v))))) ∧
      exec (.getSensorReading m 0x50) s = .next (s.send (.message m 1 0x11 [0x80])) ∧
      (∀ p < 4, exec (.getStateSensorReadings m (0x82 + p)) s = .next (s.send (.message m 1 0x21 (0 :: leBytes 1 (s.partState p))))) ∧
      exec (.getNumericEffecterValue m 0x100) s = .next (s.send (.message m 1 0x32 (0 :: leBytes 2 (s.rd F.pwrCapCapW)))) ∧
      exec (.getNumericEffecterValue m 0x101) s = .next (s.send (.message m 1 0x32 (0 :: leBytes 2 (s.rd F.pwrCapWindowMs)))) ∧
      (∀ v, s.rd F.mgtCfgBmcCap = 0 → exec (.setNumericEffecterValue m 0x100 v) s = .next (s.send (.message m 1 0x31 [5]))) ∧
      (∀ v, s.rd F.mgtCfgBmcCap = 1 →
        (1800 ≤ v → v ≤ 5400 → ∃ t, exec (.setNumericEffecterValue m 0x100 v) s = .next t ∧ t.rd F.pwrCapCapW = v ∧
          t.rd F.pwrCapWindowMs = s.rd F.pwrCapWindowMs ∧ t.sent = s.sent ++ [.message m 1 0x31 [0]]) ∧
        (v < 1800 ∨ 5400 < v → exec (.setNumericEffecterValue m 0x100 v) s = .next (s.send (.message m 1 0x31 [2]))) ∧
        (1000 ≤ v → v ≤ 10000 → ∃ t, exec (.setNumericEffecterValue m 0x101 v) s = .next t ∧ t.rd F.pwrCapWindowMs = v ∧
          t.rd F.pwrCapCapW = s.rd F.pwrCapCapW)) ∧
      (∀ eid, ∃ t, exec (.setEventReceiver m eid) s = .next t ∧ t.mgt = { s.mgt with receiver := some (m, eid) }) ∧
      exec (.getFruRecordTableMetadata m) s = .next (s.send (.message m 1 1 (0 :: leBytes 4 Config.fruBytes.length))) ∧
      exec (.getFruRecordTable m) s = .next (s.send (.message m 1 2 (0 :: Config.fruBytes))) ∧
      (s.rd F.mgtCfgBmcFwu = 0 → ∀ i k, (i, k) ∈ [(Instr.requestUpdate m, 0x10), (.passComponentTable m [], 0x13),
          (.activateFirmware m, 0x1A), (.getStatus m, 0x1B), (.cancelUpdateComponent m, 0x1C), (.cancelUpdate m, 0x1D),
          (.updateComponent m 0 [] true true, 0x14)] → exec i s = .next (s.send (.message m 1 k [5]))) ∧
      (s.rd F.mgtCfgBmcFwu = 1 →
        exec (.getStatus m) s = .next (s.send (.message m 1 0x1B (0 :: (leBytes 1 (s.rd F.fwuStatusState) ++
          leBytes 1 (s.rd F.fwuStatusResult))))) ∧
        (s.rd F.fwuStatusState = 0 ∨ s.rd F.fwuStatusState = 2 → ∃ t, exec (.requestUpdate m) s = .next t ∧
          t.mgt.update = some { medium := m } ∧ t.rd F.fwuStatusState = 1 ∧ t.sent = s.sent ++ [.message m 1 0x10 [0]]) ∧
        (s.rd F.fwuStatusState = 1 → exec (.requestUpdate m) s = .next (s.send (.message m 1 0x10 [0x81]))) ∧
        (s.mgt.update = none → ∀ i k, (i, k) ∈ [(Instr.passComponentTable m [], 0x13), (.activateFirmware m, 0x1A),
            (.cancelUpdateComponent m, 0x1C), (.cancelUpdate m, 0x1D), (.updateComponent m 0 [] true true, 0x14)] →
          exec i s = .next (s.send (.message m 1 k [0x80]))) ∧
        (∀ u, s.mgt.update = some u →
          (∀ l, (∀ t ∈ l, t ≤ 5) → ∃ t, exec (.passComponentTable m l) s = .next t ∧ t.mgt.update = some { u with table := l } ∧
            t.sent = s.sent ++ [.message m 1 0x13 [0]]) ∧
          (∀ l, (∃ t ∈ l, 5 < t) → exec (.passComponentTable m l) s = .next (s.send (.message m 1 0x13 [2]))) ∧
          (∀ ty image d g, ty ∈ u.table → u.current = none →
            let i := parseImage (fun o n => leNat ((image.drop o).take n)) ty image.length
            (∀ e, s.stageCheck i d g = .error e → ∃ t, exec (.updateComponent m ty image d g) s = .next t ∧ t.staging = s.staging ∧
              t.rd F.fwuStatusResult = e % 256 ∧ t.mgt = s.mgt) ∧
            (∀ j, s.stageCheck i d g = .ok j → ∃ t x, exec (.updateComponent m ty image d g) s = .next t ∧ t.staging = some x ∧
              x.image = j ∧ x.doneAt = s.now + 25 * image.length ∧ x.pldm = true ∧ t.mgt.update = some { u with current := some ty })) ∧
          (u.current ≠ none → exec (.activateFirmware m) s = .next (s.send (.message m 1 0x1A [2]))) ∧
          (u.current = none → ∃ (t : State) (w : Word), exec (.activateFirmware m) s = .next ((t.activateRequest w true).send (.message m 1 0x1A [0])) ∧
            t.mgt.update = none ∧ w.bits 3 0 = 2 ^ partCount s.mode - 1 ∧
            (∀ k < 6, w.getLsbD (4 + k) = decide (k ∈ u.done)) ∧ w.getLsbD 10 = decide (5 ∈ u.done)) ∧
          (∃ t, exec (.cancelUpdateComponent m) s = .next t ∧ t.mgt.update = some { u with current := none } ∧
            ∀ x, s.staging = some x → t.staging = if x.pldm = true then none else some x) ∧
          (∃ t, exec (.cancelUpdate m) s = .next t ∧ t.mgt.update = none ∧
            t.rd F.fwuStatusState = (if s.flash.staged = [] then 0 else 2)))) ∧
      (∀ st, 3 < st → exec (.setStateEffecterStates m 0x102 st) s = .next (s.send (.message m 1 0x39 [2]))) ∧
      (exec (.setStateEffecterStates m 0x101 0) s = .next (s.send (.message m 1 0x39 [0x80]))) ∧
      (∀ u, s.sideWrite 0 (s.rd F.mgtSideCfgLevel) (s.rd F.mgtSideCfgPart) = (u, true) →
        exec (.setStateEffecterStates m 0x102 0) s = .next (u.send (.message m 1 0x39 [0])))) ∧
    (∀ a q f, Writes s a .mgtSideCfg q → q.covers F.mgtSideCfgFunc = true → f = q.new F.mgtSideCfgFunc →
      (f = 2 → partCount s.mode ≤ q.new F.mgtSideCfgPart → exec (.sideCfgWrite a) s = .next s.accessError) ∧
      (f = 3 ∨ f = 2 ∧ q.new F.mgtSideCfgPart < partCount s.mode → s.rd F.mgtSideCfgFunc = 1 →
        ∃ t, exec (.sideCfgWrite a) s = .next t ∧ t.rd F.mgtSideCfgResult = 1 ∧ t.rd F.mgtSideCfgFunc = 1) ∧
      (f ≤ 1 ∨ f = 3 ∧ s.rd F.mgtSideCfgFunc ≠ 1 → ∃ t, exec (.sideCfgWrite a) s = .next t ∧ t.rd F.mgtSideCfgFunc = f ∧
        t.rd F.mgtSideCfgLevel = q.new F.mgtSideCfgLevel ∧ t.rd F.mgtSideCfgPart = q.new F.mgtSideCfgPart ∧
        t.rd F.mgtSideCfgResult = (if f = 1 ∧ 2 ≤ s.rd F.mgtSideCfgFunc then 2 else 0))) ∧
    (∀ p, s.rd F.mgtSideCfgFunc = 2 → s.rd F.mgtSideCfgPart = p →
      (s.mgt.pulseEnd = none → s.mgt.gapEnd = none → (s.markPulse p).mgt.pulseEnd = some (s.now + 1000)) ∧
      (s.mgt.pulseEnd ≠ none → s.rd F.mgtSideStatusQueued < 16 →
        (s.markPulse p).rd F.mgtSideStatusQueued = s.rd F.mgtSideStatusQueued + 1) ∧
      (s.mgt.pulseEnd ≠ none → 16 ≤ s.rd F.mgtSideStatusQueued →
        (s.markPulse p).rd F.mgtSideStatusMissed = min (s.rd F.mgtSideStatusMissed + 1) 0xFFFF)) ∧
    (∀ t, s.mgt.pulseEnd = some t → t ≤ s.now → ∃ u, exec .sidePulseEnd s = .next u ∧ u.mgt.pulseEnd = none ∧
      u.mgt.gapEnd = some (t + 1000)) ∧
    (∀ t, s.mgt.pulseEnd = none → s.mgt.gapEnd = some t → t ≤ s.now →
      (s.rd F.mgtSideStatusQueued = 0 → exec .sidePulseEnd s = .next { s with mgt := { s.mgt with gapEnd := none } }) ∧
      (0 < s.rd F.mgtSideStatusQueued → ∃ u, exec .sidePulseEnd s = .next u ∧ u.mgt.pulseEnd = some (s.now + 1000) ∧
        u.rd F.mgtSideStatusQueued = s.rd F.mgtSideStatusQueued - 1)) ∧
    (∀ r image i, r < 4 → s.rd F.secStatusBoot 0 r = 3 → (s.fwCores.getD (3 * r) {}).recovery = none → s.fwWaits = [] →
      parseImage (fun o n => leNat ((image.drop o).take n)) 0 image.length = some i →
      (s.slotsGood i = true → s.flash.minSvn.getD 0 0 ≤ i.svn → ∃ t : State, exec (.recoveryImage r image true true) s = .next t ∧
        t.flash.images = s.flash.images ∧ (t.fwCores.getD (3 * r) {}).recovery = some i) ∧
      (i.svn < s.flash.minSvn.getD 0 0 → exec (.recoveryImage r image true true) s = .next s))

/-- A step takes the command at the front of the queue and carries it out on the state with the queue's rest; on an empty queue one
nanosecond of the timebase passes and no command acts (the tick is the model's DESIGN CHOICE, assumption 2). -/
def Obligations.FrontCommandSteps : Prop :=
  (∀ (c : Instr) (s : State), step { s with pending := c :: s.pending } = exec c s) ∧
  (∀ (c : Instr) (s : State) (rest : List Instr), s.pending = c :: rest → step s = exec c { s with pending := rest }) ∧
  (∀ s : State, s.pending = [] → ∃ t, step s = .next t ∧ t.now = s.now + 1 ∧ t.pending = [] ∧ t.mem = s.mem ∧ t.regs = s.regs ∧
    t.sent = s.sent)

/-- R19, R37, R38: what a reset leaves: registers at their Reset column, memory zero and in its canonical form, an empty queue. The
state of the module's pins and of its fuses is the model's choice (assumptions 1 and 4), and nothing here rests on it. -/
def Obligations.ResetValues : Prop :=
  Memory.wf State.reset = true ∧ State.reset.pending = [] ∧ State.reset.sent = [] ∧ State.reset.queues = [] ∧ State.reset.tasks = [] ∧
  (∀ x, State.reset.readByte x = 0 ∧ State.reset.poisoned x 1 = false) ∧
  (∀ r n, State.reset.reg r n = r.reset n) ∧
  (∀ n < 4, State.reset.rd F.skbCfgMode n = 0 ∧ State.reset.rd F.skbCfgHostData n = 1 ∧ State.reset.rd F.skbCfgStallMs n = 100 ∧
    State.reset.rd F.regPwrCfgVsetMv n = 750 ∧ State.reset.rd F.regPwrCfgStaticHaze n = 256 ∧ State.reset.rd F.regPwrCfgGain n = 8 ∧
    State.reset.rd F.netCfgFletusPort n = 0xC10E ∧ State.reset.rd F.netCfgRtoUs n = 40 ∧ State.reset.rd F.regXfrBaseLog2Records n = 8) ∧
  (∀ n < 8, State.reset.rd F.portCfgPfcEn n = 1 ∧ State.reset.rd F.portCfgPfcMask n = 0x18 ∧ State.reset.rd F.portCfgPrioRoce n = 3 ∧
    State.reset.rd F.portCfgPrioFletus n = 4) ∧
  (∀ n < 4096, State.reset.rd F.ctxFaultRingLog2Records n = 6 ∧ State.reset.rd F.ctxDrainCfgStudyWidth n = 1 ∧
    State.reset.rd F.ctxPtCtlRing n = 1) ∧
  (∀ n < 32768, State.reset.rd F.qpCfgLog2Sq n = 6 ∧ State.reset.rd F.qpCfgLog2Cq n = 6 ∧ State.reset.rd F.qpDlbCtlEnable n = 1 ∧
    State.reset.rd F.qpStatusState n = 0) ∧
  State.reset.rd F.pwrCapCapW = 4600 ∧ State.reset.rd F.pwrCapWindowMs = 2000 ∧ State.reset.rd F.mgtSideCfgFunc = 1 ∧
  State.reset.rd F.mgtCfgBmcCap = 1 ∧ State.reset.rd F.mgtCfgBmcKeys = 0 ∧ State.reset.rd F.mgtCfgBmcFwu = 1 ∧
  State.reset.rd F.hifHostRidCheck = 1

/-- The canonical form of memory is kept by every step: addresses strictly rising, no entry equal to what an unlisted address reads as, in any
state that has it. -/
def Obligations.StepKeepsMemoryCanonical : Prop :=
  ∀ s t : State, Memory.wf s = true → step s = .next t → Memory.wf t = true

/-- No command of the table ends a run: from every state a step goes on to a next state, since every error of this part is an effect on its
state (an event, a status, a record, a stopped partition). -/
def Obligations.EveryStepGoesOn : Prop := ∀ s : State, s.safe ∧ ∀ c : Instr, ∃ t, exec c s = .next t
end

