-- ==== Sys2Proof/Laws/RegMap.lean ====
section
/-! SUPPORT. The register map is one to one: a register is read back from its address, and an address names one register. -/

namespace Sys2Proof.Machine

open Sys2Proof.Claims

theorem findReg_some {o k : Nat} {r : Reg} {l : List Reg} (h : findReg o l = some (r, k)) :
    r ∈ l ∧ r.place.off + k * r.place.stride = o ∧ k < r.place.count := by
  induction l with
  | nil => cases h
  | cons b l ih =>
    unfold findReg at h
    dsimp only at h
    split at h
    · rename_i hc
      cases h
      refine ⟨List.mem_cons_self, ?_, hc.2.2⟩
      have := Nat.div_add_mod (o - r.place.off) r.place.stride
      rw [hc.2.1, Nat.mul_comm] at this
      omega
    · obtain ⟨h1, h2⟩ := ih h; exact ⟨List.mem_cons_of_mem _ h1, h2⟩

theorem Block.regs_block (b : Block) : ∀ r ∈ b.regs, r.place.block = b := by
  cases b <;> decide

theorem ite_some_cases {α : Type} {c : Prop} [Decidable c] {x y : α} {e : Option α} (h : (if c then some x else e) = some y) :
    (c ∧ x = y) ∨ (¬c ∧ e = some y) := by
  by_cases hc : c
  · rw [if_pos hc] at h; exact .inl ⟨hc, Option.some.inj h⟩
  · rw [if_neg hc] at h; exact .inr ⟨hc, h⟩

theorem ite_none_cases {α : Type} {c : Prop} [Decidable c] {y : α} {e : Option α} (h : (if c then none else e) = some y) :
    ¬c ∧ e = some y := by
  by_cases hc : c
  · rw [if_pos hc] at h; cases h
  · rw [if_neg hc] at h; exact ⟨hc, h⟩

theorem ite_else_none_cases {α : Type} {c : Prop} [Decidable c] {y : α} {e : Option α} (h : (if c then e else none) = some y) :
    c ∧ e = some y := by
  by_cases hc : c
  · rw [if_pos hc] at h; exact ⟨hc, h⟩
  · rw [if_neg hc] at h; cases h

theorem ite_cases {α : Type} {c : Prop} [Decidable c] {y : α} {d e : Option α} (h : (if c then d else e) = some y) :
    (c ∧ d = some y) ∨ (¬c ∧ e = some y) := by
  by_cases hc : c
  · rw [if_pos hc] at h; exact .inl ⟨hc, h⟩
  · rw [if_neg hc] at h; exact .inr ⟨hc, h⟩

theorem blockOf_base {a i o : Nat} {b : Block} (h : blockOf a = some (b, i, o)) : b.base i + o = a := by
  unfold blockOf at h
  obtain ⟨hc, he⟩ | ⟨h_dev, h⟩ := ite_some_cases h
  · cases he; simp only [Block.base]; omega
  obtain ⟨hc, he⟩ | ⟨h_hif, h⟩ := ite_some_cases h
  · cases he; simp only [Block.base]; omega
  obtain ⟨hc, he⟩ | ⟨h_hwt, h⟩ := ite_some_cases h
  · cases he; simp only [Block.base]; omega
  obtain ⟨hc, he⟩ | ⟨h_awt, h⟩ := ite_some_cases h
  · cases he; simp only [Block.base]; omega
  obtain ⟨hc, he⟩ | ⟨h_tb, h⟩ := ite_some_cases h
  · cases he; simp only [Block.base]; omega
  obtain ⟨hc, he⟩ | ⟨h_pwr, h⟩ := ite_some_cases h
  · cases he; simp only [Block.base]; omega
  obtain ⟨hc, he⟩ | ⟨h_fw, h⟩ := ite_some_cases h
  · cases he; simp only [Block.base]; omega
  obtain ⟨hc, he⟩ | ⟨h_ras, h⟩ := ite_some_cases h
  · cases he; simp only [Block.base]; omega
  obtain ⟨hc, he⟩ | ⟨h_cal, h⟩ := ite_some_cases h
  · cases he; simp only [Block.base]; omega
  obtain ⟨hc, he⟩ | ⟨h_sec, h⟩ := ite_some_cases h
  · cases he; simp only [Block.base]; omega
  obtain ⟨hc, he⟩ | ⟨h_mgt, h⟩ := ite_some_cases h
  · cases he; simp only [Block.base]; omega
  obtain ⟨h1, h⟩ := ite_none_cases h
  obtain ⟨hc, he⟩ | ⟨h2, h⟩ := ite_some_cases h
  · cases he; simp only [Block.base]; omega
  obtain ⟨hc, he⟩ | ⟨h3, h⟩ := ite_some_cases h
  · cases he; simp only [Block.base]; omega
  obtain ⟨h4, h⟩ := ite_none_cases h
  obtain ⟨h5, h⟩ := ite_else_none_cases h
  clear h1 h2 h3 h_dev h_hif h_hwt h_awt h_tb h_pwr h_fw h_ras h_cal h_sec h_mgt
  dsimp only at h
  obtain ⟨hc, he⟩ | ⟨g1, h⟩ := ite_some_cases h
  · cases he; simp only [Block.base, regionBase]; omega
  obtain ⟨hc, he⟩ | ⟨g2, h⟩ := ite_some_cases h
  · cases he; simp only [Block.base, regionBase]; omega
  obtain ⟨g3, h⟩ := ite_none_cases h
  obtain ⟨hc, he⟩ | ⟨g4, h⟩ := ite_some_cases h
  · cases he; simp only [Block.base, regionBase]; omega
  obtain ⟨hc, he⟩ | ⟨g5, h⟩ := ite_some_cases h
  · cases he; simp only [Block.base, regionBase]; omega
  obtain ⟨g6, h⟩ := ite_none_cases h
  obtain ⟨hc, he⟩ | ⟨g7, h⟩ := ite_some_cases h
  · cases he; simp only [Block.base, regionBase]; omega
  obtain ⟨g8, h⟩ := ite_none_cases h
  obtain ⟨g9, h⟩ := ite_else_none_cases h
  clear g1 g2 g3 g4 g5 g6 g7
  obtain ⟨k0, h⟩ | ⟨k0, h⟩ := ite_cases h
  · obtain ⟨hc, he⟩ | ⟨m1, h⟩ := ite_some_cases h
    · cases he; simp only [Block.base, clusterBase, canvasBase, regionBase]; omega
    obtain ⟨hc, he⟩ | ⟨m2, h⟩ := ite_some_cases h
    · cases he; simp only [Block.base, clusterBase, canvasBase, regionBase]; omega
    obtain ⟨m3, h⟩ := ite_none_cases h
    obtain ⟨hc, he⟩ | ⟨m4, h⟩ := ite_some_cases h
    · cases he; simp only [Block.base, clusterBase, canvasBase, regionBase]; omega
    obtain ⟨m5, h⟩ := ite_none_cases h
    obtain ⟨hc, he⟩ | ⟨m6, h⟩ := ite_some_cases h
    · cases he; simp only [Block.base, clusterBase, canvasBase, regionBase]; omega
    obtain ⟨m7, h⟩ := ite_none_cases h
    obtain ⟨hc, he⟩ := ite_else_none_cases h
    cases he; simp only [Block.base, clusterBase, canvasBase, regionBase]; omega
  · obtain ⟨hc, he⟩ := ite_else_none_cases h
    cases he; simp only [Block.base, canvasBase, regionBase]; omega

/-- A register's address names it. -/
theorem addr_of_regAt {a n : Nat} {r : Reg} (h : regAt a = some (r, n)) : r.addr n = a := by
  unfold regAt at h
  match hb : blockOf a with
  | none => rw [hb] at h; cases h
  | some (b, i, o) =>
    rw [hb] at h
    dsimp only at h
    match hf : findReg o b.regs with
    | none => rw [hf] at h; cases h
    | some (r', k) =>
      rw [hf] at h; cases h
      obtain ⟨h1, h2, h3⟩ := findReg_some hf
      have h4 := blockOf_base hb
      unfold Reg.addr
      dsimp only
      rw [b.regs_block r h1, Nat.mul_comm i, Nat.mul_add_div (by omega), Nat.mul_add_mod, Nat.div_eq_of_lt h3, Nat.mod_eq_of_lt h3]
      simp only [Nat.add_zero]
      omega

theorem isReg_of_regAt {a n : Nat} {r : Reg} (h : regAt a = some (r, n)) : IsReg r n := by
  unfold IsReg; rw [addr_of_regAt h, h]
/-- Two registers of a block take no offset together: their ranges are apart, or they interleave at one stride. -/
def Reg.apart (r q : Reg) : Prop :=
  r.place.off + (r.place.count - 1) * r.place.stride < q.place.off ∨ q.place.off + (q.place.count - 1) * q.place.stride < r.place.off ∨
    (r.place.stride = q.place.stride ∧ r.place.off % r.place.stride ≠ q.place.off % r.place.stride)

theorem Block.regs_apart (b : Block) : b.regs.Pairwise Reg.apart := by
  unfold Reg.apart; cases b <;> decide +kernel

theorem Reg.place_pos (r : Reg) : 0 < r.place.stride ∧ 0 < r.place.count := by cases r <;> decide

theorem Reg.mem_regs (r : Reg) : r ∈ r.place.block.regs := by cases r <;> decide

theorem Reg.apart_not_hit {r q : Reg} (h : r.apart q) {k : Nat} (hk : k < q.place.count) :
    ¬(r.place.off ≤ q.place.off + k * q.place.stride ∧ (q.place.off + k * q.place.stride - r.place.off) % r.place.stride = 0 ∧
      (q.place.off + k * q.place.stride - r.place.off) / r.place.stride < r.place.count) := by
  rintro ⟨h1, h2, h3⟩
  have hs := r.place_pos
  rcases h with h | h | ⟨h, hne⟩
  · have h4 : (q.place.off + k * q.place.stride - r.place.off) / r.place.stride ≤ r.place.count - 1 := by omega
    have h5 := Nat.div_add_mod (q.place.off + k * q.place.stride - r.place.off) r.place.stride
    rw [h2, Nat.mul_comm] at h5
    have h6 := Nat.mul_le_mul_right r.place.stride h4
    omega
  · have h4 : k ≤ q.place.count - 1 := by omega
    have h6 := Nat.mul_le_mul_right q.place.stride h4
    omega
  · apply hne
    have h5 : (q.place.off + k * q.place.stride) % r.place.stride = r.place.off % r.place.stride := by
      have : q.place.off + k * q.place.stride = r.place.off + (q.place.off + k * q.place.stride - r.place.off) := by omega
      rw [this, Nat.add_mod, h2]; simp
    rw [← h5, ← h, Nat.add_mul_mod_self_right]

theorem findReg_of_apart {l : List Reg} (hp : l.Pairwise Reg.apart) {r : Reg} (hr : r ∈ l) {k : Nat} (hk : k < r.place.count) :
    findReg (r.place.off + k * r.place.stride) l = some (r, k) := by
  induction l with
  | nil => cases hr
  | cons q l ih =>
    unfold findReg
    dsimp only
    by_cases hq : q = r
    · subst hq
      have : q.place.off + k * q.place.stride - q.place.off = k * q.place.stride := by omega
      rw [this, Nat.mul_mod_left, Nat.mul_div_cancel _ q.place_pos.1, if_pos ⟨by omega, rfl, hk⟩]
    · have hm : r ∈ l := by
        rcases List.mem_cons.1 hr with h | h
        · exact absurd h.symm hq
        · exact h
      rw [if_neg (Reg.apart_not_hit ((List.pairwise_cons.1 hp).1 r hm) hk), ih (List.pairwise_cons.1 hp).2 hm]

/-- The size of a block's window. -/
def Block.window : Block → Nat
  | .hwt => 0x20000
  | .ctx | .mxu | .sch | .cnt => 0x1000
  | .qp => 0x40
  | .reg => 0x100000
  | .clu => 0x80000
  | .l2 => 0x100000
  | _ => 0x10000

theorem Reg.inWindow (r : Reg) : r.place.off + (r.place.count - 1) * r.place.stride < r.place.block.window := by
  cases r <;> decide

/-- What a cluster's window holds, by the offset in it. -/
theorem blockOf_cluster {r t m u : Nat} (hr : r < 4) (ht : t < 3) (hm : m < 12) (hu : u < 0x100000) :
    blockOf (regionBase r + 0x4000000 + t * 0x1000000 + m * 0x100000 + u) =
      let k := (r * 3 + t) * 12 + m
      if u < 0x80000 then some (.clu, k, u)
      else if u < 0x88000 then some (.mxu, k * 8 + (u - 0x80000) / 0x1000, u % 0x1000)
      else if u < 0x90000 then none
      else if u < 0x98000 then some (.sch, k * 8 + (u - 0x90000) / 0x1000, u % 0x1000)
      else if u < 0xA0000 then none
      else if u < 0xA8000 then some (.cnt, k * 8 + (u - 0xA0000) / 0x1000, u % 0x1000)
      else if u < 0xB0000 then none
      else if u < 0xC0000 then some (.xlt, k, u - 0xB0000)
      else none := by
  unfold regionBase
  generalize ha : 0x10000000 * (1 + r) + 0x4000000 + t * 0x1000000 + m * 0x100000 + u = a
  have h1 : a / 0x10000000 - 1 = r := by omega
  have h2 : a % 0x10000000 = 0x4000000 + t * 0x1000000 + m * 0x100000 + u := by omega
  unfold blockOf
  rw [if_neg (by omega), if_neg (by omega), if_neg (by omega), if_neg (by omega), if_neg (by omega), if_neg (by omega), if_neg (by omega), if_neg (by omega), if_neg (by omega), if_neg (by omega), if_neg (by omega), if_neg (by omega), if_neg (by omega), if_neg (by omega), if_neg (by omega), if_pos (by omega)]
  dsimp only
  rw [h1, h2]
  have h3 : (0x4000000 + t * 0x1000000 + m * 0x100000 + u - 0x4000000) / 0x1000000 = t := by omega
  have h4 : (0x4000000 + t * 0x1000000 + m * 0x100000 + u) % 0x1000000 = m * 0x100000 + u := by omega
  have h5 : (m * 0x100000 + u) / 0x100000 = m := by omega
  have h6 : (m * 0x100000 + u) % 0x100000 = u := by omega
  rw [if_neg (by omega), if_neg (by omega), if_neg (by omega), if_neg (by omega), if_neg (by omega), if_neg (by omega), if_neg (by omega), if_neg (by omega), if_pos (by omega), h3, h4, if_pos (by omega), h5, h6]

theorem clusterBase_eq {i : Nat} (hi : i < 144) : ∃ r t m, r < 4 ∧ t < 3 ∧ m < 12 ∧ i = (r * 3 + t) * 12 + m ∧
    clusterBase i = regionBase r + 0x4000000 + t * 0x1000000 + m * 0x100000 :=
  ⟨i / 12 / 3, i / 12 % 3, i % 12, by omega, by omega, by omega, by omega, rfl⟩

theorem blockOf_of_base (b : Block) {i o : Nat} (hi : i < b.count) (ho : o < b.window) : blockOf (b.base i + o) = some (b, i, o) := by
  cases b <;> simp only [Block.count, Block.window] at hi ho <;>
    simp only [Block.base]
  · unfold blockOf; rw [if_pos (by omega)]
    simp only [Option.some.injEq, Prod.mk.injEq, true_and]; omega
  · unfold blockOf; rw [if_neg (by omega), if_pos (by omega)]
    simp only [Option.some.injEq, Prod.mk.injEq, true_and]; omega
  · unfold blockOf; rw [if_neg (by omega), if_neg (by omega), if_pos (by omega)]
    simp only [Option.some.injEq, Prod.mk.injEq, true_and]; omega
  · unfold blockOf; rw [if_neg (by omega), if_neg (by omega), if_neg (by omega), if_pos (by omega)]
    simp only [Option.some.injEq, Prod.mk.injEq, true_and]; omega
  · unfold blockOf; rw [if_neg (by omega), if_neg (by omega), if_neg (by omega), if_neg (by omega), if_pos (by omega)]
    simp only [Option.some.injEq, Prod.mk.injEq, true_and]; omega
  · unfold blockOf; rw [if_neg (by omega), if_neg (by omega), if_neg (by omega), if_neg (by omega), if_neg (by omega), if_pos (by omega)]
    simp only [Option.some.injEq, Prod.mk.injEq, true_and]; omega
  · unfold blockOf; rw [if_neg (by omega), if_neg (by omega), if_neg (by omega), if_neg (by omega), if_neg (by omega), if_neg (by omega), if_pos (by omega)]
    simp only [Option.some.injEq, Prod.mk.injEq, true_and]; omega
  · unfold blockOf; rw [if_neg (by omega), if_neg (by omega), if_neg (by omega), if_neg (by omega), if_neg (by omega), if_neg (by omega), if_neg (by omega), if_pos (by omega)]
    simp only [Option.some.injEq, Prod.mk.injEq, true_and]; omega
  · unfold blockOf; rw [if_neg (by omega), if_neg (by omega), if_neg (by omega), if_neg (by omega), if_neg (by omega), if_neg (by omega), if_neg (by omega), if_neg (by omega), if_pos (by omega)]
    simp only [Option.some.injEq, Prod.mk.injEq, true_and]; omega
  · unfold blockOf; rw [if_neg (by omega), if_neg (by omega), if_neg (by omega), if_neg (by omega), if_neg (by omega), if_neg (by omega), if_neg (by omega), if_neg (by omega), if_neg (by omega), if_pos (by omega)]
    simp only [Option.some.injEq, Prod.mk.injEq, true_and]; omega
  · unfold blockOf; rw [if_neg (by omega), if_neg (by omega), if_neg (by omega), if_neg (by omega), if_neg (by omega), if_neg (by omega), if_neg (by omega), if_neg (by omega), if_neg (by omega), if_neg (by omega), if_pos (by omega)]
    simp only [Option.some.injEq, Prod.mk.injEq, true_and]; omega
  · unfold blockOf; rw [if_neg (by omega), if_neg (by omega), if_neg (by omega), if_neg (by omega), if_neg (by omega), if_neg (by omega), if_neg (by omega), if_neg (by omega), if_neg (by omega), if_neg (by omega), if_neg (by omega), if_neg (by omega), if_pos (by omega)]
    simp only [Option.some.injEq, Prod.mk.injEq, true_and]; omega
  · unfold blockOf; rw [if_neg (by omega), if_neg (by omega), if_neg (by omega), if_neg (by omega), if_neg (by omega), if_neg (by omega), if_neg (by omega), if_neg (by omega), if_neg (by omega), if_neg (by omega), if_neg (by omega), if_neg (by omega), if_neg (by omega), if_pos (by omega)]
    simp only [Option.some.injEq, Prod.mk.injEq, true_and]; omega
  · unfold regionBase blockOf; dsimp only; rw [if_neg (by omega), if_neg (by omega), if_neg (by omega), if_neg (by omega), if_neg (by omega), if_neg (by omega), if_neg (by omega), if_neg (by omega), if_neg (by omega), if_neg (by omega), if_neg (by omega), if_neg (by omega), if_neg (by omega), if_neg (by omega), if_neg (by omega), if_pos (by omega), if_pos (by omega)]
    simp only [Option.some.injEq, Prod.mk.injEq, true_and]; omega
  · unfold regionBase blockOf; dsimp only; rw [if_neg (by omega), if_neg (by omega), if_neg (by omega), if_neg (by omega), if_neg (by omega), if_neg (by omega), if_neg (by omega), if_neg (by omega), if_neg (by omega), if_neg (by omega), if_neg (by omega), if_neg (by omega), if_neg (by omega), if_neg (by omega), if_neg (by omega), if_pos (by omega), if_neg (by omega), if_pos (by omega)]
    simp only [Option.some.injEq, Prod.mk.injEq, true_and]; omega
  · unfold regionBase blockOf; dsimp only; rw [if_neg (by omega), if_neg (by omega), if_neg (by omega), if_neg (by omega), if_neg (by omega), if_neg (by omega), if_neg (by omega), if_neg (by omega), if_neg (by omega), if_neg (by omega), if_neg (by omega), if_neg (by omega), if_neg (by omega), if_neg (by omega), if_neg (by omega), if_pos (by omega), if_neg (by omega), if_neg (by omega), if_neg (by omega), if_pos (by omega)]
    simp only [Option.some.injEq, Prod.mk.injEq, true_and]; omega
  · unfold regionBase blockOf; dsimp only; rw [if_neg (by omega), if_neg (by omega), if_neg (by omega), if_neg (by omega), if_neg (by omega), if_neg (by omega), if_neg (by omega), if_neg (by omega), if_neg (by omega), if_neg (by omega), if_neg (by omega), if_neg (by omega), if_neg (by omega), if_neg (by omega), if_neg (by omega), if_pos (by omega), if_neg (by omega), if_neg (by omega), if_neg (by omega), if_neg (by omega), if_pos (by omega)]
    simp only [Option.some.injEq, Prod.mk.injEq, true_and]; omega
  · unfold regionBase blockOf; dsimp only; rw [if_neg (by omega), if_neg (by omega), if_neg (by omega), if_neg (by omega), if_neg (by omega), if_neg (by omega), if_neg (by omega), if_neg (by omega), if_neg (by omega), if_neg (by omega), if_neg (by omega), if_neg (by omega), if_neg (by omega), if_neg (by omega), if_neg (by omega), if_pos (by omega), if_neg (by omega), if_neg (by omega), if_neg (by omega), if_neg (by omega), if_neg (by omega), if_neg (by omega), if_pos (by omega)]
    simp only [Option.some.injEq, Prod.mk.injEq, true_and]; omega
  · obtain ⟨r, t, m, hr, ht, hm, hk, he⟩ := clusterBase_eq (i := i) (by omega)
    rw [he]
    have := blockOf_cluster hr ht hm (u := o) (by omega)
    rw [this]
    rw [if_pos (by omega)]
    simp only [Option.some.injEq, Prod.mk.injEq, true_and, and_true]; omega
  · obtain ⟨r, t, m, hr, ht, hm, hk, he⟩ := clusterBase_eq (i := i / 8) (by omega)
    rw [he]
    have := blockOf_cluster hr ht hm (u := 0x80000 + i % 8 * 0x1000 + o) (by omega)
    simp only [← Nat.add_assoc] at this
    rw [this]
    rw [if_neg (by omega), if_pos (by omega)]
    simp only [Option.some.injEq, Prod.mk.injEq, true_and]; omega
  · obtain ⟨r, t, m, hr, ht, hm, hk, he⟩ := clusterBase_eq (i := i / 8) (by omega)
    rw [he]
    have := blockOf_cluster hr ht hm (u := 0x90000 + i % 8 * 0x1000 + o) (by omega)
    simp only [← Nat.add_assoc] at this
    rw [this]
    rw [if_neg (by omega), if_neg (by omega), if_neg (by omega), if_pos (by omega)]
    simp only [Option.some.injEq, Prod.mk.injEq, true_and]; omega
  · obtain ⟨r, t, m, hr, ht, hm, hk, he⟩ := clusterBase_eq (i := i / 8) (by omega)
    rw [he]
    have := blockOf_cluster hr ht hm (u := 0xA0000 + i % 8 * 0x1000 + o) (by omega)
    simp only [← Nat.add_assoc] at this
    rw [this]
    rw [if_neg (by omega), if_neg (by omega), if_neg (by omega), if_neg (by omega), if_neg (by omega), if_pos (by omega)]
    simp only [Option.some.injEq, Prod.mk.injEq, true_and]; omega
  · unfold canvasBase regionBase
    obtain ⟨r, t, hr, ht, hi'⟩ : ∃ r t, r < 4 ∧ t < 3 ∧ i = r * 3 + t := ⟨i / 3, i % 3, by omega, by omega, by omega⟩
    have e1 : i / 3 = r := by omega
    have e2 : i % 3 = t := by omega
    rw [e1, e2]
    generalize ha : 0x10000000 * (1 + r) + 0x4000000 + t * 0x1000000 + 0xC00000 + o = a
    have h1 : a / 0x10000000 - 1 = r := by omega
    have h2 : a % 0x10000000 = 0x4000000 + t * 0x1000000 + 0xC00000 + o := by omega
    unfold blockOf
    rw [if_neg (by omega), if_neg (by omega), if_neg (by omega), if_neg (by omega), if_neg (by omega), if_neg (by omega), if_neg (by omega), if_neg (by omega), if_neg (by omega), if_neg (by omega), if_neg (by omega), if_neg (by omega), if_neg (by omega), if_neg (by omega), if_neg (by omega), if_pos (by omega)]
    dsimp only
    rw [h1, h2]
    have h3 : (0x4000000 + t * 0x1000000 + 0xC00000 + o - 0x4000000) / 0x1000000 = t := by omega
    have h4 : (0x4000000 + t * 0x1000000 + 0xC00000 + o) % 0x1000000 = 0xC00000 + o := by omega
    rw [if_neg (by omega), if_neg (by omega), if_neg (by omega), if_neg (by omega), if_neg (by omega), if_neg (by omega), if_neg (by omega), if_neg (by omega), if_pos (by omega), h3, h4, if_neg (by omega), if_pos (by omega)]
    simp only [Option.some.injEq, Prod.mk.injEq, true_and]; omega
  · obtain ⟨r, t, m, hr, ht, hm, hk, he⟩ := clusterBase_eq (i := i) (by omega)
    rw [he]
    have := blockOf_cluster hr ht hm (u := 0xB0000 + o) (by omega)
    simp only [← Nat.add_assoc] at this
    rw [this]
    rw [if_neg (by omega), if_neg (by omega), if_neg (by omega), if_neg (by omega), if_neg (by omega), if_neg (by omega), if_neg (by omega), if_pos (by omega)]
    simp only [Option.some.injEq, Prod.mk.injEq, true_and]; omega

/-- Every register of the map is read back from its address. -/
theorem isReg_of_lt {r : Reg} {n : Nat} (h : n < r.place.count * r.place.block.count) : IsReg r n := by
  have hc := r.place_pos.2
  have hd : n / r.place.count < r.place.block.count := Nat.div_lt_of_lt_mul h
  have hm : n % r.place.count < r.place.count := Nat.mod_lt _ hc
  have hw : r.place.off + n % r.place.count * r.place.stride < r.place.block.window :=
    Nat.lt_of_le_of_lt (Nat.add_le_add_left (Nat.mul_le_mul_right _ (by omega)) _) r.inWindow
  unfold IsReg regAt Reg.addr
  dsimp only
  rw [Nat.add_assoc, blockOf_of_base _ hd hw]
  dsimp only
  rw [findReg_of_apart (Block.regs_apart _) r.mem_regs hm]
  dsimp only
  rw [Nat.mul_comm, Nat.div_add_mod]
end Sys2Proof.Machine
end

