-- ==== Sys2Proof/Laws/Commands.lean ====
section
/-! SUPPORT. Laws of the shared forms of commands: a register write, a queue's command, a packet, a step. -/

namespace Sys2Proof.Machine

open Sys2Proof.Claims

-- a step

theorem step_of_front {s : State} {c : Instr} {rest : List Instr} (h : s.pending = c :: rest) :
    step s = exec c { s with pending := rest } := by unfold step; rw [h]

theorem step_of_empty {s : State} (h : s.pending = []) : step s = .next s.tick := by unfold step; rw [h]

-- a register write

/-- The register that an access reaches is one of the map. -/
theorem State.accessTarget_isReg {s : State} {a : Access} {r : Reg} {n : Nat} (h : s.accessTarget a = some (r, n)) : IsReg r n := by
  unfold State.accessTarget at h
  split at h
  · match hr : regAt (a.addr / 8 * 8) with
    | none => rw [hr] at h; cases h
    | some (r', n') =>
      rw [hr] at h
      have : r' = r ∧ n' = n := by
        dsimp only at h
        split at h
        · split at h
          · cases h
          · cases h; exact ⟨rfl, rfl⟩
        · split at h
          · cases h
          · cases h; exact ⟨rfl, rfl⟩
        · split at h
          · cases h
          · cases h; exact ⟨rfl, rfl⟩
        · cases h; exact ⟨rfl, rfl⟩
      rw [← this.1, ← this.2]; exact isReg_of_regAt hr
  · cases h

/-- What a write of reach asks for: the merge of the word at a register of the map. -/
theorem State.writeGate_go {s : State} {a : Access} {q : RegWriteReq} (h : s.writeGate a = .go q) :
    ∃ r n, s.accessTarget a = some (r, n) ∧ IsReg r n ∧ s.reaches a.origin r n = true ∧ s.shadowBlock r n = false ∧
      s.mayWrite a.origin r n = true ∧ q = s.mergeWrite r n a := by
  unfold State.writeGate at h
  match ht : s.accessTarget a with
  | none => rw [ht] at h; cases h
  | some (r, n) =>
    rw [ht] at h
    dsimp only at h
    split at h
    · cases h
    · split at h
      · cases h
      · split at h
        · cases h
        · rename_i h1 h2 h3
          exact ⟨r, n, rfl, State.accessTarget_isReg ht, by simpa using h1, by simpa using h2, by simpa using h3,
            (WriteGate.go.inj h).symm⟩

theorem State.onWrite_of_refuse {s : State} {a : Access} (l : List Reg) (f : RegWriteReq → State) (h : s.writeGate a = .refuse) :
    s.onWrite a l f = .next s.accessError := by unfold State.onWrite; rw [h]

theorem State.onWrite_of_ignore {s : State} {a : Access} (l : List Reg) (f : RegWriteReq → State) (h : s.writeGate a = .ignore) :
    s.onWrite a l f = .next s := by unfold State.onWrite; rw [h]

/-- A command that is a write of a register has the register's effect. -/
theorem State.onWrite_of_writes {s : State} {a : Access} {r : Reg} {q : RegWriteReq} {l : List Reg} (f : RegWriteReq → State)
    (h : Writes s a r q) (hr : r ∈ l) : s.onWrite a l f = .next (f q) := by
  unfold State.onWrite; rw [h.1]; dsimp only; rw [h.2, if_pos hr]

-- a queue's command

/-- A command that may start and whose body is good has its effect. -/
theorem State.onStart_of_starts {s : State} {q seq opcode : Nat} {c : Cmd} {ok : Cmd → Bool} (f : Cmd → State)
    (h : Starts s q seq opcode c) (hok : ok c = true) : s.onStart q seq opcode ok f = .next (f c) := by
  obtain ⟨h1, h2, h3⟩ := h
  unfold State.onStart; rw [h1]; dsimp only; rw [if_pos ⟨h2, h3⟩, if_pos hok]

/-- A command with a bad body ends with status 0x01 (R352). -/
theorem State.onStart_of_bad {s : State} {q seq opcode : Nat} {c : Cmd} {ok : Cmd → Bool} (f : Cmd → State)
    (h : Starts s q seq opcode c) (hok : ok c = false) : s.onStart q seq opcode ok f = .next (s.endCmd q seq 0x01) := by
  obtain ⟨h1, h2, h3⟩ := h
  unfold State.onStart; rw [h1]; dsimp only; rw [if_pos ⟨h2, h3⟩, hok]; rfl

/-- A command that may start is accepted and not started. -/
theorem Claims.Starts.phase {s : State} {q seq opcode : Nat} {c : Cmd} (h : Starts s q seq opcode c) : c.phase = .accepted := by
  obtain ⟨h1, h2, h3⟩ := h
  unfold State.mayStart at h3; rw [h1] at h3
  simp only [Bool.and_eq_true, decide_eq_true_eq] at h3
  exact h3.1.1.1.1

/-- A started command may have its effect on every path: it answers a next state. -/
theorem State.onStart_next (s : State) (q seq opcode : Nat) (ok : Cmd → Bool) (f : Cmd → State) :
    ∃ t, s.onStart q seq opcode ok f = .next t := by
  unfold State.onStart
  split
  · exact ⟨_, rfl⟩
  · split
    · split <;> exact ⟨_, rfl⟩
    · exact ⟨_, rfl⟩

theorem State.onWrite_next (s : State) (a : Access) (l : List Reg) (f : RegWriteReq → State) : ∃ t, s.onWrite a l f = .next t := by
  unfold State.onWrite; split <;> exact ⟨_, rfl⟩

-- a packet

/-- The oldest frame of a block is taken by the command of its packet. -/
theorem State.onPacket_of_heads {s : State} {b n : Nat} {p : NetPkt} {x : RxFrame} {kind : NetPkt → Bool}
    (f : State → Nat → RxFrame → State × Bool) (h : Heads s b p x n) (hk : kind p = true) :
    s.onPacket b kind f = match f s n x with
      | (t, true) => .next (t.dropFrame b x)
      | (t, false) => .next t := by
  obtain ⟨⟨rest, h1⟩, h2, h3, h4, h5⟩ := h
  unfold State.onPacket
  have : takeFrame kind [] (s.port b).rx = some x := by
    rw [h1]; unfold takeFrame; rw [h2, hk]; rfl
  rw [this]
  dsimp only
  rw [← h3, if_neg (by intro hc; exact h4 hc.1), if_neg (by rw [h5]; simp)]
  all_goals
    obtain ⟨t, b'⟩ := f s n x
    cases b' <;> rfl

theorem State.onPacket_next (s : State) (b : Nat) (kind : NetPkt → Bool) (f : State → Nat → RxFrame → State × Bool) :
    ∃ t, s.onPacket b kind f = .next t := by
  unfold State.onPacket
  split
  · exact ⟨_, rfl⟩
  · dsimp only
    split
    · exact ⟨_, rfl⟩
    · split
      · exact ⟨_, rfl⟩
      · split <;> exact ⟨_, rfl⟩

end Sys2Proof.Machine
end

