-- ==== Sys2Proof/Laws/Maps.lean ====
section
/-! SUPPORT. Laws of the sparse maps: what is read after a write, and that every operation keeps the canonical form. -/

namespace Sys2Proof.Machine

variable {α : Type}

theorem NMap.get?_set (m : NMap α) (i j : Nat) (a : α) :
    (m.set i a).get? j = if i = j then some a else m.get? j := by
  induction m with
  | nil => simp [NMap.set, NMap.get?]
  | cons e m ih =>
    obtain ⟨k, v⟩ := e
    simp only [NMap.set]
    split
    · rename_i h; subst h; simp only [NMap.get?]; split <;> rfl
    · split
      · simp only [NMap.get?]
      · simp only [NMap.get?, ih]
        by_cases h1 : k = j
        · subst h1; rw [if_pos rfl, if_neg (by omega), if_pos rfl]
        · rw [if_neg h1, if_neg h1]

theorem NMap.get?_del (m : NMap α) (i j : Nat) :
    (m.del i).get? j = if i = j then none else m.get? j := by
  induction m with
  | nil => simp [NMap.del, NMap.get?]
  | cons e m ih =>
    obtain ⟨k, v⟩ := e
    simp only [NMap.del, ne_eq, decide_not] at ih ⊢
    by_cases hk : k = i
    · subst hk
      simp only [List.filter_cons, decide_true, Bool.not_true, Bool.false_eq_true, if_false, ih, NMap.get?]
      split
      · rfl
      · rfl
    · simp only [List.filter_cons, hk, decide_false, Bool.not_false, if_true, NMap.get?, ih]
      by_cases h1 : k = j
      · subst h1; rw [if_pos rfl, if_neg (by omega), if_pos rfl]
      · rw [if_neg h1, if_neg h1]

theorem NMap.get?_keep (m : NMap α) (p : Nat → Bool) (j : Nat) :
    (m.keep p).get? j = if p j then m.get? j else none := by
  induction m with
  | nil => simp [NMap.keep, NMap.get?]
  | cons e m ih =>
    obtain ⟨k, v⟩ := e
    simp only [NMap.keep] at ih ⊢
    by_cases hk : k = j
    · subst hk
      by_cases hp : p k <;> simp_all [NMap.get?]
    · by_cases hp : p k <;> simp_all [NMap.get?]

-- the canonical form

theorem NMap.sortedFrom_mono {m : NMap α} {b c : Nat} (h : b ≤ c) (hm : NMap.sortedFrom c m = true) :
    NMap.sortedFrom b m = true := by
  cases m with
  | nil => rfl
  | cons e m => obtain ⟨k, v⟩ := e; simp only [NMap.sortedFrom, Bool.and_eq_true, decide_eq_true_eq] at hm ⊢; exact ⟨by omega, hm.2⟩

theorem NMap.sortedFrom_set {m : NMap α} {b i : Nat} (a : α) (hb : b ≤ i) (hm : NMap.sortedFrom b m = true) :
    NMap.sortedFrom b (m.set i a) = true := by
  induction m generalizing b with
  | nil => simp [NMap.set, NMap.sortedFrom, hb]
  | cons e m ih =>
    obtain ⟨k, v⟩ := e
    simp only [NMap.sortedFrom, Bool.and_eq_true, decide_eq_true_eq] at hm
    simp only [NMap.set]
    split
    · rename_i h; subst h; simp [NMap.sortedFrom, hm]
    · split
      · simp only [NMap.sortedFrom, Bool.and_eq_true, decide_eq_true_eq]; exact ⟨hb, by omega, hm.2⟩
      · simp only [NMap.sortedFrom, Bool.and_eq_true, decide_eq_true_eq]; exact ⟨hm.1, ih (by omega) hm.2⟩

theorem NMap.sortedFrom_filter {m : NMap α} {b : Nat} (p : Nat × α → Bool) (hm : NMap.sortedFrom b m = true) :
    NMap.sortedFrom b (m.filter p) = true := by
  induction m generalizing b with
  | nil => rfl
  | cons e m ih =>
    obtain ⟨k, v⟩ := e
    simp only [NMap.sortedFrom, Bool.and_eq_true, decide_eq_true_eq] at hm
    rw [List.filter_cons]
    split
    · simp only [NMap.sortedFrom, Bool.and_eq_true, decide_eq_true_eq]; exact ⟨hm.1, ih hm.2⟩
    · exact NMap.sortedFrom_mono (by omega) (ih hm.2)

theorem NMap.wf_set {m : NMap α} (i : Nat) (a : α) (h : m.wf = true) : (m.set i a).wf = true :=
  NMap.sortedFrom_set a (Nat.zero_le _) h

theorem NMap.wf_del {m : NMap α} (i : Nat) (h : m.wf = true) : (m.del i).wf = true := NMap.sortedFrom_filter _ h

theorem NMap.wf_keep {m : NMap α} (p : Nat → Bool) (h : m.wf = true) : (m.keep p).wf = true := NMap.sortedFrom_filter _ h

theorem NMap.mem_set {m : NMap α} {i : Nat} {a : α} {e : Nat × α} (h : e ∈ m.set i a) : e = (i, a) ∨ e ∈ m := by
  induction m with
  | nil => simpa [NMap.set] using h
  | cons f m ih =>
    obtain ⟨k, v⟩ := f
    simp only [NMap.set] at h
    split at h
    · rcases List.mem_cons.1 h with h | h
      · exact .inl h
      · exact .inr (List.mem_cons_of_mem _ h)
    · split at h
      · rcases List.mem_cons.1 h with h | h
        · exact .inl h
        · exact .inr h
      · rcases List.mem_cons.1 h with h | h
        · exact .inr (h ▸ List.mem_cons_self)
        · rcases ih h with h | h
          · exact .inl h
          · exact .inr (List.mem_cons_of_mem _ h)

-- reading after a put

variable [DecidableEq α]

theorem NMap.getD_put (d : α) (m : NMap α) (i j : Nat) (a : α) :
    (NMap.put d m i a).getD j d = if i = j then a else m.getD j d := by
  unfold NMap.getD NMap.put
  by_cases h : a = d
  · subst h; rw [if_pos rfl, NMap.get?_del]; by_cases hij : i = j <;> simp [hij]
  · rw [if_neg h, NMap.get?_set]; by_cases hij : i = j <;> simp [hij]

theorem NMap.getD_put_self (d : α) (m : NMap α) (i : Nat) (a : α) : (NMap.put d m i a).getD i d = a := by
  simp [NMap.getD_put]

/-- A write leaves every other key alone, whatever its default is. -/
theorem NMap.getD_put_ne (d e : α) (m : NMap α) {i j : Nat} (a : α) (h : i ≠ j) :
    (NMap.put d m i a).getD j e = m.getD j e := by
  unfold NMap.getD NMap.put
  by_cases hd : a = d
  · rw [if_pos hd, NMap.get?_del, if_neg h]
  · rw [if_neg hd, NMap.get?_set, if_neg h]

theorem NMap.wf_put {m : NMap α} (d : α) (i : Nat) (a : α) (h : m.wf = true) : (NMap.put d m i a).wf = true := by
  unfold NMap.put; split
  · exact NMap.wf_del i h
  · exact NMap.wf_set i a h

/-- What a map lists after a put: the new entry, where it is not the default, and entries listed before. -/
theorem NMap.mem_put {d : α} {m : NMap α} {i : Nat} {a : α} {e : Nat × α} (h : e ∈ NMap.put d m i a) :
    (e = (i, a) ∧ a ≠ d) ∨ e ∈ m := by
  unfold NMap.put at h
  split at h
  · exact .inr (List.mem_of_mem_filter h)
  · rename_i hd
    rcases NMap.mem_set h with h | h
    · exact .inl ⟨h, hd⟩
    · exact .inr h

end Sys2Proof.Machine
end

