-- ==== Sys2Proof/Laws/Issue.lean ====
section
/-! SUPPORT. Laws of the issue of a Kwaok instruction: the answer of an instruction that executes, and the registers and predicates
that its lanes write. -/

namespace Sys2Proof.Machine

open Sys2Proof.Claims

-- legality

theorem illegal?_eq_none {l : List Bad} (h : ∀ b ∈ l, b.2 = false) : illegal? l = none := by
  have : l.filter (fun b => b.2) = [] := by
    rw [List.filter_eq_nil_iff]; intro b hb; simp [h b hb]
  simp [illegal?, this]

theorem illegal?_fold (l : List Bad) : ∀ a : Nat,
    l.foldl (fun a b => match a with
      | none => some b.1
      | some p => some (min p b.1)) (some a) = some (l.foldl (fun m b => min m b.1) a) := by
  induction l with
  | nil => intro a; rfl
  | cons b l ih => intro a; exact ih _

/-- An instruction is legal exactly when no field offends. -/
theorem illegal?_eq_none_iff {l : List Bad} : illegal? l = none ↔ ∀ b ∈ l, b.2 = false := by
  refine ⟨fun h b hb => ?_, illegal?_eq_none⟩
  by_contra hc
  have hb' : b ∈ l.filter (fun b => b.2) := List.mem_filter.2 ⟨hb, by simpa using hc⟩
  unfold illegal? at h
  match hl : l.filter (fun b => b.2) with
  | [] => rw [hl] at hb'; cases hb'
  | c :: m =>
    rw [hl] at h
    have := illegal?_fold m c.1
    cases this.symm.trans h

-- the answer

/-- An instruction that executes has its effect. -/
theorem State.onIssue_of_executes {s u : State} {x : Issue} {regs : List (Bool × Nat)} {bad : Ready → List Bad} {r : Ready}
    (f : State → Ready → State) (h : Executes s x regs bad r u) : s.onIssue x bad regs f = .next (f u r) := by
  obtain ⟨h1, h2, h3, h4⟩ := h
  unfold State.onIssue
  simp only [h1, h2, h3, if_true, Bool.false_eq_true, if_false]
  rw [illegal?_eq_none h4]

/-- An instruction at issue answers a next state: it waits, its fetch fails, it is illegal, or it has its effect. -/
theorem State.onIssue_cases (s : State) (x : Issue) (bad : Ready → List Bad) (regs : List (Bool × Nat)) (f : State → Ready → State) :
    s.onIssue x bad regs f = .next s ∨
      (∃ r, s.ready? x = some r ∧
        (s.onIssue x bad regs f = .next (s.fetch x r).1 ∨
          (∃ d, s.onIssue x bad regs f = .next ((s.fetch x r).1.precise x r 0x01 d)) ∨
          s.onIssue x bad regs f = .next (f (s.fetch x r).1 r))) := by
  unfold State.onIssue
  match hr : s.ready? x with
  | none => exact .inl rfl
  | some r =>
    simp only
    split
    · exact .inl rfl
    · refine .inr ⟨r, rfl, ?_⟩
      match hf : s.fetch x r with
      | (u, true) =>
        simp only [if_true]
        match hi : illegal? (bad r) with
        | some d => exact .inr (.inl ⟨d, rfl⟩)
        | none => exact .inr (.inr rfl)
      | (u, false) => exact .inl rfl

/-- What an issuing set is: the running lanes at its program counter, those of them whose guard is true, in a live group of a
running task. -/
theorem State.ready?_some {s : State} {x : Issue} {r : Ready} (h : s.ready? x = some r) :
    s.running? x.core = some (r.t, r.k) ∧ r.x = s.core x.core ∧ r.x.groups.get? x.pos = some r.g ∧
      r.set = r.g.setAt x.lane ∧ r.exec = r.set.filter (fun j => r.g.predAt j x.gp != x.gn) ∧ r.pc = r.g.pc x.lane ∧
      r.k.phase = .running ∧ r.g.gstate = .live ∧ x.lane < 32 ∧ r.g.stat x.lane = .run := by
  unfold State.ready? at h
  dsimp only at h
  match h1 : s.running? x.core, h2 : (s.core x.core).groups.get? x.pos with
  | none, _ => rw [h1] at h; cases h
  | some _, none => rw [h1, h2] at h; cases h
  | some (t, k), some g =>
    rw [h1, h2] at h
    dsimp only at h
    split at h
    · rename_i hok
      simp only [Bool.and_eq_true, decide_eq_true_eq] at hok
      cases h
      exact ⟨rfl, rfl, h2, rfl, rfl, rfl, hok.1.1.1.1.1.1.1.1.1, hok.1.1.1.1.1.2, hok.1.2, hok.2⟩
    · cases h

theorem State.ready?_exec_lt {s : State} {x : Issue} {r : Ready} (h : s.ready? x = some r) {l : Nat} (hl : l ∈ r.exec) : l < 32 := by
  obtain ⟨-, -, -, hs, he, -⟩ := State.ready?_some h
  rw [he, hs] at hl
  have := (List.mem_filter.1 (List.mem_filter.1 hl).1).1
  simpa using this

-- registers

theorem Group.readV_writeV (g : Group) {l n m k : Nat} (v : Nat) (hn : n < 256) (hm : m < 256) :
    (g.writeV l n v).readV k m = if l = k ∧ n = m ∧ m < 255 then v % 2 ^ 32 else g.readV k m := by
  unfold Group.writeV Group.readV
  by_cases hm5 : m = 255
  · subst hm5; simp
  · by_cases hn5 : n = 255
    · subst hn5; rw [if_pos rfl, if_neg hm5, if_neg (by omega)]
    · rw [if_neg hn5, if_neg hm5, if_neg hm5]
      by_cases he : l = k ∧ n = m
      · obtain ⟨rfl, rfl⟩ := he
        rw [if_pos ⟨rfl, rfl, by omega⟩]; simp [NMap.getD_put_self]
      · rw [if_neg (by tauto)]
        show BitVec.toNat (NMap.getD (NMap.put 0 g.v _ _) _ 0) = _
        rw [NMap.getD_put_ne]; omega

theorem Group.readV_lt (g : Group) (l n : Nat) : g.readV l n < 2 ^ 32 := by
  unfold Group.readV; split
  · exact Nat.two_pow_pos _
  · exact BitVec.isLt _

/-- A number of 32-bit words is below the power of two of their number. -/
theorem foldl_words_lt (f : Nat → Nat) (hf : ∀ k, f k < 2 ^ 32) (n : Nat) :
    (List.range n).foldl (fun a k => a + f k * 2 ^ (32 * k)) 0 < 2 ^ (32 * n) := by
  induction n with
  | zero => exact Nat.one_pos
  | succ n ih =>
    rw [List.range_succ, List.foldl_append, List.foldl_cons, List.foldl_nil, Nat.mul_succ, Nat.pow_add]
    calc _ < 2 ^ (32 * n) + f n * 2 ^ (32 * n) := Nat.add_lt_add_right ih _
      _ = (f n + 1) * 2 ^ (32 * n) := by rw [Nat.add_mul, Nat.one_mul, Nat.add_comm]
      _ ≤ 2 ^ 32 * 2 ^ (32 * n) := Nat.mul_le_mul_right _ (hf n)
      _ = _ := Nat.mul_comm _ _

/-- A source is below the power of two of its width. -/
theorem Group.src_lt (g : Group) (uni : Bool) (l b : Nat) {w : Nat} (hw : w = 32 ∨ w = 64) : g.src uni l b w < 2 ^ w := by
  have h128 : w ≠ 128 := by omega
  have hm : 32 * (w / 32) = w := by omega
  unfold Group.src
  cases uni
  · simp only [Bool.false_eq_true, if_false]
    have := foldl_words_lt (fun k => g.readV l (b + k)) (fun k => g.readV_lt l (b + k)) (w / 32)
    rwa [hm] at this
  · simp only [if_true, if_neg h128]; exact Nat.mod_lt _ (Nat.two_pow_pos _)

@[simp] theorem Group.readU_writeV (g : Group) (l n v m : Nat) : (g.writeV l n v).readU m = g.readU m := by
  unfold Group.writeV; split <;> rfl

@[simp] theorem Group.readV_writeU (g : Group) (l n v m : Nat) : (g.writeU n v).readV l m = g.readV l m := rfl

theorem Group.readU_writeU (g : Group) (n v m : Nat) :
    (g.writeU n v).readU m = if n = m then v % 2 ^ 64 else g.readU m := by
  unfold Group.writeU Group.readU
  by_cases h : n = m
  · subst h; simp [NMap.getD_put_self]
  · rw [if_neg h]
    show BitVec.toNat (NMap.getD (NMap.put 0 g.u _ _) _ 0) = _
    rw [NMap.getD_put_ne _ _ _ _ h]

/-- Everything of a group but its registers. -/
def Group.bare (g : Group) : Group := { g with v := [], u := [] }

@[simp] theorem Group.bare_writeV (g : Group) (l n v : Nat) : (g.writeV l n v).bare = g.bare := by
  unfold Group.writeV; split <;> rfl

@[simp] theorem Group.bare_writeU (g : Group) (n v : Nat) : (g.writeU n v).bare = g.bare := rfl

/-- A vector result of one or two registers, read back. -/
theorem Group.readV_dst_vector (g : Group) {l b w v k m : Nat} (hw : w = 32 ∨ w = 64) (hb : b + w / 32 ≤ 256) (hm : m < 256) :
    (g.dst false l b w v).readV k m =
      if l = k ∧ b ≤ m ∧ m < b + w / 32 ∧ m < 255 then v / 2 ^ (32 * (m - b)) % 2 ^ 32 else g.readV k m := by
  rcases hw with rfl | rfl
  · simp only [Group.dst, Bool.false_eq_true, if_false]
    rw [show List.range (32 / 32) = [0] from rfl]
    simp only [List.foldl_cons, List.foldl_nil]
    rw [Group.readV_writeV _ _ (by omega) hm]
    by_cases h : l = k ∧ b + 0 = m ∧ m < 255
    · rw [if_pos h, if_pos ⟨h.1, by omega, by omega, h.2.2⟩, show m - b = 0 by omega]
    · rw [if_neg h, if_neg (by omega)]
  · simp only [Group.dst, Bool.false_eq_true, if_false]
    rw [show List.range (64 / 32) = [0, 1] from rfl]
    simp only [List.foldl_cons, List.foldl_nil]
    rw [Group.readV_writeV _ _ (by omega) hm, Group.readV_writeV _ _ (by omega) hm]
    by_cases h : l = k ∧ b + 1 = m ∧ m < 255
    · rw [if_pos h, if_pos ⟨h.1, by omega, by omega, h.2.2⟩, show m - b = 1 by omega]
    · rw [if_neg h]
      by_cases h0 : l = k ∧ b + 0 = m ∧ m < 255
      · rw [if_pos h0, if_pos ⟨h0.1, by omega, by omega, h0.2.2⟩, show m - b = 0 by omega]
      · rw [if_neg h0, if_neg (by omega)]

theorem Group.readU_dst_vector (g : Group) (l b w v m : Nat) : (g.dst false l b w v).readU m = g.readU m := by
  simp only [Group.dst, Bool.false_eq_true, if_false]
  generalize List.range (w / 32) = ks
  induction ks generalizing g with
  | nil => rfl
  | cons k ks ih => rw [List.foldl_cons, ih]; simp

theorem Group.bare_dst (g : Group) (uni : Bool) (l b w v : Nat) : (g.dst uni l b w v).bare = g.bare := by
  unfold Group.dst
  cases uni with
  | true => simp only [if_true]; split <;> rfl
  | false =>
    simp only [Bool.false_eq_true, if_false]
    generalize List.range (w / 32) = ks
    induction ks generalizing g with
    | nil => rfl
    | cons k ks ih => rw [List.foldl_cons, ih]; simp

theorem Group.readU_dst_uniform (g : Group) {l b w v m : Nat} (hw : w = 32 ∨ w = 64) :
    (g.dst true l b w v).readU m = if b = m then v % 2 ^ w else g.readU m := by
  have h1 : w ≠ 128 := by omega
  simp only [Group.dst, if_true, if_neg h1]
  rw [Group.readU_writeU]
  rcases hw with rfl | rfl
  · by_cases h : b = m
    · rw [if_pos h, if_pos h]; omega
    · rw [if_neg h, if_neg h]
  · by_cases h : b = m
    · rw [if_pos h, if_pos h]; omega
    · rw [if_neg h, if_neg h]

theorem Group.readV_dst_uniform (g : Group) {l b w v k m : Nat} (hw : w = 32 ∨ w = 64) :
    (g.dst true l b w v).readV k m = g.readV k m := by
  have h1 : w ≠ 128 := by omega
  simp only [Group.dst, if_true, if_neg h1]; rfl

/-- Register D written in the lanes of a list, vector registers: what every register then holds. -/
theorem Group.foldl_dst_vector (f : Nat → Nat) {b w : Nat} (hw : w = 32 ∨ w = 64) (hb : b + w / 32 ≤ 256) (ls : List Nat) :
    ∀ (g : Group),
      (∀ k m, m < 256 → (ls.foldl (fun g l => g.dst false l b w (f l)) g).readV k m =
        if k ∈ ls ∧ b ≤ m ∧ m < b + w / 32 ∧ m < 255 then f k / 2 ^ (32 * (m - b)) % 2 ^ 32 else g.readV k m) ∧
      (∀ m, (ls.foldl (fun g l => g.dst false l b w (f l)) g).readU m = g.readU m) ∧
      (ls.foldl (fun g l => g.dst false l b w (f l)) g).bare = g.bare := by
  induction ls with
  | nil => intro g; simp
  | cons l ls ih =>
    intro g
    obtain ⟨h1, h2, h3⟩ := ih (g.dst false l b w (f l))
    refine ⟨fun k m hm => ?_, fun m => ?_, ?_⟩
    · rw [List.foldl_cons, h1 k m hm, Group.readV_dst_vector g hw hb hm]
      by_cases hk : k ∈ ls ∧ b ≤ m ∧ m < b + w / 32 ∧ m < 255
      · rw [if_pos hk, if_pos ⟨List.mem_cons_of_mem _ hk.1, hk.2⟩]
      · rw [if_neg hk]
        by_cases hl : l = k ∧ b ≤ m ∧ m < b + w / 32 ∧ m < 255
        · rw [if_pos hl, if_pos ⟨hl.1 ▸ List.mem_cons_self, hl.2⟩, hl.1]
        · rw [if_neg hl, if_neg]
          rintro ⟨hm1, hm2⟩
          rcases List.mem_cons.1 hm1 with rfl | h
          · exact hl ⟨rfl, hm2⟩
          · exact hk ⟨h, hm2⟩
    · rw [List.foldl_cons, h2, Group.readU_dst_vector]
    · rw [List.foldl_cons, h3, Group.bare_dst]

/-- The registers and predicates of an instruction at issue are below their number. -/
theorem regLegal_range {uni : Bool} {n w r : Nat} (hw : w = 32 ∨ w = 64) (h : regLegal uni n w r = true) :
    if uni then n < 64 else n + w / 32 ≤ 256 := by
  unfold regLegal at h
  rcases hw with rfl | rfl <;> cases uni <;> simp at h ⊢ <;> omega

/-- An instruction that writes D lane by lane writes D and nothing else. -/
theorem Group.foldl_dst_writesD {x : Issue} {r : Ready} {w : Nat} (f : Nat → Nat) (hw : w = 32 ∨ w = 64)
    (hd : if x.kd then x.d < 64 else x.d + w / 32 ≤ 256) :
    WritesD x (r.lanes x.kd) w f r.g ((r.lanes x.kd).foldl (fun g l => g.dst x.kd l x.d w (f l)) r.g) := by
  cases hk : x.kd with
  | false =>
    rw [hk] at hd
    obtain ⟨h1, h2, h3⟩ := Group.foldl_dst_vector f hw (by simpa using hd) (r.lanes false) r.g
    refine ⟨fun l n hn => ?_, fun n => ?_, h3⟩
    · rw [h1 l n hn]; simp [hk]
    · rw [h2 n]; simp [hk]
  | true =>
    unfold Ready.lanes
    by_cases he : r.exec = []
    · simp only [if_true, if_pos he, List.foldl_nil]
      exact ⟨fun l n _ => by simp [hk], fun n => by simp, rfl⟩
    · simp only [if_true, if_neg he, List.foldl_cons, List.foldl_nil]
      refine ⟨fun l n _ => ?_, fun n => ?_, Group.bare_dst ..⟩
      · rw [Group.readV_dst_uniform _ hw]; simp [hk]
      · rw [Group.readU_dst_uniform _ hw]
        by_cases h : x.d = n
        · rw [if_pos h, if_pos ⟨hk, by simp, h.symm⟩]
        · rw [if_neg h, if_neg (by omega)]

theorem Group.predAt_writePred (g : Group) {l d k p : Nat} (b : Bool) (hl : l < 32) (hd : d < 8) (hk : k < 32) (hp : p < 8) :
    (g.writePred l d b).predAt k p = if k = l ∧ p = d ∧ p ≠ 7 then b else g.predAt k p := by
  unfold Group.writePred Group.predAt
  by_cases hd7 : d = 7
  · subst hd7; rw [if_pos rfl]
    by_cases hp7 : p = 7
    · subst hp7; simp
    · rw [if_neg (by omega)]
  · rw [if_neg hd7]
    by_cases hp7 : p = 7
    · subst hp7; simp
    · simp only [hp7, decide_false, Bool.false_or, ne_eq, not_false_eq_true, and_true]
      rw [List.getD_eq_getElem?_getD, List.getElem?_map, List.getElem?_range hk]
      simp only [Option.map_some, Option.getD_some]
      by_cases hkl : k = l
      · subst hkl
        simp only [if_true, true_and]
        cases b with
        | true =>
          simp only [if_true, Nat.testBit_or, Nat.testBit_two_pow]
          by_cases h : p = d
          · subst h; simp
          · rw [if_neg h]; simp [Ne.symm h]
        | false =>
          simp only [Bool.false_eq_true, if_false, Nat.testBit_and]
          have : (2 ^ 7 - 1 - 2 ^ d).testBit p = (decide (p < 7) && decide (p ≠ d)) := by
            have : d < 7 := by omega
            have : p < 7 := by omega
            clear hl hk
            interval_cases d <;> interval_cases p <;> rfl
          rw [this]
          by_cases h : p = d
          · subst h; simp
          · rw [if_neg h]; simp [h, show p < 7 by omega]
      · rw [if_neg hkl, if_neg (by tauto)]

/-- Predicate D written in the lanes of a list. -/
theorem Group.foldl_writePred_writesP {x : Issue} (f : Nat → Bool) (hd : x.d ≤ 7) (ls : List Nat) (hls : ∀ l ∈ ls, l < 32) :
    ∀ h : Group, WritesP x ls f h (ls.foldl (fun g l => g.writePred l x.d (f l)) h) := by
  induction ls with
  | nil => intro h; exact ⟨fun l _ p _ => by simp, rfl⟩
  | cons a ls ih =>
    intro h
    obtain ⟨h1, h2⟩ := ih (fun l hl => hls l (List.mem_cons_of_mem _ hl)) (h.writePred a x.d (f a))
    refine ⟨fun l hl p hp => ?_, ?_⟩
    · rw [List.foldl_cons, h1 l hl p hp, Group.predAt_writePred h _ (hls a List.mem_cons_self) (by omega) hl hp]
      by_cases hk : l ∈ ls ∧ p = x.d ∧ p ≠ 7
      · rw [if_pos hk, if_pos ⟨List.mem_cons_of_mem _ hk.1, hk.2⟩]
      · rw [if_neg hk]
        by_cases hl2 : l = a ∧ p = x.d ∧ p ≠ 7
        · rw [if_pos hl2, if_pos ⟨hl2.1 ▸ List.mem_cons_self, hl2.2⟩, hl2.1]
        · rw [if_neg hl2, if_neg]
          rintro ⟨hm1, hm2⟩
          rcases List.mem_cons.1 hm1 with rfl | h
          · exact hl2 ⟨rfl, hm2⟩
          · exact hk ⟨h, hm2⟩
    · rw [List.foldl_cons, h2]
      unfold Group.writePred; split <;> rfl

end Sys2Proof.Machine
end

