-- ==== Sys2Proof/Laws/State.lean ====
section
/-! SUPPORT. What each update of the state leaves of every field it does not touch. -/

namespace Sys2Proof.Machine

@[simp] theorem State.setReg_pending (s : State) (r : Reg) (n : Nat) (w : Word) : (s.setReg r n w).pending = s.pending := rfl
@[simp] theorem State.setReg_now (s : State) (r : Reg) (n : Nat) (w : Word) : (s.setReg r n w).now = s.now := rfl
@[simp] theorem State.setReg_mem (s : State) (r : Reg) (n : Nat) (w : Word) : (s.setReg r n w).mem = s.mem := rfl
@[simp] theorem State.setReg_poison (s : State) (r : Reg) (n : Nat) (w : Word) : (s.setReg r n w).poison = s.poison := rfl
@[simp] theorem State.setReg_scrambled (s : State) (r : Reg) (n : Nat) (w : Word) : (s.setReg r n w).scrambled = s.scrambled := rfl
@[simp] theorem State.setReg_cores (s : State) (r : Reg) (n : Nat) (w : Word) : (s.setReg r n w).cores = s.cores := rfl
@[simp] theorem State.setReg_stopped (s : State) (r : Reg) (n : Nat) (w : Word) : (s.setReg r n w).stopped = s.stopped := rfl
@[simp] theorem State.setReg_downClusters (s : State) (r : Reg) (n : Nat) (w : Word) : (s.setReg r n w).downClusters = s.downClusters := rfl
@[simp] theorem State.setReg_tasks (s : State) (r : Reg) (n : Nat) (w : Word) : (s.setReg r n w).tasks = s.tasks := rfl
@[simp] theorem State.setReg_nextTask (s : State) (r : Reg) (n : Nat) (w : Word) : (s.setReg r n w).nextTask = s.nextTask := rfl
@[simp] theorem State.setReg_saved (s : State) (r : Reg) (n : Nat) (w : Word) : (s.setReg r n w).saved = s.saved := rfl
@[simp] theorem State.setReg_regionCtrs (s : State) (r : Reg) (n : Nat) (w : Word) : (s.setReg r n w).regionCtrs = s.regionCtrs := rfl
@[simp] theorem State.setReg_nextArrival (s : State) (r : Reg) (n : Nat) (w : Word) : (s.setReg r n w).nextArrival = s.nextArrival := rfl
@[simp] theorem State.setReg_merges (s : State) (r : Reg) (n : Nat) (w : Word) : (s.setReg r n w).merges = s.merges := rfl
@[simp] theorem State.setReg_canvases (s : State) (r : Reg) (n : Nat) (w : Word) : (s.setReg r n w).canvases = s.canvases := rfl
@[simp] theorem State.setReg_coh (s : State) (r : Reg) (n : Nat) (w : Word) : (s.setReg r n w).coh = s.coh := rfl
@[simp] theorem State.setReg_srams (s : State) (r : Reg) (n : Nat) (w : Word) : (s.setReg r n w).srams = s.srams := rfl
@[simp] theorem State.setReg_channels (s : State) (r : Reg) (n : Nat) (w : Word) : (s.setReg r n w).channels = s.channels := rfl
@[simp] theorem State.setReg_stackSts (s : State) (r : Reg) (n : Nat) (w : Word) : (s.setReg r n w).stackSts = s.stackSts := rfl
@[simp] theorem State.setReg_tlbs (s : State) (r : Reg) (n : Nat) (w : Word) : (s.setReg r n w).tlbs = s.tlbs := rfl
@[simp] theorem State.setReg_xfr (s : State) (r : Reg) (n : Nat) (w : Word) : (s.setReg r n w).xfr = s.xfr := rfl
@[simp] theorem State.setReg_pages (s : State) (r : Reg) (n : Nat) (w : Word) : (s.setReg r n w).pages = s.pages := rfl
@[simp] theorem State.setReg_queues (s : State) (r : Reg) (n : Nat) (w : Word) : (s.setReg r n w).queues = s.queues := rfl
@[simp] theorem State.setReg_barReads (s : State) (r : Reg) (n : Nat) (w : Word) : (s.setReg r n w).barReads = s.barReads := rfl
@[simp] theorem State.setReg_nextBarRead (s : State) (r : Reg) (n : Nat) (w : Word) : (s.setReg r n w).nextBarRead = s.nextBarRead := rfl
@[simp] theorem State.setReg_msix (s : State) (r : Reg) (n : Nat) (w : Word) : (s.setReg r n w).msix = s.msix := rfl
@[simp] theorem State.setReg_session (s : State) (r : Reg) (n : Nat) (w : Word) : (s.setReg r n w).session = s.session := rfl
@[simp] theorem State.setReg_ports (s : State) (r : Reg) (n : Nat) (w : Word) : (s.setReg r n w).ports = s.ports := rfl
@[simp] theorem State.setReg_slots (s : State) (r : Reg) (n : Nat) (w : Word) : (s.setReg r n w).slots = s.slots := rfl
@[simp] theorem State.setReg_ranks (s : State) (r : Reg) (n : Nat) (w : Word) : (s.setReg r n w).ranks = s.ranks := rfl
@[simp] theorem State.setReg_ptp (s : State) (r : Reg) (n : Nat) (w : Word) : (s.setReg r n w).ptp = s.ptp := rfl
@[simp] theorem State.setReg_skbs (s : State) (r : Reg) (n : Nat) (w : Word) : (s.setReg r n w).skbs = s.skbs := rfl
@[simp] theorem State.setReg_power (s : State) (r : Reg) (n : Nat) (w : Word) : (s.setReg r n w).power = s.power := rfl
@[simp] theorem State.setReg_pwrRegions (s : State) (r : Reg) (n : Nat) (w : Word) : (s.setReg r n w).pwrRegions = s.pwrRegions := rfl
@[simp] theorem State.setReg_fwCores (s : State) (r : Reg) (n : Nat) (w : Word) : (s.setReg r n w).fwCores = s.fwCores := rfl
@[simp] theorem State.setReg_staging (s : State) (r : Reg) (n : Nat) (w : Word) : (s.setReg r n w).staging = s.staging := rfl
@[simp] theorem State.setReg_activation (s : State) (r : Reg) (n : Nat) (w : Word) : (s.setReg r n w).activation = s.activation := rfl
@[simp] theorem State.setReg_normalRun (s : State) (r : Reg) (n : Nat) (w : Word) : (s.setReg r n w).normalRun = s.normalRun := rfl
@[simp] theorem State.setReg_fwWaits (s : State) (r : Reg) (n : Nat) (w : Word) : (s.setReg r n w).fwWaits = s.fwWaits := rfl
@[simp] theorem State.setReg_events (s : State) (r : Reg) (n : Nat) (w : Word) : (s.setReg r n w).events = s.events := rfl
@[simp] theorem State.setReg_flash (s : State) (r : Reg) (n : Nat) (w : Word) : (s.setReg r n w).flash = s.flash := rfl
@[simp] theorem State.setReg_sec (s : State) (r : Reg) (n : Nat) (w : Word) : (s.setReg r n w).sec = s.sec := rfl
@[simp] theorem State.setReg_mgt (s : State) (r : Reg) (n : Nat) (w : Word) : (s.setReg r n w).mgt = s.mgt := rfl
@[simp] theorem State.setReg_modSt (s : State) (r : Reg) (n : Nat) (w : Word) : (s.setReg r n w).modSt = s.modSt := rfl
@[simp] theorem State.setReg_freeIdx (s : State) (r : Reg) (n : Nat) (w : Word) : (s.setReg r n w).freeIdx = s.freeIdx := rfl
@[simp] theorem State.setReg_sent (s : State) (r : Reg) (n : Nat) (w : Word) : (s.setReg r n w).sent = s.sent := rfl

@[simp] theorem State.wr_pending (s : State) (f : Fld) (n v k : Nat) : (s.wr f n v k).pending = s.pending := rfl
@[simp] theorem State.wr_now (s : State) (f : Fld) (n v k : Nat) : (s.wr f n v k).now = s.now := rfl
@[simp] theorem State.wr_mem (s : State) (f : Fld) (n v k : Nat) : (s.wr f n v k).mem = s.mem := rfl
@[simp] theorem State.wr_poison (s : State) (f : Fld) (n v k : Nat) : (s.wr f n v k).poison = s.poison := rfl
@[simp] theorem State.wr_scrambled (s : State) (f : Fld) (n v k : Nat) : (s.wr f n v k).scrambled = s.scrambled := rfl
@[simp] theorem State.wr_cores (s : State) (f : Fld) (n v k : Nat) : (s.wr f n v k).cores = s.cores := rfl
@[simp] theorem State.wr_stopped (s : State) (f : Fld) (n v k : Nat) : (s.wr f n v k).stopped = s.stopped := rfl
@[simp] theorem State.wr_downClusters (s : State) (f : Fld) (n v k : Nat) : (s.wr f n v k).downClusters = s.downClusters := rfl
@[simp] theorem State.wr_tasks (s : State) (f : Fld) (n v k : Nat) : (s.wr f n v k).tasks = s.tasks := rfl
@[simp] theorem State.wr_nextTask (s : State) (f : Fld) (n v k : Nat) : (s.wr f n v k).nextTask = s.nextTask := rfl
@[simp] theorem State.wr_saved (s : State) (f : Fld) (n v k : Nat) : (s.wr f n v k).saved = s.saved := rfl
@[simp] theorem State.wr_regionCtrs (s : State) (f : Fld) (n v k : Nat) : (s.wr f n v k).regionCtrs = s.regionCtrs := rfl
@[simp] theorem State.wr_nextArrival (s : State) (f : Fld) (n v k : Nat) : (s.wr f n v k).nextArrival = s.nextArrival := rfl
@[simp] theorem State.wr_merges (s : State) (f : Fld) (n v k : Nat) : (s.wr f n v k).merges = s.merges := rfl
@[simp] theorem State.wr_canvases (s : State) (f : Fld) (n v k : Nat) : (s.wr f n v k).canvases = s.canvases := rfl
@[simp] theorem State.wr_coh (s : State) (f : Fld) (n v k : Nat) : (s.wr f n v k).coh = s.coh := rfl
@[simp] theorem State.wr_srams (s : State) (f : Fld) (n v k : Nat) : (s.wr f n v k).srams = s.srams := rfl
@[simp] theorem State.wr_channels (s : State) (f : Fld) (n v k : Nat) : (s.wr f n v k).channels = s.channels := rfl
@[simp] theorem State.wr_stackSts (s : State) (f : Fld) (n v k : Nat) : (s.wr f n v k).stackSts = s.stackSts := rfl
@[simp] theorem State.wr_tlbs (s : State) (f : Fld) (n v k : Nat) : (s.wr f n v k).tlbs = s.tlbs := rfl
@[simp] theorem State.wr_xfr (s : State) (f : Fld) (n v k : Nat) : (s.wr f n v k).xfr = s.xfr := rfl
@[simp] theorem State.wr_pages (s : State) (f : Fld) (n v k : Nat) : (s.wr f n v k).pages = s.pages := rfl
@[simp] theorem State.wr_queues (s : State) (f : Fld) (n v k : Nat) : (s.wr f n v k).queues = s.queues := rfl
@[simp] theorem State.wr_barReads (s : State) (f : Fld) (n v k : Nat) : (s.wr f n v k).barReads = s.barReads := rfl
@[simp] theorem State.wr_nextBarRead (s : State) (f : Fld) (n v k : Nat) : (s.wr f n v k).nextBarRead = s.nextBarRead := rfl
@[simp] theorem State.wr_msix (s : State) (f : Fld) (n v k : Nat) : (s.wr f n v k).msix = s.msix := rfl
@[simp] theorem State.wr_session (s : State) (f : Fld) (n v k : Nat) : (s.wr f n v k).session = s.session := rfl
@[simp] theorem State.wr_ports (s : State) (f : Fld) (n v k : Nat) : (s.wr f n v k).ports = s.ports := rfl
@[simp] theorem State.wr_slots (s : State) (f : Fld) (n v k : Nat) : (s.wr f n v k).slots = s.slots := rfl
@[simp] theorem State.wr_ranks (s : State) (f : Fld) (n v k : Nat) : (s.wr f n v k).ranks = s.ranks := rfl
@[simp] theorem State.wr_ptp (s : State) (f : Fld) (n v k : Nat) : (s.wr f n v k).ptp = s.ptp := rfl
@[simp] theorem State.wr_skbs (s : State) (f : Fld) (n v k : Nat) : (s.wr f n v k).skbs = s.skbs := rfl
@[simp] theorem State.wr_power (s : State) (f : Fld) (n v k : Nat) : (s.wr f n v k).power = s.power := rfl
@[simp] theorem State.wr_pwrRegions (s : State) (f : Fld) (n v k : Nat) : (s.wr f n v k).pwrRegions = s.pwrRegions := rfl
@[simp] theorem State.wr_fwCores (s : State) (f : Fld) (n v k : Nat) : (s.wr f n v k).fwCores = s.fwCores := rfl
@[simp] theorem State.wr_staging (s : State) (f : Fld) (n v k : Nat) : (s.wr f n v k).staging = s.staging := rfl
@[simp] theorem State.wr_activation (s : State) (f : Fld) (n v k : Nat) : (s.wr f n v k).activation = s.activation := rfl
@[simp] theorem State.wr_normalRun (s : State) (f : Fld) (n v k : Nat) : (s.wr f n v k).normalRun = s.normalRun := rfl
@[simp] theorem State.wr_fwWaits (s : State) (f : Fld) (n v k : Nat) : (s.wr f n v k).fwWaits = s.fwWaits := rfl
@[simp] theorem State.wr_events (s : State) (f : Fld) (n v k : Nat) : (s.wr f n v k).events = s.events := rfl
@[simp] theorem State.wr_flash (s : State) (f : Fld) (n v k : Nat) : (s.wr f n v k).flash = s.flash := rfl
@[simp] theorem State.wr_sec (s : State) (f : Fld) (n v k : Nat) : (s.wr f n v k).sec = s.sec := rfl
@[simp] theorem State.wr_mgt (s : State) (f : Fld) (n v k : Nat) : (s.wr f n v k).mgt = s.mgt := rfl
@[simp] theorem State.wr_modSt (s : State) (f : Fld) (n v k : Nat) : (s.wr f n v k).modSt = s.modSt := rfl
@[simp] theorem State.wr_freeIdx (s : State) (f : Fld) (n v k : Nat) : (s.wr f n v k).freeIdx = s.freeIdx := rfl
@[simp] theorem State.wr_sent (s : State) (f : Fld) (n v k : Nat) : (s.wr f n v k).sent = s.sent := rfl

@[simp] theorem State.bump_pending (s : State) (f : Fld) (n v : Nat) : (s.bump f n v).pending = s.pending := rfl
@[simp] theorem State.bump_now (s : State) (f : Fld) (n v : Nat) : (s.bump f n v).now = s.now := rfl
@[simp] theorem State.bump_mem (s : State) (f : Fld) (n v : Nat) : (s.bump f n v).mem = s.mem := rfl
@[simp] theorem State.bump_poison (s : State) (f : Fld) (n v : Nat) : (s.bump f n v).poison = s.poison := rfl
@[simp] theorem State.bump_scrambled (s : State) (f : Fld) (n v : Nat) : (s.bump f n v).scrambled = s.scrambled := rfl
@[simp] theorem State.bump_cores (s : State) (f : Fld) (n v : Nat) : (s.bump f n v).cores = s.cores := rfl
@[simp] theorem State.bump_stopped (s : State) (f : Fld) (n v : Nat) : (s.bump f n v).stopped = s.stopped := rfl
@[simp] theorem State.bump_downClusters (s : State) (f : Fld) (n v : Nat) : (s.bump f n v).downClusters = s.downClusters := rfl
@[simp] theorem State.bump_tasks (s : State) (f : Fld) (n v : Nat) : (s.bump f n v).tasks = s.tasks := rfl
@[simp] theorem State.bump_nextTask (s : State) (f : Fld) (n v : Nat) : (s.bump f n v).nextTask = s.nextTask := rfl
@[simp] theorem State.bump_saved (s : State) (f : Fld) (n v : Nat) : (s.bump f n v).saved = s.saved := rfl
@[simp] theorem State.bump_regionCtrs (s : State) (f : Fld) (n v : Nat) : (s.bump f n v).regionCtrs = s.regionCtrs := rfl
@[simp] theorem State.bump_nextArrival (s : State) (f : Fld) (n v : Nat) : (s.bump f n v).nextArrival = s.nextArrival := rfl
@[simp] theorem State.bump_merges (s : State) (f : Fld) (n v : Nat) : (s.bump f n v).merges = s.merges := rfl
@[simp] theorem State.bump_canvases (s : State) (f : Fld) (n v : Nat) : (s.bump f n v).canvases = s.canvases := rfl
@[simp] theorem State.bump_coh (s : State) (f : Fld) (n v : Nat) : (s.bump f n v).coh = s.coh := rfl
@[simp] theorem State.bump_srams (s : State) (f : Fld) (n v : Nat) : (s.bump f n v).srams = s.srams := rfl
@[simp] theorem State.bump_channels (s : State) (f : Fld) (n v : Nat) : (s.bump f n v).channels = s.channels := rfl
@[simp] theorem State.bump_stackSts (s : State) (f : Fld) (n v : Nat) : (s.bump f n v).stackSts = s.stackSts := rfl
@[simp] theorem State.bump_tlbs (s : State) (f : Fld) (n v : Nat) : (s.bump f n v).tlbs = s.tlbs := rfl
@[simp] theorem State.bump_xfr (s : State) (f : Fld) (n v : Nat) : (s.bump f n v).xfr = s.xfr := rfl
@[simp] theorem State.bump_pages (s : State) (f : Fld) (n v : Nat) : (s.bump f n v).pages = s.pages := rfl
@[simp] theorem State.bump_queues (s : State) (f : Fld) (n v : Nat) : (s.bump f n v).queues = s.queues := rfl
@[simp] theorem State.bump_barReads (s : State) (f : Fld) (n v : Nat) : (s.bump f n v).barReads = s.barReads := rfl
@[simp] theorem State.bump_nextBarRead (s : State) (f : Fld) (n v : Nat) : (s.bump f n v).nextBarRead = s.nextBarRead := rfl
@[simp] theorem State.bump_msix (s : State) (f : Fld) (n v : Nat) : (s.bump f n v).msix = s.msix := rfl
@[simp] theorem State.bump_session (s : State) (f : Fld) (n v : Nat) : (s.bump f n v).session = s.session := rfl
@[simp] theorem State.bump_ports (s : State) (f : Fld) (n v : Nat) : (s.bump f n v).ports = s.ports := rfl
@[simp] theorem State.bump_slots (s : State) (f : Fld) (n v : Nat) : (s.bump f n v).slots = s.slots := rfl
@[simp] theorem State.bump_ranks (s : State) (f : Fld) (n v : Nat) : (s.bump f n v).ranks = s.ranks := rfl
@[simp] theorem State.bump_ptp (s : State) (f : Fld) (n v : Nat) : (s.bump f n v).ptp = s.ptp := rfl
@[simp] theorem State.bump_skbs (s : State) (f : Fld) (n v : Nat) : (s.bump f n v).skbs = s.skbs := rfl
@[simp] theorem State.bump_power (s : State) (f : Fld) (n v : Nat) : (s.bump f n v).power = s.power := rfl
@[simp] theorem State.bump_pwrRegions (s : State) (f : Fld) (n v : Nat) : (s.bump f n v).pwrRegions = s.pwrRegions := rfl
@[simp] theorem State.bump_fwCores (s : State) (f : Fld) (n v : Nat) : (s.bump f n v).fwCores = s.fwCores := rfl
@[simp] theorem State.bump_staging (s : State) (f : Fld) (n v : Nat) : (s.bump f n v).staging = s.staging := rfl
@[simp] theorem State.bump_activation (s : State) (f : Fld) (n v : Nat) : (s.bump f n v).activation = s.activation := rfl
@[simp] theorem State.bump_normalRun (s : State) (f : Fld) (n v : Nat) : (s.bump f n v).normalRun = s.normalRun := rfl
@[simp] theorem State.bump_fwWaits (s : State) (f : Fld) (n v : Nat) : (s.bump f n v).fwWaits = s.fwWaits := rfl
@[simp] theorem State.bump_events (s : State) (f : Fld) (n v : Nat) : (s.bump f n v).events = s.events := rfl
@[simp] theorem State.bump_flash (s : State) (f : Fld) (n v : Nat) : (s.bump f n v).flash = s.flash := rfl
@[simp] theorem State.bump_sec (s : State) (f : Fld) (n v : Nat) : (s.bump f n v).sec = s.sec := rfl
@[simp] theorem State.bump_mgt (s : State) (f : Fld) (n v : Nat) : (s.bump f n v).mgt = s.mgt := rfl
@[simp] theorem State.bump_modSt (s : State) (f : Fld) (n v : Nat) : (s.bump f n v).modSt = s.modSt := rfl
@[simp] theorem State.bump_freeIdx (s : State) (f : Fld) (n v : Nat) : (s.bump f n v).freeIdx = s.freeIdx := rfl
@[simp] theorem State.bump_sent (s : State) (f : Fld) (n v : Nat) : (s.bump f n v).sent = s.sent := rfl

@[simp] theorem State.bumpSat_pending (s : State) (f : Fld) (n v : Nat) : (s.bumpSat f n v).pending = s.pending := rfl
@[simp] theorem State.bumpSat_now (s : State) (f : Fld) (n v : Nat) : (s.bumpSat f n v).now = s.now := rfl
@[simp] theorem State.bumpSat_mem (s : State) (f : Fld) (n v : Nat) : (s.bumpSat f n v).mem = s.mem := rfl
@[simp] theorem State.bumpSat_poison (s : State) (f : Fld) (n v : Nat) : (s.bumpSat f n v).poison = s.poison := rfl
@[simp] theorem State.bumpSat_scrambled (s : State) (f : Fld) (n v : Nat) : (s.bumpSat f n v).scrambled = s.scrambled := rfl
@[simp] theorem State.bumpSat_cores (s : State) (f : Fld) (n v : Nat) : (s.bumpSat f n v).cores = s.cores := rfl
@[simp] theorem State.bumpSat_stopped (s : State) (f : Fld) (n v : Nat) : (s.bumpSat f n v).stopped = s.stopped := rfl
@[simp] theorem State.bumpSat_downClusters (s : State) (f : Fld) (n v : Nat) : (s.bumpSat f n v).downClusters = s.downClusters := rfl
@[simp] theorem State.bumpSat_tasks (s : State) (f : Fld) (n v : Nat) : (s.bumpSat f n v).tasks = s.tasks := rfl
@[simp] theorem State.bumpSat_nextTask (s : State) (f : Fld) (n v : Nat) : (s.bumpSat f n v).nextTask = s.nextTask := rfl
@[simp] theorem State.bumpSat_saved (s : State) (f : Fld) (n v : Nat) : (s.bumpSat f n v).saved = s.saved := rfl
@[simp] theorem State.bumpSat_regionCtrs (s : State) (f : Fld) (n v : Nat) : (s.bumpSat f n v).regionCtrs = s.regionCtrs := rfl
@[simp] theorem State.bumpSat_nextArrival (s : State) (f : Fld) (n v : Nat) : (s.bumpSat f n v).nextArrival = s.nextArrival := rfl
@[simp] theorem State.bumpSat_merges (s : State) (f : Fld) (n v : Nat) : (s.bumpSat f n v).merges = s.merges := rfl
@[simp] theorem State.bumpSat_canvases (s : State) (f : Fld) (n v : Nat) : (s.bumpSat f n v).canvases = s.canvases := rfl
@[simp] theorem State.bumpSat_coh (s : State) (f : Fld) (n v : Nat) : (s.bumpSat f n v).coh = s.coh := rfl
@[simp] theorem State.bumpSat_srams (s : State) (f : Fld) (n v : Nat) : (s.bumpSat f n v).srams = s.srams := rfl
@[simp] theorem State.bumpSat_channels (s : State) (f : Fld) (n v : Nat) : (s.bumpSat f n v).channels = s.channels := rfl
@[simp] theorem State.bumpSat_stackSts (s : State) (f : Fld) (n v : Nat) : (s.bumpSat f n v).stackSts = s.stackSts := rfl
@[simp] theorem State.bumpSat_tlbs (s : State) (f : Fld) (n v : Nat) : (s.bumpSat f n v).tlbs = s.tlbs := rfl
@[simp] theorem State.bumpSat_xfr (s : State) (f : Fld) (n v : Nat) : (s.bumpSat f n v).xfr = s.xfr := rfl
@[simp] theorem State.bumpSat_pages (s : State) (f : Fld) (n v : Nat) : (s.bumpSat f n v).pages = s.pages := rfl
@[simp] theorem State.bumpSat_queues (s : State) (f : Fld) (n v : Nat) : (s.bumpSat f n v).queues = s.queues := rfl
@[simp] theorem State.bumpSat_barReads (s : State) (f : Fld) (n v : Nat) : (s.bumpSat f n v).barReads = s.barReads := rfl
@[simp] theorem State.bumpSat_nextBarRead (s : State) (f : Fld) (n v : Nat) : (s.bumpSat f n v).nextBarRead = s.nextBarRead := rfl
@[simp] theorem State.bumpSat_msix (s : State) (f : Fld) (n v : Nat) : (s.bumpSat f n v).msix = s.msix := rfl
@[simp] theorem State.bumpSat_session (s : State) (f : Fld) (n v : Nat) : (s.bumpSat f n v).session = s.session := rfl
@[simp] theorem State.bumpSat_ports (s : State) (f : Fld) (n v : Nat) : (s.bumpSat f n v).ports = s.ports := rfl
@[simp] theorem State.bumpSat_slots (s : State) (f : Fld) (n v : Nat) : (s.bumpSat f n v).slots = s.slots := rfl
@[simp] theorem State.bumpSat_ranks (s : State) (f : Fld) (n v : Nat) : (s.bumpSat f n v).ranks = s.ranks := rfl
@[simp] theorem State.bumpSat_ptp (s : State) (f : Fld) (n v : Nat) : (s.bumpSat f n v).ptp = s.ptp := rfl
@[simp] theorem State.bumpSat_skbs (s : State) (f : Fld) (n v : Nat) : (s.bumpSat f n v).skbs = s.skbs := rfl
@[simp] theorem State.bumpSat_power (s : State) (f : Fld) (n v : Nat) : (s.bumpSat f n v).power = s.power := rfl
@[simp] theorem State.bumpSat_pwrRegions (s : State) (f : Fld) (n v : Nat) : (s.bumpSat f n v).pwrRegions = s.pwrRegions := rfl
@[simp] theorem State.bumpSat_fwCores (s : State) (f : Fld) (n v : Nat) : (s.bumpSat f n v).fwCores = s.fwCores := rfl
@[simp] theorem State.bumpSat_staging (s : State) (f : Fld) (n v : Nat) : (s.bumpSat f n v).staging = s.staging := rfl
@[simp] theorem State.bumpSat_activation (s : State) (f : Fld) (n v : Nat) : (s.bumpSat f n v).activation = s.activation := rfl
@[simp] theorem State.bumpSat_normalRun (s : State) (f : Fld) (n v : Nat) : (s.bumpSat f n v).normalRun = s.normalRun := rfl
@[simp] theorem State.bumpSat_fwWaits (s : State) (f : Fld) (n v : Nat) : (s.bumpSat f n v).fwWaits = s.fwWaits := rfl
@[simp] theorem State.bumpSat_events (s : State) (f : Fld) (n v : Nat) : (s.bumpSat f n v).events = s.events := rfl
@[simp] theorem State.bumpSat_flash (s : State) (f : Fld) (n v : Nat) : (s.bumpSat f n v).flash = s.flash := rfl
@[simp] theorem State.bumpSat_sec (s : State) (f : Fld) (n v : Nat) : (s.bumpSat f n v).sec = s.sec := rfl
@[simp] theorem State.bumpSat_mgt (s : State) (f : Fld) (n v : Nat) : (s.bumpSat f n v).mgt = s.mgt := rfl
@[simp] theorem State.bumpSat_modSt (s : State) (f : Fld) (n v : Nat) : (s.bumpSat f n v).modSt = s.modSt := rfl
@[simp] theorem State.bumpSat_freeIdx (s : State) (f : Fld) (n v : Nat) : (s.bumpSat f n v).freeIdx = s.freeIdx := rfl
@[simp] theorem State.bumpSat_sent (s : State) (f : Fld) (n v : Nat) : (s.bumpSat f n v).sent = s.sent := rfl

@[simp] theorem State.clearReg_pending (s : State) (r : Reg) (n : Nat) : (s.clearReg r n).pending = s.pending := rfl
@[simp] theorem State.clearReg_now (s : State) (r : Reg) (n : Nat) : (s.clearReg r n).now = s.now := rfl
@[simp] theorem State.clearReg_mem (s : State) (r : Reg) (n : Nat) : (s.clearReg r n).mem = s.mem := rfl
@[simp] theorem State.clearReg_poison (s : State) (r : Reg) (n : Nat) : (s.clearReg r n).poison = s.poison := rfl
@[simp] theorem State.clearReg_scrambled (s : State) (r : Reg) (n : Nat) : (s.clearReg r n).scrambled = s.scrambled := rfl
@[simp] theorem State.clearReg_cores (s : State) (r : Reg) (n : Nat) : (s.clearReg r n).cores = s.cores := rfl
@[simp] theorem State.clearReg_stopped (s : State) (r : Reg) (n : Nat) : (s.clearReg r n).stopped = s.stopped := rfl
@[simp] theorem State.clearReg_downClusters (s : State) (r : Reg) (n : Nat) : (s.clearReg r n).downClusters = s.downClusters := rfl
@[simp] theorem State.clearReg_tasks (s : State) (r : Reg) (n : Nat) : (s.clearReg r n).tasks = s.tasks := rfl
@[simp] theorem State.clearReg_nextTask (s : State) (r : Reg) (n : Nat) : (s.clearReg r n).nextTask = s.nextTask := rfl
@[simp] theorem State.clearReg_saved (s : State) (r : Reg) (n : Nat) : (s.clearReg r n).saved = s.saved := rfl
@[simp] theorem State.clearReg_regionCtrs (s : State) (r : Reg) (n : Nat) : (s.clearReg r n).regionCtrs = s.regionCtrs := rfl
@[simp] theorem State.clearReg_nextArrival (s : State) (r : Reg) (n : Nat) : (s.clearReg r n).nextArrival = s.nextArrival := rfl
@[simp] theorem State.clearReg_merges (s : State) (r : Reg) (n : Nat) : (s.clearReg r n).merges = s.merges := rfl
@[simp] theorem State.clearReg_canvases (s : State) (r : Reg) (n : Nat) : (s.clearReg r n).canvases = s.canvases := rfl
@[simp] theorem State.clearReg_coh (s : State) (r : Reg) (n : Nat) : (s.clearReg r n).coh = s.coh := rfl
@[simp] theorem State.clearReg_srams (s : State) (r : Reg) (n : Nat) : (s.clearReg r n).srams = s.srams := rfl
@[simp] theorem State.clearReg_channels (s : State) (r : Reg) (n : Nat) : (s.clearReg r n).channels = s.channels := rfl
@[simp] theorem State.clearReg_stackSts (s : State) (r : Reg) (n : Nat) : (s.clearReg r n).stackSts = s.stackSts := rfl
@[simp] theorem State.clearReg_tlbs (s : State) (r : Reg) (n : Nat) : (s.clearReg r n).tlbs = s.tlbs := rfl
@[simp] theorem State.clearReg_xfr (s : State) (r : Reg) (n : Nat) : (s.clearReg r n).xfr = s.xfr := rfl
@[simp] theorem State.clearReg_pages (s : State) (r : Reg) (n : Nat) : (s.clearReg r n).pages = s.pages := rfl
@[simp] theorem State.clearReg_queues (s : State) (r : Reg) (n : Nat) : (s.clearReg r n).queues = s.queues := rfl
@[simp] theorem State.clearReg_barReads (s : State) (r : Reg) (n : Nat) : (s.clearReg r n).barReads = s.barReads := rfl
@[simp] theorem State.clearReg_nextBarRead (s : State) (r : Reg) (n : Nat) : (s.clearReg r n).nextBarRead = s.nextBarRead := rfl
@[simp] theorem State.clearReg_msix (s : State) (r : Reg) (n : Nat) : (s.clearReg r n).msix = s.msix := rfl
@[simp] theorem State.clearReg_session (s : State) (r : Reg) (n : Nat) : (s.clearReg r n).session = s.session := rfl
@[simp] theorem State.clearReg_ports (s : State) (r : Reg) (n : Nat) : (s.clearReg r n).ports = s.ports := rfl
@[simp] theorem State.clearReg_slots (s : State) (r : Reg) (n : Nat) : (s.clearReg r n).slots = s.slots := rfl
@[simp] theorem State.clearReg_ranks (s : State) (r : Reg) (n : Nat) : (s.clearReg r n).ranks = s.ranks := rfl
@[simp] theorem State.clearReg_ptp (s : State) (r : Reg) (n : Nat) : (s.clearReg r n).ptp = s.ptp := rfl
@[simp] theorem State.clearReg_skbs (s : State) (r : Reg) (n : Nat) : (s.clearReg r n).skbs = s.skbs := rfl
@[simp] theorem State.clearReg_power (s : State) (r : Reg) (n : Nat) : (s.clearReg r n).power = s.power := rfl
@[simp] theorem State.clearReg_pwrRegions (s : State) (r : Reg) (n : Nat) : (s.clearReg r n).pwrRegions = s.pwrRegions := rfl
@[simp] theorem State.clearReg_fwCores (s : State) (r : Reg) (n : Nat) : (s.clearReg r n).fwCores = s.fwCores := rfl
@[simp] theorem State.clearReg_staging (s : State) (r : Reg) (n : Nat) : (s.clearReg r n).staging = s.staging := rfl
@[simp] theorem State.clearReg_activation (s : State) (r : Reg) (n : Nat) : (s.clearReg r n).activation = s.activation := rfl
@[simp] theorem State.clearReg_normalRun (s : State) (r : Reg) (n : Nat) : (s.clearReg r n).normalRun = s.normalRun := rfl
@[simp] theorem State.clearReg_fwWaits (s : State) (r : Reg) (n : Nat) : (s.clearReg r n).fwWaits = s.fwWaits := rfl
@[simp] theorem State.clearReg_events (s : State) (r : Reg) (n : Nat) : (s.clearReg r n).events = s.events := rfl
@[simp] theorem State.clearReg_flash (s : State) (r : Reg) (n : Nat) : (s.clearReg r n).flash = s.flash := rfl
@[simp] theorem State.clearReg_sec (s : State) (r : Reg) (n : Nat) : (s.clearReg r n).sec = s.sec := rfl
@[simp] theorem State.clearReg_mgt (s : State) (r : Reg) (n : Nat) : (s.clearReg r n).mgt = s.mgt := rfl
@[simp] theorem State.clearReg_modSt (s : State) (r : Reg) (n : Nat) : (s.clearReg r n).modSt = s.modSt := rfl
@[simp] theorem State.clearReg_freeIdx (s : State) (r : Reg) (n : Nat) : (s.clearReg r n).freeIdx = s.freeIdx := rfl
@[simp] theorem State.clearReg_sent (s : State) (r : Reg) (n : Nat) : (s.clearReg r n).sent = s.sent := rfl

@[simp] theorem State.send_pending (s : State) (m : Sent) : (s.send m).pending = s.pending := rfl
@[simp] theorem State.send_now (s : State) (m : Sent) : (s.send m).now = s.now := rfl
@[simp] theorem State.send_regs (s : State) (m : Sent) : (s.send m).regs = s.regs := rfl
@[simp] theorem State.send_mem (s : State) (m : Sent) : (s.send m).mem = s.mem := rfl
@[simp] theorem State.send_poison (s : State) (m : Sent) : (s.send m).poison = s.poison := rfl
@[simp] theorem State.send_scrambled (s : State) (m : Sent) : (s.send m).scrambled = s.scrambled := rfl
@[simp] theorem State.send_cores (s : State) (m : Sent) : (s.send m).cores = s.cores := rfl
@[simp] theorem State.send_stopped (s : State) (m : Sent) : (s.send m).stopped = s.stopped := rfl
@[simp] theorem State.send_downClusters (s : State) (m : Sent) : (s.send m).downClusters = s.downClusters := rfl
@[simp] theorem State.send_tasks (s : State) (m : Sent) : (s.send m).tasks = s.tasks := rfl
@[simp] theorem State.send_nextTask (s : State) (m : Sent) : (s.send m).nextTask = s.nextTask := rfl
@[simp] theorem State.send_saved (s : State) (m : Sent) : (s.send m).saved = s.saved := rfl
@[simp] theorem State.send_regionCtrs (s : State) (m : Sent) : (s.send m).regionCtrs = s.regionCtrs := rfl
@[simp] theorem State.send_nextArrival (s : State) (m : Sent) : (s.send m).nextArrival = s.nextArrival := rfl
@[simp] theorem State.send_merges (s : State) (m : Sent) : (s.send m).merges = s.merges := rfl
@[simp] theorem State.send_canvases (s : State) (m : Sent) : (s.send m).canvases = s.canvases := rfl
@[simp] theorem State.send_coh (s : State) (m : Sent) : (s.send m).coh = s.coh := rfl
@[simp] theorem State.send_srams (s : State) (m : Sent) : (s.send m).srams = s.srams := rfl
@[simp] theorem State.send_channels (s : State) (m : Sent) : (s.send m).channels = s.channels := rfl
@[simp] theorem State.send_stackSts (s : State) (m : Sent) : (s.send m).stackSts = s.stackSts := rfl
@[simp] theorem State.send_tlbs (s : State) (m : Sent) : (s.send m).tlbs = s.tlbs := rfl
@[simp] theorem State.send_xfr (s : State) (m : Sent) : (s.send m).xfr = s.xfr := rfl
@[simp] theorem State.send_pages (s : State) (m : Sent) : (s.send m).pages = s.pages := rfl
@[simp] theorem State.send_queues (s : State) (m : Sent) : (s.send m).queues = s.queues := rfl
@[simp] theorem State.send_barReads (s : State) (m : Sent) : (s.send m).barReads = s.barReads := rfl
@[simp] theorem State.send_nextBarRead (s : State) (m : Sent) : (s.send m).nextBarRead = s.nextBarRead := rfl
@[simp] theorem State.send_msix (s : State) (m : Sent) : (s.send m).msix = s.msix := rfl
@[simp] theorem State.send_session (s : State) (m : Sent) : (s.send m).session = s.session := rfl
@[simp] theorem State.send_ports (s : State) (m : Sent) : (s.send m).ports = s.ports := rfl
@[simp] theorem State.send_slots (s : State) (m : Sent) : (s.send m).slots = s.slots := rfl
@[simp] theorem State.send_ranks (s : State) (m : Sent) : (s.send m).ranks = s.ranks := rfl
@[simp] theorem State.send_ptp (s : State) (m : Sent) : (s.send m).ptp = s.ptp := rfl
@[simp] theorem State.send_skbs (s : State) (m : Sent) : (s.send m).skbs = s.skbs := rfl
@[simp] theorem State.send_power (s : State) (m : Sent) : (s.send m).power = s.power := rfl
@[simp] theorem State.send_pwrRegions (s : State) (m : Sent) : (s.send m).pwrRegions = s.pwrRegions := rfl
@[simp] theorem State.send_fwCores (s : State) (m : Sent) : (s.send m).fwCores = s.fwCores := rfl
@[simp] theorem State.send_staging (s : State) (m : Sent) : (s.send m).staging = s.staging := rfl
@[simp] theorem State.send_activation (s : State) (m : Sent) : (s.send m).activation = s.activation := rfl
@[simp] theorem State.send_normalRun (s : State) (m : Sent) : (s.send m).normalRun = s.normalRun := rfl
@[simp] theorem State.send_fwWaits (s : State) (m : Sent) : (s.send m).fwWaits = s.fwWaits := rfl
@[simp] theorem State.send_events (s : State) (m : Sent) : (s.send m).events = s.events := rfl
@[simp] theorem State.send_flash (s : State) (m : Sent) : (s.send m).flash = s.flash := rfl
@[simp] theorem State.send_sec (s : State) (m : Sent) : (s.send m).sec = s.sec := rfl
@[simp] theorem State.send_mgt (s : State) (m : Sent) : (s.send m).mgt = s.mgt := rfl
@[simp] theorem State.send_modSt (s : State) (m : Sent) : (s.send m).modSt = s.modSt := rfl
@[simp] theorem State.send_freeIdx (s : State) (m : Sent) : (s.send m).freeIdx = s.freeIdx := rfl

@[simp] theorem State.setCore_pending (s : State) (c : Nat) (x : CoreSt) : (s.setCore c x).pending = s.pending := rfl
@[simp] theorem State.setCore_now (s : State) (c : Nat) (x : CoreSt) : (s.setCore c x).now = s.now := rfl
@[simp] theorem State.setCore_regs (s : State) (c : Nat) (x : CoreSt) : (s.setCore c x).regs = s.regs := rfl
@[simp] theorem State.setCore_mem (s : State) (c : Nat) (x : CoreSt) : (s.setCore c x).mem = s.mem := rfl
@[simp] theorem State.setCore_poison (s : State) (c : Nat) (x : CoreSt) : (s.setCore c x).poison = s.poison := rfl
@[simp] theorem State.setCore_scrambled (s : State) (c : Nat) (x : CoreSt) : (s.setCore c x).scrambled = s.scrambled := rfl
@[simp] theorem State.setCore_stopped (s : State) (c : Nat) (x : CoreSt) : (s.setCore c x).stopped = s.stopped := rfl
@[simp] theorem State.setCore_downClusters (s : State) (c : Nat) (x : CoreSt) : (s.setCore c x).downClusters = s.downClusters := rfl
@[simp] theorem State.setCore_tasks (s : State) (c : Nat) (x : CoreSt) : (s.setCore c x).tasks = s.tasks := rfl
@[simp] theorem State.setCore_nextTask (s : State) (c : Nat) (x : CoreSt) : (s.setCore c x).nextTask = s.nextTask := rfl
@[simp] theorem State.setCore_saved (s : State) (c : Nat) (x : CoreSt) : (s.setCore c x).saved = s.saved := rfl
@[simp] theorem State.setCore_regionCtrs (s : State) (c : Nat) (x : CoreSt) : (s.setCore c x).regionCtrs = s.regionCtrs := rfl
@[simp] theorem State.setCore_nextArrival (s : State) (c : Nat) (x : CoreSt) : (s.setCore c x).nextArrival = s.nextArrival := rfl
@[simp] theorem State.setCore_merges (s : State) (c : Nat) (x : CoreSt) : (s.setCore c x).merges = s.merges := rfl
@[simp] theorem State.setCore_canvases (s : State) (c : Nat) (x : CoreSt) : (s.setCore c x).canvases = s.canvases := rfl
@[simp] theorem State.setCore_coh (s : State) (c : Nat) (x : CoreSt) : (s.setCore c x).coh = s.coh := rfl
@[simp] theorem State.setCore_srams (s : State) (c : Nat) (x : CoreSt) : (s.setCore c x).srams = s.srams := rfl
@[simp] theorem State.setCore_channels (s : State) (c : Nat) (x : CoreSt) : (s.setCore c x).channels = s.channels := rfl
@[simp] theorem State.setCore_stackSts (s : State) (c : Nat) (x : CoreSt) : (s.setCore c x).stackSts = s.stackSts := rfl
@[simp] theorem State.setCore_tlbs (s : State) (c : Nat) (x : CoreSt) : (s.setCore c x).tlbs = s.tlbs := rfl
@[simp] theorem State.setCore_xfr (s : State) (c : Nat) (x : CoreSt) : (s.setCore c x).xfr = s.xfr := rfl
@[simp] theorem State.setCore_pages (s : State) (c : Nat) (x : CoreSt) : (s.setCore c x).pages = s.pages := rfl
@[simp] theorem State.setCore_queues (s : State) (c : Nat) (x : CoreSt) : (s.setCore c x).queues = s.queues := rfl
@[simp] theorem State.setCore_barReads (s : State) (c : Nat) (x : CoreSt) : (s.setCore c x).barReads = s.barReads := rfl
@[simp] theorem State.setCore_nextBarRead (s : State) (c : Nat) (x : CoreSt) : (s.setCore c x).nextBarRead = s.nextBarRead := rfl
@[simp] theorem State.setCore_msix (s : State) (c : Nat) (x : CoreSt) : (s.setCore c x).msix = s.msix := rfl
@[simp] theorem State.setCore_session (s : State) (c : Nat) (x : CoreSt) : (s.setCore c x).session = s.session := rfl
@[simp] theorem State.setCore_ports (s : State) (c : Nat) (x : CoreSt) : (s.setCore c x).ports = s.ports := rfl
@[simp] theorem State.setCore_slots (s : State) (c : Nat) (x : CoreSt) : (s.setCore c x).slots = s.slots := rfl
@[simp] theorem State.setCore_ranks (s : State) (c : Nat) (x : CoreSt) : (s.setCore c x).ranks = s.ranks := rfl
@[simp] theorem State.setCore_ptp (s : State) (c : Nat) (x : CoreSt) : (s.setCore c x).ptp = s.ptp := rfl
@[simp] theorem State.setCore_skbs (s : State) (c : Nat) (x : CoreSt) : (s.setCore c x).skbs = s.skbs := rfl
@[simp] theorem State.setCore_power (s : State) (c : Nat) (x : CoreSt) : (s.setCore c x).power = s.power := rfl
@[simp] theorem State.setCore_pwrRegions (s : State) (c : Nat) (x : CoreSt) : (s.setCore c x).pwrRegions = s.pwrRegions := rfl
@[simp] theorem State.setCore_fwCores (s : State) (c : Nat) (x : CoreSt) : (s.setCore c x).fwCores = s.fwCores := rfl
@[simp] theorem State.setCore_staging (s : State) (c : Nat) (x : CoreSt) : (s.setCore c x).staging = s.staging := rfl
@[simp] theorem State.setCore_activation (s : State) (c : Nat) (x : CoreSt) : (s.setCore c x).activation = s.activation := rfl
@[simp] theorem State.setCore_normalRun (s : State) (c : Nat) (x : CoreSt) : (s.setCore c x).normalRun = s.normalRun := rfl
@[simp] theorem State.setCore_fwWaits (s : State) (c : Nat) (x : CoreSt) : (s.setCore c x).fwWaits = s.fwWaits := rfl
@[simp] theorem State.setCore_events (s : State) (c : Nat) (x : CoreSt) : (s.setCore c x).events = s.events := rfl
@[simp] theorem State.setCore_flash (s : State) (c : Nat) (x : CoreSt) : (s.setCore c x).flash = s.flash := rfl
@[simp] theorem State.setCore_sec (s : State) (c : Nat) (x : CoreSt) : (s.setCore c x).sec = s.sec := rfl
@[simp] theorem State.setCore_mgt (s : State) (c : Nat) (x : CoreSt) : (s.setCore c x).mgt = s.mgt := rfl
@[simp] theorem State.setCore_modSt (s : State) (c : Nat) (x : CoreSt) : (s.setCore c x).modSt = s.modSt := rfl
@[simp] theorem State.setCore_freeIdx (s : State) (c : Nat) (x : CoreSt) : (s.setCore c x).freeIdx = s.freeIdx := rfl
@[simp] theorem State.setCore_sent (s : State) (c : Nat) (x : CoreSt) : (s.setCore c x).sent = s.sent := rfl

@[simp] theorem State.writeByte_pending (s : State) (a : Nat) (b : Byte) : (s.writeByte a b).pending = s.pending := rfl
@[simp] theorem State.writeByte_now (s : State) (a : Nat) (b : Byte) : (s.writeByte a b).now = s.now := rfl
@[simp] theorem State.writeByte_regs (s : State) (a : Nat) (b : Byte) : (s.writeByte a b).regs = s.regs := rfl
@[simp] theorem State.writeByte_poison (s : State) (a : Nat) (b : Byte) : (s.writeByte a b).poison = s.poison := rfl
@[simp] theorem State.writeByte_scrambled (s : State) (a : Nat) (b : Byte) : (s.writeByte a b).scrambled = s.scrambled := rfl
@[simp] theorem State.writeByte_cores (s : State) (a : Nat) (b : Byte) : (s.writeByte a b).cores = s.cores := rfl
@[simp] theorem State.writeByte_stopped (s : State) (a : Nat) (b : Byte) : (s.writeByte a b).stopped = s.stopped := rfl
@[simp] theorem State.writeByte_downClusters (s : State) (a : Nat) (b : Byte) : (s.writeByte a b).downClusters = s.downClusters := rfl
@[simp] theorem State.writeByte_tasks (s : State) (a : Nat) (b : Byte) : (s.writeByte a b).tasks = s.tasks := rfl
@[simp] theorem State.writeByte_nextTask (s : State) (a : Nat) (b : Byte) : (s.writeByte a b).nextTask = s.nextTask := rfl
@[simp] theorem State.writeByte_saved (s : State) (a : Nat) (b : Byte) : (s.writeByte a b).saved = s.saved := rfl
@[simp] theorem State.writeByte_regionCtrs (s : State) (a : Nat) (b : Byte) : (s.writeByte a b).regionCtrs = s.regionCtrs := rfl
@[simp] theorem State.writeByte_nextArrival (s : State) (a : Nat) (b : Byte) : (s.writeByte a b).nextArrival = s.nextArrival := rfl
@[simp] theorem State.writeByte_merges (s : State) (a : Nat) (b : Byte) : (s.writeByte a b).merges = s.merges := rfl
@[simp] theorem State.writeByte_canvases (s : State) (a : Nat) (b : Byte) : (s.writeByte a b).canvases = s.canvases := rfl
@[simp] theorem State.writeByte_coh (s : State) (a : Nat) (b : Byte) : (s.writeByte a b).coh = s.coh := rfl
@[simp] theorem State.writeByte_srams (s : State) (a : Nat) (b : Byte) : (s.writeByte a b).srams = s.srams := rfl
@[simp] theorem State.writeByte_channels (s : State) (a : Nat) (b : Byte) : (s.writeByte a b).channels = s.channels := rfl
@[simp] theorem State.writeByte_stackSts (s : State) (a : Nat) (b : Byte) : (s.writeByte a b).stackSts = s.stackSts := rfl
@[simp] theorem State.writeByte_tlbs (s : State) (a : Nat) (b : Byte) : (s.writeByte a b).tlbs = s.tlbs := rfl
@[simp] theorem State.writeByte_xfr (s : State) (a : Nat) (b : Byte) : (s.writeByte a b).xfr = s.xfr := rfl
@[simp] theorem State.writeByte_pages (s : State) (a : Nat) (b : Byte) : (s.writeByte a b).pages = s.pages := rfl
@[simp] theorem State.writeByte_queues (s : State) (a : Nat) (b : Byte) : (s.writeByte a b).queues = s.queues := rfl
@[simp] theorem State.writeByte_barReads (s : State) (a : Nat) (b : Byte) : (s.writeByte a b).barReads = s.barReads := rfl
@[simp] theorem State.writeByte_nextBarRead (s : State) (a : Nat) (b : Byte) : (s.writeByte a b).nextBarRead = s.nextBarRead := rfl
@[simp] theorem State.writeByte_msix (s : State) (a : Nat) (b : Byte) : (s.writeByte a b).msix = s.msix := rfl
@[simp] theorem State.writeByte_session (s : State) (a : Nat) (b : Byte) : (s.writeByte a b).session = s.session := rfl
@[simp] theorem State.writeByte_ports (s : State) (a : Nat) (b : Byte) : (s.writeByte a b).ports = s.ports := rfl
@[simp] theorem State.writeByte_slots (s : State) (a : Nat) (b : Byte) : (s.writeByte a b).slots = s.slots := rfl
@[simp] theorem State.writeByte_ranks (s : State) (a : Nat) (b : Byte) : (s.writeByte a b).ranks = s.ranks := rfl
@[simp] theorem State.writeByte_ptp (s : State) (a : Nat) (b : Byte) : (s.writeByte a b).ptp = s.ptp := rfl
@[simp] theorem State.writeByte_skbs (s : State) (a : Nat) (b : Byte) : (s.writeByte a b).skbs = s.skbs := rfl
@[simp] theorem State.writeByte_power (s : State) (a : Nat) (b : Byte) : (s.writeByte a b).power = s.power := rfl
@[simp] theorem State.writeByte_pwrRegions (s : State) (a : Nat) (b : Byte) : (s.writeByte a b).pwrRegions = s.pwrRegions := rfl
@[simp] theorem State.writeByte_fwCores (s : State) (a : Nat) (b : Byte) : (s.writeByte a b).fwCores = s.fwCores := rfl
@[simp] theorem State.writeByte_staging (s : State) (a : Nat) (b : Byte) : (s.writeByte a b).staging = s.staging := rfl
@[simp] theorem State.writeByte_activation (s : State) (a : Nat) (b : Byte) : (s.writeByte a b).activation = s.activation := rfl
@[simp] theorem State.writeByte_normalRun (s : State) (a : Nat) (b : Byte) : (s.writeByte a b).normalRun = s.normalRun := rfl
@[simp] theorem State.writeByte_fwWaits (s : State) (a : Nat) (b : Byte) : (s.writeByte a b).fwWaits = s.fwWaits := rfl
@[simp] theorem State.writeByte_events (s : State) (a : Nat) (b : Byte) : (s.writeByte a b).events = s.events := rfl
@[simp] theorem State.writeByte_flash (s : State) (a : Nat) (b : Byte) : (s.writeByte a b).flash = s.flash := rfl
@[simp] theorem State.writeByte_sec (s : State) (a : Nat) (b : Byte) : (s.writeByte a b).sec = s.sec := rfl
@[simp] theorem State.writeByte_mgt (s : State) (a : Nat) (b : Byte) : (s.writeByte a b).mgt = s.mgt := rfl
@[simp] theorem State.writeByte_modSt (s : State) (a : Nat) (b : Byte) : (s.writeByte a b).modSt = s.modSt := rfl
@[simp] theorem State.writeByte_freeIdx (s : State) (a : Nat) (b : Byte) : (s.writeByte a b).freeIdx = s.freeIdx := rfl
@[simp] theorem State.writeByte_sent (s : State) (a : Nat) (b : Byte) : (s.writeByte a b).sent = s.sent := rfl

@[simp] theorem State.markPoison_pending (s : State) (b : Nat) : (s.markPoison b).pending = s.pending := rfl
@[simp] theorem State.markPoison_now (s : State) (b : Nat) : (s.markPoison b).now = s.now := rfl
@[simp] theorem State.markPoison_regs (s : State) (b : Nat) : (s.markPoison b).regs = s.regs := rfl
@[simp] theorem State.markPoison_mem (s : State) (b : Nat) : (s.markPoison b).mem = s.mem := rfl
@[simp] theorem State.markPoison_scrambled (s : State) (b : Nat) : (s.markPoison b).scrambled = s.scrambled := rfl
@[simp] theorem State.markPoison_cores (s : State) (b : Nat) : (s.markPoison b).cores = s.cores := rfl
@[simp] theorem State.markPoison_stopped (s : State) (b : Nat) : (s.markPoison b).stopped = s.stopped := rfl
@[simp] theorem State.markPoison_downClusters (s : State) (b : Nat) : (s.markPoison b).downClusters = s.downClusters := rfl
@[simp] theorem State.markPoison_tasks (s : State) (b : Nat) : (s.markPoison b).tasks = s.tasks := rfl
@[simp] theorem State.markPoison_nextTask (s : State) (b : Nat) : (s.markPoison b).nextTask = s.nextTask := rfl
@[simp] theorem State.markPoison_saved (s : State) (b : Nat) : (s.markPoison b).saved = s.saved := rfl
@[simp] theorem State.markPoison_regionCtrs (s : State) (b : Nat) : (s.markPoison b).regionCtrs = s.regionCtrs := rfl
@[simp] theorem State.markPoison_nextArrival (s : State) (b : Nat) : (s.markPoison b).nextArrival = s.nextArrival := rfl
@[simp] theorem State.markPoison_merges (s : State) (b : Nat) : (s.markPoison b).merges = s.merges := rfl
@[simp] theorem State.markPoison_canvases (s : State) (b : Nat) : (s.markPoison b).canvases = s.canvases := rfl
@[simp] theorem State.markPoison_coh (s : State) (b : Nat) : (s.markPoison b).coh = s.coh := rfl
@[simp] theorem State.markPoison_srams (s : State) (b : Nat) : (s.markPoison b).srams = s.srams := rfl
@[simp] theorem State.markPoison_channels (s : State) (b : Nat) : (s.markPoison b).channels = s.channels := rfl
@[simp] theorem State.markPoison_stackSts (s : State) (b : Nat) : (s.markPoison b).stackSts = s.stackSts := rfl
@[simp] theorem State.markPoison_tlbs (s : State) (b : Nat) : (s.markPoison b).tlbs = s.tlbs := rfl
@[simp] theorem State.markPoison_xfr (s : State) (b : Nat) : (s.markPoison b).xfr = s.xfr := rfl
@[simp] theorem State.markPoison_pages (s : State) (b : Nat) : (s.markPoison b).pages = s.pages := rfl
@[simp] theorem State.markPoison_queues (s : State) (b : Nat) : (s.markPoison b).queues = s.queues := rfl
@[simp] theorem State.markPoison_barReads (s : State) (b : Nat) : (s.markPoison b).barReads = s.barReads := rfl
@[simp] theorem State.markPoison_nextBarRead (s : State) (b : Nat) : (s.markPoison b).nextBarRead = s.nextBarRead := rfl
@[simp] theorem State.markPoison_msix (s : State) (b : Nat) : (s.markPoison b).msix = s.msix := rfl
@[simp] theorem State.markPoison_session (s : State) (b : Nat) : (s.markPoison b).session = s.session := rfl
@[simp] theorem State.markPoison_ports (s : State) (b : Nat) : (s.markPoison b).ports = s.ports := rfl
@[simp] theorem State.markPoison_slots (s : State) (b : Nat) : (s.markPoison b).slots = s.slots := rfl
@[simp] theorem State.markPoison_ranks (s : State) (b : Nat) : (s.markPoison b).ranks = s.ranks := rfl
@[simp] theorem State.markPoison_ptp (s : State) (b : Nat) : (s.markPoison b).ptp = s.ptp := rfl
@[simp] theorem State.markPoison_skbs (s : State) (b : Nat) : (s.markPoison b).skbs = s.skbs := rfl
@[simp] theorem State.markPoison_power (s : State) (b : Nat) : (s.markPoison b).power = s.power := rfl
@[simp] theorem State.markPoison_pwrRegions (s : State) (b : Nat) : (s.markPoison b).pwrRegions = s.pwrRegions := rfl
@[simp] theorem State.markPoison_fwCores (s : State) (b : Nat) : (s.markPoison b).fwCores = s.fwCores := rfl
@[simp] theorem State.markPoison_staging (s : State) (b : Nat) : (s.markPoison b).staging = s.staging := rfl
@[simp] theorem State.markPoison_activation (s : State) (b : Nat) : (s.markPoison b).activation = s.activation := rfl
@[simp] theorem State.markPoison_normalRun (s : State) (b : Nat) : (s.markPoison b).normalRun = s.normalRun := rfl
@[simp] theorem State.markPoison_fwWaits (s : State) (b : Nat) : (s.markPoison b).fwWaits = s.fwWaits := rfl
@[simp] theorem State.markPoison_events (s : State) (b : Nat) : (s.markPoison b).events = s.events := rfl
@[simp] theorem State.markPoison_flash (s : State) (b : Nat) : (s.markPoison b).flash = s.flash := rfl
@[simp] theorem State.markPoison_sec (s : State) (b : Nat) : (s.markPoison b).sec = s.sec := rfl
@[simp] theorem State.markPoison_mgt (s : State) (b : Nat) : (s.markPoison b).mgt = s.mgt := rfl
@[simp] theorem State.markPoison_modSt (s : State) (b : Nat) : (s.markPoison b).modSt = s.modSt := rfl
@[simp] theorem State.markPoison_freeIdx (s : State) (b : Nat) : (s.markPoison b).freeIdx = s.freeIdx := rfl
@[simp] theorem State.markPoison_sent (s : State) (b : Nat) : (s.markPoison b).sent = s.sent := rfl

@[simp] theorem State.clearPoison_pending (s : State) (b : Nat) : (s.clearPoison b).pending = s.pending := rfl
@[simp] theorem State.clearPoison_now (s : State) (b : Nat) : (s.clearPoison b).now = s.now := rfl
@[simp] theorem State.clearPoison_regs (s : State) (b : Nat) : (s.clearPoison b).regs = s.regs := rfl
@[simp] theorem State.clearPoison_mem (s : State) (b : Nat) : (s.clearPoison b).mem = s.mem := rfl
@[simp] theorem State.clearPoison_scrambled (s : State) (b : Nat) : (s.clearPoison b).scrambled = s.scrambled := rfl
@[simp] theorem State.clearPoison_cores (s : State) (b : Nat) : (s.clearPoison b).cores = s.cores := rfl
@[simp] theorem State.clearPoison_stopped (s : State) (b : Nat) : (s.clearPoison b).stopped = s.stopped := rfl
@[simp] theorem State.clearPoison_downClusters (s : State) (b : Nat) : (s.clearPoison b).downClusters = s.downClusters := rfl
@[simp] theorem State.clearPoison_tasks (s : State) (b : Nat) : (s.clearPoison b).tasks = s.tasks := rfl
@[simp] theorem State.clearPoison_nextTask (s : State) (b : Nat) : (s.clearPoison b).nextTask = s.nextTask := rfl
@[simp] theorem State.clearPoison_saved (s : State) (b : Nat) : (s.clearPoison b).saved = s.saved := rfl
@[simp] theorem State.clearPoison_regionCtrs (s : State) (b : Nat) : (s.clearPoison b).regionCtrs = s.regionCtrs := rfl
@[simp] theorem State.clearPoison_nextArrival (s : State) (b : Nat) : (s.clearPoison b).nextArrival = s.nextArrival := rfl
@[simp] theorem State.clearPoison_merges (s : State) (b : Nat) : (s.clearPoison b).merges = s.merges := rfl
@[simp] theorem State.clearPoison_canvases (s : State) (b : Nat) : (s.clearPoison b).canvases = s.canvases := rfl
@[simp] theorem State.clearPoison_coh (s : State) (b : Nat) : (s.clearPoison b).coh = s.coh := rfl
@[simp] theorem State.clearPoison_srams (s : State) (b : Nat) : (s.clearPoison b).srams = s.srams := rfl
@[simp] theorem State.clearPoison_channels (s : State) (b : Nat) : (s.clearPoison b).channels = s.channels := rfl
@[simp] theorem State.clearPoison_stackSts (s : State) (b : Nat) : (s.clearPoison b).stackSts = s.stackSts := rfl
@[simp] theorem State.clearPoison_tlbs (s : State) (b : Nat) : (s.clearPoison b).tlbs = s.tlbs := rfl
@[simp] theorem State.clearPoison_xfr (s : State) (b : Nat) : (s.clearPoison b).xfr = s.xfr := rfl
@[simp] theorem State.clearPoison_pages (s : State) (b : Nat) : (s.clearPoison b).pages = s.pages := rfl
@[simp] theorem State.clearPoison_queues (s : State) (b : Nat) : (s.clearPoison b).queues = s.queues := rfl
@[simp] theorem State.clearPoison_barReads (s : State) (b : Nat) : (s.clearPoison b).barReads = s.barReads := rfl
@[simp] theorem State.clearPoison_nextBarRead (s : State) (b : Nat) : (s.clearPoison b).nextBarRead = s.nextBarRead := rfl
@[simp] theorem State.clearPoison_msix (s : State) (b : Nat) : (s.clearPoison b).msix = s.msix := rfl
@[simp] theorem State.clearPoison_session (s : State) (b : Nat) : (s.clearPoison b).session = s.session := rfl
@[simp] theorem State.clearPoison_ports (s : State) (b : Nat) : (s.clearPoison b).ports = s.ports := rfl
@[simp] theorem State.clearPoison_slots (s : State) (b : Nat) : (s.clearPoison b).slots = s.slots := rfl
@[simp] theorem State.clearPoison_ranks (s : State) (b : Nat) : (s.clearPoison b).ranks = s.ranks := rfl
@[simp] theorem State.clearPoison_ptp (s : State) (b : Nat) : (s.clearPoison b).ptp = s.ptp := rfl
@[simp] theorem State.clearPoison_skbs (s : State) (b : Nat) : (s.clearPoison b).skbs = s.skbs := rfl
@[simp] theorem State.clearPoison_power (s : State) (b : Nat) : (s.clearPoison b).power = s.power := rfl
@[simp] theorem State.clearPoison_pwrRegions (s : State) (b : Nat) : (s.clearPoison b).pwrRegions = s.pwrRegions := rfl
@[simp] theorem State.clearPoison_fwCores (s : State) (b : Nat) : (s.clearPoison b).fwCores = s.fwCores := rfl
@[simp] theorem State.clearPoison_staging (s : State) (b : Nat) : (s.clearPoison b).staging = s.staging := rfl
@[simp] theorem State.clearPoison_activation (s : State) (b : Nat) : (s.clearPoison b).activation = s.activation := rfl
@[simp] theorem State.clearPoison_normalRun (s : State) (b : Nat) : (s.clearPoison b).normalRun = s.normalRun := rfl
@[simp] theorem State.clearPoison_fwWaits (s : State) (b : Nat) : (s.clearPoison b).fwWaits = s.fwWaits := rfl
@[simp] theorem State.clearPoison_events (s : State) (b : Nat) : (s.clearPoison b).events = s.events := rfl
@[simp] theorem State.clearPoison_flash (s : State) (b : Nat) : (s.clearPoison b).flash = s.flash := rfl
@[simp] theorem State.clearPoison_sec (s : State) (b : Nat) : (s.clearPoison b).sec = s.sec := rfl
@[simp] theorem State.clearPoison_mgt (s : State) (b : Nat) : (s.clearPoison b).mgt = s.mgt := rfl
@[simp] theorem State.clearPoison_modSt (s : State) (b : Nat) : (s.clearPoison b).modSt = s.modSt := rfl
@[simp] theorem State.clearPoison_freeIdx (s : State) (b : Nat) : (s.clearPoison b).freeIdx = s.freeIdx := rfl
@[simp] theorem State.clearPoison_sent (s : State) (b : Nat) : (s.clearPoison b).sent = s.sent := rfl

@[simp] theorem State.setQueue_pending (s : State) (q : Nat) (x : QueueSt) : (s.setQueue q x).pending = s.pending := by unfold State.setQueue; dsimp only; split <;> rfl
@[simp] theorem State.setQueue_now (s : State) (q : Nat) (x : QueueSt) : (s.setQueue q x).now = s.now := by unfold State.setQueue; dsimp only; split <;> rfl
@[simp] theorem State.setQueue_mem (s : State) (q : Nat) (x : QueueSt) : (s.setQueue q x).mem = s.mem := by unfold State.setQueue; dsimp only; split <;> rfl
@[simp] theorem State.setQueue_poison (s : State) (q : Nat) (x : QueueSt) : (s.setQueue q x).poison = s.poison := by unfold State.setQueue; dsimp only; split <;> rfl
@[simp] theorem State.setQueue_scrambled (s : State) (q : Nat) (x : QueueSt) : (s.setQueue q x).scrambled = s.scrambled := by unfold State.setQueue; dsimp only; split <;> rfl
@[simp] theorem State.setQueue_cores (s : State) (q : Nat) (x : QueueSt) : (s.setQueue q x).cores = s.cores := by unfold State.setQueue; dsimp only; split <;> rfl
@[simp] theorem State.setQueue_stopped (s : State) (q : Nat) (x : QueueSt) : (s.setQueue q x).stopped = s.stopped := by unfold State.setQueue; dsimp only; split <;> rfl
@[simp] theorem State.setQueue_downClusters (s : State) (q : Nat) (x : QueueSt) : (s.setQueue q x).downClusters = s.downClusters := by unfold State.setQueue; dsimp only; split <;> rfl
@[simp] theorem State.setQueue_tasks (s : State) (q : Nat) (x : QueueSt) : (s.setQueue q x).tasks = s.tasks := by unfold State.setQueue; dsimp only; split <;> rfl
@[simp] theorem State.setQueue_nextTask (s : State) (q : Nat) (x : QueueSt) : (s.setQueue q x).nextTask = s.nextTask := by unfold State.setQueue; dsimp only; split <;> rfl
@[simp] theorem State.setQueue_saved (s : State) (q : Nat) (x : QueueSt) : (s.setQueue q x).saved = s.saved := by unfold State.setQueue; dsimp only; split <;> rfl
@[simp] theorem State.setQueue_regionCtrs (s : State) (q : Nat) (x : QueueSt) : (s.setQueue q x).regionCtrs = s.regionCtrs := by unfold State.setQueue; dsimp only; split <;> rfl
@[simp] theorem State.setQueue_nextArrival (s : State) (q : Nat) (x : QueueSt) : (s.setQueue q x).nextArrival = s.nextArrival := by unfold State.setQueue; dsimp only; split <;> rfl
@[simp] theorem State.setQueue_merges (s : State) (q : Nat) (x : QueueSt) : (s.setQueue q x).merges = s.merges := by unfold State.setQueue; dsimp only; split <;> rfl
@[simp] theorem State.setQueue_canvases (s : State) (q : Nat) (x : QueueSt) : (s.setQueue q x).canvases = s.canvases := by unfold State.setQueue; dsimp only; split <;> rfl
@[simp] theorem State.setQueue_coh (s : State) (q : Nat) (x : QueueSt) : (s.setQueue q x).coh = s.coh := by unfold State.setQueue; dsimp only; split <;> rfl
@[simp] theorem State.setQueue_srams (s : State) (q : Nat) (x : QueueSt) : (s.setQueue q x).srams = s.srams := by unfold State.setQueue; dsimp only; split <;> rfl
@[simp] theorem State.setQueue_channels (s : State) (q : Nat) (x : QueueSt) : (s.setQueue q x).channels = s.channels := by unfold State.setQueue; dsimp only; split <;> rfl
@[simp] theorem State.setQueue_stackSts (s : State) (q : Nat) (x : QueueSt) : (s.setQueue q x).stackSts = s.stackSts := by unfold State.setQueue; dsimp only; split <;> rfl
@[simp] theorem State.setQueue_tlbs (s : State) (q : Nat) (x : QueueSt) : (s.setQueue q x).tlbs = s.tlbs := by unfold State.setQueue; dsimp only; split <;> rfl
@[simp] theorem State.setQueue_xfr (s : State) (q : Nat) (x : QueueSt) : (s.setQueue q x).xfr = s.xfr := by unfold State.setQueue; dsimp only; split <;> rfl
@[simp] theorem State.setQueue_pages (s : State) (q : Nat) (x : QueueSt) : (s.setQueue q x).pages = s.pages := by unfold State.setQueue; dsimp only; split <;> rfl
@[simp] theorem State.setQueue_barReads (s : State) (q : Nat) (x : QueueSt) : (s.setQueue q x).barReads = s.barReads := by unfold State.setQueue; dsimp only; split <;> rfl
@[simp] theorem State.setQueue_nextBarRead (s : State) (q : Nat) (x : QueueSt) : (s.setQueue q x).nextBarRead = s.nextBarRead := by unfold State.setQueue; dsimp only; split <;> rfl
@[simp] theorem State.setQueue_msix (s : State) (q : Nat) (x : QueueSt) : (s.setQueue q x).msix = s.msix := by unfold State.setQueue; dsimp only; split <;> rfl
@[simp] theorem State.setQueue_session (s : State) (q : Nat) (x : QueueSt) : (s.setQueue q x).session = s.session := by unfold State.setQueue; dsimp only; split <;> rfl
@[simp] theorem State.setQueue_ports (s : State) (q : Nat) (x : QueueSt) : (s.setQueue q x).ports = s.ports := by unfold State.setQueue; dsimp only; split <;> rfl
@[simp] theorem State.setQueue_slots (s : State) (q : Nat) (x : QueueSt) : (s.setQueue q x).slots = s.slots := by unfold State.setQueue; dsimp only; split <;> rfl
@[simp] theorem State.setQueue_ranks (s : State) (q : Nat) (x : QueueSt) : (s.setQueue q x).ranks = s.ranks := by unfold State.setQueue; dsimp only; split <;> rfl
@[simp] theorem State.setQueue_ptp (s : State) (q : Nat) (x : QueueSt) : (s.setQueue q x).ptp = s.ptp := by unfold State.setQueue; dsimp only; split <;> rfl
@[simp] theorem State.setQueue_skbs (s : State) (q : Nat) (x : QueueSt) : (s.setQueue q x).skbs = s.skbs := by unfold State.setQueue; dsimp only; split <;> rfl
@[simp] theorem State.setQueue_power (s : State) (q : Nat) (x : QueueSt) : (s.setQueue q x).power = s.power := by unfold State.setQueue; dsimp only; split <;> rfl
@[simp] theorem State.setQueue_pwrRegions (s : State) (q : Nat) (x : QueueSt) : (s.setQueue q x).pwrRegions = s.pwrRegions := by unfold State.setQueue; dsimp only; split <;> rfl
@[simp] theorem State.setQueue_fwCores (s : State) (q : Nat) (x : QueueSt) : (s.setQueue q x).fwCores = s.fwCores := by unfold State.setQueue; dsimp only; split <;> rfl
@[simp] theorem State.setQueue_staging (s : State) (q : Nat) (x : QueueSt) : (s.setQueue q x).staging = s.staging := by unfold State.setQueue; dsimp only; split <;> rfl
@[simp] theorem State.setQueue_activation (s : State) (q : Nat) (x : QueueSt) : (s.setQueue q x).activation = s.activation := by unfold State.setQueue; dsimp only; split <;> rfl
@[simp] theorem State.setQueue_normalRun (s : State) (q : Nat) (x : QueueSt) : (s.setQueue q x).normalRun = s.normalRun := by unfold State.setQueue; dsimp only; split <;> rfl
@[simp] theorem State.setQueue_fwWaits (s : State) (q : Nat) (x : QueueSt) : (s.setQueue q x).fwWaits = s.fwWaits := by unfold State.setQueue; dsimp only; split <;> rfl
@[simp] theorem State.setQueue_events (s : State) (q : Nat) (x : QueueSt) : (s.setQueue q x).events = s.events := by unfold State.setQueue; dsimp only; split <;> rfl
@[simp] theorem State.setQueue_flash (s : State) (q : Nat) (x : QueueSt) : (s.setQueue q x).flash = s.flash := by unfold State.setQueue; dsimp only; split <;> rfl
@[simp] theorem State.setQueue_sec (s : State) (q : Nat) (x : QueueSt) : (s.setQueue q x).sec = s.sec := by unfold State.setQueue; dsimp only; split <;> rfl
@[simp] theorem State.setQueue_mgt (s : State) (q : Nat) (x : QueueSt) : (s.setQueue q x).mgt = s.mgt := by unfold State.setQueue; dsimp only; split <;> rfl
@[simp] theorem State.setQueue_modSt (s : State) (q : Nat) (x : QueueSt) : (s.setQueue q x).modSt = s.modSt := by unfold State.setQueue; dsimp only; split <;> rfl
@[simp] theorem State.setQueue_freeIdx (s : State) (q : Nat) (x : QueueSt) : (s.setQueue q x).freeIdx = s.freeIdx := by unfold State.setQueue; dsimp only; split <;> rfl
@[simp] theorem State.setQueue_sent (s : State) (q : Nat) (x : QueueSt) : (s.setQueue q x).sent = s.sent := by unfold State.setQueue; dsimp only; split <;> rfl

@[simp] theorem State.setPort_pending (s : State) (b : Nat) (x : PortSt) : (s.setPort b x).pending = s.pending := rfl
@[simp] theorem State.setPort_now (s : State) (b : Nat) (x : PortSt) : (s.setPort b x).now = s.now := rfl
@[simp] theorem State.setPort_regs (s : State) (b : Nat) (x : PortSt) : (s.setPort b x).regs = s.regs := rfl
@[simp] theorem State.setPort_mem (s : State) (b : Nat) (x : PortSt) : (s.setPort b x).mem = s.mem := rfl
@[simp] theorem State.setPort_poison (s : State) (b : Nat) (x : PortSt) : (s.setPort b x).poison = s.poison := rfl
@[simp] theorem State.setPort_scrambled (s : State) (b : Nat) (x : PortSt) : (s.setPort b x).scrambled = s.scrambled := rfl
@[simp] theorem State.setPort_cores (s : State) (b : Nat) (x : PortSt) : (s.setPort b x).cores = s.cores := rfl
@[simp] theorem State.setPort_stopped (s : State) (b : Nat) (x : PortSt) : (s.setPort b x).stopped = s.stopped := rfl
@[simp] theorem State.setPort_downClusters (s : State) (b : Nat) (x : PortSt) : (s.setPort b x).downClusters = s.downClusters := rfl
@[simp] theorem State.setPort_tasks (s : State) (b : Nat) (x : PortSt) : (s.setPort b x).tasks = s.tasks := rfl
@[simp] theorem State.setPort_nextTask (s : State) (b : Nat) (x : PortSt) : (s.setPort b x).nextTask = s.nextTask := rfl
@[simp] theorem State.setPort_saved (s : State) (b : Nat) (x : PortSt) : (s.setPort b x).saved = s.saved := rfl
@[simp] theorem State.setPort_regionCtrs (s : State) (b : Nat) (x : PortSt) : (s.setPort b x).regionCtrs = s.regionCtrs := rfl
@[simp] theorem State.setPort_nextArrival (s : State) (b : Nat) (x : PortSt) : (s.setPort b x).nextArrival = s.nextArrival := rfl
@[simp] theorem State.setPort_merges (s : State) (b : Nat) (x : PortSt) : (s.setPort b x).merges = s.merges := rfl
@[simp] theorem State.setPort_canvases (s : State) (b : Nat) (x : PortSt) : (s.setPort b x).canvases = s.canvases := rfl
@[simp] theorem State.setPort_coh (s : State) (b : Nat) (x : PortSt) : (s.setPort b x).coh = s.coh := rfl
@[simp] theorem State.setPort_srams (s : State) (b : Nat) (x : PortSt) : (s.setPort b x).srams = s.srams := rfl
@[simp] theorem State.setPort_channels (s : State) (b : Nat) (x : PortSt) : (s.setPort b x).channels = s.channels := rfl
@[simp] theorem State.setPort_stackSts (s : State) (b : Nat) (x : PortSt) : (s.setPort b x).stackSts = s.stackSts := rfl
@[simp] theorem State.setPort_tlbs (s : State) (b : Nat) (x : PortSt) : (s.setPort b x).tlbs = s.tlbs := rfl
@[simp] theorem State.setPort_xfr (s : State) (b : Nat) (x : PortSt) : (s.setPort b x).xfr = s.xfr := rfl
@[simp] theorem State.setPort_pages (s : State) (b : Nat) (x : PortSt) : (s.setPort b x).pages = s.pages := rfl
@[simp] theorem State.setPort_queues (s : State) (b : Nat) (x : PortSt) : (s.setPort b x).queues = s.queues := rfl
@[simp] theorem State.setPort_barReads (s : State) (b : Nat) (x : PortSt) : (s.setPort b x).barReads = s.barReads := rfl
@[simp] theorem State.setPort_nextBarRead (s : State) (b : Nat) (x : PortSt) : (s.setPort b x).nextBarRead = s.nextBarRead := rfl
@[simp] theorem State.setPort_msix (s : State) (b : Nat) (x : PortSt) : (s.setPort b x).msix = s.msix := rfl
@[simp] theorem State.setPort_session (s : State) (b : Nat) (x : PortSt) : (s.setPort b x).session = s.session := rfl
@[simp] theorem State.setPort_slots (s : State) (b : Nat) (x : PortSt) : (s.setPort b x).slots = s.slots := rfl
@[simp] theorem State.setPort_ranks (s : State) (b : Nat) (x : PortSt) : (s.setPort b x).ranks = s.ranks := rfl
@[simp] theorem State.setPort_ptp (s : State) (b : Nat) (x : PortSt) : (s.setPort b x).ptp = s.ptp := rfl
@[simp] theorem State.setPort_skbs (s : State) (b : Nat) (x : PortSt) : (s.setPort b x).skbs = s.skbs := rfl
@[simp] theorem State.setPort_power (s : State) (b : Nat) (x : PortSt) : (s.setPort b x).power = s.power := rfl
@[simp] theorem State.setPort_pwrRegions (s : State) (b : Nat) (x : PortSt) : (s.setPort b x).pwrRegions = s.pwrRegions := rfl
@[simp] theorem State.setPort_fwCores (s : State) (b : Nat) (x : PortSt) : (s.setPort b x).fwCores = s.fwCores := rfl
@[simp] theorem State.setPort_staging (s : State) (b : Nat) (x : PortSt) : (s.setPort b x).staging = s.staging := rfl
@[simp] theorem State.setPort_activation (s : State) (b : Nat) (x : PortSt) : (s.setPort b x).activation = s.activation := rfl
@[simp] theorem State.setPort_normalRun (s : State) (b : Nat) (x : PortSt) : (s.setPort b x).normalRun = s.normalRun := rfl
@[simp] theorem State.setPort_fwWaits (s : State) (b : Nat) (x : PortSt) : (s.setPort b x).fwWaits = s.fwWaits := rfl
@[simp] theorem State.setPort_events (s : State) (b : Nat) (x : PortSt) : (s.setPort b x).events = s.events := rfl
@[simp] theorem State.setPort_flash (s : State) (b : Nat) (x : PortSt) : (s.setPort b x).flash = s.flash := rfl
@[simp] theorem State.setPort_sec (s : State) (b : Nat) (x : PortSt) : (s.setPort b x).sec = s.sec := rfl
@[simp] theorem State.setPort_mgt (s : State) (b : Nat) (x : PortSt) : (s.setPort b x).mgt = s.mgt := rfl
@[simp] theorem State.setPort_modSt (s : State) (b : Nat) (x : PortSt) : (s.setPort b x).modSt = s.modSt := rfl
@[simp] theorem State.setPort_freeIdx (s : State) (b : Nat) (x : PortSt) : (s.setPort b x).freeIdx = s.freeIdx := rfl
@[simp] theorem State.setPort_sent (s : State) (b : Nat) (x : PortSt) : (s.setPort b x).sent = s.sent := rfl

@[simp] theorem State.setJob_pending (s : State) (n : Nat) (j : JobSlot) : (s.setJob n j).pending = s.pending := rfl
@[simp] theorem State.setJob_now (s : State) (n : Nat) (j : JobSlot) : (s.setJob n j).now = s.now := rfl
@[simp] theorem State.setJob_regs (s : State) (n : Nat) (j : JobSlot) : (s.setJob n j).regs = s.regs := rfl
@[simp] theorem State.setJob_mem (s : State) (n : Nat) (j : JobSlot) : (s.setJob n j).mem = s.mem := rfl
@[simp] theorem State.setJob_poison (s : State) (n : Nat) (j : JobSlot) : (s.setJob n j).poison = s.poison := rfl
@[simp] theorem State.setJob_scrambled (s : State) (n : Nat) (j : JobSlot) : (s.setJob n j).scrambled = s.scrambled := rfl
@[simp] theorem State.setJob_cores (s : State) (n : Nat) (j : JobSlot) : (s.setJob n j).cores = s.cores := rfl
@[simp] theorem State.setJob_stopped (s : State) (n : Nat) (j : JobSlot) : (s.setJob n j).stopped = s.stopped := rfl
@[simp] theorem State.setJob_downClusters (s : State) (n : Nat) (j : JobSlot) : (s.setJob n j).downClusters = s.downClusters := rfl
@[simp] theorem State.setJob_tasks (s : State) (n : Nat) (j : JobSlot) : (s.setJob n j).tasks = s.tasks := rfl
@[simp] theorem State.setJob_nextTask (s : State) (n : Nat) (j : JobSlot) : (s.setJob n j).nextTask = s.nextTask := rfl
@[simp] theorem State.setJob_saved (s : State) (n : Nat) (j : JobSlot) : (s.setJob n j).saved = s.saved := rfl
@[simp] theorem State.setJob_regionCtrs (s : State) (n : Nat) (j : JobSlot) : (s.setJob n j).regionCtrs = s.regionCtrs := rfl
@[simp] theorem State.setJob_nextArrival (s : State) (n : Nat) (j : JobSlot) : (s.setJob n j).nextArrival = s.nextArrival := rfl
@[simp] theorem State.setJob_merges (s : State) (n : Nat) (j : JobSlot) : (s.setJob n j).merges = s.merges := rfl
@[simp] theorem State.setJob_canvases (s : State) (n : Nat) (j : JobSlot) : (s.setJob n j).canvases = s.canvases := rfl
@[simp] theorem State.setJob_coh (s : State) (n : Nat) (j : JobSlot) : (s.setJob n j).coh = s.coh := rfl
@[simp] theorem State.setJob_srams (s : State) (n : Nat) (j : JobSlot) : (s.setJob n j).srams = s.srams := rfl
@[simp] theorem State.setJob_channels (s : State) (n : Nat) (j : JobSlot) : (s.setJob n j).channels = s.channels := rfl
@[simp] theorem State.setJob_stackSts (s : State) (n : Nat) (j : JobSlot) : (s.setJob n j).stackSts = s.stackSts := rfl
@[simp] theorem State.setJob_tlbs (s : State) (n : Nat) (j : JobSlot) : (s.setJob n j).tlbs = s.tlbs := rfl
@[simp] theorem State.setJob_xfr (s : State) (n : Nat) (j : JobSlot) : (s.setJob n j).xfr = s.xfr := rfl
@[simp] theorem State.setJob_pages (s : State) (n : Nat) (j : JobSlot) : (s.setJob n j).pages = s.pages := rfl
@[simp] theorem State.setJob_queues (s : State) (n : Nat) (j : JobSlot) : (s.setJob n j).queues = s.queues := rfl
@[simp] theorem State.setJob_barReads (s : State) (n : Nat) (j : JobSlot) : (s.setJob n j).barReads = s.barReads := rfl
@[simp] theorem State.setJob_nextBarRead (s : State) (n : Nat) (j : JobSlot) : (s.setJob n j).nextBarRead = s.nextBarRead := rfl
@[simp] theorem State.setJob_msix (s : State) (n : Nat) (j : JobSlot) : (s.setJob n j).msix = s.msix := rfl
@[simp] theorem State.setJob_session (s : State) (n : Nat) (j : JobSlot) : (s.setJob n j).session = s.session := rfl
@[simp] theorem State.setJob_ports (s : State) (n : Nat) (j : JobSlot) : (s.setJob n j).ports = s.ports := rfl
@[simp] theorem State.setJob_ranks (s : State) (n : Nat) (j : JobSlot) : (s.setJob n j).ranks = s.ranks := rfl
@[simp] theorem State.setJob_ptp (s : State) (n : Nat) (j : JobSlot) : (s.setJob n j).ptp = s.ptp := rfl
@[simp] theorem State.setJob_skbs (s : State) (n : Nat) (j : JobSlot) : (s.setJob n j).skbs = s.skbs := rfl
@[simp] theorem State.setJob_power (s : State) (n : Nat) (j : JobSlot) : (s.setJob n j).power = s.power := rfl
@[simp] theorem State.setJob_pwrRegions (s : State) (n : Nat) (j : JobSlot) : (s.setJob n j).pwrRegions = s.pwrRegions := rfl
@[simp] theorem State.setJob_fwCores (s : State) (n : Nat) (j : JobSlot) : (s.setJob n j).fwCores = s.fwCores := rfl
@[simp] theorem State.setJob_staging (s : State) (n : Nat) (j : JobSlot) : (s.setJob n j).staging = s.staging := rfl
@[simp] theorem State.setJob_activation (s : State) (n : Nat) (j : JobSlot) : (s.setJob n j).activation = s.activation := rfl
@[simp] theorem State.setJob_normalRun (s : State) (n : Nat) (j : JobSlot) : (s.setJob n j).normalRun = s.normalRun := rfl
@[simp] theorem State.setJob_fwWaits (s : State) (n : Nat) (j : JobSlot) : (s.setJob n j).fwWaits = s.fwWaits := rfl
@[simp] theorem State.setJob_events (s : State) (n : Nat) (j : JobSlot) : (s.setJob n j).events = s.events := rfl
@[simp] theorem State.setJob_flash (s : State) (n : Nat) (j : JobSlot) : (s.setJob n j).flash = s.flash := rfl
@[simp] theorem State.setJob_sec (s : State) (n : Nat) (j : JobSlot) : (s.setJob n j).sec = s.sec := rfl
@[simp] theorem State.setJob_mgt (s : State) (n : Nat) (j : JobSlot) : (s.setJob n j).mgt = s.mgt := rfl
@[simp] theorem State.setJob_modSt (s : State) (n : Nat) (j : JobSlot) : (s.setJob n j).modSt = s.modSt := rfl
@[simp] theorem State.setJob_freeIdx (s : State) (n : Nat) (j : JobSlot) : (s.setJob n j).freeIdx = s.freeIdx := rfl
@[simp] theorem State.setJob_sent (s : State) (n : Nat) (j : JobSlot) : (s.setJob n j).sent = s.sent := rfl

@[simp] theorem State.setSkb_pending (s : State) (p : Nat) (k : SkbSt) : (s.setSkb p k).pending = s.pending := rfl
@[simp] theorem State.setSkb_now (s : State) (p : Nat) (k : SkbSt) : (s.setSkb p k).now = s.now := rfl
@[simp] theorem State.setSkb_regs (s : State) (p : Nat) (k : SkbSt) : (s.setSkb p k).regs = s.regs := rfl
@[simp] theorem State.setSkb_mem (s : State) (p : Nat) (k : SkbSt) : (s.setSkb p k).mem = s.mem := rfl
@[simp] theorem State.setSkb_poison (s : State) (p : Nat) (k : SkbSt) : (s.setSkb p k).poison = s.poison := rfl
@[simp] theorem State.setSkb_scrambled (s : State) (p : Nat) (k : SkbSt) : (s.setSkb p k).scrambled = s.scrambled := rfl
@[simp] theorem State.setSkb_cores (s : State) (p : Nat) (k : SkbSt) : (s.setSkb p k).cores = s.cores := rfl
@[simp] theorem State.setSkb_stopped (s : State) (p : Nat) (k : SkbSt) : (s.setSkb p k).stopped = s.stopped := rfl
@[simp] theorem State.setSkb_downClusters (s : State) (p : Nat) (k : SkbSt) : (s.setSkb p k).downClusters = s.downClusters := rfl
@[simp] theorem State.setSkb_tasks (s : State) (p : Nat) (k : SkbSt) : (s.setSkb p k).tasks = s.tasks := rfl
@[simp] theorem State.setSkb_nextTask (s : State) (p : Nat) (k : SkbSt) : (s.setSkb p k).nextTask = s.nextTask := rfl
@[simp] theorem State.setSkb_saved (s : State) (p : Nat) (k : SkbSt) : (s.setSkb p k).saved = s.saved := rfl
@[simp] theorem State.setSkb_regionCtrs (s : State) (p : Nat) (k : SkbSt) : (s.setSkb p k).regionCtrs = s.regionCtrs := rfl
@[simp] theorem State.setSkb_nextArrival (s : State) (p : Nat) (k : SkbSt) : (s.setSkb p k).nextArrival = s.nextArrival := rfl
@[simp] theorem State.setSkb_merges (s : State) (p : Nat) (k : SkbSt) : (s.setSkb p k).merges = s.merges := rfl
@[simp] theorem State.setSkb_canvases (s : State) (p : Nat) (k : SkbSt) : (s.setSkb p k).canvases = s.canvases := rfl
@[simp] theorem State.setSkb_coh (s : State) (p : Nat) (k : SkbSt) : (s.setSkb p k).coh = s.coh := rfl
@[simp] theorem State.setSkb_srams (s : State) (p : Nat) (k : SkbSt) : (s.setSkb p k).srams = s.srams := rfl
@[simp] theorem State.setSkb_channels (s : State) (p : Nat) (k : SkbSt) : (s.setSkb p k).channels = s.channels := rfl
@[simp] theorem State.setSkb_stackSts (s : State) (p : Nat) (k : SkbSt) : (s.setSkb p k).stackSts = s.stackSts := rfl
@[simp] theorem State.setSkb_tlbs (s : State) (p : Nat) (k : SkbSt) : (s.setSkb p k).tlbs = s.tlbs := rfl
@[simp] theorem State.setSkb_xfr (s : State) (p : Nat) (k : SkbSt) : (s.setSkb p k).xfr = s.xfr := rfl
@[simp] theorem State.setSkb_pages (s : State) (p : Nat) (k : SkbSt) : (s.setSkb p k).pages = s.pages := rfl
@[simp] theorem State.setSkb_queues (s : State) (p : Nat) (k : SkbSt) : (s.setSkb p k).queues = s.queues := rfl
@[simp] theorem State.setSkb_barReads (s : State) (p : Nat) (k : SkbSt) : (s.setSkb p k).barReads = s.barReads := rfl
@[simp] theorem State.setSkb_nextBarRead (s : State) (p : Nat) (k : SkbSt) : (s.setSkb p k).nextBarRead = s.nextBarRead := rfl
@[simp] theorem State.setSkb_msix (s : State) (p : Nat) (k : SkbSt) : (s.setSkb p k).msix = s.msix := rfl
@[simp] theorem State.setSkb_session (s : State) (p : Nat) (k : SkbSt) : (s.setSkb p k).session = s.session := rfl
@[simp] theorem State.setSkb_ports (s : State) (p : Nat) (k : SkbSt) : (s.setSkb p k).ports = s.ports := rfl
@[simp] theorem State.setSkb_slots (s : State) (p : Nat) (k : SkbSt) : (s.setSkb p k).slots = s.slots := rfl
@[simp] theorem State.setSkb_ranks (s : State) (p : Nat) (k : SkbSt) : (s.setSkb p k).ranks = s.ranks := rfl
@[simp] theorem State.setSkb_ptp (s : State) (p : Nat) (k : SkbSt) : (s.setSkb p k).ptp = s.ptp := rfl
@[simp] theorem State.setSkb_power (s : State) (p : Nat) (k : SkbSt) : (s.setSkb p k).power = s.power := rfl
@[simp] theorem State.setSkb_pwrRegions (s : State) (p : Nat) (k : SkbSt) : (s.setSkb p k).pwrRegions = s.pwrRegions := rfl
@[simp] theorem State.setSkb_fwCores (s : State) (p : Nat) (k : SkbSt) : (s.setSkb p k).fwCores = s.fwCores := rfl
@[simp] theorem State.setSkb_staging (s : State) (p : Nat) (k : SkbSt) : (s.setSkb p k).staging = s.staging := rfl
@[simp] theorem State.setSkb_activation (s : State) (p : Nat) (k : SkbSt) : (s.setSkb p k).activation = s.activation := rfl
@[simp] theorem State.setSkb_normalRun (s : State) (p : Nat) (k : SkbSt) : (s.setSkb p k).normalRun = s.normalRun := rfl
@[simp] theorem State.setSkb_fwWaits (s : State) (p : Nat) (k : SkbSt) : (s.setSkb p k).fwWaits = s.fwWaits := rfl
@[simp] theorem State.setSkb_events (s : State) (p : Nat) (k : SkbSt) : (s.setSkb p k).events = s.events := rfl
@[simp] theorem State.setSkb_flash (s : State) (p : Nat) (k : SkbSt) : (s.setSkb p k).flash = s.flash := rfl
@[simp] theorem State.setSkb_sec (s : State) (p : Nat) (k : SkbSt) : (s.setSkb p k).sec = s.sec := rfl
@[simp] theorem State.setSkb_mgt (s : State) (p : Nat) (k : SkbSt) : (s.setSkb p k).mgt = s.mgt := rfl
@[simp] theorem State.setSkb_modSt (s : State) (p : Nat) (k : SkbSt) : (s.setSkb p k).modSt = s.modSt := rfl
@[simp] theorem State.setSkb_freeIdx (s : State) (p : Nat) (k : SkbSt) : (s.setSkb p k).freeIdx = s.freeIdx := rfl
@[simp] theorem State.setSkb_sent (s : State) (p : Nat) (k : SkbSt) : (s.setSkb p k).sent = s.sent := rfl

@[simp] theorem State.setPwr_pending (s : State) (r : Nat) (x : PwrRegion) : (s.setPwr r x).pending = s.pending := rfl
@[simp] theorem State.setPwr_now (s : State) (r : Nat) (x : PwrRegion) : (s.setPwr r x).now = s.now := rfl
@[simp] theorem State.setPwr_regs (s : State) (r : Nat) (x : PwrRegion) : (s.setPwr r x).regs = s.regs := rfl
@[simp] theorem State.setPwr_mem (s : State) (r : Nat) (x : PwrRegion) : (s.setPwr r x).mem = s.mem := rfl
@[simp] theorem State.setPwr_poison (s : State) (r : Nat) (x : PwrRegion) : (s.setPwr r x).poison = s.poison := rfl
@[simp] theorem State.setPwr_scrambled (s : State) (r : Nat) (x : PwrRegion) : (s.setPwr r x).scrambled = s.scrambled := rfl
@[simp] theorem State.setPwr_cores (s : State) (r : Nat) (x : PwrRegion) : (s.setPwr r x).cores = s.cores := rfl
@[simp] theorem State.setPwr_stopped (s : State) (r : Nat) (x : PwrRegion) : (s.setPwr r x).stopped = s.stopped := rfl
@[simp] theorem State.setPwr_downClusters (s : State) (r : Nat) (x : PwrRegion) : (s.setPwr r x).downClusters = s.downClusters := rfl
@[simp] theorem State.setPwr_tasks (s : State) (r : Nat) (x : PwrRegion) : (s.setPwr r x).tasks = s.tasks := rfl
@[simp] theorem State.setPwr_nextTask (s : State) (r : Nat) (x : PwrRegion) : (s.setPwr r x).nextTask = s.nextTask := rfl
@[simp] theorem State.setPwr_saved (s : State) (r : Nat) (x : PwrRegion) : (s.setPwr r x).saved = s.saved := rfl
@[simp] theorem State.setPwr_regionCtrs (s : State) (r : Nat) (x : PwrRegion) : (s.setPwr r x).regionCtrs = s.regionCtrs := rfl
@[simp] theorem State.setPwr_nextArrival (s : State) (r : Nat) (x : PwrRegion) : (s.setPwr r x).nextArrival = s.nextArrival := rfl
@[simp] theorem State.setPwr_merges (s : State) (r : Nat) (x : PwrRegion) : (s.setPwr r x).merges = s.merges := rfl
@[simp] theorem State.setPwr_canvases (s : State) (r : Nat) (x : PwrRegion) : (s.setPwr r x).canvases = s.canvases := rfl
@[simp] theorem State.setPwr_coh (s : State) (r : Nat) (x : PwrRegion) : (s.setPwr r x).coh = s.coh := rfl
@[simp] theorem State.setPwr_srams (s : State) (r : Nat) (x : PwrRegion) : (s.setPwr r x).srams = s.srams := rfl
@[simp] theorem State.setPwr_channels (s : State) (r : Nat) (x : PwrRegion) : (s.setPwr r x).channels = s.channels := rfl
@[simp] theorem State.setPwr_stackSts (s : State) (r : Nat) (x : PwrRegion) : (s.setPwr r x).stackSts = s.stackSts := rfl
@[simp] theorem State.setPwr_tlbs (s : State) (r : Nat) (x : PwrRegion) : (s.setPwr r x).tlbs = s.tlbs := rfl
@[simp] theorem State.setPwr_xfr (s : State) (r : Nat) (x : PwrRegion) : (s.setPwr r x).xfr = s.xfr := rfl
@[simp] theorem State.setPwr_pages (s : State) (r : Nat) (x : PwrRegion) : (s.setPwr r x).pages = s.pages := rfl
@[simp] theorem State.setPwr_queues (s : State) (r : Nat) (x : PwrRegion) : (s.setPwr r x).queues = s.queues := rfl
@[simp] theorem State.setPwr_barReads (s : State) (r : Nat) (x : PwrRegion) : (s.setPwr r x).barReads = s.barReads := rfl
@[simp] theorem State.setPwr_nextBarRead (s : State) (r : Nat) (x : PwrRegion) : (s.setPwr r x).nextBarRead = s.nextBarRead := rfl
@[simp] theorem State.setPwr_msix (s : State) (r : Nat) (x : PwrRegion) : (s.setPwr r x).msix = s.msix := rfl
@[simp] theorem State.setPwr_session (s : State) (r : Nat) (x : PwrRegion) : (s.setPwr r x).session = s.session := rfl
@[simp] theorem State.setPwr_ports (s : State) (r : Nat) (x : PwrRegion) : (s.setPwr r x).ports = s.ports := rfl
@[simp] theorem State.setPwr_slots (s : State) (r : Nat) (x : PwrRegion) : (s.setPwr r x).slots = s.slots := rfl
@[simp] theorem State.setPwr_ranks (s : State) (r : Nat) (x : PwrRegion) : (s.setPwr r x).ranks = s.ranks := rfl
@[simp] theorem State.setPwr_ptp (s : State) (r : Nat) (x : PwrRegion) : (s.setPwr r x).ptp = s.ptp := rfl
@[simp] theorem State.setPwr_skbs (s : State) (r : Nat) (x : PwrRegion) : (s.setPwr r x).skbs = s.skbs := rfl
@[simp] theorem State.setPwr_power (s : State) (r : Nat) (x : PwrRegion) : (s.setPwr r x).power = s.power := rfl
@[simp] theorem State.setPwr_fwCores (s : State) (r : Nat) (x : PwrRegion) : (s.setPwr r x).fwCores = s.fwCores := rfl
@[simp] theorem State.setPwr_staging (s : State) (r : Nat) (x : PwrRegion) : (s.setPwr r x).staging = s.staging := rfl
@[simp] theorem State.setPwr_activation (s : State) (r : Nat) (x : PwrRegion) : (s.setPwr r x).activation = s.activation := rfl
@[simp] theorem State.setPwr_normalRun (s : State) (r : Nat) (x : PwrRegion) : (s.setPwr r x).normalRun = s.normalRun := rfl
@[simp] theorem State.setPwr_fwWaits (s : State) (r : Nat) (x : PwrRegion) : (s.setPwr r x).fwWaits = s.fwWaits := rfl
@[simp] theorem State.setPwr_events (s : State) (r : Nat) (x : PwrRegion) : (s.setPwr r x).events = s.events := rfl
@[simp] theorem State.setPwr_flash (s : State) (r : Nat) (x : PwrRegion) : (s.setPwr r x).flash = s.flash := rfl
@[simp] theorem State.setPwr_sec (s : State) (r : Nat) (x : PwrRegion) : (s.setPwr r x).sec = s.sec := rfl
@[simp] theorem State.setPwr_mgt (s : State) (r : Nat) (x : PwrRegion) : (s.setPwr r x).mgt = s.mgt := rfl
@[simp] theorem State.setPwr_modSt (s : State) (r : Nat) (x : PwrRegion) : (s.setPwr r x).modSt = s.modSt := rfl
@[simp] theorem State.setPwr_freeIdx (s : State) (r : Nat) (x : PwrRegion) : (s.setPwr r x).freeIdx = s.freeIdx := rfl
@[simp] theorem State.setPwr_sent (s : State) (r : Nat) (x : PwrRegion) : (s.setPwr r x).sent = s.sent := rfl

@[simp] theorem State.updTask_pending (s : State) (t : Nat) (f : Task → Task) : (s.updTask t f).pending = s.pending := rfl
@[simp] theorem State.updTask_now (s : State) (t : Nat) (f : Task → Task) : (s.updTask t f).now = s.now := rfl
@[simp] theorem State.updTask_regs (s : State) (t : Nat) (f : Task → Task) : (s.updTask t f).regs = s.regs := rfl
@[simp] theorem State.updTask_mem (s : State) (t : Nat) (f : Task → Task) : (s.updTask t f).mem = s.mem := rfl
@[simp] theorem State.updTask_poison (s : State) (t : Nat) (f : Task → Task) : (s.updTask t f).poison = s.poison := rfl
@[simp] theorem State.updTask_scrambled (s : State) (t : Nat) (f : Task → Task) : (s.updTask t f).scrambled = s.scrambled := rfl
@[simp] theorem State.updTask_cores (s : State) (t : Nat) (f : Task → Task) : (s.updTask t f).cores = s.cores := rfl
@[simp] theorem State.updTask_stopped (s : State) (t : Nat) (f : Task → Task) : (s.updTask t f).stopped = s.stopped := rfl
@[simp] theorem State.updTask_downClusters (s : State) (t : Nat) (f : Task → Task) : (s.updTask t f).downClusters = s.downClusters := rfl
@[simp] theorem State.updTask_nextTask (s : State) (t : Nat) (f : Task → Task) : (s.updTask t f).nextTask = s.nextTask := rfl
@[simp] theorem State.updTask_saved (s : State) (t : Nat) (f : Task → Task) : (s.updTask t f).saved = s.saved := rfl
@[simp] theorem State.updTask_regionCtrs (s : State) (t : Nat) (f : Task → Task) : (s.updTask t f).regionCtrs = s.regionCtrs := rfl
@[simp] theorem State.updTask_nextArrival (s : State) (t : Nat) (f : Task → Task) : (s.updTask t f).nextArrival = s.nextArrival := rfl
@[simp] theorem State.updTask_merges (s : State) (t : Nat) (f : Task → Task) : (s.updTask t f).merges = s.merges := rfl
@[simp] theorem State.updTask_canvases (s : State) (t : Nat) (f : Task → Task) : (s.updTask t f).canvases = s.canvases := rfl
@[simp] theorem State.updTask_coh (s : State) (t : Nat) (f : Task → Task) : (s.updTask t f).coh = s.coh := rfl
@[simp] theorem State.updTask_srams (s : State) (t : Nat) (f : Task → Task) : (s.updTask t f).srams = s.srams := rfl
@[simp] theorem State.updTask_channels (s : State) (t : Nat) (f : Task → Task) : (s.updTask t f).channels = s.channels := rfl
@[simp] theorem State.updTask_stackSts (s : State) (t : Nat) (f : Task → Task) : (s.updTask t f).stackSts = s.stackSts := rfl
@[simp] theorem State.updTask_tlbs (s : State) (t : Nat) (f : Task → Task) : (s.updTask t f).tlbs = s.tlbs := rfl
@[simp] theorem State.updTask_xfr (s : State) (t : Nat) (f : Task → Task) : (s.updTask t f).xfr = s.xfr := rfl
@[simp] theorem State.updTask_pages (s : State) (t : Nat) (f : Task → Task) : (s.updTask t f).pages = s.pages := rfl
@[simp] theorem State.updTask_queues (s : State) (t : Nat) (f : Task → Task) : (s.updTask t f).queues = s.queues := rfl
@[simp] theorem State.updTask_barReads (s : State) (t : Nat) (f : Task → Task) : (s.updTask t f).barReads = s.barReads := rfl
@[simp] theorem State.updTask_nextBarRead (s : State) (t : Nat) (f : Task → Task) : (s.updTask t f).nextBarRead = s.nextBarRead := rfl
@[simp] theorem State.updTask_msix (s : State) (t : Nat) (f : Task → Task) : (s.updTask t f).msix = s.msix := rfl
@[simp] theorem State.updTask_session (s : State) (t : Nat) (f : Task → Task) : (s.updTask t f).session = s.session := rfl
@[simp] theorem State.updTask_ports (s : State) (t : Nat) (f : Task → Task) : (s.updTask t f).ports = s.ports := rfl
@[simp] theorem State.updTask_slots (s : State) (t : Nat) (f : Task → Task) : (s.updTask t f).slots = s.slots := rfl
@[simp] theorem State.updTask_ranks (s : State) (t : Nat) (f : Task → Task) : (s.updTask t f).ranks = s.ranks := rfl
@[simp] theorem State.updTask_ptp (s : State) (t : Nat) (f : Task → Task) : (s.updTask t f).ptp = s.ptp := rfl
@[simp] theorem State.updTask_skbs (s : State) (t : Nat) (f : Task → Task) : (s.updTask t f).skbs = s.skbs := rfl
@[simp] theorem State.updTask_power (s : State) (t : Nat) (f : Task → Task) : (s.updTask t f).power = s.power := rfl
@[simp] theorem State.updTask_pwrRegions (s : State) (t : Nat) (f : Task → Task) : (s.updTask t f).pwrRegions = s.pwrRegions := rfl
@[simp] theorem State.updTask_fwCores (s : State) (t : Nat) (f : Task → Task) : (s.updTask t f).fwCores = s.fwCores := rfl
@[simp] theorem State.updTask_staging (s : State) (t : Nat) (f : Task → Task) : (s.updTask t f).staging = s.staging := rfl
@[simp] theorem State.updTask_activation (s : State) (t : Nat) (f : Task → Task) : (s.updTask t f).activation = s.activation := rfl
@[simp] theorem State.updTask_normalRun (s : State) (t : Nat) (f : Task → Task) : (s.updTask t f).normalRun = s.normalRun := rfl
@[simp] theorem State.updTask_fwWaits (s : State) (t : Nat) (f : Task → Task) : (s.updTask t f).fwWaits = s.fwWaits := rfl
@[simp] theorem State.updTask_events (s : State) (t : Nat) (f : Task → Task) : (s.updTask t f).events = s.events := rfl
@[simp] theorem State.updTask_flash (s : State) (t : Nat) (f : Task → Task) : (s.updTask t f).flash = s.flash := rfl
@[simp] theorem State.updTask_sec (s : State) (t : Nat) (f : Task → Task) : (s.updTask t f).sec = s.sec := rfl
@[simp] theorem State.updTask_mgt (s : State) (t : Nat) (f : Task → Task) : (s.updTask t f).mgt = s.mgt := rfl
@[simp] theorem State.updTask_modSt (s : State) (t : Nat) (f : Task → Task) : (s.updTask t f).modSt = s.modSt := rfl
@[simp] theorem State.updTask_freeIdx (s : State) (t : Nat) (f : Task → Task) : (s.updTask t f).freeIdx = s.freeIdx := rfl
@[simp] theorem State.updTask_sent (s : State) (t : Nat) (f : Task → Task) : (s.updTask t f).sent = s.sent := rfl

end Sys2Proof.Machine
end

