-- ==== Sys2Proof/Laws/Memory.lean ====
section
/-! SUPPORT. Laws of memory: a byte written is read back and every other byte stays, and every operation keeps the canonical form. -/

namespace Sys2Proof.Machine

-- reading after a write

/-- A byte written is read back; every other byte stays. -/
theorem State.readByte_writeByte (s : State) (a x : Nat) (b : Byte) :
    (s.writeByte a b).readByte x = if a = x then b else s.readByte x := by
  show NMap.getD (NMap.put (s.memDefault a) s.mem a b) x (s.memDefault x) = _
  by_cases h : a = x
  · subst h; rw [if_pos rfl, NMap.getD_put_self]
  · rw [if_neg h, NMap.getD_put_ne _ _ _ _ h]; rfl

/-- Bytes written are read back, each at its place; every byte outside them stays. -/
theorem State.readByte_writeBytes (bs : List Byte) : ∀ (s : State) (a x : Nat),
    (s.writeBytes a bs).readByte x = if a ≤ x ∧ x < a + bs.length then bs.getD (x - a) 0 else s.readByte x := by
  induction bs with
  | nil => intro s a x; rw [if_neg (by intro h; simp at h; omega)]; rfl
  | cons b bs ih =>
    intro s a x
    show ((s.writeByte a b).writeBytes (a + 1) bs).readByte x = _
    rw [ih, State.readByte_writeByte, List.length_cons]
    by_cases h : a = x
    · subst h; rw [if_neg (by omega), if_pos rfl, if_pos (by omega), Nat.sub_self]; rfl
    · by_cases h1 : a + 1 ≤ x ∧ x < a + 1 + bs.length
      · rw [if_pos h1, if_pos (by omega), show x - a = (x - (a + 1)) + 1 by omega]; rfl
      · rw [if_neg h1, if_neg h, if_neg (by omega)]

theorem State.readBytes_length (n : Nat) : ∀ (s : State) (a : Nat), (s.readBytes a n).length = n := by
  induction n with
  | zero => intro s a; rfl
  | succ n ih => intro s a; show (s.readBytes (a + 1) n).length + 1 = n + 1; rw [ih]

theorem State.readBytes_getD (n : Nat) : ∀ (s : State) (a i : Nat), i < n → (s.readBytes a n).getD i 0 = s.readByte (a + i) := by
  induction n with
  | zero => intro s a i h; omega
  | succ n ih =>
    intro s a i h
    cases i with
    | zero => rfl
    | succ i =>
      show (s.readBytes (a + 1) n).getD i 0 = _
      rw [ih _ _ _ (by omega)]; congr 1; omega

-- the canonical form

/-- The canonical form depends on memory and on the granules of changed keys alone. -/
theorem Memory.wf_congr {s t : State} (h : t.mem = s.mem) (h' : t.scrambled = s.scrambled) : Memory.wf t = Memory.wf s := by
  unfold Memory.wf State.memDefault; rw [h, h']

theorem Memory.wf_iff (s : State) : Memory.wf s = true ↔
    NMap.wf s.mem = true ∧ (∀ c ∈ s.mem, c.2 ≠ s.memDefault c.1) ∧ NMap.wf s.scrambled = true := by
  simp [Memory.wf, and_assoc]

theorem Memory.wf_reset : Memory.wf State.reset = true := rfl

theorem Memory.wf_writeByte {s : State} (a : Nat) (b : Byte) (h : Memory.wf s = true) : Memory.wf (s.writeByte a b) = true := by
  rw [Memory.wf_iff] at h ⊢
  refine ⟨NMap.wf_put _ _ _ h.1, fun c hc => ?_, h.2.2⟩
  rcases NMap.mem_put hc with ⟨rfl, hne⟩ | hc
  · exact hne
  · exact h.2.1 c hc

theorem Memory.wf_writeBytes (bs : List Byte) : ∀ {s : State} (a : Nat), Memory.wf s = true → Memory.wf (s.writeBytes a bs) = true := by
  induction bs with
  | nil => intro s a h; exact h
  | cons b bs ih => intro s a h; exact ih (a + 1) (Memory.wf_writeByte a b h)

/-- What every element's step keeps, a fold keeps. -/
theorem Memory.wf_foldl {α : Type} (f : State → α → State) (hf : ∀ s x, Memory.wf s = true → Memory.wf (f s x) = true)
    (l : List α) : ∀ {s : State}, Memory.wf s = true → Memory.wf (l.foldl f s) = true := by
  induction l with
  | nil => intro s h; exact h
  | cons x l ih => intro s h; exact ih (hf s x h)

theorem State.enqueueEvent_mem (s : State) (r : Nat) (e : EvRec) :
    (s.enqueueEvent r e).mem = s.mem ∧ (s.enqueueEvent r e).scrambled = s.scrambled := by
  unfold State.enqueueEvent; dsimp only; split <;> exact ⟨rfl, rfl⟩

theorem State.hwEvent_mem (s : State) (r code unit ctx loc detail flags : Nat) :
    (s.hwEvent r code unit ctx loc detail flags).mem = s.mem ∧
      (s.hwEvent r code unit ctx loc detail flags).scrambled = s.scrambled := State.enqueueEvent_mem _ _ _

theorem Memory.wf_hwEvent {s : State} (r code unit ctx loc detail flags : Nat) (h : Memory.wf s = true) :
    Memory.wf (s.hwEvent r code unit ctx loc detail flags) = true := by
  rw [Memory.wf_congr (s.hwEvent_mem ..).1 (s.hwEvent_mem ..).2]; exact h

theorem Memory.wf_accessError {s : State} (h : Memory.wf s = true) : Memory.wf s.accessError = true := Memory.wf_hwEvent _ _ _ _ _ _ _ h

/-- A write of bytes, of which those at an offline stack are discarded, keeps the canonical form. -/
theorem Memory.wf_writeMem {s : State} (a : Nat) (bs : List Byte) (h : Memory.wf s = true) : Memory.wf (s.writeMem a bs) = true := by
  unfold State.writeMem
  dsimp only
  split
  · refine Memory.wf_foldl _ (fun t b ht => ?_) _ (Memory.wf_writeBytes bs a h)
    split
    · exact ht
    · exact ht
  · refine Memory.wf_foldl _ (fun t b ht => Memory.wf_hwEvent _ _ _ _ _ _ _ ht) _
      (Memory.wf_foldl _ (fun t b ht => ?_) _ (Memory.wf_foldl _ (fun t i ht => ?_) _ h))
    · split
      · exact ht
      · exact ht
    · split
      · exact ht
      · exact Memory.wf_writeByte _ _ ht

/-- Memory of which some addresses are left out keeps its canonical form where the others read by default as before. -/
theorem Memory.wf_keep {s t : State} (p : Nat → Bool) (hm : t.mem = NMap.keep s.mem p) (hs : NMap.wf t.scrambled = true)
    (hd : ∀ k, p k = true → t.memDefault k = s.memDefault k) (h : Memory.wf s = true) : Memory.wf t = true := by
  rw [Memory.wf_iff] at h ⊢
  rw [hm]
  refine ⟨NMap.wf_keep _ h.1, fun c hc => ?_, hs⟩
  obtain ⟨h1, h2⟩ := List.mem_filter.1 hc
  rw [hd _ h2]; exact h.2.1 c h1

/-- A change of key keeps the canonical form: the granule lists no byte any more. -/
theorem Memory.wf_scramble {s : State} (g : Nat) (h : Memory.wf s = true) : Memory.wf (s.scramble g) = true := by
  refine Memory.wf_keep (t := s.scramble g) (fun k => decide (k / 0x4000000 ≠ g)) rfl (NMap.wf_set g s.freeIdx ((Memory.wf_iff s).1 h).2.2) (fun k hk => ?_) h
  show (match NMap.get? (NMap.set s.scrambled g s.freeIdx) (k / 0x4000000) with
    | some n => Config.scrambledByte n k
    | none => 0) = _
  rw [NMap.get?_set, if_neg (by simp at hk; omega)]; rfl

/-- Clearing a range keeps the canonical form. -/
theorem Memory.wf_zeroRange {s : State} (a n : Nat) (h : Memory.wf s = true) : Memory.wf (s.zeroRange a n) = true := by
  unfold State.zeroRange
  dsimp only
  refine Memory.wf_foldl _ (fun t g ht => Memory.wf_foldl _ (fun u i hu => Memory.wf_writeByte _ _ hu) _ ht) _ ?_
  refine Memory.wf_keep (fun k => decide (k < a) || decide (a + n ≤ k)) rfl
    (NMap.wf_keep (fun g => !decide (a ≤ g * 0x4000000 ∧ (g + 1) * 0x4000000 ≤ a + n)) ((Memory.wf_iff s).1 h).2.2)
    (fun k hk => ?_) h
  simp only [Bool.or_eq_true, decide_eq_true_eq] at hk
  unfold State.memDefault
  dsimp only
  rw [NMap.get?_keep]
  rw [if_pos (by simp only [Bool.not_eq_true', decide_eq_false_iff_not]; omega)]

end Sys2Proof.Machine
end

