-- ==== Sys2Proof/Laws/Registers.lean ====
section
/-! SUPPORT. What a register and its fields read after a write. -/

namespace Sys2Proof

theorem natBits_testBit (n hi lo i : Nat) : (natBits n hi lo).testBit i = (decide (i < hi + 1 - lo) && n.testBit (lo + i)) := by
  unfold natBits; rw [Nat.testBit_mod_two_pow, Nat.testBit_shiftRight]

theorem Word.bits_testBit (w : Word) (hi lo i : Nat) :
    (w.bits hi lo).testBit i = (decide (i < hi + 1 - lo) && w.getLsbD (lo + i)) := by
  unfold Word.bits; rw [Nat.testBit_mod_two_pow, Nat.testBit_shiftRight]; rfl

theorem Word.bits_lt (w : Word) (hi lo : Nat) : w.bits hi lo < 2 ^ (hi + 1 - lo) := Nat.mod_lt _ (Nat.two_pow_pos _)

theorem Word.setBits_getLsbD (w : Word) (hi lo v i : Nat) (hi64 : hi < 64) :
    (w.setBits hi lo v).getLsbD i = if lo ≤ i ∧ i ≤ hi then v.testBit (i - lo) else w.getLsbD i := by
  unfold Word.setBits
  by_cases h64 : i < 64
  · simp only [BitVec.getLsbD_or, BitVec.getLsbD_and, BitVec.getLsbD_not, BitVec.getLsbD_ofNat, Nat.testBit_shiftLeft,
      Nat.testBit_two_pow_sub_one, h64, decide_true, Bool.true_and]
    by_cases h1 : lo ≤ i
    · by_cases h2 : i ≤ hi
      · have : i - lo < hi + 1 - lo := by omega
        simp [h1, h2, this]
      · have : ¬ i - lo < hi + 1 - lo := by omega
        simp [h1, h2, this]
    · simp [h1]
  · have : ¬(lo ≤ i ∧ i ≤ hi) := by omega
    rw [if_neg this, BitVec.getLsbD_of_ge _ _ (by omega), BitVec.getLsbD_of_ge _ _ (by omega)]

/-- A field reads the low bits of what was written to it. -/
theorem Word.bits_setBits_same (w : Word) {hi lo : Nat} (v : Nat) (h : hi < 64) :
    (w.setBits hi lo v).bits hi lo = v % 2 ^ (hi + 1 - lo) := by
  apply Nat.eq_of_testBit_eq; intro i
  rw [Word.bits_testBit, Word.setBits_getLsbD _ _ _ _ _ h, Nat.testBit_mod_two_pow]
  by_cases hi' : i < hi + 1 - lo
  · rw [if_pos (by omega), Nat.add_sub_cancel_left]
  · simp [hi']

/-- A field keeps its value when a disjoint field of the same register is written. -/
theorem Word.bits_setBits_disjoint (w : Word) {hi lo hi' lo' : Nat} (v : Nat) (h : hi < 64) (hd : hi < lo' ∨ hi' < lo) :
    (w.setBits hi lo v).bits hi' lo' = w.bits hi' lo' := by
  apply Nat.eq_of_testBit_eq; intro i
  rw [Word.bits_testBit, Word.bits_testBit, Word.setBits_getLsbD _ _ _ _ _ h]
  by_cases hi1 : i < hi' + 1 - lo'
  · rw [if_neg (by omega)]
  · simp [hi1]

namespace Machine

open Sys2Proof.Claims

/-- Registers at different offsets are different. -/
theorem IsReg.addr_ne {r r' : Reg} {n n' : Nat} (h : IsReg r n) (h' : IsReg r' n') (hne : (r, n) ≠ (r', n')) :
    r.addr n ≠ r'.addr n' := by
  intro he; unfold IsReg at h h'; rw [he, h'] at h; exact hne (Option.some.inj h).symm

@[simp] theorem State.reg_setReg (s : State) (r : Reg) (n : Nat) (w : Word) : (s.setReg r n w).reg r n = w :=
  NMap.getD_put_self _ _ _ _

theorem State.reg_setReg_of_addr_ne (s : State) {r r' : Reg} {n n' : Nat} (w : Word) (h : r.addr n ≠ r'.addr n') :
    (s.setReg r n w).reg r' n' = s.reg r' n' := NMap.getD_put_ne _ _ _ _ h

theorem State.reg_setReg_ne (s : State) {r r' : Reg} {n n' : Nat} (w : Word) (h : IsReg r n) (h' : IsReg r' n')
    (hne : (r, n) ≠ (r', n')) : (s.setReg r n w).reg r' n' = s.reg r' n' :=
  s.reg_setReg_of_addr_ne w (IsReg.addr_ne h h' hne)

/-- A field's write is read back. -/
theorem State.rd_wr (s : State) (f : Fld) (n v k : Nat) (h : f.hi + k * f.step < 64) :
    (s.wr f n v k).rd f n k = v % 2 ^ (f.hi + k * f.step + 1 - (f.lo + k * f.step)) := by
  unfold State.wr State.rd; rw [State.reg_setReg, Word.bits_setBits_same _ _ h]

/-- A field's write leaves a disjoint field of the same register. -/
theorem State.rd_wr_disjoint (s : State) (f g : Fld) (n v k j : Nat) (hr : g.reg = f.reg) (h : f.hi + k * f.step < 64)
    (hd : f.hi + k * f.step < g.lo + j * g.step ∨ g.hi + j * g.step < f.lo + k * f.step) :
    (s.wr f n v k).rd g n j = s.rd g n j := by
  unfold State.wr State.rd; rw [hr, State.reg_setReg, Word.bits_setBits_disjoint _ _ h hd]

/-- A field's write leaves every field of another register. -/
theorem State.rd_wr_ne (s : State) (f g : Fld) (n m v k j : Nat) (h : f.reg.addr n ≠ g.reg.addr m) :
    (s.wr f n v k).rd g m j = s.rd g m j := by
  unfold State.wr State.rd; rw [State.reg_setReg_of_addr_ne _ _ h]

/-- A field's write changes its register only. -/
theorem State.wr_onlyRegs (s : State) (f : Fld) (n v k : Nat) (h : IsReg f.reg n) : OnlyRegs [(f.reg, n)] s (s.wr f n v k) :=
  ⟨fun r m hm hne => State.reg_setReg_ne s _ h hm (fun he => hne (by rw [he]; exact List.mem_singleton.2 rfl)), rfl⟩

/-- A register of the reset state holds its Reset value. -/
theorem State.reg_reset (r : Reg) (n : Nat) : State.reset.reg r n = r.reset n := rfl

end Machine

end Sys2Proof
end

