-- ==== Sys2Proof/Tests/Machines.lean ====
section
/-! SUPPORT. Small states of the device for the tests and the witnesses: one partition, one task, one group of threads. -/

-- Theorems one after another: a thread for each would cost more memory than the check allows.
set_option Elab.async false

namespace Sys2Proof.Tests

open Sys2Proof Sys2Proof.Machine Sys2Proof.Claims

/-- Writes of fields: each field, its register's number and its value. -/
def puts (s : State) (l : List (Fld × Nat × Nat)) : State := l.foldl (fun t w => t.wr w.1 w.2.1 w.2.2) s

/-- Whole mode, booted: partition 0 running, the boot lock applied, the cores of firmware running in every region and in the first and
the last cluster, the root elected. -/
def base : State :=
  puts State.reset ([(F.devPartStatusState, 0, 2), (F.devBootStatusBootLocked, 0, 1), (F.fwRootRootValid, 0, 1), (F.fwRootHealthy, 0, 15),
    (F.cluCccStatusState, 0, 0), (F.cluCccStatusState, 143, 0)] ++ (List.range 4).flatMap (fun r =>
      [(F.regFwStatusSecState, r, 0), (F.regFwStatusPwrState, r, 0), (F.regFwStatusSchState, r, 0)]))

def desc : LaunchDesc :=
  { codeVa := 0x1000, argVa := 0, gridX := 2, gridY := 1, gridZ := 1, groups := 1, regs := 64, slmKib := 8, layout := 0, slmZero := false,
    coreMask := 255, argBytes := 16, clusterFirst := 0, clusterCount := 1, timeLimit := 0 }

/-- A task of context 0, the firmware context of partition 0, whose virtual addresses are physical (R368). -/
def task : Task :=
  { ctx := 0, queue := 0, tag := 7, part := 0, desc := desc, args := [(0, 0x2A)], cores := [0], accepted := 0, fpMode := 0, seed := 0,
    policy := 0, clearMode := false, saveValid := false, phase := .running, nextWg := 1, begun := [0] }

/-- A group of which every lane stands at 0x1000. -/
def group : Group := { slot := 0, num := 0, pcs := List.replicate 32 0x1000, stats := List.replicate 32 .run, preds := List.replicate 32 0 }

def core (g : Group := group) : CoreSt := { task := some 0, bound := [0], slots := [(0, { linear := 0 })], groups := [(0, g)] }

/-- The task runs its group on core 0. -/
def running (g : Group := group) (k : Task := task) (x : CoreSt := core g) : State := { base with tasks := [(0, k)], cores := [(0, x)] }

/-- An instruction of core 0, group 0 and lane 0, with no guard. -/
def issue (d a b c : Nat) (mod : Nat := 0) (ext : Option Word := none) : Issue :=
  { core := 0, pos := 0, lane := 0, gp := 7, gn := false, d := d, a := a, b := b, c := c, mod := mod, ext := ext }

/-- The same, guarded by p0, which is false in every lane of `group`: no lane executes it. -/
def idle (d a b c : Nat) (mod : Nat := 0) : Issue := { issue d a b c mod with gp := 0 }

/-- Does an instruction execute, in a set and a state that p holds of? -/
def runs (s : State) (x : Issue) (regs : List (Bool × Nat)) (bad : Ready → List Bad) (p : Ready → State → Bool := fun _ _ => true) : Bool :=
  match s.ready? x with
  | none => false
  | some r => !r.hazard x regs && (s.fetch x r).2 && (bad r).all (fun b => !b.2) && p r (s.fetch x r).1

theorem executes_of_runs {s : State} {x : Issue} {regs : List (Bool × Nat)} {bad : Ready → List Bad} {p : Ready → State → Bool}
    (h : runs s x regs bad p = true) : ∃ r u, Executes s x regs bad r u ∧ p r u = true := by
  unfold runs at h
  match hr : s.ready? x with
  | none => rw [hr] at h; cases h
  | some r =>
    rw [hr] at h
    simp only [Bool.and_eq_true, Bool.not_eq_true', List.all_eq_true] at h
    obtain ⟨⟨⟨h1, h2⟩, h3⟩, h4⟩ := h
    refine ⟨r, (s.fetch x r).1, ⟨hr, h1, ?_, fun b hb => by simpa using h3 b hb⟩, h4⟩
    rw [← h2]

theorem executes_and {s : State} {x : Issue} {regs : List (Bool × Nat)} {bad : Ready → List Bad} {P : Ready → State → Prop}
    [∀ r u, Decidable (P r u)] (h : runs s x regs bad (fun r u => decide (P r u)) = true) : ∃ r u, Executes s x regs bad r u ∧ P r u := by
  obtain ⟨r, u, h, hp⟩ := executes_of_runs h
  exact ⟨r, u, h, of_decide_eq_true hp⟩

theorem executes_plain {s : State} {x : Issue} {regs : List (Bool × Nat)} {bad : Ready → List Bad} (h : runs s x regs bad = true) :
    ∃ r u, Executes s x regs bad r u := by
  obtain ⟨r, u, h, -⟩ := executes_of_runs h
  exact ⟨r, u, h⟩

/-- A write of a register by the physical function. -/
def poke (r : Reg) (n : Nat) (v : Word) (size : Nat := 8) : Access := { origin := .fn 0, addr := r.addr n, size := size, value := v }

theorem writes_and {s : State} {a : Access} {r : Reg} {P : RegWriteReq → Prop} [∀ q, Decidable (P q)]
    (h : (match s.writeGate a with
      | .go q => decide (q.reg = r ∧ P q)
      | _ => false) = true) : ∃ q, Writes s a r q ∧ P q := by
  cases hg : s.writeGate a with
  | refuse => rw [hg] at h; cases h
  | ignore => rw [hg] at h; cases h
  | go q => rw [hg] at h; have := of_decide_eq_true h; exact ⟨q, ⟨hg, this.1⟩, this.2⟩

/-- A word of fields and their values. -/
def word (l : List (Fld × Nat)) : Word := BitVec.ofNat 64 (l.foldl (fun n e => n + e.2 * 2 ^ e.1.lo) 0)

/-- A write of a register by the physical function, given by fields. -/
def pokeF (r : Reg) (n : Nat) (l : List (Fld × Nat)) : Access := poke r n (word l)

/-- The 64 bytes of a command's first entry: its opcode, and values at offsets. -/
def entry (opcode : Nat) (l : List (Nat × Nat)) : List Byte := leBytes 64 (l.foldl (fun n e => n + e.2 * 2 ^ (8 * e.1)) opcode)

/-- Command 0 of a queue. -/
def cmdOf (opcode : Nat) (l : List (Nat × Nat)) (data : List Byte := []) : Cmd := { seq := 0, header := entry opcode l, inlineData := data }

/-- A state whose queue q runs and holds a command. -/
def held (s : State) (q : Nat) (c : Cmd) : State :=
  { (if q < 32768 then puts s [(F.qpCfgEnable, q, 1), (F.qpStatusState, q, 1)] else s) with
    queues := [(q, { cmds := [c], nextSeq := 1 })] }

/-- An access of an engine that succeeds, in a state and with a result that p holds of. -/
theorem ok_of {E α : Type} {x : State × Except E α} (p : State → α → Bool)
    (h : (match x with
      | (v, .ok a) => p v a
      | (_, .error _) => false) = true) : ∃ v a, x = (v, .ok a) ∧ p v a = true := by
  obtain ⟨v, r⟩ := x
  cases r with
  | ok a => exact ⟨v, a, rfl, h⟩
  | error e => cases h

end Sys2Proof.Tests
end

