-- ==== Sys2Proof/Tests/WitnessCaches.lean ====
section
/-! SUPPORT. Witnesses for the statements about coherence, memory at its home, the stacks and translation. -/

-- Theorems one after another: a thread for each would cost more memory than the check allows.
set_option Elab.async false

namespace Sys2Proof.Tests

open Sys2Proof.Machine Sys2Proof.Claims

/-- Agent 0 holds sector 6, the first of line 3, in a state. -/
def holding (st : Sector) (c : Coherence := {}) : State :=
  { base with canvases := [(0, { sets := [(agentSet 0 3, { ways := [(0, { line := 3, s0 := st })] })] })], coh := c }

/-- A request from every state that may send it, in the whole mode and another; a grant to acknowledge; a snoop of every state; a writeback held
back by a dead agent. -/
theorem witness_CoherenceRequests :
    (∀ st ∈ [Sector.i, .s, .e, .o, .m], (holding st).agentMay 0 6 = some 0 ∧ (holding st).agentState 0 6 = st ∧
      (holding st).reclaimHolds 0 6 = false ∧ (holding st).coh.busy = [] ∧ (holding st).coh.waiting = [] ∧
      ((holding st).cacheSet 0 (agentSet 0 (agentLine 0 6))).ways.wf = true ∧
      (((holding st).cacheSet 0 (agentSet 0 (agentLine 0 6))).ways.map (fun e => e.2.line)).Nodup ∧ (holding st).coh.writebacks = []) ∧
    (base.mode = 0 ∧ (base.wr F.devPartCfgMode 0 2).mode ≠ 0 ∧ (base.wr F.devPartCfgMode 0 2).agentMay 111 0 = none ∧
      base.agentMay 111 0 = some 0) ∧
    (let s := holding .m { busy := [(6, 0)] }
     (6, 0) ∈ s.coh.busy ∧ s.coh.waiting = [] ∧ s.agentMay 0 6 = some 0) ∧
    (let s := (holding .o { dead := [1], reclaiming := [1] }).setMirror 0 1 3 { ways := [(0, { line := 3, v0 := .s, v1 := .notHeld })] }
     s.agentState 0 6 = .o ∧ s.reclaimHolds 0 6 = true) := by decide +kernel

/-- An offer; a stream's clean victim; held writes of exactly 2 µs; accesses of a fine block's every byte; an atomic; a dead agent. -/
theorem witness_HomeMemory :
    (let v : Victim := { line := 3, valid := 3, dirty := 0, stream := true }
     let s : State := { base with canvases := [(11, { offers := [v] })] }
     (s.canvases.getD 11 {}).offers = [v] ∧ (s.paKind (v.line * 128)).region? = some 0 ∧ v.dirty = 0 ∧ v.stream = true) ∧
    (let s : State := { base with channels := [(0, { writes := [(0, 0)] })], now := 2000 }
     ∃ w ∈ (s.channels.getD 0 {}).writes, w.2 + 2000 ≤ s.now) ∧
    (0 < (List.replicate 64 (0 : Byte)).length ∧ 0 + (List.replicate 64 (0 : Byte)).length ≤ 64 ∧ (base.homeOf 6).isSome = true ∧
      ∀ b ∈ blocksOf (6 * 64 + 0) 64, (base.paKind (b * 32)).stack?.all (fun k => !base.stackOffline k) = true) ∧
    (∀ size ∈ [4, 8], base.homeOf (24 / 64) = some 0 ∧ 24 % size = 0 ∧ base.poisoned 24 size = false) ∧
    (let s : State := { base with coh := { dead := [16], reclaiming := [16] } }
     16 ∈ s.coh.reclaiming) := by decide +kernel

/-- An access that a checked address serves, in a state that p holds of. -/
theorem acc_of {x : State × AccRes} (pa : Nat) (p : State → Bool)
    (h : (match x with
      | (u, .memory a) => decide (a = pa) && p u
      | _ => false) = true) : ∃ u, x = (u, .memory pa) ∧ p u = true := by
  obtain ⟨u, r⟩ := x
  cases r with
  | memory a =>
    simp only [Bool.and_eq_true, decide_eq_true_eq] at h
    exact ⟨u, by rw [h.1], h.2⟩
  | _ => cases h

def hot (k temp level : Nat) : State := puts base [(F.stkStatusTemp, k, temp), (F.stkStatusLevel, k, level)]

/-- A stack in service at its first and last levels, one at its limit, one restricted for exactly 10 s; scrubs of a tier and of scratch; a split
change begun, refused and done; fine requests at the last byte of a block. -/
theorem witness_StacksAndSram :
    (∀ l ∈ [0, 1, 6], base.stackOffline 23 = false ∧ (hot 23 0 l).rd F.stkStatusLevel 23 ≤ 6 ∧ (hot 23 0 l).rd F.stkStatusLevel 23 = l) ∧
    (110 ≤ toSigned 8 ((hot 23 110 6).rd F.stkStatusTemp 23) ∧ (hot 23 110 6).stackOffline 23 = false) ∧
    (let s : State := { base with stackSts := [(23, { restrictedSince := some 5 })], now := 10000000005 }
     (s.stackSts.getD 23 {}).restrictedSince = some 5 ∧ 5 + 10000000000 ≤ s.now ∧ s.stackOffline 23 = false) ∧
    ((base.paKind 0).stack? = some 0 ∧ base.stackOffline 0 = false ∧
      (base.wr F.regSramStatusScratchInForce 3 9).paKind 0x080300000000 = .scratch 3 0) ∧
    (∀ u ∈ [0, 9, 10], ∃ q, Writes base (pokeF .regSramCfg 3 [(F.regSramCfgScratchUnits, u)]) .regSramCfg q ∧ q.n < 4 ∧
      q.new F.regSramCfgScratchUnits = u ∧ base.flag F.regSramStatusBusy q.n = false ∧ base.rd F.regSramStatusScratchInForce q.n = 0) ∧
    (let s : State := { base with srams := [(3, { split := some ⟨9⟩ })] }
     (s.srams.getD 3 {}).split = some ⟨9⟩ ∧ s.rd F.regSramStatusScratchInForce 3 ≤ 9) ∧
    (let e := XUnit.engine (lowestRegion base.mode (partOfCtx base.mode 0))
     31 / 32 = (31 + 1 - 1) / 32 ∧ (∃ u, base.access e 0 31 .read = (u, .memory 31) ∧ true = true) ∧
      (∃ u, base.access e 0 31 .write = (u, .memory 31) ∧ true = true) ∧
      (∃ u, base.access e 0 24 .atomic = (u, .memory 24) ∧ decide (u.homeOf (24 / 64) = some 0) = true)) := by
  refine ⟨by decide +kernel, by decide +kernel, by decide +kernel, by decide +kernel, ?_, by decide +kernel, by decide +kernel, ?_, ?_, ?_⟩
  · intro u hu
    simp only [List.mem_cons, List.not_mem_nil, or_false] at hu
    rcases hu with rfl | rfl | rfl <;> exact writes_and (by decide +kernel)
  · exact acc_of 31 (fun _ => true) (by decide +kernel)
  · exact acc_of 31 (fun _ => true) (by decide +kernel)
  · exact acc_of 24 (fun u => decide (u.homeOf (24 / 64) = some 0)) (by decide +kernel)

def xrec (seq : Nat) (pub : Bool) : XfrRec :=
  { seq := seq, ctx := 5, cause := 0, access := 0, va := 0, level := 0, format := 0, engines := 0, kind := 0, core := 0, entry := 0,
    time := 0, queue := 0, tag := 0, published := pub, inOpen := !pub }

def ring (x : XfrRec) : State := { base with xfr := [(3, { recs := [x], opened := some 7, created := 1 })], now := 50007 }

/-- Tables of context 4095 that map its first page: the root at 0x1000, then a table per level, and the page at 0x60000. -/
def tables : State :=
  { puts base [(F.ctxPtRootRoot, 4095, 1), (F.ctxPtRootValid, 4095, 1)] with
    mem := [(0x1000, 1), (0x1001, 0x20), (0x2000, 1), (0x2001, 0x30), (0x3000, 1), (0x3001, 0x40), (0x4000, 1), (0x4001, 0x50),
      (0x5000, 7), (0x5002, 6)] }

/-- A batch just due; responses to a published and to an unknown record; a READ_COUNT in the ring; an invalidation of the last context and its BUSY; its
tables set, in use and not; grants of the last scratch granule, with and without FLUSH and across partitions. -/
theorem witness_TranslationAndGrants :
    (((ring (xrec 0 false)).xfr.getD 3 {}).opened = some 7 ∧ 7 + 50000 ≤ (ring (xrec 0 false)).now) ∧
    (∀ k ∈ [1, 2, 3], ∃ q, Writes (ring (xrec 9 true)) (pokeF .regXfrRespond 3 [(F.regXfrRespondSeq, 9), (F.regXfrRespondOutcome, k)])
      .regXfrRespond q ∧ q.n < 4 ∧ q.wrote F.regXfrRespondOutcome = k ∧ q.wrote F.regXfrRespondSeq = 9) ∧
    (∃ x ∈ ((ring (xrec 9 true)).xfr.getD 3 {}).recs, x.seq = 9 ∧ x.published = true) ∧
    (∀ n ∈ [256, 257], ∃ q, Writes (base.wr F.regXfrWriteWriteCount 3 n) (pokeF .regXfrRead 3 []) .regXfrRead q ∧ q.n = 3 ∧
      ((base.wr F.regXfrWriteWriteCount 3 n).rd F.regXfrWriteWriteCount q.n + 2 ^ 32 - q.new F.regXfrReadReadCount) % 2 ^ 32 = n ∧
      2 ^ (base.wr F.regXfrWriteWriteCount 3 n).rd F.regXfrBaseLog2Records q.n = 256) ∧
    (∃ q, Writes base (pokeF .ctxTlbInv 4095 [(F.ctxTlbInvGo, 1)]) .ctxTlbInv q ∧ q.n < 4096 ∧ q.wrote F.ctxTlbInvGo = 1) ∧
    base.accessTarget (pokeF .ctxTlbInv 4095 []) = some (.ctxTlbInv, 4095) ∧
    (∀ st ∈ [0, 2], ∃ q, Writes (base.wr F.ctxStateState 4095 st) (pokeF .ctxPtRoot 4095 [(F.ctxPtRootValid, 1)]) .ctxPtRoot q ∧
      (base.wr F.ctxStateState 4095 st).rd F.ctxStateState q.n = st) ∧
    (∀ fl ∈ [0, 1], ∃ q, Writes base (pokeF .regGrantScratch 35 [(F.regGrantScratchMode, 3), (F.regGrantScratchContext, 5),
        (F.regGrantScratchFlush, fl)]) .regGrantScratch q ∧
      grantFields .regGrantScratch q.n = some (F.regGrantScratchMode, F.regGrantScratchContext, F.regGrantScratchFlush, 3, 0x080320000000) ∧
      q.wrote F.regGrantScratchFlush = fl ∧ partOfCtx base.mode (q.new F.regGrantScratchContext) = partOfRegion base.mode 3 ∧
      base.flag F.ctxMemCryptEnable (q.new F.regGrantScratchContext) = false ∧
      partOfCtx 2 (q.new F.regGrantScratchContext) ≠ partOfRegion 2 3) ∧
    ((base.paKind 0).granule? = some (F.regGrantNearMode, F.regGrantNearContext, 0) ∧ isFirmwareCtx base.mode 5 = false) ∧
    (vaCanonical 0 = true ∧ tables.flag F.ctxPtRootValid 4095 = true ∧ (∀ e ∈ tables.tlbs.getD 2143 [], e.covers 4095 0 = false) ∧
      (match tables.walk 4095 0 .read with
        | .leaf l _ _ => decide (l.pbase = 0x60000)
        | _ => false) = true) := by
  refine ⟨by decide +kernel, ?_, by decide +kernel, ?_, writes_and (by decide +kernel), by decide +kernel, ?_, ?_, by decide +kernel,
    by decide +kernel⟩
  · intro k hk
    simp only [List.mem_cons, List.not_mem_nil, or_false] at hk
    rcases hk with rfl | rfl | rfl <;> exact writes_and (by decide +kernel)
  · intro k hk
    simp only [List.mem_cons, List.not_mem_nil, or_false] at hk
    rcases hk with rfl | rfl <;> exact writes_and (by decide +kernel)
  · intro k hk
    simp only [List.mem_cons, List.not_mem_nil, or_false] at hk
    rcases hk with rfl | rfl <;> exact writes_and (by decide +kernel)
  · intro k hk
    simp only [List.mem_cons, List.not_mem_nil, or_false] at hk
    rcases hk with rfl | rfl <;> exact writes_and (by decide +kernel)

end Sys2Proof.Tests
end

