-- ==== Sys2Proof/Tests/WitnessCommands.lean ====
section
/-! SUPPORT. Witnesses for the statements about queue commands and resident operators. -/

-- Theorems one after another: a thread for each would cost more memory than the check allows.
set_option Elab.async false

namespace Sys2Proof.Tests

open Sys2Proof.Machine Sys2Proof.Claims

/-- An engine's access that is served, in a state and with a result that p holds of. -/
theorem io_of {α : Type} {x : State × CtxIo α} (p : State → α → Prop) [∀ v a, Decidable (p v a)]
    (h : (match x with
      | (v, .ok a) => decide (p v a)
      | _ => false) = true) : ∃ v a, x = (v, .ok a) ∧ p v a := by
  obtain ⟨v, r⟩ := x
  cases r with
  | ok a => exact ⟨v, a, rfl, of_decide_eq_true h⟩
  | status => cases h
  | stall => cases h
  | wait => cases h

theorem io_plain {α : Type} {x : State × CtxIo α}
    (h : (match x with
      | (_, .ok _) => true
      | _ => false) = true) : ∃ v a, x = (v, .ok a) := by
  obtain ⟨v, a, h, -⟩ := io_of (fun _ _ => True) (by simpa using h)
  exact ⟨v, a, h⟩

/-- A launch descriptor of 64 bytes at address 0x400: one cluster, one group, eight registers. -/
def descMem : List Host.Cell :=
  [(0x411, 1), (0x414, 1), (0x416, 1), (0x418, 1), (0x419, 1), (0x421, 1)]

def launches (m : List Host.Cell) (inl : Nat) : State :=
  held { base with mem := m } 5 (cmdOf 0x02 [(0x10, 0x400), (0x18, inl)])

def moveCmd (o len : Nat) (l : List (Nat × Nat)) (data : List Byte := []) : Cmd :=
  { cmdOf o ((if o = 0x14 then (0x18, len) else (0x20, len)) :: l) data with phase := .running }

/-- A launch with a good descriptor and with an empty one; a counter in the last place of the last region, granted and not; placements and a
free; data movers at their least and greatest lengths, and of no length; a chunk of each. -/
theorem witness_HostCommandsRun :
    (let c := cmdOf 0x02 [(0x10, 0x400), (0x18, 1)]
     let s := launches descMem 1
     s.cmd? 5 0 = some c ∧ c.opcode = 0x02 ∧ c.phase = .accepted ∧ s.partLive (partOfQueue s.mode 5) = true ∧ s.schedulerUp 5 = true ∧
      c.stalled = none ∧ c.task = none ∧ c.field 0x10 8 % 64 = 0 ∧ c.field 0x18 1 = 1 ∧ c.zeroAt [(0x19, 39)] = true) ∧
    (∃ u b, (launches descMem 1).ctxRead ((launches descMem 1).schedEngine 5 0) 0x400 64 = (u, .ok b) ∧
      u.launchRefused (u.queueCtx 5) (LaunchDesc.parse b) (some 0) = none) ∧
    (∃ u b, (launches [] 1).ctxRead ((launches [] 1).schedEngine 5 0) 0x400 64 = (u, .ok b) ∧
      u.launchRefused (u.queueCtx 5) (LaunchDesc.parse b) (some 0) = some 1) ∧
    ((cmdOf 0x02 [(0x10, 0x401)]).field 0x10 8 % 64 ≠ 0) ∧
    (∀ e ∈ [(0x03, base), (0x04, base.wr F.regCntOwnerValid 31 1)], let c := cmdOf e.1 [(0x10, 2 + 511 * 256 + 3 * 2 ^ 32)]
     let s := held e.2 5 c
     Starts s 5 0 e.1 c ∧ c.regionRef = true ∧ c.zeroAt [(0x24, 28)] = true ∧ c.zeroAt [(0x20, 32)] = true ∧ s.earlierDone 5 0 = true ∧
      natBits (c.field 0x10 8) 33 32 = 3 ∧ natBits (c.field 0x10 8) 17 8 = 511 ∧ partOfRegion s.mode 3 = partOfQueue s.mode 5 ∧
      s.blockGranted 3 511 (s.queueCtx 5) = decide (e.1 = 0x04) ∧ s.regionWaits 3 < 4096 ∧ s.replaying (s.queueCtx 5) = false) ∧
    (let c := cmdOf 0x05 [(0x10, 0x8000), (0x18, 2), (0x1C, 2), (0x1D, 3), (0x1E, 1)]
     let s := held base 5 c
     Starts s 5 0 0x05 c ∧ s.poolBodyOk 5 c = true ∧ c.field 0x1E 1 < 8 ∧ (c.field 0x1E 1).testBit 2 = false ∧ c.field 0x1F 1 = 0 ∧
      c.field 0x1D 1 < 4 ∧ partOfRegion s.mode (c.field 0x1D 1) = partOfQueue s.mode 5 ∧ c.stalled = none ∧
      s.flag F.ctxMemCryptEnable (c.field 0x20 2) = false) ∧
    (∃ u v, State.probeWrite ((held base 5 (cmdOf 0x05 [])).dmaEngine 5 0) (pagesOf (pageFuel 16) 0x8000 16) (held base 5 (cmdOf 0x05 [])) =
      (u, .ok v)) ∧
    (let c := cmdOf 0x06 [(0x10, 0x8000), (0x18, 1), (0x1C, 2)]
     let s := held base 5 c
     Starts s 5 0 0x06 c ∧ s.poolBodyOk 5 c = true ∧ c.zeroAt [(0x1D, 3)] = true ∧ c.stalled = none) ∧
    (∃ u b, (held base 5 (cmdOf 0x06 [])).ctxRead ((held base 5 (cmdOf 0x06 [])).dmaEngine 5 0) 0x8000 8 = (u, .ok b)) ∧
    (∀ o ∈ [0x10, 0x11, 0x12, 0x13], ∀ n ∈ [2 ^ 40, 8, 0], let c := cmdOf o [(0x10, 2 ^ 41), (0x20, n)]
     Starts (held base 5 c) 5 0 o c ∧ c.moveLen = n ∧ c.zeroAt [(0x28, 24)] = true ∧ c.moveLen % 8 = 0 ∧ c.moveDst % 8 = 0 ∧
      rangesMeet (c.field 0x10 8) c.moveLen (c.field 0x18 8) c.moveLen = false) ∧
    (∀ n ∈ [1, 2], let c := cmdOf 0x14 [(0x18, n)] [7]
     Starts (held base 5 c) 5 0 0x14 c ∧ c.zeroAt [(0x1A, 38)] = true ∧ c.moveLen = n ∧ c.inlineData.length = 1) ∧
    (∀ o ∈ [0x10, 0x11, 0x12, 0x13, 0x14], let c := moveCmd o 32 [(0x10, 0x2000)] (List.replicate 32 7)
     let s := held base 5 c
     s.cmd? 5 0 = some c ∧ c.phase = .running ∧ c.stalled = none ∧ 0 < c.chunks ∧ c.chunksDone = [] ∧ s.partLive 0 = true ∧
      s.skbRoom 0 0 = true ∧ s.replaying 0 = false ∧ s.hostOpen = true ∧ c.chunkLen 0 = 32) ∧
    (∃ u v, (held base 5 (cmdOf 0x13 [])).ctxWrite ((held base 5 (cmdOf 0x13 [])).dmaEngine 5 0) 0x2000 (List.replicate 32 7) =
      (u, .ok v)) := by
  unfold Starts
  exact ⟨by decide +kernel, io_of (fun u b => u.launchRefused (u.queueCtx 5) (LaunchDesc.parse b) (some 0) = none) (by decide +kernel),
    io_of (fun u b => u.launchRefused (u.queueCtx 5) (LaunchDesc.parse b) (some 0) = some 1) (by decide +kernel), by decide +kernel,
    by decide +kernel, by decide +kernel, io_plain (by decide +kernel), by decide +kernel, io_plain (by decide +kernel), by decide +kernel,
    by decide +kernel, by decide +kernel, io_plain (by decide +kernel)⟩

/-- A tensor descriptor of 96 bytes: an address, a format, extents, and a scale of 1. -/
def descr (va fmt : Nat) (shape : List Nat) : List Byte :=
  leBytes 96 (va + fmt * 2 ^ 64 + shape.length * 2 ^ 72 + (shape.zipIdx.foldl (fun n e => n + e.1 * 2 ^ (32 * e.2)) 0) * 2 ^ 128
    + ((List.range (shape.length - 1)).foldl (fun n i => n + 16 * 2 ^ (64 * i)) 0) * 2 ^ 256 + 0x3F800000 * 2 ^ 448)

/-- The resident queue with an operator on tensors of FP32 (code 1) at 0x1000, 0x2000 and so on. -/
def oper (o ctl : Nat) (l : List (Nat × Nat)) (shapes : List (List Nat)) : Cmd :=
  cmdOf o ((0x10, ctl) :: l) (shapes.zipIdx.flatMap (fun e => descr (0x1000 * (e.2 + 1)) 1 e.1))

/-- Each operator, with a good body and inputs that can be read: extents of one and of two, every sub-operation; and a body with no
descriptors. -/
theorem witness_OperatorsRun :
    (let c := oper 0x20 0 [] [[1, 2], [2, 1], [1, 1]]
     Starts (held base 0 c) 0 0 0x20 c ∧ (held base 0 c).matmulOk 0 c = true ∧ c.stalled = none ∧
      (held base 0 c).editionRefused 0 = false) ∧
    (let c := oper 0x21 0 [(0x18, 0x10001), (0x20, 0x10001)] [[1, 2, 1, 1], [2, 1, 1, 1], [1, 1, 1, 1]]
     Starts (held base 0 c) 0 0 0x21 c ∧ (held base 0 c).convOk 0 c = true) ∧
    (∀ sub ∈ [0, 1, 2, 3, 4, 5, 6, 7, 8, 9, 0x10, 0x11, 0x12, 0x13, 0x14],
     let c := oper 0x22 (sub * 4096) [] (List.replicate (mapArity sub + 1) [2])
     Starts (held base 0 c) 0 0 0x22 c ∧ c.subop = sub ∧ (held base 0 c).mapOk 0 c = true) ∧
    (∀ sub ∈ [0, 1, 2], let c := oper 0x23 (sub * 4096 + 2 ^ 20) [] [[1, 2], [1, 1]]
     Starts (held base 0 c) 0 0 0x23 c ∧ c.subop = sub ∧ (held base 0 c).reduceOk 0 c = true) ∧
    (let c := oper 0x24 0 [] [[2], [2]]
     Starts (held base 0 c) 0 0 0x24 c ∧ c.sortOk = true ∧ c.hasPayload = false) ∧
    (let c := oper 0x25 0 [] [[2], [2], [2]]
     let s := (held base 0 c).wr F.qpDlbCtlEnable 0 0
     Starts s 0 0 0x25 c ∧ c.selectOk = true ∧ s.flag F.qpDlbCtlEnable 0 = false) ∧
    (∀ o ∈ [0x20, 0x21, 0x24, 0x25], let c := oper o 0 [] []
     Starts (held base 0 c) 0 0 o c ∧ (held base 0 c).matmulOk 0 c = false ∧ (held base 0 c).convOk 0 c = false ∧ c.sortOk = false ∧
      c.selectOk = false) ∧
    (let c := oper 0x22 4096 [] [[2], [2], [2]]
     ∃ v x, State.readTensors ((held base 0 c).operEngine 0 0) ((List.range 2).map c.tensor) (held base 0 c) = (v, .ok x)) := by
  unfold Starts
  exact ⟨by decide +kernel, by decide +kernel, by decide +kernel, by decide +kernel, by decide +kernel, by decide +kernel,
    by decide +kernel, io_plain (by decide +kernel)⟩

end Sys2Proof.Tests
end

