-- ==== Sys2Proof/Tests/WitnessHost.lean ====
section
/-! SUPPORT. Witnesses for the statements about the host: sessions, registers, BARs, queues and their commands. -/

-- Theorems one after another: a thread for each would cost more memory than the check allows.
set_option Elab.async false

namespace Sys2Proof.Tests

open Sys2Proof.Machine Sys2Proof.Claims

/-- A session that is attached (1) or detached (2) and has a token. -/
def session (st : Nat) (x : Session := { token := some (5 + 2 ^ 64 * 6) }) : State := { base.wr F.hifSessionState 0 st with session := x }

/-- A heartbeat just expired; a detach, a kick, an attach, a resume with the right token and with a wrong one, a read of each half, the end
of a lockout, the last virtual function, its assignment. -/
theorem witness_HostSession :
    (let s : State := { (session 1).wr F.hifHeartbeatTimeoutMs 0 100 with now := 100000007, session := { lastKick := 7 } }
     s.rd F.hifSessionState = 1 ∧ s.rd F.hifHeartbeatTimeoutMs ≠ 0 ∧ s.session.lastKick + s.rd F.hifHeartbeatTimeoutMs * 1000000 ≤ s.now) ∧
    (∃ q, Writes (session 1) (pokeF .hifSessionCtl 0 [(F.hifSessionCtlDetach, 1)]) .hifSessionCtl q ∧ q.wrote F.hifSessionCtlAction = 0 ∧
      q.wrote F.hifSessionCtlDetach = 1) ∧
    (∃ q, Writes base (pokeF .hifHeartbeat 0 [(F.hifHeartbeatKick, 1)]) .hifHeartbeat q ∧ q.wrote F.hifHeartbeatKick = 1) ∧
    (∃ q, Writes base (pokeF .hifSessionCtl 0 [(F.hifSessionCtlAction, 1)]) .hifSessionCtl q ∧ q.wrote F.hifSessionCtlDetach = 0 ∧
      base.sessionLocked = false ∧ q.wrote F.hifSessionCtlAction = 1 ∧ base.rd F.hifSessionState = 0 ∧ base.session.attachWaits = false ∧
      base.flag F.fwRootRootValid = true ∧ base.sec.keyWaits = []) ∧
    (∃ q, Writes (session 2 { token := some 0 }) (pokeF .hifSessionCtl 0 [(F.hifSessionCtlAction, 3)]) .hifSessionCtl q ∧
      q.wrote F.hifSessionCtlDetach = 0 ∧ (session 2).sessionLocked = false ∧ q.wrote F.hifSessionCtlAction = 3 ∧
      2 ≤ (session 2).rd F.hifSessionState ∧ (session 2 { token := some 0 }).session.token = some (0 + 0 * 2 ^ 64) ∧
      (session 2).session.token ≠ some ((session 2).session.presentLo + (session 2).session.presentHi * 2 ^ 64)) ∧
    ((session 1).session.token = some (5 + 2 ^ 64 * 6) ∧ (session 1).session.spdmRead = false ∧ (session 1).session.hiRead = false ∧
      (session 1).session.loRead = false ∧ base.session.token = none) ∧
    (let s : State := { base with now := 9, session := { lockoutEnd := some 9 } }
     s.session.lockoutEnd = some 9 ∧ 9 ≤ s.now) ∧
    (∀ p ∈ [0, 3], ∃ q, Writes base (pokeF .hifVfCfg 62 [(F.hifVfCfgPartition, p), (F.hifVfCfgAssigned, 1)]) .hifVfCfg q ∧
      q.new F.hifVfCfgAssigned = 1 ∧ q.new F.hifVfCfgPartition = p ∧ q.was F.hifVfCfgAssigned = 0 ∧ partCount base.mode = 1) := by
  refine ⟨by decide +kernel, writes_and (by decide +kernel), writes_and (by decide +kernel), writes_and (by decide +kernel),
    writes_and (by decide +kernel), by decide +kernel, by decide +kernel, ?_⟩
  intro p hp
  simp only [List.mem_cons, List.not_mem_nil, or_false] at hp
  rcases hp with rfl | rfl <;> exact writes_and (by decide +kernel)

/-- A write of 4 bytes to the upper half of a register with no rule of its own, and a CLEAR of the last stack's counters. -/
theorem witness_RegisterWritesAndClears :
    (∃ q, base.writeGate { origin := .fn 0, addr := Reg.addr .skbStatus 0 + 4, size := 4, value := 0xFFFFFFFF } = .go q ∧
      q.reg = .skbStatus) ∧
    (∃ q, Writes base (pokeF .stkCountCtl 23 [(F.stkCountCtlClear, 1)]) .stkCountCtl q ∧
      countersOf q.reg = some (F.stkCountCtlClear,
        [.stkReadBytes, .stkWriteBytes, .stkTurnarounds, .stkRowConflicts, .stkThrottleNs, .stkExactWraps]) ∧
      q.wrote F.stkCountCtlClear = 1 ∧
      ∀ r ∈ [Reg.stkReadBytes, .stkWriteBytes, .stkTurnarounds, .stkRowConflicts, .stkThrottleNs, .stkExactWraps], regAt (r.addr q.n) = some (r, q.n)) := by
  refine ⟨?_, writes_and (by decide +kernel)⟩
  obtain ⟨q, h⟩ := writes_and (s := base) (a := { origin := .fn 0, addr := Reg.addr .skbStatus 0 + 4, size := 4, value := 0xFFFFFFFF })
    (r := .skbStatus) (P := fun _ => True) (by decide +kernel)
  exact ⟨q, h.1⟩

/-- Writes that are refused: at an address past the last register, not aligned, by a virtual function to a block of the device, by a core to
another partition's window; and one that is ignored. -/
theorem witness_RefusedWrites :
    (base.accessTarget { origin := .fn 0, addr := 0x4FFFFFF8, size := 8, value := 0 } = none ∧
      base.accessTarget { origin := .fn 0, addr := 4, size := 8, value := 0 } = none) ∧
    (let s := puts base [(F.hifVfCfgAssigned, 62, 1)]
     Origin.isPf (.fn 63) = false ∧ s.reaches (.fn 63) .pwrCap 0 = false ∧ (Reg.place .pwrCap).block.pfBlock = true) ∧
    (let s := base.wr F.devPartCfgMode 0 2
     Origin.isPf (.core 1151) = false ∧ s.originPart (.core 1151) = some 3 ∧ s.blockPart (Reg.place .regCntOwner).block 2 = some 2 ∧
      s.reaches (.core 1151) .regCntOwner 23 = false) ∧
    (∃ a, (base.wr F.devPartCfgMode 0 0).writeGate a = .ignore ∧ a.size = 8) ∧
    (∃ a, base.writeGate a = .refuse ∧ a.size = 8) :=
  ⟨by decide +kernel, by decide +kernel, by decide +kernel, ⟨poke .netCfg 3 0, by decide +kernel⟩,
    ⟨{ poke .pwrCap 0 0 with origin := .core 0 }, by decide +kernel⟩⟩

/-- The host's link is up; a window of virtual function 63, of context 5, maps to its own addresses. -/
def linked : State := puts base [(F.hifLinkStatusUp, 0, 1), (F.hifHostRidRid, 0, 0x100)]

def bar (fn b off len : Nat) (data : Option (List Byte) := none) : BarReq :=
  { rid := 0x100, fn := fn, bar := b, off := off, len := len, write := data.isSome, data := data.getD [] }

/-- A request that is served: from another requester, to a register, to each doorbell of queue 0, to memory, to a window that is not to
be written; a read waiting for 10 ms. -/
theorem witness_HostAccesses :
    (linked.barServed (bar 0 0 0 8) = true ∧ linked.barReads = [] ∧ linked.barAdmitted { bar 0 0 0 8 with rid := 0x101 } = false ∧
      linked.barServed { bar 0 0 0 8 with rid := 0x101 } = true) ∧
    (let r := bar 0 0 0x4FFFFFF8 8 (some (List.replicate 8 0))
     linked.barServed r = true ∧ linked.barAdmitted r = true ∧ linked.modSt.standby = false ∧ r.off < 0x50000000 ∧ r.write = true) ∧
    (∀ off ∈ [0, 8], let r := bar 0 4 off 4 (some (leBytes 4 1))
     linked.barServed r = true ∧ linked.barAdmitted r = true ∧ linked.ownsDoorbell r.fn (r.off / 4096) = true ∧ r.off % 4096 = off) ∧
    (∀ d ∈ [none, some (List.replicate 32 0)], let r := bar 0 2 0 32 d
     linked.barServed r = true ∧ linked.barAdmitted r = true ∧ linked.barCheck none r.off r.len r.write = .serve) ∧
    (let s := puts linked [(F.hifVfCfgAssigned, 62, 1), (F.awtWinValid, 4031, 1), (F.awtWinContext, 4031, 5), (F.ctxStateFunction, 5, 63)]
     let r := bar 63 2 0xFFFFFFFE0 32 (some (List.replicate 32 0))
     s.barServed r = true ∧ s.barAdmitted r = true ∧ r.off < 0x1000000000 ∧ (r.fn - 1) * 64 + r.off / 0x40000000 = 4031 ∧
      s.flag F.awtWinValid 4031 = true ∧ s.rd F.awtWinContext 4031 = 5 ∧ s.rd F.ctxStateFunction 5 = r.fn ∧
      s.originPart (.fn r.fn) = some (partOfCtx s.mode 5) ∧ s.flag F.ctxPtCtlFormat 5 = false ∧ s.partState 0 ≠ 4 ∧
      s.flag F.awtWinWrite 4031 = false) ∧
    (let w : BarRead := { id := 3, fn := 0, ctx := none, addr := 0, len := 8, time := 1 }
     let t : State := { linked with barReads := [w], now := 10000001 }
     t.barReads = [w] ∧ w.id = 3 ∧ w.write = none ∧ w.time + 10000000 ≤ t.now ∧ t.barCheck w.ctx w.addr w.len false ≠ .hole) := by
  decide +kernel

/-- An enable at the greatest and the least sizes, one while the queue drains, a disable; a doorbell that fits exactly, and one beyond. -/
theorem witness_QueuesAndDoorbells :
    (∀ n ∈ [6, 16], ∃ r, Writes base (pokeF .qpCfg 32767 [(F.qpCfgEnable, 1), (F.qpCfgLog2Sq, n), (F.qpCfgLog2Cq, n)]) .qpCfg r ∧
      r.n < 32768 ∧ base.ownsQueue r.origin r.n = true ∧ r.new F.qpCfgEnable = 1 ∧ r.was F.qpCfgEnable = 0 ∧ r.new F.qpCfgLog2Sq = n ∧
      r.new F.qpCfgLog2Cq = n ∧ r.new F.qpCfgContext = r.was F.qpCfgContext ∧ base.rd F.qpStatusState r.n ≠ 4 ∧
      ((base.queue r.n).sqTail + 2 ^ 32 - base.rd F.qpSqHeadCount r.n) % 2 ^ 32 ≤ 2 ^ r.new F.qpCfgLog2Sq) ∧
    (∃ r, Writes (base.wr F.qpStatusState 5 4) (pokeF .qpCfg 5 [(F.qpCfgEnable, 1), (F.qpCfgLog2Sq, 6), (F.qpCfgLog2Cq, 6)]) .qpCfg r ∧
      r.new F.qpCfgEnable = 1 ∧ r.was F.qpCfgEnable = 0 ∧ (base.wr F.qpStatusState 5 4).rd F.qpStatusState r.n = 4) ∧
    (∃ r, Writes (held base 5 (cmdOf 0 [])) (pokeF .qpCfg 5 []) .qpCfg r ∧ r.new F.qpCfgEnable = 0 ∧ r.was F.qpCfgEnable = 1 ∧
      ∀ c ∈ ((held base 5 (cmdOf 0 [])).queue r.n).cmds, c.task = none) ∧
    (let s := puts base [(F.qpStatusState, 5, 1)]
     s.ownsDoorbell 0 5 = true ∧ s.ownsDoorbell 1 5 = false ∧ s.queueOn 5 = true ∧
      ¬2 ^ s.rd F.qpCfgLog2Sq 5 < (64 % 2 ^ 32 + 2 ^ 32 - s.rd F.qpSqHeadCount 5) % 2 ^ 32 ∧
      2 ^ s.rd F.qpCfgLog2Sq 5 < (65 % 2 ^ 32 + 2 ^ 32 - s.rd F.qpSqHeadCount 5) % 2 ^ 32) := by
  refine ⟨?_, writes_and (by decide +kernel), writes_and (by decide +kernel), by decide +kernel⟩
  intro n hn
  simp only [List.mem_cons, List.not_mem_nil, or_false] at hn
  rcases hn with rfl | rfl <;> exact writes_and (by decide +kernel)

/-- A queue with one entry to fetch; a header that is refused; a command that has ended, in a ring with one place left and in a full one, and
under a detached session; a NOP and a FENCE that start. -/
theorem witness_CommandsFetchedAndRecorded :
    (let s : State := { puts base [(F.qpStatusState, 5, 1)] with queues := [(5, { sqTail := 1 })] }
     s.mayFetch 5 = true ∧ s.outranked 5 = false ∧ s.skbRoom (partOfQueue s.mode 5) 0 = true ∧ s.flag F.qpCfgSqLoc 5 = false ∧
      1 ≤ ((s.queue 5).sqTail + 2 ^ 32 - s.rd F.qpSqHeadCount 5) % 2 ^ 32 ∧
      s.headerRefused 5 (cmdOf 0xFF []) = some 2 ∧ s.headerRefused 5 (cmdOf 1 []) = none ∧ (∀ y ∈ (s.queue 5).cmds, y.seq ≠ 0)) ∧
    (let c := { cmdOf 0 [] with phase := .done }
     let s := held base 5 c
     s.cmd? 5 0 = some c ∧ c.phase = .done ∧ s.writesDone c = true ∧ s.schedulerUp 5 = true ∧ c.noRecord = false ∧
      (s.queue 5).ringFailed = false ∧ (s.queue 5).ringStall = none ∧ (∀ y ∈ (s.queue 5).cmds, y.stalled = none) ∧
      s.skbRoom 0 0 = true ∧ s.flag F.qpCfgCqLoc 5 = false ∧ s.hostOpen = true ∧
      ((s.wr F.qpCqTailCount 5 64).rd F.qpCqTailCount 5 + 2 ^ 32 - (s.queue 5).cqHead) % 2 ^ 32 = 64 ∧
      ((s.wr F.qpCqTailCount 5 63).rd F.qpCqTailCount 5 + 2 ^ 32 - (s.queue 5).cqHead) % 2 ^ 32 = 63 ∧
      2 ^ s.rd F.qpCfgLog2Cq 5 = 64 ∧ (s.wr F.hifSessionState 0 2).rd F.hifSessionState = 2 ∧ (∀ h ∈ (s.queue 5).held, h.seq ≠ 0)) ∧
    (∀ o ∈ [0, 1], Starts (held base 5 (cmdOf o [])) 5 0 o (cmdOf o [])) := by
  unfold Starts
  decide +kernel

end Sys2Proof.Tests
end

