-- ==== Sys2Proof/Tests/WitnessNet.lean ====
section
/-! SUPPORT. Witnesses for the statements about packets, commands to peers, collectives and jobs. -/

-- Theorems one after another: a thread for each would cost more memory than the check allows.
set_option Elab.async false

namespace Sys2Proof.Tests

open Sys2Proof.Machine Sys2Proof.Claims

/-- Slot 3 of partition 0 in a state: job 9, epoch 2, rank 1 of three, ranks 0 and 2 valid, context 0. -/
def slot (st : Nat) : State :=
  { puts base [(F.netSlotState, 3, st), (F.netSlotJob, 3, 9), (F.netSlotEpoch, 3, 2), (F.netSlotOwnRank, 3, 1), (F.netSlotTableCount, 3, 3),
      (F.portStatusUpA, 7, 1)] with ranks := [(0, ⟨0, 0, 0, true⟩), (2, ⟨0, 0, 0, true⟩)] }

/-- A packet at the head of port block 7's buffer, from rank 2 to slot 3. -/
def rxOf (p : NetPkt) : RxFrame := { part := 0, slot := 3, src := 2, prio := 3, len := 100, ce := false, pkt := p }

def arrived (p : NetPkt) (j : JobSlot := {}) : State := { slot 3 with ports := [(7, { rx := [rxOf p] })], slots := [(3, j)] }

theorem arrived_regs (p : NetPkt) (j : JobSlot) : (arrived p j).regs = (slot 3).regs := by simp only [arrived]

theorem heads_any (p : NetPkt) (j : JobSlot := {}) : Heads (arrived p j) 7 p (rxOf p) 3 := by
  have h : ∀ r n, (arrived p j).reg r n = (slot 3).reg r n := fun r n => by unfold State.reg; rw [arrived_regs]
  have hf : ∀ f n, (arrived p j).rd f n = (slot 3).rd f n := fun f n => by unfold State.rd; rw [h]
  have hm : (arrived p j).mode = (slot 3).mode := by unfold State.mode; rw [hf]
  refine ⟨⟨[], rfl⟩, rfl, ?_, ?_, rfl⟩
  · unfold State.netIdx
    rw [hm]
    show 3 = (slot 3).netIdx 0 3
    decide +kernel
  · unfold State.slotState
    rw [hf]
    decide +kernel

def frame (p : NetPkt) (len : Nat := 100) : Frame :=
  { sub := 0, ipv6 := true, dstPrefix := 0, dstId := jobIdent 9 2 1, srcId := jobIdent 9 2 2, dport := 4791, prio := 3, len := len,
    ce := false, fields := true, pkt := p }

def cmdRead : Cmd := { cmdOf 0x41 [(0x10, 3), (0x14, 2), (0x18, 0x2000), (0x28, 8)] with phase := .running }

/-- A frame that is taken, one dropped, one a byte too long for its share; a solicitation; PFC with and without a frame held; a flow's timers
just due; each packet; each command with a slot not armed, a bad rank and a good one. -/
theorem witness_PacketsAndRdmaCommands :
    (let f := frame (.roce 0 .acknowledge)
     let s := slot 3
     s.portUp 7 f.sub = true ∧ f.sub < 2 ∧ f.prio < 8 ∧ s.macsecOn 7 f.sub = false ∧ s.pfcPrio 7 f.prio = true ∧ s.rxShare 7 = 0x200000 ∧
      (s.port 7).occ f.prio + f.len ≤ s.rxShare 7 ∧ s.acceptFrame 7 f = .slot 3 2 ∧ f.pkt.isLaunch = false ∧
      s.rxShare 7 < (s.port 7).occ f.prio + (frame (.roce 0 .acknowledge) 0x200001).len ∧
      s.acceptFrame 7 { f with dstId := jobIdent 9 3 1 } = .drop F.portRxStaleCount) ∧
    (let f : TxFrame := { sub := 0, pre := 0, nextHop := 0, src := 1, dst := 2, sport := 0, dport := 0, dscp := 0, prio := 4, pkt := .foreign }
     let s : State := { slot 3 with ports := [(7, { held := [f], paused := [(0, [4])] })] }
     s.portUp 7 0 = true ∧ s.flag F.portCfgPfcEn 7 = true ∧ s.pfcPrio 7 4 = true ∧ (s.port 7).held = [f] ∧
      4 ∈ (s.port 7).paused.getD f.sub []) ∧
    (let sentOne : SentPkt := { seq := 0, pkt := .foreign, q := 5, cmd := 0 }
     let f : Flow := { rate := 999, lastRaise := 0, rxHeld := 1, rxSince := 51000, expiries := 30, unacked := [sentOne] }
     let s : State := { slot 3 with slots := [(3, { conns := [(2, f)] })], now := 55000 }
     3 = s.netIdx 0 3 ∧ (s.flow 3 2 false).rate < 1000 ∧ (s.flow 3 2 false).lastRaise + 55000 ≤ s.now ∧ (s.flow 3 2 false).rxHeld ≠ 0 ∧
      (s.flow 3 2 false).rxSince + 4000 ≤ s.now ∧ (s.flow 3 2 false).unacked ≠ [] ∧ (s.flow 3 2 false).rnrUntil = none ∧
      (s.flow 3 2 false).lastSend + s.rtoOf 3 (s.flow 3 2 false) ≤ s.now ∧ (s.flow 3 2 false).expiries < 31) ∧
    (∀ op : RoceOp, Heads (arrived (.roce 7 op)) 7 (.roce 7 op) (rxOf (.roce 7 op)) 3) ∧
    (let p : NetPkt := .roce 7 (.write true 0x2000 [1] none)
     let s := arrived p { conns := [(2, { expect := 7 })] }
     let f := s.flow 3 2 false
     f.restart = false ∧ f.failed = none ∧ f.fault = none ∧ f.expect % 2 ^ 24 = 7 ∧
      (match (s.setFlow 3 2 false f).serve 3 (.write true 0x2000 [1] none) with
        | (_, .done _) => true
        | _ => false) = true ∧
      (match (s.setFlow 3 2 false f).serve 3 (.readRequest 0x2000 8) with
        | (_, .done _) => true
        | _ => false) = true) ∧
    (let p : NetPkt := .roce 7 (.readResponse [1, 2, 3, 4, 5, 6, 7, 8])
     let y : SentPkt := { seq := 7, pkt := .roce 7 (.readRequest 0 8), q := 5, cmd := 0 }
     let s : State := { arrived p { conns := [(2, { unacked := [y] })] } with queues := [(5, { cmds := [cmdRead] })] }
     let u := s.ackThrough 3 2 ((7 + 2 ^ 24 - 1) % 2 ^ 24)
     (u.flow 3 2 false).unacked = [y] ∧ u.cmd? 5 0 = some cmdRead ∧ cmdRead.phase = .running ∧ cmdRead.stalled = none ∧
      cmdRead.field 0x20 8 = 0 ∧ cmdRead.field 0x28 8 = 8 ∧ cmdRead.signal = none ∧
      (match u.ctxWrite (u.rdmaEngine 5 0) (cmdRead.field 0x18 8) [1, 2, 3, 4, 5, 6, 7, 8] with
        | (_, .ok _) => true
        | _ => false) = true) ∧
    (∀ o ∈ [0x40, 0x41], let c := cmdOf o [(0x10, 3), (0x14, 2), (0x28, 8)]
     Starts (held (slot 3) 5 c) 5 0 o c ∧ c.rdmaOk = true ∧ 3 = (held (slot 3) 5 c).cmdSlot 5 (c.field 0x10 1) ∧
      (held (slot 2) 5 c).slotState 3 ≠ 3 ∧ (held (slot 3) 5 c).slotOpen 5 3 = true ∧ (held (slot 3) 5 c).rankGood 3 2 = true ∧
      (held (slot 3) 5 c).rankGood 3 1 = false ∧ (held (slot 3) 5 c).rankGood 3 3 = false ∧
      (held (slot 3) 5 c).netOps (fun _ => true) < 65536) ∧
    (let c := cmdOf 0x42 [(0x10, 3), (0x14, 2), (0x30, 2)]
     Starts (held (slot 3) 5 c) 5 0 0x42 c ∧ c.field 0x10 1 < 4 ∧ c.zeroAt [(0x11, 3), (0x18, 24)] = true ∧
      netRefOk (c.field 0x30 8) = true) := by
  unfold Starts
  exact ⟨by decide +kernel, by decide +kernel, by decide +kernel, fun op => heads_any _, by decide +kernel, by decide +kernel,
    by decide +kernel, by decide +kernel⟩

def shape : CollShape := { subop := 0, elems := 2, fmt := 1, inLf := false, scale := 0x3F800000, first := 0, count := 3, stride := 1 }

def live (use : Nat) : JobSlot := { colls := [(5, { use := use, shape := shape, root := 0, pos := 1, q := 5, cmd := 0, env := {}, seed := 0 })] }

def stream (m : FletusMsg) (seq : Nat := 0) (restart : Bool := false) : FletusPkt :=
  { seq := seq, ackSeq := 0, echo := false, restart := restart, msg := m }

/-- A message next in sequence is one whose number is 0, the first of a stream. -/
theorem inSequence_of (m : FletusMsg) (j : JobSlot) (h : (((arrived (.fletus (stream m)) j).streamCommon 3 (rxOf (.fletus (stream m))) (stream m)).flow 3 2 true).expect = 0) :
    ∃ u, InSequence (arrived (.fletus (stream m)) j) 7 m (rxOf (.fletus (stream m))) 3 u :=
  ⟨_, stream m, heads_any _ j, rfl, rfl, rfl, h.symm⟩

/-- Queue 5 runs the collective's command. -/
def collQueue : NMap QueueSt := [(5, { cmds := [{ cmdOf 0x28 [] with phase := .running }] })]

def dataMsg : FletusMsg := .data 5 0 shape 0 2 false 1 [] none

/-- Acknowledgements, a restart, a NACK, a message out of sequence and in sequence of each type; a collective that is live, of another generation
and not there; a remote command's record; a REMOTE_OP and a COLLECTIVE that start. -/
theorem witness_StreamsAndCollectives :
    (∀ m r, Heads (arrived (.fletus (stream m 1 r))) 7 (.fletus (stream m 1 r)) (rxOf (.fletus (stream m 1 r))) 3) ∧
    (let p := stream dataMsg 1
     p.seq ≠ (((arrived (.fletus p)).streamCommon 3 (rxOf (.fletus p)) p).flow 3 2 true).expect) ∧
    (∃ u, InSequence (arrived (.fletus (stream (.cmd []))) {}) 7 (.cmd []) (rxOf (.fletus (stream (.cmd [])))) 3 u) ∧
    (∃ u, InSequence (arrived (.fletus (stream (.cmdDone [])))
      { waits := [{ rank := 2, q := 5, cmd := 0, tag := 0 }] }) 7 (.cmdDone []) (rxOf (.fletus (stream (.cmdDone [])))) 3 u) ∧
    (∃ u, InSequence (arrived (.fletus (stream dataMsg)) (live 0)) 7 dataMsg (rxOf (.fletus (stream dataMsg))) 3 u) ∧
    (∃ u, InSequence (arrived (.fletus (stream (.record 5 0 shape []))) {}) 7 (.record 5 0 shape [])
      (rxOf (.fletus (stream (.record 5 0 shape [])))) 3 u) ∧
    (let s := { arrived (.fletus (stream dataMsg)) (live 0) with queues := collQueue }.streamCommon 3 (rxOf (.fletus (stream dataMsg))) (stream dataMsg)
     (s.liveColl 3 5).map Coll.use = some 0 ∧ shape.posOf 2 = some 2 ∧ (shape.sent 0 2 1).1 ≤ 0 ∧
      0 + 2 ≤ (shape.sent 0 2 1).1 + (shape.sent 0 2 1).2) ∧
    (let s := { arrived (.fletus (stream dataMsg)) (live 7) with queues := collQueue }.streamCommon 3 (rxOf (.fletus (stream dataMsg))) (stream dataMsg)
     (s.liveColl 3 5).map Coll.use = some 7 ∧ 0 ≠ (s.job 3).nextGen 5) ∧
    (let s := arrived (.fletus (stream dataMsg))
     s.liveColl 3 5 = none ∧ (s.job 3).nextGen 5 = 1 ∧ (s.job 3).heldBytes = 0) ∧
    (let c := cmdOf 0x43 [(0x10, 3), (0x14, 2), (0x18, 0x2000), (0x20, 64)]
     let s := held (slot 3) 5 c
     Starts s 5 0 0x43 c ∧ c.field 0x10 1 < 4 ∧ c.zeroAt [(0x11, 3), (0x21, 31)] = true ∧ c.field 0x20 1 = 64 ∧ c.stalled = none ∧
      3 = s.cmdSlot 5 (c.field 0x10 1) ∧ s.slotOpen 5 3 = true ∧ s.rankGood 3 2 = true ∧ (held (slot 2) 5 c).slotOpen 5 3 = false ∧
      (match s.ctxRead (s.rdmaEngine 5 c.tag) (c.field 0x18 8) (64 * c.field 0x20 1) with
        | (_, .ok _) => true
        | _ => false) = true) ∧
    (let sh : CollShape := { shape with subop := 1 }
     sh.subop = 1 ∧ 0 < sh.count) := by
  unfold Starts
  exact ⟨fun m r => heads_any _, by decide +kernel, inSequence_of _ _ (by decide +kernel), inSequence_of _ _ (by decide +kernel),
    inSequence_of _ _ (by decide +kernel), inSequence_of _ _ (by decide +kernel), by decide +kernel, by decide +kernel,
    by decide +kernel, by decide +kernel, by decide +kernel⟩

end Sys2Proof.Tests
end

