-- ==== Sys2Proof/Tests/WitnessJobs.lean ====
section
/-! SUPPORT. Witnesses for the statements about jobs, the timebase and the sketchbook. -/

-- Theorems one after another: a thread for each would cost more memory than the check allows.
set_option Elab.async false

namespace Sys2Proof.Tests

open Sys2Proof.Machine Sys2Proof.Claims

/-- A JOB_LOAD of job 9 into slot 3: one rank, which is rank 0. -/
def loadCmd : Cmd := cmdOf 0x48 [(0x10, 3), (0x14, 9), (0x20, 0x2000), (0x28, 1)]

def other : State := puts base [(F.netSlotState, 0, 1), (F.netSlotJob, 0, 9)]

def roundOf (k : RoundKind) (parent : Option Nat) (w : NMap Nat) : JobSlot := { round := some { kind := k, parent := parent, waiting := w } }

/-- A load with a bad body, into a slot in use, of a job that another slot has, and a good one; a teardown in each state and its end; a child and a
hold that time out; each launch message and the end of each round; a synchronisation at the servo's bounds, its loss, a split. -/
theorem witness_JobsAndTimebase :
    (Starts (held base 5 loadCmd) 5 0 0x48 loadCmd ∧ 3 = (held base 5 loadCmd).cmdSlot 5 (loadCmd.field 0x10 1) ∧
      (held base 5 loadCmd).loadOk 5 loadCmd = true ∧ loadCmd.stalled = none ∧ (held (slot 1) 5 loadCmd).slotState 3 ≠ 0 ∧
      (held base 5 loadCmd).slotState 3 = 0 ∧ (held base 5 loadCmd).otherSlots 3 = [] ∧ 0 ∈ (held other 5 loadCmd).otherSlots 3 ∧
      (held other 5 loadCmd).rd F.netSlotJob 0 = loadCmd.field 0x14 4 ∧
      (held base 5 loadCmd).loadOk 5 (cmdOf 0x48 [(0x10, 3), (0x28, 262145)]) = false ∧
      (match (held base 5 loadCmd).ctxRead ((held base 5 loadCmd).rdmaEngine 5 0) (loadCmd.field 0x20 8) 16 with
        | (u, .ok img) => u.imageOk 3 0 1 img
        | _ => false) = true) ∧
    (let c := cmdOf 0x4A [(0x10, 3)]
     Starts (held (slot 3) 5 c) 5 0 0x4A c ∧ c.field 0x10 1 < 4 ∧ c.zeroAt [(0x11, 47)] = true ∧ (held (slot 3) 5 c).slotState 3 = 3 ∧
      (held (slot 4) 5 c).slotState 3 = 4) ∧
    (let s : State := { slot 4 with slots := [(3, { teardown := some (5, 0, 10000000) })], now := 10000000 }
     0 < partCount s.mode ∧ 3 = s.netIdx 0 3 ∧ (s.job 3).teardown = some (5, 0, 10000000) ∧ s.slotState 3 = 4 ∧ 10000000 ≤ s.now) ∧
    (let s : State := { slot 1 with slots := [(3, roundOf .prepare none [(2, 7)])], now := 7 }
     (s.job 3).round.any (fun r => decide (r.waiting.get? 2 = some 7)) = true ∧ 7 ≤ s.now ∧ s.slotState 3 = 1 ∧
      (s.job 3).deadline ≤ s.now) ∧
    (∀ m, Heads (arrived (.fletus (stream m))) 7 (.fletus (stream m)) (rxOf (.fletus (stream m))) 3) ∧
    (let s := (slot 2).wr F.netSlotOwnRank 3 33
     ancestorOf 8 2 (s.ownRank 3) = true ∧ s.slotState 3 = 2 ∧ (slot 3).slotState 3 = 3 ∧ (s.job 3).round = none) ∧
    (∀ k ∈ [RoundKind.prepare, .arm], ∀ p ∈ [none, some 2],
      let s : State := { slot 2 with slots := [(3, roundOf k p [])] }
      (s.job 3).round.any (fun r => decide (r.waiting = [] ∧ r.kind = k ∧ r.parent = p)) = true) ∧
    (base.wr F.tbCfgPtpEn 0 1).flag F.tbCfgPtpEn 0 = true ∧
    (let s : State := { base.wr F.tbStatusLocked 0 1 with now := 4000000007, ptp := { last := 7 } }
     s.flag F.tbStatusLocked 0 = true ∧ s.ptp.last + 4000000000 ≤ s.now) ∧
    (∃ r, Writes base (pokeF .portCfg 7 [(F.portCfgSplit, 1)]) .portCfg r ∧ r.n < 8 ∧ r.covers F.portCfgSplit = true) := by
  unfold Starts
  exact ⟨by decide +kernel, by decide +kernel, by decide +kernel, by decide +kernel, fun m => heads_any _, by decide +kernel,
    by decide +kernel, by decide +kernel, by decide +kernel, writes_and (by decide +kernel)⟩

/-- A journal range of 1 GiB in the first far tier; the sketchbook in a mode and a state. -/
def book (mode st : Nat) (k : SkbSt := {}) (m : List Host.Cell := []) : State :=
  { puts base [(F.skbBaseSizeGib, 0, 1), (F.skbBaseBase, 0, 2048), (F.skbCfgMode, 0, mode), (F.skbStatusState, 0, st)] with
    skbs := [(0, k)], mem := m }

/-- A write of SKB.CFG with a mode, which leaves HOST_DATA and STALL_MS at their reset values. -/
def skbWrite (mode release : Nat) : Access := pokeF .skbCfg 0 [(F.skbCfgMode, mode), (F.skbCfgHostData, 1), (F.skbCfgRelease, release),
  (F.skbCfgStallMs, 100)]

def jEntry : JEntry := { kind := 2, digest := false, ctx := 5, seq := 0, time := 0, source := 0, payload := [] }

/-- Memory that holds an entry's kind at the start of the range. -/
def jMem (kind : Nat) : List Host.Cell := if kind = 0 then [] else [(0x020000000000, BitVec.ofNat 8 kind)]

/-- Recording and replaying started and stopped, with and without a range; a flush, a mark, a check in and outside memory; an entry of each kind; a stall
just due. -/
theorem witness_SketchbookRecordsAndReplays :
    (0 < partCount base.mode ∧ 0 = base.skbIdx 0) ∧
    (∃ q, Writes (book 0 0) (skbWrite 1 0) .skbCfg q ∧ q.n = 0 ∧ q.new F.skbCfgHostData = q.was F.skbCfgHostData ∧
      q.new F.skbCfgStallMs = q.was F.skbCfgStallMs ∧ q.was F.skbCfgMode = 0 ∧ q.new F.skbCfgMode = 1 ∧ (book 0 0).skbStartError 0 = 0 ∧
      base.skbStartError 0 ≠ 0) ∧
    (∃ q, Writes (book 1 1) (skbWrite 0 0) .skbCfg q ∧ q.was F.skbCfgMode = 1 ∧ q.new F.skbCfgMode = 0 ∧
      (book 1 1).rd F.skbStatusState q.n = 1 ∧ ((book 1 1).skb 0).buf = []) ∧
    (∃ q, Writes ((book 0 0 {} (jMem 1)).wr F.skbReplayLenBytes 0 64) (skbWrite 2 0) .skbCfg q ∧ q.was F.skbCfgMode = 0 ∧
      q.new F.skbCfgMode = 2 ∧ ((book 0 0 {} (jMem 1)).jRead 0 0).kind = 1 ∧ ((book 0 0).jRead 0 0).kind ≠ 1 ∧
      ((book 0 0 {} (jMem 1)).jRead 0 0).size = 32 ∧
      (book 0 0 {} (jMem 1 ++ [(0x020000000020, 0x0D), (0x020000000028, 1)])).jWellFormed 0 64 2 0 0 = true) ∧
    (∃ q, Writes (book 2 2) (skbWrite 0 0) .skbCfg q ∧ q.was F.skbCfgMode = 2 ∧ q.new F.skbCfgMode = 0) ∧
    (∃ q, Writes (book 0 0) (skbWrite 0 1) .skbCfg q ∧ q.was F.skbCfgMode = 0 ∧ q.new F.skbCfgMode = 0 ∧ q.wrote F.skbCfgRelease = 1) ∧
    (let s := book 1 1 { buf := [jEntry] }
     (s.skb 0).buf = [jEntry] ∧ s.rd F.skbWrittenBytes 0 + jEntry.size < 2 ^ 64 ∧ s.rd F.skbNextSeqSeq 0 + 1 < 2 ^ 64) ∧
    (∃ q, Writes (book 1 1) (pokeF .skbMark 0 [(F.skbMarkValue, 7)]) .skbMark q ∧ (book 1 1).rd F.skbStatusState q.n = 1 ∧
      ((book 1 1).skb 0).stopping = false) ∧
    (∃ q, Writes (book 1 1) (pokeF .skbCheckAddr 0 [(F.skbCheckAddrAddr, 8)]) .skbCheckAddr q ∧
      (book 1 1).flag F.skbStatusCheckBusy q.n = false) ∧
    (∀ e ∈ [(0x40000000, true), (0x40000008, false), (4, false)],
      ∃ q, Writes (book 1 1) (pokeF .skbCheckLen 0 [(F.skbCheckLenLength, e.1)]) .skbCheckLen q ∧ q.wrote F.skbCheckLenLength = e.1 ∧
      decide (e.1 % 8 = 0 ∧ e.1 ≤ 0x40000000 ∧ (book 1 1).rangeInMemory 0 0 e.1 = true) = e.2 ∧ (book 1 1).openCmds 0 = []) ∧
    (∀ st ∈ [2, 3], ∃ q, Writes (book 2 st) (pokeF .skbPauseSeq 0 [(F.skbPauseSeqSeq, 9)]) .skbPauseSeq q ∧
      (book 2 st).rd F.skbStatusState q.n = st) ∧
    (∀ k ∈ [2, 3, 5, 6, 7, 8, 10, 11], let s := (book 2 2 {} (jMem k)).wr F.skbReplayLenBytes 0 32
     s.rd F.skbStatusState 0 = 2 ∧ s.rd F.skbWrittenBytes 0 < s.rd F.skbReplayLenBytes 0 ∧ (s.jRead 0 (s.rd F.skbWrittenBytes 0)).kind = k ∧
      (s.queue (firstQueue s.mode 0 + (s.jRead 0 0).source)).cmds.length < 256 ∧ s.partInflight 0 < 16384 ∧
      (s.wr F.qpStatusState 0 1).rd F.qpStatusState (firstQueue s.mode 0 + (s.jRead 0 0).source) = 1) ∧
    (let s : State := { book 2 2 { lastUse := 3 } with now := 100000003 }
     s.rd F.skbStatusState 0 = 2 ∧ (s.skb 0).lastUse + s.rd F.skbCfgStallMs 0 * 1000000 ≤ s.now) := by
  refine ⟨by decide +kernel, writes_and (by decide +kernel), writes_and (by decide +kernel), writes_and (by decide +kernel),
    writes_and (by decide +kernel), writes_and (by decide +kernel), by decide +kernel, writes_and (by decide +kernel),
    writes_and (by decide +kernel), ?_, ?_, by decide +kernel, by decide +kernel⟩
  · intro e he
    simp only [List.mem_cons, List.not_mem_nil, or_false] at he
    rcases he with rfl | rfl | rfl <;> exact writes_and (by decide +kernel)
  · intro st he
    simp only [List.mem_cons, List.not_mem_nil, or_false] at he
    rcases he with rfl | rfl <;> exact writes_and (by decide +kernel)

end Sys2Proof.Tests
end

