-- ==== Sys2Proof/Tests/WitnessKwaok.lean ====
section
/-! SUPPORT. Witnesses for the statements about Kwaok instructions: states and operands that meet their hypotheses. -/

-- Theorems one after another: a thread for each would cost more memory than the check allows.
set_option Elab.async false

namespace Sys2Proof.Tests

open Sys2Proof.Machine Sys2Proof.Claims

/-- A pair of the highest registers of the task, an immediate, and both signs. -/
theorem witness_IntegerArithmeticResults :
    (∃ r u, IntExecutes running (issue 62 0 0 0 (mod := 0x10)) (.reg 64) .none .none false false r u) ∧
    (∃ r u, IntExecutes running (issue 63 0 0 0 (ext := some 0x8000FFFFFFFF)) (.reg 32) (.reg 32) .none true false r u) ∧
    (∃ r u, IntExecutes running (issue 255 63 62 0 (mod := 0x20)) (.reg 32) (.reg 32) .none true true r u) ∧
    (∃ r u, IntExecutes running (issue 0 1 2 3) (.reg 32) (.reg 32) (.reg 32) true false r u) :=
  ⟨executes_plain (by decide +kernel), executes_plain (by decide +kernel), executes_plain (by decide +kernel),
    executes_plain (by decide +kernel)⟩

theorem witness_IntegerLogicResults :
    (∃ r u, IntExecutes running (issue 63 62 61 0) (.reg 32) (.reg 32) .none true false r u) ∧
    (∃ r u, IntExecutes running (issue 62 60 0 0 (mod := 0x10)) (.reg 64) .none .none false false r u) ∧
    (∃ r u, IntExecutes running (issue 1 2 3 4 (mod := 0x20)) (.reg 32) (.reg 32) (.reg 32) true true r u) :=
  ⟨executes_plain (by decide +kernel), executes_plain (by decide +kernel), executes_plain (by decide +kernel)⟩

/-- sel with a vector and with a uniform result, cmp and pop with the last predicate and condition. -/
theorem witness_PredicateInstructions :
    (∃ r u, IntExecutes running (issue 1 2 3 7) (.reg 32) (.reg 32) .pred true false r u ∧ (issue 1 2 3 7).kd = false) ∧
    (∃ r u, IntExecutes running (issue 1 2 3 0 (mod := 7)) (.reg 32) (.reg 32) .pred true false r u ∧ (issue 1 2 3 0 (mod := 7)).kd = true) ∧
    (let x := issue 7 2 3 0 (mod := 5 * 64)
     ∃ r u, Executes running x (x.regs .pred (.reg x.w) (.reg x.w) .none)
      (fun r => x.fieldsBad r.k.desc.regs .pred (.reg x.w) (.reg x.w) .none ++ x.intBad true true ++ [(55, decide (5 < x.cc))]
        ++ x.extBad r.k.desc.regs true false true false 0) r u) ∧
    (let x := issue 6 7 0 0 (mod := 3 * 64)
     ∃ r u, Executes running x []
      (fun r => x.fieldsBad r.k.desc.regs .pred .pred .pred .none ++ x.intBad false true
        ++ [(53, decide (x.w = 64)), (55, decide (3 < x.cc))] ++ x.extBad r.k.desc.regs true false false false 0) r u) :=
  ⟨executes_and (by decide +kernel), executes_and (by decide +kernel), executes_plain (by decide +kernel), executes_plain (by decide +kernel)⟩

theorem witness_LaneExchange :
    (let x := issue 1 2 3 0 (mod := 3 * 64)
     ∃ r u, Executes running x (x.regs (.reg x.w) (.reg x.w) (.reg 32) .none)
        (fun r => x.fieldsBad r.k.desc.regs (.reg x.w) (.reg x.w) (.reg 32) .none ++ x.intBad false true
          ++ [(55, decide (3 < x.cc))] ++ x.extBad r.k.desc.regs true false true false 0) r u) ∧
    (let x := issue 63 7 0 0 (mod := 1)
     ∃ r u, Executes running x (x.regs (.reg 32) .pred .none .none)
        (fun r => x.fieldsBad r.k.desc.regs (.reg 32) .pred .none .none ++ x.intBad false false
          ++ [(53, decide (x.w = 64))] ++ x.extBad r.k.desc.regs true false false false 0) r u) :=
  ⟨executes_plain (by decide +kernel), executes_plain (by decide +kernel)⟩

/-- The four formats: FP64 (code 0) to BF16 (code 3). -/
theorem witness_FloatArithmeticResults :
    (∃ r u, FpExecutes running (issue 2 4 6 0) (.reg 64) (.reg 64) .none true true false r u) ∧
    (∃ r u, FpExecutes running (issue 1 2 3 4 (mod := 0x10)) (.reg 32) (.reg 32) (.reg 32) true true false r u) ∧
    (∃ r u, FpExecutes running (issue 1 2 0 0 (mod := 0x20)) (.reg 32) .none .none false true false r u) ∧
    (∃ r u, FpExecutes running (issue 1 2 3 0 (mod := 0x30)) (.reg 32) (.reg 32) .none true false false r u) ∧
    (∃ r u, FpExecutes running (issue 1 2 0 0 (mod := 0x30)) (.reg 32) .none .none false false false r u) :=
  ⟨executes_plain (by decide +kernel), executes_plain (by decide +kernel), executes_plain (by decide +kernel),
    executes_plain (by decide +kernel), executes_plain (by decide +kernel)⟩

theorem witness_FunctionUnitResults :
    ∃ r u, FpExecutes running (issue 1 2 0 0 (mod := 0x10)) (.reg 32) .none .none false false true r u :=
  executes_plain (by decide +kernel)

/-- The last condition of fp.cmp; an unsigned pair from and to FP32; FP32 at no offset into the upper half of FP16. -/
theorem witness_FloatCompareAndConvert :
    (let x := issue 6 2 3 7 (mod := 0x10)
     ∃ r u, Executes running x (x.regs .pred (.reg x.fw) (.reg x.fw) .none)
        (fun r => x.fieldsBad r.k.desc.regs .pred (.reg x.fw) (.reg x.fw) (.raw (decide (x.c ≤ 7))) ++ x.fpBad r.k false
          ++ x.extBad r.k.desc.regs true false true false 0) r u) ∧
    (let x := issue 1 2 0 0 (mod := 0x20)
     ∃ r u, Executes running x (x.regs (.reg 32) (.reg x.fw) .none .none)
        (fun r => x.fieldsBad r.k.desc.regs (.reg 32) (.reg x.fw) .none .none ++ x.fpBad r.k false
          ++ x.extBad r.k.desc.regs true false false false 0) r u) ∧
    (let x := issue 1 2 0 1 (mod := 0x10)
     ∃ r u, Executes running x (x.regs (.reg x.fw) (.reg x.intW) .none .none ++ x.srRegs)
        (fun r => x.fieldsBad r.k.desc.regs (.reg x.fw) (.reg x.intW) .none (.raw (decide (x.c < 4))) ++ x.fpBad r.k false
          ++ x.extBad r.k.desc.regs true false false true 0) r u) ∧
    (let x := issue 2 1 0 3 (mod := 0x10)
     ∃ r u, Executes running x (x.regs (.reg x.intW) (.reg x.fw) .none .none ++ x.srRegs)
        (fun r => x.fieldsBad r.k.desc.regs (.reg x.intW) (.reg x.fw) .none (.raw (decide (x.c < 4))) ++ x.fpBad r.k false
          ++ x.extBad r.k.desc.regs true false false true 0) r u) ∧
    (let x := issue 1 2 0 0 (ext := some 0x0821000000000000)
     ∃ fs fd, Format.ofCode (x.e 51 48) = some fs ∧ Format.ofCode (x.e 55 52) = some fd ∧
      ∃ r u, Executes running x (x.regs (.reg fd.regWidth) (.reg fs.regWidth) .none .none ++ x.srRegs
          ++ (if x.m 59 59 = 1 then [(true, x.c)] else []))
        (fun r => x.fieldsBad r.k.desc.regs (.reg fd.regWidth) (.reg fs.regWidth) .none
            (if x.m 59 59 = 1 then .raw (decide (x.c < 64)) else .none)
          ++ [(12, x.ext.isNone), (53, (r.k.rm (x.m 55 53)).isNone), (56, (r.k.subn (x.m 58 56)).isNone),
              (60, decide (x.m 63 60 ≠ 0)), (120, decide (fs.perReg ≤ x.e 58 56)), (123, decide (fd.perReg ≤ x.e 61 59)),
              (126, decide (x.e 63 62 ≠ 0))]
          ++ x.extBad r.k.desc.regs true false false true 16) r u) :=
  ⟨executes_plain (by decide +kernel), executes_plain (by decide +kernel), executes_plain (by decide +kernel),
    executes_plain (by decide +kernel), .fp32, .fp16, by decide, by decide, executes_plain (by decide +kernel)⟩

/-- Special values of FP32: a signalling and a quiet NaN, the infinities, zeros, a negative number, a sum that cancels. -/
theorem witness_FloatSpecialsAndSelection :
    let v := fun (n : Nat) => (Format.fp32.read {} n).1
    (v 0x7F800001).isSnan = true ∧ (v 0x7FC00000).isNan = true ∧ (v 0x7FC00000).isSnan = false ∧
    v 0x7F800000 = .inf false ∧ v 0xFF800000 = .inf true ∧ (v 0x80000000).isZero = true ∧ (v 0).isZero = true ∧
    ((v 0xBF800000).neg? = true ∧ (v 0xBF800000).isZero = false ∧ (v 0xBF800000).isNan = false ∧ (v 0xBF800000).isInf = false) ∧
    (∃ m e, v 0x3F800000 = .num false m e false ∧ v 0xBF800000 = .num true m e false) ∧
    (v 0x80000000).less true (v 0) = true ∧ (v 0).less true (v 0x3F800000) = true :=
  ⟨by decide +kernel, by decide +kernel, by decide +kernel, by decide +kernel, by decide +kernel, by decide +kernel, by decide +kernel,
    by decide +kernel, ⟨_, _, by rfl, by decide +kernel⟩, by decide +kernel, by decide +kernel⟩

/-- A nop and a word of a reserved opcode; a branch back; a call; jumps to an aligned and to a misaligned target. -/
theorem witness_ControlTransfers :
    (let x := issue 0 0 0 0
     x.reserved = none ∧ ∃ r u, Executes running x [] (fun _ => x.ctlBad false false false false) r u) ∧
    (let x := { issue 0 0 0 0 with reserved := some 4 }
     x.reserved = some 4 ∧ ∃ r u, Executes running x [] (fun _ => []) r u) ∧
    (let x := issue 255 255 255 255
     ∃ r u, Executes running x [] (fun _ => x.ctlBad true true true true) r u) ∧
    (let x := issue 62 0 0 0 (ext := some 0xFFFFFFFF)
     ∃ r u, Executes running x (operandRegs false x.d 64)
        (fun r => [(12, x.ext.isNone), (17, !regLegal false x.d 64 r.k.desc.regs), (25, decide (x.a ≠ 0)), (33, decide (x.b ≠ 0)),
          (41, decide (x.c ≠ 0))] ++ x.modBad ++ x.extBad r.k.desc.regs true true false false 0) r u) ∧
    (let x := issue 0 62 0 0
     ∀ g ∈ [group, { group with v := [(62, 4)] }],
     ∃ r u, Executes (running g) x (operandRegs (decide (x.m 50 50 = 1)) x.a 64)
        (fun r => [(12, x.ext.isSome), (17, decide (x.d ≠ 0)), (25, !regLegal (decide (x.m 50 50 = 1)) x.a 64 r.k.desc.regs),
          (33, decide (x.b ≠ 0)), (41, decide (x.c ≠ 0)), (49, decide (x.m 49 49 ≠ 0)), (51, decide (x.m 63 51 ≠ 0))]) r u ∧
      if g = group then ∀ l ∈ r.exec, r.g.src (decide (x.m 50 50 = 1)) l x.a 64 % 8 = 0
      else ∃ l ∈ r.exec, r.g.src (decide (x.m 50 50 = 1)) l x.a 64 % 8 ≠ 0) := by
  refine ⟨⟨rfl, executes_plain (by decide +kernel)⟩, ⟨rfl, executes_plain (by decide +kernel)⟩, executes_plain (by decide +kernel),
    executes_plain (by decide +kernel), ?_⟩
  intro x g hg
  simp only [List.mem_cons, List.not_mem_nil, or_false] at hg
  rcases hg with rfl | rfl
  · exact executes_and (by decide +kernel)
  · exact executes_and (by decide +kernel)

/-- A converge; traps with and without executing threads; a group of which every lane is held. -/
theorem witness_HoldEndAndTrap :
    (let x := issue 0 0 0 0
     ∃ r u, Executes running x [] (fun _ => x.ctlBad false false false false) r u) ∧
    (let x := idle 1 0 0 0
     ∃ r u, Executes running x [] (fun _ => x.ctlBad true true false false) r u ∧ r.exec = []) ∧
    (let x := issue 255 255 0 0
     ∃ r u, Executes running x [] (fun _ => x.ctlBad true true false false) r u ∧ r.exec ≠ []) ∧
    (let g : Group := { group with stats := List.replicate 32 .held }
     let s := running g
     s.running? 0 = some (0, task) ∧ (s.core 0).groups.get? 0 = some g ∧ g.gstate = .live ∧ g.fence = none ∧ task.phase = .running ∧
      s.partLive 0 = true ∧ 0 ∉ s.stopped ∧ (∀ l < 32, g.stat l ≠ .run) ∧ g.stat 31 = .held ∧
      (∀ l < 32, g.stat l = .held → (g.pc 31).toNat ≤ (g.pc l).toNat)) :=
  ⟨executes_plain (by decide +kernel), executes_and (by decide +kernel), executes_and (by decide +kernel),
    by decide +kernel, by decide +kernel, rfl, rfl, rfl, by decide +kernel, by decide +kernel, by decide +kernel, by decide +kernel,
    by decide +kernel⟩

/-- Barrier 15, in a group with nothing outstanding; the workgroup of a single group completes the phase, so no deadlock remains. -/
theorem witness_BarrierInstructions :
    let x := issue 0 15 0 0
    ∃ r u, Executes running x [] (fun _ => x.ctlBad false true false false ++ [(25, decide (15 < x.a))]) r u ∧
      (running.core x.core).performed x.pos = true ∧
      ∀ e ∈ deadlockedGroups ((((u.issued x r group).settleBarriers x.core r.g.slot 4).core x.core).slotGroups r.g.slot), e.1 ≠ x.pos :=
  executes_and (by decide +kernel)

theorem witness_Promotions :
    (let g : Group := { group with readySteps := 256, passed := [(31, 16)] }
     ((running g).core 0).groups.get? 0 = some g ∧ g.looksReady = true ∧ 256 ≤ g.readySteps ∧ 16 ≤ g.passed.getD 31 0) := by
  decide +kernel

end Sys2Proof.Tests
end

