-- ==== Sys2Proof/Tests/WitnessMemory.lean ====
section
/-! SUPPORT. Witnesses for the statements about memory instructions, the matrix unit, tile movers and counters. -/

-- Theorems one after another: a thread for each would cost more memory than the check allows.
set_option Elab.async false

namespace Sys2Proof.Tests

open Sys2Proof.Machine Sys2Proof.Claims

/-- An access executes and its lanes go to memory. -/
theorem executes_goes {s : State} {x : Issue} {regs : List (Bool × Nat)} {bad : Ready → List Bad} (op : Ready → MemOp) (n : Nat)
    (h : runs s x regs bad (fun r u => decide ((op r).lanes ≠ [] ∧ (∀ l ∈ (op r).lanes, l.addr.toNat % n = 0) ∧
      (u.core x.core).blocks (op r) (u.resolve x.core r.k.ctx (op r)).2 (u.core x.core).nextId = false ∧
      (u.core x.core).txnOcc x.core + (op r).need (u.resolve x.core r.k.ctx (op r)).2 ≤ 256)) = true) :
    ∃ r u w rs, Executes s x regs bad r u ∧ Aligned (op r) n ∧ GoesGlobal u x r (op r) rs w := by
  obtain ⟨r, u, h, h1, h2, h3, h4⟩ := executes_and h
  exact ⟨r, u, _, _, h, h2, h1, rfl, h3, h4⟩

theorem witness_GlobalMemoryInstructions :
    (let x := issue 1 2 0 0 (mod := 128)
     x.space = 0 ∧ ∃ r u w rs, Executes running x (x.regs (.reg x.dataWidth) (.reg x.baseWidth) .none .none) (fun r => x.ldBad r.k.desc.regs)
      r u ∧ Aligned (x.memOp r .load (2 ^ x.memSize) true) 4 ∧ GoesGlobal u x r (x.memOp r .load (2 ^ x.memSize) true) rs w) ∧
    (let x := issue 0 2 4 0 (mod := 256)
     x.space = 0 ∧ ∃ r u w rs, Executes running x (x.regs .none (.reg x.baseWidth) (.reg x.dataWidth) .none)
        (fun r => x.fieldsBad r.k.desc.regs .none (.reg x.baseWidth) (.reg x.dataWidth) .none
          ++ x.memBad r.k.desc.regs true (decide (x.memSize ≤ 4)) false true) r u ∧
      Aligned (x.memOp r .store (2 ^ x.memSize) false) 16 ∧ GoesGlobal u x r (x.memOp r .store (2 ^ x.memSize) false) rs w) ∧
    (let x := issue 1 2 4 0 (mod := 128)
     x.space = 0 ∧ ∃ r u w rs, Executes running x (x.regs (x.atomDest x.dataWidth) (.reg x.baseWidth) (.reg x.dataWidth) .none)
        (fun r => x.fieldsBad r.k.desc.regs (x.atomDest x.dataWidth) (.reg x.baseWidth) (.reg x.dataWidth) .none
          ++ x.memBad r.k.desc.regs true (decide (x.memSize = 2 ∨ x.memSize = 3)) false true) r u ∧
      Aligned (x.memOp r (.atomic .add) (2 ^ x.memSize) true) 4 ∧ GoesGlobal u x r (x.memOp r (.atomic .add) (2 ^ x.memSize) true) rs w) ∧
    (let x := issue 6 2 4 8 (mod := 192)
     x.space = 0 ∧ ∃ r u w rs, Executes running x (x.regs (x.atomDest x.dataWidth) (.reg x.baseWidth) (.reg x.dataWidth) (.reg x.dataWidth))
        (fun r => x.fieldsBad r.k.desc.regs (x.atomDest x.dataWidth) (.reg x.baseWidth) (.reg x.dataWidth) (.reg x.dataWidth)
          ++ x.memBad r.k.desc.regs true (decide (x.memSize = 2 ∨ x.memSize = 3)) false true) r u ∧
      Aligned (x.memOp r (.atomic .cas) (2 ^ x.memSize) true) 8 ∧ GoesGlobal u x r (x.memOp r (.atomic .cas) (2 ^ x.memSize) true) rs w) ∧
    (let x := issue 255 2 4 0 (mod := 256)
     x.space = 0 ∧ ∃ r u w rs, Executes running x (x.regs (x.atomDest 128) (.reg x.baseWidth) (.reg 128) .none)
        (fun r => x.fieldsBad r.k.desc.regs (x.atomDest 128) (.reg x.baseWidth) (.reg 128) .none
          ++ x.memBad r.k.desc.regs true (decide (x.memSize = 4)) false true) r u ∧
      Aligned (x.memOp r .exact 16 true) 16 ∧ GoesGlobal u x r (x.memOp r .exact 16 true) rs w) ∧
    (let x := issue 255 2 4 0
     let len := fun (u : State) (o : Nat) => ((AccClass.ofCode (((u.core x.core).slm.getD o 0).toNat)).map AccClass.slotBytes).getD 8
     let op' := fun (r : Ready) (u : State) => { x.memOp r .longForm 4 false with lanes := (x.memOp r .longForm 4 false).lanes.map (fun l =>
       { l with data := leNat ((u.core x.core).slmBytes l.data (len u l.data)), cmp := len u l.data }) }
     x.space = 0 ∧ ∃ r u w rs, Executes running x (x.regs .none (.reg x.baseWidth) (.reg 32) .none)
        (fun r => x.fieldsBad r.k.desc.regs (.raw (decide (x.d = 255))) (.reg x.baseWidth) (.reg 32) .none
          ++ x.memBad r.k.desc.regs true (decide (x.memSize = 0)) false true) r u ∧
      Aligned (x.memOp r .longForm 4 false) 8 ∧
      (∀ l ∈ (x.memOp r .longForm 4 false).lanes, l.data % 8 = 0 ∧ r.slmRange.1 ≤ l.data ∧ l.data + len u l.data ≤ r.slmRange.2
        ∧ (u.core x.core).slmBad l.data (len u l.data) = false) ∧
      GoesGlobal u x r (op' r u) rs w) := by
  refine ⟨⟨rfl, executes_goes _ _ (by decide +kernel)⟩, ⟨rfl, executes_goes _ _ (by decide +kernel)⟩,
    ⟨rfl, executes_goes _ _ (by decide +kernel)⟩, ⟨rfl, executes_goes _ _ (by decide +kernel)⟩, ⟨rfl, executes_goes _ _ (by decide +kernel)⟩, ?_⟩
  intro x len op'
  refine ⟨show (issue 255 2 4 0).space = 0 from rfl, ?_⟩
  obtain ⟨r, u, h, h1, h2, h3, h4, h5⟩ := executes_and (s := running) (x := x)
    (regs := x.regs .none (.reg x.baseWidth) (.reg 32) .none)
    (bad := fun r => x.fieldsBad r.k.desc.regs (.raw (decide (x.d = 255))) (.reg x.baseWidth) (.reg 32) .none
          ++ x.memBad r.k.desc.regs true (decide (x.memSize = 0)) false true)
    (P := fun r u => (∀ l ∈ (x.memOp r .longForm 4 false).lanes, l.addr.toNat % 8 = 0) ∧
      (∀ l ∈ (x.memOp r .longForm 4 false).lanes, l.data % 8 = 0 ∧ r.slmRange.1 ≤ l.data ∧ l.data + len u l.data ≤ r.slmRange.2
        ∧ (u.core x.core).slmBad l.data (len u l.data) = false) ∧
      (op' r u).lanes ≠ [] ∧ (u.core x.core).blocks (op' r u) (u.resolve x.core r.k.ctx (op' r u)).2 (u.core x.core).nextId = false ∧
      (u.core x.core).txnOcc x.core + (op' r u).need (u.resolve x.core r.k.ctx (op' r u)).2 ≤ 256)
    (by decide +kernel)
  exact ⟨r, u, _, _, h, h1, h2, h3, rfl, h4, h5⟩

/-- Loads of shared memory in the last word of the slot and of argument space past the arguments; a misaligned access; one past the slot;
a store; a fence; a guarded fence. -/
theorem witness_SharedMemoryAndFences :
    (let x := issue 1 2 0 0 (mod := 128 + 16) (ext := some 8188)
     x.space = 1 ∧ ∃ r u, Executes running x (x.regs (.reg x.dataWidth) (.reg x.baseWidth) .none .none) (fun r => x.ldBad r.k.desc.regs) r u ∧
      (∀ l ∈ (x.memOp r .load 4 true).lanes, l.addr.toNat % 4 = 0) ∧
      (∀ l ∈ (x.memOp r .load 4 true).lanes, r.slmRange.1 ≤ l.addr.toNat ∧ l.addr.toNat + 4 ≤ r.slmRange.2) ∧
      ∀ l ∈ (x.memOp r .load 4 true).lanes, (u.core x.core).slmBad l.addr.toNat 4 = false) ∧
    (let x := issue 1 2 0 0 (mod := 128 + 32) (ext := some 16)
     x.space = 2 ∧ ∃ r u, Executes running x (x.regs (.reg x.dataWidth) (.reg x.baseWidth) .none .none) (fun r => x.ldBad r.k.desc.regs) r u ∧
      ∀ l ∈ (x.memOp r .load 4 true).lanes, l.addr.toNat % 4 = 0) ∧
    (let x := issue 1 2 0 0 (mod := 128 + 16) (ext := some 2)
     ∃ r u, Executes running x (x.regs (.reg x.dataWidth) (.reg x.baseWidth) .none .none) (fun r => x.ldBad r.k.desc.regs) r u ∧
      ((x.memOp r .load 4 true).lanes.find? (fun l => decide (l.addr.toNat % 4 ≠ 0))).isSome = true) ∧
    (let x := issue 1 2 0 0 (mod := 128 + 16) (ext := some 8192)
     x.space = 1 ∧ ∃ r u, Executes running x (x.regs (.reg x.dataWidth) (.reg x.baseWidth) .none .none) (fun r => x.ldBad r.k.desc.regs) r u ∧
      (∀ l ∈ (x.memOp r .load 4 true).lanes, l.addr.toNat % 4 = 0) ∧
      ((x.memOp r .load 4 true).lanes.find? (fun l => decide (l.addr.toNat < r.slmRange.1) || decide (r.slmRange.2 < l.addr.toNat + 4))).isSome
        = true) ∧
    (let x := issue 0 2 1 0 (mod := 128 + 16) (ext := some 8188)
     x.space = 1 ∧ ∃ r u, Executes running x (x.regs .none (.reg x.baseWidth) (.reg x.dataWidth) .none)
         (fun r => x.fieldsBad r.k.desc.regs .none (.reg x.baseWidth) (.reg x.dataWidth) .none
           ++ x.memBad r.k.desc.regs true (decide (x.memSize ≤ 4)) false (decide (x.space = 0))) r u ∧
      (∀ l ∈ (x.memOp r .store 4 false).lanes, l.addr.toNat % 4 = 0) ∧
      (∀ l ∈ (x.memOp r .store 4 false).lanes, r.slmRange.1 ≤ l.addr.toNat ∧ l.addr.toNat + 4 ≤ r.slmRange.2) ∧
      ∀ l ∈ (x.memOp r .store 4 false).lanes, (u.core x.core).staging r.k.desc.layout x.pos l.addr.toNat 4 = false) ∧
    (let x := issue 0 0 0 0
     ∃ r u, Executes running x [] (fun _ => x.ctlBad false false false false) r u ∧ r.exec ≠ []) ∧
    (let x := idle 0 0 0 0
     ∃ r u, Executes running x [] (fun _ => x.ctlBad false false false false) r u ∧ r.exec = []) :=
  ⟨⟨rfl, executes_and (by decide +kernel)⟩, ⟨rfl, executes_and (by decide +kernel)⟩, executes_and (by decide +kernel),
    ⟨rfl, executes_and (by decide +kernel)⟩, ⟨rfl, executes_and (by decide +kernel)⟩, executes_and (by decide +kernel),
    executes_and (by decide +kernel)⟩

/-- A load's registers and a refill on their way; an exact-cell add in the last cell of a block; a long-form add whose slot is in one piece. -/
theorem witness_MemoryCompletions :
    let txn := fun (k : TxnKind) => ({ id := 5, ctx := 0, task := 0, pos := 0, pc := 0x1000, mask := 1, kind := k } : Txn)
    let st := fun (k : TxnKind) => running (x := { core with txns := [txn k] })
    (∃ k, k = TxnKind.load [⟨0, 1, 7⟩] false [{ line := 3, data := List.replicate 128 0, poison := 0 }] ∧
      ((st k).core 0).txns.find? (fun t => decide (t.id = 5)) = some (txn k)) ∧
    (∃ k, k = TxnKind.exact 0x30 (2 ^ 128 - 1) none 0x30 ∧ ((st k).core 0).txns.find? (fun t => decide (t.id = 5)) = some (txn k) ∧
      ((st k).core 0).addReady (txn k) = true ∧ ((st k).ncAtomic ((((st k).paKind 0x30).region?).getD 0) 1).poisoned 0x30 16 = false) ∧
    (∃ k, k = TxnKind.longForm [(0x40, 32)] (leBytes 32 0) 0x40 ∧ ((st k).core 0).txns.find? (fun t => decide (t.id = 5)) = some (txn k) ∧
      ((st k).core 0).addReady (txn k) = true ∧ ((st k).ncAtomic ((((st k).paKind 0x40).region?).getD 0) 2).poisoned 0x40 32 = false) :=
  ⟨⟨_, rfl, by decide +kernel⟩, ⟨_, rfl, by decide +kernel, by decide +kernel, by decide +kernel⟩,
    ⟨_, rfl, by decide +kernel, by decide +kernel, by decide +kernel⟩⟩

theorem witness_AtomicOperations : base.poisoned 0x017FFFFFFFFC 4 = false ∧ base.poisoned 0x1000 8 = false := by decide +kernel

theorem witness_MemoryWriteReadBack : ∀ b ∈ blocksOf 31 34, ∀ k, (base.paKind (b * 32)).stack? = some k → base.stackOffline k = false := by
  intro b _ k _; rfl

/-- mx.mma of FP32 tiles in the last 4 KiB of the slot, mx.ldlf at its start, mx.drain of one element to shared memory, and mx.zero of a
whole group and of one of which half stands elsewhere. -/
theorem witness_MatrixIssue :
    let k : Task := { task with desc := { desc with layout := 1 } }
    (let x := issue 1 0 1 1 (mod := 32 + 512)
     let s := running { group with u := [(0, 0x1000), (1, 0x1000)] } k
     ∃ r u, Executes s x (mxSrcRegs x.sa x.a ++ mxSrcRegs x.sb x.b) (fun r => x.mmaBad r.k.desc.regs r.k.desc.layout) r u ∧
      x.mmaA = some .fp32 ∧ x.mmaB = some .fp32 ∧ r.set.length = 32 ∧ (u.core x.core).slotCount x.d = some 0 ∧
      0 + x.c ≤ (layoutClass r.k.desc.layout).capacity ∧ (u.core x.core).mxq.length < 4 ∧
      (∀ n ∈ [r.g.readU x.a % 2 ^ 18, r.g.readU x.b % 2 ^ 18], n % 256 = 0 ∧ r.slmRange.1 ≤ n ∧
        n + (layoutClass r.k.desc.layout).tileBytes .fp32 ((layoutClass r.k.desc.layout).kInst .fp32 .fp32) ≤ r.slmRange.2)) ∧
    (let x := issue 0 0 0 0
     ∃ r u, Executes (running group { k with desc := { k.desc with slmKib := 128 } }) x [(true, x.a)]
        (fun r => x.mxBad 17 x.d r.k.desc.layout
          ++ [(25, decide (64 ≤ x.a)), (33, decide (x.b ≠ 0)), (41, decide (x.c ≠ 0)), (49, decide (x.mod ≠ 0))]) r u ∧
      r.set.length = 32 ∧ (u.core x.core).mxq.length < 4 ∧
      (let n := r.g.readU x.a % 2 ^ 18
       n % 8 = 0 ∧ r.slmRange.1 ≤ n ∧
        n + (layoutClass r.k.desc.layout).dim * (layoutClass r.k.desc.layout).dim * (layoutClass r.k.desc.layout).slotBytes ≤ r.slmRange.2)) ∧
    (let x := issue 0 55 1 1
     let s := running { group with u := [(55, 8188), (56, 2 ^ 40 + 2 ^ 48), (58, 1)] } k
     ∃ r u, Executes s x ((List.range 9).map (fun j => (true, x.a + j)) ++ (if x.drRet then [(true, x.d), (true, x.d + 1)] else []))
        (fun r => x.drainBad r.k.desc.layout) r u ∧
      (let d := x.drainOp r.g r.k
       u.drainBlockBad r.k.ctx d (natBits (r.g.readU (x.a + 1)) 63 56) (layoutClass r.k.desc.layout).dim = none ∧ r.set.length = 32 ∧
       d.outAddr % d.unit = 0 ∧ d.pitch % d.unit = 0 ∧ d.toGlobal = false ∧ r.slmRange.1 ≤ d.outAddr ∧
       d.outAddr + (d.rows - 1) * d.pitch + d.rowBytes (layoutClass r.k.desc.layout) ≤ r.slmRange.2 ∧ (u.core x.core).mxq.length < 4)) ∧
    (let x := issue 1 0 0 0
     ∃ r u, Executes (running group k) x []
        (fun r => x.mxBad 17 x.d r.k.desc.layout
          ++ [(25, decide (x.a ≠ 0)), (33, decide (x.b ≠ 0)), (41, decide (x.c ≠ 0)), (49, decide (x.mod ≠ 0))]) r u ∧
      r.set.length = 32 ∧ ∀ e ∈ (u.core x.core).mxq, e.op.slot ≠ x.d) ∧
    (let x := issue 1 0 0 0
     let s := running { group with pcs := List.replicate 16 0x1000 ++ List.replicate 16 0x2000 } k
     ∃ r u, Executes s x []
        (fun r => x.mxBad 17 x.d r.k.desc.layout
          ++ [(25, decide (x.a ≠ 0)), (33, decide (x.b ≠ 0)), (41, decide (x.c ≠ 0)), (49, decide (x.mod ≠ 0))]) r u ∧ r.set.length < 32) :=
  ⟨executes_and (by decide +kernel), executes_and (by decide +kernel), executes_and (by decide +kernel), executes_and (by decide +kernel),
    executes_and (by decide +kernel)⟩

/-- A queue with a multiply-accumulate of FP16 tiles, a load of long forms, or a drain at its head. -/
theorem witness_MatrixExecution :
    let entry := fun (o : MxOp) => ({ id := 0, ctx := 0, task := 0, pos := 0, pc := 0x1000, op := o } : MxEntry)
    ∀ o ∈ [MxOp.mma 0 16 .fp16 .fp16 (.slm 0) (.slm 2048) false, .ldlf 1 0, .drain ((issue 0 0 0 1).drainOp group task)],
      let s := running (x := { core with mxq := [entry o] })
      (s.core 0).mxq = entry o :: [] ∧ s.task? (entry o).task = some task ∧ 0 ∉ s.stopped ∧ s.partLive task.part = true ∧
        (s.core 0).mxStall = none ∧ ((s.core 0).tile (.slm 0) 2048).isSome = true ∧ ((s.core 0).tile (.slm 2048) 2048).isSome = true := by
  decide +kernel

theorem witness_ExactAccumulationAndRecordMerges :
    List.Perm [(oneVal, oneVal), (Val.zero true, oneVal)] [(Val.zero true, oneVal), (oneVal, oneVal)] ∧ 2 ^ 53 - 1 < 256 ^ 7 ∧ 255 < 256 ^ 1 ∧
    (let s : State := { base with merges := [⟨1, 0, [(0, 512)], ⟨true, true, 0, 1, 9, 4, {}⟩⟩] }
     ∃ m u rec, s.merges[0]? = some m ∧ s.readPieces m.pieces = (u, rec)) ∧
    ((3, 5, 1) : Nat × Nat × Nat).2.2 ≠ 0 :=
  ⟨List.Perm.swap _ _ _, by decide, by decide, ⟨_, _, _, rfl, rfl⟩, by decide⟩

/-- The least value of class N, the largest of class D, and a NaN; a word of every field at its largest value. -/
theorem witness_EncodingsReadBack :
    (∀ l ∈ [({ cls := .n, acc := { v := -2 ^ 191 } } : LongForm), { cls := .d, acc := { v := 2 ^ 4287 - 1 } },
        { cls := .s, acc := { v := 0, side := SideBit.nan } }],
      -2 ^ (64 * l.cls.buckets - 1) ≤ l.acc.v ∧ l.acc.v < 2 ^ (64 * l.cls.buckets - 1) ∧ (Side.has l.acc.side SideBit.nan = true → l.acc.v = 0)) ∧
    (let x : Issue := { core := 0, pos := 0, lane := 0, gp := 7, gn := true, d := 255, a := 255, b := 255, c := 255, mod := 2 ^ 15 - 1,
                        ext := some (2 ^ 64 - 1) }
     ∃ cls op, (Instr.cvt x).kwaok = some (cls, op, x) ∧ x.reserved = none) :=
  ⟨by decide +kernel, _, _, rfl, rfl⟩

/-- The registers of a descriptor of a 1 × 4 tile of FP32 at address 0, into or from the last 16 bytes of the slot. -/
def tileWords (bad toMem : Bool) : NMap Word :=
  [(0, if bad then 8 else 0), (1, 1 + 4 * 2 ^ 32), (3, 16),
    (4, 8176 + 3 * 2 ^ 27 + 16 * 2 ^ 39 + 1 * 2 ^ 56 + (if toMem then 2 ^ 61 else 0))]

/-- A checked descriptor for each mover, one at fault, a guarded tm.copy; a move into shared memory and one to memory. -/
theorem witness_TileMoves :
    (∀ mover ∈ [0, 1], ∀ bad ∈ [false, true],
      let x := issue 0 0 0 0 (mod := mover)
      let s := running { group with u := tileWords bad false }
      ∃ r u, Executes s x ((List.range 6).map (fun j => (true, x.a + j)))
        (fun _ => [(12, x.ext.isSome), (17, decide (x.d ≠ 0)), (25, decide (58 < x.a)), (33, decide (x.b ≠ 0)), (41, decide (x.c ≠ 0)),
          (50, decide (x.m 63 50 ≠ 0))]) r u ∧ r.exec ≠ [] ∧
        (if bad then (tmBad (fun j => r.g.readU (x.a + j))).isSome = true
         else tmBad (fun j => r.g.readU (x.a + j)) = none ∧
          (let d := tmDesc (fun j => r.g.readU (x.a + j)) (u.core x.core).nextId x.pos (laneMask r.set) r.pc
           r.slmRange.1 ≤ d.slm ∧ d.slmEnd ≤ r.slmRange.2) ∧ x.m 49 49 = mover ∧ (u.core x.core).tm0.length < 128 ∧
          (u.core x.core).tm1.length < 128)) ∧
    (let x := idle 0 0 0 0
     ∃ r u, Executes running x ((List.range 6).map (fun j => (true, x.a + j)))
        (fun _ => [(12, x.ext.isSome), (17, decide (x.d ≠ 0)), (25, decide (58 < x.a)), (33, decide (x.b ≠ 0)), (41, decide (x.c ≠ 0)),
          (50, decide (x.m 63 50 ≠ 0))]) r u ∧ r.exec = []) ∧
    (∀ toMem ∈ [false, true],
      let d := tmDesc (fun j => (({ group with u := tileWords false toMem } : Group).readU j)) 0 0 1 0x1000
      let s := running (x := { core with tm1 := [d] })
      d.toMem = toMem ∧ (s.core 0).tm1 = d :: [] ∧ (s.core 0).task.bind s.task? = some task ∧ 0 ∉ s.stopped ∧ s.partLive task.part = true ∧
        (s.core 0).tmStall.has 1 = false ∧ ∃ v pieces, s.allSpans 0 task (if d.toMem then .write else .read) d.ranges = (v, .ok pieces) ∧
        v.hostHolds pieces = false) := by
  refine ⟨?_, executes_and (by decide +kernel), ?_⟩
  · intro mover hm bad hb
    simp only [List.mem_cons, List.not_mem_nil, or_false] at hm hb
    rcases hm with rfl | rfl <;> rcases hb with rfl | rfl <;> exact executes_and (by decide +kernel)
  · intro toMem hb
    simp only [List.mem_cons, List.not_mem_nil, or_false] at hb
    rcases hb with rfl | rfl
    · obtain ⟨v, p, h, hp⟩ := ok_of
        (x := (running (x := { core with tm1 := [tmDesc (fun j => (({ group with u := tileWords false false } : Group).readU j)) 0 0 1 0x1000] })).allSpans
          0 task .read (tmDesc (fun j => (({ group with u := tileWords false false } : Group).readU j)) 0 0 1 0x1000).ranges)
        (fun v p => decide (v.hostHolds p = false)) (by decide +kernel)
      exact ⟨by decide +kernel, rfl, rfl, by decide +kernel, by decide +kernel, rfl, v, p, h, of_decide_eq_true hp⟩
    · obtain ⟨v, p, h, hp⟩ := ok_of
        (x := (running (x := { core with tm1 := [tmDesc (fun j => (({ group with u := tileWords false true } : Group).readU j)) 0 0 1 0x1000] })).allSpans
          0 task .write (tmDesc (fun j => (({ group with u := tileWords false true } : Group).readU j)) 0 0 1 0x1000).ranges)
        (fun v p => decide (v.hostHolds p = false)) (by decide +kernel)
      exact ⟨by decide +kernel, rfl, rfl, by decide +kernel, by decide +kernel, rfl, v, p, h, of_decide_eq_true hp⟩

/-- The region counter 511 is granted to the context: block 7 of region 0. -/
def granted : State := ((running { group with u := [(0, 2 + 511 * 2 ^ 8), (3, 2 ^ 40)] }).wr F.regCntOwnerValid 7 1).wr F.regCntOwnerContext 7 0

/-- An add to the core's last counter, a read and a timed wait on the last region counter, and the first and last system values. -/
theorem witness_CounterInstructionsAndSystem :
    (let x := issue 0 47 1 0
     ∃ r u, (Executes running x (x.cntRegs true) (fun _ => x.cntBad .none true false) r u ∧ r.exec ≠ [] ∧ x.m 49 49 = 0) ∧
      HasRoom u x (.core x.core x.a)) ∧
    (let x := issue 2 0 0 0 (mod := 1)
     ∃ r u, Executes granted x (x.cntRegs false ++ [(true, x.d)]) (fun _ => x.cntBad (.reg 64) false false) r u ∧ r.exec ≠ [] ∧
      x.m 49 49 = 1 ∧ refBad (r.g.readU x.a) false = none ∧ refName (r.g.readU x.a) x.core = .region 0 511 ∧
      u.refFault r.k (.region 0 511) = none ∧ (u.core x.core).txnOcc x.core < 256) ∧
    (let x := issue 6 0 1 3 (mod := 3)
     ∃ r u, Executes granted x (x.cntRegs true) (fun _ => x.cntBad .pred true true) r u ∧ r.exec ≠ [] ∧
      x.m 49 49 = 1 ∧ refBad (r.g.readU x.a) false = none ∧ refName (r.g.readU x.a) x.core = .region 0 511 ∧
      u.refFault r.k (.region 0 511) = none ∧ (u.core x.core).txnOcc x.core < 256 ∧ r.g.wait = none) ∧
    (∀ b ∈ [0, 0x12], let x := issue 1 0 b 0
      (sysSelector x.b).isSome = true ∧ ∃ r u, Executes granted x ((Use.reg 32).regs x.kd x.d)
        (fun r => x.fieldsBad r.k.desc.regs (.reg 32) .none (.raw true) .none ++ [(53, decide (x.m 63 53 ≠ 0)), (12, x.ext.isSome)]) r u ∧
      u.recording r.k.ctx = false ∧ u.replaying r.k.ctx = false ∧ (u.core x.core).groups.get? x.pos = some r.g) := by
  refine ⟨?_, executes_and (by decide +kernel), executes_and (by decide +kernel), ?_⟩
  · obtain ⟨r, u, h, h1, h2⟩ := executes_and (s := running) (x := issue 0 47 1 0) (regs := (issue 0 47 1 0).cntRegs true)
      (bad := fun _ => (issue 0 47 1 0).cntBad .none true false) (P := fun r u => r.exec ≠ [] ∧ (issue 0 47 1 0).m 49 49 = 0)
      (by decide +kernel)
    exact ⟨r, u, ⟨h, h1, h2⟩, fun hr => absurd hr (by decide)⟩
  · intro b hb
    simp only [List.mem_cons, List.not_mem_nil, or_false] at hb
    rcases hb with rfl | rfl
    · exact ⟨rfl, executes_and (by decide +kernel)⟩
    · exact ⟨rfl, executes_and (by decide +kernel)⟩

/-- A flight of each kind that may arrive; waits of a group and of a queue whose deadlines have passed. -/
theorem witness_CountersSaturateAndArbitrate :
    (∀ op ∈ [CtrOp.add (2 ^ 64 - 1), .waitClaim, .read 63], ∀ n ∈ [CtrName.core 0 47, .region 0 511],
      let f : CtrFlight := { id := 9, task := 0, pos := 0, ctr := n, op := op }
      Flies (running (x := { core with flights := [f] })) 0 9 f) ∧
    (let w : CtrWait := { ref := .core 47, len := 8, claim := false, target := 1, deadline := some 5, lanes := 1, pred := 6, arrived := true }
     let s : State := { running { group with wait := some w } with now := 5 }
     (s.core 0).groups.get? 0 = some { group with wait := some w } ∧ w.arrived = true ∧ w.deadline = some 5 ∧ 5 ≤ s.now) ∧
    (let c : Cmd := { seq := 0, header := [4], inlineData := [], phase := .running, waiting := true, deadline := some 5 }
     let s : State := { base with now := 5, queues := [(1, { cmds := [c], nextSeq := 1 })] }
     s.cmd? 1 0 = some c ∧ c.waiting = true ∧ c.deadline = some 5 ∧ 5 ≤ s.now) := by
  unfold Flies
  decide +kernel

theorem witness_WaitEnds :
    let w : CtrWait := { ref := .core 47, len := 16, claim := true, target := 1, deadline := none, lanes := 1, pred := 6, arrived := true }
    let p : Pending := { core := 0, pos := 0, wg := 0, num := 0, w := w }
    let s := running { group with wait := some w }
    s.running? p.core = some (0, task) ∧ ((s.core p.core).groups.get? p.pos).isSome = true ∧ p.w.pred < 8 ∧ s.recording task.ctx = false := by
  decide +kernel

end Sys2Proof.Tests
end

