-- ==== Sys2Proof/Tests/WitnessTasks.lean ====
section
/-! SUPPORT. Witnesses for the statements about counters, tasks, faults, events, firmware, power and repair. -/

-- Theorems one after another: a thread for each would cost more memory than the check allows.
set_option Elab.async false

namespace Sys2Proof.Tests

open Sys2Proof.Machine Sys2Proof.Claims

/-- The last block of region 3 is granted, revoked, granted again to another context while granted, and granted across partitions in quad
mode; a core enters retention after exactly 20,000 ns, and leaves it. -/
theorem witness_CounterBlocksAndRetention :
    (∃ q, Writes base (poke .regCntOwner 31 0x1FFF) .regCntOwner q ∧ q.new F.regCntOwnerValid = 1 ∧ q.was F.regCntOwnerValid = 0 ∧
      partOfCtx base.mode (q.new F.regCntOwnerContext) = partOfRegion base.mode (q.n / 8)) ∧
    (∃ q, Writes (base.wr F.regCntOwnerValid 31 1) (poke .regCntOwner 31 0) .regCntOwner q ∧ q.new F.regCntOwnerValid = 0 ∧
      q.was F.regCntOwnerValid = 1) ∧
    (∃ q, Writes (base.wr F.regCntOwnerValid 31 1) (poke .regCntOwner 31 0x1FFF) .regCntOwner q ∧ q.new F.regCntOwnerValid = 1 ∧
      q.was F.regCntOwnerValid = 1 ∧ q.new F.regCntOwnerContext ≠ q.was F.regCntOwnerContext) ∧
    (∃ q, Writes (base.wr F.devPartCfgMode 0 2) (poke .regCntOwner 31 0x1001) .regCntOwner q ∧ q.new F.regCntOwnerValid = 1 ∧
      partOfCtx (base.wr F.devPartCfgMode 0 2).mode (q.new F.regCntOwnerContext)
        ≠ partOfRegion (base.wr F.devPartCfgMode 0 2).mode (q.n / 8)) ∧
    (let w : CtrWait := { ref := .core 47, len := 8, claim := false, target := 1, deadline := none, lanes := 2 ^ 32 - 1, pred := 6, arrived := true }
     let g : Group := { group with stats := List.replicate 32 .counter, wait := some w }
     let s : State := { running g (x := { core g with idleSince := some 7 }) with now := 20007 }
     (s.core 0).idleSince = some 7 ∧ (s.core 0).retained = false ∧ (s.core 0).idle = true ∧ 7 + 20000 ≤ s.now) ∧
    (let s := running (x := { core with idleSince := some 7, retained := true })
     (s.core 0).idleSince = some 7 ∧ (s.core 0).retained = true ∧ (s.core 0).idle = false) :=
  ⟨writes_and (by decide +kernel), writes_and (by decide +kernel), writes_and (by decide +kernel), writes_and (by decide +kernel),
    by decide +kernel, by decide +kernel⟩

/-- The command of the task, in queue 0. -/
def launchCmd : Cmd := { seq := 3, header := [2], inlineData := [], phase := .running, task := some 0 }

/-- A task bound, begun and dispatched to the last free slot of its core (32 are resident), and one a nanosecond past its time limit. -/
theorem witness_TasksBindBeginDispatch :
    (let k : Task := { task with phase := .accepted, begun := [], nextWg := 0 }
     let s : State := { base with tasks := [(0, k)], queues := [(0, { cmds := [launchCmd], nextSeq := 4 })] }
     s.task? 0 = some k ∧ s.partLive k.part = true ∧ s.taskCmd 0 = some (0, 3) ∧ s.cmd? 0 3 = some launchCmd ∧ launchCmd.phase = .running ∧
      s.schedulerUp k.queue = true ∧ ∀ c ∈ k.cores, s.clusterUp c = true ∧ (s.core c).bound.length < 2) ∧
    (let k : Task := { task with begun := [] }
     let s : State := { base with tasks := [(0, k)], cores := [(0, { bound := [0] })] }
     s.task? 0 = some k ∧ k.phase = .running ∧ 0 ∈ k.cores ∧ 0 ∉ k.begun ∧ 0 ∈ (s.core 0).bound ∧ s.coreFree 0 = true ∧
      s.clusterUp 0 = true ∧ k.saveValid = false) ∧
    (let d : LaunchDesc := { desc with groups := 2, slmKib := 0, gridX := 9 }
     let k : Task := { task with desc := d, nextWg := 8 }
     let x : CoreSt := { core with slots := (List.range 23).map (fun i => (i, { linear := 0 })), groups := [] }
     let s := running group k x
     s.task? 0 = some k ∧ (s.core 0).task = some 0 ∧ 0 ∈ k.begun ∧ 0 ∉ s.stopped ∧ k.nextWg < d.total ∧ d.slmZero = false ∧
      s.rd F.cluCccStatusDispatchPaused (clusterOfCore 0) = 0 ∧ d.resident = 24 ∧ (s.core 0).slots.has 23 = false ∧
      (∀ n < 23, (s.core 0).slots.has n = true) ∧ ((s.core 0).places d.groups).isSome = true) ∧
    (let k : Task := { task with desc := { desc with timeLimit := 10 } }
     let s : State := { running group k with now := 11 }
     s.task? 0 = some k ∧ s.partLive k.part = true ∧ k.phase ≠ .ended ∧ k.desc.timeLimit ≠ 0 ∧ k.accepted + k.desc.timeLimit < s.now ∧
      s.replaying k.ctx = false ∧ s.recording k.ctx = false ∧ ∀ c ∈ k.cores, (s.core c).retained = false) := by
  decide +kernel

/-- A task of context 5 with a save area, quiet on its core; and the same task switched out. -/
theorem witness_ContextsSwitchAndResume :
    (let k : Task := { task with ctx := 5, saveValid := true }
     let s := (running group k).wr F.ctxSaveBaseValid 5 1
     let on := k.cores.filter (fun c => decide ((s.core c).task = some 0))
     s.tasks.find? (fun e => decide (e.2.ctx = 5) && decide (e.2.phase = .running)) = some (0, k) ∧ s.task? 0 = some k ∧ on = [0] ∧
      s.flag F.ctxSaveBaseValid 5 = true ∧ s.partLive k.part = true ∧ s.schedulerUp k.queue = true ∧
      (∀ c ∈ on, s.clusterUp c = true ∧ (s.core c).quiet k.clearMode = true) ∧ on.foldl State.flushFaults s = s) ∧
    (let k : Task := { task with ctx := 5, saveValid := true, phase := .switchedOut }
     let s : State := { base with tasks := [(0, k)], cores := [(0, { bound := [0] })], saved := [(savedKey 5 0, { core := core })] }
     s.tasks.find? (fun e => decide (e.2.ctx = 5) && decide (e.2.phase = .switchedOut)) = some (0, k) ∧ s.partLive k.part = true ∧
      s.schedulerUp k.queue = true ∧ (s.saved.get? (savedKey 5 0)).isSome = true ∧ s.coreFree 0 = true ∧ s.clusterUp 0 = true) := by
  decide +kernel

/-- A fast clamp of exactly 100 ms; a seam in service; a partition that runs, with no key waiting. -/
theorem witness_RegionFaultsStopPartitions :
    (let s : State := { base.wr F.pwrStatusFastClamp 0 1 with now := 100000000, power := { overSince := some 0 } }
     s.flag F.pwrStatusFastClamp = true ∧ s.power.overSince = some 0 ∧ 0 + 100000000 ≤ s.now) ∧
    base.rd F.devSeamStatusSeam3 ≠ 2 ∧ base.partState 0 ≠ 0 ∧ (∀ c ∈ base.sec.keyWaits, c < 4096) := by decide +kernel

theorem witness_CellAndBlockFaults :
    base.vacant 1151 = false ∧ 143 ∉ base.downClusters ∧ base.stackOffline 23 = false ∧
    (let s : State := { base with stopped := [1151] }
     1151 ∈ s.stopped ∧ s.vacant 1151 = false ∧ clusterOfCore 1151 ∉ s.downClusters ∧ s.clusterUp 1151 = true) := by decide +kernel

/-- A deferred fault; READ_COUNT up to and past WRITE_COUNT; a release; a ring that is full and one with room at its last slot. -/
theorem witness_FaultCommandsAndRecords :
    (let f : PendFault := { pos := 0, pc := 0x1000, lanes := 1, code := 0x10, detail := 0, addr := 0 }
     ((running (x := { core with faults := [f] })).core 0).faults[0]? = some f) ∧
    (∃ q, Writes (base.wr F.ctxFaultStatusWriteCount 5 64) (poke .ctxFaultRead 5 64) .ctxFaultRead q ∧ q.n = 5) ∧
    (∃ q, Writes (base.wr F.ctxFaultStatusWriteCount 5 64) (poke .ctxFaultRead 5 65) .ctxFaultRead q ∧ q.n = 5) ∧
    (∃ q, Writes base (poke .ctxFaultPolicy 5 (BitVec.ofNat 64 (2 ^ F.ctxFaultPolicyRelease.lo))) .ctxFaultPolicy q ∧
      q.wrote F.ctxFaultPolicyRelease = 1 ∧ q.new F.ctxFaultPolicyPolicy ≠ 3) ∧
    (let k : Task := { task with ctx := 4095 }
     let used := fun (s : State) => (s.rd F.ctxFaultStatusWriteCount k.ctx + 2 ^ 32 - s.rd F.ctxFaultReadReadCount k.ctx) % 2 ^ 32
     let full := base.wr F.ctxFaultStatusWriteCount 4095 64
     let room := base.wr F.ctxFaultStatusWriteCount 4095 63
     used full = 2 ^ full.rd F.ctxFaultRingLog2Records k.ctx ∧ used room ≠ 2 ^ room.rd F.ctxFaultRingLog2Records k.ctx ∧
      room.rangeInTiers k.part (room.rd F.ctxFaultRingBase k.ctx * 4096) (64 * 64) = true ∧
      ∀ b ∈ blocksOf (63 * 64) 64, (room.paKind (b * 32)).stack?.all (fun n => !room.stackOffline n) = true) :=
  ⟨rfl, writes_and (by decide +kernel), writes_and (by decide +kernel), writes_and (by decide +kernel), by decide +kernel⟩

/-- A record with and without a ring, an uncounted repeat of a burst, a counted row and core event, a queue of one record, a deferred
interrupt. -/
theorem witness_EventLog :
    let e : EvRec := { code := 0x8501, flags := 2, region := 3, unit := 3, ctx := 0xFFFF, time := 5, location := 0, detail := 0 }
    (CountKind.ofCode e.code = none ∧ (base.wr F.regEvtBaseValid 3 1).flag F.regEvtBaseValid 3 = true ∧
      ((base.paKind 0).stack?.all (fun k => !base.stackOffline k)) = true ∧ base.flag F.regEvtBaseValid 3 = false) ∧
    (CountKind.ofCode 0x0110 = some .row ∧ CountKind.ofCode 0x0301 = some .core ∧
      (let s : State := { base with events := [(3, { bursts := [(0, 5)] })] }
       (s.events.getD 3 {}).bursts.get? 0 = some 5)) ∧
    (let s : State := { base with now := 1000007, events := [(3, { queue := [e], deferred := true, lastIrq := some 7 })] }
     s.rd F.regFwStatusSecState 3 = 0 ∧ (s.events.getD 3 {}).queue = [e] ∧ e.code ≠ 0x4420 ∧ (s.events.getD 3 {}).deferred = true ∧
      (s.events.getD 3 {}).lastIrq = some 7 ∧ 7 + 1000000 ≤ s.now) := by decide +kernel

/-- Memory that holds at address 0 the header of a type 0 image of version 0 with an empty body, signed by key slots 0 and 0 (R468). -/
def imageMem : List Host.Cell := [(0, 0x54), (1, 0x49), (2, 0x46), (3, 0x57), (4, 1), (0x19, 0x1D)]

def staging (m : List Host.Cell) (st : Nat) : State := { base.wr F.fwuStatusState 0 st with mem := m }

/-- GO for 8 KiB of an image of type 0. -/
def stageGo : Access := poke .fwuStageCtl 0 0x100000800

def parsed (s : State) (q : RegWriteReq) : Option ImageInfo :=
  parseImage (fun o n => leNat (s.readBytes (s.rd F.fwuStageAddrAddr * 4096 + o) n)) (q.raw.bits 3 0) (q.raw.bits 31 8 * 1024)

/-- First and last watchdogs, a restart; staging while one is in progress, of no image, of an image that fails each check, and of a good one;
its end; a wait of 60 s. -/
theorem witness_FirmwareCoresAndStaging :
    (∀ fw ∈ [0, 11, 16, 159], fwExists fw = true ∧ base.fwState fw = 0 ∧ base.sec.keyWaits = []) ∧
    (let s : State := { base with fwCores := [(11, { expiries := [0, 1, 2] })] }
     ((s.fwCores.getD 11 {}).expiries.filter (fun t => decide (s.now < t + 3600000000000)) ++ [s.now]).length = 4) ∧
    (let s := base.wr F.cluCccStatusState 143 1
     fwExists 159 = true ∧ s.fwState 159 = 1 ∧ s.fwWaits = []) ∧
    (∃ q, Writes (staging imageMem 1) stageGo .fwuStageCtl q ∧ q.wrote F.fwuStageCtlGo = 1 ∧
      (staging imageMem 1).rd F.fwuStatusState ∉ [0, 2, 6]) ∧
    (∃ q, Writes (staging [] 6) stageGo .fwuStageCtl q ∧ q.wrote F.fwuStageCtlGo = 1 ∧ (staging [] 6).rd F.fwuStatusState ∈ [0, 2, 6] ∧
      (staging [] 6).flag F.fwRootRootValid = true ∧ parsed (staging [] 6) q = none) ∧
    (∃ q, Writes (staging imageMem 2) stageGo .fwuStageCtl q ∧ q.wrote F.fwuStageCtlGo = 1 ∧
      (staging imageMem 2).flag F.fwRootRootValid = true ∧ (parsed (staging imageMem 2) q).any (fun i =>
        (staging imageMem 2).slotsGood i && !((staging imageMem 2).wr F.secKeyFusesEcdsaRevoked 0 1).slotsGood i &&
        decide (i.svn < NMap.getD ([(0, 1)] : NMap Nat) i.ty 0) && decide ((staging imageMem 2).flash.minSvn.getD i.ty 0 ≤ i.svn) &&
        (List.range 4).all (fun r => decide ((staging imageMem 2).bankOf r i.ty = (staging imageMem 2).bankOf 0 i.ty)) &&
        decide (((staging imageMem 2).wr F.regFwStatusBanks 3 1).bankOf 3 i.ty
          ≠ ((staging imageMem 2).wr F.regFwStatusBanks 3 1).bankOf 0 i.ty)) = true) ∧
    (let g : Staging := { image := { ty := 5 }, bank := 1, doneAt := 204800, pldm := false }
     let s : State := { base with now := 204800, staging := some g }
     s.staging = some g ∧ g.doneAt ≤ s.now ∧ g.pldm = false) ∧
    (let w : FwWait := { since := 3, stage := true, word := 0 }
     let s : State := { base with now := 60000000003, fwWaits := [w] }
     s.fwWaits = w :: [] ∧ w.since + 60000000000 ≤ s.now) :=
  ⟨by decide +kernel, by decide +kernel, by decide +kernel, writes_and (by decide +kernel), writes_and (by decide +kernel),
    writes_and (by decide +kernel), by decide +kernel, by decide +kernel⟩

/-- Types 0 and 1 staged, an activation of partition 0 in a state. -/
def activating (st : Nat) (act : Activation) : State :=
  { base.wr F.fwuStatusState 0 st with flash := { base.flash with staged := [(0, 1), (1, 1)] }, activation := some act, normalRun := 500, now := 9 }

/-- An activation with a quiesce limit at either bound, one past each bound, on reset, cancelled; held, quiesced, timed out, confirmed by one
core of two, by the last, and not in time. -/
theorem witness_FirmwareActivation :
    (∀ ms ∈ [0, 1000, 60000], (activating 2 ⟨[0], 1, 0, 0, 0, [], false, false⟩).activateRefusal 1 1 ms false = none) ∧
    (∀ e ∈ ([(2, 0x10000011), (6, 0x10000201), (0, 0x103E7011), (0, 0x1EA61011)] : List (Nat × Nat)),
      ∃ q, Writes (activating e.1 ⟨[0], 1, 0, 0, 0, [], false, false⟩) (poke .fwuActivate 0 (BitVec.ofNat 64 e.2)) .fwuActivate q ∧
        q.wrote F.fwuActivateGo = 1 ∧ q.wrote F.fwuActivateCancel = 0 ∧ q.wrote F.fwuActivateOnReset = 0 ∧
        (activating e.1 ⟨[0], 1, 0, 0, 0, [], false, false⟩).flag F.fwRootRootValid = true) ∧
    (∃ q, Writes (activating 2 ⟨[0], 1, 0, 0, 0, [], false, false⟩) (poke .fwuActivate 0 0x10000411) .fwuActivate q ∧
      q.wrote F.fwuActivateGo = 1 ∧ q.wrote F.fwuActivateCancel = 0 ∧ q.wrote F.fwuActivateOnReset = 1 ∧
      (activating 2 ⟨[0], 1, 0, 0, 0, [], false, false⟩).activateRefusal (q.raw.bits 3 0) (q.raw.bits 9 4) (q.raw.bits 27 12) true = none) ∧
    (∀ st ∈ [3, 4], ∃ q, Writes (activating st ⟨[0], 1, 0, 0, 0, [], false, false⟩) (poke .fwuActivate 0 0x800) .fwuActivate q ∧
      q.wrote F.fwuActivateCancel = 1 ∧ (activating st ⟨[0], 1, 0, 0, 0, [], false, false⟩).rd F.fwuStatusState = st) ∧
    (let x : Activation := ⟨[0], 3, 1000, 9, 10, [0, 1], false, false⟩
     (activating 3 x).activation = some x ∧ x.parts = 0 :: [] ∧ (activating 3 x).rd F.fwuStatusState = 3 ∧ 500 ≤ (activating 3 x).normalRun ∧
      (let s : State := { activating 3 x with queues := [(0, { cmds := [launchCmd], nextSeq := 4 })] }
       ∃ e ∈ s.queues, partOfQueue s.mode e.1 = 0 ∧ e.2.cmds ≠ []) ∧
      (activating 4 x).rd F.fwuStatusState = 4 ∧ (activating 4 x).quiet 0 = true ∧
      ((activating 4 x).activationRestart x 0).activation.any (fun b => decide (b.unkicked ≠ [])) = true ∧
      x.quiesceEnd ≤ (activating 4 x).now ∧ (activating 5 x).rd F.fwuStatusState = 5 ∧ (activating 5 x).now < x.confirmEnd ∧
      1 ∈ x.unkicked ∧ x.unkicked.filter (fun f => decide (f ≠ 1)) ≠ []) ∧
    (let x : Activation := ⟨[0], 3, 1000, 9, 9, [1], false, false⟩
     x.unkicked.filter (fun f => decide (f ≠ 1)) = [] ∧ x.rootLast = false ∧ x.confirmEnd ≤ (activating 5 x).now ∧ x.unkicked ≠ []) := by
  refine ⟨by decide +kernel, ?_, writes_and (by decide +kernel), ?_, by decide +kernel, by decide +kernel⟩
  · intro e he
    simp only [List.mem_cons, List.not_mem_nil, or_false] at he
    rcases he with rfl | rfl | rfl | rfl <;> exact writes_and (by decide +kernel)
  · intro st he
    simp only [List.mem_cons, List.not_mem_nil, or_false] at he
    rcases he with rfl | rfl <;> exact writes_and (by decide +kernel)

/-- A power period in a window of 2 s, a missing report, samples at the last temperature before a trip, the fast limit just over, at and
after its thresholds, an ageing update of a running power core. -/
theorem witness_PowerAndThermal :
    (base.rd F.pwrCapWindowMs ≠ 0 ∧ base.pwrCoreUp 3 = true ∧ base.flag F.pwrStatusFastClamp = false ∧ (base.pwr 3).fresh = false) ∧
    (([114] ++ [113, 100] : List Int).foldl max (-128) < 115) ∧ (5800000 < 5800001 ∧ 5800000 ≤ 5800000 ∧ 5399999 < 5400000) ∧
    (let s : State := { base.wr F.pwrStatusFastClamp 0 1 with now := 10000002, power := { underSince := some 2 } }
     s.flag F.pwrStatusFastClamp = true ∧ s.power.underSince = some 2 ∧ 2 + 10000000 ≤ s.now) := by decide +kernel

/-- The booted device with an imported calibration set of zeros pending. -/
def blank : State := { base with flash := { base.flash with cal := { base.flash.cal with pending := some [] } } }

/-- A row due for retirement; a lane that trains; a ring base refused, set invalid and set valid; an export refused and done; an import. -/
theorem witness_RepairAndCalibration :
    (let s : State := { base with events := [(0, { rowsDue := [0] })] }
     (s.paKind 0).region? = some 0 ∧ (s.paKind 0).stack? = some 0 ∧
      ((s.events.getD 0 {}).rowsDue.find? (fun y => decide (s.rowKey y = s.rowKey 0))) = some 0) ∧
    (base.rd F.portStatusLanesRetired (63 / 8)).testBit (63 % 8) = false ∧
    (∃ q, Writes base (poke .regEvtBase 3 0) .regEvtBase q ∧
      ¬(8 ≤ q.new F.regEvtBaseLog2Records ∧ q.new F.regEvtBaseLog2Records ≤ 16)) ∧
    (∀ v ∈ [0, 1], ∃ q, Writes base (poke .regEvtBase 3 (BitVec.ofNat 64 (v * 2 ^ F.regEvtBaseValid.lo + 8 * 2 ^ F.regEvtBaseLog2Records.lo)))
        .regEvtBase q ∧ 8 ≤ q.new F.regEvtBaseLog2Records ∧ q.new F.regEvtBaseLog2Records ≤ 16 ∧
      base.rangeInTiers (partOfRegion base.mode q.n) (q.new F.regEvtBaseBase * 4096) (32 * 2 ^ q.new F.regEvtBaseLog2Records) = true ∧
      q.new F.regEvtBaseValid = v ∧ q.was F.regEvtBaseValid = 0) ∧
    (∀ e ∈ [(blank, true), (blank.wr F.calAddrAddr 0 0x080000000, false)],
      ∃ q, Writes e.1 (poke .calCtl 0 (BitVec.ofNat 64 (2 ^ F.calCtlExport.lo))) .calCtl q ∧ q.wrote F.calCtlExport = 1 ∧
      e.1.rangeInTiers ((((e.1.paKind (e.1.rd F.calAddrAddr * 4096)).region?).map (partOfRegion e.1.mode)).getD 0)
        (e.1.rd F.calAddrAddr * 4096) 0x100000 = e.2 ∧ e.1.flash.cal.stored = []) ∧
    (∃ q, Writes base (poke .calCtl 0 (BitVec.ofNat 64 (2 ^ F.calCtlImport.lo))) .calCtl q ∧ q.wrote F.calCtlImport = 1) := by
  refine ⟨by decide +kernel, by decide +kernel, writes_and (by decide +kernel), ?_, ?_, writes_and (by decide +kernel)⟩
  · intro v hv
    simp only [List.mem_cons, List.not_mem_nil, or_false] at hv
    rcases hv with rfl | rfl <;> exact writes_and (by decide +kernel)
  · intro e he
    simp only [List.mem_cons, List.not_mem_nil, or_false] at he
    rcases he with rfl | rfl <;> exact writes_and (by decide +kernel)

/-- A module that is mated, powered and up. -/
def powered : ModuleSt := { mated := true, precharged := true, mainSwitch := true, pwrEn := true, pwrGood := true, refclk := true, up := true }

/-- A partition that is reset, a cold and a warm reset with and without the key, standby, and the module's events. -/
theorem witness_ResetsAndModuleEvents :
    (∃ q, Writes base (poke .devPartCtl 0 (BitVec.ofNat 64 (2 ^ F.devPartCtlReset.lo))) .devPartCtl q ∧
      bitList 4 (q.wrote F.devPartCtlReset) = [0] ∧ base.modSt.standby = false ∧ base.partState 0 ∉ [0, 3] ∧
      (base.partState 0 = 5 → base.rd F.fwuStatusState ≠ 5) ∧ 0 < partCount base.mode) ∧
    (∃ q, Writes base (poke .devResetCtl 0 0) .devResetCtl q ∧ q.wrote F.devResetCtlKey ≠ 0xA5) ∧
    (∃ q, Writes base (poke .devResetCtl 0 (BitVec.ofNat 64 (0xA5 * 2 ^ F.devResetCtlKey.lo + 2 ^ F.devResetCtlCold.lo))) .devResetCtl q ∧
      q.wrote F.devResetCtlKey = 0xA5 ∧ q.wrote F.devResetCtlCold = 1) ∧
    (∃ q, Writes base (poke .devResetCtl 0 (BitVec.ofNat 64 (0xA5 * 2 ^ F.devResetCtlKey.lo + 2 ^ F.devResetCtlWarm.lo))) .devResetCtl q ∧
      q.wrote F.devResetCtlKey = 0xA5 ∧ q.wrote F.devResetCtlCold = 0 ∧ q.wrote F.devResetCtlWarm = 1 ∧ base.modSt.standby = false) ∧
    (powered.up = true ∧ powered.mainSwitch = true ∧ powered.standby = false ∧ ({ powered with standby := true } : ModuleSt).standby = true ∧
      ({ powered with mated := false } : ModuleSt).mated = false ∧ powered.precharged = true ∧
      ({ powered with mainSwitch := false } : ModuleSt).mainSwitch = false ∧ powered.pwrEn = true ∧ powered.refclk = true ∧
      ({ powered with up := false } : ModuleSt).up = false ∧ ({ powered with refclk := false } : ModuleSt).refclk = false ∧
      ({ powered with perst := false, linkTraining := true } : ModuleSt).linkTraining = true) :=
  ⟨writes_and (by decide +kernel), writes_and (by decide +kernel), writes_and (by decide +kernel), writes_and (by decide +kernel),
    by decide +kernel⟩

end Sys2Proof.Tests
end

