-- ==== Sys2Proof/Tests/WitnessMgmt.lean ====
section
/-! SUPPORT. Witnesses for the statements about attestation, keys and management, and about steps. -/

-- Theorems one after another: a thread for each would cost more memory than the check allows.
set_option Elab.async false

namespace Sys2Proof.Tests

open Sys2Proof Sys2Proof.Machine Sys2Proof.Claims

def rootless : State := base.wr F.fwRootRootValid 0 0

/-- The DOE connection negotiated, with sessions. -/
def secured (l : List SpdmSession) : State :=
  { base with
    sec := { base.sec with conns := [(Medium.index .doe, { version := 0x13, caps := true, algs := true })], sessions := l }
    session := { token := some 5 } }

def session7 (fin : Bool) : SpdmSession := { id := 7, medium := .doe, finished := fin }

def chan : SpdmChan := { medium := .doe, session := some 7 }

def sa : MacsecSa := { suite := 0, sci := 3, ssci := 0, salt := 0, pn := 0xBFFFFFFF, sak := 1 }

def tagged (pn : Nat) : Frame :=
  { sub := 0, ipv6 := true, dstPrefix := 0, dstId := 0, srcId := 0, dport := 0, prio := 3, len := 100, ce := false, fields := true,
    tag := some { sci := 3, an := 3, pn := pn, icv := true }, pkt := .foreign }

/-- With and without a root, before and after each step of the negotiation; 7 sessions and 8; a session finished and not; each vendor request's channel;
the last port and stream; a check failure; a change of AN with and without an SA; frames sent and received at the bounds; keys of contexts. -/
theorem witness_AttestationAndKeys :
    (rootless.flag F.fwRootRootValid = false ∧ base.flag F.fwRootRootValid = true ∧ base.sec.electionEnd = none ∧
      (base.spdmConn .doe).caps = false ∧ (base.spdmConn .doe).algs = false ∧ ((secured []).spdmConn .doe).caps = true ∧
      ((secured []).spdmConn .doe).algs = true ∧ (base.measurement 0x2F).isSome = true ∧
      (secured (List.replicate 8 (session7 true))).sec.sessions.length = 8 ∧
      (secured (List.replicate 7 (session7 true))).sec.sessions.length < 8) ∧
    (∀ b ∈ [true, false], (secured [session7 b]).sec.sessions = [session7 b] ∧ (session7 b).medium = .doe ∧ (session7 b).finished = b) ∧
    (∃ x ∈ (secured [session7 true]).sec.sessions, some x.id = chan.session ∧ x.medium = .doe ∧ x.finished = true) ∧
    (∀ x ∈ (secured [session7 false]).sec.sessions, ¬(some x.id = chan.session ∧ x.medium = .doe ∧ x.finished = true)) ∧
    ((secured []).session.token = some 5 ∧ (secured []).session.spdmRead = false ∧ (secured []).session.loRead = false ∧
      (secured []).session.hiRead = false ∧ base.portNumber 7 = some (7, 0) ∧ base.portNumber 8 = none ∧ base.sec.txSa = [] ∧
      base.sec.rxSa = [] ∧ base.sec.ide = [] ∧ (base.wr F.portStatusSplitInForce 7 1).portNumber 0x8F = some (7, 1)) ∧
    ((base.wr F.secIdeStatusSecure 0 16).rd F.secIdeStatusSecure).testBit 4 = true ∧
    (∀ l ∈ [[], [(7 * 8 + 3, sa)]], ∃ q, Writes { base with sec := { base.sec with txSa := l } } (pokeF .portSecCfg 7 [(F.portSecCfgTxAnA, 3)])
      .portSecCfg q ∧ q.n < 8 ∧ q.new F.portSecCfgTxAnB = q.was F.portSecCfgTxAnB ∧
      q.new F.portSecCfgTxAnA ≠ q.was F.portSecCfgTxAnA ∧ (NMap.has l (q.n * 8 + q.new F.portSecCfgTxAnA)) = decide (l ≠ [])) ∧
    (let s : State := { puts base [(F.portSecCfgEnableA, 7, 1), (F.portSecCfgTxAnA, 7, 3)] with
        sec := { base.sec with txSa := [((7 * 2 + 0) * 4 + 3, sa)] } }
     s.macsecOn 7 0 = true ∧ s.rd F.portSecCfgTxAnA 7 = 3 ∧ s.sec.txSa.get? ((7 * 2 + 0) * 4 + 3) = some sa ∧ sa.pn ≤ sa.lastPn ∧
      ({ sa with pn := sa.lastPn + 1 } : MacsecSa).lastPn < sa.lastPn + 1) ∧
    (let s : State := { base.wr F.portSecCfgReplayWindow 7 10 with sec := { base.sec with rxSa := [((7 * 2 + 0) * 4 + 3, { sa with pn := 100 })] } }
     100 ≤ (90 : Nat) + s.rd F.portSecCfgReplayWindow 7 ∧ 89 + s.rd F.portSecCfgReplayWindow 7 < 100 ∧
      (s.macsecReceive 7 (tagged 90)).isSome = true ∧ (s.macsecReceive 7 (tagged 89)).isSome = false) ∧
    (∃ q, Writes base (pokeF .ctxMemCrypt 4095 [(F.ctxMemCryptEnable, 1)]) .ctxMemCrypt q ∧ q.new F.ctxMemCryptEnable = 1 ∧
      q.was F.ctxMemCryptEnable = 0 ∧ base.granted q.n = false ∧ base.sec.keyWaits = []) ∧
    (∃ q, Writes (base.wr F.ctxMemCryptEnable 4095 1) (pokeF .ctxMemCrypt 4095 []) .ctxMemCrypt q ∧ q.new F.ctxMemCryptEnable = 0 ∧
      q.was F.ctxMemCryptEnable = 1 ∧ (base.wr F.ctxMemCryptEnable 4095 1).granted q.n = false) := by
  refine ⟨by decide +kernel, by decide +kernel, by decide +kernel, by decide +kernel, by decide +kernel, by decide +kernel, ?_,
    by decide +kernel, by decide +kernel, writes_and (by decide +kernel), writes_and (by decide +kernel)⟩
  intro l hl
  simp only [List.mem_cons, List.not_mem_nil, or_false] at hl
  rcases hl with rfl | rfl <;> exact writes_and (by decide +kernel)

/-- An update by PLDM, under way. -/
def updating (u : PldmUpdate) : State := { base.wr F.fwuStatusState 0 1 with mgt := { base.mgt with update := some u } }

def imageBytes : List Byte := (leBytes 4 0x57464954 ++ leBytes 1 1 ++ leBytes 20 0 ++ leBytes 1 0x1D) ++ List.replicate 8166 0

/-- The bounds of the cap, of the window and of a type; an update of each kind; SIDE_SIG in each function; a pulse, a gap and a full count of pulses;
a recovery image. -/
theorem witness_ManagementCommands :
    (∀ m ∈ [Medium.vdm, .i3c], m ≠ .doe) ∧
    (base.rd F.mgtCfgBmcCap = 1 ∧ base.rd F.mgtCfgBmcFwu = 1 ∧ (base.wr F.mgtCfgBmcCap 0 0).rd F.mgtCfgBmcCap = 0 ∧
      (base.wr F.mgtCfgBmcFwu 0 0).rd F.mgtCfgBmcFwu = 0 ∧ base.rd F.fwuStatusState = 0 ∧ base.mgt.update = none ∧
      (base.sensorReading 0x37).isSome = true ∧ base.mgt.i3cAddr = none) ∧
    (let u : PldmUpdate := { table := [0, 5] }
     (updating u).mgt.update = some u ∧ 5 ∈ u.table ∧ u.current = none ∧ (∀ t ∈ [0, 5], t ≤ 5) ∧ (∃ t ∈ [0, 6], 5 < t) ∧
      ({ u with current := some 5 } : PldmUpdate).current ≠ none) ∧
    ((updating { table := [0] }).rd F.fwuStatusState = 1) ∧
    (∀ f ∈ [0, 1, 2, 3], ∃ q, Writes base (pokeF .mgtSideCfg 0 [(F.mgtSideCfgFunc, f)]) .mgtSideCfg q ∧ q.covers F.mgtSideCfgFunc = true ∧
      q.new F.mgtSideCfgFunc = f ∧ q.new F.mgtSideCfgPart < partCount base.mode ∧ base.rd F.mgtSideCfgFunc = 1) ∧
    (∃ q, Writes (base.wr F.mgtSideCfgFunc 0 2) (pokeF .mgtSideCfg 0 [(F.mgtSideCfgFunc, 3)]) .mgtSideCfg q ∧
      q.covers F.mgtSideCfgFunc = true ∧ q.new F.mgtSideCfgFunc = 3 ∧ (base.wr F.mgtSideCfgFunc 0 2).rd F.mgtSideCfgFunc ≠ 1) ∧
    (let s : State := { puts base [(F.mgtSideCfgFunc, 0, 2), (F.mgtSideStatusQueued, 0, 16)] with
        mgt := { base.mgt with pulseEnd := some 9 }, now := 9 }
     s.rd F.mgtSideCfgFunc = 2 ∧ s.rd F.mgtSideCfgPart = 0 ∧ s.mgt.pulseEnd = some 9 ∧ 9 ≤ s.now ∧ 16 ≤ s.rd F.mgtSideStatusQueued ∧
      (s.wr F.mgtSideStatusQueued 0 15).rd F.mgtSideStatusQueued < 16) ∧
    (let s : State := { base.wr F.mgtSideStatusQueued 0 1 with mgt := { base.mgt with gapEnd := some 9 }, now := 9 }
     s.mgt.pulseEnd = none ∧ s.mgt.gapEnd = some 9 ∧ 9 ≤ s.now ∧ 0 < s.rd F.mgtSideStatusQueued) ∧
    (let s := base.wr F.secStatusBoot 0 3 3
     s.rd F.secStatusBoot 0 3 = 3 ∧ (s.fwCores.getD 9 {}).recovery = none ∧ s.fwWaits = [] ∧
      (parseImage (fun o n => leNat ((imageBytes.drop o).take n)) 0 8192).isSome = true) := by
  refine ⟨by decide +kernel, by decide +kernel, by decide +kernel, by decide +kernel, ?_, writes_and (by decide +kernel), by decide +kernel,
    by decide +kernel, by decide +kernel⟩
  intro f hf
  simp only [List.mem_cons, List.not_mem_nil, or_false] at hf
  rcases hf with rfl | rfl | rfl | rfl <;> exact writes_and (by decide +kernel)

/-- A command in front of another, and a queue that is empty. -/
theorem witness_FrontCommandSteps :
    base.pending = [] ∧ ({ base with pending := [.splitChangeDone 0, .heartbeatExpiry] } : State).pending = .splitChangeDone 0 :: [.heartbeatExpiry] :=
  ⟨rfl, rfl⟩

/-- Memory in its canonical form that holds bytes, and a step from there. -/
theorem witness_StepKeepsMemoryCanonical :
    Memory.wf (staging imageMem 0) = true ∧ (staging imageMem 0).mem ≠ [] ∧
    (match step (staging imageMem 0) with
      | .next t => decide (t.mem = imageMem)
      | _ => false) = true := by decide +kernel

end Sys2Proof.Tests
end

