-- ==== Sys2Proof/Tests/Slice0.lean ====
section
/-! SUPPORT. Small tests: the checks of well-formedness, the words of instructions, the spec's worked examples, and one step or two of each
family. Expected results come from the spec: its examples, tables and rules. -/

-- Theorems one after another: a thread for each would cost more memory than the check allows.
set_option Elab.async false

namespace Sys2Proof.Tests

open Sys2Proof Sys2Proof.Machine

-- well-formedness refuses what its checks name

theorem test_wf_good : (Instr.add (issue 255 254 253 252)).wf = true ∧ (Instr.registerWrite (poke .skbCfg 0 0)).wf = true := by decide +kernel

theorem test_wf_issue_fields : (Instr.add (issue 256 0 0 0)).wf = false ∧ (Instr.add (issue 0 256 0 0)).wf = false ∧
    (Instr.add (issue 0 0 256 0)).wf = false ∧ (Instr.add (issue 0 0 0 256)).wf = false ∧ (Instr.add (issue 0 0 0 0 (mod := 2 ^ 15))).wf = false ∧
    (Instr.add { issue 0 0 0 0 with gp := 8 }).wf = false := by decide +kernel

theorem test_wf_issue_site : (Instr.add { issue 0 0 0 0 with core := 1152 }).wf = false ∧ (Instr.add { issue 0 0 0 0 with pos := 64 }).wf = false ∧
    (Instr.add { issue 0 0 0 0 with lane := 32 }).wf = false ∧ (Instr.add { issue 0 0 0 0 with reserved := some 0 }).wf = false ∧
    (Instr.nop { issue 0 0 0 0 with reserved := some 1 }).wf = false := by decide +kernel

theorem test_wf_access : (Instr.registerWrite { origin := .fn 0, addr := 4, size := 8, value := 0 }).wf = false ∧
    (Instr.registerWrite { origin := .fn 0, addr := 0, size := 2, value := 0 }).wf = false ∧
    (Instr.registerWrite { origin := .fn 0, addr := 2 ^ 40, size := 8, value := 0 }).wf = false := by decide +kernel

theorem test_wf_bar : (Instr.barAccess (bar 64 0 0 8)).wf = false ∧ (Instr.barAccess (bar 0 1 0 8)).wf = false ∧
    (Instr.barAccess (bar 0 0 0 0)).wf = false ∧ (Instr.barAccess (bar 0 0 0 8 (some []))).wf = false ∧
    (Instr.barAccess { bar 0 0 0 8 with rid := 2 ^ 16 }).wf = false := by decide +kernel

theorem test_wf_numbers : (Instr.seamFail 4).wf = false ∧ (Instr.contextSwitch 4096).wf = false ∧ (Instr.sqDoorbell 0 32768 0).wf = false ∧
    (Instr.frameReceive 8 (frame .foreign)).wf = false ∧ (Instr.vfFlr 0).wf = false ∧ (Instr.vfFlr 64).wf = false ∧
    (Instr.laneRetrain 64).wf = false ∧ (Instr.watchdogExpiry 12).wf = false ∧ (Instr.watchdogExpiry 160).wf = false ∧
    (Instr.matmul 32784 0).wf = false ∧ (Instr.writeBatchTurn 768).wf = false := by decide +kernel

theorem test_wf_parts : (Instr.blockFault (.cluster 144)).wf = false ∧ (Instr.blockFault (.stack 24)).wf = false ∧
    (Instr.blockFault (.port 8)).wf = false ∧ (Instr.counterArbitration (.core 1152 0) []).wf = false ∧
    (Instr.counterArbitration (.core 0 48) []).wf = false ∧ (Instr.counterArbitration (.region 0 512) []).wf = false ∧
    (Instr.fineRequest 0 0 (.atomic .add 16 0 0)).wf = false ∧ (Instr.powerUp { badSlots := [(144, 0)] }).wf = false := by decide +kernel

theorem test_wf_security : (Instr.query { medium := .doe, session := some (2 ^ 32) }).wf = false ∧
    (Instr.macsecSetSa chan { port := 256, dir := 0, an := 0, suite := 0, sci := 0, ssci := 0, salt := 0, pn := 0, sak := 0 }).wf = false ∧
    (Instr.setPolicy chan 256 0 0 0).wf = false := by decide +kernel

-- words of instructions, laid out by R162 to R164

/-- fp.fma FP32 v10 ← v4 × v6 + v8, guarded by p2: the word of the spec's example. -/
theorem test_word_fp_fma : decode 0 0 0 0x7E20100C08144031 0 = .fpFma { issue 10 4 6 8 (mod := 0x3F10) with gp := 2 } := by decide +kernel

/-- mx.mma into a1 with 20 positions: the word of the spec's example. -/
theorem test_word_mx_mma : decode 0 0 0 0x163C28401802E006 0 = .mxMma (issue 1 12 32 20 (mod := 0x0B1E)) := by decide +kernel

/-- add v1 ← v2 + 5, at p7: CLASS 0, OP 1, EXT, GP 7, D 1, A 2; the extension word has IMM32 5 and BI. -/
theorem test_word_integer : decode 0 0 0 (0x10 + 0x1000 + 0xE000 + 0x20000 + 0x4000000) 0x800000000005 =
    .add (issue 1 2 0 0 (ext := some 0x800000000005)) := by decide +kernel

/-- cvt: CLASS 2, OP 0, with the extension word it requires, D 1, A 2. -/
theorem test_word_conversion : decode 0 0 0 (2 + 0x1000 + 0xE000 + 0x20000 + 0x4000000) 7 = .cvt (issue 1 2 0 0 (ext := some 7)) := by
  decide +kernel

/-- ld: CLASS 3, OP 0; atom.cas: OP 9; fence.global: OP 0x13. -/
theorem test_word_memory : decode 0 0 0 (3 + 0xE000 + 0x20000) 0 = .ld (issue 1 0 0 0) ∧ decode 0 0 0 (3 + 0x90 + 0xE000) 0 = .atomCas (issue 0 0 0 0) ∧
    decode 0 0 0 (3 + 0x130 + 0xE000) 0 = .fenceGlobal (issue 0 0 0 0) := by decide +kernel

/-- tm.copy: CLASS 4, OP 0; exit: CLASS 5, OP 5; cnt.wait: CLASS 7, OP 1; sys.get: CLASS 8, OP 0. -/
theorem test_word_others : decode 0 0 0 (4 + 0xE000) 0 = .tmCopy (issue 0 0 0 0) ∧ decode 0 0 0 (5 + 0x50 + 0xE000) 0 = .exit (issue 0 0 0 0) ∧
    decode 0 0 0 (7 + 0x10 + 0xE000) 0 = .cntWait (issue 0 0 0 0) ∧ decode 0 0 0 (8 + 0xE000) 0 = .sysGet (issue 0 0 0 0) := by
  decide +kernel

/-- A reserved class offends at its bit 0, a reserved opcode at bit 4 (R166). -/
theorem test_word_reserved : decode 0 0 0 (9 + 0xE000) 0 = .nop { issue 0 0 0 0 with reserved := some 0 } ∧
    decode 0 0 0 (5 + 0x70 + 0xE000) 0 = .nop { issue 0 0 0 0 with reserved := some 4 } := by decide +kernel

-- the spec's worked examples

def one : Val := Format.fp32.decode 0x3F800000

/-- 02_number_formats.md, Conversions of 0.30078125: the encoding and the flags, NX (0x10) and UF (8). -/
theorem test_conversions :
    ([Format.e4m3, .e5m2, .e3m2, .e2m3, .e2m1].map (fun f => ((convertCls .fp32 f {} one 0x3E9A0000).bits,
      (convertCls .fp32 f {} one 0x3E9A0000).flags.toNat))) = [(0x2A, 0x10), (0x35, 0x10), (0x05, 0x10), (0x02, 0x18), (0x1, 0x18)] := by
  decide +kernel

/-- The same under RTZ, under flush outputs, and under SR with the two draws of the example. -/
theorem test_conversions_modes :
    (convertCls .fp32 .e4m3 { rm := .rtz } one 0x3E9A0000).bits = 0x29 ∧
    (convertCls .fp32 .e2m1 { flushOut := true } one 0x3E9A0000).bits = 0 ∧
    (convertCls .fp32 .e2m1 { flushOut := true } one 0x3E9A0000).flags.toNat = 0x38 ∧
    (convertCls .fp32 .e4m3 { rm := .sr, draw := 0x60000000 } one 0x3E9A0000).bits = 0x2A ∧
    (convertCls .fp32 .e4m3 { rm := .sr, draw := 0xB0000000 } one 0x3E9A0000).bits = 0x29 := by decide +kernel

/-- Quantisation to E2M1 of 5.25, 15, −0.25, 0.75 and 3 with a scale of 0.5, and the bytes 75 18 03 of the row. -/
theorem test_quantisation :
    let rs := [0x40A80000, 0x41700000, 0xBE800000, 0x3F400000, 0x40400000].map (convertCls .fp32 .e2m1 {} (Format.fp32.decode 0x3F000000))
    rs.map (fun r => (r.bits, r.flags.toNat)) = [(5, 0x10), (7, 0x14), (8, 0x18), (1, 0x18), (3, 0)] ∧
      Format.e2m1.packRow (rs.map Rounded.bits) = [0x75, 0x18, 0x03] := by decide +kernel

/-- 03_exact_accumulation.md: the long forms of split B and their sum. -/
theorem test_long_forms :
    let a := [2, 0x70, 4, 2, 0, 0, 0, 0, 0, 0, 0, 0, 0, 4, 0, 0, 4, 0, 0, 0, 0, 0, 0, 0]
    let b := [2, 0x70, 4, 2, 0, 0, 0, 0, 0, 0, 0, 0, 0, 4, 0, 0, 0xFC, 0xFF, 0xFF, 0xFF, 0xFF, 0xFF, 0xFF, 0xFF]
    (match LongForm.parse a, LongForm.parse b with
      | some x, some y => decide ((x.add y).1.pack = [2, 0x70, 4, 1, 0, 0, 0, 0, 0, 0, 0, 0, 0, 8, 0, 0])
      | _, _ => false) = true := by decide +kernel

/-- 09_memory_tiers.md: the decode of 0x0060_1234_5600, and the block after it. -/
theorem test_tier_decode :
    base.paKind 0x006012345600 = .near 1 0x12345600 ∧
    tierDecode 0x12345600 7 3 = { channel := 118, pseudo := 0, column := 0, bank := 5, sid := 0, row := 24 } ∧
    (tierDecode 0x12345700 7 3).channel = 119 ∧ base.rowKey 0x006012345600 = base.rowKey 0x006012355400 := by decide +kernel

/-- 01_easels_and_canvases.md: the cluster block of global cluster 65, and the places of 11_address_translation.md: GRANT_NEAR_14 at
0x2_0070. -/
theorem test_addresses : Block.base .clu 65 = 0x26500000 ∧ Reg.addr .regGrantNear 14 - Block.base .reg 0 = 0x20070 := by decide +kernel

-- steps

/-- A 32-bit add wraps: 0xFFFFFFFF + 5 is 4 in every lane, which leaves the immediate's word behind (R168, R173). -/
theorem test_add_wraps :
    let g : Group := (List.range 32).foldl (fun (h : Group) l => h.writeV l 2 0xFFFFFFFF) group
    (match exec (.add (issue 1 2 0 0 (ext := some 0x800000000005))) (running g) with
      | .next t => (((t.core 0).groups.get? 0).any (fun h => decide (h.readV 31 1 = 4) && decide (h.pc 31 = 0x1010)))
      | _ => false) = true := by decide +kernel

/-- A write of a register bit that is read-only changes nothing (R18). -/
theorem test_read_only :
    (match exec (.registerWrite (poke .skbStatus 0 0xFFFFFFFFFFFFFFFF)) base with
      | .next t => decide (t.rd F.skbStatusState 0 = 0) && decide (t.mem = [])
      | _ => false) = true := by decide +kernel

/-- A NOP command of a queue ends with status 0 (R357). -/
theorem test_nop_command :
    (match exec (.nopCommand 5 0) (held base 5 (cmdOf 0 [])) with
      | .next t => ((t.cmd? 5 0).any (fun c => decide (c.phase = .done) && decide (c.status = 0)))
      | _ => false) = true := by decide +kernel

/-- A REDUCE sum of two FP32 ones along their axis writes 2.0 (R82, R373). -/
theorem test_reduce_sum :
    let s : State := { held base 0 (oper 0x23 (2 ^ 20) [] [[1, 2], [1, 1]]) with
      mem := [(0x1002, 0x80), (0x1003, 0x3F), (0x1006, 0x80), (0x1007, 0x3F)] }
    (match exec (.reduceSum 0 0) s with
      | .next t => decide (leNat (t.readBytes 0x2000 4) = 0x40000000)
      | _ => false) = true := by decide +kernel

/-- A tile of memory that a stack's scrub cannot correct is poisoned, 32 bytes of it (R485). -/
theorem test_scrub_poisons :
    (match exec (.scrub 0 64 .uncorrectable) base with
      | .next t => t.poisoned 64 32 && !t.poisoned 32 32 && !t.poisoned 96 32
      | _ => false) = true := by decide +kernel

/-- A Neighbor Solicitation for the port's own prefix is answered, and one for another is counted foreign (R380). -/
theorem test_solicitation :
    (match exec (.frameReceive 7 (frame (.solicit 0 5))) (slot 3) with
      | .next t => decide (t.sent.length = 1)
      | _ => false) = true ∧
    (match exec (.frameReceive 7 (frame (.solicit 1 5))) (slot 3) with
      | .next t => decide (t.sent = []) && decide (t.rd F.portRxForeignCount 7 = 1)
      | _ => false) = true := by decide +kernel

/-- GET_VERSION is answered with versions 1.2 and 1.3, and with no root with an error (R509). -/
theorem test_get_version :
    (match exec (.getVersion .doe) base with
      | .next t => decide (t.sent = [.message .doe 5 0x04 [0x12, 0x13]])
      | _ => false) = true ∧
    (match exec (.getVersion .doe) rootless with
      | .next t => decide (t.sent = [.message .doe 5 0x7F [0x42, 20]])
      | _ => false) = true := by decide +kernel

/-- A cap of 1,799 W is refused, and one of 1,800 W taken (R441, R525). -/
theorem test_cap :
    (match exec (.setNumericEffecterValue .vdm 0x100 1799) base with
      | .next t => decide (t.rd F.pwrCapCapW = 4600)
      | _ => false) = true ∧
    (match exec (.setNumericEffecterValue .vdm 0x100 1800) base with
      | .next t => decide (t.rd F.pwrCapCapW = 1800)
      | _ => false) = true := by decide +kernel

/-- A command at the front of the queue leaves it, and an empty queue lets time pass. -/
theorem test_steps :
    (match Sys2Proof.core.step ({ State.reset with pending := [.heartbeatExpiry] } : State) with
      | .next t => decide (t.pending = [])
      | _ => false) = true ∧
    (match Sys2Proof.core.step State.reset with
      | .next t => decide (t.now = 1)
      | _ => false) = true := by decide +kernel

end Sys2Proof.Tests
end

section
/-! PROOFS. Cell-level and block-level faults and disabled cores (R29, R42, R286, R309, R486, R494). -/

namespace Sys2Proof.Machine

open Sys2Proof.Claims

-- registers

/-- Two changes of the listed registers alone, one after the other, are one. -/
theorem OnlyRegs.trans {l : List (Reg × Nat)} {s t u : State} (h : OnlyRegs l s t) (h' : OnlyRegs l t u) : OnlyRegs l s u :=
  ⟨fun r n hr hn => (h'.1 r n hr hn).trans (h.1 r n hr hn), h'.2.trans h.2⟩

-- what the loss of a stack leaves, besides the stack's own status

/-- Every stack's status, the level register of stack k and memory with its poison marks are the same in two states. -/
structure SameStack (k : Nat) (s t : State) : Prop where
  stackSts : t.stackSts = s.stackSts
  level : t.reg .stkStatus k = s.reg .stkStatus k
  mem : t.mem = s.mem
  poison : t.poison = s.poison

theorem SameStack.refl (k : Nat) (s : State) : SameStack k s s := ⟨rfl, rfl, rfl, rfl⟩

theorem SameStack.trans {k : Nat} {s t u : State} (h : SameStack k s t) (h' : SameStack k t u) : SameStack k s u :=
  ⟨h'.stackSts.trans h.stackSts, h'.level.trans h.level, h'.mem.trans h.mem, h'.poison.trans h.poison⟩

theorem SameStack.stackOffline_eq {k : Nat} {s t : State} (h : SameStack k s t) : t.stackOffline k = s.stackOffline k := by
  unfold State.stackOffline; rw [h.stackSts]

theorem SameStack.level_eq {k : Nat} {s t : State} (h : SameStack k s t) :
    t.rd F.stkStatusLevel k = s.rd F.stkStatusLevel k := congrArg (fun w : Word => w.bits 10 8) h.level

/-- What every element's step keeps of a stack, a fold keeps. -/
theorem SameStack.foldl {α : Type} {k : Nat} {f : State → α → State} (hf : ∀ s x, SameStack k s (f s x)) (l : List α) (s : State) :
    SameStack k s (l.foldl f s) := by
  induction l generalizing s with
  | nil => exact .refl k s
  | cons x l ih => exact (hf s x).trans (ih (f s x))

/-- An event's entry into a region's queue, or its count as lost, touches no stack and no memory. -/
theorem SameStack.enqueueEvent {k r : Nat} (hk : k < 24) (hr : r < 4) (s : State) (e : EvRec) :
    SameStack k s (s.enqueueEvent r e) := by
  unfold State.enqueueEvent
  dsimp only
  split
  · exact ⟨rfl, rfl, rfl, rfl⟩
  · have hlost : IsReg .regFwEventsLost r := isReg_of_lt hr
    have hstatus : IsReg .stkStatus k := isReg_of_lt hk
    exact ⟨rfl, s.reg_setReg_ne _ hlost hstatus nofun, rfl, rfl⟩

/-- A hardware event of a region, of a code below the device's own, touches no stack and no memory. -/
theorem SameStack.hwEvent {k r code : Nat} (hk : k < 24) (hr : r < 4) (hcode : code < 0xC000) (s : State)
    (unit ctx loc detail flags : Nat) : SameStack k s (s.hwEvent r code unit ctx loc detail flags) := by
  unfold State.hwEvent
  rw [if_neg (Nat.not_le.2 hcode)]
  exact .enqueueEvent hk hr s _

/-- The state in which a stack has just gone offline: its status says so and its level reads 7, and nothing is logged yet (R286). -/
def State.markOffline (s : State) (k : Nat) : State :=
  let x := s.stackSts.getD k {}
  let x : StackSt := { x with offline := true, restrictedSince := none, throttledSince := some (x.throttledSince.getD s.now) }
  State.wr { s with stackSts := s.stackSts.set k x } F.stkStatusLevel k 7

theorem State.markOffline_stackOffline (s : State) (k : Nat) : (s.markOffline k).stackOffline k = true := by
  unfold State.markOffline State.stackOffline NMap.getD
  rw [State.wr_stackSts, NMap.get?_set, if_pos rfl]; rfl

theorem State.markOffline_level (s : State) (k : Nat) : (s.markOffline k).rd F.stkStatusLevel k = 7 :=
  State.rd_wr _ F.stkStatusLevel k 7 0 (by decide)

/-- After a stack is marked offline, its loss only logs events and drops the writes that its controllers hold (R286). -/
theorem State.stackDown_of_online {s : State} {k : Nat} (hk : k < 24) (hon : s.stackOffline k = false) :
    SameStack k (s.markOffline k) (s.stackDown k) := by
  have hr : k / 6 < 4 := by omega
  have hon' : ¬ (s.stackSts.getD k {}).offline = true := Bool.eq_false_iff.1 hon
  unfold State.stackDown
  dsimp only
  rw [if_neg hon']
  refine (SameStack.hwEvent hk hr (by decide) (s.markOffline k) _ _ _ _ _).trans (.foldl (fun u i => ?_) _ _)
  split
  · exact .refl k u
  · have hdrop (c : Nat) (ch : Channel) : SameStack k u { u with channels := u.channels.set c ch } := ⟨rfl, rfl, rfl, rfl⟩
    exact (hdrop _ _).trans (.foldl (fun v _ => .hwEvent hk hr (by decide) v _ _ _ _ _) _ _)

/-- A stack that goes offline reads level 7, and the loss of its controllers' writes changes no byte of memory (R286). -/
theorem State.stackDown_spec {s : State} {k : Nat} (hk : k < 24) (hon : s.stackOffline k = false) :
    (s.stackDown k).stackOffline k = true ∧ (s.stackDown k).rd F.stkStatusLevel k = 7 ∧
      (s.stackDown k).mem = s.mem ∧ (s.stackDown k).poison = s.poison := by
  have h := State.stackDown_of_online hk hon
  exact ⟨h.stackOffline_eq.trans (s.markOffline_stackOffline k), h.level_eq.trans (s.markOffline_level k), h.mem, h.poison⟩

/-- A port block that goes down has both ports link-down, and nothing else of the device changes (R29). -/
theorem State.portDown_spec {k : Nat} (s : State) (hk : k < 8) :
    (s.portDown k).rd F.portStatusUpA k = 0 ∧ (s.portDown k).rd F.portStatusUpB k = 0 ∧
      OnlyRegs [(.portStatus, k)] s (s.portDown k) := by
  have hport : IsReg .portStatus k := isReg_of_lt hk
  unfold State.portDown
  refine ⟨?_, State.rd_wr _ F.portStatusUpB k 0 0 (by decide), ?_⟩
  · rw [State.rd_wr_disjoint _ F.portStatusUpB F.portStatusUpA k 0 0 0 rfl (by decide) (by decide)]
    exact State.rd_wr s F.portStatusUpA k 0 0 (by decide)
  · exact OnlyRegs.trans (s.wr_onlyRegs F.portStatusUpA k 0 0 hport) (State.wr_onlyRegs _ F.portStatusUpB k 0 0 hport)

-- the commands

theorem exec_cellFault_core {s : State} {core code : Nat} (hv : s.vacant core = false) (hcode : code = 0x0201 ∨ code = 0x0301) :
    exec (.cellFault core code) s = .next (((s.hwEvent (core / 288) code core).cellError core code).resetCell core) := by
  show execCellFault core code s = _
  unfold execCellFault
  rw [if_pos hcode, hv]; rfl

theorem exec_cellFault_hart {s : State} {hart : Nat} (h : hart < 96) :
    exec (.cellFault hart 0x0302) s = .next ((s.hwEvent (hart / 24) 0x0302 hart).agentDies hart) := by
  show execCellFault hart 0x0302 s = _
  unfold execCellFault
  rw [if_neg (by decide), if_pos ⟨rfl, h⟩]

/-- A cluster that is not down yet stops: its cores join the stopped ones, and each has its work faulted and its cell reset. -/
theorem State.stopCluster_of_up {s : State} {k : Nat} (h : k ∉ s.downClusters) :
    s.stopCluster k = (s.clusterCores k).foldl (fun (u : State) c => (u.cellError c 0x4303).resetCell c)
      { s.hwEvent (k / 36) 0x4303 k with
          downClusters := s.downClusters ++ [k]
          stopped := s.stopped ++ (s.clusterCores k).filter (fun c => decide (c ∉ s.stopped)) } := by
  unfold State.stopCluster; rw [if_neg h]; rfl

theorem exec_blockFault_cluster (s : State) {k : Nat} (h : k < 144) : exec (.blockFault (.cluster k)) s = .next (s.stopCluster k) :=
  congrArg Host.Outcome.next (if_pos h)

theorem exec_blockFault_stack (s : State) {k : Nat} (h : k < 24) : exec (.blockFault (.stack k)) s = .next (s.stackDown k) :=
  congrArg Host.Outcome.next (if_pos h)

theorem exec_blockFault_port (s : State) {k : Nat} (h : k < 8) : exec (.blockFault (.port k)) s = .next (s.portDown k) :=
  congrArg Host.Outcome.next (if_pos h)

/-- Settles O31: the conditions of each clause select one branch of its command's meaning; what that branch leaves of a stack and of
a port block is said by `State.stackDown_spec` and `State.portDown_spec`. -/
theorem cellAndBlockFaults : Obligations.CellAndBlockFaults := by
  intro s core k
  refine ⟨fun hv code hcode => ?_, exec_cellFault_hart, fun hk hup => ?_, fun hk hon => ?_, fun hk => ?_,
    fun hstop hv hdown hup => ?_⟩
  · exact exec_cellFault_core hv (by simpa using hcode)
  · exact ⟨_, exec_blockFault_cluster s hk, State.stopCluster_of_up hup⟩
  · exact ⟨_, exec_blockFault_stack s hk, State.stackDown_spec hk hon⟩
  · exact ⟨_, exec_blockFault_port s hk, s.portDown_spec hk⟩
  · show execCoreDisable core s = _
    unfold execCoreDisable
    exact if_pos ⟨hstop, hv, hdown, hup⟩

end Sys2Proof.Machine
end

section
/-! PROOFS. Deferred faults, the barrier deadlock, a context's fault ring and the release of held groups (R144, R147 to R149, R218,
R219). -/

namespace Sys2Proof.Machine

open Sys2Proof.Claims

-- counter fields

/-- A write of a field's first element is read back. -/
theorem State.rd_wr_first (s : State) (f : Fld) (n v : Nat) (h : f.hi < 64) :
    (s.wr f n v).rd f n = v % 2 ^ (f.hi + 1 - f.lo) := by
  simpa only [Nat.zero_mul, Nat.add_zero] using s.rd_wr f n v 0 (by omega)

/-- A raised counter reads its sum, modulo its width. -/
theorem State.rd_bump (s : State) (f : Fld) (n v : Nat) (h : f.hi < 64) :
    (s.bump f n v).rd f n = (s.rd f n + v) % 2 ^ (f.hi + 1 - f.lo) := s.rd_wr_first f n (s.rd f n + v) h

/-- A saturating counter reads its sum, or the largest number of its width. -/
theorem State.rd_bumpSat (s : State) (f : Fld) (n v : Nat) (h : f.hi < 64) :
    (s.bumpSat f n v).rd f n = min (s.rd f n + v) (2 ^ (f.hi + 1 - f.lo) - 1) := by
  have hpos := Nat.two_pow_pos (f.hi + 1 - f.lo)
  exact (s.rd_wr_first f n _ h).trans (Nat.mod_eq_of_lt (by omega))

-- bytes written at online stacks

theorem length_leBytes (n : Nat) : ∀ v, (leBytes n v).length = n := by
  induction n with
  | zero => intro v; rfl
  | succ n ih => intro v; exact congrArg (· + 1) (ih (v / 256))

/-- A range reads a list of bytes where every byte of it reads the list's. -/
theorem State.readBytes_eq_of_readByte {s : State} (bs : List Byte) :
    ∀ {a : Nat}, (∀ i < bs.length, s.readByte (a + i) = bs.getD i 0) → s.readBytes a bs.length = bs := by
  induction bs with
  | nil => intro a _; rfl
  | cons b bs ih =>
    intro a h
    have hrest : s.readBytes (a + 1) bs.length = bs := ih fun i hi => by
      rw [Nat.add_assoc, Nat.add_comm 1 i]; exact h (i + 1) (Nat.succ_lt_succ hi)
    show s.readByte a :: s.readBytes (a + 1) bs.length = b :: bs
    rw [hrest, show s.readByte a = b from h 0 (Nat.succ_pos _)]

theorem State.writeBytes_only_mem (bs : List Byte) : ∀ (s : State) (a : Nat), ∃ m, s.writeBytes a bs = { s with mem := m } := by
  induction bs with
  | nil => intro s a; exact ⟨s.mem, rfl⟩
  | cons b bs ih => intro s a; exact ih (s.writeByte a b) (a + 1)

theorem State.foldl_clearPoison_only_poison (p : Nat → Prop) [DecidablePred p] (l : List Nat) :
    ∀ s : State, ∃ m, l.foldl (fun t b => if p b then t.clearPoison b else t) s = { s with poison := m } := by
  induction l with
  | nil => intro s; exact ⟨s.poison, rfl⟩
  | cons b l ih =>
    intro s
    rw [List.foldl_cons]
    by_cases hb : p b
    · rw [if_pos hb]; exact ih (s.clearPoison b)
    · rw [if_neg hb]; exact ih s

/-- No burst that n bytes from an address touch is at an offline stack. -/
def State.rangeOnline (s : State) (a n : Nat) : Prop :=
  ∀ b ∈ blocksOf a n, ∀ k, (s.paKind (b * 32)).stack? = some k → s.stackOffline k = false

/-- Where no stack is offline, a write of memory is a write of its bytes, but for the poison marks (R484, R286). -/
theorem State.writeMem_of_online {s : State} {a : Nat} {bs : List Byte} (h : s.rangeOnline a bs.length) :
    ∃ m, s.writeMem a bs = { s.writeBytes a bs with poison := m } := by
  unfold State.writeMem
  dsimp only
  rw [if_pos]
  · exact State.foldl_clearPoison_only_poison _ _ _
  · refine List.filter_eq_nil_iff.2 fun b hb hoff => ?_
    split at hoff
    · next k hk => exact Bool.false_ne_true ((h b hb k hk).symm.trans hoff)
    · exact Bool.false_ne_true hoff

theorem State.writeMem_regs_of_online {s : State} {a : Nat} {bs : List Byte} (h : s.rangeOnline a bs.length) :
    (s.writeMem a bs).regs = s.regs := by
  obtain ⟨p, hp⟩ := State.writeMem_of_online h
  obtain ⟨m, hm⟩ := s.writeBytes_only_mem bs a
  rw [hp, hm]

theorem State.readByte_writeMem_of_online {s : State} {a : Nat} {bs : List Byte} (h : s.rangeOnline a bs.length) (x : Nat) :
    (s.writeMem a bs).readByte x = if a ≤ x ∧ x < a + bs.length then bs.getD (x - a) 0 else s.readByte x := by
  obtain ⟨p, hp⟩ := State.writeMem_of_online h
  rw [hp]
  exact State.readByte_writeBytes bs s a x

/-- Bytes written where no stack is offline are read back. -/
theorem State.readBytes_writeMem_of_online {s : State} {a : Nat} {bs : List Byte} (h : s.rangeOnline a bs.length) :
    (s.writeMem a bs).readBytes a bs.length = bs :=
  State.readBytes_eq_of_readByte bs fun i hi => by
    rw [State.readByte_writeMem_of_online h, if_pos ⟨Nat.le_add_right a i, Nat.add_lt_add_left hi a⟩, Nat.add_sub_cancel_left]

/-- Memory reads the same whatever the registers hold. -/
theorem State.readBytes_setReg (s : State) (r : Reg) (i : Nat) (w : Word) (n : Nat) :
    ∀ a, (s.setReg r i w).readBytes a n = s.readBytes a n := by
  induction n with
  | zero => intro a; rfl
  | succ n ih => intro a; exact congrArg (s.readByte a :: ·) (ih (a + 1))

-- a context's fault ring (R147, R148)

/-- The number of records that a context's fault ring holds. -/
def State.faultRingSize (s : State) (ctx : Nat) : Nat := 2 ^ s.rd F.ctxFaultRingLog2Records ctx

/-- The records of a context's fault ring that are not yet read. -/
def State.faultRingUsed (s : State) (ctx : Nat) : Nat :=
  (s.rd F.ctxFaultStatusWriteCount ctx + 2 ^ 32 - s.rd F.ctxFaultReadReadCount ctx) % 2 ^ 32

/-- The first address of a context's fault ring. -/
def State.faultRingBase (s : State) (ctx : Nat) : Nat := s.rd F.ctxFaultRingBase ctx * 4096

/-- The address of the next record of a context's fault ring. -/
def State.faultSlot (s : State) (ctx : Nat) : Nat :=
  s.faultRingBase ctx + 64 * (s.rd F.ctxFaultStatusWriteCount ctx % s.faultRingSize ctx)

/-- A fault's record as R147 lays it out. -/
def faultRecord (now : Nat) (k : Task) (c wg group : Nat) (f : PendFault) (deferred held : Bool) : List Byte :=
  leBytes 1 f.code ++ leBytes 1 ((if deferred then 1 else 0) + (if held then 4 else 0)) ++ leBytes 2 f.detail ++ leBytes 2 c
    ++ leBytes 1 group ++ leBytes 1 0 ++ leBytes 4 f.lanes ++ leBytes 2 k.queue ++ leBytes 2 0 ++ leBytes 8 wg
    ++ leBytes 8 f.pc.toNat ++ leBytes 8 f.addr.toNat ++ leBytes 8 now ++ leBytes 4 k.tag ++ leBytes 12 0

theorem length_faultRecord (now : Nat) (k : Task) (c wg group : Nat) (f : PendFault) (deferred held : Bool) :
    (faultRecord now k c wg group f deferred held).length = 64 := by
  unfold faultRecord
  simp only [List.length_append, length_leBytes]

section Record

variable {s : State} {k : Task} {c wg group : Nat} {f : PendFault} {deferred held : Bool}

/-- While the ring is full, a record is dropped and counted. -/
theorem State.writeFault_of_full (h : s.faultRingUsed k.ctx = s.faultRingSize k.ctx) :
    s.writeFault k c wg group f deferred held = (s.bumpSat F.ctxFaultStatusDropped k.ctx, none) := if_pos h

/-- With room in a ring of the partition's tiers, a record is written to the next slot and numbered. -/
theorem State.writeFault_of_room (h : s.faultRingUsed k.ctx ≠ s.faultRingSize k.ctx)
    (hr : s.rangeInTiers k.part (s.faultRingBase k.ctx) (64 * s.faultRingSize k.ctx) = true) :
    s.writeFault k c wg group f deferred held =
      ((s.writeMem (s.faultSlot k.ctx) (faultRecord s.now k c wg group f deferred held)).bump F.ctxFaultStatusWriteCount k.ctx,
        some (s.rd F.ctxFaultStatusWriteCount k.ctx)) := by
  refine (if_neg h).trans ?_
  exact congrArg (fun u : State => (u.bump F.ctxFaultStatusWriteCount k.ctx, some (s.rd F.ctxFaultStatusWriteCount k.ctx)))
    (if_pos hr)

/-- A dropped record changes nothing but DROPPED, which saturates. -/
theorem State.writeFault_full_spec (h : s.faultRingUsed k.ctx = s.faultRingSize k.ctx) :
    (s.writeFault k c wg group f deferred held).2 = none ∧
    (s.writeFault k c wg group f deferred held).1.rd F.ctxFaultStatusDropped k.ctx =
      min (s.rd F.ctxFaultStatusDropped k.ctx + 1) (2 ^ (F.ctxFaultStatusDropped.hi + 1 - F.ctxFaultStatusDropped.lo) - 1) ∧
    (s.writeFault k c wg group f deferred held).1.rd F.ctxFaultStatusWriteCount k.ctx = s.rd F.ctxFaultStatusWriteCount k.ctx ∧
    { (s.writeFault k c wg group f deferred held).1 with regs := [] } = { s with regs := [] } := by
  rw [State.writeFault_of_full h]
  exact ⟨rfl, s.rd_bumpSat F.ctxFaultStatusDropped k.ctx 1 (by decide),
    s.rd_wr_disjoint F.ctxFaultStatusDropped F.ctxFaultStatusWriteCount k.ctx _ 0 0 rfl (by decide) (by decide), rfl⟩

/-- A record written to a ring at online stacks: its number, the count raised by one, its bytes, and no other byte. -/
theorem State.writeFault_room_spec (h : s.faultRingUsed k.ctx ≠ s.faultRingSize k.ctx)
    (hr : s.rangeInTiers k.part (s.faultRingBase k.ctx) (64 * s.faultRingSize k.ctx) = true)
    (hon : s.rangeOnline (s.faultSlot k.ctx) 64) :
    (s.writeFault k c wg group f deferred held).2 = some (s.rd F.ctxFaultStatusWriteCount k.ctx) ∧
    (s.writeFault k c wg group f deferred held).1.rd F.ctxFaultStatusWriteCount k.ctx =
      (s.rd F.ctxFaultStatusWriteCount k.ctx + 1) % 2 ^ 32 ∧
    (s.writeFault k c wg group f deferred held).1.readBytes (s.faultSlot k.ctx) 64 =
      faultRecord s.now k c wg group f deferred held ∧
    ∀ a, a < s.faultSlot k.ctx ∨ s.faultSlot k.ctx + 64 ≤ a →
      (s.writeFault k c wg group f deferred held).1.readByte a = s.readByte a := by
  rw [State.writeFault_of_room h hr]
  have hlen := length_faultRecord s.now k c wg group f deferred held
  generalize faultRecord s.now k c wg group f deferred held = bs at hlen ⊢
  rw [← hlen] at hon ⊢
  have hcount : (s.writeMem (s.faultSlot k.ctx) bs).rd F.ctxFaultStatusWriteCount k.ctx = s.rd F.ctxFaultStatusWriteCount k.ctx := by
    unfold State.rd State.reg
    rw [State.writeMem_regs_of_online hon]
  refine ⟨rfl, ?_, ?_, fun a ha => ?_⟩
  · have hbump := (s.writeMem (s.faultSlot k.ctx) bs).rd_bump F.ctxFaultStatusWriteCount k.ctx 1 (by decide)
    rwa [hcount] at hbump
  · exact (State.readBytes_setReg _ _ _ _ _ _).trans (State.readBytes_writeMem_of_online hon)
  · exact (State.readByte_writeMem_of_online hon a).trans (if_neg (by omega))

end Record

-- the commands

/-- A detected fault leaves the core's list, and its group takes it with DEFERRED set (R144). -/
theorem exec_deferredFault {s : State} {core index : Nat} {f : PendFault} (h : (s.core core).faults[index]? = some f) :
    exec (.deferredFault core index) s = .next (((s.setCore core { s.core core with
        faults := (s.core core).faults.eraseIdx index
        groups := (s.core core).groups.adjust f.pos (fun g => { g with fetchWait := none }) }).takeFault core f.pos f true).settleWg
      core ((((s.core core).groups.get? f.pos).map (fun g => g.slot)).getD 0)) := by
  show execDeferredFault core index s = _
  unfold execDeferredFault
  dsimp only
  rw [h]

/-- READ_COUNT is stored where it leaves no more records unread than the ring holds; otherwise the write is an access error (R148). -/
theorem exec_faultReadWrite {s : State} {a : Access} {q : RegWriteReq} (h : Writes s a .ctxFaultRead q) :
    exec (.faultReadWrite a) s = .next
      (if (s.rd F.ctxFaultStatusWriteCount q.n + 2 ^ 32 - q.new F.ctxFaultReadReadCount) % 2 ^ 32 ≤ s.faultRingSize q.n then
        s.setReg .ctxFaultRead q.n q.merged else s.accessError) := by
  refine (State.onWrite_of_writes s.writeFaultRead h (List.mem_singleton.2 rfl)).trans (congrArg Host.Outcome.next ?_)
  have hreg : q.reg = .ctxFaultRead := h.2
  unfold State.writeFaultRead State.store State.faultRingSize
  simp only [hreg, ← Nat.not_le, ite_not]

/-- RELEASE with a policy other than 3 stores the word and releases the context's held groups (R149). -/
theorem exec_faultRelease {s : State} {a : Access} {q : RegWriteReq} (h : Writes s a .ctxFaultPolicy q)
    (hrel : q.wrote F.ctxFaultPolicyRelease = 1) (hpol : q.new F.ctxFaultPolicyPolicy ≠ 3) :
    exec (.faultRelease a) s = .next ((s.setReg .ctxFaultPolicy q.n q.merged).releaseHeld q.n) := by
  refine (State.onWrite_of_writes s.writeFaultPolicy h (List.mem_singleton.2 rfl)).trans (congrArg Host.Outcome.next ?_)
  have hreg : q.reg = .ctxFaultPolicy := h.2
  unfold State.writeFaultPolicy State.store
  dsimp only
  rw [if_neg hpol, if_pos hrel, hreg]

/-- Settles O32: each command's conditions select one branch of its meaning, and a record's effect is that of the branch its ring's
room selects, `State.writeFault_full_spec` or `State.writeFault_room_spec`. -/
theorem faultCommandsAndRecords : Obligations.FaultCommandsAndRecords := by
  refine ⟨fun s core => ⟨fun _ _ h => exec_deferredFault h, fun _ => rfl, fun _ _ h => exec_faultReadWrite h,
    fun _ _ h => exec_faultRelease h⟩, fun s k c wg group f deferred held _ => ⟨fun hfull => ?_, fun hroom hr hon => ?_⟩⟩
  · exact State.writeFault_full_spec hfull
  · exact State.writeFault_room_spec hroom hr hon

end Sys2Proof.Machine
end

section
/-! PROOFS. The exchange between the lanes of an issuing set: shfl and vote (R175, R212). -/

namespace Sys2Proof.Machine

open Sys2Proof.Claims

-- register D of an instruction that executes

theorem Issue.w_eq (x : Issue) : x.w = 32 ∨ x.w = 64 := by
  unfold Issue.w
  split
  · exact .inr rfl
  · exact .inl rfl

/-- The check of register D is one of the checks of the fields. -/
theorem Issue.mem_fieldsBad_dst (x : Issue) (n w : Nat) (ua ub uc : Use) :
    (17, !regLegal x.kd x.d w n) ∈ x.fieldsBad n (.reg w) ua ub uc := by
  simp [Issue.fieldsBad, Use.bad]

/-- Source A fits the instruction's width, so that the word `srcA` loses nothing of it. -/
theorem toNat_srcA (x : Issue) (r : Ready) (l : Nat) : (srcA x r l).toNat = r.g.src x.ka l x.a x.w := by
  rw [srcA, BitVec.toNat_ofNat, Nat.mod_eq_of_lt (r.g.src_lt x.ka l x.a x.w_eq)]

/-- An instruction that executes, whose effect writes D lane by lane, writes D and nothing else, and the set goes on. -/
theorem State.onIssue_writesD {s u : State} {x : Issue} {regs : List (Bool × Nat)} {bad : Ready → List Bad} {r : Ready} {w : Nat}
    {f : Ready → Nat → Nat} {v : Nat → Nat} (h : Executes s x regs bad r u) (hw : w = 32 ∨ w = 64)
    (hbad : (17, !regLegal x.kd x.d w r.k.desc.regs) ∈ bad r) (hv : ∀ l, f r l = v l) :
    ∃ g, WritesD x (r.lanes x.kd) w v r.g g ∧
      s.onIssue x bad regs (fun s r => s.done x r ((r.lanes x.kd).foldl (fun g l => g.dst x.kd l x.d w (f r l)) r.g))
        = .next (u.done x r g) := by
  obtain ⟨-, -, -, hgood⟩ := id h
  have hlegal : regLegal x.kd x.d w r.k.desc.regs = true := by simpa using hgood _ hbad
  obtain rfl : f r = v := funext hv
  exact ⟨_, Group.foldl_dst_writesD (f r) hw (regLegal_range hw hlegal), State.onIssue_of_executes _ h⟩

-- shfl

/-- The source lane of shfl by R175, before it is compared with the range 0 to 31. -/
def shflIndex (mode lane b : Nat) : Int :=
  if mode = 0 then ((b % 32 : Nat) : Int) else if mode = 1 then (lane : Int) - b
  else if mode = 2 then (lane : Int) + b else ((lane ^^^ (b % 32) : Nat) : Int)

/-- In the range 0 to 31, the lane that shfl reads is that of R175. -/
theorem shflLane_eq_some_iff {mode lane b j : Nat} (hj : j < 32) : shflLane mode lane b = some j ↔ shflIndex mode lane b = j := by
  unfold shflLane shflIndex
  match mode with
  | 0 => simp only [if_true, Option.some.injEq]; omega
  | 1 => by_cases h : b ≤ lane <;> simp [h] <;> omega
  | 2 => by_cases h : lane + b < 32 <;> simp [h] <;> omega
  | n + 3 => simp

/-- R175's condition on the source lane, said of the lane that shfl reads: the lanes that execute lie in the range. -/
theorem shflIndex_mem_iff {mode lane b : Nat} {lanes : List Nat} (hlanes : ∀ l ∈ lanes, l < 32) :
    (0 ≤ shflIndex mode lane b ∧ shflIndex mode lane b < 32 ∧ (shflIndex mode lane b).toNat ∈ lanes) ↔
      ∃ j ∈ lanes, shflLane mode lane b = some j := by
  constructor
  · rintro ⟨h0, h32, hmem⟩
    exact ⟨_, hmem, (shflLane_eq_some_iff (hlanes _ hmem)).2 (Int.toNat_of_nonneg h0).symm⟩
  · rintro ⟨j, hmem, hj⟩
    have hlt := hlanes j hmem
    rw [(shflLane_eq_some_iff hlt).1 hj]
    exact ⟨Int.natCast_nonneg j, by omega, hmem⟩

/-- shfl executes: each lane takes A of the lane of R175, or its own A. -/
theorem exec_shfl {s u : State} {x : Issue} {r : Ready}
    (h : Executes s x (x.regs (.reg x.w) (.reg x.w) (.reg 32) .none)
      (fun r => x.fieldsBad r.k.desc.regs (.reg x.w) (.reg x.w) (.reg 32) .none ++ x.intBad false true
        ++ [(55, decide (3 < x.cc))] ++ x.extBad r.k.desc.regs true false true false 0) r u) :
    IntGives (.shfl x) s x r u (fun l =>
      let j := shflIndex x.cc l (x.srcB r.g l 32)
      if 0 ≤ j ∧ j < 32 ∧ j.toNat ∈ r.exec then srcA x r j.toNat else srcA x r l) := by
  obtain ⟨hready, -, -, -⟩ := id h
  have hlt : ∀ l ∈ r.exec, l < 32 := fun l hl => State.ready?_exec_lt hready hl
  refine State.onIssue_writesD h x.w_eq ?_ fun l => ?_
  · simp only [List.mem_append]
    exact .inl (.inl (.inl (x.mem_fieldsBad_dst ..)))
  · simp only [shflIndex_mem_iff hlt]
    cases hsrc : shflLane x.cc l (x.srcB r.g l 32) with
    | none => simp [toNat_srcA]
    | some j =>
      by_cases hj : j ∈ r.exec
      · have hidx := (shflLane_eq_some_iff (hlt j hj)).1 hsrc
        simp [hj, hidx, toNat_srcA]
      · simp [hj, toNat_srcA]

-- vote

theorem testBit_foldl_or_two_pow (l : List Nat) (n : Nat) :
    ∀ m : Nat, (l.foldl (fun m i => m ||| 2 ^ i) m).testBit n = (m.testBit n || decide (n ∈ l)) := by
  induction l with
  | nil => simp
  | cons i l ih =>
    intro m
    rw [List.foldl_cons, ih, Nat.testBit_or, Nat.testBit_two_pow]
    simp [Bool.or_assoc, eq_comm]

theorem testBit_laneMask (l : List Nat) (n : Nat) : (laneMask l).testBit n = decide (n ∈ l) := by
  rw [laneMask, testBit_foldl_or_two_pow]
  simp

/-- vote executes: every lane that acts takes the mask of the executing lanes whose p[A] is true. -/
theorem exec_vote {s u : State} {x : Issue} {r : Ready}
    (h : Executes s x (x.regs (.reg 32) .pred .none .none)
      (fun r => x.fieldsBad r.k.desc.regs (.reg 32) .pred .none .none ++ x.intBad false false
        ++ [(53, decide (x.w = 64))] ++ x.extBad r.k.desc.regs true false false false 0) r u) :
    ∃ g, WritesD x (r.lanes x.kd) 32 (fun _ => laneMask (r.exec.filter (fun l => r.g.predAt l x.a))) r.g g ∧
      exec (.vote x) s = .next (u.done x r g) := by
  refine State.onIssue_writesD h (.inl rfl) ?_ fun _ => rfl
  simp only [List.mem_append]
  exact .inl (.inl (.inl (x.mem_fieldsBad_dst ..)))

/-- Settles O4: the lane that shfl reads is that of R175 (`shflLane_eq_some_iff`), and the bits of the mask that vote writes are those
of the executing lanes whose predicate is true (`testBit_laneMask`). -/
theorem laneExchange : Obligations.LaneExchange := by
  intro s x r u
  refine ⟨fun h => exec_shfl h, fun h => ?_⟩
  obtain ⟨g, hg, hexec⟩ := exec_vote h
  refine ⟨_, g, fun n => ?_, hg, hexec⟩
  rw [testBit_laneMask]
  simp [List.mem_filter]

end Sys2Proof.Machine
end

section
/-! PROOFS. The long-form add (R91). -/

namespace Sys2Proof.Machine

-- two's complement

/-- A number taken into w bits and read back as a two's-complement integer is its balanced remainder. -/
theorem toSigned_toUnsigned (w : Nat) (i : Int) : toSigned w (toUnsigned w i) = i.bmod (2 ^ w) := by
  have hpos : 0 < 2 ^ w := Nat.two_pow_pos w
  have hlt := Int.emod_lt_of_pos i (Int.natCast_pos.2 hpos)
  have hnn := Int.emod_nonneg i (Int.natCast_pos.2 hpos).ne'
  unfold toSigned toUnsigned
  dsimp only
  rw [Nat.mod_eq_of_lt (by omega), Int.bmod_def]
  split <;> split <;> omega

theorem AccClass.wrap_eq_bmod (c : AccClass) (v : Int) : c.wrap v = v.bmod (2 ^ (64 * c.buckets)) := toSigned_toUnsigned _ v

theorem AccClass.buckets_pos (c : AccClass) : 0 < c.buckets := by cases c <;> decide

/-- Half of the class's bucket range. -/
theorem AccClass.two_pow_half (c : AccClass) : (2 : Int) ^ (64 * c.buckets) = 2 * 2 ^ (64 * c.buckets - 1) := by
  have := c.buckets_pos
  rw [← pow_succ', show 64 * c.buckets - 1 + 1 = 64 * c.buckets by omega]

theorem AccClass.wrap_range (c : AccClass) (v : Int) :
    -2 ^ (64 * c.buckets - 1) ≤ c.wrap v ∧ c.wrap v < 2 ^ (64 * c.buckets - 1) := by
  have hpos : 0 < 2 ^ (64 * c.buckets) := Nat.two_pow_pos _
  have hhalf := c.two_pow_half
  have hle := Int.le_bmod (x := v) hpos
  have hlt := Int.bmod_lt (x := v) hpos
  rw [← c.wrap_eq_bmod] at hle hlt
  push_cast at hle hlt
  omega

/-- Within the class's range a value is kept, and only there. -/
theorem AccClass.wrap_eq_self_iff (c : AccClass) (v : Int) :
    c.wrap v = v ↔ -2 ^ (64 * c.buckets - 1) ≤ v ∧ v < 2 ^ (64 * c.buckets - 1) := by
  refine ⟨fun h => h ▸ c.wrap_range v, fun ⟨hle, hlt⟩ => ?_⟩
  have hhalf := c.two_pow_half
  rw [c.wrap_eq_bmod]
  refine Int.bmod_eq_of_le ?_ ?_ <;> push_cast <;> omega

theorem AccClass.wrap_congr (c : AccClass) (v : Int) : ∃ k : Int, v = c.wrap v + k * 2 ^ (64 * c.buckets) := by
  refine ⟨v.bdiv (2 ^ (64 * c.buckets)), ?_⟩
  have h := Int.bmod_add_bdiv v (2 ^ (64 * c.buckets))
  rw [c.wrap_eq_bmod, Int.mul_comm]
  push_cast at h ⊢
  exact h.symm

-- the parts of a sum

theorem AccClass.max_comm (a b : AccClass) : a.max b = b.max a := by cases a <;> cases b <;> rfl

theorem AccClass.max_self (a : AccClass) : a.max a = a := by cases a <;> rfl

theorem AccClass.max_assoc (a b c : AccClass) : (a.max b).max c = a.max (b.max c) := by
  cases a <;> cases b <;> cases c <;> rfl

theorem AccClass.code_max (a b : AccClass) : (a.max b).code = Nat.max a.code b.code := by cases a <;> cases b <;> rfl

/-- The side bits that a difference of classes sets. -/
def AccClass.mismatch (a b : AccClass) : Side := if a = b then 0 else SideBit.nan ||| SideBit.inv

theorem AccClass.mismatch_comm (a b : AccClass) : a.mismatch b = b.mismatch a := by cases a <;> cases b <;> rfl

/-- Three classes differ somewhere, in whichever order they meet. -/
theorem AccClass.mismatch_assoc (a b c : AccClass) :
    a.mismatch b ||| (a.max b).mismatch c = b.mismatch c ||| a.mismatch (b.max c) := by
  cases a <;> cases b <;> cases c <;> rfl

/-- The side bits of a sum. -/
def LongForm.sumSide (a b : LongForm) : Side := a.acc.side ||| b.acc.side ||| a.cls.mismatch b.cls

/-- The value of a sum of a class: 0 under NAN, otherwise the sum modulo the class's range. -/
def AccClass.sumValue (c : AccClass) (side : Side) (v : Int) : Int := if Side.has side SideBit.nan then 0 else c.wrap v

theorem Side.has_nan (s : Side) : Side.has s SideBit.nan = s.getLsbD 2 := by revert s; decide

theorem Side.nan_or (a b : Side) : Side.has (a ||| b) SideBit.nan = (Side.has a SideBit.nan || Side.has b SideBit.nan) := by
  simp only [Side.has_nan, BitVec.getLsbD_or]

theorem AccClass.nan_mismatch (a b : AccClass) : Side.has (a.mismatch b) SideBit.nan = decide (a ≠ b) := by
  cases a <;> cases b <;> rfl

theorem LongForm.eq_of_nan_sumSide {a b : LongForm} (h : Side.has (a.sumSide b) SideBit.nan = false) : a.cls = b.cls := by
  simp only [sumSide, Side.nan_or, Bool.or_eq_false_iff, AccClass.nan_mismatch, decide_eq_false_iff_not, not_not] at h
  exact h.2

/-- The side bits as the add writes them. -/
theorem LongForm.sumSide_of_differ (a b : LongForm) :
    a.acc.side ||| b.acc.side ||| (if decide (a.cls ≠ b.cls) = true then SideBit.nan ||| SideBit.inv else 0) = a.sumSide b := by
  by_cases h : a.cls = b.cls <;> simp [LongForm.sumSide, AccClass.mismatch, h]

/-- A sum by its class, its side bits and its value. -/
theorem LongForm.add_fst (a b : LongForm) :
    (a.add b).1 = ⟨a.cls.max b.cls, ⟨(a.cls.max b.cls).sumValue (a.sumSide b) (a.acc.v + b.acc.v), a.sumSide b⟩⟩ := by
  unfold LongForm.add AccClass.sumValue
  dsimp only
  rw [LongForm.sumSide_of_differ]
  split <;> rfl

/-- The events of a sum: LF_CLASS where the classes differ, LF_RANGE where a finite sum leaves the range. -/
theorem LongForm.add_snd (a b : LongForm) : (a.add b).2 =
    { cls := decide (a.cls ≠ b.cls)
      range := !Side.has (a.sumSide b) SideBit.nan &&
        decide ((a.cls.max b.cls).wrap (a.acc.v + b.acc.v) ≠ a.acc.v + b.acc.v) } := by
  unfold LongForm.add
  dsimp only
  rw [LongForm.sumSide_of_differ]
  cases hnan : Side.has (a.sumSide b) SideBit.nan with
  | true => rfl
  | false => simp [LongForm.eq_of_nan_sumSide hnan]

theorem LongForm.sumSide_comm (a b : LongForm) : a.sumSide b = b.sumSide a := by
  unfold LongForm.sumSide
  rw [BitVec.or_comm a.acc.side, AccClass.mismatch_comm]

theorem LongForm.add_comm (a b : LongForm) : (a.add b).1 = (b.add a).1 := by
  rw [LongForm.add_fst, LongForm.add_fst, LongForm.sumSide_comm, AccClass.max_comm, Int.add_comm a.acc.v]

/-- Three long forms have one union of side bits, in whichever order they meet. -/
theorem LongForm.sumSide_assoc (a b c : LongForm) : (a.add b).1.sumSide c = a.sumSide (b.add c).1 := by
  rw [LongForm.add_fst, LongForm.add_fst]
  unfold LongForm.sumSide
  calc
    _ = a.acc.side ||| b.acc.side ||| c.acc.side ||| (a.cls.mismatch b.cls ||| (a.cls.max b.cls).mismatch c.cls) := by
      dsimp only; ac_rfl
    _ = a.acc.side ||| b.acc.side ||| c.acc.side ||| (b.cls.mismatch c.cls ||| a.cls.mismatch (b.cls.max c.cls)) := by
      rw [AccClass.mismatch_assoc]
    _ = _ := by dsimp only; ac_rfl

/-- A sum of three whose side bits have no NAN: its classes are equal, and neither pair's sum has NAN. -/
theorem LongForm.nan_sumSide_add {a b c : LongForm} (h : Side.has ((a.add b).1.sumSide c) SideBit.nan = false) :
    a.cls = b.cls ∧ Side.has (a.sumSide b) SideBit.nan = false ∧ Side.has (b.sumSide c) SideBit.nan = false := by
  have h' := h
  rw [LongForm.sumSide_assoc] at h'
  simp only [LongForm.add_fst] at h h'
  unfold LongForm.sumSide at h h'
  simp only [Side.nan_or, Bool.or_eq_false_iff] at h h'
  have hab : Side.has (a.sumSide b) SideBit.nan = false := by
    unfold LongForm.sumSide; simpa only [Side.nan_or, Bool.or_eq_false_iff] using h.1.1
  have hbc : Side.has (b.sumSide c) SideBit.nan = false := by
    unfold LongForm.sumSide; simpa only [Side.nan_or, Bool.or_eq_false_iff] using h'.1.2
  exact ⟨LongForm.eq_of_nan_sumSide hab, hab, hbc⟩

theorem AccClass.wrap_wrap_add (c : AccClass) (u v : Int) : c.wrap (c.wrap u + v) = c.wrap (u + v) := by
  simp only [AccClass.wrap_eq_bmod, Int.bmod_add_bmod]

theorem AccClass.wrap_add_wrap (c : AccClass) (u v : Int) : c.wrap (u + c.wrap v) = c.wrap (u + v) := by
  simp only [AccClass.wrap_eq_bmod, Int.add_bmod_bmod]

/-- The value of a sum of three does not depend on the grouping: 0 under NAN, the whole sum modulo one range otherwise. -/
theorem LongForm.sumValue_assoc (a b c : LongForm) :
    ((a.cls.max b.cls).max c.cls).sumValue ((a.add b).1.sumSide c) ((a.add b).1.acc.v + c.acc.v) =
      ((a.cls.max b.cls).max c.cls).sumValue ((a.add b).1.sumSide c) (a.acc.v + (b.add c).1.acc.v) := by
  cases hnan : Side.has ((a.add b).1.sumSide c) SideBit.nan with
  | true => simp only [AccClass.sumValue, hnan, if_true]
  | false =>
    obtain ⟨hcls, hab, hbc⟩ := LongForm.nan_sumSide_add hnan
    have hcls' := LongForm.eq_of_nan_sumSide hbc
    simp only [AccClass.sumValue, hab, hbc, hcls, hcls', AccClass.max_self, LongForm.add_fst, Bool.false_eq_true, if_false,
      AccClass.wrap_wrap_add, AccClass.wrap_add_wrap, Int.add_assoc]

theorem LongForm.add_assoc (a b c : LongForm) : ((a.add b).1.add c).1 = (a.add (b.add c).1).1 := by
  have hvalue := LongForm.sumValue_assoc a b c
  rw [LongForm.add_fst (a.add b).1, LongForm.add_fst a (b.add c).1, ← LongForm.sumSide_assoc]
  have hleft : (a.add b).1.cls = a.cls.max b.cls := congrArg LongForm.cls (LongForm.add_fst a b)
  have hright : (b.add c).1.cls = b.cls.max c.cls := congrArg LongForm.cls (LongForm.add_fst b c)
  rw [hleft, hright, hvalue, AccClass.max_assoc]

/-- Settles O21: a sum is its class, its side bits and its value (`add_fst`), each of which commutes and associates. -/
theorem longFormAddCommutesAndAssociates : Obligations.LongFormAddCommutesAndAssociates := by
  refine ⟨fun a b => ?_, fun a b => ⟨LongForm.add_comm a b, ?_⟩, LongForm.add_assoc⟩
  · simp only [LongForm.add_fst, LongForm.add_snd]
    refine ⟨AccClass.code_max .., rfl, by simp, fun hnan => by simp [AccClass.sumValue, hnan], fun hnan => ?_⟩
    simp only [AccClass.sumValue, hnan, Bool.false_eq_true, if_false]
    obtain ⟨hle, hlt⟩ := (a.cls.max b.cls).wrap_range (a.acc.v + b.acc.v)
    refine ⟨hle, hlt, (a.cls.max b.cls).wrap_congr _, ?_⟩
    simp [← AccClass.wrap_eq_self_iff]
  · simp [LongForm.add_snd, eq_comm]

end Sys2Proof.Machine
end

section
/-! PROOFS. Packed long forms and the words of Kwaok instructions are read back (R87 to R89, R162 to R166). -/

namespace Sys2Proof.Machine

-- bytes

theorem leNat_leBytes (n : Nat) : ∀ v, leNat (leBytes n v) = v % 256 ^ n := by
  induction n with
  | zero => intro v; simp [leBytes, leNat, Nat.mod_one]
  | succ n ih =>
    intro v
    rw [Nat.pow_succ', Nat.mod_mul]
    exact congrArg₂ (fun x y => x + 256 * y) (BitVec.toNat_ofNat v 8) (ih (v / 256))

theorem leBytes_take {n m : Nat} (h : m ≤ n) (v : Nat) : (leBytes n v).take m = leBytes m v := by
  induction m generalizing n v with
  | zero => rfl
  | succ m ih =>
    obtain ⟨n, rfl⟩ : ∃ k, n = k + 1 := ⟨n - 1, by omega⟩
    simp only [leBytes, List.take_succ_cons, ih (Nat.le_of_succ_le_succ h)]

theorem toUnsigned_lt (w : Nat) (i : Int) : toUnsigned w i < 2 ^ w := by
  have hpos : (0 : Int) < (2 ^ w : Nat) := Int.natCast_pos.2 (Nat.two_pow_pos w)
  have := Int.emod_lt_of_pos i hpos
  have := Int.emod_nonneg i hpos.ne'
  unfold toUnsigned
  omega

/-- The low bits of a number are those of its two's complement. -/
theorem toUnsigned_mod {w k : Nat} (h : k ≤ w) (i : Int) : (toUnsigned w i % 2 ^ k : Nat) = i % 2 ^ k := by
  have hpos : (0 : Int) < (2 ^ w : Nat) := Int.natCast_pos.2 (Nat.two_pow_pos w)
  have hnn := Int.emod_nonneg i hpos.ne'
  unfold toUnsigned
  push_cast
  rw [Int.toNat_of_nonneg (by simpa using hnn)]
  exact Int.emod_emod_of_dvd _ (pow_dvd_pow 2 h)

-- the buckets of a value (R89)

/-- The value lies in the two's-complement range of n buckets. -/
def FitsBuckets (n : Nat) (v : Int) : Prop := -2 ^ (64 * n - 1) ≤ v ∧ v < 2 ^ (64 * n - 1)

theorem fitsBuckets_one (v : Int) : FitsBuckets 1 v ↔ -(9223372036854775808 : Int) ≤ v ∧ v < 9223372036854775808 := Iff.rfl

/-- A value lies in a range of more than one bucket where its part above the lowest bucket lies in the rest. -/
theorem fitsBuckets_succ {n : Nat} (hn : 0 < n) (v : Int) : FitsBuckets (n + 1) v ↔ FitsBuckets n (v / 18446744073709551616) := by
  have hpow : (2 : Int) ^ (64 * (n + 1) - 1) = 2 ^ (64 * n - 1) * 18446744073709551616 := by
    rw [show 64 * (n + 1) - 1 = 64 * n - 1 + 64 by omega, pow_add]; rfl
  unfold FitsBuckets
  rw [Int.le_ediv_iff_mul_le (by decide), Int.ediv_lt_iff_lt_mul (by decide), hpow, Int.neg_mul]

theorem two_pow_bucket_succ (n : Nat) : (2 : Int) ^ (64 * (1 + n)) = 18446744073709551616 * 2 ^ (64 * n) := by
  rw [Nat.mul_add, pow_add]; rfl

/-- The low buckets that a long form leaves out are zero, the lowest that it keeps is not, and the rest holds what it keeps. -/
theorem lowZeroBuckets_spec (n : Nat) : ∀ {v : Int}, v ≠ 0 → 0 < n → FitsBuckets n v →
    lowZeroBuckets n v < n ∧ ∃ u : Int, v = u * 2 ^ (64 * lowZeroBuckets n v) ∧ u % 18446744073709551616 ≠ 0 ∧
      FitsBuckets (n - lowZeroBuckets n v) u := by
  induction n with
  | zero => intro v hv h; omega
  | succ n ih =>
    intro v hv _ hfit
    unfold lowZeroBuckets
    split
    case isFalse h => exact ⟨Nat.succ_pos n, v, by rw [Nat.mul_zero, pow_zero, Int.mul_one], h, hfit⟩
    case isTrue h =>
      have hdiv := Int.mul_ediv_add_emod v 18446744073709551616
      have hn : 0 < n := by
        rcases Nat.eq_zero_or_pos n with rfl | hn
        · rw [fitsBuckets_one] at hfit; omega
        · exact hn
      obtain ⟨hlt, u, hu, hlow, hrest⟩ := ih (v := v / 18446744073709551616) (by omega) hn ((fitsBuckets_succ hn v).1 hfit)
      refine ⟨by omega, u, ?_, hlow, by rwa [Nat.add_comm n, Nat.add_sub_add_left]⟩
      rw [two_pow_bucket_succ, Int.mul_left_comm, ← hu]
      omega

/-- The count of a value's buckets is the least number of buckets in whose range it lies. -/
theorem bucketCount_spec (n : Nat) : ∀ {m : Nat} {v : Int}, 0 < m → m ≤ n → FitsBuckets m v →
    0 < bucketCount n v ∧ bucketCount n v ≤ m ∧ FitsBuckets (bucketCount n v) v := by
  induction n with
  | zero => intro m v h; omega
  | succ n ih =>
    intro m v hm hmn hfit
    unfold bucketCount
    split
    case isTrue h => exact ⟨Nat.one_pos, hm, (fitsBuckets_one v).2 h⟩
    case isFalse h =>
      obtain ⟨k, rfl⟩ : ∃ k, m = k + 1 := ⟨m - 1, by omega⟩
      have hk : 0 < k := by
        rcases Nat.eq_zero_or_pos k with rfl | hk
        · exact absurd ((fitsBuckets_one v).1 hfit) h
        · exact hk
      obtain ⟨hpos, hle, hrest⟩ := ih hk (Nat.le_of_succ_le_succ hmn) ((fitsBuckets_succ hk v).1 hfit)
      rw [Nat.add_comm 1]
      exact ⟨Nat.succ_pos _, Nat.succ_le_succ hle, (fitsBuckets_succ hpos v).2 hrest⟩

/-- A value that lies in the range of some buckets is read back from their two's complement. -/
theorem toSigned_toUnsigned_of_fits {n : Nat} {v : Int} (hn : 0 < n) (h : FitsBuckets n v) :
    toSigned (64 * n) (toUnsigned (64 * n) v) = v := by
  obtain ⟨hle, hlt⟩ := h
  have hhalf : (2 : Int) ^ (64 * n) = 2 * 2 ^ (64 * n - 1) := by
    rw [← pow_succ', show 64 * n - 1 + 1 = 64 * n by omega]
  rw [toSigned_toUnsigned]
  refine Int.bmod_eq_of_le ?_ ?_ <;> push_cast <;> omega

-- the packed form

/-- The header of a packed long form (R87). -/
def LongForm.header (l : LongForm) : List Byte :=
  [BitVec.ofNat 8 l.cls.code, BitVec.ofNat 8 l.acc.side.toNat, BitVec.ofNat 8 l.span.1, BitVec.ofNat 8 l.span.2, 0, 0, 0, 0]

/-- The kept buckets of a value, as an integer. -/
def LongForm.body (l : LongForm) : Int := l.acc.v / ((2 ^ (64 * l.span.1) : Nat) : Int)

theorem LongForm.pack_eq (l : LongForm) :
    l.pack = l.header ++ leBytes (8 * l.span.2) (toUnsigned (64 * l.span.2) l.body) := rfl

theorem LongForm.length_pack (l : LongForm) : l.pack.length = 8 + 8 * l.span.2 := by
  rw [LongForm.pack_eq, List.length_append, length_leBytes]; rfl

theorem AccClass.ofCode_code (c : AccClass) : AccClass.ofCode (BitVec.ofNat 8 c.code).toNat = some c := by cases c <;> rfl

theorem AccClass.buckets_le (c : AccClass) : c.buckets ≤ 67 := by cases c <;> decide

theorem AccClass.slotBytes_eq (c : AccClass) : c.slotBytes = 8 + 8 * c.buckets := by cases c <;> rfl

/-- The side byte is read back. -/
theorem Side.ofNat_toNat (s : Side) : (BitVec.ofNat 7 (BitVec.ofNat 8 s.toNat).toNat : Side) = s := by revert s; decide

/-- A long form's header read back, with what follows it. -/
theorem LongForm.parse_header {c : AccClass} {side : Side} {lo cnt : Nat} (hlo : lo < 256) (hcnt : cnt < 256) (rest : List Byte) :
    LongForm.parse ([BitVec.ofNat 8 c.code, BitVec.ofNat 8 side.toNat, BitVec.ofNat 8 lo, BitVec.ofNat 8 cnt, 0, 0, 0, 0] ++ rest) =
      if cnt = 0 then (if lo = 0 then some ⟨c, ⟨0, side⟩⟩ else none)
      else if lo + cnt - 1 < c.buckets then
        some ⟨c, ⟨toSigned (64 * cnt) (leNat (rest.take (8 * cnt))) * ((2 ^ (64 * lo) : Nat) : Int), side⟩⟩
      else none := by
  have hlo' : (BitVec.ofNat 8 lo).toNat = lo := by rw [BitVec.toNat_ofNat, Nat.mod_eq_of_lt hlo]
  have hcnt' : (BitVec.ofNat 8 cnt).toNat = cnt := by rw [BitVec.toNat_ofNat, Nat.mod_eq_of_lt hcnt]
  unfold LongForm.parse
  simp only [List.cons_append, List.nil_append, List.getD_cons_zero, List.getD_cons_succ, List.drop_succ_cons, List.drop_zero,
    AccClass.ofCode_code, Side.ofNat_toNat, hlo', hcnt']

/-- LO and COUNT of a value that is not 0 (R89): the value is its body at the weight of bucket LO, whose lowest bucket is not 0. -/
theorem LongForm.span_spec {l : LongForm} (hv : l.acc.v ≠ 0) (hnan : Side.has l.acc.side SideBit.nan = false)
    (hfit : FitsBuckets l.cls.buckets l.acc.v) :
    0 < l.span.2 ∧ l.span.1 + l.span.2 ≤ l.cls.buckets ∧ l.acc.v = l.body * ((2 ^ (64 * l.span.1) : Nat) : Int) ∧
      l.body % 18446744073709551616 ≠ 0 ∧ FitsBuckets l.span.2 l.body := by
  obtain ⟨hlo, u, hu, hlow, hrest⟩ := lowZeroBuckets_spec l.cls.buckets hv l.cls.buckets_pos hfit
  have hspan : l.span = (lowZeroBuckets l.cls.buckets l.acc.v,
      bucketCount l.cls.buckets (l.acc.v / ((2 ^ (64 * lowZeroBuckets l.cls.buckets l.acc.v) : Nat) : Int))) :=
    if_neg (by simp [hv, hnan])
  have hbody : l.acc.v / ((2 ^ (64 * lowZeroBuckets l.cls.buckets l.acc.v) : Nat) : Int) = u := by
    generalize lowZeroBuckets l.cls.buckets l.acc.v = lo at hu
    rw [hu]
    push_cast
    exact Int.mul_ediv_cancel _ (by positivity)
  obtain ⟨hpos, hle, hcnt⟩ := bucketCount_spec l.cls.buckets (by omega) (Nat.sub_le _ _) hrest
  rw [LongForm.body, hspan]
  simp only [hbody]
  exact ⟨hpos, by omega, by push_cast; exact hu, hlow, hcnt⟩

/-- A value of 0 takes no bucket. -/
theorem LongForm.span_of_zero {l : LongForm} (hv : l.acc.v = 0) : l.span = (0, 0) := if_pos (.inl hv)

section Canonical

variable {l : LongForm} (hfit : FitsBuckets l.cls.buckets l.acc.v) (hnan : Side.has l.acc.side SideBit.nan = true → l.acc.v = 0)

include hfit hnan

theorem LongForm.span_le : l.span.1 + l.span.2 ≤ l.cls.buckets := by
  by_cases hv : l.acc.v = 0
  · rw [LongForm.span_of_zero hv]; exact Nat.zero_le _
  · exact (LongForm.span_spec hv (by simpa using mt hnan hv) hfit).2.1

/-- A canonical long form is read back, whatever is written behind it. -/
theorem LongForm.parse_pack_append (tail : List Byte) : LongForm.parse (l.pack ++ tail) = some l := by
  have hle := LongForm.span_le hfit hnan
  have hbuckets := l.cls.buckets_le
  rw [LongForm.pack_eq, List.append_assoc, LongForm.header, LongForm.parse_header (by omega) (by omega)]
  by_cases hv : l.acc.v = 0
  · rw [LongForm.span_of_zero hv, if_pos rfl, if_pos rfl, ← hv]
  · obtain ⟨hpos, -, hvalue, -, hbody⟩ := LongForm.span_spec hv (by simpa using mt hnan hv) hfit
    have hraw : leNat ((leBytes (8 * l.span.2) (toUnsigned (64 * l.span.2) l.body) ++ tail).take (8 * l.span.2)) =
        toUnsigned (64 * l.span.2) l.body := by
      rw [List.take_left' (length_leBytes _ _), leNat_leBytes, show 256 ^ (8 * l.span.2) = 2 ^ (64 * l.span.2) by
        rw [show 256 = 2 ^ 8 from rfl, ← Nat.pow_mul]; congr 1; omega]
      exact Nat.mod_eq_of_lt (toUnsigned_lt _ _)
    rw [if_neg (by omega), if_pos (by omega), hraw, toSigned_toUnsigned_of_fits hpos hbody, ← hvalue]

/-- The lowest bucket that a canonical long form keeps is not 0. -/
theorem LongForm.lowest_bucket_ne_zero (hv : l.acc.v ≠ 0) : leNat ((l.pack.drop 8).take 8) ≠ 0 := by
  obtain ⟨hpos, -, -, hlow, -⟩ := LongForm.span_spec hv (by simpa using mt hnan hv) hfit
  rw [LongForm.pack_eq, List.drop_left' (by rfl), leBytes_take (by omega), leNat_leBytes]
  have hmod := toUnsigned_mod (w := 64 * l.span.2) (k := 64) (by omega) l.body
  intro h
  rw [show (256 : Nat) ^ 8 = 2 ^ 64 from rfl] at h
  rw [h] at hmod
  exact hlow hmod.symm

theorem LongForm.length_slot : l.slot.length = l.cls.slotBytes := by
  have hle := LongForm.span_le hfit hnan
  have hsize := l.cls.slotBytes_eq
  unfold LongForm.slot
  rw [List.length_append, List.length_replicate, LongForm.length_pack]
  omega

end Canonical

-- the words of Kwaok instructions (R162 to R166)

section BaseWord

variable {cls op : Nat} {x : Issue} (hcls : cls < 16) (hop : op < 256) (hgp : x.gp < 8) (hd : x.d < 256) (ha : x.a < 256) (hb : x.b < 256)
  (hc : x.c < 256) (hmod : x.mod < 2 ^ 15)

include hcls hop hgp hd ha hb hc hmod

/-- The fields of a base word are read back. -/
theorem bits_baseWord :
    (baseWord cls op x).bits 3 0 = cls ∧ (baseWord cls op x).bits 11 4 = op ∧
      (baseWord cls op x).bits 12 12 = (if x.ext.isSome then 1 else 0) ∧ (baseWord cls op x).bits 15 13 = x.gp ∧
      (baseWord cls op x).bits 16 16 = (if x.gn then 1 else 0) ∧ (baseWord cls op x).bits 24 17 = x.d ∧
      (baseWord cls op x).bits 32 25 = x.a ∧ (baseWord cls op x).bits 40 33 = x.b ∧ (baseWord cls op x).bits 48 41 = x.c ∧
      (baseWord cls op x).bits 63 49 = x.mod := by
  have hext : (if x.ext.isSome = true then 1 else 0) < 2 := by split <;> decide
  have hgn : (if x.gn = true then 1 else 0) < 2 := by split <;> decide
  unfold baseWord Word.bits
  generalize (if x.ext.isSome = true then 1 else 0) = e at *
  generalize (if x.gn = true then 1 else 0) = g at *
  simp only [BitVec.toNat_ofNat, Nat.shiftRight_eq_div_pow]
  refine ⟨?_, ?_, ?_, ?_, ?_, ?_, ?_, ?_, ?_, ?_⟩ <;> omega

end BaseWord

/-- The class and the opcode of an instruction name it. -/
theorem kwaokInstr_of_kwaok {i : Instr} {cls op : Nat} {x : Issue} (h : i.kwaok = some (cls, op, x)) :
    kwaokInstr cls op x = some i := by
  cases i <;> cases h <;> rfl

/-- A class takes four bits and an opcode eight (R165). -/
theorem kwaok_code_lt {i : Instr} {cls op : Nat} {x : Issue} (h : i.kwaok = some (cls, op, x)) : cls < 16 ∧ op < 256 := by
  cases i <;> cases h <;> omega

/-- A word with the class, the opcode and the fields of an instruction spells it. -/
theorem decode_of_bits {w next : Word} {i : Instr} {cls op : Nat} {x : Issue} (h : i.kwaok = some (cls, op, x)) (hres : x.reserved = none)
    (hcls : w.bits 3 0 = cls) (hop : w.bits 11 4 = op) (hext : (if w.bits 12 12 = 1 then some next else none) = x.ext)
    (hgp : w.bits 15 13 = x.gp) (hgn : decide (w.bits 16 16 = 1) = x.gn) (hd : w.bits 24 17 = x.d) (ha : w.bits 32 25 = x.a)
    (hb : w.bits 40 33 = x.b) (hc : w.bits 48 41 = x.c) (hmod : w.bits 63 49 = x.mod) :
    decode x.core x.pos x.lane w next = i := by
  have hx : (⟨x.core, x.pos, x.lane, x.gp, x.gn, x.d, x.a, x.b, x.c, x.mod, x.ext, none⟩ : Issue) = x := by rw [← hres]
  unfold decode
  dsimp only
  rw [hcls, hop, hext, hgp, hgn, hd, ha, hb, hc, hmod, hx, kwaokInstr_of_kwaok h]

/-- The words of an instruction are read back as the instruction. -/
theorem decode_baseWord {i : Instr} {cls op : Nat} {x : Issue} (h : i.kwaok = some (cls, op, x)) (hgp : x.gp < 8) (hd : x.d < 256)
    (ha : x.a < 256) (hb : x.b < 256) (hc : x.c < 256) (hmod : x.mod < 2 ^ 15) (hres : x.reserved = none) (next : Word) :
    decode x.core x.pos x.lane (baseWord cls op x) (x.ext.getD next) = i := by
  obtain ⟨hcls, hop⟩ := kwaok_code_lt h
  obtain ⟨hcls, hop, hext, hgp, hgn, hd, ha, hb, hc, hmod⟩ := bits_baseWord hcls hop hgp hd ha hb hc hmod
  refine decode_of_bits h hres hcls hop ?_ hgp ?_ hd ha hb hc hmod
  · rw [hext]; cases x.ext <;> rfl
  · rw [hgn]; cases x.gn <;> rfl

/-- Settles O22: the header and the kept buckets of a canonical long form are read back (`parse_pack_append`), and so are the fields of
a base word (`bits_baseWord`), whose class and opcode name the instruction (`kwaokInstr_of_kwaok`). -/
theorem encodingsReadBack : Obligations.EncodingsReadBack := by
  refine ⟨fun l hle hlt hnan => ?_, fun i cls op x h hgp hd ha hb hc hmod hres => ⟨?_, ?_⟩⟩
  · have hfit : FitsBuckets l.cls.buckets l.acc.v := ⟨hle, hlt⟩
    refine ⟨?_, ?_, LongForm.length_slot hfit hnan, fun hv => ?_, LongForm.lowest_bucket_ne_zero hfit hnan⟩
    · simpa using LongForm.parse_pack_append hfit hnan []
    · unfold LongForm.read LongForm.slot
      rw [LongForm.parse_pack_append hfit hnan]
    · rw [LongForm.length_pack, LongForm.span_of_zero hv]; rfl
  · unfold encode; rw [h]; rfl
  · exact decode_baseWord h hgp hd ha hb hc hmod hres

end Sys2Proof.Machine
end

section
/-! PROOFS. The integer instructions and those of predicates (R173, R174). -/

namespace Sys2Proof.Machine

open Sys2Proof.Claims

-- the machine's integer arithmetic, said of words

section Words

variable {w : Nat} (a b : BitVec w)

theorem toSigned_toNat : toSigned w a.toNat = a.toInt := by
  unfold toSigned
  rw [Nat.mod_eq_of_lt a.isLt, BitVec.toInt]

theorem asInt_toNat (signed : Bool) : asInt signed w a.toNat = if signed then a.toInt else (a.toNat : Int) := by
  unfold asInt
  rw [toSigned_toNat]

theorem ofNat_toUnsigned (i : Int) : BitVec.ofNat w (toUnsigned w i) = BitVec.ofInt w i := by
  apply BitVec.eq_of_toNat_eq
  rw [BitVec.toNat_ofNat, BitVec.toNat_ofInt, Nat.mod_eq_of_lt (toUnsigned_lt w i), toUnsigned]

theorem toNat_ofInt_eq_toUnsigned (i : Int) : (BitVec.ofInt w i).toNat = toUnsigned w i := BitVec.toNat_ofInt i

theorem ofNat_add_two_pow_sub : BitVec.ofNat w (a.toNat + 2 ^ w - b.toNat) = a - b := by
  apply BitVec.eq_of_toNat_eq
  rw [BitVec.toNat_ofNat, BitVec.toNat_sub, Nat.add_comm, Nat.sub_add_comm (Nat.le_of_lt b.isLt)]

/-- The high half of a product, of the sign-extended or the zero-extended factors. -/
theorem ofNat_mulhi (signed : Bool) :
    BitVec.ofNat w (toUnsigned (2 * w) (asInt signed w a.toNat * asInt signed w b.toNat) / 2 ^ w) =
      if signed then (a.signExtend (2 * w) * b.signExtend (2 * w)).extractLsb' w w
      else (a.zeroExtend (2 * w) * b.zeroExtend (2 * w)).extractLsb' w w := by
  have hzero (c : BitVec w) : c.zeroExtend (2 * w) = BitVec.ofInt (2 * w) c.toNat := by
    apply BitVec.eq_of_toNat_eq
    rw [BitVec.ofInt_natCast, BitVec.toNat_ofNat]; exact BitVec.toNat_setWidth ..
  cases signed <;>
    simp only [asInt_toNat, if_true, if_false, Bool.false_eq_true, BitVec.signExtend, hzero, ← BitVec.ofInt_mul,
      ← toNat_ofInt_eq_toUnsigned] <;>
    apply BitVec.eq_of_toNat_eq <;>
    rw [BitVec.extractLsb'_toNat, BitVec.toNat_ofNat, Nat.shiftRight_eq_div_pow]

theorem ofNat_toNat_self : BitVec.ofNat w a.toNat = a := by rw [BitVec.ofNat_toNat, BitVec.setWidth_eq]

theorem ofNat_add_toNat : BitVec.ofNat w (a.toNat + b.toNat) = a + b := by simp [BitVec.ofNat_add]

theorem ofNat_mul_toNat : BitVec.ofNat w (a.toNat * b.toNat) = a * b := by simp [BitVec.ofNat_mul]

theorem ofNat_and_toNat : BitVec.ofNat w (a.toNat &&& b.toNat) = a &&& b := by rw [← BitVec.toNat_and, ofNat_toNat_self]

theorem ofNat_or_toNat : BitVec.ofNat w (a.toNat ||| b.toNat) = a ||| b := by rw [← BitVec.toNat_or, ofNat_toNat_self]

theorem ofNat_xor_toNat : BitVec.ofNat w (a.toNat ^^^ b.toNat) = a ^^^ b := by rw [← BitVec.toNat_xor, ofNat_toNat_self]

/-- The order that S selects. -/
theorem asInt_lt_iff (signed : Bool) :
    asInt signed w a.toNat < asInt signed w b.toNat ↔ (if signed then a.slt b else a.ult b) = true := by
  cases signed
  · simp [asInt_toNat, BitVec.ult_iff_toNat_lt]
  · simp [asInt_toNat, BitVec.slt_iff_toInt_lt]

theorem asInt_inj (signed : Bool) : asInt signed w a.toNat = asInt signed w b.toNat ↔ a = b := by
  cases signed
  · simp [asInt_toNat, BitVec.toNat_inj]
  · simp [asInt_toNat, BitVec.toInt_inj]

/-- The lesser of two words in the order that S selects, the first where they are equal. -/
theorem ofNat_min (signed : Bool) :
    BitVec.ofNat w (if asInt signed w a.toNat ≤ asInt signed w b.toNat then a.toNat else b.toNat) =
      if (if signed then b.slt a else b.ult a) then b else a := by
  rw [← ite_not, apply_ite (BitVec.ofNat w)]
  simp only [Int.not_le, asInt_lt_iff, ofNat_toNat_self]

/-- The greater of two words in the order that S selects, the first where they are equal. -/
theorem ofNat_max (signed : Bool) :
    BitVec.ofNat w (if asInt signed w a.toNat ≤ asInt signed w b.toNat then b.toNat else a.toNat) =
      if (if signed then a.slt b else a.ult b) then b else a := by
  by_cases hab : a = b
  · simp [hab]
  · have hle : asInt signed w a.toNat ≤ asInt signed w b.toNat ↔ asInt signed w a.toNat < asInt signed w b.toNat :=
      Int.le_iff_lt_or_eq.trans (or_iff_left (mt (asInt_inj a b signed).1 hab))
    simp only [hle, asInt_lt_iff, apply_ite (BitVec.ofNat w), ofNat_toNat_self]

theorem ofNat_not : BitVec.ofNat w (2 ^ w - 1 - a.toNat) = ~~~a := by
  apply BitVec.eq_of_toNat_eq
  rw [BitVec.toNat_ofNat, BitVec.toNat_not, Nat.mod_eq_of_lt (by have := a.isLt; omega)]

theorem ofNat_shl (n : Nat) : BitVec.ofNat w (a.toNat * 2 ^ n) = a <<< n := by
  apply BitVec.eq_of_toNat_eq
  rw [BitVec.toNat_ofNat, BitVec.toNat_shiftLeft, Nat.shiftLeft_eq]

theorem ofNat_shr (n : Nat) : BitVec.ofNat w (a.toNat / 2 ^ n) = a >>> n := by
  rw [← Nat.shiftRight_eq_div_pow, ← BitVec.toNat_ushiftRight, BitVec.ofNat_toNat, BitVec.setWidth_eq]

theorem ofNat_sar (n : Nat) : BitVec.ofNat w (toUnsigned w (toSigned w a.toNat / (2 ^ n : Nat))) = a.sshiftRight n := by
  rw [ofNat_toUnsigned, toSigned_toNat, BitVec.sshiftRight, Int.shiftRight_eq_div_pow]

theorem length_takeWhile_range {p : Nat → Bool} {n c : Nat} (hc : c ≤ n) (hall : ∀ k < c, p k = true) (hstop : c < n → p c = false) :
    ((List.range n).takeWhile p).length = c := by
  obtain ⟨d, rfl⟩ := Nat.exists_eq_add_of_le hc
  rw [List.range_add, List.takeWhile_append_of_pos (by simpa using hall), List.length_append, List.length_range]
  cases d with
  | zero => rfl
  | succ d => simp [List.range_succ_eq_map, hstop (by omega)]

/-- The leading zeros counted from the top bit down. -/
theorem ofNat_clz (hw : 0 < w) : BitVec.ofNat w ((List.range w).takeWhile (fun k => !a.toNat.testBit (w - 1 - k))).length = a.clz := by
  have hlow := BitVec.toNat_lt_two_pow_sub_clz (x := a)
  have hwidth : (w : BitVec w).toNat = w := by
    rw [BitVec.natCast_eq_ofNat, BitVec.toNat_ofNat, Nat.mod_eq_of_lt Nat.lt_two_pow_self]
  have hle : a.clz.toNat ≤ w := by simpa only [BitVec.le_def, hwidth] using BitVec.clz_le (x := a)
  rw [length_takeWhile_range hle, BitVec.ofNat_toNat, BitVec.setWidth_eq]
  · intro k hk
    rw [Nat.testBit_lt_two_pow (hlow.trans_le (Nat.pow_le_pow_right (by decide) (by omega)))]; rfl
  · intro hlt
    have hne : a ≠ 0 := fun h => by rw [BitVec.clz_eq_iff_eq_zero.2 h, hwidth] at hlt; exact Nat.lt_irrefl _ hlt
    have htop := BitVec.getLsbD_true_clz_of_ne_zero hw hne
    rw [BitVec.getLsbD] at htop
    rw [htop]; rfl

/-- The bits of a field: those of A from bit B below the length, and above it the sign or 0. -/
theorem getLsbD_bitField {w k : Nat} (hk : k < w) (a : BitVec w) (b len : Nat) (signed : Bool) :
    (BitVec.ofNat w (bitField w a.toNat b len signed)).getLsbD k =
      if k < len then a.getLsbD (b + k) else signed && decide (0 < len) && a.getLsbD (b + len - 1) := by
  have hfield : (if w ≤ b then 0 else a.toNat / 2 ^ b % 2 ^ len) = (BitVec.ofNat len (a.toNat / 2 ^ b)).toNat := by
    rw [BitVec.toNat_ofNat]
    split
    case isTrue h => rw [Nat.div_eq_of_lt (a.isLt.trans_le (Nat.pow_le_pow_right (by decide) h)), Nat.zero_mod]
    case isFalse => rfl
  have hbit (j : Nat) : (a.toNat / 2 ^ b).testBit j = a.getLsbD (b + j) := by
    rw [← Nat.shiftRight_eq_div_pow, Nat.testBit_shiftRight]; rfl
  unfold bitField
  rw [hfield]
  rcases Nat.eq_zero_or_pos len with rfl | hlen
  · simp
  · rw [if_neg hlen.ne']
    cases signed with
    | false => simp only [Bool.false_eq_true, if_false, BitVec.getLsbD_ofNat, BitVec.toNat_ofNat, Nat.testBit_mod_two_pow, hbit, hk]; simp
    | true =>
      simp only [if_true, toSigned_toNat, ofNat_toUnsigned]
      rw [← BitVec.signExtend, BitVec.getLsbD_signExtend, BitVec.msb_eq_getLsbD_last]
      simp only [BitVec.getLsbD_ofNat, hbit, hk, decide_true, Bool.true_and, hlen]
      split
      case isTrue h => simp [h]
      case isFalse => simp [Nat.add_sub_assoc hlen, hlen]

end Words

-- the sources

/-- Source B fits the instruction's width, so that the word `srcB` loses nothing of it. -/
theorem toNat_srcB (x : Issue) (r : Ready) (l : Nat) : (srcB x r l).toNat = x.srcB r.g l x.w := by
  rw [srcB, BitVec.toNat_ofNat, Nat.mod_eq_of_lt]
  unfold Issue.srcB
  split
  · exact toUnsigned_lt _ _
  · exact r.g.src_lt x.kb l x.b x.w_eq

/-- Source C fits the instruction's width, so that the word `srcC` loses nothing of it. -/
theorem toNat_srcC (x : Issue) (r : Ready) (l : Nat) : (srcC x r l).toNat = r.g.src x.kc l x.c x.w := by
  rw [srcC, BitVec.toNat_ofNat, Nat.mod_eq_of_lt (r.g.src_lt x.kc l x.c x.w_eq)]

-- an integer instruction that executes

theorem Issue.w_pos (x : Issue) : 0 < x.w := by rcases x.w_eq with h | h <;> omega

/-- An integer instruction that executes writes in each lane the value of its function there. -/
theorem State.intOp_gives {i : Instr} {s u : State} {x : Issue} {r : Ready} {ua ub uc : Use} {bi sgn : Bool} {f : Group → Nat → Nat}
    {v : Nat → BitVec x.w} (h : IntExecutes s x ua ub uc bi sgn r u) (hi : exec i s = s.intOp x ua ub uc bi sgn f)
    (hv : ∀ l, BitVec.ofNat x.w (f r.g l) = v l) : IntGives i s x r u v := by
  rw [IntGives, hi]
  refine State.onIssue_writesD h x.w_eq ?_ fun l => ?_
  · simp only [List.mem_append]
    exact .inl (.inl (x.mem_fieldsBad_dst ..))
  · rw [← hv, BitVec.toNat_ofNat]

section TwoSources

variable {i : Instr} {s u : State} {x : Issue} {r : Ready}

theorem State.int1_gives {f : Nat → Nat} {v : BitVec x.w → BitVec x.w} (h : IntExecutes s x (.reg x.w) .none .none false false r u)
    (hi : exec i s = s.int1 x f) (hv : ∀ a : BitVec x.w, BitVec.ofNat x.w (f a.toNat) = v a) :
    IntGives i s x r u (fun l => v (srcA x r l)) :=
  State.intOp_gives h hi fun l => by rw [← toNat_srcA]; exact hv _

theorem State.int2_gives {sgn : Bool} {f : Nat → Nat → Nat} {v : BitVec x.w → BitVec x.w → BitVec x.w}
    (h : IntExecutes s x (.reg x.w) (.reg x.w) .none true sgn r u) (hi : exec i s = s.int2 x sgn f)
    (hv : ∀ a b : BitVec x.w, BitVec.ofNat x.w (f a.toNat b.toNat) = v a b) :
    IntGives i s x r u (fun l => v (srcA x r l) (srcB x r l)) :=
  State.intOp_gives h hi fun l => by rw [← toNat_srcA, ← toNat_srcB]; exact hv _ _

end TwoSources

/-- Settles O1: each instruction gives the value of its function of the sources (`State.int2_gives`), which is that of R173. -/
theorem integerArithmeticResults : Obligations.IntegerArithmeticResults := by
  intro s x r u
  refine ⟨fun h => ?_, fun h => ⟨?_, ?_, ?_⟩, fun h => ⟨?_, ?_, ?_⟩, fun h => ?_⟩
  · exact State.int1_gives (i := .mov x) (v := fun a => a) h (show execMov x s = _ from rfl) ofNat_toNat_self
  · exact State.int2_gives (i := .add x) (v := (· + ·)) h (show execAdd x s = _ from rfl) ofNat_add_toNat
  · exact State.int2_gives (i := .sub x) (v := (· - ·)) h (show execSub x s = _ from rfl) ofNat_add_two_pow_sub
  · exact State.int2_gives (i := .mul x) (v := (· * ·)) h (show execMul x s = _ from rfl) ofNat_mul_toNat
  · exact State.int2_gives (i := .mulhi x) (v := fun a b => _) h (show execMulhi x s = _ from rfl) fun a b => ofNat_mulhi a b x.sgn
  · exact State.int2_gives (i := .min x) (v := fun a b => _) h (show execMin x s = _ from rfl) fun a b => ofNat_min a b x.sgn
  · exact State.int2_gives (i := .max x) (v := fun a b => _) h (show execMax x s = _ from rfl) fun a b => ofNat_max a b x.sgn
  · exact State.intOp_gives (i := .mad x) h (show execMad x s = _ from rfl) fun l => by
      rw [← toNat_srcA, ← toNat_srcB, ← toNat_srcC, BitVec.ofNat_add, BitVec.ofNat_mul]; simp only [ofNat_toNat_self]

/-- Settles O2: each instruction gives the value of its function of the sources; the words of R173 are those of the lemmas on words
(`ofNat_shl`, `ofNat_sar`, `ofNat_clz`, `getLsbD_bitField`). -/
theorem integerLogicResults : Obligations.IntegerLogicResults := by
  intro s x r u
  refine ⟨fun h => ⟨?_, ?_, ?_, ?_, ?_, ?_⟩, fun h => ⟨?_, ?_, ?_⟩, fun h => ?_⟩
  · exact State.int2_gives (i := .and x) (v := (· &&& ·)) h (show execAnd x s = _ from rfl) ofNat_and_toNat
  · exact State.int2_gives (i := .or x) (v := (· ||| ·)) h (show execOr x s = _ from rfl) ofNat_or_toNat
  · exact State.int2_gives (i := .xor x) (v := (· ^^^ ·)) h (show execXor x s = _ from rfl) ofNat_xor_toNat
  · exact State.int2_gives (i := .shl x) (v := fun a b => _) h (show execShl x s = _ from rfl) fun a b => ofNat_shl a _
  · exact State.int2_gives (i := .shr x) (v := fun a b => _) h (show execShr x s = _ from rfl) fun a b => ofNat_shr a _
  · exact State.int2_gives (i := .sar x) (v := fun a b => _) h (show execSar x s = _ from rfl) fun a b => ofNat_sar a _
  · exact State.int1_gives (i := .not x) (v := (~~~·)) h (show execNot x s = _ from rfl) ofNat_not
  · exact State.int1_gives (i := .popc x) (v := fun a => _) h (show execPopc x s = _ from rfl) fun a => by
      rw [← List.countP_eq_length_filter]
  · exact State.int1_gives (i := .clz x) (v := BitVec.clz) h (show execClz x s = _ from rfl) fun a => ofNat_clz a x.w_pos
  · refine ⟨_, State.intOp_gives (i := .bfe x) h (show execBfe x s = _ from rfl) fun l => rfl, fun l k hk => ?_⟩
    rw [← toNat_srcA, ← toNat_srcB, ← toNat_srcC, getLsbD_bitField hk]

-- predicates

/-- Values that agree in the lanes that act are written alike. -/
theorem WritesD_congr {x : Issue} {r : Ready} {w : Nat} {v v' : Nat → Nat} {h g : Group} (hv : ∀ l ∈ r.lanes x.kd, v l = v' l)
    (hg : WritesD x (r.lanes x.kd) w v h g) : WritesD x (r.lanes x.kd) w v' h g := by
  obtain ⟨hvec, huni, hrest⟩ := hg
  refine ⟨fun l n hn => ?_, fun n => ?_, hrest⟩
  · rw [hvec l n hn]
    split
    case isTrue hc => rw [hv l hc.2.1]
    case isFalse => rfl
  · rw [huni n]
    split
    case isTrue hc =>
      have hmem : 32 ∈ r.lanes x.kd := by
        have hne := hc.2.1
        rw [hc.1] at hne ⊢
        unfold Ready.lanes at hne ⊢
        simp_all
      rw [hv 32 hmem]
    case isFalse => rfl

/-- The lanes that act: the executing ones, below 32, or lane 32 for the group. -/
theorem Ready.mem_lanes {s : State} {x : Issue} {r : Ready} (h : s.ready? x = some r) {once : Bool} {l : Nat} (hl : l ∈ r.lanes once) :
    if once then l = 32 else l < 32 := by
  unfold Ready.lanes at hl
  cases once with
  | false => exact State.ready?_exec_lt h hl
  | true =>
    rw [if_pos rfl] at hl ⊢
    split at hl
    · cases hl
    · exact List.mem_singleton.1 hl

/-- An instruction that executes, whose effect writes predicate D lane by lane, writes it and nothing else, and the set goes on. -/
theorem State.onIssue_writesP {s u : State} {x : Issue} {regs : List (Bool × Nat)} {bad : Ready → List Bad} {r : Ready}
    {f : Ready → Nat → Bool} {v : Nat → Bool} (h : Executes s x regs bad r u) (hbad : (17, decide (7 < x.d)) ∈ bad r)
    (hv : ∀ l, f r l = v l) :
    ∃ g, WritesP x r.exec v r.g g ∧
      s.onIssue x bad regs (fun s r => s.done x r (r.exec.foldl (fun g l => g.writePred l x.d (f r l)) r.g)) = .next (u.done x r g) := by
  obtain ⟨hready, -, -, hgood⟩ := id h
  have hd : x.d ≤ 7 := by simpa using hgood _ hbad
  obtain rfl : f r = v := funext hv
  exact ⟨_, Group.foldl_writePred_writesP (f r) hd r.exec (fun l hl => State.ready?_exec_lt hready hl) r.g,
    State.onIssue_of_executes _ h⟩

theorem Issue.mem_fieldsBad_pred (x : Issue) (n : Nat) (ua ub uc : Use) : (17, decide (7 < x.d)) ∈ x.fieldsBad n .pred ua ub uc := by
  simp [Issue.fieldsBad, Use.bad]

/-- The conditions of cmp in the order that S selects. -/
theorem intCond_eq {w : Nat} (a b : BitVec w) (signed : Bool) (cc : Nat) :
    intCond cc (asInt signed w a.toNat) (asInt signed w b.toNat) =
      let less := fun (a b : BitVec w) => if signed then a.slt b else a.ult b
      if cc = 0 then decide (a = b) else if cc = 1 then decide (a ≠ b) else if cc = 2 then less a b
      else if cc = 3 then !less b a else if cc = 4 then less b a else !less a b := by
  have hlt (a b : BitVec w) : decide (asInt signed w a.toNat < asInt signed w b.toNat) = if signed then a.slt b else a.ult b := by
    rw [Bool.eq_iff_iff, decide_eq_true_iff, asInt_lt_iff]
  have hle (a b : BitVec w) : decide (asInt signed w a.toNat ≤ asInt signed w b.toNat) = !(if signed then b.slt a else b.ult a) := by
    rw [← hlt, ← decide_not]; simp only [Int.not_lt]
  match cc with
  | 0 => simp [intCond, asInt_inj]
  | 1 => simp [intCond, asInt_inj]
  | 2 => exact hlt a b
  | 3 => exact hle a b
  | 4 => exact hlt b a
  | n + 5 => exact hle b a

/-- sel executes: each lane that acts takes A where its predicate is true, B elsewhere; the group's lane has the predicate of the lowest
executing thread. -/
theorem exec_sel {s u : State} {x : Issue} {r : Ready} (h : IntExecutes s x (.reg x.w) (.reg x.w) .pred true false r u)
    {v : Nat → BitVec x.w}
    (hv : ∀ l ∈ r.lanes x.kd, (if r.g.predAt (if l = 32 then r.exec.headD 0 else l) x.c then srcA x r l else srcB x r l) = v l) :
    IntGives (.sel x) s x r u v := by
  obtain ⟨hready, -, -, -⟩ := id h
  obtain ⟨g, hg, hexec⟩ := State.onIssue_writesD h x.w_eq (f := fun r l =>
      if r.g.predAt (if l = 32 then r.exec.headD 0 else l) x.c then r.g.src x.ka l x.a x.w else x.srcB r.g l x.w)
    (by simp only [List.mem_append]; exact .inl (.inl (x.mem_fieldsBad_dst ..))) (fun l => rfl)
  refine ⟨g, WritesD_congr (fun l hl => ?_) hg, hexec⟩
  rw [← hv l hl, apply_ite BitVec.toNat, toNat_srcA, toNat_srcB]

/-- Settles O3: sel writes D (`exec_sel`), cmp and pop write a predicate by their condition (`intCond_eq`) or operation. -/
theorem predicateInstructions : Obligations.PredicateInstructions := by
  intro s x r u
  refine ⟨fun h hk => exec_sel h fun l hl => ?_, fun h hk => exec_sel h fun l hl => ?_, fun h => ?_, fun h => ?_⟩
  · have hl := Ready.mem_lanes h.1 hl
    rw [hk, if_neg Bool.false_ne_true] at hl
    rw [if_neg hl.ne]
  · have hl := Ready.mem_lanes h.1 hl
    rw [hk, if_pos rfl] at hl
    rw [if_pos hl, hl]
  · refine State.onIssue_writesP h ?_ fun l => ?_
    · simp only [List.mem_append]
      exact .inl (.inl (.inl (x.mem_fieldsBad_pred ..)))
    · rw [← toNat_srcA, ← toNat_srcB, intCond_eq]
  · refine State.onIssue_writesP h ?_ fun l => ?_
    · simp only [List.mem_append]
      exact .inl (.inl (.inl (x.mem_fieldsBad_pred ..)))
    · match x.cc with
      | 0 => rfl
      | 1 => rfl
      | 2 => rfl
      | n + 3 => rfl

end Sys2Proof.Machine
end

section
/-! PROOFS. The floating-point instructions, the function unit and the conversions (R62, R69 to R71, R156, R158, R174, R176 to R181). -/

namespace Sys2Proof.Machine

open Sys2Proof.Claims

-- flags (R60, R62)

theorem FpFlags.testBit_toNat (f : FpFlags) (k : Nat) :
    f.toNat.testBit k = [f.iv, f.dz, f.of, f.uf, f.nx, f.flush].getD k false := by
  obtain ⟨iv, dz, of, uf, nx, flush⟩ := f
  by_cases hk : k < 6
  · revert iv dz of uf nx flush; revert k; decide
  · rw [List.getD_eq_default _ _ (Nat.le_of_not_lt hk)]
    refine Nat.testBit_lt_two_pow (Nat.lt_of_lt_of_le ?_ (Nat.pow_le_pow_right (by decide) (Nat.le_of_not_lt hk)))
    revert iv dz of uf nx flush; decide

@[simp] theorem FpFlags.testBit_or (a b : FpFlags) (k : Nat) : (a.or b).toNat.testBit k = (a.toNat.testBit k || b.toNat.testBit k) := by
  simp only [FpFlags.testBit_toNat]
  match k with
  | 0 | 1 | 2 | 3 | 4 | 5 | n + 6 => rfl

@[simp] theorem FpFlags.testBit_none (k : Nat) : FpFlags.none.toNat.testBit k = false := Nat.zero_testBit k

/-- Flags gathered over a list are those that some element raises. -/
theorem FpFlags.testBit_foldl_or {α : Type} (φ : α → FpFlags) (ls : List α) (k : Nat) :
    ∀ fl : FpFlags, (ls.foldl (fun fl l => fl.or (φ l)) fl).toNat.testBit k = true ↔
      fl.toNat.testBit k = true ∨ ∃ l ∈ ls, (φ l).toNat.testBit k = true := by
  induction ls with
  | nil => simp
  | cons l ls ih => intro fl; simp [ih, or_assoc]

theorem flagsOf_foldl {lanes : List Nat} {n : Nat} {φ : Nat → FpFlags} {f : Nat → Nat → FpFlags}
    (h : ∀ l ∈ lanes, ∀ k, (φ l).toNat.testBit k = true ↔ ∃ e < n, (f l e).toNat.testBit k = true) :
    FlagsOf lanes n f (lanes.foldl (fun fl l => fl.or (φ l)) .none) := by
  intro k
  simp only [FpFlags.testBit_foldl_or, FpFlags.testBit_none, Bool.false_eq_true, false_or]
  exact exists_congr fun l => and_congr_right fun hl => h l hl k

/-- An effect on a group and one on the flags, lane by lane, are each gathered on their own. -/
theorem foldl_group_flags {step : Group × FpFlags → Nat → Group × FpFlags} {fg : Group → Nat → Group} {φ : Nat → FpFlags}
    (h : ∀ g fl l, step (g, fl) l = (fg g l, fl.or (φ l))) (ls : List Nat) :
    ∀ g fl, ls.foldl step (g, fl) = (ls.foldl fg g, ls.foldl (fun fl l => fl.or (φ l)) fl) := by
  induction ls with
  | nil => intro g fl; rfl
  | cons l ls ih => intro g fl; rw [List.foldl_cons, h, ih]; rfl

-- an instruction that writes D or a predicate and gathers flags

section Issue

variable {s u : State} {x : Issue} {regs : List (Bool × Nat)} {bad : Ready → List Bad} {r : Ready}
  {step : Ready → Group × FpFlags → Nat → Group × FpFlags} {φ : Nat → FpFlags} {n : Nat} {f : Nat → Nat → FpFlags}

/-- An instruction that executes, whose effect writes D and gathers flags lane by lane. -/
theorem State.onIssue_writesD_flags {w : Nat} {v : Nat → Nat} (h : Executes s x regs bad r u) (hw : w = 32 ∨ w = 64)
    (hbad : (17, !regLegal x.kd x.d w r.k.desc.regs) ∈ bad r)
    (hstep : ∀ g fl l, step r (g, fl) l = (g.dst x.kd l x.d w (v l), fl.or (φ l)))
    (hφ : ∀ l ∈ r.lanes x.kd, ∀ k, (φ l).toNat.testBit k = true ↔ ∃ e < n, (f l e).toNat.testBit k = true) :
    ∃ g fl, WritesD x (r.lanes x.kd) w v r.g g ∧ FlagsOf (r.lanes x.kd) n f fl ∧
      s.onIssue x bad regs (fun s r =>
        let (g, fl) := (r.lanes x.kd).foldl (step r) (r.g, FpFlags.none)
        (s.orFlags r.k.ctx fl).done x r g) = .next ((u.orFlags r.k.ctx fl).done x r g) := by
  obtain ⟨-, -, -, hgood⟩ := id h
  have hlegal : regLegal x.kd x.d w r.k.desc.regs = true := by simpa using hgood _ hbad
  refine ⟨_, _, Group.foldl_dst_writesD v hw (regLegal_range hw hlegal), flagsOf_foldl hφ, ?_⟩
  rw [State.onIssue_of_executes _ h]
  dsimp only
  rw [foldl_group_flags hstep]

/-- The same with one element for each lane. -/
theorem State.onIssue_writesD_flag {w : Nat} {v : Nat → Nat} (h : Executes s x regs bad r u) (hw : w = 32 ∨ w = 64)
    (hbad : (17, !regLegal x.kd x.d w r.k.desc.regs) ∈ bad r)
    (hstep : ∀ g fl l, step r (g, fl) l = (g.dst x.kd l x.d w (v l), fl.or (φ l))) :
    ∃ g fl, WritesD x (r.lanes x.kd) w v r.g g ∧ FlagsOf (r.lanes x.kd) 1 (fun l _ => φ l) fl ∧
      s.onIssue x bad regs (fun s r =>
        let (g, fl) := (r.lanes x.kd).foldl (step r) (r.g, FpFlags.none)
        (s.orFlags r.k.ctx fl).done x r g) = .next ((u.orFlags r.k.ctx fl).done x r g) :=
  State.onIssue_writesD_flags h hw hbad hstep fun l _ k => by simp

/-- An instruction that executes, whose effect writes predicate D and gathers flags lane by lane. -/
theorem State.onIssue_writesP_flag {v : Nat → Bool} (h : Executes s x regs bad r u) (hbad : (17, decide (7 < x.d)) ∈ bad r)
    (hstep : ∀ g fl l, step r (g, fl) l = (g.writePred l x.d (v l), fl.or (φ l))) :
    ∃ g fl, WritesP x r.exec v r.g g ∧ FlagsOf r.exec 1 (fun l _ => φ l) fl ∧
      s.onIssue x bad regs (fun s r =>
        let (g, fl) := r.exec.foldl (step r) (r.g, FpFlags.none)
        (s.orFlags r.k.ctx fl).done x r g) = .next ((u.orFlags r.k.ctx fl).done x r g) := by
  obtain ⟨hready, -, -, hgood⟩ := id h
  have hd : x.d ≤ 7 := by simpa using hgood _ hbad
  refine ⟨_, _, Group.foldl_writePred_writesP v hd r.exec (fun l hl => State.ready?_exec_lt hready hl) r.g,
    flagsOf_foldl (φ := φ) (fun l _ k => by simp), ?_⟩
  rw [State.onIssue_of_executes _ h]
  dsimp only
  rw [foldl_group_flags hstep]

end Issue

-- elements (R50, R176)

theorem Issue.fw_eq (x : Issue) : x.fw = 32 ∨ x.fw = 64 := by
  unfold Issue.fw
  split
  · exact .inr rfl
  · exact .inl rfl

theorem Issue.length_elems (x : Issue) : x.elems.length = elemCount x := by
  unfold Issue.elems elemCount
  split
  case isTrue h => simp [h]
  case isFalse h => split <;> simp <;> omega

theorem elemCount_pos (x : Issue) : 0 < elemCount x := by unfold elemCount; split <;> decide

/-- Element e of a register starts at bit 16 × e. -/
theorem Issue.elems_getD (x : Issue) {e : Nat} (h : e < elemCount x) : x.elems.getD e (0, 32) = (16 * e, elemWidth x) := by
  unfold elemCount at h
  unfold Issue.elems elemWidth
  rcases Nat.lt_or_ge 1 x.fmtCode with h1 | h1
  · rw [if_neg (Nat.not_le.2 h1)] at h
    rw [if_neg (by omega), if_neg (by omega), if_neg (by omega), if_neg (by omega)]
    match e with
    | 0 | 1 => rfl
  · rw [if_pos h1] at h
    obtain rfl : e = 0 := by omega
    split
    · rfl
    · rw [if_pos (by omega), if_pos (by omega)]; rfl

theorem elemWidth_pos (x : Issue) : 0 < elemWidth x := by
  unfold elemWidth
  split
  · decide
  · split <;> decide

theorem width_fmt_of_le {x : Issue} (h : x.fmtCode ≤ 3) : x.fmt.width = elemWidth x := by
  unfold Issue.fmt elemWidth
  generalize x.fmtCode = c at h
  revert c; decide

/-- The element of a register, as the machine cuts it out. -/
theorem natBits_element (x : Issue) (e v : Nat) : natBits v (16 * e + elemWidth x - 1) (16 * e) = element x e v := by
  have := elemWidth_pos x
  rw [natBits, Nat.shiftRight_eq_div_pow, element, show 16 * e + elemWidth x - 1 + 1 - 16 * e = elemWidth x by omega]

theorem FpFlags.or_assoc (a b c : FpFlags) : (a.or b).or c = a.or (b.or c) := by
  simp only [FpFlags.or, Bool.or_assoc]

theorem FpFlags.or_none (a : FpFlags) : a.or .none = a := by
  simp only [FpFlags.or, FpFlags.none, Bool.or_false]

/-- The flags of an instruction's elements in a lane. -/
def elemFlags (x : Issue) (v : Nat → Nat × FpFlags) : FpFlags := (List.range (elemCount x)).foldl (fun fl e => fl.or (v e).2) .none

theorem testBit_elemFlags (x : Issue) (v : Nat → Nat × FpFlags) (k : Nat) :
    (elemFlags x v).toNat.testBit k = true ↔ ∃ e < elemCount x, (v e).2.toNat.testBit k = true := by
  simp [elemFlags, FpFlags.testBit_foldl_or]

/-- The elements of a lane joined into the register's value, with their flags. -/
theorem foldl_elems (x : Issue) (v : Nat → Nat × FpFlags) (fl : FpFlags) :
    (List.range (elemCount x)).foldl (fun acc e => (acc.1 + (v e).1 % 2 ^ elemWidth x * 2 ^ (16 * e), acc.2.or (v e).2)) (0, fl) =
      (joined x (fun e => (v e).1), fl.or (elemFlags x v)) := by
  unfold elemFlags joined
  by_cases h : x.fmtCode ≤ 1
  · simp [elemCount, h, ← FpFlags.or_assoc, FpFlags.or_none]
  · have hw : elemWidth x = 16 := by unfold elemWidth; rw [if_neg (by omega), if_neg (by omega)]
    simp [elemCount, h, List.range_succ, ← FpFlags.or_assoc, FpFlags.or_none, hw]

/-- A floating-point instruction that executes writes in each lane the elements of its function, and gathers their flags. -/
theorem State.fpOp_gives {i : Instr} {s u : State} {x : Issue} {r : Ready} {ua ub uc : Use} {bi sr fu : Bool}
    {f : Format → RoundEnv → Nat → Nat → Nat → Nat × FpFlags} {v : Nat → Nat → Nat × FpFlags}
    (h : FpExecutes s x ua ub uc bi sr fu r u) (hi : exec i s = s.fpOp x ua ub uc bi sr fu f)
    (hv : ∀ l e, f x.fmt (fpEnv x r l e) (elemA x r l e) (elemB x r l e) (elemC x r l e) = v l e) : FpGives i s x r u v := by
  rw [FpGives, hi]
  refine State.onIssue_writesD_flags (φ := fun l => elemFlags x (v l)) h x.fw_eq ?_ (fun g fl l => ?_)
    (fun l _ k => testBit_elemFlags x (v l) k)
  · simp only [List.mem_append]
    exact .inl (.inl (x.mem_fieldsBad_dst ..))
  · dsimp only
    rw [x.length_elems]
    refine congrArg (fun p : Nat × FpFlags => (g.dst x.kd l x.d x.fw p.1, p.2))
      ((List.foldl_ext _ _ _ fun acc e he => ?_).trans (foldl_elems x (v l) fl))
    rw [x.elems_getD (List.mem_range.1 he), ← hv]
    simp only [natBits_element]
    rfl

/-- A format that floating-point instructions allow has the width of its elements (R50, R166). -/
theorem width_fmt_of_fpBad {x : Issue} {k : Task} {fu : Bool} (h : ∀ b ∈ x.fpBad k fu, b.2 = false) : x.fmt.width = elemWidth x := by
  have hcode := h (53, decide (3 < x.fmtCode) || (fu && decide (x.fmtCode = 0))) List.mem_cons_self
  simp only [Bool.or_eq_false_iff, decide_eq_false_iff_not, Nat.not_lt] at hcode
  exact width_fmt_of_le hcode.1

theorem width_fmt_of_fpExecutes {s u : State} {x : Issue} {r : Ready} {ua ub uc : Use} {bi sr fu : Bool}
    (h : FpExecutes s x ua ub uc bi sr fu r u) : x.fmt.width = elemWidth x := by
  obtain ⟨-, -, -, hgood⟩ := h
  exact width_fmt_of_fpBad fun b hb => hgood b (List.mem_append_left _ (List.mem_append_right _ hb))

/-- An instruction of the function unit that executes writes its elements, and gathers their flags. -/
theorem State.fuOp_gives {i : Instr} {s u : State} {x : Issue} {r : Ready} {fn : Nat}
    (h : FpExecutes s x (.reg x.fw) .none .none false false true r u) (hi : exec i s = s.fuOp x fn) :
    FpGives i s x r u (fun l e => functionUnit (s.rd F.devIdentFtEdition) fn x.fmt (fpEnv x r l e) (elemA x r l e)) :=
  State.fpOp_gives h (hi.trans rfl) fun _ _ => rfl

/-- Settles O5: each instruction writes the elements of its function of the sources, and gathers their flags (`State.fpOp_gives`). -/
theorem floatArithmeticResults : Obligations.FloatArithmeticResults := by
  intro s x r u
  refine ⟨fun h => ⟨?_, ?_, ?_, ?_⟩, fun h => ?_, fun h => ?_, fun h => ⟨?_, ?_⟩, fun h => ⟨?_, ?_⟩⟩
  · exact State.fpOp_gives h (show execFpAdd x s = _ from rfl) fun l e => rfl
  · exact State.fpOp_gives h (show execFpSub x s = _ from rfl) fun l e => rfl
  · exact State.fpOp_gives h (show execFpMul x s = _ from rfl) fun l e => rfl
  · exact State.fpOp_gives h (show execFpDiv x s = _ from rfl) fun l e => rfl
  · exact State.fpOp_gives h (show execFpFma x s = _ from rfl) fun l e => rfl
  · exact State.fpOp_gives h (show execFpSqrt x s = _ from rfl) fun l e => rfl
  · exact State.fpOp_gives h (show execFpMin x s = _ from rfl) fun l e => rfl
  · exact State.fpOp_gives h (show execFpMax x s = _ from rfl) fun l e => rfl
  · exact State.fpOp_gives h (show execFpNeg x s = _ from rfl) fun l e => by
      rw [negate, width_fmt_of_fpExecutes h, FpFlags.none]
  · exact State.fpOp_gives h (show execFpAbs x s = _ from rfl) fun l e => by
      rw [width_fmt_of_fpExecutes h, FpFlags.none]

/-- Settles O6: the instructions of the function unit are elementwise instructions (`State.fpOp_gives`). -/
theorem functionUnitResults : Obligations.FunctionUnitResults := by
  intro s x r u h
  refine ⟨?_, ?_, ?_, ?_, ?_⟩
  · exact State.fuOp_gives h (show execFpExp x s = _ from rfl)
  · exact State.fuOp_gives h (show execFpLog x s = _ from rfl)
  · exact State.fuOp_gives h (show execFpRsqrt x s = _ from rfl)
  · exact State.fuOp_gives h (show execFpSin x s = _ from rfl)
  · exact State.fuOp_gives h (show execFpCos x s = _ from rfl)

-- comparison, classification and conversion (R174, R177, R178, R181)

/-- Reading an element raises nothing but FLUSH (R58). -/
theorem Format.read_flags (f : Format) (env : RoundEnv) (b : Nat) : (f.read env b).2 = { flush := (f.read env b).2.flush } := by
  unfold Format.read
  split <;> rfl

/-- A finite value in units of 2^g, where its exponent is not below g. -/
def signedMag (neg : Bool) (m : Nat) (e g : Int) : Int := if neg then -((m <<< (e - g).toNat : Nat) : Int) else ((m <<< (e - g).toNat : Nat) : Int)

theorem signedMag_zero (neg : Bool) (e g : Int) : signedMag neg 0 e g = 0 := by cases neg <;> simp [signedMag]

theorem Val.less_num (zeros s s' st st' : Bool) (m m' : Nat) (e e' : Int) :
    Val.less zeros (.num s m e st) (.num s' m' e' st') =
      (decide (signedMag s m e (min e e') < signedMag s' m' e' (min e e')) ||
        (zeros && decide (m = 0) && decide (m' = 0) && s && !s')) := rfl

/-- Of two values at most one is the lesser. -/
theorem Val.less_asymm (zeros : Bool) (a b : Val) (h : a.less zeros b = true) : b.less zeros a = false := by
  match a, b with
  | .nan _, _ => cases h
  | .inf _, .nan _ => cases h
  | .num .., .nan _ => cases h
  | .inf x, .inf y => revert h; simp only [Val.less]; revert x y; decide
  | .inf x, .num .. => revert h; simp only [Val.less]; revert x; decide
  | .num .., .inf y => revert h; simp only [Val.less]; revert y; decide
  | .num s m e _, .num s' m' e' _ =>
    rw [Val.less_num, Int.min_comm e' e]
    rw [Val.less_num] at h
    by_cases hzero : m = 0 ∧ m' = 0
    · obtain ⟨rfl, rfl⟩ := hzero
      rw [signedMag_zero, signedMag_zero] at h ⊢
      revert h; cases zeros <;> cases s <;> cases s' <;> decide
    · have hlt : signedMag s m e (min e e') < signedMag s' m' e' (min e e') := by
        simp only [Bool.or_eq_true, Bool.and_eq_true, decide_eq_true_eq] at h
        tauto
      simp only [Bool.or_eq_false_iff, decide_eq_false_iff_not, Int.not_lt]
      refine ⟨hlt.le, ?_⟩
      simp only [Bool.and_eq_false_iff, decide_eq_false_iff_not]
      tauto

/-- The conditions of fp.cmp, as R174 and R176 say them. -/
theorem fpCond_eq (c : Nat) (a b : Val) :
    fpCond c a b = (
      let un := a.isNan || b.isNan
      let lt := !un && a.less false b
      let gt := !un && b.less false a
      if c = 0 then !un && !lt && !gt else if c = 1 then un || lt || gt else if c = 2 then lt
        else if c = 3 then !un && !gt else if c = 4 then gt else if c = 5 then !un && !lt
        else if c = 6 then un else !un,
      if 2 ≤ c ∧ c ≤ 5 then a.isNan || b.isNan else a.isSnan || b.isSnan) := by
  have hasymm := Val.less_asymm false a b
  unfold fpCond
  generalize a.less false b = lt at *
  generalize b.less false a = gt at *
  refine Prod.ext ?_ rfl
  dsimp only
  generalize (a.isNan || b.isNan) = un
  match c with
  | 0 | 1 | 2 | 3 | 4 | 5 | 6 => revert un lt gt; decide
  | n + 7 => rfl

/-- The flags of a comparison of two values as read: IV, and FLUSH where either was flushed. -/
theorem cmpFlags_eq (f : Format) (env : RoundEnv) (a b : Nat) (iv : Bool) :
    ((f.read env a).2.or (f.read env b).2).or { iv := iv } =
      { iv := iv, flush := (f.read env a).2.flush || (f.read env b).2.flush } := by
  rw [f.read_flags env a, f.read_flags env b]
  simp [FpFlags.or]

theorem element_zero (x : Issue) (v : Nat) : v % 2 ^ elemWidth x = element x 0 v := by rw [element, Nat.mul_zero, pow_zero, Nat.div_one]

section Exec

variable {s u : State} {x : Issue} {r : Ready}

/-- fp.cmp executes: the condition of element 0 is written in every executing lane, and IV and FLUSH are gathered. -/
theorem exec_fpCmp
    (h : Executes s x (x.regs .pred (.reg x.fw) (.reg x.fw) .none)
      (fun r => x.fieldsBad r.k.desc.regs .pred (.reg x.fw) (.reg x.fw) (.raw (decide (x.c ≤ 7))) ++ x.fpBad r.k false
        ++ x.extBad r.k.desc.regs true false true false 0) r u) :
    let a := fun (l : Nat) => x.fmt.read (r.k.env (x.m 59 57) (x.m 62 60)) (elemA x r l 0)
    let b := fun (l : Nat) => x.fmt.read (r.k.env (x.m 59 57) (x.m 62 60)) (elemB x r l 0)
    ∃ g fl, WritesP x r.exec (fun l => (fpCond x.c (a l).1 (b l).1).1) r.g g ∧
      FlagsOf r.exec 1 (fun l _ => { iv := (fpCond x.c (a l).1 (b l).1).2, flush := (a l).2.flush || (b l).2.flush }) fl ∧
      exec (.fpCmp x) s = .next ((u.orFlags r.k.ctx fl).done x r g) := by
  have hwidth : x.fmt.width = elemWidth x := by
    obtain ⟨-, -, -, hgood⟩ := h
    exact width_fmt_of_fpBad fun b hb => hgood b (List.mem_append_left _ (List.mem_append_right _ hb))
  refine State.onIssue_writesP_flag h ?_ fun g fl l => ?_
  · simp only [List.mem_append]
    exact .inl (.inl (x.mem_fieldsBad_pred ..))
  · simp only [hwidth, element_zero]
    rw [← cmpFlags_eq]
    simp only [← FpFlags.or_assoc]
    rfl

/-- fp.class executes: the class masks of the elements are written, element e's at bit 16 × e. -/
theorem exec_fpClass
    (h : Executes s x (x.regs (.reg 32) (.reg x.fw) .none .none)
      (fun r => x.fieldsBad r.k.desc.regs (.reg 32) (.reg x.fw) .none .none ++ x.fpBad r.k false
        ++ x.extBad r.k.desc.regs true false false false 0) r u) :
    ∃ g, WritesD x (r.lanes x.kd) 32 (fun l => fpClassMask x.fmt (elemA x r l 0)
        + (if x.fmtCode ≤ 1 then 0 else fpClassMask x.fmt (elemA x r l 1) * 2 ^ 16)) r.g g ∧
      exec (.fpClass x) s = .next (u.done x r g) := by
  refine State.onIssue_writesD h (.inl rfl) ?_ fun l => ?_
  · simp only [List.mem_append]
    exact .inl (.inl (x.mem_fieldsBad_dst ..))
  · dsimp only
    rw [x.length_elems, List.foldl_ext _ (fun v e => v + fpClassMask x.fmt (elemA x r l e) * 2 ^ (16 * e)) _ fun v e he => ?_]
    · unfold elemCount
      split <;> simp [List.range_succ]
    · rw [x.elems_getD (List.mem_range.1 he)]
      simp only [natBits_element]
      rfl

end Exec

/-- The range of an integer of w bits, by signedness, as R67 writes it. -/
theorem intRange_eq (signed : Bool) (w : Nat) :
    (if signed then -((2 ^ (w - 1) : Nat) : Int) else 0) = (if signed then -2 ^ (w - 1) else 0) ∧
      (if signed then ((2 ^ (w - 1) : Nat) : Int) - 1 else ((2 ^ w : Nat) : Int) - 1) =
        (if signed then 2 ^ (w - 1) - 1 else 2 ^ w - 1) := by
  push_cast
  exact ⟨rfl, rfl⟩

section Exec

variable {s u : State} {x : Issue} {r : Ready}

/-- fp.toint executes: element 0 is rounded to the integer range of field C. -/
theorem exec_fpToint
    (h : Executes s x (x.regs (.reg x.intW) (.reg x.fw) .none .none ++ x.srRegs)
      (fun r => x.fieldsBad r.k.desc.regs (.reg x.intW) (.reg x.fw) .none (.raw (decide (x.c < 4))) ++ x.fpBad r.k false
        ++ x.extBad r.k.desc.regs true false false true 0) r u) :
    let lo : Int := if x.intS then -2 ^ (x.intW - 1) else 0
    let hi : Int := if x.intS then 2 ^ (x.intW - 1) - 1 else 2 ^ x.intW - 1
    let val := fun (l : Nat) => x.fmt.read (fpEnv x r l 0) (elemA x r l 0)
    ∃ g fl, WritesD x (r.lanes x.kd) x.intW (fun l => (BitVec.ofInt x.intW (roundInt (fpEnv x r l 0) lo hi (val l).1).1).toNat) r.g g ∧
      FlagsOf (r.lanes x.kd) 1 (fun l _ => ((val l).2).or (roundInt (fpEnv x r l 0) lo hi (val l).1).2.1) fl ∧
      exec (.fpToint x) s = .next ((u.orFlags r.k.ctx fl).done x r g) := by
  have hwidth : x.fmt.width = elemWidth x := by
    obtain ⟨-, -, -, hgood⟩ := h
    exact width_fmt_of_fpBad fun b hb => hgood b (List.mem_append_left _ (List.mem_append_right _ hb))
  refine State.onIssue_writesD_flag h ?_ ?_ fun g fl l => ?_
  · unfold Issue.intW
    split
    · exact .inr rfl
    · exact .inl rfl
  · simp only [List.mem_append]
    exact .inl (.inl (x.mem_fieldsBad_dst ..))
  · simp only [hwidth, element_zero, FpFlags.or_assoc, (intRange_eq _ _).1, (intRange_eq _ _).2, toNat_ofInt_eq_toUnsigned]
    rfl

/-- cvt executes: the element at SEL_S is converted into the position SEL_D of D, whose other positions are kept. -/
theorem exec_cvt {fs fd : Format} (hs : Format.ofCode (x.e 51 48) = some fs) (hd : Format.ofCode (x.e 55 52) = some fd)
    (h : Executes s x (x.regs (.reg fd.regWidth) (.reg fs.regWidth) .none .none ++ x.srRegs
        ++ (if x.m 59 59 = 1 then [(true, x.c)] else []))
      (fun r => x.fieldsBad r.k.desc.regs (.reg fd.regWidth) (.reg fs.regWidth) .none
          (if x.m 59 59 = 1 then .raw (decide (x.c < 64)) else .none)
        ++ [(12, x.ext.isNone), (53, (r.k.rm (x.m 55 53)).isNone), (56, (r.k.subn (x.m 58 56)).isNone),
            (60, decide (x.m 63 60 ≠ 0)), (120, decide (fs.perReg ≤ x.e 58 56)), (123, decide (fd.perReg ≤ x.e 61 59)),
            (126, decide (x.e 63 62 ≠ 0))]
        ++ x.extBad r.k.desc.regs true false false true 16) r u) :
    let scale := if x.m 59 59 = 1 then combinedScale [BitVec.ofNat 32 (r.g.readU x.c)] else .num false 1 0 false
    let env := fun (l : Nat) =>
      let env := r.k.env (x.m 55 53) (x.m 58 56)
      if env.rm = .sr then { env with draw := x.draw r l 0 } else env
    let from' := fun (l : Nat) => r.g.src x.ka l x.a fs.regWidth / 2 ^ (x.e 58 56 * fs.regStep) % 2 ^ fs.width
    let old := fun (l : Nat) => r.g.src x.kd l x.d fd.regWidth
    let lo := x.e 61 59 * fd.regStep
    ∃ g fl, WritesD x (r.lanes x.kd) fd.regWidth (fun l =>
        old l % 2 ^ lo + (convert fs fd (env l) scale (from' l)).1 % 2 ^ fd.width * 2 ^ lo
          + old l / 2 ^ (lo + fd.regStep) * 2 ^ (lo + fd.regStep)) r.g g ∧
      FlagsOf (r.lanes x.kd) 1 (fun l _ => (convert fs fd (env l) scale (from' l)).2) fl ∧
      exec (.cvt x) s = .next ((u.orFlags r.k.ctx fl).done x r g) := by
  have hcvt : exec (.cvt x) s = execCvt x s := rfl
  simp only [hcvt, execCvt, hs, hd, Option.getD_some, Option.isNone_some, decide_eq_true_eq]
  obtain ⟨hready, hhazard, hfetch, hgood⟩ := h
  refine State.onIssue_writesD_flag ⟨hready, hhazard, hfetch, fun b hb => ?_⟩ ?_ ?_ fun g fl l => rfl
  · by_contra hbad
    refine hbad (hgood b ?_)
    have hformat (n : Nat) : b ≠ (n, false) := fun h => hbad (h ▸ rfl)
    simp only [List.mem_append, List.mem_cons, hformat, false_or] at hb ⊢
    exact hb
  · unfold Format.regWidth
    split
    · exact .inr rfl
    · exact .inl rfl
  · simp only [List.mem_append]
    exact .inl (.inl (x.mem_fieldsBad_dst ..))

end Exec

/-- Settles O7: comparisons have the conditions of R174 (`fpCond_eq`), and the conversions write one element for each lane
(`State.onIssue_writesD_flag`). -/
theorem floatCompareAndConvert : Obligations.FloatCompareAndConvert := by
  intro s x r u
  refine ⟨fun h => ?_, fun h => exec_fpClass h, fun h => ?_, fun h => exec_fpToint h, fun fs fd hs hd h => exec_cvt hs hd h⟩
  · simpa only [fpCond_eq] using exec_fpCmp h
  · refine State.onIssue_writesD_flag h x.fw_eq ?_ fun g fl l => rfl
    simp only [List.mem_append]
    exact .inl (.inl (x.mem_fieldsBad_dst ..))

end Sys2Proof.Machine
end

section
/-! PROOFS. NaN, infinity, zero and selection rules of floating point (R69 to R71, R177). -/

namespace Sys2Proof.Machine

@[simp] theorem FpFlags.iv_or (a b : FpFlags) : (a.or b).iv = (a.iv || b.iv) := rfl

@[simp] theorem FpFlags.dz_or (a b : FpFlags) : (a.or b).dz = (a.dz || b.dz) := rfl

@[simp] theorem FpFlags.iv_none : FpFlags.none.iv = false := rfl

@[simp] theorem FpFlags.dz_none : FpFlags.none.dz = false := rfl

@[simp] theorem Val.isNan_nan (s : Bool) : (Val.nan s).isNan = true := rfl

@[simp] theorem Val.isNan_inf (n : Bool) : (Val.inf n).isNan = false := rfl

-- what reading an element gives

theorem Format.read_iv (f : Format) (env : RoundEnv) (b : Nat) : (f.read env b).2.iv = false := by rw [f.read_flags]

theorem Format.read_dz (f : Format) (env : RoundEnv) (b : Nat) : (f.read env b).2.dz = false := by rw [f.read_flags]

theorem Format.decode_sticky {f : Format} {b m : Nat} {n st : Bool} {e : Int} (h : f.decode b = .num n m e st) : st = false := by
  unfold Format.decode at h
  dsimp only at h
  split at h
  · split at h
    · split at h <;> cases h
    · split at h
      · cases h
      · split at h <;> (cases h; rfl)
  · split at h <;> (cases h; rfl)

/-- An element as read has no sticky mark. -/
theorem Format.read_sticky {f : Format} {env : RoundEnv} {b m : Nat} {n st : Bool} {e : Int} (h : (f.read env b).1 = .num n m e st) :
    st = false := by
  unfold Format.read at h
  split at h
  · cases h; rfl
  · exact Format.decode_sticky h

-- the final rounding of a special result

section Result

variable {f : Format} (hf : f ∈ [Format.fp64, .fp32, .fp16, .bf16])

include hf

theorem Format.isFloat_of_vector : f.isFloat = true ∧ f.hasInf = true ∧ f.hasNan = true := by
  revert f; decide

theorem Format.round_nan (env : RoundEnv) (s : Bool) : f.round env false (.nan s) = ⟨f.defaultNan, .none, .nan⟩ := by
  obtain ⟨hfloat, -, hnan⟩ := Format.isFloat_of_vector hf
  simp [Format.round, hfloat, hnan]

theorem Format.round_inf (env : RoundEnv) (n : Bool) :
    f.round env false (.inf n) = ⟨f.infBits n, .none, if n then .ninf else .pinf⟩ := by
  obtain ⟨hfloat, hinf, -⟩ := Format.isFloat_of_vector hf
  simp [Format.round, hfloat, hinf]

theorem Format.round_zero (env : RoundEnv) (n : Bool) : f.round env false (Val.zero n) = ⟨f.signBit n, .none, .zero⟩ := by
  obtain ⟨hfloat, -, -⟩ := Format.isFloat_of_vector hf
  simp [Format.round, Val.zero, hfloat]

end Result

/-- The flags that reading some operands raises are FLUSH alone. -/
theorem readFlags_iv_dz {ins : List (Val × FpFlags)} (h : ∀ x ∈ ins, x.2.iv = false ∧ x.2.dz = false) :
    (ins.foldl (fun a x => a.or x.2) FpFlags.none).iv = false ∧ (ins.foldl (fun a x => a.or x.2) FpFlags.none).dz = false := by
  suffices ∀ fl : FpFlags, fl.iv = false → fl.dz = false →
      (ins.foldl (fun a x => a.or x.2) fl).iv = false ∧ (ins.foldl (fun a x => a.or x.2) fl).dz = false from this _ rfl rfl
  induction ins with
  | nil => exact fun fl hiv hdz => ⟨hiv, hdz⟩
  | cons x ins ih =>
    intro fl hiv hdz
    obtain ⟨hxiv, hxdz⟩ := h x List.mem_cons_self
    exact ih (fun y hy => h y (List.mem_cons_of_mem _ hy)) _ (by simp [hiv, hxiv]) (by simp [hdz, hxdz])

section Result

variable {f : Format} (hf : f ∈ [Format.fp64, .fp32, .fp16, .bf16]) {env : RoundEnv} {ins : List (Val × FpFlags)}
  (hins : ∀ x ∈ ins, x.2.iv = false ∧ x.2.dz = false) (iv dz : Bool)

include hf hins

/-- A NaN result is the default NaN; IV is a signalling operand's, or that of an operation which made the NaN. -/
theorem fpResult_nan (s : Bool) :
    (fpResult f env ins (.nan s) iv dz).1 = f.defaultNan ∧
      (fpResult f env ins (.nan s) iv dz).2.iv = (ins.any (fun x => x.1.isSnan) || !ins.any (fun x => x.1.isNan) || iv) ∧
      (fpResult f env ins (.nan s) iv dz).2.dz = dz := by
  obtain ⟨hiv, hdz⟩ := readFlags_iv_dz hins
  unfold fpResult
  rw [Format.round_nan hf]
  exact ⟨rfl, by simp [hiv], by simp [hdz]⟩

/-- An infinite result. -/
theorem fpResult_inf (n : Bool) :
    (fpResult f env ins (.inf n) iv dz).1 = f.infBits n ∧
      (fpResult f env ins (.inf n) iv dz).2.iv = (ins.any (fun x => x.1.isSnan) || iv) ∧
      (fpResult f env ins (.inf n) iv dz).2.dz = dz := by
  obtain ⟨hiv, hdz⟩ := readFlags_iv_dz hins
  unfold fpResult
  rw [Format.round_inf hf]
  exact ⟨rfl, by simp [hiv], by simp [hdz]⟩

end Result

-- results that are a NaN (R70)

theorem Val.add_nan {a b : Val} (rm : Rm) (h : (a.isNan || b.isNan) = true) : Val.add rm a b = .nan false := by
  match a, b with
  | .nan _, _ => rfl
  | .inf _, .nan _ => rfl
  | .num .., .nan _ => rfl

theorem Val.mul_nan {a b : Val} (h : (a.isNan || b.isNan) = true) : a.mul b = .nan false := by
  match a, b with
  | .nan _, _ => rfl
  | .inf _, .nan _ => rfl
  | .num .., .nan _ => rfl

theorem Val.div_nan {a b : Val} (h : (a.isNan || b.isNan) = true) : a.div b = .nan false := by
  match a, b with
  | .nan _, _ => rfl
  | .inf _, .nan _ => rfl
  | .num .., .nan _ => rfl

theorem Val.isNan_of_isSnan_false {a : Val} (h : a.isNan = false) : a.isSnan = false := by
  match a with
  | .inf _ => rfl
  | .num .. => rfl

/-- The product of zero and an infinity, in either order, is a NaN, and no other product of operands that are none. -/
theorem Val.isNan_mul {a b : Val} (ha : a.isNan = false) (hb : b.isNan = false) (hsa : ∀ n m e st, a = .num n m e st → st = false)
    (hsb : ∀ n m e st, b = .num n m e st → st = false) :
    (a.mul b).isNan = ((a.isInf && b.isZero) || (a.isZero && b.isInf)) := by
  match a, b with
  | .inf _, .inf _ => rfl
  | .inf _, .num n m e st =>
    obtain rfl := hsb n m e st rfl
    simp only [Val.mul, Val.isInf, Val.isZero]
    split <;> simp_all [Val.isNan]
  | .num n m e st, .inf _ =>
    obtain rfl := hsa n m e st rfl
    simp only [Val.mul, Val.isInf, Val.isZero]
    split <;> simp_all [Val.isNan]
  | .num .., .num .. => simp [Val.mul, Val.isNan, Val.isInf]

theorem Val.eq_nan_of_isNan {a : Val} (h : a.isNan = true) : ∃ s, a = .nan s := by
  match a with
  | .nan s => exact ⟨s, rfl⟩

/-- What a value of zero is. -/
theorem Val.eq_zero_of_isZero {a : Val} (h : a.isZero = true) : ∃ n e, a = .num n 0 e false := by
  match a with
  | .num n m e st =>
    simp only [Val.isZero, Bool.and_eq_true, decide_eq_true_eq, Bool.not_eq_true'] at h
    obtain ⟨rfl, rfl⟩ := h
    exact ⟨n, e, rfl⟩

theorem Val.eq_inf_of_isInf {a : Val} (h : a.isInf = true) : ∃ n, a = .inf n := by
  match a with
  | .inf n => exact ⟨n, rfl⟩

/-- A finite value without a sticky mark that is not zero has a significand. -/
theorem Val.eq_num_of_finite {a : Val} (hnan : a.isNan = false) (hinf : a.isInf = false) (hzero : a.isZero = false)
    (hsticky : ∀ n m e st, a = .num n m e st → st = false) : ∃ n m e, a = .num n m e false ∧ m ≠ 0 := by
  match a with
  | .num n m e st =>
    obtain rfl := hsticky n m e st rfl
    exact ⟨n, m, e, rfl, by simpa [Val.isZero] using hzero⟩

/-- An exact sum of opposite values is a zero, negative under RDN alone (R71). -/
theorem Val.add_opposite (rm : Rm) (n : Bool) (m : Nat) (e : Int) :
    Val.add rm (.num n m e false) (.num (!n) m e false) = Val.zero (decide (rm = .rdn)) := by
  cases n <;> simp [Val.add]

/-- Operands that are read raise FLUSH alone. -/
theorem read_iv_dz (f : Format) (env : RoundEnv) (ns : List Nat) : ∀ x ∈ ns.map (f.read env), x.2.iv = false ∧ x.2.dz = false := by
  intro x hx
  obtain ⟨n, -, rfl⟩ := List.mem_map.1 hx
  exact ⟨f.read_iv env n, f.read_dz env n⟩

section Operands

variable {f : Format} (hf : f ∈ [Format.fp64, .fp32, .fp16, .bf16]) (env : RoundEnv) (a b c : Nat)

include hf

/-- Of two operands one is a NaN: the default NaN, and IV where one is signalling. -/
theorem fpResult_nan_two {v : Val} (hv : v = .nan false) (hnan : ((f.read env a).1.isNan || (f.read env b).1.isNan) = true) (dz : Bool) :
    (fpResult f env [f.read env a, f.read env b] v false dz).1 = f.defaultNan ∧
      (fpResult f env [f.read env a, f.read env b] v false dz).2.iv = ((f.read env a).1.isSnan || (f.read env b).1.isSnan) ∧
      (fpResult f env [f.read env a, f.read env b] v false dz).2.dz = dz := by
  have h := fpResult_nan hf (read_iv_dz f env [a, b]) (env := env) false dz false
  rw [hv]
  simpa [hnan] using h

/-- An operation on operands that are no NaNs is invalid where its result is a NaN. -/
theorem fpResult_invalid_two {v : Val} (hv : v = .nan false) (ha : (f.read env a).1.isNan = false) (hb : (f.read env b).1.isNan = false)
    (dz : Bool) :
    (fpResult f env [f.read env a, f.read env b] v false dz).1 = f.defaultNan ∧
      (fpResult f env [f.read env a, f.read env b] v false dz).2.iv = true := by
  obtain ⟨hbits, hiv, -⟩ := fpResult_nan hf (read_iv_dz f env [a, b]) (env := env) false dz false
  rw [hv]
  exact ⟨hbits, hiv.trans (by simp [ha, hb])⟩

/-- A fused multiply-add with a NaN operand. -/
theorem fpFma_nan (hnan : ((f.read env a).1.isNan || (f.read env b).1.isNan || (f.read env c).1.isNan) = true) :
    (fpFma f env a b c).1 = f.defaultNan ∧
      (fpFma f env a b c).2.iv = ((f.read env a).1.isSnan || (f.read env b).1.isSnan || (f.read env c).1.isSnan ||
        ((f.read env a).1.isInf && (f.read env b).1.isZero) || ((f.read env a).1.isZero && (f.read env b).1.isInf)) := by
  have hadd : Val.add env.rm ((f.read env a).1.mul (f.read env b).1) (f.read env c).1 = .nan false := by
    refine Val.add_nan _ ?_
    by_cases hab : ((f.read env a).1.isNan || (f.read env b).1.isNan) = true
    · rw [Val.mul_nan hab]; rfl
    · simp_all
  have hinvalid : (((f.read env a).1.mul (f.read env b).1).isNan && !(f.read env a).1.isNan && !(f.read env b).1.isNan) =
      (((f.read env a).1.isInf && (f.read env b).1.isZero) || ((f.read env a).1.isZero && (f.read env b).1.isInf)) := by
    cases ha : (f.read env a).1.isNan with
    | true => obtain ⟨s, hs⟩ := Val.eq_nan_of_isNan ha; simp [hs, Val.isInf, Val.isZero]
    | false =>
      cases hb : (f.read env b).1.isNan with
      | true => obtain ⟨s, hs⟩ := Val.eq_nan_of_isNan hb; simp [hs, Val.isInf, Val.isZero]
      | false =>
        rw [Val.isNan_mul ha hb (fun _ _ _ _ => Format.read_sticky) (fun _ _ _ _ => Format.read_sticky)]
        simp
  unfold fpFma
  dsimp only
  rw [hadd, hinvalid]
  obtain ⟨hbits, hiv, -⟩ := fpResult_nan hf (read_iv_dz f env [a, b, c]) (env := env)
    (((f.read env a).1.isInf && (f.read env b).1.isZero) || ((f.read env a).1.isZero && (f.read env b).1.isInf)) false false
  refine ⟨hbits, hiv.trans ?_⟩
  have hsome : (([a, b, c].map (f.read env)).any fun x => x.1.isNan) = true := by simpa [or_assoc] using hnan
  rw [hsome]
  simp [Bool.or_assoc]

/-- The square root of a NaN. -/
theorem fpSqrt_nan (hnan : (f.read env a).1.isNan = true) :
    (fpSqrt f env a).1 = f.defaultNan ∧ (fpSqrt f env a).2.iv = (f.read env a).1.isSnan := by
  have hsqrt : (f.read env a).1.sqrt = .nan false := by
    obtain ⟨s, hs⟩ := Val.eq_nan_of_isNan hnan
    rw [hs]; rfl
  obtain ⟨hbits, hiv, -⟩ := fpResult_nan hf (read_iv_dz f env [a]) (env := env) false false false
  unfold fpSqrt
  dsimp only
  rw [hsqrt]
  exact ⟨hbits, hiv.trans (by simp [hnan])⟩

/-- The square root of a negative value is invalid. -/
theorem fpSqrt_neg (hnan : (f.read env a).1.isNan = false) (hzero : (f.read env a).1.isZero = false) (hneg : (f.read env a).1.neg? = true) :
    (fpSqrt f env a).1 = f.defaultNan ∧ (fpSqrt f env a).2.iv = true := by
  have hsqrt : (f.read env a).1.sqrt = .nan false := by
    cases hinf : (f.read env a).1.isInf with
    | true =>
      obtain ⟨n, hn⟩ := Val.eq_inf_of_isInf hinf
      rw [hn] at hneg ⊢
      obtain rfl : n = true := hneg
      rfl
    | false =>
      obtain ⟨n, m, e, hn, hm⟩ := Val.eq_num_of_finite hnan hinf hzero fun _ _ _ _ => Format.read_sticky
      rw [hn] at hneg ⊢
      obtain rfl : n = true := hneg
      simp [Val.sqrt, hm]
  obtain ⟨hbits, hiv, -⟩ := fpResult_nan hf (read_iv_dz f env [a]) (env := env) false false false
  unfold fpSqrt
  dsimp only
  rw [hsqrt]
  exact ⟨hbits, hiv.trans (by simp [hnan])⟩

/-- A finite value other than zero divided by zero is an infinity of the product of the signs, and raises DZ. -/
theorem fpDiv_zero (hnan : (f.read env a).1.isNan = false) (hinf : (f.read env a).1.isInf = false)
    (hzero : (f.read env a).1.isZero = false) (hb : (f.read env b).1.isZero = true) :
    (fpDiv f env a b).1 = f.infBits ((f.read env a).1.neg? != (f.read env b).1.neg?) ∧ (fpDiv f env a b).2.dz = true ∧
      (fpDiv f env a b).2.iv = false := by
  have hdiv : (f.read env a).1.div (f.read env b).1 = .inf ((f.read env a).1.neg? != (f.read env b).1.neg?) := by
    obtain ⟨n, m, e, hn, hm⟩ := Val.eq_num_of_finite hnan hinf hzero fun _ _ _ _ => Format.read_sticky
    obtain ⟨n', e', hn'⟩ := Val.eq_zero_of_isZero hb
    rw [hn, hn']
    simp [Val.div, hm]
  have hbnan : (f.read env b).1.isNan = false := by obtain ⟨n', e', hn'⟩ := Val.eq_zero_of_isZero hb; rw [hn']; rfl
  unfold fpDiv
  dsimp only
  rw [hdiv]
  obtain ⟨hbits, hiv, hdz⟩ := fpResult_inf hf (read_iv_dz f env [a, b]) (env := env) false
    ((f.read env b).1.isZero && !(f.read env a).1.isZero && !(f.read env a).1.isInf && !(f.read env a).1.isNan)
    ((f.read env a).1.neg? != (f.read env b).1.neg?)
  refine ⟨hbits, hdz.trans (by simp [hnan, hinf, hzero, hb]), hiv.trans ?_⟩
  simp [Val.isNan_of_isSnan_false hnan, Val.isNan_of_isSnan_false hbnan]

/-- A NaN operand of a sum, a product or a quotient. -/
theorem fpArith_nan (hnan : ((f.read env a).1.isNan || (f.read env b).1.isNan) = true) :
    ∀ r ∈ [fpAdd f env a b, fpMul f env a b, fpDiv f env a b],
      r.1 = f.defaultNan ∧ r.2.iv = ((f.read env a).1.isSnan || (f.read env b).1.isSnan) ∧ r.2.dz = false := by
  have hdz : ((f.read env b).1.isZero && !(f.read env a).1.isZero && !(f.read env a).1.isInf && !(f.read env a).1.isNan) = false := by
    rcases Bool.or_eq_true_iff.1 hnan with h | h
    · simp [h]
    · obtain ⟨s, hs⟩ := Val.eq_nan_of_isNan h; simp [hs, Val.isZero]
  have hdiv := fpResult_nan_two hf env a b (Val.div_nan hnan) hnan
    ((f.read env b).1.isZero && !(f.read env a).1.isZero && !(f.read env a).1.isInf && !(f.read env a).1.isNan)
  simp only [List.forall_mem_cons]
  exact ⟨fpResult_nan_two hf env a b (Val.add_nan _ hnan) hnan false, fpResult_nan_two hf env a b (Val.mul_nan hnan) hnan false,
    ⟨hdiv.1, hdiv.2.1, hdiv.2.2.trans hdz⟩, by simp⟩

end Operands

/-- Settles O8: the special results are those of `fpResult_nan` and `fpResult_inf`; of two operands that are no NaNs at most one is the
lesser (`Val.less_asymm`). -/
theorem floatSpecialsAndSelection : Obligations.FloatSpecialsAndSelection := by
  refine ⟨fun f hf env a b c => ?_, fun greater f env a b => ?_⟩
  · refine ⟨fpArith_nan hf env a b, fpFma_nan hf env a b c, fpSqrt_nan hf env a, fun n ha hb => ?_, fun ha hb => ?_, fun ha hb => ?_,
      fun ha hb => ?_, fpSqrt_neg hf env a, fpDiv_zero hf env a b, fun n m e ha hb => ?_⟩
    · exact fpResult_invalid_two hf env a b (by rw [ha, hb]; cases n <;> rfl) (by rw [ha]; rfl) (by rw [hb]; rfl) false
    · obtain ⟨n, e, hn⟩ := Val.eq_zero_of_isZero ha
      obtain ⟨n', hn'⟩ := Val.eq_inf_of_isInf hb
      exact ⟨fpResult_invalid_two hf env a b (by rw [hn, hn']; rfl) (by rw [hn]; rfl) (by rw [hn']; rfl) false,
        fpResult_invalid_two hf env b a (by rw [hn, hn']; rfl) (by rw [hn']; rfl) (by rw [hn]; rfl) false⟩
    · obtain ⟨n, e, hn⟩ := Val.eq_zero_of_isZero ha
      obtain ⟨n', e', hn'⟩ := Val.eq_zero_of_isZero hb
      exact fpResult_invalid_two hf env a b (by rw [hn, hn']; rfl) (by rw [hn]; rfl) (by rw [hn']; rfl) _
    · obtain ⟨n, hn⟩ := Val.eq_inf_of_isInf ha
      obtain ⟨n', hn'⟩ := Val.eq_inf_of_isInf hb
      exact fpResult_invalid_two hf env a b (by rw [hn, hn']; rfl) (by rw [hn]; rfl) (by rw [hn']; rfl) _
    · unfold fpAdd fpResult
      dsimp only
      rw [ha, hb, Val.add_opposite, Format.round_zero hf]
  · unfold fpMinMax
    dsimp only
    refine ⟨by simp [Format.read_iv], fun ha hb => by simp [ha, hb], fun ha hb => by simp [ha, hb], fun ha hb => by simp [ha, hb],
      fun ha hb => ⟨fun h => by simp [ha, hb, h], fun h => ?_⟩⟩
    have hasymm : (if greater then (f.read env a).1.less true (f.read env b).1 else (f.read env b).1.less true (f.read env a).1) = false := by
      revert h; cases greater <;> exact Val.less_asymm true _ _
    simp [ha, hb, hasymm]

end Sys2Proof.Machine
end

section
/-! PROOFS. Control transfers, convergence, thread ends, traps, barriers and promotions (R166, R190, R191, R207 to R209, R213 to
R215). -/

namespace Sys2Proof.Machine

open Sys2Proof.Claims

-- the threads of a group

@[simp] theorem Group.stat_setStat (g : Group) (lanes : List Nat) (t : TStat) {l : Nat} (hl : l < 32) :
    (g.setStat lanes t).stat l = if l ∈ lanes then t else g.stat l := by
  simp [Group.setStat, Group.stat, hl]

@[simp] theorem Group.pc_setPc (g : Group) (lanes : List Nat) (f : Nat → Word) {l : Nat} (hl : l < 32) :
    (g.setPc lanes f).pc l = if l ∈ lanes then f l else g.pc l := by
  simp [Group.setPc, Group.pc, hl]

@[simp] theorem Group.stat_setPc (g : Group) (lanes : List Nat) (f : Nat → Word) (l : Nat) : (g.setPc lanes f).stat l = g.stat l := rfl

@[simp] theorem Group.pc_setStat (g : Group) (lanes : List Nat) (t : TStat) (l : Nat) : (g.setStat lanes t).pc l = g.pc l := rfl

/-- The program counters of the issuing set after an instruction of n bytes in sequence. -/
theorem Ready.pcsAre_next (r : Ready) (x : Issue) (g : Group) :
    PcsAre g (r.next x g) (fun l => if l ∈ r.set then r.pc + BitVec.ofNat 64 x.len else g.pc l) :=
  ⟨fun _ hl => Group.pc_setPc g _ _ hl, rfl⟩

/-- The program counters after a branch, of a group with the program counters of the issuing one. -/
theorem Ready.pcsAre_branch {r : Ready} {x : Issue} {g : Group} (hg : ∀ l, g.pc l = r.g.pc l) (f : Nat → Word) :
    PcsAre g (r.branch x g f) (branchPc r x.len f) := by
  refine ⟨fun l hl => ?_, rfl⟩
  simp only [Ready.branch, Ready.next, Group.pc_setPc _ _ _ hl, branchPc, hg]

theorem jumpTo_eq (pc : Word) (units : Nat) : jumpTo pc units = pc + BitVec.ofInt 64 (8 * (BitVec.ofNat 32 units).toInt) := by
  rw [jumpTo, ← toSigned_toNat, BitVec.toNat_ofNat]
  simp [toSigned]

-- legality

theorem Issue.len_of_none {x : Issue} (h : x.ext.isSome = false) : x.len = 8 := by simp [Issue.len, h]

theorem Issue.len_of_some {x : Issue} (h : x.ext.isNone = false) : x.len = 16 := by
  cases hx : x.ext <;> simp_all [Issue.len]

/-- A control instruction without an extension word has eight bytes. -/
theorem Issue.len_of_ctlBad {x : Issue} {d a b c : Bool} (h : ∀ e ∈ x.ctlBad d a b c, e.2 = false) : x.len = 8 :=
  Issue.len_of_none (h (12, x.ext.isSome) (by simp [Issue.ctlBad]))

/-- An instruction at issue one of whose fields offends raises the illegal-instruction fault (R166). -/
theorem State.onIssue_of_illegal {s u : State} {x : Issue} {regs : List (Bool × Nat)} {bad bad' : Ready → List Bad} {r : Ready} {p : Nat}
    (f : State → Ready → State) (h : Executes s x regs bad' r u) (hbad : illegal? (bad r) = some p) :
    s.onIssue x bad regs f = .next (u.precise x r 0x01 p) := by
  obtain ⟨hready, hhazard, hfetch, -⟩ := h
  unfold State.onIssue
  simp [hready, hhazard, hfetch, hbad]

section Transfer

variable {s u : State} {x : Issue} {r : Ready}

theorem exec_nop (hres : x.reserved = none) (h : Executes s x [] (fun _ => x.ctlBad false false false false) r u) :
    exec (.nop x) s = .next (u.done x r r.g) := by
  show execNop x s = _
  unfold execNop
  rw [hres]
  exact State.onIssue_of_executes _ h

theorem exec_nop_reserved {p : Nat} (hres : x.reserved = some p) (h : Executes s x [] (fun _ => []) r u) :
    exec (.nop x) s = .next (u.precise x r 0x01 p) := by
  show execNop x s = _
  unfold execNop
  rw [hres]
  exact State.onIssue_of_illegal _ h rfl

/-- call writes the link pair and branches. -/
theorem exec_call (h : Executes s x (operandRegs false x.d 64)
      (fun r => [(12, x.ext.isNone), (17, !regLegal false x.d 64 r.k.desc.regs), (25, decide (x.a ≠ 0)), (33, decide (x.b ≠ 0)),
        (41, decide (x.c ≠ 0))] ++ x.modBad ++ x.extBad r.k.desc.regs true true false false 0) r u) :
    ∃ h g, WritesD { x with mod := 0 } r.exec 64 (fun _ => (r.pc + 16).toNat) r.g h ∧
      PcsAre h g (branchPc r 16 (fun _ => r.pc + BitVec.ofInt 64 (8 * (BitVec.ofNat 32 (x.e 31 0)).toInt))) ∧
      exec (.call x) s = .next (u.issued x r g) := by
  obtain ⟨-, -, -, hgood⟩ := id h
  have hlen : x.len = 16 := Issue.len_of_some (hgood (12, x.ext.isNone) (by simp))
  have hlegal : regLegal false x.d 64 r.k.desc.regs = true := by simpa using hgood (17, !regLegal false x.d 64 r.k.desc.regs) (by simp)
  have hd : x.d + 64 / 32 ≤ 256 := by simpa using regLegal_range (.inr rfl) hlegal
  obtain ⟨hvec, huni, hbare⟩ := Group.foldl_dst_vector (fun _ => (r.pc + 16).toNat) (.inr rfl) hd r.exec r.g
  have hpc (l : Nat) : (r.exec.foldl (fun g l => g.dst false l x.d 64 (r.pc + 16).toNat) r.g).pc l = r.g.pc l := by
    have h := congrArg (fun g : Group => g.pc l) hbare
    exact h
  have hbranch := Ready.pcsAre_branch (x := x) hpc (fun _ => jumpTo r.pc (x.e 31 0))
  rw [hlen] at hbranch
  simp only [jumpTo_eq] at hbranch
  refine ⟨_, _, ⟨fun l n hn => ?_, fun n => ?_, hbare⟩, hbranch, ?_⟩
  · rw [hvec l n hn]
    simp [Issue.kd, Issue.m, natBits]
  · rw [huni n]
    simp [Issue.kd, Issue.m, natBits]
  · show execCall x s = _
    simp only [← jumpTo_eq]
    exact State.onIssue_of_executes _ h

end Transfer

/-- bra moves the executing threads by OFFSET. -/
theorem exec_bra {s u : State} {x : Issue} {r : Ready} (h : Executes s x [] (fun _ => x.ctlBad true true true true) r u) :
    ∃ g, PcsAre r.g g (branchPc r 8 (fun _ =>
        r.pc + BitVec.ofInt 64 (8 * (BitVec.ofNat 32 (x.d + x.a * 2 ^ 8 + x.b * 2 ^ 16 + x.c * 2 ^ 24)).toInt))) ∧
      exec (.bra x) s = .next (u.issued x r g) := by
  have hpcs := Ready.pcsAre_branch (r := r) (x := x) (fun l => rfl)
    (fun _ => jumpTo r.pc (x.d + x.a * 2 ^ 8 + x.b * 2 ^ 16 + x.c * 2 ^ 24))
  rw [Issue.len_of_ctlBad h.2.2.2] at hpcs
  simp only [jumpTo_eq] at hpcs
  refine ⟨_, hpcs, ?_⟩
  show execBra x s = _
  simp only [← jumpTo_eq]
  exact State.onIssue_of_executes _ h

section Jump

variable {s u : State} {x : Issue} {r : Ready}
  (h : Executes s x (operandRegs (decide (x.m 50 50 = 1)) x.a 64)
    (fun r => [(12, x.ext.isSome), (17, decide (x.d ≠ 0)), (25, !regLegal (decide (x.m 50 50 = 1)) x.a 64 r.k.desc.regs),
      (33, decide (x.b ≠ 0)), (41, decide (x.c ≠ 0)), (49, decide (x.m 49 49 ≠ 0)), (51, decide (x.m 63 51 ≠ 0))]) r u)

include h

/-- jmp moves each executing thread to its target, a multiple of 8. -/
theorem exec_jmp (hal : ∀ l ∈ r.exec, r.g.src (decide (x.m 50 50 = 1)) l x.a 64 % 8 = 0) :
    ∃ g, PcsAre r.g g (branchPc r 8 (fun l => BitVec.ofNat 64 (r.g.src (decide (x.m 50 50 = 1)) l x.a 64))) ∧
      exec (.jmp x) s = .next (u.issued x r g) := by
  have hlen : x.len = 8 := Issue.len_of_none (h.2.2.2 (12, x.ext.isSome) (by simp))
  have hpcs := Ready.pcsAre_branch (r := r) (x := x) (fun l => rfl)
    (fun l => BitVec.ofNat 64 (r.g.src (decide (x.m 50 50 = 1)) l x.a 64))
  rw [hlen] at hpcs
  have hfind : r.exec.find? (fun l => decide (r.g.src (decide (x.m 50 50 = 1)) l x.a 64 % 8 ≠ 0)) = none := by
    simpa using hal
  refine ⟨_, hpcs, ?_⟩
  show execJmp x s = _
  unfold execJmp
  dsimp only
  rw [State.onIssue_of_executes _ h, hfind]

/-- jmp with a misaligned target faults, with the target as ADDRESS. -/
theorem exec_jmp_misaligned {l : Nat} (hl : l ∈ r.exec) (hmis : r.g.src (decide (x.m 50 50 = 1)) l x.a 64 % 8 ≠ 0) :
    ∃ l' ∈ r.exec, r.g.src (decide (x.m 50 50 = 1)) l' x.a 64 % 8 ≠ 0 ∧
      exec (.jmp x) s = .next (u.precise x r 0x05 8 (BitVec.ofNat 64 (r.g.src (decide (x.m 50 50 = 1)) l' x.a 64))) := by
  obtain ⟨l', hfind⟩ : ∃ l', r.exec.find? (fun l => decide (r.g.src (decide (x.m 50 50 = 1)) l x.a 64 % 8 ≠ 0)) = some l' :=
    Option.isSome_iff_exists.1 (List.find?_isSome.2 ⟨l, hl, decide_eq_true hmis⟩)
  refine ⟨l', List.mem_of_find?_eq_some hfind, by simpa using List.find?_some hfind, ?_⟩
  show execJmp x s = _
  unfold execJmp
  dsimp only
  rw [State.onIssue_of_executes _ h, hfind]

end Jump

/-- Settles O9: each transfer puts the executing threads at its target and the rest of the set at the next instruction
(`Ready.pcsAre_branch`). -/
theorem controlTransfers : Obligations.ControlTransfers := by
  intro s x r u
  refine ⟨fun hres h => ?_, fun p hres h => exec_nop_reserved hres h, exec_bra, exec_call,
    fun h => ⟨exec_jmp h, fun l hl hmis => exec_jmp_misaligned h hl hmis⟩⟩
  have hpcs := r.pcsAre_next x r.g
  rw [Issue.len_of_ctlBad h.2.2.2] at hpcs
  exact ⟨_, hpcs, exec_nop hres h⟩

-- convergence, thread ends and traps (R190, R209, R215)

theorem placeBy_eq_orderedInsert {α : Type} (le : α → α → Bool) (a : α) (l : List α) :
    placeBy le a l = l.orderedInsert (fun a b => le a b = true) a := by
  induction l with
  | nil => rfl
  | cons b l ih => rw [placeBy, List.orderedInsert, ih]

/-- The machine's sort is the library's insertion sort. -/
theorem sortBy_eq_insertionSort {α : Type} (le : α → α → Bool) (l : List α) :
    sortBy le l = l.insertionSort (fun a b => le a b = true) := by
  induction l with
  | nil => rfl
  | cons a l ih =>
    rw [List.insertionSort_cons, ← ih, ← placeBy_eq_orderedInsert]
    rfl

/-- The head of a list of words sorted by value is one of them, and none is less. -/
theorem sortBy_word_head {l : List Word} {p : Word} {rest : List Word}
    (h : sortBy (fun a b => decide (a.toNat ≤ b.toNat)) l = p :: rest) : p ∈ l ∧ ∀ a ∈ l, p.toNat ≤ a.toNat := by
  rw [sortBy_eq_insertionSort] at h
  simp only [decide_eq_true_eq] at h
  have htotal : Std.Total (fun a b : Word => a.toNat ≤ b.toNat) := ⟨fun a b => Nat.le_total a.toNat b.toNat⟩
  have htrans : IsTrans Word (fun a b => a.toNat ≤ b.toNat) := ⟨fun _ _ _ => Nat.le_trans⟩
  have hmem (a : Word) : a ∈ p :: rest ↔ a ∈ l := h ▸ List.mem_insertionSort _
  have hsorted := List.pairwise_insertionSort (fun a b : Word => a.toNat ≤ b.toNat) l
  rw [h, List.pairwise_cons] at hsorted
  refine ⟨(hmem p).1 List.mem_cons_self, fun a ha => ?_⟩
  rcases List.mem_cons.1 ((hmem a).2 ha) with rfl | ha
  · exact Nat.le_refl _
  · exact hsorted.1 a ha

/-- The set that converge releases: the held lanes at the lowest program counter, where no lane runs. -/
theorem Group.releasable_eq {g : Group} {l0 : Nat} (hrun : ∀ l < 32, g.stat l ≠ .run) (hl0 : l0 < 32) (hheld : g.stat l0 = .held)
    (hmin : ∀ l < 32, g.stat l = .held → (g.pc l0).toNat ≤ (g.pc l).toNat) :
    g.releasable = (List.range 32).filter (fun l => decide (g.stat l = .held) && decide (g.pc l = g.pc l0)) := by
  have hmem0 : l0 ∈ (List.range 32).filter (fun l => decide (g.stat l = .held)) := by simp [hl0, hheld]
  have hnone : (List.range 32).any (fun l => decide (g.stat l = .run)) = false := by simpa using hrun
  unfold Group.releasable
  dsimp only
  rw [if_neg (by simp [hnone])]
  cases hsort : sortBy (fun a b => decide (a.toNat ≤ b.toNat)) (((List.range 32).filter (fun l => decide (g.stat l = .held))).map g.pc) with
  | nil =>
    have hlen := congrArg List.length hsort
    rw [sortBy_eq_insertionSort, List.length_insertionSort, List.length_map, List.length_nil] at hlen
    rw [List.length_eq_zero_iff.1 hlen] at hmem0
    cases hmem0
  | cons p rest =>
    obtain ⟨hmem, hle⟩ := sortBy_word_head hsort
    obtain ⟨l, hl, rfl⟩ := List.mem_map.1 hmem
    simp only [List.mem_filter, List.mem_range, decide_eq_true_eq] at hl
    have hpc : g.pc l = g.pc l0 :=
      BitVec.eq_of_toNat_eq (Nat.le_antisymm (hle _ (List.mem_map_of_mem hmem0)) (hmin l hl.1 hl.2))
    dsimp only
    rw [List.filter_filter, hpc]
    simp only [Bool.and_comm]

section End

variable {s u : State} {x : Issue} {r : Ready}

theorem exec_converge (h : Executes s x [] (fun _ => x.ctlBad false false false false) r u) :
    exec (.converge x) s = .next
      (u.setCore x.core { u.core x.core with groups := (u.core x.core).groups.set x.pos (r.g.setStat r.set .held) }) := by
  show execConverge x s = _
  exact State.onIssue_of_executes _ h

theorem exec_exit (h : Executes s x [] (fun _ => x.ctlBad false false false false) r u) :
    exec (.exit x) s = .next (((u.issued x r ((r.next x r.g).setStat r.exec .exited)).settleBarriers x.core r.g.slot 4).settleWg
      x.core r.g.slot) := by
  show execExit x s = _
  exact State.onIssue_of_executes _ h

/-- trap faults with the threads that execute it, and only advances where there are none. -/
theorem exec_trap (h : Executes s x [] (fun _ => x.ctlBad true true false false) r u) :
    exec (.trap x) s = .next (if r.exec = [] then u.done x r r.g
      else u.precise x r 0x08 ((x.d + x.a * 256) % 65536) 0 r.exec) := by
  show execTrap x s = _
  exact State.onIssue_of_executes _ h

/-- A group's held set at the lowest program counter goes on past its converge. -/
theorem exec_convergeRelease {core pos t : Nat} {k : Task} {g : Group} (hrunning : s.running? core = some (t, k))
    (hg : (s.core core).groups.get? pos = some g) (hlive : g.gstate = .live) (hfence : g.fence = none) (hphase : k.phase = .running)
    (hpart : s.partLive k.part = true) (hstop : core ∉ s.stopped) (hfreed : g.releasable ≠ []) :
    exec (.convergeRelease core pos) s = .next
      (let v := (s.setCore core { s.core core with
          groups := (s.core core).groups.set pos ((g.setStat g.releasable .run).setPc g.releasable (fun l => g.pc l + 8)) }).bumpRun
        F.schCountCtlRun F.schIssuesCount core
       if g.releasable.length < g.live.length then v.bumpRun F.schCountCtlRun F.schPartialIssuesCount core else v) := by
  show execConvergeRelease core pos s = _
  unfold execConvergeRelease
  dsimp only
  rw [hrunning, hg]
  exact if_pos ⟨hfreed, hlive, hphase, hpart, hstop, hfence⟩

end End

/-- Settles O10: the set that goes on past a converge is the held one at the lowest program counter (`Group.releasable_eq`). -/
theorem holdEndAndTrap : Obligations.HoldEndAndTrap := by
  intro s x r u
  refine ⟨fun h => ⟨⟨_, fun l hl => Group.stat_setStat r.g r.set .held hl, rfl, exec_converge h⟩, _,
      fun l hl => Group.stat_setStat (r.next x r.g) r.exec .exited hl, fun l hl => ?_, rfl, exec_exit h⟩,
    fun h => ⟨fun hnone => (exec_trap h).trans (by rw [if_pos hnone]), fun hsome => (exec_trap h).trans (by rw [if_neg hsome])⟩,
    fun core pos t l0 k g hrunning hg hlive hfence hphase hpart hstop hrun hl0 hheld hmin => ?_⟩
  · rw [Group.pc_setStat, (r.pcsAre_next x r.g).1 l hl, Issue.len_of_ctlBad h.2.2.2]
    rfl
  · have hfreed := Group.releasable_eq hrun hl0 hheld hmin
    have hne : g.releasable ≠ [] := by
      rw [hfreed]
      exact List.ne_nil_of_mem (a := l0) (by simp [hl0, hheld])
    rw [← hfreed]
    exact ⟨(g.setStat g.releasable .run).setPc g.releasable (fun l => g.pc l + 8),
      fun l hl => Group.stat_setStat g g.releasable .run hl, fun l hl => Group.pc_setPc _ g.releasable _ hl, rfl,
      exec_convergeRelease hrunning hg hlive hfence hphase hpart hstop hne⟩

-- barriers (R213, R214)

/-- The lanes of a list given a state each. -/
theorem Group.stat_foldl_setStat (f : Nat → TStat) (ls : List Nat) : ∀ (g : Group) {l : Nat}, l < 32 →
    (ls.foldl (fun (g : Group) l => g.setStat [l] (f l)) g).stat l = if l ∈ ls then f l else g.stat l := by
  induction ls with
  | nil => intro g l _; rfl
  | cons a ls ih =>
    intro g l hl
    rw [List.foldl_cons, ih _ hl, Group.stat_setStat _ _ _ hl]
    by_cases hls : l ∈ ls
    · simp [hls]
    · by_cases ha : l = a <;> simp [hls, ha]

/-- Everything of a group but its threads' states. -/
theorem Group.foldl_setStat_rest (f : Nat → TStat) (ls : List Nat) : ∀ g : Group,
    { ls.foldl (fun (g : Group) l => g.setStat [l] (f l)) g with stats := [] } = { g with stats := [] } := by
  induction ls with
  | nil => intro g; rfl
  | cons a ls ih => intro g; exact ih _

section Barrier

variable {s u : State} {x : Issue} {r : Ready} {rule : BarRule}

/-- The state that a barrier's rule gives a thread, by whether its arrival is held already. -/
def Ready.barStat (r : Ready) (x : Issue) (rule : BarRule) (l : Nat) : TStat := (rule ((r.g.arr.getD x.a 0).testBit l)).1

/-- The threads that park at a barrier instruction. -/
def Ready.parked (r : Ready) (x : Issue) (rule : BarRule) : List Nat := r.exec.filter (fun l => decide (r.barStat x rule l ≠ .run))

/-- The threads that arrive at a barrier instruction. -/
def Ready.arriving (r : Ready) (x : Issue) (rule : BarRule) : List Nat :=
  r.exec.filter (fun l => (rule ((r.g.arr.getD x.a 0).testBit l)).2)

/-- A group whose executing threads have arrived at a barrier instruction and parked. -/
def Ready.barGroup (r : Ready) (x : Issue) (rule : BarRule) : Group :=
  (r.parked x rule).foldl (fun (g : Group) l => g.setStat [l] (r.barStat x rule l))
    { r.g with arr := r.g.arr.put 0 x.a (r.g.arr.getD x.a 0 ||| laneMask (r.arriving x rule)) }

theorem Ready.atBarrier_eq (r : Ready) (x : Issue) (rule : BarRule) :
    r.atBarrier x rule = (r.barGroup x rule).setPc (r.set.filter (fun l => decide (l ∉ r.parked x rule))) (fun _ => r.pc + 8) := rfl

theorem Ready.barGroup_rest (r : Ready) (x : Issue) (rule : BarRule) :
    { r.barGroup x rule with stats := [] } =
      { r.g with stats := [], arr := r.g.arr.put 0 x.a (r.g.arr.getD x.a 0 ||| laneMask (r.arriving x rule)) } :=
  Group.foldl_setStat_rest ..

/-- The threads that execute are running. -/
theorem State.ready?_exec_run (h : s.ready? x = some r) {l : Nat} (hl : l ∈ r.exec) : r.g.stat l = .run := by
  obtain ⟨-, -, -, hset, hexec, -⟩ := State.ready?_some h
  rw [hexec] at hl
  have hl := (List.mem_filter.1 hl).1
  rw [hset] at hl
  simp only [Group.setAt, List.mem_filter, Bool.and_eq_true, decide_eq_true_eq] at hl
  exact hl.2.1

theorem Ready.mem_parked {l : Nat} : l ∈ r.parked x rule ↔ l ∈ r.exec ∧ r.barStat x rule l ≠ .run := by
  simp [Ready.parked]

theorem Ready.atBarrier_stat (h : s.ready? x = some r) {l : Nat} (hl : l < 32) :
    (r.atBarrier x rule).stat l = if l ∈ r.exec then r.barStat x rule l else r.g.stat l := by
  rw [Ready.atBarrier_eq, Group.stat_setPc, Ready.barGroup, Group.stat_foldl_setStat _ _ _ hl]
  simp only [Ready.mem_parked]
  by_cases hexec : l ∈ r.exec
  · by_cases hrun : r.barStat x rule l = .run
    · rw [if_neg (by tauto), if_pos hexec, hrun]
      exact State.ready?_exec_run h hexec
    · rw [if_pos ⟨hexec, hrun⟩, if_pos hexec]
  · rw [if_neg (by tauto), if_neg hexec]; rfl

theorem Ready.atBarrier_pc {l : Nat} (hl : l < 32) : (r.atBarrier x rule).pc l =
    if l ∈ r.set ∧ (l ∉ r.exec ∨ r.barStat x rule l = .run) then r.pc + 8 else r.g.pc l := by
  have hpc : (r.barGroup x rule).pc l = r.g.pc l := by
    have h := congrArg (fun g : Group => g.pc l) (r.barGroup_rest x rule)
    exact h
  have hgoes : l ∉ r.parked x rule ↔ l ∉ r.exec ∨ r.barStat x rule l = .run := by rw [Ready.mem_parked]; tauto
  rw [Ready.atBarrier_eq, Group.pc_setPc _ _ _ hl, hpc]
  simp only [List.mem_filter, decide_eq_true_eq, hgoes]

theorem Ready.atBarrier_arr (l : Nat) : ((r.atBarrier x rule).arr.getD x.a 0).testBit l =
    ((r.g.arr.getD x.a 0).testBit l || (decide (l ∈ r.exec) && (rule ((r.g.arr.getD x.a 0).testBit l)).2)) := by
  have harr : (r.atBarrier x rule).arr = r.g.arr.put 0 x.a (r.g.arr.getD x.a 0 ||| laneMask (r.arriving x rule)) := by
    have h := congrArg (fun g : Group => g.arr) (r.barGroup_rest x rule)
    exact h
  rw [harr, NMap.getD_put_self, Nat.testBit_or, testBit_laneMask]
  simp [Ready.arriving]

theorem Ready.atBarrier_rest :
    { r.atBarrier x rule with stats := [], pcs := [], arr := [] } = { r.g with stats := [], pcs := [], arr := [] } := by
  have h := congrArg (fun g : Group => { g with pcs := [], arr := [] }) (r.barGroup_rest x rule)
  exact h

/-- A barrier instruction that is not refused for a deadlock leaves its threads as its rule says. -/
theorem State.barrierOp_of_executes {arrives : Bool} (hperf : arrives = true → (s.core x.core).performed x.pos = true)
    (h : Executes s x [] (fun _ => x.ctlBad false true false false ++ [(25, decide (15 < x.a))]) r u)
    (hsound : ∀ e ∈ deadlockedGroups
      ((((u.issued x r (r.atBarrier x rule)).settleBarriers x.core r.g.slot 4).core x.core).slotGroups r.g.slot), e.1 ≠ x.pos) :
    s.barrierOp x arrives rule = .next ((u.issued x r (r.atBarrier x rule)).settleBarriers x.core r.g.slot 4) := by
  have hgo : ¬ (arrives && !(s.core x.core).performed x.pos) = true := by
    cases arrives
    · simp
    · simp [hperf rfl]
  unfold State.barrierOp
  rw [if_neg hgo, State.onIssue_of_executes _ h]
  dsimp only
  refine congrArg Host.Outcome.next (if_neg fun hdead => ?_)
  obtain ⟨e, he, hpos⟩ := List.any_eq_true.1 hdead
  exact hsound e he (of_decide_eq_true hpos)

end Barrier

/-- Settles O11: each instruction is `State.barrierOp` with a rule, which leaves its threads as `Ready.atBarrier_stat`, `atBarrier_pc`
and `atBarrier_arr` say. -/
theorem barrierInstructions : Obligations.BarrierInstructions := by
  intro s x r u h old sound gives
  have hgives {i : Instr} {arrives : Bool} (rule : BarRule) {stat : Nat → TStat} {arr : Nat → Bool} (hi : exec i s = s.barrierOp x arrives rule)
      (hperf : arrives = true → (s.core x.core).performed x.pos = true) (hstat : ∀ l, r.barStat x rule l = stat l)
      (harr : ∀ l, (old l || (decide (l ∈ r.exec) && (rule (old l)).2)) = (old l || (decide (l ∈ r.exec) && arr l))) :
      gives i stat arr := by
    refine ⟨r.atBarrier x rule, fun l hl => ?_, fun l hl => ?_, fun l _ => ?_, Ready.atBarrier_rest, fun hsound => ?_⟩
    · rw [Ready.atBarrier_stat h.1 hl, hstat]
    · rw [Ready.atBarrier_pc hl, hstat]
    · rw [Ready.atBarrier_arr]; exact harr l
    · rw [hi]; exact State.barrierOp_of_executes hperf h hsound
  refine ⟨fun hperf => ⟨?_, ?_⟩, ?_⟩
  · refine hgives _ (show execBarSync x s = _ from rfl) (fun _ => hperf) (fun l => ?_) fun l => ?_
    · unfold Ready.barStat; cases hold : old l <;> simp only [old] at hold <;> rw [hold] <;> rfl
    · cases old l <;> cases decide (l ∈ r.exec) <;> rfl
  · refine hgives _ (show execBarArrive x s = _ from rfl) (fun _ => hperf) (fun l => ?_) fun l => ?_
    · unfold Ready.barStat; cases hold : old l <;> simp only [old] at hold <;> rw [hold] <;> rfl
    · cases old l <;> cases decide (l ∈ r.exec) <;> rfl
  · refine hgives _ (show execBarWait x s = _ from rfl) nofun (fun l => ?_) fun l => ?_
    · unfold Ready.barStat; cases hold : old l <;> simp only [old] at hold <;> rw [hold] <;> rfl
    · cases old l <;> cases decide (l ∈ r.exec) <;> rfl

/-- Settles O12: a promotion's conditions select the branch that restarts the wait and counts. -/
theorem promotions : Obligations.Promotions := by
  intro s core pos lane g hg hready
  refine ⟨fun hsteps => ?_, fun hpassed => ?_⟩
  · show execGroupPromotion core pos s = _
    unfold execGroupPromotion
    dsimp only
    rw [hg]
    exact if_pos ⟨hsteps, hready⟩
  · show execSetPromotion core pos lane s = _
    unfold execSetPromotion
    dsimp only
    rw [hg]
    exact if_pos ⟨hpassed, hready⟩

end Sys2Proof.Machine
end

section
/-! PROOFS. A step, what reset leaves, and that no command ends a run (O57, O58, O60). -/

namespace Sys2Proof.Machine

open Sys2Proof.Claims

-- a step (O57)

/-- A quantity of the state that no step of a fold changes is at the end what it was. -/
theorem State.foldl_keeps {α β : Type} (q : State → β) {f : State → α → State} (hf : ∀ s x, q (f s x) = q s) (l : List α) :
    ∀ s, q (l.foldl f s) = q s := by
  induction l with
  | nil => exact fun _ => rfl
  | cons x l ih => exact fun s => (ih (f s x)).trans (hf s x)

/-- Noting when a core began to idle changes the cores alone. -/
theorem State.trackIdle_rest (s : State) (c : Nat) : { s.trackIdle c with cores := [] } = { s with cores := [] } := by
  unfold State.trackIdle
  dsimp only
  split <;> rfl

/-- A tick changes the time and the cores alone. -/
theorem State.tick_rest (s : State) : { s.tick with cores := [] } = { s with now := s.now + 1, cores := [] } :=
  State.foldl_keeps (fun t : State => { t with cores := [] }) (fun t e => t.trackIdle_rest e.1) s.cores { s with now := s.now + 1 }

/-- Settles O57: the queue's front is taken by the definition of a step; on an empty queue the tick changes the time and the cores
alone. -/
theorem frontCommandSteps : Obligations.FrontCommandSteps := by
  refine ⟨fun _ _ => rfl, fun _ _ _ h => step_of_front h, fun s h => ⟨s.tick, step_of_empty h, ?_, ?_, ?_, ?_, ?_⟩⟩
  · exact congrArg (·.now) s.tick_rest
  · exact (congrArg (·.pending) s.tick_rest).trans h
  · exact congrArg (·.mem) s.tick_rest
  · exact congrArg (·.regs) s.tick_rest
  · exact congrArg (·.sent) s.tick_rest

-- what reset leaves (O58)

theorem State.poisoned_reset (a : Nat) : State.reset.poisoned a 1 = false := by
  unfold State.poisoned
  exact List.any_eq_false.2 fun b _ => by
    unfold State.blockPoisoned
    split <;> simp [State.reset, State.stackOffline, NMap.has, NMap.getD, NMap.get?]

/-- Only CLU.IDENT has a reset value that depends on its index. -/
theorem Reg.reset_uniform {r : Reg} (h : r ≠ .cluIdent) (n : Nat) : r.reset n = r.reset 0 := by
  unfold Reg.reset
  split
  · contradiction
  all_goals rfl

/-- A field of a register whose reset value is the same at every index reads after reset what it reads at index 0. -/
theorem State.rd_reset_of_uniform {f : Fld} {v : Nat} (h0 : State.reset.rd f 0 = v) (hu : f.reg ≠ .cluIdent) (n : Nat) :
    State.reset.rd f n = v := by
  rw [← h0]
  unfold State.rd
  rw [State.reg_reset, State.reg_reset, Reg.reset_uniform hu]

/-- Settles O58: nothing is listed after reset, so every byte reads 0 and every field its Reset column, whatever its index. -/
theorem resetValues : Obligations.ResetValues := by
  refine ⟨Memory.wf_reset, rfl, rfl, rfl, rfl, fun _ => ⟨rfl, State.poisoned_reset _⟩, State.reg_reset, fun n _ => ?_, fun n _ => ?_,
    fun n _ => ?_, fun n _ => ?_, by decide, by decide, by decide, by decide, by decide, by decide, by decide⟩
  · exact ⟨State.rd_reset_of_uniform (by decide) (by decide) n, State.rd_reset_of_uniform (by decide) (by decide) n,
      State.rd_reset_of_uniform (by decide) (by decide) n, State.rd_reset_of_uniform (by decide) (by decide) n,
      State.rd_reset_of_uniform (by decide) (by decide) n, State.rd_reset_of_uniform (by decide) (by decide) n,
      State.rd_reset_of_uniform (by decide) (by decide) n, State.rd_reset_of_uniform (by decide) (by decide) n,
      State.rd_reset_of_uniform (by decide) (by decide) n⟩
  · exact ⟨State.rd_reset_of_uniform (by decide) (by decide) n, State.rd_reset_of_uniform (by decide) (by decide) n,
      State.rd_reset_of_uniform (by decide) (by decide) n, State.rd_reset_of_uniform (by decide) (by decide) n⟩
  · exact ⟨State.rd_reset_of_uniform (by decide) (by decide) n, State.rd_reset_of_uniform (by decide) (by decide) n,
      State.rd_reset_of_uniform (by decide) (by decide) n⟩
  · exact ⟨State.rd_reset_of_uniform (by decide) (by decide) n, State.rd_reset_of_uniform (by decide) (by decide) n,
      State.rd_reset_of_uniform (by decide) (by decide) n, State.rd_reset_of_uniform (by decide) (by decide) n⟩

-- that a run goes on (O60)

/-- An outcome that goes on to a next state. -/
def GoesOn (o : Host.Outcome State Fault Refusal) : Prop := ∃ t, o = .next t

@[simp] theorem goesOn_next (t : State) : GoesOn (.next t) := ⟨t, rfl⟩

@[simp] theorem goesOn_ite (p : Prop) [Decidable p] (a b : Host.Outcome State Fault Refusal) :
    GoesOn (if p then a else b) ↔ if p then GoesOn a else GoesOn b := by
  split
  · rfl
  · rfl

@[simp] theorem goesOn_onWrite (s : State) (a : Access) (l : List Reg) (f : RegWriteReq → State) : GoesOn (s.onWrite a l f) :=
  s.onWrite_next a l f

@[simp] theorem goesOn_onStart (s : State) (q seq opcode : Nat) (ok : Cmd → Bool) (f : Cmd → State) :
    GoesOn (s.onStart q seq opcode ok f) := s.onStart_next q seq opcode ok f

@[simp] theorem goesOn_onPacket (s : State) (b : Nat) (kind : NetPkt → Bool) (f : State → Nat → RxFrame → State × Bool) :
    GoesOn (s.onPacket b kind f) := s.onPacket_next b kind f

@[simp] theorem goesOn_onIssue (s : State) (x : Issue) (bad : Ready → List Bad) (regs : List (Bool × Nat)) (f : State → Ready → State) :
    GoesOn (s.onIssue x bad regs f) := by
  unfold State.onIssue
  split
  · exact goesOn_next _
  · split
    · exact goesOn_next _
    · dsimp only
      split
      · split <;> exact goesOn_next _
      · exact goesOn_next _


theorem goesOn_execInvalidAccess (a : Access) (write : Bool) (s : State) : GoesOn (execInvalidAccess a write s) := by
  unfold execInvalidAccess
  repeat' split
  all_goals exact goesOn_next _

theorem goesOn_execSeamFail (seam : Nat) (s : State) : GoesOn (execSeamFail seam s) := by
  unfold execSeamFail
  dsimp only
  repeat' split
  all_goals exact goesOn_next _

theorem goesOn_execBlockFault (part : BlockPart) (s : State) : GoesOn (execBlockFault part s) := by
  unfold execBlockFault
  repeat' split
  all_goals exact goesOn_next _

theorem goesOn_execTileMoveComplete (core mover : Nat) (s : State) : GoesOn (execTileMoveComplete core mover s) := by
  unfold execTileMoveComplete
  dsimp only
  repeat' split
  all_goals exact goesOn_next _

theorem goesOn_execConvergeRelease (core pos : Nat) (s : State) : GoesOn (execConvergeRelease core pos s) := by
  unfold execConvergeRelease
  dsimp only
  repeat' split
  all_goals exact goesOn_next _

theorem goesOn_execGroupPromotion (core pos : Nat) (s : State) : GoesOn (execGroupPromotion core pos s) := by
  unfold execGroupPromotion
  dsimp only
  repeat' split
  all_goals exact goesOn_next _

theorem goesOn_execSetPromotion (core pos lane : Nat) (s : State) : GoesOn (execSetPromotion core pos lane s) := by
  unfold execSetPromotion
  dsimp only
  repeat' split
  all_goals exact goesOn_next _

theorem goesOn_execMatrixInstructionStart (core : Nat) (s : State) : GoesOn (execMatrixInstructionStart core s) := by
  unfold execMatrixInstructionStart
  dsimp only
  repeat' split
  all_goals exact goesOn_next _

theorem goesOn_execRecordMerge (index : Nat) (s : State) : GoesOn (execRecordMerge index s) := by
  unfold execRecordMerge
  dsimp only
  repeat' split
  all_goals exact goesOn_next _

theorem goesOn_execCounterDeadline (w : WaitName) (s : State) : GoesOn (execCounterDeadline w s) := by
  unfold execCounterDeadline
  repeat' split
  all_goals exact goesOn_next _

theorem goesOn_execTaskBind (task : Nat) (s : State) : GoesOn (execTaskBind task s) := by
  unfold execTaskBind
  dsimp only
  repeat' split
  all_goals exact goesOn_next _

theorem goesOn_execRetentionEntry (core : Nat) (s : State) : GoesOn (execRetentionEntry core s) := by
  unfold execRetentionEntry
  dsimp only
  repeat' split
  all_goals exact goesOn_next _

theorem goesOn_execLoadReturn (core txn : Nat) (ans : HostAns) (s : State) : GoesOn (execLoadReturn core txn ans s) := by
  unfold execLoadReturn
  dsimp only
  repeat' split
  all_goals exact goesOn_next _

theorem goesOn_execDeferredFault (core index : Nat) (s : State) : GoesOn (execDeferredFault core index s) := by
  unfold execDeferredFault
  dsimp only
  repeat' split
  all_goals exact goesOn_next _

theorem goesOn_execWorkgroupDispatch (task core : Nat) (s : State) : GoesOn (execWorkgroupDispatch task core s) := by
  unfold execWorkgroupDispatch
  dsimp only
  repeat' split
  all_goals exact goesOn_next _

theorem goesOn_execCoreTaskBegin (task core : Nat) (s : State) : GoesOn (execCoreTaskBegin task core s) := by
  unfold execCoreTaskBegin
  dsimp only
  repeat' split
  all_goals exact goesOn_next _

theorem goesOn_execTimeLimitExpiry (task : Nat) (s : State) : GoesOn (execTimeLimitExpiry task s) := by
  unfold execTimeLimitExpiry
  dsimp only
  repeat' split
  all_goals exact goesOn_next _

theorem goesOn_execContextSwitch (ctx : Nat) (s : State) : GoesOn (execContextSwitch ctx s) := by
  unfold execContextSwitch
  dsimp only
  repeat' split
  all_goals exact goesOn_next _

theorem goesOn_execContextResume (ctx : Nat) (s : State) : GoesOn (execContextResume ctx s) := by
  unfold execContextResume
  dsimp only
  repeat' split
  all_goals exact goesOn_next _

theorem goesOn_execVictimOffer (canvas : Nat) (s : State) : GoesOn (execVictimOffer canvas s) := by
  unfold execVictimOffer
  dsimp only
  repeat' split
  all_goals exact goesOn_next _

theorem goesOn_execSplitChangeDone (region : Nat) (s : State) : GoesOn (execSplitChangeDone region s) := by
  unfold execSplitChangeDone
  dsimp only
  repeat' split
  all_goals exact goesOn_next _

theorem goesOn_execFineRequest (ctx va : Nat) (op : FineOp) (s : State) : GoesOn (execFineRequest ctx va op s) := by
  unfold execFineRequest
  dsimp only
  repeat' split
  all_goals exact goesOn_next _

theorem goesOn_execLongFormAdd (core txn : Nat) (s : State) : GoesOn (execLongFormAdd core txn s) := by
  unfold execLongFormAdd
  dsimp only
  repeat' split
  all_goals exact goesOn_next _

theorem goesOn_execScrub (stack addr : Nat) (result : ScrubResult) (s : State) : GoesOn (execScrub stack addr result s) := by
  unfold execScrub
  dsimp only
  repeat' split
  all_goals exact goesOn_next _

theorem goesOn_execUpgrade (agent sector : Nat) (s : State) : GoesOn (execUpgrade agent sector s) := by
  unfold execUpgrade
  repeat' split
  all_goals exact goesOn_next _

theorem goesOn_execCleanEvict (agent sector : Nat) (s : State) : GoesOn (execCleanEvict agent sector s) := by
  unfold execCleanEvict
  dsimp only
  repeat' split
  all_goals exact goesOn_next _

theorem goesOn_execWriteBack (agent sector : Nat) (s : State) : GoesOn (execWriteBack agent sector s) := by
  unfold execWriteBack
  dsimp only
  repeat' split
  all_goals exact goesOn_next _

theorem goesOn_execGrantAcknowledge (agent sector : Nat) (s : State) : GoesOn (execGrantAcknowledge agent sector s) := by
  unfold execGrantAcknowledge
  dsimp only
  repeat' split
  all_goals exact goesOn_next _

theorem goesOn_execSnoopShared (agent sector : Nat) (s : State) : GoesOn (execSnoopShared agent sector s) := by
  unfold execSnoopShared
  repeat' split
  all_goals exact goesOn_next _

theorem goesOn_execSnoopInvalidate (agent sector : Nat) (s : State) : GoesOn (execSnoopInvalidate agent sector s) := by
  unfold execSnoopInvalidate
  repeat' split
  all_goals exact goesOn_next _

theorem goesOn_execSnoopPeek (agent sector : Nat) (s : State) : GoesOn (execSnoopPeek agent sector s) := by
  unfold execSnoopPeek
  dsimp only
  repeat' split
  all_goals exact goesOn_next _

theorem goesOn_execSnoopPurge (agent line : Nat) (s : State) : GoesOn (execSnoopPurge agent line s) := by
  unfold execSnoopPurge
  repeat' split
  all_goals exact goesOn_next _

theorem goesOn_execNonCachingAtomic (addr : Nat) (op : AtomOp) (size data cmp : Nat) (s : State) :
    GoesOn (execNonCachingAtomic addr op size data cmp s) := by
  unfold execNonCachingAtomic
  repeat' split
  all_goals exact goesOn_next _

theorem goesOn_execStreamPrefetch (cluster ctx va : Nat) (s : State) : GoesOn (execStreamPrefetch cluster ctx va s) := by
  unfold execStreamPrefetch
  dsimp only
  repeat' split
  all_goals exact goesOn_next _

theorem goesOn_execFaultBatchClose (region : Nat) (s : State) : GoesOn (execFaultBatchClose region s) := by
  unfold execFaultBatchClose
  repeat' split
  all_goals exact goesOn_next _

theorem goesOn_execTlbInvalidate (a : Access) (done : Bool) (s : State) : GoesOn (execTlbInvalidate a done s) := by
  unfold execTlbInvalidate
  split
  · split <;> exact goesOn_next _
  · exact goesOn_onWrite ..

theorem goesOn_execBarReadTimeout (id : Nat) (s : State) : GoesOn (execBarReadTimeout id s) := by
  unfold execBarReadTimeout
  dsimp only
  repeat' split
  all_goals exact goesOn_next _

theorem goesOn_execCommandFetch (q : Nat) (ans : HostAns) (s : State) : GoesOn (execCommandFetch q ans s) := by
  unfold execCommandFetch
  dsimp only
  repeat' split
  all_goals exact goesOn_next _

theorem goesOn_execCompletionRecord (q seq : Nat) (hostOk : Bool) (s : State) : GoesOn (execCompletionRecord q seq hostOk s) := by
  unfold execCompletionRecord
  dsimp only
  repeat' split
  all_goals exact goesOn_next _

theorem goesOn_execDmaChunk (q seq index : Nat) (ans : HostAns) (s : State) : GoesOn (execDmaChunk q seq index ans s) := by
  unfold execDmaChunk
  dsimp only
  repeat' split
  all_goals exact goesOn_next _

theorem goesOn_execLaunch (q seq : Nat) (s : State) : GoesOn (execLaunch q seq s) := by
  unfold execLaunch
  dsimp only
  repeat' split
  all_goals exact goesOn_next _

theorem goesOn_execTokenLockoutEnd (s : State) : GoesOn (execTokenLockoutEnd s) := by
  unfold execTokenLockoutEnd
  dsimp only
  repeat' split
  all_goals exact goesOn_next _

theorem goesOn_execFrameReceive (block : Nat) (f : Frame) (s : State) : GoesOn (execFrameReceive block f s) := by
  unfold execFrameReceive
  repeat' split
  all_goals exact goesOn_next _

theorem goesOn_execTeardownDone (part slot : Nat) (s : State) : GoesOn (execTeardownDone part slot s) := by
  unfold execTeardownDone
  dsimp only
  repeat' split
  all_goals exact goesOn_next _

theorem goesOn_execLaunchChildTimeout (part slot child : Nat) (s : State) : GoesOn (execLaunchChildTimeout part slot child s) := by
  unfold execLaunchChildTimeout
  dsimp only
  repeat' split
  all_goals exact goesOn_next _

theorem goesOn_execReplayEntry (part : Nat) (s : State) : GoesOn (execReplayEntry part s) := by
  unfold execReplayEntry
  dsimp only
  repeat' split
  all_goals exact goesOn_next _

theorem goesOn_execFastLimitSample (mean : Nat) (s : State) : GoesOn (execFastLimitSample mean s) := by
  unfold execFastLimitSample
  dsimp only
  repeat' split
  all_goals exact goesOn_next _

theorem goesOn_execSupplyFault (s : State) : GoesOn (execSupplyFault s) := by
  unfold execSupplyFault
  repeat' split
  all_goals exact goesOn_next _

theorem goesOn_execStagingDone (s : State) : GoesOn (execStagingDone s) := by
  unfold execStagingDone
  dsimp only
  repeat' split
  all_goals exact goesOn_next _

theorem goesOn_execActivationQuiesce (s : State) : GoesOn (execActivationQuiesce s) := by
  unfold execActivationQuiesce
  dsimp only
  repeat' split
  all_goals exact goesOn_next _

theorem goesOn_execQuiesceTimeout (s : State) : GoesOn (execQuiesceTimeout s) := by
  unfold execQuiesceTimeout
  repeat' split
  all_goals exact goesOn_next _

theorem goesOn_execConfirmTimeout (s : State) : GoesOn (execConfirmTimeout s) := by
  unfold execConfirmTimeout
  dsimp only
  repeat' split
  all_goals exact goesOn_next _

theorem goesOn_execActivationConfirm (fw : Nat) (s : State) : GoesOn (execActivationConfirm fw s) := by
  unfold execActivationConfirm
  dsimp only
  repeat' split
  all_goals exact goesOn_next _

theorem goesOn_execFwuNoRootTimeout (s : State) : GoesOn (execFwuNoRootTimeout s) := by
  unfold execFwuNoRootTimeout
  repeat' split
  all_goals exact goesOn_next _

theorem goesOn_execRowRetire (addr : Nat) (s : State) : GoesOn (execRowRetire addr s) := by
  unfold execRowRetire
  dsimp only
  repeat' split
  all_goals exact goesOn_next _

theorem goesOn_execEventIrqDeferred (region : Nat) (s : State) : GoesOn (execEventIrqDeferred region s) := by
  unfold execEventIrqDeferred
  dsimp only
  repeat' split
  all_goals exact goesOn_next _

theorem goesOn_execSidePulseEnd (s : State) : GoesOn (execSidePulseEnd s) := by
  unfold execSidePulseEnd
  dsimp only
  repeat' split
  all_goals exact goesOn_next _

theorem goesOn_execRecoveryImage (region : Nat) (image : List Byte) (digestOk signaturesOk : Bool) (s : State) :
    GoesOn (execRecoveryImage region image digestOk signaturesOk s) := by
  unfold execRecoveryImage
  dsimp only
  repeat' split
  all_goals exact goesOn_next _

@[simp] theorem goesOn_mapOp (s : State) (q seq sub : Nat) : GoesOn (State.mapOp s q seq sub) := by
  unfold State.mapOp
  repeat' split
  · exact goesOn_next _
  · exact goesOn_next _
  · exact goesOn_onStart ..

@[simp] theorem goesOn_reduceOp (s : State) (q seq sub : Nat) (f : Cmd → Tensor → Tensor → RoundEnv → List (List Nat) → OpRes) :
    GoesOn (State.reduceOp s q seq sub f) := by
  unfold State.reduceOp
  repeat' split
  · exact goesOn_next _
  · exact goesOn_next _
  · exact goesOn_onStart ..

@[simp] theorem goesOn_rdmaCmd (s : State) (q seq opcode : Nat) (ok : Cmd → Bool) : GoesOn (State.rdmaCmd s q seq opcode ok) := by
  unfold State.rdmaCmd
  repeat' split
  · exact goesOn_next _
  · exact goesOn_onStart ..
  · exact goesOn_next _

@[simp] theorem goesOn_collOp (s : State) (q seq sub : Nat) : GoesOn (State.collOp s q seq sub) := by
  unfold State.collOp
  split
  · exact goesOn_next _
  · split
    · exact goesOn_next _
    · split
      · exact goesOn_next _
      · exact goesOn_onStart ..

theorem goesOn_execExactAddApply (core txn : Nat) (s : State) : GoesOn (execExactAddApply core txn s) := by
  unfold execExactAddApply
  dsimp only
  repeat' split
  all_goals exact goesOn_next _

@[simp] theorem goesOn_barrierOp (s : State) (x : Issue) (arrives : Bool) (rule : BarRule) : GoesOn (s.barrierOp x arrives rule) := by
  unfold State.barrierOp
  split
  · exact goesOn_next _
  · exact goesOn_onIssue ..

theorem goesOn_exec (c : Instr) (s : State) : GoesOn (exec c s) := by
  cases c
  all_goals
    simp only [exec,
      execEventDrain, goesOn_execEventIrqDeferred, goesOn_execFaultBatchClose, goesOn_execStreamPrefetch,
      goesOn_execInvalidAccess, execRegionStop, execHostInterfaceFault, goesOn_execSeamFail, execPowerPeriod, execPowerReport,
      execPowerReportTimeout, execThermalSample, goesOn_execFastLimitSample, goesOn_execSupplyFault, execDroop,
      execVddUndervoltage, execVddOvervoltage, execAgeingUpdate, execWatchdogExpiry, execFirmwareRestartDone, execStageImage,
      goesOn_execStagingDone, execActivate, execActivateOnReset, execActivateCancel, goesOn_execActivationQuiesce,
      goesOn_execQuiesceTimeout, goesOn_execConfirmTimeout, goesOn_execActivationConfirm, goesOn_execFwuNoRootTimeout,
      goesOn_execRowRetire, execLaneRetrain, execLaneTrainingDone, execEvtBaseWrite, execCalExport, execCalImport,
      execGetVersion, execGetCapabilities, execNegotiateAlgorithms, execGetDigests, execGetCertificate, execChallenge,
      execGetMeasurements, execKeyExchange, execFinish, execHeartbeat, execKeyUpdate, execEndSession, execGetSessionToken,
      execMacsecSetSa, execMacsecClearSa, execSetPolicy, execQuery, execKeyProg, execKSetGo, execKSetStop, execIdeCheckFail,
      execMacsecTxAnWrite, execMemCryptEnable, execSetEndpointId, execGetEndpointId, execGetEndpointUuid,
      execGetMctpVersionSupport, execGetMessageTypeSupport, execSetdasa, execEntdaa, execSetTid, execGetTid,
      execGetPldmVersion, execGetPldmTypes, execGetPldmCommands, execGetPdrRepositoryInfo, execGetPdr, execGetSensorReading,
      execGetStateSensorReadings, execSetNumericEffecterValue, execGetNumericEffecterValue, execSideCfgWrite,
      execSetStateEffecterStates, goesOn_execSidePulseEnd, execSetEventReceiver, execGetFruRecordTableMetadata,
      execGetFruRecordTable, execRequestUpdate, execPassComponentTable, execUpdateComponent, execActivateFirmware,
      execGetStatus, execCancelUpdateComponent, execCancelUpdate, goesOn_execRecoveryImage, goesOn_execFrameReceive,
      execPfcReceive, execRateRecovery, execAckCoalesceTimeout, execBarrierDeadlock, goesOn_execDeferredFault,
      execFaultRelease, execFaultReadWrite, goesOn_execGroupPromotion, goesOn_execSetPromotion, execMov, execAdd, execSub,
      execMul, execMulhi, execMad, execMin, execMax, execAnd, execOr, execXor, execNot, execShl, execShr, execSar, execPopc,
      execClz, execBfe, execSel, execCmp, execShfl, execVote, execPop, execFpAdd, execFpSub, execFpMul, execFpFma, execFpDiv,
      execFpSqrt, execFpMin, execFpMax, execFpNeg, execFpAbs, execFpCmp, execFpClass, execFpFromint, execFpToint, execFpExp,
      execFpLog, execFpRsqrt, execFpSin, execFpCos, execCvt, execNop, execBra, execCall, execJmp, execConverge,
      goesOn_execConvergeRelease, execExit, execTrap, execBarSync, execBarArrive, execBarWait, execCntAdd, execCntWait,
      execCntClaim, execCntRead, execCounterArbitration, goesOn_execCounterDeadline, execRegionCounterGrant,
      execRegionCounterRevoke, goesOn_execRetentionEntry, execRetentionExit, execSysGet, goesOn_execTaskBind,
      goesOn_execCoreTaskBegin, goesOn_execWorkgroupDispatch, goesOn_execTimeLimitExpiry, goesOn_execContextSwitch,
      goesOn_execContextResume, execCellFault, goesOn_execBlockFault, execCoreDisable, execWriteBatchTurn,
      goesOn_execVictimOffer, execReadShared, execReadUnique, execReadUniqueNoData, goesOn_execUpgrade, goesOn_execCleanEvict,
      goesOn_execWriteBack, goesOn_execGrantAcknowledge, goesOn_execSnoopShared, goesOn_execSnoopInvalidate,
      goesOn_execSnoopPeek, goesOn_execSnoopPurge, execAgentReclaim, execNonCachingRead, execNonCachingWrite,
      goesOn_execNonCachingAtomic, execStackTempRead, execStackOffline, goesOn_execScrub, execSplitChange,
      goesOn_execSplitChangeDone, goesOn_execFineRequest, execXfrRetry, execXfrFailUnmapped, execXfrFailPermission,
      execXfrReadWrite, goesOn_execTlbInvalidate, execCtxPtWrite, execSfenceBroadcast, execGrantWrite, execGrantFlushWrite,
      execRecordStart, execRecordStop, execReplayStart, execReplayStop, execSkbRelease, execJournalFlush, execSkbMark,
      execSkbCheck, execReplayPauseSeq, execReplayStall, execQueueEnable, execQueueDisable, execSqDoorbell, execCqDoorbell,
      goesOn_execCommandFetch, goesOn_execCompletionRecord, execNopCommand, execFence, goesOn_execLaunch, execCntAddCommand,
      execCntWaitCommand, execAlloc, execFree, execHostToDev, execDevToHost, execCopy, execFill, execInlineWrite,
      goesOn_execDmaChunk, execPartitionReset, execInsertion, execMainSwitchClose, execExtraction, execInputUndervoltage,
      execInputReturn, execPowerUp, execPerstDeassert, execRefclkLoss, execRefclkReturn, execHostLinkUp, execColdReset,
      execWarmReset, execStandbyEntry, execStandbyExit, execHostLoss, execHeartbeatExpiry, execHeartbeatKick, execDetach,
      execAttachFresh, execResume, execResumeHost, execTokenRead, goesOn_execTokenLockoutEnd, execVfFlr, execVfAssign,
      goesOn_execRecordMerge, execMatmul, execConv, execMapConvert, execMapAdd, execMapSubtract, execMapMultiply, execMapFma,
      execMapDivide, execMapSquareRoot, execMapMin, execMapMax, execMapRelu, execMapExp, execMapLog,
      execMapReciprocalSquareRoot, execMapSine, execMapCosine, execReduceSum, execReduceMin, execReduceMax, execSort,
      execSelect, execRdmaWrite, execRdmaRead, execRdmaCntAdd, execRdmaWritePacket, execRdmaReadRequest, execRdmaReadResponse,
      execRoceAcknowledge, execRoceNak, execCnp, execRnrRetryTimeout, execRetransmitTimeout, execFletusAck, execFletusNack,
      execRemoteOp, execCmd, execCmdDone, execFletusData, execFletusRecord, execAllReduce, execReduceScatter, execAllGather,
      execBroadcast, execReduceToRoot, execRecordAllReduce, execCollectiveBarrier, execPrepare, execPrepareAck,
      execNotPrepared, execArm, execArmAck, execAbort, execAbortAck, goesOn_execLaunchChildTimeout, execLaunchHoldTimeout,
      execJobLoad, execJobTeardown, goesOn_execTeardownDone, execPtpSync, execPtpSyncLoss, execSplitWrite, execRegisterWrite,
      execCountCtlClear, execBarAccess, execBar2Access, execApertureAccess, goesOn_execBarReadTimeout, execLd, execSt,
      execAtomAdd, execAtomMin, execAtomMax, execAtomAnd, execAtomOr, execAtomXor, execAtomExch, execAtomCas, execAtomExact,
      execAtomLf, execFenceWg, execFencePart, execFenceRemote, execFenceGlobal, execNcInv, goesOn_execLoadReturn,
      goesOn_execExactAddApply, goesOn_execLongFormAdd, execTmCopy, goesOn_execTileMoveComplete, execMxMma, execMxLdlf,
      execMxZero, execMxDrain, goesOn_execMatrixInstructionStart, goesOn_execReplayEntry,
      State.mctp, State.pldmRequest, State.updateCommand, State.inUpdate, State.intOp, State.int2, State.int1, State.fpOp, State.fuOp, State.cntOp,
      State.cntWaitOp, State.cohFromI, State.onRespond, State.onSkbMode, State.onSession, State.onFletus, State.onLaunch, State.atom, State.fenceOp,
      ite_self, goesOn_ite, goesOn_next, goesOn_onWrite, goesOn_onStart, goesOn_onPacket, goesOn_onIssue, goesOn_barrierOp,
      State.reducePick, goesOn_mapOp, goesOn_reduceOp, goesOn_rdmaCmd, goesOn_collOp]

/-- Settles O60: every command answers through a form that goes on, and so does a tick. -/
theorem everyStepGoesOn : Obligations.EveryStepGoesOn := fun s => by
  refine ⟨?_, fun c => goesOn_exec c s⟩
  match hp : s.pending with
  | [] => exact ⟨s.tick, step_of_empty hp⟩
  | c :: rest =>
    obtain ⟨t, ht⟩ := goesOn_exec c { s with pending := rest }
    exact ⟨t, (step_of_front hp).trans ht⟩

end Sys2Proof.Machine
end

section
/-! PROOFS. Writes of memory and the fine atomics at their cells (R182, R286, R484). -/

namespace Sys2Proof.Machine

open Sys2Proof.Claims

-- poison marks under a write

theorem NMap.has_del {α : Type} (m : NMap α) (i j : Nat) : (m.del i).has j = (m.has j && !decide (i = j)) := by
  unfold NMap.has
  rw [NMap.get?_del]
  by_cases h : i = j <;> simp [h]

theorem State.clearPoison_has (s : State) (b k : Nat) : (s.clearPoison b).poison.has k = (s.poison.has k && !decide (b = k)) :=
  NMap.has_del s.poison b k

/-- Clearing the marks of some blocks of a list leaves every other mark. -/
theorem State.foldl_clearPoison_has (p : Nat → Prop) [DecidablePred p] (k : Nat) (l : List Nat) : ∀ s : State,
    (l.foldl (fun t b => if p b then t.clearPoison b else t) s).poison.has k =
      (s.poison.has k && !(decide (k ∈ l) && decide (p k))) := by
  induction l with
  | nil => intro s; simp
  | cons b l ih =>
    intro s
    rw [List.foldl_cons, ih]
    by_cases hbk : b = k
    · subst hbk
      by_cases hp : p b <;> simp [hp, State.clearPoison_has]
    · have hkb : k ≠ b := Ne.symm hbk
      by_cases hp : p b <;> simp [hp, State.clearPoison_has, hbk, hkb]

/-- Where no stack is offline, a write of memory writes its bytes and clears the marks of the blocks it covers wholly. -/
theorem State.writeMem_eq_of_online {s : State} {a : Nat} {bs : List Byte} (h : s.rangeOnline a bs.length) :
    s.writeMem a bs = (blocksOf a bs.length).foldl
      (fun t b => if a ≤ b * 32 ∧ b * 32 + 32 ≤ a + bs.length then t.clearPoison b else t) (s.writeBytes a bs) := by
  unfold State.writeMem
  dsimp only
  rw [if_pos]
  refine List.filter_eq_nil_iff.2 fun b hb hbad => ?_
  split at hbad
  · next k hk => exact Bool.false_ne_true ((h b hb k hk).symm.trans hbad)
  · exact Bool.false_ne_true hbad

/-- Where no stack is offline, a write clears the marks of the blocks it covers wholly, and no other (R484). -/
theorem State.writeMem_poison_of_online {s : State} {a : Nat} {bs : List Byte} (h : s.rangeOnline a bs.length) (k : Nat) :
    (s.writeMem a bs).poison.has k =
      (s.poison.has k && !(decide (k ∈ blocksOf a bs.length) && decide (a ≤ k * 32) && decide (k * 32 + 32 ≤ a + bs.length))) := by
  obtain ⟨m, hm⟩ := s.writeBytes_only_mem bs a
  rw [State.writeMem_eq_of_online h, State.foldl_clearPoison_has, hm, Bool.decide_and, Bool.and_assoc]

/-- Settles O17: where no stack is offline a write is a write of its bytes that clears the marks of the blocks it covers. -/
theorem memoryWriteReadBack : Obligations.MemoryWriteReadBack := fun _ _ _ hon =>
  ⟨State.readBytes_writeMem_of_online hon,
    fun k hk => (State.readByte_writeMem_of_online hon k).trans (if_neg (by omega)),
    State.writeMem_poison_of_online hon⟩

/-- A range that reads no poison touches no offline stack (R286). -/
theorem State.rangeOnline_of_not_poisoned {s : State} {a n : Nat} (h : s.poisoned a n = false) : s.rangeOnline a n := by
  intro b hb k hk
  have hblock : s.blockPoisoned b = false := by simpa using List.any_eq_false.1 h b hb
  unfold State.blockPoisoned at hblock
  rw [hk] at hblock
  exact (Bool.or_eq_false_iff.1 hblock).2

-- integer atomics (R182)

theorem leNat_lt (bs : List Byte) : leNat bs < 256 ^ bs.length := by
  induction bs with
  | nil => exact Nat.one_pos
  | cons b bs ih =>
    have hb := b.isLt
    show b.toNat + 256 * leNat bs < 256 ^ (bs.length + 1)
    rw [pow_succ']
    omega

/-- A range free of poison takes what an atomic makes of its old value, and no other byte changes. -/
theorem State.atomicAt_gives {s : State} {a size : Nat} (op : AtomOp) (signed : Bool) (b c : Nat) (h : s.poisoned a size = false) :
    (s.atomicAt a op signed size b c).readBytes a size =
      leBytes size (op.apply signed (8 * size) (leNat (s.readBytes a size)) (b % 2 ^ (8 * size)) (c % 2 ^ (8 * size))) ∧
    ∀ k, k < a ∨ a + size ≤ k → (s.atomicAt a op signed size b c).readByte k = s.readByte k := by
  have hgo : s.atomicAt a op signed size b c = s.writeMem a (leBytes size (op.apply signed (8 * size) (leNat (s.readBytes a size))
      (b % 2 ^ (8 * size)) (c % 2 ^ (8 * size)))) := if_neg (by simp [h])
  rw [hgo]
  generalize hbs : leBytes size _ = bs
  have hlen : bs.length = size := hbs ▸ length_leBytes ..
  have hon := State.rangeOnline_of_not_poisoned h
  rw [← hlen] at hon ⊢
  exact ⟨State.readBytes_writeMem_of_online hon, fun k hk => (State.readByte_writeMem_of_online hon k).trans (if_neg (by omega))⟩

/-- Bit patterns of a width, as words. -/
theorem ofNat_leNat_leBytes {w : Nat} (hw : w = 32 ∨ w = 64) (v : Nat) :
    BitVec.ofNat w (leNat (leBytes (w / 8) v)) = BitVec.ofNat w v := by
  have hpow : (256 : Nat) ^ (w / 8) = 2 ^ w := by rcases hw with rfl | rfl <;> rfl
  apply BitVec.eq_of_toNat_eq
  rw [leNat_leBytes, hpow, BitVec.toNat_ofNat, BitVec.toNat_ofNat, Nat.mod_mod]

section Apply

variable {w : Nat} (signed : Bool) (old vb vc : BitVec w)

/-- The order of minimum and maximum is that of words, signed or unsigned. -/
theorem atom_lt (x y : BitVec w) :
    (if signed then decide (toSigned w x.toNat < toSigned w y.toNat) else decide (x.toNat < y.toNat)) =
      if signed then x.slt y else x.ult y := by
  cases signed
  · rfl
  · simp only [if_true, toSigned_toNat]; rfl

/-- What each atomic makes of the old value, B and C, said of words (R182). -/
theorem AtomOp.ofNat_apply :
    let lt := fun (x y : BitVec w) => if signed then x.slt y else x.ult y
    let v := fun (op : AtomOp) => BitVec.ofNat w (op.apply signed w old.toNat vb.toNat vc.toNat)
    v .add = old + vb ∧ v .min = (if lt old vb then old else vb) ∧ v .max = (if lt old vb then vb else old) ∧ v .and = old &&& vb ∧
      v .or = old ||| vb ∧ v .xor = old ^^^ vb ∧ v .exch = vb ∧ v .cas = (if old = vc then vb else old) := by
  refine ⟨?_, ?_, ?_, ofNat_and_toNat old vb, ofNat_or_toNat old vb, ofNat_xor_toNat old vb, ofNat_toNat_self vb, ?_⟩
  · show BitVec.ofNat w ((old.toNat + vb.toNat) % 2 ^ w) = _
    rw [← BitVec.toNat_add, ofNat_toNat_self]
  · simp only [AtomOp.apply, atom_lt, apply_ite (BitVec.ofNat w), ofNat_toNat_self]
  · simp only [AtomOp.apply, atom_lt, apply_ite (BitVec.ofNat w), ofNat_toNat_self]
  · simp only [AtomOp.apply, BitVec.toNat_inj, apply_ite (BitVec.ofNat w), ofNat_toNat_self]

end Apply

/-- Settles O16: an atomic writes what it makes of the old value, B and C, and each operation is that of words. -/
theorem atomicOperations : Obligations.AtomicOperations := by
  intro s a signed b c w hw size hok old vb vc lt after
  have hsize : 8 * size = w := by show 8 * (w / 8) = w; omega
  have hpow : (256 : Nat) ^ size = 2 ^ w := by rcases hw with rfl | rfl <;> rfl
  have hold : leNat (s.readBytes a size) = old.toNat := by
    have hlt := leNat_lt (s.readBytes a size)
    rw [s.readBytes_length, hpow] at hlt
    exact (Nat.mod_eq_of_lt hlt).symm
  have hafter (op : AtomOp) (v : BitVec w) (hv : BitVec.ofNat w (op.apply signed w old.toNat vb.toNat vc.toNat) = v) : after op v := by
    obtain ⟨hbytes, hrest⟩ := State.atomicAt_gives op signed b c hok
    refine ⟨?_, hrest⟩
    rw [hbytes, ofNat_leNat_leBytes hw, hsize, hold]
    exact hv
  obtain ⟨hadd, hmin, hmax, hand, hor, hxor, hexch, hcas⟩ := AtomOp.ofNat_apply signed old vb vc
  exact ⟨hafter _ _ hadd, hafter _ _ hmin, hafter _ _ hmax, hafter _ _ hand, hafter _ _ hor, hafter _ _ hxor, hafter _ _ hexch,
    hafter _ _ hcas⟩

end Sys2Proof.Machine
end

section
/-! PROOFS. How what is outstanding completes: loads, exact-cell adds and long-form adds (R134, R184, R185, R283, R284). -/

namespace Sys2Proof.Machine

open Sys2Proof.Claims

-- updates that leave memory as it is

/-- Two states whose bytes and poison marks are the same. -/
def SameMemory (s t : State) : Prop := t.mem = s.mem ∧ t.scrambled = s.scrambled ∧ t.poison = s.poison

theorem SameMemory.refl (s : State) : SameMemory s s := ⟨rfl, rfl, rfl⟩

theorem SameMemory.trans {s t u : State} (h : SameMemory s t) (h' : SameMemory t u) : SameMemory s u :=
  ⟨h'.1.trans h.1, h'.2.1.trans h.2.1, h'.2.2.trans h.2.2⟩

theorem SameMemory.readByte {s t : State} (h : SameMemory s t) (a : Nat) : t.readByte a = s.readByte a := by
  obtain ⟨hm, hs, -⟩ := h
  unfold State.readByte State.memDefault
  rw [hm, hs]

theorem SameMemory.readBytes {s t : State} (h : SameMemory s t) (n : Nat) : ∀ a, t.readBytes a n = s.readBytes a n := by
  induction n with
  | zero => intro a; rfl
  | succ n ih => intro a; exact congrArg₂ List.cons (h.readByte a) (ih (a + 1))

theorem SameMemory.giveRegs (s : State) (core pos : Nat) (ws : List RegWrite) : SameMemory s (s.giveRegs core pos ws) := ⟨rfl, rfl, rfl⟩

theorem SameMemory.bump (s : State) (f : Fld) (n v : Nat) : SameMemory s (s.bump f n v) := ⟨rfl, rfl, rfl⟩

theorem SameMemory.stkCount (s : State) (f : Fld) (k n : Nat) : SameMemory s (s.stkCount f k n) := by
  unfold State.stkCount State.bumpRun
  split
  · exact SameMemory.bump ..
  · exact SameMemory.refl s

-- the sum of an exact cell (R283, R284)

/-- The sum of two's-complement numbers, reduced, is the sum of their bit patterns, reduced. -/
theorem toUnsigned_toSigned_add (w a b : Nat) : toUnsigned w (toSigned w a + toSigned w b) = (a + b) % 2 ^ w := by
  have hmod (n : Nat) : toSigned w n = ((BitVec.ofNat w n).toInt) := by
    rw [← toSigned_toNat, BitVec.toNat_ofNat]
    unfold toSigned
    rw [Nat.mod_mod]
  rw [← toNat_ofInt_eq_toUnsigned, hmod, hmod, BitVec.ofInt_add, BitVec.ofInt_toInt, BitVec.ofInt_toInt, ← BitVec.ofNat_add,
    BitVec.toNat_ofNat]

/-- A range shorter than a block covers none wholly, so a write of it clears no mark. -/
theorem State.writeMem_poison_of_short {s : State} {a : Nat} {bs : List Byte} (h : s.rangeOnline a bs.length) (hlen : bs.length < 32) :
    (s.writeMem a bs).poison = s.poison := by
  have hclear (l : List Nat) (t : State) :
      l.foldl (fun t b => if a ≤ b * 32 ∧ b * 32 + 32 ≤ a + bs.length then t.clearPoison b else t) t = t := by
    induction l with
    | nil => rfl
    | cons b l ih => rw [List.foldl_cons, if_neg (by omega), ih]
  obtain ⟨m, hm⟩ := s.writeBytes_only_mem bs a
  rw [State.writeMem_eq_of_online h, hclear, hm]

/-- A write of 16 bytes of a number where no poison is: the cell reads the number, no other byte and no mark changes. -/
theorem State.writeMem_cell {s : State} {a : Nat} (h : s.poisoned a 16 = false) (v : Nat) :
    leNat ((s.writeMem a (leBytes 16 v)).readBytes a 16) = v % 2 ^ 128 ∧
    (∀ k, k < a ∨ a + 16 ≤ k → (s.writeMem a (leBytes 16 v)).readByte k = s.readByte k) ∧
    (s.writeMem a (leBytes 16 v)).poison = s.poison := by
  have hval : leNat (leBytes 16 v) = v % 2 ^ 128 := leNat_leBytes 16 v
  have hlen : (leBytes 16 v).length = 16 := length_leBytes ..
  generalize leBytes 16 v = bs at hval hlen ⊢
  have hon := State.rangeOnline_of_not_poisoned h
  rw [← hlen] at hon ⊢
  exact ⟨by rw [State.readBytes_writeMem_of_online hon, hval],
    fun k hk => (State.readByte_writeMem_of_online hon k).trans (if_neg (by omega)),
    State.writeMem_poison_of_short hon (by omega)⟩

section Completions

variable {s : State} {core txn : Nat} {t : Txn}

/-- A load gives its group its registers and fills the near cache but for the lines that an atomic keeps out (R134, R224). -/
theorem execLoadReturn_load {ws : List RegWrite} {uni : Bool} {fills : List NcLine} (ans : HostAns)
    (ht : (s.core core).txns.find? (fun t => decide (t.id = txn)) = some t) (hk : t.kind = .load ws uni fills) :
    execLoadReturn core txn ans s = .next (((s.giveRegs core t.pos ws).setCore core
      ((fills.filter (fun f => decide (f.line ∉
          ((s.core core).txns.filter (fun u => decide (u.id ≠ txn))).flatMap (fun u => u.atomLines)))).foldl CoreSt.ncInstall
        ((s.giveRegs core t.pos ws).core core))).retire core t) := by
  unfold execLoadReturn
  dsimp only
  rw [ht]
  dsimp only
  rw [hk]

/-- An exact-cell add puts the sum modulo 2^128 into its cell (R283, R284). -/
theorem execExactAddApply_exact {pa addend : Nat} {dest : Option (Nat × Nat)} {va : Word}
    (ht : (s.core core).txns.find? (fun t => decide (t.id = txn)) = some t) (hk : t.kind = .exact pa addend dest va)
    (hready : (s.core core).addReady t = true)
    (hok : (s.ncAtomic ((s.paKind pa).region?.getD 0) (pa / 32)).poisoned pa 16 = false) :
    ∃ w : State, execExactAddApply core txn s = .next (w.retire core t) ∧
      SameMemory ((s.ncAtomic ((s.paKind pa).region?.getD 0) (pa / 32)).writeMem pa (leBytes 16 (toUnsigned 128
        (toSigned 128 (leNat ((s.ncAtomic ((s.paKind pa).region?.getD 0) (pa / 32)).readBytes pa 16)) + toSigned 128 addend)))) w := by
  unfold execExactAddApply
  dsimp only
  rw [ht]
  dsimp only
  rw [hk]
  dsimp only
  rw [if_neg (by simp [hready]), if_neg (by simp [hok])]
  refine ⟨_, rfl, ?_⟩
  generalize State.writeMem _ _ _ = v
  have hcount (wrapped : Bool) : SameMemory v (if wrapped then
      match (s.paKind pa).stack? with
      | some st => v.stkCount F.stkExactWrapsCount st 1
      | none => v.bump F.regSramExactWrapsCount ((s.paKind pa).region?.getD 0)
    else v) := by
    split
    · split
      · exact SameMemory.stkCount ..
      · exact SameMemory.bump ..
    · exact SameMemory.refl v
  split
  · exact (hcount _).trans (SameMemory.giveRegs ..)
  · exact hcount _

/-- A long-form add puts the sum into its slot, piece by piece, and raises its status bits (R185). -/
theorem execLongFormAdd_longForm {ps : List (Nat × Nat)} {src : List Byte} {va : Word}
    (ht : (s.core core).txns.find? (fun t => decide (t.id = txn)) = some t) (hk : t.kind = .longForm ps src va)
    (hready : (s.core core).addReady t = true) {v : State}
    (hv : v = (ps.flatMap (fun p => blocksOf p.1 p.2)).foldl (fun (u : State) b =>
      u.ncAtomic (((u.paKind (b * 32)).region?).getD 0) b) s)
    (hok : ∀ p ∈ ps, v.poisoned p.1 p.2 = false) :
    let a := LongForm.read src
    let b := LongForm.read (ps.flatMap (fun p => v.readBytes p.1 p.2))
    let sum := a.1.add b.1
    let bytes := (sum.1.pack ++ List.replicate a.1.cls.slotBytes 0).take a.1.cls.slotBytes
    execLongFormAdd core txn s = .next
      (((ps.foldl (fun (acc : State × List Byte) p => (acc.1.writeMem p.1 (acc.2.take p.2), acc.2.drop p.2)) (v, bytes)).1.orDrain
        t.ctx ({ sum.2 with form := sum.2.form || a.2 || b.2 } : LfEvents).toStatus).retire core t) := by
  have hnone : ps.find? (fun p => v.poisoned p.1 p.2) = none := List.find?_eq_none.2 fun p hp => by simp [hok p hp]
  intro a b sum bytes
  unfold execLongFormAdd
  dsimp only
  rw [ht]
  dsimp only
  rw [hk]
  dsimp only
  rw [if_neg (by simp [hready]), ← hv, hnone]

end Completions

/-- Settles O15: each completion is the branch of its command's meaning for its transaction's kind; the exact cell's write is read
back, and a write of 16 bytes clears no poison mark. -/
theorem memoryCompletions : Obligations.MemoryCompletions := by
  intro s core txn ans t ht
  refine ⟨fun ws uni fills hk => execLoadReturn_load ans ht hk, ?_, ?_⟩
  rotate_left
  · intro ps src va hk hready v hok
    exact execLongFormAdd_longForm ht hk hready rfl hok
  intro pa addend dest va hk hready v hok
  obtain ⟨w, hw, hsame⟩ := execExactAddApply_exact ht hk hready hok
  rw [toUnsigned_toSigned_add] at hsame
  obtain ⟨hcell, hrest, hpoison⟩ := State.writeMem_cell hok ((leNat (v.readBytes pa 16) + addend) % 2 ^ 128)
  refine ⟨w, hw, ?_, fun a ha => (hsame.readByte a).trans (hrest a ha), hsame.2.2.trans hpoison⟩
  rw [hsame.readBytes, hcell, Nat.mod_mod]

end Sys2Proof.Machine
end

section
/-! PROOFS. Shared local memory, argument space, fences and near-cache invalidation (R130, R131, R146, R186, R221, R229, R249). -/

namespace Sys2Proof.Machine

open Sys2Proof.Claims

-- the paths of an access

section Access

variable {u : State} {x : Issue} {r : Ready} {op : MemOp}

/-- The lowest misaligned lane is reported, before anything else is looked at (R146). -/
theorem State.memAccess_of_misaligned {l : LaneAcc} (hk : op.kind ≠ .longForm)
    (h : op.lanes.find? (fun l => decide (l.addr.toNat % op.size ≠ 0)) = some l) :
    u.memAccess x r op = u.precise x r 0x05 op.size l.addr := by
  unfold State.memAccess
  simp only [if_neg hk]
  rw [h]

/-- An aligned access goes to its space. -/
theorem State.memAccess_of_aligned (hk : op.kind ≠ .longForm) (h : Aligned op op.size) :
    u.memAccess x r op = match x.space with
      | 0 => u.global x r op
      | 1 => u.shared x r op
      | _ => u.argument x r op := by
  have hnone : op.lanes.find? (fun l => decide (l.addr.toNat % op.size ≠ 0)) = none :=
    List.find?_eq_none.2 fun l hl => by simp [h l hl]
  unfold State.memAccess
  simp only [if_neg hk]
  rw [hnone] <;> rfl

theorem State.memAccess_shared (hk : op.kind ≠ .longForm) (h : Aligned op op.size) (hs : x.space = 1) :
    u.memAccess x r op = u.shared x r op := by
  rw [State.memAccess_of_aligned hk h, hs]
  rfl

theorem State.memAccess_argument (hk : op.kind ≠ .longForm) (h : Aligned op op.size) (hs : x.space = 2) :
    u.memAccess x r op = u.argument x r op := by
  rw [State.memAccess_of_aligned hk h, hs]
  rfl

theorem find?_outside_slot_eq_none (h : InSlot r op) :
    op.lanes.find? (fun l => decide (l.addr.toNat < r.slmRange.1) || decide (r.slmRange.2 < l.addr.toNat + op.size)) = none :=
  List.find?_eq_none.2 fun l hl => by
    obtain ⟨hlo, hhi⟩ := h l hl
    simp only [Bool.or_eq_true, decide_eq_true_eq]
    omega

/-- The lowest lane outside its workgroup's slot is reported (R131). -/
theorem State.shared_of_outside {l : LaneAcc}
    (h : op.lanes.find? (fun l => decide (l.addr.toNat < r.slmRange.1) || decide (r.slmRange.2 < l.addr.toNat + op.size)) = some l) :
    u.shared x r op = u.precise x r 0x06 0 l.addr := by
  unfold State.shared
  dsimp only
  rw [h]

/-- A load of shared memory free of poison gives its lanes the bytes there at once (R221). -/
theorem State.shared_load (hk : op.kind = .load) (h : InSlot r op)
    (hok : ∀ l ∈ op.lanes, (u.core x.core).slmBad l.addr.toNat op.size = false) :
    u.shared x r op = (u.bumpRun F.schCountCtlRun F.schBankReplaysCount x.core
        (bankReplays (op.lanes.map (fun l => l.addr.toNat)) op.size)).done x r
      ((op.lanes.flatMap (fun l => op.returns l.lane (leNat ((u.core x.core).slmBytes l.addr.toNat op.size)))).foldl
        Group.applyWrite r.g) := by
  have hgood : op.lanes.filter (fun l => !(u.core x.core).slmBad l.addr.toNat op.size) = op.lanes :=
    List.filter_eq_self.2 fun l hl => by simp [hok l hl]
  have hbad : op.lanes.filter (fun l => (u.core x.core).slmBad l.addr.toNat op.size) = [] :=
    List.filter_eq_nil_iff.2 fun l hl => by simp [hok l hl]
  unfold State.shared
  dsimp only
  rw [find?_outside_slot_eq_none h]
  dsimp only
  rw [if_neg (by simp [hk]), hk]
  dsimp only
  rw [hgood, hbad]
  rfl

/-- A store to shared memory that no matrix instruction of the group has still to read is performed at once (R111, R221). -/
theorem State.shared_store (hk : op.kind = .store) (h : InSlot r op)
    (hok : ∀ l ∈ op.lanes, (u.core x.core).staging r.k.desc.layout x.pos l.addr.toNat op.size = false) :
    ∃ v : State, v = (u.bumpRun F.schCountCtlRun F.schBankReplaysCount x.core
        (bankReplays (op.lanes.map (fun l => l.addr.toNat)) op.size)).done x r r.g ∧
      u.shared x r op = v.setCore x.core
        ((v.core x.core).slmStore (op.storeBytes (op.lanes.map (fun l => (l, l.addr.toNat))))) := by
  have hstage : ((op.lanes.map (fun l => l.addr.toNat)).any
      (fun o => (u.core x.core).staging r.k.desc.layout x.pos o op.size)) = false := by
    simpa [List.any_map] using hok
  refine ⟨_, rfl, ?_⟩
  unfold State.shared
  dsimp only
  rw [find?_outside_slot_eq_none h]
  dsimp only
  rw [hstage, Bool.and_false, if_neg Bool.false_ne_true, hk]

end Access

-- loads and stores

section LoadStore

variable {s u : State} {x : Issue} {r : Ready}

theorem exec_ld (h : Executes s x (x.regs (.reg x.dataWidth) (.reg x.baseWidth) .none .none) (fun r => x.ldBad r.k.desc.regs) r u) :
    exec (.ld x) s = .next (u.memAccess x r (x.memOp r .load (2 ^ x.memSize) true)) := by
  show execLd x s = _
  exact State.onIssue_of_executes _ h

theorem exec_st (h : Executes s x (x.regs .none (.reg x.baseWidth) (.reg x.dataWidth) .none)
      (fun r => x.fieldsBad r.k.desc.regs .none (.reg x.baseWidth) (.reg x.dataWidth) .none
        ++ x.memBad r.k.desc.regs (decide (x.space ≤ 1)) (decide (x.memSize ≤ 4)) false (decide (x.space = 0))) r u) :
    exec (.st x) s = .next (u.memAccess x r (x.memOp r .store (2 ^ x.memSize) false)) := by
  show execSt x s = _
  exact State.onIssue_of_executes _ h

end LoadStore

-- fences (R229, R249)

/-- Has a transaction a store of the host window still to make? -/
def Txn.isHostStore (t : Txn) : Bool :=
  match t.kind with
  | .host op _ _ _ _ => decide (op.kind = .store)
  | _ => false

/-- The core of an issued fence: its group waits for what is numbered below, and a flushing read goes behind the host writes of the
groups that the fence minds. -/
def Ready.fenceCore (r : Ready) (x : Issue) (kind : Nat) (mine : Nat → Bool) (flush : Bool) (y : CoreSt) : CoreSt :=
  { y with
    groups := y.groups.map (fun (g : Nat × Group) =>
      let h : Group := if flush && mine g.1 then { g.2 with hostWrote := false } else g.2
      (g.1, if g.1 = x.pos then { h with fence := some (kind, y.nextId + 1) } else h)),
    nextId := y.nextId + 1,
    txns := if flush then y.txns ++
        [{ id := y.nextId, ctx := r.k.ctx, task := r.t, pos := x.pos, pc := r.pc, mask := laneMask r.set, kind := .flush }]
      else y.txns }

section Fences

variable {s u : State} {x : Issue} {r : Ready} (h : Executes s x [] (fun _ => x.ctlBad false false false false) r u)
include h

theorem State.fenceOp_of_executes (kind : Nat) (mine : Nat → Bool) (flush : Bool)
    (hm : ∀ p, mine p = (decide (kind = 3) || decide (p = x.pos)))
    (hf : flush = (decide (2 ≤ kind) && (r.x.groups.any (fun g => mine g.1 && g.2.hostWrote)
      || r.x.txns.any (fun t => mine t.pos && t.isHostStore)))) (he : r.exec ≠ []) :
    s.fenceOp x kind = .next ((u.done x r r.g).setCore x.core
      (r.fenceCore x kind mine flush ((u.done x r r.g).core x.core)).settleFences) := by
  obtain rfl : mine = fun p => decide (kind = 3) || decide (p = x.pos) := funext hm
  subst hf
  unfold State.fenceOp
  rw [State.onIssue_of_executes _ h, if_neg he]
  rfl

/-- A fence with no executing lane only advances. -/
theorem State.fenceOp_of_idle (kind : Nat) (he : r.exec = []) : s.fenceOp x kind = .next (u.done x r r.g) := by
  unfold State.fenceOp
  rw [State.onIssue_of_executes _ h, if_pos he]

theorem execNcInv_of_executes :
    execNcInv x s = .next (if r.exec = [] then u.done x r r.g else
      (u.done x r r.g).setCore x.core ((u.done x r r.g).core x.core).ncInvalidate) := by
  unfold execNcInv
  rw [State.onIssue_of_executes _ h]

end Fences

/-- Settles O14: an access takes the path of its space, whose checks its conditions decide; a fence holds its group, and its kind
says whose host writes it minds. -/
theorem sharedMemoryAndFences : Obligations.SharedMemoryAndFences := by
  refine ⟨fun s x r u => ⟨fun h => ?_, fun h => ?_⟩, fun s x r u h => ?_⟩
  · have hld : (x.memOp r .load (2 ^ x.memSize) true).kind ≠ .longForm := by simp [Issue.memOp]
    intro op y
    rw [exec_ld h]
    refine ⟨fun hs hal hin hok => ?_, fun hs hal => ?_, fun l hl => ?_, fun l hs hal hl => ?_⟩
    · rw [State.memAccess_shared hld hal hs, State.shared_load rfl hin hok]
    · rw [State.memAccess_argument hld hal hs]; rfl
    · rw [State.memAccess_of_misaligned hld hl]
    · rw [State.memAccess_shared hld hal hs, State.shared_of_outside hl]
  · intro op hs hal hin hok
    have hst : op.kind ≠ .longForm := by simp [op, Issue.memOp]
    obtain ⟨v, hv, hshared⟩ := State.shared_store (u := u) (x := x) (op := op) rfl hin hok
    exact ⟨v, hv, by rw [exec_st (by simpa [hs] using h), State.memAccess_shared hst hal hs, hshared]⟩
  · intro v y read host fence
    refine ⟨fun he => ⟨?_, ?_, ?_, ?_, ?_, rfl⟩, fun he i hi => ?_⟩
    · exact State.fenceOp_of_executes h 0 (fun p => decide (p = x.pos)) false (by simp) rfl he
    · exact State.fenceOp_of_executes h 1 (fun p => decide (p = x.pos)) false (by simp) rfl he
    · exact State.fenceOp_of_executes h 2 (fun p => decide (p = x.pos)) _ (by simp) rfl he
    · exact State.fenceOp_of_executes h 3 (fun _ => true) _ (by simp) rfl he
    · exact (execNcInv_of_executes h).trans (by rw [if_neg he])
    · simp only [List.mem_cons, List.not_mem_nil, or_false] at hi
      rcases hi with rfl | rfl | rfl | rfl | rfl
      · exact State.fenceOp_of_idle h 0 he
      · exact State.fenceOp_of_idle h 1 he
      · exact State.fenceOp_of_idle h 2 he
      · exact State.fenceOp_of_idle h 3 he
      · exact (execNcInv_of_executes h).trans (by rw [if_pos he])

end Sys2Proof.Machine
end

section
/-! PROOFS. The matrix queue, exact accumulation and the merge of records (R74, R75, R77, R95, R99, R108, R113, R114). -/

namespace Sys2Proof.Machine

open Sys2Proof.Claims

-- the matrix queue (R113, R114)

section Queue

variable {s : State} {core : Nat} {e : MxEntry} {rest : List MxEntry} {k : Task}

/-- The head of a running core's matrix queue is taken by its kind. -/
theorem execMatrixInstructionStart_of_head (hq : (s.core core).mxq = e :: rest) (hk : s.task? e.task = some k) (hrun : core ∉ s.stopped)
    (hlive : s.partLive k.part = true) (hstall : (s.core core).mxStall = none) :
    execMatrixInstructionStart core s = match e.op with
      | .mma slot kv fa fb ta tb fl => .next (s.runMma core k e slot kv fa fb ta tb fl)
      | .ldlf slot off => .next (s.runLdlf core k e slot off)
      | .drain d => .next (s.runDrain core k e d) := by
  unfold execMatrixInstructionStart
  dsimp only
  rw [hq]
  dsimp only
  rw [hk]
  dsimp only
  exact if_pos ⟨hrun, hlive, hstall⟩

end Queue

/-- The flags of the elements that a multiply-accumulate reads, gathered over its columns. -/
def readFlags (cols : List (List (Val × FpFlags) × List (Val × FpFlags))) : FpFlags :=
  cols.foldl (fun f ab => (ab.1 ++ ab.2).foldl (fun g v => g.or v.2) f) FpFlags.none

theorem testBit_readFlags (cols : List (List (Val × FpFlags) × List (Val × FpFlags))) (n : Nat) :
    (readFlags cols).toNat.testBit n = true ↔ ∃ ab ∈ cols, ∃ v ∈ ab.1 ++ ab.2, v.2.toNat.testBit n = true := by
  have hflat : readFlags cols = (cols.flatMap (fun ab => ab.1 ++ ab.2)).foldl (fun g v => g.or v.2) FpFlags.none := by
    rw [List.foldl_flatMap]; rfl
  rw [hflat, FpFlags.testBit_foldl_or, FpFlags.testBit_none]
  simp only [Bool.false_eq_true, false_or, List.mem_flatMap]
  constructor
  · rintro ⟨v, ⟨ab, hab, hv⟩, hbit⟩; exact ⟨ab, hab, v, hv, hbit⟩
  · rintro ⟨ab, hab, v, hv, hbit⟩; exact ⟨v, ⟨ab, hab, hv⟩, hbit⟩

/-- Settles O19: the head of the queue is taken by its kind; a multiply-accumulate whose tiles are read updates its slot. -/
theorem matrixExecution : Obligations.MatrixExecution := by
  intro s core e rest k hq hk hrun hlive hstall x c
  have hstart := execMatrixInstructionStart_of_head hq hk hrun hlive hstall
  refine ⟨fun slot kv fa fb ta tb fl a b hop ha hb => ?_, fun slot off hop => ?_, fun d hop => ?_⟩
  · intro cols new
    refine ⟨readFlags cols, testBit_readFlags cols, ?_⟩
    show execMatrixInstructionStart core s = _
    rw [hstart, hop]
    dsimp only
    unfold State.runMma
    dsimp only
    rw [ha, hb]
    rfl
  · exact hstart.trans (by rw [hop])
  · exact hstart.trans (by rw [hop])

-- exact accumulation (R74, R77)

/-- Two products may be added in either order. -/
theorem Acc.addTerm_right_comm (c : AccClass) (ints : Bool) (acc : Acc) (t u : Val × Val) :
    (acc.addTerm c ints t.1 t.2).addTerm c ints u.1 u.2 = (acc.addTerm c ints u.1 u.2).addTerm c ints t.1 t.2 := by
  unfold Acc.addTerm
  dsimp only
  rw [Int.add_right_comm, BitVec.or_assoc, BitVec.or_comm (termSide ints t.1 t.2), ← BitVec.or_assoc]

/-- One slice times the slices of a number is the slice times the number. -/
theorem foldr_slices (a m : Nat) : ∀ {b : Nat}, b < 256 ^ m → (slices m b).foldr (fun b t => a * b + 256 * t) 0 = a * b := by
  induction m with
  | zero => intro b h; obtain rfl : b = 0 := by omega
            rfl
  | succ m ih =>
    intro b h
    have hb : b / 256 < 256 ^ m := Nat.div_lt_of_lt_mul (by rwa [← pow_succ'])
    calc
      (slices (m + 1) b).foldr (fun b t => a * b + 256 * t) 0
      _ = a * (b % 256) + 256 * (slices m (b / 256)).foldr (fun b t => a * b + 256 * t) 0 := rfl
      _ = a * (b % 256 + 256 * (b / 256)) := by rw [ih hb]; ring
      _ = a * b := by rw [Nat.mod_add_div]

/-- A product is the sum of its slice products, each at its own weight (R77). -/
theorem sliceSum_slices (n m : Nat) : ∀ {a b : Nat}, a < 256 ^ n → b < 256 ^ m → sliceSum (slices n a) (slices m b) = a * b := by
  induction n with
  | zero => intro a b h _; obtain rfl : a = 0 := by omega
            simp [slices, sliceSum]
  | succ n ih =>
    intro a b ha hb
    have ha' : a / 256 < 256 ^ n := Nat.div_lt_of_lt_mul (by rwa [← pow_succ'])
    calc
      sliceSum (slices (n + 1) a) (slices m b)
      _ = (slices m b).foldr (fun b t => a % 256 * b + 256 * t) 0 + 256 * sliceSum (slices n (a / 256)) (slices m b) := rfl
      _ = (a % 256 + 256 * (a / 256)) * b := by rw [foldr_slices _ m hb, ih ha' hb]; ring
      _ = a * b := by rw [Nat.mod_add_div]

-- the merge of records (R95, R99)

/-- A blot entry's place in the order of merges: the lower row, then the lower column, then the higher kind comes first. -/
def blotKey (a : Nat × Nat × Nat) : Nat ×ₗ Nat ×ₗ Natᵒᵈ := toLex (a.1, toLex (a.2.1, OrderDual.toDual a.2.2))

theorem blotKey_injective : Function.Injective blotKey := by
  rintro ⟨r, c, k⟩ ⟨r', c', k'⟩ h
  simpa [blotKey] using h

/-- The merge of blot entries takes the first in the order. -/
theorem blotKey_mergeBlot {a b : Nat × Nat × Nat} (ha : a.2.2 ≠ 0) : blotKey (mergeBlot a (some b)) = min (blotKey a) (blotKey b) := by
  obtain ⟨r, c, k⟩ := a
  obtain ⟨r', c', k'⟩ := b
  have hle : blotKey (r, c, k) ≤ blotKey (r', c', k') ↔ r < r' ∨ r = r' ∧ (c < c' ∨ c = c' ∧ k' ≤ k) := by
    simp [blotKey, Prod.Lex.toLex_le_toLex]
  have hk : k ≠ 0 := ha
  rw [min_def]
  simp only [hle, mergeBlot, hk, false_or]
  by_cases hrow : r' < r ∨ r' = r ∧ c' < c
  · rw [if_pos hrow, if_neg (by omega)]
  · rw [if_neg hrow]
    by_cases hsame : r' = r ∧ c' = c
    · obtain ⟨rfl, rfl⟩ := hsame
      rw [if_pos ⟨rfl, rfl⟩]
      by_cases hkind : k' ≤ k
      · rw [if_pos (by omega), Nat.max_eq_right hkind]
      · rw [if_neg (by omega), Nat.max_eq_left (by omega)]
    · rw [if_neg hsame, if_pos (by omega)]

theorem mergeBlot_ne_zero {a b : Nat × Nat × Nat} (ha : a.2.2 ≠ 0) (hb : b.2.2 ≠ 0) : (mergeBlot a (some b)).2.2 ≠ 0 := by
  unfold mergeBlot
  dsimp only
  split
  · exact hb
  · split
    · dsimp only; omega
    · exact ha

theorem mergeBlot_comm {a b : Nat × Nat × Nat} (ha : a.2.2 ≠ 0) (hb : b.2.2 ≠ 0) : mergeBlot a (some b) = mergeBlot b (some a) :=
  blotKey_injective (by rw [blotKey_mergeBlot ha, blotKey_mergeBlot hb, min_comm])

theorem mergeBlot_assoc {a b c : Nat × Nat × Nat} (ha : a.2.2 ≠ 0) (hb : b.2.2 ≠ 0) :
    mergeBlot (mergeBlot a (some b)) (some c) = mergeBlot a (some (mergeBlot b (some c))) :=
  blotKey_injective (by
    rw [blotKey_mergeBlot (mergeBlot_ne_zero ha hb), blotKey_mergeBlot ha, blotKey_mergeBlot ha, blotKey_mergeBlot hb, min_assoc])

theorem satCount_comm (a b : Nat) : (satCount a b).1 = (satCount b a).1 := by unfold satCount; rw [Nat.add_comm]

theorem satCount_assoc (a b c : Nat) : (satCount (satCount a b).1 c).1 = (satCount a (satCount b c).1).1 := by
  simp only [satCount]
  omega

/-- A waiting merge reads its record, writes what the merge makes of it, and leaves the list (R95, R99). -/
theorem execRecordMerge_of_waiting {s u : State} {n : Nat} {m : Merge} {rec : List Byte} (hm : s.merges[n]? = some m)
    (hread : s.readPieces m.pieces = (u, rec)) :
    execRecordMerge n s = .next { (u.writePieces m.pieces (m.info.into rec).1).orDrain m.ctx (m.info.into rec).2 with
      merges := ((u.writePieces m.pieces (m.info.into rec).1).orDrain m.ctx (m.info.into rec).2).merges.eraseIdx n } := by
  unfold execRecordMerge
  rw [hm]
  dsimp only
  rw [hread]

/-- Settles O20: products add in any order, a product is the sum of its slices' products, and the merges of blot entries and of counts
are the minimum of an order and a saturating sum. -/
theorem exactAccumulationAndRecordMerges : Obligations.ExactAccumulationAndRecordMerges := by
  refine ⟨fun c ints acc l m hperm => ?_, fun n m a b => sliceSum_slices n m, fun s u t n m rec hm hread ht => ?_,
    fun a b c ha hb _ => ⟨rfl, mergeBlot_comm ha hb, mergeBlot_assoc ha hb⟩,
    fun a b c => ⟨satCount_comm a b, satCount_assoc a b c, ?_⟩⟩
  · exact hperm.foldl_eq' (fun t _ u _ acc => Acc.addTerm_right_comm c ints acc t u) acc
  · rw [ht]; exact execRecordMerge_of_waiting hm hread
  · simp only [satCount, decide_eq_true_eq]; omega

end Sys2Proof.Machine
end

section
/-! PROOFS. Tile copies by the tile movers (R117, R118, R187, R189). -/

namespace Sys2Proof.Machine

open Sys2Proof.Claims

-- tm.copy (R187)

/-- The registers and the checks of tm.copy. -/
def Issue.TmCopies (s : State) (x : Issue) (r : Ready) (u : State) : Prop :=
  Executes s x ((List.range 6).map (fun j => (true, x.a + j)))
    (fun _ => [(12, x.ext.isSome), (17, decide (x.d ≠ 0)), (25, decide (58 < x.a)), (33, decide (x.b ≠ 0)), (41, decide (x.c ≠ 0)),
      (50, decide (x.m 63 50 ≠ 0))]) r u

section Copy

variable {s u : State} {x : Issue} {r : Ready} (h : x.TmCopies s r u)
include h

/-- With no executing lane it only advances. -/
theorem execTmCopy_of_idle (he : r.exec = []) : execTmCopy x s = .next (u.done x r r.g) := by
  unfold execTmCopy
  rw [State.onIssue_of_executes _ h, if_pos he]

theorem execTmCopy_of_bad {b : Nat} (he : r.exec ≠ []) (hbad : tmBad (fun j => r.g.readU (x.a + j)) = some b) :
    execTmCopy x s = .next (u.precise x r 0x01 b) := by
  unfold execTmCopy
  rw [State.onIssue_of_executes _ h, if_neg he]
  dsimp only
  rw [hbad]

/-- A good descriptor in the workgroup's slot joins the mover that the instruction names, where it has room. -/
theorem execTmCopy_of_good {d : TmDesc} (hd : d = tmDesc (fun j => r.g.readU (x.a + j)) (u.core x.core).nextId x.pos (laneMask r.set) r.pc)
    (he : r.exec ≠ []) (hbad : tmBad (fun j => r.g.readU (x.a + j)) = none) (hlo : r.slmRange.1 ≤ d.slm) (hhi : d.slmEnd ≤ r.slmRange.2)
    (hroom : (if x.m 49 49 = 0 then (u.core x.core).tm0 else (u.core x.core).tm1).length < 128) :
    let v := u.done x r r.g
    let z : CoreSt := { v.core x.core with nextId := (v.core x.core).nextId + 1 }
    execTmCopy x s = .next (v.setCore x.core (if x.m 49 49 = 0 then { z with tm0 := z.tm0 ++ [d] } else { z with tm1 := z.tm1 ++ [d] })) := by
  intro v z
  unfold execTmCopy
  rw [State.onIssue_of_executes _ h, if_neg he]
  dsimp only
  rw [hbad]
  dsimp only
  rw [← hd, if_neg (by omega), if_neg (by omega)]

end Copy

-- the movers (R117, R118, R189)

section Mover

variable {s v : State} {core mover : Nat} {d : TmDesc} {rest : List TmDesc} {k : Task} {pieces : List (List (Dest × Nat))}
  (hmover : mover < 2) (hq : (if mover = 0 then (s.core core).tm0 else (s.core core).tm1) = d :: rest)
  (hk : (s.core core).task.bind s.task? = some k) (hrun : core ∉ s.stopped) (hlive : s.partLive k.part = true)
  (hstall : (s.core core).tmStall.has mover = false)
  (hspans : s.allSpans core k (if d.toMem then .write else .read) d.ranges = (v, .ok pieces)) (hhost : v.hostHolds pieces = false)
include hmover hq hk hrun hlive hstall hspans hhost

/-- A tile read from memory goes into shared memory of every core written, and the counter there is added to. -/
theorem execTileMoveComplete_into (hd : d.toMem = false) {w : State} {rows : List (List (Byte × Bool))}
    (hread : pieces.foldl (fun (acc : State × List (List (Byte × Bool))) p =>
      ((acc.1.engRead core p).1, acc.2 ++ [(acc.1.engRead core p).2])) (v, []) = (w, rows)) :
    execTileMoveComplete core mover s = .next
      (((w.tmTargets core k d).foldl (fun (u : State) c => u.tmSignal k d c)
        (((w.tmTargets core k d).foldl (fun (u : State) c => u.setCore c (d.toSlm (d.gridOf rows) (u.core c))) w).tmPop core
          mover)).settleFences core) := by
  unfold execTileMoveComplete
  dsimp only
  rw [hq, hk]
  dsimp only
  rw [if_pos ⟨hmover, hrun, hlive, hstall⟩, hspans]
  dsimp only
  rw [if_neg (by simp [hhost]), if_neg (by simp [hd]), hread]

/-- A tile written to memory leaves the issuing core's shared memory, and the counter there is added to. -/
theorem execTileMoveComplete_outOf (hd : d.toMem = true) :
    execTileMoveComplete core mover s = .next
      (((((d.rowsIn.zip pieces).foldl (fun (u : State) x =>
        u.engWrite core d.pos x.2 (d.rowOut (d.ofSlm (v.core core)) x.1 (x.2.flatMap (fun p => match p.1 with
          | .mem pa => u.readBytes pa p.2
          | .host _ _ => List.replicate p.2 0)))) v).tmPop core mover).tmSignal k d core).settleFences core) := by
  unfold execTileMoveComplete
  dsimp only
  rw [hq, hk]
  dsimp only
  rw [if_pos ⟨hmover, hrun, hlive, hstall⟩, hspans]
  dsimp only
  rw [if_neg (by simp [hhost])]
  exact if_pos hd

end Mover

/-- Settles O23: a checked descriptor joins its mover's list; a mover's first descriptor moves its tile in its direction. -/
theorem tileMoves : Obligations.TileMoves := by
  refine ⟨fun s x r u h => ?_, fun s core mover d rest k v pieces hmover hq hk hrun hlive hstall hspans hhost => ⟨?_, ?_⟩⟩
  · intro words d v y
    refine ⟨fun he hbad hlo hhi => ⟨fun hm hroom => ?_, fun hm hroom => ?_⟩, fun b => execTmCopy_of_bad h, execTmCopy_of_idle h⟩
    · exact (execTmCopy_of_good h rfl he hbad hlo hhi (by rwa [if_pos hm])).trans (by rw [if_pos hm])
    · have hm' : x.m 49 49 ≠ 0 := by omega
      exact (execTmCopy_of_good h rfl he hbad hlo hhi (by rwa [if_neg hm'])).trans (by rw [if_neg hm'])
  · intro w rows hd hread
    exact execTileMoveComplete_into hmover hq hk hrun hlive hstall hspans hhost hd hread
  · exact execTileMoveComplete_outOf hmover hq hk hrun hlive hstall hspans hhost

end Sys2Proof.Machine
end

section
/-! PROOFS. Counter instructions, sys.get, the end of a wait, grants of blocks and core retention (R129, R200 to R203, R239 to R244,
R255, R256). -/

namespace Sys2Proof.Machine

open Sys2Proof.Claims

-- a core written and read back

@[simp] theorem State.core_setCore (s : State) (c : Nat) (x : CoreSt) : (s.setCore c x).core c = x := NMap.getD_put_self _ _ _ _

theorem State.core_setCore_ne (s : State) {c k : Nat} (x : CoreSt) (h : c ≠ k) : (s.setCore c x).core k = s.core k :=
  NMap.getD_put_ne _ _ _ _ h

-- counter instructions (R200 to R202, R241)

/-- The uniform registers that a counter instruction waits for. -/
def Issue.cntHazards (x : Issue) (d : Use) (b : Bool) : List (Bool × Nat) :=
  x.cntRegs b ++ (match d with
    | .reg _ => [(true, x.d)]
    | _ => [])

/-- The counter that a wait names, as its group keeps it. -/
def CtrName.ref : CtrName → CtrRef
  | .core _ i => .core i
  | .region rg i => .region rg i

/-- The wait or claim of an issuing set, its deadline stamped at issue. -/
def Issue.waitEntry (x : Issue) (s : State) (r : Ready) (n : CtrName) (claim : Bool) : CtrWait :=
  { ref := n.ref, len := x.len, claim := claim, target := x.cntVal r.g,
    deadline := if x.m 50 50 = 1 then some (s.now + min (r.g.readU x.c) (2 ^ 32 - 1)) else none,
    lanes := laneMask r.set, pred := x.d }

section CounterOps

variable {s u : State} {x : Issue} {r : Ready} {n : CtrName} {d : Use} {b timed add : Bool}

/-- Where its counter is named legally and has room, a counter instruction has its effect. -/
theorem State.cntOp_of_executes (h : Executes s x (x.cntHazards d b) (fun _ => x.cntBad d b timed) r u) (hn : NamesCounter u x r add n)
    (he : r.exec ≠ []) (hroom : HasRoom u x n) (f : State → Ready → CtrName → State) :
    s.cntOp x d b timed add f = .next (f u r n) := by
  have hfull : ¬(n.remote x.core && decide (256 ≤ (u.core x.core).txnOcc x.core)) = true := by
    intro hc
    simp only [Bool.and_eq_true, decide_eq_true_eq] at hc
    exact absurd (hroom hc.1) (by omega)
  unfold State.cntOp
  refine (State.onIssue_of_executes _ h).trans (congrArg Host.Outcome.next ?_)
  rcases hn with ⟨hlocal, rfl⟩ | ⟨href, hgood, rfl, hgrant⟩
  · have hkind : x.m 49 49 ≠ 1 := by omega
    simp [hkind, he, hfull]
  · simp [href, hgood, hgrant, he, hfull]

/-- A wait or a claim parks its set under the group's waiting entry and goes to its counter's arbiter. -/
theorem State.cntWaitOp_of_executes {claim : Bool} (h : Executes s x (x.cntRegs true) (fun _ => x.cntBad .pred true true) r u)
    (hn : NamesCounter u x r false n) (he : r.exec ≠ []) (hroom : HasRoom u x n) (hfree : r.g.wait = none) :
    s.cntWaitOp x claim = .next ((u.issued x r { r.g.setStat r.set .counter with wait := some (x.waitEntry u r n claim) }).fly x.core
      x.pos r.t n .waitClaim) := by
  have hregs : x.cntHazards .pred true = x.cntRegs true := List.append_nil _
  unfold State.cntWaitOp
  rw [State.cntOp_of_executes (hregs ▸ h) hn he hroom, hfree]
  rfl

end CounterOps

-- sys.get (R129, R203)

/-- No varying value differs between lanes. -/
theorem State.sysValue_of_varying {s : State} {x : Issue} {r : Ready} {w : Nat} (h : sysSelector x.b = some (w, true)) (l : Nat) :
    s.sysValue x r l = s.sysValue x r 0 := by
  have hb : x.b ≠ 0 := by
    intro h0
    simp [h0, sysSelector] at h
  unfold State.sysValue
  dsimp only
  split
  · contradiction
  all_goals rfl

theorem State.groupReplay_of_live {s : State} {k : Task} (h : s.replaying k.ctx = false) (c pos kind : Nat) (test : List Byte → Bool) :
    s.groupReplay k c pos kind test = (s, none) := by
  unfold State.groupReplay
  rw [h]; rfl

theorem State.groupJournal_of_unrecorded {s : State} {k : Task} (h : s.recording k.ctx = false) (c pos kind : Nat) (tail : List Byte) :
    s.groupJournal k c pos kind tail = s := by
  unfold State.groupJournal
  rw [h]; rfl

theorem sysSelector_width {b w : Nat} {varies : Bool} (h : sysSelector b = some (w, varies)) : w = 32 ∨ w = 64 := by
  unfold sysSelector at h
  split_ifs at h <;> cases h <;> simp

/-- Outside recordings and replays, sys.get writes its system value to D in every lane. -/
theorem exec_sysGet {s u : State} {x : Issue} {r : Ready} {w : Nat} {varies : Bool} (hw : sysSelector x.b = some (w, varies))
    (h : Executes s x ((Use.reg w).regs x.kd x.d)
      (fun r => x.fieldsBad r.k.desc.regs (.reg w) .none (.raw true) .none ++ [(53, decide (x.m 63 53 ≠ 0)), (12, x.ext.isSome)]) r u)
    (hrec : u.recording r.k.ctx = false) (hplay : u.replaying r.k.ctx = false) (hg : (u.core x.core).groups.get? x.pos = some r.g) :
    ∃ g, WritesD x (r.lanes x.kd) w (u.sysValue x r) r.g g ∧ exec (.sysGet x) s = .next (u.done x r g) := by
  have hD : (if x.kd then x.d < 64 else x.d + w / 32 ≤ 256) :=
    regLegal_range (sysSelector_width hw) (by
      simpa using h.2.2.2 _ (List.mem_append_left _ (Issue.mem_fieldsBad_dst x r.k.desc.regs w .none (.raw true) .none)))
  have hwrites (v : Nat → Nat) := Group.foldl_dst_writesD (r := r) v (sysSelector_width hw) hD
  have hexec : ∀ v : Nat → Nat, (∀ l, v l = u.sysValue x r l) →
      execSysGet x s = .next (u.done x r ((r.lanes x.kd).foldl (fun g l => g.dst x.kd l x.d w (v l)) r.g)) := by
    intro v hv
    obtain rfl : v = u.sysValue x r := funext hv
    unfold execSysGet
    dsimp only
    rw [hw]
    dsimp only [Option.map_some, Option.getD_some, Option.isSome_some]
    rw [State.onIssue_of_executes _ h]
    congr 1
    split
    · next hvary =>
      obtain rfl : varies = true := (Bool.and_eq_true _ _ ▸ hvary).1
      rw [State.groupReplay_of_live hplay]
      dsimp only
      rw [State.groupJournal_of_unrecorded hrec, hg]
      simp only [Option.getD_some, State.sysValue_of_varying hw]
    · rw [hg]; rfl
  exact ⟨_, hwrites _, hexec _ fun _ => rfl⟩

/-- Settles O24: a counter instruction that may go sends its operation; sys.get writes its value lane by lane. -/
theorem counterInstructionsAndSystem : Obligations.CounterInstructionsAndSystem := by
  intro s x r u n
  refine ⟨fun he hroom => ⟨fun h hn => ?_, fun h hn => ?_, fun h hn hfree i claim hi => ?_⟩,
    fun w varies hw h hrec hplay hg => exec_sysGet hw h hrec hplay hg⟩
  · show execCntAdd x s = _
    have hregs : x.cntHazards .none true = x.cntRegs true := List.append_nil _
    exact State.cntOp_of_executes (hregs ▸ h) hn he hroom _
  · show execCntRead x s = _
    exact State.cntOp_of_executes h hn he hroom _
  · have hexec : exec i s = s.cntWaitOp x claim := by
      simp only [List.mem_cons, List.not_mem_nil, or_false, Prod.mk.injEq] at hi
      rcases hi with ⟨rfl, rfl⟩ | ⟨rfl, rfl⟩
      · rfl
      · rfl
    exact ⟨{ r.g.setStat r.set .counter with wait := some (x.waitEntry u r n claim) }, fun l hl => Group.stat_setStat r.g r.set .counter hl, rfl, rfl,
      hexec.trans (State.cntWaitOp_of_executes h hn he hroom hfree)⟩

-- the end of a wait (R202, R243)

/-- The predicate of a list of lanes written with one value. -/
theorem Group.foldl_writePred_const {lanes : List Nat} (hlanes : ∀ l ∈ lanes, l < 32) {d : Nat} (hd : d < 8) (v : Bool) (g : Group) :
    (∀ l < 32, ∀ p < 8, (lanes.foldl (fun (h : Group) l => h.writePred l d v) g).predAt l p =
      if l ∈ lanes ∧ p = d ∧ p ≠ 7 then v else g.predAt l p) ∧
    { lanes.foldl (fun (h : Group) l => h.writePred l d v) g with preds := [] } = { g with preds := [] } :=
  Group.foldl_writePred_writesP (x := { core := 0, pos := 0, lane := 0, d := d }) (fun _ => v) (by show d ≤ 7; omega) lanes hlanes g

/-- The threads that waited. -/
def CtrWait.laneList (w : CtrWait) : List Nat := (List.range 32).filter (fun l => w.lanes.testBit l)

theorem CtrWait.mem_laneList {w : CtrWait} {l : Nat} : l ∈ w.laneList ↔ l < 32 ∧ w.lanes.testBit l = true := by
  simp [CtrWait.laneList]

/-- A wait's predicate written in every thread that waited. -/
def Group.writeWait (g : Group) (w : CtrWait) (v : Bool) : Group := w.laneList.foldl (fun h l => h.writePred l w.pred v) g

/-- The group of a wait that ends: its predicate written in the threads that waited, which run again past the instruction. -/
def Group.waitEnded (g : Group) (w : CtrWait) (v : Bool) : Group :=
  { ((g.writeWait w v).setStat w.laneList .run).setPc w.laneList (fun l => (g.writeWait w v).pc l + BitVec.ofNat 64 w.len) with
    wait := none }

theorem State.endWait_of_running {s : State} {p : Pending} {t : Nat} {k : Task} {g : Group} (hrun : s.running? p.core = some (t, k))
    (hg : (s.core p.core).groups.get? p.pos = some g) (hrec : s.recording k.ctx = false) (e : WaitEnd) (replayed : Bool) :
    s.endWait p e replayed = s.setCore p.core
      { s.core p.core with groups := (s.core p.core).groups.set p.pos (g.waitEnded p.w (decide (e = .true_))) } := by
  unfold State.endWait
  dsimp only
  rw [hrun, hg]
  dsimp only
  split
  · exact State.groupJournal_of_unrecorded (s := s.setCore p.core _) hrec ..
  · rfl

section WaitEnded

variable (g : Group) {w : CtrWait} (hp : w.pred < 8) (v : Bool)
include hp

theorem Group.writeWait_spec :
    (∀ l < 32, ∀ n < 8, (g.writeWait w v).predAt l n = if w.lanes.testBit l = true ∧ n = w.pred ∧ n ≠ 7 then v else g.predAt l n) ∧
    { g.writeWait w v with preds := [] } = { g with preds := [] } := by
  obtain ⟨hpreds, hrest⟩ := Group.foldl_writePred_const (fun l hl => (CtrWait.mem_laneList.1 hl).1) hp v g
  refine ⟨fun l hl n hn => (hpreds l hl n hn).trans ?_, hrest⟩
  simp [CtrWait.mem_laneList, hl]

theorem Group.waitEnded_predAt {l n : Nat} (hl : l < 32) (hn : n < 8) :
    (g.waitEnded w v).predAt l n = if w.lanes.testBit l = true ∧ n = w.pred ∧ n ≠ 7 then v else g.predAt l n :=
  (g.writeWait_spec hp v).1 l hl n hn

theorem Group.waitEnded_regs : (g.waitEnded w v).v = g.v ∧ (g.waitEnded w v).u = g.u := by
  obtain ⟨-, hrest⟩ := g.writeWait_spec hp v
  exact ⟨by have h := congrArg Group.v hrest; exact h, by have h := congrArg Group.u hrest; exact h⟩

theorem Group.waitEnded_stat {l : Nat} (hl : l < 32) : (g.waitEnded w v).stat l = if w.lanes.testBit l then .run else g.stat l := by
  obtain ⟨-, hrest⟩ := g.writeWait_spec hp v
  have hstat : (g.writeWait w v).stat l = g.stat l := by have h := congrArg (fun h : Group => h.stat l) hrest; exact h
  refine (Group.stat_setStat (g.writeWait w v) w.laneList .run hl).trans ?_
  simp [CtrWait.mem_laneList, hl, hstat]

theorem Group.waitEnded_pc {l : Nat} (hl : l < 32) :
    (g.waitEnded w v).pc l = if w.lanes.testBit l then g.pc l + BitVec.ofNat 64 w.len else g.pc l := by
  obtain ⟨-, hrest⟩ := g.writeWait_spec hp v
  have hpc : (g.writeWait w v).pc l = g.pc l := by have h := congrArg (fun h : Group => h.pc l) hrest; exact h
  refine (Group.pc_setPc ((g.writeWait w v).setStat w.laneList .run) w.laneList
    (fun l => (g.writeWait w v).pc l + BitVec.ofNat 64 w.len) hl).trans ?_
  simp [CtrWait.mem_laneList, hl, hpc]

end WaitEnded

/-- Settles O26: the ended wait's group writes the predicate in its lanes alone and lets them go on. -/
theorem waitEnds : Obligations.WaitEnds := by
  intro s p e t k g hrun hg hp hrec
  obtain ⟨hv, hu⟩ := g.waitEnded_regs hp (decide (e = .true_))
  refine ⟨g.waitEnded p.w (decide (e = .true_)), ?_, rfl, fun l hl hbit => ⟨?_, ?_, fun h7 => ?_, fun n hn hne => ?_⟩,
    fun l hl hbit => ⟨?_, ?_, fun n hn => ?_⟩, hv, hu⟩
  · rw [State.endWait_of_running hrun hg hrec, State.core_setCore]
    exact (NMap.get?_set ..).trans (if_pos rfl)
  · rw [Group.waitEnded_stat g hp _ hl, if_pos hbit]
  · rw [Group.waitEnded_pc g hp _ hl, if_pos hbit]
  · rw [Group.waitEnded_predAt g hp _ hl hp, if_pos ⟨hbit, rfl, by omega⟩]
  · rw [Group.waitEnded_predAt g hp _ hl hn, if_neg (by tauto)]
  · rw [Group.waitEnded_stat g hp _ hl, if_neg (by simp [hbit])]
  · rw [Group.waitEnded_pc g hp _ hl, if_neg (by simp [hbit])]
  · rw [Group.waitEnded_predAt g hp _ hl hn, if_neg (by simp [hbit])]

-- grants of counter blocks (R239)

section Grants

variable {s : State} {q : RegWriteReq}

/-- A grant within a partition stores the register and zeroes the block's 64 counters. -/
theorem State.writeCntOwner_grant (hnew : q.new F.regCntOwnerValid = 1) (hwas : q.was F.regCntOwnerValid = 0)
    (hpart : partOfCtx s.mode (q.new F.regCntOwnerContext) = partOfRegion s.mode (q.n / 8)) :
    s.writeCntOwner q = { s.store q with
      regionCtrs := (s.store q).regionCtrs.keep (fun k => decide (k / 64 ≠ q.n / 8 * 8 + q.n % 8)) } := by
  unfold State.writeCntOwner
  dsimp only
  rw [if_neg (fun h => h.2 hpart), if_neg (by omega), if_pos ⟨hwas, hnew⟩]

theorem State.writeCntOwner_revoke (hnew : q.new F.regCntOwnerValid = 0) (hwas : q.was F.regCntOwnerValid = 1) :
    s.writeCntOwner q = (s.store q).revokeBlock (q.n / 8) (q.n % 8) := by
  unfold State.writeCntOwner
  dsimp only
  rw [if_neg (by omega), if_neg (by omega), if_neg (by omega), if_pos hwas]

/-- A grant across partitions is refused. -/
theorem State.writeCntOwner_across (hnew : q.new F.regCntOwnerValid = 1)
    (hpart : partOfCtx s.mode (q.new F.regCntOwnerContext) ≠ partOfRegion s.mode (q.n / 8)) : s.writeCntOwner q = s.accessError := by
  unfold State.writeCntOwner
  exact if_pos ⟨hnew, hpart⟩

/-- A granted block is not granted to another context. -/
theorem State.writeCntOwner_again (hnew : q.new F.regCntOwnerValid = 1) (hwas : q.was F.regCntOwnerValid = 1)
    (hctx : q.new F.regCntOwnerContext ≠ q.was F.regCntOwnerContext) : s.writeCntOwner q = s.accessError := by
  by_cases hpart : partOfCtx s.mode (q.new F.regCntOwnerContext) = partOfRegion s.mode (q.n / 8)
  · unfold State.writeCntOwner
    dsimp only
    rw [if_neg (fun h => h.2 hpart), if_pos ⟨hwas, hnew⟩, if_pos hctx]
  · exact State.writeCntOwner_across hnew hpart

end Grants

theorem State.reg_store (s : State) (q : RegWriteReq) : (s.store q).reg q.reg q.n = q.merged := s.reg_setReg q.reg q.n q.merged

/-- Settles O27: each write of an owner takes the branch of its old and new VALID; retention is entered and left on its conditions. -/
theorem counterBlocksAndRetention : Obligations.CounterBlocksAndRetention := by
  refine ⟨fun s a q hw i hi => ?_, fun s core t hidle => ⟨fun hret hcore hdue => ?_, fun hret hcore => ?_⟩⟩
  · have hexec : exec i s = .next (s.writeCntOwner q) := by
      simp only [List.mem_cons, List.not_mem_nil, or_false] at hi
      rcases hi with rfl | rfl
      · exact State.onWrite_of_writes s.writeCntOwner hw List.mem_cons_self
      · exact State.onWrite_of_writes s.writeCntOwner hw List.mem_cons_self
    intro r
    rw [hexec]
    refine ⟨fun hnew hwas hpart => ⟨_, rfl, ?_, fun k => ?_⟩, fun hnew hwas => ?_, fun hnew hwas hctx => ?_, fun hnew hpart => ?_⟩
    · rw [State.writeCntOwner_grant hnew hwas hpart, ← hw.2]
      exact s.reg_store q
    · rw [State.writeCntOwner_grant hnew hwas hpart]
      simp [NMap.get?_keep, State.store]
    · rw [State.writeCntOwner_revoke hnew hwas]
    · rw [State.writeCntOwner_again hnew hwas hctx]
    · rw [State.writeCntOwner_across hnew hpart]
  · show execRetentionEntry core s = _
    unfold execRetentionEntry
    dsimp only
    rw [hidle]
    exact if_pos (by simp [hret, hcore, hdue])
  · show execRetentionExit core s = _
    unfold execRetentionExit State.leaveRetention
    simp [hret, hcore, hidle]

end Sys2Proof.Machine
end

section
/-! PROOFS. Region-level, seam, supply and host-interface faults, and what a stopped partition leaves (R28, R29, R440, R449, R450,
R460, R461, R496). -/

namespace Sys2Proof.Machine

open Sys2Proof.Claims

-- changes of the instances of some registers

/-- No register of the map but the instances of a list's changes. -/
def RegsBut (rs : List Reg) (s t : State) : Prop := ∀ r n, IsReg r n → r ∉ rs → t.reg r n = s.reg r n

section RegsBut

variable {rs : List Reg} {s t u : State}

theorem RegsBut.of_regs_eq (h : t.regs = s.regs) : RegsBut rs s t := fun r n _ _ => by unfold State.reg; rw [h]

theorem RegsBut.refl (rs : List Reg) (s : State) : RegsBut rs s s := fun _ _ _ _ => rfl

theorem RegsBut.trans (h : RegsBut rs s t) (h' : RegsBut rs t u) : RegsBut rs s u := fun r n hr hn =>
  (h' r n hr hn).trans (h r n hr hn)

theorem RegsBut.mono {rs' : List Reg} (h : RegsBut rs s t) (hsub : rs ⊆ rs') : RegsBut rs' s t := fun r n hr hn =>
  h r n hr fun hm => hn (hsub hm)

theorem RegsBut.wr (s : State) (f : Fld) {n : Nat} (v k : Nat) (hn : IsReg f.reg n) (hf : f.reg ∈ rs) : RegsBut rs s (s.wr f n v k) :=
  fun r m hr hm => s.reg_setReg_ne _ hn hr fun he => by
    have hreg : f.reg = r := congrArg Prod.fst he
    exact hm (hreg ▸ hf)

/-- A field of another register reads as before. -/
theorem RegsBut.rd (h : RegsBut rs s t) (f : Fld) {n : Nat} (hn : IsReg f.reg n) (hf : f.reg ∉ rs) (k : Nat) :
    t.rd f n k = s.rd f n k := by
  unfold State.rd
  rw [h f.reg n hn hf]

end RegsBut

/-- An event's entry into a region's queue leaves every register but the count of lost events. -/
theorem RegsBut.enqueueEvent (s : State) {r : Nat} (hr : r < 4) (e : EvRec) : RegsBut [.regFwEventsLost] s (s.enqueueEvent r e) := by
  unfold State.enqueueEvent
  dsimp only
  split
  · exact RegsBut.of_regs_eq rfl
  · exact RegsBut.wr _ F.regFwEventsLostCount _ 0 (isReg_of_lt hr) List.mem_cons_self

theorem State.rootRegion_lt (s : State) : s.rootRegion < 4 := by
  unfold State.rootRegion
  split
  · exact Word.bits_lt _ 1 0
  · decide

/-- A hardware event of a valid region leaves every register but the count of lost events. -/
theorem RegsBut.hwEvent (s : State) {r : Nat} (hr : r < 4) (code unit ctx loc detail flags : Nat) :
    RegsBut [.regFwEventsLost] s (s.hwEvent r code unit ctx loc detail flags) := by
  refine RegsBut.enqueueEvent s ?_ _
  split
  · exact s.rootRegion_lt
  · exact hr

-- the election of a root (R460, R461, R477)

/-- The registers that an election may write: FW.ROOT, an activation that is held, a context's key, the session, and the state of a
partition that was activating. -/
def rootRegs : List Reg := [.fwRoot, .fwuStatus, .ctxMemCrypt, .hifSession, .devPartStatus]

/-- The state but for the registers and what an election gives out. -/
def State.besidesRoot (s : State) : State :=
  { s with regs := [], sec := {}, session := {}, normalRun := 0, freeIdx := 0, sent := [] }

/-- States that agree on it agree on memory, on the work that runs and on the firmware cores. -/
theorem State.of_besidesRoot {s t : State} (h : t.besidesRoot = s.besidesRoot) :
    t.mem = s.mem ∧ t.poison = s.poison ∧ t.cores = s.cores ∧ t.tasks = s.tasks ∧ t.queues = s.queues ∧ t.fwCores = s.fwCores := by
  simp only [State.besidesRoot, State.mk.injEq] at h
  tauto

/-- What an election leaves: every register but those it may write, the state of a stopped partition, and everything but keys, the
session's token and what is sent. -/
structure RootFrame (s t : State) : Prop where
  regs : RegsBut rootRegs s t
  stopped : ∀ p < 4, s.partState p = 4 → t.partState p = 4
  rest : t.besidesRoot = s.besidesRoot
  keys : ∀ c ∈ t.sec.keyWaits, c ∈ s.sec.keyWaits

namespace RootFrame

variable {s t u : State}

theorem refl (s : State) : RootFrame s s := ⟨.refl _ s, fun _ _ h => h, rfl, fun _ h => h⟩

theorem trans (h : RootFrame s t) (h' : RootFrame t u) : RootFrame s u :=
  ⟨h.regs.trans h'.regs, fun p hp hs => h'.stopped p hp (h.stopped p hp hs), h'.rest.trans h.rest, fun c hc => h.keys c (h'.keys c hc)⟩

/-- A change of what an election gives out, but no register. -/
theorem of_rest (hr : t.regs = s.regs) (h : t.besidesRoot = s.besidesRoot) (hk : ∀ c ∈ t.sec.keyWaits, c ∈ s.sec.keyWaits) :
    RootFrame s t :=
  ⟨.of_regs_eq hr, fun p _ hp => by rw [← hp]; unfold State.partState State.rd State.reg; rw [hr], h, hk⟩

theorem wr (s : State) (f : Fld) {n : Nat} (v : Nat) (hn : IsReg f.reg n) (hf : f.reg ∈ rootRegs) (hne : f.reg ≠ .devPartStatus) :
    RootFrame s (s.wr f n v) := by
  refine ⟨.wr s f v 0 hn hf, fun p _ hp => ?_, rfl, fun _ h => h⟩
  exact (s.rd_wr_ne f F.devPartStatusState n 0 v 0 p
    (IsReg.addr_ne hn (isReg_of_lt (by decide)) fun he => hne (congrArg Prod.fst he))).trans hp

theorem foldl {α : Type} {f : State → α → State} (l : List α) (hf : ∀ s, ∀ x ∈ l, RootFrame s (f s x)) :
    ∀ s, RootFrame s (l.foldl f s) := by
  induction l with
  | nil => exact refl
  | cons x l ih =>
    intro s
    exact (hf s x List.mem_cons_self).trans (ih (fun t y hy => hf t y (List.mem_cons_of_mem x hy)) (f s x))

theorem sensorEvent (s : State) (sensor before after : Nat) : RootFrame s (s.sensorEvent sensor before after) := by
  unfold State.sensorEvent
  split
  · exact refl s
  · split <;> exact of_rest rfl rfl fun _ h => h

/-- A partition that activated runs again; a stopped one stays stopped. -/
theorem resumePart (s : State) (p : Nat) : RootFrame s (s.resumePart p) := by
  unfold State.resumePart
  split
  · next hact =>
    have hp8 : p < 8 := by
      by_contra hge
      have hzero : s.partState p = 0 := by
        show ((s.reg .devPartStatus 0).toNat >>> (0 + p * 8)) % _ = 0
        rw [Nat.shiftRight_eq_zero _ _ (Nat.lt_of_lt_of_le (BitVec.isLt _) (Nat.pow_le_pow_right (by decide) (by omega)))]
        exact Nat.zero_mod _
      omega
    unfold State.setPartState
    refine trans (t := s.wr F.devPartStatusState 0 2 p) ⟨.wr s F.devPartStatusState 2 p (isReg_of_lt (by decide)) (by decide),
      fun q hq hs => ?_, rfl, fun _ h => h⟩ (sensorEvent ..)
    have hne : p ≠ q := fun he => by rw [he, hs] at hact; exact absurd hact (by decide)
    refine (s.rd_wr_disjoint F.devPartStatusState F.devPartStatusState 0 2 p q rfl ?_ ?_).trans hs
    · show 3 + p * 8 < 64; omega
    · show 3 + p * 8 < 0 + q * 8 ∨ 3 + q * 8 < 0 + p * 8; omega
  · exact refl s

theorem holdRestarts (s : State) : RootFrame s s.holdRestarts := by
  unfold State.holdRestarts
  dsimp only
  split
  · refine trans ?_ (wr _ F.fwuStatusState 3 (isReg_of_lt (by decide)) (by decide) (by decide))
    refine trans ?_ (wr _ F.fwuStatusNormalMs 0 (isReg_of_lt (by decide)) (by decide) (by decide))
    refine trans (t := if s.rd F.fwuStatusState = 4 then _ else s) ?_ (of_rest rfl rfl fun _ h => h)
    split
    · exact resumePart ..
    · exact refl s
  · exact refl s

theorem installKey (s : State) {ctx : Nat} (h : ctx < 4096) : RootFrame s (s.installKey ctx) := by
  refine trans ?_ (wr _ F.ctxMemCryptKeyReady 1 (isReg_of_lt h) (by decide) (by decide))
  exact of_rest rfl rfl fun _ h => h

theorem issueToken (s : State) : RootFrame s s.issueToken := by
  refine trans ?_ (wr _ F.hifSessionState (n := 0) 1 (isReg_of_lt (by decide)) (by decide) (by decide))
  exact of_rest rfl rfl fun _ h => h

theorem rootServes {s : State} (h : ∀ c ∈ s.sec.keyWaits, c < 4096) : RootFrame s s.rootServes := by
  have hkeys : RootFrame s s.serveKeys := by
    unfold State.serveKeys
    split
    · exact trans (t := { s with sec := { s.sec with keyWaits := [] } }) (of_rest rfl rfl fun _ h => absurd h List.not_mem_nil)
        (foldl _ (fun t c hc => installKey t (h c hc)) _)
    · exact refl s
  unfold State.rootServes
  dsimp only
  split
  · exact hkeys.trans (issueToken _)
  · exact hkeys

theorem refreshRoot {s : State} (h : ∀ c ∈ s.sec.keyWaits, c < 4096) : RootFrame s s.refreshRoot := by
  have hroot : IsReg .fwRoot 0 := isReg_of_lt (by decide)
  unfold State.refreshRoot
  dsimp only
  refine trans (wr s F.fwRootHealthy s.healthMask hroot (by decide) (by decide)) ?_
  generalize hu : s.wr F.fwRootHealthy 0 s.healthMask = u
  have hku : ∀ c ∈ u.sec.keyWaits, c < 4096 := by rw [← hu]; exact h
  generalize s.healthMask = m
  split
  · exact refl u
  · have hover : RootFrame u (if u.flag F.fwRootRootValid then u.holdRestarts else u) := by
      split
      · exact holdRestarts u
      · exact refl u
    generalize (if u.flag F.fwRootRootValid then u.holdRestarts else u) = v at hover ⊢
    have hend : RootFrame u (if u.flag F.fwRootRootValid then
        { v with sec := { v.sec with electionEnd := some (v.now + 10000000) } } else v) := by
      split
      · exact hover.trans (of_rest rfl rfl fun _ h => h)
      · exact hover
    refine hend.trans ?_
    generalize (if u.flag F.fwRootRootValid then
        { v with sec := { v.sec with electionEnd := some (v.now + 10000000) } } else v) = w at hend ⊢
    split
    · next r _ =>
      have helect : RootFrame w (((w.wr F.fwRootRootRegion 0 r).wr F.fwRootRootValid 0 1).bumpSat F.fwRootElections 0) :=
        ((wr w F.fwRootRootRegion r hroot (by decide) (by decide)).trans (wr _ F.fwRootRootValid 1 hroot (by decide) (by decide))).trans
          (wr _ F.fwRootElections _ hroot (by decide) (by decide))
      exact helect.trans (rootServes fun c hc => hku c (hend.keys c (helect.keys c hc)))
    · exact wr w F.fwRootRootValid 0 hroot (by decide) (by decide)

end RootFrame

-- a partition that stops (R496)

theorem Reg.addr_portStatus (n : Nat) : Reg.addr .portStatus n = 0x10000000 * (n / 2 + 1) + n % 2 * 0x10000 + 0x200008 := by
  show (0x10000000 * (1 + n / 1 / 2) + 0x200000 + n / 1 % 2 * 0x10000) + 8 + n % 1 * _ = _
  rw [Nat.mod_one, Nat.zero_mul]
  omega

theorem Reg.addr_portStatus_ne {n m : Nat} (h : n ≠ m) : Reg.addr .portStatus n ≠ Reg.addr .portStatus m := by
  rw [Reg.addr_portStatus, Reg.addr_portStatus]
  omega

/-- Both ports of a block read link-down. -/
def State.linkDown (s : State) (b : Nat) : Prop := s.rd F.portStatusUpA b = 0 ∧ s.rd F.portStatusUpB b = 0

/-- A port block that goes down leaves every other register of the device that is not a port block's status. -/
theorem State.portDown_reg (s : State) (b : Nat) {r : Reg} {n : Nat} (h : Reg.addr .portStatus b ≠ r.addr n) :
    (s.portDown b).reg r n = s.reg r n := by
  exact (State.reg_setReg_of_addr_ne _ _ h).trans (s.reg_setReg_of_addr_ne _ h)

theorem State.linkDown_portDown (s : State) (b : Nat) : (s.portDown b).linkDown b := by
  unfold State.portDown
  refine ⟨?_, State.rd_wr _ F.portStatusUpB b 0 0 (by decide)⟩
  rw [State.rd_wr_disjoint _ F.portStatusUpB F.portStatusUpA b 0 0 0 rfl (by decide) (by decide)]
  exact State.rd_wr s F.portStatusUpA b 0 0 (by decide)

theorem State.linkDown_portDown_of {s : State} {b : Nat} (c : Nat) (h : s.linkDown b) : (s.portDown c).linkDown b := by
  by_cases hcb : c = b
  · rw [hcb]; exact s.linkDown_portDown b
  · unfold State.linkDown State.rd at h ⊢
    rwa [s.portDown_reg c (r := F.portStatusUpA.reg) (n := b) (Reg.addr_portStatus_ne hcb),
      s.portDown_reg c (r := F.portStatusUpB.reg) (n := b) (Reg.addr_portStatus_ne hcb)]

/-- The blocks of a list go down, and nothing but their status changes. -/
theorem State.foldl_portDown_spec (l : List Nat) : ∀ s : State,
    (∀ b, b ∈ l ∨ s.linkDown b → (l.foldl State.portDown s).linkDown b) ∧
    (∀ r n, (∀ b, Reg.addr .portStatus b ≠ r.addr n) → (l.foldl State.portDown s).reg r n = s.reg r n) ∧
    { l.foldl State.portDown s with regs := [] } = { s with regs := [] } := by
  induction l with
  | nil => exact fun s => ⟨fun b h => h.resolve_left List.not_mem_nil, fun _ _ _ => rfl, rfl⟩
  | cons c l ih =>
    intro s
    obtain ⟨hdown, hreg, hrest⟩ := ih (s.portDown c)
    refine ⟨fun b h => hdown b ?_, fun r n hne => (hreg r n hne).trans (s.portDown_reg c (hne c)), hrest⟩
    rcases h with h | h
    · rcases List.mem_cons.1 h with rfl | h
      · exact .inr (s.linkDown_portDown b)
      · exact .inl h
    · exact .inr (State.linkDown_portDown_of c h)

/-- A present partition that stops: its state, its port blocks, and what of the device stays (R496). -/
theorem State.stopPartition_spec {s : State} {p : Nat} (hp : p < 4) (hpresent : s.partState p ≠ 0)
    (hkeys : ∀ c ∈ s.sec.keyWaits, c < 4096) :
    (s.stopPartition p).partState p = 4 ∧ (∀ b ∈ partBlocks s.mode p, b < 8 → (s.stopPartition p).linkDown b) ∧
    (s.stopPartition p).besidesRoot = s.besidesRoot := by
  have hstate : (s.setPartState p 4).partState p = 4 := by
    have hwr : (s.wr F.devPartStatusState 0 4 p).partState p = 4 :=
      (s.rd_wr F.devPartStatusState 0 4 p (by show 3 + p * 8 < 64; omega)).trans (by
        show 4 % 2 ^ (3 + p * 8 + 1 - (0 + p * 8)) = 4
        rw [show 3 + p * 8 + 1 - (0 + p * 8) = 4 by omega]
        rfl)
    exact (RootFrame.sensorEvent _ _ _ _).stopped p hp hwr
  have hset : (s.setPartState p 4).besidesRoot = s.besidesRoot := (RootFrame.sensorEvent _ _ _ _).rest
  have hkeys4 : ∀ c ∈ (s.setPartState p 4).sec.keyWaits, c < 4096 := fun c hc =>
    hkeys c ((RootFrame.sensorEvent (s.wr F.devPartStatusState 0 4 p) _ _ _).keys c hc)
  obtain ⟨hdown, hreg, hrest⟩ := State.foldl_portDown_spec (partBlocks s.mode p) (s.setPartState p 4)
  have hsec := congrArg State.sec hrest
  have hroot : RootFrame ((partBlocks s.mode p).foldl State.portDown (s.setPartState p 4)) (s.stopPartition p) := by
    unfold State.stopPartition
    rw [if_neg hpresent]
    exact RootFrame.refreshRoot fun c hc => hkeys4 c (by rw [← hsec]; exact hc)
  refine ⟨hroot.stopped p hp ?_, fun b hb hb8 => ?_, hroot.rest.trans ?_⟩
  · unfold State.partState State.rd
    rw [hreg F.devPartStatusState.reg 0 fun b => by rw [Reg.addr_portStatus]; show _ ≠ 0 + 0x50 + 0; omega]
    exact hstate
  · have hport : IsReg .portStatus b := isReg_of_lt hb8
    obtain ⟨ha, hb'⟩ := hdown b (.inl hb)
    exact ⟨(hroot.regs.rd F.portStatusUpA hport (by decide) 0).trans ha, (hroot.regs.rd F.portStatusUpB hport (by decide) 0).trans hb'⟩
  · refine Eq.trans ?_ hset
    have hbare := congrArg State.besidesRoot hrest
    exact hbare

-- the commands

theorem exec_regionStop {s : State} {region code : Nat} (hr : region < 4) (hcode : code = 0x8305 ∨ code = 0x8307 ∨ code = 0x8308) :
    exec (.regionStop region code) s = .next ((s.hwEvent region code (if code = 0x8307 then region else region * 3) (flags := 2)).stopPartition
      (partOfRegion s.mode region)) := by
  show execRegionStop region code s = _
  unfold execRegionStop
  exact if_pos ⟨hr, hcode⟩

theorem exec_supplyFault {s : State} {t : Nat} (hclamp : s.flag F.pwrStatusFastClamp = true) (hover : s.power.overSince = some t)
    (hdue : t + 100000000 ≤ s.now) :
    exec .supplyFault s = .next ((List.range 4).foldl State.stopPartition (s.hwEvent 0 0xC502 0xFFFF (flags := 2))) := by
  show execSupplyFault s = _
  unfold execSupplyFault
  rw [hclamp, hover]
  exact if_pos hdue

/-- A seam's status and its event do not change the mode in force. -/
theorem State.mode_wr_hwEvent (s : State) (f : Fld) (v code unit flags : Nat) (hf : f.reg = .devSeamStatus) :
    ((s.wr f 0 v).hwEvent 0 code unit (flags := flags)).mode = s.mode := by
  have hmode : IsReg .devPartCfg 0 := isReg_of_lt (by decide)
  have hseam : IsReg f.reg 0 := hf ▸ isReg_of_lt (by decide)
  unfold State.mode
  rw [(RegsBut.hwEvent _ (by decide) _ _ _ _ _ _).rd F.devPartCfgMode hmode (by decide),
    (RegsBut.wr (rs := [f.reg]) s f v 0 hseam List.mem_cons_self).rd F.devPartCfgMode hmode (by rw [hf]; decide)]

theorem exec_seamFail {s : State} {seam a b : Nat} {f : Fld} (hf : (seam, f, a, b) ∈ [(0, F.devSeamStatusSeam0, 0, 1),
      (1, F.devSeamStatusSeam1, 2, 3), (2, F.devSeamStatusSeam2, 0, 2), (3, F.devSeamStatusSeam3, 1, 3)]) (hup : s.rd f ≠ 2) :
    let v := (s.wr f 0 2).hwEvent 0 0xC401 seam (flags := 2)
    exec (.seamFail seam) s = .next
      (if partOfRegion s.mode a = partOfRegion s.mode b then v.stopPartition (partOfRegion s.mode a) else v) := by
  intro v
  have hreg : f.reg = .devSeamStatus := by
    simp only [List.mem_cons, List.not_mem_nil, or_false, Prod.mk.injEq] at hf
    rcases hf with ⟨-, rfl, -⟩ | ⟨-, rfl, -⟩ | ⟨-, rfl, -⟩ | ⟨-, rfl, -⟩ <;> rfl
  rw [← s.mode_wr_hwEvent f 2 0xC401 seam 2 hreg]
  show execSeamFail seam s = _
  simp only [List.mem_cons, List.not_mem_nil, or_false, Prod.mk.injEq] at hf
  rcases hf with ⟨rfl, rfl, rfl, rfl⟩ | ⟨rfl, rfl, rfl, rfl⟩ | ⟨rfl, rfl, rfl, rfl⟩ | ⟨rfl, rfl, rfl, rfl⟩
  all_goals exact if_neg hup

/-- Settles O30: each fault's command stops the partitions it reaches, and a partition that stops changes registers, keys and what is
sent alone. -/
theorem regionFaultsStopPartitions : Obligations.RegionFaultsStopPartitions := by
  refine ⟨fun s region hr => ⟨fun code hcode => ?_, ?_, ?_, ?_, rfl, fun t => exec_supplyFault, fun depth ns hd hn => ?_,
    fun seam f a b => exec_seamFail⟩, fun s p hp hpresent hkeys => ?_⟩
  · simp only [List.mem_cons, List.not_mem_nil, or_false] at hcode
    rw [exec_regionStop hr (by omega), if_neg (by omega)]
  · rw [exec_regionStop hr (by omega), if_pos rfl]
  · exact if_pos hr
  · exact if_pos hr
  · exact if_pos ⟨hr, hd, hn⟩
  · obtain ⟨hstate, hports, hrest⟩ := State.stopPartition_spec hp hpresent hkeys
    obtain ⟨hmem, hpoison, hcores, htasks, hqueues, -⟩ := State.of_besidesRoot hrest
    exact ⟨hstate, hports, hmem, hpoison, hcores, htasks, hqueues⟩

end Sys2Proof.Machine
end

section
/-! PROOFS. Tasks are bound, begun, dispatched and timed out; contexts are switched out and resumed (R140 to R143, R153, R155, R235,
R237, R238, R252). -/

namespace Sys2Proof.Machine

open Sys2Proof.Claims

section Tasks

variable {s : State} {t core : Nat} {k : Task} (hk : s.task? t = some k) (hlive : s.partLive k.part = true)
include hk hlive

/-- An accepted task whose command runs is bound to its cores. -/
theorem execTaskBind_of_accepted {q seq : Nat} {c : Cmd} (hcmd : s.taskCmd t = some (q, seq)) (hc : s.cmd? q seq = some c)
    (hrun : c.phase = .running) (hphase : k.phase = .accepted) (hsched : s.schedulerUp k.queue = true)
    (hcores : ∀ c ∈ k.cores, s.clusterUp c = true ∧ (s.core c).bound.length < 2) :
    execTaskBind t s = .next ((k.cores.foldl (fun (u : State) c => u.setCore c { u.core c with bound := (u.core c).bound ++ [t] })
      s).updTask t (fun y => { y with phase := .bound })) := by
  have hall : k.cores.all (fun c => s.clusterUp c && decide ((s.core c).bound.length < 2)) = true := by
    simpa using hcores
  unfold execTaskBind
  rw [hk]
  dsimp only
  rw [hcmd]
  exact if_pos ⟨hphase, by simp [hc, hrun], hlive, hsched, hall⟩

/-- A running task begins on one of its cores with the core's state cleared. -/
theorem execCoreTaskBegin_of_running (hphase : k.phase = .running) (hcore : core ∈ k.cores) (hnew : core ∉ k.begun)
    (hbound : t ∈ (s.core core).bound) (hfree : s.coreFree core = true) (hup : s.clusterUp core = true) (hsave : k.saveValid = false) :
    execCoreTaskBegin t core s = .next (((s.setCore core
      { bound := (s.core core).bound, pend := (s.core core).pend, flights := (s.core core).flights, nextId := (s.core core).nextId,
        task := some t }).updTask t (fun z => { z with begun := z.begun ++ [core] })).takePending t k.ctx core) := by
  unfold execCoreTaskBegin
  rw [hk]
  dsimp only
  rw [if_pos ⟨.inr hphase, hcore, hnew, hbound, hfree, hlive, hup, .inl hphase⟩, if_neg (by simp [hphase]), hk]
  simp [hsave]

/-- The next workgroup goes to the lowest free slot (R142). -/
theorem execWorkgroupDispatch_of_free {slot : Nat} {ps : List Nat} (hphase : k.phase = .running) (htask : (s.core core).task = some t)
    (hbegun : core ∈ k.begun) (hrun : core ∉ s.stopped) (hleft : k.nextWg < k.desc.total)
    (hpause : s.rd F.cluCccStatusDispatchPaused (clusterOfCore core) = 0) (hzero : k.desc.slmZero = false)
    (hslot : slot < k.desc.resident) (hfree : (s.core core).slots.has slot = false) (hlow : ∀ n < slot, (s.core core).slots.has n = true)
    (hps : (s.core core).places k.desc.groups = some ps) :
    execWorkgroupDispatch t core s = .next ((s.setCore core { s.core core with
      groups := (List.range k.desc.groups).foldl (fun (m : NMap Group) g => m.set (ps.getD g 0) (k.group k.nextWg slot g))
        (s.core core).groups
      slots := (s.core core).slots.set slot { linear := k.nextWg }
      idleSince := none }).updTask t (fun y => { y with nextWg := y.nextWg + 1 })) := by
  have hfind : (List.range k.desc.resident).find? (fun n => !(s.core core).slots.has n) = some slot := by
    rw [List.find?_range_eq_some]
    exact ⟨by simp [hfree], List.mem_range.2 hslot, fun n hn => by simp [hlow n hn]⟩
  unfold execWorkgroupDispatch
  rw [hk]
  dsimp only
  rw [if_pos ⟨hphase, htask, hbegun, hrun, hlive, hleft, hpause⟩, hfind, hps]
  dsimp only
  rw [if_neg (by simp [hzero])]

omit hlive in
/-- A task past its time limit stops, outside recordings and replays. -/
theorem execTimeLimitExpiry_of_past (hphase : k.phase ≠ .ended) (hlimit : k.desc.timeLimit ≠ 0)
    (hpast : k.accepted + k.desc.timeLimit < s.now) (hplay : s.replaying k.ctx = false) (hrec : s.recording k.ctx = false)
    (hawake : ∀ c ∈ k.cores, (s.core c).retained = false) :
    execTimeLimitExpiry t s = .next ((s.updTask t (fun y => { y with timedOut := true })).stopTask t 0x31) := by
  have hwake (l : List Nat) (hl : ∀ c ∈ l, (s.core c).retained = false) :
      l.foldl (fun (u : State) c => if (u.core c).task = some t then u.leaveRetention c else u) s = s := by
    induction l with
    | nil => rfl
    | cons c l ih =>
      have hstep : (if (s.core c).task = some t then s.leaveRetention c else s) = s := by
        unfold State.leaveRetention
        simp [hl c List.mem_cons_self]
      rw [List.foldl_cons, hstep]
      exact ih fun d hd => hl d (List.mem_cons_of_mem c hd)
  have hjournal : ∀ kind key body, s.journalCtx k.ctx kind key body = s := by
    intro kind key body
    unfold State.journalCtx
    simp [hrec]
  unfold execTimeLimitExpiry
  rw [hk]
  dsimp only
  rw [if_pos ⟨hphase, hlimit, hpast, hplay⟩, hjournal, hwake _ hawake]

end Tasks

/-- Settles O28: each command's conditions select the branch of its meaning; the lowest free slot is the first of the search. -/
theorem tasksBindBeginDispatch : Obligations.TasksBindBeginDispatch := by
  intro s t core k hk hlive
  refine ⟨fun q seq c => execTaskBind_of_accepted hk hlive, execCoreTaskBegin_of_running hk hlive,
    fun slot ps => execWorkgroupDispatch_of_free hk hlive, execTimeLimitExpiry_of_past hk⟩

-- contexts (R153, R155, R238, R252)

/-- Settles O29: the task that the search names is switched out of its quiet cores, or in again on those that hold its state. -/
theorem contextsSwitchAndResume : Obligations.ContextsSwitchAndResume := by
  refine fun s ctx t k => ⟨fun hfind hk => ?_, fun hfind => ?_⟩
  · intro on hsave hbase hlive hsched hquiet hflush hphase u v
    have hall : on.all (fun c => s.clusterUp c && (s.core c).quiet k.clearMode) = true := by simpa using hquiet
    show execContextSwitch ctx s = _
    unfold execContextSwitch
    rw [hfind]
    dsimp only
    rw [if_pos ⟨hsave, hbase, hlive, hsched, hall⟩, hflush, hk]
    dsimp only
    rw [if_pos hphase]
    rfl
  · intro saved hlive hsched hfree
    have hall : saved.all (fun e => s.coreFree e.1 && s.clusterUp e.1) = true := by simpa using hfree
    show execContextResume ctx s = _
    unfold execContextResume
    rw [hfind]
    exact if_pos ⟨hlive, hsched, hall⟩

end Sys2Proof.Machine
end

section
/-! PROOFS. Event records, window counting, draining and deferred interrupts (R466, R488 to R490). -/

namespace Sys2Proof.Machine

open Sys2Proof.Claims

-- what an interrupt leaves

/-- An interrupt only sends. -/
theorem State.raiseIrq_only_sent (s : State) (vector target hart iid enable : Nat) :
    ∃ l, s.raiseIrq vector target hart iid enable = { s with sent := l } := by
  unfold State.raiseIrq
  split
  · exact ⟨s.sent, rfl⟩
  · split
    · split
      · exact ⟨s.sent, rfl⟩
      · exact ⟨_, rfl⟩
    · exact ⟨_, rfl⟩

theorem EventSt.getD_set (m : NMap EventSt) (r : Nat) (ev : EventSt) : NMap.getD (m.set r ev) r {} = ev := by
  unfold NMap.getD
  rw [NMap.get?_set, if_pos rfl]
  rfl

/-- A record's interrupt notes its time or that it is due, sends, and changes nothing else. -/
theorem State.recordIrq_spec (s : State) (r : Nat) (action : Bool) :
    ∃ evs l, s.recordIrq r action = { s with events := evs, sent := l } ∧
      (evs.getD r {}).kept = (s.events.getD r {}).kept := by
  unfold State.recordIrq
  dsimp only
  split_ifs
  · obtain ⟨l, hl⟩ := State.raiseIrq_only_sent { s with events := s.events.set r { s.events.getD r {} with lastIrq := some s.now } }
      (s.rd F.regEvtCtlVector r) (s.rd F.regEvtCtlTarget r) (s.rd F.regEvtCtlHart r) (s.rd F.regEvtCtlIid r)
      (s.rd F.regEvtCtlEnable r)
    exact ⟨_, l, hl, by rw [EventSt.getD_set]⟩
  · exact ⟨_, s.sent, rfl, by rw [EventSt.getD_set]⟩
  · exact ⟨s.events, s.sent, rfl, rfl⟩

-- records (R488)

/-- What a tier's address names does not depend on the state. -/
theorem State.stack?_paKind (s t : State) (a : Nat) : (t.paKind a).stack? = (s.paKind a).stack? := by
  unfold State.paKind
  dsimp only
  repeat' split
  all_goals rfl

theorem State.rangeOnline_congr {s t : State} {a n : Nat} (h : s.rangeOnline a n) (hst : t.stackSts = s.stackSts) :
    t.rangeOnline a n := fun b hb k hk => by
  rw [s.stack?_paKind t] at hk
  have := h b hb k hk
  unfold State.stackOffline at this ⊢
  rwa [hst]

/-- An aligned block at an online stack, or at none, may be written. -/
theorem State.rangeOnline_block {s : State} {a : Nat} (ha : a % 32 = 0)
    (h : ∀ k, (s.paKind a).stack? = some k → s.stackOffline k = false) : s.rangeOnline a 32 := by
  intro b hb k hk
  have hb' : b * 32 = a := by
    unfold blocksOf at hb
    rw [if_neg (by decide), List.mem_map] at hb
    obtain ⟨i, hi, rfl⟩ := hb
    rw [List.mem_range] at hi
    omega
  exact h k (by rw [← hb']; exact hk)

theorem EvRec.length_bytes (e : EvRec) (seq : Nat) : (e.bytes seq).length = 32 := by
  unfold EvRec.bytes
  simp only [List.length_append, length_leBytes]

/-- The number of the next record of a region's log, the size of its ring, and the slot of the next record. -/
def State.evtSeq (s : State) (r : Nat) : Nat := s.rd F.regEvtWriteWriteCount r
def State.evtSize (s : State) (r : Nat) : Nat := 2 ^ s.rd F.regEvtBaseLog2Records r
def State.evtSlot (s : State) (r : Nat) : Nat := s.rd F.regEvtBaseBase r * 0x1000 + 32 * (s.evtSeq r % s.evtSize r)

section Records

variable {s : State} {r : Nat} {e : EvRec} (hnone : CountKind.ofCode e.code = none)
include hnone

/-- An event that is not counted is logged as it is; with a ring it goes to the next slot, and one it overwrites is counted. -/
theorem State.logRecord_of_ring (hring : s.flag F.regEvtBaseValid r = true) :
    s.logRecord r e = (((if s.evtSize r ≤ (s.evtSeq r + 2 ^ 32 - s.rd F.regEvtReadReadCount r) % 2 ^ 32 then
      s.bumpSat F.regEvtStatusOverwritten r else s).evtSlotWrite r (s.evtSeq r) e).bump F.regEvtWriteWriteCount r).recordIrq r (e.flags.testBit 1) := by
  unfold State.logRecord State.countEvent
  rw [hnone]
  dsimp only
  rw [if_neg Bool.false_ne_true, if_pos (show s.evtRing r = true from hring)]
  rfl

/-- Without a ring it joins the last 256. -/
theorem State.logRecord_of_noRing (hring : s.flag F.regEvtBaseValid r = false) :
    s.logRecord r e = (({ (if 256 < ((s.events.getD r {}).kept ++ [(s.evtSeq r, e)]).length then
        s.bumpSat F.regEvtStatusOverwritten r else s) with
      events := s.events.set r { s.events.getD r {} with
        kept := ((s.events.getD r {}).kept ++ [(s.evtSeq r, e)]).drop (((s.events.getD r {}).kept ++ [(s.evtSeq r, e)]).length - 256) } } :
      State).bump F.regEvtWriteWriteCount r).recordIrq r (e.flags.testBit 1) := by
  unfold State.logRecord State.countEvent
  rw [hnone]
  dsimp only
  rw [if_neg Bool.false_ne_true, if_neg (show ¬s.evtRing r = true from Bool.eq_false_iff.1 hring)]
  unfold State.evtSeq
  split <;> rfl

variable (hr : r < 4)
include hr

/-- With a ring at an online stack: the record's bytes, no other byte, its number, and the count of what it overwrites. -/
theorem State.logRecord_ring_spec (hring : s.flag F.regEvtBaseValid r = true)
    (hon : ∀ k, (s.paKind (s.evtSlot r)).stack? = some k → s.stackOffline k = false) :
    (s.logRecord r e).readBytes (s.evtSlot r) 32 = e.bytes (s.evtSeq r) ∧
    (∀ a, a < s.evtSlot r ∨ s.evtSlot r + 32 ≤ a → (s.logRecord r e).readByte a = s.readByte a) ∧
    (s.logRecord r e).rd F.regEvtWriteWriteCount r = (s.evtSeq r + 1) % 2 ^ 32 ∧
    (s.logRecord r e).rd F.regEvtStatusOverwritten r =
      (if s.evtSize r ≤ (s.evtSeq r + 2 ^ 32 - s.rd F.regEvtReadReadCount r) % 2 ^ 32 then
        min (s.rd F.regEvtStatusOverwritten r + 1) (2 ^ (F.regEvtStatusOverwritten.hi + 1 - F.regEvtStatusOverwritten.lo) - 1)
      else s.rd F.regEvtStatusOverwritten r) := by
  have hstatus : IsReg .regEvtStatus r := isReg_of_lt hr
  have hwrite : IsReg .regEvtWrite r := isReg_of_lt hr
  have hbase : IsReg .regEvtBase r := isReg_of_lt hr
  rw [State.logRecord_of_ring hnone hring]
  generalize hu : (if s.evtSize r ≤ (s.evtSeq r + 2 ^ 32 - s.rd F.regEvtReadReadCount r) % 2 ^ 32 then
    s.bumpSat F.regEvtStatusOverwritten r else s) = u
  obtain ⟨hregs, hsame, hsts, hover⟩ : RegsBut [.regEvtStatus] s u ∧ SameMemory s u ∧ u.stackSts = s.stackSts ∧
      u.rd F.regEvtStatusOverwritten r = (if s.evtSize r ≤ (s.evtSeq r + 2 ^ 32 - s.rd F.regEvtReadReadCount r) % 2 ^ 32 then
        min (s.rd F.regEvtStatusOverwritten r + 1) (2 ^ (F.regEvtStatusOverwritten.hi + 1 - F.regEvtStatusOverwritten.lo) - 1)
      else s.rd F.regEvtStatusOverwritten r) := by
    rw [← hu]
    split
    · exact ⟨RegsBut.wr s F.regEvtStatusOverwritten _ 0 hstatus List.mem_cons_self, ⟨rfl, rfl, rfl⟩, rfl,
        s.rd_bumpSat F.regEvtStatusOverwritten r 1 (by decide)⟩
    · exact ⟨.refl _ s, .refl s, rfl, rfl⟩
  have hslot : u.evtSlotWrite r (s.evtSeq r) e = u.writeMem (s.evtSlot r) (e.bytes (s.evtSeq r)) := by
    unfold State.evtSlotWrite State.evtSlot State.evtSize
    rw [hregs.rd F.regEvtBaseBase hbase (by decide), hregs.rd F.regEvtBaseLog2Records hbase (by decide)]
  have hlen := e.length_bytes (s.evtSeq r)
  have hrange : u.rangeOnline (s.evtSlot r) (e.bytes (s.evtSeq r)).length := by
    rw [hlen]
    exact State.rangeOnline_congr (State.rangeOnline_block (by unfold State.evtSlot; omega) hon) hsts
  rw [hslot]
  generalize hv : u.writeMem (s.evtSlot r) (e.bytes (s.evtSeq r)) = v
  have hvregs : v.regs = u.regs := by rw [← hv]; exact State.writeMem_regs_of_online hrange
  have hseq : v.rd F.regEvtWriteWriteCount r = s.evtSeq r := by
    unfold State.rd State.reg
    rw [hvregs]
    exact hregs.rd F.regEvtWriteWriteCount hwrite (by decide) 0
  obtain ⟨evs, l, hirq, -⟩ := (v.bump F.regEvtWriteWriteCount r).recordIrq_spec r (e.flags.testBit 1)
  rw [hirq]
  have hmem : SameMemory v { v.bump F.regEvtWriteWriteCount r with events := evs, sent := l } := ⟨rfl, rfl, rfl⟩
  refine ⟨?_, fun a ha => ?_, ?_, ?_⟩
  · rw [hmem.readBytes, ← hv, ← hlen, State.readBytes_writeMem_of_online hrange]
  · rw [hmem.readByte, ← hv, State.readByte_writeMem_of_online hrange, if_neg (by omega), hsame.readByte]
  · exact (v.rd_bump F.regEvtWriteWriteCount r 1 (by decide)).trans (by rw [hseq]; rfl)
  · refine Eq.trans ?_ hover
    refine ((RegsBut.wr (rs := [.regEvtWrite]) v F.regEvtWriteWriteCount _ 0 hwrite List.mem_cons_self).rd
      F.regEvtStatusOverwritten hstatus (by decide) 0).trans ?_
    unfold State.rd State.reg
    rw [hvregs]

omit hnone hr in
/-- A log rewritten and a count raised: the log is as written, and memory as it was. -/
theorem State.events_bump (u : State) (l : NMap EventSt) (f : Fld) (n : Nat) :
    (({ u with events := l } : State).bump f n).events = l ∧ (({ u with events := l } : State).bump f n).mem = u.mem := ⟨rfl, rfl⟩

omit hr in
/-- Without a ring the last 256 records are kept, and no byte changes. -/
theorem State.logRecord_noRing_spec (hring : s.flag F.regEvtBaseValid r = false) :
    ((s.logRecord r e).events.getD r {}).kept =
      ((s.events.getD r {}).kept ++ [(s.evtSeq r, e)]).drop (((s.events.getD r {}).kept ++ [(s.evtSeq r, e)]).length - 256) ∧
    (s.logRecord r e).mem = s.mem := by
  rw [State.logRecord_of_noRing hnone hring]
  generalize hu : (if 256 < ((s.events.getD r {}).kept ++ [(s.evtSeq r, e)]).length then
    s.bumpSat F.regEvtStatusOverwritten r else s) = u
  have hmem : u.mem = s.mem := by rw [← hu]; split <;> rfl
  generalize hl : s.events.set r _ = l
  obtain ⟨hev, hbump⟩ := u.events_bump l F.regEvtWriteWriteCount r
  obtain ⟨evs, sent, hirq, hkept⟩ := (({ u with events := l } : State).bump F.regEvtWriteWriteCount r).recordIrq_spec r (e.flags.testBit 1)
  rw [hirq]
  refine ⟨hkept.trans ?_, hbump.trans hmem⟩
  rw [hev, ← hl, EventSt.getD_set]

end Records

-- window counting (R489, R490)

section Counting

variable {s : State} {r : Nat} {e : EvRec}

/-- A row's repeat within a second of its burst is not counted again. -/
theorem State.countEvent_repeat {t : Nat} (hrow : CountKind.ofCode e.code = some .row)
    (hburst : (s.events.getD r {}).bursts.get? (e.location / 32) = some t) (hsoon : e.time < t + 1000000000) :
    s.countEvent r e = (s, { e with flags := e.flags ||| 1 }, false) := by
  unfold State.countEvent
  rw [hrow]
  dsimp only
  rw [hburst, if_pos (by simp [hsoon])]

/-- A counted event that reaches its threshold carries ACTION, which is due where its kind's action is enabled. -/
theorem State.countEvent_counted {k : CountKind} (hk : CountKind.ofCode e.code = some k)
    (hnew : k = .row → ∀ t, (s.events.getD r {}).bursts.get? (e.location / 32) = some t → t + 1000000000 ≤ e.time) :
    let recent := (((s.events.getD r {}).counts.getD (s.countKey k e) []).filter
      (fun t => decide (e.time < t + (s.countCfg k).2.1 ∧ t ≤ e.time))).length
    (s.countEvent r e).2 = (if (s.countCfg k).1 ≤ recent + 1 then { e with flags := e.flags ||| 2 } else e,
      decide ((s.countCfg k).1 ≤ recent + 1) && (s.countCfg k).2.2) := by
  intro recent
  unfold State.countEvent
  rw [hk]
  dsimp only
  refine (congrArg Prod.snd (if_neg fun hrep => ?_)).trans (by simp [recent])
  rw [Bool.and_eq_true, decide_eq_true_eq] at hrep
  obtain ⟨hrow, hlast⟩ := hrep
  cases hb : (s.events.getD r {}).bursts.get? (e.location / 32) with
  | none => simp [hb] at hlast
  | some t =>
    rw [hb] at hlast
    have hsoon := of_decide_eq_true hlast
    have hlate := hnew hrow t hb
    omega

end Counting

/-- Settles O33: a record is written, kept, counted and drained as its functions' branches say. -/
theorem eventLog : Obligations.EventLog := by
  intro s r e hr ev
  refine ⟨fun hnone hring => ?_, fun hnone hring => ?_, fun t hrow hburst hsoon => State.countEvent_repeat hrow hburst hsoon,
    fun k hk hnew => State.countEvent_counted hk hnew, fun hup hq hcode => ?_, fun t hdef hlast hdue => ?_⟩
  · intro seq size base hon
    exact State.logRecord_ring_spec hnone hr hring hon
  · exact State.logRecord_noRing_spec hnone hring
  · show execEventDrain r s = _
    unfold execEventDrain
    rw [if_pos ⟨hr, hup⟩]
    dsimp only
    rw [show (s.events.getD r {}).queue = [e] from hq]
    unfold State.drainEvents
    dsimp only
    rw [if_neg (fun h => hcode h.1)]
    simp [State.drainEvents, ev]
  · show execEventIrqDeferred r s = _
    unfold execEventIrqDeferred
    dsimp only
    rw [show (s.events.getD r {}).deferred = true from hdef, show (s.events.getD r {}).lastIrq = some t from hlast]
    exact if_pos ⟨hr, hdue⟩

end Sys2Proof.Machine
end

section
/-! PROOFS. The states of the firmware cores, and the staging of images (O34). -/

namespace Sys2Proof.Machine

open Sys2Proof.Claims

-- a firmware core's register

/-- The field that a firmware core's state is kept in is 2 bits wide, of a register of the map that no election writes; what follows
the state of a power core or of a cluster control core is kept elsewhere. -/
theorem fwFields_spec {fw : Nat} (h : fwExists fw = true) :
    (∃ f, fwFields fw = (f, (fwFields fw).2.1, fw / 3) ∧ f.reg = .regFwStatus ∧ f.hi < 64 ∧ f.hi + 1 - f.lo = 2 ∧ fwType fw ≤ 2 ∧
      fwRegion fw = fw / 3 ∧ fw / 3 < 4) ∨
    (fwFields fw = (F.cluCccStatusState, F.cluCccStatusExpiries, fw - 16) ∧ fwType fw = 3 ∧ fw - 16 < 144 ∧ fwRegion fw < 4) := by
  unfold fwExists at h
  simp only [Bool.or_eq_true, Bool.and_eq_true, decide_eq_true_eq] at h
  by_cases hlt : fw < 12
  · left
    have hq : fw / 3 < 4 := by omega
    have hm : fw % 3 = 0 ∨ fw % 3 = 1 ∨ fw % 3 = 2 := by omega
    unfold fwFields fwType fwRegion
    rw [if_pos hlt, if_pos hlt, if_pos hlt]
    obtain hm | hm | hm := hm <;> rw [hm]
    · exact ⟨F.regFwStatusSecState, rfl, rfl, by decide, by decide, by decide, rfl, hq⟩
    · exact ⟨F.regFwStatusPwrState, rfl, rfl, by decide, by decide, by decide, rfl, hq⟩
    · exact ⟨F.regFwStatusSchState, rfl, rfl, by decide, by decide, by decide, rfl, hq⟩
  · right
    unfold fwFields fwType fwRegion
    rw [if_neg hlt, if_neg hlt, if_neg hlt]
    exact ⟨rfl, rfl, by omega, by omega⟩

theorem fwRegion_lt {fw : Nat} (h : fwExists fw = true) : fwRegion fw < 4 := by
  obtain ⟨f, -, -, -, -, -, hr, hlt⟩ | ⟨-, -, -, hlt⟩ := fwFields_spec h
  · rw [hr]; exact hlt
  · exact hlt

/-- What follows a power core's state changes REG.PWR_STATUS only. -/
theorem State.refreshPwr_spec (s : State) {r : Nat} (hr : r < 4) :
    RegsBut [.regPwrStatus] s (s.refreshPwr r) ∧ (s.refreshPwr r).besidesRoot = s.besidesRoot := by
  have hreg : IsReg .regPwrStatus r := isReg_of_lt hr
  have keeps (u : State) (f : Fld) (v : Nat) (hf : f.reg = .regPwrStatus) : RegsBut [.regPwrStatus] u (u.wr f r v) :=
    RegsBut.wr u f v 0 (hf ▸ hreg) (hf ▸ List.mem_cons_self)
  have frame (u : State) (f : Fld) (v : Nat) : (u.wr f r v).besidesRoot = u.besidesRoot := rfl
  unfold State.refreshPwr
  dsimp only
  constructor
  · refine RegsBut.trans ?_ (keeps _ F.regPwrStatusCoreUp _ rfl)
    refine RegsBut.trans ?_ (keeps _ F.regPwrStatusPowerEmerg _ rfl)
    refine RegsBut.trans ?_ (keeps _ F.regPwrStatusVddMv _ rfl)
    exact RegsBut.trans (keeps _ F.regPwrStatusHaze _ rfl) (keeps _ F.regPwrStatusSource _ rfl)
  · rw [frame, frame, frame, frame, frame]

/-- A firmware core's state reads as written, and nothing else changes but registers and what an election gives out. -/
theorem State.setFwState_spec {s : State} {fw v : Nat} (h : fwExists fw = true) (hkeys : ∀ c ∈ s.sec.keyWaits, c < 4096) (hv : v < 4) :
    (s.setFwState fw v).fwState fw = v ∧ (s.setFwState fw v).besidesRoot = s.besidesRoot := by
  unfold State.setFwState State.fwState
  obtain ⟨f, hf, hreg, hhi, hwidth, hty, hregion, hlt⟩ | ⟨hf, hty, hn, -⟩ := fwFields_spec h <;> rw [hf] <;> dsimp only
  · have hwr : (s.wr f (fw / 3) v).rd f (fw / 3) = v := by
      rw [s.rd_wr_first f _ v hhi, hwidth]
      exact Nat.mod_eq_of_lt hv
    have his : IsReg f.reg (fw / 3) := hreg ▸ isReg_of_lt hlt
    generalize hu : s.wr f (fw / 3) v = u at hwr
    have hrest : u.besidesRoot = s.besidesRoot := by rw [← hu]; rfl
    have hk : ∀ c ∈ u.sec.keyWaits, c < 4096 := by rw [← hu]; exact hkeys
    rw [← hwr, ← hrest]
    unfold State.fwFollow
    have hcases : fwType fw = 0 ∨ fwType fw = 1 ∨ fwType fw = 2 := by omega
    obtain h0 | h1 | h2 := hcases
    · rw [h0]
      have hroot := RootFrame.refreshRoot hk
      exact ⟨hroot.regs.rd f his (hreg ▸ by decide) 0, hroot.rest⟩
    · rw [h1]
      obtain ⟨hregs, hpwr⟩ := u.refreshPwr_spec (hregion ▸ hlt : fwRegion fw < 4)
      exact ⟨hregs.rd f his (hreg ▸ by decide) 0, hpwr⟩
    · rw [h2]
      exact ⟨rfl, rfl⟩
  · have hwr : (s.wr F.cluCccStatusState (fw - 16) v).rd F.cluCccStatusState (fw - 16) = v :=
      (s.rd_wr_first F.cluCccStatusState (fw - 16) v (by decide)).trans (Nat.mod_eq_of_lt hv)
    unfold State.fwFollow
    rw [hty]
    refine ⟨Eq.trans ?_ hwr, rfl⟩
    exact State.rd_wr_disjoint _ F.cluCccStatusDispatchPaused F.cluCccStatusState _ _ 0 0 rfl (by decide) (by decide)

-- watchdogs (R462, R463)

/-- A hardware event changes registers and the queues of events only. -/
theorem State.enqueueEvent_only_log (s : State) (r : Nat) (e : EvRec) :
    ∃ regs evs, s.enqueueEvent r e = { s with regs := regs, events := evs } := by
  unfold State.enqueueEvent
  dsimp only
  split
  · exact ⟨_, _, rfl⟩
  · exact ⟨_, _, rfl⟩

theorem State.hwEvent_only_log (s : State) (r code unit ctx loc detail flags : Nat) :
    ∃ regs evs, s.hwEvent r code unit ctx loc detail flags = { s with regs := regs, events := evs } := s.enqueueEvent_only_log _ _

/-- The times of a core's expiries within the hour before now, and the state with one more. -/
def State.expiryTimes (s : State) (fw : Nat) : List Nat :=
  ((s.fwCores.getD fw {}).expiries.filter (fun t => decide (s.now < t + 3600000000000))) ++ [s.now]
def State.expired (s : State) (fw : Nat) : State :=
  { s.bumpSat (fwFields fw).2.1 (fwFields fw).2.2 with
    fwCores := s.fwCores.set fw { s.fwCores.getD fw {} with expiries := s.expiryTimes fw } }

/-- The event of an expiry: one code for a region's core, one for a cluster's. -/
def State.expiryEvent (s : State) (fw a b : Nat) : State :=
  if fw < 12 then s.hwEvent (fwRegion fw) a (fwRegion fw) (detail := fwType fw) else s.hwEvent (fwRegion fw) b (fw - 16)

theorem State.expiryEvent_only_log (s : State) (fw a b : Nat) : ∃ regs evs, s.expiryEvent fw a b = { s with regs := regs, events := evs } := by
  unfold State.expiryEvent
  split
  · exact s.hwEvent_only_log _ _ _ _ _ _ _
  · exact s.hwEvent_only_log _ _ _ _ _ _ _

theorem execWatchdogExpiry_of_running {s : State} {fw : Nat} (h : fwExists fw = true) (hrun : s.fwState fw = 0) :
    execWatchdogExpiry fw s = .next (if 4 ≤ (s.expiryTimes fw).length then ((s.expired fw).expiryEvent fw 0x8702 0x4702).setFwState fw 2
      else ((s.expired fw).expiryEvent fw 0x8701 0x4701).fwRestart fw) := by
  unfold execWatchdogExpiry
  rw [if_pos ⟨h, hrun⟩]
  exact (apply_ite Host.Outcome.next _ _ _).symm

theorem NMap.getD_set_self {α : Type} (m : NMap α) (i : Nat) (a d : α) : (m.set i a).getD i d = a := by
  unfold NMap.getD
  rw [NMap.get?_set, if_pos rfl]
  rfl

/-- A restarting core has the end of its restart, and its expiries as they were. -/
theorem State.fwRestart_spec {s : State} {fw : Nat} (h : fwExists fw = true) (hkeys : ∀ c ∈ s.sec.keyWaits, c < 4096) :
    (s.fwRestart fw).fwState fw = 1 ∧
    ((s.fwRestart fw).fwCores.getD fw {}) = { s.fwCores.getD fw {} with restartAt := some (s.now + fwRestartNs fw) } ∧
    (s.fwRestart fw).mem = s.mem ∧ (s.fwRestart fw).cores = s.cores ∧ (s.fwRestart fw).tasks = s.tasks ∧
    (s.fwRestart fw).queues = s.queues := by
  unfold State.fwRestart
  dsimp only
  generalize hc : s.fwCores.set fw { s.fwCores.getD fw {} with restartAt := some (s.now + fwRestartNs fw) } = cs
  obtain ⟨hst, hrest⟩ := State.setFwState_spec (s := { s with fwCores := cs }) h hkeys (show 1 < 4 by decide)
  obtain ⟨hmem, -, hcores, htasks, hqueues, hfw⟩ := State.of_besidesRoot hrest
  refine ⟨hst, ?_, hmem, hcores, htasks, hqueues⟩
  rw [hfw]
  exact (congrArg (fun m : NMap FwCore => m.getD fw {}) hc.symm).trans (NMap.getD_set_self _ _ _ _)

theorem watchdogExpiry_spec {s : State} {fw : Nat} (h : fwExists fw = true) (hkeys : ∀ c ∈ s.sec.keyWaits, c < 4096) (hrun : s.fwState fw = 0) :
    ∃ t, execWatchdogExpiry fw s = .next t ∧ (t.fwCores.getD fw {}).expiries = s.expiryTimes fw ∧
      ((s.expiryTimes fw).length < 4 → t.fwState fw = 1 ∧ (t.fwCores.getD fw {}).restartAt = some (s.now + fwRestartNs fw)) ∧
      (4 ≤ (s.expiryTimes fw).length → t.fwState fw = 2) ∧ t.mem = s.mem ∧ t.cores = s.cores ∧ t.tasks = s.tasks ∧ t.queues = s.queues := by
  refine ⟨_, execWatchdogExpiry_of_running h hrun, ?_⟩
  have hcore : (s.expired fw).fwCores.getD fw {} = { s.fwCores.getD fw {} with expiries := s.expiryTimes fw } :=
    NMap.getD_set_self _ _ _ _
  by_cases hn : 4 ≤ (s.expiryTimes fw).length
  · rw [if_pos hn]
    obtain ⟨regs, evs, hlog⟩ := (s.expired fw).expiryEvent_only_log fw 0x8702 0x4702
    rw [hlog]
    obtain ⟨hst, hrest⟩ := State.setFwState_spec (s := { s.expired fw with regs := regs, events := evs }) h hkeys (show 2 < 4 by decide)
    obtain ⟨hmem, -, hcores, htasks, hqueues, hfw⟩ := State.of_besidesRoot hrest
    refine ⟨?_, fun hlt => absurd hlt (by omega), fun _ => hst, hmem, hcores, htasks, hqueues⟩
    rw [hfw]
    exact congrArg FwCore.expiries hcore
  · rw [if_neg hn]
    obtain ⟨regs, evs, hlog⟩ := (s.expired fw).expiryEvent_only_log fw 0x8701 0x4701
    rw [hlog]
    obtain ⟨hst, hfw, hmem, hcores, htasks, hqueues⟩ :=
      State.fwRestart_spec (s := { s.expired fw with regs := regs, events := evs }) h hkeys
    refine ⟨?_, fun _ => ⟨hst, ?_⟩, fun hle => absurd hle hn, hmem, hcores, htasks, hqueues⟩
    · rw [hfw]
      exact congrArg FwCore.expiries hcore
    · rw [hfw]
      rfl

/-- A core that runs: its state, and the requests that wait for a root as they were. -/
theorem State.fwRun_spec {s : State} {fw : Nat} (h : fwExists fw = true) (hkeys : ∀ c ∈ s.sec.keyWaits, c < 4096) :
    (s.fwRun fw).fwState fw = 0 ∧ (s.fwRun fw).fwWaits = s.fwWaits := by
  unfold State.fwRun
  dsimp only
  generalize hu : (if fwType fw = 1 then State.setPwr _ (fwRegion fw) _ else _ : State) = u
  have hk : u.sec = s.sec ∧ u.fwWaits = s.fwWaits := by
    rw [← hu]
    split
    · exact ⟨rfl, rfl⟩
    · exact ⟨rfl, rfl⟩
  obtain ⟨hst, hrest⟩ := State.setFwState_spec (s := u) h (hk.1 ▸ hkeys) (show 0 < 4 by decide)
  exact ⟨hst, (congrArg State.fwWaits hrest).trans hk.2⟩

theorem State.serveWaits_of_nil {s : State} (h : s.fwWaits = []) : s.serveWaits = s := by
  unfold State.serveWaits
  rw [h]
  split
  · exact (congrArg (fun l => { s with fwWaits := l }) h).symm
  · rfl

-- staging (R470, R478)

theorem State.fwuFree_iff (s : State) : s.fwuFree = true ↔ s.rd F.fwuStatusState ∈ [0, 2, 6] := by
  unfold State.fwuFree
  simp [or_assoc]

/-- A request is handled by a root that is free. -/
theorem State.fwuRequest_of_free {s : State} {stage : Bool} {word : Word} {digestOk signaturesOk : Bool}
    (hfree : s.rd F.fwuStatusState ∈ [0, 2, 6]) (hroot : s.flag F.fwRootRootValid = true) :
    s.fwuRequest stage word digestOk signaturesOk =
      if stage then s.stageRequest word digestOk signaturesOk else s.activateRequest word := by
  unfold State.fwuRequest
  rw [s.fwuFree_iff.2 hfree, hroot]
  rfl

theorem State.fwuRequest_of_busy {s : State} {stage : Bool} {word : Word} {digestOk signaturesOk : Bool}
    (hbusy : s.rd F.fwuStatusState ∉ [0, 2, 6]) :
    s.fwuRequest stage word digestOk signaturesOk = (s.wr F.fwuStatusResult 0 8).accessError := by
  unfold State.fwuRequest
  rw [Bool.eq_false_iff.2 (mt s.fwuFree_iff.1 hbusy)]
  rfl

/-- The checks of an image in order: its signature, its version number, and its bank. -/
theorem State.stageCheck_of_unsigned {s : State} {i : ImageInfo} {d g : Bool} (h : d = false ∨ g = false ∨ s.slotsGood i = false) :
    s.stageCheck (some i) d g = .error 1 := by
  unfold State.stageCheck
  refine if_pos ?_
  obtain h | h | h := h <;> simp [h]

section Signed

variable {s : State} {i : ImageInfo} (hgood : s.slotsGood i = true)
include hgood

theorem State.stageCheck_of_old (h : i.svn < s.flash.minSvn.getD i.ty 0) : s.stageCheck (some i) true true = .error 2 := by
  unfold State.stageCheck
  dsimp only
  rw [hgood]
  exact if_pos h

theorem State.stageCheck_of_banks_differ (h : s.flash.minSvn.getD i.ty 0 ≤ i.svn) (hb : ∃ r < 4, s.bankOf r i.ty ≠ s.bankOf 0 i.ty) :
    s.stageCheck (some i) true true = .error 3 := by
  unfold State.stageCheck
  dsimp only
  rw [hgood]
  refine (if_neg (Nat.not_lt.2 h)).trans (if_pos ?_)
  obtain ⟨r, hr, hne⟩ := hb
  exact List.any_eq_true.2 ⟨r, List.mem_range.2 hr, decide_eq_true hne⟩

theorem State.stageCheck_of_good (h : s.flash.minSvn.getD i.ty 0 ≤ i.svn) (hb : ∀ r < 4, s.bankOf r i.ty = s.bankOf 0 i.ty) :
    s.stageCheck (some i) true true = .ok i := by
  unfold State.stageCheck
  dsimp only
  rw [hgood]
  refine (if_neg (Nat.not_lt.2 h)).trans (if_neg fun hany => ?_)
  obtain ⟨r, hr, hne⟩ := List.any_eq_true.1 hany
  exact of_decide_eq_true hne (hb r (List.mem_range.1 hr))

end Signed

/-- A request whose check fails has its RESULT; one that passes begins its staging. -/
theorem State.stageRequest_of_error {s : State} {word : Word} {d g : Bool} {e : Nat}
    (h : s.stageCheck (parseImage (fun o n => leNat (s.readBytes (s.rd F.fwuStageAddrAddr * 4096 + o) n)) (word.bits 3 0)
      (word.bits 31 8 * 1024)) d g = .error e) : s.stageRequest word d g = s.wr F.fwuStatusResult 0 e := by
  unfold State.stageRequest
  dsimp only
  rw [h]

theorem State.stageRequest_of_ok {s : State} {word : Word} {d g : Bool} {i : ImageInfo}
    (h : s.stageCheck (parseImage (fun o n => leNat (s.readBytes (s.rd F.fwuStageAddrAddr * 4096 + o) n)) (word.bits 3 0)
      (word.bits 31 8 * 1024)) d g = .ok i) : s.stageRequest word d g = s.beginStaging i (word.bits 31 8 * 1024) false := by
  unfold State.stageRequest
  dsimp only
  rw [h]

/-- A write of FWU.STAGE_CTL with GO is a staging request. -/
theorem stageImage_of_go {s : State} {a : Access} {q : RegWriteReq} {d g : Bool} (hw : Writes s a .fwuStageCtl q)
    (hgo : q.wrote F.fwuStageCtlGo = 1) : exec (.stageImage a d g) s = .next (s.fwuRequest true q.raw d g) := by
  show execStageImage a d g s = _
  unfold execStageImage
  rw [State.onWrite_of_writes _ hw List.mem_cons_self, if_pos hgo]

/-- The end of a staging that no PLDM update asked for. -/
theorem stagingDone_of_due {s : State} {g : Staging} (h : s.staging = some g) (hdue : g.doneAt ≤ s.now) (hp : g.pldm = false) :
    execStagingDone s = .next (((({ s with staging := none, flash := { s.flash with
      staged := s.flash.staged.set g.image.ty g.bank, images := s.flash.images.set (2 * g.image.ty + g.bank) g.image } } : State).wr
        F.fwuStatusResult 0 0).wr F.fwuStatusState 0 2)) := by
  unfold execStagingDone
  rw [h]
  dsimp only
  rw [if_pos hdue, hp]
  rfl

/-- Settles O34: what a firmware core's state carries with it, and the checks of a staging request in their order. -/
theorem firmwareCoresAndStaging : Obligations.FirmwareCoresAndStaging := by
  refine ⟨fun s fw hfw hkeys => ⟨fun hrun => watchdogExpiry_spec hfw hkeys hrun, fun hst hwaits => ?_⟩,
    fun s a q d g => ⟨fun hw hgo => ⟨fun hbusy => ?_, fun hfree hroot => ?_⟩, fun g hg hdue hp => ?_, fun w ws hws hlate => ?_⟩⟩
  · obtain ⟨hrun, hfww⟩ := State.fwRun_spec (s := s) hfw hkeys
    refine ⟨?_, hrun⟩
    show execFirmwareRestartDone fw s = _
    unfold execFirmwareRestartDone
    rw [if_pos ⟨hfw, hst⟩, State.serveWaits_of_nil (hfww.trans hwaits)]
  · rw [stageImage_of_go hw hgo, State.fwuRequest_of_busy hbusy]
  · intro limit base
    have hreq : exec (.stageImage a d g) s = .next (s.stageRequest q.raw d g) := by
      rw [stageImage_of_go hw hgo, State.fwuRequest_of_free hfree hroot]
      rfl
    rw [hreq]
    cases himg : parseImage (fun o n => leNat (s.readBytes (base + o) n)) (q.raw.bits 3 0) limit with
    | none => exact congrArg _ (State.stageRequest_of_error (by rw [show parseImage _ _ _ = none from himg]; rfl))
    | some i =>
      refine ⟨fun hbad => ?_, fun hd hg hgood => ?_⟩
      · exact congrArg _ (State.stageRequest_of_error (by
          rw [show parseImage _ _ _ = some i from himg]; exact State.stageCheck_of_unsigned hbad))
      · subst hd hg
        refine ⟨fun hold => ?_, fun hnew hb => ?_, fun hnew hb => ?_⟩
        · exact congrArg _ (State.stageRequest_of_error (by
            rw [show parseImage _ _ _ = some i from himg]; exact State.stageCheck_of_old hgood hold))
        · exact congrArg _ (State.stageRequest_of_error (by
            rw [show parseImage _ _ _ = some i from himg]; exact State.stageCheck_of_banks_differ hgood hnew hb))
        · exact congrArg _ (State.stageRequest_of_ok (by
            rw [show parseImage _ _ _ = some i from himg]; exact State.stageCheck_of_good hgood hnew hb))
  · refine ⟨_, stagingDone_of_due hg hdue hp, rfl, State.rd_wr_first _ F.fwuStatusState 0 2 (by decide), ?_, ?_, ?_, ?_⟩
    · exact (State.rd_wr_disjoint _ F.fwuStatusState F.fwuStatusResult 0 2 0 0 rfl (by decide) (by decide)).trans
        (State.rd_wr_first _ F.fwuStatusResult 0 0 (by decide))
    · exact (NMap.get?_set _ _ _ _).trans (if_pos rfl)
    · exact (NMap.get?_set _ _ _ _).trans (if_pos rfl)
    · exact OnlyRegs.trans (s.wr_onlyRegs F.fwuStatusResult 0 0 0 (isReg_of_lt (by decide)))
        (State.wr_onlyRegs _ F.fwuStatusState 0 2 0 (isReg_of_lt (by decide)))
  · show execFwuNoRootTimeout s = _
    unfold execFwuNoRootTimeout
    rw [hws]
    exact if_pos hlate

end Sys2Proof.Machine
end

section
/-! PROOFS. Activation of firmware: requests, quiescing, restarts and confirmation (O35). -/

namespace Sys2Proof.Machine

open Sys2Proof.Claims

-- requests (R471, R476, R477)

/-- A request that the root refuses has its RESULT. -/
theorem State.activateRequest_of_refusal {s : State} {word : Word} {e : Nat}
    (h : s.activateRefusal (word.bits 3 0) (word.bits 9 4) (word.bits 27 12) (decide (word.bits 10 10 = 1)) = some e) :
    s.activateRequest word = s.wr F.fwuStatusResult 0 e := by
  unfold State.activateRequest
  dsimp only
  rw [h]

/-- A bad type set or QUIESCE_MS has RESULT 9. -/
theorem State.activateRefusal_of_range {s : State} {parts types ms : Nat}
    (h : types.testBit 5 = true ∨ (ms ≠ 0 ∧ (ms < 1000 ∨ 60000 < ms))) : s.activateRefusal parts types ms false = some 9 := by
  unfold State.activateRefusal
  refine if_pos ?_
  obtain h | ⟨hne, h⟩ := h
  · simp [h]
  · simp [hne, h]

/-- A request at once holds its first partition; one with ON_RESET arms the banks. -/
theorem State.activateRequest_of_held {s : State} {word : Word} {p : Nat} {ps : List Nat} (hnow : word.bits 10 10 ≠ 1)
    (h : s.activateRefusal (word.bits 3 0) (word.bits 9 4) (word.bits 27 12) false = none) (hps : bitList 4 (word.bits 3 0) = p :: ps) :
    s.activateRequest word = (((({ s with activation := some {
      parts := p :: ps, types := word.bits 9 4, quiesceMs := if word.bits 27 12 = 0 then 10000 else word.bits 27 12 } } : State).wr F.fwuStatusState 0 3).wr
        F.fwuStatusPartNow 0 (2 ^ p)).wr F.fwuStatusTypes 0 (word.bits 9 4)) := by
  unfold State.activateRequest
  dsimp only
  rw [decide_eq_false hnow, h]
  dsimp only
  rw [if_neg hnow, hps]

theorem State.activateRequest_of_armed {s : State} {word : Word} (hreset : word.bits 10 10 = 1)
    (h : s.activateRefusal (word.bits 3 0) (word.bits 9 4) (word.bits 27 12) true = none) :
    s.activateRequest word = ({ s with flash := { s.flash with
      armed := (bitList 4 (word.bits 3 0)).flatMap (fun p => (bitList 6 (word.bits 9 4)).map (fun t => (p, t))) } } : State).wr
        F.fwuStatusState 0 6 := by
  unfold State.activateRequest
  dsimp only
  rw [decide_eq_true hreset, h]
  exact if_pos hreset

section Requests

variable {s : State} {a : Access} {q : RegWriteReq} (hw : Writes s a .fwuActivate q)
include hw

theorem activate_of_go (hgo : q.wrote F.fwuActivateGo = 1) (hcancel : q.wrote F.fwuActivateCancel = 0)
    (hreset : q.wrote F.fwuActivateOnReset = 0) : execActivate a s = .next (s.fwuRequest false q.raw false false) := by
  unfold execActivate
  rw [State.onWrite_of_writes _ hw List.mem_cons_self, if_pos ⟨hgo, hreset, hcancel⟩]

theorem activateOnReset_of_go (hgo : q.wrote F.fwuActivateGo = 1) (hcancel : q.wrote F.fwuActivateCancel = 0)
    (hreset : q.wrote F.fwuActivateOnReset = 1) : execActivateOnReset a s = .next (s.fwuRequest false q.raw false false) := by
  unfold execActivateOnReset
  rw [State.onWrite_of_writes _ hw List.mem_cons_self, if_pos ⟨hgo, hreset, hcancel⟩]

theorem activateCancel_of_cancel (hcancel : q.wrote F.fwuActivateCancel = 1) : execActivateCancel a s = .next s.cancelActivation := by
  unfold execActivateCancel
  rw [State.onWrite_of_writes _ hw List.mem_cons_self, if_pos hcancel]

end Requests

/-- A held request ends as it is; a quiescing one lets its partition go on. -/
theorem State.cancelActivation_of_held {s : State} (h : s.rd F.fwuStatusState = 3) : s.cancelActivation = s.endActivation s.fwuRest 7 := by
  unfold State.cancelActivation
  rw [h]
  rfl

theorem State.cancelActivation_of_quiescing {s : State} (h : s.rd F.fwuStatusState = 4) :
    s.cancelActivation = (s.resumePart ((s.activation.bind (fun x => x.parts.head?)).getD 0)).endActivation s.fwuRest 7 := by
  unfold State.cancelActivation
  rw [h]
  rfl

-- quiesce, restart and confirmation (R471, R473 to R475)

/-- The state of a held request once its partition quiesces. -/
def State.quiescing (s : State) (x : Activation) (p : Nat) : State :=
  (({ s with activation := some { x with quiesceEnd := s.now + x.quiesceMs * 1000000 } } : State).setPartState p 5).wr F.fwuStatusState 0 4

/-- A partition that has a command without its record is not quiet. -/
theorem State.quiet_of_busy {s : State} {p : Nat} (h : ∃ e ∈ s.queues, partOfQueue s.mode e.1 = p ∧ e.2.cmds ≠ []) : s.quiet p = false := by
  obtain ⟨e, he, hp, hcmds⟩ := h
  refine List.all_eq_false.2 ⟨e, he, ?_⟩
  simp [hp, hcmds]

/-- A partition's state changes registers an election may write, and what is sent. -/
theorem State.setPartState_spec (s : State) (p v : Nat) :
    RegsBut rootRegs s (s.setPartState p v) ∧ (s.setPartState p v).besidesRoot = s.besidesRoot := by
  have hsensor := RootFrame.sensorEvent (s.wr F.devPartStatusState 0 v p) (0x82 + p) (s.partState p) v
  exact ⟨(RegsBut.wr s F.devPartStatusState v p (isReg_of_lt (by decide)) (by decide)).trans hsensor.regs, hsensor.rest⟩

/-- Quiescing leaves the partition table and the queues. -/
theorem State.quiet_quiescing (s : State) (x : Activation) (p : Nat) : (s.quiescing x p).quiet p = s.quiet p := by
  generalize hx : some { x with quiesceEnd := s.now + x.quiesceMs * 1000000 } = y
  obtain ⟨hregs, hrest⟩ := State.setPartState_spec { s with activation := y } p 5
  have hall : RegsBut rootRegs { s with activation := y } (s.quiescing x p) := by
    unfold State.quiescing
    rw [hx]
    exact hregs.trans (RegsBut.wr _ F.fwuStatusState 4 0 (isReg_of_lt (by decide)) (by decide))
  have hmode : (s.quiescing x p).mode = s.mode := hall.rd F.devPartCfgMode (isReg_of_lt (by decide)) (by decide) 0
  have hqueues : (s.quiescing x p).queues = s.queues := by
    unfold State.quiescing
    rw [hx]
    exact (State.of_besidesRoot hrest).2.2.2.2.1
  unfold State.quiet
  rw [hmode, hqueues]

section Steps

variable {s : State} {x : Activation} {p : Nat} {ps : List Nat} (h : s.activation = some x) (hps : x.parts = p :: ps)
include h hps

theorem activationQuiesce_of_busy (hst : s.rd F.fwuStatusState = 3) (hrun : 500 ≤ s.normalRun) (hquiet : s.quiet p = false) :
    execActivationQuiesce s = .next (s.quiescing x p) := by
  have hbusy := (s.quiet_quiescing x p).trans hquiet
  cases x
  cases hps
  unfold execActivationQuiesce
  rw [h]
  dsimp only
  have hheld : (decide (s.rd F.fwuStatusState = 3) && decide (500 ≤ s.normalRun)) = true := by simp [hst, hrun]
  rw [hheld, if_pos rfl, if_pos rfl]
  refine if_neg fun hq => ?_
  exact Bool.false_ne_true (hbusy.symm.trans hq.2)

theorem activationQuiesce_of_quiet (hst : s.rd F.fwuStatusState = 4) (hquiet : s.quiet p = true)
    (hleft : (s.activationRestart x p).activation.any (fun b => decide (b.unkicked ≠ [])) = true) :
    execActivationQuiesce s = .next (s.activationRestart x p) := by
  unfold execActivationQuiesce
  rw [h]
  dsimp only
  rw [hps]
  dsimp only
  have hheld : (decide (s.rd F.fwuStatusState = 3) && decide (500 ≤ s.normalRun)) = false := by simp [hst]
  rw [hheld, if_neg Bool.false_ne_true, if_neg Bool.false_ne_true]
  rw [if_pos ⟨hst, hquiet⟩]
  cases hb : (s.activationRestart x p).activation with
  | none => simp [hb] at hleft
  | some b =>
    rw [hb] at hleft
    have hne : b.unkicked ≠ [] := of_decide_eq_true hleft
    dsimp only
    exact if_neg fun hnil => hne hnil.1

theorem quiesceTimeout_of_due (hst : s.rd F.fwuStatusState = 4) (hdue : x.quiesceEnd ≤ s.now) :
    execQuiesceTimeout s = .next ((s.resumePart p).endActivation s.fwuRest 5) := by
  unfold execQuiesceTimeout
  rw [h]
  dsimp only
  rw [if_pos ⟨hst, hdue⟩, hps]
  rfl

omit hps in
theorem activationConfirm_of_more {fw : Nat} (hst : s.rd F.fwuStatusState = 5) (hnow : s.now < x.confirmEnd) (hfw : fw ∈ x.unkicked)
    (hleft : x.unkicked.filter (fun f => decide (f ≠ fw)) ≠ []) : execActivationConfirm fw s =
      .next { s.fwRun fw with activation := some { x with unkicked := x.unkicked.filter (fun f => decide (f ≠ fw)) } } := by
  unfold execActivationConfirm
  rw [h]
  dsimp only
  rw [if_pos ⟨hst, hfw, hnow⟩, if_pos hleft]

theorem activationConfirm_of_last {fw : Nat} (hst : s.rd F.fwuStatusState = 5) (hnow : s.now < x.confirmEnd) (hfw : fw ∈ x.unkicked)
    (hleft : x.unkicked.filter (fun f => decide (f ≠ fw)) = []) (hroot : x.rootLast = false) :
    execActivationConfirm fw s = .next (((s.fwRun fw).activationNext { x with unkicked := [] } p).serveWaits) := by
  unfold execActivationConfirm
  rw [h]
  dsimp only
  rw [if_pos ⟨hst, hfw, hnow⟩, if_neg (fun hne => hne hleft), if_neg (by rw [hroot]; exact Bool.false_ne_true), hps]
  rfl

end Steps

/-- A request that has ended: no activation, and its RESULT. -/
theorem State.endActivation_spec (s : State) (st : Nat) {result : Nat} (hr : result < 16) :
    (s.endActivation st result).activation = none ∧ (s.endActivation st result).rd F.fwuStatusResult = result := by
  refine ⟨rfl, ?_⟩
  unfold State.endActivation
  refine (State.rd_wr_disjoint _ F.fwuStatusTypes F.fwuStatusResult 0 0 0 0 rfl (by decide) (by decide)).trans ?_
  refine (State.rd_wr_disjoint _ F.fwuStatusPartNow F.fwuStatusResult 0 0 0 0 rfl (by decide) (by decide)).trans ?_
  exact (State.rd_wr_first _ F.fwuStatusResult 0 result (by decide)).trans (Nat.mod_eq_of_lt (show result < 256 by omega))

theorem confirmTimeout_of_due {s : State} {x : Activation} (h : s.activation = some x) (hst : s.rd F.fwuStatusState = 5)
    (hdue : x.confirmEnd ≤ s.now) (hleft : x.unkicked ≠ []) :
    ∃ (u : State) (st : Nat), execConfirmTimeout s = .next (u.endActivation st 6) := by
  unfold execConfirmTimeout
  rw [h]
  dsimp only
  rw [if_pos ⟨hst, hdue, hleft⟩]
  exact ⟨_, _, rfl⟩

/-- Settles O35: what each command of an activation does in the state it is meant for. -/
theorem firmwareActivation : Obligations.FirmwareActivation := by
  intro s a q
  refine ⟨fun hw => ⟨fun hgo hcancel hfree hroot => ?_, fun hcancel hst => ?_, fun hcancel hst => ?_⟩,
    fun x p ps h hps hst hrun hbusy => activationQuiesce_of_busy h hps hst hrun (State.quiet_of_busy hbusy),
    fun x p ps h hps hst hquiet hleft => activationQuiesce_of_quiet h hps hst hquiet hleft,
    fun x p ps h hps hst hdue => quiesceTimeout_of_due h hps hst hdue,
    fun x p ps fw h hps hst hnow hfw => ?_, fun x p ps h hps hst hdue hleft => ?_⟩
  · intro parts types ms
    refine ⟨fun hreset => ?_, fun hreset href => ?_⟩
    · have hreq : exec (.activate a) s = .next (s.activateRequest q.raw) := by
        show execActivate a s = _
        rw [activate_of_go hw hgo hcancel hreset, State.fwuRequest_of_free hfree hroot]
        rfl
      have hnow : q.raw.bits 10 10 ≠ 1 := by
        rw [show q.raw.bits 10 10 = 0 from hreset]; decide
      rw [hreq]
      refine ⟨fun hrange => ?_, fun p ps href hps => congrArg _ (State.activateRequest_of_held hnow href hps)⟩
      refine congrArg _ (State.activateRequest_of_refusal ?_)
      rw [decide_eq_false hnow]
      exact State.activateRefusal_of_range hrange
    · show execActivateOnReset a s = _
      rw [activateOnReset_of_go hw hgo hcancel hreset, State.fwuRequest_of_free hfree hroot]
      exact congrArg _ (State.activateRequest_of_armed hreset href)
  · exact (activateCancel_of_cancel hw hcancel).trans (congrArg _ (State.cancelActivation_of_held hst))
  · exact (activateCancel_of_cancel hw hcancel).trans (congrArg _ (State.cancelActivation_of_quiescing hst))
  · intro left
    exact ⟨activationConfirm_of_more h hst hnow hfw, activationConfirm_of_last h hps hst hnow hfw⟩
  · obtain ⟨u, st, hu⟩ := confirmTimeout_of_due h hst hdue hleft
    obtain ⟨hnone, hresult⟩ := u.endActivation_spec st (show 6 < 16 by decide)
    exact ⟨_, hu, hnone, hresult⟩

end Sys2Proof.Machine
end

section
/-! PROOFS. Register writes: their merge, their refusal, and the clearing of counters (O40, O41). -/

namespace Sys2Proof.Machine

open Sys2Proof.Claims

-- the merge of a write (R18, R19)

/-- The bits that a write covers, in an access of 8 bytes or of an aligned half. -/
theorem Access.getLsbD_cover {a : Access} (hsize : a.size = 4 ∨ a.size = 8) (hal : a.addr % a.size = 0) {i : Nat} (hi : i < 64) :
    a.cover.getLsbD i = (decide (a.size = 8) || decide (i / 32 = a.addr / 4 % 2)) := by
  unfold Access.cover
  obtain h4 | h8 := hsize
  · rw [h4] at hal ⊢
    rw [if_neg (by decide)]
    split
    · have hlow : a.addr / 4 % 2 = 0 := by omega
      rw [hlow, show (0xFFFFFFFF : Word) = BitVec.ofNat 64 (2 ^ 32 - 1) from rfl, BitVec.getLsbD_ofNat, Nat.testBit_two_pow_sub_one]
      simp [hi]
    · have hhigh : a.addr / 4 % 2 = 1 := by omega
      rw [hhigh, show (0xFFFFFFFF00000000 : Word) = BitVec.ofNat 64 ((2 ^ 32 - 1) <<< 32) from rfl, BitVec.getLsbD_ofNat,
        Nat.testBit_shiftLeft, Nat.testBit_two_pow_sub_one, Bool.eq_iff_iff]
      simp [hi]
      omega
  · rw [h8, if_pos rfl, show (0xFFFFFFFFFFFFFFFF : Word) = BitVec.ofNat 64 (2 ^ 64 - 1) from rfl, BitVec.getLsbD_ofNat,
      Nat.testBit_two_pow_sub_one]
    simp [hi]

/-- The bits that a write writes: those of its value that it covers. -/
theorem Access.getLsbD_raw {a : Access} (hsize : a.size = 4 ∨ a.size = 8) (hal : a.addr % a.size = 0) {i : Nat} (hi : i < 64) :
    a.raw.getLsbD i = (a.cover.getLsbD i && a.value.getLsbD (if a.size = 8 then i else i % 32)) := by
  rw [Access.getLsbD_cover hsize hal hi]
  unfold Access.raw
  obtain h4 | h8 := hsize
  · rw [h4] at hal ⊢
    have hne : ¬4 = 8 := by decide
    rw [if_neg hne, if_neg hne]
    split
    · have hlow : a.addr / 4 % 2 = 0 := by omega
      rw [hlow, BitVec.getLsbD_and, show (0xFFFFFFFF : Word) = BitVec.ofNat 64 (2 ^ 32 - 1) from rfl, BitVec.getLsbD_ofNat,
        Nat.testBit_two_pow_sub_one]
      by_cases h : i < 32
      · simp [h, hi, Nat.div_eq_of_lt h, Nat.mod_eq_of_lt h]
      · have hq : i / 32 ≠ 0 := by omega
        simp [h, hq]
    · have hhigh : a.addr / 4 % 2 = 1 := by omega
      rw [hhigh, BitVec.getLsbD_shiftLeft]
      by_cases h : i < 32
      · have hq : i / 32 ≠ 1 := by omega
        simp [h, hq]
      · have hq : i / 32 = 1 := by omega
        have hm : i % 32 = i - 32 := by omega
        simp [h, hi, hq, hm]
  · rw [h8, if_pos rfl, if_pos rfl]
    simp

/-- The merged word, bit by bit. -/
theorem State.getLsbD_merged (s : State) (r : Reg) (n : Nat) (a : Access) {i : Nat} (hi : i < 64) :
    (s.mergeWrite r n a).merged.getLsbD i =
      if (r.maskOf .w1c).getLsbD i && a.raw.getLsbD i then false
      else if a.cover.getLsbD i && ((r.maskOf .rw).getLsbD i || ((r.maskOf .rwl).getLsbD i && !s.flag F.devBootStatusBootLocked)) then
        a.raw.getLsbD i
      else (s.reg r n).getLsbD i := by
  unfold State.mergeWrite
  simp only [BitVec.getLsbD_and, BitVec.getLsbD_or, BitVec.getLsbD_not, hi, decide_true, Bool.true_and, apply_ite (BitVec.getLsbD · i)]
  cases s.flag F.devBootStatusBootLocked <;> cases (r.maskOf .w1c).getLsbD i <;> cases a.raw.getLsbD i <;>
    cases a.cover.getLsbD i <;> cases (r.maskOf .rw).getLsbD i <;> cases (r.maskOf .rwl).getLsbD i <;> simp

theorem State.accessTarget_aligned {s : State} {a : Access} {r : Reg} {n : Nat} (h : s.accessTarget a = some (r, n)) :
    (a.size = 4 ∨ a.size = 8) ∧ a.addr % a.size = 0 := by
  unfold State.accessTarget at h
  by_contra hne
  rw [if_neg hne] at h
  cases h

/-- The registers with no rule of their own. -/
def plainRegs : List Reg :=
  [.ctxFpStatus, .ctxSrSeed, .ctxDrainStatus, .ctxSyncMode, .ctxSaveBase, .ctxFaultStatus, .ctxFtRequire, .l2Cfg, .regApcCtx, .regXfrCtl,
    .regXfrStatus, .hifHostRid, .tbCfg, .skbStatus, .calAddr, .regEvtRead, .regEvtCtl, .regEvtStatus, .portSecDrops, .secCfg,
    .secIdeStatus, .mgtSideStatus, .mgtCfg]

theorem State.regWrite_plain (s : State) (e : WriteEnv) {q : RegWriteReq} (h : q.reg ∈ plainRegs) : s.regWrite e q = s.store q := by
  unfold State.regWrite
  simp only [plainRegs, List.mem_cons, List.not_mem_nil, or_false] at h
  rcases h with h | h | h | h | h | h | h | h | h | h | h | h | h | h | h | h | h | h | h | h | h | h | h <;> rw [h]

theorem State.store_onlyRegs (s : State) {q : RegWriteReq} (h : IsReg q.reg q.n) : OnlyRegs [(q.reg, q.n)] s (s.store q) :=
  ⟨fun _ _ hm hne => s.reg_setReg_ne _ h hm fun he => hne (by rw [he]; exact List.mem_singleton.2 rfl), rfl⟩

-- the clearing of counters

/-- A register of a list that is cleared holds its Reset value. -/
theorem State.reg_clearRegs {r : Reg} {n : Nat} (hr : IsReg r n) (l : List Reg) (hl : ∀ x ∈ l, IsReg x n) :
    ∀ s : State, r ∈ l ∨ s.reg r n = r.reset n → (l.foldl (fun (t : State) x => t.clearReg x n) s).reg r n = r.reset n := by
  induction l with
  | nil => exact fun s h => h.resolve_left List.not_mem_nil
  | cons x l ih =>
    intro s h
    refine ih (fun y hy => hl y (List.mem_cons_of_mem x hy)) (s.clearReg x n) ?_
    by_cases hx : x = r
    · right
      rw [hx]
      exact s.reg_setReg r n _
    · refine h.imp (fun hmem => (List.mem_cons.1 hmem).resolve_left fun he => hx he.symm) fun hreset => ?_
      exact (s.reg_setReg_ne _ (hl x List.mem_cons_self) hr fun he => hx (congrArg Prod.fst he)).trans hreset

/-- A write of CLEAR zeroes the counters of its block and leaves memory. -/
theorem State.writeCountCtl_clears {s : State} {q : RegWriteReq} {clear : Fld} {rs : List Reg} (h : countersOf q.reg = some (clear, rs))
    (hclear : q.wrote clear = 1) (hrs : ∀ r ∈ rs, IsReg r q.n) :
    (∀ r ∈ rs, (s.writeCountCtl q).reg r q.n = r.reset q.n) ∧ (s.writeCountCtl q).mem = s.mem := by
  unfold State.writeCountCtl
  rw [h]
  dsimp only
  rw [if_pos hclear]
  generalize hu : (if q.reg = Reg.stkCountCtl then s.throttleAcc q.n else s) = u
  have hmem : u.mem = s.mem := by
    rw [← hu]
    split
    · unfold State.throttleAcc
      dsimp only
      split
      · rfl
      · exact (SameMemory.stkCount ..).1
    · rfl
  refine ⟨fun r hr => State.reg_clearRegs (hrs r hr) rs hrs _ (.inl hr), ?_⟩
  exact (State.foldl_keeps (f := fun (t : State) r => t.clearReg r q.n) State.mem (fun _ _ => rfl) rs (u.store q)).trans hmem

theorem countersOf_mem {r : Reg} {x : Fld × List Reg} (h : countersOf r = some x) :
    r ∈ [Reg.mxuCountCtl, .schCountCtl, .l2CountCtl, .stkCountCtl, .xltCountCtl, .regCohCountCtl] := by
  unfold countersOf at h
  split at h <;> simp at h ⊢

/-- Settles O40: the merge bit by bit, the plain store, and the clearing of a block's counters. -/
theorem registerWritesAndClears : Obligations.RegisterWritesAndClears := by
  refine ⟨fun s a q hgate => ?_, fun s a q clear rs hgate hcount hclear hrs => ?_⟩
  · obtain ⟨r, n, htarget, hreg, -, -, -, rfl⟩ := State.writeGate_go hgate
    obtain ⟨hsize, hal⟩ := State.accessTarget_aligned htarget
    refine ⟨fun i hi => s.getLsbD_merged r n a hi, fun i hi => Access.getLsbD_cover hsize hal hi,
      fun i hi => Access.getLsbD_raw hsize hal hi, hreg, fun hplain => ?_⟩
    refine ⟨s.store (s.mergeWrite r n a), ?_, s.reg_setReg _ _ _, State.store_onlyRegs s hreg⟩
    show execRegisterWrite a s = _
    unfold execRegisterWrite State.writeAccess
    rw [hgate]
    exact congrArg _ (s.regWrite_plain {} hplain)
  · refine ⟨s.writeCountCtl q, ?_, State.writeCountCtl_clears hcount hclear hrs⟩
    show execCountCtlClear a s = _
    unfold execCountCtlClear State.onWrite
    rw [hgate]
    dsimp only
    rw [if_pos (countersOf_mem hcount), hcount]
    exact congrArg _ (if_pos hclear)

-- writes out of reach (R18, R36, R40)

/-- A refused write of any register command is the access-error event, and one at a block that ignores writes nothing. -/
theorem onWrite_of_gate {s : State} {a : Access} {x : Host.Outcome State Fault Refusal} (h : ∃ l f, x = s.onWrite a l f) :
    (s.writeGate a = .refuse → x = .next s.accessError) ∧ (s.writeGate a = .ignore → x = .next s) := by
  obtain ⟨l, f, rfl⟩ := h
  exact ⟨State.onWrite_of_refuse l f, State.onWrite_of_ignore l f⟩

theorem registerWrite_of_gate {s : State} {a : Access} : (s.writeGate a = .refuse → execRegisterWrite a s = .next s.accessError) ∧
    (s.writeGate a = .ignore → execRegisterWrite a s = .next s) := by
  unfold execRegisterWrite State.writeAccess
  exact ⟨fun h => by rw [h], fun h => by rw [h]⟩

/-- A function other than the physical one reaches no block of the device. -/
theorem State.reaches_pfBlock {s : State} {o : Origin} {r : Reg} {n : Nat} (ho : o.isPf = false) (h : r.place.block.pfBlock = true) :
    s.reaches o r n = false := by
  unfold State.reaches
  simp [ho, h]

/-- It reaches no window of another partition. -/
theorem State.reaches_otherPart {s : State} {o : Origin} {r : Reg} {n p p' : Nat} (ho : o.isPf = false) (hp : s.originPart o = some p)
    (hp' : s.blockPart r.place.block (n / r.place.count) = some p') (hne : p ≠ p') (hawt : r.place.block ≠ .awt)
    (hdev : r.place.block ≠ .dev) : s.reaches o r n = false := by
  unfold State.reaches
  dsimp only
  rw [ho, if_neg Bool.false_ne_true, if_neg hdev, if_neg hawt, hp, hp']
  split
  · rfl
  · exact decide_eq_false hne

/-- Settles O41: every register command goes through the write gate. -/
theorem refusedWrites : Obligations.RefusedWrites := by
  intro s a st b c
  refine ⟨fun i hi => ?_, fun hnone => ⟨?_, ?_⟩, fun r n hsome hreach => ⟨?_, ?_⟩, fun r n ho h => ?_⟩
  · simp only [List.mem_cons, List.not_mem_nil, or_false] at hi
    obtain rfl | hi := hi
    · exact registerWrite_of_gate
    · refine onWrite_of_gate ?_
      rcases hi with rfl | rfl | rfl | rfl | rfl | rfl | rfl | rfl | rfl | rfl | rfl | rfl | rfl | rfl | rfl | rfl | rfl | rfl | rfl | rfl |
        rfl | rfl | rfl | rfl | rfl | rfl | rfl | rfl | rfl | rfl | rfl | rfl | rfl | rfl | rfl | rfl | rfl | rfl | rfl | rfl | rfl | rfl |
        rfl | rfl <;> exact ⟨_, _, rfl⟩
  · show execInvalidAccess a b s = _
    unfold execInvalidAccess
    rw [hnone]
  · unfold State.writeGate
    rw [hnone]
  · show execInvalidAccess a b s = _
    unfold execInvalidAccess
    rw [hsome]
    simp [hreach]
  · unfold State.writeGate
    rw [hsome]
    simp [hreach]
  · obtain hpf | ⟨p, p', hp, hp', hne, hawt, hdev⟩ := h
    · exact State.reaches_pfBlock ho hpf
    · exact State.reaches_otherPart ho hp hp' hne hawt hdev

end Sys2Proof.Machine
end

section
/-! PROOFS. Host accesses through the BARs (O42). -/

namespace Sys2Proof.Machine

open Sys2Proof.Claims

variable {s : State} {r : BarReq}

/-- With nothing that waits, a request is admitted and served by its BAR. -/
theorem State.barServe_of_idle (h : s.barReads = []) : s.barServe r =
    if !s.barAdmitted r then s.barRefuse r
    else if r.bar = 0 then s.bar0 r
    else if r.bar = 4 then s.bar4 r
    else if r.fn = 0 then s.bar2 r
    else s.aperture r := by
  unfold State.barServe State.barRetryAll
  rw [h]
  rfl

section Admitted

variable (h : s.barReads = []) (hadm : s.barAdmitted r = true)
include h hadm

theorem State.barServe_bar0 (hbar : r.bar = 0) : s.barServe r = s.bar0 r := by
  rw [State.barServe_of_idle h, hadm, Bool.not_true, if_neg Bool.false_ne_true, if_pos hbar]

theorem State.barServe_bar4 (hbar : r.bar = 4) : s.barServe r = s.bar4 r := by
  rw [State.barServe_of_idle h, hadm, Bool.not_true, if_neg Bool.false_ne_true, if_neg (by omega), if_pos hbar]

theorem State.barServe_bar2 (hbar : r.bar = 2) : s.barServe r = if r.fn = 0 then s.bar2 r else s.aperture r := by
  rw [State.barServe_of_idle h, hadm, Bool.not_true, if_neg Bool.false_ne_true, if_neg (by omega), if_neg (by omega)]

end Admitted

theorem barAccess_of_served (hserved : s.barServed r = true) : execBarAccess r s = .next (s.barServe r) := by
  unfold execBarAccess
  rw [if_pos hserved]

/-- A refused read is answered as unsupported. -/
theorem State.barRefuse_sent (hread : r.write = false) : (s.barRefuse r).sent = s.sent ++ [.barUnsupported s.nextBarRead] := by
  unfold State.barRefuse State.accessError
  rw [hread, if_neg Bool.false_ne_true]
  obtain ⟨regs, evs, hlog⟩ := State.hwEvent_only_log
    (({ s with nextBarRead := s.nextBarRead + 1 } : State).send (.barUnsupported s.nextBarRead)) 0 0xC001 0xFFFF 0xFFFF 0 0 0
  rw [hlog]
  rfl

/-- BAR0 in service is the register space. -/
theorem State.bar0_of_register (hoff : r.off < 0x50000000) (hup : s.modSt.standby = false) : s.bar0 r =
    if r.write then s.writeAccess r.env { origin := .fn r.fn, addr := r.off, size := r.len, value := BitVec.ofNat 64 (leNat r.data) }
    else (s.readAccess { origin := .fn r.fn, addr := r.off, size := r.len, value := BitVec.ofNat 64 (leNat r.data) }).1.answerRead
      (s.readAccess { origin := .fn r.fn, addr := r.off, size := r.len, value := BitVec.ofNat 64 (leNat r.data) }).2 := by
  unfold State.bar0
  refine if_neg fun h => ?_
  obtain h | ⟨h, -⟩ := h
  · omega
  · rw [hup] at h; cases h

/-- A doorbell's write is the command of its queue. -/
theorem State.ringBell_eq (fn q bell v : Nat) :
    .next (s.ringBell fn q bell v) = if bell = 0 then execSqDoorbell fn q v s else execCqDoorbell fn q v s := by
  obtain ⟨t, ht⟩ : ∃ t, (if bell = 0 then execSqDoorbell fn q v s else execCqDoorbell fn q v s) = .next t := by
    unfold execSqDoorbell execCqDoorbell
    dsimp only
    split
    · split
      · exact ⟨_, rfl⟩
      · exact ⟨_, rfl⟩
    · split
      · exact ⟨_, rfl⟩
      · exact ⟨_, rfl⟩
  unfold State.ringBell
  rw [ht]

/-- A write of 4 bytes at one of the two counts of a queue's doorbell page rings it. -/
theorem State.bar4_of_doorbell (hup : s.modSt.standby = false) (hoff : r.off < 0x8000000) (hwrite : r.write = true) (hlen : r.len = 4)
    (howns : s.ownsDoorbell r.fn (r.off / 4096) = true) (hbell : r.off % 4096 = 0 ∨ r.off % 4096 = 8) :
    s.bar4 r = s.ringBell r.fn (r.off / 4096) (r.off % 4096 / 8) (leNat (r.data.take 4)) := by
  unfold State.bar4
  dsimp only
  rw [hup, if_neg Bool.false_ne_true, if_pos hoff]
  unfold State.doorbellPage
  dsimp only
  rw [if_neg (by rw [hlen]; omega), if_pos hwrite, howns, Bool.not_true, if_neg Bool.false_ne_true]
  exact if_neg (by omega)

/-- The physical function's BAR2 is memory at the address itself. -/
theorem State.bar2_of_serve (hup : s.modSt.standby = false) (hcheck : s.barCheck none r.off r.len r.write = .serve) : s.bar2 r =
    if r.write then s.barWrite r.off r.data r.poisoned
    else (s.ncReadRange r.off r.len).answerRead ((s.ncReadRange r.off r.len).readBytes r.off r.len)
      ((s.ncReadRange r.off r.len).poisoned r.off r.len) := by
  unfold State.bar2 State.barMem State.barRead
  rw [hup, if_neg Bool.false_ne_true, hcheck]

section Window

variable {p : Nat} (hup : s.modSt.standby = false) (hoff : r.off < 0x1000000000)
  (hvalid : s.flag F.awtWinValid ((r.fn - 1) * 64 + r.off / 0x40000000) = true)
  (hfn : s.rd F.ctxStateFunction (s.rd F.awtWinContext ((r.fn - 1) * 64 + r.off / 0x40000000)) = r.fn)
  (hpart : s.originPart (.fn r.fn) = some (partOfCtx s.mode (s.rd F.awtWinContext ((r.fn - 1) * 64 + r.off / 0x40000000))))
  (hformat : s.flag F.ctxPtCtlFormat (s.rd F.awtWinContext ((r.fn - 1) * 64 + r.off / 0x40000000)) = false)
  (hstate : s.partState (partOfCtx s.mode (s.rd F.awtWinContext ((r.fn - 1) * 64 + r.off / 0x40000000))) ≠ 4)
include hup hoff hvalid hfn hpart hformat hstate

/-- A window that is valid for its function is no hole. -/
theorem State.aperture_open : ¬(s.modSt.standby = true ∨ 0x1000000000 ≤ r.off ∨
    s.flag F.awtWinValid ((r.fn - 1) * 64 + r.off / 0x40000000) = false ∨
    s.rd F.ctxStateFunction (s.rd F.awtWinContext ((r.fn - 1) * 64 + r.off / 0x40000000)) ≠ r.fn ∨
    s.originPart (.fn r.fn) ≠ some (partOfCtx s.mode (s.rd F.awtWinContext ((r.fn - 1) * 64 + r.off / 0x40000000))) ∨
    s.flag F.ctxPtCtlFormat (s.rd F.awtWinContext ((r.fn - 1) * 64 + r.off / 0x40000000)) = true ∨
    s.partState (partOfCtx s.mode (s.rd F.awtWinContext ((r.fn - 1) * 64 + r.off / 0x40000000))) = 4) := by
  simp [hup, hoff, hvalid, hfn, hpart, hformat, hstate]

/-- A write through a window that has no write right is dropped. -/
theorem State.aperture_of_readOnly (hwrite : r.write = true)
    (hro : s.flag F.awtWinWrite ((r.fn - 1) * 64 + r.off / 0x40000000) = false) : s.aperture r = s := by
  unfold State.aperture
  dsimp only
  rw [if_neg (State.aperture_open hup hoff hvalid hfn hpart hformat hstate)]
  exact if_pos ⟨hwrite, hro⟩

/-- An access whose translation succeeds and that no grant denies is one of memory under the window's context. -/
theorem State.aperture_of_translated {u : State} {pa : Nat}
    (hrw : r.write = false ∨ s.flag F.awtWinWrite ((r.fn - 1) * 64 + r.off / 0x40000000) = true)
    (htr : s.translate (.engine (lowestRegion s.mode (partOfCtx s.mode (s.rd F.awtWinContext ((r.fn - 1) * 64 + r.off / 0x40000000)))))
      (s.rd F.awtWinContext ((r.fn - 1) * 64 + r.off / 0x40000000))
      (s.rd F.awtWinVaBase ((r.fn - 1) * 64 + r.off / 0x40000000) * 0x40000000 + r.off % 0x40000000)
      (if r.write then .write else .read) = (u, .ok pa))
    (hgrant : u.paCheck (partOfCtx u.mode (s.rd F.awtWinContext ((r.fn - 1) * 64 + r.off / 0x40000000)))
      (.ctx (s.rd F.awtWinContext ((r.fn - 1) * 64 + r.off / 0x40000000))) pa r.write ≠ .denied) :
    s.aperture r = u.barMem r (some (s.rd F.awtWinContext ((r.fn - 1) * 64 + r.off / 0x40000000))) pa := by
  unfold State.aperture
  dsimp only
  rw [if_neg (State.aperture_open hup hoff hvalid hfn hpart hformat hstate), if_neg ?_, htr]
  · dsimp only
    split
    · next hden => exact absurd hden hgrant
    · rfl
  · rintro ⟨hw, hro⟩
    obtain h | h := hrw
    · rw [hw] at h; cases h
    · rw [hro] at h; cases h

end Window

/-- A read that has waited 10 ms and that is no hole is not tried again. -/
theorem State.barRetry_of_late {w : BarRead} (hread : w.write = none) (hlate : w.time + 10000000 ≤ s.now)
    (hcheck : s.barCheck w.ctx w.addr w.len false ≠ .hole) : s.barRetry w = s := by
  unfold State.barRetry
  dsimp only
  rw [hread]
  cases hc : s.barCheck w.ctx w.addr w.len (none : Option (List Byte × Bool)).isSome with
  | hole => exact absurd hc hcheck
  | wait => rfl
  | serve => exact if_pos hlate

theorem barReadTimeout_of_late {w : BarRead} (hone : s.barReads = [w]) (hread : w.write = none) (hlate : w.time + 10000000 ≤ s.now)
    (hcheck : s.barCheck w.ctx w.addr w.len false ≠ .hole) : execBarReadTimeout w.id s =
      .next ((({ s with barReads := [] } : State).send (.barAllOnes w.id w.len)).hwEvent 0 0xC402 0xFFFF) := by
  have hretry : s.barRetryAll = s := by
    unfold State.barRetryAll
    rw [hone]
    exact State.barRetry_of_late hread hlate hcheck
  unfold execBarReadTimeout
  rw [hretry]
  dsimp only
  rw [hone]
  simp [hread, hlate]

/-- Settles O42: each BAR's branch of a served request. -/
theorem hostAccesses : Obligations.HostAccesses := by
  intro s r hserved hidle
  refine ⟨fun hadm => ?_, fun hadm hup => ⟨?_, fun hbar hoff hwrite hlen howns => ?_, fun hbar hfn hcheck i hi => ?_, ?_⟩,
    fun t id w hone hid hread hlate hcheck => ?_⟩
  · have hserve : s.barServe r = s.barRefuse r := by
      rw [State.barServe_of_idle hidle, hadm, Bool.not_false, if_pos rfl]
    refine ⟨fun hwrite => ?_, fun hread => ⟨_, barAccess_of_served hserved, ?_⟩⟩
    · refine (barAccess_of_served hserved).trans ?_
      rw [hserve]
      exact congrArg _ (if_pos hwrite)
    · rw [hserve]
      exact State.barRefuse_sent hread
  · intro hbar hoff a
    have hreg := (State.barServe_bar0 hidle hadm hbar).trans (State.bar0_of_register hoff hup)
    refine ⟨fun hwrite => ?_, fun hread => ?_⟩
    · exact (barAccess_of_served hserved).trans (congrArg _ (hreg.trans (if_pos hwrite)))
    · exact (barAccess_of_served hserved).trans (congrArg _ (hreg.trans (if_neg (by rw [hread]; exact Bool.false_ne_true))))
  · have hserve := State.barServe_bar4 hidle hadm hbar
    refine ⟨fun ho => ?_, fun ho => ?_⟩
    · refine (barAccess_of_served hserved).trans ?_
      rw [hserve.trans (State.bar4_of_doorbell hup hoff hwrite hlen howns (.inl ho)), ho, State.ringBell_eq]
      rfl
    · refine (barAccess_of_served hserved).trans ?_
      rw [hserve.trans (State.bar4_of_doorbell hup hoff hwrite hlen howns (.inr ho)), ho, State.ringBell_eq]
      rfl
  · have hmem := ((State.barServe_bar2 hidle hadm hbar).trans (if_pos hfn)).trans (State.bar2_of_serve hup hcheck)
    have hexec : exec i s = .next (s.barServe r) := by
      simp only [List.mem_cons, List.not_mem_nil, or_false] at hi
      obtain rfl | rfl := hi
      · exact barAccess_of_served hserved
      · exact congrArg Host.Outcome.next (if_pos ⟨hserved, hbar, hfn⟩)
    refine ⟨fun hwrite => ?_, fun hread => ?_⟩
    · exact hexec.trans (congrArg _ (hmem.trans (if_pos hwrite)))
    · exact hexec.trans (congrArg _ (hmem.trans (if_neg (by rw [hread]; exact Bool.false_ne_true))))
  · intro hbar hfn hoff u pa n c p hvalid hfunc hpart hformat hstate
    have hwin : s.barServe r = s.aperture r := (State.barServe_bar2 hidle hadm hbar).trans (if_neg hfn)
    have hexec : exec (.apertureAccess r) s = .next (s.barServe r) :=
      congrArg Host.Outcome.next (if_pos ⟨hserved, hbar, hfn⟩)
    refine ⟨fun hwrite hro => ?_, fun hrw htr hgrant => ?_⟩
    · exact hexec.trans (congrArg _ (hwin.trans
        (State.aperture_of_readOnly hup hoff hvalid hfunc hpart hformat hstate hwrite hro)))
    · exact hexec.trans (congrArg _ (hwin.trans
        (State.aperture_of_translated hup hoff hvalid hfunc hpart hformat hstate hrw htr hgrant)))
  · rw [← hid]
    exact barReadTimeout_of_late hone hread hlate hcheck

end Sys2Proof.Machine
end

section
/-! PROOFS. What the operations on queues and their commands leave, and the doorbells and enables of queues (O43). -/

namespace Sys2Proof.Machine

open Sys2Proof.Claims

-- a queue replaced

@[simp] theorem State.queue_setQueue (s : State) (q : Nat) (x : QueueSt) : (s.setQueue q x).queue q = x := by
  have hget : NMap.getD (s.queues.set q x) q {} = x := NMap.getD_set_self _ _ _ _
  unfold State.setQueue State.queue
  dsimp only
  split
  · exact hget
  · exact hget

/-- Only the queue's status register changes beside the queues. -/
theorem State.setQueue_regs (s : State) {q : Nat} (x : QueueSt) (hq : q < 32768) :
    OnlyRegs [(.qpStatus, q)] { s with queues := s.queues.set q x } (s.setQueue q x) := by
  unfold State.setQueue
  dsimp only
  rw [if_pos hq]
  exact State.wr_onlyRegs _ F.qpStatusInflight q _ 0 (isReg_of_lt hq)

theorem State.rd_setQueue (s : State) {q : Nat} (x : QueueSt) (hq : q < 32768) (f : Fld) {n : Nat} (hn : IsReg f.reg n)
    (hf : f.reg ≠ .qpStatus) (k : Nat := 0) : (s.setQueue q x).rd f n k = s.rd f n k := by
  have hreg := (s.setQueue_regs x hq).1 f.reg n hn fun hm => hf (congrArg Prod.fst (List.mem_singleton.1 hm))
  unfold State.rd
  rw [hreg]
  rfl

/-- The state and the error of a queue lie beside its count of commands. -/
theorem State.rd_setQueue_status (s : State) {q : Nat} (x : QueueSt) (hq : q < 32768) (f : Fld) (hf : f.reg = .qpStatus) (hhi : f.hi < 16) :
    (s.setQueue q x).rd f q = s.rd f q := by
  unfold State.setQueue
  dsimp only
  rw [if_pos hq]
  exact State.rd_wr_disjoint _ F.qpStatusInflight f q _ 0 0 hf (by decide)
    (.inr (show f.hi + 0 * f.step < 16 by omega))

-- a queue stopped (R350)

section Stop

variable {s : State} {q : Nat} (hon : s.rd F.qpStatusState q ≠ 2)
include hon

theorem State.stopQueue_of_on (error : Nat) :
    s.stopQueue q error = (s.wr F.qpStatusState q 2).wr F.qpStatusError q error := by
  unfold State.stopQueue
  exact if_neg hon

theorem State.stopQueue_spec {error : Nat} (herr : error < 256) (hq : q < 32768) :
    (s.stopQueue q error).rd F.qpStatusState q = 2 ∧ (s.stopQueue q error).rd F.qpStatusError q = error ∧
    OnlyRegs [(.qpStatus, q)] s (s.stopQueue q error) := by
  have hreg : IsReg .qpStatus q := isReg_of_lt hq
  rw [State.stopQueue_of_on hon]
  refine ⟨?_, (State.rd_wr_first _ F.qpStatusError q error (by decide)).trans (Nat.mod_eq_of_lt herr),
    OnlyRegs.trans (State.wr_onlyRegs s F.qpStatusState q 2 0 hreg) (State.wr_onlyRegs _ F.qpStatusError q error 0 hreg)⟩
  exact (State.rd_wr_disjoint _ F.qpStatusError F.qpStatusState q error 0 0 rfl (by decide) (by decide)).trans
    (s.rd_wr_first F.qpStatusState q 2 (by decide))

end Stop

theorem State.queue_eq_of_queues {s t : State} (h : t.queues = s.queues) (q : Nat) : t.queue q = s.queue q := by
  unfold State.queue
  rw [h]

theorem OnlyRegs.queues {l : List (Reg × Nat)} {s t : State} (h : OnlyRegs l s t) : t.queues = s.queues :=
  (congrArg State.queues h.2 : _)

theorem OnlyRegs.rd {l : List (Reg × Nat)} {s t : State} (h : OnlyRegs l s t) (f : Fld) {n : Nat} (hn : IsReg f.reg n)
    (hf : (f.reg, n) ∉ l) (k : Nat := 0) : t.rd f n k = s.rd f n k := by
  unfold State.rd
  rw [h.1 f.reg n hn hf]

/-- What changes a register list changes it whatever the queues are taken to be. -/
theorem OnlyRegs.with_queues {l : List (Reg × Nat)} {s t : State} {m : NMap QueueSt} (h : OnlyRegs l { s with queues := m } t) :
    OnlyRegs l s { t with queues := s.queues } :=
  ⟨h.1, congrArg (fun u : State => { u with queues := s.queues }) h.2⟩

-- doorbells (R348)

/-- A doorbell sets a count of its queue, and stops it where the count is beyond the ring. -/
theorem State.doorbell_spec (s : State) {q error : Nat} (x : QueueSt) {p : Prop} [Decidable p] (hq : q < 32768) (herr : error < 256)
    (hon : p → s.queueOn q = true) :
    let t := if p then (s.setQueue q x).stopQueue q error else s.setQueue q x
    t.queue q = x ∧ (if p then t.rd F.qpStatusState q = 2 ∧ t.rd F.qpStatusError q = error
      else t.rd F.qpStatusState q = s.rd F.qpStatusState q) ∧ OnlyRegs [(.qpStatus, q)] s { t with queues := s.queues } := by
  have hset := s.setQueue_regs x hq
  have hst := s.rd_setQueue_status x hq F.qpStatusState rfl (by decide)
  intro t
  by_cases hp : p
  · have hon2 : (s.setQueue q x).rd F.qpStatusState q ≠ 2 := by
      have hq := hon hp
      unfold State.queueOn at hq
      rw [hst]
      simp only [Bool.or_eq_true, decide_eq_true_eq] at hq
      omega
    obtain ⟨hstate, hcode, honly⟩ := State.stopQueue_spec hon2 herr hq
    rw [show t = (s.setQueue q x).stopQueue q error from if_pos hp, if_pos hp]
    exact ⟨(State.queue_eq_of_queues (OnlyRegs.queues honly) q).trans (s.queue_setQueue q x), ⟨hstate, hcode⟩, OnlyRegs.with_queues (OnlyRegs.trans hset honly)⟩
  · rw [show t = s.setQueue q x from if_neg hp, if_neg hp]
    exact ⟨s.queue_setQueue q x, hst, OnlyRegs.with_queues hset⟩

theorem State.ownsDoorbell_lt {s : State} {fn q : Nat} (h : s.ownsDoorbell fn q = true) : q < 32768 := by
  unfold State.ownsDoorbell at h
  simp only [Bool.and_eq_true, decide_eq_true_eq] at h
  exact h.1.1

theorem sqDoorbell_spec {s : State} {fn q : Nat} (v : Nat) (h : s.ownsDoorbell fn q = true) :
    ∃ t, execSqDoorbell fn q v s = .next t ∧ t.queue q = { s.queue q with sqTail := v % 2 ^ 32 } ∧
      (if s.queueOn q = true ∧ 2 ^ s.rd F.qpCfgLog2Sq q < (v % 2 ^ 32 + 2 ^ 32 - s.rd F.qpSqHeadCount q) % 2 ^ 32 then
        t.rd F.qpStatusState q = 2 ∧ t.rd F.qpStatusError q = 1
      else t.rd F.qpStatusState q = s.rd F.qpStatusState q) ∧ OnlyRegs [(.qpStatus, q)] s { t with queues := s.queues } := by
  have hq := State.ownsDoorbell_lt h
  refine ⟨_, ?_, s.doorbell_spec { s.queue q with sqTail := v % 2 ^ 32 } hq (show 1 < 256 by decide) And.left⟩
  unfold execSqDoorbell
  rw [h, Bool.not_true, if_neg Bool.false_ne_true]
  dsimp only
  rw [State.queueOn, State.queueOn, s.rd_setQueue_status _ hq F.qpStatusState rfl (by decide),
    s.rd_setQueue _ hq F.qpCfgLog2Sq (isReg_of_lt hq) (by decide), s.rd_setQueue _ hq F.qpSqHeadCount (isReg_of_lt hq) (by decide)]

theorem cqDoorbell_spec {s : State} {fn q : Nat} (v : Nat) (h : s.ownsDoorbell fn q = true) :
    ∃ t, execCqDoorbell fn q v s = .next t ∧ t.queue q = { s.queue q with cqHead := v % 2 ^ 32 } ∧
      (if s.queueOn q = true ∧ 2 ^ s.rd F.qpCfgLog2Cq q < (s.rd F.qpCqTailCount q + 2 ^ 32 - v % 2 ^ 32) % 2 ^ 32 then
        t.rd F.qpStatusState q = 2 ∧ t.rd F.qpStatusError q = 4
      else t.rd F.qpStatusState q = s.rd F.qpStatusState q) ∧ OnlyRegs [(.qpStatus, q)] s { t with queues := s.queues } := by
  have hq := State.ownsDoorbell_lt h
  refine ⟨_, ?_, s.doorbell_spec { s.queue q with cqHead := v % 2 ^ 32 } hq (show 4 < 256 by decide) And.left⟩
  unfold execCqDoorbell
  rw [h, Bool.not_true, if_neg Bool.false_ne_true]
  dsimp only
  rw [State.queueOn, State.queueOn, s.rd_setQueue_status _ hq F.qpStatusState rfl (by decide),
    s.rd_setQueue _ hq F.qpCfgLog2Cq (isReg_of_lt hq) (by decide), s.rd_setQueue _ hq F.qpCqTailCount (isReg_of_lt hq) (by decide)]

end Sys2Proof.Machine
end

section
/-! PROOFS. Queue enables, disables and doorbells (O43). -/

namespace Sys2Proof.Machine

open Sys2Proof.Claims

-- a field kept at its old value

/-- A kept field leaves every field beside it as it was written. -/
theorem RegWriteReq.new_keep (r : RegWriteReq) (f g : Fld) (hg : g.hi < 64)
    (h : ∀ i < 64, g.lo ≤ i → i ≤ g.hi → f.mask.getLsbD i = false) : (r.keep f).new g = r.new g := by
  unfold RegWriteReq.keep RegWriteReq.new
  apply Nat.eq_of_testBit_eq
  intro i
  simp only [Word.bits_testBit, Nat.zero_mul, Nat.add_zero, BitVec.getLsbD_or, BitVec.getLsbD_and, BitVec.getLsbD_not]
  by_cases hi : i < g.hi + 1 - g.lo
  · have hlt : g.lo + i < 64 := by omega
    rw [h (g.lo + i) hlt (by omega) (by omega)]
    simp [hlt]
  · simp [hi]

/-- A kept field reads its old value. -/
theorem RegWriteReq.new_keep_self (r : RegWriteReq) (f : Fld) (hf : f.hi < 64)
    (h : ∀ i < 64, f.lo ≤ i → i ≤ f.hi → f.mask.getLsbD i = true) : (r.keep f).new f = r.was f := by
  unfold RegWriteReq.keep RegWriteReq.new RegWriteReq.was
  apply Nat.eq_of_testBit_eq
  intro i
  simp only [Word.bits_testBit, Nat.zero_mul, Nat.add_zero, BitVec.getLsbD_or, BitVec.getLsbD_and, BitVec.getLsbD_not]
  by_cases hi : i < f.hi + 1 - f.lo
  · have hlt : f.lo + i < 64 := by omega
    rw [h (f.lo + i) hlt (by omega) (by omega)]
    simp
  · simp [hi]

/-- A write of QP.CFG with the sizes outside 6 to 16 kept. -/
def RegWriteReq.keepSize (r : RegWriteReq) (f : Fld) : RegWriteReq := if 6 ≤ r.new f ∧ r.new f ≤ 16 then r else r.keep f
def RegWriteReq.sized (r : RegWriteReq) : RegWriteReq := (r.keepSize F.qpCfgLog2Sq).keepSize F.qpCfgLog2Cq

theorem RegWriteReq.new_keepSize (r : RegWriteReq) (f g : Fld) (hg : g.hi < 64)
    (h : ∀ i < 64, g.lo ≤ i → i ≤ g.hi → f.mask.getLsbD i = false) : (r.keepSize f).new g = r.new g := by
  unfold RegWriteReq.keepSize
  split
  · rfl
  · exact r.new_keep f g hg h

theorem RegWriteReq.new_sized (r : RegWriteReq) : r.sized.new F.qpCfgEnable = r.new F.qpCfgEnable ∧
    r.sized.new F.qpCfgContext = r.new F.qpCfgContext :=
  ⟨((r.keepSize _).new_keepSize _ _ (by decide) (by decide)).trans (r.new_keepSize _ _ (by decide) (by decide)),
    ((r.keepSize _).new_keepSize _ _ (by decide) (by decide)).trans (r.new_keepSize _ _ (by decide) (by decide))⟩

theorem RegWriteReq.keepSize_place (r : RegWriteReq) (f : Fld) : (r.keepSize f).reg = r.reg ∧ (r.keepSize f).n = r.n ∧
    (r.keepSize f).origin = r.origin ∧ (r.keepSize f).old = r.old := by
  unfold RegWriteReq.keepSize
  split <;> exact ⟨rfl, rfl, rfl, rfl⟩

theorem RegWriteReq.sized_place (r : RegWriteReq) : r.sized.reg = r.reg ∧ r.sized.n = r.n ∧ r.sized.origin = r.origin ∧
    r.sized.old = r.old := by
  obtain ⟨hreg, hn, ho, hold⟩ := r.keepSize_place F.qpCfgLog2Sq
  obtain ⟨hreg', hn', ho', hold'⟩ := (r.keepSize F.qpCfgLog2Sq).keepSize_place F.qpCfgLog2Cq
  exact ⟨hreg'.trans hreg, hn'.trans hn, ho'.trans ho, hold'.trans hold⟩

/-- The fields that an enabled queue keeps. -/
def qpCfgLocked : List Fld := [F.qpCfgSqLoc, F.qpCfgCqLoc, F.qpCfgLog2Sq, F.qpCfgLog2Cq, F.qpCfgContext]

theorem RegWriteReq.new_locked (r : RegWriteReq) : (qpCfgLocked.foldl RegWriteReq.keep r).new F.qpCfgEnable = r.new F.qpCfgEnable ∧
    (qpCfgLocked.foldl RegWriteReq.keep r).new F.qpCfgContext = r.was F.qpCfgContext := by
  refine ⟨?_, RegWriteReq.new_keep_self _ F.qpCfgContext (by decide) (by decide)⟩
  unfold qpCfgLocked
  simp only [List.foldl_cons, List.foldl_nil]
  rw [RegWriteReq.new_keep _ F.qpCfgContext _ (by decide) (by decide), RegWriteReq.new_keep _ F.qpCfgLog2Cq _ (by decide) (by decide),
    RegWriteReq.new_keep _ F.qpCfgLog2Sq _ (by decide) (by decide), RegWriteReq.new_keep _ F.qpCfgCqLoc _ (by decide) (by decide),
    RegWriteReq.new_keep _ F.qpCfgSqLoc _ (by decide) (by decide)]

-- a write of QP.CFG (R347, R350)

/-- The configuration stored but for ENABLE, its context no longer free. -/
def State.withQpCfg (s : State) (r : RegWriteReq) : State :=
  let u : State := s.store (r.keep F.qpCfgEnable)
  if u.rd F.ctxStateState (u.queueCtx r.n) = 0 then u.wr F.ctxStateState (u.queueCtx r.n) 1 else u

/-- The write as the rules on fields leave it. -/
def RegWriteReq.qpCfg (r : RegWriteReq) : RegWriteReq :=
  if decide (r.was F.qpCfgEnable = 1) then qpCfgLocked.foldl RegWriteReq.keep r.sized else r.sized

theorem RegWriteReq.foldl_keep_place (l : List Fld) : ∀ r : RegWriteReq, (l.foldl RegWriteReq.keep r).reg = r.reg ∧
    (l.foldl RegWriteReq.keep r).n = r.n ∧ (l.foldl RegWriteReq.keep r).origin = r.origin ∧ (l.foldl RegWriteReq.keep r).old = r.old := by
  induction l with
  | nil => exact fun _ => ⟨rfl, rfl, rfl, rfl⟩
  | cons f l ih => exact fun r => ih (r.keep f)

theorem RegWriteReq.qpCfg_place (r : RegWriteReq) : r.qpCfg.reg = r.reg ∧ r.qpCfg.n = r.n ∧ r.qpCfg.origin = r.origin ∧
    r.qpCfg.old = r.old := by
  obtain ⟨hreg, hn, ho, hold⟩ := r.sized_place
  obtain ⟨hreg', hn', ho', hold'⟩ := RegWriteReq.foldl_keep_place qpCfgLocked r.sized
  unfold RegWriteReq.qpCfg
  split
  · exact ⟨hreg'.trans hreg, hn'.trans hn, ho'.trans ho, hold'.trans hold⟩
  · exact ⟨hreg, hn, ho, hold⟩

theorem RegWriteReq.was_qpCfg (r : RegWriteReq) (f : Fld) : r.qpCfg.was f = r.was f := by
  unfold RegWriteReq.was
  rw [r.qpCfg_place.2.2.2]

theorem RegWriteReq.new_qpCfg_enable (r : RegWriteReq) : r.qpCfg.new F.qpCfgEnable = r.new F.qpCfgEnable := by
  unfold RegWriteReq.qpCfg
  split
  · exact r.sized.new_locked.1.trans r.new_sized.1
  · exact r.new_sized.1

/-- What a write does once the rules on fields have been applied. -/
def State.setQpCfg (s : State) (was : Bool) (q : Nat) (r : RegWriteReq) : State :=
  let badCtx := decide (r.new F.qpCfgContext ≠ r.was F.qpCfgContext)
    && (!r.origin.isPf || decide (partOfCtx s.mode (r.new F.qpCfgContext) ≠ partOfQueue s.mode q))
  let (s, r) := if badCtx then (s.accessError, r.keep F.qpCfgContext) else (s, r)
  let on := decide (r.new F.qpCfgEnable = 1)
  let s : State := s.store (r.keep F.qpCfgEnable)
  let c := s.queueCtx q
  let s : State := if s.rd F.ctxStateState c = 0 then s.wr F.ctxStateState c 1 else s
  if on = was then s
  else if on then if s.rd F.qpStatusState q = 4 then s.accessError else s.enableQueue q
  else s.disableQueue q

theorem State.writeQpCfg_of_owner {s : State} {r : RegWriteReq} (hown : s.ownsQueue r.origin r.n = true) :
    s.writeQpCfg r = s.setQpCfg (decide (r.was F.qpCfgEnable = 1)) r.n r.qpCfg := by
  unfold State.writeQpCfg
  dsimp only
  rw [hown, Bool.not_true, if_neg Bool.false_ne_true]
  rfl

/-- A write that changes no context takes ENABLE up or down. -/
theorem State.setQpCfg_of_context (s : State) {was : Bool} {q : Nat} {r : RegWriteReq}
    (hctx : r.new F.qpCfgContext = r.was F.qpCfgContext) (hq : r.n = q) : s.setQpCfg was q r =
      if decide (r.new F.qpCfgEnable = 1) = was then s.withQpCfg r
      else if decide (r.new F.qpCfgEnable = 1) then
        if (s.withQpCfg r).rd F.qpStatusState q = 4 then (s.withQpCfg r).accessError else (s.withQpCfg r).enableQueue q
      else (s.withQpCfg r).disableQueue q := by
  subst hq
  unfold State.setQpCfg
  rw [decide_eq_false (not_not_intro hctx), Bool.false_and]
  rfl

theorem OnlyRegs.mono {l l' : List (Reg × Nat)} {s t : State} (h : OnlyRegs l s t) (hl : l ⊆ l') : OnlyRegs l' s t :=
  ⟨fun r n hr hn => h.1 r n hr fun hm => hn (hl hm), h.2⟩

/-- The configuration stored changes its register and the state of the queue's context. -/
theorem State.withQpCfg_spec (s : State) {r : RegWriteReq} (hreg : r.reg = .qpCfg) (hn : r.n < 32768) :
    (s.withQpCfg r).reg .qpCfg r.n = (r.keep F.qpCfgEnable).merged ∧
    (∃ c < 4096, OnlyRegs [(.qpCfg, r.n), (.ctxState, c)] s (s.withQpCfg r)) := by
  have hcfg : IsReg .qpCfg r.n := isReg_of_lt hn
  have hkeep : (r.keep F.qpCfgEnable).reg = .qpCfg := hreg
  have hstore : OnlyRegs [(.qpCfg, r.n)] s (s.store (r.keep F.qpCfgEnable)) := by
    have h := State.store_onlyRegs s (q := r.keep F.qpCfgEnable) (by rw [hkeep]; exact hcfg)
    rw [hkeep] at h
    exact h
  have hread : (s.store (r.keep F.qpCfgEnable)).reg .qpCfg r.n = (r.keep F.qpCfgEnable).merged := by
    unfold State.store
    rw [hkeep]
    exact s.reg_setReg _ _ _
  unfold State.withQpCfg
  dsimp only
  generalize s.store (r.keep F.qpCfgEnable) = u at hstore hread ⊢
  have hc : u.queueCtx r.n < 4096 := by
    unfold State.queueCtx
    rw [if_pos hn]
    exact Word.bits_lt _ _ _
  have hctx : IsReg .ctxState (u.queueCtx r.n) := isReg_of_lt hc
  have hmono : OnlyRegs [(.qpCfg, r.n), (.ctxState, u.queueCtx r.n)] s u := OnlyRegs.mono hstore (by simp)
  split
  · have hwr : OnlyRegs [(.ctxState, u.queueCtx r.n)] u (u.wr F.ctxStateState (u.queueCtx r.n) 1) :=
      u.wr_onlyRegs F.ctxStateState _ 1 0 hctx
    exact ⟨(hwr.1 _ _ hcfg (by simp)).trans hread, _, hc, OnlyRegs.trans hmono (OnlyRegs.mono hwr (by simp))⟩
  · exact ⟨hread, _, hc, hmono⟩

-- enabling (R347, R348)

/-- A field's write leaves every other register. -/
theorem State.rd_wr_of_reg_ne (s : State) {f g : Fld} {n m : Nat} (v k j : Nat) (hn : IsReg f.reg n) (hm : IsReg g.reg m)
    (h : f.reg ≠ g.reg) : (s.wr f n v k).rd g m j = s.rd g m j :=
  s.rd_wr_ne f g n m v k j (IsReg.addr_ne hn hm fun he => h (congrArg Prod.fst he))

/-- A queue's state as it starts, before the check of its doorbell. -/
def State.startedQueue (s : State) (q v : Nat) : State := ((s.wr F.qpCfgEnable q 1).wr F.qpStatusError q 0).wr F.qpStatusState q v

section Started

variable (s : State) {q : Nat} (hq : q < 32768)
include hq

omit hq in
theorem State.rd_startedQueue_cfg (v : Nat) {f : Fld} (hf : f.reg = .qpCfg) (hlo : 1 ≤ f.lo) : (s.startedQueue q v).rd f q = s.rd f q := by
  have hne : Reg.qpStatus.addr q ≠ f.reg.addr q := by
    rw [hf]
    unfold Reg.addr
    exact fun h => absurd h (by simp [Reg.place])
  unfold State.startedQueue
  refine (State.rd_wr_ne _ F.qpStatusState f q q v 0 0 hne).trans ?_
  refine (State.rd_wr_ne _ F.qpStatusError f q q 0 0 0 hne).trans ?_
  exact State.rd_wr_disjoint _ F.qpCfgEnable f q 1 0 0 hf (by decide) (.inl (show 0 < f.lo + 0 * f.step by omega))

/-- Registers of no queue's configuration and status are as they were. -/
theorem State.rd_startedQueue (v : Nat) {f : Fld} {n : Nat} (hn : IsReg f.reg n) (hcfg : f.reg ≠ .qpCfg) (hst : f.reg ≠ .qpStatus) :
    (s.startedQueue q v).rd f n = s.rd f n := by
  have hqcfg : IsReg .qpCfg q := isReg_of_lt hq
  have hqst : IsReg .qpStatus q := isReg_of_lt hq
  unfold State.startedQueue
  refine (State.rd_wr_of_reg_ne _ (f := F.qpStatusState) v 0 0 hqst hn (Ne.symm hst)).trans ?_
  refine (State.rd_wr_of_reg_ne _ (f := F.qpStatusError) 0 0 0 hqst hn (Ne.symm hst)).trans ?_
  exact s.rd_wr_of_reg_ne (f := F.qpCfgEnable) 1 0 0 hqcfg hn (Ne.symm hcfg)

theorem State.startedQueue_status {v : Nat} (hv : v < 8) : (s.startedQueue q v).flag F.qpCfgEnable q = true ∧
    (s.startedQueue q v).rd F.qpStatusError q = 0 ∧ (s.startedQueue q v).rd F.qpStatusState q = v := by
  have hqcfg : IsReg .qpCfg q := isReg_of_lt hq
  have hqst : IsReg .qpStatus q := isReg_of_lt hq
  unfold State.startedQueue
  refine ⟨decide_eq_true ?_, ?_, (State.rd_wr_first _ F.qpStatusState q v (by decide)).trans (Nat.mod_eq_of_lt hv)⟩
  · refine (State.rd_wr_of_reg_ne _ (f := F.qpStatusState) (g := F.qpCfgEnable) v 0 0 hqst hqcfg (by decide)).trans ?_
    refine (State.rd_wr_of_reg_ne _ (f := F.qpStatusError) (g := F.qpCfgEnable) 0 0 0 hqst hqcfg (by decide)).trans ?_
    exact s.rd_wr_first F.qpCfgEnable q 1 (by decide)
  · exact (State.rd_wr_disjoint _ F.qpStatusState F.qpStatusError q v 0 0 rfl (by decide) (by decide)).trans
      (State.rd_wr_first _ F.qpStatusError q 0 (by decide))

end Started

/-- A queue enabled with no more entries than its ring holds: it runs, or is held while the session is detached. -/
theorem State.enableQueue_of_room {s : State} {q : Nat} (hq : q < 32768)
    (hroom : ((s.queue q).sqTail + 2 ^ 32 - s.rd F.qpSqHeadCount q) % 2 ^ 32 ≤ 2 ^ s.rd F.qpCfgLog2Sq q) :
    s.enableQueue q = (s.setQueue q { s.queue q with ringFailed := false, ringStall := none }).startedQueue q
      (if s.rd F.hifSessionState = 2 then 3 else 1) := by
  have hsession : IsReg .hifSession 0 := isReg_of_lt (by decide)
  generalize hu : s.setQueue q { s.queue q with ringFailed := false, ringStall := none } = u
  have hdet : ((u.wr F.qpCfgEnable q 1).wr F.qpStatusError q 0).detached = decide (s.rd F.hifSessionState = 2) := by
    unfold State.detached
    rw [State.rd_wr_of_reg_ne (f := F.qpStatusError) _ 0 0 0 (isReg_of_lt hq) hsession (by decide),
      State.rd_wr_of_reg_ne (f := F.qpCfgEnable) _ 1 0 0 (isReg_of_lt hq) hsession (by decide), ← hu,
      s.rd_setQueue _ hq F.hifSessionState hsession (by decide)]
  have htail : ((u.startedQueue q (if s.rd F.hifSessionState = 2 then 3 else 1)).queue q).sqTail = (s.queue q).sqTail := by
    have hqueue : u.queue q = { s.queue q with ringFailed := false, ringStall := none } := by
      rw [← hu]
      exact s.queue_setQueue q _
    exact (congrArg QueueSt.sqTail hqueue : )
  have hhead : (u.startedQueue q (if s.rd F.hifSessionState = 2 then 3 else 1)).rd F.qpSqHeadCount q = s.rd F.qpSqHeadCount q := by
    rw [u.rd_startedQueue hq _ (f := F.qpSqHeadCount) (isReg_of_lt hq) (by decide) (by decide), ← hu,
      s.rd_setQueue _ hq F.qpSqHeadCount (isReg_of_lt hq) (by decide)]
  have hlog : (u.startedQueue q (if s.rd F.hifSessionState = 2 then 3 else 1)).rd F.qpCfgLog2Sq q = s.rd F.qpCfgLog2Sq q := by
    rw [u.rd_startedQueue_cfg _ (f := F.qpCfgLog2Sq) rfl (by decide), ← hu, s.rd_setQueue _ hq F.qpCfgLog2Sq (isReg_of_lt hq) (by decide)]
  unfold State.enableQueue
  dsimp only
  rw [hu, hdet]
  simp only [decide_eq_true_eq]
  refine if_neg ?_
  show ¬2 ^ (u.startedQueue q _).rd F.qpCfgLog2Sq q < (((u.startedQueue q _).queue q).sqTail + 2 ^ 32 -
    (u.startedQueue q _).rd F.qpSqHeadCount q) % 2 ^ 32
  rw [htail, hhead, hlog]
  omega

-- disabling (R350)

/-- What the end of commands leaves of a queue: its configuration, its state, how many commands it has, and those that have not ended. -/
structure EndsCmds (s t : State) (q : Nat) : Prop where
  enable : t.rd F.qpCfgEnable q = s.rd F.qpCfgEnable q
  state : t.rd F.qpStatusState q = s.rd F.qpStatusState q
  length : (t.queue q).cmds.length = (s.queue q).cmds.length
  undone : ∀ c ∈ (t.queue q).cmds, c.phase ≠ .done → c ∈ (s.queue q).cmds

theorem EndsCmds.refl (s : State) (q : Nat) : EndsCmds s s q := ⟨rfl, rfl, rfl, fun _ h _ => h⟩

theorem EndsCmds.trans {s t u : State} {q : Nat} (h : EndsCmds s t q) (h' : EndsCmds t u q) : EndsCmds s u q :=
  ⟨h'.enable.trans h.enable, h'.state.trans h.state, h'.length.trans h.length, fun c hc hd => h.undone c (h'.undone c hc hd) hd⟩

theorem State.queue_updCmd (s : State) (q seq : Nat) (f : Cmd → Cmd) :
    (s.updCmd q seq f).queue q = { s.queue q with cmds := (s.queue q).cmds.map (fun c => if c.seq = seq then f c else c) } :=
  s.queue_setQueue q _

/-- A command that ends: those of its number are done, the others as they were. -/
theorem State.endCmd_spec (s : State) {q seq : Nat} (st res fault : Nat) (hq : q < 32768) :
    EndsCmds s (s.endCmd q seq st res fault) q ∧ ∀ c ∈ ((s.endCmd q seq st res fault).queue q).cmds, c.seq = seq → c.phase = .done := by
  have hqueue := congrArg QueueSt.cmds (s.queue_updCmd q seq (fun c => if c.phase = .done then c else
    { c with phase := .done, status := st, result := res, faultCode := fault, waiting := false, hostWait := false, stalled := none }))
  have hmem (c : Cmd) (hc : c ∈ ((s.endCmd q seq st res fault).queue q).cmds) : c.phase = .done ∨ (c ∈ (s.queue q).cmds ∧ c.seq ≠ seq) := by
    unfold State.endCmd at hc
    rw [hqueue] at hc
    obtain ⟨d, hd, rfl⟩ := List.mem_map.1 hc
    by_cases hseq : d.seq = seq
    · left
      rw [if_pos hseq]
      split
      · next hdone => exact hdone
      · rfl
    · rw [if_neg hseq]
      exact .inr ⟨hd, hseq⟩
  refine ⟨⟨?_, ?_, ?_, fun c hc hd => ((hmem c hc).resolve_left hd).1⟩, fun c hc hseq => (hmem c hc).resolve_right fun h => h.2 hseq⟩
  · exact s.rd_setQueue _ hq F.qpCfgEnable (isReg_of_lt hq) (by decide)
  · exact s.rd_setQueue_status _ hq F.qpStatusState rfl (by decide)
  · unfold State.endCmd
    rw [hqueue, List.length_map]

theorem State.failCmd_spec (s : State) {q seq : Nat} (st : Nat) (hq : q < 32768) :
    EndsCmds s (s.failCmd q seq st) q ∧ ∀ c ∈ ((s.failCmd q seq st).queue q).cmds, c.seq = seq → c.phase = .done := by
  unfold State.failCmd
  cases hcmd : s.cmd? q seq with
  | some c => exact s.endCmd_spec st _ 0 hq
  | none =>
    refine ⟨.refl s q, fun c hc hseq => ?_⟩
    have hnone := List.find?_eq_none.1 hcmd c hc
    simp [hseq] at hnone

/-- Commands of no task that are failed one after another are all done. -/
theorem State.foldl_failCmd_spec {q : Nat} (st : Nat) (hq : q < 32768) (l : List Cmd) :
    ∀ s : State, EndsCmds s (l.foldl (fun (t : State) c => t.failCmd q c.seq st) s) q ∧
      ∀ c ∈ ((l.foldl (fun (t : State) c => t.failCmd q c.seq st) s).queue q).cmds, c.seq ∈ l.map Cmd.seq → c.phase = .done := by
  induction l with
  | nil => exact fun s => ⟨.refl s q, fun _ _ h => absurd h List.not_mem_nil⟩
  | cons d l ih =>
    intro s
    obtain ⟨hfirst, hdone⟩ := s.failCmd_spec (seq := d.seq) st hq
    obtain ⟨hrest, hall⟩ := ih (s.failCmd q d.seq st)
    refine ⟨hfirst.trans hrest, fun c hc hseq => ?_⟩
    obtain hseq | hseq := List.mem_cons.1 hseq
    · by_contra hne
      exact hne (hdone c (hrest.undone c hc hne) hseq)
    · exact hall c hc hseq

/-- The commands of a queue, none of a task, aborted. -/
theorem State.abortCmds_spec {s : State} {q st : Nat} (hq : q < 32768) (htask : ∀ c ∈ (s.queue q).cmds, c.task = none) :
    EndsCmds s (s.abortCmds q st (fun _ => true)) q ∧ ∀ c ∈ ((s.abortCmds q st (fun _ => true)).queue q).cmds, c.phase = .done := by
  generalize hl : (s.queue q).cmds.filter (fun c => decide (c.phase ≠ .done) && true) = l
  have hfold : s.abortCmds q st (fun _ => true) = l.foldl (fun (t : State) c => t.failCmd q c.seq st) s := by
    unfold State.abortCmds
    rw [hl]
    refine List.foldl_ext _ _ s fun t c hc => ?_
    have hc' : c ∈ (s.queue q).cmds := (List.mem_filter.1 (hl ▸ hc)).1
    rw [htask c hc']
  obtain ⟨hends, hall⟩ := State.foldl_failCmd_spec st hq l s
  rw [hfold]
  refine ⟨hends, fun c hc => ?_⟩
  by_contra hne
  have hmem : c ∈ l := by
    rw [← hl, List.mem_filter]
    exact ⟨hends.undone c hc hne, by simp [hne]⟩
  exact hne (hall c hc (List.mem_map_of_mem hmem))

/-- A queue disabled: every command has ended, and it is disabled at once where it has none. -/
theorem State.disableQueue_spec {s : State} {q : Nat} (hq : q < 32768) (htask : ∀ c ∈ (s.queue q).cmds, c.task = none) :
    (s.disableQueue q).flag F.qpCfgEnable q = false ∧
    (s.disableQueue q).rd F.qpStatusState q = (if (s.queue q).cmds = [] then 0 else 4) ∧
    ∀ c ∈ ((s.disableQueue q).queue q).cmds, c.phase = .done := by
  have hcfg : IsReg .qpCfg q := isReg_of_lt hq
  have hst : IsReg .qpStatus q := isReg_of_lt hq
  unfold State.disableQueue
  dsimp only
  generalize hu : (s.wr F.qpCfgEnable q 0).wr F.qpStatusState q 4 = u
  have henable : u.rd F.qpCfgEnable q = 0 := by
    rw [← hu]
    exact (State.rd_wr_of_reg_ne _ (f := F.qpStatusState) (g := F.qpCfgEnable) 4 0 0 hst hcfg (by decide)).trans
      (s.rd_wr_first F.qpCfgEnable q 0 (by decide))
  have hstate : u.rd F.qpStatusState q = 4 := by
    rw [← hu]
    exact State.rd_wr_first _ F.qpStatusState q 4 (by decide)
  have hqueue : u.queue q = s.queue q := by rw [← hu]; rfl
  obtain ⟨hends, hdone⟩ := State.abortCmds_spec (s := u) (st := 5) hq (by rw [hqueue]; exact htask)
  generalize u.abortCmds q 5 (fun _ => true) = v at hends hdone ⊢
  have hnil : (v.queue q).cmds = [] ↔ (s.queue q).cmds = [] := by
    rw [← List.length_eq_zero_iff, hends.length, hqueue, List.length_eq_zero_iff]
  unfold State.queueDrained
  by_cases hempty : (s.queue q).cmds = []
  · rw [if_pos ⟨hq, hends.state.trans hstate, hnil.2 hempty⟩, if_pos hempty]
    refine ⟨decide_eq_false ?_, v.rd_wr_first F.qpStatusState q 0 (by decide), hdone⟩
    rw [State.rd_wr_of_reg_ne v (f := F.qpStatusState) (g := F.qpCfgEnable) 0 0 0 hst hcfg (by decide), hends.enable, henable]
    decide
  · rw [if_neg fun h => hempty (hnil.1 h.2.2), if_neg hempty]
    refine ⟨decide_eq_false ?_, hends.state.trans hstate, hdone⟩
    rw [hends.enable, henable]
    decide

-- the writes of QP.CFG

theorem queueEnable_of_write {s : State} {a : Access} {r : RegWriteReq} (hw : Writes s a .qpCfg r) (hon : r.new F.qpCfgEnable = 1) :
    execQueueEnable a s = .next (s.writeQpCfg r) := by
  unfold execQueueEnable
  rw [State.onWrite_of_writes _ hw List.mem_cons_self, if_pos hon]

theorem queueDisable_of_write {s : State} {a : Access} {r : RegWriteReq} (hw : Writes s a .qpCfg r) (hoff : r.new F.qpCfgEnable = 0) :
    execQueueDisable a s = .next (s.writeQpCfg r) := by
  unfold execQueueDisable
  rw [State.onWrite_of_writes _ hw List.mem_cons_self, if_pos hoff]

/-- A field of the configuration stored, beside ENABLE. -/
theorem State.rd_withQpCfg (s : State) {r : RegWriteReq} (hreg : r.reg = .qpCfg) (hn : r.n < 32768) {f : Fld} (hf : f.reg = .qpCfg)
    (hhi : f.hi < 64) (hmask : ∀ i < 64, f.lo ≤ i → i ≤ f.hi → F.qpCfgEnable.mask.getLsbD i = false) :
    (s.withQpCfg r).rd f r.n = r.new f := by
  have hword := (s.withQpCfg_spec hreg hn).1
  unfold State.rd
  rw [hf, hword]
  exact r.new_keep F.qpCfgEnable f hhi hmask

theorem State.flag_withQpCfg (s : State) {r : RegWriteReq} (hreg : r.reg = .qpCfg) (hn : r.n < 32768) :
    (s.withQpCfg r).rd F.qpCfgEnable r.n = r.was F.qpCfgEnable := by
  have hword := (s.withQpCfg_spec hreg hn).1
  unfold State.rd
  rw [show F.qpCfgEnable.reg = .qpCfg from rfl, hword]
  exact r.new_keep_self F.qpCfgEnable (by decide) (by decide)

/-- The registers of no configuration and no context keep their values, and the queues and memory with them. -/
theorem State.withQpCfg_frame (s : State) {r : RegWriteReq} (hreg : r.reg = .qpCfg) (hn : r.n < 32768) :
    (∀ f : Fld, ∀ m, IsReg f.reg m → f.reg ≠ .qpCfg → f.reg ≠ .ctxState → (s.withQpCfg r).rd f m = s.rd f m) ∧
    (s.withQpCfg r).queues = s.queues ∧ (s.withQpCfg r).mem = s.mem := by
  obtain ⟨-, c, -, honly⟩ := s.withQpCfg_spec hreg hn
  refine ⟨fun f m hm hcfg hctx => OnlyRegs.rd honly f hm ?_, OnlyRegs.queues honly, (congrArg State.mem honly.2 : )⟩
  simp [hcfg, hctx]

/-- Settles O43: an owner's write takes ENABLE up or down, and a doorbell sets its count. -/
theorem queuesAndDoorbells : Obligations.QueuesAndDoorbells := by
  intro s a r
  refine ⟨fun hw hn hown => ⟨fun hon hwas hsq hsq' hcq hcq' hctx hst hroom => ?_, fun hon hwas hctx hst => ?_, fun hoff hwas htask => ?_⟩,
    fun fn q v => ⟨fun hno => ⟨?_, ?_⟩, fun hbell => ⟨sqDoorbell_spec v hbell, cqDoorbell_spec v hbell⟩⟩⟩
  · have hkept : r.qpCfg = r := by
      have hsqKept : r.keepSize F.qpCfgLog2Sq = r := if_pos ⟨hsq, hsq'⟩
      have hcqKept : r.keepSize F.qpCfgLog2Cq = r := if_pos ⟨hcq, hcq'⟩
      unfold RegWriteReq.qpCfg RegWriteReq.sized
      rw [if_neg (by rw [hwas]; decide), hsqKept, hcqKept]
    obtain ⟨hframe, hqueues, hmem⟩ := s.withQpCfg_frame hw.2 hn
    have hqst : (s.withQpCfg r).rd F.qpStatusState r.n = s.rd F.qpStatusState r.n := hframe _ _ (isReg_of_lt hn) (by decide) (by decide)
    have hlog : (s.withQpCfg r).rd F.qpCfgLog2Sq r.n = r.new F.qpCfgLog2Sq := s.rd_withQpCfg hw.2 hn rfl (by decide) (by decide)
    have hlogc : (s.withQpCfg r).rd F.qpCfgLog2Cq r.n = r.new F.qpCfgLog2Cq := s.rd_withQpCfg hw.2 hn rfl (by decide) (by decide)
    have hwrite : s.writeQpCfg r = (s.withQpCfg r).enableQueue r.n := by
      rw [State.writeQpCfg_of_owner hown, hkept, s.setQpCfg_of_context hctx rfl, hon, hwas, if_neg (by decide), if_pos (by decide),
        if_neg (by rw [hqst]; exact hst)]
    have hroom' : (((s.withQpCfg r).queue r.n).sqTail + 2 ^ 32 - (s.withQpCfg r).rd F.qpSqHeadCount r.n) % 2 ^ 32 ≤
        2 ^ (s.withQpCfg r).rd F.qpCfgLog2Sq r.n := by
      rw [State.queue_eq_of_queues hqueues, hframe F.qpSqHeadCount _ (isReg_of_lt hn) (by decide) (by decide), hlog]
      exact hroom
    have hsession : (s.withQpCfg r).rd F.hifSessionState = s.rd F.hifSessionState :=
      hframe _ _ (isReg_of_lt (by decide)) (by decide) (by decide)
    refine ⟨_, (queueEnable_of_write hw hon).trans (congrArg _ (hwrite.trans (State.enableQueue_of_room hn hroom'))), ?_⟩
    rw [hsession]
    generalize hu : (s.withQpCfg r).setQueue r.n _ = u
    have hrd (f : Fld) (hf : f.reg = .qpCfg) : u.rd f r.n = (s.withQpCfg r).rd f r.n := by
      rw [← hu]
      exact State.rd_setQueue _ _ hn f (hf ▸ isReg_of_lt hn) (hf ▸ by decide)
    obtain ⟨henable, herror, hstate⟩ := u.startedQueue_status hn (v := if s.rd F.hifSessionState = 2 then 3 else 1) (by split <;> decide)
    refine ⟨henable, herror, hstate, ?_, ?_, ?_⟩
    · exact (u.rd_startedQueue_cfg _ (f := F.qpCfgLog2Sq) rfl (by decide)).trans ((hrd _ rfl).trans hlog)
    · exact (u.rd_startedQueue_cfg _ (f := F.qpCfgLog2Cq) rfl (by decide)).trans ((hrd _ rfl).trans hlogc)
    · rw [← hmem, ← hu]
      exact State.setQueue_mem _ _ _
  · have hqcfg : r.qpCfg = r.sized := by
      unfold RegWriteReq.qpCfg
      rw [if_neg (by rw [hwas]; decide)]
    have hplace := r.sized_place
    have hn' : r.sized.n < 32768 := by rw [hplace.2.1]; exact hn
    have hwas' (f : Fld) : r.sized.was f = r.was f := by rw [← hqcfg]; exact r.was_qpCfg f
    have hctx' : r.sized.new F.qpCfgContext = r.sized.was F.qpCfgContext := by rw [r.new_sized.2, hwas', hctx]
    obtain ⟨hframe, -, -⟩ := s.withQpCfg_frame (hplace.1.trans hw.2) hn'
    have hqst : (s.withQpCfg r.sized).rd F.qpStatusState r.n = 4 :=
      (hframe F.qpStatusState r.n (isReg_of_lt hn) (by decide) (by decide)).trans hst
    have hwrite : s.writeQpCfg r = (s.withQpCfg r.sized).accessError := by
      rw [State.writeQpCfg_of_owner hown, hqcfg, s.setQpCfg_of_context hctx' hplace.2.1, r.new_sized.1, hon, hwas, if_neg (by decide),
        if_pos (by decide), if_pos hqst]
    refine ⟨_, (queueEnable_of_write hw hon).trans (congrArg _ hwrite), ?_⟩
    have herr := RegsBut.hwEvent (s.withQpCfg r.sized) (r := 0) (by decide) 0xC001 0xFFFF 0xFFFF 0 0 0
    refine ⟨(herr.rd F.qpStatusState (isReg_of_lt hn) (by decide) 0).trans hqst, decide_eq_false ?_⟩
    have henable := s.flag_withQpCfg (hplace.1.trans hw.2) hn'
    rw [hplace.2.1, hwas', hwas] at henable
    have hzero := (herr.rd F.qpCfgEnable (isReg_of_lt hn) (by decide) 0).trans henable
    exact fun h => Nat.zero_ne_one (hzero.symm.trans h)
  · have hlocked : r.qpCfg = qpCfgLocked.foldl RegWriteReq.keep r.sized := by
      unfold RegWriteReq.qpCfg
      rw [if_pos (by rw [hwas]; decide)]
    have hplace := r.qpCfg_place
    have hn' : r.qpCfg.n < 32768 := by rw [hplace.2.1]; exact hn
    have hctx' : r.qpCfg.new F.qpCfgContext = r.qpCfg.was F.qpCfgContext := by
      rw [r.was_qpCfg, hlocked, r.sized.new_locked.2]
      unfold RegWriteReq.was
      rw [r.sized_place.2.2.2]
    obtain ⟨hframe, hqueues, -⟩ := s.withQpCfg_frame (hplace.1.trans hw.2) hn'
    have hwrite : s.writeQpCfg r = (s.withQpCfg r.qpCfg).disableQueue r.n := by
      rw [State.writeQpCfg_of_owner hown, s.setQpCfg_of_context hctx' hplace.2.1, r.new_qpCfg_enable, hoff, hwas, if_neg (by decide),
        if_neg (by decide)]
    have hqueue : (s.withQpCfg r.qpCfg).queue r.n = s.queue r.n := State.queue_eq_of_queues hqueues r.n
    have hspec := State.disableQueue_spec (s := s.withQpCfg r.qpCfg) hn (by rw [hqueue]; exact htask)
    rw [hqueue] at hspec
    exact ⟨_, (queueDisable_of_write hw hoff).trans (congrArg _ hwrite), hspec⟩
  · show execSqDoorbell fn q v s = _
    unfold execSqDoorbell
    rw [hno]
    rfl
  · show execCqDoorbell fn q v s = _
    unfold execCqDoorbell
    rw [hno]
    rfl

end Sys2Proof.Machine
end

section
/-! PROOFS. Fetching, accepting, ending and recording the commands of a queue (O44). -/

namespace Sys2Proof.Machine

open Sys2Proof.Claims

-- fetching (R349, R350, R352, R357)

section Fetch

variable {s : State} {q : Nat} (hq : q < 32768) (hmay : s.mayFetch q = true) (hrank : s.outranked q = false)
  (hroom : s.skbRoom (partOfQueue s.mode q) 0 = true) (hloc : s.flag F.qpCfgSqLoc q = false)
include hq hmay hrank hroom hloc

theorem commandFetch_of_error : execCommandFetch q .error s = .next (s.ringFails q) := by
  unfold execCommandFetch State.readCommand
  dsimp only
  rw [if_pos ⟨hq, hmay, hrank, hroom⟩, hloc, if_neg Bool.false_ne_true]

/-- An answer that holds a header and its continuations. -/
theorem commandFetch_of_answer {bs : List Byte} (hlen : 64 ≤ bs.length) (hinl : 64 * (1 + leNat ((bs.drop 2).take 1) % 64) ≤ bs.length) :
    execCommandFetch q (.ok bs) s =
      let all := bs.take (64 * (1 + leNat ((bs.drop 2).take 1) % 64))
      let inl := leNat ((all.drop 2).take 1)
      let head := s.rd F.qpSqHeadCount q
      if 64 ≤ inl then .next (s.stopQueue q 2)
      else if ((s.queue q).sqTail + 2 ^ 32 - head) % 2 ^ 32 < 1 + inl then .next s
      else .next ((s.wr F.qpSqHeadCount q (head + 1 + inl)).acceptCmd q (all.take 64) (all.drop 64)) := by
  unfold execCommandFetch State.readCommand
  dsimp only
  rw [if_pos ⟨hq, hmay, hrank, hroom⟩, hloc, if_neg Bool.false_ne_true, if_neg (by omega)]

end Fetch

/-- The header of the bytes taken is that of the answer. -/
theorem take_drop_of_le {bs : List Byte} {n : Nat} (hn : 64 ≤ n) : ((bs.take n).drop 2).take 1 = (bs.drop 2).take 1 := by
  rw [List.drop_take, List.take_take, Nat.min_eq_left (by omega)]

-- accepting (R349)

/-- What a header's refusal reads is beside a queue's own state. -/
theorem State.headerRefused_setQueue (s : State) {q : Nat} (x : QueueSt) (c : Cmd) (hq : q < 32768) :
    (s.setQueue q x).headerRefused q c = s.headerRefused q c := by
  have hctx : (s.setQueue q x).queueCtx q = s.queueCtx q := by
    unfold State.queueCtx
    rw [if_pos hq, if_pos hq]
    exact s.rd_setQueue x hq F.qpCfgContext (isReg_of_lt hq) (by decide)
  have hlt : s.queueCtx q < 4096 := by
    unfold State.queueCtx
    rw [if_pos hq]
    exact Word.bits_lt _ _ _
  unfold State.headerRefused State.queueFn State.flag State.mode
  rw [hctx, s.rd_setQueue x hq F.devPartCfgMode (isReg_of_lt (by decide)) (by decide),
    s.rd_setQueue x hq F.ctxPtCtlFormat (isReg_of_lt hlt) (by decide), s.rd_setQueue x hq F.ctxStateFunction (isReg_of_lt hlt) (by decide)]

/-- The command that a queue accepts next. -/
def State.newCmd (s : State) (q : Nat) (header data : List Byte) : Cmd :=
  { seq := (s.queue q).nextSeq, header := header, inlineData := data }

theorem State.acceptCmd_of_unrecorded {s : State} {q : Nat} (header data : List Byte) (hq : q < 32768)
    (hrec : s.recording (s.queueCtx q) = false) : s.acceptCmd q header data =
      match s.headerRefused q (s.newCmd q header data) with
      | some st => (s.setQueue q { s.queue q with cmds := (s.queue q).cmds ++ [s.newCmd q header data], nextSeq := (s.queue q).nextSeq + 1 }).endCmd
          q (s.queue q).nextSeq st
      | none => s.setQueue q { s.queue q with cmds := (s.queue q).cmds ++ [s.newCmd q header data], nextSeq := (s.queue q).nextSeq + 1 } := by
  have hjournal : s.journalCtx (s.queueCtx q) 0x02 (s.queueOff q) (header ++ data) = s := by
    unfold State.journalCtx
    rw [hrec]
    rfl
  unfold State.acceptCmd
  dsimp only
  rw [hjournal, s.headerRefused_setQueue _ _ hq]
  rfl

-- the end of a command (R351)

/-- A command as it ends. -/
def Cmd.ended (c : Cmd) (st res fault : Nat) : Cmd :=
  { c with phase := .done, status := st, result := res, faultCode := fault, waiting := false, hostWait := false, stalled := none }

theorem State.cmds_endCmd (s : State) (q seq st res fault : Nat) : ((s.endCmd q seq st res fault).queue q).cmds =
    (s.queue q).cmds.map (fun c => if c.seq = seq then (if c.phase = .done then c else c.ended st res fault) else c) :=
  congrArg QueueSt.cmds (s.queue_updCmd q seq _)

theorem find?_map_of_keeps {l : List Cmd} {f : Cmd → Cmd} {seq : Nat} (h : ∀ c ∈ l, (f c).seq = c.seq) :
    (l.map f).find? (fun c => decide (c.seq = seq)) = (l.find? (fun c => decide (c.seq = seq))).map f := by
  rw [List.find?_map]
  congr 1
  induction l with
  | nil => rfl
  | cons x l ih =>
    have hx := h x List.mem_cons_self
    have ih := ih fun c hc => h c (List.mem_cons_of_mem x hc)
    simp only [List.find?_cons, Function.comp_apply, hx]
    rw [show l.find? (fun x => decide ((f x).seq = seq)) = _ from ih]

/-- A command that had not ended ends with its status and result, its header as it was. -/
theorem State.cmd?_endCmd {s : State} {q seq : Nat} {c : Cmd} (st res fault : Nat) (h : s.cmd? q seq = some c) (hphase : c.phase ≠ .done) :
    (s.endCmd q seq st res fault).cmd? q seq = some (c.ended st res fault) := by
  have hseq : c.seq = seq := by simpa using List.find?_some h
  unfold State.cmd?
  rw [s.cmds_endCmd, find?_map_of_keeps fun c _ => ?_]
  · rw [show (s.queue q).cmds.find? (fun c => decide (c.seq = seq)) = some c from h, Option.map_some, if_pos hseq, if_neg hphase]
  · split
    · split <;> rfl
    · rfl

theorem State.endCmd_mem (s : State) (q seq st res fault : Nat) : (s.endCmd q seq st res fault).mem = s.mem := State.setQueue_mem _ _ _

/-- A refused command joins the queue as one that has ended. -/
theorem State.acceptCmd_refused {s : State} {q st : Nat} {header data : List Byte} (hq : q < 32768)
    (hrec : s.recording (s.queueCtx q) = false) (href : s.headerRefused q (s.newCmd q header data) = some st)
    (hnew : ∀ y ∈ (s.queue q).cmds, y.seq ≠ (s.queue q).nextSeq) : ((s.acceptCmd q header data).queue q).cmds =
      (s.queue q).cmds ++ [{ s.newCmd q header data with phase := .done, status := st }] := by
  rw [State.acceptCmd_of_unrecorded header data hq hrec, href]
  dsimp only
  rw [State.cmds_endCmd, s.queue_setQueue]
  dsimp only
  rw [List.map_append, List.map_singleton]
  congr 1
  · refine (List.map_congr_left fun c hc => ?_).trans (List.map_id _)
    exact if_neg (hnew c hc)
  · exact congrArg (fun c => [c]) (if_pos rfl)

-- completion records (R351, R353, R355, R362)

section Record

variable {s : State} {q seq : Nat} {c : Cmd} (hcmd : s.cmd? q seq = some c) (hdone : c.phase = .done) (hwrites : s.writesDone c = true)
  (hup : s.schedulerUp q = true) (hfence : c.opcode = 0x01 → s.earlierDone q seq = true) (hq : q < 32768) (hrec : c.noRecord = false)
  (hring : (s.queue q).ringFailed = false)
include hcmd hdone hwrites hup hfence hq hrec hring

/-- What is recorded of a command that may be, by its ring. -/
theorem completionRecord_of_done (ok : Bool) : execCompletionRecord q seq ok s =
    if (s.queue q).ringStall.isSome ∨ (s.queue q).cmds.any (fun y => y.stalled.isSome && decide (y.opcode = 0x02))
        ∨ 2 ^ s.rd F.qpCfgLog2Cq q ≤ (s.rd F.qpCqTailCount q + 2 ^ 32 - (s.queue q).cqHead) % 2 ^ 32
        ∨ s.skbRoom (partOfQueue s.mode q) 0 = false then .next s
    else if s.detached ∧ s.flag F.qpCfgCqLoc q = false then
      if (s.queue q).held.any (fun h => decide (h.seq = seq)) then .next s
      else
        let h : HeldRecord := { seq := seq, tag := c.tag, status := c.status, fault := c.faultCode, result := c.result }
        .next ((s.setQueue q { s.queue q with held := (s.queue q).held ++ [h] }).bump F.hifSessionHeld 0)
    else if s.flag F.qpCfgCqLoc q = false ∧ s.hostOpen = false then .next s
    else
      match s.writeRecord q c ok with
      | (s, true) => .next (s.recordIrqOf q c)
      | (s, false) => .next s := by
  unfold execCompletionRecord
  rw [hcmd]
  dsimp only
  refine (if_neg ?_).trans ((if_neg (by omega)).trans (if_neg (by simp [hrec, hring])))
  rintro (h | h | h | ⟨hop, h⟩)
  · exact h hdone
  · rw [hwrites] at h; cases h
  · rw [hup] at h; cases h
  · rw [hfence hop] at h; cases h

variable (hstall : (s.queue q).ringStall = none) (hcmds : ∀ y ∈ (s.queue q).cmds, y.stalled = none)
  (hskb : s.skbRoom (partOfQueue s.mode q) 0 = true)

theorem completionRecord_of_full (hfull : 2 ^ s.rd F.qpCfgLog2Cq q ≤ (s.rd F.qpCqTailCount q + 2 ^ 32 - (s.queue q).cqHead) % 2 ^ 32) (ok : Bool) :
    execCompletionRecord q seq ok s = .next s := by
  rw [completionRecord_of_done hcmd hdone hwrites hup hfence hq hrec hring]
  exact if_pos (.inr (.inr (.inl hfull)))

include hstall hcmds hskb

omit hcmd hdone hwrites hup hfence hq hrec hring in
/-- A ring with a free slot holds no record back. -/
theorem completionRecord_open (hslot : (s.rd F.qpCqTailCount q + 2 ^ 32 - (s.queue q).cqHead) % 2 ^ 32 < 2 ^ s.rd F.qpCfgLog2Cq q) :
    ¬((s.queue q).ringStall.isSome ∨ (s.queue q).cmds.any (fun y => y.stalled.isSome && decide (y.opcode = 0x02))
      ∨ 2 ^ s.rd F.qpCfgLog2Cq q ≤ (s.rd F.qpCqTailCount q + 2 ^ 32 - (s.queue q).cqHead) % 2 ^ 32
      ∨ s.skbRoom (partOfQueue s.mode q) 0 = false) := by
  rintro (h | h | h | h)
  · rw [hstall] at h; cases h
  · obtain ⟨y, hy, hst⟩ := List.any_eq_true.1 h
    rw [hcmds y hy] at hst
    cases hst
  · omega
  · rw [hskb] at h; cases h

variable (hslot : (s.rd F.qpCqTailCount q + 2 ^ 32 - (s.queue q).cqHead) % 2 ^ 32 < 2 ^ s.rd F.qpCfgLog2Cq q)
  (hloc : s.flag F.qpCfgCqLoc q = false)
include hslot hloc

/-- While the session is detached the record is held. -/
theorem completionRecord_of_detached (hdet : s.rd F.hifSessionState = 2) (hheld : ∀ h ∈ (s.queue q).held, h.seq ≠ seq) (ok : Bool) :
    execCompletionRecord q seq ok s = .next ((s.setQueue q { s.queue q with held := (s.queue q).held ++
      [{ seq := seq, tag := c.tag, status := c.status, fault := c.faultCode, result := c.result }] }).bump F.hifSessionHeld 0) := by
  rw [completionRecord_of_done hcmd hdone hwrites hup hfence hq hrec hring,
    if_neg (completionRecord_open hstall hcmds hskb hslot),
    if_pos ⟨decide_eq_true hdet, hloc⟩]
  exact if_neg fun h => by
    obtain ⟨y, hy, hseq⟩ := List.any_eq_true.1 h
    exact hheld y hy (of_decide_eq_true hseq)

omit hloc in
/-- A record for a host that can be reached is written. -/
theorem completionRecord_of_open (hhost : s.hostOpen = true) (ok : Bool) : execCompletionRecord q seq ok s =
    match s.writeRecord q c ok with
    | (s, true) => .next (s.recordIrqOf q c)
    | (s, false) => .next s := by
  have hatt : s.detached = false := by
    unfold State.hostOpen at hhost
    simp only [Bool.and_eq_true, Bool.not_eq_true'] at hhost
    exact hhost.1
  rw [completionRecord_of_done hcmd hdone hwrites hup hfence hq hrec hring,
    if_neg (completionRecord_open hstall hcmds hskb hslot),
    if_neg (by simp [hatt]), if_neg (by simp [hhost])]

end Record

/-- Settles O44: each step of a command from its fetch to its record. -/
theorem commandsFetchedAndRecorded : Obligations.CommandsFetchedAndRecorded := by
  intro s q seq c hq
  refine ⟨fun hmay hrank hroom hloc => ⟨commandFetch_of_error hq hmay hrank hroom hloc, ?_⟩, ?_, ?_, ?_, ?_⟩
  · intro bs hlen inl hinl
    have hfetch := commandFetch_of_answer hq hmay hrank hroom hloc hlen hinl
    dsimp only at hfetch
    have hn : 64 ≤ 64 * (1 + leNat ((bs.drop 2).take 1) % 64) := by omega
    rw [take_drop_of_le hn] at hfetch
    refine ⟨fun hbig => hfetch.trans (if_pos hbig), fun hsmall hhave => ?_⟩
    refine (hfetch.trans ((if_neg (by omega)).trans (if_neg (Nat.not_lt.2 hhave)))).trans ?_
    have hmod : leNat ((bs.drop 2).take 1) % 64 = inl := Nat.mod_eq_of_lt hsmall
    rw [hmod, List.take_take, Nat.min_eq_left (by omega), List.drop_take]
    congr 3
    omega
  · intro header data hrec x new t
    refine ⟨fun hok => ?_, fun st href hnew => State.acceptCmd_refused hq hrec href hnew⟩
    have haccept := State.acceptCmd_of_unrecorded header data hq hrec
    rw [show s.headerRefused q (s.newCmd q header data) = none from hok] at haccept
    have hqueue := (congrArg (fun u : State => u.queue q) haccept).trans (s.queue_setQueue q _)
    exact ⟨congrArg QueueSt.cmds hqueue, congrArg QueueSt.nextSeq hqueue⟩
  · intro hcmd hdone hwrites hup hfence hrec hring hstall hcmds hskb hloc n size used
    refine ⟨fun hfull ok => completionRecord_of_full hcmd hdone hwrites hup hfence hq hrec hring hfull ok,
      fun hslot hdet hheld ok => ?_, fun hslot hhost => ?_⟩
    · refine ⟨_, { seq := seq, tag := c.tag, status := c.status, fault := c.faultCode, result := c.result },
        completionRecord_of_detached hcmd hdone hwrites hup hfence hq hrec hring hstall hcmds hskb hslot hloc hdet hheld ok,
        congrArg QueueSt.held (s.queue_setQueue q _), rfl, rfl, rfl, State.setQueue_sent _ _ _⟩
    · have hrecord := completionRecord_of_open hcmd hdone hwrites hup hfence hq hrec hring hstall hcmds hskb hslot hhost
      refine ⟨(hrecord false).trans ?_, (hrecord true).trans ?_⟩ <;> unfold State.writeRecord <;> dsimp only <;>
        rw [hloc, if_neg Bool.false_ne_true] <;> rfl
  · intro i o hi hstart
    simp only [List.mem_cons, List.not_mem_nil, or_false, Prod.mk.injEq] at hi
    by_cases hz : c.zeroAt [(0x10, 48)] = true
    · rw [if_pos hz]
      obtain ⟨rfl, rfl⟩ | ⟨rfl, rfl⟩ := hi
      · exact State.onStart_of_starts _ hstart hz
      · exact State.onStart_of_starts _ hstart hz
    · rw [if_neg hz]
      obtain ⟨rfl, rfl⟩ | ⟨rfl, rfl⟩ := hi
      · exact State.onStart_of_bad _ hstart (Bool.eq_false_iff.2 hz)
      · exact State.onStart_of_bad _ hstart (Bool.eq_false_iff.2 hz)
  · intro st res hcmd hphase
    exact ⟨_, State.cmd?_endCmd st res 0 hcmd hphase, rfl, rfl, rfl, rfl, s.endCmd_mem q seq st res 0⟩

end Sys2Proof.Machine
end

section
/-! PROOFS. Launch, counter, pool and data-mover commands (O45), and what the zeroing of a range leaves. -/

namespace Sys2Proof.Machine

open Sys2Proof.Claims

-- a range zeroed

theorem NMap.mem_keys_of_get? {α : Type} {m : NMap α} {i : Nat} {v : α} (h : m.get? i = some v) : i ∈ m.keys := by
  induction m with
  | nil => cases h
  | cons e m ih =>
    unfold NMap.get? at h
    split at h
    · next he => exact List.mem_cons.2 (.inl he.symm)
    · exact List.mem_cons_of_mem _ (ih h)

/-- The bytes of a range zeroed one by one. -/
theorem State.readByte_zeroBytes (lo n : Nat) : ∀ (s : State) (x : Nat),
    ((List.range n).foldl (fun (u : State) i => u.writeByte (lo + i) 0) s).readByte x = if lo ≤ x ∧ x < lo + n then 0 else s.readByte x := by
  induction n with
  | zero => exact fun s x => (if_neg (by omega)).symm
  | succ n ih =>
    intro s x
    rw [List.range_succ, List.foldl_append, List.foldl_cons, List.foldl_nil, State.readByte_writeByte, ih]
    by_cases h : lo + n = x
    · rw [if_pos h, if_pos (by omega)]
    · rw [if_neg h]
      exact if_congr (by omega) rfl rfl

/-- The bytes of some granules zeroed within a range. -/
theorem State.readByte_zeroGranules (a n : Nat) (l : List Nat) : ∀ (s : State) (x : Nat),
    (l.foldl (fun (t : State) g => (List.range (min (a + n) ((g + 1) * 0x4000000) - max a (g * 0x4000000))).foldl
      (fun (u : State) i => u.writeByte (max a (g * 0x4000000) + i) 0) t) s).readByte x =
    if (a ≤ x ∧ x < a + n) ∧ x / 0x4000000 ∈ l then 0 else s.readByte x := by
  induction l with
  | nil => exact fun s x => (if_neg (fun h => List.not_mem_nil h.2)).symm
  | cons g l ih =>
    intro s x
    rw [List.foldl_cons, ih, State.readByte_zeroBytes]
    by_cases hl : (a ≤ x ∧ x < a + n) ∧ x / 0x4000000 ∈ l
    · rw [if_pos hl, if_pos ⟨hl.1, List.mem_cons_of_mem g hl.2⟩]
    · rw [if_neg hl]
      by_cases hg : (a ≤ x ∧ x < a + n) ∧ x / 0x4000000 = g
      · rw [if_pos (by omega), if_pos ⟨hg.1, List.mem_cons.2 (.inl hg.2)⟩]
      · rw [if_neg (by omega), if_neg]
        rintro ⟨hx, hmem⟩
        obtain h | h := List.mem_cons.1 hmem
        · exact hg ⟨hx, h⟩
        · exact hl ⟨hx, h⟩

/-- A zeroed range reads zero, and every other byte is as it was. -/
theorem State.readByte_zeroRange (s : State) (a n x : Nat) :
    (s.zeroRange a n).readByte x = if a ≤ x ∧ x < a + n then 0 else s.readByte x := by
  unfold State.zeroRange
  dsimp only
  rw [State.readByte_zeroGranules]
  by_cases hx : a ≤ x ∧ x < a + n
  · rw [if_pos hx]
    split
    · rfl
    · next hpart =>
      unfold State.readByte State.memDefault NMap.getD
      dsimp only
      rw [NMap.get?_keep, if_neg (by simp; omega), NMap.get?_keep]
      by_cases hin : a ≤ x / 0x4000000 * 0x4000000 ∧ (x / 0x4000000 + 1) * 0x4000000 ≤ a + n
      · rw [if_neg (by simp [hin])]
        rfl
      · cases hs : s.scrambled.get? (x / 0x4000000) with
        | none => rw [ite_self]; rfl
        | some v =>
          refine absurd ⟨hx, List.mem_filter.2 ⟨NMap.mem_keys_of_get? hs, ?_⟩⟩ hpart
          simp only [Bool.and_eq_true, Bool.not_eq_true', decide_eq_true_eq, decide_eq_false_iff_not]
          omega
  · rw [if_neg (fun h => hx h.1), if_neg hx]
    unfold State.readByte State.memDefault NMap.getD
    dsimp only
    rw [NMap.get?_keep, if_pos (by simp; omega), NMap.get?_keep, if_pos (by simp; omega)]

/-- A page handed out. -/
theorem State.handOut_spec (s : State) (a x : Nat) (e : PoolPage) :
    ({ s with pages := s.pages.set a e } : State).readByte x = s.readByte x ∧
    ({ s with pages := s.pages.set a e } : State).pages.get? a = some e :=
  ⟨SameMemory.readByte ⟨rfl, rfl, rfl⟩ x, (NMap.get?_set _ _ _ _).trans (if_pos rfl)⟩

theorem State.placePage_zeroes (s : State) (a log2 ctx : Nat) : ∃ u : State, s.placePage a log2 ctx =
    { u.zeroRange a (2 ^ log2) with pages := (u.zeroRange a (2 ^ log2)).pages.set a { log2 := log2, ctx := ctx } } := by
  unfold State.placePage
  exact ⟨_, rfl⟩

/-- A page placed reads zero, and is handed out to its context. -/
theorem State.placePage_spec (s : State) {a log2 ctx x : Nat} (hlo : a ≤ x) (hhi : x < a + 2 ^ log2) :
    (s.placePage a log2 ctx).readByte x = 0 ∧ (s.placePage a log2 ctx).pages.get? a = some { log2 := log2, ctx := ctx } := by
  obtain ⟨u, hu⟩ := s.placePage_zeroes a log2 ctx
  obtain ⟨hread, hpage⟩ := (u.zeroRange a (2 ^ log2)).handOut_spec a x { log2 := log2, ctx := ctx }
  rw [hu]
  exact ⟨hread.trans ((u.readByte_zeroRange a (2 ^ log2) x).trans (if_pos ⟨hlo, hhi⟩)), hpage⟩

-- kernel launches (R137, R142, R358)

section Launch

variable {s : State} {q seq : Nat} {c : Cmd} (hcmd : s.cmd? q seq = some c) (hop : c.opcode = 0x02) (hphase : c.phase = .accepted)
  (hlive : s.partLive (partOfQueue s.mode q) = true) (hup : s.schedulerUp q = true) (hstall : c.stalled = none) (htask : c.task = none)
include hcmd hop hphase hlive hup hstall htask

/-- A launch that waits for nothing reads its descriptor. -/
theorem launch_of_accepted : execLaunch q seq s =
    if c.field 0x10 8 % 64 ≠ 0 ∨ 1 < c.field 0x18 1 ∨ c.zeroAt [(0x19, 39)] = false then .next (s.endCmd q seq 0x01)
    else
      let inl := decide (c.field 0x18 1 = 1)
      match s.ctxRead (s.schedEngine q c.tag) (c.field 0x10 8) 64 with
      | (s, .ok b) =>
        let d := LaunchDesc.parse b
        match s.launchRefused (s.queueCtx q) d (if inl then some c.inlineData.length else none) with
        | some st => .next (s.endCmd q seq st)
        | none =>
          if inl then .next ((s.acceptTask q c d (c.inlineData.take d.argBytes)).launchStarts q seq)
          else
            match s.ctxRead (s.schedEngine q c.tag) d.argVa.toNat d.argBytes with
            | (s, .ok args) => .next ((s.acceptTask q c d args).launchStarts q seq)
            | (s, r) => .next (s.ioFail q seq r)
      | (s, r) => .next (s.ioFail q seq r) := by
  unfold execLaunch
  rw [hcmd]
  dsimp only
  rw [if_neg (by simp [hop, hphase, hlive, hup, hstall]), htask]
  exact if_neg Bool.false_ne_true

variable {u : State} {b : List Byte} (hal : c.field 0x10 8 % 64 = 0) (hinl : c.field 0x18 1 = 1) (hzero : c.zeroAt [(0x19, 39)] = true)
  (hread : s.ctxRead (s.schedEngine q c.tag) (c.field 0x10 8) 64 = (u, .ok b))
include hal hinl hzero hread

theorem launch_of_inline : execLaunch q seq s =
    match u.launchRefused (u.queueCtx q) (LaunchDesc.parse b) (some c.inlineData.length) with
    | some st => .next (u.endCmd q seq st)
    | none => .next ((u.acceptTask q c (LaunchDesc.parse b) (c.inlineData.take (LaunchDesc.parse b).argBytes)).launchStarts q seq) := by
  rw [launch_of_accepted hcmd hop hphase hlive hup hstall htask, if_neg (by simp [hal, hinl, hzero]), hread]
  dsimp only
  rw [decide_eq_true hinl, if_pos rfl, if_pos rfl]

end Launch

-- region counters (R358)

section Counters

variable {s : State} {q seq : Nat} {c : Cmd}

theorem State.cmdCtrRefused_of_part (h : partOfRegion s.mode (natBits (c.field 0x10 8) 33 32) ≠ partOfQueue s.mode q) :
    s.cmdCtrRefused q c = some 0x0A := by
  unfold State.cmdCtrRefused
  exact if_pos h

theorem State.cmdCtrRefused_of_grant (h : partOfRegion s.mode (natBits (c.field 0x10 8) 33 32) = partOfQueue s.mode q) :
    s.cmdCtrRefused q c =
      if s.blockGranted (natBits (c.field 0x10 8) 33 32) (natBits (c.field 0x10 8) 17 8) (s.queueCtx q) = true then none else some 0x09 := by
  unfold State.cmdCtrRefused
  dsimp only
  rw [if_neg (not_not_intro h)]
  cases s.blockGranted (natBits (c.field 0x10 8) 33 32) (natBits (c.field 0x10 8) 17 8) (s.queueCtx q) <;> rfl

theorem cntAddCommand_of_starts (hstart : Starts s q seq 0x03 c) (href : c.regionRef = true) (hzero : c.zeroAt [(0x20, 32)] = true)
    (hearlier : s.earlierDone q seq = true) : execCntAddCommand q seq s = .next (match s.cmdCtrRefused q c with
      | some st => s.endCmd q seq st
      | none => ((s.regionAdd (s.queueCtx q) (natBits (c.field 0x10 8) 33 32) (natBits (c.field 0x10 8) 17 8) (c.field 0x18 8)).settleCtr
          (.region (natBits (c.field 0x10 8) 33 32) (natBits (c.field 0x10 8) 17 8))).endCmd q seq 0) := by
  unfold execCntAddCommand
  rw [State.onStart_of_starts _ hstart (by rw [href, hzero]; rfl), hearlier, if_neg Bool.noConfusion] <;> rfl

theorem cntWaitCommand_of_starts (hstart : Starts s q seq 0x04 c) (href : c.regionRef = true) (hzero : c.zeroAt [(0x24, 28)] = true)
    (hok : s.cmdCtrRefused q c = none) (hroom : s.regionWaits (natBits (c.field 0x10 8) 33 32) < 4096)
    (hlive : s.replaying (s.queueCtx q) = false) : execCntWaitCommand q seq s = .next ((s.updCmd q seq (fun y => { y with
        phase := .running, waiting := true,
        deadline := if c.field 0x20 4 = 0xFFFFFFFF then none else some (s.now + c.field 0x20 4) })).settleCtr
      (.region (natBits (c.field 0x10 8) 33 32) (natBits (c.field 0x10 8) 17 8))) := by
  have hreplay : s.replayCntWait q c = (s, none) := by
    unfold State.replayCntWait
    dsimp only
    rw [hlive]
    rfl
  unfold execCntWaitCommand
  rw [State.onStart_of_starts _ hstart (by rw [href, hzero]; rfl), hok]
  dsimp only
  rw [if_neg (Nat.not_le.2 hroom), hreplay]

end Counters

-- the page pool (R278, R279, R325)

section Pool

variable {s u : State} {q seq : Nat} {c : Cmd} (hstall : c.stalled = none)
include hstall

theorem alloc_of_starts (hstart : Starts s q seq 0x05 c) (hbody : s.poolBodyOk q c = true) (hflags : c.field 0x1E 1 < 8)
    (htiers : (c.field 0x1E 1).testBit 0 = false ∨ (c.field 0x1E 1).testBit 2 = false) (hzero : c.field 0x1F 1 = 0)
    (hregion : c.field 0x1D 1 < 4) (hpart : partOfRegion s.mode (c.field 0x1D 1) = partOfQueue s.mode q)
    (hkey : s.flag F.ctxMemCryptEnable (c.field 0x20 2) = false)
    (hprobe : State.probeWrite (s.dmaEngine q c.tag) (pagesOf (pageFuel (8 * c.field 0x18 4)) (c.field 0x10 8) (8 * c.field 0x18 4)) s =
      (u, .ok ())) : execAlloc q seq s = .next (
      match State.placeAll (partOfQueue s.mode q) (c.field 0x1D 1) (pageLog2 (c.field 0x1C 1)) (c.field 0x20 2) ((c.field 0x1E 1).testBit 2)
        (u.tierOrder (partOfQueue s.mode q) (c.field 0x1D 1) ((c.field 0x1E 1).testBit 0) ((c.field 0x1E 1).testBit 1)
          ((c.field 0x1E 1).testBit 2)) (c.field 0x18 4) u with
      | none => u.endCmd q seq 0x0D
      | some (v, l, near, far) =>
        match v.ctxWrite (v.dmaEngine q c.tag) (c.field 0x10 8) (l.flatMap (leBytes 8)) with
        | (w, .ok _) => w.endCmd q seq 0 (near + far * 2 ^ 32)
        | (_, .status st) => u.endCmd q seq st
        | _ => u) := by
  have hz : c.zeroAt [(0x1F, 1)] = true := by simp [Cmd.zeroAt, hzero]
  have hok : (s.poolBodyOk q c && decide (c.field 0x1E 1 < 8) && !((c.field 0x1E 1).testBit 0 && (c.field 0x1E 1).testBit 2)
      && c.zeroAt [(0x1F, 1)] && decide (c.field 0x1D 1 < 4)
      && decide (partOfRegion s.mode (c.field 0x1D 1) = partOfQueue s.mode q)) = true := by
    rw [hbody, hz, decide_eq_true hflags, decide_eq_true hregion, decide_eq_true hpart]
    obtain h | h := htiers <;> simp [h]
  unfold execAlloc
  rw [State.onStart_of_starts _ hstart hok]
  dsimp only
  rw [if_neg (by simp [hstall, hkey]), hprobe] <;> rfl

/-- The pages that a FREE lists are the context's, each once. -/
theorem free_of_starts {b : List Byte} (hstart : Starts s q seq 0x06 c) (hbody : s.poolBodyOk q c = true)
    (hzero : c.zeroAt [(0x1D, 3)] = true)
    (hread : s.ctxRead (s.dmaEngine q c.tag) (c.field 0x10 8) (8 * c.field 0x18 4) = (u, .ok b)) : execFree q seq s = .next (
      if (words8 (c.field 0x18 4) b).Nodup ∧ (words8 (c.field 0x18 4) b).all (fun a => decide (u.pages.get? a =
          some { log2 := pageLog2 (c.field 0x1C 1), ctx := c.field 0x20 2 })) = true then
        (u.freePages (words8 (c.field 0x18 4) b) (pageLog2 (c.field 0x1C 1))).endCmd q seq 0
      else u.endCmd q seq 0x01) := by
  unfold execFree
  rw [State.onStart_of_starts _ hstart (by rw [hbody, hzero]; rfl), hstall]
  dsimp only
  rw [if_neg (by exact Bool.false_ne_true), hread]

end Pool

-- data movers (R358, R359)

section Movers

variable {s : State} {q seq : Nat} {c : Cmd}

/-- A data mover whose body is good runs; one of no bytes is refused. -/
theorem mover_of_good {o : Nat} {i : Instr} (hi : (i, o) ∈ [(Instr.hostToDev q seq, 0x10), (.devToHost q seq, 0x11), (.copy q seq, 0x12),
      (.fill q seq, 0x13)]) (hstart : Starts s q seq o c) (hlo : 1 ≤ c.moveLen) (hhi : c.moveLen ≤ 2 ^ 40)
    (hzero : c.zeroAt [(0x28, 24)] = true)
    (hcopy : o = 0x12 → rangesMeet (c.field 0x10 8) c.moveLen (c.field 0x18 8) c.moveLen = false)
    (hfill : o = 0x13 → c.moveLen % 8 = 0 ∧ c.moveDst % 8 = 0) : exec i s = .next (s.runCmd q seq) := by
  have hhi' : c.moveLen ≤ 1099511627776 := hhi
  simp only [List.mem_cons, List.not_mem_nil, or_false, Prod.mk.injEq] at hi
  obtain ⟨rfl, rfl⟩ | ⟨rfl, rfl⟩ | ⟨rfl, rfl⟩ | ⟨rfl, rfl⟩ := hi
  · exact State.onStart_of_starts _ hstart (by simp [hlo, hhi', hzero])
  · exact State.onStart_of_starts _ hstart (by simp [hlo, hhi', hzero])
  · exact State.onStart_of_starts _ hstart (by simp [hlo, hhi', hzero, hcopy rfl])
  · obtain ⟨hlen, hdst⟩ := hfill rfl
    exact State.onStart_of_starts _ hstart (by simp [show 8 ≤ c.moveLen by omega, hhi', hzero, hlen, hdst])

theorem mover_of_empty {o : Nat} {i : Instr} (hi : (i, o) ∈ [(Instr.hostToDev q seq, 0x10), (.devToHost q seq, 0x11), (.copy q seq, 0x12),
      (.fill q seq, 0x13)]) (hstart : Starts s q seq o c) (hlen : c.moveLen = 0) : exec i s = .next (s.endCmd q seq 0x01) := by
  simp only [List.mem_cons, List.not_mem_nil, or_false, Prod.mk.injEq] at hi
  obtain ⟨rfl, rfl⟩ | ⟨rfl, rfl⟩ | ⟨rfl, rfl⟩ | ⟨rfl, rfl⟩ := hi <;> exact State.onStart_of_bad _ hstart (by simp [hlen])

-- one chunk of a data mover

variable {index : Nat} (hcmd : s.cmd? q seq = some c) (hphase : c.phase = .running) (hstall : c.stalled = none) (hindex : index < c.chunks)
  (hnew : index ∉ c.chunksDone) (hlive : s.partLive (partOfQueue s.mode q) = true) (hskb : s.skbRoom (partOfQueue s.mode q) 0 = true)
  (hreplay : s.replaying (s.queueCtx q) = false)
include hcmd hphase hstall hindex hnew hlive hskb hreplay

theorem dmaChunk_of_running (ans : HostAns) (hmoves : c.moves = true)
    (hhost : c.opcode = 0x10 ∨ c.opcode = 0x11 → s.hostOpen = true) : execDmaChunk q seq index ans s =
    if c.opcode = 0x10 then
      match ans with
      | .error => .next (s.failCmd q seq 0x0C)
      | .ok bs => .next (if bs.length = c.chunkLen index then s.hostChunk q seq c index bs else s)
    else
      match s.chunkSource q c index with
      | (s, .ok bs) =>
        if c.opcode = 0x11 then
          .next ((s.send (.hostWrite (s.queueFn q) (c.moveDst + c.chunkStart index) bs)).chunkDone q seq index 0)
        else .next (s.writeChunk q seq c index bs 0)
      | (s, r) => .next (s.ioFail q seq r) := by
  have hopen : ((decide (c.opcode = 0x10) || decide (c.opcode = 0x11)) && !s.hostOpen) = false := by
    by_cases h : c.opcode = 0x10 ∨ c.opcode = 0x11
    · rw [hhost h]
      simp
    · simp only [not_or] at h
      simp [h]
  unfold execDmaChunk
  rw [hcmd]
  dsimp only
  refine (if_neg ?_).trans rfl
  rw [hopen]
  simp [hmoves, hphase, hstall, hindex, hnew, hlive, hskb, hreplay]

theorem dmaChunk_write (ans : HostAns) {u v : State} {bs : List Byte} (hop : c.opcode = 0x12 ∨ c.opcode = 0x13 ∨ c.opcode = 0x14)
    (hsource : s.chunkSource q c index = (u, .ok bs))
    (hwrite : u.ctxWrite (u.dmaEngine q c.tag) (c.moveDst + c.chunkStart index) bs = (v, .ok ())) :
    execDmaChunk q seq index ans s = .next (v.chunkDone q seq index 0) := by
  rw [dmaChunk_of_running hcmd hphase hstall hindex hnew hlive hskb hreplay ans (by unfold Cmd.moves; simp; omega) (by omega),
    if_neg (by omega), hsource]
  dsimp only
  rw [if_neg (by omega)]
  unfold State.writeChunk
  rw [hwrite]

end Movers

/-- Settles O45: the launch, counter, pool and data-mover commands with good bodies, and with those that are refused. -/
theorem hostCommandsRun : Obligations.HostCommandsRun := by
  intro s q seq c
  refine ⟨fun hcmd hop hphase hlive hup hstall htask => ⟨fun hbad => ?_, ?_⟩, fun r i hstart href hzero hearlier hr hi => ?_,
    fun r i hstart href hzero hok hr hi hroom hlive => ?_, fun hstart hbody hflags htiers hzero hregion hpart hstall hkey => ?_,
    fun a log2 ctx x hlo hhi => s.placePage_spec hlo hhi, ?_, fun i o hi hstart => ⟨?_, mover_of_empty hi hstart⟩,
    fun hstart hzero => ⟨fun hlo hhi => ?_, fun hlong => ?_⟩, fun index ans hcmd hphase hstall hindex hnew hlive hskb hreplay => ?_⟩
  · refine (launch_of_accepted hcmd hop hphase hlive hup hstall htask).trans (if_pos (.inl hbad))
  · intro u b hal hinl hzero hread d
    have hlaunch := launch_of_inline hcmd hop hphase hlive hup hstall htask hal hinl hzero hread
    refine ⟨fun st href => hlaunch.trans ?_, fun hok => hlaunch.trans ?_⟩
    · rw [show u.launchRefused (u.queueCtx q) (LaunchDesc.parse b) _ = some st from href]
    · rw [show u.launchRefused (u.queueCtx q) (LaunchDesc.parse b) _ = none from hok]
  · subst hr hi
    have hadd := cntAddCommand_of_starts hstart href hzero hearlier
    refine ⟨fun hpart => hadd.trans ?_, fun hpart hgrant => hadd.trans ?_, fun hpart hgrant => hadd.trans ?_⟩
    · rw [State.cmdCtrRefused_of_part hpart]
    · rw [State.cmdCtrRefused_of_grant hpart, hgrant]
      rfl
    · rw [State.cmdCtrRefused_of_grant hpart, hgrant]
      rfl
  · subst hr hi
    exact cntWaitCommand_of_starts hstart href hzero hok hroom hlive
  · intro n fl u hprobe placed
    have halloc := alloc_of_starts hstall hstart hbody hflags htiers hzero hregion hpart hkey hprobe
    refine ⟨fun hnone => halloc.trans ?_, fun v l near far w hsome hwrite => halloc.trans ?_⟩
    · rw [show State.placeAll _ _ _ _ _ _ _ _ = none from hnone]
    · rw [show State.placeAll _ _ _ _ _ _ _ _ = some (v, l, near, far) from hsome]
      dsimp only
      rw [hwrite]
  · intro u b hstart hbody hzero hstall hread l mine
    have hfree := free_of_starts hstall hstart hbody hzero hread
    have hiff : ((words8 (c.field 0x18 4) b).Nodup ∧ (words8 (c.field 0x18 4) b).all (fun a => decide (u.pages.get? a =
        some { log2 := pageLog2 (c.field 0x1C 1), ctx := c.field 0x20 2 })) = true) ↔ mine := by
      simp [mine, l]
    exact ⟨fun h => hfree.trans (congrArg _ (if_pos (hiff.2 h))), fun h => hfree.trans (congrArg _ (if_neg (mt hiff.1 h)))⟩
  · exact fun hlo hhi hzero hcopy hfill => mover_of_good hi hstart hlo hhi hzero hcopy hfill
  · exact State.onStart_of_starts _ hstart (by simp [hlo, hhi, hzero])
  · exact State.onStart_of_bad _ hstart (by simp [hlong])
  · have hwrite {u v : State} {bs : List Byte} := dmaChunk_write hcmd hphase hstall hindex hnew hlive hskb hreplay ans (u := u) (v := v) (bs := bs)
    intro dst len
    refine ⟨fun u hop hw => hwrite (.inr (.inl hop)) ?_ hw, fun u hop hw => hwrite (.inr (.inr hop)) ?_ hw,
      fun u v bs hop hr hw => hwrite (.inl hop) ?_ hw, fun u bs hop hhost hr => ?_, fun hop hhost => ?_, fun bs hop hhost hlen => ?_⟩
    · unfold State.chunkSource
      rw [hop]
      rfl
    · unfold State.chunkSource
      rw [hop]
      rfl
    · unfold State.chunkSource
      rw [hop]
      exact hr
    · have hmoves : c.moves = true := by unfold Cmd.moves; rw [hop]; rfl
      have hsource : s.chunkSource q c index = (u, .ok bs) := by
        unfold State.chunkSource
        rw [hop]
        exact hr
      refine (dmaChunk_of_running hcmd hphase hstall hindex hnew hlive hskb hreplay ans hmoves fun _ => hhost).trans ?_
      rw [if_neg (by omega), hsource]
      exact if_pos hop
    · have hmoves : c.moves = true := by unfold Cmd.moves; rw [hop]; rfl
      exact (dmaChunk_of_running hcmd hphase hstall hindex hnew hlive hskb hreplay .error hmoves fun _ => hhost).trans (if_pos hop)
    · have hmoves : c.moves = true := by unfold Cmd.moves; rw [hop]; rfl
      refine (dmaChunk_of_running hcmd hphase hstall hindex hnew hlive hskb hreplay (.ok bs) hmoves fun _ => hhost).trans ((if_pos hop).trans ?_)
      exact congrArg _ (if_pos hlen)

end Sys2Proof.Machine
end

section
/-! PROOFS. The resident operators (O46). -/

namespace Sys2Proof.Machine

open Sys2Proof.Claims

variable {s u : State} {q seq : Nat} {c : Cmd} {data : List (List Nat)}

/-- An operator that nothing refuses reads its inputs and writes what it makes of them. -/
theorem State.runOperator_of_read (hstall : c.stalled = none) (hedition : s.editionRefused (s.operEngine q c.tag).ctx = false)
    {ins : List Tensor} (f : List (List Nat) → OpRes) (hread : State.readTensors (s.operEngine q c.tag) ins s = (u, .ok data)) :
    s.runOperator q seq c ins f = u.finishOperator (s.operEngine q c.tag) q seq (f data) := by
  unfold State.runOperator
  dsimp only
  rw [hstall, hedition, hread]
  rfl

/-- What an operator produced, with its record, is written once nothing keeps it from being written. -/
theorem State.finishOperator_of_written {e : EngineInfo} {res : OpRes} {v w : State} {out : List (Nat × List Byte)} {bits : Nat}
    (hrec : s.opRecord e res.recorded = (v, .ok (out, bits)))
    (hprobe : State.probeAll e ((res.outs.flatMap OpOut.ranges ++ out).map (fun x => (x.1, x.2.length))) v = (u, .ok ()))
    (hwrite : State.writeAll e (res.outs.flatMap OpOut.ranges ++ out) u = (w, .ok ())) : s.finishOperator e q seq res =
      ((w.orFlags e.ctx res.flags).orDrain e.ctx (res.drain + bits)).endCmd q seq 0 res.result := by
  unfold State.finishOperator
  rw [hrec]
  dsimp only
  rw [hprobe]
  dsimp only
  rw [hwrite]

/-- A MAP or a REDUCE of the sub-operation that a command names. -/
theorem State.mapOp_of_starts (hstart : Starts s q seq 0x22 c) (hok : s.mapOk q c = true) : s.mapOp q seq c.subop =
    .next (s.runOperator q seq c ((List.range (mapArity c.subop)).map c.tensor) (fun data =>
      let o := c.tensor (mapArity c.subop)
      let rs := (List.range (o.rows * o.inner)).map (fun i =>
        mapElement (s.rd F.devIdentFtEdition) c.subop ((s.opEnv q c).at (s.reg .ctxSrSeed (s.queueCtx q)) o i) o
          (((List.range (mapArity c.subop)).map c.tensor).zipIdx.map (fun x =>
            (x.1, (data.getD x.2 []).getD (indexOf x.1.shape (digitsOf o.shape i) 0) 0))))
      { outs := [o.pack (rs.map Rounded.bits)], flags := rs.foldl (fun (fl : FpFlags) r => fl.or r.flags) FpFlags.none,
        recorded := some (o, rs.map Rounded.cls) })) := by
  unfold State.mapOp
  rw [hstart.1]
  dsimp only
  rw [if_neg (fun h => h.1 rfl)]
  exact State.onStart_of_starts _ hstart hok

theorem State.reduceOp_of_starts {sub : Nat} (hstart : Starts s q seq 0x23 c) (hsub : c.subop = sub) (hok : s.reduceOk q c = true)
    (f : Cmd → Tensor → Tensor → RoundEnv → List (List Nat) → OpRes) : s.reduceOp q seq sub f =
    .next (s.runOperator q seq c [c.tensor 0] (fun data => f c (c.tensor 0) (c.tensor 1) (s.opEnv q c)
      ((List.range ((c.tensor 1).rows * (c.tensor 1).inner)).map (reduceRun (c.tensor 0) (c.tensor 1) c.opAxis (data.getD 0 []))))) := by
  unfold State.reduceOp
  rw [hstart.1]
  dsimp only
  rw [if_neg (fun h => h.1 hsub)]
  exact State.onStart_of_starts _ hstart hok

/-- The element that a reduction picks, folded with its flags. -/
theorem foldl_pick_fst (f : Nat → Nat → Nat × FpFlags) (l : List Nat) : ∀ (a : Nat) (fl : FpFlags),
    (l.foldl (fun (a : Nat × FpFlags) b => ((f a.1 b).1, a.2.or (f a.1 b).2)) (a, fl)).1 = l.foldl (fun m b => (f m b).1) a := by
  induction l with
  | nil => exact fun _ _ => rfl
  | cons b l ih => exact fun a fl => ih _ _

/-- The element that a run of a REDUCE min or max selects, converted. -/
def pickElement (greater : Bool) (x o : Tensor) (env : RoundEnv) (seed : Word) (run : List Nat × Nat) : Rounded :=
  let scale := combinedScale [BitVec.ofNat 32 x.scale, BitVec.ofNat 32 o.scale]
  let p := (run.1.drop 1).foldl (fun (a : Nat × FpFlags) b =>
    let r := fpMinMax greater x.format env a.1 b
    (r.1, a.2.or r.2)) (run.1.getD 0 0, FpFlags.none)
  let r := convertCls x.format o.format (env.at seed o run.2) scale p.1
  { r with flags := p.2.or r.flags }

/-- It is the least or the greatest of the run, whatever its flags. -/
theorem pickElement_eq (greater : Bool) (x o : Tensor) (env : RoundEnv) (seed : Word) (l : List Nat) (k : Nat) :
    ∃ fl, pickElement greater x o env seed (l, k) = { convertCls x.format o.format (env.at seed o k)
      (combinedScale [BitVec.ofNat 32 x.scale, BitVec.ofNat 32 o.scale])
      ((l.drop 1).foldl (fun m b => (fpMinMax greater x.format env m b).1) (l.getD 0 0)) with flags := fl } := by
  unfold pickElement
  dsimp only
  rw [foldl_pick_fst (fpMinMax greater x.format env)]
  exact ⟨_, rfl⟩

theorem State.reducePick_of_starts {sub : Nat} {greater : Bool} (hstart : Starts s q seq 0x23 c) (hsub : c.subop = sub)
    (hok : s.reduceOk q c = true) : s.reducePick q seq sub greater = .next (s.runOperator q seq c [c.tensor 0] (fun data =>
      let runs := (List.range ((c.tensor 1).rows * (c.tensor 1).inner)).map
        (reduceRun (c.tensor 0) (c.tensor 1) c.opAxis (data.getD 0 []))
      let rs := runs.zipIdx.map (pickElement greater (c.tensor 0) (c.tensor 1) (s.opEnv q c) (s.reg .ctxSrSeed (s.queueCtx q)))
      { outs := [(c.tensor 1).pack (rs.map Rounded.bits)], flags := rs.foldl (fun (fl : FpFlags) r => fl.or r.flags) FpFlags.none,
        recorded := some (c.tensor 1, rs.map Rounded.cls) })) :=
  State.reduceOp_of_starts hstart hsub hok _

/-- The exact sum of a run, with the events of its elements' reading. -/
def sumAcc (x : Tensor) (env : RoundEnv) (run : List Nat) : Acc × FpFlags :=
  run.foldl (fun (r : Acc × FpFlags) b =>
    (r.1.addTerm ((tensorClass x x).getD .n) (!x.format.isFloat) (x.format.read env b).1 oneVal, r.2.or (x.format.read env b).2))
    (Acc.clear, FpFlags.none)

theorem reduceSum_of_starts (hstart : Starts s q seq 0x23 c) (hsub : c.subop = 0) (hok : s.reduceOk q c = true) :
    execReduceSum q seq s = .next (s.runOperator q seq c [c.tensor 0] (fun data =>
      drainAll ((tensorClass (c.tensor 0) (c.tensor 0)).getD .n) (c.tensor 1) c.outLf (s.opEnv q c) (s.reg .ctxSrSeed (s.queueCtx q))
        (combinedScale [BitVec.ofNat 32 (c.tensor 0).scale, BitVec.ofNat 32 (c.tensor 1).scale]) (fun _ => none)
        (((List.range ((c.tensor 1).rows * (c.tensor 1).inner)).map (reduceRun (c.tensor 0) (c.tensor 1) c.opAxis (data.getD 0 []))).map
          (sumAcc (c.tensor 0) (s.opEnv q c))))) :=
  State.reduceOp_of_starts hstart hsub hok _

/-- A SELECT in the order of its inputs. -/
def Cmd.selectRes (c : Cmd) (data : List (List Nat)) : OpRes :=
  let o := c.tensor 2
  let got := (((data.getD 0 []).zip (data.getD 1 [])).filter (fun e => maskOn (c.tensor 1).format e.2)).map Prod.fst
  let row := o.format.packRow (got ++ (data.getD 2 []).drop got.length)
  let bytes := if got.length = o.inner then row.length else min row.length (o.format.rowBytes got.length)
  { outs := if got = [] then [] else [{ t := o, rows := [row.take bytes] }], result := got.length }

theorem select_of_starts (hstart : Starts s q seq 0x25 c) (hok : c.selectOk = true) (hdlb : s.flag F.qpDlbCtlEnable q = false) :
    execSelect q seq s = .next (s.runOperator q seq c [c.tensor 0, c.tensor 1, c.tensor 2] c.selectRes) := by
  unfold execSelect
  rw [State.onStart_of_starts _ hstart hok, hdlb, Bool.and_false]
  rfl

theorem range_getElem? {n k j : Nat} (h : (List.range n)[k]? = some j) : k = j := by
  obtain ⟨hk, rfl⟩ := List.getElem?_eq_some_iff.1 h
  exact (List.getElem_range hk).symm

-- sorting (R373)

theorem sortBy_perm {α : Type} (le : α → α → Bool) (l : List α) : (sortBy le l).Perm l := by
  rw [sortBy_eq_insertionSort]
  exact List.perm_insertionSort _ l

theorem sortBy_pairwise {α : Type} {le : α → α → Bool} (htotal : ∀ a b, le a b = true ∨ le b a = true)
    (htrans : ∀ a b c, le a b = true → le b c = true → le a c = true) (l : List α) :
    (sortBy le l).Pairwise (fun a b => le a b = true) := by
  rw [sortBy_eq_insertionSort]
  have : Std.Total (fun a b => le a b = true) := ⟨htotal⟩
  have : IsTrans α (fun a b => le a b = true) := ⟨htrans⟩
  exact List.pairwise_insertionSort _ l

/-- Sorting commutes with a map that keeps the order. -/
theorem map_sortBy {α β : Type} {le : α → α → Bool} {le' : β → β → Bool} {f : α → β} (h : ∀ a b, le a b = le' (f a) (f b)) (l : List α) :
    (sortBy le l).map f = sortBy le' (l.map f) := by
  rw [sortBy_eq_insertionSort, sortBy_eq_insertionSort]
  exact List.map_insertionSort _ _ f l fun a _ b _ => by rw [h]

/-- The order of a SORT's keys, and its rows of keys with what they carry. -/
def Cmd.sortLe (c : Cmd) (a b : Nat) : Bool :=
  if c.opCtl.testBit 11 then keyLe (c.tensor 0).format b a else keyLe (c.tensor 0).format a b
def Cmd.sortRes (c : Cmd) (data : List (List Nat)) : OpRes :=
  let k := c.tensor 0
  let d := (data.getD 0 []).zip (if c.hasPayload then data.getD 1 [] else data.getD 0 [])
  let rows := (List.range k.rows).flatMap (fun r => sortBy (fun a b => c.sortLe a.1 b.1) ((d.drop (r * k.inner)).take k.inner))
  { outs := [(c.tensor 1).pack (rows.map Prod.fst)] ++ (if c.hasPayload then [(c.tensor 3).pack (rows.map Prod.snd)] else []) }

theorem sort_of_starts (hstart : Starts s q seq 0x24 c) (hok : c.sortOk = true) :
    execSort q seq s = .next (s.runOperator q seq c ([c.tensor 0] ++ (if c.hasPayload then [c.tensor 2] else [])) c.sortRes) :=
  State.onStart_of_starts _ hstart hok

theorem zip_self_map (l : List Nat) : l.zip l = l.map (fun x => (x, x)) := by
  induction l with
  | nil => rfl
  | cons a l ih => rw [List.zip_cons_cons, ih, List.map_cons]

/-- Keys alone are sorted as numbers. -/
theorem Cmd.sortRes_of_keys (hkeys : c.hasPayload = false) (data : List (List Nat)) : c.sortRes data =
    OpRes.mk [(c.tensor 1).pack ((List.range (c.tensor 0).rows).flatMap (fun r =>
      sortBy c.sortLe (((data.getD 0 []).drop (r * (c.tensor 0).inner)).take (c.tensor 0).inner)))] FpFlags.none none 0 0 := by
  have hrow (l : List Nat) : (sortBy (fun a b => c.sortLe a.1 b.1) (l.map (fun x => (x, x)))).map Prod.fst = sortBy c.sortLe l := by
    rw [map_sortBy (le' := c.sortLe) (fun _ _ => rfl), List.map_map]
    exact congrArg _ (List.map_id l)
  unfold Cmd.sortRes
  simp only [hkeys, Bool.false_eq_true, if_false, List.append_nil, List.map_flatMap, zip_self_map, ← List.map_drop, ← List.map_take, hrow]

/-- Settles O46: each operator's results, by its inputs as they are read. -/
theorem operatorsRun : Obligations.OperatorsRun := by
  intro s q seq c u data e env seed t
  refine ⟨fun hstall hedition => ⟨fun hstart hok hread => ?_, fun hstart hok hread => ?_, ?_, ?_, fun hstart hok hkeys hread => ?_,
    fun hstart hok hdlb hread => ?_⟩, fun i o ok hi hstart hbad => ?_, fun res v w out bits hrec => ?_, fun le l => ?_⟩
  · intro m k n cls
    refine (State.onStart_of_starts _ hstart hok).trans (congrArg _ ?_)
    exact State.runOperator_of_read hstall hedition _ hread
  · intro x w terms cls
    refine (State.onStart_of_starts _ hstart hok).trans (congrArg _ ?_)
    exact State.runOperator_of_read hstall hedition _ hread
  · intro i sub hi hstart hsub hok hread o
    have hexec : exec i s = s.mapOp q seq sub := by
      simp only [List.mem_cons, List.not_mem_nil, or_false, Prod.mk.injEq] at hi
      rcases hi with ⟨rfl, rfl⟩ | ⟨rfl, rfl⟩ | ⟨rfl, rfl⟩ | ⟨rfl, rfl⟩ | ⟨rfl, rfl⟩ | ⟨rfl, rfl⟩ | ⟨rfl, rfl⟩ | ⟨rfl, rfl⟩ | ⟨rfl, rfl⟩ |
        ⟨rfl, rfl⟩ | ⟨rfl, rfl⟩ | ⟨rfl, rfl⟩ | ⟨rfl, rfl⟩ | ⟨rfl, rfl⟩ | ⟨rfl, rfl⟩ <;> rfl
    subst hsub
    refine ⟨(List.range (o.rows * o.inner)).map (fun i => mapElement (s.rd F.devIdentFtEdition) c.subop (env.at seed o i) o
      (((List.range (mapArity c.subop)).map t).zipIdx.map (fun x =>
        (x.1, (data.getD x.2 []).getD (indexOf x.1.shape (digitsOf o.shape i) 0) 0)))), by simp, fun k r hr => ?_, ?_⟩
    · rw [List.getElem?_map, Option.mem_def, Option.map_eq_some_iff] at hr
      obtain ⟨j, hj, rfl⟩ := hr
      rw [← range_getElem? hj]
    · rw [hexec, State.mapOp_of_starts hstart hok]
      exact congrArg _ (State.runOperator_of_read hstall hedition _ hread)
  · intro i sub hi hstart hsub hok hread runs
    simp only [List.mem_cons, List.not_mem_nil, or_false, Prod.mk.injEq] at hi
    refine ⟨fun hsum => ?_, fun hpick => ?_⟩
    · obtain rfl : i = .reduceSum q seq := by
        rcases hi with ⟨hi, -⟩ | ⟨-, h⟩ | ⟨-, h⟩
        · exact hi
        · omega
        · omega
      show execReduceSum q seq s = _
      rw [reduceSum_of_starts hstart (hsub.trans hsum) hok, State.runOperator_of_read hstall hedition _ hread]
      rfl
    · have hexec : exec i s = s.reducePick q seq sub (decide (sub = 2)) := by
        rcases hi with ⟨-, h⟩ | ⟨rfl, rfl⟩ | ⟨rfl, rfl⟩
        · exact absurd h hpick
        · rfl
        · rfl
      refine ⟨runs.zipIdx.map (pickElement (decide (sub = 2)) (t 0) (t 1) env seed), by simp, fun k r hr => ?_, ?_⟩
      · rw [List.getElem?_map, Option.mem_def, Option.map_eq_some_iff] at hr
        obtain ⟨⟨l, j⟩, hj, rfl⟩ := hr
        obtain ⟨hl, rfl⟩ : runs[k]? = some l ∧ k = j := by
          rw [List.getElem?_zipIdx, Option.map_eq_some_iff] at hj
          obtain ⟨l', hl', he⟩ := hj
          obtain ⟨rfl, rfl⟩ := Prod.mk.injEq .. ▸ he
          exact ⟨hl', (Nat.zero_add k).symm⟩
        have hget : runs.getD k [] = l := by
          rw [List.getD_eq_getElem?_getD, hl]
          rfl
        rw [hget]
        exact pickElement_eq _ _ _ _ _ l k
      · rw [hexec, State.reducePick_of_starts hstart hsub hok]
        exact congrArg _ (State.runOperator_of_read hstall hedition _ hread)
  · intro le
    have hins : [c.tensor 0] ++ (if c.hasPayload then [c.tensor 2] else []) = [t 0] := by rw [hkeys]; rfl
    refine (sort_of_starts hstart hok).trans (congrArg _ ?_)
    rw [hins, State.runOperator_of_read hstall hedition _ hread, Cmd.sortRes_of_keys hkeys]
    rfl
  · intro got
    refine ⟨c.selectRes data, ?_, rfl, rfl, fun hnil => if_pos hnil⟩
    rw [show exec (.select q seq) s = _ from select_of_starts hstart hok hdlb, State.runOperator_of_read hstall hedition _ hread]
  · simp only [List.mem_cons, List.not_mem_nil, or_false, Prod.mk.injEq] at hi
    obtain ⟨rfl, rfl, rfl⟩ | ⟨rfl, rfl, rfl⟩ | ⟨rfl, rfl, rfl⟩ | ⟨rfl, rfl, rfl⟩ := hi <;> exact State.onStart_of_bad _ hstart hbad
  · intro all hprobe hwrite
    exact State.finishOperator_of_written hrec hprobe hwrite
  · exact ⟨sortBy_perm le l, fun htotal htrans => sortBy_pairwise htotal htrans l⟩

end Sys2Proof.Machine
end

section
/-! PROOFS. What the channel controllers, the victim cache and the coherence of sectors change: their own copies and counters, and
nothing of memory (R264 to R283, R289 to R310). -/

namespace Sys2Proof.Machine

open Sys2Proof.Claims

theorem NMap.getD_set {α : Type} (m : NMap α) (i j : Nat) (a d : α) :
    (m.set i a).getD j d = if i = j then a else m.getD j d := by
  unfold NMap.getD
  rw [NMap.get?_set]
  split <;> rfl

-- the tiers' side: channel controllers, victim caches and offers

/-- The state but for the registers, the channel controllers, the region SRAM and the canvas L2s, with every set of every agent's
cache. -/
def State.besidesTiers (s : State) : State × (Nat → Nat → CacheSet) :=
  ({ s with regs := [], channels := [], srams := [], canvases := [] }, s.cacheSet)

/-- A canvas L2 whose sets stay leaves every set of every cache. -/
theorem State.besidesTiers_canvas (s : State) (c : Nat) (l2 : CanvasL2) (h : l2.sets = (s.canvases.getD c {}).sets) :
    State.besidesTiers { s with canvases := s.canvases.set c l2 } = s.besidesTiers := by
  refine Prod.ext rfl (funext fun a => funext fun set => ?_)
  show (if a < 16 then ((s.canvases.set c l2).getD a {}).sets.getD set {} else _) = s.cacheSet a set
  unfold State.cacheSet
  rw [NMap.getD_set]
  by_cases hc : c = a
  · rw [if_pos hc, h, hc]
  · rw [if_neg hc]

theorem State.besidesTiers_channels (s : State) (m : NMap Channel) : State.besidesTiers { s with channels := m } = s.besidesTiers := rfl

theorem State.besidesTiers_srams (s : State) (m : NMap RegionSram) : State.besidesTiers { s with srams := m } = s.besidesTiers := rfl

theorem State.besidesTiers_bumpRun (s : State) (run f : Fld) (n v : Nat) : (s.bumpRun run f n v).besidesTiers = s.besidesTiers := by
  unfold State.bumpRun
  split <;> rfl

theorem State.besidesTiers_stkCount (s : State) (f : Fld) (k n : Nat) : (s.stkCount f k n).besidesTiers = s.besidesTiers :=
  s.besidesTiers_bumpRun _ f k n

theorem State.besidesTiers_bump (s : State) (f : Fld) (n v : Nat) : (s.bump f n v).besidesTiers = s.besidesTiers := rfl

theorem State.besidesTiers_openRow (s : State) (c b : Nat) : (s.openRow c b).besidesTiers = s.besidesTiers := by
  have hrow (row : Nat) (bank : NMap Nat) (t : State) (o : Option Nat) : State.besidesTiers
      (let u : State := match o with
        | some r => if r = row then s else s.stkCount F.stkRowConflictsCount (stackOfChan c) 1
        | none => s
      { u with channels := u.channels.set c { s.channels.getD c {} with rows := bank } }) = s.besidesTiers := by
    cases o with
    | none => rfl
    | some r =>
      dsimp only
      split
      · rfl
      · exact s.besidesTiers_bumpRun ..
  exact hrow _ _ s _

theorem State.besidesTiers_turnBus (s : State) (c : Nat) (write : Bool) : (s.turnBus c write).besidesTiers = s.besidesTiers := by
  unfold State.turnBus
  dsimp only
  split
  · rfl
  · exact State.besidesTiers_bumpRun _ _ _ _ _

theorem State.besidesTiers_drainWrites (s : State) (c : Nat) : (s.drainWrites c).besidesTiers = s.besidesTiers := by
  unfold State.drainWrites
  dsimp only
  split
  · rfl
  · rw [State.besidesTiers_channels]
    exact (State.foldl_keeps State.besidesTiers
      (fun t w => by rw [State.besidesTiers_stkCount, State.besidesTiers_openRow]) _ _).trans (s.besidesTiers_turnBus c true)

theorem State.besidesTiers_readBurst (s : State) (b : Nat) : (s.readBurst b).besidesTiers = s.besidesTiers := by
  unfold State.readBurst
  split
  · rfl
  · next c _ =>
    split
    · rfl
    · rw [State.besidesTiers_stkCount, State.besidesTiers_openRow, State.besidesTiers_turnBus]

theorem State.besidesTiers_writeBurst (s : State) (b : Nat) : (s.writeBurst b).besidesTiers = s.besidesTiers := by
  unfold State.writeBurst
  split
  · rfl
  · dsimp only
    split
    · rfl
    · split
      · exact State.besidesTiers_drainWrites _ _
      · rfl

theorem State.besidesTiers_atomFlush (s : State) (b : Nat) : (s.atomFlush b).besidesTiers = s.besidesTiers := by
  unfold State.atomFlush
  split
  · rfl
  · dsimp only
    split
    · exact State.besidesTiers_writeBurst _ b
    · rfl

theorem State.besidesTiers_atomUse (s : State) (b : Nat) : (s.atomUse b).besidesTiers = s.besidesTiers := by
  unfold State.atomUse
  split
  · rfl
  · next c _ =>
    dsimp only
    generalize hu : (if decide (b ∈ (s.channels.getD c {}).atomBuf) = true then s else s.readBurst b) = u
    have hs : u.besidesTiers = s.besidesTiers := by
      rw [← hu]
      split
      · rfl
      · exact s.besidesTiers_readBurst b
    split
    · exact (State.besidesTiers_writeBurst _ _).trans hs
    · exact hs

theorem State.besidesTiers_tierWrite (s : State) (line mask : Nat) : (s.tierWrite line mask).besidesTiers = s.besidesTiers :=
  State.foldl_keeps State.besidesTiers
    (fun t b => ((t.atomFlush b).besidesTiers_writeBurst b).trans (t.besidesTiers_atomFlush b)) _ s

theorem State.besidesTiers_vcDrop (s : State) (r k : Nat) : (s.vcDrop r k).besidesTiers = s.besidesTiers := by
  unfold State.vcDrop
  dsimp only
  split
  · rfl
  · exact State.besidesTiers_tierWrite _ _ _

theorem State.besidesTiers_vcInsert (s : State) (r : Nat) (v : Victim) : (s.vcInsert r v).besidesTiers = s.besidesTiers := by
  have hfirst : State.besidesTiers (match s.vcFind r v.line with
    | some k => s.vcDrop r k
    | none => s) = s.besidesTiers := by
    split
    · exact s.besidesTiers_vcDrop r _
    · rfl
  unfold State.vcInsert
  dsimp only
  rw [State.besidesTiers_srams, State.besidesTiers_vcDrop]
  exact hfirst

theorem State.besidesTiers_serveOffer (s : State) (canvas : Nat) (v : Victim) : (s.serveOffer canvas v).besidesTiers = s.besidesTiers := by
  unfold State.serveOffer
  split
  · rfl
  · dsimp only
    split
    · split
      · exact s.besidesTiers_vcInsert _ v
      · exact s.besidesTiers_tierWrite _ _
    · split
      · exact s.besidesTiers_vcInsert _ v
      · exact s.besidesTiers_bumpRun _ _ _ _

theorem State.besidesTiers_offersFor (s : State) (line : Nat) : (s.offersFor line).besidesTiers = s.besidesTiers := by
  refine State.foldl_keeps State.besidesTiers (fun t c => ?_) _ s
  dsimp only
  split
  · rfl
  · exact (State.foldl_keeps State.besidesTiers (fun u v => u.besidesTiers_serveOffer c v) _ _).trans (t.besidesTiers_canvas c _ rfl)

theorem State.besidesTiers_vcLookup (s : State) (home sector : Nat) (take : Bool) :
    (s.vcLookup home sector take).1.besidesTiers = s.besidesTiers := by
  have hoffers := s.besidesTiers_offersFor (sector / 2)
  unfold State.vcLookup
  split
  · dsimp only
    split
    · rw [State.besidesTiers_vcDrop, State.besidesTiers_bump, hoffers]
    · rw [State.besidesTiers_bump, hoffers]
  · rfl

theorem State.besidesTiers_homeFill (s : State) (home agent sector : Nat) (data : Bool) :
    (s.homeFill home agent sector data).besidesTiers = s.besidesTiers := by
  unfold State.homeFill
  have hlook := s.besidesTiers_vcLookup home sector (decide (agent < 16))
  generalize s.vcLookup home sector (decide (agent < 16)) = u at hlook ⊢
  dsimp only
  split
  · exact hlook
  · exact (State.foldl_keeps State.besidesTiers
      (fun t b => ((t.atomFlush b).besidesTiers_readBurst b).trans (t.besidesTiers_atomFlush b)) _ _).trans hlook

theorem State.besidesTiers_dirtyOut (s : State) (agent sector : Nat) : (s.dirtyOut agent sector).besidesTiers = s.besidesTiers := by
  unfold State.dirtyOut
  refine (State.besidesTiers_tierWrite _ _ _).trans ?_
  split
  · exact s.besidesTiers_bumpRun _ _ _ _
  · rfl

end Sys2Proof.Machine
end

section
/-! PROOFS. What a request of an agent leaves: the line that it asked for keeps its way, and no byte of memory changes (R293, R294,
R297 to R299). -/

namespace Sys2Proof.Machine

open Sys2Proof.Claims

-- maps and the ways of a set

theorem NMap.get?_of_mem {α : Type} {m : NMap α} {e : Nat × α} (h : m.wf = true) (he : e ∈ m) : m.get? e.1 = some e.2 := by
  have hgen : ∀ (m : NMap α) (b : Nat), NMap.sortedFrom b m = true → e ∈ m → b ≤ e.1 ∧ m.get? e.1 = some e.2 := by
    intro m
    induction m with
    | nil => intro b _ h; cases h
    | cons f m ih =>
      obtain ⟨k, v⟩ := f
      intro b hs hmem
      simp only [NMap.sortedFrom, Bool.and_eq_true, decide_eq_true_eq] at hs
      obtain ⟨hb, hs⟩ := hs
      rcases List.mem_cons.1 hmem with rfl | hmem
      · exact ⟨hb, if_pos rfl⟩
      · obtain ⟨hk, hg⟩ := ih (k + 1) hs hmem
        exact ⟨by omega, (if_neg (by omega)).trans hg⟩
  exact (hgen m 0 h he).2

theorem NMap.mem_of_get? {α : Type} {m : NMap α} {i : Nat} {v : α} (h : m.get? i = some v) : (i, v) ∈ m := by
  induction m with
  | nil => cases h
  | cons e m ih =>
    obtain ⟨k, w⟩ := e
    unfold NMap.get? at h
    split at h
    · next hk => cases h; exact hk ▸ List.mem_cons_self
    · exact List.mem_cons_of_mem _ (ih h)

theorem NMap.get?_isSome_of_mem {α : Type} {m : NMap α} {e : Nat × α} (he : e ∈ m) : ∃ v, m.get? e.1 = some v := by
  induction m with
  | nil => cases he
  | cons f m ih =>
    obtain ⟨k, w⟩ := f
    unfold NMap.get?
    split
    · exact ⟨w, rfl⟩
    · next hk =>
      rcases List.mem_cons.1 he with rfl | he
      · exact absurd rfl hk
      · exact ih he

/-- Does an entry of a set hold a line? -/
def CacheLine.at (line : Nat) (e : Nat × CacheLine) : Bool := decide (e.2.line = line)

theorem CacheSet.mem_of_find {x : CacheSet} {line w : Nat} (h : x.find line = some w) : ∃ l, (w, l) ∈ x.ways ∧ l.line = line := by
  unfold CacheSet.find at h
  rw [Option.map_eq_some_iff] at h
  obtain ⟨⟨w', l⟩, hfind, rfl⟩ := h
  exact ⟨l, List.mem_of_find?_eq_some hfind, of_decide_eq_true (List.find?_some (p := CacheLine.at line) hfind)⟩

theorem CacheSet.find_of_mem {x : CacheSet} {e : Nat × CacheLine} (he : e ∈ x.ways) : ∃ w, x.find e.2.line = some w := by
  unfold CacheSet.find
  show ∃ w, (x.ways.find? (CacheLine.at e.2.line)).map Prod.fst = some w
  cases hf : x.ways.find? (CacheLine.at e.2.line) with
  | some f => exact ⟨f.1, rfl⟩
  | none => exact absurd (decide_eq_true rfl) (List.find?_eq_none.1 hf e he)

/-- The way that holds a line still does when its entry is replaced by one of the same line. -/
theorem CacheSet.find_set {ways : NMap CacheLine} {line w : Nat} {l l' : CacheLine} (plru : Nat)
    (hfind : CacheSet.find ⟨ways, plru⟩ line = some w) (hget : ways.get? w = some l) (hline : l'.line = l.line) :
    CacheSet.find ⟨ways.set w l', plru⟩ line = some w := by
  change (ways.find? (CacheLine.at line)).map Prod.fst = some w at hfind
  show ((ways.set w l').find? (CacheLine.at line)).map Prod.fst = some w
  induction ways with
  | nil => cases hget
  | cons e m ih =>
    obtain ⟨k, v⟩ := e
    unfold NMap.get? at hget
    unfold NMap.set
    by_cases hv : v.line = line
    · rw [List.find?_cons_of_pos (p := CacheLine.at line) (a := (k, v)) (decide_eq_true hv)] at hfind
      cases hfind
      rw [if_pos rfl] at hget ⊢
      cases hget
      rw [List.find?_cons_of_pos (p := CacheLine.at line) (decide_eq_true (hline.trans hv))]
      rfl
    · have hv' : ¬ CacheLine.at line (k, v) = true := fun h => hv (of_decide_eq_true h)
      rw [List.find?_cons_of_neg hv'] at hfind
      split at hget
      · next hk =>
        cases hget
        rw [if_pos hk, List.find?_cons_of_neg (p := CacheLine.at line) (a := (w, l')) (fun h => hv (hline.symm.trans (of_decide_eq_true h)))]
        exact hfind
      · next hk =>
        rw [if_neg hk]
        split
        · by_cases hl' : l'.line = line
          · rw [List.find?_cons_of_pos (p := CacheLine.at line) (decide_eq_true hl')]; rfl
          · rw [List.find?_cons_of_neg (p := CacheLine.at line) (a := (w, l')) (fun h => hl' (of_decide_eq_true h)), List.find?_cons_of_neg hv']
            exact hfind
        · rw [List.find?_cons_of_neg hv']
          exact ih hget hfind

theorem CacheLine.setSector_line (l : CacheLine) (half : Nat) (st : Sector) : (l.setSector half st).line = l.line := by
  unfold CacheLine.setSector
  split <;> rfl

theorem CacheLine.sector_setSector (l : CacheLine) (half : Nat) (st : Sector) : (l.setSector half st).sector half = st := by
  unfold CacheLine.setSector CacheLine.sector
  split <;> rfl

theorem CacheLine.sector_of_invalid {l : CacheLine} (h : l.s0 = .i ∧ l.s1 = .i) (half : Nat) : l.sector half = .i := by
  unfold CacheLine.sector
  split
  · exact h.1
  · exact h.2

-- a set after a write of another or of the same

theorem agentSet_lt {agent : Nat} (h : ¬ agent < 16) (line : Nat) : agentSet agent line < 1024 := by
  unfold agentSet
  rw [if_neg h]
  exact Nat.mod_lt _ (by decide)

/-- A write of one agent's set is read back there, and every other set of every agent stays. -/
theorem State.cacheSet_setCacheSet (s : State) (a b line line' : Nat) (x : CacheSet) :
    (s.setCacheSet b (agentSet b line') x).cacheSet a (agentSet a line) =
      if b = a ∧ agentSet b line' = agentSet a line then x else s.cacheSet a (agentSet a line) := by
  unfold State.setCacheSet State.cacheSet
  by_cases hb : b < 16
  · rw [if_pos hb]
    dsimp only
    by_cases ha : a < 16
    · rw [if_pos ha, if_pos ha, NMap.getD_set]
      by_cases hab : b = a
      · subst hab
        rw [if_pos rfl]
        dsimp only
        rw [NMap.getD_put]
        by_cases hset : agentSet b line' = agentSet b line
        · rw [if_pos hset, if_pos ⟨rfl, hset⟩]
        · rw [if_neg hset, if_neg fun h => hset h.2]
      · rw [if_neg hab, if_neg fun h => hab h.1]
    · rw [if_neg ha, if_neg ha, if_neg fun h : b = a ∧ _ => ha (h.1 ▸ hb)]
  · rw [if_neg hb]
    dsimp only
    by_cases ha : a < 16
    · rw [if_pos ha, if_pos ha, if_neg fun h : b = a ∧ _ => hb (h.1 ▸ ha)]
    · rw [if_neg ha, if_neg ha, NMap.getD_put]
      have hlt := agentSet_lt ha line
      have hlt' := agentSet_lt hb line'
      by_cases h : b = a ∧ agentSet b line' = agentSet a line
      · rw [if_pos h, if_pos (by rw [h.1, ← h.2, h.1])]
      · rw [if_neg h, if_neg fun he => h ⟨by omega, by omega⟩]

theorem State.cacheSet_setCacheSet_self (s : State) (a line : Nat) (x : CacheSet) :
    (s.setCacheSet a (agentSet a line) x).cacheSet a (agentSet a line) = x :=
  (s.cacheSet_setCacheSet a a line line x).trans (if_pos ⟨rfl, rfl⟩)

theorem State.cacheSet_setCacheSet_ne (s : State) {a b : Nat} (h : b ≠ a) (line line' : Nat) (x : CacheSet) :
    (s.setCacheSet b (agentSet b line') x).cacheSet a (agentSet a line) = s.cacheSet a (agentSet a line) :=
  (s.cacheSet_setCacheSet a b line line' x).trans (if_neg fun he => h he.1)

-- what the copies and the listings change

/-- The state but for the registers, the copies, the listings and the free values drawn; of the coherence the requests and the
acknowledgements that are awaited stay. -/
def State.besidesCaches (s : State) : State :=
  { s with regs := [], channels := [], srams := [], canvases := [], freeIdx := 0, coh := { s.coh with appSets := [], mirrors := [] } }

theorem State.besidesCaches_of_tiers {s t : State} (h : t.besidesTiers = s.besidesTiers) : t.besidesCaches = s.besidesCaches :=
  congrArg (fun x : State × (Nat → Nat → CacheSet) => x.1.besidesCaches) h

theorem State.cacheSet_of_tiers {s t : State} (h : t.besidesTiers = s.besidesTiers) (a set : Nat) : t.cacheSet a set = s.cacheSet a set :=
  congrFun (congrFun (congrArg Prod.snd h) a) set

theorem State.besidesCaches_setCacheSet (s : State) (a set : Nat) (x : CacheSet) :
    (s.setCacheSet a set x).besidesCaches = s.besidesCaches := by
  unfold State.setCacheSet
  split <;> rfl

theorem State.besidesCaches_setAgentState (s : State) (a x : Nat) (st : Sector) :
    (s.setAgentState a x st).besidesCaches = s.besidesCaches := by
  unfold State.setAgentState
  dsimp only
  split
  · rfl
  · exact s.besidesCaches_setCacheSet ..

theorem State.besidesCaches_setView (s : State) (h a x : Nat) (v : MirrorView) : (s.setView h a x v).besidesCaches = s.besidesCaches := by
  unfold State.setView
  dsimp only
  split <;> rfl

theorem State.cacheSet_setView (s : State) (h a x : Nat) (v : MirrorView) : (s.setView h a x v).cacheSet = s.cacheSet := by
  unfold State.setView
  dsimp only
  split <;> rfl

theorem State.agentState_congr {s t : State} {a x : Nat}
    (h : t.cacheSet a (agentSet a (agentLine a x)) = s.cacheSet a (agentSet a (agentLine a x))) : t.agentState a x = s.agentState a x := by
  unfold State.agentState
  dsimp only
  rw [h]

theorem State.agentState_setView (s : State) (h a x b y : Nat) (v : MirrorView) :
    (s.setView h a x v).agentState b y = s.agentState b y := State.agentState_congr (by rw [State.cacheSet_setView])

theorem State.besidesTiers_cohCount (s : State) (f : Fld) (h : Nat) : (s.cohCount f h).besidesTiers = s.besidesTiers :=
  s.besidesTiers_bumpRun _ f h 1

/-- An agent that has a way for the line may be given any valid state of its sector. -/
theorem State.agentState_setAgentState {s : State} {a x w : Nat} {st : Sector} (hst : st ≠ .i)
    (hfind : (s.cacheSet a (agentSet a (agentLine a x))).find (agentLine a x) = some w) : (s.setAgentState a x st).agentState a x = st := by
  obtain ⟨l, hmem, -⟩ := CacheSet.mem_of_find hfind
  obtain ⟨l, hget⟩ : ∃ l, (s.cacheSet a (agentSet a (agentLine a x))).ways.get? w = some l := NMap.get?_isSome_of_mem hmem
  have hvalid : ¬ ((l.setSector (agentHalf a x) st).s0 = .i ∧ (l.setSector (agentHalf a x) st).s1 = .i) := fun h =>
    hst ((l.sector_setSector (agentHalf a x) st).symm.trans (CacheLine.sector_of_invalid h _))
  have hset := CacheSet.find_set (ways := (s.cacheSet a (agentSet a (agentLine a x))).ways) (s.cacheSet a (agentSet a (agentLine a x))).plru hfind hget
    (l.setSector_line (agentHalf a x) st)
  unfold State.setAgentState
  dsimp only
  rw [hfind]
  dsimp only
  unfold NMap.getD
  rw [hget, Option.getD_some, if_neg hvalid]
  unfold State.agentState
  dsimp only
  rw [State.cacheSet_setCacheSet_self, hset, Option.bind_some, NMap.get?_set,
    if_pos rfl]
  exact l.sector_setSector _ st

/-- A state that is not I says that the agent has a way for the line. -/
theorem State.find_of_agentState {s : State} {a x : Nat} (h : s.agentState a x ≠ .i) :
    ∃ w, (s.cacheSet a (agentSet a (agentLine a x))).find (agentLine a x) = some w := by
  cases hf : (s.cacheSet a (agentSet a (agentLine a x))).find (agentLine a x) with
  | some w => exact ⟨w, rfl⟩
  | none =>
    refine absurd ?_ h
    unfold State.agentState
    dsimp only
    rw [hf]
    rfl

/-- A sector whose lines' ways are distinct reads I after it has been given I. -/
theorem State.agentState_setAgentState_i {s : State} {a x : Nat}
    (hnodup : ((s.cacheSet a (agentSet a (agentLine a x))).ways.map (fun e => e.2.line)).Nodup) :
    (s.setAgentState a x .i).agentState a x = .i := by
  cases hfind : (s.cacheSet a (agentSet a (agentLine a x))).find (agentLine a x) with
  | none =>
    unfold State.setAgentState
    dsimp only
    rw [hfind]
    by_contra hne
    obtain ⟨w, hw⟩ := State.find_of_agentState hne
    exact absurd (hfind.symm.trans hw) (by simp)
  | some w =>
    obtain ⟨l₀, hmem₀, hline₀⟩ := CacheSet.mem_of_find hfind
    unfold State.setAgentState
    dsimp only
    rw [hfind]
    dsimp only
    generalize hl : ((s.cacheSet a (agentSet a (agentLine a x))).ways.getD w { line := agentLine a x }).setSector (agentHalf a x) .i = l
    generalize hways : (if l.s0 = .i ∧ l.s1 = .i then (s.cacheSet a (agentSet a (agentLine a x))).ways.del w
      else (s.cacheSet a (agentSet a (agentLine a x))).ways.set w l) = ways
    have hold : ∀ e ∈ ways, e.1 ≠ w → e ∈ (s.cacheSet a (agentSet a (agentLine a x))).ways := by
      intro e he hne
      rw [← hways] at he
      split at he
      · exact List.mem_of_mem_filter he
      · rcases NMap.mem_set he with rfl | he
        · exact absurd rfl hne
        · exact he
    have hnew : ∀ v, ways.get? w = some v → v.sector (agentHalf a x) = .i := by
      intro v hv
      rw [← hways] at hv
      split at hv
      · rw [NMap.get?_del, if_pos rfl] at hv; cases hv
      · rw [NMap.get?_set, if_pos rfl] at hv
        cases hv
        rw [← hl]
        exact CacheLine.sector_setSector _ _ _
    unfold State.agentState
    dsimp only
    rw [State.cacheSet_setCacheSet_self]
    cases hf : CacheSet.find { (s.cacheSet a (agentSet a (agentLine a x))) with ways := ways } (agentLine a x) with
    | none => rfl
    | some w' =>
      obtain ⟨l', hmem', hline'⟩ := CacheSet.mem_of_find hf
      have hw : w' = w := by
        by_contra hne
        have := List.inj_on_of_nodup_map hnodup (hold _ hmem' hne) hmem₀ (hline'.trans hline₀.symm)
        exact hne (congrArg Prod.fst this)
      rw [hw, Option.bind_some]
      dsimp only
      cases hg : ways.get? w with
      | none => rfl
      | some v => exact hnew v hg

-- the way of the line that an agent asks for

/-- A set in its canonical form has a way for a line. -/
def State.HasWay (s : State) (a line : Nat) : Prop :=
  (s.cacheSet a (agentSet a line)).ways.wf = true ∧
    ∃ w l, (s.cacheSet a (agentSet a line)).ways.get? w = some l ∧ l.line = line

theorem State.HasWay.find {s : State} {a line : Nat} (h : s.HasWay a line) :
    ∃ w, (s.cacheSet a (agentSet a line)).find line = some w := by
  obtain ⟨-, w, l, hget, rfl⟩ := h
  exact CacheSet.find_of_mem (NMap.mem_of_get? hget)

theorem CacheSet.get?_of_find {x : CacheSet} {line w : Nat} (hwf : x.ways.wf = true) (h : x.find line = some w) :
    ∃ l, x.ways.get? w = some l ∧ l.line = line := by
  obtain ⟨l, hmem, hline⟩ := CacheSet.mem_of_find h
  exact ⟨l, NMap.get?_of_mem hwf hmem, hline⟩

/-- What serving a request for a line leaves: everything but copies, listings and counters, and the way of the line. -/
structure CohFrame (a line : Nat) (s t : State) : Prop where
  rest : t.besidesCaches = s.besidesCaches
  way : s.HasWay a line → t.HasWay a line

namespace CohFrame

variable {a line : Nat} {s t u : State}

theorem refl (s : State) : CohFrame a line s s := ⟨rfl, id⟩

theorem trans (h : CohFrame a line s t) (h' : CohFrame a line t u) : CohFrame a line s u :=
  ⟨h'.rest.trans h.rest, fun hw => h'.way (h.way hw)⟩

theorem of_set_eq (hrest : t.besidesCaches = s.besidesCaches)
    (hset : t.cacheSet a (agentSet a line) = s.cacheSet a (agentSet a line)) : CohFrame a line s t :=
  ⟨hrest, fun h => by unfold State.HasWay; rw [hset]; exact h⟩

theorem of_tiers (h : t.besidesTiers = s.besidesTiers) : CohFrame a line s t :=
  of_set_eq (State.besidesCaches_of_tiers h) (State.cacheSet_of_tiers h _ _)

theorem foldl {α : Type} {f : State → α → State} (l : List α) (hf : ∀ s, ∀ x ∈ l, CohFrame a line s (f s x)) :
    ∀ s, CohFrame a line s (l.foldl f s) := by
  induction l with
  | nil => exact refl
  | cons x l ih =>
    intro s
    exact (hf s x List.mem_cons_self).trans (ih (fun t y hy => hf t y (List.mem_cons_of_mem x hy)) (f s x))

theorem setView (s : State) (h b x : Nat) (v : MirrorView) : CohFrame a line s (s.setView h b x v) :=
  of_set_eq (s.besidesCaches_setView h b x v) (by rw [State.cacheSet_setView])

theorem cohCount (s : State) (f : Fld) (h : Nat) : CohFrame a line s (s.cohCount f h) := of_tiers (s.besidesTiers_cohCount f h)

theorem bump (s : State) (f : Fld) (n v : Nat) : CohFrame a line s (s.bump f n v) := of_tiers (s.besidesTiers_bump f n v)

theorem setMirror (s : State) (h b l : Nat) (m : MirrorSet) : CohFrame a line s (s.setMirror h b l m) := of_set_eq rfl rfl

/-- A change of another agent's sector, or of a sector of another line, leaves the line's way. -/
theorem setAgentState (s : State) {b x : Nat} (hne : b = a → agentLine a x ≠ line) (st : Sector) :
    CohFrame a line s (s.setAgentState b x st) := by
  refine ⟨s.besidesCaches_setAgentState b x st, fun hway => ?_⟩
  cases hf : (s.cacheSet b (agentSet b (agentLine b x))).find (agentLine b x) with
  | none =>
    unfold State.setAgentState
    dsimp only
    rw [hf]
    exact hway
  | some w' =>
    unfold State.setAgentState State.HasWay
    dsimp only
    rw [hf]
    dsimp only
    rw [State.cacheSet_setCacheSet]
    split
    · next heq =>
      obtain ⟨hwf, w, l, hget, hline⟩ := hway
      obtain ⟨rfl, hset⟩ := heq
      rw [hset] at hf ⊢
      obtain ⟨l', hget', hline'⟩ := CacheSet.get?_of_find hwf hf
      have hw : w' ≠ w := fun h => by
        rw [h, hget] at hget'
        cases hget'
        exact hne rfl (hline'.symm.trans hline)
      dsimp only
      split
      · exact ⟨NMap.wf_del _ hwf, w, l, by rw [NMap.get?_del, if_neg hw]; exact hget, hline⟩
      · exact ⟨NMap.wf_set _ _ hwf, w, l, by rw [NMap.get?_set, if_neg hw]; exact hget, hline⟩
    · exact hway

theorem snoopInvalidate (s : State) (h : Nat) {b x : Nat} (hne : b = a → agentLine a x ≠ line) (back : Bool) :
    CohFrame a line s (s.snoopInvalidate h b x back) := by
  have hdirty (t : State) (c : Bool) : CohFrame a line t (if c then t.dirtyOut b x else t) := by
    split
    · exact of_tiers (t.besidesTiers_dirtyOut b x)
    · exact refl t
  unfold State.snoopInvalidate
  dsimp only
  exact (((cohCount s _ h).trans (hdirty _ _)).trans (setAgentState _ hne .i)).trans (setView _ h b x _)

theorem snoopShared (s : State) (h : Nat) {b x : Nat} (hne : b = a → agentLine a x ≠ line) : CohFrame a line s (s.snoopShared h b x) := by
  refine (cohCount s F.regCohSnoopsCount h).trans ?_
  unfold State.snoopShared
  dsimp only
  split
  · exact (setAgentState _ hne .o).trans (setView _ h b x _)
  · exact refl _
  · exact (setAgentState _ hne .s).trans (setView _ h b x _)
  · exact setView _ h b x _
  · exact setView _ h b x _

theorem snoopPurge (s : State) (h : Nat) {b : Nat} (l : Nat) (hne : b ≠ a) : CohFrame a line s (s.snoopPurge h b l) := by
  have hset (t : State) (x : CacheSet) : CohFrame a line t (t.setCacheSet b (agentSet b l) x) :=
    of_set_eq (t.besidesCaches_setCacheSet ..) (t.cacheSet_setCacheSet_ne hne _ _ x)
  have hmark (t : State) (c : Bool) (v : Nat) : CohFrame a line t (if c then t.wr F.regCohStatusMarkedSets h v else t) := by
    split <;> exact of_set_eq rfl rfl
  unfold State.snoopPurge
  dsimp only
  refine ((((cohCount s F.regCohSnoopsCount h).trans (cohCount _ F.regCohPurgesCount h)).trans (hset _ _)).trans
    (hmark _ _ _)).trans (setMirror _ h b l _)

theorem invalidateHolders (s : State) (h x : Nat) (back : Bool) : CohFrame a line s (s.invalidateHolders h x (some a) back) := by
  refine foldl _ (fun t b _ => ?_) s
  split
  · exact refl t
  · next hb =>
    have hne : b ≠ a := fun he => hb (.inl (by rw [he]))
    split
    · exact snoopInvalidate t h (fun he => absurd he hne) back
    · split
      · exact snoopPurge t h _ hne
      · exact refl t

/-- A recall takes another line of the agent than the one that has no listing. -/
theorem recallWay (s : State) (h key : Nat) (hnew : (s.mirror h a line).find line = none) : CohFrame a line s (s.recallWay h a line key) := by
  unfold State.recallWay
  dsimp only
  split
  · exact refl s
  · next w hget =>
    have hw : w.line ≠ line := fun he => by
      unfold MirrorSet.find at hnew
      rw [Option.map_eq_none_iff] at hnew
      exact List.find?_eq_none.1 hnew _ (NMap.mem_of_get? hget) (decide_eq_true he)
    refine (cohCount s _ h).trans (foldl _ (fun t i hi => snoopInvalidate t h (fun _ => ?_) true) _)
    have hi2 : i < 2 := List.mem_range.1 (List.mem_of_mem_filter hi)
    unfold agentLine
    split
    · rw [show (2 * w.line + i) / 2 = w.line by omega]; exact hw
    · exact hw

theorem mirrorRoom (s : State) (h : Nat) : CohFrame a line s (s.mirrorRoom h a line) := by
  unfold State.mirrorRoom
  dsimp only
  split
  · exact refl s
  · next hsome =>
    have hnew : (s.mirror h a line).find line = none := by simpa using hsome
    have hroom : CohFrame a line s
        (if ((s.mirror h a line).ways.freeFrom (mirrorWays s.mode) 0).isSome = true then s
        else
          match (s.mirror h a line).ways.find? (fun e : Nat × MirrorWay => !e.2.owns) with
          | some (k, _) =>
            if s.mode = 0 then
              (if (s.mirror h a line).mark = true then s.cohCount F.regCohDropsCount h
                else (s.cohCount F.regCohDropsCount h).bump F.regCohStatusMarkedSets h).setMirror h a line
                { ways := (s.mirror h a line).ways.del k, mark := true }
            else s.recallWay h a line k
          | none => s.recallWay h a line 0) := by
      split
      · exact refl s
      · split
        · split
          · refine CohFrame.trans ?_ (setMirror _ h a line _)
            split
            · exact cohCount s _ h
            · exact (cohCount s _ h).trans (bump _ _ h 1)
          · exact recallWay s h _ hnew
        · exact recallWay s h 0 hnew
    have hfill (t : State) (o : Option Nat) : CohFrame a line t (match o with
        | some k => t.setMirror h a line
            { t.mirror h a line with ways := (t.mirror h a line).ways.set k ⟨line, .notHeld, .notHeld⟩ }
        | none => t) := by
      split
      · exact setMirror t h a line _
      · exact refl t
    exact hroom.trans (hfill _ _)

theorem homeFill (s : State) (h b x : Nat) (data : Bool) : CohFrame a line s (s.homeFill h b x data) :=
  of_tiers (s.besidesTiers_homeFill h b x data)

end CohFrame

/-- What a line's eviction leaves: everything but listings and counters, and every set of every cache. -/
def State.withSets (s : State) : State × (Nat → Nat → CacheSet) := (s.besidesCaches, s.cacheSet)

theorem State.withSets_of_tiers {s t : State} (h : t.besidesTiers = s.besidesTiers) : t.withSets = s.withSets :=
  Prod.ext (State.besidesCaches_of_tiers h) (funext fun a => funext fun set => State.cacheSet_of_tiers h a set)

theorem State.withSets_setView (s : State) (h a x : Nat) (v : MirrorView) : (s.setView h a x v).withSets = s.withSets :=
  Prod.ext (s.besidesCaches_setView h a x v) (s.cacheSet_setView h a x v)

theorem State.withSets_evictSector (s : State) (a x : Nat) (st : Sector) : (s.evictSector a x st).withSets = s.withSets := by
  unfold State.evictSector
  split
  · rfl
  · split
    · exact s.withSets_setView _ a x _
    · rfl

theorem State.withSets_offers (s : State) (c : Nat) (l : List Victim) :
    State.withSets { s with canvases := s.canvases.set c { s.canvases.getD c {} with offers := l } } = s.withSets :=
  State.withSets_of_tiers (s.besidesTiers_canvas c _ rfl)

theorem State.withSets_lfsr (s : State) (c : Nat) (m : NMap Nat) :
    State.withSets { s with canvases := s.canvases.set c { s.canvases.getD c {} with lfsr := m } } = s.withSets :=
  State.withSets_of_tiers (s.besidesTiers_canvas c _ rfl)

theorem State.ite_keeps {β : Type} (q : State → β) {p : Prop} [Decidable p] {t u : State} {y : β} (ht : q t = y) (hu : q u = y) :
    q (if p then t else u) = y := by
  split
  · exact ht
  · exact hu

/-- One sector of a victim leaves: its listing goes, and its dirty data to the tier. -/
theorem State.withSets_evict (s : State) (a x : Nat) (st : Sector) :
    (if (st.dirty && decide (a < 16)) = true then (s.evictSector a x st).bumpRun F.l2CountCtlRun F.l2WritebacksCount a
    else if st.dirty = true then (s.evictSector a x st).tierWrite (x / 2) (1 <<< (x % 2)) else s.evictSector a x st).withSets =
      s.withSets := by
  have hevict := s.withSets_evictSector a x st
  exact State.ite_keeps _ ((State.withSets_of_tiers (State.besidesTiers_bumpRun _ _ _ _ _)).trans hevict)
    (State.ite_keeps _ ((State.withSets_of_tiers (State.besidesTiers_tierWrite _ _ _)).trans hevict) hevict)

/-- The way taken holds the new line, in a set of canonical form. -/
theorem State.newLine_spec {s t : State} {a line : Nat} (h : t.withSets = s.withSets) (way plru : Nat) (stream : Bool) :
    let u := t.setCacheSet a (agentSet a line)
      { ways := (t.cacheSet a (agentSet a line)).ways.set way { line := line, stream := stream }, plru := plru }
    u.besidesCaches = s.besidesCaches ∧ ((s.cacheSet a (agentSet a line)).ways.wf = true → u.HasWay a line) := by
  have hset : t.cacheSet a (agentSet a line) = s.cacheSet a (agentSet a line) :=
    congrFun (congrFun (congrArg Prod.snd h) a) _
  refine ⟨(t.besidesCaches_setCacheSet _ _ _).trans (congrArg Prod.fst h), fun hwf => ?_⟩
  unfold State.HasWay
  rw [State.cacheSet_setCacheSet_self, hset]
  exact ⟨NMap.wf_set _ _ hwf, way, _, by rw [NMap.get?_set, if_pos rfl], rfl⟩

/-- A way for the line is found or made, in a set of canonical form. -/
theorem State.cacheRoom_spec (s : State) (a line : Nat) (stream : Bool) :
    (s.cacheRoom a line stream).besidesCaches = s.besidesCaches ∧
      ((s.cacheSet a (agentSet a line)).ways.wf = true → (s.cacheRoom a line stream).HasWay a line) := by
  unfold State.cacheRoom
  dsimp only
  split
  · next hsome =>
    obtain ⟨w, hw⟩ := Option.isSome_iff_exists.1 hsome
    exact ⟨rfl, fun hwf => ⟨hwf, w, CacheSet.get?_of_find hwf hw⟩⟩
  · refine State.newLine_spec ?_ _ _ stream
    have hdraw : (if 16 ≤ a then s.draw else (0, s)).2.withSets = s.withSets := by split <;> rfl
    refine (State.ite_keeps State.withSets ((State.withSets_lfsr _ a _).trans rfl) rfl).trans ?_
    split
    · exact hdraw
    · refine (State.ite_keeps State.withSets ((State.withSets_offers _ a _).trans rfl) rfl).trans ?_
      exact (State.foldl_keeps State.withSets (fun t (e : Nat × Sector) => t.withSets_evict a _ e.2) _ _).trans hdraw

/-- An agent with a way for the line may be given any valid state of its sector. -/
theorem State.HasWay.agentState {s : State} {a x : Nat} {st : Sector} (h : s.HasWay a (agentLine a x)) (hst : st ≠ .i) :
    (s.setAgentState a x st).agentState a x = st :=
  h.find.elim fun _ hw => State.agentState_setAgentState hst hw

-- the requests that are served at the home

theorem State.ite_induct {P : State → Prop} {p : Prop} [Decidable p] {t u : State} (ht : P t) (hu : P u) : P (if p then t else u) := by
  split
  · exact ht
  · exact hu

/-- A sector filled at its home and granted leaves its agent the state granted. -/
theorem State.grant_spec {s t : State} (h a x : Nat) (data : Bool) {st : Sector} (v : MirrorView) (hst : st ≠ .i)
    (hrest : t.besidesCaches = s.besidesCaches) :
    (((t.homeFill h a x data).setAgentState a x st).setView h a x v).besidesCaches = s.besidesCaches ∧
      (t.HasWay a (agentLine a x) → (((t.homeFill h a x data).setAgentState a x st).setView h a x v).agentState a x = st) := by
  have hfill : CohFrame a (agentLine a x) t (t.homeFill h a x data) := CohFrame.homeFill t h a x data
  refine ⟨?_, fun hway => ?_⟩
  · rw [State.besidesCaches_setView, State.besidesCaches_setAgentState, hfill.rest, hrest]
  · rw [State.agentState_setView]
    exact (hfill.way hway).agentState hst

/-- A shared read leaves its agent the sector as E or S. -/
theorem State.serveReadShared_spec (s : State) (h a x : Nat) (stream : Bool) :
    (s.serveReadShared h a x stream).besidesCaches = s.besidesCaches ∧
      ((s.cacheSet a (agentSet a (agentLine a x))).ways.wf = true →
        (s.serveReadShared h a x stream).agentState a x = .e ∨ (s.serveReadShared h a x stream).agentState a x = .s) := by
  obtain ⟨hrest, hroom⟩ := s.cacheRoom_spec a (agentLine a x) stream
  have hshared (t : State) (o : Option Nat) : (∀ b, o = some b → b ≠ a) → CohFrame a (agentLine a x) t (match o with
      | some b => t.snoopShared h b x
      | none => t) := by
    intro ho
    cases o with
    | some b => exact CohFrame.snoopShared t h fun he => absurd he (ho b rfl)
    | none => exact CohFrame.refl t
  have hother (t : State) (b : Nat) (hb : t.listedOwner h x (some a) = some b) : b ≠ a := by
    unfold State.listedOwner at hb
    have := List.find?_some hb
    simp only [Bool.and_eq_true, decide_eq_true_eq] at this
    exact fun he => this.1 (by rw [he])
  have hgrant (t : State) (ht : CohFrame a (agentLine a x) (s.cacheRoom a (agentLine a x) stream) t) (d free : Bool) :
      (((t.homeFill h a x d).setAgentState a x (if free then .e else .s)).setView h a x (if free then .owner else .s)).besidesCaches =
          s.besidesCaches ∧ ((s.cacheSet a (agentSet a (agentLine a x))).ways.wf = true →
        (((t.homeFill h a x d).setAgentState a x (if free then .e else .s)).setView h a x (if free then .owner else .s)).agentState a x =
            .e ∨
          (((t.homeFill h a x d).setAgentState a x (if free then .e else .s)).setView h a x
            (if free then .owner else .s)).agentState a x = .s) := by
    obtain ⟨h₁, h₂⟩ := State.grant_spec h a x d (if free then .owner else .s) (st := if free then .e else .s)
      (by cases free <;> decide) (ht.rest.trans hrest)
    refine ⟨h₁, fun hwf => ?_⟩
    rw [h₂ (ht.way (hroom hwf))]
    cases free
    · exact .inr rfl
    · exact .inl rfl
  have hmirror := CohFrame.mirrorRoom (s.cacheRoom a (agentLine a x) stream) h (a := a) (line := agentLine a x)
  unfold State.serveReadShared
  dsimp only
  generalize (s.cacheRoom a (agentLine a x) stream).mirrorRoom h a (agentLine a x) = t at hmirror ⊢
  exact hgrant _ (hmirror.trans (hshared t _ (hother t))) _ _

/-- A unique read or an upgrade leaves its agent the sector as M. -/
theorem State.serveUnique_spec (s : State) (h a x : Nat) (data stream : Bool) :
    (s.serveUnique h a x data stream).besidesCaches = s.besidesCaches ∧
      ((s.cacheSet a (agentSet a (agentLine a x))).ways.wf = true → (s.serveUnique h a x data stream).agentState a x = .m) := by
  obtain ⟨hrest, hroom⟩ := s.cacheRoom_spec a (agentLine a x) stream
  have hframe := (CohFrame.mirrorRoom (s.cacheRoom a (agentLine a x) stream) h (a := a) (line := agentLine a x)).trans
    (CohFrame.invalidateHolders _ h x false)
  obtain ⟨h₁, h₂⟩ := State.grant_spec h a x (data && !(((s.cacheRoom a (agentLine a x) stream).mirrorRoom h a
    (agentLine a x)).listedOwner h x (some a)).isSome) .owner (st := .m) (by decide) (hframe.rest.trans hrest)
  exact ⟨h₁, fun hwf => h₂ (hframe.way (hroom hwf))⟩

/-- The state but for the registers, the caches, the coherence of sectors and the free values drawn. -/
def State.besidesCoh (s : State) : State :=
  { s with regs := [], channels := [], srams := [], canvases := [], freeIdx := 0, coh := {} }

theorem State.besidesCoh_of_caches {s t : State} (h : t.besidesCaches = s.besidesCaches) : t.besidesCoh = s.besidesCoh :=
  congrArg (fun u : State => ({ u with coh := {} } : State)) h

theorem State.besidesCoh_coh (s : State) (c : Coherence) : State.besidesCoh { s with coh := c } = s.besidesCoh := rfl

theorem State.besidesCoh_serveOffer (s : State) (c : Nat) (v : Victim) : (s.serveOffer c v).besidesCoh = s.besidesCoh :=
  State.besidesCoh_of_caches (State.besidesCaches_of_tiers (s.besidesTiers_serveOffer c v))

theorem State.besidesCoh_serveCoh (s : State) (h a x : Nat) (k : CohKind) : (s.serveCoh h a x k).besidesCoh = s.besidesCoh := by
  unfold State.serveCoh
  cases k with
  | readShared => exact State.besidesCoh_of_caches (s.serveReadShared_spec h a x false).1
  | readUnique => exact State.besidesCoh_of_caches (s.serveUnique_spec h a x true false).1
  | readUniqueNoData => exact State.besidesCoh_of_caches (s.serveUnique_spec h a x false false).1
  | upgrade => exact State.besidesCoh_of_caches (s.serveUnique_spec h a x _ false).1
  | cleanEvict => exact State.besidesCoh_of_caches (s.besidesCaches_setView h a x _)
  | writeBack =>
    have hview (t : State) : (t.setView h a x .notHeld).besidesCoh = t.besidesCoh :=
      State.besidesCoh_of_caches (t.besidesCaches_setView h a x _)
    refine State.ite_keeps State.besidesCoh rfl (State.ite_keeps State.besidesCoh ?_ ?_)
    · exact (State.besidesCoh_serveOffer _ _ _).trans (State.besidesCoh_of_caches (State.besidesCaches_of_tiers
        (State.besidesTiers_bumpRun _ _ _ _ _)) |>.trans (hview _))
    · exact (State.besidesCoh_of_caches (State.besidesCaches_of_tiers (State.besidesTiers_tierWrite _ _ _))).trans (hview _)

theorem State.besidesCoh_serveWaiting (h x : Nat) : ∀ n s, (State.serveWaiting h x n s).besidesCoh = s.besidesCoh
  | 0, _ => rfl
  | n + 1, s => by
    unfold State.serveWaiting
    dsimp only
    split
    · rfl
    · split
      · rfl
      · rw [State.besidesCoh_serveWaiting h x n]
        refine State.ite_keeps State.besidesCoh ?_ ?_
        · rw [State.besidesCoh_coh, State.besidesCoh_serveCoh, State.besidesCoh_coh]
        · rw [State.besidesCoh_serveCoh, State.besidesCoh_coh]

/-- A sector for which nothing waits has nothing to serve. -/
theorem State.serveWaiting_of_none {s : State} {h x : Nat} (hw : ∀ w ∈ s.coh.waiting, w.sector ≠ x) (n : Nat) :
    State.serveWaiting h x n s = s := by
  cases n with
  | zero => rfl
  | succ n =>
    have hnone : s.coh.waiting.find? (fun w => decide (w.sector = x)) = none :=
      List.find?_eq_none.2 fun w hm he => hw w hm (of_decide_eq_true he)
    unfold State.serveWaiting
    dsimp only
    rw [hnone]
    exact ite_self s

theorem State.serveWaiting_of_busy {s : State} {h x a : Nat} (hb : (x, a) ∈ s.coh.busy) (n : Nat) : State.serveWaiting h x n s = s := by
  cases n with
  | zero => rfl
  | succ n =>
    unfold State.serveWaiting
    exact if_pos (List.any_eq_true.2 ⟨_, hb, decide_eq_true rfl⟩)

theorem State.besidesCoh_cohRequest (s : State) (a x : Nat) (k : CohKind) : (s.cohRequest a x k).besidesCoh = s.besidesCoh := by
  unfold State.cohRequest
  split
  · rfl
  · exact State.ite_keeps State.besidesCoh rfl (State.besidesCoh_serveWaiting _ _ _ _)

-- an agent's request, from its queue to its grant

theorem State.mem_of_besidesCoh {s t : State} (h : t.besidesCoh = s.besidesCoh) : t.mem = s.mem :=
  (congrArg (fun u : State => u.mem) h : t.besidesCoh.mem = s.besidesCoh.mem)

/-- An agent's state of a sector stands in the sets of the caches alone. -/
theorem State.setAgentState_sets (s : State) (a x : Nat) (st : Sector) : ∃ cs sets,
    s.setAgentState a x st = { s with canvases := cs, coh := { s.coh with appSets := sets } } := by
  unfold State.setAgentState State.setCacheSet
  dsimp only
  split
  · exact ⟨s.canvases, s.coh.appSets, rfl⟩
  · split
    · exact ⟨_, s.coh.appSets, rfl⟩
    · exact ⟨s.canvases, _, rfl⟩

/-- The request that is alone for its sector is served and waits for its acknowledgement. -/
theorem State.cohRequest_of_free {s : State} {a x h : Nat} {k : CohKind} (hmay : s.agentMay a x = some h)
    (hhold : s.reclaimHolds h x = false) (hbusy : ∀ b ∈ s.coh.busy, b.1 ≠ x) (hwait : ∀ w ∈ s.coh.waiting, w.sector ≠ x)
    (hk : k.grants = true) : ∃ c : Coherence, c.appSets = s.coh.appSets ∧ c.mirrors = s.coh.mirrors ∧
      let t := State.serveCoh { s with coh := c } h a x k
      s.cohRequest a x k = { t with coh := { t.coh with busy := t.coh.busy ++ [(x, a)] } } := by
  have hnone : (s.coh.waiting.find? fun w => decide (w.sector = x)) = none :=
    List.find?_eq_none.2 fun w hm he => hwait w hm (of_decide_eq_true he)
  have hfind : ((s.coh.waiting ++ [(⟨x, a, k⟩ : CohWait)]).find? fun w => decide (w.sector = x)) = some ⟨x, a, k⟩ := by
    rw [List.find?_append, hnone]
    simp
  have hidle : (s.coh.busy.any fun b => decide (b.1 = x)) = false := by
    rw [List.any_eq_false]
    exact fun b hb he => hbusy b hb (of_decide_eq_true he)
  refine ⟨{ s.coh with waiting := (s.coh.waiting ++ [(⟨x, a, k⟩ : CohWait)]).erase (⟨x, a, k⟩ : CohWait) }, rfl, rfl, ?_⟩
  unfold State.cohRequest
  rw [hmay]
  dsimp only
  refine (if_neg fun he => Bool.false_ne_true (hhold.symm.trans he)).trans ?_
  unfold State.serveWaiting
  dsimp only
  rw [hidle, hfind]
  dsimp only
  rw [if_neg Bool.noConfusion, if_pos hk]
  generalize State.serveCoh _ h a x k = t
  exact State.serveWaiting_of_busy (a := a) (List.mem_append_right _ List.mem_cons_self) _

/-- A request that is granted leaves its agent what serving it gives, and waits for the acknowledgement. -/
theorem State.cohRequest_granted {s : State} {a x h : Nat} {k : CohKind} {P : Sector → Prop} (hmay : s.agentMay a x = some h)
    (hhold : s.reclaimHolds h x = false) (hbusy : ∀ b ∈ s.coh.busy, b.1 ≠ x) (hwait : ∀ w ∈ s.coh.waiting, w.sector ≠ x)
    (hk : k.grants = true) (hwf : (s.cacheSet a (agentSet a (agentLine a x))).ways.wf = true)
    (hserve : ∀ u : State, (u.cacheSet a (agentSet a (agentLine a x))).ways.wf = true → P ((u.serveCoh h a x k).agentState a x)) :
    P ((s.cohRequest a x k).agentState a x) ∧ (x, a) ∈ (s.cohRequest a x k).coh.busy ∧ (s.cohRequest a x k).mem = s.mem := by
  have hmem := State.mem_of_besidesCoh (s.besidesCoh_cohRequest a x k)
  obtain ⟨c, hsets, -, heq⟩ := State.cohRequest_of_free hmay hhold hbusy hwait hk
  have hset : ∀ set, State.cacheSet { s with coh := c } a set = s.cacheSet a set := fun set => by
    unfold State.cacheSet
    dsimp only
    rw [hsets]
  refine ⟨?_, ?_, hmem⟩
  · rw [heq]
    exact hserve _ (by rw [hset]; exact hwf)
  · rw [heq]
    exact List.mem_append_right _ List.mem_cons_self

/-- A writeback whose sector a reclaim holds back waits in its buffer; its agent has let the sector go. -/
theorem execWriteBack_spec {s : State} {a x h : Nat} (hmay : s.agentMay a x = some h)
    (hst : s.agentState a x = .m ∨ s.agentState a x = .o) : ∃ t, execWriteBack a x s = .next t ∧ t.mem = s.mem ∧
      (((s.cacheSet a (agentSet a (agentLine a x))).ways.map (fun e => e.2.line)).Nodup → s.reclaimHolds h x = true →
        t.agentState a x = .i ∧ (a, x, s.agentState a x) ∈ t.coh.writebacks) := by
  have hdirty : (s.agentState a x).dirty = true := by obtain h | h := hst <;> rw [h] <;> rfl
  have hexec : execWriteBack a x s = .next (State.cohRequest { s.setAgentState a x .i with coh := { (s.setAgentState a x .i).coh with
      writebacks := (s.setAgentState a x .i).coh.writebacks ++ [(a, x, s.agentState a x)] } } a x .writeBack) := by
    unfold execWriteBack
    rw [hmay]
    exact if_pos hdirty
  obtain ⟨cs, sets, heq⟩ := s.setAgentState_sets a x .i
  refine ⟨_, hexec, ?_, fun hnodup hhold => ?_⟩
  · rw [heq]
    exact State.mem_of_besidesCoh (State.besidesCoh_cohRequest _ _ _ _)
  · have hnew := State.agentState_setAgentState_i hnodup
    rw [heq] at hnew ⊢
    have hwaits (t : State) (h₁ : t.agentMay a x = some h) (h₂ : t.reclaimHolds h x = true) : t.cohRequest a x .writeBack =
        { t with coh := { t.coh with waiting := t.coh.waiting ++ [⟨x, a, .writeBack⟩] } } := by
      unfold State.cohRequest
      rw [h₁]
      exact if_pos h₂
    rw [hwaits { s with canvases := cs, coh := { s.coh with appSets := sets, writebacks := s.coh.writebacks ++ [(a, x, s.agentState a x)] } }
      hmay hhold]
    exact ⟨hnew, List.mem_append_right _ List.mem_cons_self⟩

/-- The bytes of a line lie in one region of memory. -/
theorem State.region_of_line (s : State) {y z : Nat} (hy : y % 128 = 0) (hle : y ≤ z) (hlt : z < y + 128) :
    (s.paKind y).region? = (s.paKind z).region? := by
  unfold State.paKind
  by_cases h1 : z < 0x018000000000
  · rw [if_pos h1, if_pos (by omega)]
    exact congrArg some (by omega)
  rw [if_neg h1, if_neg (by omega)]
  by_cases h2 : z < 0x020000000000
  · rw [if_pos h2, if_pos (by omega)]
  rw [if_neg h2, if_neg (by omega)]
  by_cases h3 : z < 0x040000000000
  · rw [if_pos h3, if_pos (by omega)]
    exact congrArg some (by omega)
  rw [if_neg h3, if_neg (by omega)]
  by_cases h4 : z < 0x080000000000
  · rw [if_pos h4, if_pos (by omega)]
  rw [if_neg h4, if_neg (by omega)]
  by_cases h5 : z < 0x080400000000
  · rw [if_pos h5, if_pos (by omega)]
    dsimp only
    have hr : (y - 0x080000000000) / 0x100000000 = (z - 0x080000000000) / 0x100000000 := by omega
    rw [hr]
    generalize s.rd F.regSramStatusScratchInForce ((z - 0x080000000000) / 0x100000000) = u
    by_cases h6 : z % 0x100000000 < u * 0x4000000
    · rw [if_pos h6, if_pos (by omega)]
      rfl
    · rw [if_neg h6, if_neg (by omega)]
  rw [if_neg h5, if_neg (by omega)]
  by_cases h7 : z < 0x0F0000000000
  · rw [if_pos h7, if_pos (by omega)]
  rw [if_neg h7, if_neg (by omega)]
  by_cases h8 : z < 0x0F0050000000
  · rw [if_pos h8, if_pos (by omega)]
    simp only [PaKind.region?]
  rw [if_neg h8, if_neg (by omega)]
  by_cases h9 : z < 0x100000000000
  · rw [if_pos h9, if_pos (by omega)]
  rw [if_neg h9, if_neg (by omega)]
  by_cases h10 : z < 0x200000000000
  · rw [if_pos h10, if_pos (by omega)]
    simp only [PaKind.region?]
  rw [if_neg h10, if_neg (by omega)]

/-- The sectors of a canvas L2's line have one home. -/
theorem State.homeOf_line (s : State) (x : Nat) : s.homeOf (2 * (x / 2)) = s.homeOf x :=
  s.region_of_line (by omega) (by omega) (by omega)

theorem State.answerState_of_none {s : State} {a x : Nat} (h : ∀ w ∈ s.coh.writebacks, w.1 ≠ a ∨ w.2.1 ≠ x) :
    s.answerState a x = s.agentState a x := by
  have hnone : s.coh.writebacks.find? (fun w => decide (w.1 = a ∧ w.2.1 = x)) = none :=
    List.find?_eq_none.2 fun w hm he => by
      obtain ⟨h1, h2⟩ := of_decide_eq_true he
      obtain hw | hw := h w hm
      · exact hw h1
      · exact hw h2
  unfold State.answerState
  rw [hnone]

/-- The answer to SnoopShared: M becomes O and E becomes S. -/
theorem State.snoopShared_spec {s : State} {a x : Nat} (h : Nat) (hback : ∀ w ∈ s.coh.writebacks, w.1 ≠ a ∨ w.2.1 ≠ x)
    (p : Sector × Sector) (hp : p ∈ [(Sector.m, Sector.o), (.o, .o), (.e, .s), (.s, .s), (.i, .i)]) (hst : s.agentState a x = p.1) :
    (s.snoopShared h a x).agentState a x = p.2 ∧ (s.snoopShared h a x).mem = s.mem := by
  refine ⟨?_, State.mem_of_besidesCoh (State.besidesCoh_of_caches (CohFrame.snoopShared (a := a + 1) (line := 0) s h (by omega)).rest)⟩
  have hcount := s.besidesTiers_cohCount F.regCohSnoopsCount h
  have hset := State.cacheSet_of_tiers hcount a (agentSet a (agentLine a x))
  have hstate : (s.cohCount F.regCohSnoopsCount h).agentState a x = p.1 := (State.agentState_congr hset).trans hst
  have hback' : ∀ w ∈ (s.cohCount F.regCohSnoopsCount h).coh.writebacks, w.1 ≠ a ∨ w.2.1 ≠ x := by
    have hcoh : (s.cohCount F.regCohSnoopsCount h).coh = s.coh :=
      congrArg (fun u : State × (Nat → Nat → CacheSet) => u.1.coh) hcount
    rw [hcoh]
    exact hback
  unfold State.snoopShared
  dsimp only
  generalize s.cohCount F.regCohSnoopsCount h = u at hstate hback' ⊢
  rw [State.answerState_of_none hback', hstate]
  have hvalid (hne : p.1 ≠ .i) := State.find_of_agentState (s := u) (a := a) (x := x) (by rw [hstate]; exact hne)
  simp only [List.mem_cons, List.not_mem_nil, or_false] at hp
  obtain rfl | rfl | rfl | rfl | rfl := hp
  · obtain ⟨w, hw⟩ := hvalid (by decide)
    exact (State.agentState_setView _ _ _ _ _ _ _).trans (State.agentState_setAgentState (by decide) hw)
  · exact hstate
  · obtain ⟨w, hw⟩ := hvalid (by decide)
    exact (State.agentState_setView _ _ _ _ _ _ _).trans (State.agentState_setAgentState (by decide) hw)
  · exact (State.agentState_setView _ _ _ _ _ _ _).trans hstate
  · exact (State.agentState_setView _ _ _ _ _ _ _).trans hstate

/-- The answer to SnoopInvalidate: the agent lets the sector go. -/
theorem State.snoopInvalidate_spec {s : State} {a x : Nat} (h : Nat) (back : Bool)
    (hnodup : ((s.cacheSet a (agentSet a (agentLine a x))).ways.map (fun e => e.2.line)).Nodup) :
    (s.snoopInvalidate h a x back).agentState a x = .i ∧ (s.snoopInvalidate h a x back).mem = s.mem := by
  refine ⟨?_, State.mem_of_besidesCoh (State.besidesCoh_of_caches
    (CohFrame.snoopInvalidate (a := a + 1) (line := 0) s h (by omega) back).rest)⟩
  unfold State.snoopInvalidate
  dsimp only
  rw [State.agentState_setView]
  refine State.agentState_setAgentState_i ?_
  have hout (t : State) (c : Bool) : State.besidesTiers (if c = true then t.dirtyOut a x else t) = t.besidesTiers :=
    State.ite_keeps _ (t.besidesTiers_dirtyOut a x) rfl
  rw [State.cacheSet_of_tiers ((hout _ _).trans (s.besidesTiers_cohCount F.regCohSnoopsCount h))]
  exact hnodup

/-- Settles O47: a request that is alone is served at once; serving it keeps the way of its line, and changes nothing but copies,
listings, and what the tiers' controllers count and hold. -/
theorem coherenceRequests : Obligations.CoherenceRequests := by
  intro s a x h hmay set
  have hhome : s.homeOf x = some h := by
    unfold State.agentMay at hmay
    split at hmay
    · cases hmay
    · next hh =>
      split at hmay
      · cases hmay; exact hh
      · cases hmay
  have hevict (hst : s.agentState a x = .s ∨ s.agentState a x = .e) : exec (.cleanEvict a x) s = .next
      (if (s.setAgentState a x .i).mode = 0 then s.setAgentState a x .i else (s.setAgentState a x .i).cohRequest a x .cleanEvict) := by
    show execCleanEvict a x s = _
    unfold execCleanEvict
    rw [hmay]
    obtain h | h := hst <;> rw [h]
  refine ⟨fun hhold hbusy hwait hwf => ⟨fun i hi hst => ?_, fun hst => ?_, fun hst => ?_⟩, fun hst => ⟨fun hmode => ?_, fun hmode => ?_⟩,
    fun hst => execWriteBack_spec hmay hst, fun hmem hwait => ?_, fun hback => ⟨?_, ?_, ?_⟩, fun hmode => ?_⟩
  · have hserve (k : CohKind) (hk : k = .readUnique ∨ k = .readUniqueNoData) := State.cohRequest_granted (k := k) (P := (· = .m)) hmay hhold
      hbusy hwait (by obtain rfl | rfl := hk <;> rfl) hwf (by
        intro u hu
        obtain rfl | rfl := hk
        · exact (u.serveUnique_spec h a x true false).2 hu
        · exact (u.serveUnique_spec h a x false false).2 hu)
    simp only [List.mem_cons, List.not_mem_nil, or_false] at hi
    obtain rfl | rfl := hi
    · exact ⟨_, congrArg Host.Outcome.next (if_pos hst), hserve _ (.inl rfl)⟩
    · exact ⟨_, congrArg Host.Outcome.next (if_pos hst), hserve _ (.inr rfl)⟩
  · exact ⟨_, congrArg Host.Outcome.next (if_pos hst), State.cohRequest_granted (k := .readShared) (P := fun st => st = .e ∨ st = .s) hmay hhold
      hbusy hwait rfl hwf fun u hu => (u.serveReadShared_spec h a x false).2 hu⟩
  · refine ⟨s.cohRequest a x .upgrade, ?_, State.cohRequest_granted (k := .upgrade) (P := (· = .m)) hmay hhold
      hbusy hwait rfl hwf fun u hu => (u.serveUnique_spec h a x _ false).2 hu⟩
    show execUpgrade a x s = _
    unfold execUpgrade
    split
    · next hm => exact absurd (by rw [hm]; decide) hst
    · next he => exact absurd (by rw [he]; decide) hst
    · rfl
  · obtain ⟨cs, sets, heq⟩ := s.setAgentState_sets a x .i
    rw [hevict hst, heq]
    exact congrArg Host.Outcome.next (if_pos hmode)
  · obtain ⟨cs, sets, heq⟩ := s.setAgentState_sets a x .i
    rw [hevict hst, heq]
    exact congrArg Host.Outcome.next (if_neg hmode)
  · show execGrantAcknowledge a x s = _
    unfold execGrantAcknowledge
    rw [hhome]
    refine (if_pos hmem).trans (congrArg Host.Outcome.next ?_)
    exact State.serveWaiting_of_none (s := { s with coh := { s.coh with busy := s.coh.busy.erase (x, a) } }) hwait _
  · intro p hp hst
    exact ⟨s.snoopShared h a x, by show execSnoopShared a x s = _; unfold execSnoopShared; rw [hmay],
      State.snoopShared_spec h hback p hp hst⟩
  · intro hnodup
    exact ⟨s.snoopInvalidate h a x true, by show execSnoopInvalidate a x s = _; unfold execSnoopInvalidate; rw [hmay],
      State.snoopInvalidate_spec h true hnodup⟩
  · have hcount := s.besidesTiers_cohCount F.regCohSnoopsCount h
    have hstate := State.agentState_congr (x := x) (State.cacheSet_of_tiers hcount a (agentSet a (agentLine a x)))
    have hexec : exec (.snoopPeek a x) s = .next (if ((s.cohCount F.regCohSnoopsCount h).answerState a x).valid then
        s.cohCount F.regCohSnoopsCount h else (s.cohCount F.regCohSnoopsCount h).setView h a x .notHeld) := by
      show execSnoopPeek a x s = _
      unfold execSnoopPeek
      rw [hmay]
    have hmem := State.mem_of_besidesCoh (State.besidesCoh_of_caches (State.besidesCaches_of_tiers hcount))
    refine ⟨_, hexec, ?_⟩
    split
    · exact ⟨hstate, hmem⟩
    · exact ⟨(State.agentState_setView _ _ _ _ _ _ _).trans hstate,
        (State.mem_of_besidesCoh (State.besidesCoh_of_caches (State.besidesCaches_setView _ _ _ _ _))).trans hmem⟩
  · show execSnoopPurge a (agentLine a x) s = _
    unfold execSnoopPurge
    have hline : s.agentMay a (if a < 16 then 2 * agentLine a x else agentLine a x) = some h := by
      unfold agentLine
      by_cases ha : a < 16
      · rw [if_pos ha, if_pos ha, ← hmay]
        unfold State.agentMay
        rw [State.homeOf_line]
      · rw [if_neg ha, if_neg ha]
        exact hmay
    rw [hline]
    exact congrArg Host.Outcome.next (if_pos hmode)

end Sys2Proof.Machine
end

section
/-! PROOFS. The home agent's memory: victims, held writes, requesters without a cache, and the reclaim of a dead agent's lines
(R268, R277, R281 to R283, R297, R309). -/

namespace Sys2Proof.Machine

open Sys2Proof.Claims

-- what non-caching requests leave

/-- What a snoop changes of an agent lies in the copies and listings. -/
theorem State.besidesCaches_snoopInvalidate (s : State) (h a x : Nat) (back : Bool) :
    (s.snoopInvalidate h a x back).besidesCaches = s.besidesCaches :=
  (CohFrame.snoopInvalidate (a := a + 1) (line := 0) s h (by omega) back).rest

theorem State.besidesCaches_snoopShared (s : State) (h a x : Nat) : (s.snoopShared h a x).besidesCaches = s.besidesCaches :=
  (CohFrame.snoopShared (a := a + 1) (line := 0) s h (by omega)).rest

theorem State.besidesCaches_snoopPurge (s : State) (h a l : Nat) : (s.snoopPurge h a l).besidesCaches = s.besidesCaches :=
  (CohFrame.snoopPurge (a := a + 1) (line := 0) s h l (by omega)).rest

theorem State.besidesCaches_invalidateHolders (s : State) (h x : Nat) (except : Option Nat) (back : Bool) :
    (s.invalidateHolders h x except back).besidesCaches = s.besidesCaches := by
  refine State.foldl_keeps State.besidesCaches (fun t a => ?_) _ s
  exact State.ite_keeps State.besidesCaches rfl (State.ite_keeps State.besidesCaches (t.besidesCaches_snoopInvalidate h a x back)
    (State.ite_keeps State.besidesCaches (t.besidesCaches_snoopPurge h a _) rfl))

theorem State.besidesCaches_vcLookup (s : State) (h x : Nat) (take : Bool) : (s.vcLookup h x take).1.besidesCaches = s.besidesCaches :=
  State.besidesCaches_of_tiers (s.besidesTiers_vcLookup h x take)

/-- Blocks that the atomic buffer does not hold are read. -/
theorem State.besidesCaches_readBlocks (s : State) (blocks : List Nat) :
    (blocks.foldl (fun (t : State) b => if t.atomHeld b then t else t.readBurst b) s).besidesCaches = s.besidesCaches :=
  State.foldl_keeps State.besidesCaches
    (fun t b => State.ite_keeps State.besidesCaches rfl (State.besidesCaches_of_tiers (t.besidesTiers_readBurst b))) blocks s

theorem State.besidesCaches_ncRead (s : State) (h x : Nat) (blocks : List Nat) :
    (s.ncRead h x blocks).besidesCaches = s.besidesCaches := by
  have hmiss (t : State) : (if (t.vcLookup h x false).2 = true then (t.vcLookup h x false).1 else
      blocks.foldl (fun (t : State) b => if t.atomHeld b then t else t.readBurst b) (t.vcLookup h x false).1).besidesCaches =
        t.besidesCaches :=
    State.ite_keeps State.besidesCaches (t.besidesCaches_vcLookup h x false)
      ((State.besidesCaches_readBlocks _ blocks).trans (t.besidesCaches_vcLookup h x false))
  have hcount := State.besidesCaches_of_tiers (s.besidesTiers_cohCount F.regCohSnoopsCount h)
  unfold State.ncRead
  split
  · exact State.ite_keeps State.besidesCaches ((State.besidesCaches_vcLookup _ h x false).trans hcount)
      ((hmiss _).trans ((State.besidesCaches_setView _ _ _ _ _).trans hcount))
  · exact hmiss s

theorem State.besidesCaches_ncWrite (s : State) (h x : Nat) (whole : Bool) (blocks : List (Nat × Bool)) :
    (s.ncWrite h x whole blocks).besidesCaches = s.besidesCaches := by
  have hinv := (State.besidesCaches_vcLookup (s.invalidateHolders h x none (!whole)) h x false).trans
    (s.besidesCaches_invalidateHolders h x none (!whole))
  unfold State.ncWrite
  dsimp only
  split
  · exact hinv
  · refine (State.foldl_keeps State.besidesCaches (fun t b => ?_) _ _).trans hinv
    refine State.ite_keeps State.besidesCaches rfl ((State.besidesCaches_of_tiers (State.besidesTiers_writeBurst _ _)).trans ?_)
    exact State.ite_keeps State.besidesCaches rfl (State.besidesCaches_of_tiers (t.besidesTiers_readBurst _))

theorem State.besidesCaches_ncAtomic (s : State) (h b : Nat) : (s.ncAtomic h b).besidesCaches = s.besidesCaches := by
  unfold State.ncAtomic
  dsimp only
  rw [State.besidesCaches_of_tiers (State.besidesTiers_atomUse _ b), State.besidesCaches_vcLookup, State.besidesCaches_invalidateHolders]

theorem State.besidesCaches_ncReadRange (s : State) (a n : Nat) : (s.ncReadRange a n).besidesCaches = s.besidesCaches := by
  have hstep (t : State) (x : Nat) (o : Option Nat) (l : List Nat) : (match o with
      | some h => t.ncRead h x l
      | none => t).besidesCaches = t.besidesCaches := by
    split
    · exact t.besidesCaches_ncRead _ x l
    · rfl
  exact State.foldl_keeps State.besidesCaches (fun t x => hstep t x (t.homeOf x) _) _ s

/-- A non-caching write reaches its blocks, and then writes its bytes. -/
theorem State.ncWriteRange_eq (s : State) (a : Nat) (bs : List Byte) :
    ∃ t : State, t.besidesCaches = s.besidesCaches ∧ s.ncWriteRange a bs = t.writeMem a bs := by
  have hstep (t : State) (x : Nat) (o : Option Nat) (whole : Bool) (l : List (Nat × Bool)) : (match o with
      | some h => t.ncWrite h x whole l
      | none => t).besidesCaches = t.besidesCaches := by
    split
    · exact t.besidesCaches_ncWrite _ x whole l
    · rfl
  exact ⟨_, State.foldl_keeps State.besidesCaches (fun t x => hstep t x (t.homeOf x) _ _) _ s, rfl⟩

theorem State.sameMemory_of_besidesCaches {s t : State} (h : t.besidesCaches = s.besidesCaches) : SameMemory s t :=
  ⟨(congrArg (fun u : State => u.mem) h : t.besidesCaches.mem = s.besidesCaches.mem),
    (congrArg (fun u : State => u.scrambled) h : t.besidesCaches.scrambled = s.besidesCaches.scrambled),
    (congrArg (fun u : State => u.poison) h : t.besidesCaches.poison = s.besidesCaches.poison)⟩

theorem State.stackSts_of_besidesCaches {s t : State} (h : t.besidesCaches = s.besidesCaches) : t.stackSts = s.stackSts :=
  (congrArg (fun u : State => u.stackSts) h : t.besidesCaches.stackSts = s.besidesCaches.stackSts)

/-- A range is poisoned or not whatever the registers and the caches hold. -/
theorem State.poisoned_congr {s t : State} (hp : t.poison = s.poison) (hst : t.stackSts = s.stackSts) (a n : Nat) :
    t.poisoned a n = s.poisoned a n := by
  unfold State.poisoned
  refine congrArg (blocksOf a n).any (funext fun b => ?_)
  unfold State.blockPoisoned State.stackOffline
  rw [hp, hst, s.stack?_paKind t]

-- the commands of the requesters without a cache

theorem nonCachingWrite_spec {s : State} {x off : Nat} {bs : List Byte} (hlen : 0 < bs.length) (hoff : off + bs.length ≤ 64)
    (hhome : (s.homeOf x).isSome = true) (honline : s.rangeOnline (x * 64 + off) bs.length) :
    ∃ t, execNonCachingWrite x off bs s = .next t ∧ t.readBytes (x * 64 + off) bs.length = bs ∧
      ∀ y, y < x * 64 + off ∨ x * 64 + off + bs.length ≤ y → t.readByte y = s.readByte y := by
  obtain ⟨t, hrest, heq⟩ := s.ncWriteRange_eq (x * 64 + off) bs
  have hon : t.rangeOnline (x * 64 + off) bs.length := State.rangeOnline_congr honline (State.stackSts_of_besidesCaches hrest)
  refine ⟨t.writeMem (x * 64 + off) bs, ?_, State.readBytes_writeMem_of_online hon, fun y hy => ?_⟩
  · rw [← heq]
    exact if_pos ⟨hlen, hoff, hhome⟩
  · rw [State.readByte_writeMem_of_online hon, if_neg (by omega)]
    exact (State.sameMemory_of_besidesCaches hrest).readByte y

theorem nonCachingAtomic_spec {s : State} {addr size h : Nat} (op : AtomOp) (d k : Nat) (hhome : s.homeOf (addr / 64) = some h)
    (hsize : size = 4 ∨ size = 8) (halign : addr % size = 0) (hok : s.poisoned addr size = false) :
    ∃ t, execNonCachingAtomic addr op size d k s = .next t ∧
      t.readBytes addr size = leBytes size (op.apply false (8 * size) (leNat (s.readBytes addr size)) (d % 2 ^ (8 * size))
        (k % 2 ^ (8 * size))) ∧ ∀ y, y < addr ∨ addr + size ≤ y → t.readByte y = s.readByte y := by
  have hrest := s.besidesCaches_ncAtomic h (addr / 32)
  have hmem := State.sameMemory_of_besidesCaches hrest
  have hok' : (s.ncAtomic h (addr / 32)).poisoned addr size = false :=
    (State.poisoned_congr hmem.2.2 (State.stackSts_of_besidesCaches hrest) addr size).trans hok
  obtain ⟨hbytes, hother⟩ := State.atomicAt_gives op false d k hok'
  refine ⟨_, ?_, hbytes.trans ?_, fun y hy => (hother y hy).trans (hmem.readByte y)⟩
  · unfold execNonCachingAtomic
    rw [hhome]
    exact if_pos ⟨hsize, halign⟩
  · rw [hmem.readBytes]

-- held writes

theorem State.channels_bumpRun (s : State) (run f : Fld) (n v : Nat) : (s.bumpRun run f n v).channels = s.channels := by
  unfold State.bumpRun
  split <;> rfl

/-- Opening a row changes the rows of its channel alone. -/
theorem State.openRow_channel (s : State) (c b : Nat) :
    ∃ rows, (s.openRow c b).channels = s.channels.set c { s.channels.getD c {} with rows := rows } := by
  have hrow (row : Nat) (o : Option Nat) : (let u : State := match o with
        | some r => if r = row then s else s.stkCount F.stkRowConflictsCount (stackOfChan c) 1
        | none => s
      u).channels = s.channels := by
    cases o with
    | none => rfl
    | some r =>
      dsimp only
      split
      · rfl
      · exact s.channels_bumpRun ..
  refine ⟨(s.channels.getD c {}).rows.set (s.bankRow b).1 (s.bankRow b).2, ?_⟩
  exact congrArg (fun m : NMap Channel => m.set c _) (hrow _ _)

/-- The writes that a controller held leave it, with its bus turned to write. -/
theorem State.drainWrites_spec (s : State) (c : Nat) (h : (s.channels.getD c {}).writes ≠ []) :
    ((s.drainWrites c).channels.getD c {}).writes = [] ∧ ((s.drainWrites c).channels.getD c {}).busWrite = true := by
  have hturn : ((s.turnBus c true).channels.getD c {}).busWrite = true := by
    unfold State.turnBus
    dsimp only
    split
    · next hb => exact hb
    · unfold State.stkCount
      rw [State.channels_bumpRun]
      dsimp only
      rw [NMap.getD_set_self]
  have hfold := State.foldl_keeps (fun t : State => (t.channels.getD c {}).busWrite)
    (f := fun (t : State) (w : Nat × Nat) => (t.openRow c w.1).stkCount F.stkWriteBytesCount (stackOfChan c) 32) (fun t w => by
      obtain ⟨rows, hrows⟩ := t.openRow_channel c w.1
      unfold State.stkCount
      rw [State.channels_bumpRun, hrows, NMap.getD_set_self]) (s.channels.getD c {}).writes (s.turnBus c true)
  unfold State.drainWrites
  dsimp only
  rw [if_neg h]
  dsimp only
  rw [NMap.getD_set_self]
  exact ⟨rfl, hfold.trans hturn⟩

theorem writeBatchTurn_spec {s : State} {chan : Nat} (h : ∃ w ∈ (s.channels.getD chan {}).writes, w.2 + 2000 ≤ s.now) :
    ∃ t, execWriteBatchTurn chan s = .next t ∧ (t.channels.getD chan {}).writes = [] ∧ (t.channels.getD chan {}).busWrite = true ∧
      t.mem = s.mem := by
  obtain ⟨w, hw, hdue⟩ := h
  obtain ⟨hwrites, hbus⟩ := s.drainWrites_spec chan (List.ne_nil_of_mem hw)
  exact ⟨_, if_pos (List.any_eq_true.2 ⟨w, hw, decide_eq_true hdue⟩), hwrites, hbus,
    State.mem_of_besidesCoh (State.besidesCoh_of_caches (State.besidesCaches_of_tiers (s.besidesTiers_drainWrites chan)))⟩

-- the reclaim of a dead agent

/-- The state but for the caches, the poison marks, the registers and the events. -/
def State.besidesReclaim (s : State) : State := { s.besidesCaches with poison := [], events := [] }

theorem State.besidesReclaim_of_caches {s t : State} (h : t.besidesCaches = s.besidesCaches) : t.besidesReclaim = s.besidesReclaim :=
  congrArg (fun u : State => ({ u with poison := [], events := [] } : State)) h

theorem State.besidesReclaim_poison (s : State) (h x : Nat) : (s.reclaimPoison h x).besidesReclaim = s.besidesReclaim := rfl

theorem State.besidesReclaim_ask (h x : Nat) : ∀ l (s : State), (State.reclaimOwner.ask h x l s).besidesReclaim = s.besidesReclaim
  | [], s => s.besidesReclaim_poison h x
  | a :: l, s => by
    have hsnoop := State.besidesReclaim_of_caches (s.besidesCaches_snoopShared h a x)
    unfold State.reclaimOwner.ask
    exact State.ite_keeps State.besidesReclaim
      ((State.besidesReclaim_of_caches (State.besidesCaches_of_tiers (State.besidesTiers_tierWrite _ _ _))).trans hsnoop)
      ((State.besidesReclaim_ask h x l _).trans hsnoop)

theorem State.besidesReclaim_owner (s : State) (h a x : Nat) : (s.reclaimOwner h a x).besidesReclaim = s.besidesReclaim := by
  unfold State.reclaimOwner
  split
  · exact s.besidesReclaim_poison h x
  · exact State.besidesReclaim_ask h x _ s
  · rfl

theorem State.besidesReclaim_hwEvent (s : State) (r code unit ctx loc detail flags : Nat) :
    (s.hwEvent r code unit ctx loc detail flags).besidesReclaim = s.besidesReclaim := by
  obtain ⟨regs, evs, h⟩ := s.hwEvent_only_log r code unit ctx loc detail flags
  rw [h]
  rfl

theorem State.besidesReclaim_at (s : State) (h a : Nat) : (s.reclaimAt h a).besidesReclaim = s.besidesReclaim := by
  have hfold (l granted : List Nat) : (l.foldl (fun (t : State) x =>
      if x ∈ granted then t.reclaimPoison h x else t.reclaimOwner h a x) s).besidesReclaim = s.besidesReclaim :=
    State.foldl_keeps State.besidesReclaim
      (fun t x => State.ite_keeps State.besidesReclaim (t.besidesReclaim_poison h x) (t.besidesReclaim_owner h a x)) l s
  unfold State.reclaimAt
  dsimp only
  rw [State.besidesReclaim_hwEvent]
  exact hfold _ _

/-- Nothing of an agent is left to reclaim, to serve or to acknowledge. -/
structure AgentGone (a : Nat) (c : Coherence) : Prop where
  reclaiming : a ∉ c.reclaiming
  busy : ∀ b ∈ c.busy, b.2 ≠ a
  waiting : ∀ w ∈ c.waiting, w.agent ≠ a
  writebacks : ∀ w ∈ c.writebacks, w.1 ≠ a

theorem AgentGone.of_caches {a : Nat} {s t : State} (h : t.besidesCaches = s.besidesCaches) (hg : AgentGone a s.coh) :
    AgentGone a t.coh := by
  have hcoh : ({ t.coh with appSets := [], mirrors := [] } : Coherence) = { s.coh with appSets := [], mirrors := [] } :=
    (congrArg (fun u : State => u.coh) h : t.besidesCaches.coh = s.besidesCaches.coh)
  simp only [Coherence.mk.injEq] at hcoh
  obtain ⟨-, -, hbusy, hwaiting, -, hreclaiming, hwritebacks⟩ := hcoh
  exact ⟨hreclaiming ▸ hg.reclaiming, hbusy ▸ hg.busy, hwaiting ▸ hg.waiting, hwritebacks ▸ hg.writebacks⟩

theorem AgentGone.serveCoh {a : Nat} {s : State} (h b x : Nat) (k : CohKind) (hg : AgentGone a s.coh) :
    AgentGone a (s.serveCoh h b x k).coh := by
  unfold State.serveCoh
  cases k with
  | readShared => exact .of_caches (s.serveReadShared_spec h b x false).1 hg
  | readUnique => exact .of_caches (s.serveUnique_spec h b x true false).1 hg
  | readUniqueNoData => exact .of_caches (s.serveUnique_spec h b x false false).1 hg
  | upgrade => exact .of_caches (s.serveUnique_spec h b x _ false).1 hg
  | cleanEvict => exact .of_caches (s.besidesCaches_setView h b x _) hg
  | writeBack =>
    dsimp only
    generalize hu : ({ s with coh := { s.coh with
      writebacks := s.coh.writebacks.filter (fun w => !decide (w.1 = b ∧ w.2.1 = x)) } } : State) = u
    have hgu : AgentGone a u.coh := hu ▸ ⟨hg.reclaiming, hg.busy, hg.waiting, fun w hw => hg.writebacks w (List.mem_of_mem_filter hw)⟩
    have hview := u.besidesCaches_setView h b x .notHeld
    refine State.ite_induct (P := fun t => AgentGone a t.coh) hgu (State.ite_induct (P := fun t => AgentGone a t.coh) ?_ ?_)
    · exact .of_caches ((State.besidesCaches_of_tiers (State.besidesTiers_serveOffer _ _ _)).trans
        ((State.besidesCaches_of_tiers (State.besidesTiers_bumpRun _ _ _ _ _)).trans hview)) hgu
    · exact .of_caches ((State.besidesCaches_of_tiers (State.besidesTiers_tierWrite _ _ _)).trans hview) hgu

theorem AgentGone.serveWaiting {a : Nat} (h x : Nat) : ∀ n {s : State}, AgentGone a s.coh →
    AgentGone a (State.serveWaiting h x n s).coh
  | 0, _, hg => hg
  | n + 1, s, hg => by
    unfold State.serveWaiting
    dsimp only
    split
    · exact hg
    · split
      · exact hg
      · next w hfind =>
        have hagent := hg.waiting w (List.mem_of_find?_eq_some hfind)
        refine AgentGone.serveWaiting h x n ?_
        have hserved : AgentGone a (State.serveCoh { s with coh := { s.coh with waiting := s.coh.waiting.erase w } } h w.agent x
            w.kind).coh :=
          AgentGone.serveCoh h _ x _ ⟨hg.reclaiming, hg.busy, fun v hv => hg.waiting v (List.mem_of_mem_erase hv), hg.writebacks⟩
        generalize State.serveCoh { s with coh := { s.coh with waiting := s.coh.waiting.erase w } } h w.agent x w.kind = t at hserved ⊢
        refine State.ite_induct (P := fun t => AgentGone a t.coh) ⟨hserved.reclaiming, fun b hb => ?_, hserved.waiting, hserved.writebacks⟩
          hserved
        rcases List.mem_append.1 hb with hb | hb
        · exact hserved.busy b hb
        · rw [List.mem_singleton.1 hb]
          exact hagent

theorem AgentGone.again {a : Nat} (l : List Nat) {s : State} (hg : AgentGone a s.coh) :
    AgentGone a (l.foldl (fun (t : State) x => match t.homeOf x with
      | some h => if t.reclaimHolds h x then t else State.serveWaiting h x t.coh.waiting.length t
      | none => t) s).coh ∧
    (l.foldl (fun (t : State) x => match t.homeOf x with
      | some h => if t.reclaimHolds h x then t else State.serveWaiting h x t.coh.waiting.length t
      | none => t) s).mem = s.mem := by
  induction l generalizing s with
  | nil => exact ⟨hg, rfl⟩
  | cons x l ih =>
    have hstep : AgentGone a (match s.homeOf x with
        | some h => if s.reclaimHolds h x then s else State.serveWaiting h x s.coh.waiting.length s
        | none => s).coh ∧ (match s.homeOf x with
        | some h => if s.reclaimHolds h x then s else State.serveWaiting h x s.coh.waiting.length s
        | none => s).mem = s.mem := by
      split
      · split
        · exact ⟨hg, rfl⟩
        · exact ⟨hg.serveWaiting _ x _, State.mem_of_besidesCoh (State.besidesCoh_serveWaiting _ x _ s)⟩
      · exact ⟨hg, rfl⟩
    obtain ⟨h₁, h₂⟩ := ih hstep.1
    exact ⟨h₁, h₂.trans hstep.2⟩

/-- A dead agent's requests and copies dropped. -/
def Coherence.without (c : Coherence) (a : Nat) : Coherence :=
  { c with
    reclaiming := c.reclaiming.filter (fun b => decide (b ≠ a))
    busy := c.busy.filter (fun b => decide (b.2 ≠ a))
    waiting := c.waiting.filter (fun w => decide (w.agent ≠ a))
    writebacks := c.writebacks.filter (fun w => decide (w.1 ≠ a))
    appSets := c.appSets.keep (fun k => decide (k / 1024 ≠ a)) }

theorem AgentGone.without (c : Coherence) (a : Nat) : AgentGone a (c.without a) := by
  unfold Coherence.without
  refine ⟨fun h => ?_, fun b h => ?_, fun w h => ?_, fun w h => ?_⟩
  · exact absurd (List.of_mem_filter h) (by simp)
  · exact of_decide_eq_true (List.mem_filter.1 h).2
  · exact of_decide_eq_true (List.mem_filter.1 h).2
  · exact of_decide_eq_true (List.mem_filter.1 h).2

/-- What a reclaim leaves: nothing of the agent, and memory as it was. -/
theorem agentReclaim_spec {s : State} {a : Nat} (h : a ∈ s.coh.reclaiming) : ∃ t, execAgentReclaim a s = .next t ∧
    AgentGone a t.coh ∧ t.mem = s.mem := by
  have hat (l : List Nat) : (l.foldl (fun (t : State) h => t.reclaimAt h a) s).mem = s.mem := by
    have hrest := State.foldl_keeps State.besidesReclaim (f := fun t h => t.reclaimAt h a) (fun t h => t.besidesReclaim_at h a) l s
    exact (congrArg (fun u : State => u.mem) hrest : (State.besidesReclaim _).mem = s.besidesReclaim.mem)
  have hbusy (l : List Nat) (v : Nat) (t : State) (ht : AgentGone a t.coh) :
      AgentGone a (l.foldl (fun (t : State) h => t.wr F.regCohStatusReclaimBusy h v) t).coh ∧
        (l.foldl (fun (t : State) h => t.wr F.regCohStatusReclaimBusy h v) t).mem = t.mem := by
    have hcoh := State.foldl_keeps (fun t : State => t.coh) (f := fun (t : State) h => t.wr F.regCohStatusReclaimBusy h v)
      (fun _ _ => rfl) l t
    exact ⟨hcoh ▸ ht, State.foldl_keeps (fun t : State => t.mem) (f := fun (t : State) h => t.wr F.regCohStatusReclaimBusy h v)
      (fun _ _ => rfl) l t⟩
  unfold execAgentReclaim
  rw [if_pos h]
  dsimp only
  refine ⟨_, rfl, ?_⟩
  refine ⟨(AgentGone.again _ (hbusy _ _ _ ?_).1).1, (AgentGone.again _ (hbusy _ _ _ ?_).1).2.trans ((hbusy _ _ _ ?_).2.trans (hat _))⟩
  all_goals exact AgentGone.without _ a

/-- Settles O48: the home's side of a request changes copies, listings and counters; the bytes themselves are written at once. -/
theorem homeMemory : Obligations.HomeMemory := by
  intro s
  refine ⟨fun canvas v vs h => ?_, fun canvas v r h hd hs => ?_, fun chan h => writeBatchTurn_spec h, fun x => ?_,
    fun x off bs hlen hoff hhome hon => nonCachingWrite_spec hlen hoff hhome hon,
    fun addr op size d k h hhome hsize halign hok => nonCachingAtomic_spec op d k hhome hsize halign hok, fun a h => ?_⟩
  · show execVictimOffer canvas s = _
    unfold execVictimOffer
    dsimp only
    rw [h]
  · unfold State.serveOffer
    rw [h]
    dsimp only
    rw [if_neg (not_not.2 hd), hs]
    exact if_neg (by simp)
  · have hmem := State.sameMemory_of_besidesCaches (s.besidesCaches_ncReadRange (x * 64) 64)
    exact ⟨_, rfl, hmem.1, hmem.2.2⟩
  · obtain ⟨t, hexec, hgone, hmem⟩ := agentReclaim_spec h
    exact ⟨t, hexec, hgone.reclaiming, hgone.busy, hgone.waiting, hgone.writebacks, hmem⟩

end Sys2Proof.Machine
end

section
/-! PROOFS. The stacks' temperatures, the scrubber, the split of region SRAM and the fine path (R272, R273, R277, R280 to R286, R482,
R485). -/

namespace Sys2Proof.Machine

open Sys2Proof.Claims

-- the registers that the tiers' side and the snoops count in

/-- The counters of the channel controllers. -/
def tierRegs : List Reg := [.stkReadBytes, .stkWriteBytes, .stkTurnarounds, .stkRowConflicts]

/-- The counters of the channel controllers, of the home agents' snoops and of the canvas L2s' writebacks. -/
def snoopRegs : List Reg := tierRegs ++ [.regCohSnoops, .l2Writebacks]

theorem RegsBut.foldl {rs : List Reg} {α : Type} {f : State → α → State} (l : List α) (hf : ∀ s, ∀ x ∈ l, RegsBut rs s (f s x)) :
    ∀ s, RegsBut rs s (l.foldl f s) := by
  induction l with
  | nil => exact RegsBut.refl rs
  | cons x l ih =>
    intro s
    exact (hf s x List.mem_cons_self).trans (ih (fun t y hy => hf t y (List.mem_cons_of_mem x hy)) (f s x))

theorem RegsBut.ite {rs : List Reg} {s t u : State} {p : Prop} [Decidable p] (ht : RegsBut rs s t) (hu : RegsBut rs s u) :
    RegsBut rs s (if p then t else u) := by
  split
  · exact ht
  · exact hu

theorem RegsBut.bumpRun {rs : List Reg} (s : State) (run f : Fld) {n : Nat} (v : Nat) (hn : IsReg f.reg n) (hf : f.reg ∈ rs) :
    RegsBut rs s (s.bumpRun run f n v) :=
  RegsBut.ite (RegsBut.wr s f _ 0 hn hf) (RegsBut.refl rs s)

/-- The channel controllers are those of 24 stacks. -/
theorem State.stackOfChan_lt {s : State} {b c : Nat} (h : s.blockChan b = some c) : stackOfChan c < 24 := by
  have hch (o w sids : Nat) : (tierDecode o w sids).channel < 2 ^ w := Nat.mod_lt _ (Nat.two_pow_pos w)
  unfold State.blockChan State.paKind at h
  unfold stackOfChan
  split at h
  · have := hch (b * 32 % 0x6000000000) 7 3
    cases h
    omega
  · split at h
    · cases h
    · split at h
      · have := hch (b * 32 % 0x8000000000) 6 4
        cases h
        omega
      · dsimp only at h
        repeat' split at h
        all_goals cases h

theorem RegsBut.stkCount (s : State) (f : Fld) {k : Nat} (n : Nat) (hf : f.reg ∈ tierRegs) (hk : k < 24) :
    RegsBut tierRegs s (s.stkCount f k n) := by
  refine RegsBut.bumpRun s _ f n (isReg_of_lt ?_) hf
  simp only [tierRegs, List.mem_cons, List.not_mem_nil, or_false] at hf
  obtain h | h | h | h := hf <;> rw [h] <;> exact hk

theorem RegsBut.openRow (s : State) {c : Nat} (b : Nat) (hc : stackOfChan c < 24) : RegsBut tierRegs s (s.openRow c b) := by
  have hrow (row : Nat) (o : Option Nat) : RegsBut tierRegs s (match o with
      | some r => if r = row then s else s.stkCount F.stkRowConflictsCount (stackOfChan c) 1
      | none => s) := by
    cases o with
    | none => exact RegsBut.refl _ s
    | some r => exact RegsBut.ite (RegsBut.refl _ s) (RegsBut.stkCount s F.stkRowConflictsCount 1 (by decide) hc)
  exact (hrow _ _).trans (RegsBut.of_regs_eq rfl)

theorem RegsBut.turnBus (s : State) {c : Nat} (w : Bool) (hc : stackOfChan c < 24) : RegsBut tierRegs s (s.turnBus c w) := by
  unfold State.turnBus
  exact RegsBut.ite (RegsBut.refl _ s) ((RegsBut.of_regs_eq rfl).trans (RegsBut.stkCount _ F.stkTurnaroundsCount 1 (by decide) hc))

theorem RegsBut.drainWrites (s : State) {c : Nat} (hc : stackOfChan c < 24) : RegsBut tierRegs s (s.drainWrites c) := by
  have hfold (l : List (Nat × Nat)) (t : State) : RegsBut tierRegs t (l.foldl (fun (t : State) w =>
      (t.openRow c w.1).stkCount F.stkWriteBytesCount (stackOfChan c) 32) t) :=
    RegsBut.foldl l (fun t w _ => (RegsBut.openRow t w.1 hc).trans (RegsBut.stkCount _ F.stkWriteBytesCount 32 (by decide) hc)) t
  unfold State.drainWrites
  exact RegsBut.ite (RegsBut.refl _ s) (((RegsBut.turnBus s true hc).trans (hfold _ _)).trans (RegsBut.of_regs_eq rfl))

theorem RegsBut.writeBurst (s : State) (b : Nat) : RegsBut tierRegs s (s.writeBurst b) := by
  unfold State.writeBurst
  split
  · exact RegsBut.refl _ s
  · next c hc =>
    refine RegsBut.ite (RegsBut.refl _ s) (RegsBut.ite ?_ (RegsBut.of_regs_eq rfl))
    exact (RegsBut.of_regs_eq rfl).trans (RegsBut.drainWrites _ (State.stackOfChan_lt hc))

theorem RegsBut.atomFlush (s : State) (b : Nat) : RegsBut tierRegs s (s.atomFlush b) := by
  unfold State.atomFlush
  split
  · exact RegsBut.refl _ s
  · exact RegsBut.ite ((RegsBut.of_regs_eq rfl).trans (RegsBut.writeBurst _ b)) (RegsBut.refl _ s)

theorem RegsBut.tierWrite (s : State) (line mask : Nat) : RegsBut tierRegs s (s.tierWrite line mask) :=
  RegsBut.foldl _ (fun t b _ => (RegsBut.atomFlush t b).trans (RegsBut.writeBurst _ b)) s

theorem RegsBut.vcDrop (s : State) (r k : Nat) : RegsBut tierRegs s (s.vcDrop r k) := by
  unfold State.vcDrop
  dsimp only
  split
  · exact RegsBut.refl _ s
  · exact (RegsBut.of_regs_eq rfl).trans (RegsBut.tierWrite _ _ _)

theorem State.regs_setAgentState (s : State) (a x : Nat) (st : Sector) : (s.setAgentState a x st).regs = s.regs := by
  obtain ⟨cs, sets, h⟩ := s.setAgentState_sets a x st
  rw [h]

theorem State.regs_setView (s : State) (h a x : Nat) (v : MirrorView) : (s.setView h a x v).regs = s.regs := by
  unfold State.setView
  dsimp only
  split <;> rfl

/-- A snoop counts at its home, and a writeback at its canvas L2 and its stack. -/
theorem RegsBut.snoopInvalidate (s : State) {h a : Nat} (x : Nat) (back : Bool) (hh : h < 4) (ha : a < 16 → a < 12) :
    RegsBut snoopRegs s (s.snoopInvalidate h a x back) := by
  have hout (t : State) (c : Bool) : RegsBut snoopRegs t (if c = true then t.dirtyOut a x else t) := by
    refine RegsBut.ite ?_ (RegsBut.refl _ t)
    have hl2 : RegsBut snoopRegs t (if a < 16 then t.bumpRun F.l2CountCtlRun F.l2WritebacksCount a else t) := by
      split
      · next h16 => exact RegsBut.bumpRun t _ F.l2WritebacksCount 1 (isReg_of_lt (ha h16)) (by decide)
      · exact RegsBut.refl _ t
    exact hl2.trans ((RegsBut.tierWrite _ _ _).mono (by simp [snoopRegs]))
  have hlast (t : State) : RegsBut snoopRegs t ((t.setAgentState a x .i).setView h a x .notHeld) :=
    RegsBut.of_regs_eq (by rw [State.regs_setView, State.regs_setAgentState])
  exact ((RegsBut.bumpRun s F.regCohCountCtlRun F.regCohSnoopsCount 1 (isReg_of_lt hh) (by decide)).trans (hout _ _)).trans (hlast _)

/-- The canvas L2s of a partition's regions are among the twelve. -/
theorem lt_of_mem_partAgents {mode h a : Nat} (hh : h < 4) (ha : a ∈ partAgents mode (partOfRegion mode h)) : a < 16 → a < 12 := by
  have hreg : ∀ r ∈ partRegions mode (partOfRegion mode h), r < 4 := by
    intro r hr
    have hper : regionsPer mode = 4 ∨ regionsPer mode = 2 ∨ regionsPer mode = 1 := by
      unfold regionsPer partCount
      split
      · exact .inl rfl
      · split
        · exact .inr (.inl rfl)
        · exact .inr (.inr rfl)
    unfold partRegions partOfRegion at hr
    simp only [List.mem_map, List.mem_range] at hr
    obtain ⟨i, hi, rfl⟩ := hr
    obtain hp | hp | hp := hper <;> rw [hp] at hi ⊢ <;> omega
  unfold partAgents at ha
  simp only [List.mem_append, List.mem_flatMap, List.mem_map, List.mem_range, List.mem_cons, List.not_mem_nil, or_false] at ha
  obtain ⟨r, hr, ha⟩ | ⟨r, hr, i, hi, rfl⟩ := ha
  · have := hreg r hr
    omega
  · omega

/-- A recall changes copies, listings and the counters of snoops. -/
theorem State.recallRange_spec (s : State) {h : Nat} (hh : h < 4) (lo hi : Nat) (back : Bool) :
    RegsBut snoopRegs s (s.recallRange h lo hi back) ∧ (s.recallRange h lo hi back).besidesCaches = s.besidesCaches := by
  refine ⟨RegsBut.foldl _ (fun t a ha => RegsBut.foldl _ (fun u x _ => ?_) t) s,
    State.foldl_keeps State.besidesCaches (fun t a => State.foldl_keeps State.besidesCaches (fun u x => ?_) _ t) _ s⟩
  · exact RegsBut.ite (RegsBut.snoopInvalidate u x back hh (lt_of_mem_partAgents hh ha)) (RegsBut.refl _ u)
  · exact State.ite_keeps State.besidesCaches (u.besidesCaches_snoopInvalidate h a x back) rfl

-- the temperature of a stack (R277, R285)

/-- The highest level whose entry temperature is reached. -/
def reachedLevel (d : Int) : Nat := (List.range 7).foldl (fun a l => if l ≠ 0 ∧ levelEntry l ≤ d then l else a) 0

theorem reachedLevel_eq (d : Int) : reachedLevel d = if 105 ≤ d then 6 else if 103 ≤ d then 5 else if 101 ≤ d then 4
    else if 99 ≤ d then 3 else if 97 ≤ d then 2 else if 95 ≤ d then 1 else 0 := by
  unfold reachedLevel levelEntry
  simp [List.range_succ]

theorem throttleLevel_eq (old : Nat) (d : Int) :
    throttleLevel old d = if old ≤ reachedLevel d then reachedLevel d else if d < levelEntry old - 2 then old - 1 else old := rfl

theorem throttleLevel_le {old : Nat} (h : old ≤ 6) (d : Int) : throttleLevel old d ≤ 6 := by
  have hreached : reachedLevel d ≤ 6 := by
    rw [reachedLevel_eq]
    repeat' split
    all_goals omega
  rw [throttleLevel_eq]
  split
  · exact hreached
  · split <;> omega

/-- The level is the highest entered, where it is no lower than the old one. -/
theorem throttleLevel_entered {old l : Nat} {d : Int} (h1 : 1 ≤ l) (h6 : l ≤ 6) (hold : old ≤ l) (hent : 93 + 2 * (l : Int) ≤ d)
    (hnext : l = 6 ∨ d < 93 + 2 * ((l + 1 : Nat) : Int)) : throttleLevel old d = l := by
  have hreached : reachedLevel d = l := by
    rw [reachedLevel_eq]
    obtain rfl | rfl | rfl | rfl | rfl | rfl : l = 1 ∨ l = 2 ∨ l = 3 ∨ l = 4 ∨ l = 5 ∨ l = 6 := by omega
    all_goals
      simp only [Nat.reduceEqDiff, false_or, true_or] at hnext
      repeat' split
      all_goals omega
  rw [throttleLevel_eq, hreached, if_pos hold]

/-- Below an entry temperature its level is not reached. -/
theorem reachedLevel_lt {old : Nat} (h1 : 1 ≤ old) (h6 : old ≤ 6) {d : Int} (hd : d < 93 + 2 * (old : Int)) : reachedLevel d < old := by
  rw [reachedLevel_eq]
  repeat' split
  all_goals omega

theorem throttleLevel_falls {old : Nat} (h1 : 1 ≤ old) (h6 : old ≤ 6) {d : Int} (hd : d < 93 + 2 * (old : Int) - 2) :
    throttleLevel old d = old - 1 := by
  have := reachedLevel_lt h1 h6 (d := d) (by omega)
  rw [throttleLevel_eq, if_neg (by omega)]
  exact if_pos hd

theorem throttleLevel_stays {old : Nat} (h1 : 1 ≤ old) (h6 : old ≤ 6) {d : Int} (hlo : 93 + 2 * (old : Int) - 2 ≤ d)
    (hhi : d < 93 + 2 * (old : Int)) : throttleLevel old d = old := by
  have := reachedLevel_lt h1 h6 hhi
  rw [throttleLevel_eq, if_neg (by omega)]
  exact if_neg (show ¬ d < 93 + 2 * (old : Int) - 2 by omega)

/-- The time at a level is counted, and the rest of the stack's state stays. -/
theorem State.throttleAcc_spec (s : State) {k : Nat} (hk : k < 24) : RegsBut [.stkThrottleNs] s (s.throttleAcc k) ∧ (s.throttleAcc k).mem = s.mem ∧
    (s.throttleAcc k).now = s.now ∧
    ((s.throttleAcc k).stackSts.getD k {}).offline = (s.stackSts.getD k {}).offline := by
  unfold State.throttleAcc
  dsimp only
  split
  · exact ⟨RegsBut.refl _ s, rfl, rfl, rfl⟩
  · refine ⟨(RegsBut.of_regs_eq rfl).trans (RegsBut.bumpRun _ _ F.stkThrottleNsCount _ (isReg_of_lt hk) (by decide)), ?_⟩
    unfold State.stkCount State.bumpRun
    split <;> exact ⟨rfl, rfl, by
      dsimp only [State.bump_stackSts]
      rw [NMap.getD_set_self]⟩

theorem isReg_stkStatus {k : Nat} (h : k < 24) : IsReg .stkStatus k := isReg_of_lt h

/-- The reading stored and the refresh rate chosen, before the level moves. -/
def State.tempStored (s : State) (k temp : Nat) : State :=
  let s : State := (s.wr F.stkStatusTemp k temp).throttleAcc k
  if 85 < toSigned 8 temp then s.wr F.stkStatusRefresh2x k 1 else if toSigned 8 temp < 83 then s.wr F.stkStatusRefresh2x k 0 else s

theorem State.tempStored_spec (s : State) {k : Nat} (hk : k < 24) (temp : Nat) :
    (s.tempStored k temp).rd F.stkStatusTemp k = temp % 256 ∧ (s.tempStored k temp).rd F.stkStatusLevel k = s.rd F.stkStatusLevel k ∧
      (85 < toSigned 8 temp → (s.tempStored k temp).rd F.stkStatusRefresh2x k = 1) ∧
      (toSigned 8 temp < 83 → (s.tempStored k temp).rd F.stkStatusRefresh2x k = 0) ∧
      (s.tempStored k temp).mem = s.mem ∧ (s.tempStored k temp).stackOffline k = s.stackOffline k := by
  have htemp : (s.wr F.stkStatusTemp k temp).rd F.stkStatusTemp k = temp % 256 := State.rd_wr_first s F.stkStatusTemp k temp (by decide)
  have hlevel : (s.wr F.stkStatusTemp k temp).rd F.stkStatusLevel k = s.rd F.stkStatusLevel k :=
    State.rd_wr_disjoint s F.stkStatusTemp F.stkStatusLevel k temp 0 0 rfl (by decide) (by decide)
  obtain ⟨hregs, hmem, -, hoff⟩ := (s.wr F.stkStatusTemp k temp).throttleAcc_spec hk
  unfold State.tempStored
  generalize (s.wr F.stkStatusTemp k temp).throttleAcc k = u at *
  have htemp' := (hregs.rd F.stkStatusTemp (isReg_stkStatus hk) (by decide) 0).trans htemp
  have hlevel' := (hregs.rd F.stkStatusLevel (isReg_stkStatus hk) (by decide) 0).trans hlevel
  have hwr (v : Nat) : (u.wr F.stkStatusRefresh2x k v).rd F.stkStatusTemp k = temp % 256 ∧
      (u.wr F.stkStatusRefresh2x k v).rd F.stkStatusLevel k = s.rd F.stkStatusLevel k :=
    ⟨(State.rd_wr_disjoint u F.stkStatusRefresh2x F.stkStatusTemp k v 0 0 rfl (by decide) (by decide)).trans htemp',
      (State.rd_wr_disjoint u F.stkStatusRefresh2x F.stkStatusLevel k v 0 0 rfl (by decide) (by decide)).trans hlevel'⟩
  dsimp only
  split
  · next h85 =>
    exact ⟨(hwr 1).1, (hwr 1).2, fun _ => State.rd_wr_first u F.stkStatusRefresh2x k 1 (by decide), fun h => by omega, hmem, hoff⟩
  · next h85 =>
    split
    · next h83 =>
      exact ⟨(hwr 0).1, (hwr 0).2, fun h => by omega, fun _ => State.rd_wr_first u F.stkStatusRefresh2x k 0 (by decide), hmem, hoff⟩
    · next h83 => exact ⟨htemp', hlevel', fun h => by omega, fun h => by omega, hmem, hoff⟩

/-- The level's change logged: the rest of the stack's word stays. -/
theorem State.levelMoved_spec (s : State) {k l : Nat} (hk : k < 24) (hl : l ≤ 6) :
    let t := (s.wr F.stkStatusLevel k l).hwEvent (k / 6) 0x4510 (stackUnit k)
    t.rd F.stkStatusLevel k = l ∧ t.rd F.stkStatusTemp k = s.rd F.stkStatusTemp k ∧
      t.rd F.stkStatusRefresh2x k = s.rd F.stkStatusRefresh2x k ∧ t.mem = s.mem := by
  have hregs := RegsBut.hwEvent (s.wr F.stkStatusLevel k l) (show k / 6 < 4 by omega) 0x4510 (stackUnit k) 0xFFFF 0 0 0
  have hk' := isReg_stkStatus hk
  refine ⟨(hregs.rd F.stkStatusLevel hk' (by decide) 0).trans ?_, (hregs.rd F.stkStatusTemp hk' (by decide) 0).trans ?_,
    (hregs.rd F.stkStatusRefresh2x hk' (by decide) 0).trans ?_, (State.hwEvent_mem ..).1⟩
  · exact (State.rd_wr_first s F.stkStatusLevel k l (by decide)).trans (Nat.mod_eq_of_lt (show l < 8 by omega))
  · exact State.rd_wr_disjoint s F.stkStatusLevel F.stkStatusTemp k l 0 0 rfl (by decide) (by decide)
  · exact State.rd_wr_disjoint s F.stkStatusLevel F.stkStatusRefresh2x k l 0 0 rfl (by decide) (by decide)

/-- The stack's times at a level, restarted by a reading. -/
def State.levelTimes (s : State) (k level : Nat) : NMap StackSt :=
  s.stackSts.set k { s.stackSts.getD k {} with
    restrictedSince := if level = 6 then some ((s.stackSts.getD k {}).restrictedSince.getD s.now) else none
    throttledSince := if level = 0 then none else some s.now }

/-- A reading is stored, and moves the level and the refresh rate. -/
theorem stackTempRead_spec {s : State} {k : Nat} (temp : Nat) (hk : k < 24) (hon : s.stackOffline k = false)
    (hold : s.rd F.stkStatusLevel k ≤ 6) : ∃ t, execStackTempRead k temp s = .next t ∧
      t.rd F.stkStatusTemp k = temp % 256 ∧ t.mem = s.mem ∧
      t.rd F.stkStatusLevel k = throttleLevel (s.rd F.stkStatusLevel k) (toSigned 8 temp) ∧
      (85 < toSigned 8 temp → t.rd F.stkStatusRefresh2x k = 1) ∧ (toSigned 8 temp < 83 → t.rd F.stkStatusRefresh2x k = 0) := by
  obtain ⟨htemp, hlevel, hhot, hcool, hmem, hoff⟩ := s.tempStored_spec hk temp
  have hexec : ∃ m, execStackTempRead k temp s = .next
      (if throttleLevel (s.rd F.stkStatusLevel k) (toSigned 8 temp) = s.rd F.stkStatusLevel k then { s.tempStored k temp with stackSts := m }
      else (State.wr { s.tempStored k temp with stackSts := m } F.stkStatusLevel k
        (throttleLevel (s.rd F.stkStatusLevel k) (toSigned 8 temp))).hwEvent (k / 6) 0x4510 (stackUnit k)) := by
    have hnot : ¬ ((s.tempStored k temp).stackSts.getD k {}).offline = true := by
      rw [show ((s.tempStored k temp).stackSts.getD k {}).offline = false from hoff.trans hon]
      exact Bool.noConfusion
    refine ⟨(s.tempStored k temp).levelTimes k (throttleLevel (s.rd F.stkStatusLevel k) (toSigned 8 temp)),
      (if_pos hk).trans ((if_neg hnot).trans ?_)⟩
    rw [← hlevel]
    rfl
  obtain ⟨m, hexec⟩ := hexec
  refine ⟨_, hexec, ?_⟩
  split
  · next hsame => exact ⟨htemp, hmem, hlevel.trans hsame.symm, hhot, hcool⟩
  · obtain ⟨hl, ht, hr, hm⟩ := State.levelMoved_spec { s.tempStored k temp with stackSts := m } hk
      (throttleLevel_le hold (toSigned 8 temp))
    exact ⟨ht.trans htemp, hm.trans hmem, hl, fun h => hr.trans (hhot h), fun h => hr.trans (hcool h)⟩

/-- A stack restricted for 10 s, or at 110 °C, goes offline. -/
theorem stackOffline_spec {s : State} {k : Nat} (hk : k < 24) (hon : s.stackOffline k = false)
    (h : 110 ≤ toSigned 8 (s.rd F.stkStatusTemp k) ∨
      ∃ since, (s.stackSts.getD k {}).restrictedSince = some since ∧ since + 10000000000 ≤ s.now) :
    ∃ t, execStackOffline k s = .next t ∧ t.stackOffline k = true ∧ t.rd F.stkStatusLevel k = 7 ∧ t.mem = s.mem := by
  obtain ⟨-, hmem, -, hoff⟩ := s.throttleAcc_spec hk
  obtain ⟨hdown, hlevel, hmem', -⟩ := State.stackDown_spec (s := s.throttleAcc k) hk (hoff.trans hon)
  refine ⟨_, if_pos ⟨hk, ?_⟩, hdown, hlevel, hmem'.trans hmem⟩
  obtain h | ⟨since, hsince, hlong⟩ := h
  · exact .inr h
  · rw [hsince]
    exact .inl (decide_eq_true hlong)

-- the split of region SRAM (R273)

/-- A change of the split starts: the new share waits, and the share in force stays. -/
theorem State.writeSramCfg_starts {s : State} {q : RegWriteReq} (hreg : q.reg = .regSramCfg) (hn : q.n < 4)
    (hbusy : s.flag F.regSramStatusBusy q.n = false) (hten : q.new F.regSramCfgScratchUnits < 10)
    (hne : q.new F.regSramCfgScratchUnits ≠ s.rd F.regSramStatusScratchInForce q.n) :
    (s.writeSramCfg q).flag F.regSramStatusBusy q.n = true ∧
      (s.writeSramCfg q).rd F.regSramStatusScratchInForce q.n = s.rd F.regSramStatusScratchInForce q.n ∧
      ((s.writeSramCfg q).srams.getD q.n {}).split = some ⟨q.new F.regSramCfgScratchUnits⟩ ∧ (s.writeSramCfg q).mem = s.mem := by
  have hstatus : IsReg .regSramStatus q.n := isReg_of_lt hn
  have hstore : (s.store q).rd F.regSramStatusScratchInForce q.n = s.rd F.regSramStatusScratchInForce q.n := by
    refine OnlyRegs.rd (s.store_onlyRegs (q := q) (by rw [hreg]; exact isReg_of_lt hn)) F.regSramStatusScratchInForce hstatus ?_ 0
    rw [hreg]
    exact fun h => Reg.noConfusion (congrArg Prod.fst (List.mem_singleton.1 h))
  have hmark : ((s.store q).wr F.regSramStatusBusy q.n 1).rd F.regSramStatusBusy q.n = 1 :=
    State.rd_wr_first _ F.regSramStatusBusy q.n 1 (by decide)
  have hshare : ((s.store q).wr F.regSramStatusBusy q.n 1).rd F.regSramStatusScratchInForce q.n =
      s.rd F.regSramStatusScratchInForce q.n :=
    (State.rd_wr_disjoint (s.store q) F.regSramStatusBusy F.regSramStatusScratchInForce q.n 1 0 0 rfl (by decide) (by decide)).trans hstore
  have hframe (u : State) (l : List Nat) (c : Prop) [Decidable c] (lo hi : Nat) :
      let v := l.foldl (fun (t : State) k => t.vcDrop q.n k) u
      RegsBut snoopRegs u (if c then v.recallRange q.n lo hi false else v) ∧
        (if c then v.recallRange q.n lo hi false else v).mem = u.mem := by
    have hregs : RegsBut snoopRegs u (l.foldl (fun (t : State) k => t.vcDrop q.n k) u) :=
      (RegsBut.foldl l (fun t k _ => RegsBut.vcDrop t q.n k) u).mono (by simp [snoopRegs])
    have hmem : (l.foldl (fun (t : State) k => t.vcDrop q.n k) u).mem = u.mem :=
      State.mem_of_besidesCoh (State.besidesCoh_of_caches (State.besidesCaches_of_tiers
        (State.foldl_keeps State.besidesTiers (f := fun (t : State) k => t.vcDrop q.n k) (fun t k => t.besidesTiers_vcDrop q.n k) l u)))
    dsimp only
    split
    · obtain ⟨h₁, h₂⟩ := State.recallRange_spec (l.foldl (fun (t : State) k => t.vcDrop q.n k) u) hn lo hi false
      exact ⟨hregs.trans h₁, (State.mem_of_besidesCoh (State.besidesCoh_of_caches h₂)).trans hmem⟩
    · exact ⟨hregs, hmem⟩
  have hgo : ∃ (l : List Nat) (c : Prop) (lo hi : Nat) (_ : Decidable c), s.writeSramCfg q =
      (let v := l.foldl (fun (t : State) k => t.vcDrop q.n k) ((s.store q).wr F.regSramStatusBusy q.n 1)
      let w : State := if c then v.recallRange q.n lo hi false else v
      { w with srams := w.srams.set q.n { w.srams.getD q.n {} with split := some ⟨q.new F.regSramCfgScratchUnits⟩ } }) := by
    refine ⟨_, _, _, _, _, (if_neg ?_).trans ((if_neg (by omega)).trans (if_neg hne))⟩
    rw [hbusy]
    exact Bool.noConfusion
  obtain ⟨l, c, lo, hi, dec, hgo⟩ := hgo
  obtain ⟨hregs, hmem⟩ := hframe ((s.store q).wr F.regSramStatusBusy q.n 1) l c lo hi
  rw [hgo]
  dsimp only at hregs hmem ⊢
  refine ⟨decide_eq_true ?_, ?_, by rw [NMap.getD_set_self], hmem⟩
  · exact (hregs.rd F.regSramStatusBusy hstatus (by decide) 0).trans hmark
  · exact (hregs.rd F.regSramStatusScratchInForce hstatus (by decide) 0).trans hshare

theorem isReg_scratchGrant {r u : Nat} (hr : r < 4) (hu : u < 9) : IsReg .regGrantScratch (r * 9 + u) :=
  isReg_of_lt (show r * 9 + u < 9 * 4 by omega)

/-- Grants of a region's units taken back. -/
theorem State.reg_clearGrants {r : Nat} (hr : r < 4) (l : List Nat) (hl : ∀ u ∈ l, u < 9) {u : Nat} (hu : u < 9) : ∀ s : State,
    u ∈ l ∨ s.reg .regGrantScratch (r * 9 + u) = Reg.reset .regGrantScratch (r * 9 + u) →
    (l.foldl (fun (t : State) u => t.clearReg .regGrantScratch (r * 9 + u)) s).reg .regGrantScratch (r * 9 + u) =
      Reg.reset .regGrantScratch (r * 9 + u) := by
  induction l with
  | nil => exact fun s h => h.resolve_left List.not_mem_nil
  | cons v l ih =>
    intro s h
    refine ih (fun w hw => hl w (List.mem_cons_of_mem v hw)) (s.clearReg .regGrantScratch (r * 9 + v)) ?_
    by_cases hv : v = u
    · right
      rw [hv]
      exact s.reg_setReg _ _ _
    · refine h.imp (fun hmem => (List.mem_cons.1 hmem).resolve_left fun he => hv he.symm) fun hreset => ?_
      refine (s.reg_setReg_ne _ (isReg_scratchGrant hr (hl v List.mem_cons_self)) (isReg_scratchGrant hr hu) fun he => ?_).trans hreset
      have := congrArg Prod.snd he
      dsimp only at this
      omega

/-- A change of the split ends: its share is in force, and the units in transition are zero. -/
theorem splitChangeDone_spec {s : State} {r : Nat} {x : Split} (hr : r < 4) (hx : (s.srams.getD r {}).split = some x)
    (hx9 : x.target ≤ 9) (hold9 : s.rd F.regSramStatusScratchInForce r ≤ 9) :
    let old := s.rd F.regSramStatusScratchInForce r
    ∃ t, execSplitChangeDone r s = .next t ∧ t.rd F.regSramStatusScratchInForce r = x.target ∧
      t.flag F.regSramStatusBusy r = false ∧ (t.srams.getD r {}).split = none ∧
      (∀ u, x.target ≤ u → u < old → t.reg .regGrantScratch (r * 9 + u) = Reg.reset .regGrantScratch (r * 9 + u)) ∧
      (∀ y, scratchBase r + min old x.target * 0x4000000 ≤ y → y < scratchBase r + max old x.target * 0x4000000 → t.readByte y = 0) ∧
      (∀ y, y < scratchBase r + min old x.target * 0x4000000 ∨ scratchBase r + max old x.target * 0x4000000 ≤ y →
        t.readByte y = s.readByte y) := by
  intro old
  have hexec : execSplitChangeDone r s = .next
      (((((List.range 9).filter (fun u => decide (x.target ≤ u ∧ u < old))).foldl (fun (t : State) u =>
        t.clearReg .regGrantScratch (r * 9 + u)) ({ s.zeroRange (scratchBase r + min old x.target * 0x4000000)
          ((max old x.target - min old x.target) * 0x4000000) with
        srams := (s.zeroRange (scratchBase r + min old x.target * 0x4000000)
          ((max old x.target - min old x.target) * 0x4000000)).srams.set r { s.srams.getD r {} with split := none } } : State)).wr
        F.regSramStatusScratchInForce r x.target).wr F.regSramStatusBusy r 0) := by
    unfold execSplitChangeDone
    dsimp only
    rw [hx]
  refine ⟨_, hexec, ?_⟩
  have hzero (y : Nat) := s.readByte_zeroRange (scratchBase r + min old x.target * 0x4000000)
    ((max old x.target - min old x.target) * 0x4000000) y
  generalize s.zeroRange (scratchBase r + min old x.target * 0x4000000) ((max old x.target - min old x.target) * 0x4000000) = z at *
  generalize hv : ({ z with srams := z.srams.set r { s.srams.getD r {} with split := none } } : State) = v
  have hvsram : v.srams = z.srams.set r { s.srams.getD r {} with split := none } := by rw [← hv]
  have hvread (y : Nat) : v.readByte y = z.readByte y := by rw [← hv]; rfl
  generalize hl : (List.range 9).filter (fun u => decide (x.target ≤ u ∧ u < old)) = l
  have hl9 : ∀ u ∈ l, u < 9 := fun u hu => by
    rw [← hl] at hu
    exact List.mem_range.1 (List.mem_of_mem_filter hu)
  have hgrants {u : Nat} (h1 : x.target ≤ u) (h2 : u < old) := State.reg_clearGrants hr l hl9 (u := u) (by omega) v
    (.inl (by rw [← hl]; simp; omega))
  have hsrams := State.foldl_keeps (fun t : State => t.srams) (f := fun (t : State) u => t.clearReg .regGrantScratch (r * 9 + u))
    (fun _ _ => rfl) l v
  have hread (y : Nat) := State.foldl_keeps (fun t : State => t.readByte y)
    (f := fun (t : State) u => t.clearReg .regGrantScratch (r * 9 + u)) (fun _ _ => rfl) l v
  generalize l.foldl (fun (t : State) u => t.clearReg .regGrantScratch (r * 9 + u)) v = w at *
  have hstatus : IsReg .regSramStatus r := isReg_of_lt hr
  refine ⟨?_, decide_eq_false ?_, ?_, fun u h1 h2 => ?_, fun y h1 h2 => ?_, fun y hy => ?_⟩
  · refine (State.rd_wr_disjoint _ F.regSramStatusBusy F.regSramStatusScratchInForce r 0 0 0 rfl (by decide) (by decide)).trans ?_
    exact (State.rd_wr_first w F.regSramStatusScratchInForce r x.target (by decide)).trans
      (Nat.mod_eq_of_lt (show x.target < 16 by omega))
  · rw [State.rd_wr_first _ F.regSramStatusBusy r 0 (by decide)]
    decide
  · show (w.srams.getD r {}).split = none
    rw [hsrams, hvsram, NMap.getD_set_self]
  · have hg := isReg_scratchGrant hr (u := u) (by omega)
    have hne : (Reg.regSramStatus, r) ≠ (Reg.regGrantScratch, r * 9 + u) := fun h => Reg.noConfusion (congrArg Prod.fst h)
    exact (State.reg_setReg_ne _ _ hstatus hg hne).trans ((State.reg_setReg_ne w _ hstatus hg hne).trans (hgrants h1 h2))
  · exact (hread y).trans ((hvread y).trans ((hzero y).trans (if_pos (by omega))))
  · exact (hread y).trans ((hvread y).trans ((hzero y).trans (if_neg (by omega))))

/-- Settles O49: each command by its own rule; a reading moves one stack's word, a change of the split moves one region's share, and
a fine request goes through the home agent. -/
theorem stacksAndSram : Obligations.StacksAndSram := by
  intro s
  have hscratch {r off addr : Nat} (hkind : s.paKind addr = .scratch r off) (result : ScrubResult) :
      exec (.scrub (24 + r) addr result) s = .next (match result with
        | .clean => s
        | .corrected n => s.hwEvent r 0x8105 (12 + r) 0xFFFF (addr / 32 * 32) n
        | .uncorrectable => (s.markPoison (addr / 32)).hwEvent r 0x8205 (12 + r) 0xFFFF (addr / 32 * 32)) := by
    show execScrub (24 + r) addr result s = _
    unfold execScrub
    dsimp only
    rw [hkind, if_neg (by simp [PaKind.stack?])]
    dsimp only
    rw [if_pos rfl]
    cases result <;> rfl
  refine ⟨fun k temp hk hon hold => ?_, fun k hk hon h => stackOffline_spec hk hon h, fun k addr hk hon => ⟨?_, fun n => ?_, ?_⟩,
    fun r off addr hkind => ⟨?_, fun n => ?_, ?_⟩, fun a q hw hn => ⟨fun h => ?_, fun hbusy hten => ⟨fun heq => ?_, fun hne => ?_⟩⟩,
    fun r x hr hx hx9 hold9 => splitChangeDone_spec hr hx hx9 hold9, fun ctx va u pa hctx => ?_⟩
  · obtain ⟨t, hexec, htemp, hmem, hlevel, hhot, hcool⟩ := stackTempRead_spec temp hk hon hold
    refine ⟨t, hexec, htemp, hmem, fun l h1 h6 hle hent hnext => ?_, fun h1 hd => ?_, fun h1 hlo hhi => ?_, hhot, hcool⟩
    · exact hlevel.trans (throttleLevel_entered h1 h6 hle hent hnext)
    · exact hlevel.trans (throttleLevel_falls h1 hold hd)
    · exact hlevel.trans (throttleLevel_stays h1 hold hlo hhi)
  · exact if_pos ⟨hk, hon⟩
  · refine ⟨_, if_pos ⟨hk, hon⟩, ?_⟩
    obtain ⟨regs, evs, hev⟩ := (s.writeBurst (addr / 32)).hwEvent_only_log (k / 6) 0x0110 (stackUnit k) 0xFFFF (addr / 32 * 32) n 0
    have hmem := State.sameMemory_of_besidesCaches (State.besidesCaches_of_tiers (s.besidesTiers_writeBurst (addr / 32)))
    rw [hev]
    exact ⟨hmem.1, hmem.2.2⟩
  · exact if_pos ⟨hk, hon⟩
  · exact hscratch hkind .clean
  · exact hscratch hkind (.corrected n)
  · exact hscratch hkind .uncorrectable
  · have hgo : s.writeSramCfg q = s.accessError := by
      unfold State.writeSramCfg
      dsimp only
      obtain h | h := h
      · exact if_pos h
      · rw [if_pos h]
        exact ite_self _
    exact (State.onWrite_of_writes _ hw List.mem_cons_self).trans (congrArg Host.Outcome.next hgo)
  · have hgo : s.writeSramCfg q = s.store q := by
      unfold State.writeSramCfg
      dsimp only
      rw [hbusy, if_neg Bool.noConfusion, if_neg (by omega)]
      exact if_pos heq
    refine (State.onWrite_of_writes _ hw List.mem_cons_self).trans (congrArg Host.Outcome.next (hgo.trans ?_))
    unfold State.store
    rw [hw.2]
  · exact ⟨_, State.onWrite_of_writes _ hw List.mem_cons_self, State.writeSramCfg_starts hw.2 hn hbusy hten hne⟩
  · dsimp only
    refine ⟨fun n hn hin hacc => ?_, fun bs hn hin hacc => ?_, fun op size b c h hsize hal hacc hhome => ?_⟩
    · refine Eq.trans (if_pos ⟨hctx, hn, hin, rfl⟩) ?_
      rw [hacc]
    · refine Eq.trans (if_pos ⟨hctx, hn, hin, rfl⟩) ?_
      rw [hacc]
    · have hshape : (decide (size = 4 ∨ size = 8) && decide (va % size = 0)) = true := by
        rw [decide_eq_true hsize, decide_eq_true hal]
        rfl
      have hfit : 0 < size ∧ va / 32 = (va + size - 1) / 32 := by obtain rfl | rfl := hsize <;> omega
      refine Eq.trans (if_pos ⟨hctx, hfit.1, hfit.2, hshape⟩) ?_
      rw [hacc]
      dsimp only
      rw [hhome]

end Sys2Proof.Machine
end

section
/-! PROOFS. The fault rings, their responses, invalidations of translations, and grants (R322, R324, R327, R329, R334, R335, R338). -/

namespace Sys2Proof.Machine

open Sys2Proof.Claims

-- what a write of memory leaves

/-- The state but for memory, its poison marks, the registers and the events. -/
def State.besidesWrite (s : State) : State := { s with mem := [], poison := [], regs := [], events := [] }

theorem State.besidesWrite_hwEvent (s : State) (r code unit ctx loc detail flags : Nat) :
    (s.hwEvent r code unit ctx loc detail flags).besidesWrite = s.besidesWrite := by
  obtain ⟨regs, evs, h⟩ := s.hwEvent_only_log r code unit ctx loc detail flags
  rw [h]
  rfl

/-- The stacks are 24. -/
theorem State.stack_lt {s : State} {a k : Nat} (h : (s.paKind a).stack? = some k) : k < 24 := by
  have hch (o w sids : Nat) : (tierDecode o w sids).channel < 2 ^ w := Nat.mod_lt _ (Nat.two_pow_pos w)
  unfold State.paKind at h
  split at h
  · have := hch (a % 0x6000000000) 7 3
    cases h
    omega
  · split at h
    · cases h
    · split at h
      · have := hch (a % 0x8000000000) 6 4
        cases h
        omega
      · dsimp only at h
        repeat' split at h
        all_goals cases h

/-- What a write of memory changes: bytes, marks and what is logged of a write at an offline stack. -/
structure WriteFrame (s t : State) : Prop where
  rest : t.besidesWrite = s.besidesWrite
  regs : RegsBut [.regFwEventsLost] s t

namespace WriteFrame

theorem refl (s : State) : WriteFrame s s := ⟨rfl, RegsBut.refl _ s⟩

theorem trans {s t u : State} (h : WriteFrame s t) (h' : WriteFrame t u) : WriteFrame s u :=
  ⟨h'.rest.trans h.rest, h.regs.trans h'.regs⟩

theorem foldl {α : Type} {f : State → α → State} (hf : ∀ s x, WriteFrame s (f s x)) (l : List α) : ∀ s, WriteFrame s (l.foldl f s) := by
  induction l with
  | nil => exact refl
  | cons x l ih => exact fun s => (hf s x).trans (ih (f s x))

theorem ite {s t u : State} {p : Prop} [Decidable p] (ht : WriteFrame s t) (hu : WriteFrame s u) : WriteFrame s (if p then t else u) := by
  split
  · exact ht
  · exact hu

theorem clearPoison (s : State) (b : Nat) : WriteFrame s (s.clearPoison b) := ⟨rfl, RegsBut.of_regs_eq rfl⟩

theorem writeByte (s : State) (a : Nat) (b : Byte) : WriteFrame s (s.writeByte a b) := ⟨rfl, RegsBut.of_regs_eq rfl⟩

theorem hwEvent (s : State) {r : Nat} (hr : r < 4) (code unit ctx loc detail flags : Nat) :
    WriteFrame s (s.hwEvent r code unit ctx loc detail flags) :=
  ⟨s.besidesWrite_hwEvent .., RegsBut.hwEvent s hr code unit ctx loc detail flags⟩

theorem writeMem (s : State) (a : Nat) (bs : List Byte) : WriteFrame s (s.writeMem a bs) := by
  unfold State.writeMem
  dsimp only
  split
  · refine WriteFrame.trans ?_ (foldl (fun t b => ite (clearPoison t b) (refl t)) _ _)
    obtain ⟨m, hm⟩ := s.writeBytes_only_mem bs a
    rw [hm]
    exact ⟨rfl, RegsBut.of_regs_eq rfl⟩
  · refine (foldl (fun t i => ite (refl t) (writeByte t _ _)) _ s).trans ((foldl (fun t b => ite (clearPoison t b) (refl t)) _ _).trans
      (foldl (fun t b => hwEvent t ?_ _ _ _ _ _ _) _ _))
    cases hk : (t.paKind (b * 32)).stack? with
    | none => decide
    | some k =>
      have := State.stack_lt hk
      show k / 6 < 4
      omega

end WriteFrame

-- the fault rings (R334)

/-- The open batch closes: its records are published, and the ring's count rises by them. -/
theorem State.xfrClose_spec (s : State) {r : Nat} (hr : r < 4) :
    ((s.xfrClose r).xfr.getD r {}).opened = none ∧
      ((s.xfrClose r).xfr.getD r {}).recs = (s.xfr.getD r {}).recs.map (fun x =>
        if x.inOpen then { x with inOpen := false, published := true } else x) ∧
      (s.xfrClose r).rd F.regXfrWriteWriteCount r =
        (s.rd F.regXfrWriteWriteCount r + ((s.xfr.getD r {}).recs.filter (fun x => x.inOpen)).length) % 2 ^ 32 := by
  have hbatch (l : List XfrRec) (c : Prop) [Decidable c] : WriteFrame s (if c then l.foldl (fun (t : State) x =>
      t.writeMem (t.rd F.regXfrBaseBase r * 4096 + 64 * (x.seq % t.xfrSize r)) x.bytes) s else s) :=
    WriteFrame.ite (WriteFrame.foldl (fun t x => WriteFrame.writeMem t _ _) l s) (WriteFrame.refl s)
  have hlast (u : State) (a b c d e : Nat) : ∃ l, (u.xfrStatus r).raiseIrq a b c d e = { u.xfrStatus r with sent := l } :=
    State.raiseIrq_only_sent _ a b c d e
  have hcount (u : State) : (u.xfrStatus r).rd F.regXfrWriteWriteCount r = u.rd F.regXfrWriteWriteCount r := by
    have h1 : IsReg .regXfrStatus r := isReg_of_lt hr
    have h2 : IsReg .regXfrWrite r := isReg_of_lt hr
    exact (State.rd_wr_of_reg_ne _ (f := F.regXfrStatusBatchOpen) (g := F.regXfrWriteWriteCount) _ 0 0 h1 h2 (by decide)).trans
      (State.rd_wr_of_reg_ne u (f := F.regXfrStatusOutstanding) (g := F.regXfrWriteWriteCount) _ 0 0 h1 h2 (by decide))
  unfold State.xfrClose
  dsimp only
  have hb := hbatch ((s.xfr.getD r {}).recs.filter (fun x => x.inOpen)) (s.xfrBacked r = true)
  generalize (if s.xfrBacked r = true then _ else s) = u at hb ⊢
  have hold : u.rd F.regXfrWriteWriteCount r = s.rd F.regXfrWriteWriteCount r :=
    hb.regs.rd F.regXfrWriteWriteCount (isReg_of_lt hr) (by decide) 0
  obtain ⟨l, hl⟩ := hlast (State.bump { u with xfr := u.xfr.set r { s.xfr.getD r {} with
      recs := (s.xfr.getD r {}).recs.map (fun x => if x.inOpen then { x with inOpen := false, published := true } else x),
      opened := none } } F.regXfrWriteWriteCount r ((s.xfr.getD r {}).recs.filter (fun x => x.inOpen)).length) _ _ _ _ _
  rw [hl]
  refine ⟨?_, ?_, ?_⟩
  · show (NMap.getD (u.xfr.set r _) r {}).opened = none
    rw [NMap.getD_set_self]
  · show (NMap.getD (u.xfr.set r _) r {}).recs = _
    rw [NMap.getD_set_self]
  · refine (hcount _).trans ((State.rd_bump _ F.regXfrWriteWriteCount r _ (by decide)).trans ?_)
    exact congrArg (fun w => (w + _) % 2 ^ 32) hold

-- responses (R335)

/-- The state but for the queues and the registers. -/
def State.besidesQueues (s : State) : State := { s with queues := [], regs := [] }

theorem State.besidesQueues_setQueue (s : State) (q : Nat) (x : QueueSt) : (s.setQueue q x).besidesQueues = s.besidesQueues := by
  unfold State.setQueue
  exact State.ite_keeps State.besidesQueues rfl rfl

theorem State.besidesQueues_updCmd (s : State) (q seq : Nat) (f : Cmd → Cmd) : (s.updCmd q seq f).besidesQueues = s.besidesQueues :=
  s.besidesQueues_setQueue q _

theorem State.besidesQueues_endCmd (s : State) (q seq st res fault : Nat) : (s.endCmd q seq st res fault).besidesQueues = s.besidesQueues :=
  s.besidesQueues_updCmd q seq _

theorem State.besidesQueues_failCmd (s : State) (q seq st : Nat) : (s.failCmd q seq st).besidesQueues = s.besidesQueues := by
  unfold State.failCmd
  split
  · exact s.besidesQueues_endCmd q seq st _ 0
  · rfl

theorem State.besidesQueues_stopQueue (s : State) (q error : Nat) : (s.stopQueue q error).besidesQueues = s.besidesQueues := by
  unfold State.stopQueue
  exact State.ite_keeps State.besidesQueues rfl rfl

theorem State.besidesQueues_resolveQueue (s : State) (q r n : Nat) (o : XfrOutcome) :
    (s.resolveQueue q r n o).besidesQueues = s.besidesQueues := by
  have hcmd (t : State) (c : Cmd) (fail : Bool) (st : Nat) : State.besidesQueues (if fail = true then
      (t.updCmd q c.seq (fun y => { y with stalled := none })).failCmd q c.seq st
      else t.updCmd q c.seq (fun y => { y with stalled := none })) = t.besidesQueues :=
    State.ite_keeps State.besidesQueues ((State.besidesQueues_failCmd _ q c.seq st).trans (t.besidesQueues_updCmd q c.seq _))
      (t.besidesQueues_updCmd q c.seq _)
  have hfold := State.foldl_keeps State.besidesQueues (fun t c => hcmd t c (decide (o ≠ .retry)) o.status)
    ((s.queue q).cmds.filter (fun (c : Cmd) => decide (c.stalled = some (r, n)))) s
  unfold State.resolveQueue
  dsimp only
  refine State.ite_keeps State.besidesQueues (State.ite_keeps State.besidesQueues ?_ ?_) hfold
  · unfold State.ringFails
    exact (State.besidesQueues_stopQueue _ _ _).trans ((State.besidesQueues_setQueue _ _ _).trans
      ((State.besidesQueues_setQueue _ _ _).trans hfold))
  · exact (State.besidesQueues_setQueue _ _ _).trans hfold

/-- What a response gives a core depends on that core alone. -/
theorem State.resolveCore_congr {s u : State} {c : Nat} (h : u.core c = s.core c) (r n : Nat) (o : XfrOutcome) :
    (u.resolveCore c r n o).core c = (s.resolveCore c r n o).core c := by
  unfold State.resolveCore
  rw [State.core_setCore, State.core_setCore, h]

theorem State.resolveCore_eq_setCore (s : State) (c r n : Nat) (o : XfrOutcome) :
    s.resolveCore c r n o = s.setCore c ((s.resolveCore c r n o).core c) := by
  conv_rhs => unfold State.resolveCore
  rw [State.core_setCore]
  rfl

theorem State.has_setCore_of_has {s : State} {c k : Nat} (x : CoreSt) (hne : k ≠ c) (h : s.cores.has c = true) :
    (s.setCore k x).cores.has c = true := by
  have hget : (NMap.put {} s.cores k x).get? c = s.cores.get? c := by
    unfold NMap.put
    split
    · rw [NMap.get?_del, if_neg hne]
    · rw [NMap.get?_set, if_neg hne]
  unfold NMap.has at h ⊢
  show ((NMap.put {} s.cores k x).get? c).isSome = true
  rw [hget]
  exact h

/-- Each core of a list that is there takes its response once. -/
theorem State.core_resolveCores {s : State} {c : Nat} (r n : Nat) (o : XfrOutcome) (l : List Nat) (hnodup : l.Nodup) (hc : c ∈ l) :
    ∀ u : State, u.core c = s.core c → u.cores.has c = true →
      (l.foldl (fun (t : State) k => if t.cores.has k then t.resolveCore k r n o else t) u).core c = (s.resolveCore c r n o).core c := by
  have hother (l : List Nat) (hl : c ∉ l) (u : State) :
      (l.foldl (fun (t : State) k => if t.cores.has k then t.resolveCore k r n o else t) u).core c = u.core c := by
    induction l generalizing u with
    | nil => rfl
    | cons k l ih =>
      have hk : k ≠ c := fun h => hl (h ▸ List.mem_cons_self)
      refine (ih (fun h => hl (List.mem_cons_of_mem k h)) _).trans ?_
      refine State.ite_keeps (fun t : State => t.core c) ?_ rfl
      rw [State.resolveCore_eq_setCore]
      exact State.core_setCore_ne _ _ hk
  induction l with
  | nil => cases hc
  | cons k l ih =>
    intro u hu hhas
    obtain ⟨hk, hl⟩ := List.nodup_cons.1 hnodup
    by_cases he : k = c
    · subst he
      refine (hother l hk _).trans ((congrArg (fun t : State => t.core k) (if_pos hhas)).trans ?_)
      exact State.resolveCore_congr hu r n o
    · refine ih hl ((List.mem_cons.1 hc).resolve_left fun h => he h.symm) _ ?_ ?_
      · refine Eq.trans (State.ite_keeps (fun t : State => t.core c) ?_ rfl) hu
        rw [State.resolveCore_eq_setCore]
        exact State.core_setCore_ne _ _ he
      · refine State.ite_induct (P := fun t => t.cores.has c = true) ?_ hhas
        rw [State.resolveCore_eq_setCore]
        exact State.has_setCore_of_has _ he hhas

/-- A record leaves its ring. -/
def State.recordGone (s : State) (r n : Nat) : State :=
  State.xfrStatus { s with xfr := s.xfr.set r { s.xfr.getD r {} with recs := (s.xfr.getD r {}).recs.filter (fun x => decide (x.seq ≠ n)) } } r

/-- A record that is answered leaves its ring, and the cores, the queues and the flows of its region take the answer. -/
def State.answerRecord (s : State) (r n : Nat) (o : XfrOutcome) : State :=
  let t : State := ((List.range 288).map (fun i => r * 288 + i)).foldl (fun (t : State) c =>
    if t.cores.has c then t.resolveCore c r n o else t) (s.recordGone r n)
  let t : State := t.queues.keys.foldl (fun (t : State) i => t.resolveQueue i r n o) t
  { t with slots := t.slots.map (fun (e : Nat × JobSlot) => (e.1, e.2.resolve r n o)) }

theorem State.writeXfrRespond_published {s : State} {q : RegWriteReq} {k : Nat} {o : XfrOutcome}
    (hk : q.wrote F.regXfrRespondOutcome = k) (hko : (k, o) ∈ [(1, XfrOutcome.retry), (2, .fail true), (3, .fail false)])
    (hpub : ∃ x ∈ (s.xfr.getD q.n {}).recs, x.seq = q.wrote F.regXfrRespondSeq ∧ x.published = true) :
    s.writeXfrRespond q = s.answerRecord q.n (q.wrote F.regXfrRespondSeq) o := by
  have hany : (s.xfr.getD q.n {}).recs.any (fun x => decide (x.seq = q.wrote F.regXfrRespondSeq) && x.published) = true := by
    obtain ⟨x, hx, hseq, hp⟩ := hpub
    exact List.any_eq_true.2 ⟨x, hx, by rw [decide_eq_true hseq, hp]; rfl⟩
  unfold State.writeXfrRespond
  dsimp only
  rw [hk]
  simp only [List.mem_cons, Prod.mk.injEq, List.not_mem_nil, or_false] at hko
  obtain ⟨rfl, rfl⟩ | ⟨rfl, rfl⟩ | ⟨rfl, rfl⟩ := hko
  · exact if_pos hany
  · exact if_pos hany
  · exact if_pos hany

theorem State.writeXfrRespond_bad {s : State} {q : RegWriteReq} (hk : q.wrote F.regXfrRespondOutcome ≠ 0)
    (hbad : ∀ x ∈ (s.xfr.getD q.n {}).recs, x.seq = q.wrote F.regXfrRespondSeq → x.published = false) :
    s.writeXfrRespond q = s.bumpSat F.regXfrStatusBadResponses q.n := by
  have hany : (s.xfr.getD q.n {}).recs.any (fun x => decide (x.seq = q.wrote F.regXfrRespondSeq) && x.published) = false := by
    rw [List.any_eq_false]
    intro x hx h
    obtain ⟨hseq, hp⟩ := Bool.and_eq_true_iff.1 h
    exact Bool.false_ne_true ((hbad x hx (of_decide_eq_true hseq)).symm.trans hp)
  unfold State.writeXfrRespond
  dsimp only
  rw [hany]
  split
  · next h => exact absurd h hk
  · rfl

theorem State.answerRecord_spec (s : State) (r n : Nat) (o : XfrOutcome) :
    ((s.answerRecord r n o).xfr.getD r {}).recs = (s.xfr.getD r {}).recs.filter (fun x => decide (x.seq ≠ n)) ∧
      (s.answerRecord r n o).mem = s.mem ∧
      ∀ c, r * 288 ≤ c → c < r * 288 + 288 → s.cores.has c = true → (s.answerRecord r n o).core c = (s.resolveCore c r n o).core c := by
  have hqueues (u : State) (l : List Nat) := State.foldl_keeps State.besidesQueues
    (f := fun (t : State) i => t.resolveQueue i r n o) (fun t i => t.besidesQueues_resolveQueue i r n o) l u
  have hcores (l : List Nat) (u : State) : ∃ m, l.foldl (fun (t : State) c => if t.cores.has c then t.resolveCore c r n o else t) u =
      { u with cores := m } := by
    induction l generalizing u with
    | nil => exact ⟨u.cores, rfl⟩
    | cons k l ih =>
      rw [List.foldl_cons]
      split
      · rw [State.resolveCore_eq_setCore]
        exact (ih _).imp fun m hm => hm
      · exact ih u
  have hnodup : ((List.range 288).map (fun i => r * 288 + i)).Nodup :=
    List.Nodup.map (fun _ _ h => Nat.add_left_cancel h) List.nodup_range
  unfold State.answerRecord
  dsimp only
  have hcore {c : Nat} (hlo : r * 288 ≤ c) (hhi : c < r * 288 + 288) (hhas : s.cores.has c = true) :=
    State.core_resolveCores (s := s) (c := c) r n o _ hnodup
      (List.mem_map.2 ⟨c - r * 288, List.mem_range.2 (by omega), by omega⟩) (s.recordGone r n) rfl hhas
  obtain ⟨m, hm⟩ := hcores ((List.range 288).map (fun i => r * 288 + i)) (s.recordGone r n)
  generalize ((List.range 288).map (fun i => r * 288 + i)).foldl (fun (t : State) c =>
    if t.cores.has c then t.resolveCore c r n o else t) (s.recordGone r n) = u at *
  have hu := hqueues u u.queues.keys
  generalize u.queues.keys.foldl (fun (t : State) i => t.resolveQueue i r n o) u = v at *
  have hxfr : v.xfr = u.xfr := (congrArg (fun t : State => t.xfr) hu : v.besidesQueues.xfr = u.besidesQueues.xfr)
  have hmem : v.mem = u.mem := (congrArg (fun t : State => t.mem) hu : v.besidesQueues.mem = u.besidesQueues.mem)
  have hvc : v.cores = u.cores := (congrArg (fun t : State => t.cores) hu : v.besidesQueues.cores = u.besidesQueues.cores)
  refine ⟨?_, ?_, fun c hlo hhi hhas => ?_⟩
  · show (v.xfr.getD r {}).recs = _
    rw [hxfr, hm]
    show (NMap.getD (s.xfr.set r _) r {}).recs = _
    rw [NMap.getD_set_self]
  · show v.mem = s.mem
    rw [hmem, hm]
    rfl
  · refine Eq.trans ?_ (hcore hlo hhi hhas)
    show v.cores.getD c {} = u.cores.getD c {}
    rw [hvc]

-- invalidations (R327, R329)

theorem State.dropTranslations_spec (s : State) (ctx : Nat) : ∀ e ∈ (s.dropTranslations ctx).tlbs, e.1 < 3010 → ∀ x ∈ e.2, x.ctx ≠ ctx := by
  intro e he hlt x hx
  obtain ⟨d, -, rfl⟩ := List.mem_map.1 he
  by_cases hd : d.1 < 3010
  · rw [if_pos hd] at hx
    exact of_decide_eq_true (List.mem_filter.1 hx).2
  · rw [if_neg hd] at hlt
    exact absurd hlt hd

/-- A test of an option that passes where there is none. -/
theorem option_match_of_forall {o : Option Nat} {p : Nat → Bool} : (∀ v ∈ o, p v = true) → (match o with
    | some v => p v
    | none => true) = true := by
  intro h
  cases o with
  | none => rfl
  | some v => exact h v rfl

theorem sfenceBroadcast_spec (s : State) {r : Nat} (ctx : Nat) (va asid : Option Nat) (hr : r < 4) :
    ∃ t, execSfenceBroadcast r ctx va asid s = .next t ∧ { t with tlbs := [] } = { s with tlbs := [] } ∧
      ∀ e ∈ t.tlbs, (∃ k ∈ partRegions s.mode (partOfRegion s.mode r), e.1 = 3010 + k) → ∀ x ∈ e.2,
        ¬((∀ v ∈ va, x.covers x.ctx v = true) ∧ ∀ n ∈ asid, s.rd F.ctxPtCtlAsid x.ctx = n) := by
  refine ⟨_, if_pos hr, rfl, fun e he hk x hx hhit => ?_⟩
  obtain ⟨k, hk, hke⟩ := hk
  obtain ⟨d, -, rfl⟩ := List.mem_map.1 he
  by_cases hd : d.1 ∈ (partRegions s.mode (partOfRegion s.mode r)).map (fun r => 3010 + r)
  · rw [if_pos hd] at hx
    have hnot := (List.mem_filter.1 hx).2
    obtain ⟨hva, hasid⟩ := hhit
    have hva' := option_match_of_forall (p := fun v => x.covers x.ctx v) hva
    have hasid' := option_match_of_forall (p := fun n => decide (s.rd F.ctxPtCtlAsid x.ctx = n)) fun n hn => decide_eq_true (hasid n hn)
    exact Bool.false_ne_true ((congrArg (!·) (Bool.and_eq_true_iff.2 ⟨hva', hasid'⟩)).symm.trans hnot)
  · rw [if_neg hd] at hke
    exact hd (List.mem_map.2 ⟨k, hk, hke.symm⟩)

-- walks (R312 to R317, R338)

/-- What a walk reads: memory and its marks, the stacks, and registers outside a list. -/
structure WalkFrame (rs : List Reg) (s t : State) : Prop where
  memory : SameMemory s t
  offline : t.stackSts = s.stackSts
  regs : RegsBut rs s t
  mode : Reg.devPartCfg ∉ rs
  split : Reg.regSramStatus ∉ rs

namespace WalkFrame

variable {rs : List Reg} {s t : State} (h : WalkFrame rs s t)

include h

theorem mode_eq : t.mode = s.mode := h.regs.rd F.devPartCfgMode (isReg_of_lt (by decide)) h.mode 0

theorem paKind (a : Nat) : t.paKind a = s.paKind a := by
  unfold State.paKind
  by_cases ha : 0x080000000000 ≤ a ∧ a < 0x080400000000
  · have hr : (a - 0x080000000000) / 0x100000000 < 4 := by omega
    have hscratch := h.regs.rd F.regSramStatusScratchInForce (isReg_of_lt (r := .regSramStatus) hr) h.split 0
    dsimp only
    rw [hscratch]
  · by_cases hlo : a < 0x080000000000
    · simp only [hlo, if_true]
    · have hhi : ¬ a < 0x080400000000 := fun hlt => ha ⟨by omega, hlt⟩
      simp only [hhi, if_false]

theorem tableInside (p a : Nat) : t.tableInside p a = s.tableInside p a := by
  unfold State.tableInside
  rw [h.paKind, h.mode_eq]

theorem poisoned (a n : Nat) : t.poisoned a n = s.poisoned a n := State.poisoned_congr h.memory.2.2 h.offline a n

theorem walkCompute (p va level : Nat) : ∀ table, t.walkCompute p va level table = s.walkCompute p va level table := by
  induction level with
  | zero =>
    intro table
    unfold State.walkCompute
    simp only [h.poisoned, h.memory.readBytes, h.tableInside]
  | succ level ih =>
    intro table
    unfold State.walkCompute
    simp only [h.poisoned, h.memory.readBytes, h.tableInside, ih]

theorem walkIo (p va level : Nat) (write : Bool) : ∀ table, t.walkIo p va write level table = s.walkIo p va write level table := by
  induction level with
  | zero =>
    intro table
    unfold State.walkIo
    simp only [h.poisoned, h.memory.readBytes, h.tableInside]
  | succ level ih =>
    intro table
    unfold State.walkIo
    simp only [h.poisoned, h.memory.readBytes, h.tableInside, ih]

theorem walk {ctx : Nat} (hctx : ctx < 4096) (hroot : Reg.ctxPtRoot ∉ rs) (hctl : Reg.ctxPtCtl ∉ rs) (va : Nat) (k : AccKind) :
    t.walk ctx va k = s.walk ctx va k := by
  have h1 := h.regs.rd F.ctxPtRootRoot (isReg_of_lt (r := .ctxPtRoot) hctx) hroot 0
  have h2 := h.regs.rd F.ctxPtCtlFormat (isReg_of_lt (r := .ctxPtCtl) hctx) hctl 0
  unfold State.walk State.flag
  simp only [h.mode_eq, h1, h2, h.tableInside, h.walkIo, h.walkCompute]

end WalkFrame

theorem State.tlbFill_mem (s : State) (key cap : Nat) (e : TlbEntry) (hcap : 0 < cap) :
    e ∈ (s.tlbFill key cap e).tlbs.getD key [] := by
  unfold State.tlbFill
  dsimp only
  rw [NMap.getD_set, if_pos rfl]
  generalize (s.tlbs.getD key []).filter (fun x => !x.covers e.ctx e.vbase) = l
  rw [List.drop_append, List.mem_append]
  right
  rw [List.length_append, List.length_singleton, show l.length + 1 - cap - l.length = 0 by omega]
  exact List.mem_cons_self

theorem TlbEntry.covers_page (e : TlbEntry) {ctx va : Nat} (hctx : e.ctx = ctx) (hbase : e.vbase = va / 2 ^ e.log2 * 2 ^ e.log2) :
    e.covers ctx va = true := by
  unfold TlbEntry.covers
  rw [hbase, decide_eq_true hctx, Bool.true_and, decide_eq_true_eq, Nat.shiftRight_eq_div_pow, Nat.shiftRight_eq_div_pow,
    Nat.mul_div_cancel _ (Nat.two_pow_pos _)]

/-- A prefetch leaves the page's translation in its cluster's cache. -/
theorem streamPrefetch_spec {s : State} {k ctx va : Nat} {l : Leaf} {lv en : Nat} (hk : k < 144) (hctx : ctx < 4096)
    (hva : vaCanonical va = true) (hvalid : s.flag F.ctxPtRootValid ctx = true)
    (hmiss : ∀ e ∈ s.tlbs.getD (2000 + k) [], e.covers ctx va = false) (hwalk : s.walk ctx va .read = .leaf l lv en) :
    ∃ t e, execStreamPrefetch k ctx va s = .next t ∧ e ∈ t.tlbs.getD (2000 + k) [] ∧ e.covers ctx va = true ∧ e.pbase = l.pbase ∧
      e.prefetched = true ∧ t.mem = s.mem := by
  have hany : (s.tlbs.getD (2000 + k) []).any (fun e => e.covers ctx va) = false :=
    List.any_eq_false.2 fun e he => by rw [hmiss e he]; exact Bool.noConfusion
  have hframe : WalkFrame [.xltPrefetchWalks] s (s.bumpRun F.xltCountCtlRun F.xltPrefetchWalksCount k) := by
    refine ⟨?_, ?_, RegsBut.bumpRun s _ F.xltPrefetchWalksCount 1 (isReg_of_lt hk) (by decide), by decide, by decide⟩
    · unfold State.bumpRun
      split
      · exact SameMemory.bump s _ _ _
      · exact SameMemory.refl s
    · unfold State.bumpRun
      split <;> rfl
  have hwalk' := (hframe.walk hctx (by decide) (by decide) va .read).trans hwalk
  refine ⟨(s.bumpRun F.xltCountCtlRun F.xltPrefetchWalksCount k).tlbFill (2000 + k) 4096
    { ctx := ctx, vbase := va / 2 ^ l.log2 * 2 ^ l.log2, log2 := l.log2, pbase := l.pbase, r := l.r, w := l.w, x := l.x,
      prefetched := true }, _, ?_, State.tlbFill_mem _ _ _ _ (by decide), TlbEntry.covers_page _ rfl rfl, rfl, rfl, hframe.memory.1⟩
  unfold execStreamPrefetch
  rw [if_pos ⟨hk, hctx, hva, hvalid⟩, hany, if_neg Bool.noConfusion]
  dsimp only
  rw [hwalk']

-- grants (R322, R324)

theorem State.writeGrant_of_fields {s : State} {q : RegWriteReq} {fm fc ff : Fld} {region pa : Nat}
    (h : grantFields q.reg q.n = some (fm, fc, ff, region, pa)) :
    (partOfCtx s.mode (q.new fc) ≠ partOfRegion s.mode region → s.writeGrant q = s.accessError) ∧
      (partOfCtx s.mode (q.new fc) = partOfRegion s.mode region → s.flag F.ctxMemCryptEnable (q.new fc) = false →
        s.writeGrant q = (if q.wrote ff = 1 then s.recallRange region pa (pa + 0x4000000) true else s).setGrant fm fc q.n pa (q.new fm)
          (q.new fc)) := by
  unfold State.writeGrant
  rw [h]
  refine ⟨fun hne => if_pos hne, fun heq hplain => (if_neg (not_not.2 heq)).trans (if_neg fun hw => ?_)⟩
  rw [hplain] at hw
  exact Bool.false_ne_true hw.2.1

theorem grantFields_reg {r : Reg} {n : Nat} {x : Fld × Fld × Fld × Nat × Nat} (h : grantFields r n = some x) :
    r ∈ [Reg.regGrantNear, .regGrantFar, .regGrantScratch] := by
  unfold grantFields at h
  split at h
  · decide
  · decide
  · decide
  · cases h

/-- The grant check of a context that is not a firmware one. -/
theorem State.grantAdmits_iff {s : State} {pa n c : Nat} {fm fc : Fld} {write : Bool} (h : (s.paKind pa).granule? = some (fm, fc, n))
    (hfw : isFirmwareCtx s.mode c = false) : s.grantAdmits (.ctx c) pa write = true ↔
      s.rd fm n = 3 ∨ (s.rd fm n = 2 ∧ (write = false ∨ s.rd fc n = c)) ∨ (s.rd fm n = 1 ∧ s.rd fc n = c) := by
  unfold State.grantAdmits
  dsimp only
  rw [h]
  dsimp only
  rw [hfw]
  simp only [Bool.false_or, Bool.or_eq_true, Bool.and_eq_true, decide_eq_true_eq, Bool.not_eq_true']
  tauto

/-- Settles O50: a response, an invalidation and a grant act on the ring, the caches or the entry that they name. -/
theorem translationAndGrants : Obligations.TranslationAndGrants := by
  intro s a q
  have hrespond {i : Instr} {k : Nat} {o : XfrOutcome} (hw : Writes s a .regXfrRespond q) (hk : q.wrote F.regXfrRespondOutcome = k)
      (hi : (i, k, o) ∈ [(Instr.xfrRetry a, 1, XfrOutcome.retry), (.xfrFailUnmapped a, 2, .fail true),
        (.xfrFailPermission a, 3, .fail false)]) : exec i s = .next (s.writeXfrRespond q) := by
    have hon (k : Nat) (hk : q.wrote F.regXfrRespondOutcome = k) : s.onRespond a k = .next (s.writeXfrRespond q) :=
      (State.onWrite_of_writes _ hw List.mem_cons_self).trans (congrArg Host.Outcome.next (if_pos hk))
    simp only [List.mem_cons, Prod.mk.injEq, List.not_mem_nil, or_false] at hi
    obtain ⟨rfl, rfl, -⟩ | ⟨rfl, rfl, -⟩ | ⟨rfl, rfl, -⟩ := hi
    · exact hon 1 hk
    · exact hon 2 hk
    · exact hon 3 hk
  have hpt {r : Reg} (hr : r ∈ [Reg.ctxPtRoot, .ctxPtCtl]) (hw : Writes s a r q) : exec (.ctxPtWrite a) s = .next (s.writePt q) :=
    State.onWrite_of_writes _ hw hr
  refine ⟨fun r t hopen hdue hr => ?_, fun hw hn i k o hi hk => ⟨fun hbad => ?_, fun hpub => ?_⟩, fun hw => ?_,
    fun hw hn hgo => ?_, fun n hn => ?_, fun r hr hw => ⟨fun hrun => ?_, fun hidle => ?_⟩,
    fun r ctx va asid hr => sfenceBroadcast_spec s ctx va asid hr, fun r fm fc ff region pa flush i hw hf hff hi => ?_,
    fun pa fm fc n c write hg hfw => State.grantAdmits_iff hg hfw,
    fun k ctx va l lv en hk hctx hva hvalid hmiss hwalk => streamPrefetch_spec hk hctx hva hvalid hmiss hwalk⟩
  · refine ⟨_, ?_, s.xfrClose_spec hr⟩
    show execFaultBatchClose r s = _
    unfold execFaultBatchClose
    rw [hopen]
    exact if_pos hdue
  · have hne : q.wrote F.regXfrRespondOutcome ≠ 0 := by
      rw [hk]
      simp only [List.mem_cons, Prod.mk.injEq, List.not_mem_nil, or_false] at hi
      obtain ⟨-, rfl, -⟩ | ⟨-, rfl, -⟩ | ⟨-, rfl, -⟩ := hi <;> decide
    exact (hrespond hw hk hi).trans (congrArg Host.Outcome.next (State.writeXfrRespond_bad hne hbad))
  · refine ⟨_, hrespond hw hk hi, ?_⟩
    have hko : (k, o) ∈ [(1, XfrOutcome.retry), (2, .fail true), (3, .fail false)] := by
      simp only [List.mem_cons, Prod.mk.injEq, List.not_mem_nil, or_false] at hi ⊢
      tauto
    rw [State.writeXfrRespond_published hk hko hpub]
    exact s.answerRecord_spec q.n (q.wrote F.regXfrRespondSeq) o
  · refine (State.onWrite_of_writes _ hw List.mem_cons_self).trans (congrArg Host.Outcome.next ?_)
    unfold State.writeXfrRead State.xfrSize State.store
    dsimp only
    rw [hw.2]
    split
    · next h => exact (if_neg (by omega)).symm
    · next h => exact (if_pos (by omega)).symm
  · refine ⟨_, State.onWrite_of_writes _ hw List.mem_cons_self, ?_⟩
    unfold State.writeTlbInv
    rw [if_pos hgo]
    exact ⟨State.rd_wr_first _ F.ctxTlbInvBusy q.n 1 (by decide), s.dropTranslations_spec q.n⟩
  · show execTlbInvalidate a true s = _
    unfold execTlbInvalidate
    rw [if_pos rfl, hn]
  · exact (hpt hr hw).trans (congrArg Host.Outcome.next (if_pos hrun))
  · refine ⟨_, (hpt hr hw).trans (congrArg Host.Outcome.next (if_neg hidle)), ?_, State.dropTranslations_spec _ q.n, ?_⟩
    · rw [← hw.2]
      exact s.reg_setReg _ _ _
    · obtain ⟨r', n, -, hreg, -, -, -, rfl⟩ := State.writeGate_go hw.1
      rw [← hw.2]
      exact s.store_onlyRegs (q := s.mergeWrite r' n a) hreg
  · have hgrant := State.writeGrant_of_fields (s := s) (q := q) (by rw [hw.2]; exact hf)
    have hexec : exec i s = .next (s.writeGrant q) := by
      have hgo : grantFields q.reg q.n = some (fm, fc, ff, region, pa) := by rw [hw.2]; exact hf
      have hwrite := State.onWrite_of_writes (s := s) (l := [.regGrantNear, .regGrantFar, .regGrantScratch])
        (fun q => match grantFields q.reg q.n with
          | some (_, _, ff, _, _) => if q.wrote ff = flush then s.writeGrant q else s
          | none => s) hw (grantFields_reg hf)
      rw [hgo] at hwrite
      simp only [List.mem_cons, Prod.mk.injEq, List.not_mem_nil, or_false] at hi
      obtain ⟨rfl, rfl⟩ | ⟨rfl, rfl⟩ := hi
      · exact hwrite.trans (congrArg Host.Outcome.next (if_pos hff))
      · exact hwrite.trans (congrArg Host.Outcome.next (if_pos hff))
    refine ⟨fun hne => hexec.trans (congrArg Host.Outcome.next (hgrant.1 hne)), fun heq hplain => ⟨fun h0 => ?_, fun h1 => ?_⟩⟩
    · refine hexec.trans (congrArg Host.Outcome.next ((hgrant.2 heq hplain).trans ?_))
      rw [if_neg (by omega)]
    · refine hexec.trans (congrArg Host.Outcome.next ((hgrant.2 heq hplain).trans ?_))
      rw [if_pos (by omega)]

end Sys2Proof.Machine
end

section
/-! PROOFS. Frames, priority flow control, the packets of RoCE connections, their timers and the RDMA commands (R379, R380, R382,
R385 to R390, R392). -/

namespace Sys2Proof.Machine

open Sys2Proof.Claims

-- frames (R379, R380, R382)

theorem State.port_setPort (s : State) (b : Nat) (x : PortSt) : (s.setPort b x).port b = x := by
  unfold State.port State.setPort
  dsimp only
  rw [NMap.getD_set_self]

/-- The signalling of a priority sends frames and notes them: no buffer, no register and no byte of memory changes. -/
theorem State.settlePfc_spec (s : State) (b prio : Nat) :
    (s.settlePfc b prio).mem = s.mem ∧ (s.settlePfc b prio).regs = s.regs ∧ ((s.settlePfc b prio).port b).rx = (s.port b).rx := by
  have hsend {β : Type} (q : State → β) (hq : ∀ (t : State) m, q (t.send m) = q t) (l : List Nat) (m : Nat → Sent) (t : State) :
      q (l.foldl (fun (t : State) sub => t.send (m sub)) t) = q t := State.foldl_keeps q (fun t _ => hq t _) l t
  have hport (x : PortSt) (hx : x.rx = (s.port b).rx) (l : List Nat) (m : Nat → Sent) :
      (l.foldl (fun (t : State) sub => t.send (m sub)) (s.setPort b x)).mem = s.mem ∧
        (l.foldl (fun (t : State) sub => t.send (m sub)) (s.setPort b x)).regs = s.regs ∧
        ((l.foldl (fun (t : State) sub => t.send (m sub)) (s.setPort b x)).port b).rx = (s.port b).rx := by
    refine ⟨hsend (fun t => t.mem) (fun _ _ => rfl) l m _, hsend (fun t => t.regs) (fun _ _ => rfl) l m _, ?_⟩
    refine (congrArg PortSt.rx (hsend (fun t => t.port b) (fun _ _ => rfl) l m _)).trans ?_
    rw [State.port_setPort, hx]
  unfold State.settlePfc
  dsimp only
  split
  · exact hport { s.port b with xoff := (s.port b).xoff ++ [prio] } rfl _ (fun sub => .pfc b sub prio true)
  · split
    · exact hport { s.port b with xoff := (s.port b).xoff.filter (fun p => decide (p ≠ prio)) } rfl _ (fun sub => .pfc b sub prio false)
    · exact ⟨rfl, rfl, rfl⟩

section Frames

variable {s : State} {b : Nat} {f : Frame} (hb : b < 8) (hup : s.portUp b f.sub = true) (hsub : f.sub < 2) (hprio : f.prio < 8)
  (hplain : s.macsecOn b f.sub = false)

include hb hup hsub hprio hplain

theorem execFrameReceive_of_plain : execFrameReceive b f s = .next (s.bufferFrame b f) := by
  unfold execFrameReceive
  rw [if_pos ⟨hb, hup, hsub, hprio⟩, hplain]
  rfl

end Frames

section Buffer

variable {s : State} {b : Nat} {f : Frame} (hpkt : ∀ pre ident, f.pkt ≠ .solicit pre ident)

include hpkt

theorem State.bufferFrame_of_full (h : s.pfcPrio b f.prio = false ∨ s.rxShare b < (s.port b).occ f.prio + f.len) :
    s.bufferFrame b f = s.bump F.portRxOverflowCount b := by
  unfold State.bufferFrame
  split
  · next pre ident hp => exact absurd hp (hpkt pre ident)
  · exact if_pos h

/-- A frame that its block has room for is judged by the acceptance checks. -/
theorem State.bufferFrame_of_room (hprio : s.pfcPrio b f.prio = true) (hroom : (s.port b).occ f.prio + f.len ≤ s.rxShare b) :
    (∀ c, s.acceptFrame b f = .drop c → s.bufferFrame b f = s.bump c b) ∧
      (∀ n src, s.acceptFrame b f = .slot n src →
        let r : RxFrame := { part := s.netPart n, slot := n % 4, src := src, prio := f.prio, len := f.len, ce := f.ce, pkt := f.pkt }
        s.bufferFrame b f = (s.setPort b { s.port b with rx := (s.port b).rx ++ [r] }).settlePfc b f.prio) := by
  have hgo : ¬ (s.pfcPrio b f.prio = false ∨ s.rxShare b < (s.port b).occ f.prio + f.len) := by
    rw [hprio]
    simp only [Bool.true_eq_false, false_or]
    omega
  unfold State.bufferFrame
  split
  · next pre ident hp => exact absurd hp (hpkt pre ident)
  · dsimp only
    rw [if_neg hgo]
    refine ⟨fun c hc => ?_, fun n src hs => ?_⟩
    · rw [hc]
    · rw [hs]

end Buffer

/-- What the acceptance checks have found of a frame that is no launch message and goes to a slot. -/
theorem State.acceptFrame_slot {s : State} {b n src : Nat} {f : Frame} (hlaunch : f.pkt.isLaunch = false)
    (h : s.acceptFrame b f = .slot n src) :
    f.ipv6 = true ∧ f.dstPrefix = s.reg .portPrefix (2 * b + f.sub) ∧ 3 ≤ s.slotState n ∧
      s.rd F.netSlotJob n = f.dstId / 2 ^ 40 % 2 ^ 24 ∧ s.rd F.netSlotEpoch n = f.dstId / 2 ^ 24 % 2 ^ 16 ∧
      s.ownRank n = f.dstId % 2 ^ 24 ∧ f.srcId / 2 ^ 24 = f.dstId / 2 ^ 24 ∧ src = f.srcId % 2 ^ 20 ∧
      src < s.rd F.netSlotTableCount n ∧ f.dport = s.udpPort n f.pkt ∧ f.fields = true := by
  unfold State.acceptFrame at h
  dsimp only at h
  split at h
  · cases h
  · next hip =>
    split at h
    · split at h
      · next hlate =>
        split at hlate
        · next q hq =>
          split at hlate
          · next hm =>
            rw [hq] at hlaunch
            unfold NetPkt.isLaunch at hlaunch
            dsimp only at hlaunch
            rw [hm] at hlaunch
            cases hlaunch
          · cases hlate
        · cases hlate
      · cases h
    · next m hfind =>
      have hjob := List.find?_some hfind
      split at h
      · cases h
      · next hepoch =>
        split at h
        · cases h
        · next hown =>
          split at h
          · cases h
          · next hsrc =>
            split at h
            · cases h
            · next hearly =>
              split at h
              · cases h
              · next hfields =>
                cases h
                simp only [not_or, not_le, ne_eq, not_not, Bool.not_eq_true', Bool.not_eq_false, not_and] at hip hepoch hown hsrc hearly hfields
                simp only [Bool.and_eq_true, decide_eq_true_eq] at hjob
                refine ⟨hip.1, hip.2.1, ?_, hjob.2, hepoch, hown.symm, hsrc.1, rfl, hsrc.2.2, hfields.2, hfields.1⟩
                by_contra hlt
                exact absurd ((hearly (by omega)).symm.trans hlaunch) (by decide)

-- priority flow control (R379)

section Pfc

variable {s : State} {b sub prio : Nat} (hb : b < 8) (hsub : sub < 2) (hup : s.portUp b sub = true)
  (hen : s.flag F.portCfgPfcEn b = true) (hprio : prio < 8) (hmask : s.pfcPrio b prio = true)

include hb hsub hup hen hprio hmask

theorem exec_pfcReceive_pause : exec (.pfcReceive b sub prio true) s =
    let others := ((s.port b).paused.getD sub []).filter (fun p => decide (p ≠ prio))
    .next (s.setPort b { s.port b with paused := (s.port b).paused.set sub (others ++ [prio]) }) := by
  show execPfcReceive b sub prio true s = _
  unfold execPfcReceive
  exact if_pos ⟨hb, hsub, hup, hen, hprio, hmask⟩

theorem exec_pfcReceive_resume : exec (.pfcReceive b sub prio false) s =
    .next (((s.port b).held.filter (fun f => decide (f.sub = sub) && decide (f.prio = prio))).foldl
      (fun (t : State) f => t.handOver b f)
      (s.setPort b { s.port b with
        paused := (s.port b).paused.set sub (((s.port b).paused.getD sub []).filter (fun p => decide (p ≠ prio))),
        held := (s.port b).held.filter (fun f => !(decide (f.sub = sub) && decide (f.prio = prio))) })) := by
  show execPfcReceive b sub prio false s = _
  unfold execPfcReceive
  exact if_pos ⟨hb, hsub, hup, hen, hprio, hmask⟩

end Pfc

theorem State.handOver_of_paused {s : State} {b : Nat} {f : TxFrame} (hup : s.portUp b f.sub = true)
    (hp : f.prio ∈ (s.port b).paused.getD f.sub []) :
    s.handOver b f = s.setPort b { s.port b with held := (s.port b).held ++ [f] } := by
  unfold State.handOver
  rw [hup]
  exact if_pos hp

-- timers (R385, R388 to R390)

section Timers

variable {s : State} {part slot rank : Nat} {fletus : Bool} (hp : part < partCount s.mode) (hs : slot < 4)

include hp hs

theorem execRetransmitTimeout_of_due {f : Flow} (hf : f = s.flow (s.netIdx part slot) rank fletus) (hun : f.unacked ≠ [])
    (hrnr : f.rnrUntil = none) (hdue : f.lastSend + s.rtoOf (s.netIdx part slot) f ≤ s.now) :
    execRetransmitTimeout part slot rank fletus s = .next
      (if f.expiries + 1 < 32 then s.expire (s.netIdx part slot) rank fletus
      else if fletus then s.streamUnreachable (s.netIdx part slot) rank else s.connUnreachable (s.netIdx part slot) rank) := by
  subst hf
  unfold execRetransmitTimeout
  exact if_pos ⟨hp, hs, hun, by rw [hrnr]; rfl, hdue⟩

end Timers

-- answers (R388 to R390)

theorem State.echoCe_of_unmarked {s : State} {n : Nat} {x : RxFrame} (h : x.ce = false) : s.echoCe n x = s := by
  unfold State.echoCe
  dsimp only
  rw [if_pos h]

section Answers

variable {s : State} {b psn n : Nat} {x : RxFrame}

/-- A NAK is taken as its kind says, once everything before its packet has been acknowledged. -/
theorem exec_roceNak_of_heads {op : RoceOp} (hop : op ∈ [RoceOp.nakSequence, .nakRnr, .nakAccess true, .nakAccess false, .nakOperation])
    (hx : Heads s b (.roce psn op) x n) : exec (.roceNak b) s = .next ((s.nak n x psn op).dropFrame b x) := by
  show execRoceNak b s = _
  unfold execRoceNak
  have hk : (match NetPkt.roce psn op with
      | .roce _ .nakSequence | .roce _ .nakRnr | .roce _ (.nakAccess _) | .roce _ .nakOperation => true
      | _ => false) = true := by
    simp only [List.mem_cons, List.not_mem_nil, or_false] at hop
    obtain rfl | rfl | rfl | rfl | rfl := hop <;> rfl
  rw [State.onPacket_of_heads _ hx hk, hx.2.1]

variable (hce : x.ce = false)

include hce

theorem exec_roceAcknowledge_of_heads (hx : Heads s b (.roce psn .acknowledge) x n) :
    exec (.roceAcknowledge b) s = .next (((s.ackThrough n x.src psn).pumpFlow n x.src).dropFrame b x) := by
  show execRoceAcknowledge b s = _
  unfold execRoceAcknowledge
  rw [State.onPacket_of_heads _ hx rfl, hx.2.1]
  dsimp only
  rw [State.echoCe_of_unmarked hce]

/-- What each NAK does once everything before its packet has been acknowledged. -/
theorem State.nak_of_unmarked {t : State} (ht : t = s.ackThrough n x.src ((psn + 2 ^ 24 - 1) % 2 ^ 24)) :
    s.nak n x psn .nakSequence = (t.resend n x.src false).pumpFlow n x.src ∧
      s.nak n x psn .nakRnr = t.setFlow n x.src false
        { t.flow n x.src false with rnrUntil := some (t.now + 10000), expiries := 0, rto := none } ∧
      (∀ u, s.nak n x psn (.nakAccess u) = t.failSent n x.src psn (if u then 0x43 else 0x44)) ∧
      s.nak n x psn .nakOperation = t.failSent n x.src psn 0x45 := by
  subst ht
  unfold State.nak
  rw [State.echoCe_of_unmarked hce]
  exact ⟨rfl, rfl, fun _ => rfl, rfl⟩

end Answers

theorem exec_cnp_of_heads {s : State} {b psn n : Nat} {x : RxFrame} (hx : Heads s b (.roce psn .cnp) x n)
    (hcut : (s.flow n x.src false).lastCut = none) : exec (.cnp b) s = .next ((s.setFlow n x.src false
      { s.flow n x.src false with rate := (s.flow n x.src false).rate / 2, lastCut := some s.now, lastRaise := s.now }).dropFrame b x) := by
  show execCnp b s = _
  unfold execCnp
  rw [State.onPacket_of_heads _ hx rfl]
  dsimp only
  unfold Flow.notice
  rw [hcut]
  exact congrArg (fun y : Flow => Host.Outcome.next ((s.setFlow n x.src false y).dropFrame b x)) (if_neg Bool.false_ne_true)

-- request packets (R387, R388)

theorem seqAhead_of_eq {e p : Nat} (h : e % 2 ^ 24 = p) : seqAhead (2 ^ 24) e p = 0 := by
  unfold seqAhead
  omega

section Request

variable {s : State} {n psn : Nat} {x : RxFrame} {op : RoceOp} {f : Flow} (hce : x.ce = false) (hf : f = s.flow n x.src false)
  (hrestart : f.restart = false)

include hce hf hrestart

/-- While a fault record is outstanding every request is answered with an RNR NAK. -/
theorem State.request_of_fault (h : f.fault ≠ none) :
    s.request n x psn op = ((s.setFlow n x.src false f).sendRoce n x.src psn .nakRnr, true) := by
  unfold State.request
  rw [State.echoCe_of_unmarked hce]
  dsimp only
  rw [← hf]
  rw [if_neg (show ¬ (f.restart = true ∧ psn = 0) by rw [hrestart]; exact fun h => Bool.noConfusion h.1)]
  exact if_pos (Option.isSome_iff_ne_none.mpr h)

variable (hfault : f.fault = none)

include hfault

/-- A request in order is performed, and answered as it comes out. -/
theorem State.request_of_next (h : f.expect % 2 ^ 24 = psn) (hfailed : f.failed = none) :
    (∀ t d, (s.setFlow n x.src false f).serve n op = (t, .done d) → s.request n x psn op =
      (((t.journalPacket x).setFlow n x.src false { (t.journalPacket x).flow n x.src false with
        expect := (((t.journalPacket x).flow n x.src false).expect + 1) % 2 ^ 24 }).answerOp n x.src psn op d, true)) ∧
      (∀ t a, (s.setFlow n x.src false f).serve n op = (t, .nak a) → s.request n x psn op = (t.sendRoce n x.src psn a, true)) := by
  unfold State.request
  rw [State.echoCe_of_unmarked hce]
  dsimp only
  rw [← hf]
  rw [if_neg (show ¬ (f.restart = true ∧ psn = 0) by rw [hrestart]; exact fun h => Bool.noConfusion h.1), hfault,
    if_neg (by decide), if_pos (seqAhead_of_eq h), hfailed]
  dsimp only
  refine ⟨fun t d hd => ?_, fun t a ha => ?_⟩
  · rw [hd]
  · rw [ha]

/-- A request past the next one is a sequence error. -/
theorem State.request_of_after (h : 0 < seqAhead (2 ^ 24) f.expect psn) (hlt : seqAhead (2 ^ 24) f.expect psn < 2 ^ 23) :
    s.request n x psn op = ((s.setFlow n x.src false f).sendRoce n x.src f.expect .nakSequence, true) := by
  unfold State.request
  rw [State.echoCe_of_unmarked hce]
  dsimp only
  rw [← hf]
  rw [if_neg (show ¬ (f.restart = true ∧ psn = 0) by rw [hrestart]; exact fun h => Bool.noConfusion h.1), hfault,
    if_neg (by decide), if_neg (by omega), if_pos hlt]

/-- A write before the next request is acknowledged again. -/
theorem State.request_write_of_before {last : Bool} {va : Nat} {d : List Byte} {signal : Option (Nat × Nat)}
    (h : 2 ^ 23 ≤ seqAhead (2 ^ 24) f.expect psn) : s.request n x psn (.write last va d signal) =
      ((s.setFlow n x.src false f).sendRoce n x.src ((f.expect + 2 ^ 24 - 1) % 2 ^ 24) .acknowledge, true) := by
  unfold State.request
  rw [State.echoCe_of_unmarked hce]
  dsimp only
  rw [← hf]
  rw [if_neg (show ¬ (f.restart = true ∧ psn = 0) by rw [hrestart]; exact fun h => Bool.noConfusion h.1), hfault,
    if_neg (by decide), if_neg (by omega), if_neg (by omega)]

end Request

theorem exec_rdmaWritePacket_of_heads {s : State} {b psn n va : Nat} {x : RxFrame} {last : Bool} {d : List Byte}
    {signal : Option (Nat × Nat)} (hx : Heads s b (.roce psn (.write last va d signal)) x n) {t : State}
    (h : s.request n x psn (.write last va d signal) = (t, true)) : exec (.rdmaWritePacket b) s = .next (t.dropFrame b x) := by
  show execRdmaWritePacket b s = _
  unfold execRdmaWritePacket
  rw [State.onPacket_of_heads _ hx rfl, hx.2.1]
  dsimp only
  rw [h]

theorem exec_rdmaReadRequest_of_heads {s : State} {b psn n va len : Nat} {x : RxFrame}
    (hx : Heads s b (.roce psn (.readRequest va len)) x n) {t : State}
    (h : s.request n x psn (.readRequest va len) = (t, true)) : exec (.rdmaReadRequest b) s = .next (t.dropFrame b x) := by
  show execRdmaReadRequest b s = _
  unfold execRdmaReadRequest
  rw [State.onPacket_of_heads _ hx rfl, hx.2.1]
  dsimp only
  rw [h]

/-- A write without a signal is served where its range may be written and is written. -/
theorem State.serve_write {u t v : State} {n va : Nat} {d : List Byte}
    (hprobe : State.probeWrite (u.inEngine n) (pagesOf (pageFuel d.length) va d.length) u = (t, .ok ()))
    (hwrite : t.ctxWrite (t.inEngine n) va d = (v, .ok ())) : u.serve n (.write true va d none) = (v, .done []) := by
  unfold State.serve
  dsimp only
  rw [if_neg (show ¬ (Option.any _ none = true) from Bool.false_ne_true), hprobe]
  dsimp only
  rw [hwrite]

theorem State.serve_readRequest {u t : State} {n va len : Nat} {d : List Byte}
    (h : u.ctxRead (u.inEngine n) va len = (t, .ok d)) : u.serve n (.readRequest va len) = (t, .done d) := by
  unfold State.serve
  dsimp only
  rw [h]
  rfl

-- read responses (R387)

theorem State.workCmd_of_running {s : State} {q cmd k : Nat} {c : Cmd} (h : s.cmd? q cmd = some c) (hr : c.phase = .running) :
    s.workCmd { q := q, cmd := cmd, sent := k } = some c := by
  unfold State.workCmd
  dsimp only
  rw [h]
  exact if_pos (decide_eq_true hr)

/-- The response to the oldest read is written behind what the command has, and the command goes on or, with its last byte, ends. -/
theorem State.readBack_of_written {s u v : State} {n psn va len : Nat} {x : RxFrame} {d : List Byte} {y : SentPkt}
    {rest : List SentPkt} {c : Cmd} (hce : x.ce = false) (hu : u = s.ackThrough n x.src ((psn + 2 ^ 24 - 1) % 2 ^ 24))
    (hy : (u.flow n x.src false).unacked = y :: rest) (hpkt : y.pkt = .roce psn (.readRequest va len)) (hlen : d.length = len)
    (hc : u.cmd? y.q y.cmd = some c) (hrun : c.phase = .running) (hstall : c.stalled = none) (hlo : c.field 0x20 8 ≤ va)
    (hhi : va < c.field 0x20 8 + 2 ^ 40)
    (hv : u.ctxWrite (u.rdmaEngine y.q c.tag) (c.field 0x18 8 + (va - c.field 0x20 8)) d = (v, .ok ())) {w : State}
    (hw : w = ((v.setFlow n x.src false { u.flow n x.src false with unacked := rest, expiries := 0, rto := none, lastSend := v.now }).journalPacket
      x).credit y.q y.cmd len) :
    (va - c.field 0x20 8 + len < c.field 0x28 8 → s.readBack n x psn d = (w.pumpFlow n x.src, true)) ∧
      (c.field 0x28 8 ≤ va - c.field 0x20 8 + len → c.signal = none →
        s.readBack n x psn d = ((w.succeed y.q y.cmd).pumpFlow n x.src, true)) := by
  have hoff : (va + 2 ^ 64 - c.field 0x20 8) % 2 ^ 64 = va - c.field 0x20 8 := by omega
  unfold State.readBack
  rw [State.echoCe_of_unmarked hce]
  dsimp only
  rw [← hu, hy]
  dsimp only
  rw [hpkt]
  dsimp only
  rw [if_neg (show ¬ (psn ≠ psn ∨ d.length ≠ len) from fun h => h.elim (fun h => h rfl) (fun h => h hlen)),
    State.workCmd_of_running hc hrun]
  dsimp only
  rw [hoff, hstall, if_neg (by decide), hv]
  dsimp only
  rw [← hw]
  refine ⟨fun h => ?_, fun h hsig => ?_⟩
  · rw [if_neg (by omega)]
  · rw [if_pos h, hsig]

theorem exec_rdmaReadResponse_of_heads {s : State} {b psn n : Nat} {x : RxFrame} {d : List Byte}
    (hx : Heads s b (.roce psn (.readResponse d)) x n) {t : State} (h : s.readBack n x psn d = (t, true)) :
    exec (.rdmaReadResponse b) s = .next (t.dropFrame b x) := by
  show execRdmaReadResponse b s = _
  unfold execRdmaReadResponse
  rw [State.onPacket_of_heads _ hx rfl, hx.2.1]
  dsimp only
  rw [h]

-- the RDMA commands (R391)

theorem State.rdmaCmd_of_starts {s : State} {q seq o : Nat} {ok : Cmd → Bool} {c : Cmd} (h : Starts s q seq o c) (hok : ok c = true) :
    s.rdmaCmd q seq o ok = .next (s.startRdma q seq c) := by
  unfold State.rdmaCmd
  rw [h.1]
  dsimp only
  rw [if_neg (show ¬ (c.opcode = o ∧ c.phase = .running) by rw [Claims.Starts.phase h]; exact fun h => nomatch h.2)]
  exact State.onStart_of_starts _ h hok

/-- The body that each RDMA command must have. -/
theorem exec_rdma_of_starts {s : State} {i : Instr} {o q seq : Nat} {c : Cmd}
    (hi : (i, o) ∈ [(Instr.rdmaWrite q seq, 0x40), (.rdmaRead q seq, 0x41), (.rdmaCntAdd q seq, 0x42)]) (h : Starts s q seq o c)
    (hok : if o = 0x42 then c.field 0x10 1 < 4 ∧ c.zeroAt [(0x11, 3), (0x18, 24)] = true ∧ netRefOk (c.field 0x30 8) = true
      else c.rdmaOk = true) : exec i s = .next (s.startRdma q seq c) := by
  simp only [List.mem_cons, Prod.mk.injEq, List.not_mem_nil, or_false] at hi
  obtain ⟨rfl, rfl⟩ | ⟨rfl, rfl⟩ | ⟨rfl, rfl⟩ := hi
  · exact State.rdmaCmd_of_starts h hok
  · exact State.rdmaCmd_of_starts h hok
  · obtain ⟨h1, h2, h3⟩ := hok
    refine State.rdmaCmd_of_starts h ?_
    rw [decide_eq_true h1, h2, h3]
    rfl

theorem State.slotOpen_of_not {s : State} {q n : Nat} (h : s.slotState n ≠ 3 ∨ s.netCtx n ≠ s.queueCtx q) : s.slotOpen q n = false := by
  unfold State.slotOpen
  rcases h with h | h
  · rw [decide_eq_false h]
    rfl
  · rw [decide_eq_false h, Bool.and_false]

section StartRdma

variable {s : State} {q seq : Nat} {c : Cmd} {n : Nat} (hn : n = s.cmdSlot q (c.field 0x10 1))

include hn

theorem State.startRdma_of_closed (h : s.slotOpen q n = false) : s.startRdma q seq c = s.endCmd q seq 0x40 := by
  subst hn
  unfold State.startRdma State.netStart
  dsimp only
  rw [if_pos h]

theorem State.startRdma_of_badRank (h : s.slotOpen q n = true) (hr : s.rankGood n (c.field 0x14 4) = false) :
    s.startRdma q seq c = s.endCmd q seq 0x41 := by
  subst hn
  unfold State.startRdma State.netStart
  dsimp only
  rw [h, if_neg (by decide), if_pos hr]

theorem State.startRdma_of_good (h : s.slotOpen q n = true) (hr : s.rankGood n (c.field 0x14 4) = true)
    (hops : s.netOps (fun _ => true) < 65536) {f : Flow} (hf : f = (s.runCmd q seq).flow n (c.field 0x14 4) false) :
    s.startRdma q seq c = ((s.runCmd q seq).setFlow n (c.field 0x14 4) false
      { f with work := f.work ++ [{ q := q, cmd := seq, sent := 0 }] }).pumpFlow n (c.field 0x14 4) := by
  subst hn hf
  unfold State.startRdma State.netStart
  dsimp only
  rw [h, if_neg (by decide), hr, if_neg (by decide), if_neg (by omega)]

end StartRdma

-- the parts of the obligation

section Parts

variable {s : State} {b n : Nat}

theorem exec_frameReceive_of_plain {f : Frame} (hb : b < 8) (hup : s.portUp b f.sub = true) (hsub : f.sub < 2) (hprio : f.prio < 8)
    (hplain : s.macsecOn b f.sub = false) :
    (∀ pre ident, f.pkt = .solicit pre ident → exec (.frameReceive b f) s = .next
      (if f.ipv6 = true ∧ pre = s.reg .portPrefix (2 * b + f.sub) then
        s.send (.neighbor b f.sub ident (s.rd F.portMacMac (2 * b + f.sub))) else s.bump F.portRxForeignCount b)) ∧
    ((∀ pre ident, f.pkt ≠ .solicit pre ident) →
      (s.pfcPrio b f.prio = false ∨ s.rxShare b < (s.port b).occ f.prio + f.len →
        exec (.frameReceive b f) s = .next (s.bump F.portRxOverflowCount b)) ∧
      (s.pfcPrio b f.prio = true → (s.port b).occ f.prio + f.len ≤ s.rxShare b →
        (∀ c, s.acceptFrame b f = .drop c → exec (.frameReceive b f) s = .next (s.bump c b)) ∧
        (∀ src, s.acceptFrame b f = .slot n src → ∃ t, exec (.frameReceive b f) s = .next t ∧ t.mem = s.mem ∧ t.regs = s.regs ∧
          (t.port b).rx = (s.port b).rx ++
            [{ part := s.netPart n, slot := n % 4, src := src, prio := f.prio, len := f.len, ce := f.ce, pkt := f.pkt }]))) := by
  have hexec : exec (.frameReceive b f) s = .next (s.bufferFrame b f) := execFrameReceive_of_plain hb hup hsub hprio hplain
  rw [hexec]
  refine ⟨fun pre ident hp => ?_, fun hpkt => ⟨fun h => ?_, fun hmask hroom => ?_⟩⟩
  · unfold State.bufferFrame
    rw [hp]
  · rw [State.bufferFrame_of_full hpkt h]
  · obtain ⟨hdrop, hslot⟩ := State.bufferFrame_of_room hpkt hmask hroom
    refine ⟨fun c hc => by rw [hdrop c hc], fun src hs => ⟨_, by rw [hslot n src hs], ?_⟩⟩
    obtain ⟨hmem, hregs, hrx⟩ := State.settlePfc_spec (s.setPort b { s.port b with
      rx := (s.port b).rx ++
        [{ part := s.netPart n, slot := n % 4, src := src, prio := f.prio, len := f.len, ce := f.ce, pkt := f.pkt }] }) b f.prio
    exact ⟨hmem, hregs, hrx.trans (congrArg PortSt.rx (State.port_setPort _ _ _))⟩

theorem exec_pfcReceive_spec {sub prio : Nat} (hb : b < 8) (hsub : sub < 2) (hup : s.portUp b sub = true)
    (hen : s.flag F.portCfgPfcEn b = true) (hprio : prio < 8) (hmask : s.pfcPrio b prio = true) :
    let y := s.port b
    let others := (y.paused.getD sub []).filter (fun p => decide (p ≠ prio))
    exec (.pfcReceive b sub prio true) s = .next (s.setPort b { y with paused := y.paused.set sub (others ++ [prio]) }) ∧
    (y.held = [] → exec (.pfcReceive b sub prio false) s = .next (s.setPort b { y with paused := y.paused.set sub others })) ∧
    (∀ f, y.held = [f] → f.sub = sub → f.prio = prio → exec (.pfcReceive b sub prio false) s =
      .next ((s.setPort b { y with paused := y.paused.set sub others, held := [] }).handOver b f)) ∧
    (∀ f : TxFrame, f.sub = sub → f.prio = prio → prio ∈ y.paused.getD sub [] →
      s.handOver b f = s.setPort b { y with held := y.held ++ [f] }) := by
  have hresume := exec_pfcReceive_resume hb hsub hup hen hprio hmask
  refine ⟨exec_pfcReceive_pause hb hsub hup hen hprio hmask, fun hheld => ?_, fun f hheld hs hp => ?_, fun f hs hp hmem => ?_⟩
  · rw [hresume, hheld]
    rfl
  · subst hs hp
    rw [hresume, hheld]
    simp only [List.filter_cons, decide_true, Bool.and_self, Bool.not_true, if_true, Bool.false_eq_true, if_false, List.filter_nil,
      List.foldl_cons, List.foldl_nil]
  · subst hs hp
    exact State.handOver_of_paused hup hmem

theorem exec_timers {part slot rank : Nat} {fletus : Bool} (hp : part < partCount s.mode) (hs : slot < 4) (hn : n = s.netIdx part slot) :
    let f := s.flow n rank fletus
    (f.rate < 1000 → f.lastRaise + 55000 ≤ s.now → exec (.rateRecovery part slot rank fletus) s =
      .next (s.setFlow n rank fletus { f with rate := min 1000 (f.rate + 50), lastRaise := s.now })) ∧
    (f.rxHeld ≠ 0 → f.rxSince + 4000 ≤ s.now →
      let t := s.setFlow n rank fletus { f with rxHeld := 0 }
      exec (.ackCoalesceTimeout part slot rank fletus) s = .next
        (if fletus = true then t.sendFletus n rank 0 false false .ack
        else t.sendRoce n rank ((f.expect + 2 ^ 24 - 1) % 2 ^ 24) .acknowledge)) ∧
    (f.unacked ≠ [] → f.rnrUntil = none → f.lastSend + s.rtoOf n f ≤ s.now →
      (f.expiries < 31 → exec (.retransmitTimeout part slot rank fletus) s = .next
        ((s.setFlow n rank fletus { f with expiries := f.expiries + 1, rto := some (min 5000000 (2 * s.rtoOf n f)) }).resend
          n rank fletus)) ∧
      (31 ≤ f.expiries → exec (.retransmitTimeout part slot rank fletus) s = .next
        (if fletus = true then s.streamUnreachable n rank
        else ((s.failCmds f.cmds 0x42).setFlow n rank false {}).sendFletus n rank 0 true false .ack))) ∧
    (∀ due, fletus = false → f.rnrUntil = some due → due ≤ s.now → exec (.rnrRetryTimeout part slot rank) s =
      .next (((s.setFlow n rank false { f with rnrUntil := none }).resend n rank false).pumpFlow n rank)) := by
  subst hn
  refine ⟨fun hrate hraise => ?_, fun hheld hsince => ?_, fun hun hrnr hdue => ⟨fun hexp => ?_, fun hexp => ?_⟩, fun due hfl hrnr hdue => ?_⟩
  · show execRateRecovery part slot rank fletus s = _
    unfold execRateRecovery
    exact if_pos ⟨hp, hs, hrate, hraise⟩
  · show execAckCoalesceTimeout part slot rank fletus s = _
    unfold execAckCoalesceTimeout
    exact if_pos ⟨hp, hs, hheld, hsince⟩
  · refine (execRetransmitTimeout_of_due hp hs rfl hun hrnr hdue).trans ?_
    rw [if_pos (by omega)]
    rfl
  · refine (execRetransmitTimeout_of_due hp hs rfl hun hrnr hdue).trans ?_
    rw [if_neg (by omega)]
    cases fletus <;> rfl
  · subst hfl
    show execRnrRetryTimeout part slot rank s = _
    unfold execRnrRetryTimeout
    exact if_pos ⟨hp, hs, by rw [hrnr]; exact decide_eq_true hdue⟩

end Parts

section WritePackets

variable {s : State} {b n psn va : Nat} {x : RxFrame} {last : Bool} {d : List Byte} {signal : Option (Nat × Nat)} {f : Flow}
  (hce : x.ce = false) (hf : f = s.flow n x.src false) (hrestart : f.restart = false) (hfailed : f.failed = none)

include hce hf hrestart hfailed

theorem exec_rdmaWritePacket_spec (hx : Heads s b (.roce psn (.write last va d signal)) x n) {u : State}
    (hu : u = s.setFlow n x.src false f) :
    (f.fault ≠ none → exec (.rdmaWritePacket b) s = .next ((u.sendRoce n x.src psn .nakRnr).dropFrame b x)) ∧
    (f.fault = none → f.expect % 2 ^ 24 = psn → psn < 2 ^ 24 →
      (∀ t e, u.serve n (.write last va d signal) = (t, .done e) → ∀ v g, v = t.journalPacket x → g = v.flow n x.src false →
        exec (.rdmaWritePacket b) s = .next
          (((v.setFlow n x.src false { g with expect := (g.expect + 1) % 2 ^ 24 }).holdAck n x.src false).dropFrame b x)) ∧
      (∀ t a, u.serve n (.write last va d signal) = (t, .nak a) →
        exec (.rdmaWritePacket b) s = .next ((t.sendRoce n x.src psn a).dropFrame b x))) ∧
    (f.fault = none → f.expect < psn → psn < f.expect + 2 ^ 23 → psn < 2 ^ 24 →
      exec (.rdmaWritePacket b) s = .next ((u.sendRoce n x.src f.expect .nakSequence).dropFrame b x)) ∧
    (f.fault = none → psn < f.expect → f.expect ≤ psn + 2 ^ 23 → f.expect < 2 ^ 24 →
      exec (.rdmaWritePacket b) s =
        .next ((u.sendRoce n x.src ((f.expect + 2 ^ 24 - 1) % 2 ^ 24) .acknowledge).dropFrame b x)) := by
  subst hu
  refine ⟨fun h => ?_, fun hfault h _ => ⟨fun t e hserve v g hv hg => ?_, fun t a hserve => ?_⟩, fun hfault h1 h2 h3 => ?_,
    fun hfault h1 h2 h3 => ?_⟩
  · exact exec_rdmaWritePacket_of_heads hx (State.request_of_fault hce hf hrestart h)
  · subst hv hg
    exact exec_rdmaWritePacket_of_heads hx ((State.request_of_next hce hf hrestart hfault h hfailed).1 t e hserve)
  · exact exec_rdmaWritePacket_of_heads hx ((State.request_of_next hce hf hrestart hfault h hfailed).2 t a hserve)
  · have hahead : seqAhead (2 ^ 24) f.expect psn = psn - f.expect := by
      unfold seqAhead
      omega
    exact exec_rdmaWritePacket_of_heads hx (State.request_of_after hce hf hrestart hfault (by omega) (by omega))
  · have hahead : seqAhead (2 ^ 24) f.expect psn = psn + 2 ^ 24 - f.expect := by
      unfold seqAhead
      omega
    exact exec_rdmaWritePacket_of_heads hx (State.request_write_of_before hce hf hrestart hfault (by omega))

end WritePackets

/-- Settles O51: each command's arm under its conditions; what a packet does rests on the rule of its kind, which is taken once the
frame heads its block's buffer. -/
theorem packetsAndRdmaCommands : Obligations.PacketsAndRdmaCommands := by
  unfold Obligations.PacketsAndRdmaCommands
  intro s b x n
  refine ⟨fun f hb hup hsub hprio hplain => ?_, fun sub prio => exec_pfcReceive_spec,
    fun part slot rank fletus hp hs hn => exec_timers hp hs hn, fun psn hce => ?_, ?_, ?_⟩
  · obtain ⟨hsol, hrest⟩ := exec_frameReceive_of_plain (n := n) hb hup hsub hprio hplain
    exact ⟨hsol, hrest, fun hl src hs => State.acceptFrame_slot hl hs⟩
  · have hnak {op : RoceOp} := exec_roceNak_of_heads (s := s) (b := b) (psn := psn) (n := n) (x := x) (op := op)
    obtain ⟨hseq, hrnr, haccess, hoperation⟩ := State.nak_of_unmarked (s := s) (psn := psn) (n := n) hce rfl
    refine ⟨exec_roceAcknowledge_of_heads hce, fun hx => ?_, fun hx h hh => ?_, fun u hx => ?_, fun hx => ?_, exec_cnp_of_heads,
      fun hrestart hfailed => ⟨fun last va d signal hx => exec_rdmaWritePacket_spec hce rfl hrestart hfailed hx rfl, ?_,
        fun va d t v => State.serve_write, fun va len t d => State.serve_readRequest⟩⟩
    · rw [hnak (by simp) hx, hseq]
    · subst hh
      rw [hnak (by simp) hx, hrnr]
    · rw [hnak (by cases u <;> simp) hx, haccess]
    · rw [hnak (by simp) hx, hoperation]
    · intro va len hx hfault h _ t e v g k w hserve hv hg hw hk
      subst hv hg hk hw
      exact exec_rdmaReadRequest_of_heads hx ((State.request_of_next hce rfl hrestart hfault h hfailed).1 t e hserve)
  · intro psn d rest va len c y u v hce hx hu hy hpkt hlen hc hrun hstall hlo hhi off hv f w
    obtain ⟨hmore, hlast⟩ := State.readBack_of_written hce hu hy hpkt hlen hc hrun hstall hlo hhi hv (w := w) rfl
    exact ⟨fun h => exec_rdmaReadResponse_of_heads hx (hmore h), fun h hsig => exec_rdmaReadResponse_of_heads hx (hlast h hsig)⟩
  · intro i o q seq c hi hstarts hok hn rank
    rw [exec_rdma_of_starts hi hstarts hok]
    refine ⟨fun h => ?_, fun hopen hrank => ?_, fun hopen hrank hops f hf => ?_⟩
    · rw [State.startRdma_of_closed hn (State.slotOpen_of_not h)]
    · rw [State.startRdma_of_badRank hn hopen hrank]
    · rw [State.startRdma_of_good hn hopen hrank hops hf]

end Sys2Proof.Machine
end

section
/-! PROOFS. Fletus streams, remote commands and collectives (R389, R391, R395 to R403). -/

namespace Sys2Proof.Machine

open Sys2Proof.Claims

-- packets of streams (R396)

theorem State.onFletus_of_heads {s : State} {b n : Nat} {p : FletusPkt} {x : RxFrame} {kind : FletusMsg → Bool}
    {f : State → Nat → RxFrame → FletusPkt → State × Bool} (h : Heads s b (.fletus p) x n) (hk : kind p.msg = true) {t : State}
    (ht : f s n x p = (t, true)) : s.onFletus b kind f = .next (t.dropFrame b x) := by
  unfold State.onFletus
  rw [State.onPacket_of_heads _ h hk, h.2.1]
  dsimp only
  rw [ht]

section StreamIn

variable {s u : State} {n : Nat} {x : RxFrame} {p : FletusPkt} {f : State → State × Taken} (hu : u = s.streamCommon n x p)
  (hrestart : p.restart = false)

include hu hrestart

/-- A packet that is not next in sequence is answered with a NACK. -/
theorem State.streamIn_of_ne (h : p.seq ≠ (u.flow n x.src true).expect) : s.streamIn n x p f = (u.sendNack n x.src, true) := by
  subst hu
  unfold State.streamIn
  dsimp only
  rw [if_neg (show ¬ (p.restart = true ∧ p.seq = 0) by rw [hrestart]; exact fun h => Bool.noConfusion h.1), if_pos h]

theorem State.streamIn_of_next (h : p.seq = (u.flow n x.src true).expect) :
    (∀ v, f u = (v, .yes) → s.streamIn n x p f = (((v.setFlow n x.src true { v.flow n x.src true with
      expect := ((v.flow n x.src true).expect + 1) % 2 ^ 32 }).holdAck n x.src true).journalPacket x, true)) ∧
      (∀ v, f u = (v, .again) → s.streamIn n x p f = (u.sendNack n x.src, true)) := by
  subst hu
  unfold State.streamIn
  dsimp only
  rw [if_neg (show ¬ (p.restart = true ∧ p.seq = 0) by rw [hrestart]; exact fun h => Bool.noConfusion h.1),
    if_neg (fun hn => hn h)]
  refine ⟨fun v hv => ?_, fun v hv => ?_⟩
  · rw [hv]
  · rw [hv]

end StreamIn

section InSequence

variable {s u v : State} {b n : Nat} {m : FletusMsg} {x : RxFrame} {kind : FletusMsg → Bool}
  {f : State → Nat → RxFrame → FletusPkt → State × Bool} {g : State → State × Taken} (h : InSequence s b m x n u)
  (hk : kind m = true) (hf : ∀ p : FletusPkt, p.msg = m → f s n x p = s.streamIn n x p g)

include h hk hf

/-- The command of a stream's message takes it in sequence, where its handler does. -/
theorem State.onFletus_of_taken (hv : g u = (v, .yes)) : s.onFletus b kind f = .next (taken v n b x) := by
  obtain ⟨p, hheads, hm, hrestart, hu, hseq⟩ := h
  refine State.onFletus_of_heads hheads ?_ ((hf p hm).trans ((State.streamIn_of_next (f := g) hu hrestart hseq).1 v hv))
  rw [hm, hk]

/-- A message that its handler turns away is asked for again. -/
theorem State.onFletus_of_again (hv : g u = (v, .again)) : s.onFletus b kind f = .next ((u.sendNack n x.src).dropFrame b x) := by
  obtain ⟨p, hheads, hm, hrestart, hu, hseq⟩ := h
  refine State.onFletus_of_heads hheads ?_ ((hf p hm).trans ((State.streamIn_of_next (f := g) hu hrestart hseq).2 v hv))
  rw [hm, hk]

end InSequence

section Acks

variable {s u : State} {b n : Nat} {x : RxFrame} {p : FletusPkt} (hx : Heads s b (.fletus p) x n) (hu : u = s.streamCommon n x p)

include hx hu

theorem exec_fletusAck_of_heads (hm : p.msg = .ack) : exec (.fletusAck b) s =
    .next ((if p.restart then u.setFlow n x.src false { u.flow n x.src false with restart := true } else u).dropFrame b x) := by
  subst hu
  show execFletusAck b s = _
  unfold execFletusAck
  exact State.onFletus_of_heads hx (decide_eq_true hm) rfl

theorem exec_fletusNack_of_heads (hm : p.msg = .nack) : exec (.fletusNack b) s = .next ((u.resend n x.src true).dropFrame b x) := by
  subst hu
  show execFletusNack b s = _
  unfold execFletusNack
  exact State.onFletus_of_heads hx (decide_eq_true hm) rfl

variable (hrestart : p.restart = false) (hseq : p.seq ≠ (u.flow n x.src true).expect)

include hrestart hseq

/-- A stream's packet out of sequence is answered with a NACK, whatever its message. -/
theorem State.onFletus_of_ne {kind : FletusMsg → Bool} {f : State → Nat → RxFrame → FletusPkt → State × Bool}
    {g : State → State × Taken} (hk : kind p.msg = true) (hf : f s n x p = s.streamIn n x p g) :
    s.onFletus b kind f = .next ((u.sendNack n x.src).dropFrame b x) :=
  State.onFletus_of_heads hx hk (hf.trans (State.streamIn_of_ne hu hrestart hseq))

theorem exec_cmd_of_ne {bs : List Byte} (hm : p.msg = .cmd bs) :
    exec (.cmd b) s = .next ((u.sendNack n x.src).dropFrame b x) := by
  show execCmd b s = _
  unfold execCmd
  refine State.onFletus_of_ne hx hu hrestart hseq (g := fun s => (s.takeCmd n x.src bs, .yes)) ?_ ?_
  · rw [hm]
  · rw [hm]

theorem exec_cmdDone_of_ne {rec : List Byte} (hm : p.msg = .cmdDone rec) :
    exec (.cmdDone b) s = .next ((u.sendNack n x.src).dropFrame b x) := by
  show execCmdDone b s = _
  unfold execCmdDone
  refine State.onFletus_of_ne hx hu hrestart hseq (g := fun s => (s.takeDone n x.src rec, .yes)) ?_ ?_
  · rw [hm]
  · rw [hm]

theorem exec_fletusData_of_ne {coll use first count fmt : Nat} {shape : CollShape} {native : Bool} {payload : List Byte}
    {ended : Option Nat} (hm : p.msg = .data coll use shape first count native fmt payload ended) :
    exec (.fletusData b) s = .next ((u.sendNack n x.src).dropFrame b x) := by
  show execFletusData b s = _
  unfold execFletusData
  refine State.onFletus_of_ne hx hu hrestart hseq (g := fun s => s.collIn b n x.src coll use payload.length p.msg) ?_ ?_
  · rw [hm]
  · rw [hm]

end Acks

-- remote commands (R403)

theorem exec_cmd_inSequence {s u : State} {b n : Nat} {x : RxFrame} {bs : List Byte} (h : InSequence s b (.cmd bs) x n u) :
    exec (.cmd b) s = .next (taken (u.takeCmd n x.src bs) n b x) := by
  show execCmd b s = _
  unfold execCmd
  exact State.onFletus_of_taken (g := fun s => (s.takeCmd n x.src bs, .yes)) h rfl (fun p hm => by rw [hm]) rfl

theorem exec_cmdDone_inSequence {s u : State} {b n : Nat} {x : RxFrame} {rec : List Byte} (h : InSequence s b (.cmdDone rec) x n u) :
    exec (.cmdDone b) s = .next (taken (u.takeDone n x.src rec) n b x) := by
  show execCmdDone b s = _
  unfold execCmdDone
  exact State.onFletus_of_taken (g := fun s => (s.takeDone n x.src rec, .yes)) h rfl (fun p hm => by rw [hm]) rfl

theorem State.takeCmd_of_refused {u : State} {n src : Nat} {bs : List Byte} (h : u.flag F.netSlotRemoteCmd n = false) :
    u.takeCmd n src bs = u.streamSend n src (.cmdDone (u.remoteRecord n (fieldAt bs 4 4) 0x4D 0 0)) 0 0 := by
  unfold State.takeCmd
  exact if_pos h

/-- A peer's record ends the oldest command that waits for it. -/
theorem State.takeDone_of_first {u : State} {n src : Nat} {rec : List Byte} {w : RemoteWait} {rest : List RemoteWait}
    (hw : (u.job n).waits = w :: rest) (hrank : w.rank = src) (htag : w.tag = fieldAt rec 0 4) (hnot : w ∉ rest) :
    u.takeDone n src rec = (u.setJob n { u.job n with waits := rest }).endCmd w.q w.cmd
      (if fieldAt rec 6 1 = 0x4D then 0x4D else 0) (fieldAt rec 0 16) := by
  have hfind : (u.job n).waits.find? (fun w => decide (w.rank = src) && decide (w.tag = fieldAt rec 0 4)) = some w := by
    rw [hw, List.find?_cons_of_pos]
    rw [decide_eq_true hrank, decide_eq_true htag]
    rfl
  have hfilter : (u.job n).waits.filter (fun v => decide (v ≠ w)) = rest := by
    rw [hw, List.filter_cons_of_neg (by simp)]
    exact List.filter_eq_self.mpr fun v hv => decide_eq_true fun he => hnot (he ▸ hv)
  unfold State.takeDone
  dsimp only
  rw [hfind]
  dsimp only
  rw [hfilter]

section RemoteOp

variable {s : State} {q seq n : Nat} {c : Cmd} (hc : Starts s q seq 0x43 c) (hslot : c.field 0x10 1 < 4)
  (hzero : c.zeroAt [(0x11, 3), (0x21, 31)] = true) (hlo : 1 ≤ c.field 0x20 1) (hhi : c.field 0x20 1 ≤ 64) (hstall : c.stalled = none)
  (hn : n = s.cmdSlot q (c.field 0x10 1))

include hc hslot hzero hlo hhi hstall hn

/-- REMOTE_OP with a good body: NO_JOB, BAD_RANK, or the command at CMD_VA goes to the peer. -/
theorem exec_remoteOp_of_starts :
    (s.slotOpen q n = false → exec (.remoteOp q seq) s = .next (s.endCmd q seq 0x40)) ∧
    (s.slotOpen q n = true → s.rankGood n (c.field 0x14 4) = false → exec (.remoteOp q seq) s = .next (s.endCmd q seq 0x41)) ∧
    (∀ v bs, s.slotOpen q n = true → s.rankGood n (c.field 0x14 4) = true → s.netOps (fun _ => true) < 65536 →
      s.ctxRead (s.rdmaEngine q c.tag) (c.field 0x18 8) (64 * c.field 0x20 1) = (v, .ok bs) →
      exec (.remoteOp q seq) s = .next (((v.runCmd q seq).setJob n { (v.runCmd q seq).job n with
        waits := ((v.runCmd q seq).job n).waits ++ [{ rank := c.field 0x14 4, q := q, cmd := seq, tag := fieldAt bs 4 4 }] }).streamSend n
          (c.field 0x14 4) (.cmd bs) q seq)) := by
  subst hn
  have hok : (decide (c.field 0x10 1 < 4) && c.zeroAt [(0x11, 3), (0x21, 31)] && decide (1 ≤ c.field 0x20 1)
      && decide (c.field 0x20 1 ≤ 64)) = true := by
    rw [decide_eq_true hslot, hzero, decide_eq_true hlo, decide_eq_true hhi]
    rfl
  have hexec : exec (.remoteOp q seq) s = execRemoteOp q seq s := rfl
  rw [hexec]
  unfold execRemoteOp
  rw [State.onStart_of_starts _ hc hok, hstall, if_neg (by decide)]
  unfold State.netStart
  dsimp only
  refine ⟨fun hopen => ?_, fun hopen hrank => ?_, fun v bs hopen hrank hops hread => ?_⟩
  · rw [if_pos hopen]
  · rw [hopen, if_neg (by decide), if_pos hrank]
  · rw [hopen, if_neg (by decide), hrank, if_neg (by decide), if_neg (by omega), hread]

end RemoteOp

-- elements of collectives (R400 to R402)

section CollIn

variable {u : State} {b n src coll use size : Nat} {msg : FletusMsg}

theorem State.collIn_of_live {y : Coll} (hy : u.liveColl n coll = some y) :
    (y.use = use → u.collIn b n src coll use size msg = (u.applyMsg n src msg, .yes)) ∧
      (y.use ≠ use → use ≠ (u.job n).nextGen coll →
        u.collIn b n src coll use size msg = ((u.bump F.portRxStaleCount b).disagree n coll 0x48, .yes)) := by
  unfold State.collIn
  dsimp only
  rw [hy]
  dsimp only
  refine ⟨fun h => if_pos h, fun h hgen => ?_⟩
  rw [if_neg h, if_neg hgen]

theorem State.collIn_of_none (hy : u.liveColl n coll = none) :
    (use ≠ (u.job n).nextGen coll → u.collIn b n src coll use size msg = (u.bump F.portRxStaleCount b, .yes)) ∧
      (use = (u.job n).nextGen coll → (u.job n).heldBytes + size ≤ 0x1000000 → u.collIn b n src coll use size msg =
        (u.setJob n { u.job n with held := (u.job n).held ++ [{ src := src, msg := msg }] }, .yes)) ∧
      (use = (u.job n).nextGen coll → 0x1000000 < (u.job n).heldBytes + size →
        u.collIn b n src coll use size msg = (u, .again)) := by
  unfold State.collIn
  dsimp only
  rw [hy]
  dsimp only
  refine ⟨fun hgen => if_neg hgen, fun hgen hle => ?_, fun hgen hlt => ?_⟩
  · rw [if_pos hgen, if_neg (by omega)]
  · rw [if_pos hgen, if_pos hlt]

end CollIn

/-- A DATA or RECORD packet next in sequence is taken as its generation says. -/
theorem exec_collMsg_inSequence {s u : State} {b n coll use : Nat} {x : RxFrame} {i : Instr} {m : FletusMsg}
    (hi : ∃ shape payload, (i = .fletusRecord b ∧ m = .record coll use shape payload) ∨
      ∃ first count native fmt ended, i = .fletusData b ∧ m = .data coll use shape first count native fmt payload ended)
    (h : InSequence s b m x n u) {r : State × Taken}
    (hr : r = u.collIn b n x.src coll use
      (NetPkt.fletus { seq := 0, ackSeq := 0, echo := false, restart := false, msg := m }).payloadLen m) :
    (r.2 = .yes → exec i s = .next (taken r.1 n b x)) ∧ (r.2 = .again → exec i s = .next ((u.sendNack n x.src).dropFrame b x)) := by
  obtain ⟨t, k⟩ := r
  obtain ⟨shape, payload, ⟨rfl, rfl⟩ | ⟨first, count, native, fmt, ended, rfl, rfl⟩⟩ := hi
  · show (_ → execFletusRecord b s = _) ∧ (_ → execFletusRecord b s = _)
    unfold execFletusRecord
    refine ⟨fun hk => State.onFletus_of_taken
      (g := fun s => s.collIn b n x.src coll use payload.length (.record coll use shape payload)) h rfl (fun p hm => by rw [hm]) ?_,
      fun hk => State.onFletus_of_again
      (g := fun s => s.collIn b n x.src coll use payload.length (.record coll use shape payload)) (v := t) h rfl
      (fun p hm => by rw [hm]) ?_⟩
    · exact hr.symm.trans (Prod.ext rfl hk)
    · exact hr.symm.trans (Prod.ext rfl hk)
  · show (_ → execFletusData b s = _) ∧ (_ → execFletusData b s = _)
    unfold execFletusData
    refine ⟨fun hk => State.onFletus_of_taken
      (g := fun s => s.collIn b n x.src coll use payload.length (.data coll use shape first count native fmt payload ended)) h rfl
      (fun p hm => by rw [hm]) ?_,
      fun hk => State.onFletus_of_again
      (g := fun s => s.collIn b n x.src coll use payload.length (.data coll use shape first count native fmt payload ended)) (v := t)
      h rfl (fun p hm => by rw [hm]) ?_⟩
    · exact hr.symm.trans (Prod.ext rfl hk)
    · exact hr.symm.trans (Prod.ext rfl hk)

section ApplyMsg

variable {u : State} {n src coll use first count fmt : Nat} {y : Coll} {shape : CollShape} {native : Bool} {payload : List Byte}
  (hy : (u.job n).colls.get? coll = some y)

include hy

theorem State.applyMsg_of_shape_ne (h : shape ≠ y.shape) :
    u.applyMsg n src (.data coll use shape first count native fmt payload none) =
      u.disagree n coll (if { shape with scale := y.shape.scale } = y.shape then 0x47 else 0x48) := by
  unfold State.applyMsg
  dsimp only
  rw [hy]
  dsimp only
  rw [if_pos h]

theorem State.applyMsg_of_elements {p : Nat} (h : shape = y.shape) (hp : y.shape.posOf src = some p)
    (hlo : (y.shape.sent y.root p y.pos).1 ≤ first)
    (hhi : first + count ≤ (y.shape.sent y.root p y.pos).1 + (y.shape.sent y.root p y.pos).2) :
    u.applyMsg n src (.data coll use shape first count native fmt payload none) =
      (u.setJob n { u.job n with colls := (u.job n).colls.set coll (y.addMsg p first count native payload) }).finishColl n coll := by
  unfold State.applyMsg
  dsimp only
  rw [hy]
  dsimp only
  rw [if_neg (fun hn => hn h), hp]
  dsimp only
  rw [if_pos ⟨hlo, hhi⟩]

end ApplyMsg

-- COLLECTIVE (R398, R399)

section CollOp

variable {s : State} {q seq sub : Nat} {c : Cmd} (hsub : c.subop = sub)

include hsub

theorem State.collOp_of_running (hc : s.cmd? q seq = some c) (hop : c.opcode = 0x28) (hrun : c.phase = .running) :
    s.collOp q seq sub = .next (s.finishColl (s.cmdSlot q (c.field 0x18 1)) (c.field 0x1C 4)) := by
  unfold State.collOp
  rw [hc]
  dsimp only
  rw [if_neg (fun h => h.elim (fun h => h hop) (fun h => h.1 hsub)), if_pos hrun]

variable (hc : Starts s q seq 0x28 c)

include hc

theorem State.collOp_of_bad (hok : c.collOk = false) : s.collOp q seq sub = .next (s.endCmd q seq 0x01) := by
  obtain ⟨hcmd, hop, -⟩ := id hc
  unfold State.collOp
  rw [hcmd]
  dsimp only
  rw [if_neg (fun h => h.elim (fun h => h hop) (fun h => h.1 hsub)),
    if_neg (show ¬ c.phase = .running by rw [Claims.Starts.phase hc]; exact fun h => nomatch h)]
  exact State.onStart_of_bad _ hc hok

theorem State.collOp_of_good (hok : c.collOk = true) (hstall : c.stalled = none) {n : Nat} (hn : n = s.cmdSlot q (c.field 0x18 1)) :
    let e := s.operEngine q c.tag
    (s.editionRefused e.ctx = true → s.collOp q seq sub = .next (s.endCmd q seq 0x23)) ∧
    (s.editionRefused e.ctx = false → s.slotOpen q n = false → s.collOp q seq sub = .next (s.endCmd q seq 0x40)) ∧
    (∀ st pos, s.editionRefused e.ctx = false → s.slotOpen q n = true → s.collRefused n c = (st, pos) → st ≠ 0 →
      s.collOp q seq sub = .next (s.endCmd q seq st)) ∧
    (∀ pos v data rec, s.editionRefused e.ctx = false → s.slotOpen q n = true → s.collRefused n c = (0, pos) →
      s.netOps (fun _ => true) < 65536 → s.collInput e c (s.ownRank n) (c.field 0x20 4) = (v, .ok (data, rec)) →
      s.collOp q seq sub = .next (v.issueColl n q seq c pos data rec)) := by
  subst hn
  obtain ⟨hcmd, hop, -⟩ := id hc
  unfold State.collOp
  rw [hcmd]
  dsimp only
  rw [if_neg (fun h => h.elim (fun h => h hop) (fun h => h.1 hsub)),
    if_neg (show ¬ c.phase = .running by rw [Claims.Starts.phase hc]; exact fun h => nomatch h), State.onStart_of_starts _ hc hok]
  rw [hstall, if_neg (by decide)]
  refine ⟨fun h => ?_, fun h hopen => ?_, fun st pos h hopen href hst => ?_, fun pos v data rec h hopen href hops hin => ?_⟩
  · rw [if_pos h]
  · rw [h, if_neg (by decide), if_pos hopen]
  · rw [h, if_neg (by decide), hopen, if_neg (by decide), href]
    cases st with
    | zero => exact absurd rfl hst
    | succ k => rfl
  · rw [h, if_neg (by decide), hopen, if_neg (by decide), href]
    refine (congrArg Host.Outcome.next (if_neg (show ¬ 65536 ≤ s.netOps (fun _ => true) by omega))).trans ?_
    rw [hin]

end CollOp

/-- Each COLLECTIVE command's arm is that of its SUBOP. -/
theorem exec_collective {i : Instr} {sub q seq : Nat} (s : State)
    (hi : (i, sub) ∈ [(Instr.allReduce q seq, 0), (.reduceScatter q seq, 1), (.allGather q seq, 2), (.broadcast q seq, 3),
      (.reduceToRoot q seq, 4), (.recordAllReduce q seq, 5), (.collectiveBarrier q seq, 6)]) : exec i s = s.collOp q seq sub := by
  simp only [List.mem_cons, Prod.mk.injEq, List.not_mem_nil, or_false] at hi
  obtain ⟨rfl, rfl⟩ | ⟨rfl, rfl⟩ | ⟨rfl, rfl⟩ | ⟨rfl, rfl⟩ | ⟨rfl, rfl⟩ | ⟨rfl, rfl⟩ | ⟨rfl, rfl⟩ := hi
  · exact show execAllReduce q seq s = _ from rfl
  · exact show execReduceScatter q seq s = _ from rfl
  · exact show execAllGather q seq s = _ from rfl
  · exact show execBroadcast q seq s = _ from rfl
  · exact show execReduceToRoot q seq s = _ from rfl
  · exact show execRecordAllReduce q seq s = _ from rfl
  · exact show execCollectiveBarrier q seq s = _ from rfl

-- the shares of the participants (R399)

/-- The ranges of REDUCE_SCATTER follow one another and make up the elements. -/
theorem CollShape.outRange_scatter {sh : CollShape} (root : Nat) (hsub : sh.subop = 1) (hcount : 0 < sh.count) :
    (sh.outRange root 0).1 = 0 ∧ (∀ i, (sh.outRange root i).1 + (sh.outRange root i).2 = (sh.outRange root (i + 1)).1) ∧
      (sh.outRange root sh.count).1 = sh.elems := by
  have hrange (i : Nat) : sh.outRange root i = (i * sh.elems / sh.count, (i + 1) * sh.elems / sh.count - i * sh.elems / sh.count) := by
    unfold CollShape.outRange
    generalize sh.subop = k at hsub
    subst hsub
    rfl
  simp only [hrange]
  refine ⟨by rw [Nat.zero_mul, Nat.zero_div], fun i => ?_, Nat.mul_div_cancel_left _ hcount⟩
  exact Nat.add_sub_of_le (Nat.div_le_div_right (Nat.mul_le_mul_right _ (Nat.le_succ i)))

theorem CollShape.outRange_whole (sh : CollShape) (root i : Nat) :
    (sh.subop = 0 ∨ sh.subop = 2 ∨ sh.subop = 3 → sh.outRange root i = (0, sh.elems)) ∧
      (sh.subop = 4 → sh.outRange root i = (0, if sh.rank i = root then sh.elems else 0)) ∧
      (5 ≤ sh.subop → sh.outRange root i = (0, 0)) := by
  unfold CollShape.outRange
  generalize sh.subop = k
  refine ⟨?_, ?_, fun h => ?_⟩
  · rintro (rfl | rfl | rfl) <;> rfl
  · rintro rfl
    rfl
  · obtain ⟨j, rfl⟩ := Nat.exists_eq_add_of_le' h
    rfl

/-- Settles O52: a packet of a stream acts once it heads its block's buffer, as its handler says of it in sequence; a COLLECTIVE takes
the arm of its SUBOP, whose refusals are met in their order. -/
theorem streamsAndCollectives : Obligations.StreamsAndCollectives := by
  unfold Obligations.StreamsAndCollectives
  intro s b x n u
  refine ⟨fun p hx hu => ⟨fun hm hr => ?_, fun hm hr => ?_, exec_fletusNack_of_heads hx hu, fun hr hseq => ?_⟩, fun bs h => ?_,
    fun rec h => ?_, fun coll use i m hi h => ?_, fun src coll y use shape first count native fmt payload hy => ?_, ?_,
    fun i sub q seq c hi hsub => ?_, fun sh root => CollShape.outRange_scatter root, CollShape.outRange_whole⟩
  · rw [exec_fletusAck_of_heads hx hu hm, hr]
    rfl
  · rw [exec_fletusAck_of_heads hx hu hm, hr]
    rfl
  · exact ⟨fun bs => exec_cmd_of_ne hx hu hr hseq, fun rec => exec_cmdDone_of_ne hx hu hr hseq,
      fun _ _ _ _ _ _ _ _ _ => exec_fletusData_of_ne hx hu hr hseq⟩
  · exact ⟨exec_cmd_inSequence h, State.takeCmd_of_refused⟩
  · exact ⟨exec_cmdDone_inSequence h, fun w rest => State.takeDone_of_first⟩
  · have hr {r : State × Taken} := exec_collMsg_inSequence (r := r) hi h
    refine ⟨fun y hy huse => ?_, fun y hy huse hgen => ?_, fun hy hgen => ?_, fun hy hgen => ⟨fun hle => ?_, fun hlt => ?_⟩⟩
    · exact (hr ((State.collIn_of_live hy).1 huse).symm).1 rfl
    · exact (hr ((State.collIn_of_live hy).2 huse hgen).symm).1 rfl
    · exact (hr ((State.collIn_of_none hy).1 hgen).symm).1 rfl
    · exact (hr ((State.collIn_of_none hy).2.1 hgen hle).symm).1 rfl
    · exact (hr ((State.collIn_of_none hy).2.2 hgen hlt).symm).2 rfl
  · exact ⟨State.applyMsg_of_shape_ne hy, fun p => State.applyMsg_of_elements hy⟩
  · intro q seq c hc hslot hzero hlo hhi hstall hn rank
    exact exec_remoteOp_of_starts hc hslot hzero hlo hhi hstall hn
  · rw [exec_collective s hi]
    exact ⟨State.collOp_of_running hsub, State.collOp_of_bad hsub, fun hc hok hstall hn => State.collOp_of_good hsub hc hok hstall hn⟩

end Sys2Proof.Machine
end

section
/-! PROOFS. Job slots, the launch tree, teardown, and the timebase (R378, R383, R391, R404 to R409, R411). -/

namespace Sys2Proof.Machine

open Sys2Proof.Claims

-- a slot's registers (R383)

theorem Reg.addr_netSlot_ne (n : Nat) : Reg.addr .netSlot n ≠ Reg.addr .netSlotTable n := by
  unfold Reg.addr
  exact fun h => absurd h (by simp [Reg.place])

/-- A slot's registers as a JOB_LOAD leaves them. -/
def State.loadSlotRegs (s : State) (n : Nat) (c : Cmd) : State :=
  let s : State := (s.wr F.netSlotJob n (c.field 0x14 4)).wr F.netSlotEpoch n (c.field 0x18 2)
  let s : State := ((s.wr F.netSlotOwnRank n (c.field 0x1C 4)).wr F.netSlotState n 1).wr F.netSlotRemoteCmd n (c.field 0x11 1 / 2)
  ((s.wr F.netSlotTableBase n (c.field 0x2C 4)).wr F.netSlotTableCount n (c.field 0x28 4)).wr F.netSlotTableContext n (c.field 0x38 2)

theorem State.cmdSlot_lt (s : State) {q slot : Nat} (hq : q < 32768) (hslot : slot < 4) : s.cmdSlot q slot < 16 := by
  unfold State.cmdSlot State.netIdx lowestRegion partOfQueue regionsPer partCount
  rw [if_pos hq]
  split
  · omega
  · split <;> omega

/-- A command that goes on to run leaves a slot's registers: of the registers it can change its queue's status only. -/
theorem State.rd_runCmd (s : State) {q seq : Nat} {f : Fld} {n : Nat} (hn : q < 32768 → IsReg f.reg n) (hf : f.reg ≠ .qpStatus) :
    (s.runCmd q seq).rd f n = s.rd f n := by
  by_cases hq : q < 32768
  · exact State.rd_setQueue s _ hq f (hn hq) hf
  · show (s.setQueue q _).rd f n = _
    unfold State.setQueue
    dsimp only
    refine (congrArg (fun t : State => t.rd f n) (if_neg hq)).trans ?_
    rfl

theorem State.rd_setJob (s : State) (n : Nat) (j : JobSlot) (f : Fld) (m : Nat) : (s.setJob n j).rd f m = s.rd f m := rfl

theorem State.rd_loadSlot (s : State) {n q seq : Nat} (c : Cmd) (b : List Byte) {f : Fld} (hn : q < 32768 → n < 16)
    (hf : f.reg = .netSlot ∨ f.reg = .netSlotTable) :
    (s.loadSlot n q seq c b).rd f n = ((s.loadRanks n (c.field 0x2C 4) (c.field 0x28 4) b).loadSlotRegs n c).rd f n := by
  unfold State.loadSlot State.loadSlotRegs
  dsimp only
  refine (State.rd_runCmd _ (fun hq => ?_) ?_).trans (State.rd_setJob _ _ _ _ _)
  · obtain hf | hf := hf <;> rw [hf] <;> exact isReg_of_lt (hn hq)
  · obtain hf | hf := hf <;> rw [hf] <;> decide

/-- A field's write leaves a field of the same register that lies above or below it. -/
theorem State.rd_wr_apart (s : State) (f g : Fld) (n v : Nat) (hr : g.reg = f.reg) (h : f.hi < 64) (hd : f.hi < g.lo ∨ g.hi < f.lo) :
    (s.wr f n v).rd g n = s.rd g n :=
  s.rd_wr_disjoint f g n v 0 0 hr (by omega) (by omega)

section SlotFields

variable (s : State) (n : Nat) (c : Cmd)

/-- The fields of the slot's first register: the later writes are to other fields, and to the other register. -/
theorem State.rd_loadSlotRegs :
    (s.loadSlotRegs n c).rd F.netSlotJob n = c.field 0x14 4 % 2 ^ 24 ∧ (s.loadSlotRegs n c).rd F.netSlotEpoch n = c.field 0x18 2 % 2 ^ 16 ∧
      (s.loadSlotRegs n c).rd F.netSlotOwnRank n = c.field 0x1C 4 % 2 ^ 20 ∧ (s.loadSlotRegs n c).rd F.netSlotState n = 1 ∧
      (s.loadSlotRegs n c).rd F.netSlotRemoteCmd n = c.field 0x11 1 / 2 % 2 := by
  have hother (t : State) (f g : Fld) (v : Nat) (hf : f.reg = .netSlotTable) (hg : g.reg = .netSlot) :
      (t.wr f n v).rd g n = t.rd g n :=
    t.rd_wr_ne f g n n v 0 0 (by rw [hf, hg]; exact (Reg.addr_netSlot_ne n).symm)
  have htable (g : Fld) (hg : g.reg = .netSlot) (t : State) : (((t.wr F.netSlotTableBase n (c.field 0x2C 4)).wr F.netSlotTableCount n
      (c.field 0x28 4)).wr F.netSlotTableContext n (c.field 0x38 2)).rd g n = t.rd g n := by
    rw [hother _ _ _ _ rfl hg, hother _ _ _ _ rfl hg, hother _ _ _ _ rfl hg]
  unfold State.loadSlotRegs
  dsimp only
  rw [htable _ rfl, htable _ rfl, htable _ rfl, htable _ rfl, htable _ rfl]
  refine ⟨?_, ?_, ?_, ?_, State.rd_wr_first _ _ _ _ (by decide)⟩
  · rw [State.rd_wr_apart _ F.netSlotRemoteCmd F.netSlotJob _ _ rfl (by decide) (by decide),
      State.rd_wr_apart _ F.netSlotState F.netSlotJob _ _ rfl (by decide) (by decide),
      State.rd_wr_apart _ F.netSlotOwnRank F.netSlotJob _ _ rfl (by decide) (by decide),
      State.rd_wr_apart _ F.netSlotEpoch F.netSlotJob _ _ rfl (by decide) (by decide)]
    exact State.rd_wr_first _ _ _ _ (by decide)
  · rw [State.rd_wr_apart _ F.netSlotRemoteCmd F.netSlotEpoch _ _ rfl (by decide) (by decide),
      State.rd_wr_apart _ F.netSlotState F.netSlotEpoch _ _ rfl (by decide) (by decide),
      State.rd_wr_apart _ F.netSlotOwnRank F.netSlotEpoch _ _ rfl (by decide) (by decide)]
    exact State.rd_wr_first _ _ _ _ (by decide)
  · rw [State.rd_wr_apart _ F.netSlotRemoteCmd F.netSlotOwnRank _ _ rfl (by decide) (by decide),
      State.rd_wr_apart _ F.netSlotState F.netSlotOwnRank _ _ rfl (by decide) (by decide)]
    exact State.rd_wr_first _ _ _ _ (by decide)
  · rw [State.rd_wr_apart _ F.netSlotRemoteCmd F.netSlotState _ _ rfl (by decide) (by decide)]
    exact State.rd_wr_first _ _ _ _ (by decide)

theorem State.rd_loadSlotRegs_table :
    (s.loadSlotRegs n c).rd F.netSlotTableBase n = c.field 0x2C 4 % 2 ^ 18 ∧
      (s.loadSlotRegs n c).rd F.netSlotTableCount n = c.field 0x28 4 % 2 ^ 19 ∧
      (s.loadSlotRegs n c).rd F.netSlotTableContext n = c.field 0x38 2 % 2 ^ 12 := by
  unfold State.loadSlotRegs
  dsimp only
  refine ⟨?_, ?_, State.rd_wr_first _ _ _ _ (by decide)⟩
  · rw [State.rd_wr_apart _ F.netSlotTableContext F.netSlotTableBase _ _ rfl (by decide) (by decide),
      State.rd_wr_apart _ F.netSlotTableCount F.netSlotTableBase _ _ rfl (by decide) (by decide)]
    exact State.rd_wr_first _ _ _ _ (by decide)
  · rw [State.rd_wr_apart _ F.netSlotTableContext F.netSlotTableCount _ _ rfl (by decide) (by decide)]
    exact State.rd_wr_first _ _ _ _ (by decide)

end SlotFields

/-- Entries set one after another at rising places are all there. -/
theorem NMap.get?_foldl_set {α : Type} (g : Nat → α) (m : NMap α) (b count j : Nat) (h : j < count) :
    ((List.range count).foldl (fun (m : NMap α) k => m.set (b + k) (g k)) m).get? (b + j) = some (g j) := by
  induction count with
  | zero => exact absurd h (Nat.not_lt_zero j)
  | succ count ih =>
    rw [List.range_succ, List.foldl_append, List.foldl_cons, List.foldl_nil, NMap.get?_set]
    split
    · next he =>
      obtain rfl : count = j := by omega
      rfl
    · next hne => exact ih (by omega)

theorem Cmd.field_lt (c : Cmd) (off n : Nat) : c.field off n < 256 ^ n := by
  unfold Cmd.field
  refine (leNat_lt _).trans_le (Nat.pow_le_pow_right (by decide) ?_)
  rw [List.length_take]
  exact Nat.min_le_left _ _

/-- What JOB_LOAD's body has when it is good, as far as the slot's registers hold it. -/
theorem State.of_loadOk {s : State} {q : Nat} {c : Cmd} (h : s.loadOk q c = true) :
    c.field 0x10 1 < 4 ∧ c.field 0x11 1 < 4 ∧ c.field 0x14 4 < 2 ^ 24 ∧ 1 ≤ c.field 0x28 4 ∧ c.field 0x28 4 ≤ 262144 ∧
      c.field 0x2C 4 + c.field 0x28 4 ≤ 262144 ∧ c.field 0x1C 4 < c.field 0x28 4 ∧ c.field 0x38 2 < 4096 := by
  unfold State.loadOk at h
  simp only [Bool.and_eq_true, decide_eq_true_eq] at h
  obtain ⟨⟨⟨⟨⟨⟨⟨⟨⟨⟨hslot, hflags⟩, -⟩, hjob⟩, hlo⟩, hhi⟩, hsum⟩, hrank⟩, -⟩, hctx⟩, -⟩ := h
  exact ⟨hslot, hflags, hjob, hlo, hhi, hsum, hrank, hctx⟩

/-- A loaded slot's registers and its range of the rank table. -/
theorem State.loadSlot_spec {s u : State} {n q seq : Nat} {c : Cmd} {img : List Byte} (hok : s.loadOk q c = true)
    (hn : q < 32768 → n < 16) {v : State} (hv : v = u.loadSlot n q seq c img) :
    v.slotState n = 1 ∧ v.rd F.netSlotJob n = c.field 0x14 4 ∧ v.rd F.netSlotEpoch n = c.field 0x18 2 ∧ v.ownRank n = c.field 0x1C 4 ∧
      v.netCtx n = c.field 0x38 2 ∧ v.rd F.netSlotTableBase n = c.field 0x2C 4 ∧ v.rd F.netSlotTableCount n = c.field 0x28 4 ∧
      v.flag F.netSlotRemoteCmd n = (c.field 0x11 1).testBit 1 ∧
      ∀ k < c.field 0x28 4, v.ranks.get? (n / 4 * 262144 + c.field 0x2C 4 + k) = some (imageEntry img k).1 := by
  subst hv
  obtain ⟨-, hflags, hjob, hlo, hhi, hsum, hrank, hctx⟩ := State.of_loadOk hok
  obtain ⟨hj, he, ho, hs, hr⟩ := State.rd_loadSlotRegs (u.loadRanks n (c.field 0x2C 4) (c.field 0x28 4) img) n c
  obtain ⟨hb, hc, hx⟩ := State.rd_loadSlotRegs_table (u.loadRanks n (c.field 0x2C 4) (c.field 0x28 4) img) n c
  have hrd {f : Fld} (hf : f.reg = .netSlot ∨ f.reg = .netSlotTable) := u.rd_loadSlot (seq := seq) c img (f := f) hn hf
  refine ⟨(hrd (.inl rfl)).trans hs, (hrd (.inl rfl)).trans (hj.trans (Nat.mod_eq_of_lt hjob)),
    (hrd (.inl rfl)).trans (he.trans (Nat.mod_eq_of_lt (c.field_lt 0x18 2))),
    (hrd (.inl rfl)).trans (ho.trans (Nat.mod_eq_of_lt (by omega))), (hrd (.inr rfl)).trans (hx.trans (Nat.mod_eq_of_lt hctx)),
    (hrd (.inr rfl)).trans (hb.trans (Nat.mod_eq_of_lt (by omega))), (hrd (.inr rfl)).trans (hc.trans (Nat.mod_eq_of_lt (by omega))), ?_,
    fun k hk => ?_⟩
  · rw [Nat.testBit_eq_decide_div_mod_eq]
    exact congrArg (fun m => decide (m = 1)) ((hrd (.inl rfl)).trans hr)
  · refine (congrArg (fun m : NMap RankEntry => m.get? _) (State.setQueue_ranks _ q _)).trans ?_
    exact NMap.get?_foldl_set _ _ _ _ k hk

-- JOB_LOAD (R383, R391)

section JobLoad

variable {s : State} {q seq n : Nat} {c : Cmd} (hc : Starts s q seq 0x48 c) (hn : n = s.cmdSlot q (c.field 0x10 1))

include hc hn

theorem exec_jobLoad_spec :
    (s.loadOk q c = false → exec (.jobLoad q seq) s = .next (s.endCmd q seq 0x01)) ∧
    (s.loadOk q c = true → c.stalled = none →
      (s.slotState n ≠ 0 → exec (.jobLoad q seq) s = .next (s.endCmd q seq 0x4C)) ∧
      (s.slotState n = 0 → (∃ m ∈ s.otherSlots n, s.rd F.netSlotJob m = c.field 0x14 4) →
        exec (.jobLoad q seq) s = .next (s.endCmd q seq 0x4F)) ∧
      (∀ u img, s.slotState n = 0 → (∀ m ∈ s.otherSlots n, s.rd F.netSlotJob m ≠ c.field 0x14 4) →
        s.ctxRead (s.rdmaEngine q c.tag) (c.field 0x20 8) (16 * c.field 0x28 4) = (u, .ok img) →
        (u.imageOk n (c.field 0x2C 4) (c.field 0x28 4) img = false → exec (.jobLoad q seq) s = .next (u.endCmd q seq 0x01)) ∧
        (u.imageOk n (c.field 0x2C 4) (c.field 0x28 4) img = true →
          exec (.jobLoad q seq) s = .next ((u.loadSlot n q seq c img).beginLaunch n q c)))) := by
  subst hn
  have hexec : exec (.jobLoad q seq) s = execJobLoad q seq s := rfl
  rw [hexec]
  unfold execJobLoad
  refine ⟨State.onStart_of_bad _ hc, fun hok hstall => ?_⟩
  rw [State.onStart_of_starts _ hc hok]
  dsimp only
  rw [hstall, if_neg (by decide)]
  refine ⟨fun hst => ?_, fun hst hheld => ?_, fun u img hst hfree hread => ⟨fun himg => ?_, fun himg => ?_⟩⟩
  · rw [if_pos hst]
  · obtain ⟨m, hm, he⟩ := hheld
    rw [if_neg (fun h => h hst), if_pos (List.any_eq_true.mpr ⟨m, hm, decide_eq_true he⟩)]
  · rw [if_neg (fun h => h hst), if_neg (show ¬ _ = true by
      rw [Bool.not_eq_true, List.any_eq_false]; exact fun m hm => by simpa using hfree m hm), hread]
    dsimp only
    rw [himg, if_neg (by decide)]
  · rw [if_neg (fun h => h hst), if_neg (show ¬ _ = true by
      rw [Bool.not_eq_true, List.any_eq_false]; exact fun m hm => by simpa using hfree m hm), hread]
    dsimp only
    rw [if_pos himg]

end JobLoad

-- JOB_TEARDOWN (R409)

section Teardown

variable {s : State} {q seq n : Nat} {c : Cmd} (hc : Starts s q seq 0x4A c) (hslot : c.field 0x10 1 < 4)
  (hzero : c.zeroAt [(0x11, 47)] = true) (hn : n = s.cmdSlot q (c.field 0x10 1))

include hc hslot hzero hn

theorem exec_jobTeardown_spec :
    (s.slotState n = 0 ∨ s.slotState n = 4 → exec (.jobTeardown q seq) s = .next (s.endCmd q seq 0x40)) ∧
    (s.slotState n ≠ 0 → s.slotState n ≠ 4 → ∀ t, t = ((s.endLoad n 0x4A).endSlotCmds n).wr F.netSlotState n 4 →
      exec (.jobTeardown q seq) s =
        .next ((t.setJob n { t.job n with teardown := some (q, seq, t.now + 10000000) }).runCmd q seq)) := by
  subst hn
  have hok : (decide (c.field 0x10 1 < 4) && c.zeroAt [(0x11, 47)]) = true := by
    rw [decide_eq_true hslot, hzero]
    rfl
  have hexec : exec (.jobTeardown q seq) s = execJobTeardown q seq s := rfl
  rw [hexec]
  unfold execJobTeardown
  rw [State.onStart_of_starts _ hc hok]
  dsimp only
  refine ⟨fun h => ?_, fun h0 h4 t ht => ?_⟩
  · rw [if_pos h]
  · subst ht
    rw [if_neg (fun h => h.elim h0 h4)]

end Teardown

theorem State.slotState_slotIdle (s : State) (n : Nat) (b : Bool) : (s.slotIdle n b).slotState n = 0 :=
  (State.rd_wr_apart _ F.netSlotRemoteCmd F.netSlotState n 0 rfl (by decide) (by decide)).trans
    (State.rd_wr_first _ F.netSlotState n 0 (by decide))

section SlotTimers

variable {s : State} {part slot n : Nat} (hp : part < partCount s.mode) (hs : slot < 4) (hn : n = s.netIdx part slot)

include hp hs hn

theorem exec_teardownDone_of_due {q seq limit : Nat} (ht : (s.job n).teardown = some (q, seq, limit)) (hst : s.slotState n = 4)
    (hdue : limit ≤ s.now ∨ ∀ e ∈ (s.job n).conns ++ (s.job n).streams, e.2.unacked = []) :
    exec (.teardownDone part slot) s = .next ((s.slotIdle n false).endCmd q seq 0) := by
  subst hn
  show execTeardownDone part slot s = _
  unfold execTeardownDone
  dsimp only
  rw [ht]
  refine if_pos ⟨hp, hs, hst, hdue.symm.imp_left fun h => ?_⟩
  exact List.all_eq_true.mpr fun e he => decide_eq_true (h e he)

theorem exec_launchChildTimeout_of_due {r : LaunchRound} {child limit : Nat} (hr : (s.job n).round = some r)
    (hw : r.waiting.get? child = some limit) (hdue : limit ≤ s.now) : exec (.launchChildTimeout part slot child) s =
      .next (s.settleChild n child r.kind { failed := 1, lowest := [child] } (s.childRanks n child)) := by
  subst hn
  show execLaunchChildTimeout part slot child s = _
  unfold execLaunchChildTimeout
  dsimp only
  rw [hr]
  exact if_pos ⟨hp, hs, by rw [hw]; exact decide_eq_true hdue⟩

theorem exec_launchHoldTimeout_of_due (hst : s.slotState n = 1 ∨ s.slotState n = 2) (hdue : (s.job n).deadline ≤ s.now) :
    exec (.launchHoldTimeout part slot) s = .next ((s.endLoad n 0x4A).slotIdle n true) := by
  subst hn
  show execLaunchHoldTimeout part slot s = _
  unfold execLaunchHoldTimeout
  exact if_pos ⟨hp, hs, hst, hdue⟩

end SlotTimers

-- launch messages (R405 to R408)

theorem State.onLaunch_of_heads {s : State} {b n : Nat} {p : FletusPkt} {x : RxFrame} {kind : FletusMsg → Bool}
    {f : State → Nat → Nat → FletusMsg → State} {m : FletusMsg} (h : Heads s b (.fletus p) x n) (hm : p.msg = m) (hk : kind m = true) :
    s.onLaunch b kind f = .next ((f s n x.src m).dropFrame b x) := by
  subst hm
  exact State.onFletus_of_heads h hk rfl

section LaunchPackets

variable {s : State} {b n : Nat} {p : FletusPkt} {x : RxFrame} (hx : Heads s b (.fletus p) x n)

include hx

theorem exec_prepare_of_heads {i : PrepareInfo} (hm : p.msg = .prepare i) :
    exec (.prepare b) s = .next ((s.takePrepare n x.src i).dropFrame b x) := by
  show execPrepare b s = _
  unfold execPrepare
  refine (State.onLaunch_of_heads hx hm ?_).trans ?_
  · rfl
  · rfl

theorem exec_prepareAck_of_heads {r : SubtreeResult} (hm : p.msg = .prepareAck r) :
    exec (.prepareAck b) s = .next ((s.settleChild n x.src .prepare r []).dropFrame b x) := by
  show execPrepareAck b s = _
  unfold execPrepareAck
  refine (State.onLaunch_of_heads hx hm ?_).trans ?_
  · rfl
  · rfl

theorem exec_notPrepared_of_heads (hm : p.msg = .notPrepared) :
    exec (.notPrepared b) s = .next ((s.settleChild n x.src .prepare { failed := 1, lowest := [x.src] } (s.childRanks n x.src)).dropFrame b x) := by
  show execNotPrepared b s = _
  unfold execNotPrepared
  refine (State.onLaunch_of_heads hx hm ?_).trans ?_
  · rfl
  · rfl

theorem exec_arm_of_heads (hm : p.msg = .arm) :
    exec (.arm b) s = .next ((s.takeArm n x.src).dropFrame b x) := by
  show execArm b s = _
  unfold execArm
  refine (State.onLaunch_of_heads hx hm ?_).trans ?_
  · rfl
  · rfl

theorem exec_armAck_of_heads {r : SubtreeResult} (hm : p.msg = .armAck r) :
    exec (.armAck b) s = .next ((s.settleChild n x.src .arm r []).dropFrame b x) := by
  show execArmAck b s = _
  unfold execArmAck
  refine (State.onLaunch_of_heads hx hm ?_).trans ?_
  · rfl
  · rfl

theorem exec_abort_of_heads (hm : p.msg = .abort) :
    exec (.abort b) s = .next ((s.takeAbort n x.src).dropFrame b x) := by
  show execAbort b s = _
  unfold execAbort
  refine (State.onLaunch_of_heads hx hm ?_).trans ?_
  · rfl
  · rfl

theorem exec_abortAck_of_heads {r : SubtreeResult} (hm : p.msg = .abortAck r) :
    exec (.abortAck b) s = .next ((s.settleChild n x.src .abort r []).dropFrame b x) := by
  show execAbortAck b s = _
  unfold execAbortAck
  refine (State.onLaunch_of_heads hx hm ?_).trans ?_
  · rfl
  · rfl

end LaunchPackets

section LaunchMessages

variable {s : State} {n src : Nat} (hanc : ancestorOf 8 src (s.ownRank n) = true)

include hanc

theorem State.takePrepare_of_unfit {i : PrepareInfo} (h : s.slotState n = 3 ∨ s.slotState n = 4 ∨ i.ranks ≠ s.rd F.netSlotTableCount n ∨
    i.digest ≠ (s.job n).digest) : s.takePrepare n src i = s.sendLaunch n src .notPrepared := by
  unfold State.takePrepare
  dsimp only
  rw [hanc, if_neg (by decide)]
  refine if_pos ?_
  obtain h | h | h | h := h
  · exact .inl (by omega)
  · exact .inl (by omega)
  · exact .inr (.inl h)
  · exact .inr (.inr h)

theorem State.takePrepare_of_loaded {i : PrepareInfo} (hst : s.slotState n = 1) (hranks : i.ranks = s.rd F.netSlotTableCount n)
    (hdigest : i.digest = (s.job n).digest) (hround : (s.job n).round = none) :
    s.takePrepare n src i = (s.startRound n .prepare (some src) {}).settleRound n := by
  unfold State.takePrepare
  dsimp only
  rw [hanc, if_neg (by decide), hround]
  refine if_neg ?_
  rintro (h | h | h)
  · exact h.1 hst
  · exact h hranks
  · exact h hdigest

theorem State.takeArm_of_prepared (hst : s.slotState n = 2) :
    s.takeArm n src = ((s.armSlot n 0).startRound n .arm (some src) {}).settleRound n := by
  unfold State.takeArm
  dsimp only
  rw [hanc, if_neg (by decide), if_pos hst]

theorem State.takeAbort_of_loaded (hround : (s.job n).round = none) (hst : s.slotState n = 1 ∨ s.slotState n = 2) :
    s.takeAbort n src = ((s.wr F.netSlotState n 1).startRound n .abort (some src) {}).settleRound n := by
  unfold State.takeAbort
  dsimp only
  rw [hanc, if_neg (by decide), hround]
  refine (if_neg Bool.false_ne_true).trans ?_
  rw [if_pos hst]

end LaunchMessages

section SettleRound

variable {s : State} {n : Nat} {r : LaunchRound} (hr : (s.job n).round = some r) (hw : r.waiting = [])

include hr hw

theorem State.settleRound_spec :
    (∀ p, r.parent = some p → r.kind = .prepare →
      s.settleRound n = (s.wr F.netSlotState n 2).sendLaunch n p (.prepareAck { r.res with good := r.res.good + 1 })) ∧
    (∀ p, r.parent = some p → r.kind = .arm → s.settleRound n = s.sendLaunch n p (.armAck { r.res with good := r.res.good + 1 })) ∧
    (r.parent = none → r.kind = .arm → r.res.failed = 0 → s.settleRound n = s.armSlot n 0) ∧
    (r.parent = none → r.kind = .arm → r.res.failed ≠ 0 → s.settleRound n = (s.writeFail n r.res.lowest).armSlot n 0x4B) := by
  unfold State.settleRound
  dsimp only
  rw [hr]
  dsimp only
  rw [if_neg (fun h => h hw)]
  refine ⟨fun p hp hk => ?_, fun p hp hk => ?_, fun hp hk hres => ?_, fun hp hk hres => ?_⟩
  · rw [hp, hk]
  · rw [hp, hk]
  · rw [hp, hk]
    dsimp only
    unfold State.rootEnds
    rw [hk]
    exact if_pos hres
  · rw [hp, hk]
    dsimp only
    unfold State.rootEnds
    rw [hk]
    exact if_neg hres

end SettleRound

-- the timebase (R411)

theorem toUnsigned_mod_width (w : Nat) (i : Int) : toUnsigned w i % 2 ^ w = toUnsigned w i := by
  unfold toUnsigned
  have hpos : (0 : Int) < ((2 ^ w : Nat) : Int) := by exact_mod_cast Nat.two_pow_pos w
  have hlo := Int.emod_nonneg i hpos.ne'
  have hhi := Int.emod_lt_of_pos i hpos
  exact Nat.mod_eq_of_lt (by omega)

theorem State.wr_with_ptp (s : State) (f : Fld) (n v : Nat) (p : PtpSt) : { s.wr f n v with ptp := p } = { s with ptp := p }.wr f n v := rfl

/-- The timebase once a synchronisation has written its rate, its residual and its offset. -/
def State.ptpSynced (s : State) (offset residual rate : Int) : State :=
  ((s.wr F.tbRatePpb 0 (toUnsigned 32 (max (-200000) (min rate 200000)))).wr F.tbStatusResidualNs 0 (satSigned 32 residual)).wr
    F.tbPtpOffsetOffset 0 (toUnsigned 64 offset)

theorem State.ptpSynced_with_ptp (s : State) (offset residual rate : Int) (p : PtpSt) :
    { s.ptpSynced offset residual rate with ptp := p } = { s with ptp := p }.ptpSynced offset residual rate := by
  unfold State.ptpSynced
  rw [State.wr_with_ptp, State.wr_with_ptp, State.wr_with_ptp]

section Ptp

variable (s : State) (offset residual rate : Int)

theorem isReg_timebase : IsReg F.tbRatePpb.reg 0 ∧ IsReg F.tbStatusLocked.reg 0 ∧ IsReg F.tbPtpOffsetOffset.reg 0 :=
  ⟨isReg_of_lt (by decide), isReg_of_lt (by decide), isReg_of_lt (by decide)⟩

/-- The rate and the offset are those of the synchronisation, the lock is as it was, and only the three registers change. -/
theorem State.ptpSynced_spec :
    (s.ptpSynced offset residual rate).rd F.tbRatePpb 0 = toUnsigned 32 (max (-200000) (min rate 200000)) ∧
      (s.ptpSynced offset residual rate).rd F.tbPtpOffsetOffset 0 = toUnsigned 64 offset ∧
      (s.ptpSynced offset residual rate).rd F.tbStatusLocked 0 = s.rd F.tbStatusLocked 0 ∧
      OnlyRegs [(.tbRate, 0), (.tbStatus, 0), (.tbPtpOffset, 0)] s (s.ptpSynced offset residual rate) := by
  obtain ⟨hr, hs, ho⟩ := isReg_timebase
  refine ⟨?_, ?_, ?_, ?_⟩
  · refine (State.rd_wr_of_reg_ne _ (f := F.tbPtpOffsetOffset) (g := F.tbRatePpb) _ 0 0 ho hr (by decide)).trans ?_
    refine (State.rd_wr_of_reg_ne _ (f := F.tbStatusResidualNs) (g := F.tbRatePpb) _ 0 0 hs hr (by decide)).trans ?_
    exact (State.rd_wr_first s F.tbRatePpb 0 _ (by decide)).trans (toUnsigned_mod_width 32 _)
  · exact (State.rd_wr_first _ F.tbPtpOffsetOffset 0 _ (by decide)).trans (toUnsigned_mod_width 64 offset)
  · refine (State.rd_wr_of_reg_ne _ (f := F.tbPtpOffsetOffset) (g := F.tbStatusLocked) _ 0 0 ho hs (by decide)).trans ?_
    refine (State.rd_wr_apart _ F.tbStatusResidualNs F.tbStatusLocked 0 _ rfl (by decide) (by decide)).trans ?_
    exact State.rd_wr_of_reg_ne s (f := F.tbRatePpb) (g := F.tbStatusLocked) _ 0 0 hr hs (by decide)
  · have h1 := State.wr_onlyRegs s F.tbRatePpb 0 (toUnsigned 32 (max (-200000) (min rate 200000))) 0 hr
    have h2 := fun t : State => t.wr_onlyRegs F.tbStatusResidualNs 0 (satSigned 32 residual) 0 hs
    have h3 := fun t : State => t.wr_onlyRegs F.tbPtpOffsetOffset 0 (toUnsigned 64 offset) 0 ho
    have hsub : [(F.tbRatePpb.reg, 0)] ⊆ [(Reg.tbRate, 0), (.tbStatus, 0), (.tbPtpOffset, 0)] ∧
        [(F.tbStatusResidualNs.reg, 0)] ⊆ [(Reg.tbRate, 0), (.tbStatus, 0), (.tbPtpOffset, 0)] ∧
        [(F.tbPtpOffsetOffset.reg, 0)] ⊆ [(Reg.tbRate, 0), (.tbStatus, 0), (.tbPtpOffset, 0)] := by decide
    exact OnlyRegs.trans (OnlyRegs.trans (OnlyRegs.mono h1 hsub.1) (OnlyRegs.mono (h2 _) hsub.2.1)) (OnlyRegs.mono (h3 _) hsub.2.2)

/-- A write of the lock leaves the rate and the offset. -/
theorem State.wr_locked_spec (t : State) (v : Nat) (hv : v < 2) :
    (t.wr F.tbStatusLocked 0 v).rd F.tbRatePpb 0 = t.rd F.tbRatePpb 0 ∧
      (t.wr F.tbStatusLocked 0 v).rd F.tbPtpOffsetOffset 0 = t.rd F.tbPtpOffsetOffset 0 ∧
      (t.wr F.tbStatusLocked 0 v).rd F.tbStatusLocked 0 = v ∧
      OnlyRegs [(.tbRate, 0), (.tbStatus, 0), (.tbPtpOffset, 0)] t (t.wr F.tbStatusLocked 0 v) := by
  obtain ⟨hr, hs, ho⟩ := isReg_timebase
  exact ⟨State.rd_wr_of_reg_ne t (f := F.tbStatusLocked) v 0 0 hs hr (by decide),
    State.rd_wr_of_reg_ne t (f := F.tbStatusLocked) v 0 0 hs ho (by decide),
    (State.rd_wr_first t F.tbStatusLocked 0 v (by decide)).trans (Nat.mod_eq_of_lt hv),
    OnlyRegs.mono (State.wr_onlyRegs t F.tbStatusLocked 0 v 0 hs) (by decide)⟩

end Ptp

/-- A synchronisation leaves the servo's values and its three registers; the lock follows the residual. -/
theorem exec_ptpSync_spec {s : State} {offset residual rate : Int} (hen : s.flag F.tbCfgPtpEn 0 = true) :
    ∃ t, exec (.ptpSync offset residual rate) s = .next t ∧
      t.rd F.tbRatePpb 0 = toUnsigned 32 (max (-200000) (min rate 200000)) ∧ t.rd F.tbPtpOffsetOffset 0 = toUnsigned 64 offset ∧
      t.ptp.last = s.now ∧ t.ptp.good = (if residual.natAbs ≤ 100 then s.ptp.good + 1 else 0) ∧
      t.flag F.tbStatusLocked 0 = (if 16 ≤ t.ptp.good then true else if 1000 < residual.natAbs then false else s.flag F.tbStatusLocked 0) ∧
      OnlyRegs [(.tbRate, 0), (.tbStatus, 0), (.tbPtpOffset, 0)] { s with ptp := t.ptp } t := by
  have hexec : exec (.ptpSync offset residual rate) s = .next
      (let good := if decide (residual.natAbs ≤ 100) then s.ptp.good + 1 else 0
      let u : State := { s with ptp := { good := good, last := s.now } }.ptpSynced offset residual rate
      if 16 ≤ good then u.wr F.tbStatusLocked 0 1 else if 1000 < residual.natAbs then u.wr F.tbStatusLocked 0 0 else u) := by
    show execPtpSync offset residual rate s = _
    unfold execPtpSync
    rw [if_pos hen]
    dsimp only
    rw [← State.ptpSynced_with_ptp]
    rfl
  rw [hexec]
  simp only [decide_eq_true_eq]
  generalize (if residual.natAbs ≤ 100 then s.ptp.good + 1 else 0) = good
  obtain ⟨hrate, hoffset, hlocked, honly⟩ := State.ptpSynced_spec { s with ptp := { good := good, last := s.now } } offset residual rate
  have hlock (v : Nat) (hv : v < 2) := State.wr_locked_spec
    ({ s with ptp := { good := good, last := s.now } }.ptpSynced offset residual rate) v hv
  by_cases hgood : 16 ≤ good
  · obtain ⟨hr, ho, hl, honly'⟩ := hlock 1 (by decide)
    refine ⟨_, congrArg Host.Outcome.next (if_pos hgood), hr.trans hrate, ho.trans hoffset, rfl, rfl, ?_, OnlyRegs.trans honly honly'⟩
    exact (decide_eq_true hl).trans (if_pos hgood).symm
  · by_cases hfar : 1000 < residual.natAbs
    · obtain ⟨hr, ho, hl, honly'⟩ := hlock 0 (by decide)
      refine ⟨_, congrArg Host.Outcome.next ((if_neg hgood).trans (if_pos hfar)), hr.trans hrate, ho.trans hoffset, rfl, rfl, ?_,
        OnlyRegs.trans honly honly'⟩
      refine (decide_eq_false ?_).trans ((if_neg hgood).trans (if_pos hfar)).symm
      rw [hl]
      decide
    · refine ⟨_, congrArg Host.Outcome.next ((if_neg hgood).trans (if_neg hfar)), hrate, hoffset, rfl, rfl, ?_, honly⟩
      exact (congrArg (fun v => decide (v = 1)) hlocked).trans ((if_neg hgood).trans (if_neg hfar)).symm

/-- No synchronisation for 4 s takes the lock; the last rate is held. -/
theorem exec_ptpSyncLoss_spec {s : State} (hl : s.flag F.tbStatusLocked 0 = true) (hlast : s.ptp.last + 4000000000 ≤ s.now) :
    ∃ t, exec .ptpSyncLoss s = .next t ∧ t.flag F.tbStatusLocked 0 = false ∧ t.rd F.tbRatePpb 0 = s.rd F.tbRatePpb 0 := by
  refine ⟨{ s.wr F.tbStatusLocked 0 0 with ptp := { good := 0, last := s.ptp.last } }, ?_, ?_, ?_⟩
  · show execPtpSyncLoss s = _
    unfold execPtpSyncLoss
    exact if_pos ⟨hl, hlast⟩
  · exact decide_eq_false fun h => absurd ((State.rd_wr_first s F.tbStatusLocked 0 0 (by decide)).symm.trans h) (by decide)
  · exact State.rd_wr_of_reg_ne s (f := F.tbStatusLocked) (g := F.tbRatePpb) 0 0 0 (isReg_of_lt (by decide)) (isReg_of_lt (by decide))
      (by decide)

-- SPLIT (R378)

/-- The signalling of a priority changes nothing that sent frames and the ports' state do not. -/
theorem State.settlePfc_keeps {β : Type} (f : State → β) (hsend : ∀ (t : State) m, f (t.send m) = f t)
    (hport : ∀ (t : State) b x, f (t.setPort b x) = f t) (s : State) (b prio : Nat) : f (s.settlePfc b prio) = f s := by
  have hfold (l : List Nat) (m : Nat → Sent) (x : PortSt) :
      f (l.foldl (fun (t : State) sub => t.send (m sub)) (s.setPort b x)) = f s :=
    (State.foldl_keeps f (fun t sub => hsend t (m sub)) l _).trans (hport s b x)
  unfold State.settlePfc
  dsimp only
  split
  · exact hfold _ (fun sub => .pfc b sub prio true) _
  · split
    · exact hfold _ (fun sub => .pfc b sub prio false) _
    · rfl

/-- Bit n of a number after the bit is taken out and another is put in. -/
theorem testBit_replaced (x n v : Nat) (hv : v < 2) :
    (x - (if x.testBit n then 2 ^ n else 0) + v * 2 ^ n).testBit n = decide (v = 1) := by
  have hpos := Nat.two_pow_pos n
  have hdiv : (x - (if x.testBit n then 2 ^ n else 0)) / 2 ^ n % 2 = 0 := by
    rw [Nat.testBit_eq_decide_div_mod_eq]
    by_cases hodd : x / 2 ^ n % 2 = 1
    · have hle : 2 ^ n * 1 ≤ x := (Nat.mul_le_mul_left _ (Nat.pos_of_ne_zero fun h => by rw [h] at hodd; cases hodd)).trans
        (Nat.mul_div_le x (2 ^ n))
      have hsub : (x - 2 ^ n) / 2 ^ n = x / 2 ^ n - 1 := by
        have h := Nat.sub_mul_div x (2 ^ n) 1
        rwa [Nat.mul_one] at h
      rw [if_pos (decide_eq_true hodd), hsub]
      generalize x / 2 ^ n = d at hodd
      omega
    · rw [if_neg (fun h => hodd (of_decide_eq_true h)), Nat.sub_zero]
      generalize x / 2 ^ n = d at hodd
      omega
  rw [Nat.testBit_eq_decide_div_mod_eq, Nat.add_mul_div_right _ _ hpos]
  generalize (x - (if x.testBit n then 2 ^ n else 0)) / 2 ^ n = d at hdiv
  exact decide_eq_decide.mpr (by omega)

theorem exec_splitWrite_spec {s : State} {a : Access} {r : RegWriteReq} (hw : Writes s a .portCfg r)
    (hcov : r.covers F.portCfgSplit = true) : ∃ t, exec (.splitWrite a) s = .next t ∧
      t.flash.split.testBit r.n = decide (r.new F.portCfgSplit = 1) ∧ t.rd F.portCfgSplit r.n = r.new F.portCfgSplit := by
  have hexec : exec (.splitWrite a) s = .next (s.writePortCfg r) := by
    show execSplitWrite a s = _
    unfold execSplitWrite
    rw [State.onWrite_of_writes _ hw (List.mem_singleton_self _)]
    exact congrArg Host.Outcome.next (if_pos hcov)
  have hkeep {β : Type} (f : State → β) (hsend : ∀ (t : State) m, f (t.send m) = f t) (hport : ∀ (t : State) b x, f (t.setPort b x) = f t)
      (u : State) : f ((List.range 8).foldl (fun (t : State) i => t.settlePfc r.n i) u) = f u :=
    State.foldl_keeps f (fun t i => State.settlePfc_keeps f hsend hport t r.n i) _ u
  refine ⟨_, hexec, ?_, ?_⟩
  · unfold State.writePortCfg
    dsimp only
    rw [if_pos hcov]
    rw [hkeep (fun t : State => t.flash) (fun _ _ => rfl) (fun _ _ _ => rfl)]
    exact testBit_replaced s.flash.split r.n _ (Word.bits_lt _ _ _)
  · unfold State.writePortCfg
    dsimp only
    rw [if_pos hcov]
    rw [hkeep (fun t : State => t.rd F.portCfgSplit r.n) (fun _ _ => rfl) (fun _ _ _ => rfl)]
    have hreg := State.reg_store s r
    rw [hw.2] at hreg
    exact congrArg (fun w : Word => w.bits 0 0) hreg

/-- Settles O53: each message acts once it heads its block's buffer; a loaded slot's registers are read back field by field, and the
timebase's from the writes of its synchronisation. -/
theorem jobsAndTimebase : Obligations.JobsAndTimebase := by
  unfold Obligations.JobsAndTimebase
  intro s b x n
  refine ⟨fun q seq c hc hn => ?_, fun q seq c hc hslot hzero hn => exec_jobTeardown_spec hc hslot hzero hn,
    fun part slot hp hs hn => ⟨fun q seq limit ht hst hdue => ⟨exec_teardownDone_of_due hp hs hn ht hst hdue, s.slotState_slotIdle n false⟩,
      fun r child limit => exec_launchChildTimeout_of_due hp hs hn, exec_launchHoldTimeout_of_due hp hs hn⟩,
    fun r => rfl, fun p hx => ?_, fun r hr hw => State.settleRound_spec hr hw, fun offset residual rate => exec_ptpSync_spec,
    exec_ptpSyncLoss_spec, fun a r hw _ hcov => exec_splitWrite_spec hw hcov⟩
  · obtain ⟨hbad, hgood⟩ := exec_jobLoad_spec hc hn
    refine ⟨hbad, fun hok hstall => ?_⟩
    obtain ⟨hbusy, hheld, hload⟩ := hgood hok hstall
    refine ⟨hbusy, hheld, fun u img hst hfree hread => ?_⟩
    obtain ⟨hno, hyes⟩ := hload u img hst hfree hread
    have hlt : q < 32768 → n < 16 := fun hq => hn ▸ State.cmdSlot_lt s hq (State.of_loadOk hok).1
    exact ⟨hno, fun himg => ⟨_, hyes himg, State.loadSlot_spec hok hlt rfl⟩⟩
  · exact ⟨fun i hm => ⟨exec_prepare_of_heads hx hm, fun hanc => ⟨State.takePrepare_of_unfit hanc, State.takePrepare_of_loaded hanc⟩⟩,
      fun r => exec_prepareAck_of_heads hx, exec_notPrepared_of_heads hx,
      fun hm => ⟨exec_arm_of_heads hx hm, State.takeArm_of_prepared⟩, fun r => exec_armAck_of_heads hx,
      fun hm => ⟨exec_abort_of_heads hx hm, State.takeAbort_of_loaded⟩, fun r => exec_abortAck_of_heads hx⟩

end Sys2Proof.Machine
end

section
/-! PROOFS. The registers and the state of the sketchbook's blocks, and what its operations make of them (R422 to R436). -/

namespace Sys2Proof.Machine

open Sys2Proof.Claims

-- the registers of a block

/-- The registers of a sketchbook block that the device writes or a start reads. -/
def skbRegs : List Reg :=
  [.skbCfg, .skbBase, .skbStatus, .skbWritten, .skbNextSeq, .skbReplayLen, .skbPauseSeq, .skbDivergeSeq, .skbCheckAddr]

/-- Are two fields of a sketchbook block apart: in different registers, or one above the other? -/
def skbApart (f g : Fld) : Bool :=
  decide (f.reg ∈ skbRegs) && decide (g.reg ∈ skbRegs) &&
    (decide (f.reg ≠ g.reg) || (decide (g.reg = f.reg) && decide (f.hi < 64) && (decide (f.hi < g.lo) || decide (g.hi < f.lo))))

theorem isReg_skb {r : Reg} (hr : r ∈ skbRegs) {i : Nat} (hi : i < 4) : IsReg r i := by
  refine isReg_of_lt (Nat.lt_of_lt_of_eq hi ?_)
  simp only [skbRegs, List.mem_cons, List.not_mem_nil, or_false] at hr
  obtain rfl | rfl | rfl | rfl | rfl | rfl | rfl | rfl | rfl := hr <;> rfl

/-- A field's write leaves every field of the block that is apart from it. -/
theorem State.rd_wr_skb (s : State) {i : Nat} (hi : i < 4) (f g : Fld) (v : Nat) (h : skbApart f g = true) :
    (s.wr f i v).rd g i = s.rd g i := by
  simp only [skbApart, Bool.and_eq_true, Bool.or_eq_true, decide_eq_true_eq] at h
  obtain ⟨⟨hf, hg⟩, hne | ⟨⟨heq, h64⟩, hd⟩⟩ := h
  · exact s.rd_wr_of_reg_ne v 0 0 (isReg_skb hf hi) (isReg_skb hg hi) hne
  · exact s.rd_wr_apart f g i v heq h64 hd

theorem State.mode_wr_skb (s : State) {i : Nat} (hi : i < 4) (f : Fld) (v : Nat) (h : f.reg ∈ skbRegs) : (s.wr f i v).mode = s.mode := by
  refine s.rd_wr_of_reg_ne (g := F.devPartCfgMode) v 0 0 (isReg_skb h hi) (isReg_of_lt (by decide)) fun he => ?_
  rw [he] at h
  exact absurd h (by decide)

theorem State.skbIdx_wr_skb (s : State) {i : Nat} (hi : i < 4) (f : Fld) (v : Nat) (h : f.reg ∈ skbRegs) (p : Nat) :
    (s.wr f i v).skbIdx p = s.skbIdx p := congrArg (fun m => lowestRegion m p) (s.mode_wr_skb hi f v h)

theorem State.skb_wr (s : State) (f : Fld) (i v p : Nat) : (s.wr f i v).skb p = s.skb p := rfl

theorem State.rd_setSkb (s : State) (p : Nat) (k : SkbSt) (f : Fld) (n : Nat) : (s.setSkb p k).rd f n = s.rd f n := rfl

theorem State.mode_setSkb (s : State) (p : Nat) (k : SkbSt) : (s.setSkb p k).mode = s.mode := rfl

theorem State.skbIdx_setSkb (s : State) (p : Nat) (k : SkbSt) (p' : Nat) : (s.setSkb p k).skbIdx p' = s.skbIdx p' := rfl

theorem State.skb_setSkb (s : State) (p : Nat) (k : SkbSt) : (s.setSkb p k).skb p = k := NMap.getD_set_self ..

/-- The block of a partition: it is a block, and its region is the partition's. -/
theorem State.skbIdx_lt (s : State) {p : Nat} (hp : p < partCount s.mode) : s.skbIdx p < 4 := by
  have hcount : partCount s.mode = 1 ∨ partCount s.mode = 2 ∨ partCount s.mode = 4 := by
    unfold partCount
    split
    · exact .inl rfl
    · split <;> simp
  unfold State.skbIdx lowestRegion regionsPer
  obtain h | h | h := hcount <;> rw [h] at hp ⊢ <;> omega

theorem State.partOfRegion_skbIdx (s : State) (p : Nat) : partOfRegion s.mode (s.skbIdx p) = p := by
  unfold State.skbIdx lowestRegion partOfRegion
  refine Nat.mul_div_cancel p ?_
  unfold regionsPer partCount
  split
  · decide
  · split <;> decide

-- entries put into the buffer (R422, R427)

section Push

variable (s : State) {i p : Nat} (hidx : s.skbIdx p = i) (hi : i < 4)

include hidx hi

/-- A change of the state and an update of BUF_OCC: nothing else of the block changes. -/
theorem State.skbOcc_spec (k : SkbSt) :
    ((s.setSkb p k).skbOcc p).skb p = k ∧ ((s.setSkb p k).skbOcc p).skbIdx p = i ∧
      ∀ g, skbApart F.skbStatusBufOcc g = true → ((s.setSkb p k).skbOcc p).rd g i = s.rd g i := by
  subst hidx
  exact ⟨s.skb_setSkb p k, State.skbIdx_wr_skb _ hi _ _ (by decide) p, fun g hg => State.rd_wr_skb _ hi _ g _ hg⟩

/-- An entry is appended to the buffer with the next number. -/
theorem State.skbPush_spec (kind : Nat) (digest : Bool) (ctx source : Nat) (payload : List Byte) :
    (s.skbPush p kind digest ctx source payload).skb p = { s.skb p with buf := (s.skb p).buf ++
      [{ kind := kind, digest := digest, ctx := ctx, seq := s.rd F.skbNextSeqSeq i + (s.skb p).buf.length, time := s.now,
         source := source, payload := payload }] } ∧
      (s.skbPush p kind digest ctx source payload).skbIdx p = i ∧
      ∀ g, skbApart F.skbStatusBufOcc g = true → (s.skbPush p kind digest ctx source payload).rd g i = s.rd g i := by
  subst hidx
  exact s.skbOcc_spec rfl hi _

/-- END is appended with the number of entries before it, and recording is off. -/
theorem State.skbEnd_spec (reason : Nat) :
    (s.skbEnd p reason).skb p = { s.skb p with stopping := false, buf := (s.skb p).buf ++
      [{ kind := 0x0D, digest := false, ctx := 0xFFFF, seq := s.rd F.skbNextSeqSeq i + (s.skb p).buf.length, time := s.now,
         source := reason, payload := leBytes 8 (s.rd F.skbNextSeqSeq i + (s.skb p).buf.length) }] } ∧
      (s.skbEnd p reason).rd F.skbStatusState i = 0 ∧
      ∀ g, skbApart F.skbStatusBufOcc g = true → skbApart F.skbStatusState g = true → (s.skbEnd p reason).rd g i = s.rd g i := by
  obtain ⟨hskb, hidx', hrd⟩ := s.skbPush_spec hidx hi 0x0D false 0xFFFF reason
    (leBytes 8 (s.rd F.skbNextSeqSeq i + (s.skb p).buf.length))
  subst hidx
  unfold State.skbEnd
  dsimp only
  rw [hidx', hskb]
  refine ⟨State.skb_setSkb _ p _, State.rd_wr_first _ F.skbStatusState _ 0 (by decide), fun g hb hs => ?_⟩
  exact (State.rd_wr_skb _ hi _ g _ hs).trans ((State.rd_setSkb _ p _ g _).trans (hrd g hb))

end Push

-- replays (R431, R434, R435)

section Replay

variable (s : State) {i p : Nat} (hidx : s.skbIdx p = i) (hi : i < 4)

include hidx hi

theorem State.replayPause_spec (hst : s.rd F.skbStatusState i = 2 ∨ s.rd F.skbStatusState i = 3) :
    (s.replayPause p).skbIdx p = i ∧
      (s.replayPause p).rd F.skbStatusState i =
        (if s.rd F.skbPauseSeqSeq i ≠ 0 ∧ s.rd F.skbPauseSeqSeq i ≤ s.rd F.skbNextSeqSeq i then 3 else 2) ∧
      ∀ g, skbApart F.skbStatusState g = true → (s.replayPause p).rd g i = s.rd g i := by
  have hpause : s.replayPause p = s.wr F.skbStatusState i
      (if s.rd F.skbPauseSeqSeq i ≠ 0 ∧ s.rd F.skbPauseSeqSeq i ≤ s.rd F.skbNextSeqSeq i then 3 else 2) := by
    subst hidx
    unfold State.replayPause
    exact if_pos hst
  rw [hpause]
  refine ⟨(s.skbIdx_wr_skb hi _ _ (by decide) p).trans hidx, ?_, fun g hg => s.rd_wr_skb hi _ g _ hg⟩
  refine (s.rd_wr_first F.skbStatusState i _ (by decide)).trans ?_
  split <;> rfl

/-- A replay whose place is not at the end goes on. -/
theorem State.replayEnd_of_lt (h : s.rd F.skbWrittenBytes i < s.rd F.skbReplayLenBytes i) : s.replayEnd p = s := by
  subst hidx
  unfold State.replayEnd
  exact if_neg fun hle => absurd hle.1 (by omega)

theorem State.diverge_spec (cause seq : Nat) (hcause : cause < 16) (hseq : seq < 2 ^ 64)
    (hst : s.rd F.skbStatusState i = 2 ∨ s.rd F.skbStatusState i = 3) :
    (s.diverge p cause seq).rd F.skbStatusState i = 4 ∧ (s.diverge p cause seq).rd F.skbStatusCause i = cause ∧
      (s.diverge p cause seq).rd F.skbDivergeSeqSeq i = seq := by
  subst hidx
  unfold State.diverge
  dsimp only
  rw [if_pos hst]
  refine ⟨?_, ?_, ?_⟩
  · rw [State.rd_wr_skb _ hi _ _ _ (by decide), State.rd_wr_skb _ hi _ _ _ (by decide)]
    exact State.rd_wr_first _ F.skbStatusState _ 4 (by decide)
  · rw [State.rd_wr_skb _ hi _ _ _ (by decide)]
    exact (State.rd_wr_first _ F.skbStatusCause _ cause (by decide)).trans (Nat.mod_eq_of_lt hcause)
  · exact (State.rd_wr_first _ F.skbDivergeSeqSeq _ seq (by decide)).trans (Nat.mod_eq_of_lt hseq)

end Replay

-- the range (R425)

/-- The granules of a range that a start accepts are of the far tiers: their grants alone are closed. -/
theorem State.grantNone_spec (s : State) (base size : Nat) (hlo : 0x020000000000 ≤ base) (hhi : base + size ≤ 0x040000000000) :
    RegsBut [.regGrantFar] s (s.grantNone base size) ∧ (s.grantNone base size).skbs = s.skbs := by
  unfold State.grantNone
  have hstep (t : State) (a : Nat) (ha : 0x020000000000 ≤ a ∧ a < 0x040000000000) : RegsBut [.regGrantFar] t
      (match (t.paKind a).granule? with
        | some (fm, fc, n) => if t.rd fm n = 0 then t else t.setGrant fm fc n a 0 (t.rd fc n)
        | none => t) ∧
      (match (t.paKind a).granule? with
        | some (fm, fc, n) => if t.rd fm n = 0 then t else t.setGrant fm fc n a 0 (t.rd fc n)
        | none => t).skbs = t.skbs := by
    have hkind : t.paKind a = .far ((a - 0x020000000000) / 0x8000000000) (a % 0x8000000000) := by
      unfold State.paKind
      rw [if_neg (by omega), if_neg (by omega), if_pos ha.2]
    rw [hkind]
    unfold PaKind.granule?
    dsimp only
    have hn : (a - 0x020000000000) / 0x8000000000 * 8192 + a % 0x8000000000 / 0x4000000 < 4 * 8192 := by omega
    have hreg : IsReg F.regGrantFarMode.reg ((a - 0x020000000000) / 0x8000000000 * 8192 + a % 0x8000000000 / 0x4000000) :=
      isReg_of_lt (r := .regGrantFar) hn
    generalize (a - 0x020000000000) / 0x8000000000 * 8192 + a % 0x8000000000 / 0x4000000 = n at hreg
    split
    · exact ⟨RegsBut.refl _ t, rfl⟩
    · unfold State.setGrant
      dsimp only
      have hgrant := (RegsBut.wr (rs := [.regGrantFar]) t F.regGrantFarMode 0 0 hreg (by decide)).trans
        (RegsBut.wr _ F.regGrantFarContext (t.rd F.regGrantFarContext n) 0 hreg (by decide))
      split
      · exact ⟨hgrant.trans (RegsBut.of_regs_eq rfl), rfl⟩
      · exact ⟨hgrant, rfl⟩
  have hall : ∀ a ∈ (List.range (size / 0x4000000)).map (fun i => base + i * 0x4000000), 0x020000000000 ≤ a ∧ a < 0x040000000000 := by
    intro a ha
    obtain ⟨i, hi, rfl⟩ := List.mem_map.mp ha
    have hlt := List.mem_range.mp hi
    omega
  generalize (List.range (size / 0x4000000)).map (fun i => base + i * 0x4000000) = l at hall
  induction l generalizing s with
  | nil => exact ⟨RegsBut.refl _ s, rfl⟩
  | cons a l ih =>
    obtain ⟨h1, h2⟩ := hstep s a (hall a (List.mem_cons_self ..))
    obtain ⟨h3, h4⟩ := ih _ (fun b hb => hall b (List.mem_cons_of_mem a hb))
    exact ⟨h1.trans h3, h4.trans h2⟩

/-- Are the ends of a range in the far tier of one region of a partition? -/
def farOfPart (mode p : Nat) : PaKind → PaKind → Bool
  | .far r _, .far r' _ => decide (r = r') && decide (partOfRegion mode r = p)
  | _, _ => false

/-- Does a range lie in the far tier of one of a partition's regions? -/
def State.skbInside (s : State) (p base size : Nat) : Bool := farOfPart s.mode p (s.paKind base) (s.paKind (base + size - 1))

/-- May a range and a partition's contexts not start, for a page or a task that is in the way? -/
def State.skbBusy (s : State) (p base size : Nat) : Nat :=
  if s.pages.any (fun (e : Nat × PoolPage) => rangesMeet base size e.1 (2 ^ e.2.log2)) then 2
  else if s.tasks.any (fun (e : Nat × Task) => decide (e.2.phase ≠ .ended) && decide (e.2.ctx ∈ s.skbContexts p)) then 3
  else 0

theorem State.skbStartError_eq (s : State) (p : Nat) : s.skbStartError p =
    if s.rd F.skbBaseSizeGib (s.skbIdx p) = 0 ∨ 512 < s.rd F.skbBaseSizeGib (s.skbIdx p) ∨ s.skbInside p (s.skbBase p) (s.skbRange p) = false
    then 1 else s.skbBusy p (s.skbBase p) (s.skbRange p) := by
  unfold State.skbStartError
  generalize s.skbBase p = base
  generalize s.skbRange p = size
  unfold State.skbInside
  dsimp only
  generalize s.paKind (base + size - 1) = k
  generalize s.paKind base = k'
  cases k' <;> cases k <;> rfl

theorem State.skbStartError_lt (s : State) (p : Nat) : s.skbStartError p < 4 := by
  rw [State.skbStartError_eq]
  unfold State.skbBusy
  split_ifs <;> decide

theorem State.far_bounds {s : State} {a r o : Nat} (h : s.paKind a = .far r o) : 0x020000000000 ≤ a ∧ a < 0x040000000000 := by
  unfold State.paKind at h
  dsimp only at h
  split_ifs at h
  cases h
  omega

theorem State.far_of_skbInside {s : State} {p base size : Nat} (h : s.skbInside p base size = true) :
    0x020000000000 ≤ base ∧ base + size ≤ 0x040000000000 := by
  unfold State.skbInside farOfPart at h
  split at h
  · next r o r' o' h1 h2 =>
    have hb := State.far_bounds h1
    have he := State.far_bounds h2
    omega
  · cases h

/-- A start that finds no error has its range in the far tier. -/
theorem State.range_of_skbStartError {s : State} {p : Nat} (h : s.skbStartError p = 0) :
    0x020000000000 ≤ s.skbBase p ∧ s.skbBase p + s.skbRange p ≤ 0x040000000000 := by
  rw [State.skbStartError_eq] at h
  refine State.far_of_skbInside (s := s) (p := p) ?_
  by_contra hno
  rw [if_pos (.inr (.inr (Bool.eq_false_iff.mpr hno)))] at h
  cases h

/-- What a start's check reads: the block's range and contexts, the mode, the pages and the tasks. -/
theorem State.skbStartError_congr {s t : State} (hregs : RegsBut [.skbCfg, .skbStatus] s t)
    (hrest : { t with regs := [] } = { s with regs := [] }) {p : Nat} (hp : p < partCount s.mode) :
    t.skbStartError p = s.skbStartError p := by
  have hwalk : WalkFrame [.skbCfg, .skbStatus] s t :=
    ⟨⟨(congrArg State.mem hrest : _), (congrArg State.scrambled hrest : _),
      (congrArg State.poison hrest : _)⟩,
      (congrArg State.stackSts hrest : _), hregs, by decide, by decide⟩
  have hmode := hwalk.mode_eq
  have hlt := s.skbIdx_lt hp
  have hidx : t.skbIdx p = s.skbIdx p := congrArg (fun m => lowestRegion m p) hmode
  have hsize := hregs.rd F.skbBaseSizeGib (isReg_skb (r := .skbBase) (by decide) hlt) (by decide) 0
  have hbase := hregs.rd F.skbBaseBase (isReg_skb (r := .skbBase) (by decide) hlt) (by decide) 0
  have hrange : t.skbRange p = s.skbRange p := by
    unfold State.skbRange
    rw [hidx, hsize]
  have hb : t.skbBase p = s.skbBase p := by
    unfold State.skbBase
    rw [hidx, hbase]
  have hctx : t.skbContexts p = s.skbContexts p := by
    unfold State.skbContexts State.flag
    rw [hidx]
    refine List.filterMap_congr fun n hn => ?_
    obtain ⟨k, hk, rfl⟩ := List.mem_map.mp hn
    have hreg : IsReg .skbCtx (s.skbIdx p * 16 + k) := isReg_of_lt (by
      have hk := List.mem_range.mp hk
      show _ < 64
      omega)
    rw [hregs.rd F.skbCtxValid hreg (by decide) 0, hregs.rd F.skbCtxContext hreg (by decide) 0]
  rw [State.skbStartError_eq, State.skbStartError_eq]
  unfold State.skbInside State.skbBusy
  rw [hidx, hsize, hb, hrange, hctx, hmode, hwalk.paKind, hwalk.paKind, (congrArg State.pages hrest : _),
    (congrArg State.tasks hrest : _)]

end Sys2Proof.Machine
end

section
/-! PROOFS. Recording and replay by the sketchbook (R422, R425 to R427, R429 to R436). -/

namespace Sys2Proof.Machine

open Sys2Proof.Claims

-- a write of SKB.CFG (R436)

/-- The fields of SKB.CFG other than MODE, and what RELEASE and a covered MODE clear: SKB.CFG and SKB.STATUS alone change, and MODE
and STATE do not. -/
structure CfgFrame (i : Nat) (s u : State) : Prop where
  regs : RegsBut [.skbCfg, .skbStatus] s u
  rest : { u with regs := [] } = { s with regs := [] }
  mode : u.rd F.skbCfgMode i = s.rd F.skbCfgMode i
  state : u.rd F.skbStatusState i = s.rd F.skbStatusState i

namespace CfgFrame

variable {i : Nat} {s t u : State}

theorem refl (s : State) : CfgFrame i s s := ⟨RegsBut.refl _ s, rfl, rfl, rfl⟩

theorem trans (h : CfgFrame i s t) (h' : CfgFrame i t u) : CfgFrame i s u :=
  ⟨h.regs.trans h'.regs, h'.rest.trans h.rest, h'.mode.trans h.mode, h'.state.trans h.state⟩

theorem ite {p : Prop} [Decidable p] (ht : CfgFrame i s t) (hu : CfgFrame i s u) : CfgFrame i s (if p then t else u) := by
  split
  · exact ht
  · exact hu

theorem wr (s : State) (hi : i < 4) (f : Fld) (v : Nat) (hf : f.reg ∈ [Reg.skbCfg, .skbStatus]) (hm : skbApart f F.skbCfgMode = true)
    (hs : skbApart f F.skbStatusState = true) : CfgFrame i s (s.wr f i v) := by
  have hreg : f.reg ∈ skbRegs := by
    simp only [skbApart, Bool.and_eq_true, decide_eq_true_eq] at hm
    exact hm.1.1
  exact ⟨RegsBut.wr s f v 0 (isReg_skb hreg hi) hf, rfl, s.rd_wr_skb hi f _ v hm, s.rd_wr_skb hi f _ v hs⟩

theorem mem (h : CfgFrame i s u) : SameMemory s u := ⟨(congrArg State.mem h.rest : _), (congrArg State.scrambled h.rest : _),
  (congrArg State.poison h.rest : _)⟩

end CfgFrame

/-- What a write of SKB.CFG does before the change of MODE. -/
def State.skbCfgFields (s : State) (q : RegWriteReq) : State :=
  let i := q.n
  let was := q.was F.skbCfgMode
  let other := decide (q.new F.skbCfgHostData ≠ q.was F.skbCfgHostData) || decide (q.new F.skbCfgStallMs ≠ q.was F.skbCfgStallMs)
  let s : State :=
    if was ≠ 0 then if other then s.accessError else s
    else
      let s : State := s.wr F.skbCfgHostData i (q.new F.skbCfgHostData)
      if q.new F.skbCfgStallMs = 0 then s else s.wr F.skbCfgStallMs i (q.new F.skbCfgStallMs)
  let s : State := if q.covers F.skbCfgMode then s.wr F.skbStatusEditionDiffers i 0 else s
  if q.wrote F.skbCfgRelease = 1 ∧ was = 0 then s.wr F.skbStatusReservedHeld i 0 else s

/-- A write of SKB.CFG that starts or stops, or leaves MODE. -/
theorem State.writeSkbCfg_eq (s : State) (q : RegWriteReq) :
    (q.was F.skbCfgMode = 0 → q.new F.skbCfgMode = 1 →
      s.writeSkbCfg q = (s.skbCfgFields q).recordStart (partOfRegion s.mode q.n)) ∧
    (q.was F.skbCfgMode = 0 → q.new F.skbCfgMode = 2 →
      s.writeSkbCfg q = (s.skbCfgFields q).replayStart (partOfRegion s.mode q.n)) ∧
    (q.was F.skbCfgMode = 1 → q.new F.skbCfgMode = 0 →
      s.writeSkbCfg q = (s.skbCfgFields q).recordStop (partOfRegion s.mode q.n)) ∧
    (q.was F.skbCfgMode = 2 → q.new F.skbCfgMode = 0 →
      s.writeSkbCfg q = ((s.skbCfgFields q).wr F.skbCfgMode q.n 0).wr F.skbStatusState q.n 0) ∧
    (q.new F.skbCfgMode = q.was F.skbCfgMode → s.writeSkbCfg q = s.skbCfgFields q) := by
  unfold State.writeSkbCfg State.skbCfgFields
  dsimp only
  generalize q.was F.skbCfgMode = was
  generalize q.new F.skbCfgMode = new
  refine ⟨?_, ?_, ?_, ?_, fun h => if_pos (.inl h)⟩
  · rintro rfl rfl
    exact if_neg (by decide)
  · rintro rfl rfl
    exact if_neg (by decide)
  · rintro rfl rfl
    exact if_neg (by decide)
  · rintro rfl rfl
    exact if_neg (by decide)

section Cfg

variable {s : State} {q : RegWriteReq} (hi : q.n < 4) (hhost : q.new F.skbCfgHostData = q.was F.skbCfgHostData)
  (hstall : q.new F.skbCfgStallMs = q.was F.skbCfgStallMs)

include hi hhost hstall

theorem State.skbCfgFields_frame : CfgFrame q.n s (s.skbCfgFields q) := by
  unfold State.skbCfgFields
  dsimp only
  rw [hhost, hstall]
  simp only [ne_eq, not_true_eq_false, decide_false, Bool.or_self, Bool.false_eq_true, if_false]
  refine CfgFrame.trans (t := _) ?_ (CfgFrame.ite (CfgFrame.wr _ hi F.skbStatusReservedHeld 0 (by decide) (by decide) (by decide))
    (CfgFrame.refl _))
  refine CfgFrame.trans (t := _) ?_ (CfgFrame.ite (CfgFrame.wr _ hi F.skbStatusEditionDiffers 0 (by decide) (by decide) (by decide))
    (CfgFrame.refl _))
  refine CfgFrame.ite (CfgFrame.refl s) ?_
  have hhd := CfgFrame.wr s hi F.skbCfgHostData (q.was F.skbCfgHostData) (by decide) (by decide) (by decide)
  exact CfgFrame.ite hhd (hhd.trans (CfgFrame.wr _ hi F.skbCfgStallMs _ (by decide) (by decide) (by decide)))

omit hhost hstall in
omit hi in
/-- RELEASE with MODE 0 gives the range back. -/
theorem State.skbCfgFields_release (hwas : q.was F.skbCfgMode = 0) (hrel : q.wrote F.skbCfgRelease = 1) :
    (s.skbCfgFields q).flag F.skbStatusReservedHeld q.n = false := by
  unfold State.skbCfgFields
  dsimp only
  rw [if_pos ⟨hrel, hwas⟩]
  refine decide_eq_false fun h => ?_
  exact absurd ((State.rd_wr_first _ F.skbStatusReservedHeld q.n 0 (by decide)).symm.trans h) (by decide)

end Cfg

-- recording starts and stops (R425, R427)

section Record

variable {s u : State} {i p : Nat} (hp : p < partCount s.mode) (hidx : s.skbIdx p = i) (hu : CfgFrame i s u)

include hp hidx hu

theorem CfgFrame.idx : i < 4 ∧ u.skbIdx p = i ∧ u.mode = s.mode ∧ u.skbStartError p = s.skbStartError p := by
  have hi : i < 4 := hidx ▸ s.skbIdx_lt hp
  have hmode : u.mode = s.mode := hu.regs.rd F.devPartCfgMode (isReg_of_lt (by decide)) (by decide) 0
  exact ⟨hi, (congrArg (fun m => lowestRegion m p) hmode).trans hidx, hmode, State.skbStartError_congr hu.regs hu.rest hp⟩

/-- A start that may not be has its reason in ERROR and leaves MODE and STATE. -/
theorem State.startError_spec {f : State → Nat → State} (hf : s.skbStartError p ≠ 0 → f u p = u.wr F.skbStatusError i (s.skbStartError p))
    (herr : s.skbStartError p ≠ 0) : (f u p).rd F.skbStatusError i = s.skbStartError p ∧
      (f u p).rd F.skbCfgMode i = s.rd F.skbCfgMode i ∧ (f u p).rd F.skbStatusState i = s.rd F.skbStatusState i := by
  obtain ⟨hi, -, -, -⟩ := hu.idx hp hidx
  have hlt := s.skbStartError_lt p
  rw [hf herr]
  exact ⟨(u.rd_wr_first F.skbStatusError i _ (by decide)).trans (Nat.mod_eq_of_lt (show _ < 16 by omega)),
    (u.rd_wr_skb hi F.skbStatusError _ _ (by decide)).trans hu.mode, (u.rd_wr_skb hi F.skbStatusError _ _ (by decide)).trans hu.state⟩

theorem State.recordStart_of_error (herr : s.skbStartError p ≠ 0) : u.recordStart p = u.wr F.skbStatusError i (s.skbStartError p) := by
  obtain ⟨-, hidx', -, herr'⟩ := hu.idx hp hidx
  unfold State.recordStart
  dsimp only
  rw [hidx', herr']
  split
  · next h => exact absurd h herr
  · rfl

theorem State.replayStart_of_error (herr : s.skbStartError p ≠ 0) : u.replayStart p = u.wr F.skbStatusError i (s.skbStartError p) := by
  obtain ⟨-, hidx', -, herr'⟩ := hu.idx hp hidx
  unfold State.replayStart
  dsimp only
  rw [hidx', herr']
  split
  · next h => exact absurd h herr
  · rfl

end Record

/-- The block as a recording that starts leaves it before its BEGIN entry. -/
def State.recordBegun (s : State) (p i : Nat) : State :=
  let s : State := ((s.wr F.skbStatusError i 0).wr F.skbCfgMode i 1).wr F.skbStatusReservedHeld i 1
  let s : State := s.grantNone (s.skbBase p) (s.skbRange p)
  ((s.wr F.skbWrittenBytes i 0).wr F.skbNextSeqSeq i 0).wr F.skbStatusState i 1

theorem State.recordBegun_spec {u : State} {i p : Nat} (hi : i < 4) (hidx : u.skbIdx p = i) (herr : u.skbStartError p = 0) :
    (u.recordBegun p i).skbIdx p = i ∧ (u.recordBegun p i).mode = u.mode ∧ (u.recordBegun p i).rd F.skbStatusError i = 0 ∧
      (u.recordBegun p i).rd F.skbCfgMode i = 1 ∧ (u.recordBegun p i).rd F.skbStatusReservedHeld i = 1 ∧
      (u.recordBegun p i).rd F.skbWrittenBytes i = 0 ∧ (u.recordBegun p i).rd F.skbNextSeqSeq i = 0 ∧
      (u.recordBegun p i).rd F.skbStatusState i = 1 := by
  unfold State.recordBegun
  dsimp only
  have hrange := State.range_of_skbStartError herr
  have hread (g : Fld) (he : skbApart F.skbStatusError g = true) (hc : skbApart F.skbCfgMode g = true)
      (hh : skbApart F.skbStatusReservedHeld g = true) :
      (((u.wr F.skbStatusError i 0).wr F.skbCfgMode i 1).wr F.skbStatusReservedHeld i 1).rd g i = u.rd g i := by
    rw [State.rd_wr_skb _ hi _ g _ hh, State.rd_wr_skb _ hi _ g _ hc, State.rd_wr_skb _ hi _ g _ he]
  have hmode : (((u.wr F.skbStatusError i 0).wr F.skbCfgMode i 1).wr F.skbStatusReservedHeld i 1).mode = u.mode := by
    rw [State.mode_wr_skb _ hi _ _ (by decide), State.mode_wr_skb _ hi _ _ (by decide), State.mode_wr_skb _ hi _ _ (by decide)]
  have hidx' : (((u.wr F.skbStatusError i 0).wr F.skbCfgMode i 1).wr F.skbStatusReservedHeld i 1).skbIdx p = i :=
    (congrArg (fun m => lowestRegion m p) hmode).trans hidx
  have hbase : (((u.wr F.skbStatusError i 0).wr F.skbCfgMode i 1).wr F.skbStatusReservedHeld i 1).skbBase p = u.skbBase p := by
    unfold State.skbBase
    rw [hidx', hread _ (by decide) (by decide) (by decide), hidx]
  have hsize : (((u.wr F.skbStatusError i 0).wr F.skbCfgMode i 1).wr F.skbStatusReservedHeld i 1).skbRange p = u.skbRange p := by
    unfold State.skbRange
    rw [hidx', hread _ (by decide) (by decide) (by decide), hidx]
  obtain ⟨hgrant, -⟩ := State.grantNone_spec (((u.wr F.skbStatusError i 0).wr F.skbCfgMode i 1).wr F.skbStatusReservedHeld i 1)
    (u.skbBase p) (u.skbRange p) hrange.1 hrange.2
  rw [hbase, hsize]
  have hrd (g : Fld) (hg : g.reg ∈ skbRegs) := hgrant.rd g (isReg_skb hg hi) (fun hm => by
    rw [List.mem_singleton.mp hm] at hg
    exact absurd hg (by decide)) 0
  have hgmode := hgrant.rd F.devPartCfgMode (n := 0) (isReg_of_lt (by decide)) (by decide) 0
  generalize State.grantNone _ (u.skbBase p) (u.skbRange p) = v at hrd hgmode
  have hvmode : (((v.wr F.skbWrittenBytes i 0).wr F.skbNextSeqSeq i 0).wr F.skbStatusState i 1).mode = u.mode := by
    rw [State.mode_wr_skb _ hi _ _ (by decide), State.mode_wr_skb _ hi _ _ (by decide), State.mode_wr_skb _ hi _ _ (by decide)]
    exact hgmode.trans hmode
  refine ⟨(congrArg (fun m => lowestRegion m p) hvmode).trans hidx, hvmode, ?_, ?_, ?_, ?_, ?_, State.rd_wr_first _ _ _ _ (by decide)⟩
  · rw [State.rd_wr_skb _ hi _ _ _ (by decide), State.rd_wr_skb _ hi _ _ _ (by decide), State.rd_wr_skb _ hi _ _ _ (by decide),
      hrd _ (by decide), State.rd_wr_skb _ hi _ _ _ (by decide), State.rd_wr_skb _ hi _ _ _ (by decide)]
    exact State.rd_wr_first _ F.skbStatusError _ _ (by decide)
  · rw [State.rd_wr_skb _ hi _ _ _ (by decide), State.rd_wr_skb _ hi _ _ _ (by decide), State.rd_wr_skb _ hi _ _ _ (by decide),
      hrd _ (by decide), State.rd_wr_skb _ hi _ _ _ (by decide)]
    exact State.rd_wr_first _ F.skbCfgMode _ _ (by decide)
  · rw [State.rd_wr_skb _ hi _ _ _ (by decide), State.rd_wr_skb _ hi _ _ _ (by decide), State.rd_wr_skb _ hi _ _ _ (by decide),
      hrd _ (by decide)]
    exact State.rd_wr_first _ F.skbStatusReservedHeld _ _ (by decide)
  · rw [State.rd_wr_skb _ hi _ _ _ (by decide), State.rd_wr_skb _ hi _ _ _ (by decide)]
    exact State.rd_wr_first _ F.skbWrittenBytes _ _ (by decide)
  · rw [State.rd_wr_skb _ hi _ _ _ (by decide)]
    exact State.rd_wr_first _ F.skbNextSeqSeq _ _ (by decide)

/-- The state of a partition's sketchbook as a recording starts. -/
def State.skbFresh (s : State) (p : Nat) : SkbSt := { s.skb p with buf := [], stopping := false, used := [], records := [] }

theorem State.recordStart_eq {u : State} {i p : Nat} (hidx : u.skbIdx p = i) (herr : u.skbStartError p = 0) :
    u.recordStart p = ((u.recordBegun p i).setSkb p ((u.recordBegun p i).skbFresh p)).skbPush p 1 false 0xFFFF
      (((u.recordBegun p i).setSkb p ((u.recordBegun p i).skbFresh p)).mode + p * 4)
      (((u.recordBegun p i).setSkb p ((u.recordBegun p i).skbFresh p)).skbBegin p) := by
  unfold State.recordStart State.recordBegun State.skbFresh
  simp only [herr, hidx]

/-- A recording that starts has its block armed and its BEGIN entry, of number 0, in the buffer. -/
theorem State.recordStart_spec {u : State} {i p : Nat} (hi : i < 4) (hidx : u.skbIdx p = i) (herr : u.skbStartError p = 0) :
    ∃ e, (u.recordStart p).rd F.skbStatusError i = 0 ∧ (u.recordStart p).rd F.skbCfgMode i = 1 ∧
      (u.recordStart p).rd F.skbStatusState i = 1 ∧ (u.recordStart p).flag F.skbStatusReservedHeld i = true ∧
      (u.recordStart p).rd F.skbWrittenBytes i = 0 ∧ (u.recordStart p).rd F.skbNextSeqSeq i = 0 ∧
      ((u.recordStart p).skb p).buf = [e] ∧ e.kind = 1 ∧ e.seq = 0 ∧ e.ctx = 0xFFFF ∧ e.source = u.mode + p * 4 ∧
      ((u.recordStart p).skb p).stopping = false := by
  obtain ⟨hvidx, hvmode, hverr, hvcfg, hvheld, hvwritten, hvseq, hvstate⟩ := State.recordBegun_spec hi hidx herr
  rw [State.recordStart_eq hidx herr]
  generalize u.recordBegun p i = v at *
  obtain ⟨hskb, -, hrd⟩ := State.skbPush_spec (v.setSkb p (v.skbFresh p)) ((v.skbIdx_setSkb p _ p).trans hvidx) hi 1 false 0xFFFF
    ((v.setSkb p (v.skbFresh p)).mode + p * 4) ((v.setSkb p (v.skbFresh p)).skbBegin p)
  have hread (g : Fld) (hg : skbApart F.skbStatusBufOcc g = true) := (hrd g hg).trans (v.rd_setSkb p _ g i)
  rw [State.skb_setSkb, State.rd_setSkb] at hskb
  rw [hskb]
  refine ⟨_, (hread _ (by decide)).trans hverr, (hread _ (by decide)).trans hvcfg, (hread _ (by decide)).trans hvstate,
    decide_eq_true ((hread _ (by decide)).trans hvheld), (hread _ (by decide)).trans hvwritten, (hread _ (by decide)).trans hvseq, rfl, rfl, ?_, rfl,
    congrArg (· + p * 4) ((v.mode_setSkb p _).trans hvmode), rfl⟩
  exact congrArg (· + 0) hvseq

/-- A recording that stops writes END at once where nothing waits in its buffer, and else once that is written. -/
theorem State.recordStop_spec {u : State} {i p : Nat} (hi : i < 4) (hidx : u.skbIdx p = i) (hst : u.rd F.skbStatusState i = 1) :
    ((u.skb p).buf = [] → ∃ e, (u.recordStop p).rd F.skbStatusState i = 0 ∧ (u.recordStop p).rd F.skbCfgMode i = 0 ∧
      ((u.recordStop p).skb p).buf = [e] ∧ e.kind = 0x0D ∧ e.source = 1 ∧ e.payload = leBytes 8 (u.rd F.skbNextSeqSeq i)) ∧
    ((u.skb p).buf ≠ [] → (u.recordStop p).rd F.skbCfgMode i = 0 ∧ (u.recordStop p).rd F.skbStatusState i = 1 ∧
      ((u.recordStop p).skb p).stopping = true ∧ ((u.recordStop p).skb p).buf = (u.skb p).buf) := by
  have hst' : (u.wr F.skbCfgMode i 0).rd F.skbStatusState i = 1 := (u.rd_wr_skb hi _ _ _ (by decide)).trans hst
  have hcfg : (u.wr F.skbCfgMode i 0).rd F.skbCfgMode i = 0 := u.rd_wr_first F.skbCfgMode i 0 (by decide)
  have hidx' : (u.wr F.skbCfgMode i 0).skbIdx p = i := (u.skbIdx_wr_skb hi _ _ (by decide) p).trans hidx
  have hstop : u.recordStop p = if (u.skb p).buf = [] then (u.wr F.skbCfgMode i 0).skbEnd p 1
      else (u.wr F.skbCfgMode i 0).setSkb p { u.skb p with stopping := true } := by
    unfold State.recordStop
    dsimp only
    rw [hidx, if_pos hst']
    rfl
  refine ⟨fun hbuf => ?_, fun hbuf => ?_⟩
  · obtain ⟨hskb, hoff, hrd⟩ := State.skbEnd_spec _ hidx' hi 1
    rw [hstop, if_pos hbuf, hskb]
    have hempty : ((u.wr F.skbCfgMode i 0).skb p).buf = [] := hbuf
    rw [hempty]
    refine ⟨_, hoff, (hrd _ (by decide) (by decide)).trans hcfg, rfl, rfl, rfl, ?_⟩
    exact congrArg (leBytes 8) ((congrArg (· + 0) (u.rd_wr_skb hi _ _ _ (by decide))).trans (Nat.add_zero _))
  · rw [hstop, if_neg hbuf, State.skb_setSkb]
    exact ⟨hcfg, hst', rfl, rfl⟩

-- a replay starts (R431)

section ReplayStart

variable {s u : State} {i p : Nat} (hp : p < partCount s.mode) (hidx : s.skbIdx p = i) (hu : CfgFrame i s u)

include hp hidx hu

/-- The journal reads as it did. -/
theorem CfgFrame.journal : u.skbBase p = s.skbBase p ∧ u.skbRange p = s.skbRange p ∧ (∀ off, u.jRead p off = s.jRead p off) ∧
    (∀ e expect limit, u.jBad p e expect limit = s.jBad p e expect limit) := by
  obtain ⟨hi, hidx', -, -⟩ := hu.idx hp hidx
  have hbase : u.skbBase p = s.skbBase p := by
    unfold State.skbBase
    rw [hidx', hidx, hu.regs.rd F.skbBaseBase (isReg_skb (r := .skbBase) (by decide) hi) (by decide) 0]
  have hsize : u.skbRange p = s.skbRange p := by
    unfold State.skbRange
    rw [hidx', hidx, hu.regs.rd F.skbBaseSizeGib (isReg_skb (r := .skbBase) (by decide) hi) (by decide) 0]
  refine ⟨hbase, hsize, fun off => ?_, fun e expect limit => ?_⟩
  · unfold State.jRead
    simp only [hbase, hu.mem.readBytes]
  · unfold State.jBad
    simp only [hbase, hu.mem.readBytes]

theorem CfgFrame.jWellFormed (limit n : Nat) : ∀ seq off, u.jWellFormed p limit n seq off = s.jWellFormed p limit n seq off := by
  obtain ⟨-, -, hread, hbad⟩ := hu.journal hp hidx
  induction n with
  | zero => exact fun _ _ => rfl
  | succ n ih =>
    intro seq off
    unfold State.jWellFormed
    simp only [hread, hbad, ih]

theorem State.replayStart_of_bad (herr : s.skbStartError p = 0) (hk : (s.jRead p 0).kind ≠ 1) :
    u.replayStart p = u.wr F.skbStatusError i 4 := by
  obtain ⟨-, hidx', -, herr'⟩ := hu.idx hp hidx
  obtain ⟨-, -, hread, -⟩ := hu.journal hp hidx
  unfold State.replayStart
  simp only [herr', herr, hidx', hread]
  exact if_neg fun h => hk h.2.2.2.1

end ReplayStart

theorem RegsBut.setReg {rs : List Reg} (s : State) {r : Reg} {n : Nat} (w : Word) (hn : IsReg r n) (hr : r ∈ rs) :
    RegsBut rs s (s.setReg r n w) := fun _ _ hn' hr' =>
  State.reg_setReg_ne s w hn hn' fun he => hr' ((Prod.mk.inj he).1 ▸ hr)

/-- The context registers that a replay loads. -/
def replayCtxRegs : List Reg := [.ctxFpMode, .ctxSrSeed, .ctxSyncMode, .ctxDrainCfg]

theorem ctx_lt_of_part {mode c p : Nat} (h : partOfCtx mode c = p) (hp : p < partCount mode) : c < 4096 := by
  have hcount : partCount mode = 1 ∨ partCount mode = 2 ∨ partCount mode = 4 := by
    unfold partCount
    split
    · exact .inl rfl
    · split <;> simp
  unfold partOfCtx at h
  obtain hc | hc | hc := hcount <;> rw [hc] at h hp <;> omega

/-- The registers of the block as a replay that starts writes them. -/
def State.replayArmed (v : State) (i size edition : Nat) : State :=
  let s : State := v.wr F.skbStatusEditionDiffers i edition
  let s : State := ((s.wr F.skbStatusError i 0).wr F.skbCfgMode i 2).wr F.skbStatusCause i 0
  ((s.wr F.skbWrittenBytes i size).wr F.skbNextSeqSeq i 1).wr F.skbStatusState i 2

/-- The block as a replay that starts leaves it before PAUSE_SEQ is looked at. -/
def State.replayBegun (s : State) (p : Nat) : State :=
  s.setSkb p { s.skb p with used := [], records := [], lastUse := s.now, lastSeq := 0 }

/-- A good journal's modes are loaded into contexts of the partition, and its block begins. -/
theorem State.replayStart_eq {u : State} {i p : Nat} (hp : p < partCount u.mode) (hidx : u.skbIdx p = i) (herr : u.skbStartError p = 0)
    (hmod : u.rd F.skbReplayLenBytes i % 32 = 0) (hle : u.rd F.skbReplayLenBytes i ≤ u.skbRange p) (hne : u.rd F.skbReplayLenBytes i ≠ 0)
    (hk : (u.jRead p 0).kind = 1)
    (hwf : u.jWellFormed p (u.rd F.skbReplayLenBytes i) (u.rd F.skbReplayLenBytes i / 32) 0 0 = true) :
    ∃ v edition, RegsBut replayCtxRegs u v ∧
      u.replayStart p = (((v.replayArmed i (u.jRead p 0).size edition).replayBegun p).replayPause p).replayEnd p := by
  unfold State.replayStart State.replayBegun State.replayArmed
  simp only [herr, hidx]
  rw [if_pos ⟨hmod, hle, hne, hk, hwf⟩]
  refine ⟨_, _, ?_, rfl⟩
  have hstep (t : State) (ht : RegsBut replayCtxRegs u t) (c : Nat) (w1 w2 w3 w4 : Word) : RegsBut replayCtxRegs u
      (if partOfCtx t.mode c ≠ p then t else
        (((t.setReg .ctxFpMode c w1).setReg .ctxSrSeed c w2).setReg .ctxSyncMode c w3).setReg .ctxDrainCfg c w4) := by
    have hmode : t.mode = u.mode := ht.rd F.devPartCfgMode (n := 0) (isReg_of_lt (by decide)) (by decide) 0
    split
    · exact ht
    · next hin =>
      have hc : c < 4096 := ctx_lt_of_part (Classical.not_not.mp hin) (hmode ▸ hp)
      exact (((ht.trans (RegsBut.setReg _ w1 (isReg_of_lt (r := .ctxFpMode) hc) (by decide))).trans
        (RegsBut.setReg _ w2 (isReg_of_lt (r := .ctxSrSeed) hc) (by decide))).trans
        (RegsBut.setReg _ w3 (isReg_of_lt (r := .ctxSyncMode) hc) (by decide))).trans
        (RegsBut.setReg _ w4 (isReg_of_lt (r := .ctxDrainCfg) hc) (by decide))
  have hfold (f : State → Nat → State) (hf : ∀ t k, RegsBut replayCtxRegs u t → RegsBut replayCtxRegs u (f t k)) (l : List Nat) :
      ∀ t, RegsBut replayCtxRegs u t → RegsBut replayCtxRegs u (l.foldl f t) := by
    induction l with
    | nil => exact fun t ht => ht
    | cons k l ih => exact fun t ht => ih _ (hf t k ht)
  exact hfold _ (fun t k ht => hstep t ht _ _ _ _ _) _ u (RegsBut.refl _ u)

theorem State.replayArmed_spec {v : State} {p i size : Nat} (edition : Nat) (hi : i < 4) (hidx : v.skbIdx p = i) (hsize : size < 2 ^ 64) :
    (v.replayArmed i size edition).skbIdx p = i ∧ (v.replayArmed i size edition).rd F.skbStatusError i = 0 ∧
      (v.replayArmed i size edition).rd F.skbCfgMode i = 2 ∧ (v.replayArmed i size edition).rd F.skbWrittenBytes i = size ∧
      (v.replayArmed i size edition).rd F.skbNextSeqSeq i = 1 ∧ (v.replayArmed i size edition).rd F.skbStatusState i = 2 ∧
      (v.replayArmed i size edition).rd F.skbPauseSeqSeq i = v.rd F.skbPauseSeqSeq i ∧
      (v.replayArmed i size edition).rd F.skbReplayLenBytes i = v.rd F.skbReplayLenBytes i := by
  unfold State.replayArmed
  dsimp only
  refine ⟨?_, ?_, ?_, ?_, ?_, State.rd_wr_first _ F.skbStatusState _ _ (by decide), ?_, ?_⟩
  · rw [State.skbIdx_wr_skb _ hi _ _ (by decide), State.skbIdx_wr_skb _ hi _ _ (by decide), State.skbIdx_wr_skb _ hi _ _ (by decide),
      State.skbIdx_wr_skb _ hi _ _ (by decide), State.skbIdx_wr_skb _ hi _ _ (by decide), State.skbIdx_wr_skb _ hi _ _ (by decide),
      State.skbIdx_wr_skb _ hi _ _ (by decide), hidx]
  · rw [State.rd_wr_skb _ hi _ _ _ (by decide), State.rd_wr_skb _ hi _ _ _ (by decide), State.rd_wr_skb _ hi _ _ _ (by decide),
      State.rd_wr_skb _ hi _ _ _ (by decide), State.rd_wr_skb _ hi _ _ _ (by decide)]
    exact State.rd_wr_first _ F.skbStatusError _ _ (by decide)
  · rw [State.rd_wr_skb _ hi _ _ _ (by decide), State.rd_wr_skb _ hi _ _ _ (by decide), State.rd_wr_skb _ hi _ _ _ (by decide),
      State.rd_wr_skb _ hi _ _ _ (by decide)]
    exact State.rd_wr_first _ F.skbCfgMode _ _ (by decide)
  · rw [State.rd_wr_skb _ hi _ _ _ (by decide), State.rd_wr_skb _ hi _ _ _ (by decide)]
    exact (State.rd_wr_first _ F.skbWrittenBytes _ _ (by decide)).trans (Nat.mod_eq_of_lt hsize)
  · rw [State.rd_wr_skb _ hi _ _ _ (by decide)]
    exact State.rd_wr_first _ F.skbNextSeqSeq _ _ (by decide)
  · rw [State.rd_wr_skb _ hi _ _ _ (by decide), State.rd_wr_skb _ hi _ _ _ (by decide), State.rd_wr_skb _ hi _ _ _ (by decide),
      State.rd_wr_skb _ hi _ _ _ (by decide), State.rd_wr_skb _ hi _ _ _ (by decide), State.rd_wr_skb _ hi _ _ _ (by decide),
      State.rd_wr_skb _ hi _ _ _ (by decide)]
  · rw [State.rd_wr_skb _ hi _ _ _ (by decide), State.rd_wr_skb _ hi _ _ _ (by decide), State.rd_wr_skb _ hi _ _ _ (by decide),
      State.rd_wr_skb _ hi _ _ _ (by decide), State.rd_wr_skb _ hi _ _ _ (by decide), State.rd_wr_skb _ hi _ _ _ (by decide),
      State.rd_wr_skb _ hi _ _ _ (by decide)]

theorem State.replayBegun_frame (s : State) (p : Nat) : (s.replayBegun p).skbIdx p = s.skbIdx p ∧
    ∀ g n, (s.replayBegun p).rd g n = s.rd g n := ⟨s.skbIdx_setSkb p _ p, fun g n => s.rd_setSkb p _ g n⟩

/-- A replay of a good journal stands behind its BEGIN entry, running, or paused where PAUSE_SEQ says so. -/
theorem State.replayStart_spec {u : State} {i p : Nat} (hp : p < partCount u.mode) (hidx : u.skbIdx p = i) (herr : u.skbStartError p = 0)
    (hmod : u.rd F.skbReplayLenBytes i % 32 = 0) (hle : u.rd F.skbReplayLenBytes i ≤ u.skbRange p)
    (hlt : (u.jRead p 0).size < u.rd F.skbReplayLenBytes i) (hk : (u.jRead p 0).kind = 1)
    (hwf : u.jWellFormed p (u.rd F.skbReplayLenBytes i) (u.rd F.skbReplayLenBytes i / 32) 0 0 = true) :
    (u.replayStart p).rd F.skbStatusError i = 0 ∧ (u.replayStart p).rd F.skbCfgMode i = 2 ∧ (u.replayStart p).rd F.skbNextSeqSeq i = 1 ∧
      (u.replayStart p).rd F.skbWrittenBytes i = (u.jRead p 0).size ∧ (u.replayStart p).rd F.skbStatusState i =
        (if u.rd F.skbPauseSeqSeq i ≠ 0 ∧ u.rd F.skbPauseSeqSeq i ≤ 1 then 3 else 2) := by
  have hi : i < 4 := hidx ▸ u.skbIdx_lt hp
  obtain ⟨v, edition, hregs, hstart⟩ := State.replayStart_eq hp hidx herr hmod hle (by omega) hk hwf
  have hmode : v.mode = u.mode := hregs.rd F.devPartCfgMode (n := 0) (isReg_of_lt (by decide)) (by decide) 0
  have hsize : (u.jRead p 0).size < 2 ^ 64 := hlt.trans (Word.bits_lt _ _ _)
  have hpauseReg := hregs.rd F.skbPauseSeqSeq (isReg_skb (r := .skbPauseSeq) (by decide) hi) (by decide) 0
  have hlenReg := hregs.rd F.skbReplayLenBytes (isReg_skb (r := .skbReplayLen) (by decide) hi) (by decide) 0
  obtain ⟨hvidx, herr0, hcfg, hwritten, hseq, hstate, hpause, hlen⟩ := State.replayArmed_spec edition hi
    ((congrArg (fun m => lowestRegion m p) hmode).trans hidx) hsize
  rw [hstart]
  generalize v.replayArmed i (u.jRead p 0).size edition = a at *
  obtain ⟨hwidx, hw⟩ := a.replayBegun_frame p
  generalize a.replayBegun p = w at *
  simp only [← hw] at herr0 hcfg hwritten hseq hstate hpause hlen
  obtain ⟨hidx', hst, hrd⟩ := w.replayPause_spec (hwidx.trans hvidx) hi (.inl hstate)
  have hend : (w.replayPause p).replayEnd p = w.replayPause p := by
    refine State.replayEnd_of_lt _ hidx' hi ?_
    rw [hrd _ (by decide), hrd _ (by decide), hwritten, hlen, hlenReg]
    exact hlt
  rw [hend, hst, hpause, hpauseReg, hseq]
  exact ⟨(hrd _ (by decide)).trans herr0, (hrd _ (by decide)).trans hcfg, (hrd _ (by decide)).trans hseq, (hrd _ (by decide)).trans hwritten, rfl⟩

-- the entry buffer reaches the range (R422, R426)

theorem State.flushBuf_spec {s : State} {p i : Nat} {e : JEntry} (hi : i < 4) (hidx : s.skbIdx p = i) (hbuf : (s.skb p).buf = [e])
    (hw : s.rd F.skbWrittenBytes i + e.size < 2 ^ 64) (hn : s.rd F.skbNextSeqSeq i + 1 < 2 ^ 64) :
    ((s.flushBuf p).skb p).buf = [] ∧ (s.flushBuf p).rd F.skbWrittenBytes i = s.rd F.skbWrittenBytes i + e.size ∧
      (s.flushBuf p).rd F.skbNextSeqSeq i = s.rd F.skbNextSeqSeq i + 1 ∧
      (s.flushBuf p).mem = (s.writeMem (s.skbBase p + s.rd F.skbWrittenBytes i) e.bytes).mem := by
  have hframe := WriteFrame.writeMem s (s.skbBase p + s.rd F.skbWrittenBytes i) e.bytes
  have hrd (g : Fld) (hg : g.reg ∈ skbRegs) := hframe.regs.rd g (isReg_skb hg hi) (fun hm => by
    rw [List.mem_singleton.mp hm] at hg
    exact absurd hg (by decide)) 0
  have hmode := hframe.regs.rd F.devPartCfgMode (n := 0) (isReg_of_lt (by decide)) (by decide) 0
  have hflush : s.flushBuf p = ((((s.writeMem (s.skbBase p + s.rd F.skbWrittenBytes i) e.bytes).bump F.skbWrittenBytes i e.size).bump
      F.skbNextSeqSeq i).setSkb p { s.skb p with buf := [] }).skbOcc p := by
    unfold State.flushBuf
    dsimp only
    rw [hbuf, hidx]
    simp only [List.foldl_cons, List.foldl_nil]
  rw [hflush]
  generalize s.writeMem (s.skbBase p + s.rd F.skbWrittenBytes i) e.bytes = t at hrd hmode ⊢
  generalize e.size = size at hw ⊢
  have hidx' : ((t.bump F.skbWrittenBytes i size).bump F.skbNextSeqSeq i).skbIdx p = i := by
    unfold State.bump
    rw [State.skbIdx_wr_skb _ hi _ _ (by decide), State.skbIdx_wr_skb _ hi _ _ (by decide)]
    exact (congrArg (fun m => lowestRegion m p) hmode).trans hidx
  obtain ⟨hskb, -, hocc⟩ := State.skbOcc_spec ((t.bump F.skbWrittenBytes i size).bump F.skbNextSeqSeq i) hidx' hi
    { s.skb p with buf := [] }
  refine ⟨congrArg SkbSt.buf hskb, (hocc _ (by decide)).trans ?_, (hocc _ (by decide)).trans ?_, ?_⟩
  · refine (State.rd_wr_skb _ hi F.skbNextSeqSeq _ _ (by decide)).trans ((State.rd_bump t F.skbWrittenBytes i _ (by decide)).trans ?_)
    rw [hrd _ (by decide)]
    exact Nat.mod_eq_of_lt hw
  · refine (State.rd_bump _ F.skbNextSeqSeq i _ (by decide)).trans ?_
    have hkeep : (t.bump F.skbWrittenBytes i size).rd F.skbNextSeqSeq i = s.rd F.skbNextSeqSeq i :=
      (State.rd_wr_skb t hi F.skbWrittenBytes _ _ (by decide)).trans (hrd _ (by decide))
    rw [hkeep]
    exact Nat.mod_eq_of_lt hn
  · exact (State.wr_mem ..).trans ((State.setSkb_mem ..).trans ((State.bump_mem ..).trans (State.bump_mem ..)))

section Flush

variable {s : State} {p : Nat} (hp : p < partCount s.mode)

include hp

theorem exec_journalFlush_spec :
    ((s.skb p).stopping = false → exec (.journalFlush p) s = .next ((s.flushBuf p).unstallGroups p)) ∧
      ((s.skb p).stopping = true →
        exec (.journalFlush p) s = .next ((((s.flushBuf p).skbEnd p 1).flushBuf p).unstallGroups p)) := by
  have hexec : exec (.journalFlush p) s = execJournalFlush p s := rfl
  rw [hexec]
  unfold execJournalFlush
  rw [if_pos hp]
  dsimp only
  refine ⟨fun h => ?_, fun h => ?_⟩
  · rw [h, if_neg (by decide)]
  · rw [if_pos h]

end Flush

-- marks and checks (R429, R430)

/-- A requested check whose partition has no command open is made at once. -/
theorem State.serveCheck_of_free {s : State} {p : Nat} {c : SkbCheck} (hc : (s.skb p).check = some c) (hwaits : c.waits = [])
    (hexpect : c.expect = none) : ∃ u : State, u = (s.setSkb p { s.skb p with check := none }).wr F.skbStatusCheckBusy (s.skbIdx p) 0 ∧
      s.serveCheck p = u.journal p 0x0C 0xFFFF c.addr (leBytes 8 c.len ++ leBytes 8 (wordSum 0 (s.readBytes c.addr c.len))) := by
  refine ⟨_, rfl, ?_⟩
  unfold State.serveCheck
  rw [hc]
  dsimp only
  rw [hwaits, hexpect]
  exact if_neg (fun h => by simp at h)

section Checks

variable {s : State} {a : Access} {q : RegWriteReq} {p : Nat} (hp : p < partCount s.mode) (hidx : q.n = s.skbIdx p)

include hp hidx

theorem RegWriteReq.skbPart : partOfRegion s.mode q.n = p ∧ q.n < 4 := by
  rw [hidx]
  exact ⟨s.partOfRegion_skbIdx p, s.skbIdx_lt hp⟩

theorem exec_skbMark_spec (hw : Writes s a .skbMark q) :
    (s.rd F.skbStatusState q.n = 1 → (s.skb p).stopping = false →
      exec (.skbMark a) s = .next ((s.journal p 0x0B 0xFFFF (q.wrote F.skbMarkValue) []).markPulse p)) ∧
      (s.rd F.skbStatusState q.n ≠ 1 → exec (.skbMark a) s = .next s) := by
  obtain ⟨hpart, -⟩ := RegWriteReq.skbPart hp hidx
  have hexec : exec (.skbMark a) s = .next (s.writeSkbMark q) := by
    show execSkbMark a s = _
    exact State.onWrite_of_writes _ hw (List.mem_singleton_self _)
  rw [hexec]
  unfold State.writeSkbMark
  dsimp only
  rw [hpart]
  refine ⟨fun hst hstop => ?_, fun hst => ?_⟩
  · rw [if_pos ⟨hst, hstop⟩]
  · rw [if_neg (fun h => hst h.1)]

theorem exec_skbCheck_addr (hw : Writes s a .skbCheckAddr q) :
    (s.flag F.skbStatusCheckBusy q.n = true → exec (.skbCheck a) s = .next s.accessError) ∧
      (s.flag F.skbStatusCheckBusy q.n = false → ∃ t, exec (.skbCheck a) s = .next t ∧
        t.rd F.skbCheckAddrAddr q.n = q.new F.skbCheckAddrAddr ∧ OnlyRegs [(.skbCheckAddr, q.n)] s t) := by
  obtain ⟨-, hi⟩ := RegWriteReq.skbPart hp hidx
  have hreg : q.reg = .skbCheckAddr := hw.2
  have hexec : exec (.skbCheck a) s = .next (s.writeCheckAddr q) := by
    show execSkbCheck a s = _
    unfold execSkbCheck
    rw [State.onWrite_of_writes _ hw (List.mem_cons_self ..), if_pos hreg]
  rw [hexec]
  unfold State.writeCheckAddr
  refine ⟨fun h => ?_, fun h => ⟨s.store q, ?_, ?_, ?_⟩⟩
  · rw [if_pos h]
  · rw [h, if_neg (by decide)]
  · have hstore := s.reg_store q
    rw [hreg] at hstore
    exact congrArg (fun w : Word => w.bits 51 3) hstore
  · have honly := s.store_onlyRegs (q := q) (hreg ▸ isReg_skb (by decide) hi)
    rw [hreg] at honly
    exact honly

theorem exec_skbCheck_len (hw : Writes s a .skbCheckLen q) {n addr : Nat} (hn : n = q.wrote F.skbCheckLenLength)
    (haddr : addr = s.rd F.skbCheckAddrAddr q.n * 8) (hbusy : s.flag F.skbStatusCheckBusy q.n = false)
    (hst : s.rd F.skbStatusState q.n = 1) (hstop : (s.skb p).stopping = false) (hne : n ≠ 0) :
    (n % 8 ≠ 0 ∨ 0x40000000 < n ∨ s.rangeInMemory p addr n = false → exec (.skbCheck a) s = .next s.accessError) ∧
      (n % 8 = 0 → n ≤ 0x40000000 → s.rangeInMemory p addr n = true → s.openCmds p = [] → ∃ t u : State, exec (.skbCheck a) s = .next t ∧
        t = u.journal p 0x0C 0xFFFF addr (leBytes 8 n ++ leBytes 8 (wordSum 0 (s.readBytes addr n))) ∧
        u.flag F.skbStatusCheckBusy q.n = false ∧ (u.skb p).check = none ∧ u.mem = s.mem) := by
  obtain ⟨hpart, hi⟩ := RegWriteReq.skbPart hp hidx
  have hreg : q.reg = .skbCheckLen := hw.2
  have hexec : exec (.skbCheck a) s = .next (s.writeCheckLen q) := by
    show execSkbCheck a s = _
    unfold execSkbCheck
    rw [State.onWrite_of_writes _ hw (by simp), if_neg (by rw [hreg]; decide)]
  rw [hexec]
  unfold State.writeCheckLen
  dsimp only
  rw [hpart, ← hn, ← haddr, hbusy, if_neg (by decide), if_neg (show ¬ (n = 0 ∨ s.rd F.skbStatusState q.n ≠ 1 ∨ (s.skb p).stopping = true) from
    fun h => h.elim hne (fun h => h.elim (fun h => h hst) (fun h => by rw [hstop] at h; cases h)))]
  refine ⟨fun hbad => ?_, fun hmod hle hin hopen => ?_⟩
  · rw [if_pos hbad]
  · rw [if_neg (show ¬ (n % 8 ≠ 0 ∨ 0x40000000 < n ∨ s.rangeInMemory p addr n = false) by
      rintro (h | h | h)
      · exact h hmod
      · omega
      · exact Bool.false_ne_true (h.symm.trans hin))]
    have hmode := s.mode_wr_skb hi F.skbStatusCheckBusy 1 (by decide)
    have hopen' : (s.wr F.skbStatusCheckBusy q.n 1).openCmds p = [] := by
      rw [← hopen]
      unfold State.openCmds
      rw [hmode]
      rfl
    rw [hopen']
    generalize hv : s.wr F.skbStatusCheckBusy q.n 1 = v at hmode
    have hsame : SameMemory s v := by
      rw [← hv]
      exact ⟨rfl, rfl, rfl⟩
    obtain ⟨u, hu, hserve⟩ := State.serveCheck_of_free (s := v.setSkb p { v.skb p with check := some { addr := addr, len := n, waits := [] } })
      (c := { addr := addr, len := n, waits := [] }) (congrArg SkbSt.check (v.skb_setSkb p _)) rfl rfl
    have hsame' : SameMemory s (v.setSkb p { v.skb p with check := some { addr := addr, len := n, waits := [] } }) := hsame
    have hidx' : (v.setSkb p { v.skb p with check := some { addr := addr, len := n, waits := [] } }).skbIdx p = q.n :=
      (v.skbIdx_setSkb p _ p).trans ((congrArg (fun m => lowestRegion m p) hmode).trans hidx.symm)
    rw [hidx'] at hu
    refine ⟨_, u, rfl, ?_, ?_, ?_, ?_⟩
    · rw [hserve, hsame'.readBytes]
    · rw [hu]
      exact decide_eq_false fun h => absurd ((State.rd_wr_first _ F.skbStatusCheckBusy q.n 0 (by decide)).symm.trans h) (by decide)
    · rw [hu, State.skb_wr, State.skb_setSkb]
    · rw [hu]
      exact hsame.1

/-- A write of PAUSE_SEQ pauses a replay that has reached it, or lets it go on (R435). -/
theorem exec_replayPauseSeq_spec (hw : Writes s a .skbPauseSeq q) (hst : s.rd F.skbStatusState q.n = 2 ∨ s.rd F.skbStatusState q.n = 3) :
    ∃ t, exec (.replayPauseSeq a) s = .next t ∧ t.rd F.skbPauseSeqSeq q.n = q.new F.skbPauseSeqSeq ∧ t.rd F.skbStatusState q.n =
      (if q.new F.skbPauseSeqSeq ≠ 0 ∧ q.new F.skbPauseSeqSeq ≤ s.rd F.skbNextSeqSeq q.n then 3 else 2) := by
  obtain ⟨hpart, hi⟩ := RegWriteReq.skbPart hp hidx
  have hreg : q.reg = .skbPauseSeq := hw.2
  have hexec : exec (.replayPauseSeq a) s = .next ((s.store q).replayPause p) := by
    show execReplayPauseSeq a s = _
    unfold execReplayPauseSeq
    rw [State.onWrite_of_writes _ hw (List.mem_singleton_self _)]
    unfold State.writePauseSeq
    rw [hpart]
  have honly := s.store_onlyRegs (q := q) (hreg ▸ isReg_skb (by decide) hi)
  have hstore := s.reg_store q
  rw [hreg] at honly hstore
  have hpause : (s.store q).rd F.skbPauseSeqSeq q.n = q.new F.skbPauseSeqSeq := congrArg (fun w : Word => w.bits 63 0) hstore
  have hrd (g : Fld) (hg : g.reg ∈ skbRegs) (hne : g.reg ≠ .skbPauseSeq) : (s.store q).rd g q.n = s.rd g q.n :=
    OnlyRegs.rd honly g (isReg_skb hg hi) (fun hm => hne (congrArg Prod.fst (List.mem_singleton.mp hm)))
  have hmode : (s.store q).mode = s.mode := OnlyRegs.rd honly F.devPartCfgMode (n := 0) (isReg_of_lt (by decide))
    (fun hm => Reg.noConfusion (congrArg Prod.fst (List.mem_singleton.mp hm)))
  obtain ⟨-, hstate, hkeep⟩ := (s.store q).replayPause_spec ((congrArg (fun m => lowestRegion m p) hmode).trans hidx.symm) hi
    (by rw [hrd _ (by decide) (by decide)]; exact hst)
  rw [hpause, hrd _ (by decide) (by decide)] at hstate
  exact ⟨_, hexec, (hkeep _ (by decide)).trans hpause, hstate⟩

end Checks

-- the positional entries of a replay (R432 to R435)

section Entries

variable {s : State} {p : Nat} (hp : p < partCount s.mode) (hst : s.rd F.skbStatusState (s.skbIdx p) = 2)

include hp hst

theorem exec_replayEntry_of_end (h : s.rd F.skbReplayLenBytes (s.skbIdx p) ≤ s.rd F.skbWrittenBytes (s.skbIdx p)) :
    exec (.replayEntry p) s = .next (s.replayEnd p) := by
  show execReplayEntry p s = _
  unfold execReplayEntry
  dsimp only
  rw [if_pos ⟨hp, hst⟩, if_pos h]

variable (hlt : s.rd F.skbWrittenBytes (s.skbIdx p) < s.rd F.skbReplayLenBytes (s.skbIdx p)) {e : JRead}
  (he : e = s.jRead p (s.rd F.skbWrittenBytes (s.skbIdx p)))

include hlt he

/-- An entry before the end is taken by its kind. -/
theorem exec_replayEntry_of_kind {t : State} {k : Nat} (hk : e.kind = k) (ht : (match k with
      | 0x02 => (.next (s.replayCommand p (firstQueue s.mode p + e.source) e (s.jPayload p e)) : Host.Outcome State Fault Refusal)
      | 0x03 => .next (s.replayTaskStart p (firstQueue s.mode p + e.source) e (s.jPayload p e))
      | 0x04 => .next (s.replayHostData p (firstQueue s.mode p + e.source) e (s.jPayload p e))
      | 0x06 => .next (s.replayPacket p e (s.jPayload p e))
      | 0x09 => .next (s.replayTimeLimit p (firstQueue s.mode p + e.source) e (s.jPayload p e))
      | 0x0A => .next (s.replayCompletion p e (s.jPayload p e))
      | 0x0C => .next (s.replayCheck p e (s.jPayload p e))
      | 0x0B => .next ((s.markPulse p).replayStep p e)
      | _ => .next (s.replayStep p e)) = .next t) : exec (.replayEntry p) s = .next t := by
  subst hk
  refine Eq.trans ?_ ht
  show execReplayEntry p s = _
  unfold execReplayEntry
  dsimp only
  rw [if_pos ⟨hp, hst⟩, if_neg (Nat.not_le.mpr hlt), ← he] <;> rfl

theorem exec_replayEntry_command (hk : e.kind = 0x02) {w : Nat} (hw : w = firstQueue s.mode p + e.source) (hq : s.rd F.qpStatusState w = 1)
    (hpart : s.partState p = 2) (hroom : (s.queue w).cmds.length < 256) (hfl : s.partInflight p < 16384) :
    exec (.replayEntry p) s = .next ((s.acceptCmd w ((s.jPayload p e).take 64) ((s.jPayload p e).drop 64)).replayStep p e) := by
  subst hw
  refine exec_replayEntry_of_kind hp hst hlt he hk ?_
  exact congrArg Host.Outcome.next (if_pos ⟨hq, hpart, hroom, hfl⟩)

/-- A task's start loads its context's modes and seed. -/
theorem exec_replayEntry_taskStart (hk : e.kind = 0x03) {b : List Byte} (hb : b = s.jPayload p e) {c : Nat}
    (hc : c = s.queueCtx (firstQueue s.mode p + e.source)) :
    ∃ u : State, exec (.replayEntry p) s = .next (u.replayStep p e) ∧ (c < 4096 →
      u.reg .ctxFpMode c = BitVec.ofNat 64 (leNat ((b.drop 8).take 8)) ∧
      u.reg .ctxSrSeed c = BitVec.ofNat 64 (leNat ((b.drop 16).take 8))) := by
  subst hb hc
  refine ⟨_, exec_replayEntry_of_kind hp hst hlt he hk rfl, fun hlt => ⟨?_, State.reg_setReg ..⟩⟩
  rw [State.reg_setReg_ne _ _ (isReg_of_lt (r := .ctxSrSeed) hlt) (isReg_of_lt (r := .ctxFpMode) hlt)
    (fun h => Reg.noConfusion (congrArg Prod.fst h)), State.reg_setReg]

/-- A packet is received as though from the journalled rank. -/
theorem exec_replayEntry_packet (hk : e.kind = 0x06) {b : List Byte} (hb : b = s.jPayload p e) :
    ∃ u : State, exec (.replayEntry p) s = .next (u.replayStep p e) ∧ ∃ f,
      (u.port (2 * s.skbIdx p)).rx = (s.port (2 * s.skbIdx p)).rx ++ [f] ∧ f.part = p ∧ f.slot = e.source / 2 ^ 20 % 4 ∧
      f.src = e.source % 2 ^ 20 ∧ f.pkt = NetPkt.parse b := by
  subst hb
  refine ⟨_, exec_replayEntry_of_kind hp hst hlt he hk rfl, _, congrArg PortSt.rx (State.port_setPort ..), rfl, ?_, ?_, rfl⟩
  · show natBits e.source 21 20 = _
    exact congrArg (· % 4) (Nat.shiftRight_eq_div_pow ..)
  · show natBits e.source 19 0 = _
    unfold natBits
    rw [Nat.shiftRight_zero]

theorem exec_replayEntry_completion (hk : e.kind = 0x0A) {b : List Byte} (hb : b = s.jPayload p e) {r : Nat × List Byte}
    (hr : (s.skb p).records.find? (fun r => decide (r.1 = e.source) && decide (r.2.take 4 = b.take 4)) = some r) {u : State}
    (hu : u = s.setSkb p { s.skb p with records := (s.skb p).records.erase r }) :
    exec (.replayEntry p) s = .next (if recordKey r.2 = recordKey b then u.replayStep p e else u.diverge p 1 e.seq) := by
  subst hb hu
  refine exec_replayEntry_of_kind hp hst hlt he hk ?_
  refine congrArg Host.Outcome.next ?_
  unfold State.replayCompletion
  dsimp only
  rw [hr]

theorem exec_replayEntry_mark (hk : e.kind = 0x0B) : exec (.replayEntry p) s = .next ((s.markPulse p).replayStep p e) :=
  exec_replayEntry_of_kind hp hst hlt he hk rfl

theorem exec_replayEntry_keyed (hk : e.kind = 0x05 ∨ e.kind = 0x07 ∨ e.kind = 0x08) :
    exec (.replayEntry p) s = .next (s.replayStep p e) := by
  obtain hk | hk | hk := hk
  · exact exec_replayEntry_of_kind hp hst hlt he hk rfl
  · exact exec_replayEntry_of_kind hp hst hlt he hk rfl
  · exact exec_replayEntry_of_kind hp hst hlt he hk rfl

end Entries

-- the commands that write SKB.CFG

section CfgWrites

variable {s : State} {a : Access} {q : RegWriteReq} {p : Nat} (hp : p < partCount s.mode) (hidx : q.n = s.skbIdx p) (hw : Writes s a .skbCfg q)

include hw

theorem State.onSkbMode_of_writes {was new : Nat} (hwas : q.was F.skbCfgMode = was) (hnew : q.new F.skbCfgMode = new) :
    s.onSkbMode a was new = .next (s.writeSkbCfg q) := by
  unfold State.onSkbMode
  rw [State.onWrite_of_writes _ hw (List.mem_singleton_self _), if_pos ⟨hwas, hnew⟩]

variable (hhost : q.new F.skbCfgHostData = q.was F.skbCfgHostData) (hstall : q.new F.skbCfgStallMs = q.was F.skbCfgStallMs)

include hp hidx hhost hstall

theorem exec_recordStart_spec (hwas : q.was F.skbCfgMode = 0) (hnew : q.new F.skbCfgMode = 1) :
    (s.skbStartError p ≠ 0 → ∃ t, exec (.recordStart a) s = .next t ∧ t.rd F.skbStatusError q.n = s.skbStartError p ∧
      t.rd F.skbCfgMode q.n = s.rd F.skbCfgMode q.n ∧ t.rd F.skbStatusState q.n = s.rd F.skbStatusState q.n) ∧
    (s.skbStartError p = 0 → ∃ t e, exec (.recordStart a) s = .next t ∧ t.rd F.skbStatusError q.n = 0 ∧
      t.rd F.skbCfgMode q.n = 1 ∧ t.rd F.skbStatusState q.n = 1 ∧ t.flag F.skbStatusReservedHeld q.n = true ∧
      t.rd F.skbWrittenBytes q.n = 0 ∧ t.rd F.skbNextSeqSeq q.n = 0 ∧ (t.skb p).buf = [e] ∧ e.kind = 1 ∧ e.seq = 0 ∧
      e.ctx = 0xFFFF ∧ e.source = s.mode + p * 4 ∧ (t.skb p).stopping = false) := by
  obtain ⟨hpart, hi⟩ := RegWriteReq.skbPart hp hidx
  have hu := State.skbCfgFields_frame (s := s) hi hhost hstall
  obtain ⟨-, hidx', hmode, herr⟩ := hu.idx hp hidx.symm
  have hexec : exec (.recordStart a) s = .next ((s.skbCfgFields q).recordStart p) := by
    refine (show execRecordStart a s = _ from State.onSkbMode_of_writes hw hwas hnew).trans ?_
    rw [(s.writeSkbCfg_eq q).1 hwas hnew, hpart]
  refine ⟨fun hbad => ⟨_, hexec, ?_⟩, fun hok => ?_⟩
  · exact State.startError_spec (f := fun u p => u.recordStart p) hp hidx.symm hu
      (State.recordStart_of_error hp hidx.symm hu) hbad
  · obtain ⟨e, he⟩ := State.recordStart_spec hi hidx' (herr.trans hok)
    rw [hmode] at he
    exact ⟨_, e, hexec, he⟩

theorem exec_recordStop_spec (hwas : q.was F.skbCfgMode = 1) (hnew : q.new F.skbCfgMode = 0) (hst : s.rd F.skbStatusState q.n = 1) :
    ((s.skb p).buf = [] → ∃ t e, exec (.recordStop a) s = .next t ∧ t.rd F.skbStatusState q.n = 0 ∧ t.rd F.skbCfgMode q.n = 0 ∧
      (t.skb p).buf = [e] ∧ e.kind = 0x0D ∧ e.source = 1 ∧ e.payload = leBytes 8 (s.rd F.skbNextSeqSeq q.n)) ∧
    ((s.skb p).buf ≠ [] → ∃ t, exec (.recordStop a) s = .next t ∧ t.rd F.skbCfgMode q.n = 0 ∧ t.rd F.skbStatusState q.n = 1 ∧
      (t.skb p).stopping = true ∧ (t.skb p).buf = (s.skb p).buf) := by
  obtain ⟨hpart, hi⟩ := RegWriteReq.skbPart hp hidx
  have hu := State.skbCfgFields_frame (s := s) hi hhost hstall
  obtain ⟨-, hidx', -, -⟩ := hu.idx hp hidx.symm
  have hexec : exec (.recordStop a) s = .next ((s.skbCfgFields q).recordStop p) := by
    refine (show execRecordStop a s = _ from State.onSkbMode_of_writes hw hwas hnew).trans ?_
    rw [(s.writeSkbCfg_eq q).2.2.1 hwas hnew, hpart]
  have hskb : (s.skbCfgFields q).skb p = s.skb p := congrArg (fun m : NMap SkbSt => m.getD p {}) (congrArg State.skbs hu.rest : _)
  have hseq := hu.regs.rd F.skbNextSeqSeq (isReg_skb (r := .skbNextSeq) (by decide) hi) (by decide) 0
  obtain ⟨hempty, hfull⟩ := State.recordStop_spec hi hidx' (hu.state.trans hst)
  rw [hskb, hseq] at hempty
  rw [hskb] at hfull
  refine ⟨fun hbuf => ?_, fun hbuf => ⟨_, hexec, hfull hbuf⟩⟩
  obtain ⟨e, he⟩ := hempty hbuf
  exact ⟨_, e, hexec, he⟩

theorem exec_replayStart_spec (hwas : q.was F.skbCfgMode = 0) (hnew : q.new F.skbCfgMode = 2) :
    (s.skbStartError p ≠ 0 → ∃ t, exec (.replayStart a) s = .next t ∧ t.rd F.skbStatusError q.n = s.skbStartError p ∧
      t.rd F.skbCfgMode q.n = s.rd F.skbCfgMode q.n) ∧
    (s.skbStartError p = 0 → (s.jRead p 0).kind ≠ 1 → ∃ t, exec (.replayStart a) s = .next t ∧ t.rd F.skbStatusError q.n = 4 ∧
      t.rd F.skbCfgMode q.n = s.rd F.skbCfgMode q.n) ∧
    (s.skbStartError p = 0 → (s.jRead p 0).kind = 1 →
      let limit := s.rd F.skbReplayLenBytes q.n
      limit % 32 = 0 → limit ≤ s.skbRange p → (s.jRead p 0).size < limit → s.jWellFormed p limit (limit / 32) 0 0 = true →
      ∃ t, exec (.replayStart a) s = .next t ∧ t.rd F.skbStatusError q.n = 0 ∧ t.rd F.skbCfgMode q.n = 2 ∧
        t.rd F.skbNextSeqSeq q.n = 1 ∧ t.rd F.skbWrittenBytes q.n = (s.jRead p 0).size ∧
        t.rd F.skbStatusState q.n =
          (if s.rd F.skbPauseSeqSeq q.n ≠ 0 ∧ s.rd F.skbPauseSeqSeq q.n ≤ 1 then 3 else 2)) := by
  obtain ⟨hpart, hi⟩ := RegWriteReq.skbPart hp hidx
  have hu := State.skbCfgFields_frame (s := s) hi hhost hstall
  obtain ⟨-, hidx', hmode, herr⟩ := hu.idx hp hidx.symm
  obtain ⟨-, hrange, hread, -⟩ := hu.journal hp hidx.symm
  have hexec : exec (.replayStart a) s = .next ((s.skbCfgFields q).replayStart p) := by
    refine (show execReplayStart a s = _ from State.onSkbMode_of_writes hw hwas hnew).trans ?_
    rw [(s.writeSkbCfg_eq q).2.1 hwas hnew, hpart]
  have hlen := hu.regs.rd F.skbReplayLenBytes (isReg_skb (r := .skbReplayLen) (by decide) hi) (by decide) 0
  have hpause := hu.regs.rd F.skbPauseSeqSeq (isReg_skb (r := .skbPauseSeq) (by decide) hi) (by decide) 0
  refine ⟨fun hbad => ⟨_, hexec, ?_⟩, fun hok hk => ⟨_, hexec, ?_⟩, fun hok hk => ?_⟩
  · obtain ⟨h1, h2, -⟩ := State.startError_spec (f := fun u p => u.replayStart p) hp hidx.symm hu
      (State.replayStart_of_error hp hidx.symm hu) hbad
    exact ⟨h1, h2⟩
  · rw [State.replayStart_of_bad hp hidx.symm hu hok hk]
    exact ⟨State.rd_wr_first _ F.skbStatusError _ _ (by decide), (State.rd_wr_skb _ hi F.skbStatusError _ _ (by decide)).trans hu.mode⟩
  · intro limit hmod hle hlt hwf
    refine ⟨_, hexec, ?_⟩
    have h := State.replayStart_spec (u := s.skbCfgFields q) (hmode ▸ hp) hidx' (herr.trans hok) (by rw [hlen]; exact hmod)
      (by rw [hlen, hrange]; exact hle) (by rw [hlen, hread]; exact hlt) (by rw [hread]; exact hk)
      (by rw [hlen, hu.jWellFormed hp hidx.symm]; exact hwf)
    rw [hread, hpause] at h
    exact h

omit hhost hstall in
theorem exec_replayStop_spec (hwas : q.was F.skbCfgMode = 2) (hnew : q.new F.skbCfgMode = 0) :
    ∃ t, exec (.replayStop a) s = .next t ∧ t.rd F.skbCfgMode q.n = 0 ∧ t.rd F.skbStatusState q.n = 0 := by
  obtain ⟨hpart, hi⟩ := RegWriteReq.skbPart hp hidx
  refine ⟨_, (show execReplayStop a s = _ from State.onSkbMode_of_writes hw hwas hnew), ?_⟩
  rw [(s.writeSkbCfg_eq q).2.2.2.1 hwas hnew]
  exact ⟨(State.rd_wr_skb _ hi F.skbStatusState _ _ (by decide)).trans (State.rd_wr_first _ F.skbCfgMode _ _ (by decide)),
    State.rd_wr_first _ F.skbStatusState _ _ (by decide)⟩

omit hp hidx hhost hstall in
theorem exec_skbRelease_spec (hwas : q.was F.skbCfgMode = 0) (hnew : q.new F.skbCfgMode = 0) (hrel : q.wrote F.skbCfgRelease = 1) :
    ∃ t, exec (.skbRelease a) s = .next t ∧ t.flag F.skbStatusReservedHeld q.n = false := by
  refine ⟨s.skbCfgFields q, ?_, State.skbCfgFields_release hwas hrel⟩
  show execSkbRelease a s = _
  unfold execSkbRelease
  rw [State.onWrite_of_writes _ hw (List.mem_singleton_self _), if_pos hrel, (s.writeSkbCfg_eq q).2.2.2.2 (hnew.trans hwas.symm)]

end CfgWrites

theorem exec_replayStall_of_due {s : State} {p : Nat} (hp : p < partCount s.mode) (hst : s.rd F.skbStatusState (s.skbIdx p) = 2)
    (hdue : (s.skb p).lastUse + s.rd F.skbCfgStallMs (s.skbIdx p) * 1000000 ≤ s.now) :
    exec (.replayStall p) s = .next (s.diverge p 5 (s.rd F.skbNextSeqSeq (s.skbIdx p))) := by
  show execReplayStall p s = _
  unfold execReplayStall
  exact if_pos ⟨hp, hst, hdue⟩

/-- Settles O54: a start's check reads what the earlier fields of SKB.CFG leave alone; each register of the block is read back past
the writes that are apart from it; and each entry is taken by its kind. -/
theorem sketchbookRecordsAndReplays : Obligations.SketchbookRecordsAndReplays := by
  unfold Obligations.SketchbookRecordsAndReplays
  intro s a q p hp hidx
  have hi : q.n < 4 := hidx ▸ s.skbIdx_lt hp
  refine ⟨fun hw hhost hstall => ⟨exec_recordStart_spec hp hidx hw hhost hstall, exec_recordStop_spec hp hidx hw hhost hstall,
      exec_replayStart_spec hp hidx hw hhost hstall, exec_replayStop_spec hp hidx hw, exec_skbRelease_spec hw⟩,
    (exec_journalFlush_spec hp).1, (exec_journalFlush_spec hp).2, fun e => State.flushBuf_spec hi hidx.symm, exec_skbMark_spec hp hidx,
    exec_skbCheck_addr hp hidx, fun n addr hw => exec_skbCheck_len hp hidx hw, fun st hw hst h => ?_, fun hst => ⟨fun h => ?_, fun hlt => ?_⟩,
    fun cause seq hcause hseq => State.diverge_spec s hidx.symm hi cause seq hcause hseq, fun hst hdue => ?_⟩
  · exact exec_replayPauseSeq_spec hp hidx hw (hst ▸ h)
  · rw [hidx] at hst h
    exact exec_replayEntry_of_end hp hst h
  · rw [hidx] at hst hlt ⊢
    refine ⟨fun hk hq => exec_replayEntry_command hp hst hlt rfl hk rfl hq, fun hk => exec_replayEntry_taskStart hp hst hlt rfl hk rfl rfl,
      fun hk => exec_replayEntry_packet hp hst hlt rfl hk rfl, fun r hk hr => exec_replayEntry_completion hp hst hlt rfl hk rfl hr rfl,
      exec_replayEntry_mark hp hst hlt rfl, exec_replayEntry_keyed hp hst hlt rfl⟩
  · rw [hidx] at hst hdue ⊢
    exact exec_replayStall_of_due hp hst hdue

end Sys2Proof.Machine
end

section
/-! PROOFS. The host session: its loss, its token, and the reset of a function (R360, R361, R363 to R365, R550). -/

namespace Sys2Proof.Machine

open Sys2Proof.Claims

-- the queues of a session that is left or entered again (R362, R364)

/-- One queue as a session leaves or enters the detached state. -/
def State.holdQueue (before after : Nat) (t : State) (e : Nat × QueueSt) : State :=
  if e.1 < 32768 ∧ t.rd F.qpStatusState e.1 = before then t.wr F.qpStatusState e.1 after else t

theorem State.holdQueues_eq (s : State) (before after : Nat) : s.holdQueues before after = s.queues.foldl (State.holdQueue before after) s := rfl

section Hold

variable {before after : Nat} {t : State} {e : Nat × QueueSt}

theorem State.holdQueue_rest : { t.holdQueue before after e with regs := [] } = { t with regs := [] } := by
  unfold State.holdQueue
  split
  · rfl
  · rfl

theorem State.rd_holdQueue {f : Fld} {n : Nat} (hn : IsReg f.reg n) (hf : f.reg ≠ .qpStatus) :
    (t.holdQueue before after e).rd f n = t.rd f n := by
  unfold State.holdQueue
  split
  case isTrue h => exact State.rd_wr_of_reg_ne t (f := F.qpStatusState) after 0 0 (isReg_of_lt h.1) hn (Ne.symm hf)
  case isFalse => rfl

/-- Another queue's state stays, and so does a state other than the one left. -/
theorem State.rd_holdQueue_of_not {k : Nat} (hk : k < 32768) (h : e.1 ≠ k ∨ t.rd F.qpStatusState k ≠ before) :
    (t.holdQueue before after e).rd F.qpStatusState k = t.rd F.qpStatusState k := by
  unfold State.holdQueue
  split
  case isFalse => rfl
  case isTrue hon =>
    have hne : e.1 ≠ k := fun h' => h.resolve_left (not_not.2 h') (by rw [← h', hon.2])
    exact t.rd_wr_ne F.qpStatusState F.qpStatusState e.1 k after 0 0
      (IsReg.addr_ne (isReg_of_lt hon.1) (isReg_of_lt hk) fun h => hne (congrArg Prod.snd h))

theorem State.rd_holdQueue_self (hk : e.1 < 32768) (hst : t.rd F.qpStatusState e.1 = before) (hafter : after < 8) :
    (t.holdQueue before after e).rd F.qpStatusState e.1 = after := by
  unfold State.holdQueue
  rw [if_pos ⟨hk, hst⟩]
  exact (State.rd_wr_first _ F.qpStatusState _ _ (by decide)).trans (Nat.mod_eq_of_lt hafter)

end Hold

section Held

variable {before after : Nat}

theorem State.foldl_holdQueue_rest (l : List (Nat × QueueSt)) (s : State) :
    { l.foldl (State.holdQueue before after) s with regs := [] } = { s with regs := [] } :=
  State.foldl_keeps (fun t : State => { t with regs := [] }) (fun _ _ => State.holdQueue_rest) l s

theorem State.rd_foldl_holdQueue {f : Fld} {n : Nat} (hn : IsReg f.reg n) (hf : f.reg ≠ .qpStatus) (l : List (Nat × QueueSt)) (s : State) :
    (l.foldl (State.holdQueue before after) s).rd f n = s.rd f n :=
  State.foldl_keeps (fun t : State => t.rd f n) (fun _ _ => State.rd_holdQueue hn hf) l s

/-- A queue that was in the state left is in the state entered once it has been taken. -/
theorem State.rd_foldl_holdQueue_state (hafter : after < 8) (hne : after ≠ before) {k : Nat} (hk : k < 32768) (l : List (Nat × QueueSt)) :
    ∀ s : State, (s.rd F.qpStatusState k = after ∨ s.rd F.qpStatusState k = before ∧ ∃ e ∈ l, e.1 = k) →
      (l.foldl (State.holdQueue before after) s).rd F.qpStatusState k = after := by
  induction l with
  | nil => exact fun s h => h.resolve_right fun h => by simp at h
  | cons e l ih =>
    refine fun s h => ih _ ?_
    obtain h | ⟨h, e', he', hek⟩ := h
    · exact .inl ((State.rd_holdQueue_of_not hk (.inr (h.trans_ne hne))).trans h)
    · by_cases hself : e.1 = k
      · subst hself
        exact .inl (State.rd_holdQueue_self hk h hafter)
      · refine .inr ⟨(State.rd_holdQueue_of_not hk (.inl hself)).trans h, e', ?_, hek⟩
        exact (List.mem_cons.1 he').resolve_left fun h => hself (h ▸ hek)

end Held

-- the loss of the host (R360)

/-- The state of a lost host, before the queues of an attached session are held. -/
def State.linkLost (s : State) (cause : Nat) : State :=
  let t := (s.wr F.hifSessionCause 0 cause).clearReg .hifLinkStatus 0
  { t with barReads := [], msix := [], modSt := { t.modSt with linkTraining := true } }

theorem State.reg_linkLost (s : State) (cause : Nat) (r : Reg) (n : Nat) : (s.linkLost cause).reg r n =
    ((s.wr F.hifSessionCause 0 cause).setReg .hifLinkStatus 0 (Reg.reset .hifLinkStatus 0)).reg r n := rfl

theorem isReg_hifSession : IsReg .hifSession 0 := isReg_of_lt (by decide)

theorem isReg_hifLinkStatus : IsReg .hifLinkStatus 0 := isReg_of_lt (by decide)

theorem State.rd_linkLost_session (s : State) (cause : Nat) {f : Fld} (hf : f.reg = .hifSession) :
    (s.linkLost cause).rd f = (s.wr F.hifSessionCause 0 cause).rd f := by
  unfold State.rd
  rw [State.reg_linkLost, State.reg_setReg_ne _ _ isReg_hifLinkStatus (show IsReg f.reg 0 by rw [hf]; exact isReg_hifSession)
    fun h => Reg.noConfusion ((congrArg Prod.fst h).trans hf)]

theorem State.rd_linkLost_state (s : State) (cause : Nat) : (s.linkLost cause).rd F.hifSessionState = s.rd F.hifSessionState :=
  (s.rd_linkLost_session cause rfl).trans
    (State.rd_wr_disjoint s F.hifSessionCause F.hifSessionState 0 cause 0 0 rfl (by decide) (by decide))

theorem State.rd_linkLost_queue (s : State) (cause : Nat) {k : Nat} (hk : k < 32768) :
    (s.linkLost cause).rd F.qpStatusState k = s.rd F.qpStatusState k := by
  have hreg : IsReg .qpStatus k := isReg_of_lt hk
  have h : (s.linkLost cause).reg .qpStatus k = s.reg .qpStatus k :=
    (s.reg_linkLost cause _ _).trans ((State.reg_setReg_ne _ _ isReg_hifLinkStatus hreg fun h => Reg.noConfusion (congrArg Prod.fst h)).trans
      (State.reg_setReg_ne _ _ isReg_hifSession hreg fun h => Reg.noConfusion (congrArg Prod.fst h)))
  exact congrArg (Word.bits · _ _) h

theorem State.linkLost_cause (s : State) {cause : Nat} (hc : cause < 16) : (s.linkLost cause).rd F.hifSessionCause = cause :=
  (s.rd_linkLost_session cause rfl).trans ((s.rd_wr_first F.hifSessionCause 0 cause (by decide)).trans (Nat.mod_eq_of_lt hc))

theorem State.linkLost_up (s : State) (cause : Nat) : (s.linkLost cause).rd F.hifLinkStatusUp = 0 := by
  have h : (s.linkLost cause).reg .hifLinkStatus 0 = Reg.reset .hifLinkStatus 0 := (s.reg_linkLost cause _ _).trans (State.reg_setReg ..)
  exact (congrArg (Word.bits · _ _) h).trans (by decide)

/-- An attached session whose host is lost is detached. -/
def State.detach (u : State) : State :=
  if u.rd F.hifSessionState = 1 then (u.wr F.hifSessionState 0 2).holdQueues 1 3 else u

theorem State.detach_rest (u : State) : { u.detach with regs := [] } = { u with regs := [] } := by
  unfold State.detach
  split
  · exact State.foldl_holdQueue_rest _ _
  · rfl

theorem State.rd_detach (u : State) {f : Fld} {n : Nat} (hn : IsReg f.reg n) (hq : f.reg ≠ .qpStatus)
    (hs : (u.wr F.hifSessionState 0 2).rd f n = u.rd f n) : u.detach.rd f n = u.rd f n := by
  unfold State.detach
  split
  · exact (State.rd_foldl_holdQueue hn hq _ _).trans hs
  · rfl

theorem State.detach_of_attached {u : State} (h : u.rd F.hifSessionState = 1) : u.detach.rd F.hifSessionState = 2 ∧
    ∀ e ∈ u.queues, e.1 < 32768 → u.rd F.qpStatusState e.1 = 1 → u.detach.rd F.qpStatusState e.1 = 3 := by
  unfold State.detach
  rw [if_pos h]
  refine ⟨(State.rd_foldl_holdQueue isReg_hifSession (by decide) _ _).trans (u.rd_wr_first F.hifSessionState 0 2 (by decide)),
    fun e he hk hrun => State.rd_foldl_holdQueue_state (by decide) (by decide) hk _ _ (.inr ⟨?_, e, he, rfl⟩)⟩
  exact (State.rd_wr_of_reg_ne u (f := F.hifSessionState) (g := F.qpStatusState) 2 0 0 isReg_hifSession (isReg_of_lt hk) (by decide)).trans hrun

theorem State.hostLost_eq (s : State) (cause : Nat) : s.hostLost cause = (s.linkLost cause).detach := rfl

/-- What the loss of the host leaves beside the registers. -/
theorem State.hostLost_rest (s : State) (cause : Nat) : { s.hostLost cause with regs := [] } =
    { s with regs := [], barReads := [], msix := [], modSt := { s.modSt with linkTraining := true } } :=
  (s.linkLost cause).detach_rest

theorem State.hostLost_spec (s : State) {cause : Nat} (hc : cause < 16) :
    (s.hostLost cause).rd F.hifSessionCause = cause ∧ (s.hostLost cause).rd F.hifLinkStatusUp = 0 ∧
    (s.rd F.hifSessionState = 1 → (s.hostLost cause).rd F.hifSessionState = 2 ∧
      ∀ e ∈ s.queues, e.1 < 32768 → s.rd F.qpStatusState e.1 = 1 → (s.hostLost cause).rd F.qpStatusState e.1 = 3) := by
  have hqueues : (s.linkLost cause).queues = s.queues := rfl
  have hcause := s.linkLost_cause hc
  have hup := s.linkLost_up cause
  have hst := s.rd_linkLost_state cause
  have hrun {k : Nat} (hk : k < 32768) := s.rd_linkLost_queue cause hk
  rw [State.hostLost_eq]
  generalize s.linkLost cause = u at *
  refine ⟨(u.rd_detach isReg_hifSession (by decide) ?_).trans hcause, (u.rd_detach isReg_hifLinkStatus (by decide) ?_).trans hup,
    fun h => ?_⟩
  · exact u.rd_wr_disjoint F.hifSessionState F.hifSessionCause 0 2 0 0 rfl (by decide) (by decide)
  · exact u.rd_wr_of_reg_ne (f := F.hifSessionState) 2 0 0 isReg_hifSession isReg_hifLinkStatus (by decide)
  · obtain ⟨hdet, hheld⟩ := State.detach_of_attached (hst.trans h)
    exact ⟨hdet, fun e he hk hs => hheld e (hqueues ▸ he) hk ((hrun hk).trans hs)⟩

/-- The commands that lose the host. -/
theorem exec_loss {s : State} {a : Access} {q : RegWriteReq} {c : Nat} {i : Instr} (h :
        (i, c) ∈ [(Instr.hostLoss 1, 1), (.hostLoss 2, 2), (.hostLoss 3, 3)] ∨
        (i = .heartbeatExpiry ∧ c = 4 ∧ s.rd F.hifSessionState = 1 ∧ s.rd F.hifHeartbeatTimeoutMs ≠ 0 ∧
          s.session.lastKick + s.rd F.hifHeartbeatTimeoutMs * 1000000 ≤ s.now) ∨
        (i = .detach a ∧ c = 5 ∧ Writes s a .hifSessionCtl q ∧ q.wrote F.hifSessionCtlAction = 0 ∧ q.wrote F.hifSessionCtlDetach = 1)) :
    exec i s = .next (s.hostLost c) ∧ c < 16 := by
  obtain h | ⟨rfl, rfl, hst, hms, hdue⟩ | ⟨rfl, rfl, hw, hact, hdet⟩ := h
  · obtain h | h | h : (i, c) = (Instr.hostLoss 1, 1) ∨ (i, c) = (Instr.hostLoss 2, 2) ∨ (i, c) = (Instr.hostLoss 3, 3) := by simpa using h
    · obtain ⟨rfl, rfl⟩ := Prod.mk.inj h
      exact ⟨rfl, by decide⟩
    · obtain ⟨rfl, rfl⟩ := Prod.mk.inj h
      exact ⟨rfl, by decide⟩
    · obtain ⟨rfl, rfl⟩ := Prod.mk.inj h
      exact ⟨rfl, by decide⟩
  · refine ⟨?_, by decide⟩
    show execHeartbeatExpiry s = _
    unfold execHeartbeatExpiry
    exact if_pos ⟨hst, hms, hdue⟩
  · refine ⟨?_, by decide⟩
    have hexec : exec (.detach a) s = s.onSession a 0 := rfl
    unfold State.onSession at hexec
    rw [hexec, State.onWrite_of_writes _ hw (List.mem_singleton_self _), if_pos ⟨hact, .inr hdet⟩]
    unfold State.writeSessionCtl State.sessionAction
    dsimp only
    rw [if_pos hdet, if_pos (.inl hact)]

-- a write of SESSION_CTL (R363)

section Actions

variable {s : State} {a : Access} {q : RegWriteReq} (hw : Writes s a .hifSessionCtl q) (hdet : q.wrote F.hifSessionCtlDetach = 0)
  (hlock : s.sessionLocked = false)
include hw hdet

theorem State.onSession_of_writes {act : Nat} (hact : q.wrote F.hifSessionCtlAction = act) (h0 : act ≠ 0) :
    s.onSession a act = .next (s.sessionAction act) := by
  unfold State.onSession
  rw [State.onWrite_of_writes _ hw (List.mem_singleton_self _), if_pos ⟨hact, .inl h0⟩]
  unfold State.writeSessionCtl
  dsimp only
  rw [hdet, hact, if_neg (by decide)]

end Actions

section Action

variable {s : State} {act : Nat} (h0 : act ≠ 0) (hlock : s.sessionLocked = false)
include h0 hlock

theorem State.sessionAction_open : s.sessionAction act = match s.rd F.hifSessionState with
    | 0 => if act = 1 then (if s.session.attachWaits then s else s.attachFresh) else s.accessError
    | 1 => s.accessError
    | _ =>
      if act = 1 then (if s.modSt.standby then s.accessError else s.attachFresh)
      else s.claimSession (decide (act = 2)) := by
  unfold State.sessionAction
  exact if_neg fun h => h.elim h0 fun h => Bool.noConfusion (hlock.symm.trans h)

theorem State.sessionAction_fresh (hact : act = 1) (hst : s.rd F.hifSessionState = 0) (hwait : s.session.attachWaits = false) :
    s.sessionAction act = s.attachFresh := by
  rw [State.sessionAction_open h0 hlock, hst]
  exact (if_pos hact).trans (if_neg (by rw [hwait]; exact Bool.false_ne_true))

theorem State.sessionAction_attached (hact : act ≠ 1) (hst : s.rd F.hifSessionState = 0 ∨ s.rd F.hifSessionState = 1) :
    s.sessionAction act = s.accessError := by
  rw [State.sessionAction_open h0 hlock]
  generalize s.rd F.hifSessionState = k at hst
  match k, hst with
  | 0, _ => exact if_neg hact
  | 1, _ => exact rfl

theorem State.sessionAction_claim (hact : act ≠ 1) (hst : 2 ≤ s.rd F.hifSessionState) :
    s.sessionAction act = s.claimSession (decide (act = 2)) := by
  rw [State.sessionAction_open h0 hlock]
  generalize s.rd F.hifSessionState = k at hst
  match k, hst with
  | k + 2, _ => exact if_neg hact

end Action

theorem State.claimSession_good {s : State} (h : s.session.token = some (s.session.presentLo + s.session.presentHi * 2 ^ 64)) (clear : Bool) :
    s.claimSession clear = s.resumeSession clear := by
  unfold State.claimSession
  exact if_pos h

theorem State.claimSession_bad {s : State} (h : s.session.token ≠ some (s.session.presentLo + s.session.presentHi * 2 ^ 64)) (clear : Bool) :
    s.claimSession clear = ({ s with session := { s.session with lockoutEnd := some (s.now + 1000000000) } } : State).bumpSat
      F.hifSessionBadTokens 0 := by
  unfold State.claimSession
  exact if_neg h

/-- A token issued at once, where there is a root and no key waits. -/
theorem State.attachFresh_spec {s : State} (hst : s.rd F.hifSessionState = 0) (hroot : s.flag F.fwRootRootValid = true)
    (hkeys : s.sec.keyWaits = []) : s.attachFresh.session.token = some (Config.sessionToken s.freeIdx).toNat ∧
      s.attachFresh.session.lastKick = s.now ∧ s.attachFresh.rd F.hifSessionState = 1 := by
  have hdet : s.detached = false := decide_eq_false (by rw [hst]; decide)
  unfold State.attachFresh
  rw [hdet, if_neg Bool.false_ne_true]
  dsimp only
  generalize hu : ({ s with session := { attachWaits := true, lastKick := s.now } } : State) = u
  have hserve : u.serveKeys = { u with sec := { u.sec with keyWaits := [] } } := by
    unfold State.serveKeys
    rw [if_pos (show u.flag F.fwRootRootValid = true by subst hu; exact hroot)]
    dsimp only
    rw [show u.sec.keyWaits = [] by subst hu; exact hkeys]
    rfl
  unfold State.rootServes
  dsimp only
  rw [hserve, if_pos (by subst hu; rw [Bool.and_eq_true]; exact ⟨hroot, rfl⟩)]
  subst hu
  exact ⟨rfl, rfl, State.rd_wr_first _ F.hifSessionState 0 1 (by decide)⟩

-- the token read (R363)

theorem exec_tokenRead_of_read {s t : State} {hi : Bool} {w : Word} (h : s.readToken hi 8 = (t, w)) :
    exec (.tokenRead 0 hi 8) s = .next (t.answerRead (leBytes 8 w.toNat)) := by
  have hexec : exec (.tokenRead 0 hi 8) s = execTokenRead 0 hi 8 s := rfl
  rw [hexec]
  unfold execTokenRead
  rw [if_neg (by decide), h]

theorem State.readToken_first {s : State} {hi : Bool} {tok : Nat} (htok : s.session.token = some tok) (hspdm : s.session.spdmRead = false)
    (hread : (if hi then s.session.hiRead else s.session.loRead) = false) : s.readToken hi 8 =
      ({ s with session := if hi then { s.session with hiRead := true } else { s.session with loRead := true } },
        BitVec.ofNat 64 (if hi then tok / 2 ^ 64 else tok)) := by
  unfold State.readToken
  dsimp only
  rw [htok]
  dsimp only
  rw [if_neg]
  rintro (h | h | h)
  · exact h rfl
  · exact Bool.noConfusion (hspdm.symm.trans h)
  · exact Bool.noConfusion (hread.symm.trans h)

theorem State.readToken_again {s : State} {hi : Bool}
    (h : s.session.token = none ∨ (if hi then s.session.hiRead else s.session.loRead) = true) : s.readToken hi 8 = (s, 0) := by
  unfold State.readToken
  dsimp only
  cases htok : s.session.token with
  | none => rfl
  | some tok => exact if_pos (.inr (.inr (h.resolve_left fun h => nomatch htok.symm.trans h)))

-- a function's reset (R361)

theorem State.flrQueue_spec (s : State) {k : Nat} (hk : k < 32768) :
    ((s.flrQueue k).queue k).cmds = [] ∧ (s.flrQueue k).rd F.qpStatusState k = 0 ∧ (s.flrQueue k).rd F.qpCfgEnable k = 0 := by
  unfold State.flrQueue
  dsimp only
  generalize s.abortCmds k 5 (fun _ => true) = u
  refine ⟨congrArg QueueSt.cmds (State.queue_setQueue u k _), State.rd_wr_first _ F.qpStatusState k 0 (by decide), ?_⟩
  exact (State.rd_wr_of_reg_ne _ (f := F.qpStatusState) 0 0 0 (isReg_of_lt hk) (isReg_of_lt hk) (by decide)).trans
    (State.rd_wr_first _ F.qpCfgEnable k 0 (by decide))

-- the assignment of functions (R550)

theorem exec_vfAssign {s : State} {a : Access} {q : RegWriteReq} (hw : Writes s a .hifVfCfg q) (hon : q.new F.hifVfCfgAssigned = 1) :
    (partCount s.mode ≤ q.new F.hifVfCfgPartition → exec (.vfAssign a) s = .next s.accessError) ∧
    (q.new F.hifVfCfgPartition < partCount s.mode → q.was F.hifVfCfgAssigned = 0 →
      exec (.vfAssign a) s = .next (s.setReg .hifVfCfg q.n q.merged)) := by
  have hexec : exec (.vfAssign a) s = .next (s.writeVfCfg q) :=
    (show exec (.vfAssign a) s = s.onWrite a [.hifVfCfg] s.writeVfCfg from rfl).trans
      (State.onWrite_of_writes _ hw (List.mem_singleton_self _))
  rw [hexec]
  unfold State.writeVfCfg
  dsimp only
  rw [hon]
  refine ⟨fun hp => ?_, fun hp hwas => ?_⟩
  · rw [if_pos (by simp [hp])]
  · rw [hwas, if_neg (by simpa using hp)]
    unfold State.store
    rw [hw.2]

theorem exec_heartbeatKick {s : State} {a : Access} {q : RegWriteReq} (hw : Writes s a .hifHeartbeat q)
    (hkick : q.wrote F.hifHeartbeatKick = 1) : exec (.heartbeatKick a) s = .next
      (({ s with session := { s.session with lastKick := s.now } } : State).setReg .hifHeartbeat q.n q.merged) := by
  refine (show exec (.heartbeatKick a) s = s.onWrite a [.hifHeartbeat] s.writeHeartbeat from rfl).trans
    ((State.onWrite_of_writes _ hw (List.mem_singleton_self _)).trans ?_)
  unfold State.writeHeartbeat State.store
  dsimp only
  rw [if_pos (by simp [hkick]), hw.2]

/-- Settles O39: the loss of the host by its queues held one by one, the actions of SESSION_CTL by the session's state, the token's
halves by whether they were read. -/
theorem hostSession : Obligations.HostSession := by
  unfold Obligations.HostSession
  intro s a q
  refine ⟨fun c i h => ?_, exec_heartbeatKick, fun hw hdet hlock => ⟨fun hact hst hwait hroot hkeys => ?_, fun i act h hact => ?_⟩,
    fun hi tok htok hspdm hread => ?_, fun hi h => ?_, fun t ht hle => ?_, fun v h1 h63 => ?_, fun k hk => s.flrQueue_spec hk,
    fun hw hon => exec_vfAssign hw hon⟩
  · obtain ⟨hexec, hc⟩ := exec_loss h
    obtain ⟨hcause, hup, hst⟩ := s.hostLost_spec hc
    have hrest := s.hostLost_rest c
    exact ⟨_, hexec, hcause, hup, (congrArg State.barReads hrest : _), (congrArg State.mem hrest : _), (congrArg State.cores hrest : _),
      (congrArg State.tasks hrest : _), (congrArg State.queues hrest : _), hst⟩
  · refine ⟨_, (State.onSession_of_writes hw hdet hact (by decide)).trans ?_, State.attachFresh_spec hst hroot hkeys⟩
    rw [State.sessionAction_fresh (by decide) hlock rfl hst hwait]
  · obtain ⟨hexec, h0, h1⟩ : exec i s = s.onSession a act ∧ act ≠ 0 ∧ act ≠ 1 := by
      obtain h | h : (i, act) = (Instr.resume a, 2) ∨ (i, act) = (Instr.resumeHost a, 3) := by simpa using h
      · obtain ⟨rfl, rfl⟩ := Prod.mk.inj h
        exact ⟨rfl, by decide, by decide⟩
      · obtain ⟨rfl, rfl⟩ := Prod.mk.inj h
        exact ⟨rfl, by decide, by decide⟩
    rw [hexec, State.onSession_of_writes hw hdet hact h0]
    refine ⟨fun hst => ?_, fun hst htok => ?_, fun hst htok => ?_⟩
    · rw [State.sessionAction_attached h0 hlock h1 hst]
    · rw [State.sessionAction_claim h0 hlock h1 hst, State.claimSession_good htok]
    · rw [State.sessionAction_claim h0 hlock h1 hst, State.claimSession_bad htok]
  · refine ⟨_, exec_tokenRead_of_read (State.readToken_first htok hspdm hread), ?_, ?_⟩
    · cases hi <;> rfl
    · cases hi <;> rfl
  · exact ⟨_, exec_tokenRead_of_read (State.readToken_again h), rfl, rfl⟩
  · have hexec : exec .tokenLockoutEnd s = execTokenLockoutEnd s := rfl
    rw [hexec]
    unfold execTokenLockoutEnd
    dsimp only
    rw [ht]
    dsimp only
    rw [if_pos hle]
  · exact if_pos ⟨h1, h63⟩

end Sys2Proof.Machine
end

section
/-! PROOFS. SPDM: who is ready, negotiation, answers and sessions (R509 to R513). -/

namespace Sys2Proof.Machine

open Sys2Proof.Claims

/-- An SPDM ERROR answer, as it is sent. -/
theorem State.spdmError_eq (s : State) (m : Medium) (code data : Nat) :
    s.spdmError m code data = s.send (.message m 5 0x7F [BitVec.ofNat 8 code, BitVec.ofNat 8 data]) := rfl

theorem State.vendorReply_eq (s : State) (m : Medium) (status : Nat) (body : List Byte) (h : status < 256) :
    s.vendorReply m status body = s.send (.message m 5 0x7E ([BitVec.ofNat 8 status, 0] ++ body)) := by
  unfold State.vendorReply
  have hle : leBytes 2 status = [BitVec.ofNat 8 status, 0] := by
    unfold leBytes leBytes leBytes
    rw [Nat.div_eq_of_lt h]
    rfl
  rw [hle]
  rfl

-- readiness (R512)

theorem State.notReady_of_root {s : State} (h : s.flag F.fwRootRootValid = false) : s.notReady = some 20 := by
  unfold State.notReady
  rw [h]
  rfl

theorem State.notReady_none {s : State} (h : s.flag F.fwRootRootValid = true) (he : ∀ t, s.sec.electionEnd = some t → t ≤ s.now) :
    s.notReady = none := by
  unfold State.notReady
  rw [h]
  cases hend : s.sec.electionEnd with
  | none => rfl
  | some t => exact if_neg (Nat.not_lt.mpr (he t hend))

theorem State.spdm_of_notReady {s : State} {e : Nat} (h : s.notReady = some e) (m : Medium) (f : State → State) :
    s.spdm m f = s.spdmError m 0x42 e := by
  unfold State.spdm
  rw [h]

theorem State.spdm_of_ready {s : State} (h : s.notReady = none) (m : Medium) (f : State → State) : s.spdm m f = f s := by
  unfold State.spdm
  rw [h]

/-- The requests that any responder without a root answers ResponseNotReady. -/
theorem exec_spdm {i : Instr} {m : Medium} (s : State) (h : i ∈ [Instr.getVersion m, .negotiateAlgorithms m, .getDigests m, .challenge m 0,
        .keyExchange m 0, .getCapabilities m 0x13, .getMeasurements m 1 0 true, .getCertificate m 0 0 1024]) :
    ∃ f, exec i s = .next (s.spdm m f) := by
  simp only [List.mem_cons, List.not_mem_nil, or_false] at h
  obtain rfl | rfl | rfl | rfl | rfl | rfl | rfl | rfl := h
  all_goals exact ⟨_, rfl⟩

/-- The requests that need the negotiation to be complete. -/
theorem exec_spdmReady {i : Instr} {m : Medium} (s : State) (h : i ∈ [Instr.getDigests m, .getCertificate m 0 0 1024, .challenge m 0,
    .getMeasurements m 1 0 true, .keyExchange m 0]) : ∃ f, exec i s = .next (s.spdmReady m f) := by
  simp only [List.mem_cons, List.not_mem_nil, or_false] at h
  obtain rfl | rfl | rfl | rfl | rfl := h
  all_goals exact ⟨_, rfl⟩

section Ready

variable {s : State} (hready : s.notReady = none) {m : Medium}
include hready

theorem State.spdmReady_of_algs (h : (s.spdmConn m).algs = true) (f : State → State) : s.spdmReady m f = f s := by
  unfold State.spdmReady
  rw [State.spdm_of_ready hready, if_pos h]

theorem State.spdmReady_of_not (h : (s.spdmConn m).algs = false) (f : State → State) :
    s.spdmReady m f = s.spdmError m 0x04 := by
  unfold State.spdmReady
  rw [State.spdm_of_ready hready, if_neg (by rw [h]; exact Bool.false_ne_true)]

omit hready in
@[simp] theorem State.spdmConn_setSpdmConn (s : State) (m : Medium) (c : SpdmConn) : (s.setSpdmConn m c).spdmConn m = c := by
  unfold State.setSpdmConn State.spdmConn
  exact NMap.getD_set_self ..

-- negotiation (R509)

theorem exec_getVersion_spec : ∃ t, exec (.getVersion m) s = .next t ∧ t.spdmConn m = {} ∧
    t.sent = s.sent ++ [.message m 5 0x04 [0x12, 0x13]] :=
  ⟨_, congrArg Host.Outcome.next (State.spdm_of_ready hready _ _), s.spdmConn_setSpdmConn m {}, rfl⟩

theorem exec_getCapabilities_spec {v : Nat} (hv : 0x12 ≤ v) : ∃ t, exec (.getCapabilities m v) s = .next t ∧ (t.spdmConn m).caps = true ∧
    (t.spdmConn m).version = (if v < 0x13 then 0x12 else 0x13) := by
  refine ⟨_, congrArg Host.Outcome.next ((State.spdm_of_ready hready _ _).trans (if_neg (Nat.not_lt.mpr hv))), ?_, ?_⟩
  · exact congrArg SpdmConn.caps (s.spdmConn_setSpdmConn m _)
  · exact congrArg SpdmConn.version (s.spdmConn_setSpdmConn m _)

theorem exec_negotiateAlgorithms_spec :
    ((s.spdmConn m).caps = true → ∃ t, exec (.negotiateAlgorithms m) s = .next t ∧ t.spdmConn m = { s.spdmConn m with algs := true }) ∧
    ((s.spdmConn m).caps = false → exec (.negotiateAlgorithms m) s = .next (s.send (.message m 5 0x7F [4, 0]))) := by
  refine ⟨fun h => ⟨_, congrArg Host.Outcome.next ((State.spdm_of_ready hready _ _).trans (if_pos h)), s.spdmConn_setSpdmConn m _⟩,
    fun h => congrArg Host.Outcome.next ((State.spdm_of_ready hready _ _).trans (if_neg ?_))⟩
  rw [h]
  exact Bool.false_ne_true

section Negotiated

variable (halgs : (s.spdmConn m).algs = true)
include halgs

theorem exec_slot_error {i : Instr} {slot : Nat} (hslot : 1 < slot) (h : i ∈ [Instr.getCertificate m slot 0 0, .challenge m slot,
    .getMeasurements m 1 slot false, .keyExchange m slot]) : exec i s = .next (s.send (.message m 5 0x7F [1, 0])) := by
  simp only [List.mem_cons, List.not_mem_nil, or_false] at h
  obtain rfl | rfl | rfl | rfl := h
  all_goals exact congrArg Host.Outcome.next ((State.spdmReady_of_algs hready halgs _).trans (if_pos hslot))

theorem exec_getDigests_spec : exec (.getDigests m) s =
    .next (({ s with freeIdx := s.freeIdx + 1 } : State).send (.message m 5 0x01 (3 :: Config.cryptoBytes s.freeIdx))) :=
  congrArg Host.Outcome.next (State.spdmReady_of_algs hready halgs _)

theorem exec_getCertificate_spec {slot : Nat} (off len : Nat) (hslot : slot ≤ 1) : exec (.getCertificate m slot off len) s =
    .next (({ s with freeIdx := s.freeIdx + 1 } : State).send
      (.message m 5 0x02 (BitVec.ofNat 8 slot :: ((Config.cryptoBytes s.freeIdx).drop off).take len))) :=
  congrArg Host.Outcome.next ((State.spdmReady_of_algs hready halgs _).trans (if_neg (Nat.not_lt.mpr hslot)))

theorem exec_challenge_spec {slot : Nat} (hslot : slot ≤ 1) : exec (.challenge m slot) s =
    .next (({ s with freeIdx := s.freeIdx + 1 } : State).send (.message m 5 0x03 (BitVec.ofNat 8 slot :: Config.cryptoBytes s.freeIdx))) :=
  congrArg Host.Outcome.next ((State.spdmReady_of_algs hready halgs _).trans (if_neg (Nat.not_lt.mpr hslot)))

theorem exec_getMeasurements_spec {index slot : Nat} {b : List Byte} (hslot : slot ≤ 1) (hb : s.measurement index = some b)
    (h0 : index ≠ 0) (hall : index ≠ 0xFF) :
    exec (.getMeasurements m index slot false) s = .next (s.send (.message m 5 0x60 (BitVec.ofNat 8 index :: b))) ∧
    exec (.getMeasurements m index slot true) s = .next (({ s with freeIdx := s.freeIdx + 1 } : State).send
      (.message m 5 0x60 ((BitVec.ofNat 8 index :: b) ++ Config.cryptoBytes s.freeIdx))) := by
  have hexec (signed : Bool) : exec (.getMeasurements m index slot signed) s = execGetMeasurements m index slot signed s := rfl
  rw [hexec, hexec]
  unfold execGetMeasurements
  rw [State.spdmReady_of_algs hready halgs, State.spdmReady_of_algs hready halgs]
  dsimp only
  rw [if_neg (Nat.not_lt.mpr hslot), if_neg h0, if_neg hall, hb, if_neg (Nat.not_lt.mpr hslot), if_neg h0, if_neg hall]
  exact ⟨rfl, rfl⟩

-- sessions (R509)

theorem exec_keyExchange_full {slot : Nat} (hslot : slot ≤ 1) (hfull : 8 ≤ s.sec.sessions.length) :
    exec (.keyExchange m slot) s = .next (s.send (.message m 5 0x7F [0x0A, 0])) :=
  congrArg Host.Outcome.next ((State.spdmReady_of_algs hready halgs _).trans ((if_neg (Nat.not_lt.mpr hslot)).trans (if_pos hfull)))

theorem exec_keyExchange_spec {slot : Nat} (hslot : slot ≤ 1) (hroom : s.sec.sessions.length < 8) :
    ∃ t, exec (.keyExchange m slot) s = .next t ∧
      t.sec.sessions = s.sec.sessions ++ [{ id := s.sec.nextSession, medium := m, beat := s.now }] ∧
      t.sec.nextSession = s.sec.nextSession + 1 ∧ t.rd F.secStatusSessions = s.sec.sessions.length + 1 := by
  refine ⟨_, congrArg Host.Outcome.next ((State.spdmReady_of_algs hready halgs _).trans ((if_neg (Nat.not_lt.mpr hslot)).trans
    (if_neg (Nat.not_le.mpr hroom)))), rfl, rfl, ?_⟩
  refine (State.rd_wr_first _ F.secStatusSessions 0 _ (by decide)).trans ?_
  rw [List.length_append]
  exact Nat.mod_eq_of_lt (by rw [List.length_singleton]; exact Nat.lt_of_lt_of_le (Nat.succ_lt_succ hroom) (by decide))

end Negotiated

section OneSession

variable {x : SpdmSession} (hx : s.sec.sessions = [x]) (hm : x.medium = m)
include hx hm

omit hm in
theorem State.inSession_of_one (f : SpdmSession → State → State) : s.inSession x.id f = f x s := by
  unfold State.inSession
  rw [hx, List.find?_cons_of_pos (by simp)]
  exact State.spdm_of_ready hready _ _

omit hready hm in
theorem State.setSession_of_one {y : SpdmSession} (hy : y.id = x.id) : (s.setSession y).sec.sessions = [y] := by
  show s.sec.sessions.map (fun z => if z.id = y.id then y else z) = [y]
  rw [hx, List.map_singleton, if_pos hy.symm]

theorem exec_session_spec :
    (∃ t, exec (.finish x.id) s = .next t ∧ t.sec.sessions = [{ x with finished := true }] ∧ t.sent = s.sent ++ [.message m 5 0x65 []]) ∧
    (x.finished = true →
      (∃ t, exec (.heartbeat x.id) s = .next t ∧ t.sec.sessions = [{ x with beat := s.now }] ∧ t.sent = s.sent ++ [.message m 5 0x68 []]) ∧
      (∃ t, exec (.keyUpdate x.id) s = .next t ∧ t.sec.sessions = [{ x with updates := x.updates + 1 }])) ∧
    (x.finished = false → exec (.heartbeat x.id) s = .next (s.send (.message m 5 0x7F [4, 0]))) ∧
    (∃ t, exec (.endSession x.id) s = .next t ∧ t.sec.sessions = [] ∧ t.rd F.secStatusSessions = 0) := by
  have hin := State.inSession_of_one hready hx
  have hfilter : s.sec.sessions.filter (fun y => decide (y.id ≠ x.id)) = [] := by rw [hx]; simp
  subst hm
  refine ⟨⟨_, congrArg Host.Outcome.next (hin _), State.setSession_of_one hx rfl, rfl⟩,
    fun hfin => ⟨⟨_, congrArg Host.Outcome.next ((hin _).trans (if_pos hfin)), State.setSession_of_one hx rfl, rfl⟩,
      ⟨_, congrArg Host.Outcome.next ((hin _).trans (if_pos hfin)), State.setSession_of_one hx rfl⟩⟩,
    fun hfin => congrArg Host.Outcome.next ((hin _).trans (if_neg (by rw [hfin]; exact Bool.false_ne_true))),
    ⟨_, congrArg Host.Outcome.next (hin _), hfilter, ?_⟩⟩
  refine (State.rd_wr_first _ F.secStatusSessions 0 _ (by decide)).trans ?_
  rw [hfilter]
  rfl

end OneSession

-- vendor requests and IDE keys within a session (R513, R515)

variable {ch : SpdmChan} (hch : ch.medium = m)
include hch

/-- Without a finished session on the channel the request is not supported. -/
theorem State.vendor_of_none (h : ∀ x ∈ s.sec.sessions, ¬(some x.id = ch.session ∧ x.medium = m ∧ x.finished = true)) (f : State → State) :
    s.vendor ch f = s.send (.message m 5 0x7F [7, 0]) ∧ s.ideKm ch f = s.send (.message m 5 0x7F [7, 0]) := by
  have hany : (s.sec.sessions.any fun x => decide (some x.id = ch.session) && decide (x.medium = ch.medium) && x.finished) = false := by
    rw [List.any_eq_false]
    intro x hx hok
    rw [Bool.and_eq_true, Bool.and_eq_true, decide_eq_true_eq, decide_eq_true_eq, hch] at hok
    exact h x hx ⟨hok.1.1, hok.1.2, hok.2⟩
  unfold State.vendor State.ideKm
  rw [State.spdm_of_ready hready, State.spdm_of_ready hready]
  dsimp only
  rw [hany, Bool.false_and, Bool.false_and, if_neg Bool.false_ne_true, hch]
  exact ⟨rfl, rfl⟩

theorem exec_unsupported (h : ∀ x ∈ s.sec.sessions, ¬(some x.id = ch.session ∧ x.medium = m ∧ x.finished = true)) {i : Instr}
    (hi : i ∈ [Instr.getSessionToken ch, .setPolicy ch 0 0 0 0, .query ch, .macsecClearSa ch 0 0 0 0, .keyProg ch 0 0 0, .kSetGo ch 0 0 0,
      .kSetStop ch 0 0 0]) : exec i s = .next (s.send (.message m 5 0x7F [7, 0])) := by
  have hv := fun f => congrArg (Host.Outcome.next (φ := Fault) (ρ := Refusal)) (State.vendor_of_none hready hch h f).1
  have hk := fun f => congrArg (Host.Outcome.next (φ := Fault) (ρ := Refusal)) (State.vendor_of_none hready hch h f).2
  simp only [List.mem_cons, List.not_mem_nil, or_false] at hi
  obtain rfl | rfl | rfl | rfl | rfl | rfl | rfl := hi
  · exact hv _
  · exact hv _
  · exact hk _
  · exact hv _
  · exact hk _
  · exact hk _
  · exact hk _

omit hready in
/-- A finished session on the device's own mailbox serves vendor requests and key management. -/
theorem State.vendor_of_doe {u : State} (hready : u.notReady = none) (hses : u.sec.sessions = s.sec.sessions)
    (h : ∃ x ∈ s.sec.sessions, some x.id = ch.session ∧ x.medium = m ∧ x.finished = true)
    (hm : m = .doe) (f : State → State) : u.vendor ch f = f u ∧ u.ideKm ch f = f u := by
  have hany : (u.sec.sessions.any fun x => decide (some x.id = ch.session) && decide (x.medium = ch.medium) && x.finished) = true := by
    obtain ⟨x, hx, hid, hmed, hfin⟩ := h
    rw [hses]
    refine List.any_eq_true.2 ⟨x, hx, ?_⟩
    rw [Bool.and_eq_true, Bool.and_eq_true, decide_eq_true_eq, decide_eq_true_eq, hch]
    exact ⟨⟨hid, hmed⟩, hfin⟩
  have hdoe : decide (ch.medium = .doe) = true := decide_eq_true (hch.trans hm)
  unfold State.vendor State.ideKm
  rw [State.spdm_of_ready hready, State.spdm_of_ready hready]
  dsimp only
  rw [hany, hdoe, Bool.true_or, Bool.and_self, if_pos rfl]
  exact ⟨rfl, rfl⟩

end Ready

end Sys2Proof.Machine
end

section
/-! PROOFS. Policy, MACsec, IDE keys and memory encryption (R513 to R520), and with them O55. -/

namespace Sys2Proof.Machine

open Sys2Proof.Claims

-- the token and the policy (R513, R514)

section Vendor

variable {s : State} (hready : s.notReady = none) {ch : SpdmChan}
  (h : ∃ x ∈ s.sec.sessions, some x.id = ch.session ∧ x.medium = .doe ∧ x.finished = true) (hch : ch.medium = .doe)
include hready h hch

theorem exec_getSessionToken_first {k : Nat} (hk : s.session.token = some k) (hspdm : s.session.spdmRead = false)
    (hlo : s.session.loRead = false) (hhi : s.session.hiRead = false) :
    ∃ t, exec (.getSessionToken ch) s = .next t ∧ t.session = { s.session with spdmRead := true } ∧
      t.sent = s.sent ++ [.message .doe 5 0x7E ([0, 0] ++ leBytes 16 k)] := by
  refine ⟨({ s with session := { s.session with spdmRead := true } } : State).vendorReply ch.medium 0 (leBytes 16 k),
    congrArg Host.Outcome.next ((State.vendor_of_doe hch hready rfl h rfl _).1.trans ?_), rfl, ?_⟩
  · rw [hk]
    dsimp only
    rw [hspdm, hlo, hhi]
    exact if_neg (by decide)
  · rw [hch]
    rfl

theorem exec_getSessionToken_again {k : Nat} (hk : s.session.token = some k)
    (hread : s.session.spdmRead = true ∨ s.session.loRead = true ∨ s.session.hiRead = true) :
    exec (.getSessionToken ch) s = .next (s.send (.message .doe 5 0x7E [1, 0])) := by
  refine congrArg Host.Outcome.next ((State.vendor_of_doe hch hready rfl h rfl _).1.trans ?_)
  rw [hk, hch]
  refine if_pos ?_
  rw [Bool.or_eq_true, Bool.or_eq_true, or_assoc]
  exact hread

theorem exec_setPolicy_spec {a b c d : Nat} (ha : a ≤ 1) (hb : b ≤ 1) (hc : c ≤ 1) (hd : d ≤ 1) :
    ∃ t, exec (.setPolicy ch a b c d) s = .next t ∧
      t.flash.policy = { requireIde := a, bmcCap := b, bmcKeys := c, bmcFwu := d } ∧ t.regs = s.regs := by
  refine ⟨_, congrArg Host.Outcome.next ((State.vendor_of_doe hch hready rfl h rfl _).1.trans
    ((if_neg (not_not.2 hch)).trans (if_neg ?_))), rfl, rfl⟩
  omega

theorem exec_setPolicy_bad (b c d : Nat) : exec (.setPolicy ch 2 b c d) s = .next (s.send (.message .doe 5 0x7E [2, 0])) := by
  refine congrArg Host.Outcome.next ((State.vendor_of_doe hch hready rfl h rfl _).1.trans
    ((if_neg (not_not.2 hch)).trans ((if_pos (.inl (by decide))).trans ?_)))
  rw [hch]
  rfl

-- security associations (R513, R517)

omit hready h hch in
theorem State.portNumber_lt {port b sub : Nat} (hb : s.portNumber port = some (b, sub)) : b < 8 := by
  unfold State.portNumber at hb
  dsimp only at hb
  split at hb
  · split at hb
    · cases hb
    · obtain ⟨rfl, -⟩ := Prod.mk.inj (Option.some.inj hb)
      assumption
  · split at hb
    · split at hb
      · obtain ⟨rfl, -⟩ := Prod.mk.inj (Option.some.inj hb)
        omega
      · cases hb
    · cases hb

omit hready h hch in
theorem State.portNumber_congr {t : State} (hst : ∀ n < 8, t.rd F.portStatusSplitInForce n = s.rd F.portStatusSplitInForce n) (port : Nat) :
    t.portNumber port = s.portNumber port := by
  have hflag {n : Nat} (hn : n < 8) : t.flag F.portStatusSplitInForce n = s.flag F.portStatusSplitInForce n := by
    unfold State.flag
    rw [hst n hn]
  unfold State.portNumber
  by_cases h8 : port < 8
  · rw [if_pos h8, if_pos h8, hflag h8]
  · rw [if_neg h8, if_neg h8]
    by_cases h9 : 0x80 ≤ port ∧ port < 0x90
    · rw [if_pos h9, if_pos h9]
      dsimp only
      rw [hflag (n := (port - 0x80) / 2) (by omega)]
    · rw [if_neg h9, if_neg h9]

omit hready h hch in
theorem State.refreshSa_onlyRegs (s : State) {b : Nat} (hb : b < 8) : OnlyRegs [(.portSecStatus, b)] s (s.refreshSa b) := by
  unfold State.refreshSa
  dsimp only
  exact OnlyRegs.trans (s.wr_onlyRegs F.portSecStatusTxSaA b _ 0 (isReg_of_lt hb)) (State.wr_onlyRegs _ F.portSecStatusTxSaB b _ 0 (isReg_of_lt hb))

omit hready h hch in
theorem State.notReady_congr {t : State} (hroot : t.rd F.fwRootRootValid = s.rd F.fwRootRootValid)
    (hend : t.sec.electionEnd = s.sec.electionEnd) (hnow : t.now = s.now) : t.notReady = s.notReady := by
  unfold State.notReady State.flag
  rw [hroot, hend, hnow]

/-- The association that a request installs. -/
def SaFields.association (sa : SaFields) : MacsecSa :=
  { suite := sa.suite, sci := sa.sci, ssci := sa.ssci, salt := sa.salt, pn := sa.pn, sak := sa.sak }

section Association

variable {sa : SaFields} {b sub : Nat} (hport : s.portNumber sa.port = some (b, sub)) (han : sa.an ≤ 3) (hsuite : sa.suite ≤ 1)
include hport han hsuite

theorem exec_macsecSetSa_tx (hdir : sa.dir = 0) (htx : s.sec.txSa = []) :
    ∃ t, exec (.macsecSetSa ch sa) s = .next t ∧ t.sec.txSa = [((b * 2 + sub) * 4 + sa.an, sa.association)] ∧
      t.sent = s.sent ++ [.message .doe 5 0x7E [0, 0]] ∧
      exec (.macsecClearSa ch sa.port 0 sa.an sa.sci) t = .next ((({ t with sec := s.sec } : State).refreshSa b).send
        (.message .doe 5 0x7E [0, 0])) := by
  have hb : b < 8 := State.portNumber_lt hport
  have hsci : sa.association.sci = sa.sci := rfl
  have hrec : ({ suite := sa.suite, sci := sa.sci, ssci := sa.ssci, salt := sa.salt, pn := sa.pn, sak := sa.sak } : MacsecSa) = sa.association := rfl
  generalize sa.association = r at *
  generalize hk : (b * 2 + sub) * 4 + sa.an = k
  generalize hu : ({ s with sec := { s.sec with txSa := [(k, r)] } } : State) = u
  have hrefresh : OnlyRegs [(.portSecStatus, b)] u (u.refreshSa b) := u.refreshSa_onlyRegs hb
  have hexec : exec (.macsecSetSa ch sa) s = .next ((u.refreshSa b).vendorReply ch.medium 0) := by
    refine congrArg Host.Outcome.next ((State.vendor_of_doe hch hready rfl h rfl _).1.trans ?_)
    rw [hport]
    dsimp only
    rw [htx, hrec, hk, if_neg, if_pos hdir]
    · subst hu; rfl
    · simp [hdir, NMap.get?]
      omega
  have hreply (v : State) : v.vendorReply ch.medium 0 = v.send (.message .doe 5 0x7E [0, 0]) := by rw [hch]; rfl
  have hrest : { u.refreshSa b with regs := [] } = { u with regs := [] } := hrefresh.2
  have hsec : (u.refreshSa b).sec = { s.sec with txSa := [(k, r)] } := by
    rw [show (u.refreshSa b).sec = u.sec from (congrArg State.sec hrest : _), ← hu]
  have hready' : ((u.refreshSa b).send (.message .doe 5 0x7E [0, 0])).notReady = none := by
    refine (State.notReady_congr (s := s) ?_ ?_ ?_).trans hready
    · exact (OnlyRegs.rd hrefresh F.fwRootRootValid (isReg_of_lt (by decide)) (by simp [F.fwRootRootValid]) 0).trans (by subst hu; rfl)
    · exact (congrArg SecSt.electionEnd hsec : _)
    · exact (congrArg State.now hrest : _).trans (by subst hu; rfl)
  have hport' : ((u.refreshSa b).send (.message .doe 5 0x7E [0, 0])).portNumber sa.port = some (b, sub) := by
    refine (State.portNumber_congr (s := s) (fun n hn => ?_) _).trans hport
    exact (OnlyRegs.rd hrefresh F.portStatusSplitInForce (isReg_of_lt hn) (by simp [F.portStatusSplitInForce]) 0).trans (by subst hu; rfl)
  refine ⟨_, hexec, ?_, ?_, ?_⟩
  · rw [hreply]
    exact congrArg SecSt.txSa hsec
  · rw [hreply]
    exact congrArg (· ++ [_]) ((congrArg State.sent hrest : _).trans (by subst hu; rfl))
  · rw [hreply]
    refine congrArg Host.Outcome.next ((State.vendor_of_doe hch hready' (congrArg SecSt.sessions hsec : _) h rfl _).1.trans ?_)
    rw [hport']
    dsimp only
    rw [if_neg (by omega), hk, State.send_sec, hsec, hreply]
    dsimp only
    have hdel : NMap.del [(k, r)] k = s.sec.txSa := by rw [htx]; simp [NMap.del]
    have hget : NMap.get? [(k, r)] k = some r := by simp [NMap.get?]
    rw [hget]
    dsimp only
    rw [hdel, if_pos rfl, if_pos hsci]

theorem exec_macsecSetSa_rx (hdir : sa.dir = 1) (hrx : s.sec.rxSa = []) :
    ∃ t, exec (.macsecSetSa ch sa) s = .next t ∧ t.sec.rxSa = [((b * 2 + sub) * 4 + sa.an, sa.association)] := by
  refine ⟨({ s with sec := { s.sec with rxSa := [((b * 2 + sub) * 4 + sa.an, sa.association)] } } : State).vendorReply ch.medium 0,
    congrArg Host.Outcome.next ((State.vendor_of_doe hch hready rfl h rfl _).1.trans ?_), rfl⟩
  rw [hport]
  dsimp only
  rw [hrx, if_neg, if_neg (by rw [hdir]; decide)]
  · rfl
  · simp [hdir]
    omega

end Association

theorem exec_macsecSetSa_noPort {sa : SaFields} (hport : s.portNumber sa.port = none) :
    exec (.macsecSetSa ch sa) s = .next (s.send (.message .doe 5 0x7E [2, 0])) := by
  refine congrArg Host.Outcome.next ((State.vendor_of_doe hch hready rfl h rfl _).1.trans ?_)
  rw [hport, hch]
  rfl

-- IDE keys (R515, R516)

theorem exec_query_spec : exec (.query ch) s = .next (s.send (.message .doe 5 0x01 [4])) :=
  congrArg Host.Outcome.next (State.vendor_of_doe hch hready rfl h rfl _).2

theorem exec_keyProg_bad (k sub : Nat) : exec (.keyProg ch 5 k sub) s = .next (s.send (.message .doe 5 0x03 [1])) :=
  congrArg Host.Outcome.next ((State.vendor_of_doe hch hready rfl h rfl _).2.trans (if_pos (.inl (by decide))))

end Vendor

-- IDE keys programmed, started and stopped (R516)

/-- The state with its IDE keys replaced, and the Secure bits taken afresh. -/
def State.setIde (u : State) (l : List IdeKey) : State := ({ u with sec := { u.sec with ide := l } } : State).refreshIde

@[simp] theorem State.setIde_sec (u : State) (l : List IdeKey) : (u.setIde l).sec = { u.sec with ide := l } := rfl

theorem State.notReady_setIde (u : State) (l : List IdeKey) (m : Sent) : ((u.setIde l).send m).notReady = u.notReady := by
  refine State.notReady_congr ?_ rfl rfl
  exact State.rd_wr_of_reg_ne { u with sec := { u.sec with ide := l } } (f := F.secIdeStatusSecure) (g := F.fwRootRootValid) _ 0 0
    (isReg_of_lt (by decide)) (isReg_of_lt (by decide)) (by decide)

/-- Where one key is programmed, its stream alone is Secure, once it has its GO. -/
theorem State.rd_setIde_of_one (u : State) {x : IdeKey} (hst : x.stream ≤ 4) (hset : x.set ≤ 1) :
    (u.setIde [x]).rd F.secIdeStatusSecure = if x.go then 2 ^ x.stream else 0 := by
  have hsecure (st : Nat) : ([0, 1].any (fun k =>
      let keys := [x].filter (fun x => decide (x.stream = st ∧ x.set = k))
      !keys.isEmpty && keys.all (fun x => x.go))) = (decide (x.stream = st) && x.go) := by
    by_cases h : x.stream = st
    · obtain h0 | h1 : x.set = 0 ∨ x.set = 1 := by omega
      · simp [h, h0]
      · simp [h, h1]
    · simp [h]
  have hfold (go : Bool) : ∀ st ≤ 4, ((List.range 5).foldl (fun a j => if (decide (st = j) && go) = true then a + 2 ^ j else a) 0) % 2 ^ 5 =
      if go then 2 ^ st else 0 := by
    cases go with
    | false => decide
    | true => decide
  refine (State.rd_wr_first { u with sec := { u.sec with ide := [x] } } F.secIdeStatusSecure 0 _ (by decide)).trans ?_
  simp only [hsecure]
  exact hfold x.go x.stream hst

section Key

variable {s : State} (hready : s.notReady = none) {ch : SpdmChan}
  (h : ∃ x ∈ s.sec.sessions, some x.id = ch.session ∧ x.medium = .doe ∧ x.finished = true) (hch : ch.medium = .doe)
include hready h hch

theorem exec_keyProg_spec {x : IdeKey} (hst : x.stream ≤ 4) (hset : x.set ≤ 1) (hsub : x.sub ≤ 5) (hgo : x.go = false) (hide : s.sec.ide = []) :
    exec (.keyProg ch x.stream x.set x.sub) s = .next ((s.setIde [x]).send (.message .doe 5 0x03 [0])) := by
  obtain ⟨st, k, sub, go⟩ := x
  subst hgo
  refine congrArg Host.Outcome.next ((State.vendor_of_doe hch hready rfl h rfl _).2.trans ((if_neg (by simp only at hst hset hsub ⊢; omega)).trans ?_))
  dsimp only
  rw [hide]
  rfl

/-- K_SET_GO and K_SET_STOP mark the one key programmed. -/
theorem exec_kSet_spec {x : IdeKey} (hide : s.sec.ide = [x]) :
    exec (.kSetGo ch x.stream x.set x.sub) s = .next ((s.setIde [{ x with go := true }]).send (.message .doe 5 0x06 [])) ∧
    exec (.kSetStop ch x.stream x.set x.sub) s = .next ((s.setIde [{ x with go := false }]).send (.message .doe 5 0x06 [])) := by
  have hmark (go : Bool) : s.ideMark x.stream x.set x.sub go = s.setIde [{ x with go := go }] := by
    unfold State.ideMark State.setIde
    dsimp only
    rw [hide, List.map_singleton, if_pos ⟨rfl, rfl, rfl⟩]
  rw [← hmark, ← hmark]
  exact ⟨congrArg Host.Outcome.next (State.vendor_of_doe hch hready rfl h rfl _).2,
    congrArg Host.Outcome.next (State.vendor_of_doe hch hready rfl h rfl _).2⟩

theorem exec_ideKeys_spec {st k sub : Nat} (hst : st ≤ 4) (hk : k ≤ 1) (hsub : sub ≤ 5) (hide : s.sec.ide = []) :
    ∃ t, exec (.keyProg ch st k sub) s = .next t ∧ t.sec.ide = [{ stream := st, set := k, sub := sub }] ∧
      t.rd F.secIdeStatusSecure = 0 ∧
      ∃ u, exec (.kSetGo ch st k sub) t = .next u ∧ u.sec.ide = [{ stream := st, set := k, sub := sub, go := true }] ∧
        u.rd F.secIdeStatusSecure = 2 ^ st ∧ ∃ v, exec (.kSetStop ch st k sub) u = .next v ∧ v.rd F.secIdeStatusSecure = 0 := by
  generalize hx : ({ stream := st, set := k, sub := sub } : IdeKey) = x
  generalize ht : (s.setIde [x]).send (.message .doe 5 0x03 [0]) = t
  have hready' : t.notReady = none := by rw [← ht, State.notReady_setIde, hready]
  have hide' : t.sec.ide = [x] := by rw [← ht]; rfl
  have hses : t.sec.sessions = s.sec.sessions := by rw [← ht]; rfl
  have hsecure : t.rd F.secIdeStatusSecure = 0 := by
    rw [← ht]
    exact (s.rd_setIde_of_one (x := x) (by rw [← hx]; exact hst) (by rw [← hx]; exact hk)).trans (by rw [← hx]; rfl)
  have hprog := exec_keyProg_spec hready h hch (x := x) (by rw [← hx]; exact hst) (by rw [← hx]; exact hk) (by rw [← hx]; exact hsub)
    (by rw [← hx]) hide
  subst hx
  rw [ht] at hprog
  have hgo := (exec_kSet_spec hready' (hses ▸ h) hch hide').1
  refine ⟨t, hprog, hide', hsecure, _, hgo, rfl, t.rd_setIde_of_one hst hk, ?_⟩
  generalize hu : (t.setIde _).send (.message .doe 5 0x06 []) = u
  have hready'' : u.notReady = none := by rw [← hu, State.notReady_setIde, hready']
  have hide'' : u.sec.ide = [{ stream := st, set := k, sub := sub, go := true }] := by rw [← hu]; rfl
  have hses' : u.sec.sessions = s.sec.sessions := by rw [← hses, ← hu]; rfl
  exact ⟨_, (exec_kSet_spec hready'' (hses' ▸ h) hch hide'').2, u.rd_setIde_of_one hst hk⟩

end Key

theorem exec_ideCheckFail_spec {s : State} {st : Nat} (hst : st < 5) (hsec : (s.rd F.secIdeStatusSecure).testBit st = true) :
    ∃ t, exec (.ideCheckFail st) s = .next t ∧ t.rd F.secIdeStatusCheckFails = min (s.rd F.secIdeStatusCheckFails + 1) 0xFFFF ∧
      t.sent = s.sent ++ [.aer 0] ∧ t.sec.ide = s.sec.ide.filter (fun x => decide (x.stream ≠ st)) := by
  refine ⟨_, (show execIdeCheckFail st s = _ from if_pos ⟨hst, hsec⟩), ?_, rfl, rfl⟩
  refine (State.rd_bumpSat _ F.secIdeStatusCheckFails 0 1 (by decide)).trans ?_
  exact congrArg (fun n => min (n + 1) 0xFFFF) (State.rd_wr_disjoint _ F.secIdeStatusSecure F.secIdeStatusCheckFails 0 _ 0 0 rfl (by decide)
    (by decide))

-- MACsec on a port (R518)

theorem exec_macsecTxAnWrite_spec {s : State} {a : Access} {q : RegWriteReq} (hw : Writes s a .portSecCfg q) (hn : q.n < 8)
    (hB : q.new F.portSecCfgTxAnB = q.was F.portSecCfgTxAnB) (hA : q.new F.portSecCfgTxAnA ≠ q.was F.portSecCfgTxAnA) :
    (s.sec.txSa.has (q.n * 8 + q.new F.portSecCfgTxAnA) = true → ∃ t, exec (.macsecTxAnWrite a) s = .next t ∧
      t.rd F.portSecCfgTxAnA q.n = q.new F.portSecCfgTxAnA ∧ t.rd F.portSecStatusPnWarnA q.n = 0 ∧
      t.rd F.portSecStatusPnExhaustedA q.n = 0) ∧
    (s.sec.txSa.has (q.n * 8 + q.new F.portSecCfgTxAnA) = false → ∃ t, exec (.macsecTxAnWrite a) s = .next t ∧
      t.rd F.portSecCfgTxAnA q.n = s.rd F.portSecCfgTxAnA q.n) := by
  have hexec : exec (.macsecTxAnWrite a) s = .next (s.writeSecCfg q) :=
    (show exec (.macsecTxAnWrite a) s = s.onWrite a [.portSecCfg] s.writeSecCfg from rfl).trans
      (State.onWrite_of_writes _ hw (List.mem_singleton_self _))
  have hcfg : IsReg .portSecCfg q.n := isReg_of_lt hn
  have hstat : IsReg .portSecStatus q.n := isReg_of_lt hn
  have hkey : (q.n * 2 + 0) * 4 + q.new F.portSecCfgTxAnA = q.n * 8 + q.new F.portSecCfgTxAnA := by omega
  rw [hexec]
  unfold State.writeSecCfg
  dsimp only
  rw [if_neg hA, hkey]
  refine ⟨fun hsa => ?_, fun hsa => ?_⟩
  · rw [hsa, if_pos rfl]
    dsimp only
    rw [if_pos hB]
    unfold State.store
    rw [hw.2]
    refine ⟨_, rfl, ?_, ?_, ?_⟩
    · exact congrArg (Word.bits · _ _) (State.reg_setReg ..)
    · refine (congrArg (Word.bits · _ _) (State.reg_setReg_ne _ _ hcfg hstat (fun h => Reg.noConfusion (congrArg Prod.fst h)))).trans ?_
      exact (State.rd_wr_disjoint _ F.portSecStatusPnExhaustedA F.portSecStatusPnWarnA q.n 0 0 0 rfl (by decide) (by decide)).trans
        (State.rd_wr_first _ F.portSecStatusPnWarnA q.n 0 (by decide))
    · refine (congrArg (Word.bits · _ _) (State.reg_setReg_ne _ _ hcfg hstat (fun h => Reg.noConfusion (congrArg Prod.fst h)))).trans ?_
      exact State.rd_wr_first _ F.portSecStatusPnExhaustedA q.n 0 (by decide)
  · rw [hsa, if_neg Bool.false_ne_true]
    dsimp only
    rw [if_pos (show (q.keep F.portSecCfgTxAnA).new F.portSecCfgTxAnB = (q.keep F.portSecCfgTxAnA).was F.portSecCfgTxAnB from
      (q.new_keep F.portSecCfgTxAnA F.portSecCfgTxAnB (by decide) (by decide)).trans hB)]
    refine ⟨_, rfl, ?_⟩
    have hold : q.old = s.reg q.reg q.n := by
      obtain ⟨r, n, -, -, -, -, -, rfl⟩ := State.writeGate_go hw.1
      rfl
    unfold State.store
    have hplace : (q.keep F.portSecCfgTxAnA).reg = .portSecCfg ∧ (q.keep F.portSecCfgTxAnA).n = q.n := ⟨hw.2, rfl⟩
    rw [hplace.1, hplace.2]
    refine (congrArg (Word.bits · _ _) (State.reg_setReg ..)).trans ((q.new_keep_self F.portSecCfgTxAnA (by decide) (by decide)).trans ?_)
    unfold RegWriteReq.was
    rw [hold, hw.2]
    rfl

section Emit

variable {s : State} {b sub an : Nat} {f : TxFrame} {sa : MacsecSa} (hb : b < 8) (hf : f.sub = sub) (hon : s.macsecOn b sub = true)
  (han : an = s.rd (if sub = 0 then F.portSecCfgTxAnA else F.portSecCfgTxAnB) b) (hsa : s.sec.txSa.get? ((b * 2 + sub) * 4 + an) = some sa)
include hf hon han hsa

theorem State.emit_sent (hpn : sa.pn ≤ sa.lastPn) : (s.emit b f).sent = s.sent ++ [.packet b f (some (an, sa.pn))] ∧
    (s.emit b f).sec.txSa.get? ((b * 2 + sub) * 4 + an) = some { sa with pn := sa.pn + 1 } := by
  subst hf han
  unfold State.emit
  dsimp only
  rw [if_pos hon, hsa]
  dsimp only
  rw [if_neg (Nat.not_lt.mpr hpn)]
  split
  · exact ⟨rfl, (NMap.get?_set ..).trans (if_pos rfl)⟩
  · exact ⟨rfl, (NMap.get?_set ..).trans (if_pos rfl)⟩

include hb in
theorem State.emit_exhausted (hpn : sa.lastPn < sa.pn) : (s.emit b f).sent = s.sent ∧
    (s.emit b f).rd F.portSecDropsTx b = min (s.rd F.portSecDropsTx b + 1) 0xFFFFFFFF := by
  subst hf han
  unfold State.emit
  dsimp only
  rw [if_pos hon, hsa]
  dsimp only
  rw [if_pos hpn]
  refine ⟨rfl, (State.rd_bumpSat _ F.portSecDropsTx b 1 (by decide)).trans (congrArg (fun n => min (n + 1) 0xFFFFFFFF) ?_)⟩
  split
  · exact State.rd_wr_of_reg_ne s (f := F.portSecStatusPnExhaustedA) (g := F.portSecDropsTx) 1 0 0 (isReg_of_lt hb) (isReg_of_lt hb) (by decide)
  · exact State.rd_wr_of_reg_ne s (f := F.portSecStatusPnExhaustedB) (g := F.portSecDropsTx) 1 0 0 (isReg_of_lt hb) (isReg_of_lt hb) (by decide)

end Emit

theorem State.macsecReceive_spec {s : State} {b : Nat} {f : Frame} {t : SecTag} {sa : MacsecSa} (ht : f.tag = some t)
    (hrx : s.sec.rxSa = [((b * 2 + f.sub) * 4 + t.an, sa)]) (hsci : sa.sci = t.sci) :
    (t.icv = false ∨ t.pn + s.rd F.portSecCfgReplayWindow b < sa.pn → s.macsecReceive b f = none) ∧
    (t.icv = true → sa.pn ≤ t.pn + s.rd F.portSecCfgReplayWindow b → ∃ u, s.macsecReceive b f = some u ∧
      u.sec.rxSa = [((b * 2 + f.sub) * 4 + t.an, { sa with pn := max sa.pn (t.pn + 1) })]) := by
  unfold State.macsecReceive
  dsimp only
  rw [ht]
  dsimp only
  rw [hrx, List.find?_cons_of_pos (by simp [hsci])]
  dsimp only
  refine ⟨fun h => if_pos h, fun hicv hpn => ⟨_, if_neg ?_, ?_⟩⟩
  · rintro (h | h)
    · exact Bool.noConfusion (h.symm.trans hicv)
    · omega
  · show List.map _ [_] = _
    rw [List.map_singleton, if_pos ⟨rfl, hsci⟩]

-- memory encryption (R520)

theorem exec_memCryptEnable_spec {s : State} {a : Access} {q : RegWriteReq} (hw : Writes s a .ctxMemCrypt q) :
    (q.new F.ctxMemCryptEnable = q.was F.ctxMemCryptEnable → exec (.memCryptEnable a) s = .next s) ∧
    (q.new F.ctxMemCryptEnable ≠ q.was F.ctxMemCryptEnable → s.granted q.n = true →
      exec (.memCryptEnable a) s = .next s.accessError) ∧
    (q.new F.ctxMemCryptEnable = 1 → q.was F.ctxMemCryptEnable = 0 → s.granted q.n = false → s.sec.keyWaits = [] →
      ∃ t, exec (.memCryptEnable a) s = .next t ∧ t.flag F.ctxMemCryptEnable q.n = true ∧
        (s.flag F.fwRootRootValid = true → t.flag F.ctxMemCryptKeyReady q.n = true) ∧
        (s.flag F.fwRootRootValid = false → t.sec.keyWaits = [q.n])) ∧
    (q.new F.ctxMemCryptEnable = 0 → q.was F.ctxMemCryptEnable = 1 → s.granted q.n = false →
      ∃ t, exec (.memCryptEnable a) s = .next t ∧ t.flag F.ctxMemCryptEnable q.n = false ∧
        t.flag F.ctxMemCryptKeyReady q.n = false ∧ t.sec.ctxKeys.get? q.n = none) := by
  have hexec : exec (.memCryptEnable a) s = .next (s.writeMemCrypt q) :=
    (show exec (.memCryptEnable a) s = s.onWrite a [.ctxMemCrypt] s.writeMemCrypt from rfl).trans
      (State.onWrite_of_writes _ hw (List.mem_singleton_self _))
  have hreg : IsReg .ctxMemCrypt q.n := by
    obtain ⟨r, n, -, hr, -, -, -, rfl⟩ := State.writeGate_go hw.1
    exact hw.2 ▸ hr
  rw [hexec]
  unfold State.writeMemCrypt
  dsimp only
  refine ⟨fun h => congrArg Host.Outcome.next (if_pos h), fun h hg => congrArg Host.Outcome.next ((if_neg h).trans (if_pos hg)),
    fun hnew hwas hg hnil => ?_, fun hnew hwas hg => ?_⟩
  · rw [hnew, hwas, if_neg (by decide), hg, if_neg Bool.false_ne_true, if_pos rfl, show (s.wr F.ctxMemCryptEnable q.n 1).sec.keyWaits = [] from hnil, List.nil_append]
    have henable : (s.wr F.ctxMemCryptEnable q.n 1).rd F.ctxMemCryptEnable q.n = 1 := s.rd_wr_first F.ctxMemCryptEnable q.n 1 (by decide)
    have hroot : (s.wr F.ctxMemCryptEnable q.n 1).flag F.fwRootRootValid = s.flag F.fwRootRootValid :=
      congrArg (fun n => decide (n = 1)) (State.rd_wr_of_reg_ne s (f := F.ctxMemCryptEnable) (g := F.fwRootRootValid) 1 0 0 hreg
        (isReg_of_lt (by decide)) (by decide))
    generalize s.wr F.ctxMemCryptEnable q.n 1 = u at henable hroot ⊢
    unfold State.serveKeys
    rw [← hroot]
    by_cases hvalid : u.flag F.fwRootRootValid = true
    · refine ⟨_, congrArg Host.Outcome.next (if_pos hvalid), decide_eq_true ?_, fun _ => decide_eq_true ?_, fun h => ?_⟩
      · exact (State.rd_wr_disjoint _ F.ctxMemCryptKeyReady F.ctxMemCryptEnable q.n 1 0 0 rfl (by decide) (by decide)).trans henable
      · exact State.rd_wr_first _ F.ctxMemCryptKeyReady q.n 1 (by decide)
      · exact Bool.noConfusion (h.symm.trans hvalid)
    · exact ⟨_, congrArg Host.Outcome.next (if_neg hvalid), decide_eq_true henable, fun h => absurd h hvalid, fun _ => rfl⟩
  · rw [hnew, hwas, if_neg (by decide), hg, if_neg Bool.false_ne_true, if_neg (by decide)]
    have henable : (s.wr F.ctxMemCryptEnable q.n 0).rd F.ctxMemCryptEnable q.n = 0 := s.rd_wr_first F.ctxMemCryptEnable q.n 0 (by decide)
    generalize s.wr F.ctxMemCryptEnable q.n 0 = u at henable ⊢
    refine ⟨_, rfl, decide_eq_false ?_, decide_eq_false ?_, (NMap.get?_del ..).trans (if_pos rfl)⟩
    · exact fun h => absurd (henable.symm.trans ((State.rd_wr_disjoint _ F.ctxMemCryptKeyReady F.ctxMemCryptEnable q.n 0 0 0 rfl (by decide)
        (by decide)).symm.trans h)) (by decide)
    · exact fun h => absurd ((State.rd_wr_first _ F.ctxMemCryptKeyReady q.n 0 (by decide)).symm.trans h) (by decide)

/-- Settles O55: every SPDM request goes through the readiness of the responder, then through the negotiation or the session it needs. -/
theorem attestationAndKeys : Obligations.AttestationAndKeys := by
  unfold Obligations.AttestationAndKeys
  intro s m ch
  refine ⟨fun hroot i hi => ?_, fun hroot hend => ?_, fun st hst hsec => exec_ideCheckFail_spec hst hsec,
    fun a q hw hn hB hA => exec_macsecTxAnWrite_spec hw hn hB hA,
    fun b sub f sa an hb _ hf hon han hsa => ⟨fun hpn => ⟨_, rfl, State.emit_sent hf hon han hsa hpn⟩,
      State.emit_exhausted hb hf hon han hsa⟩,
    fun b f t sa ht hrx hsci => State.macsecReceive_spec ht hrx hsci, fun a q hw => exec_memCryptEnable_spec hw⟩
  · obtain ⟨f, hf⟩ := exec_spdm s hi
    rw [hf, State.spdm_of_notReady (State.notReady_of_root hroot)]
    rfl
  · have hready := State.notReady_none hroot hend
    refine ⟨exec_getVersion_spec hready, fun v hv => exec_getCapabilities_spec hready hv, (exec_negotiateAlgorithms_spec hready).1,
      (exec_negotiateAlgorithms_spec hready).2, fun halgs i hi => ?_, fun halgs => ⟨fun t ht => ?_, fun slot hslot i hi =>
        exec_slot_error hready halgs hslot hi, fun slot hslot hfull => exec_keyExchange_full hready halgs hslot hfull,
        fun slot hslot hroom => exec_keyExchange_spec hready halgs hslot hroom⟩, fun x hx hm => exec_session_spec hready hx hm,
      fun hch hnone i hi => exec_unsupported hready hch hnone hi, fun hch hsome hm => ?_⟩
    · obtain ⟨f, hf⟩ := exec_spdmReady s hi
      rw [hf, State.spdmReady_of_not hready halgs]
      rfl
    · subst ht
      exact ⟨exec_getDigests_spec hready halgs, fun slot off len hslot => exec_getCertificate_spec hready halgs off len hslot,
        fun slot hslot => exec_challenge_spec hready halgs hslot,
        fun index slot b hslot hb h0 hall => exec_getMeasurements_spec hready halgs hslot hb h0 hall⟩
    · subst hm
      exact ⟨fun k hk hspdm hlo hhi => exec_getSessionToken_first hready hsome hch hk hspdm hlo hhi,
        fun k hk hread => exec_getSessionToken_again hready hsome hch hk hread,
        fun a b c d ha hb hc hd => exec_setPolicy_spec hready hsome hch ha hb hc hd, exec_setPolicy_bad hready hsome hch,
        fun sa b sub hport han hsuite => ⟨exec_macsecSetSa_tx hready hsome hch hport han hsuite,
          exec_macsecSetSa_rx hready hsome hch hport han hsuite⟩,
        fun sa hport => exec_macsecSetSa_noPort hready hsome hch hport, exec_query_spec hready hsome hch,
        fun st k sub hst hk hsub hide => exec_ideKeys_spec hready hsome hch hst hk hsub hide,
        exec_keyProg_bad hready hsome hch⟩

end Sys2Proof.Machine
end

section
/-! PROOFS. What an election of a root leaves, whatever waits for it (R460, R461). -/

namespace Sys2Proof.Machine

open Sys2Proof.Claims

@[simp] theorem State.besidesRoot_wr (s : State) (f : Fld) (n v k : Nat) : (s.wr f n v k).besidesRoot = s.besidesRoot := rfl

@[simp] theorem State.besidesRoot_setReg (s : State) (r : Reg) (n : Nat) (w : Word) : (s.setReg r n w).besidesRoot = s.besidesRoot := rfl

theorem State.besidesRoot_foldl {α : Type} {f : State → α → State} (hf : ∀ s x, (f s x).besidesRoot = s.besidesRoot) (l : List α) (s : State) :
    (l.foldl f s).besidesRoot = s.besidesRoot := State.foldl_keeps State.besidesRoot hf l s

theorem State.besidesRoot_sensorEvent (s : State) (sensor before after : Nat) : (s.sensorEvent sensor before after).besidesRoot = s.besidesRoot :=
  (RootFrame.sensorEvent s sensor before after).rest

theorem State.besidesRoot_setPartState (s : State) (p v : Nat) : (s.setPartState p v).besidesRoot = s.besidesRoot :=
  State.besidesRoot_sensorEvent _ _ _ _

theorem State.besidesRoot_serveKeys (s : State) : s.serveKeys.besidesRoot = s.besidesRoot := by
  unfold State.serveKeys
  split
  · exact State.besidesRoot_foldl (f := State.installKey) (fun _ _ => rfl) s.sec.keyWaits { s with sec := { s.sec with keyWaits := [] } }
  · rfl

theorem State.besidesRoot_rootServes (s : State) : s.rootServes.besidesRoot = s.besidesRoot := by
  unfold State.rootServes
  dsimp only
  split
  · exact s.besidesRoot_serveKeys
  · exact s.besidesRoot_serveKeys

theorem State.besidesRoot_refreshRoot (s : State) : s.refreshRoot.besidesRoot = s.besidesRoot := by
  unfold State.refreshRoot
  dsimp only
  generalize hu : s.wr F.fwRootHealthy 0 s.healthMask = u
  have hus : u.besidesRoot = s.besidesRoot := by rw [← hu]; rfl
  rw [← hus]
  generalize s.healthMask = m
  refine State.ite_keeps State.besidesRoot rfl ?_
  have hover : (if u.flag F.fwRootRootValid then u.holdRestarts else u).besidesRoot = u.besidesRoot :=
    State.ite_keeps State.besidesRoot (RootFrame.holdRestarts u).rest rfl
  generalize (if u.flag F.fwRootRootValid then u.holdRestarts else u) = v at hover ⊢
  have hend : (if u.flag F.fwRootRootValid then
      { v with sec := { v.sec with electionEnd := some (v.now + 10000000) } } else v).besidesRoot = v.besidesRoot :=
    State.ite_keeps State.besidesRoot rfl rfl
  rw [← hover, ← hend]
  generalize (if u.flag F.fwRootRootValid then
      { v with sec := { v.sec with electionEnd := some (v.now + 10000000) } } else v) = w
  split
  · exact State.besidesRoot_rootServes _
  · rfl

theorem State.besidesRoot_refreshPwr (s : State) (r : Nat) : (s.refreshPwr r).besidesRoot = s.besidesRoot := by
  unfold State.refreshPwr
  dsimp only
  rw [State.besidesRoot_wr, State.besidesRoot_wr, State.besidesRoot_wr, State.besidesRoot_wr, State.besidesRoot_wr]

/-- Whatever follows a firmware core's state is a matter of registers and of the root. -/
theorem State.besidesRoot_setFwState (s : State) (fw v : Nat) : (s.setFwState fw v).besidesRoot = s.besidesRoot := by
  unfold State.setFwState
  generalize fwFields fw = x
  obtain ⟨f, g, n⟩ := x
  dsimp only
  rw [← State.besidesRoot_wr s f n v 0]
  generalize s.wr f n v = u
  unfold State.fwFollow
  split
  · exact u.besidesRoot_refreshRoot
  · exact u.besidesRoot_refreshPwr _
  · rfl
  · rfl

/-- A core that runs keeps its image, and what waits for a root. -/
theorem State.fwRun_frame (s : State) (fw : Nat) : (s.fwRun fw).flash = s.flash ∧ (s.fwRun fw).fwWaits = s.fwWaits ∧
    (s.fwRun fw).fwCores = s.fwCores.set fw { s.fwCores.getD fw {} with restartAt := none } := by
  unfold State.fwRun
  dsimp only
  generalize hu : (if fwType fw = 1 then State.setPwr _ (fwRegion fw) _ else _ : State) = u
  have hk : u.flash = s.flash ∧ u.fwWaits = s.fwWaits ∧ u.fwCores = s.fwCores.set fw { s.fwCores.getD fw {} with restartAt := none } := by
    rw [← hu]
    split
    · exact ⟨rfl, rfl, rfl⟩
    · exact ⟨rfl, rfl, rfl⟩
  have hrest := u.besidesRoot_setFwState fw 0
  rw [← hk.1, ← hk.2.1, ← hk.2.2]
  exact ⟨(congrArg State.flash hrest : _), (congrArg State.fwWaits hrest : _), (congrArg State.fwCores hrest : _)⟩

end Sys2Proof.Machine
end

section
/-! PROOFS. MCTP, PLDM and SIDE_SIG (R506, R521 to R528). -/

namespace Sys2Proof.Machine

open Sys2Proof.Claims

-- who is answered (R521)

theorem State.mctp_of_endpoint (s : State) {m : Medium} (hm : m ≠ .doe) {f : State → State} {t : State} (h : f s = t) :
    s.mctp m f = .next t := congrArg Host.Outcome.next ((if_neg hm).trans h)

/-- An answer whose completion code and data are bytes. -/
theorem State.pldm_eq (s : State) (m : Medium) (code cc : Nat) (bytes : List Byte) :
    s.pldm m code cc bytes = s.send (.message m 1 code (BitVec.ofNat 8 cc :: bytes)) := rfl

section Endpoint

variable {s : State} {m : Medium} (hm : m ≠ .doe)
include hm

theorem State.pldmRequest_of_none (hroot : s.flag F.fwRootRootValid = false) (code : Nat) (f : State → State) :
    s.pldmRequest m code f = .next (s.send (.message m 1 code [4])) :=
  s.mctp_of_endpoint hm (if_neg (by rw [hroot]; exact Bool.false_ne_true))

theorem exec_notReady (hroot : s.flag F.fwRootRootValid = false) {i : Instr} {k : Nat}
    (h : (i, k) ∈ [(Instr.setTid m 1, 1), (.getTid m, 2), (.getPldmVersion m, 3), (.getPldmTypes m, 4),
        (.getPldmCommands m 0, 5), (.getPdrRepositoryInfo m, 0x50), (.getPdr m 1, 0x51), (.getSensorReading m 1, 0x11),
        (.getStateSensorReadings m 0x80, 0x21), (.getNumericEffecterValue m 0x100, 0x32), (.setNumericEffecterValue m 0x100 2000, 0x31),
        (.setStateEffecterStates m 0x102 0, 0x39), (.setEventReceiver m 0, 4), (.getFruRecordTableMetadata m, 1), (.getFruRecordTable m, 2),
        (.requestUpdate m, 0x10), (.getStatus m, 0x1B)]) : exec i s = .next (s.send (.message m 1 k [4])) := by
  have hask : ∃ f, exec i s = s.pldmRequest m k f := by
    simp only [List.mem_cons, List.not_mem_nil, or_false, Prod.mk.injEq] at h
    obtain ⟨rfl, rfl⟩ | ⟨rfl, rfl⟩ | ⟨rfl, rfl⟩ | ⟨rfl, rfl⟩ | ⟨rfl, rfl⟩ | ⟨rfl, rfl⟩ | ⟨rfl, rfl⟩ | ⟨rfl, rfl⟩ | ⟨rfl, rfl⟩ | ⟨rfl, rfl⟩ |
      ⟨rfl, rfl⟩ | ⟨rfl, rfl⟩ | ⟨rfl, rfl⟩ | ⟨rfl, rfl⟩ | ⟨rfl, rfl⟩ | ⟨rfl, rfl⟩ | ⟨rfl, rfl⟩ := h
    iterate 15
      · unfold exec
        exact ⟨_, rfl⟩
    · exact ⟨_, (show execRequestUpdate m s = s.updateCommand m 0x10 _ from rfl).trans rfl⟩
    · exact ⟨_, (show execGetStatus m s = s.updateCommand m 0x1B _ from rfl).trans rfl⟩
  obtain ⟨f, hf⟩ := hask
  rw [hf, State.pldmRequest_of_none hm hroot]

-- MCTP control (R521, R522)

theorem exec_setEndpointId_spec {eid : Nat} (heid : eid < 256) : ∃ t, exec (.setEndpointId m eid) s = .next t ∧
    t.mgt.eids.get? m.index = some eid ∧ exec (.getEndpointId m) t = .next (t.send (.message m 0 2 [0, BitVec.ofNat 8 eid])) := by
  have hset : exec (.setEndpointId m eid) s = execSetEndpointId m eid s := rfl
  have hask (t : State) : exec (.getEndpointId m) t = execGetEndpointId m t := rfl
  rw [hset]
  refine ⟨_, s.mctp_of_endpoint hm rfl, ?_, ?_⟩
  · exact (NMap.get?_set ..).trans ((if_pos rfl).trans (congrArg some (Nat.mod_eq_of_lt heid)))
  · rw [hask]
    refine State.mctp_of_endpoint _ hm (congrArg (fun n => State.send _ (.message m 0 2 (0 :: leBytes 1 n))) ?_)
    exact (NMap.getD_set_self _ _ _ _).trans (Nat.mod_eq_of_lt heid)

theorem exec_control_spec :
    exec (.getMctpVersionSupport m) s = .next (s.send (.message m 0 4 [0, 1, 0xF1, 0xF3])) ∧
    exec (.getMessageTypeSupport m) s = .next (s.send (.message m 0 5 [0, 0, 1, 5, 6])) ∧
    exec (.getEndpointUuid m) s = .next (s.send (.message m 0 3 (0 :: Config.endpointUuid))) := by
  have hexec : exec (.getMctpVersionSupport m) s = execGetMctpVersionSupport m s ∧
    exec (.getMessageTypeSupport m) s = execGetMessageTypeSupport m s ∧ exec (.getEndpointUuid m) s = execGetEndpointUuid m s :=
    ⟨rfl, rfl, rfl⟩
  rw [hexec.1, hexec.2.1, hexec.2.2]
  exact ⟨s.mctp_of_endpoint hm rfl, s.mctp_of_endpoint hm rfl, s.mctp_of_endpoint hm rfl⟩

-- PLDM with a root (R523)

variable (hroot : s.flag F.fwRootRootValid = true)
include hroot

theorem State.pldmRequest_of_root {code : Nat} {f : State → State} {t : State} (h : f s = t) : s.pldmRequest m code f = .next t :=
  s.mctp_of_endpoint hm ((if_pos hroot).trans h)

theorem exec_setTid_spec {tid : Nat} (htid : tid < 256) : ∃ t, exec (.setTid m tid) s = .next t ∧ t.mgt = { s.mgt with tid := tid } ∧
    exec (.getTid m) t = .next (t.send (.message m 1 2 [0, BitVec.ofNat 8 tid])) := by
  have hset : exec (.setTid m tid) s = execSetTid m tid s := rfl
  have hask (t : State) : exec (.getTid m) t = execGetTid m t := rfl
  rw [hset]
  refine ⟨_, State.pldmRequest_of_root hm hroot rfl, congrArg (fun n => { s.mgt with tid := n }) (Nat.mod_eq_of_lt htid), ?_⟩
  generalize ht : State.pldm _ m 1 0 = t
  have htid' : t.mgt.tid = tid := by rw [← ht]; exact Nat.mod_eq_of_lt htid
  rw [hask]
  exact State.pldmRequest_of_root hm (by rw [← ht]; exact hroot) (congrArg (fun n => t.send (.message m 1 2 (0 :: leBytes 1 n))) htid')

theorem exec_getPldmVersion_spec : ∃ t, exec (.getPldmVersion m) s = .next t ∧ t.regs = s.regs ∧ t.mgt = s.mgt ∧ t.freeIdx = s.freeIdx + 1 := by
  have hexec : exec (.getPldmVersion m) s = execGetPldmVersion m s := rfl
  rw [hexec]
  exact ⟨_, State.pldmRequest_of_root hm hroot rfl, rfl, rfl, rfl⟩

omit hm hroot in
theorem pldmCommands_bits : (pldmCommands 4).foldl (fun a c => a + 2 ^ c) 0 = 6 ∧ pldmCommands 4 ≠ [] ∧ pldmCommands 3 = [] := by decide

theorem exec_getPldmCommands_spec :
    exec (.getPldmCommands m 4) s = .next (s.send (.message m 1 5 (0 :: leBytes 32 6))) ∧
    exec (.getPldmCommands m 3) s = .next (s.send (.message m 1 5 [0x83])) := by
  obtain ⟨hbits, hne, hnil⟩ := pldmCommands_bits
  have hexec (ty : Nat) : exec (.getPldmCommands m ty) s = execGetPldmCommands m ty s := rfl
  rw [hexec, hexec]
  exact ⟨State.pldmRequest_of_root hm hroot ((if_neg hne).trans (congrArg (fun n => s.send (.message m 1 5 (0 :: leBytes 32 n))) hbits)),
    State.pldmRequest_of_root hm hroot (if_pos hnil)⟩

omit hm hroot in
theorem pdrIds_length : pdrIds.length = 50 := by decide

theorem exec_pdr_spec :
    exec (.getPdrRepositoryInfo m) s = .next (s.send (.message m 1 0x50 (0 :: leBytes 4 50))) ∧
    (∀ id ∈ pdrIds, exec (.getPdr m id) s = .next (s.send (.message m 1 0x51 (0 :: (leBytes 2 id ++ Config.pdrBytes id))))) ∧
    (∀ id, id ∉ pdrIds → exec (.getPdr m id) s = .next (s.send (.message m 1 0x51 [0x82]))) := by
  have hinfo : exec (.getPdrRepositoryInfo m) s = execGetPdrRepositoryInfo m s := rfl
  have hpdr (id : Nat) : exec (.getPdr m id) s = execGetPdr m id s := rfl
  refine ⟨hinfo.trans (State.pldmRequest_of_root hm hroot ?_), fun id hid => (hpdr id).trans (State.pldmRequest_of_root hm hroot (if_pos hid)),
    fun id hid => (hpdr id).trans (State.pldmRequest_of_root hm hroot (if_neg hid))⟩
  exact congrArg (fun n => s.send (.message m 1 0x50 (0 :: leBytes 4 n))) pdrIds_length

theorem exec_getPldmTypes_spec : exec (.getPldmTypes m) s = .next (s.send (.message m 1 4 (0 :: leBytes 8 0x35))) := by
  have hexec : exec (.getPldmTypes m) s = execGetPldmTypes m s := rfl
  rw [hexec]
  exact State.pldmRequest_of_root hm hroot rfl

-- the readings (R525)

theorem exec_getSensorReading_spec (id : Nat) :
    (∀ v, s.sensorReading id = some v → exec (.getSensorReading m id) s = .next (s.send (.message m 1 0x11 (0 :: leBytes 4 (toUnsigned 32 v))))) ∧
    (s.sensorReading id = none → exec (.getSensorReading m id) s = .next (s.send (.message m 1 0x11 [0x80]))) := by
  have hexec : exec (.getSensorReading m id) s = execGetSensorReading m id s := rfl
  rw [hexec]
  refine ⟨fun v hv => State.pldmRequest_of_root hm hroot ?_, fun hn => State.pldmRequest_of_root hm hroot ?_⟩
  · rw [hv]
    rfl
  · rw [hn]
    rfl

theorem exec_getStateSensorReadings_spec {p : Nat} (hp : p < 4) :
    exec (.getStateSensorReadings m (0x82 + p)) s = .next (s.send (.message m 1 0x21 (0 :: leBytes 1 (s.partState p)))) := by
  have hexec : exec (.getStateSensorReadings m (0x82 + p)) s = execGetStateSensorReadings m (0x82 + p) s := rfl
  have hread : s.stateReading (0x82 + p) = some (s.partState p) := by
    unfold State.stateReading
    rw [if_neg (by omega), if_neg (by omega), if_pos ⟨by omega, by omega⟩, Nat.add_sub_cancel_left]
  rw [hexec]
  refine State.pldmRequest_of_root hm hroot ?_
  rw [hread]
  rfl

-- the effecters (R526)

theorem exec_getCap_spec :
    exec (.getNumericEffecterValue m 0x100) s = .next (s.send (.message m 1 0x32 (0 :: leBytes 2 (s.rd F.pwrCapCapW)))) ∧
    exec (.getNumericEffecterValue m 0x101) s = .next (s.send (.message m 1 0x32 (0 :: leBytes 2 (s.rd F.pwrCapWindowMs)))) := by
  have hexec (id : Nat) : exec (.getNumericEffecterValue m id) s = execGetNumericEffecterValue m id s := rfl
  rw [hexec, hexec]
  exact ⟨State.pldmRequest_of_root hm hroot (if_pos rfl), State.pldmRequest_of_root hm hroot ((if_neg (by decide)).trans (if_pos rfl))⟩

theorem exec_setCap_spec (v : Nat) :
    (s.rd F.mgtCfgBmcCap = 0 → exec (.setNumericEffecterValue m 0x100 v) s = .next (s.send (.message m 1 0x31 [5]))) ∧
    (s.rd F.mgtCfgBmcCap = 1 →
      (1800 ≤ v → v ≤ 5400 → ∃ t, exec (.setNumericEffecterValue m 0x100 v) s = .next t ∧ t.rd F.pwrCapCapW = v ∧
        t.rd F.pwrCapWindowMs = s.rd F.pwrCapWindowMs ∧ t.sent = s.sent ++ [.message m 1 0x31 [0]]) ∧
      (v < 1800 ∨ 5400 < v → exec (.setNumericEffecterValue m 0x100 v) s = .next (s.send (.message m 1 0x31 [2]))) ∧
      (1000 ≤ v → v ≤ 10000 → ∃ t, exec (.setNumericEffecterValue m 0x101 v) s = .next t ∧ t.rd F.pwrCapWindowMs = v ∧
        t.rd F.pwrCapCapW = s.rd F.pwrCapCapW)) := by
  have hexec (id : Nat) : exec (.setNumericEffecterValue m id v) s = execSetNumericEffecterValue m id v s := rfl
  rw [hexec, hexec]
  refine ⟨fun hb => State.pldmRequest_of_root hm hroot ((if_neg (by decide)).trans (if_pos hb)), fun hb => ?_⟩
  have hb0 : ¬s.rd F.mgtCfgBmcCap = 0 := by rw [hb]; decide
  refine ⟨fun hlo hhi => ⟨(s.wr F.pwrCapCapW 0 v).pldm m 0x31 0, State.pldmRequest_of_root hm hroot
      ((if_neg (by decide)).trans ((if_neg hb0).trans ((if_pos rfl).trans (if_neg (by omega))))), ?_, ?_, rfl⟩,
    fun hbad => State.pldmRequest_of_root hm hroot ((if_neg (by decide)).trans ((if_neg hb0).trans ((if_pos rfl).trans (if_pos hbad)))),
    fun hlo hhi => ⟨(s.wr F.pwrCapWindowMs 0 v).pldm m 0x31 0, State.pldmRequest_of_root hm hroot
      ((if_neg (by decide)).trans ((if_neg hb0).trans ((if_neg (by decide)).trans (if_neg (by omega))))), ?_, ?_⟩⟩
  · exact (s.rd_wr_first F.pwrCapCapW 0 v (by decide)).trans (Nat.mod_eq_of_lt (Nat.lt_of_le_of_lt hhi (by decide)))
  · exact s.rd_wr_disjoint F.pwrCapCapW F.pwrCapWindowMs 0 v 0 0 rfl (by decide) (by decide)
  · exact (s.rd_wr_first F.pwrCapWindowMs 0 v (by decide)).trans (Nat.mod_eq_of_lt (Nat.lt_of_le_of_lt hhi (by decide)))
  · exact s.rd_wr_disjoint F.pwrCapWindowMs F.pwrCapCapW 0 v 0 0 rfl (by decide) (by decide)

theorem exec_setStateEffecter_spec :
    (∀ st, 3 < st → exec (.setStateEffecterStates m 0x102 st) s = .next (s.send (.message m 1 0x39 [2]))) ∧
    (exec (.setStateEffecterStates m 0x101 0) s = .next (s.send (.message m 1 0x39 [0x80]))) ∧
    (∀ u, s.sideWrite 0 (s.rd F.mgtSideCfgLevel) (s.rd F.mgtSideCfgPart) = (u, true) →
      exec (.setStateEffecterStates m 0x102 0) s = .next (u.send (.message m 1 0x39 [0]))) := by
  have hexec (id st : Nat) : exec (.setStateEffecterStates m id st) s = execSetStateEffecterStates m id st s := rfl
  refine ⟨fun st hst => (hexec _ _).trans (State.pldmRequest_of_root hm hroot ((if_neg (by decide)).trans (if_pos hst))),
    (hexec _ _).trans (State.pldmRequest_of_root hm hroot (if_pos (by decide))),
    fun u hu => (hexec _ _).trans (State.pldmRequest_of_root hm hroot ((if_neg (by decide)).trans ((if_neg (by decide)).trans ?_)))⟩
  rw [hu]
  rfl

-- what it tells of itself (R523)

theorem exec_events_spec :
    (∀ eid, ∃ t, exec (.setEventReceiver m eid) s = .next t ∧ t.mgt = { s.mgt with receiver := some (m, eid) }) ∧
    exec (.getFruRecordTableMetadata m) s = .next (s.send (.message m 1 1 (0 :: leBytes 4 Config.fruBytes.length))) ∧
    exec (.getFruRecordTable m) s = .next (s.send (.message m 1 2 (0 :: Config.fruBytes))) := by
  have hevent (eid : Nat) : exec (.setEventReceiver m eid) s = execSetEventReceiver m eid s := rfl
  have hmeta : exec (.getFruRecordTableMetadata m) s = execGetFruRecordTableMetadata m s := rfl
  have hfru : exec (.getFruRecordTable m) s = execGetFruRecordTable m s := rfl
  exact ⟨fun eid => ⟨_, (hevent eid).trans (State.pldmRequest_of_root hm hroot rfl), rfl⟩,
    hmeta.trans (State.pldmRequest_of_root hm hroot rfl), hfru.trans (State.pldmRequest_of_root hm hroot rfl)⟩

end Endpoint

end Sys2Proof.Machine
end

section
/-! PROOFS. PLDM firmware update, SIDE_SIG and the recovery of a region (R506, R524, R527, R528), and with them O56. -/

namespace Sys2Proof.Machine

open Sys2Proof.Claims

-- firmware update (R524)

theorem State.dropStaging_spec (s : State) : s.dropStaging.mgt = s.mgt ∧ s.dropStaging.flash = s.flash ∧
    ∀ x, s.staging = some x → s.dropStaging.staging = if x.pldm = true then none else some x := by
  unfold State.dropStaging
  cases hst : s.staging with
  | none => exact ⟨rfl, rfl, fun x hx => nomatch hx⟩
  | some g =>
    dsimp only
    split
    case isTrue hp => exact ⟨rfl, rfl, fun x hx => by cases hx; rw [if_pos hp]⟩
    case isFalse hp => exact ⟨rfl, rfl, fun x hx => by cases hx; rw [if_neg hp, hst]⟩

/-- The bits of a mask built of the numbers that a test names. -/
theorem foldl_range_mask (b : Nat → Prop) [DecidablePred b] (n : Nat) :
    (List.range n).foldl (fun a k => if b k then a + 2 ^ k else a) 0 < 2 ^ n ∧
    ∀ k < n, ((List.range n).foldl (fun a k => if b k then a + 2 ^ k else a) 0).testBit k = decide (b k) := by
  induction n with
  | zero => exact ⟨Nat.zero_lt_one, fun k hk => absurd hk (Nat.not_lt_zero k)⟩
  | succ n ih =>
    rw [List.range_succ, List.foldl_append]
    generalize (List.range n).foldl (fun a k => if b k then a + 2 ^ k else a) 0 = a at ih
    obtain ⟨hlt, hbits⟩ := ih
    simp only [List.foldl_cons, List.foldl_nil]
    by_cases hb : b n
    · rw [if_pos hb, Nat.add_comm a, pow_succ]
      refine ⟨by omega, fun k hk => ?_⟩
      obtain hk | rfl := Nat.lt_succ_iff_lt_or_eq.1 hk
      · rw [Nat.testBit_two_pow_add_gt hk, hbits k hk]
      · rw [Nat.testBit_two_pow_add_eq, Nat.testBit_lt_two_pow hlt, decide_eq_true hb]
        rfl
    · rw [if_neg hb, pow_succ]
      refine ⟨by omega, fun k hk => ?_⟩
      obtain hk | rfl := Nat.lt_succ_iff_lt_or_eq.1 hk
      · exact hbits k hk
      · rw [Nat.testBit_lt_two_pow hlt, decide_eq_false hb]

/-- The word of an activation: the partitions, the types, and whether it waits for a reset. -/
def updateWord (parts : Nat) (done : List Nat) : Word := BitVec.ofNat 64
  (parts + (List.range 6).foldl (fun a t => if t ∈ done then a + 2 ^ t else a) 0 * 16 + (if 5 ∈ done then 1024 else 0))

theorem updateWord_spec {parts : Nat} (hp : parts < 16) (done : List Nat) :
    (updateWord parts done).bits 3 0 = parts ∧
    (∀ k < 6, (updateWord parts done).getLsbD (4 + k) = decide (k ∈ done)) ∧
    (updateWord parts done).getLsbD 10 = decide (5 ∈ done) := by
  obtain ⟨hlt, hbits⟩ := foldl_range_mask (fun t => t ∈ done) 6
  unfold updateWord
  generalize (List.range 6).foldl (fun a t => if t ∈ done then a + 2 ^ t else a) 0 = a at hlt hbits ⊢
  have hword : parts + a * 16 + (if 5 ∈ done then 1024 else 0) = 2 ^ 4 * (2 ^ 6 * (if 5 ∈ done then 1 else 0) + a) + parts := by
    split
    · omega
    · omega
  rw [hword]
  generalize hv : 2 ^ 6 * (if 5 ∈ done then 1 else 0) + a = v
  have hv' : v < 2 ^ 7 := by
    rw [← hv]
    split
    · omega
    · omega
  refine ⟨?_, fun k hk => ?_, ?_⟩
  · show ((2 ^ 4 * v + parts) % 2 ^ 64) >>> 0 % 2 ^ 4 = parts
    rw [Nat.shiftRight_zero]
    omega
  · rw [BitVec.getLsbD_ofNat, Nat.testBit_two_pow_mul_add v hp, if_neg (by omega), Nat.add_sub_cancel_left, ← hv,
      Nat.testBit_two_pow_mul_add _ hlt, if_pos hk, hbits k hk]
    simp [show 4 + k < 64 by omega]
  · rw [BitVec.getLsbD_ofNat, Nat.testBit_two_pow_mul_add v hp, if_neg (by decide), ← hv, Nat.testBit_two_pow_mul_add _ hlt,
      if_neg (by decide)]
    split
    case isTrue h => simp [h]
    case isFalse h => simp [h]

theorem partCount_bits (mode : Nat) : 2 ^ partCount mode - 1 < 16 := by
  unfold partCount
  split
  · decide
  · split
    · decide
    · decide

section Update

variable {s : State} {m : Medium} (hm : m ≠ .doe) (hroot : s.flag F.fwRootRootValid = true)
include hm hroot

theorem State.updateCommand_off (hoff : s.rd F.mgtCfgBmcFwu = 0) (code : Nat) (f : State → State) :
    s.updateCommand m code f = .next (s.send (.message m 1 code [5])) :=
  State.pldmRequest_of_root hm hroot (if_pos hoff)

theorem exec_update_off (hoff : s.rd F.mgtCfgBmcFwu = 0) {i : Instr} {k : Nat}
    (h : (i, k) ∈ [(Instr.requestUpdate m, 0x10), (.passComponentTable m [], 0x13), (.activateFirmware m, 0x1A), (.getStatus m, 0x1B),
      (.cancelUpdateComponent m, 0x1C), (.cancelUpdate m, 0x1D), (.updateComponent m 0 [] true true, 0x14)]) :
    exec i s = .next (s.send (.message m 1 k [5])) := by
  have hask : ∃ f, exec i s = s.updateCommand m k f := by
    simp only [List.mem_cons, List.not_mem_nil, or_false, Prod.mk.injEq] at h
    obtain ⟨rfl, rfl⟩ | ⟨rfl, rfl⟩ | ⟨rfl, rfl⟩ | ⟨rfl, rfl⟩ | ⟨rfl, rfl⟩ | ⟨rfl, rfl⟩ | ⟨rfl, rfl⟩ := h
    · exact ⟨_, show execRequestUpdate m s = _ from rfl⟩
    · exact ⟨_, (show execPassComponentTable m [] s = s.inUpdate m 0x13 _ from rfl).trans rfl⟩
    · exact ⟨_, (show execActivateFirmware m s = s.inUpdate m 0x1A _ from rfl).trans rfl⟩
    · exact ⟨_, show execGetStatus m s = _ from rfl⟩
    · exact ⟨_, (show execCancelUpdateComponent m s = s.inUpdate m 0x1C _ from rfl).trans rfl⟩
    · exact ⟨_, (show execCancelUpdate m s = s.inUpdate m 0x1D _ from rfl).trans rfl⟩
    · exact ⟨_, (show execUpdateComponent m 0 [] true true s = s.inUpdate m 0x14 _ from rfl).trans rfl⟩
  obtain ⟨f, hf⟩ := hask
  rw [hf, State.updateCommand_off hm hroot hoff]

variable (hon : s.rd F.mgtCfgBmcFwu = 1)
include hon

theorem State.updateCommand_on {code : Nat} {f : State → State} {t : State} (h : f s = t) : s.updateCommand m code f = .next t :=
  State.pldmRequest_of_root hm hroot ((if_neg (by rw [hon]; decide)).trans h)

theorem State.inUpdate_none (hno : s.mgt.update = none) (code : Nat) (f : PldmUpdate → State → State) :
    s.inUpdate m code f = .next (s.send (.message m 1 code [0x80])) := by
  refine State.updateCommand_on hm hroot hon ?_
  rw [hno]
  rfl

theorem State.inUpdate_some {u : PldmUpdate} (hu : s.mgt.update = some u) {code : Nat} {f : PldmUpdate → State → State} {t : State} (h : f u s = t) :
    s.inUpdate m code f = .next t := by
  refine State.updateCommand_on hm hroot hon ?_
  rw [hu]
  exact h

theorem exec_update_none (hno : s.mgt.update = none) {i : Instr} {k : Nat}
    (h : (i, k) ∈ [(Instr.passComponentTable m [], 0x13), (.activateFirmware m, 0x1A), (.cancelUpdateComponent m, 0x1C), (.cancelUpdate m, 0x1D),
      (.updateComponent m 0 [] true true, 0x14)]) : exec i s = .next (s.send (.message m 1 k [0x80])) := by
  have hask : ∃ f, exec i s = s.inUpdate m k f := by
    simp only [List.mem_cons, List.not_mem_nil, or_false, Prod.mk.injEq] at h
    obtain ⟨rfl, rfl⟩ | ⟨rfl, rfl⟩ | ⟨rfl, rfl⟩ | ⟨rfl, rfl⟩ | ⟨rfl, rfl⟩ := h
    · exact ⟨_, show execPassComponentTable m [] s = _ from rfl⟩
    · exact ⟨_, show execActivateFirmware m s = _ from rfl⟩
    · exact ⟨_, show execCancelUpdateComponent m s = _ from rfl⟩
    · exact ⟨_, show execCancelUpdate m s = _ from rfl⟩
    · exact ⟨_, show execUpdateComponent m 0 [] true true s = _ from rfl⟩
  obtain ⟨f, hf⟩ := hask
  rw [hf, State.inUpdate_none hm hroot hon hno]

theorem exec_getStatus_spec : exec (.getStatus m) s = .next (s.send (.message m 1 0x1B (0 :: (leBytes 1 (s.rd F.fwuStatusState) ++
    leBytes 1 (s.rd F.fwuStatusResult))))) := by
  have hexec : exec (.getStatus m) s = execGetStatus m s := rfl
  rw [hexec]
  exact State.updateCommand_on hm hroot hon rfl

theorem exec_requestUpdate_spec :
    (s.rd F.fwuStatusState = 0 ∨ s.rd F.fwuStatusState = 2 → ∃ t, exec (.requestUpdate m) s = .next t ∧
      t.mgt.update = some { medium := m } ∧ t.rd F.fwuStatusState = 1 ∧ t.sent = s.sent ++ [.message m 1 0x10 [0]]) ∧
    (s.rd F.fwuStatusState = 1 → exec (.requestUpdate m) s = .next (s.send (.message m 1 0x10 [0x81]))) := by
  have hexec : exec (.requestUpdate m) s = execRequestUpdate m s := rfl
  rw [hexec]
  refine ⟨fun hst => ⟨_, State.updateCommand_on hm hroot hon (if_pos hst), rfl, ?_, rfl⟩,
    fun hst => State.updateCommand_on hm hroot hon (if_neg ?_)⟩
  · exact State.rd_wr_first (s.setUpdate (some { medium := m })) F.fwuStatusState 0 1 (by decide)
  · rw [hst]
    decide

-- an update in progress

section InProgress

variable {u : PldmUpdate} (hu : s.mgt.update = some u)
include hu

theorem exec_passComponentTable_spec (l : List Nat) :
    ((∀ t ∈ l, t ≤ 5) → ∃ t, exec (.passComponentTable m l) s = .next t ∧ t.mgt.update = some { u with table := l } ∧
      t.sent = s.sent ++ [.message m 1 0x13 [0]]) ∧
    ((∃ t ∈ l, 5 < t) → exec (.passComponentTable m l) s = .next (s.send (.message m 1 0x13 [2]))) := by
  have hexec : exec (.passComponentTable m l) s = execPassComponentTable m l s := rfl
  rw [hexec]
  refine ⟨fun hl => ⟨_, State.inUpdate_some hm hroot hon hu (if_pos ?_), rfl, rfl⟩,
    fun hl => State.inUpdate_some hm hroot hon hu (if_neg ?_)⟩
  · exact List.all_eq_true.2 fun t ht => decide_eq_true (hl t ht)
  · intro hall
    obtain ⟨t, ht, hlt⟩ := hl
    exact absurd (of_decide_eq_true (List.all_eq_true.1 hall t ht)) (Nat.not_le.mpr hlt)

theorem exec_updateComponent_spec {ty : Nat} (image : List Byte) (d g : Bool) (hty : ty ∈ u.table) (hcur : u.current = none) {i : Option ImageInfo}
    (hi : i = parseImage (fun o n => leNat ((image.drop o).take n)) ty image.length) :
    (∀ e, s.stageCheck i d g = .error e → ∃ t, exec (.updateComponent m ty image d g) s = .next t ∧ t.staging = s.staging ∧
      t.rd F.fwuStatusResult = e % 256 ∧ t.mgt = s.mgt) ∧
    (∀ j, s.stageCheck i d g = .ok j → ∃ t x, exec (.updateComponent m ty image d g) s = .next t ∧ t.staging = some x ∧
      x.image = j ∧ x.doneAt = s.now + 25 * image.length ∧ x.pldm = true ∧ t.mgt.update = some { u with current := some ty }) := by
  subst hi
  have hexec : exec (.updateComponent m ty image d g) s = execUpdateComponent m ty image d g s := rfl
  generalize hv : ((s.pldm m 0x14 0).send (.message m 1 0x15 (leBytes 1 ty))).send (.message m 1 0x16 [0]) = v
  have hcheck (i : Option ImageInfo) : v.stageCheck i d g = s.stageCheck i d g := by rw [← hv]; rfl
  have hgo : ¬(ty ∉ u.table ∨ u.current ≠ none) := fun h => h.elim (fun h => h hty) fun h => h hcur
  have hrest : v.staging = s.staging ∧ v.mgt = s.mgt ∧ v.now = s.now := by rw [← hv]; exact ⟨rfl, rfl, rfl⟩
  rw [hexec]
  refine ⟨fun e he => ?_, fun j hj => ?_⟩
  · refine ⟨(v.wr F.fwuStatusResult 0 e).send (.message m 1 0x17 (leBytes 1 e)), State.inUpdate_some hm hroot hon hu ((if_neg hgo).trans ?_),
      hrest.1, v.rd_wr_first F.fwuStatusResult 0 e (by decide), hrest.2.1⟩
    dsimp only
    rw [hv, hcheck, he]
  · refine ⟨((v.send (.message m 1 0x17 [0])).setUpdate (some { u with current := some ty })).beginStaging j image.length true, _,
      State.inUpdate_some hm hroot hon hu ((if_neg hgo).trans ?_), rfl, rfl, congrArg (· + 25 * image.length) hrest.2.2, rfl, rfl⟩
    dsimp only
    rw [hv, hcheck, hj]

theorem exec_activateFirmware_busy (hcur : u.current ≠ none) : exec (.activateFirmware m) s = .next (s.send (.message m 1 0x1A [2])) := by
  have hexec : exec (.activateFirmware m) s = execActivateFirmware m s := rfl
  rw [hexec]
  exact State.inUpdate_some hm hroot hon hu (if_pos hcur)

theorem exec_activateFirmware_spec (hcur : u.current = none) :
    ∃ (t : State) (w : Word), exec (.activateFirmware m) s = .next ((t.activateRequest w true).send (.message m 1 0x1A [0])) ∧
      t.mgt.update = none ∧ w.bits 3 0 = 2 ^ partCount s.mode - 1 ∧
      (∀ k < 6, w.getLsbD (4 + k) = decide (k ∈ u.done)) ∧ w.getLsbD 10 = decide (5 ∈ u.done) := by
  have hexec : exec (.activateFirmware m) s = execActivateFirmware m s := rfl
  rw [hexec]
  exact ⟨(s.setUpdate none).wr F.fwuStatusState 0 (s.setUpdate none).fwuRest, updateWord (2 ^ partCount s.mode - 1) u.done,
    State.inUpdate_some hm hroot hon hu (if_neg (not_not.2 hcur)), rfl, updateWord_spec (partCount_bits s.mode) u.done⟩

theorem exec_cancel_spec :
    (∃ t, exec (.cancelUpdateComponent m) s = .next t ∧ t.mgt.update = some { u with current := none } ∧
      ∀ x, s.staging = some x → t.staging = if x.pldm = true then none else some x) ∧
    (∃ t, exec (.cancelUpdate m) s = .next t ∧ t.mgt.update = none ∧
      t.rd F.fwuStatusState = (if s.flash.staged = [] then 0 else 2)) := by
  have hcomp : exec (.cancelUpdateComponent m) s = execCancelUpdateComponent m s := rfl
  have hall : exec (.cancelUpdate m) s = execCancelUpdate m s := rfl
  refine ⟨⟨_, hcomp.trans (State.inUpdate_some hm hroot hon hu rfl), ?_, ?_⟩, ⟨_, hall.trans (State.inUpdate_some hm hroot hon hu rfl), ?_, ?_⟩⟩
  · exact congrArg MgtSt.update (s.setUpdate (some { u with current := none })).dropStaging_spec.1
  · exact (s.setUpdate (some { u with current := none })).dropStaging_spec.2.2
  · exact congrArg MgtSt.update (s.setUpdate none).dropStaging_spec.1
  · generalize hv : (s.setUpdate none).dropStaging = v
    have hflash : v.flash = s.flash := by rw [← hv, (State.dropStaging_spec _).2.1]; rfl
    refine (v.rd_wr_first F.fwuStatusState 0 v.fwuRest (by decide)).trans ?_
    unfold State.fwuRest
    rw [hflash]
    split
    · rfl
    · rfl

end InProgress

end Update

-- SIDE_SIG (R527, R528)

theorem isReg_mgtSide : IsReg .mgtSideCfg 0 ∧ IsReg .mgtSideStatus 0 := ⟨isReg_of_lt (by decide), isReg_of_lt (by decide)⟩

/-- The level of the signal is kept in a register of its own. -/
theorem State.rd_refreshSide (s : State) {f : Fld} (hf : f.reg = .mgtSideCfg ∨ f.reg = .mgtSideStatus ∧ 1 ≤ f.lo) : s.refreshSide.rd f = s.rd f := by
  obtain hf | ⟨hf, hlo⟩ := hf
  · exact s.rd_wr_of_reg_ne (f := F.mgtSideStatusLevelNow) _ 0 0 isReg_mgtSide.2 (show IsReg f.reg 0 by rw [hf]; exact isReg_mgtSide.1)
      (by rw [hf]; decide)
  · refine s.rd_wr_disjoint F.mgtSideStatusLevelNow f 0 _ 0 0 hf (by decide) (.inl ?_)
    rw [Nat.zero_mul, Nat.zero_mul]
    exact hlo

theorem State.rd_changeSide (s : State) {f : Fld} (hf : f.reg = .mgtSideCfg) (hlo : 2 ≤ f.lo) (func : Nat) : (s.changeSide func).rd f = s.rd f := by
  have hreg : IsReg f.reg 0 := by rw [hf]; exact isReg_mgtSide.1
  unfold State.changeSide
  split
  · rfl
  · dsimp only
    refine (State.rd_wr_disjoint _ F.mgtSideCfgFunc f 0 _ 0 0 hf (by decide) (.inl ?_)).trans ?_
    · rw [Nat.zero_mul, Nat.zero_mul]
      exact hlo
    · refine (State.rd_wr_of_reg_ne _ (f := F.mgtSideStatusQueued) _ 0 0 isReg_mgtSide.2 hreg (by rw [hf]; decide)).trans ?_
      exact State.rd_wr_of_reg_ne _ (f := F.mgtSideStatusMissed) _ 0 0 isReg_mgtSide.2 hreg (by rw [hf]; decide)

theorem State.rd_changeSide_func (s : State) {func : Nat} (h : func < 4) : (s.changeSide func).rd F.mgtSideCfgFunc = func := by
  unfold State.changeSide
  split
  case isTrue he => exact he
  case isFalse => exact (State.rd_wr_first _ F.mgtSideCfgFunc 0 func (by decide)).trans (Nat.mod_eq_of_lt h)

/-- SIDE_SIG after a write that takes effect. -/
def State.sideApplied (s : State) (func level part r : Nat) : State :=
  ((((s.changeSide func).wr F.mgtSideCfgLevel 0 level).wr F.mgtSideCfgPart 0 part).wr F.mgtSideCfgResult 0 r).refreshSide

theorem State.sideApplied_spec (s : State) {func level part r : Nat} (hf : func < 4) (hl : level < 2) (hp : part < 4) (hr : r < 4) :
    (s.sideApplied func level part r).rd F.mgtSideCfgFunc = func ∧ (s.sideApplied func level part r).rd F.mgtSideCfgLevel = level ∧
    (s.sideApplied func level part r).rd F.mgtSideCfgPart = part ∧ (s.sideApplied func level part r).rd F.mgtSideCfgResult = r := by
  have hfunc := s.rd_changeSide_func hf
  unfold State.sideApplied
  generalize s.changeSide func = u at hfunc
  refine ⟨?_, ?_, ?_, ?_⟩
  · refine (State.rd_refreshSide _ (f := F.mgtSideCfgFunc) (.inl rfl)).trans ?_
    refine (State.rd_wr_disjoint _ F.mgtSideCfgResult F.mgtSideCfgFunc 0 r 0 0 rfl (by decide) (by decide)).trans ?_
    refine (State.rd_wr_disjoint _ F.mgtSideCfgPart F.mgtSideCfgFunc 0 part 0 0 rfl (by decide) (by decide)).trans ?_
    exact (u.rd_wr_disjoint F.mgtSideCfgLevel F.mgtSideCfgFunc 0 level 0 0 rfl (by decide) (by decide)).trans hfunc
  · refine (State.rd_refreshSide _ (f := F.mgtSideCfgLevel) (.inl rfl)).trans ?_
    refine (State.rd_wr_disjoint _ F.mgtSideCfgResult F.mgtSideCfgLevel 0 r 0 0 rfl (by decide) (by decide)).trans ?_
    refine (State.rd_wr_disjoint _ F.mgtSideCfgPart F.mgtSideCfgLevel 0 part 0 0 rfl (by decide) (by decide)).trans ?_
    exact (u.rd_wr_first F.mgtSideCfgLevel 0 level (by decide)).trans (Nat.mod_eq_of_lt hl)
  · refine (State.rd_refreshSide _ (f := F.mgtSideCfgPart) (.inl rfl)).trans ?_
    refine (State.rd_wr_disjoint _ F.mgtSideCfgResult F.mgtSideCfgPart 0 r 0 0 rfl (by decide) (by decide)).trans ?_
    exact (State.rd_wr_first _ F.mgtSideCfgPart 0 part (by decide)).trans (Nat.mod_eq_of_lt hp)
  · refine (State.rd_refreshSide _ (f := F.mgtSideCfgResult) (.inl rfl)).trans ?_
    exact (State.rd_wr_first _ F.mgtSideCfgResult 0 r (by decide)).trans (Nat.mod_eq_of_lt hr)

/-- What a write of the function does, by the function in force and the one asked. -/
theorem State.sideWrite_cases (s : State) (func level part : Nat) :
    (func = 2 → partCount s.mode ≤ part → s.sideWrite func level part = (s.accessError, false)) ∧
    (func = 3 ∨ func = 2 ∧ part < partCount s.mode → s.rd F.mgtSideCfgFunc = 1 →
      s.sideWrite func level part = (s.wr F.mgtSideCfgResult 0 1, false)) ∧
    (func = 1 → s.sideWrite func level part =
      (s.sideApplied func level part (if s.rd F.mgtSideCfgFunc = 2 ∨ s.rd F.mgtSideCfgFunc = 3 then 2 else 0), true)) ∧
    (func = 0 ∨ func = 3 ∧ s.rd F.mgtSideCfgFunc ≠ 1 → s.sideWrite func level part = (s.sideApplied func level part 0, true)) := by
  unfold State.sideWrite
  dsimp only
  refine ⟨fun h2 hp => if_pos ⟨h2, hp⟩, fun h hold => ?_, fun h1 => ?_, fun h => ?_⟩
  · have hno : ¬(func = 2 ∧ partCount s.mode ≤ part) := fun hc => h.elim (fun h => absurd (h.symm.trans hc.1) (by decide)) fun h =>
      absurd h.2 (Nat.not_lt.mpr hc.2)
    rw [if_neg hno, if_neg (by omega), if_neg (by omega), if_pos hold]
  · rw [if_neg (by omega), if_pos h1]
    rfl
  · rw [if_neg (by omega), if_neg (by omega)]
    obtain h0 | ⟨h3, hold⟩ := h
    · rw [if_pos h0]
      rfl
    · rw [if_neg (by omega), if_neg hold]
      rfl

theorem exec_sideCfgWrite_spec {s : State} {a : Access} {q : RegWriteReq} {f : Nat} (hw : Writes s a .mgtSideCfg q)
    (hc : q.covers F.mgtSideCfgFunc = true) (hf : f = q.new F.mgtSideCfgFunc) :
    (f = 2 → partCount s.mode ≤ q.new F.mgtSideCfgPart → exec (.sideCfgWrite a) s = .next s.accessError) ∧
    (f = 3 ∨ f = 2 ∧ q.new F.mgtSideCfgPart < partCount s.mode → s.rd F.mgtSideCfgFunc = 1 →
      ∃ t, exec (.sideCfgWrite a) s = .next t ∧ t.rd F.mgtSideCfgResult = 1 ∧ t.rd F.mgtSideCfgFunc = 1) ∧
    (f ≤ 1 ∨ f = 3 ∧ s.rd F.mgtSideCfgFunc ≠ 1 → ∃ t, exec (.sideCfgWrite a) s = .next t ∧ t.rd F.mgtSideCfgFunc = f ∧
      t.rd F.mgtSideCfgLevel = q.new F.mgtSideCfgLevel ∧ t.rd F.mgtSideCfgPart = q.new F.mgtSideCfgPart ∧
      t.rd F.mgtSideCfgResult = (if f = 1 ∧ 2 ≤ s.rd F.mgtSideCfgFunc then 2 else 0)) := by
  have hexec : exec (.sideCfgWrite a) s = .next (s.sideWrite f (q.new F.mgtSideCfgLevel) (q.new F.mgtSideCfgPart)).1 := by
    refine (show exec (.sideCfgWrite a) s = s.onWrite a [.mgtSideCfg] s.writeSide from rfl).trans
      ((State.onWrite_of_writes _ hw (List.mem_singleton_self _)).trans (congrArg Host.Outcome.next ?_))
    rw [hf]
    exact if_pos hc
  have hf4 : f < 4 := hf ▸ Word.bits_lt _ 1 0
  have hlevel : q.new F.mgtSideCfgLevel < 2 := Word.bits_lt _ 2 2
  have hpart : q.new F.mgtSideCfgPart < 4 := Word.bits_lt _ 5 4
  have hold : s.rd F.mgtSideCfgFunc < 4 := Word.bits_lt _ 1 0
  obtain ⟨herr, hrefuse, hone, hzero⟩ := s.sideWrite_cases f (q.new F.mgtSideCfgLevel) (q.new F.mgtSideCfgPart)
  rw [hexec]
  refine ⟨fun h2 hp => by rw [herr h2 hp], fun h ho => ⟨_, rfl, ?_, ?_⟩, fun h => ?_⟩
  · rw [hrefuse h ho]
    exact s.rd_wr_first F.mgtSideCfgResult 0 1 (by decide)
  · rw [hrefuse h ho]
    exact (s.rd_wr_disjoint F.mgtSideCfgResult F.mgtSideCfgFunc 0 1 0 0 rfl (by decide) (by decide)).trans ho
  · by_cases h1 : f = 1
    · rw [hone h1]
      have hiff : (s.rd F.mgtSideCfgFunc = 2 ∨ s.rd F.mgtSideCfgFunc = 3) ↔ (f = 1 ∧ 2 ≤ s.rd F.mgtSideCfgFunc) := by omega
      rw [if_congr hiff rfl rfl]
      refine ⟨_, rfl, s.sideApplied_spec hf4 hlevel hpart ?_⟩
      split
      · decide
      · decide
    · rw [hzero (by omega), if_neg fun h => h1 h.1]
      exact ⟨_, rfl, s.sideApplied_spec hf4 hlevel hpart (by decide)⟩

theorem State.markPulse_spec {s : State} {p : Nat} (hf : s.rd F.mgtSideCfgFunc = 2) (hp : s.rd F.mgtSideCfgPart = p) :
    (s.mgt.pulseEnd = none → s.mgt.gapEnd = none → (s.markPulse p).mgt.pulseEnd = some (s.now + 1000)) ∧
    (s.mgt.pulseEnd ≠ none → s.rd F.mgtSideStatusQueued < 16 →
      (s.markPulse p).rd F.mgtSideStatusQueued = s.rd F.mgtSideStatusQueued + 1) ∧
    (s.mgt.pulseEnd ≠ none → 16 ≤ s.rd F.mgtSideStatusQueued →
      (s.markPulse p).rd F.mgtSideStatusMissed = min (s.rd F.mgtSideStatusMissed + 1) 0xFFFF) := by
  unfold State.markPulse
  rw [if_pos ⟨hf, hp⟩]
  have hbusy (h : s.mgt.pulseEnd ≠ none) : ¬(s.mgt.pulseEnd.isNone && s.mgt.gapEnd.isNone) = true := by
    rw [Bool.and_eq_true]
    exact fun hc => h (Option.isNone_iff_eq_none.1 hc.1)
  refine ⟨fun hpulse hgap => ?_, fun hpulse hq => ?_, fun hpulse hq => ?_⟩
  · rw [hpulse, hgap]
    rfl
  · rw [if_neg (hbusy hpulse), if_pos hq]
    refine (s.rd_bump F.mgtSideStatusQueued 0 1 (by decide)).trans (Nat.mod_eq_of_lt ?_)
    show s.rd F.mgtSideStatusQueued + 1 < 2 ^ 5
    omega
  · rw [if_neg (hbusy hpulse), if_neg (Nat.not_lt.mpr hq)]
    exact s.rd_bumpSat F.mgtSideStatusMissed 0 1 (by decide)

theorem exec_sidePulseEnd_spec (s : State) :
    (∀ t, s.mgt.pulseEnd = some t → t ≤ s.now → ∃ u, exec .sidePulseEnd s = .next u ∧ u.mgt.pulseEnd = none ∧
      u.mgt.gapEnd = some (t + 1000)) ∧
    (∀ t, s.mgt.pulseEnd = none → s.mgt.gapEnd = some t → t ≤ s.now →
      (s.rd F.mgtSideStatusQueued = 0 → exec .sidePulseEnd s = .next { s with mgt := { s.mgt with gapEnd := none } }) ∧
      (0 < s.rd F.mgtSideStatusQueued → ∃ u, exec .sidePulseEnd s = .next u ∧ u.mgt.pulseEnd = some (s.now + 1000) ∧
        u.rd F.mgtSideStatusQueued = s.rd F.mgtSideStatusQueued - 1)) := by
  have hexec : exec .sidePulseEnd s = execSidePulseEnd s := rfl
  rw [hexec]
  unfold execSidePulseEnd
  dsimp only
  refine ⟨fun t ht hdue => ?_, fun t hno ht hdue => ?_⟩
  · rw [ht]
    exact ⟨_, if_pos hdue, rfl, rfl⟩
  · rw [hno, ht]
    dsimp only
    rw [if_pos hdue]
    refine ⟨fun hq => if_neg (show ¬0 < s.rd F.mgtSideStatusQueued by omega), fun hq => ⟨_, if_pos hq, rfl, ?_⟩⟩
    unfold State.startPulse
    refine (State.rd_refreshSide _ (f := F.mgtSideStatusQueued) (.inr ⟨rfl, by decide⟩)).trans ?_
    have hlt : s.rd F.mgtSideStatusQueued < 2 ^ 5 := Word.bits_lt _ 5 1
    exact (s.rd_wr_first F.mgtSideStatusQueued 0 _ (by decide)).trans (Nat.mod_eq_of_lt (show s.rd F.mgtSideStatusQueued - 1 < 2 ^ 5 by omega))

-- recovery (R506)

theorem exec_recoveryImage_spec {s : State} {r : Nat} {image : List Byte} {i : ImageInfo} (hr : r < 4) (hboot : s.rd F.secStatusBoot 0 r = 3)
    (hnone : (s.fwCores.getD (3 * r) {}).recovery = none) (hwaits : s.fwWaits = [])
    (hi : parseImage (fun o n => leNat ((image.drop o).take n)) 0 image.length = some i) :
    (s.slotsGood i = true → s.flash.minSvn.getD 0 0 ≤ i.svn → ∃ t : State, exec (.recoveryImage r image true true) s = .next t ∧
      t.flash.images = s.flash.images ∧ (t.fwCores.getD (3 * r) {}).recovery = some i) ∧
    (i.svn < s.flash.minSvn.getD 0 0 → exec (.recoveryImage r image true true) s = .next s) := by
  have hexec : exec (.recoveryImage r image true true) s = execRecoveryImage r image true true s := rfl
  rw [hexec]
  unfold execRecoveryImage
  dsimp only
  rw [if_pos ⟨hr, hboot, hnone⟩, hi]
  dsimp only
  refine ⟨fun hgood hsvn => ?_, fun hold => if_neg ?_⟩
  · rw [if_pos (by simp [hgood, hsvn])]
    generalize hu : ({ s with fwCores := s.fwCores.set (3 * r) { s.fwCores.getD (3 * r) {} with recovery := some i } } : State) = u
    have hfl : u.flash = s.flash := by rw [← hu]
    have hw : u.fwWaits = s.fwWaits := by rw [← hu]
    have hcore : (u.fwCores.getD (3 * r) {}).recovery = some i := by
      rw [← hu]
      exact congrArg FwCore.recovery (NMap.getD_set_self _ _ _ _)
    obtain ⟨hflash, hwait, hcores⟩ := u.fwRun_frame (3 * r)
    refine ⟨_, rfl, ?_⟩
    rw [State.serveWaits_of_nil (hwait.trans (hw.trans hwaits)), hflash, hcores, hfl, NMap.getD_set_self]
    exact ⟨rfl, hcore⟩
  · simp [Nat.not_le.mpr hold]

/-- Settles O56: MCTP answers on both media; a PLDM request is answered through its root, an update through BMC_FWU and the update in
progress; SIDE_SIG by the function in force. -/
theorem managementCommands : Obligations.ManagementCommands := by
  unfold Obligations.ManagementCommands
  intro s m hm
  obtain ⟨hver, htypes, huuid⟩ := exec_control_spec (s := s) hm
  refine ⟨fun eid heid => exec_setEndpointId_spec hm heid, hver, htypes, huuid, fun d => congrArg Host.Outcome.next (if_pos rfl),
    fun d hd => congrArg Host.Outcome.next (if_pos (by rw [hd]; rfl)), fun hroot i k h => exec_notReady hm hroot h, fun hroot => ?_,
    fun a q f hw hc hf => exec_sideCfgWrite_spec hw hc hf, fun p hf hp => State.markPulse_spec hf hp, (exec_sidePulseEnd_spec s).1,
    (exec_sidePulseEnd_spec s).2, fun r image i hr hboot hnone hwaits hi => exec_recoveryImage_spec hr hboot hnone hwaits hi⟩
  obtain ⟨hcmds, hbad⟩ := exec_getPldmCommands_spec hm hroot
  obtain ⟨hinfo, hpdr, hno⟩ := exec_pdr_spec hm hroot
  obtain ⟨hcap, hwindow⟩ := exec_getCap_spec hm hroot
  obtain ⟨hevent, hmeta, hfru⟩ := exec_events_spec hm hroot
  obtain ⟨hstate, hlevel, hside⟩ := exec_setStateEffecter_spec hm hroot
  refine ⟨fun tid htid => exec_setTid_spec hm hroot htid, exec_getPldmVersion_spec hm hroot, exec_getPldmTypes_spec hm hroot, hcmds, hbad, hinfo,
    hpdr, hno, fun id v hv => (exec_getSensorReading_spec hm hroot id).1 v hv, (exec_getSensorReading_spec hm hroot 0x50).2 rfl,
    fun p hp => exec_getStateSensorReadings_spec hm hroot hp, hcap, hwindow, fun v => (exec_setCap_spec hm hroot v).1,
    fun v => (exec_setCap_spec hm hroot v).2, hevent, hmeta, hfru, fun hoff i k h => exec_update_off hm hroot hoff h, fun hon => ?_, hstate,
    hlevel, hside⟩
  obtain ⟨hreq, hagain⟩ := exec_requestUpdate_spec hm hroot hon
  refine ⟨exec_getStatus_spec hm hroot hon, hreq, hagain, fun hno i k h => exec_update_none hm hroot hon hno h, fun u hu =>
    ⟨fun l => (exec_passComponentTable_spec hm hroot hon hu l).1, fun l => (exec_passComponentTable_spec hm hroot hon hu l).2,
      fun ty image d g hty hcur => exec_updateComponent_spec hm hroot hon hu image d g hty hcur rfl,
      exec_activateFirmware_busy hm hroot hon hu, exec_activateFirmware_spec hm hroot hon hu, exec_cancel_spec hm hroot hon hu⟩⟩

end Sys2Proof.Machine
end

section
/-! PROOFS. What a boot leaves: memory, the work and the module, and the registers of the device block that it does not write (R476,
R503 to R507, R540 to R548). -/

namespace Sys2Proof.Machine

open Sys2Proof.Claims

-- the registers of the device block

/-- The registers of the device block that a boot reads: the mode, the boot's progress and the partitions' states. -/
def devRegs : List Reg := [.devPartCfg, .devBootStatus, .devPartStatus]

theorem isReg_devRegs : ∀ r ∈ devRegs, IsReg r 0 := by
  intro r hr
  simp only [devRegs, List.mem_cons, List.not_mem_nil, or_false] at hr
  obtain rfl | rfl | rfl := hr
  all_goals exact isReg_of_lt (by decide)

/-- Every other block lies past the device block. -/
theorem Block.base_ge {b : Block} (h : b ≠ .dev) (i : Nat) : 0x10000 ≤ b.base i := by
  cases b
  case dev => exact absurd rfl h
  all_goals
    dsimp only [Block.base, clusterBase, canvasBase, regionBase]
    omega

/-- A register of another block is none of the device block. -/
theorem Reg.addr_ne_dev {r : Reg} (h : r.place.block ≠ .dev) (n : Nat) : ∀ r' ∈ devRegs, r.addr n ≠ r'.addr 0 := by
  intro r' hr'
  have hge : 0x10000 ≤ r.addr n := by
    have hbase := Block.base_ge h (n / r.place.count)
    unfold Reg.addr
    dsimp only
    omega
  have hlt : r'.addr 0 < 0x10000 := by
    simp only [devRegs, List.mem_cons, List.not_mem_nil, or_false] at hr'
    obtain rfl | rfl | rfl := hr'
    all_goals decide
  omega

-- the frame of a boot

/-- The state but for the registers, firmware and its images, keys, power and the record of events. -/
def State.besidesBoot (s : State) : State :=
  { s with regs := [], sec := {}, session := {}, normalRun := 0, freeIdx := 0, sent := [], events := [], fwCores := [], pwrRegions := [],
           flash := {}, staging := none, activation := none, fwWaits := [], stackSts := [], channels := [] }

theorem State.besidesBoot_of_besidesRoot {s t : State} (h : t.besidesRoot = s.besidesRoot) : t.besidesBoot = s.besidesBoot :=
  (congrArg State.besidesBoot h : _)

/-- What a step of a boot leaves: memory and the work, and the registers of the device block but for some. -/
structure BootFrame (rs : List Reg) (s t : State) : Prop where
  rest : t.besidesBoot = s.besidesBoot
  regs : ∀ r ∈ devRegs, r ∉ rs → t.reg r 0 = s.reg r 0

namespace BootFrame

variable {rs : List Reg} {s t u : State}

theorem refl (s : State) : BootFrame rs s s := ⟨rfl, fun _ _ _ => rfl⟩

theorem trans (h : BootFrame rs s t) (h' : BootFrame rs t u) : BootFrame rs s u :=
  ⟨h'.rest.trans h.rest, fun r hr hn => (h'.regs r hr hn).trans (h.regs r hr hn)⟩

theorem mono {rs' : List Reg} (h : BootFrame rs s t) (hsub : rs ⊆ rs') : BootFrame rs' s t :=
  ⟨h.rest, fun r hr hn => h.regs r hr fun hm => hn (hsub hm)⟩

theorem of_regs_eq (hr : t.regs = s.regs) (h : t.besidesBoot = s.besidesBoot) : BootFrame rs s t :=
  ⟨h, fun r _ _ => by unfold State.reg; rw [hr]⟩

theorem setReg (s : State) {r : Reg} {n : Nat} (w : Word) (h : ∀ r' ∈ devRegs, r' ∉ rs → r.addr n ≠ r'.addr 0) : BootFrame rs s (s.setReg r n w) :=
  ⟨rfl, fun r' hr' hn => s.reg_setReg_of_addr_ne w (h r' hr' hn)⟩

theorem wr (s : State) (f : Fld) (n v k : Nat) (h : f.reg.place.block ≠ .dev) : BootFrame rs s (s.wr f n v k) :=
  setReg s _ fun r hr _ => Reg.addr_ne_dev h n r hr

theorem then_wr (f : Fld) (hf : f.reg.place.block ≠ .dev) {n v k : Nat} (h : BootFrame rs s u) : BootFrame rs s (u.wr f n v k) :=
  h.trans (wr u f n v k hf)

/-- A write of a register of the device block itself. -/
theorem wr_dev (s : State) (f : Fld) (v k : Nat) (h : ∀ r ∈ devRegs, r ∉ rs → f.reg.addr 0 ≠ r.addr 0) : BootFrame rs s (s.wr f 0 v k) :=
  setReg s _ h

theorem ite {p : Prop} [Decidable p] (ht : BootFrame rs s t) (hu : BootFrame rs s u) : BootFrame rs s (if p then t else u) := by
  split
  · exact ht
  · exact hu

theorem foldl {α : Type} {f : State → α → State} (hf : ∀ s x, BootFrame rs s (f s x)) (l : List α) : ∀ s, BootFrame rs s (l.foldl f s) := by
  induction l with
  | nil => exact refl
  | cons x l ih => exact fun s => (hf s x).trans (ih (f s x))

theorem enqueueEvent (s : State) (r : Nat) (e : EvRec) : BootFrame rs s (s.enqueueEvent r e) := by
  unfold State.enqueueEvent
  dsimp only
  split
  · exact of_regs_eq rfl rfl
  · exact wr _ F.regFwEventsLostCount _ _ _ (by decide)

theorem hwEvent (s : State) (r code unit ctx loc detail flags : Nat) : BootFrame rs s (s.hwEvent r code unit ctx loc detail flags) :=
  enqueueEvent s _ _

theorem sensorEvent (s : State) (sensor before after : Nat) : BootFrame rs s (s.sensorEvent sensor before after) := by
  unfold State.sensorEvent
  split
  · exact refl s
  · split
    · exact of_regs_eq rfl rfl
    · exact refl s

theorem setPartState (s : State) (p v : Nat) : BootFrame [.devPartStatus] s (s.setPartState p v) :=
  (wr_dev s F.devPartStatusState v p (by decide)).trans (sensorEvent ..)

-- the root (R461, R477)

theorem of_besidesRoot {t : State} (hr : t.regs = s.regs) (h : t.besidesRoot = s.besidesRoot) : BootFrame rs s t :=
  of_regs_eq hr (State.besidesBoot_of_besidesRoot h)

theorem resumePart (s : State) (p : Nat) : BootFrame [.devPartStatus] s (s.resumePart p) := by
  unfold State.resumePart
  exact ite (setPartState s p 2) (refl s)

theorem holdRestarts (s : State) : BootFrame [.devPartStatus] s s.holdRestarts := by
  unfold State.holdRestarts
  dsimp only
  refine ite ?_ (refl s)
  refine then_wr F.fwuStatusState (by decide) ?_
  refine then_wr F.fwuStatusNormalMs (by decide) ?_
  refine trans (t := if s.rd F.fwuStatusState = 4 then _ else s) ?_ (of_regs_eq rfl rfl)
  exact ite (resumePart ..) (refl s)

theorem serveKeys (s : State) : BootFrame rs s s.serveKeys := by
  unfold State.serveKeys
  refine ite ?_ (refl s)
  refine trans (t := { s with sec := { s.sec with keyWaits := [] } }) (of_regs_eq rfl rfl) (foldl (fun t c => ?_) _ _)
  unfold State.installKey
  exact then_wr F.ctxMemCryptKeyReady (by decide) (of_regs_eq rfl rfl)

theorem rootServes (s : State) : BootFrame rs s s.rootServes := by
  unfold State.rootServes
  dsimp only
  refine ite ?_ (serveKeys s)
  refine (serveKeys s).trans ?_
  unfold State.issueToken
  exact then_wr F.hifSessionState (by decide) (of_regs_eq rfl rfl)

theorem refreshRoot (s : State) : BootFrame [.devPartStatus] s s.refreshRoot := by
  unfold State.refreshRoot
  dsimp only
  refine trans (wr s F.fwRootHealthy 0 s.healthMask 0 (by decide)) ?_
  generalize s.wr F.fwRootHealthy 0 s.healthMask = u
  generalize s.healthMask = m
  refine ite (refl u) ?_
  have hover : BootFrame [.devPartStatus] u (if u.flag F.fwRootRootValid then u.holdRestarts else u) := ite (holdRestarts u) (refl u)
  generalize (if u.flag F.fwRootRootValid then u.holdRestarts else u) = v at hover ⊢
  have hend : BootFrame [.devPartStatus] u (if u.flag F.fwRootRootValid then
      { v with sec := { v.sec with electionEnd := some (v.now + 10000000) } } else v) := ite (hover.trans (of_regs_eq rfl rfl)) hover
  refine hend.trans ?_
  generalize (if u.flag F.fwRootRootValid then
      { v with sec := { v.sec with electionEnd := some (v.now + 10000000) } } else v) = w
  split
  · refine trans ?_ (rootServes _)
    refine then_wr F.fwRootElections (by decide) ?_
    exact then_wr F.fwRootRootValid (by decide) (then_wr F.fwRootRootRegion (by decide) (refl _))
  · exact wr w F.fwRootRootValid 0 0 0 (by decide)

-- firmware (R462 to R478)

theorem refreshPwr (s : State) (r : Nat) : BootFrame rs s (s.refreshPwr r) := by
  unfold State.refreshPwr
  dsimp only
  refine then_wr F.regPwrStatusCoreUp (by decide) ?_
  refine then_wr F.regPwrStatusPowerEmerg (by decide) ?_
  refine then_wr F.regPwrStatusVddMv (by decide) ?_
  exact then_wr F.regPwrStatusSource (by decide) (then_wr F.regPwrStatusHaze (by decide) (refl _))

theorem fwFields_block (fw : Nat) : (fwFields fw).1.reg.place.block ≠ .dev := by
  unfold fwFields
  split
  · split
    all_goals exact fun h => Block.noConfusion h
  · exact fun h => Block.noConfusion h

theorem setFwState (s : State) (fw v : Nat) : BootFrame [.devPartStatus] s (s.setFwState fw v) := by
  unfold State.setFwState
  have hb := fwFields_block fw
  generalize fwFields fw = x at hb ⊢
  obtain ⟨f, g, n⟩ := x
  dsimp only at hb ⊢
  refine trans (wr s f n v 0 hb) ?_
  generalize s.wr f n v = u
  unfold State.fwFollow
  split
  · exact refreshRoot _
  · exact refreshPwr _ _
  · exact refl _
  · exact wr _ F.cluCccStatusDispatchPaused _ _ _ (by decide)

theorem fwRun (s : State) (fw : Nat) : BootFrame [.devPartStatus] s (s.fwRun fw) := by
  unfold State.fwRun
  dsimp only
  refine trans ?_ (setFwState _ fw 0)
  exact ite (of_regs_eq rfl rfl) (of_regs_eq rfl rfl)

theorem stageRequest (s : State) (word : Word) (d g : Bool) : BootFrame rs s (s.stageRequest word d g) := by
  unfold State.stageRequest
  dsimp only
  split
  · exact wr s F.fwuStatusResult _ _ _ (by decide)
  · unfold State.beginStaging
    exact then_wr F.fwuStatusState (by decide) (of_regs_eq rfl rfl)

theorem endActivation (s : State) (state result : Nat) : BootFrame rs s (s.endActivation state result) := by
  unfold State.endActivation
  dsimp only
  refine then_wr F.fwuStatusTypes (by decide) ?_
  refine then_wr F.fwuStatusPartNow (by decide) ?_
  refine then_wr F.fwuStatusResult (by decide) ?_
  exact then_wr F.fwuStatusState (by decide) (of_regs_eq rfl rfl)

theorem activateRequest (s : State) (word : Word) (pldm : Bool) : BootFrame rs s (s.activateRequest word pldm) := by
  unfold State.activateRequest
  dsimp only
  split
  · exact wr s F.fwuStatusResult _ _ _ (by decide)
  · refine ite ?_ ?_
    · exact then_wr F.fwuStatusState (by decide) (of_regs_eq rfl rfl)
    · split
      · exact endActivation s _ _
      · refine then_wr F.fwuStatusTypes (by decide) ?_
        refine then_wr F.fwuStatusPartNow (by decide) ?_
        exact then_wr F.fwuStatusState (by decide) (of_regs_eq rfl rfl)

theorem fwuRequest (s : State) (stage : Bool) (word : Word) (d g : Bool) : BootFrame rs s (s.fwuRequest stage word d g) := by
  unfold State.fwuRequest
  refine ite ?_ (ite (of_regs_eq rfl rfl) (ite (stageRequest ..) (activateRequest ..)))
  exact trans (wr s F.fwuStatusResult _ _ _ (by decide)) (hwEvent ..)

theorem serveWaits (s : State) : BootFrame rs s s.serveWaits := by
  unfold State.serveWaits
  refine ite ?_ (refl s)
  exact trans (t := { s with fwWaits := [] }) (of_regs_eq rfl rfl) (foldl (fun t w => fwuRequest ..) _ _)

theorem settleRoot (s : State) : BootFrame [.devPartStatus] s s.settleRoot :=
  ((refreshRoot s).trans (rootServes _)).trans (serveWaits _)

theorem refreshSide (s : State) : BootFrame rs s s.refreshSide := wr s F.mgtSideStatusLevelNow _ _ _ (by decide)

theorem bootCore (s : State) (t : SelfTest) (fw : Nat) : BootFrame [.devPartStatus] s (s.bootCore t fw) := by
  unfold State.bootCore
  exact ite (setFwState ..) (fwRun ..)

theorem recordBoot (s : State) (t : SelfTest) (r ty bank : Nat) : BootFrame rs s (s.recordBoot t r ty bank) := by
  unfold State.recordBoot
  dsimp only
  exact then_wr F.regFwStatusBanks (by decide) (of_regs_eq rfl rfl)

theorem bootRegion (s : State) (t : SelfTest) (r : Nat) : BootFrame [.devPartStatus] s (s.bootRegion t r) := by
  unfold State.bootRegion
  dsimp only
  refine trans (wr s F.secStatusRecordMacFail 0 (if r ∈ t.badMac then 1 else 0) r (by decide)) ?_
  generalize s.wr F.secStatusRecordMacFail 0 (if r ∈ t.badMac then 1 else 0) r = u
  split
  · exact wr u F.secStatusBoot _ _ _ (by decide)
  · have hcore (b fb) : BootFrame [.devPartStatus] u (((u.wr F.secStatusBoot 0 fb r).recordBoot t r 0 b).bootCore t (3 * r)) :=
      ((wr u F.secStatusBoot _ _ _ (by decide)).trans (recordBoot ..)).trans (bootCore ..)
    refine ite (hcore _ _) ((hcore _ _).trans (foldl (fun v ty => ?_) _ _))
    split
    · exact (recordBoot ..).trans (foldl (fun w f => bootCore w t f) _ _)
    · exact foldl (fun w f => setFwState w f 2) _ _

theorem recordBank (s : State) (p ty : Nat) : BootFrame rs s (s.recordBank p ty) := by
  unfold State.recordBank
  split
  · exact refl s
  · dsimp only
    have hbanks (x : Nat) : BootFrame rs s ((partRegions s.mode p).foldl (fun u r =>
        ({ u with flash := { u.flash with banks := u.flash.banks.set r (if x = 1 then u.rd F.regFwStatusBanks r ||| 2 ^ ty else
          u.rd F.regFwStatusBanks r &&& (2 ^ 6 - 1 - 2 ^ ty)) } } : State).wr F.regFwStatusBanks r
            (if x = 1 then u.rd F.regFwStatusBanks r ||| 2 ^ ty else u.rd F.regFwStatusBanks r &&& (2 ^ 6 - 1 - 2 ^ ty))) s) := by
      refine foldl (fun u r => ?_) _ _
      exact then_wr F.regFwStatusBanks (by decide) (of_regs_eq rfl rfl)
    refine (hbanks _).trans (ite ?_ (of_regs_eq rfl rfl))
    exact then_wr F.secKeyFusesMldsaRevoked (by decide) (then_wr F.secKeyFusesEcdsaRevoked (by decide) (of_regs_eq rfl rfl))

theorem bootArmed (s : State) (t : SelfTest) (p : Nat) : BootFrame rs s (s.bootArmed t p) := by
  unfold State.bootArmed
  dsimp only
  refine ite (refl s) ?_
  have hmine (l : List (Nat × Nat)) : BootFrame rs s (l.foldl (fun (u : State) e =>
      match u.flash.staged.get? e.2 with
      | some b => if (partRegions u.mode p).all (fun r => u.bankGood t r e.2 b) then u.recordBank p e.2 else u
      | none => u) s) := by
    refine foldl (fun u e => ?_) l s
    split
    · exact ite (recordBank ..) (refl u)
    · exact refl u
  refine (hmine _).trans (ite ?_ (of_regs_eq rfl rfl))
  exact then_wr F.fwuStatusState (by decide) (of_regs_eq rfl rfl)

theorem refreshPorts (s : State) (b : Nat) : BootFrame rs s (s.refreshPorts b) := by
  unfold State.refreshPorts
  dsimp only
  exact then_wr F.portStatusUpB (by decide) (then_wr F.portStatusUpA (by decide) (refl s))

/-- The boot of one partition. -/
theorem bootPart (s : State) (t : SelfTest) (p : Nat) : BootFrame [.devPartStatus] s (s.bootPart t p) := by
  unfold State.bootPart
  dsimp only
  refine trans ?_ (foldl (fun u b => refreshPorts u b) _ _)
  refine trans ?_ (setPartState ..)
  refine trans ?_ (foldl (fun u r => ?_) _ _)
  · refine then_wr F.qpCfgContext (by decide) (then_wr F.ctxPtCtlRing (by decide) (then_wr F.ctxStateState (by decide) ?_))
    refine trans ?_ (foldl (fun u e => ?_) _ _)
    · refine trans ((setPartState s p 1).trans (bootArmed _ t p)) (foldl (fun u r => ?_) _ _)
      refine trans ?_ (refreshPwr _ r)
      exact trans (t := u.setPwr r { u.pwr r with railOn := true }) (of_regs_eq rfl rfl) (bootRegion _ t r)
    · exact ite (hwEvent ..) (refl u)
  · refine trans ?_ (foldl (fun v k => wr v F.regApcCtxContext _ _ _ (by decide)) _ _)
    exact wr u F.regCohStatusDeadAgents _ _ _ (by decide)

-- what a reset takes from flash

theorem loadRegion (s : State) (r : Nat) : BootFrame rs s (s.loadRegion r) := by
  unfold State.loadRegion
  dsimp only
  refine trans ?_ (foldl (fun t b => ?_) _ _)
  · refine trans ?_ (setReg _ _ fun r' hr' _ => Reg.addr_ne_dev (by decide) _ r' hr')
    exact wr s F.regFwStatusBanks _ _ _ (by decide)
  · refine then_wr F.portMacMac (by decide) (then_wr F.portMacMac (by decide) (then_wr F.portStatusLanesRetired (by decide) ?_))
    exact then_wr F.portStatusSplitInForce (by decide) (wr t F.portCfgSplit _ _ _ (by decide))

theorem clearReg (s : State) {r : Reg} (n : Nat) (h : r.place.block ≠ .dev) : BootFrame rs s (s.clearReg r n) :=
  setReg s _ fun r' hr' _ => Reg.addr_ne_dev h n r' hr'

theorem resetFwu (s : State) : BootFrame rs s s.resetFwu := by
  unfold State.resetFwu
  dsimp only
  have hclear (u : State) : BootFrame rs u ([Reg.fwuStageAddr, .fwuStageCtl, .fwuActivate, .fwuStatus].foldl (fun (u : State) r => u.clearReg r 0) u) := by
    simp only [List.foldl_cons, List.foldl_nil]
    exact (((clearReg u 0 (by decide)).trans (clearReg _ 0 (by decide))).trans (clearReg _ 0 (by decide))).trans (clearReg _ 0 (by decide))
  refine trans (t := { s with activation := none, staging := none, fwWaits := [], normalRun := 0 }) (of_regs_eq rfl rfl) ?_
  generalize ({ s with activation := none, staging := none, fwWaits := [], normalRun := 0 } : State) = u
  refine ite ?_ ?_
  · exact then_wr F.fwuStatusResult (by decide) (then_wr F.fwuStatusState (by decide) (hclear u))
  · exact then_wr F.fwuStatusState (by decide) (hclear u)

-- the self-test, where no region has an event ring in memory (R543)

theorem bondFails (s : State) (canvas bad : Nat) : BootFrame rs s (s.bondFails canvas bad) := by
  unfold State.bondFails
  dsimp only
  split
  all_goals exact then_wr _ (by decide) (wr s _ _ _ _ (by decide))

theorem seamFields_dev : ∀ f ∈ seamFields, f.reg = .devSeamStatus := by
  intro f hf
  simp only [seamFields, List.mem_cons, List.not_mem_nil, or_false] at hf
  obtain rfl | rfl | rfl | rfl := hf
  all_goals rfl

theorem seamFails (s : State) (seam : Nat) : BootFrame rs s (s.seamFails seam) := by
  unfold State.seamFails
  split
  · next f hf =>
    refine ite (refl s) (trans (wr_dev s f 2 0 ?_) (hwEvent ..))
    have hne : ∀ r ∈ devRegs, Reg.addr .devSeamStatus 0 ≠ r.addr 0 := by decide
    rw [seamFields_dev f (List.mem_of_getElem? hf)]
    exact fun r hr _ => hne r hr
  · exact refl s

theorem stackDown (s : State) (k : Nat) : BootFrame rs s (s.stackDown k) := by
  unfold State.stackDown
  dsimp only
  refine ite (refl s) (trans ?_ (foldl (fun t i => ?_) _ _))
  · refine trans ?_ (hwEvent ..)
    exact then_wr F.stkStatusLevel (by decide) (of_regs_eq rfl rfl)
  · split
    · exact refl t
    · refine trans ?_ (foldl (fun u w => hwEvent ..) _ _)
      exact of_regs_eq rfl rfl

end BootFrame

end Sys2Proof.Machine
end

section
/-! PROOFS. The self-test and the numbering of the cores: what they leave, where no region has an event ring in memory (R16, R41, R494,
R543). -/

namespace Sys2Proof.Machine

open Sys2Proof.Claims

/-- What the self-test of a region leaves: the boot's frame, and which regions have an event ring. -/
structure TestFrame (s t : State) : Prop where
  boot : BootFrame [] s t
  rings : ∀ r < 4, t.evtRing r = s.evtRing r

namespace TestFrame

variable {s t u : State}

theorem refl (s : State) : TestFrame s s := ⟨.refl s, fun _ _ => rfl⟩

theorem trans (h : TestFrame s t) (h' : TestFrame t u) : TestFrame s u :=
  ⟨h.boot.trans h'.boot, fun r hr => (h'.rings r hr).trans (h.rings r hr)⟩

theorem of_regs_eq (hr : t.regs = s.regs) (h : t.besidesBoot = s.besidesBoot) : TestFrame s t :=
  ⟨.of_regs_eq hr h, fun r _ => by unfold State.evtRing State.flag State.rd State.reg; rw [hr]⟩

theorem of_boot (h : BootFrame [] s t) (hr : ∀ r < 4, t.reg .regEvtBase r = s.reg .regEvtBase r) : TestFrame s t :=
  ⟨h, fun r hlt => congrArg (fun w : Word => decide (w.bits 0 0 = 1)) (hr r hlt)⟩

theorem wr_of_boot (s : State) {f : Fld} {n v k : Nat} (h : BootFrame [] s (s.wr f n v k)) (hn : IsReg f.reg n) (hf : f.reg ≠ .regEvtBase) :
    TestFrame s (s.wr f n v k) :=
  of_boot h fun _ hlt => s.reg_setReg_ne _ hn (isReg_of_lt hlt) fun he => hf (congrArg Prod.fst he)

theorem wr (s : State) (f : Fld) {n : Nat} (v k : Nat) (hn : IsReg f.reg n) (hd : f.reg.place.block ≠ .dev) (hf : f.reg ≠ .regEvtBase) :
    TestFrame s (s.wr f n v k) := wr_of_boot s (BootFrame.wr s f n v k hd) hn hf

theorem wr_ident (s : State) (v : Nat) : TestFrame s (s.wr F.devIdentCoresEnabled 0 v) :=
  wr_of_boot s (BootFrame.wr_dev s F.devIdentCoresEnabled v 0 (by decide)) (isReg_of_lt (by decide)) (by decide)

theorem ite {p : Prop} [Decidable p] (ht : TestFrame s t) (hu : TestFrame s u) : TestFrame s (if p then t else u) := by
  split
  · exact ht
  · exact hu

/-- The interrupt of a record changes the record of events and what is sent. -/
theorem recordIrq (s : State) (r : Nat) (action : Bool) : TestFrame s (s.recordIrq r action) := by
  unfold State.recordIrq
  dsimp only
  refine ite (ite ?_ (of_regs_eq rfl rfl)) (refl s)
  obtain ⟨l, hl⟩ := State.raiseIrq_only_sent { s with events := s.events.set r { s.events.getD r {} with lastIrq := some s.now } }
    (s.rd F.regEvtCtlVector r) (s.rd F.regEvtCtlTarget r) (s.rd F.regEvtCtlHart r) (s.rd F.regEvtCtlIid r) (s.rd F.regEvtCtlEnable r)
  refine of_regs_eq ?_ ?_
  · exact (congrArg State.regs hl : _)
  · exact (congrArg State.besidesBoot hl : _)

/-- An event that is not counted, of a region without a ring. -/
theorem logDirect (s : State) {r code : Nat} (unit ctx loc detail flags : Nat) (hr : r < 4) (hcode : code < 0xC000)
    (hnone : CountKind.ofCode code = none) (hring : s.evtRing r = false) : TestFrame s (s.logDirect r code unit ctx loc detail flags) := by
  unfold State.logDirect
  dsimp only
  rw [if_neg (Nat.not_le.mpr hcode), State.logRecord_of_noRing hnone hring]
  refine trans ?_ (recordIrq ..)
  refine trans ?_ (wr _ F.regEvtWriteWriteCount _ _ (isReg_of_lt hr) (by decide) (by decide))
  refine trans (t := if _ then s.bumpSat F.regEvtStatusOverwritten r else s) ?_ (of_regs_eq rfl rfl)
  exact ite (wr _ F.regEvtStatusOverwritten _ _ (isReg_of_lt hr) (by decide) (by decide)) (refl s)

theorem slotFails (s : State) (cold : Bool) {k : Nat} (slot : Nat) (hring : s.evtRing (regionOfCluster k) = false) :
    TestFrame s (s.slotFails cold k slot) := by
  unfold State.slotFails
  dsimp only
  by_cases h : 144 ≤ k ∨ 9 ≤ slot ∨
      (s.rd F.cluSlotMapPhysFused k ||| s.rd F.cluSlotMapPhysRetired k ||| s.flash.retired.getD k 0).testBit slot = true
  · rw [if_pos h]
    exact refl s
  · rw [if_neg h]
    have hk : k < 144 := by omega
    have hr : regionOfCluster k < 4 := by unfold regionOfCluster; omega
    have hras : TestFrame s (({ s with flash := { s.flash with retired := s.flash.retired.set k (s.flash.retired.getD k 0 ||| 2 ^ slot) } } :
        State).bumpSat F.rasRepairStatusCoresRetired 0) := by
      refine trans ?_ (wr _ F.rasRepairStatusCoresRetired (n := 0) _ 0 (isReg_of_lt (by decide)) (by decide) (by decide))
      exact of_regs_eq rfl rfl
    generalize State.bumpSat _ F.rasRepairStatusCoresRetired 0 = u at hras ⊢
    refine hras.trans ?_
    have hmap : IsReg .cluSlotMap k := isReg_of_lt hk
    have hslot (v : State) : TestFrame v (match (List.range 8).find? (fun n => decide (v.rd F.cluSlotMapLog k n = slot)) with
        | some n => ((v.wr F.cluSlotMapLog k 0xF n).wr F.cluIdentCoresEnabled k ((v.wr F.cluSlotMapLog k 0xF n).rd F.cluIdentCoresEnabled k - 1)).wr
          F.devIdentCoresEnabled 0 (((v.wr F.cluSlotMapLog k 0xF n).wr F.cluIdentCoresEnabled k
            ((v.wr F.cluSlotMapLog k 0xF n).rd F.cluIdentCoresEnabled k - 1)).rd F.devIdentCoresEnabled - 1)
        | none => v) := by
      split
      · exact ((wr v F.cluSlotMapLog _ _ hmap (by decide) (by decide)).trans (wr _ F.cluIdentCoresEnabled _ _ (isReg_of_lt hk) (by decide)
          (by decide))).trans (wr_ident ..)
      · exact refl v
    have hur : u.evtRing (regionOfCluster k) = false := (hras.rings _ hr).trans hring
    cases cold with
    | true => exact logDirect u _ _ _ _ _ hr (by decide) (by decide) hur
    | false =>
      rw [if_neg Bool.false_ne_true]
      have hw := wr u F.cluSlotMapPhysRetired (u.rd F.cluSlotMapPhysRetired k ||| 2 ^ slot) 0 hmap (by decide) (by decide)
      have hmap := hw.trans (hslot _)
      exact hmap.trans (logDirect _ _ _ _ _ _ hr (by decide) (by decide) ((hmap.rings _ hr).trans hur))

/-- The slots that a self-test finds bad, of regions without a ring. -/
theorem badSlots (cold : Bool) {rs : List Nat} (hrs : ∀ r ∈ rs, r < 4) (l : List (Nat × Nat)) :
    ∀ s : State, (∀ r ∈ rs, s.evtRing r = false) →
      TestFrame s (l.foldl (fun (u : State) b => if regionOfCluster b.1 ∈ rs then u.slotFails cold b.1 b.2 else u) s) := by
  induction l with
  | nil => exact fun s _ => refl s
  | cons b l ih =>
    intro s hring
    have hstep : TestFrame s (if regionOfCluster b.1 ∈ rs then s.slotFails cold b.1 b.2 else s) := by
      split
      case isTrue h => exact slotFails s cold b.2 (hring _ h)
      case isFalse => exact refl s
    exact hstep.trans (ih _ fun r hr => (hstep.rings r (hrs r hr)).trans (hring r hr))

end TestFrame

namespace BootFrame

/-- The self-test of regions without an event ring. -/
theorem selfTest {s : State} (t : SelfTest) (cold : Bool) {rs : List Nat} (hrs : ∀ r ∈ rs, r < 4) (hring : ∀ r ∈ rs, s.evtRing r = false) :
    BootFrame [] s (s.selfTest t cold rs) := by
  unfold State.selfTest
  dsimp only
  refine (TestFrame.badSlots cold hrs t.badSlots s hring).boot.trans ?_
  generalize t.badSlots.foldl _ s = u
  have hbonds : BootFrame [] u ((List.range 12).foldl (fun (u : State) c =>
      if c / 3 ∈ rs then (match t.badBonds.get? c with
        | some n => u.bondFails c n
        | none => u) else u) u) := by
    refine foldl (fun v c => ite ?_ (refl v)) _ u
    split
    · exact bondFails ..
    · exact refl v
  refine hbonds.trans ?_
  have hseams (v : State) : BootFrame [] v (t.badSeams.foldl (fun (u : State) m =>
      match seamEnds[m]? with
      | some (a, b) => if a ∈ rs ∨ b ∈ rs then u.seamFails m else u
      | none => u) v) := by
    refine foldl (fun v m => ?_) _ v
    split
    · exact ite (seamFails ..) (refl v)
    · exact refl v
  refine (hseams _).trans (ite (foldl (fun v k => ite (stackDown ..) (refl v)) _ _) (refl _))

theorem numberCluster (s : State) (k : Nat) : BootFrame [] s (s.numberCluster k) := by
  unfold State.numberCluster
  dsimp only
  exact then_wr F.cluIdentCoresEnabled (by decide) (foldl (fun t n => wr t F.cluSlotMapLog _ _ _ (by decide)) _ _)

theorem numberCores (s : State) : BootFrame [] s s.numberCores := by
  unfold State.numberCores
  dsimp only
  have hident (u : State) (v : Nat) : BootFrame [] u (u.wr F.devIdentCoresEnabled 0 v) := wr_dev u F.devIdentCoresEnabled v 0 (by decide)
  refine trans ?_ (hident _ _)
  have hretired (u : State) (l : NMap Nat) : BootFrame [] u (l.foldl (fun (t : State) e => t.wr F.cluSlotMapPhysRetired e.1 e.2) u) := by
    refine foldl (fun t e => ?_) l u
    exact wr t F.cluSlotMapPhysRetired e.1 e.2 0 (by decide)
  refine (hretired s s.flash.retired).trans ?_
  refine foldl (fun t k => ?_) _ _
  exact ite (refl t) (numberCluster t k)

theorem loadRepair (s : State) : BootFrame [] s s.loadRepair := by
  unfold State.loadRepair
  dsimp only
  refine then_wr F.rasRepairStatusLanesRetired (by decide) (then_wr F.rasRepairStatusCoresRetired (by decide) ?_)
  exact then_wr F.rasRepairStatusRowsUnspared (by decide) (wr s F.rasRepairStatusRowsSpared _ _ _ (by decide))

end BootFrame

end Sys2Proof.Machine
end

section
/-! PROOFS. What the parts of a reset leave: the partitions' states, the event rings, memory, and the registers it keeps (R37, R38,
R352, R427, R496, R520). -/

namespace Sys2Proof.Machine

open Sys2Proof.Claims

-- the registers of the device block

/-- A boot leaves memory, the work and the module's pins. -/
theorem State.of_besidesBoot {s t : State} (h : t.besidesBoot = s.besidesBoot) :
    t.mem = s.mem ∧ t.poison = s.poison ∧ t.scrambled = s.scrambled ∧ t.queues = s.queues ∧ t.tasks = s.tasks ∧ t.modSt = s.modSt :=
  ⟨(congrArg State.mem h : _), (congrArg State.poison h : _), (congrArg State.scrambled h : _), (congrArg State.queues h : _),
    (congrArg State.tasks h : _), (congrArg State.modSt h : _)⟩

namespace BootFrame

variable {rs : List Reg} {s t : State}

theorem rd (h : BootFrame rs s t) (f : Fld) (hf : f.reg ∈ devRegs) (hn : f.reg ∉ rs) (k : Nat) : t.rd f 0 k = s.rd f 0 k :=
  congrArg (fun w : Word => w.bits (f.hi + k * f.step) (f.lo + k * f.step)) (h.regs f.reg hf hn)

theorem mode (h : BootFrame rs s t) (hn : .devPartCfg ∉ rs) : t.mode = s.mode := h.rd F.devPartCfgMode (by decide) hn 0

theorem partState (h : BootFrame rs s t) (hn : .devPartStatus ∉ rs) (p : Nat) : t.partState p = s.partState p :=
  h.rd F.devPartStatusState (by decide) hn p

theorem readByte (h : BootFrame rs s t) (x : Nat) : t.readByte x = s.readByte x := by
  unfold State.readByte State.memDefault
  obtain ⟨hmem, -, hscrambled, -⟩ := State.of_besidesBoot h.rest
  rw [hmem, hscrambled]

end BootFrame

-- the partitions' states

theorem State.partState_sensorEvent (s : State) (sensor a b q : Nat) : (s.sensorEvent sensor a b).partState q = s.partState q :=
  (BootFrame.sensorEvent (rs := []) s sensor a b).partState List.not_mem_nil q

theorem State.partState_setPartState_self {p v : Nat} (s : State) (hp : p < 8) (hv : v < 16) : (s.setPartState p v).partState p = v := by
  unfold State.setPartState
  rw [State.partState_sensorEvent]
  have hb : F.devPartStatusState.hi + p * F.devPartStatusState.step < 64 := by
    show 3 + p * 8 < 64
    omega
  refine (s.rd_wr F.devPartStatusState 0 v p hb).trans ?_
  have hw : F.devPartStatusState.hi + p * F.devPartStatusState.step + 1 - (F.devPartStatusState.lo + p * F.devPartStatusState.step) = 4 := by
    show 3 + p * 8 + 1 - (0 + p * 8) = 4
    omega
  rw [hw]
  exact Nat.mod_eq_of_lt hv

theorem State.partState_setPartState_ne {p q : Nat} (s : State) (v : Nat) (hp : p < 8) (h : q ≠ p) :
    (s.setPartState p v).partState q = s.partState q := by
  unfold State.setPartState
  rw [State.partState_sensorEvent]
  refine s.rd_wr_disjoint F.devPartStatusState F.devPartStatusState 0 v p q rfl ?_ ?_
  · show 3 + p * 8 < 64
    omega
  · show 3 + p * 8 < 0 + q * 8 ∨ 3 + q * 8 < 0 + p * 8
    omega

/-- A partition past the end of the status register has none. -/
theorem State.partState_of_ge {p : Nat} (s : State) (hp : 8 ≤ p) : s.partState p = 0 := by
  show ((s.reg .devPartStatus 0).toNat >>> (0 + p * 8)) % _ = 0
  rw [Nat.shiftRight_eq_zero _ _ (Nat.lt_of_lt_of_le (BitVec.isLt _) (Nat.pow_le_pow_right (by decide) (by omega)))]
  exact Nat.zero_mod _

/-- No partition's state changes, but one that quiesces may run again. -/
def PartKept (s t : State) : Prop := ∀ p < 4, t.partState p = s.partState p ∨ (s.partState p = 5 ∧ t.partState p = 2)

namespace PartKept

variable {s t u : State}

theorem refl (s : State) : PartKept s s := fun _ _ => .inl rfl

theorem trans (h : PartKept s t) (h' : PartKept t u) : PartKept s u := by
  intro p hp
  obtain hst | ⟨h5, h2⟩ := h p hp
  · exact hst ▸ h' p hp
  · obtain htu | ⟨htu, -⟩ := h' p hp
    · exact .inr ⟨h5, htu.trans h2⟩
    · omega

theorem of_boot (h : BootFrame [] s t) : PartKept s t := fun p _ => .inl (h.partState List.not_mem_nil p)

theorem ite {c : Prop} [Decidable c] (ht : PartKept s t) (hu : PartKept s u) : PartKept s (if c then t else u) := by
  split
  · exact ht
  · exact hu

theorem resumePart (s : State) (p : Nat) : PartKept s (s.resumePart p) := by
  unfold State.resumePart
  split
  case isTrue h =>
    have hp : p < 8 := Nat.lt_of_not_le fun hge => absurd ((s.partState_of_ge hge).symm.trans h) (by decide)
    intro q _
    by_cases he : q = p
    · subst he
      exact .inr ⟨h, s.partState_setPartState_self hp (by decide)⟩
    · exact .inl (s.partState_setPartState_ne 2 hp he)
  case isFalse => exact refl s

theorem holdRestarts (s : State) : PartKept s s.holdRestarts := by
  unfold State.holdRestarts
  dsimp only
  generalize (s.activation.bind (fun a => a.parts.head?)).getD 0 = p
  have hres : PartKept s (if s.rd F.fwuStatusState = 4 then s.resumePart p else s) := ite (resumePart s p) (refl s)
  generalize (if s.rd F.fwuStatusState = 4 then s.resumePart p else s) = u at hres ⊢
  refine ite (hres.trans (of_boot ?_)) (refl s)
  refine BootFrame.then_wr F.fwuStatusState (by decide) ?_
  exact BootFrame.then_wr F.fwuStatusNormalMs (by decide) (.of_regs_eq rfl rfl)

theorem refreshRoot (s : State) : PartKept s s.refreshRoot := by
  unfold State.refreshRoot
  dsimp only
  refine trans (of_boot (BootFrame.wr s F.fwRootHealthy 0 s.healthMask 0 (by decide))) ?_
  generalize s.wr F.fwRootHealthy 0 s.healthMask = u
  generalize s.healthMask = m
  refine ite (refl u) ?_
  have hover : PartKept u (if u.flag F.fwRootRootValid then u.holdRestarts else u) := ite (holdRestarts u) (refl u)
  generalize (if u.flag F.fwRootRootValid then u.holdRestarts else u) = v at hover ⊢
  refine hover.trans (of_boot ?_)
  refine .trans (t := if u.flag F.fwRootRootValid then
      { v with sec := { v.sec with electionEnd := some (v.now + 10000000) } } else v) (.ite (.of_regs_eq rfl rfl) (.refl v)) ?_
  generalize (if u.flag F.fwRootRootValid then
      { v with sec := { v.sec with electionEnd := some (v.now + 10000000) } } else v) = w
  split
  · refine BootFrame.trans ?_ (BootFrame.rootServes _)
    refine BootFrame.then_wr F.fwRootElections (by decide) ?_
    exact BootFrame.then_wr F.fwRootRootValid (by decide) (BootFrame.then_wr F.fwRootRootRegion (by decide) (.refl _))
  · exact BootFrame.wr w F.fwRootRootValid 0 0 0 (by decide)

theorem settleRoot (s : State) : PartKept s s.settleRoot :=
  ((refreshRoot s).trans (of_boot (BootFrame.rootServes _))).trans (of_boot (BootFrame.serveWaits _))

end PartKept

/-- A partition that boots runs or has stopped on error (R497, R543). -/
theorem State.partState_bootPart {p : Nat} (s : State) (t : SelfTest) (hp : p < 4) :
    (s.bootPart t p).partState p = 2 ∨ (s.bootPart t p).partState p = 4 := by
  unfold State.bootPart
  dsimp only
  rw [(BootFrame.foldl (rs := []) (fun u b => BootFrame.refreshPorts u b) _ _).partState List.not_mem_nil,
    State.partState_setPartState_self _ (by omega) (by split <;> decide)]
  split
  · exact .inl rfl
  · exact .inr rfl

-- the event rings of the regions

/-- No region's event ring changes. -/
def RingFrame (s t : State) : Prop := ∀ r < 4, t.evtRing r = s.evtRing r

namespace RingFrame

variable {s t u : State}

theorem refl (s : State) : RingFrame s s := fun _ _ => rfl

theorem trans (h : RingFrame s t) (h' : RingFrame t u) : RingFrame s u := fun r hr => (h' r hr).trans (h r hr)

theorem of_regs_eq (h : t.regs = s.regs) : RingFrame s t := fun r _ => by
  unfold State.evtRing State.flag State.rd State.reg
  rw [h]

theorem setReg (s : State) {r : Reg} {n : Nat} (w : Word) (hn : IsReg r n) (hr : r ≠ .regEvtBase) : RingFrame s (s.setReg r n w) :=
  fun k hk => congrArg (fun w : Word => decide (w.bits 0 0 = 1)) (s.reg_setReg_ne w hn (isReg_of_lt (r := .regEvtBase) (n := k) hk)
    fun he => hr (congrArg Prod.fst he))

theorem wr (s : State) (f : Fld) {n : Nat} (v k : Nat) (hn : IsReg f.reg n) (hf : f.reg ≠ .regEvtBase) : RingFrame s (s.wr f n v k) :=
  setReg s _ hn hf

theorem then_wr (f : Fld) (hf : f.reg ≠ .regEvtBase) {n v k : Nat} (hn : IsReg f.reg n) (h : RingFrame s u) : RingFrame s (u.wr f n v k) :=
  h.trans (wr u f v k hn hf)

/-- The same of a register that stands once. -/
theorem then_wr_dev (f : Fld) (hf : f.reg ≠ .regEvtBase) (hn : IsReg f.reg 0) {v k : Nat} (h : RingFrame s u) : RingFrame s (u.wr f 0 v k) :=
  then_wr f hf hn h

theorem ite {c : Prop} [Decidable c] (ht : RingFrame s t) (hu : RingFrame s u) : RingFrame s (if c then t else u) := by
  split
  · exact ht
  · exact hu

theorem foldl {α : Type} {f : State → α → State} (l : List α) (hf : ∀ s, ∀ x ∈ l, RingFrame s (f s x)) (s : State) : RingFrame s (l.foldl f s) := by
  induction l generalizing s with
  | nil => exact refl s
  | cons x l ih => exact (hf s x List.mem_cons_self).trans (ih (fun s y hy => hf s y (List.mem_cons_of_mem x hy)) (f s x))

theorem setPartState (s : State) (p v : Nat) : RingFrame s (s.setPartState p v) := by
  refine trans (wr s F.devPartStatusState (n := 0) v p (isReg_of_lt (by decide)) (by decide)) ?_
  unfold State.setPartState State.sensorEvent
  refine ite (refl _) ?_
  split
  · exact of_regs_eq rfl
  · exact refl _

theorem loadRegion (s : State) {r : Nat} (hr : r < 4) : RingFrame s (s.loadRegion r) := by
  unfold State.loadRegion
  dsimp only
  refine trans ?_ (foldl _ (fun t b hb => ?_) _)
  · exact (wr s F.regFwStatusBanks _ _ (isReg_of_lt hr) (by decide)).trans (setReg _ _ (isReg_of_lt hr) (by decide))
  · have hb8 : b < 8 := by
      simp only [List.mem_cons, List.not_mem_nil, or_false] at hb
      omega
    have hmac : ∀ n < 16, IsReg .portMac n := fun n hn => isReg_of_lt hn
    have hcfg := wr t F.portCfgSplit (if s.flash.split.testBit b then 1 else 0) 0 (isReg_of_lt hb8) (by decide)
    have hstatus : IsReg .portStatus b := isReg_of_lt hb8
    exact then_wr F.portMacMac (by decide) (hmac _ (by omega)) (then_wr F.portMacMac (by decide) (hmac _ (by omega))
      (then_wr F.portStatusLanesRetired (by decide) hstatus (then_wr F.portStatusSplitInForce (by decide) hstatus hcfg)))

theorem loadRepair (s : State) : RingFrame s s.loadRepair := by
  unfold State.loadRepair
  dsimp only
  have hreg : IsReg .rasRepairStatus 0 := isReg_of_lt (by decide)
  exact then_wr F.rasRepairStatusLanesRetired (by decide) hreg (then_wr F.rasRepairStatusCoresRetired (by decide) hreg
    (then_wr F.rasRepairStatusRowsUnspared (by decide) hreg (wr s F.rasRepairStatusRowsSpared _ _ hreg (by decide))))

theorem keepScratch (s : State) {r : Nat} (hr : r < 4) : RingFrame s (s.keepScratch r) := by
  unfold State.keepScratch
  dsimp only
  refine then_wr F.regSramStatusScratchInForce (by decide) (isReg_of_lt hr) ?_
  exact then_wr F.regSramCfgScratchUnits (by decide) (isReg_of_lt hr) (setReg s _ (isReg_of_lt hr) (by decide))

theorem keepSketch (s : State) (p held : Nat) (hp : s.skbIdx p < 4) : RingFrame s (s.keepSketch p held) := by
  unfold State.keepSketch
  exact then_wr F.skbStatusReservedHeld (by decide) (isReg_of_lt hp) (setReg s _ (isReg_of_lt hp) (by decide))

theorem withFuses (t s : State) : RingFrame t (t.withFuses s) := by
  unfold State.withFuses
  dsimp only
  refine trans ?_ (foldl _ (fun u k hk => ?_) _)
  · simp only [List.foldl_cons, List.foldl_nil]
    have hident : IsReg .devIdent 0 := isReg_of_lt (by decide)
    have hfuses : IsReg .secKeyFuses 0 := isReg_of_lt (by decide)
    refine then_wr F.secKeyFusesMldsaRevoked (by decide) hfuses (then_wr F.secKeyFusesEcdsaRevoked (by decide) hfuses ?_)
    refine then_wr F.secKeyFusesMldsaProvisioned (by decide) hfuses (then_wr F.secKeyFusesEcdsaProvisioned (by decide) hfuses ?_)
    exact then_wr F.devIdentStepping (by decide) hident (then_wr F.devIdentFtEdition (by decide) hident
      (wr t F.devIdentGrade _ _ hident (by decide)))
  · have hk144 : k < 144 := List.mem_range.1 hk
    exact then_wr F.cluSlotMapPhysFused (by decide) (isReg_of_lt hk144) (wr u F.cluIdentQuota _ _ (isReg_of_lt hk144) (by decide))

end RingFrame

theorem State.evtRing_of_reset {s : State} {r : Nat} (h : s.reg .regEvtBase r = Reg.regEvtBase.reset r) : s.evtRing r = false :=
  (congrArg (fun w : Word => decide (w.bits 0 0 = 1)) h).trans
    (by decide : decide ((Reg.regEvtBase.reset 0).bits 0 0 = 1) = false)

/-- A fresh device has no event ring. -/
theorem State.evtRing_of_empty {s : State} (h : s.regs = []) (r : Nat) : s.evtRing r = false :=
  State.evtRing_of_reset (by unfold State.reg; rw [h]; rfl)

-- the registers that a reset keeps

/-- A register that a reset keeps is as it was; any other reads its reset value. -/
theorem State.reg_keepRegs (s : State) (k : Reg → Nat → Bool) {r : Reg} {n : Nat} (h : IsReg r n) :
    (s.keepRegs k).reg r n = if (k r n || (decide (r = .cntDiscarded) && s.vacant n)) = true then s.reg r n else r.reset n := by
  unfold State.keepRegs State.reg NMap.getD
  dsimp only
  rw [NMap.get?_keep, h]
  dsimp only
  split <;> rfl

theorem State.evtRing_keepRegs (s : State) (k : Reg → Nat → Bool) {r : Nat} (hr : r < 4) (hk : k .regEvtBase r = false) :
    (s.keepRegs k).evtRing r = false := by
  refine State.evtRing_of_reset ((s.reg_keepRegs k (isReg_of_lt hr)).trans (if_neg ?_))
  rw [hk]
  exact Bool.false_ne_true

end Sys2Proof.Machine
end

section
/-! PROOFS. Resets of the device and of a partition, standby, and the commands of the module (R37, R38, R476, R534 to R552). -/

namespace Sys2Proof.Machine

open Sys2Proof.Claims

-- the boot of the partitions and its end

/-- The boot of the first partitions and the end of a boot (R540 steps 7 and 8). -/
def State.bootParts (s : State) (t : SelfTest) (n : Nat) : State :=
  ((((List.range n).foldl (fun (u : State) p => u.bootPart t p) s).wr F.devBootStatusPhase 0 2).settleRoot).refreshSide

/-- A boot of the partitions leaves the mode and what is told of the reset, but for the phase. -/
theorem State.bootParts_spec (s : State) (t : SelfTest) (n : Nat) :
    BootFrame [.devPartStatus, .devBootStatus] s (s.bootParts t n) ∧ (s.bootParts t n).rd F.devBootStatusPhase = 2 ∧
      (s.bootParts t n).rd F.devBootStatusLastReset = s.rd F.devBootStatusLastReset ∧
      (s.bootParts t n).rd F.devBootStatusBootLocked = s.rd F.devBootStatusBootLocked := by
  unfold State.bootParts
  have hparts : BootFrame [.devPartStatus] s ((List.range n).foldl (fun (u : State) p => u.bootPart t p) s) :=
    BootFrame.foldl (fun u p => BootFrame.bootPart u t p) _ s
  generalize (List.range n).foldl (fun (u : State) p => u.bootPart t p) s = u at hparts
  have hend : BootFrame [.devPartStatus] (u.wr F.devBootStatusPhase 0 2) (u.wr F.devBootStatusPhase 0 2).settleRoot.refreshSide :=
    (BootFrame.settleRoot _).trans (BootFrame.refreshSide _)
  have hphase : BootFrame [.devPartStatus, .devBootStatus] u (u.wr F.devBootStatusPhase 0 2) :=
    BootFrame.wr_dev u F.devBootStatusPhase 2 0 (by decide)
  refine ⟨((hparts.mono (by decide)).trans hphase).trans (hend.mono (by decide)), ?_, ?_, ?_⟩
  · exact (hend.rd F.devBootStatusPhase (by decide) (by decide) 0).trans (u.rd_wr_first F.devBootStatusPhase 0 2 (by decide))
  · refine (hend.rd F.devBootStatusLastReset (by decide) (by decide) 0).trans ?_
    exact (u.rd_wr_disjoint F.devBootStatusPhase F.devBootStatusLastReset 0 2 0 0 rfl (by decide) (by decide)).trans
      (hparts.rd F.devBootStatusLastReset (by decide) (by decide) 0)
  · refine (hend.rd F.devBootStatusBootLocked (by decide) (by decide) 0).trans ?_
    exact (u.rd_wr_disjoint F.devBootStatusPhase F.devBootStatusBootLocked 0 2 0 0 rfl (by decide) (by decide)).trans
      (hparts.rd F.devBootStatusBootLocked (by decide) (by decide) 0)

-- the cold reset (R540 to R543, R552)

/-- The pins, the calibration and the reason of a cold reset. -/
def State.coldPins (s : State) (t : SelfTest) (why : Nat) : State :=
  let u : State := s.coldStart.loadCal
  let m := u.modSt
  let u : State := { u with modSt := { m with pwrGood := true, up := true, standby := false, linkTraining := !m.perst, straps := t.straps % 4 } }
  let u : State := (u.wr F.devBootStatusLastReset 0 why).wr F.devBootStatusStraps 0 t.straps
  u.wr F.devBootStatusRefclkOk 0 1

/-- What a cold reset takes from flash. -/
def State.coldTables (s : State) (t : SelfTest) : State :=
  let fl := s.flash
  let still := (List.range 64).filter (fun l => fl.lanes.testBit l && decide (l ∈ t.badLanes))
  let s : State := { s with flash := { fl with lanes := still.foldl (fun n l => n + 2 ^ l) 0 } }
  let s : State := (s.wr F.devPartCfgMode 0 fl.mode).wr F.devPartCfgModeNext 0 fl.mode
  let s : State := (List.range 4).foldl (fun (u : State) p =>
    u.wr F.devPartStatusState 0 (if p < partCount fl.mode then 1 else 0) p) s
  let s : State := (s.wr F.rasIsolateRegions 0 fl.isolate).wr F.rasIsolateInForce 0 fl.isolate
  let s : State := (List.range 4).foldl State.loadRegion s.loadRepair
  let s : State := s.wr F.fwuStatusState 0 (if fl.armed = [] then s.fwuRest else 6)
  let s : State := s.wr F.secCfgRequireIde 0 fl.policy.requireIde
  let s : State := (s.wr F.mgtCfgBmcCap 0 fl.policy.bmcCap).wr F.mgtCfgBmcKeys 0 fl.policy.bmcKeys
  s.wr F.mgtCfgBmcFwu 0 fl.policy.bmcFwu

/-- The regions that a cold reset tests. -/
def State.coldRegions (s : State) : List Nat :=
  let fl := s.flash
  (List.range 4).filter (fun r => !fl.isolate.testBit r)

/-- The boot lock and the phase of booting. -/
def State.coldLock (s : State) : State :=
  let s : State := s.wr F.devBootStatusBootLocked 0 1
  (s.wr F.devBootStatusLockUs 0 (s.now / 1000)).wr F.devBootStatusPhase 0 1

theorem State.coldBoot_eq (s : State) (t : SelfTest) (why : Nat) :
    s.coldBoot t why = ((((s.coldPins t why).coldTables t).selfTest t true (s.coldPins t why).coldRegions).numberCores.coldLock).bootParts t
      (partCount (s.coldPins t why).flash.mode) := rfl

theorem BootFrame.withFuses (t s : State) : BootFrame [] t (t.withFuses s) := by
  unfold State.withFuses
  dsimp only
  refine BootFrame.trans ?_ (BootFrame.foldl (fun u k => ?_) _ _)
  · simp only [List.foldl_cons, List.foldl_nil]
    have hident (u : State) (f : Fld) (v : Nat) (hf : f.reg = .devIdent) : BootFrame [] u (u.wr f 0 v) :=
      BootFrame.wr_dev u f v 0 (by rw [hf]; decide)
    refine BootFrame.then_wr F.secKeyFusesMldsaRevoked (by decide) (BootFrame.then_wr F.secKeyFusesEcdsaRevoked (by decide) ?_)
    refine BootFrame.then_wr F.secKeyFusesMldsaProvisioned (by decide) (BootFrame.then_wr F.secKeyFusesEcdsaProvisioned (by decide) ?_)
    exact ((hident t F.devIdentGrade _ rfl).trans (hident _ F.devIdentFtEdition _ rfl)).trans (hident _ F.devIdentStepping _ rfl)
  · exact BootFrame.then_wr F.cluSlotMapPhysFused (by decide) (BootFrame.wr u F.cluIdentQuota _ _ _ (by decide))

theorem BootFrame.loadCal (s : State) : BootFrame [] s s.loadCal := by
  unfold State.loadCal
  dsimp only
  have hset (u : State) (l : Option (NMap Byte)) (v : Nat → NMap Byte → Nat) : BootFrame [] u (match l with
      | some m => u.wr F.calStatusCrcInForce 0 (v 0 m)
      | none => u) := by
    split
    · exact BootFrame.wr u F.calStatusCrcInForce _ _ _ (by decide)
    · exact BootFrame.refl u
  refine BootFrame.trans ?_ (hset _ _ fun _ m => mapNat m 0x14 4)
  exact BootFrame.then_wr F.calStatusPending (by decide) (BootFrame.then_wr F.calStatusFactory (by decide) (.of_regs_eq rfl rfl))

theorem RingFrame.loadCal (s : State) : RingFrame s s.loadCal := by
  have hcal : IsReg .calStatus 0 := isReg_of_lt (by decide)
  unfold State.loadCal
  dsimp only
  have hset (u : State) (l : Option (NMap Byte)) (v : Nat → NMap Byte → Nat) : RingFrame u (match l with
      | some m => u.wr F.calStatusCrcInForce 0 (v 0 m)
      | none => u) := by
    split
    · exact RingFrame.wr u F.calStatusCrcInForce _ _ hcal (by decide)
    · exact RingFrame.refl u
  refine RingFrame.trans ?_ (hset _ _ fun _ m => mapNat m 0x14 4)
  exact RingFrame.then_wr F.calStatusPending (by decide) hcal (RingFrame.then_wr F.calStatusFactory (by decide) hcal (.of_regs_eq rfl))

/-- A device as a cold reset finds it: no memory, no work and no event ring. -/
structure Blank (s : State) : Prop where
  mem : s.mem = []
  poison : s.poison = []
  queues : s.queues = []
  tasks : s.tasks = []
  rings : ∀ r < 4, s.evtRing r = false

theorem Blank.step {s t : State} (h : Blank s) (hb : t.besidesBoot = s.besidesBoot) (hr : RingFrame s t) : Blank t := by
  obtain ⟨hmem, hpoison, -, hqueues, htasks, -⟩ := State.of_besidesBoot hb
  exact ⟨hmem.trans h.mem, hpoison.trans h.poison, hqueues.trans h.queues, htasks.trans h.tasks, fun r hlt => (hr r hlt).trans (h.rings r hlt)⟩

theorem Blank.coldStart (s : State) : Blank s.coldStart ∧ s.coldStart.modSt = s.modSt := by
  unfold State.coldStart
  dsimp only
  generalize ht : ({ pending := s.pending, sent := s.sent, freeIdx := s.freeIdx, flash := s.flash, modSt := s.modSt } : State) = t
  have hframe := BootFrame.withFuses t s
  have hblank : Blank t := by
    subst ht
    exact ⟨rfl, rfl, rfl, rfl, fun r _ => State.evtRing_of_empty rfl r⟩
  have hmod : t.modSt = s.modSt := by rw [← ht]
  exact ⟨hblank.step hframe.rest (RingFrame.withFuses t s), (State.of_besidesBoot hframe.rest).2.2.2.2.2.trans hmod⟩

theorem State.coldPins_spec {why : Nat} (s : State) (t : SelfTest) (hwhy : why < 16) :
    Blank (s.coldPins t why) ∧ (s.coldPins t why).rd F.devBootStatusLastReset = why ∧ (s.coldPins t why).modSt.up = true ∧
      (s.coldPins t why).modSt.mainSwitch = s.modSt.mainSwitch := by
  obtain ⟨hblank, hmod⟩ := Blank.coldStart s
  have hcal := BootFrame.loadCal s.coldStart
  have hloaded := hblank.step hcal.rest (RingFrame.loadCal _)
  have hmain := congrArg ModuleSt.mainSwitch ((State.of_besidesBoot hcal.rest).2.2.2.2.2.trans hmod)
  unfold State.coldPins
  dsimp only
  generalize s.coldStart.loadCal = u at hloaded hmain
  have hreg : IsReg .devBootStatus 0 := isReg_of_lt (by decide)
  refine ⟨?_, ?_, rfl, hmain⟩
  · have hpins : Blank { u with modSt := { u.modSt with pwrGood := true, up := true, standby := false, linkTraining := !u.modSt.perst, straps := t.straps % 4 } } :=
      ⟨hloaded.mem, hloaded.poison, hloaded.queues, hloaded.tasks, hloaded.rings⟩
    refine hpins.step rfl ?_
    exact RingFrame.then_wr F.devBootStatusRefclkOk (by decide) hreg (RingFrame.then_wr F.devBootStatusStraps (by decide) hreg
      (RingFrame.wr _ F.devBootStatusLastReset _ _ hreg (by decide)))
  · rw [State.rd_wr_disjoint _ F.devBootStatusRefclkOk F.devBootStatusLastReset 0 1 0 0 rfl (by decide) (by decide),
      State.rd_wr_disjoint _ F.devBootStatusStraps F.devBootStatusLastReset 0 t.straps 0 0 rfl (by decide) (by decide)]
    exact (State.rd_wr_first _ F.devBootStatusLastReset 0 why (by decide)).trans (Nat.mod_eq_of_lt hwhy)

theorem State.coldTables_spec (s : State) (t : SelfTest) :
    BootFrame [.devPartCfg, .devPartStatus] s (s.coldTables t) ∧ RingFrame s (s.coldTables t) := by
  unfold State.coldTables
  dsimp only
  have hcfg : IsReg .mgtCfg 0 := isReg_of_lt (by decide)
  have hiso : IsReg .rasIsolate 0 := isReg_of_lt (by decide)
  have hpart : IsReg .devPartCfg 0 := isReg_of_lt (by decide)
  constructor
  · refine BootFrame.then_wr F.mgtCfgBmcFwu (by decide) (BootFrame.then_wr F.mgtCfgBmcKeys (by decide) ?_)
    refine BootFrame.then_wr F.mgtCfgBmcCap (by decide) (BootFrame.then_wr F.secCfgRequireIde (by decide) ?_)
    refine BootFrame.then_wr F.fwuStatusState (by decide) ?_
    refine BootFrame.trans ?_ (BootFrame.foldl (fun u r => BootFrame.loadRegion u r) _ _)
    refine BootFrame.trans ?_ ((BootFrame.loadRepair _).mono (List.nil_subset _))
    refine BootFrame.then_wr F.rasIsolateInForce (by decide) (BootFrame.then_wr F.rasIsolateRegions (by decide) ?_)
    refine BootFrame.trans ?_ (BootFrame.foldl (fun u p => BootFrame.wr_dev u F.devPartStatusState _ p (by decide)) _ _)
    refine BootFrame.trans ?_ (BootFrame.wr_dev _ F.devPartCfgModeNext _ 0 (by decide))
    refine BootFrame.trans ?_ (BootFrame.wr_dev _ F.devPartCfgMode _ 0 (by decide))
    exact .of_regs_eq rfl rfl
  · refine RingFrame.then_wr F.mgtCfgBmcFwu (by decide) hcfg (RingFrame.then_wr F.mgtCfgBmcKeys (by decide) hcfg ?_)
    refine RingFrame.then_wr F.mgtCfgBmcCap (by decide) hcfg (RingFrame.then_wr F.secCfgRequireIde (by decide) (isReg_of_lt (by decide)) ?_)
    refine RingFrame.then_wr F.fwuStatusState (by decide) (isReg_of_lt (by decide)) ?_
    refine RingFrame.trans ?_ (RingFrame.foldl _ (fun u r hr => RingFrame.loadRegion u (List.mem_range.1 hr)) _)
    refine RingFrame.trans ?_ (RingFrame.loadRepair _)
    refine RingFrame.then_wr F.rasIsolateInForce (by decide) hiso (RingFrame.then_wr F.rasIsolateRegions (by decide) hiso ?_)
    refine RingFrame.trans ?_ (RingFrame.foldl _ (fun u p _ => RingFrame.wr u F.devPartStatusState _ p (isReg_of_lt (by decide)) (by decide)) _)
    refine RingFrame.then_wr F.devPartCfgModeNext (by decide) hpart (RingFrame.then_wr F.devPartCfgMode (by decide) hpart ?_)
    exact .of_regs_eq rfl

/-- A cold reset leaves no memory and no work, and tells its reason (R540, R552). -/
theorem State.coldBoot_spec {why : Nat} (s : State) (t : SelfTest) (hwhy : why < 16) :
    (s.coldBoot t why).mem = [] ∧ (s.coldBoot t why).poison = [] ∧ (s.coldBoot t why).queues = [] ∧ (s.coldBoot t why).tasks = [] ∧
      (s.coldBoot t why).rd F.devBootStatusLastReset = why ∧ (s.coldBoot t why).rd F.devBootStatusPhase = 2 ∧
      (s.coldBoot t why).rd F.devBootStatusBootLocked = 1 ∧ (s.coldBoot t why).modSt.up = true ∧
      (s.coldBoot t why).modSt.mainSwitch = s.modSt.mainSwitch := by
  rw [State.coldBoot_eq]
  obtain ⟨hblank, hwhyPins, hup, hmain⟩ := s.coldPins_spec t hwhy
  have hlt : ∀ r ∈ (s.coldPins t why).coldRegions, r < 4 := fun r hr => List.mem_range.1 (List.mem_filter.1 hr).1
  generalize (s.coldPins t why).coldRegions = rs at hlt
  generalize partCount (s.coldPins t why).flash.mode = n
  generalize s.coldPins t why = u at hblank hwhyPins hup hmain
  obtain ⟨htables, hrings⟩ := u.coldTables_spec t
  have htest := BootFrame.selfTest (s := u.coldTables t) t true hlt fun r hr => (hrings r (hlt r hr)).trans (hblank.rings r (hlt r hr))
  have hnumbered := htables.trans ((htest.trans (BootFrame.numberCores _)).mono (List.nil_subset _))
  generalize ((u.coldTables t).selfTest t true rs).numberCores = v at hnumbered
  have hreason := (hnumbered.rd F.devBootStatusLastReset (by decide) (by decide) 0).trans hwhyPins
  have hlocked : v.coldLock.rd F.devBootStatusBootLocked = 1 ∧ v.coldLock.rd F.devBootStatusLastReset = why := by
    unfold State.coldLock
    dsimp only
    constructor
    · rw [State.rd_wr_disjoint _ F.devBootStatusPhase F.devBootStatusBootLocked 0 _ 0 0 rfl (by decide) (by decide),
        State.rd_wr_disjoint _ F.devBootStatusLockUs F.devBootStatusBootLocked 0 _ 0 0 rfl (by decide) (by decide)]
      exact State.rd_wr_first _ F.devBootStatusBootLocked 0 1 (by decide)
    · rw [State.rd_wr_disjoint _ F.devBootStatusPhase F.devBootStatusLastReset 0 _ 0 0 rfl (by decide) (by decide),
        State.rd_wr_disjoint _ F.devBootStatusLockUs F.devBootStatusLastReset 0 _ 0 0 rfl (by decide) (by decide),
        State.rd_wr_disjoint _ F.devBootStatusBootLocked F.devBootStatusLastReset 0 _ 0 0 rfl (by decide) (by decide)]
      exact hreason
  obtain ⟨hboot, hphase, hlast, hlock⟩ := v.coldLock.bootParts_spec t n
  have hrest : (v.coldLock.bootParts t n).besidesBoot = u.besidesBoot := (hboot.rest.trans rfl).trans hnumbered.rest
  obtain ⟨hmem, hpoison, -, hqueues, htasks, hmod⟩ := State.of_besidesBoot hrest
  exact ⟨hmem.trans hblank.mem, hpoison.trans hblank.poison, hqueues.trans hblank.queues, htasks.trans hblank.tasks, hlast.trans hlocked.2,
    hphase, hlock.trans hlocked.1, (congrArg ModuleSt.up hmod).trans hup, (congrArg ModuleSt.mainSwitch hmod).trans hmain⟩

-- warm resets (R37, R545)

/-- The boot after every region has been cleared: memory, the mode and the reason of the reset stay. -/
theorem State.rebootAll_spec (s : State) (t : SelfTest) (n : Nat) (hring : ∀ r < 4, s.evtRing r = false) :
    BootFrame [.devPartStatus, .devBootStatus] s (s.rebootAll t n) ∧ (s.rebootAll t n).rd F.devBootStatusPhase = 2 ∧
      (s.rebootAll t n).rd F.devBootStatusLastReset = s.rd F.devBootStatusLastReset := by
  have hload : BootFrame [] s ((List.range 4).foldl State.loadRegion s) := BootFrame.foldl (fun u r => BootFrame.loadRegion u r) _ s
  have hloadRing : RingFrame s ((List.range 4).foldl State.loadRegion s) :=
    RingFrame.foldl _ (fun u r hr => RingFrame.loadRegion u (List.mem_range.1 hr)) s
  unfold State.rebootAll
  dsimp only
  generalize (List.range 4).foldl State.loadRegion s = u at hload hloadRing
  have hiso := BootFrame.then_wr F.rasIsolateInForce (by decide) (n := 0) (v := u.rd F.rasIsolateRegions) (k := 0) hload
  have hisoRing := RingFrame.then_wr_dev F.rasIsolateInForce (by decide) (isReg_of_lt (by decide)) (v := u.rd F.rasIsolateRegions) (k := 0) hloadRing
  generalize u.wr F.rasIsolateInForce 0 (u.rd F.rasIsolateRegions) = v at hiso hisoRing
  have hlt : ∀ r ∈ (List.range 4).filter (fun r => !(v.rd F.rasIsolateInForce).testBit r), r < 4 := fun r hr =>
    List.mem_range.1 (List.mem_filter.1 hr).1
  have htest := hiso.trans (BootFrame.selfTest (s := v) t false hlt fun r hr => (hisoRing r (hlt r hr)).trans (hring r (hlt r hr)))
  generalize v.selfTest t false _ = w at htest
  have hfwu : BootFrame [] (w.wr F.devBootStatusPhase 0 1) (w.wr F.devBootStatusPhase 0 1).resetFwu := BootFrame.resetFwu _
  have hphase : BootFrame [.devPartStatus, .devBootStatus] w (w.wr F.devBootStatusPhase 0 1) := BootFrame.wr_dev w F.devBootStatusPhase 1 0 (by decide)
  obtain ⟨hboot, hend, hlast, -⟩ := (w.wr F.devBootStatusPhase 0 1).resetFwu.bootParts_spec t (partCount n)
  refine ⟨(((htest.mono (List.nil_subset _)).trans hphase).trans (hfwu.mono (List.nil_subset _))).trans hboot, hend, ?_⟩
  refine (hlast.trans (hfwu.rd F.devBootStatusLastReset (by decide) (by decide) 0)).trans ?_
  exact (w.rd_wr_disjoint F.devBootStatusPhase F.devBootStatusLastReset 0 1 0 0 rfl (by decide) (by decide)).trans
    (htest.rd F.devBootStatusLastReset (by decide) (by decide) 0)

/-- The registers and tables of a warm reset before its boot. -/
def State.warmClear (s : State) (mode why : Nat) : State :=
  let s : State := s.keepRegs (fun r _ => r.keptWarm)
  let s : State := { s with mem := [], poison := [], scrambled := [] }
  let s : State := (s.wr F.devPartCfgMode 0 mode).wr F.devPartCfgModeNext 0 mode
  let s : State := (s.wr F.devPartCfgPersist 0 0).wr F.devPartStatusModeChangePending 0 0
  let s : State := (List.range 4).foldl (fun (u : State) p => if partCount mode ≤ p then u.setPartState p 0 else u) s
  (s.wr F.devBootStatusLastReset 0 why).wr F.hifSessionHeld 0 0

theorem State.warmClear_spec {mode why : Nat} (s : State) (hmode : mode < 4) (hwhy : why < 16) :
    (s.warmClear mode why).mem = [] ∧ (s.warmClear mode why).poison = [] ∧ (s.warmClear mode why).mode = mode ∧
      (s.warmClear mode why).rd F.devBootStatusLastReset = why ∧ ∀ r < 4, (s.warmClear mode why).evtRing r = false := by
  have hring : ∀ r < 4, (s.keepRegs fun r _ => r.keptWarm).evtRing r = false := fun r hr => s.evtRing_keepRegs _ hr rfl
  unfold State.warmClear
  dsimp only
  generalize s.keepRegs (fun r _ => r.keptWarm) = u at hring
  have hclear : ∀ r < 4, ({ u with mem := [], poison := [], scrambled := [] } : State).evtRing r = false := hring
  have hmem : ({ u with mem := [], poison := [], scrambled := [] } : State).mem = [] ∧
      ({ u with mem := [], poison := [], scrambled := [] } : State).poison = [] := ⟨rfl, rfl⟩
  generalize ({ u with mem := [], poison := [], scrambled := [] } : State) = v at hclear hmem
  have hdev : IsReg .devPartCfg 0 := isReg_of_lt (by decide)
  have hcfg : BootFrame [.devPartCfg, .devPartStatus] v
      ((((v.wr F.devPartCfgMode 0 mode).wr F.devPartCfgModeNext 0 mode).wr F.devPartCfgPersist 0 0).wr F.devPartStatusModeChangePending 0 0) := by
    refine BootFrame.trans ?_ (BootFrame.wr_dev _ F.devPartStatusModeChangePending _ 0 (by decide))
    refine BootFrame.trans ?_ (BootFrame.wr_dev _ F.devPartCfgPersist _ 0 (by decide))
    exact (BootFrame.wr_dev v F.devPartCfgMode mode 0 (by decide)).trans (BootFrame.wr_dev _ F.devPartCfgModeNext _ 0 (by decide))
  have hcfgRing : RingFrame v
      ((((v.wr F.devPartCfgMode 0 mode).wr F.devPartCfgModeNext 0 mode).wr F.devPartCfgPersist 0 0).wr F.devPartStatusModeChangePending 0 0) := by
    refine RingFrame.then_wr F.devPartStatusModeChangePending (by decide) (isReg_of_lt (by decide)) (RingFrame.then_wr F.devPartCfgPersist (by decide) hdev ?_)
    exact RingFrame.then_wr F.devPartCfgModeNext (by decide) hdev (RingFrame.wr v F.devPartCfgMode _ _ hdev (by decide))
  have hnew : ((((v.wr F.devPartCfgMode 0 mode).wr F.devPartCfgModeNext 0 mode).wr F.devPartCfgPersist 0 0).wr
      F.devPartStatusModeChangePending 0 0).mode = mode := by
    unfold State.mode
    rw [State.rd_wr_of_reg_ne _ (f := F.devPartStatusModeChangePending) (g := F.devPartCfgMode) 0 0 0 (isReg_of_lt (by decide)) hdev (by decide),
      State.rd_wr_disjoint _ F.devPartCfgPersist F.devPartCfgMode 0 0 0 0 rfl (by decide) (by decide),
      State.rd_wr_disjoint _ F.devPartCfgModeNext F.devPartCfgMode 0 mode 0 0 rfl (by decide) (by decide)]
    exact (v.rd_wr_first F.devPartCfgMode 0 mode (by decide)).trans (Nat.mod_eq_of_lt hmode)
  generalize (((v.wr F.devPartCfgMode 0 mode).wr F.devPartCfgModeNext 0 mode).wr F.devPartCfgPersist 0 0).wr F.devPartStatusModeChangePending 0 0 = w
    at hcfg hcfgRing hnew
  have hparts : BootFrame [.devPartStatus] w ((List.range 4).foldl (fun (u : State) p => if partCount mode ≤ p then u.setPartState p 0 else u) w) :=
    BootFrame.foldl (fun x p => BootFrame.ite (BootFrame.setPartState x p 0) (BootFrame.refl x)) _ w
  have hpartsRing : RingFrame w ((List.range 4).foldl (fun (u : State) p => if partCount mode ≤ p then u.setPartState p 0 else u) w) :=
    RingFrame.foldl _ (fun x p _ => RingFrame.ite (RingFrame.setPartState x p 0) (RingFrame.refl x)) w
  generalize (List.range 4).foldl (fun (u : State) p => if partCount mode ≤ p then u.setPartState p 0 else u) w = x at hparts hpartsRing
  have hwhole : (((x.wr F.devBootStatusLastReset 0 why).wr F.hifSessionHeld 0 0)).besidesBoot = v.besidesBoot := hparts.rest.trans hcfg.rest
  obtain ⟨hmemEq, hpoisonEq, -⟩ := State.of_besidesBoot hwhole
  refine ⟨hmemEq.trans hmem.1, hpoisonEq.trans hmem.2, ?_, ?_, fun r hr => ?_⟩
  · have hlast : BootFrame [.devBootStatus] x (x.wr F.devBootStatusLastReset 0 why) := BootFrame.wr_dev x F.devBootStatusLastReset why 0 (by decide)
    exact ((BootFrame.then_wr F.hifSessionHeld (by decide) hlast).mode (by decide)).trans ((hparts.mode (by decide)).trans hnew)
  · refine (State.rd_wr_of_reg_ne _ 0 0 0 (isReg_of_lt (by decide)) (isReg_of_lt (by decide)) (by decide)).trans ?_
    exact (x.rd_wr_first F.devBootStatusLastReset 0 why (by decide)).trans (Nat.mod_eq_of_lt hwhy)
  · have hlast : RingFrame x ((x.wr F.devBootStatusLastReset 0 why).wr F.hifSessionHeld 0 0) :=
      RingFrame.then_wr F.hifSessionHeld (by decide) (isReg_of_lt (by decide))
        (RingFrame.wr x F.devBootStatusLastReset _ _ (isReg_of_lt (by decide)) (by decide))
    exact (((hcfgRing.trans hpartsRing).trans hlast) r hr).trans (hclear r hr)

/-- A warm reset leaves no memory, takes the next mode and tells its reason (R545). -/
theorem State.warmBoot_spec {why : Nat} (s : State) (t : SelfTest) (hwhy : why < 16) :
    (s.warmBoot t why).mem = [] ∧ (s.warmBoot t why).poison = [] ∧ (s.warmBoot t why).mode = s.rd F.devPartCfgModeNext ∧
      (s.warmBoot t why).rd F.devBootStatusLastReset = why ∧ (s.warmBoot t why).rd F.devBootStatusPhase = 2 := by
  obtain ⟨u, hu⟩ : ∃ u : State, s.warmBoot t why = (u.warmClear (s.rd F.devPartCfgModeNext) why).rebootAll t (s.rd F.devPartCfgModeNext) :=
    ⟨_, rfl⟩
  rw [hu]
  have hmode : s.rd F.devPartCfgModeNext < 4 := Word.bits_lt _ _ _
  generalize s.rd F.devPartCfgModeNext = mode at hmode
  obtain ⟨hmem, hpoison, hmode, hlast, hring⟩ := u.warmClear_spec hmode hwhy
  obtain ⟨hboot, hphase, hkept⟩ := (u.warmClear mode why).rebootAll_spec t mode hring
  obtain ⟨hmemEq, hpoisonEq, -⟩ := State.of_besidesBoot hboot.rest
  exact ⟨hmemEq.trans hmem, hpoisonEq.trans hpoison, (hboot.mode (by decide)).trans hmode, hkept.trans hlast, hphase⟩

-- the memory of a region (R33, R37, R520)

/-- An address of a region: in its near tier, its far tier or its scratch. -/
def RegionHas (r x : Nat) : Prop :=
  (nearBase r ≤ x ∧ x < nearBase r + 0x6000000000) ∨ (farBase r ≤ x ∧ x < farBase r + 0x8000000000) ∨
    (scratchBase r ≤ x ∧ x < scratchBase r + 0x100000000)

/-- An address that decodes to a region is one of it. -/
theorem State.regionHas_of_paKind {s : State} {x r : Nat} (h : (s.paKind x).region? = some r) : r < 4 ∧ RegionHas r x := by
  unfold State.paKind at h
  unfold RegionHas nearBase farBase scratchBase
  dsimp only at h
  split at h
  · obtain rfl := Option.some.inj h
    omega
  · split at h
    · exact nomatch h
    · split at h
      · obtain rfl := Option.some.inj h
        omega
      · split at h
        · exact nomatch h
        · split at h
          · split at h
            · obtain rfl := Option.some.inj h
              omega
            · exact nomatch h
          · repeat' split at h
            all_goals exact nomatch h

/-- No address is of two regions. -/
theorem RegionHas.unique {r r' x : Nat} (hr : r < 4) (hr' : r' < 4) (h : RegionHas r x) (h' : RegionHas r' x) : r = r' := by
  unfold RegionHas nearBase farBase scratchBase at h h'
  omega

/-- A granule that is scrambled changes its own bytes. -/
theorem State.readByte_scramble {s : State} {g x : Nat} (h : x / 0x4000000 ≠ g) : (s.scramble g).readByte x = s.readByte x := by
  unfold State.scramble State.draw State.readByte State.memDefault NMap.getD
  dsimp only
  rw [NMap.get?_keep, if_pos (decide_eq_true h), NMap.get?_set, if_neg fun he => h he.symm]

theorem State.loseKeys_keeps {β : Type} (q : State → β) (s : State) (rs : List Nat)
    (hq : ∀ u : State, ∀ g, (∃ r ∈ rs, ∀ x, x / 0x4000000 = g → RegionHas r x) → q (u.scramble g) = q u) : q (s.loseKeys rs) = q s := by
  unfold State.loseKeys
  refine State.foldl_keeps q (fun u e => ?_) _ s
  split
  · next n _ =>
    split
    case isTrue h =>
      refine hq u _ ⟨_, h.1, fun x hx => .inl ?_⟩
      unfold nearBase at hx ⊢
      omega
    case isFalse => rfl
  · next n _ =>
    split
    case isTrue h =>
      refine hq u _ ⟨_, h.1, fun x hx => .inr (.inl ?_)⟩
      unfold farBase at hx ⊢
      omega
    case isFalse => rfl
  · rfl

/-- A region whose keys stay keeps its bytes. -/
theorem State.readByte_loseKeys {rs : List Nat} {x : Nat} (s : State) (h : ∀ r ∈ rs, ¬ RegionHas r x) :
    (s.loseKeys rs).readByte x = s.readByte x :=
  s.loseKeys_keeps (fun u => u.readByte x) rs fun _ _ ⟨r, hr, hall⟩ => State.readByte_scramble fun he => h r hr (hall x he)

theorem State.regs_loseKeys (s : State) (rs : List Nat) : (s.loseKeys rs).regs = s.regs :=
  s.loseKeys_keeps State.regs rs fun _ _ _ => rfl

theorem State.regs_zeroRange (s : State) (a n : Nat) : (s.zeroRange a n).regs = s.regs := by
  unfold State.zeroRange
  dsimp only
  refine (State.foldl_keeps State.regs (fun t g => ?_) _ _).trans rfl
  refine State.foldl_keeps State.regs (fun u i => ?_) _ t
  rfl

theorem State.regs_zeroRegion (s : State) (tiers : Bool) (r : Nat) : (s.zeroRegion tiers r).regs = s.regs := by
  unfold State.zeroRegion
  dsimp only
  split
  · exact ((State.regs_zeroRange ..).trans (State.regs_zeroRange ..)).trans (State.regs_zeroRange ..)
  · exact State.regs_zeroRange ..

/-- A region that is zeroed reads zero: its scratch always, its tiers where asked. -/
theorem State.readByte_zeroRegion_of_has {r x : Nat} {tiers : Bool} (s : State) (hr : r < 4) (h : RegionHas r x)
    (hx : tiers = true ∨ scratchBase r ≤ x) : (s.zeroRegion tiers r).readByte x = 0 := by
  unfold RegionHas nearBase farBase scratchBase at h
  unfold State.zeroRegion
  dsimp only
  cases tiers with
  | false =>
    have hscratch := hx.resolve_left Bool.false_ne_true
    refine (State.readByte_zeroRange _ _ _ _).trans (if_pos ?_)
    unfold scratchBase at hscratch ⊢
    omega
  | true =>
    rw [if_pos rfl, State.readByte_zeroRange, State.readByte_zeroRange, State.readByte_zeroRange]
    unfold nearBase farBase scratchBase
    obtain h | h | h := h
    · rw [if_neg (by omega), if_pos h]
    · rw [if_pos h]
    · rw [if_neg (by omega), if_neg (by omega), if_pos h]

/-- Any other byte is as it was, and a byte that is zero stays zero. -/
theorem State.readByte_zeroRegion {r x : Nat} (s : State) (tiers : Bool) :
    (s.zeroRegion tiers r).readByte x = 0 ∨ (s.zeroRegion tiers r).readByte x = s.readByte x := by
  have hrange (u : State) (a n : Nat) : (u.zeroRange a n).readByte x = 0 ∨ (u.zeroRange a n).readByte x = u.readByte x := by
    rw [State.readByte_zeroRange]
    split
    · exact .inl rfl
    · exact .inr rfl
  have hthen (u : State) (a n : Nat) (h : u.readByte x = 0 ∨ u.readByte x = s.readByte x) :
      (u.zeroRange a n).readByte x = 0 ∨ (u.zeroRange a n).readByte x = s.readByte x := by
    obtain h' | h' := hrange u a n
    · exact .inl h'
    · rw [h']
      exact h
  unfold State.zeroRegion
  dsimp only
  split
  · exact hthen _ _ _ (hthen _ _ _ (hrange ..))
  · exact hrange ..

theorem State.readByte_zeroRegion_of_not {r x : Nat} (s : State) (tiers : Bool) (h : ¬ RegionHas r x) :
    (s.zeroRegion tiers r).readByte x = s.readByte x := by
  unfold RegionHas at h
  obtain ⟨hnear, hfar, hscratch⟩ : ¬ (nearBase r ≤ x ∧ x < nearBase r + 0x6000000000) ∧ ¬ (farBase r ≤ x ∧ x < farBase r + 0x8000000000) ∧
    ¬ (scratchBase r ≤ x ∧ x < scratchBase r + 0x100000000) := by tauto
  unfold State.zeroRegion
  dsimp only
  split
  · rw [State.readByte_zeroRange, if_neg hfar, State.readByte_zeroRange, if_neg hnear, State.readByte_zeroRange, if_neg hscratch]
  · rw [State.readByte_zeroRange, if_neg hscratch]

/-- The regions of a partition cleared one after the other (R38 step 6). -/
def State.zeroRegions (s : State) (rs : List Nat) (tiers : Bool) : State := rs.foldl (fun (u : State) r => (u.zeroRegion tiers r).loadRegion r) s

theorem State.readByte_zeroRegions_of_not {x : Nat} (tiers : Bool) (rs : List Nat) (s : State) (h : ∀ r ∈ rs, ¬ RegionHas r x) :
    (s.zeroRegions rs tiers).readByte x = s.readByte x := by
  induction rs generalizing s with
  | nil => rfl
  | cons r rs ih =>
    refine (ih _ fun r' hr' => h r' (List.mem_cons_of_mem r hr')).trans ?_
    exact ((BootFrame.loadRegion (rs := []) _ r).readByte x).trans (s.readByte_zeroRegion_of_not tiers (h r List.mem_cons_self))

theorem State.readByte_zeroRegions_of_zero {x : Nat} (tiers : Bool) (rs : List Nat) (s : State) (h : s.readByte x = 0) :
    (s.zeroRegions rs tiers).readByte x = 0 := by
  induction rs generalizing s with
  | nil => exact h
  | cons r rs ih =>
    refine ih _ (((BootFrame.loadRegion (rs := []) _ r).readByte x).trans ?_)
    obtain hzero | hkept := s.readByte_zeroRegion (r := r) (x := x) tiers
    · exact hzero
    · exact hkept.trans h

theorem State.readByte_zeroRegions_of_has {r x : Nat} {tiers : Bool} (rs : List Nat) (s : State) (hmem : r ∈ rs) (hr : r < 4)
    (h : RegionHas r x) (hx : tiers = true ∨ scratchBase r ≤ x) : (s.zeroRegions rs tiers).readByte x = 0 := by
  induction rs generalizing s with
  | nil => exact absurd hmem List.not_mem_nil
  | cons r' rs ih =>
    obtain rfl | hrest := List.mem_cons.1 hmem
    · refine State.readByte_zeroRegions_of_zero tiers rs _ (((BootFrame.loadRegion (rs := []) _ r).readByte x).trans ?_)
      exact s.readByte_zeroRegion_of_has hr h hx
    · exact ih _ hrest

-- the reset of a partition (R38)

theorem BootFrame.send {rs : List Reg} (s : State) (m : Sent) : BootFrame rs s (s.send m) := .of_regs_eq rfl rfl

theorem BootFrame.resetRecords {rs : List Reg} (s : State) (q : Nat) : BootFrame rs s (s.resetRecords q) := by
  unfold State.resetRecords
  dsimp only
  refine BootFrame.ite (BootFrame.refl s) (BootFrame.foldl (fun t c => BootFrame.ite (BootFrame.refl t) ?_) _ s)
  unfold State.recordIrqOf
  have hbump (u : State) : BootFrame rs u (u.bump F.qpCqTailCount q) := BootFrame.wr u F.qpCqTailCount _ _ _ (by decide)
  have htail (m : Sent) : BootFrame rs t ((t.send m).bump F.qpCqTailCount q) := (BootFrame.send t m).trans (hbump _)
  exact (htail _).trans (BootFrame.ite (BootFrame.send _ _) (BootFrame.refl _))

theorem BootFrame.endQueues {rs : List Reg} (s : State) (ps : List Nat) : BootFrame rs s (s.endQueues ps) := by
  unfold State.endQueues
  refine BootFrame.foldl (fun t e => ?_) _ s
  exact BootFrame.ite (BootFrame.resetRecords t e.1) (BootFrame.refl t)

theorem BootFrame.portDown {rs : List Reg} (s : State) (b : Nat) : BootFrame rs s (s.portDown b) :=
  BootFrame.then_wr F.portStatusUpB (by decide) (BootFrame.wr s F.portStatusUpA b 0 0 (by decide))

theorem partRegions_mem {mode p r : Nat} (h : r ∈ partRegions mode p) : partOfRegion mode r = p := by
  obtain ⟨i, hi, rfl⟩ := List.mem_map.1 h
  have hlt : i < regionsPer mode := List.mem_range.1 hi
  unfold partOfRegion
  rw [Nat.mul_comm, Nat.mul_add_div (by omega), Nat.div_eq_of_lt hlt, Nat.add_zero]

theorem mem_partRegions {mode p r : Nat} (h : partOfRegion mode r = p) : r ∈ partRegions mode p := by
  have hpos : 0 < regionsPer mode := by
    unfold regionsPer partCount
    split
    · decide
    · split <;> decide
  refine List.mem_map.2 ⟨r % regionsPer mode, List.mem_range.2 (Nat.mod_lt r hpos), ?_⟩
  subst h
  unfold partOfRegion
  exact Nat.div_add_mod' r _

theorem lt_of_mem_partRegions {mode p r : Nat} (hp : p < partCount mode) (h : r ∈ partRegions mode p) : r < 4 := by
  obtain ⟨i, hi, rfl⟩ := List.mem_map.1 h
  have hlt : i < regionsPer mode := List.mem_range.1 hi
  unfold regionsPer partCount at hlt ⊢
  unfold partCount at hp
  split at hp
  case isTrue h0 =>
    rw [if_pos h0] at hlt ⊢
    omega
  case isFalse h0 =>
    rw [if_neg h0] at hlt ⊢
    split at hp
    case isTrue h1 =>
      rw [if_pos h1] at hlt ⊢
      omega
    case isFalse h1 =>
      rw [if_neg h1] at hlt ⊢
      omega

/-- The part of a reset that ends the work of a partition (R38 steps 1 to 4). -/
def State.stopWork (s : State) (p : Nat) : State :=
  let s : State := s.endQueues [p]
  let s : State := (partBlocks s.mode p).foldl State.portDown (s.setPartState p 3)
  s.refreshRoot

theorem BootFrame.stopWork (s : State) (p : Nat) : BootFrame [.devPartStatus] s (s.stopWork p) := by
  unfold State.stopWork
  dsimp only
  refine BootFrame.trans ?_ (BootFrame.refreshRoot _)
  refine BootFrame.trans ?_ (BootFrame.foldl (fun u b => BootFrame.portDown u b) _ _)
  exact (BootFrame.endQueues s [p]).trans (BootFrame.setPartState _ p 3)

/-- The registers that a partition's reset clears (R38 step 5). -/
def State.clearRegs (s : State) (p : Nat) (zero : Bool) : State :=
  s.keepRegs (fun r n => decide (s.blockPart r.place.block (n / r.place.count) ≠ some p) || r.keptPart zero)

theorem State.clearRegs_spec (s : State) (p : Nat) (zero : Bool) :
    (s.clearRegs p zero).mode = s.mode ∧ ∀ r < 4, partOfRegion s.mode r = p → (s.clearRegs p zero).evtRing r = false := by
  unfold State.clearRegs
  constructor
  · exact congrArg (fun w : Word => w.bits 1 0) ((s.reg_keepRegs _ (isReg_of_lt (r := .devPartCfg) (n := 0) (by decide))).trans (if_pos rfl))
  · intro r hr hpart
    refine s.evtRing_keepRegs _ hr ?_
    have hblock : s.blockPart .reg (r / 1) = some p := by rw [Nat.div_one]; exact congrArg some hpart
    show (decide (s.blockPart .reg (r / 1) ≠ some p) || false) = false
    rw [hblock]
    simp

theorem State.clearPart_eq (s : State) (p : Nat) (zero : Bool) :
    s.clearPart p zero = ((((partRegions s.mode p).foldl State.keepScratch
      (((if zero then s.stopWork p else (s.stopWork p).loseKeys (partRegions s.mode p)).clearTables
        (if zero then s.stopWork p else (s.stopWork p).loseKeys (partRegions s.mode p)).mode (partRegions s.mode p)).clearRegs p zero)).keepSketch p
          (if zero then 0 else s.rd F.skbStatusReservedHeld (s.skbIdx p))).zeroRegions (partRegions s.mode p) zero).refreshHeld := rfl

theorem BootFrame.keepScratch {rs : List Reg} (s : State) (r : Nat) : BootFrame rs s (s.keepScratch r) := by
  unfold State.keepScratch
  dsimp only
  exact BootFrame.then_wr F.regSramStatusScratchInForce (by decide) (BootFrame.then_wr F.regSramCfgScratchUnits (by decide)
    (BootFrame.clearReg s r (by decide)))

theorem BootFrame.keepSketch {rs : List Reg} (s : State) (p held : Nat) : BootFrame rs s (s.keepSketch p held) :=
  BootFrame.then_wr F.skbStatusReservedHeld (by decide) (BootFrame.clearReg s _ (by decide))

theorem BootFrame.refreshHeld {rs : List Reg} (s : State) : BootFrame rs s s.refreshHeld := BootFrame.wr s F.hifSessionHeld _ _ _ (by decide)

/-- The regions cleared leave the registers of the device block and the event rings. -/
theorem State.zeroRegions_spec (tiers : Bool) (rs : List Nat) (s : State) (hlt : ∀ r ∈ rs, r < 4) :
    (s.zeroRegions rs tiers).mode = s.mode ∧ RingFrame s (s.zeroRegions rs tiers) := by
  induction rs generalizing s with
  | nil => exact ⟨rfl, RingFrame.refl s⟩
  | cons r rs ih =>
    obtain ⟨hmode, hring⟩ := ih ((s.zeroRegion tiers r).loadRegion r) fun r' hr' => hlt r' (List.mem_cons_of_mem r hr')
    have hregs := s.regs_zeroRegion tiers r
    have hzero : (s.zeroRegion tiers r).mode = s.mode := by
      unfold State.mode State.rd State.reg
      rw [hregs]
    refine ⟨hmode.trans (((BootFrame.loadRegion (rs := []) _ r).mode (by decide)).trans hzero), RingFrame.trans ?_ hring⟩
    exact (RingFrame.of_regs_eq hregs).trans (RingFrame.loadRegion _ (hlt r List.mem_cons_self))

theorem State.clearPart_spec {p : Nat} (s : State) (zero : Bool) (hp : p < partCount s.mode) :
    (s.clearPart p zero).mode = s.mode ∧ (∀ r ∈ partRegions s.mode p, (s.clearPart p zero).evtRing r = false) ∧
      (∀ x, (∀ r ∈ partRegions s.mode p, ¬ RegionHas r x) → (s.clearPart p zero).readByte x = s.readByte x) ∧
      ∀ x, ∀ r ∈ partRegions s.mode p, RegionHas r x → zero = true ∨ scratchBase r ≤ x → (s.clearPart p zero).readByte x = 0 := by
  have hlt : ∀ r ∈ partRegions s.mode p, r < 4 := fun r hr => lt_of_mem_partRegions hp hr
  have hpart : ∀ r ∈ partRegions s.mode p, partOfRegion s.mode r = p := fun r hr => partRegions_mem hr
  have hidx : lowestRegion s.mode p < 4 := hlt _ (mem_partRegions (by
    unfold partOfRegion lowestRegion
    refine Nat.mul_div_cancel p ?_
    unfold regionsPer partCount
    split
    · decide
    · split <;> decide))
  have hstop := BootFrame.stopWork s p
  rw [State.clearPart_eq]
  generalize (if zero then 0 else s.rd F.skbStatusReservedHeld (s.skbIdx p)) = held
  generalize partRegions s.mode p = rs at hlt hpart
  have hkeys : (if zero then s.stopWork p else (s.stopWork p).loseKeys rs).mode = s.mode ∧
      ∀ x, (∀ r ∈ rs, ¬ RegionHas r x) → (if zero then s.stopWork p else (s.stopWork p).loseKeys rs).readByte x = s.readByte x := by
    split
    · exact ⟨hstop.mode (by decide), fun x _ => hstop.readByte x⟩
    · refine ⟨Eq.trans ?_ (hstop.mode (by decide)), fun x hx => ((s.stopWork p).readByte_loseKeys hx).trans (hstop.readByte x)⟩
      unfold State.mode State.rd State.reg
      rw [State.regs_loseKeys]
  generalize (if zero then s.stopWork p else (s.stopWork p).loseKeys rs) = u at hkeys
  obtain ⟨hmode, hbytes⟩ := hkeys
  have hclearMode : (u.clearTables u.mode rs).mode = s.mode := hmode
  have hclearBytes : ∀ x, (∀ r ∈ rs, ¬ RegionHas r x) → (u.clearTables u.mode rs).readByte x = s.readByte x := hbytes
  generalize u.clearTables u.mode rs = v at hclearMode hclearBytes
  obtain ⟨hregsMode, hregsRing⟩ := v.clearRegs_spec p zero
  have hregsBytes : ∀ x, (v.clearRegs p zero).readByte x = v.readByte x := fun _ => rfl
  generalize v.clearRegs p zero = w at hregsMode hregsRing hregsBytes
  have hscratch : BootFrame [] w (rs.foldl State.keepScratch w) := BootFrame.foldl (fun u r => BootFrame.keepScratch u r) rs w
  have hscratchRing : RingFrame w (rs.foldl State.keepScratch w) := RingFrame.foldl rs (fun u r hr => RingFrame.keepScratch u (hlt r hr)) w
  generalize rs.foldl State.keepScratch w = x at hscratch hscratchRing
  have hxMode : x.mode = s.mode := (hscratch.mode (by decide)).trans (hregsMode.trans hclearMode)
  have hsketch := hscratch.trans (BootFrame.keepSketch x p held)
  have hskb : x.skbIdx p < 4 := by
    unfold State.skbIdx
    rw [hxMode]
    exact hidx
  have hsketchRing := hscratchRing.trans (RingFrame.keepSketch x p held hskb)
  generalize x.keepSketch p held = y at hsketch hsketchRing
  obtain ⟨hzeroMode, hzeroRing⟩ := y.zeroRegions_spec zero rs hlt
  have hheld : BootFrame [] (y.zeroRegions rs zero) (y.zeroRegions rs zero).refreshHeld := BootFrame.refreshHeld _
  refine ⟨?_, fun r hr => ?_, fun a ha => ?_, fun a r hr hhas hwhere => ?_⟩
  · exact (hheld.mode (by decide)).trans (hzeroMode.trans ((hsketch.mode (by decide)).trans (hregsMode.trans hclearMode)))
  · have hheldRing : RingFrame (y.zeroRegions rs zero) (y.zeroRegions rs zero).refreshHeld :=
      RingFrame.wr _ F.hifSessionHeld _ _ (isReg_of_lt (by decide)) (by decide)
    refine (((hsketchRing.trans hzeroRing).trans hheldRing) r (hlt r hr)).trans (hregsRing r (hlt r hr) ?_)
    rw [hclearMode]
    exact hpart r hr
  · exact (hheld.readByte a).trans ((State.readByte_zeroRegions_of_not zero rs y ha).trans
      ((hsketch.readByte a).trans ((hregsBytes a).trans (hclearBytes a ha))))
  · exact (hheld.readByte a).trans (State.readByte_zeroRegions_of_has rs y hr (hlt r hr) hhas hwhere)

/-- A partition's reset leaves it running or stopped on error; the bytes of other partitions stay, and scratch, and with ZERO the tiers, read zero. -/
theorem State.partReset_spec {p : Nat} (s : State) (t : SelfTest) (zero : Bool) (hp : p < partCount s.mode) :
    ((s.partReset t p zero).partState p = 2 ∨ (s.partReset t p zero).partState p = 4) ∧
      (∀ x, (∀ r ∈ partRegions s.mode p, ¬ RegionHas r x) → (s.partReset t p zero).readByte x = s.readByte x) ∧
      ∀ x, ∀ r ∈ partRegions s.mode p, RegionHas r x → zero = true ∨ scratchBase r ≤ x → (s.partReset t p zero).readByte x = 0 := by
  obtain ⟨hmode, hring, hother, hzero⟩ := s.clearPart_spec zero hp
  have hlt : ∀ r ∈ partRegions s.mode p, r < 4 := fun r hr => lt_of_mem_partRegions hp hr
  have hp4 : p < 4 := by
    unfold partCount at hp
    split at hp
    · omega
    · split at hp <;> omega
  unfold State.partReset
  dsimp only
  rw [hmode]
  generalize partRegions s.mode p = rs at hring hlt hother hzero
  generalize s.clearPart p zero = u at hring hother hzero
  generalize (List.range 4).foldl _ 0 = iso
  have hiso : BootFrame [] u (u.wr F.rasIsolateInForce 0 iso) := BootFrame.wr u F.rasIsolateInForce _ _ _ (by decide)
  have hisoRing : RingFrame u (u.wr F.rasIsolateInForce 0 iso) := RingFrame.wr u F.rasIsolateInForce _ _ (isReg_of_lt (by decide)) (by decide)
  have hup : ∀ r ∈ rs.filter (fun r => !iso.testBit r), r ∈ rs := fun r hr => (List.mem_filter.1 hr).1
  have htest := hiso.trans (BootFrame.selfTest (s := u.wr F.rasIsolateInForce 0 iso) t false (fun r hr => hlt r (hup r hr)) fun r hr =>
    (hisoRing r (hlt r (hup r hr))).trans (hring r (hup r hr)))
  generalize State.selfTest _ t false (rs.filter (fun r => !iso.testBit r)) = v at htest
  have hboot := ((htest.mono (List.nil_subset _)).trans (BootFrame.bootPart v t p)).trans (BootFrame.settleRoot _)
  refine ⟨?_, fun x hx => (hboot.readByte x).trans (hother x hx), fun x r hr hhas hx => (hboot.readByte x).trans (hzero x r hr hhas hx)⟩
  have hstate := v.partState_bootPart t hp4
  have hsettle := PartKept.settleRoot (v.bootPart t p) p hp4
  omega

end Sys2Proof.Machine
end

section
/-! PROOFS. The commands of resets, of standby and of the module (R38, R534 to R552). -/

namespace Sys2Proof.Machine

open Sys2Proof.Claims

-- the reset of a partition by register (R38)

theorem partCount_le (mode : Nat) : partCount mode ≤ 4 := by
  unfold partCount
  split
  · decide
  · split <;> decide

theorem State.cutActivation_frame (s : State) (p : Nat) : BootFrame [] s (s.cutActivation p) := by
  unfold State.cutActivation
  split
  · exact BootFrame.ite (BootFrame.endActivation ..) (BootFrame.refl s)
  · exact BootFrame.refl s

theorem State.partRequest_of_active {s : State} {p : Nat} (t : SelfTest) (zero : Bool) (hstandby : s.modSt.standby = false)
    (hst : s.partState p ∉ [0, 3]) (hfwu : s.partState p = 5 → s.rd F.fwuStatusState ≠ 5) :
    s.partRequest t p zero = (s.cutActivation p).partReset t p zero := by
  simp only [List.mem_cons, List.not_mem_nil, or_false, not_or] at hst
  unfold State.partRequest
  rw [if_neg, if_neg]
  · rintro (h3 | ⟨h5, hb⟩)
    · exact hst.2 h3
    · exact hfwu h5 hb
  · rintro (hs | h0)
    · exact absurd (hstandby.symm.trans hs) Bool.false_ne_true
    · exact hst.1 h0

theorem exec_partitionReset {s : State} {a : Access} {q : RegWriteReq} {p : Nat} (t : SelfTest) (hw : Writes s a .devPartCtl q)
    (hp : bitList 4 (q.wrote F.devPartCtlReset) = [p]) :
    exec (.partitionReset a t) s = .next (s.partRequest t p ((q.wrote F.devPartCtlZero).testBit p)) := by
  have hexec : exec (.partitionReset a t) s = execPartitionReset a t s := rfl
  rw [hexec]
  unfold execPartitionReset
  rw [State.onWrite_of_writes _ hw (List.mem_singleton_self _)]
  unfold State.writePartCtl
  rw [hp]
  rfl

/-- What a reset by register does to one partition. -/
theorem State.partRequest_spec {s : State} {p : Nat} (t : SelfTest) (zero : Bool) (hp : p < partCount s.mode)
    (hstandby : s.modSt.standby = false) (hst : s.partState p ∉ [0, 3]) (hfwu : s.partState p = 5 → s.rd F.fwuStatusState ≠ 5) :
    ((s.partRequest t p zero).partState p = 2 ∨ (s.partRequest t p zero).partState p = 4) ∧
      ∀ x r, (s.paKind x).region? = some r →
        (partOfRegion s.mode r ≠ p → (s.partRequest t p zero).readByte x = s.readByte x) ∧
        (partOfRegion s.mode r = p → zero = true ∨ scratchBase r ≤ x → (s.partRequest t p zero).readByte x = 0) := by
  rw [State.partRequest_of_active t zero hstandby hst hfwu]
  have hcut := s.cutActivation_frame p
  have hmode : (s.cutActivation p).mode = s.mode := hcut.mode List.not_mem_nil
  obtain ⟨hstate, hother, hzero⟩ := (s.cutActivation p).partReset_spec t zero (hmode.symm ▸ hp)
  rw [hmode] at hother hzero
  refine ⟨hstate, fun x r hk => ?_⟩
  obtain ⟨hr, hhas⟩ := State.regionHas_of_paKind hk
  refine ⟨fun hne => (hother x fun r' hr' hhas' => hne ?_).trans (hcut.readByte x), fun he => hzero x r (mem_partRegions he) hhas⟩
  rw [hhas.unique hr (lt_of_mem_partRegions hp hr') hhas']
  exact partRegions_mem hr'

-- standby (R547)

/-- The partitions of the mode go down (R547). -/
def State.standbyParts (s : State) (mode n : Nat) : State :=
  (List.range n).foldl (fun (u : State) p =>
    let u : State := (partBlocks mode p).foldl State.portDown u
    u.setPartState p 6) s

theorem State.standbyParts_spec (s : State) (mode n : Nat) (hn : n ≤ 4) :
    BootFrame [.devPartStatus] s (s.standbyParts mode n) ∧ ∀ p < n, (s.standbyParts mode n).partState p = 6 := by
  induction n with
  | zero => exact ⟨BootFrame.refl s, fun p hp => absurd hp (Nat.not_lt_zero p)⟩
  | succ n ih =>
    obtain ⟨hframe, hparts⟩ := ih (by omega)
    have hstep : s.standbyParts mode (n + 1) = ((partBlocks mode n).foldl State.portDown (s.standbyParts mode n)).setPartState n 6 := by
      unfold State.standbyParts
      rw [List.range_succ, List.foldl_append]
      rfl
    rw [hstep]
    have hports : BootFrame [] (s.standbyParts mode n) ((partBlocks mode n).foldl State.portDown (s.standbyParts mode n)) :=
      BootFrame.foldl (fun u b => BootFrame.portDown u b) _ _
    refine ⟨(hframe.trans (hports.mono (List.nil_subset _))).trans (BootFrame.setPartState _ n 6), fun p hp => ?_⟩
    by_cases he : p = n
    · subst he
      exact State.partState_setPartState_self _ (by omega) (by decide)
    · exact (State.partState_setPartState_ne _ 6 (by omega) he).trans ((hports.partState List.not_mem_nil p).trans (hparts p (by omega)))

/-- The tables and registers that standby loses. -/
def State.standbyClear (s : State) (mode : Nat) : State :=
  let s : State := (s.loseKeys (List.range 4)).clearTables mode (List.range 4)
  s.keepRegs (fun r _ =>
    match r.place.block with
    | .qp => r.keptAlways
    | .ctx => false
    | _ => true)

theorem State.standbyClear_spec (s : State) (mode : Nat) :
    (s.standbyClear mode).modSt = s.modSt ∧ (s.standbyClear mode).reg .devPartStatus 0 = s.reg .devPartStatus 0 := by
  have hmod : (s.loseKeys (List.range 4)).modSt = s.modSt := s.loseKeys_keeps State.modSt _ fun _ _ _ => rfl
  have hregs := s.regs_loseKeys (List.range 4)
  unfold State.standbyClear
  dsimp only
  generalize s.loseKeys (List.range 4) = u at hmod hregs
  refine ⟨hmod, ((State.reg_keepRegs _ _ (isReg_of_lt (by decide))).trans (if_pos rfl)).trans ?_⟩
  show u.reg .devPartStatus 0 = _
  unfold State.reg
  rw [hregs]

theorem State.enterStandby_eq (s : State) : s.enterStandby =
    (((({ s.endQueues (List.range 4) with modSt := { (s.endQueues (List.range 4)).modSt with pwrEn := false, standby := true } } : State).standbyParts
      s.mode (partCount s.mode)).standbyClear s.mode).wr F.devBootStatusPhase 0 3).refreshHeld := rfl

theorem State.enterStandby_spec (s : State) :
    s.enterStandby.modSt.standby = true ∧ s.enterStandby.modSt.pwrEn = false ∧ s.enterStandby.rd F.devBootStatusPhase = 3 ∧
      ∀ p < partCount s.mode, s.enterStandby.partState p = 6 := by
  rw [State.enterStandby_eq]
  generalize s.endQueues (List.range 4) = e
  generalize hu : ({ e with modSt := { e.modSt with pwrEn := false, standby := true } } : State) = u
  have hpins : u.modSt.standby = true ∧ u.modSt.pwrEn = false := by
    subst hu
    exact ⟨rfl, rfl⟩
  obtain ⟨hframe, hparts⟩ := u.standbyParts_spec s.mode (partCount s.mode) (partCount_le _)
  have hmod : (u.standbyParts s.mode (partCount s.mode)).modSt = u.modSt := (State.of_besidesBoot hframe.rest).2.2.2.2.2
  generalize u.standbyParts s.mode (partCount s.mode) = v at hparts hmod
  obtain ⟨hclearMod, hclearReg⟩ := v.standbyClear_spec s.mode
  generalize v.standbyClear s.mode = w at hclearMod hclearReg
  have hphase : BootFrame [.devBootStatus] w ((w.wr F.devBootStatusPhase 0 3).refreshHeld) :=
    (BootFrame.wr_dev w F.devBootStatusPhase 3 0 (by decide)).trans (BootFrame.refreshHeld _)
  have hend : ((w.wr F.devBootStatusPhase 0 3).refreshHeld).modSt = u.modSt := hclearMod.trans hmod
  refine ⟨(congrArg ModuleSt.standby hend).trans hpins.1, (congrArg ModuleSt.pwrEn hend).trans hpins.2, ?_, fun p hp => ?_⟩
  · exact ((BootFrame.refreshHeld (rs := []) (w.wr F.devBootStatusPhase 0 3)).rd F.devBootStatusPhase (by decide) (by decide) 0).trans
      (w.rd_wr_first F.devBootStatusPhase 0 3 (by decide))
  · refine (hphase.partState (by decide) p).trans ((?_ : w.partState p = v.partState p).trans (hparts p hp))
    exact congrArg (fun x : Word => x.bits _ _) hclearReg

/-- The scratch of every region zeroed (R547). -/
def State.clearScratch (s : State) (n : Nat) : State := (List.range n).foldl (fun (u : State) r => (u.keepScratch r).zeroRegion false r) s

theorem State.modSt_zeroRange (s : State) (a n : Nat) : (s.zeroRange a n).modSt = s.modSt := by
  unfold State.zeroRange
  dsimp only
  refine (State.foldl_keeps State.modSt (fun t g => ?_) _ _).trans rfl
  refine State.foldl_keeps State.modSt (fun u i => ?_) _ t
  rfl

/-- The tiers, the module, the mode and the event rings do not change with scratch. -/
theorem State.clearScratch_spec (s : State) (n : Nat) (hn : n ≤ 4) :
    (s.clearScratch n).modSt = s.modSt ∧ (s.clearScratch n).mode = s.mode ∧ RingFrame s (s.clearScratch n) ∧
      ∀ x, x < 0x080000000000 → (s.clearScratch n).readByte x = s.readByte x := by
  induction n with
  | zero => exact ⟨rfl, rfl, RingFrame.refl s, fun _ _ => rfl⟩
  | succ n ih =>
    obtain ⟨hmod, hmode, hring, hbytes⟩ := ih (by omega)
    have hstep : s.clearScratch (n + 1) = ((s.clearScratch n).keepScratch n).zeroRange (scratchBase n) 0x100000000 := by
      unfold State.clearScratch
      rw [List.range_succ, List.foldl_append]
      rfl
    rw [hstep]
    have hkeep : BootFrame [] (s.clearScratch n) ((s.clearScratch n).keepScratch n) := BootFrame.keepScratch _ n
    have hkeepRing : RingFrame (s.clearScratch n) ((s.clearScratch n).keepScratch n) := RingFrame.keepScratch _ (by omega)
    generalize (s.clearScratch n).keepScratch n = u at hkeep hkeepRing
    have hregs := u.regs_zeroRange (scratchBase n) 0x100000000
    have hzeroMode : (u.zeroRange (scratchBase n) 0x100000000).mode = u.mode := by
      unfold State.mode State.rd State.reg
      rw [hregs]
    refine ⟨?_, hzeroMode.trans ((hkeep.mode (by decide)).trans hmode), (hring.trans hkeepRing).trans (RingFrame.of_regs_eq hregs), fun x hx => ?_⟩
    · exact (u.modSt_zeroRange _ _).trans ((State.of_besidesBoot hkeep.rest).2.2.2.2.2.trans hmod)
    · refine (u.readByte_zeroRange _ _ x).trans ((if_neg ?_).trans ((hkeep.readByte x).trans (hbytes x hx)))
      unfold scratchBase
      omega

theorem State.keepSketches_spec (l : List (Nat × Nat)) (s : State) (h : ∀ e ∈ l, lowestRegion s.mode e.1 < 4) :
    BootFrame [] s (l.foldl (fun (u : State) e => u.keepSketch e.1 e.2) s) ∧ RingFrame s (l.foldl (fun (u : State) e => u.keepSketch e.1 e.2) s) := by
  induction l generalizing s with
  | nil => exact ⟨BootFrame.refl s, RingFrame.refl s⟩
  | cons e l ih =>
    have hstep : BootFrame [] s (s.keepSketch e.1 e.2) := BootFrame.keepSketch s e.1 e.2
    obtain ⟨hframe, hring⟩ := ih (s.keepSketch e.1 e.2) fun e' he' => (hstep.mode (by decide)).symm ▸ h e' (List.mem_cons_of_mem e he')
    exact ⟨hstep.trans hframe, (RingFrame.keepSketch s e.1 e.2 (h e List.mem_cons_self)).trans hring⟩

theorem lowestRegion_lt {mode p : Nat} (hp : p < partCount mode) : lowestRegion mode p < 4 := by
  refine lt_of_mem_partRegions hp (mem_partRegions ?_)
  unfold partOfRegion lowestRegion
  refine Nat.mul_div_cancel p ?_
  unfold regionsPer partCount
  split
  · decide
  · split <;> decide

/-- The part of a standby exit before its boot. -/
def State.wake (s : State) : State :=
  let mode := s.mode
  let m := s.modSt
  let s : State := { s with modSt := { m with pwrEn := true, standby := false } }
  let held := (List.range (partCount mode)).map (fun p => (p, s.rd F.skbStatusReservedHeld (s.skbIdx p)))
  let s : State := ((s.clearTables mode (List.range 4)).clearDevice).keepRegs (fun r _ => r.keptWarm || r.keptPart false)
  let s : State := s.clearScratch 4
  let s : State := held.foldl (fun (u : State) e => u.keepSketch e.1 e.2) s
  let s : State := (s.wr F.devPartCfgModeNext 0 mode).wr F.devPartCfgPersist 0 0
  (s.wr F.devPartStatusModeChangePending 0 0).wr F.devBootStatusLastReset 0 6

theorem State.exitStandby_eq (s : State) (t : SelfTest) : s.exitStandby t = s.wake.rebootAll t s.mode := rfl

theorem State.wake_spec (s : State) :
    s.wake.modSt.standby = false ∧ s.wake.modSt.pwrEn = true ∧ s.wake.rd F.devBootStatusLastReset = 6 ∧
      (∀ x, x < 0x080000000000 → s.wake.readByte x = s.readByte x) ∧ ∀ r < 4, s.wake.evtRing r = false := by
  unfold State.wake
  dsimp only
  generalize hheld : (List.range (partCount s.mode)).map _ = held
  have hlow : ∀ e ∈ held, lowestRegion s.mode e.1 < 4 := by
    subst hheld
    intro e he
    obtain ⟨p, hp, rfl⟩ := List.mem_map.1 he
    exact lowestRegion_lt (List.mem_range.1 hp)
  generalize hu : State.clearDevice _ = u
  have hpins : u.modSt.standby = false ∧ u.modSt.pwrEn = true ∧ u.mode = s.mode ∧ ∀ x, u.readByte x = s.readByte x := by
    subst hu
    exact ⟨rfl, rfl, rfl, fun _ => rfl⟩
  obtain ⟨hstandby, hpwr, hmode, hbytes⟩ := hpins
  generalize hv : u.keepRegs (fun r _ => r.keptWarm || r.keptPart false) = v
  have hkept : v.modSt = u.modSt ∧ v.mode = u.mode ∧ (∀ x, v.readByte x = u.readByte x) ∧ ∀ r < 4, v.evtRing r = false := by
    subst hv
    refine ⟨rfl, ?_, fun _ => rfl, fun r hr => u.evtRing_keepRegs _ hr rfl⟩
    exact congrArg (fun w : Word => w.bits 1 0) ((u.reg_keepRegs _ (isReg_of_lt (r := .devPartCfg) (n := 0) (by decide))).trans (if_pos rfl))
  obtain ⟨hvMod, hvMode, hvBytes, hvRing⟩ := hkept
  obtain ⟨hwMod, hwMode, hwRing, hwBytes⟩ := v.clearScratch_spec 4 (by decide)
  generalize v.clearScratch 4 = w at hwMod hwMode hwRing hwBytes
  obtain ⟨hsketch, hsketchRing⟩ := State.keepSketches_spec held w (by rw [hwMode, hvMode, hmode]; exact hlow)
  generalize held.foldl (fun (u : State) e => u.keepSketch e.1 e.2) w = x at hsketch hsketchRing
  have hxMod : x.modSt = u.modSt := ((State.of_besidesBoot hsketch.rest).2.2.2.2.2).trans (hwMod.trans hvMod)
  have hdev : IsReg .devPartCfg 0 := isReg_of_lt (by decide)
  refine ⟨(congrArg ModuleSt.standby hxMod).trans hstandby, (congrArg ModuleSt.pwrEn hxMod).trans hpwr,
    State.rd_wr_first _ F.devBootStatusLastReset 0 6 (by decide), fun a ha => ?_, fun r hr => ?_⟩
  · exact (hsketch.readByte a).trans ((hwBytes a ha).trans ((hvBytes a).trans (hbytes a)))
  · have hcfg : RingFrame x ((((x.wr F.devPartCfgModeNext 0 s.mode).wr F.devPartCfgPersist 0 0).wr F.devPartStatusModeChangePending 0 0).wr
        F.devBootStatusLastReset 0 6) := by
      refine RingFrame.then_wr F.devBootStatusLastReset (by decide) (isReg_of_lt (by decide))
        (RingFrame.then_wr F.devPartStatusModeChangePending (by decide) (isReg_of_lt (by decide)) ?_)
      exact RingFrame.then_wr F.devPartCfgPersist (by decide) hdev (RingFrame.wr x F.devPartCfgModeNext _ _ hdev (by decide))
    exact (((hwRing.trans hsketchRing).trans hcfg) r hr).trans (hvRing r hr)

theorem State.exitStandby_spec (s : State) (t : SelfTest) :
    (s.exitStandby t).modSt.standby = false ∧ (s.exitStandby t).modSt.pwrEn = true ∧ (s.exitStandby t).rd F.devBootStatusLastReset = 6 ∧
      ∀ x, x < 0x080000000000 → (s.exitStandby t).readByte x = s.readByte x := by
  rw [State.exitStandby_eq]
  obtain ⟨hstandby, hpwr, hlast, hbytes, hring⟩ := s.wake_spec
  obtain ⟨hboot, -, hkept⟩ := s.wake.rebootAll_spec t s.mode hring
  have hmod : (s.wake.rebootAll t s.mode).modSt = s.wake.modSt := (State.of_besidesBoot hboot.rest).2.2.2.2.2
  exact ⟨(congrArg ModuleSt.standby hmod).trans hstandby, (congrArg ModuleSt.pwrEn hmod).trans hpwr, hkept.trans hlast,
    fun x hx => (hboot.readByte x).trans (hbytes x hx)⟩

-- the reset register (R545, R552)

section ResetRegister

variable {s : State} {a : Access} {q : RegWriteReq} (t : SelfTest) (hw : Writes s a .devResetCtl q)
include hw

theorem exec_coldReset : exec (.coldReset a t) s = .next
    (if q.wrote F.devResetCtlKey ≠ 0xA5 ∨ q.wrote F.devResetCtlCold = 1 then s.writeResetCtl t q else s) :=
  State.onWrite_of_writes _ hw (List.mem_singleton_self _)

theorem exec_warmReset : exec (.warmReset a t) s = .next
    (if q.wrote F.devResetCtlKey ≠ 0xA5 ∨ (q.wrote F.devResetCtlWarm = 1 ∧ q.wrote F.devResetCtlCold = 0) then s.writeResetCtl t q else s) :=
  State.onWrite_of_writes _ hw (List.mem_singleton_self _)

/-- Without its key a reset is an access error. -/
theorem exec_reset_badKey (hkey : q.wrote F.devResetCtlKey ≠ 0xA5) :
    exec (.coldReset a t) s = .next s.accessError ∧ exec (.warmReset a t) s = .next s.accessError := by
  have hbad : s.writeResetCtl t q = s.accessError := if_pos hkey
  rw [exec_coldReset t hw, exec_warmReset t hw, if_pos (.inl hkey), if_pos (.inl hkey), hbad]
  exact ⟨rfl, rfl⟩

theorem exec_coldReset_of_key (hkey : q.wrote F.devResetCtlKey = 0xA5) (hcold : q.wrote F.devResetCtlCold = 1) :
    exec (.coldReset a t) s = .next (s.coldBoot t 2) := by
  rw [exec_coldReset t hw, if_pos (.inr hcold)]
  unfold State.writeResetCtl
  rw [if_neg (not_not.2 hkey), if_pos hcold]

section Warm

variable (hkey : q.wrote F.devResetCtlKey = 0xA5) (hcold : q.wrote F.devResetCtlCold = 0) (hwarm : q.wrote F.devResetCtlWarm = 1)
include hkey hcold hwarm

theorem exec_warmReset_of_key : exec (.warmReset a t) s = .next
    (if s.modSt.standby then s.accessError else s.warmBoot t (if s.rd F.devPartCfgModeNext = s.mode then 3 else 4)) := by
  rw [exec_warmReset t hw, if_pos (.inr ⟨hwarm, hcold⟩)]
  unfold State.writeResetCtl
  rw [if_neg (not_not.2 hkey), if_neg (by rw [hcold]; decide), if_pos hwarm]

theorem exec_warmReset_of_standby (h : s.modSt.standby = true) : exec (.warmReset a t) s = .next s.accessError := by
  rw [exec_warmReset_of_key t hw hkey hcold hwarm, if_pos h]

theorem exec_warmReset_of_up (h : s.modSt.standby = false) :
    exec (.warmReset a t) s = .next (s.warmBoot t (if s.rd F.devPartCfgModeNext = s.mode then 3 else 4)) := by
  rw [exec_warmReset_of_key t hw hkey hcold hwarm, if_neg (by rw [h]; exact Bool.false_ne_true)]

end Warm

end ResetRegister

-- the module (R534 to R541)

theorem State.flash_coldStart (s : State) : s.coldStart.flash = s.flash := by
  unfold State.coldStart State.withFuses
  dsimp only
  refine (State.foldl_keeps State.flash (fun u k => ?_) _ _).trans ((State.foldl_keeps State.flash (fun u f => ?_) _ _).trans rfl)
  all_goals rfl

theorem State.powerLost_spec (s : State) (m : ModuleSt) :
    (s.powerLost m).mem = [] ∧ (s.powerLost m).flash = s.flash ∧ (s.powerLost m).modSt.mated = m.mated ∧ (s.powerLost m).modSt.mainSwitch = false ∧
      (s.powerLost m).modSt.pwrGood = false ∧ (s.powerLost m).modSt.up = false := by
  have hmem := (Blank.coldStart s).1.mem
  have hflash := s.flash_coldStart
  unfold State.powerLost
  generalize s.coldStart = u at hmem hflash
  exact ⟨hmem, hflash, rfl, rfl, rfl, rfl⟩

/-- A partition that stops reads stopped on error, and none becomes absent (R496). -/
theorem State.stopPartition_frame (s : State) {p : Nat} (hp : p < 4) :
    BootFrame [.devPartStatus] s (s.stopPartition p) ∧ (s.partState p ≠ 0 → (s.stopPartition p).partState p = 4) ∧
      ∀ q < 4, q ≠ p → (s.stopPartition p).partState q = s.partState q ∨ (s.partState q = 5 ∧ (s.stopPartition p).partState q = 2) := by
  unfold State.stopPartition
  split
  case isTrue h => exact ⟨BootFrame.refl s, fun hne => absurd h hne, fun q _ _ => .inl rfl⟩
  case isFalse h =>
    have hset : BootFrame [.devPartStatus] s (s.setPartState p 4) := BootFrame.setPartState s p 4
    have hports : BootFrame [] (s.setPartState p 4) ((partBlocks s.mode p).foldl State.portDown (s.setPartState p 4)) :=
      BootFrame.foldl (fun u b => BootFrame.portDown u b) _ _
    have hself : ((partBlocks s.mode p).foldl State.portDown (s.setPartState p 4)).partState p = 4 :=
      (hports.partState List.not_mem_nil p).trans (s.partState_setPartState_self (by omega) (by decide))
    have hothers : ∀ q, q ≠ p → ((partBlocks s.mode p).foldl State.portDown (s.setPartState p 4)).partState q = s.partState q := fun q hq =>
      (hports.partState List.not_mem_nil q).trans (s.partState_setPartState_ne 4 (by omega) hq)
    have hframe := hset.trans (hports.mono (List.nil_subset _))
    generalize (partBlocks s.mode p).foldl State.portDown (s.setPartState p 4) = u at hself hothers hframe
    refine ⟨hframe.trans (BootFrame.refreshRoot u), fun _ => ?_, fun q hq hne => hothers q hne ▸ PartKept.refreshRoot u q hq⟩
    obtain hkept | ⟨h5, -⟩ := PartKept.refreshRoot u p hp
    · exact hkept.trans hself
    · omega

/-- The partitions that have stopped so far read stopped, and those to come are not absent. -/
theorem State.stopPartitions_spec (s : State) (n : Nat) (hn : n ≤ 4) :
    BootFrame [.devPartStatus] s ((List.range n).foldl State.stopPartition s) ∧ ∀ p < 4, s.partState p ≠ 0 →
      ((List.range n).foldl State.stopPartition s).partState p ≠ 0 ∧ (p < n → ((List.range n).foldl State.stopPartition s).partState p = 4) := by
  induction n with
  | zero => exact ⟨BootFrame.refl s, fun p _ h => ⟨h, fun hlt => absurd hlt (Nat.not_lt_zero p)⟩⟩
  | succ n ih =>
    rw [List.range_succ, List.foldl_append, List.foldl_cons, List.foldl_nil]
    obtain ⟨hframe, hparts⟩ := ih (by omega)
    generalize (List.range n).foldl State.stopPartition s = u at hframe hparts
    obtain ⟨hstop, hself, hothers⟩ := u.stopPartition_frame (show n < 4 by omega)
    refine ⟨hframe.trans hstop, fun p hp hne => ?_⟩
    obtain ⟨hzero, hfour⟩ := hparts p hp hne
    by_cases he : p = n
    · subst he
      have h4 := hself hzero
      exact ⟨by omega, fun _ => h4⟩
    · have hother := hothers p hp he
      refine ⟨by omega, fun hlt => ?_⟩
      have h4 := hfour (by omega)
      omega

theorem State.deviceFault_spec (s : State) (code : Nat) :
    (s.deviceFault code).mem = s.mem ∧ ∀ p < 4, s.partState p ≠ 0 → (s.deviceFault code).partState p = 4 := by
  unfold State.deviceFault
  have hev : BootFrame [] s (s.hwEvent 0 code 0xFFFF (flags := 2)) := BootFrame.hwEvent ..
  generalize s.hwEvent 0 code 0xFFFF (flags := 2) = u at hev
  obtain ⟨hframe, hparts⟩ := u.stopPartitions_spec 4 (by decide)
  refine ⟨(State.of_besidesBoot (hframe.rest.trans hev.rest)).1, fun p hp hne => ?_⟩
  exact (hparts p hp (hev.partState List.not_mem_nil p ▸ hne)).2 hp

/-- The loss of the host leaves the device block. -/
theorem State.hostLost_dev (s : State) (cause : Nat) : (s.hostLost cause).reg .devBootStatus 0 = s.reg .devBootStatus 0 := by
  rw [State.hostLost_eq]
  have hdetach : BootFrame [] (s.linkLost cause) (s.linkLost cause).detach := by
    unfold State.detach
    refine BootFrame.ite ?_ (BootFrame.refl _)
    refine (BootFrame.wr _ F.hifSessionState 0 2 0 (by decide)).trans ?_
    unfold State.holdQueues
    exact BootFrame.foldl (fun t e => BootFrame.ite (BootFrame.wr t F.qpStatusState _ _ _ (by decide)) (BootFrame.refl t)) _ _
  have hlink : BootFrame [] s ((s.wr F.hifSessionCause 0 cause).clearReg .hifLinkStatus 0) :=
    (BootFrame.wr s F.hifSessionCause 0 cause 0 (by decide)).trans (BootFrame.clearReg _ 0 (by decide))
  exact (hdetach.regs .devBootStatus (by decide) List.not_mem_nil).trans
    ((s.reg_linkLost cause _ _).trans (hlink.regs .devBootStatus (by decide) List.not_mem_nil))

section Module

variable {s : State} {m : ModuleSt} (hm : s.modSt = m)
include hm

theorem exec_insertion (h : m.mated = false) :
    exec .insertion s = .next { s with modSt := { m with mated := true, precharged := true, mainSwitch := false } } := by
  subst hm
  exact congrArg Host.Outcome.next (if_neg (by rw [h]; exact Bool.false_ne_true))

theorem exec_mainSwitchClose (h : m.mated = true) (hpre : m.precharged = true) :
    exec .mainSwitchClose s = .next { s with modSt := { m with mainSwitch := true } } := by
  subst hm
  exact congrArg Host.Outcome.next (if_pos ⟨h, hpre⟩)

theorem exec_extraction (h : m.mated = true) : exec .extraction s = .next (s.powerLost { m with mated := false, perst := true }) := by
  subst hm
  exact congrArg Host.Outcome.next (if_pos h)

theorem exec_inputUndervoltage (h : m.mainSwitch = true) :
    exec .inputUndervoltage s = .next { s.deviceFault 0xC502 with modSt := { m with mainSwitch := false, precharged := false } } := by
  subst hm
  exact congrArg Host.Outcome.next (if_pos h)

theorem exec_inputReturn (t : SelfTest) (h : m.mated = true) (hsw : m.mainSwitch = false) (hen : m.pwrEn = true) (hclk : m.refclk = true) :
    exec (.inputReturn t) s = .next (State.coldBoot
      { s with modSt := { m with precharged := true, mainSwitch := true, up := false, pwrGood := false } } t 1) := by
  subst hm
  have hexec : exec (.inputReturn t) s = execInputReturn t s := rfl
  rw [hexec]
  unfold execInputReturn
  dsimp only
  rw [if_pos ⟨h, hsw⟩]
  exact congrArg Host.Outcome.next (if_pos ⟨hen, hclk⟩)

theorem exec_powerUp (t : SelfTest) (hsw : m.mainSwitch = true) (hen : m.pwrEn = true) (hup : m.up = false) :
    exec (.powerUp t) s = .next (if m.refclk then s.coldBoot t 1 else { s with modSt := { m with pwrGood := true } }) := by
  subst hm
  exact if_pos ⟨hsw, hen, hup⟩

/-- REFCLK goes, and the host with it (R539). -/
theorem exec_refclkLoss (hclk : m.refclk = true) (hup : m.up = true) : ∃ t, exec .refclkLoss s = .next t ∧ t.modSt.refclk = false ∧
    t.rd F.devBootStatusRefclkOk = 0 ∧ t.rd F.hifLinkStatusUp = 0 ∧ (s.rd F.hifSessionState = 1 → t.rd F.hifSessionState = 2) := by
  subst hm
  have hexec : exec .refclkLoss s = .next { (({ s with modSt := { s.modSt with refclk := false } } : State).wr F.devBootStatusRefclkOk 0 0).hostLost 1 with
      modSt := { ((({ s with modSt := { s.modSt with refclk := false } } : State).wr F.devBootStatusRefclkOk 0 0).hostLost 1).modSt with
        linkTraining := false } } := by
    show execRefclkLoss s = _
    unfold execRefclkLoss
    dsimp only
    rw [if_pos hclk, if_pos hup]
  generalize hu : ({ s with modSt := { s.modSt with refclk := false } } : State).wr F.devBootStatusRefclkOk 0 0 = u at hexec
  have hok : u.rd F.devBootStatusRefclkOk = 0 := by
    subst hu
    exact State.rd_wr_first _ F.devBootStatusRefclkOk 0 0 (by decide)
  have hses : u.rd F.hifSessionState = s.rd F.hifSessionState := by
    subst hu
    exact State.rd_wr_of_reg_ne _ (f := F.devBootStatusRefclkOk) (g := F.hifSessionState) 0 0 0 (isReg_of_lt (by decide)) (isReg_of_lt (by decide)) (by decide)
  have hclock : (u.hostLost 1).modSt.refclk = false := by
    refine (congrArg (fun x => x.modSt.refclk) (u.hostLost_rest 1) : _).trans ?_
    subst hu
    rfl
  obtain ⟨-, hlink, hstate⟩ := u.hostLost_spec (show 1 < 16 by decide)
  have hdev : (u.hostLost 1).rd F.devBootStatusRefclkOk = u.rd F.devBootStatusRefclkOk := congrArg (fun w : Word => w.bits 10 10) (u.hostLost_dev 1)
  generalize u.hostLost 1 = v at hexec hclock hlink hstate hdev
  exact ⟨_, hexec, hclock, hdev.trans hok, hlink, fun h => (hstate (hses.trans h)).1⟩

theorem exec_refclkReturn (hclk : m.refclk = false) (hup : m.up = true) : ∃ t, exec .refclkReturn s = .next t ∧ t.modSt.refclk = true ∧
    t.rd F.devBootStatusRefclkOk = 1 ∧ t.modSt.linkTraining = !m.perst := by
  subst hm
  have hexec : exec .refclkReturn s = .next (({ s with modSt := { s.modSt with refclk := true, linkTraining := s.modSt.up && !s.modSt.perst } } :
      State).wr F.devBootStatusRefclkOk 0 1) := by
    show execRefclkReturn s = _
    unfold execRefclkReturn
    dsimp only
    rw [if_neg (by rw [hclk]; exact Bool.false_ne_true), if_pos hup]
  refine ⟨_, hexec, rfl, State.rd_wr_first _ F.devBootStatusRefclkOk 0 1 (by decide), ?_⟩
  show (s.modSt.up && !s.modSt.perst) = _
  rw [hup]
  exact Bool.true_and _

/-- The link is trained (R541). -/
theorem exec_hostLinkUp {rate width : Nat} (flit : Bool) (htrain : m.linkTraining = true) (hperst : m.perst = false) (hrate : rate < 8)
    (hwidth : width < 32) : ∃ t, exec (.hostLinkUp rate width flit) s = .next t ∧ t.modSt.linkTraining = false ∧ t.rd F.hifLinkStatusUp = 1 ∧
      t.rd F.hifLinkStatusRate = rate ∧ t.rd F.hifLinkStatusWidth = width ∧ t.rd F.hifLinkStatusFlit = (if flit then 1 else 0) ∧
      OnlyRegs [(.hifLinkStatus, 0)] s { t with modSt := m } := by
  subst hm
  have hexec : exec (.hostLinkUp rate width flit) s = .next (((((({ s with modSt := { s.modSt with linkTraining := false } } : State).wr
      F.hifLinkStatusRate 0 rate).wr F.hifLinkStatusWidth 0 width).wr F.hifLinkStatusFlit 0 (if flit then 1 else 0)).wr F.hifLinkStatusUp 0 1)) := by
    show execHostLinkUp rate width flit s = _
    unfold execHostLinkUp
    dsimp only
    rw [if_pos ⟨htrain, hperst⟩]
  refine ⟨_, hexec, rfl, State.rd_wr_first _ F.hifLinkStatusUp 0 1 (by decide), ?_, ?_, ?_, ?_⟩
  · rw [State.rd_wr_disjoint _ F.hifLinkStatusUp F.hifLinkStatusRate 0 _ 0 0 rfl (by decide) (by decide),
      State.rd_wr_disjoint _ F.hifLinkStatusFlit F.hifLinkStatusRate 0 _ 0 0 rfl (by decide) (by decide),
      State.rd_wr_disjoint _ F.hifLinkStatusWidth F.hifLinkStatusRate 0 _ 0 0 rfl (by decide) (by decide)]
    exact (State.rd_wr_first _ F.hifLinkStatusRate 0 rate (by decide)).trans (Nat.mod_eq_of_lt hrate)
  · rw [State.rd_wr_disjoint _ F.hifLinkStatusUp F.hifLinkStatusWidth 0 _ 0 0 rfl (by decide) (by decide),
      State.rd_wr_disjoint _ F.hifLinkStatusFlit F.hifLinkStatusWidth 0 _ 0 0 rfl (by decide) (by decide)]
    exact (State.rd_wr_first _ F.hifLinkStatusWidth 0 width (by decide)).trans (Nat.mod_eq_of_lt hwidth)
  · rw [State.rd_wr_disjoint _ F.hifLinkStatusUp F.hifLinkStatusFlit 0 _ 0 0 rfl (by decide) (by decide)]
    refine (State.rd_wr_first _ F.hifLinkStatusFlit 0 _ (by decide)).trans (Nat.mod_eq_of_lt ?_)
    split <;> decide
  · have hlinkReg : IsReg .hifLinkStatus 0 := isReg_of_lt (by decide)
    have hfour (u : State) (v w x y : Nat) : OnlyRegs [(.hifLinkStatus, 0)] u
        ((((u.wr F.hifLinkStatusRate 0 v).wr F.hifLinkStatusWidth 0 w).wr F.hifLinkStatusFlit 0 x).wr F.hifLinkStatusUp 0 y) :=
      OnlyRegs.trans (OnlyRegs.trans (OnlyRegs.trans (u.wr_onlyRegs F.hifLinkStatusRate 0 v 0 hlinkReg)
        (State.wr_onlyRegs _ F.hifLinkStatusWidth 0 w 0 hlinkReg)) (State.wr_onlyRegs _ F.hifLinkStatusFlit 0 x 0 hlinkReg))
        (State.wr_onlyRegs _ F.hifLinkStatusUp 0 y 0 hlinkReg)
    exact hfour s rate width (if flit then 1 else 0) 1

end Module

/-- Settles O38: a reset is followed through its stages, whose frames say that the mode, the reason and the phase are kept or set, and which bytes
are zeroed; the commands of the module take the branch that their conditions name. -/
theorem resetsAndModuleEvents : Obligations.ResetsAndModuleEvents := by
  refine ⟨fun s a q st => ⟨fun p hp hw hbits hstandby hst hfwu => ?_, fun hw => ⟨fun hkey => exec_reset_badKey st hw hkey, fun hkey hcold => ?_,
    fun hkey hcold hwarm => ⟨fun h => exec_warmReset_of_standby st hw hkey hcold hwarm h, fun h => ?_⟩⟩, fun hup hsw hstandby => ?_, fun hstandby => ?_⟩,
    fun s st => ⟨fun h => exec_insertion rfl h, fun h hpre => exec_mainSwitchClose rfl h hpre, fun h => ?_, fun hsw => ?_,
      fun h hsw hen hclk => ?_, fun hsw hen hup => ⟨fun hclk => ?_, fun hclk => ?_⟩, rfl, fun hclk hup => exec_refclkLoss rfl hclk hup,
      fun hclk hup => exec_refclkReturn rfl hclk hup, fun rate width flit htrain hperst hrate hwidth => exec_hostLinkUp rfl flit htrain hperst hrate hwidth⟩⟩
  · exact ⟨_, exec_partitionReset st hw hbits, State.partRequest_spec st _ hp hstandby hst hfwu⟩
  · obtain ⟨hmem, hpoison, hqueues, htasks, hlast, hphase, hlock, -⟩ := s.coldBoot_spec st (show 2 < 16 by decide)
    exact ⟨_, exec_coldReset_of_key st hw hkey hcold, hmem, hpoison, hqueues, htasks, hlast, hphase, hlock⟩
  · exact ⟨_, exec_warmReset_of_up st hw hkey hcold hwarm h, s.warmBoot_spec st (by split <;> decide)⟩
  · exact ⟨_, if_pos ⟨hup, hsw, hstandby⟩, s.enterStandby_spec⟩
  · exact ⟨_, if_pos hstandby, s.exitStandby_spec st⟩
  · exact ⟨_, exec_extraction rfl h, s.powerLost_spec _⟩
  · obtain ⟨hmem, hparts⟩ := s.deviceFault_spec 0xC502
    exact ⟨_, exec_inputUndervoltage rfl hsw, rfl, hmem, hparts⟩
  · obtain ⟨hmem, -, -, -, hlast, hphase, -, hup, hmain⟩ := State.coldBoot_spec (why := 1)
      { s with modSt := { s.modSt with precharged := true, mainSwitch := true, up := false, pwrGood := false } } st (by decide)
    exact ⟨_, exec_inputReturn rfl st h hsw hen hclk, hmem, hmain, hup, hlast, hphase⟩
  · exact (exec_powerUp rfl st hsw hen hup).trans (congrArg Host.Outcome.next (if_pos hclk))
  · exact (exec_powerUp rfl st hsw hen hup).trans (congrArg Host.Outcome.next (if_neg (by rw [hclk]; exact Bool.false_ne_true)))

end Sys2Proof.Machine
end

section
/-! PROOFS. The canonical form of memory through the operations of the state, and of the device: events, power, firmware and repair (O59). -/

namespace Sys2Proof.Machine

open Sys2Proof.Claims

/-- A state whose memory is in its canonical form. -/
structure Canonical (s : State) : Prop where
  wf : Memory.wf s = true

/-- A state with a result, whose memory is in its canonical form. -/
structure FstCanonical {α : Type} (p : State × α) : Prop where
  fst : Canonical p.1

/-- An outcome whose next state has its memory in canonical form. -/
structure NextCanonical (o : Host.Outcome State Fault Refusal) : Prop where
  of_next : ∀ t, o = .next t → Canonical t

/-- What leaves memory and the granules of changed keys keeps the canonical form. -/
theorem Canonical.of_eq {s t : State} (hm : t.mem = s.mem) (hs : t.scrambled = s.scrambled) (h : Canonical s) : Canonical t :=
  ⟨(Memory.wf_congr hm hs).trans h.wf⟩

theorem Canonical.of_empty {s : State} (hm : s.mem = []) (hs : s.scrambled = []) : Canonical s := Canonical.of_eq (s := {}) hm hs ⟨rfl⟩

/-- A change of any other part of the state keeps the canonical form. -/
theorem Canonical.record {s : State}
    {pending : List Instr} {now : Nat} {regs : NMap Word} {poison : NMap Unit} {cores : NMap CoreSt} {stopped : List Nat}
    {downClusters : List Nat} {tasks : NMap Task} {nextTask : Nat} {saved : NMap SavedCore} {regionCtrs : NMap Nat} {nextArrival : Nat}
    {merges : List Merge} {canvases : NMap CanvasL2} {coh : Coherence} {srams : NMap RegionSram} {channels : NMap Channel}
    {stackSts : NMap StackSt} {tlbs : NMap (List TlbEntry)} {xfr : NMap XfrRing} {pages : NMap PoolPage} {queues : NMap QueueSt}
    {barReads : List BarRead} {nextBarRead : Nat} {msix : NMap Byte} {session : Session} {ports : NMap PortSt} {slots : NMap JobSlot}
    {ranks : NMap RankEntry} {ptp : PtpSt} {skbs : NMap SkbSt} {power : PwrSt} {pwrRegions : NMap PwrRegion} {fwCores : NMap FwCore}
    {staging : Option Staging} {activation : Option Activation} {normalRun : Nat} {fwWaits : List FwWait} {events : NMap EventSt} {flash : Flash}
    {sec : SecSt} {mgt : MgtSt} {modSt : ModuleSt} {freeIdx : Nat} {sent : List Sent}
    (h : Canonical s) : Canonical (State.mk
      pending now regs s.mem poison s.scrambled cores stopped downClusters tasks nextTask saved regionCtrs nextArrival merges canvases coh srams
      channels stackSts tlbs xfr pages queues barReads nextBarRead msix session ports slots ranks ptp skbs power pwrRegions fwCores staging
      activation normalRun fwWaits events flash sec mgt modSt freeIdx sent) :=
  Canonical.of_eq (s := s) rfl rfl h

theorem Canonical.ite {p : Prop} [Decidable p] {s t : State} (hs : Canonical s) (ht : Canonical t) : Canonical (if p then s else t) := by
  split
  · exact hs
  · exact ht

theorem Canonical.foldl {α : Type} {f : State → α → State} {l : List α} {s : State} (hf : ∀ t x, Canonical t → Canonical (f t x))
    (h : Canonical s) : Canonical (l.foldl f s) := by
  induction l generalizing s with
  | nil => exact h
  | cons x l ih => exact ih (hf s x h)

theorem Canonical.elim {α : Type} {o : Option α} {s : State} {f : α → State} (h : Canonical s) (hf : ∀ x, Canonical (f x)) :
    Canonical (o.elim s f) := by
  cases o with
  | none => exact h
  | some x => exact hf x

theorem Canonical.of_fst {α : Type} {p : State × α} (h : FstCanonical p) : Canonical p.1 := h.fst

theorem Canonical.of_eq_mk {α : Type} {p : State × α} {s : State} {x : α} (he : p = (s, x)) (h : FstCanonical p) : Canonical s := by
  subst he
  exact h.fst

theorem Canonical.draw {s : State} (h : Canonical s) : Canonical s.draw.2 := .record h

theorem Canonical.crypto {s : State} (h : Canonical s) : Canonical s.crypto.2 := .record h

theorem FstCanonical.pair {α : Type} {s : State} {x : α} (h : Canonical s) : FstCanonical (s, x) := ⟨h⟩

theorem FstCanonical.left {α : Type} {s : State} {x : α} (h : FstCanonical (s, x)) : Canonical s := h.fst

theorem FstCanonical.ite {α : Type} {c : Prop} [Decidable c] {p q : State × α} (hp : FstCanonical p) (hq : FstCanonical q) :
    FstCanonical (if c then p else q) := by
  split
  · exact hp
  · exact hq

theorem FstCanonical.foldl {α β : Type} {f : State × β → α → State × β} {l : List α} {p : State × β}
    (hf : ∀ q x, FstCanonical q → FstCanonical (f q x)) (h : FstCanonical p) : FstCanonical (l.foldl f p) := by
  induction l generalizing p with
  | nil => exact h
  | cons x l ih => exact ih (hf p x h)

theorem NextCanonical.next {s : State} (h : Canonical s) : NextCanonical (.next s) :=
  ⟨fun _ ht => Host.Outcome.next.inj ht ▸ h⟩

theorem NextCanonical.ite {c : Prop} [Decidable c] {o o' : Host.Outcome State Fault Refusal} (h : NextCanonical o) (h' : NextCanonical o') :
    NextCanonical (if c then o else o') := by
  split
  · exact h
  · exact h'

-- registers, memory and the hardware event queues

theorem Canonical.setReg {s : State} {r : Reg} {n : Nat} {w : Word} (h : Canonical s) : Canonical (s.setReg r n w) := .record h
theorem Canonical.wr {s : State} {f : Fld} {n v k : Nat} (h : Canonical s) : Canonical (s.wr f n v k) := .setReg h
theorem Canonical.bump {s : State} {f : Fld} {n v : Nat} (h : Canonical s) : Canonical (s.bump f n v) := .wr h
theorem Canonical.bumpSat {s : State} {f : Fld} {n v : Nat} (h : Canonical s) : Canonical (s.bumpSat f n v) := .wr h
theorem Canonical.bumpRun {s : State} {run f : Fld} {n v : Nat} (h : Canonical s) : Canonical (s.bumpRun run f n v) := .ite (.bump h) h
theorem Canonical.clearReg {s : State} {r : Reg} {n : Nat} (h : Canonical s) : Canonical (s.clearReg r n) := .setReg h
theorem Canonical.send {s : State} {m : Sent} (h : Canonical s) : Canonical (s.send m) := .record h

theorem Canonical.sensorEvent {s : State} {sensor before after : Nat} (h : Canonical s) : Canonical (s.sensorEvent sensor before after) := by
  unfold State.sensorEvent
  refine .ite h ?_
  split
  · exact .send h
  · exact h

theorem Canonical.setPartState {s : State} {p v : Nat} (h : Canonical s) : Canonical (s.setPartState p v) := .sensorEvent (.wr h)
theorem Canonical.setCore {s : State} {c : Nat} {x : CoreSt} (h : Canonical s) : Canonical (s.setCore c x) := .record h
theorem Canonical.writeByte {s : State} {a : Nat} {b : Byte} (h : Canonical s) : Canonical (s.writeByte a b) := ⟨Memory.wf_writeByte a b h.wf⟩

theorem Canonical.writeBytes {s : State} {a : Nat} {bs : List Byte} (h : Canonical s) : Canonical (s.writeBytes a bs) :=
  ⟨Memory.wf_writeBytes bs a h.wf⟩

theorem Canonical.markPoison {s : State} {b : Nat} (h : Canonical s) : Canonical (s.markPoison b) := .record h
theorem Canonical.clearPoison {s : State} {b : Nat} (h : Canonical s) : Canonical (s.clearPoison b) := .record h
theorem Canonical.zeroRange {s : State} {a n : Nat} (h : Canonical s) : Canonical (s.zeroRange a n) := ⟨Memory.wf_zeroRange a n h.wf⟩
theorem Canonical.enqueueEvent {s : State} {r : Nat} {e : EvRec} (h : Canonical s) : Canonical (s.enqueueEvent r e) := .ite (.record h) (.bump h)

theorem Canonical.hwEvent {s : State} {r code unit ctx loc detail flags : Nat} (h : Canonical s) :
    Canonical (s.hwEvent r code unit ctx loc detail flags) := .enqueueEvent h

theorem Canonical.accessError {s : State} (h : Canonical s) : Canonical s.accessError := .hwEvent h

theorem Canonical.writeMem {s : State} {a : Nat} {bs : List Byte} (h : Canonical s) : Canonical (s.writeMem a bs) :=
  .ite (.foldl (fun _ _ ht => .ite (.clearPoison ht) ht) (.writeBytes h)) (.foldl (fun _ _ ht => .hwEvent ht) (.foldl (fun _ _ ht => .ite
      (.clearPoison ht) ht) (.foldl (fun _ _ ht => .ite ht (.writeByte ht)) h)))

theorem Canonical.raiseIrq {s : State} {vector target hart iid enable : Nat} (h : Canonical s) :
    Canonical (s.raiseIrq vector target hart iid enable) := .ite h (.ite (.ite h (.send h)) (.send h))

-- the event log

theorem Canonical.retireLane {s : State} {lane : Nat} (h : Canonical s) : Canonical (s.retireLane lane) :=
  .wr (.record (.ite (.wr (.wr h)) (.wr (.wr h))))

theorem Canonical.thresholdAction {s : State} {r : Nat} {k : CountKind} {e : EvRec} (h : Canonical s) : Canonical (s.thresholdAction r k e) := by
  unfold State.thresholdAction
  split
  · exact .ite h (.record h)
  · exact .ite h (.record h)
  · exact .ite h (.retireLane h)

theorem FstCanonical.countEvent {s : State} {r : Nat} {e : EvRec} (h : Canonical s) : FstCanonical (s.countEvent r e) := by
  unfold State.countEvent
  split
  · exact .pair h
  · exact .ite (.pair h) (.pair (.record h))

theorem Canonical.evtIrq {s : State} {r : Nat} (h : Canonical s) : Canonical (s.evtIrq r) := .raiseIrq h

theorem Canonical.recordIrq {s : State} {r : Nat} {action : Bool} (h : Canonical s) : Canonical (s.recordIrq r action) :=
  .ite (.ite (.evtIrq (.record h)) (.record h)) h

theorem Canonical.evtSlotWrite {s : State} {r seq : Nat} {e : EvRec} (h : Canonical s) : Canonical (s.evtSlotWrite r seq e) := .writeMem h

theorem Canonical.logRecord {s : State} {r : Nat} {e0 : EvRec} (h : Canonical s) : Canonical (s.logRecord r e0) := by
  unfold State.logRecord
  refine .ite ?_ (.recordIrq (.bump (.ite (.evtSlotWrite (.ite (.bumpSat (.of_fst (.countEvent h))) (.of_fst (.countEvent h)))) (.record (.ite
      (.bumpSat (.of_fst (.countEvent h))) (.of_fst (.countEvent h)))))))
  split
  · exact .thresholdAction (.recordIrq (.bump (.ite (.evtSlotWrite (.ite (.bumpSat (.of_fst (.countEvent h))) (.of_fst (.countEvent h)))) (.record
      (.ite (.bumpSat (.of_fst (.countEvent h))) (.of_fst (.countEvent h)))))))
  · exact .recordIrq (.bump (.ite (.evtSlotWrite (.ite (.bumpSat (.of_fst (.countEvent h))) (.of_fst (.countEvent h)))) (.record (.ite (.bumpSat
      (.of_fst (.countEvent h))) (.of_fst (.countEvent h))))))

theorem Canonical.logDirect {s : State} {r code unit ctx loc detail flags : Nat} (h : Canonical s) :
    Canonical (s.logDirect r code unit ctx loc detail flags) := .logRecord h

theorem Canonical.drainEvents {r : Nat} {l : List EvRec} {s : State} (h : Canonical s) : Canonical (State.drainEvents r l s) := by
  induction l generalizing s with
  | nil => exact h
  | cons e l ih => exact ih (.ite (.logDirect (.logRecord h)) (.logRecord h))

theorem NextCanonical.eventDrain {region : Nat} {s : State} (h : Canonical s) : NextCanonical (execEventDrain region s) :=
  .ite (.next (.drainEvents (.record h))) (.next h)

theorem NextCanonical.eventIrqDeferred {region : Nat} {s : State} (h : Canonical s) : NextCanonical (execEventIrqDeferred region s) := by
  unfold execEventIrqDeferred
  dsimp only
  split
  · exact .ite (.next (.evtIrq (.record h))) (.next h)
  · exact .next h

-- translation

theorem Canonical.tlbFill {s : State} {key cap : Nat} {e : TlbEntry} (h : Canonical s) : Canonical (s.tlbFill key cap e) := .record h

theorem FstCanonical.translate {s : State} {u : XUnit} {ctx va : Nat} {k : AccKind} (h : Canonical s) : FstCanonical (s.translate u ctx va k) := by
  unfold State.translate
  refine .ite (.pair h) ?_
  refine .ite (.pair h) ?_
  refine .ite (.pair h) ?_
  dsimp only
  split
  · refine .pair ?_
    refine .foldl (fun _ _ ht => .ite ht (.tlbFill ht)) ?_
    split
    · exact .record (.bumpRun h)
    · exact h
  · split
    · refine .pair ?_
      split
      · exact .bumpRun h
      · exact h
    · refine .ite ?_ ?_
      · refine .pair ?_
        refine .foldl (fun _ _ ht => .tlbFill ht) ?_
        split
        · exact .bumpRun h
        · exact h
      · refine .pair ?_
        split
        · exact .bumpRun h
        · exact h

theorem Canonical.grantEvent {s : State} {pa ctx : Nat} (h : Canonical s) : Canonical (s.grantEvent pa ctx) := .hwEvent h

theorem FstCanonical.access {s : State} {u : XUnit} {ctx va : Nat} {k : AccKind} (h : Canonical s) : FstCanonical (s.access u ctx va k) := by
  unfold State.access
  split
  · next _ he => exact .pair (.of_eq_mk he (.translate h))
  · next _ _ _ _ he =>
    have h₁ := Canonical.of_eq_mk he (.translate h)
    exact .ite (.pair h₁) (.pair h₁)
  · next _ _ he =>
    have h₁ := Canonical.of_eq_mk he (.translate h)
    split
    · exact .pair h₁
    · exact .pair h₁
    · exact .pair h₁
    · exact .pair h₁
    · exact .pair h₁
    · exact .pair (.grantEvent h₁)
    · exact .pair h₁

theorem Canonical.xfrStatus {s : State} {r : Nat} (h : Canonical s) : Canonical (s.xfrStatus r) := .wr (.wr h)

theorem Canonical.xfrClose {s : State} {r : Nat} (h : Canonical s) : Canonical (s.xfrClose r) :=
  .raiseIrq (.xfrStatus (.bump (.record (.ite (.foldl (fun _ _ ht => .writeMem ht) h) h))))

theorem FstCanonical.xfrReport {s : State} {i : XfrInfo} {cause level entry : Nat} (h : Canonical s) :
    FstCanonical (s.xfrReport i cause level entry) := by
  unfold State.xfrReport
  dsimp only
  split
  · exact .pair (.record h)
  · exact .ite (.pair (.bumpSat h)) (.ite (.pair (.xfrClose (.xfrStatus (.record h)))) (.pair (.xfrStatus (.record h))))

theorem Canonical.xfrCancel {s : State} {region seq : Nat} (h : Canonical s) : Canonical (s.xfrCancel region seq) := .record h

theorem NextCanonical.faultBatchClose {region : Nat} {s : State} (h : Canonical s) : NextCanonical (execFaultBatchClose region s) := by
  unfold execFaultBatchClose
  split
  · exact .ite (.next (.xfrClose h)) (.next h)
  · exact .next h

theorem NextCanonical.streamPrefetch {cluster ctx va : Nat} {s : State} (h : Canonical s) :
    NextCanonical (execStreamPrefetch cluster ctx va s) := by
  unfold execStreamPrefetch
  refine .ite ?_ (.next h)
  refine .ite (.next h) ?_
  dsimp only
  split
  · exact .next (.tlbFill (.bumpRun h))
  · exact .next (.bumpRun h)

-- accesses

theorem Canonical.store {s : State} {q : RegWriteReq} (h : Canonical s) : Canonical (s.store q) := .setReg h

theorem NextCanonical.onWrite {s : State} {a : Access} {regs : List Reg} {f : RegWriteReq → State} (h : Canonical s) (hf : ∀ x, Canonical (f x)) :
    NextCanonical (s.onWrite a regs f) := by
  unfold State.onWrite
  split
  · exact .next (.accessError h)
  · exact .next h
  · exact .next (.ite (hf _) h)

theorem NextCanonical.invalidAccess {a : Access} {write : Bool} {s : State} (h : Canonical s) : NextCanonical (execInvalidAccess a write s) := by
  unfold execInvalidAccess
  split
  · exact .next (.accessError h)
  · exact .ite (.next (.accessError h)) (.next h)

-- stopped partitions and the root

theorem Canonical.resumePart {s : State} {p : Nat} (h : Canonical s) : Canonical (s.resumePart p) := .ite (.setPartState h) h
theorem Canonical.holdRestarts {s : State} (h : Canonical s) : Canonical s.holdRestarts := .ite (.wr (.wr (.record (.ite (.resumePart h) h)))) h
theorem Canonical.installKey {s : State} {ctx : Nat} (h : Canonical s) : Canonical (s.installKey ctx) := .wr (.record h)
theorem Canonical.serveKeys {s : State} (h : Canonical s) : Canonical s.serveKeys := .ite (.foldl (fun _ _ ht => .installKey ht) (.record h)) h

theorem Canonical.issueToken {s : State} (h : Canonical s) : Canonical s.issueToken := by
  unfold State.issueToken
  dsimp only
  exact .wr (.record (.draw h))

theorem Canonical.rootServes {s : State} (h : Canonical s) : Canonical s.rootServes := .ite (.issueToken (.serveKeys h)) (.serveKeys h)

theorem Canonical.refreshRoot {s : State} (h : Canonical s) : Canonical s.refreshRoot := by
  unfold State.refreshRoot
  refine .ite (.wr h) ?_
  dsimp only
  split
  · exact .rootServes (.bumpSat (.wr (.wr (.ite (.record (.ite (.holdRestarts (.wr h)) (.wr h))) (.ite (.holdRestarts (.wr h)) (.wr h))))))
  · exact .wr (.ite (.record (.ite (.holdRestarts (.wr h)) (.wr h))) (.ite (.holdRestarts (.wr h)) (.wr h)))

theorem Canonical.portDown {s : State} {b : Nat} (h : Canonical s) : Canonical (s.portDown b) := .wr (.wr h)

theorem Canonical.stopPartition {s : State} {p : Nat} (h : Canonical s) : Canonical (s.stopPartition p) :=
  .ite h (.refreshRoot (.foldl (fun _ _ ht => .portDown ht) (.setPartState h)))

theorem Canonical.regionFault {s : State} {r code unit : Nat} (h : Canonical s) : Canonical (s.regionFault r code unit) :=
  .stopPartition (.hwEvent h)

theorem Canonical.deviceFault {s : State} {code : Nat} (h : Canonical s) : Canonical (s.deviceFault code) :=
  .foldl (fun _ _ ht => .stopPartition ht) (.hwEvent h)

theorem Canonical.refreshSide {s : State} (h : Canonical s) : Canonical s.refreshSide := .wr h

theorem NextCanonical.regionStop {region code : Nat} {s : State} (h : Canonical s) : NextCanonical (execRegionStop region code s) :=
  .ite (.next (.regionFault h)) (.next h)

theorem NextCanonical.hostInterfaceFault {s : State} (h : Canonical s) : NextCanonical (execHostInterfaceFault s) := .next (.deviceFault h)

theorem NextCanonical.seamFail {seam : Nat} {s : State} (h : Canonical s) : NextCanonical (execSeamFail seam s) := by
  unfold execSeamFail
  dsimp only
  split
  · exact .ite (.next h) (.next (.ite (.stopPartition (.hwEvent (.wr h))) (.hwEvent (.wr h))))
  · exact .next h

-- power and thermal control

theorem Canonical.setPwr {s : State} {r : Nat} {x : PwrRegion} (h : Canonical s) : Canonical (s.setPwr r x) := .record h

theorem Canonical.refreshPwr {s : State} {r : Nat} (h : Canonical s) : Canonical (s.refreshPwr r) := by
  unfold State.refreshPwr
  dsimp only
  exact .wr (.wr (.wr (.wr (.wr h))))

theorem Canonical.regionPeriod {s : State} {power : Nat} {row : Nat × Nat × Nat × Nat} (h : Canonical s) :
    Canonical (s.regionPeriod power row) := by
  unfold State.regionPeriod
  dsimp only
  exact .bump (.refreshPwr (.bump (.wr (.wr (.wr (.wr (.setPwr h)))))))

theorem Canonical.normalPeriod {s : State} (h : Canonical s) : Canonical s.normalPeriod := by
  have hrun {n v : Nat} : Canonical (({ s with normalRun := n } : State).wr F.fwuStatusNormalMs 0 v) := .wr (.record h)
  exact .ite (.wr (.elim hrun fun _ => .resumePart hrun)) hrun

theorem NextCanonical.powerPeriod {p : PowerSample} {s : State} (h : Canonical s) : NextCanonical (execPowerPeriod p s) :=
  .next (.normalPeriod (.foldl (fun _ _ ht => .regionPeriod ht) (.wr (.wr (.wr (.wr (.bump (.record h))))))))

theorem NextCanonical.powerReport {region power : Nat} {s : State} (h : Canonical s) : NextCanonical (execPowerReport region power s) :=
  .ite (.next (.setPwr h)) (.next h)

theorem NextCanonical.powerReportTimeout {region : Nat} {s : State} (h : Canonical s) : NextCanonical (execPowerReportTimeout region s) :=
  .ite (.next (.setPwr h)) (.next h)

theorem Canonical.refreshAlert {s : State} (h : Canonical s) : Canonical s.refreshAlert := .sensorEvent (.refreshSide (.wr h))

theorem NextCanonical.thermalSample {region : Nat} {clusters easel : List ℤ} {s : State} (h : Canonical s) :
    NextCanonical (execThermalSample region clusters easel s) :=
  .ite (.ite (.next (.regionFault (.setPwr (.refreshAlert (.refreshPwr (.wr (.wr (.setPwr (.foldl (fun _ _ ht => .wr ht) h))))))))) (.next
      (.refreshAlert (.refreshPwr (.wr (.wr (.setPwr (.foldl (fun _ _ ht => .wr ht) h)))))))) (.next h)

theorem NextCanonical.fastLimitSample {mean : Nat} {s : State} (h : Canonical s) : NextCanonical (execFastLimitSample mean s) := by
  unfold execFastLimitSample
  refine .ite ?_ (.ite (.next (.foldl (fun _ _ ht => .refreshPwr ht) (.sensorEvent (.hwEvent (.bump (.wr (.record (.record h)))))))) (.next (.record
      h)))
  split
  · exact .ite (.next (.foldl (fun _ _ ht => .refreshPwr ht) (.sensorEvent (.wr (.record h))))) (.next (.record h))
  · exact .next (.record h)

theorem NextCanonical.supplyFault {s : State} (h : Canonical s) : NextCanonical (execSupplyFault s) := by
  unfold execSupplyFault
  split
  · exact .ite (.next (.deviceFault h)) (.next h)
  · exact .next h

theorem NextCanonical.droop {region depth ns : Nat} {s : State} (h : Canonical s) : NextCanonical (execDroop region depth ns s) :=
  .ite (.next (.bump h)) (.next h)

theorem NextCanonical.vddUndervoltage {region : Nat} {s : State} (h : Canonical s) : NextCanonical (execVddUndervoltage region s) :=
  .ite (.next (.regionFault h)) (.next h)

theorem NextCanonical.vddOvervoltage {region : Nat} {s : State} (h : Canonical s) : NextCanonical (execVddOvervoltage region s) :=
  .ite (.next (.regionFault h)) (.next h)

theorem NextCanonical.ageingUpdate {region : Nat} {growth required : List Nat} {s : State} (h : Canonical s) :
    NextCanonical (execAgeingUpdate region growth required s) :=
  .ite (.next (.refreshPwr (.record (.ite (.logDirect (.wr (.wr (.foldl (fun _ _ ht => .wr (.wr ht)) h)))) (.wr (.foldl (fun _ _ ht => .wr (.wr ht))
      h)))))) (.next h)

theorem Canonical.writePwrCap {s : State} {q : RegWriteReq} (h : Canonical s) : Canonical (s.writePwrCap q) :=
  .ite (.accessError (.store h)) (.store h)

theorem Canonical.writePwrShare {s : State} {q : RegWriteReq} (h : Canonical s) : Canonical (s.writePwrShare q) :=
  .ite (.store h) (.accessError (.store h))

theorem Canonical.writePwrCfg {s : State} {q : RegWriteReq} (h : Canonical s) : Canonical (s.writePwrCfg q) :=
  .ite (.accessError (.refreshPwr (.store h))) (.refreshPwr (.store h))

-- firmware cores and images

theorem Canonical.fwFollow {s : State} {fw : Nat} (h : Canonical s) : Canonical (s.fwFollow fw) := by
  unfold State.fwFollow
  split
  · exact .refreshRoot h
  · exact .refreshPwr h
  · exact h
  · exact .wr h

theorem Canonical.setFwState {s : State} {fw v : Nat} (h : Canonical s) : Canonical (s.setFwState fw v) := by
  unfold State.setFwState
  dsimp only
  exact .fwFollow (.wr h)

theorem Canonical.fwRun {s : State} {fw : Nat} (h : Canonical s) : Canonical (s.fwRun fw) := .setFwState (.ite (.setPwr (.record h)) (.record h))
theorem Canonical.fwRestart {s : State} {fw : Nat} (h : Canonical s) : Canonical (s.fwRestart fw) := .setFwState (.record h)

theorem NextCanonical.watchdogExpiry {fw : Nat} {s : State} (h : Canonical s) : NextCanonical (execWatchdogExpiry fw s) := by
  unfold execWatchdogExpiry
  dsimp only
  exact .ite (.ite (.next (.setFwState (.ite (.hwEvent (.record (.bumpSat h))) (.hwEvent (.record (.bumpSat h)))))) (.next (.fwRestart (.ite
      (.hwEvent (.record (.bumpSat h))) (.hwEvent (.record (.bumpSat h))))))) (.next h)

theorem Canonical.beginStaging {s : State} {i : ImageInfo} {bytes : Nat} {pldm : Bool} (h : Canonical s) :
    Canonical (s.beginStaging i bytes pldm) := .wr (.record h)

theorem Canonical.stageRequest {s : State} {word : Word} {digestOk signaturesOk : Bool} (h : Canonical s) :
    Canonical (s.stageRequest word digestOk signaturesOk) := by
  unfold State.stageRequest
  dsimp only
  split
  · exact .wr h
  · exact .beginStaging h

theorem Canonical.endActivation {s : State} {state result : Nat} (h : Canonical s) : Canonical (s.endActivation state result) :=
  .wr (.wr (.wr (.wr (.record h))))

theorem Canonical.activateRequest {s : State} {word : Word} {pldm : Bool} (h : Canonical s) : Canonical (s.activateRequest word pldm) := by
  unfold State.activateRequest
  dsimp only
  split
  · exact .wr h
  · refine .ite (.wr (.record h)) ?_
    split
    · exact .endActivation h
    · exact .wr (.wr (.wr (.record h)))

theorem Canonical.fwuRequest {s : State} {stage : Bool} {word : Word} {digestOk signaturesOk : Bool} (h : Canonical s) :
    Canonical (s.fwuRequest stage word digestOk signaturesOk) :=
  .ite (.accessError (.wr h)) (.ite (.record h) (.ite (.stageRequest h) (.activateRequest h)))

theorem Canonical.serveWaits {s : State} (h : Canonical s) : Canonical s.serveWaits := .ite (.foldl (fun _ _ ht => .fwuRequest ht) (.record h)) h

theorem NextCanonical.firmwareRestartDone {fw : Nat} {s : State} (h : Canonical s) : NextCanonical (execFirmwareRestartDone fw s) :=
  .ite (.next (.serveWaits (.fwRun h))) (.next h)

theorem NextCanonical.stageImage {a : Access} {digestOk signaturesOk : Bool} {s : State} (h : Canonical s) :
    NextCanonical (execStageImage a digestOk signaturesOk s) := .onWrite h (fun _ => .ite (.fwuRequest h) h)

theorem NextCanonical.stagingDone {s : State} (h : Canonical s) : NextCanonical (execStagingDone s) := by
  unfold execStagingDone
  split
  · refine .ite ?_ (.next h)
    refine .ite ?_ (.next (.wr (.wr (.record h))))
    split
    · exact .next (.send (.record (.wr (.record h))))
    · exact .next (.wr (.wr (.record h)))
  · exact .next h

theorem NextCanonical.activate {a : Access} {s : State} (h : Canonical s) : NextCanonical (execActivate a s) :=
  .onWrite h (fun _ => .ite (.fwuRequest h) h)

theorem NextCanonical.activateOnReset {a : Access} {s : State} (h : Canonical s) : NextCanonical (execActivateOnReset a s) :=
  .onWrite h (fun _ => .ite (.fwuRequest h) h)

theorem Canonical.cancelActivation {s : State} (h : Canonical s) : Canonical s.cancelActivation := .ite (.endActivation (.ite (.resumePart h) h)) h

theorem NextCanonical.activateCancel {a : Access} {s : State} (h : Canonical s) : NextCanonical (execActivateCancel a s) :=
  .onWrite h (fun _ => .ite (.cancelActivation h) h)

theorem Canonical.writeActivate {s : State} {q : RegWriteReq} (h : Canonical s) : Canonical (s.writeActivate q) :=
  .ite (.cancelActivation h) (.ite (.fwuRequest h) h)

theorem Canonical.activationRestart {s : State} {a : Activation} {p : Nat} (h : Canonical s) : Canonical (s.activationRestart a p) :=
  .wr (.record (.foldl (fun _ _ ht => .setFwState ht) h))

theorem Canonical.recordBank {s : State} {p t : Nat} (h : Canonical s) : Canonical (s.recordBank p t) := by
  unfold State.recordBank
  split
  · exact h
  · exact .ite (.wr (.wr (.record (.foldl (fun _ _ ht => .wr (.record ht)) h)))) (.record (.foldl (fun _ _ ht => .wr (.record ht)) h))

theorem Canonical.activationNext {s : State} {a : Activation} {p : Nat} (h : Canonical s) : Canonical (s.activationNext a p) := by
  unfold State.activationNext
  dsimp only
  split
  · exact .endActivation (.resumePart (.foldl (fun _ _ ht => .recordBank ht) h))
  · exact .wr (.wr (.record (.resumePart (.foldl (fun _ _ ht => .recordBank ht) h))))

theorem NextCanonical.activationQuiesce {s : State} (h : Canonical s) : NextCanonical (execActivationQuiesce s) := by
  unfold execActivationQuiesce
  split
  · exact .next h
  · split
    · exact .next h
    · refine .ite ?_ (.next (.ite (.wr (.setPartState (.record h))) h))
      dsimp only
      split
      · exact .ite (.next (.activationNext (.activationRestart (.ite (.wr (.setPartState (.record h))) h)))) (.next (.activationRestart (.ite (.wr
          (.setPartState (.record h))) h)))
      · exact .next (.activationRestart (.ite (.wr (.setPartState (.record h))) h))

theorem NextCanonical.quiesceTimeout {s : State} (h : Canonical s) : NextCanonical (execQuiesceTimeout s) := by
  unfold execQuiesceTimeout
  split
  · exact .ite (.next (.endActivation (.resumePart h))) (.next h)
  · exact .next h

theorem NextCanonical.confirmTimeout {s : State} (h : Canonical s) : NextCanonical (execConfirmTimeout s) := by
  unfold execConfirmTimeout
  split
  · exact .ite (.next (.endActivation (.resumePart (.foldl (fun _ _ ht => .ite (.foldl (fun _ _ hu => .fwRestart hu) ht) (.recordBank ht)) h))))
      (.next h)
  · exact .next h

theorem NextCanonical.activationConfirm {fw : Nat} {s : State} (h : Canonical s) : NextCanonical (execActivationConfirm fw s) := by
  unfold execActivationConfirm
  split
  · exact .ite (.ite (.next (.record (.fwRun h))) (.ite (.next (.setFwState (.record (.fwRun h)))) (.next (.serveWaits (.activationNext (.fwRun
      h)))))) (.next h)
  · exact .next h

theorem NextCanonical.fwuNoRootTimeout {s : State} (h : Canonical s) : NextCanonical (execFwuNoRootTimeout s) := by
  unfold execFwuNoRootTimeout
  split
  · exact .ite (.next (.wr (.record h))) (.next h)
  · exact .next h

-- repair and calibration

theorem NextCanonical.rowRetire {addr : Nat} {s : State} (h : Canonical s) : NextCanonical (execRowRetire addr s) := by
  unfold execRowRetire
  split
  · dsimp only
    split
    · exact .next h
    · exact .ite (.next (.hwEvent (.bumpSat (.record (.record h))))) (.next (.hwEvent (.bumpSat (.record (.record h)))))
  · exact .next h

theorem Canonical.refreshPorts {s : State} {b : Nat} (h : Canonical s) : Canonical (s.refreshPorts b) := .wr (.wr h)
theorem Canonical.setLane {s : State} {lane : Nat} {up : Bool} (h : Canonical s) : Canonical (s.setLane lane up) := .refreshPorts (.record h)

theorem NextCanonical.laneRetrain {lane : Nat} {s : State} (h : Canonical s) : NextCanonical (execLaneRetrain lane s) :=
  .ite (.next (.hwEvent (.setLane h))) (.next h)

theorem NextCanonical.laneTrainingDone {lane : Nat} {s : State} (h : Canonical s) : NextCanonical (execLaneTrainingDone lane s) :=
  .ite (.next (.setLane h)) (.next h)

theorem Canonical.writeEvtBase {s : State} {q : RegWriteReq} (h : Canonical s) : Canonical (s.writeEvtBase q) :=
  .ite (.accessError h) (.ite (.foldl (fun _ _ ht => .evtSlotWrite ht) (.record (.store h))) (.store h))

theorem NextCanonical.evtBaseWrite {a : Access} {s : State} (h : Canonical s) : NextCanonical (execEvtBaseWrite a s) :=
  .onWrite h (fun _ => .writeEvtBase h)

theorem Canonical.setRange {s : State} {a n : Nat} {cells : List Host.Cell} (h : Canonical s) : Canonical (s.setRange a n cells) :=
  .foldl (fun _ _ ht => .writeByte ht) (.zeroRange h)

theorem Canonical.calExport {s : State} (h : Canonical s) : Canonical s.calExport := .ite (.setRange h) (.accessError h)

theorem Canonical.calImport {s : State} {rangesOk force : Bool} (h : Canonical s) : Canonical (s.calImport rangesOk force) :=
  .ite (.wr (.wr (.record (.wr h)))) (.wr h)

theorem NextCanonical.calExport {a : Access} {s : State} (h : Canonical s) : NextCanonical (execCalExport a s) :=
  .onWrite h (fun _ => .ite (.calExport h) h)

theorem NextCanonical.calImport {a : Access} {rangesOk : Bool} {s : State} (h : Canonical s) : NextCanonical (execCalImport a rangesOk s) :=
  .onWrite h (fun _ => .ite (.calImport h) h)

theorem Canonical.writeRasCfg {s : State} {q : RegWriteReq} (h : Canonical s) : Canonical (s.writeRasCfg q) :=
  .ite (.store h) (.accessError (.store h))

theorem Canonical.writeIsolate {s : State} {q : RegWriteReq} (h : Canonical s) : Canonical (s.writeIsolate q) := .record (.store h)

end Sys2Proof.Machine
end

section
/-! PROOFS. The canonical form of memory through keys, management, journals and ports (O59). -/

namespace Sys2Proof.Machine

open Sys2Proof.Claims

-- attestation and keys

theorem Canonical.reply {s : State} {m : Medium} {code : Nat} {bytes : List Byte} (h : Canonical s) : Canonical (s.reply m code bytes) := .send h
theorem Canonical.spdmError {s : State} {m : Medium} {code data : Nat} (h : Canonical s) : Canonical (s.spdmError m code data) := .reply h

theorem Canonical.spdm {s : State} {m : Medium} {f : State → State} (h : Canonical s) (hf : ∀ t, Canonical t → Canonical (f t)) :
    Canonical (s.spdm m f) := by
  unfold State.spdm
  split
  · exact .spdmError h
  · exact hf _ h

theorem Canonical.setSpdmConn {s : State} {m : Medium} {c : SpdmConn} (h : Canonical s) : Canonical (s.setSpdmConn m c) := .record h

theorem NextCanonical.getVersion {m : Medium} {s : State} (h : Canonical s) : NextCanonical (execGetVersion m s) :=
  .next (.spdm h (fun _ ht => .reply (.setSpdmConn ht)))

theorem NextCanonical.getCapabilities {m : Medium} {version : Nat} {s : State} (h : Canonical s) :
    NextCanonical (execGetCapabilities m version s) := .next (.spdm h (fun _ ht => .ite (.spdmError ht) (.reply (.setSpdmConn ht))))

theorem NextCanonical.negotiateAlgorithms {m : Medium} {s : State} (h : Canonical s) : NextCanonical (execNegotiateAlgorithms m s) :=
  .next (.spdm h (fun _ ht => .ite (.reply (.setSpdmConn ht)) (.spdmError ht)))

theorem Canonical.spdmReady {s : State} {m : Medium} {f : State → State} (h : Canonical s) (hf : ∀ t, Canonical t → Canonical (f t)) :
    Canonical (s.spdmReady m f) := .spdm h (fun _ ht => .ite ((hf _) ht) (.spdmError ht))

theorem NextCanonical.getDigests {m : Medium} {s : State} (h : Canonical s) : NextCanonical (execGetDigests m s) := by
  unfold execGetDigests
  dsimp only
  exact .next (.spdmReady h (fun _ ht => .reply (.crypto ht)))

theorem NextCanonical.getCertificate {m : Medium} {slot offset len : Nat} {s : State} (h : Canonical s) :
    NextCanonical (execGetCertificate m slot offset len s) := by
  unfold execGetCertificate
  dsimp only
  exact .next (.spdmReady h (fun _ ht => .ite (.spdmError ht) (.reply (.crypto ht))))

theorem NextCanonical.challenge {m : Medium} {slot : Nat} {s : State} (h : Canonical s) : NextCanonical (execChallenge m slot s) := by
  unfold execChallenge
  dsimp only
  exact .next (.spdmReady h (fun _ ht => .ite (.spdmError ht) (.reply (.crypto ht))))

theorem NextCanonical.getMeasurements {m : Medium} {index slot : Nat} {signed : Bool} {s : State} (h : Canonical s) :
    NextCanonical (execGetMeasurements m index slot signed s) := by
  unfold execGetMeasurements
  refine .next ?_
  refine .spdmReady h (fun _ ht => ?_)
  refine .ite (.spdmError ht) ?_
  refine .ite (.ite (.reply (.crypto ht)) (.reply ht)) ?_
  refine .ite (.ite (.reply (.crypto ht)) (.reply ht)) ?_
  split
  · exact .ite (.reply (.crypto ht)) (.reply ht)
  · exact .spdmError ht

theorem Canonical.setSessions {s : State} {l : List SpdmSession} (h : Canonical s) : Canonical (s.setSessions l) := .wr (.record h)

theorem NextCanonical.keyExchange {m : Medium} {slot : Nat} {s : State} (h : Canonical s) : NextCanonical (execKeyExchange m slot s) := by
  unfold execKeyExchange
  dsimp only
  exact .next (.spdmReady h (fun _ ht => .ite (.spdmError ht) (.ite (.spdmError ht) (.reply (.crypto (.setSessions (.record ht)))))))

theorem Canonical.inSession {s : State} {id : Nat} {f : SpdmSession → State → State} (h : Canonical s) (hf : ∀ x t, Canonical t → Canonical (f x t)) :
    Canonical (s.inSession id f) := by
  unfold State.inSession
  split
  · exact .spdm h (fun _ ht => (hf _ _) ht)
  · exact .spdmError h

theorem Canonical.setSession {s : State} {x : SpdmSession} (h : Canonical s) : Canonical (s.setSession x) := .setSessions h

theorem NextCanonical.finish {session : Nat} {s : State} (h : Canonical s) : NextCanonical (execFinish session s) :=
  .next (.inSession h (fun _ _ ht => .reply (.setSession ht)))

theorem NextCanonical.heartbeat {session : Nat} {s : State} (h : Canonical s) : NextCanonical (execHeartbeat session s) :=
  .next (.inSession h (fun _ _ ht => .ite (.reply (.setSession ht)) (.spdmError ht)))

theorem NextCanonical.keyUpdate {session : Nat} {s : State} (h : Canonical s) : NextCanonical (execKeyUpdate session s) :=
  .next (.inSession h (fun _ _ ht => .ite (.reply (.setSession ht)) (.spdmError ht)))

theorem NextCanonical.endSession {session : Nat} {s : State} (h : Canonical s) : NextCanonical (execEndSession session s) :=
  .next (.inSession h (fun _ _ ht => .reply (.setSessions ht)))

theorem Canonical.vendorReply {s : State} {m : Medium} {status : Nat} {body : List Byte} (h : Canonical s) :
    Canonical (s.vendorReply m status body) := .reply h

theorem Canonical.vendor {s : State} {ch : SpdmChan} {f : State → State} (h : Canonical s) (hf : ∀ t, Canonical t → Canonical (f t)) :
    Canonical (s.vendor ch f) := .spdm h (fun _ ht => .ite ((hf _) ht) (.spdmError ht))

theorem NextCanonical.getSessionToken {ch : SpdmChan} {s : State} (h : Canonical s) : NextCanonical (execGetSessionToken ch s) := by
  unfold execGetSessionToken
  refine .next ?_
  refine .vendor h (fun _ ht => ?_)
  split
  · exact .ite (.vendorReply ht) (.vendorReply (.record ht))
  · exact .vendorReply ht

theorem Canonical.refreshSa {s : State} {b : Nat} (h : Canonical s) : Canonical (s.refreshSa b) := .wr (.wr h)

theorem NextCanonical.macsecSetSa {ch : SpdmChan} {sa : SaFields} {s : State} (h : Canonical s) : NextCanonical (execMacsecSetSa ch sa s) := by
  unfold execMacsecSetSa
  refine .next ?_
  refine .vendor h (fun _ ht => ?_)
  split
  · exact .vendorReply ht
  · exact .ite (.vendorReply ht) (.ite (.vendorReply (.refreshSa (.record ht))) (.vendorReply (.record ht)))

theorem NextCanonical.macsecClearSa {ch : SpdmChan} {port dir an sci : Nat} {s : State} (h : Canonical s) :
    NextCanonical (execMacsecClearSa ch port dir an sci s) := by
  unfold execMacsecClearSa
  refine .next ?_
  refine .vendor h (fun _ ht => ?_)
  split
  · exact .vendorReply ht
  · exact .ite (.vendorReply ht) (.vendorReply (.refreshSa (.record ht)))

theorem NextCanonical.setPolicy {ch : SpdmChan} {requireIde bmcCap bmcKeys bmcFwu : Nat} {s : State} (h : Canonical s) :
    NextCanonical (execSetPolicy ch requireIde bmcCap bmcKeys bmcFwu s) :=
  .next (.vendor h (fun _ ht => .ite (.vendorReply ht) (.ite (.vendorReply ht) (.vendorReply (.record ht)))))

theorem Canonical.ideKm {s : State} {ch : SpdmChan} {f : State → State} (h : Canonical s) (hf : ∀ t, Canonical t → Canonical (f t)) :
    Canonical (s.ideKm ch f) := .spdm h (fun _ ht => .ite ((hf _) ht) (.spdmError ht))

theorem Canonical.refreshIde {s : State} (h : Canonical s) : Canonical s.refreshIde := .wr h

theorem NextCanonical.query {ch : SpdmChan} {s : State} (h : Canonical s) : NextCanonical (execQuery ch s) :=
  .next (.ideKm h (fun _ ht => .reply ht))

theorem NextCanonical.keyProg {ch : SpdmChan} {stream set sub : Nat} {s : State} (h : Canonical s) :
    NextCanonical (execKeyProg ch stream set sub s) := .next (.ideKm h (fun _ ht => .ite (.reply ht) (.reply (.refreshIde (.record ht)))))

theorem Canonical.ideMark {s : State} {stream set sub : Nat} {go : Bool} (h : Canonical s) : Canonical (s.ideMark stream set sub go) :=
  .refreshIde (.record h)

theorem NextCanonical.kSetGo {ch : SpdmChan} {stream set sub : Nat} {s : State} (h : Canonical s) :
    NextCanonical (execKSetGo ch stream set sub s) := .next (.ideKm h (fun _ ht => .reply (.ideMark ht)))

theorem NextCanonical.kSetStop {ch : SpdmChan} {stream set sub : Nat} {s : State} (h : Canonical s) :
    NextCanonical (execKSetStop ch stream set sub s) := .next (.ideKm h (fun _ ht => .reply (.ideMark ht)))

theorem NextCanonical.ideCheckFail {stream : Nat} {s : State} (h : Canonical s) : NextCanonical (execIdeCheckFail stream s) :=
  .ite (.next (.send (.bumpSat (.refreshIde (.record h))))) (.next h)

theorem Canonical.writeSecCfg {s : State} {q : RegWriteReq} (h : Canonical s) : Canonical (s.writeSecCfg q) := by
  unfold State.writeSecCfg
  dsimp only
  exact .store (.of_fst (.ite (.pair (.of_fst (.ite (.pair h) (.ite (.pair (.wr (.wr h))) (.pair (.accessError h)))))) (.ite (.pair (.wr (.wr
      (.of_fst (.ite (.pair h) (.ite (.pair (.wr (.wr h))) (.pair (.accessError h)))))))) (.pair (.accessError (.of_fst (.ite (.pair h) (.ite (.pair
      (.wr (.wr h))) (.pair (.accessError h))))))))))

theorem NextCanonical.macsecTxAnWrite {a : Access} {s : State} (h : Canonical s) : NextCanonical (execMacsecTxAnWrite a s) :=
  .onWrite h (fun _ => .writeSecCfg h)

theorem Canonical.eraseKey {s : State} {ctx : Nat} (h : Canonical s) : Canonical (s.eraseKey ctx) := .wr (.record h)

theorem Canonical.writeMemCrypt {s : State} {q : RegWriteReq} (h : Canonical s) : Canonical (s.writeMemCrypt q) :=
  .ite h (.ite (.accessError h) (.ite (.serveKeys (.record (.wr h))) (.eraseKey (.wr h))))

theorem NextCanonical.memCryptEnable {a : Access} {s : State} (h : Canonical s) : NextCanonical (execMemCryptEnable a s) :=
  .onWrite h (fun _ => .writeMemCrypt h)

theorem Canonical.scramble {s : State} {granule : Nat} (h : Canonical s) : Canonical (s.scramble granule) := ⟨Memory.wf_scramble granule h.wf⟩

-- management

theorem NextCanonical.mctp {s : State} {m : Medium} {f : State → State} (h : Canonical s) (hf : ∀ t, Canonical t → Canonical (f t)) :
    NextCanonical (s.mctp m f) := .next (.ite h ((hf _) h))

theorem Canonical.control {s : State} {m : Medium} {code : Nat} {bytes : List Byte} (h : Canonical s) : Canonical (s.control m code bytes) :=
  .send h

theorem Canonical.pldm {s : State} {m : Medium} {code cc : Nat} {bytes : List Byte} (h : Canonical s) : Canonical (s.pldm m code cc bytes) :=
  .send h

theorem NextCanonical.pldmRequest {s : State} {m : Medium} {code : Nat} {f : State → State} (h : Canonical s)
    (hf : ∀ t, Canonical t → Canonical (f t)) :
    NextCanonical (s.pldmRequest m code f) := .mctp h (fun _ ht => .ite ((hf _) ht) (.pldm ht))

theorem NextCanonical.setEndpointId {m : Medium} {eid : Nat} {s : State} (h : Canonical s) : NextCanonical (execSetEndpointId m eid s) :=
  .mctp h (fun _ ht => .control (.record ht))

theorem NextCanonical.getEndpointId {m : Medium} {s : State} (h : Canonical s) : NextCanonical (execGetEndpointId m s) :=
  .mctp h (fun _ ht => .control ht)

theorem NextCanonical.getEndpointUuid {m : Medium} {s : State} (h : Canonical s) : NextCanonical (execGetEndpointUuid m s) :=
  .mctp h (fun _ ht => .control ht)

theorem NextCanonical.getMctpVersionSupport {m : Medium} {s : State} (h : Canonical s) : NextCanonical (execGetMctpVersionSupport m s) :=
  .mctp h (fun _ ht => .control ht)

theorem NextCanonical.getMessageTypeSupport {m : Medium} {s : State} (h : Canonical s) : NextCanonical (execGetMessageTypeSupport m s) :=
  .mctp h (fun _ ht => .control ht)

theorem NextCanonical.setdasa {static dynamic : Nat} {s : State} (h : Canonical s) : NextCanonical (execSetdasa static dynamic s) :=
  .next (.ite (.record h) h)

theorem NextCanonical.entdaa {dynamic : Nat} {s : State} (h : Canonical s) : NextCanonical (execEntdaa dynamic s) := .next (.ite (.record h) h)

theorem NextCanonical.setTid {m : Medium} {tid : Nat} {s : State} (h : Canonical s) : NextCanonical (execSetTid m tid s) :=
  .pldmRequest h (fun _ ht => .pldm (.record ht))

theorem NextCanonical.getTid {m : Medium} {s : State} (h : Canonical s) : NextCanonical (execGetTid m s) := .pldmRequest h (fun _ ht => .pldm ht)

theorem NextCanonical.getPldmVersion {m : Medium} {s : State} (h : Canonical s) : NextCanonical (execGetPldmVersion m s) := by
  unfold execGetPldmVersion
  dsimp only
  exact .pldmRequest h (fun _ ht => .pldm (.draw ht))

theorem NextCanonical.getPldmTypes {m : Medium} {s : State} (h : Canonical s) : NextCanonical (execGetPldmTypes m s) :=
  .pldmRequest h (fun _ ht => .pldm ht)

theorem NextCanonical.getPldmCommands {m : Medium} {ty : Nat} {s : State} (h : Canonical s) : NextCanonical (execGetPldmCommands m ty s) :=
  .pldmRequest h (fun _ ht => .ite (.pldm ht) (.pldm ht))

theorem NextCanonical.getPdrRepositoryInfo {m : Medium} {s : State} (h : Canonical s) : NextCanonical (execGetPdrRepositoryInfo m s) :=
  .pldmRequest h (fun _ ht => .pldm ht)

theorem NextCanonical.getPdr {m : Medium} {id : Nat} {s : State} (h : Canonical s) : NextCanonical (execGetPdr m id s) :=
  .pldmRequest h (fun _ ht => .ite (.pldm ht) (.pldm ht))

theorem NextCanonical.getSensorReading {m : Medium} {id : Nat} {s : State} (h : Canonical s) : NextCanonical (execGetSensorReading m id s) := by
  unfold execGetSensorReading
  refine .pldmRequest h (fun _ ht => ?_)
  split
  all_goals exact .pldm ht

theorem NextCanonical.getStateSensorReadings {m : Medium} {id : Nat} {s : State} (h : Canonical s) :
    NextCanonical (execGetStateSensorReadings m id s) := by
  unfold execGetStateSensorReadings
  refine .pldmRequest h (fun _ ht => ?_)
  split
  all_goals exact .pldm ht

theorem NextCanonical.setNumericEffecterValue {m : Medium} {id value : Nat} {s : State} (h : Canonical s) :
    NextCanonical (execSetNumericEffecterValue m id value s) :=
  .pldmRequest h (fun _ ht => .ite (.pldm ht) (.ite (.pldm ht) (.ite (.ite (.pldm ht) (.pldm (.wr ht))) (.ite (.pldm ht) (.pldm (.wr ht))))))

theorem NextCanonical.getNumericEffecterValue {m : Medium} {id : Nat} {s : State} (h : Canonical s) :
    NextCanonical (execGetNumericEffecterValue m id s) := .pldmRequest h (fun _ ht => .ite (.pldm ht) (.ite (.pldm ht) (.pldm ht)))

theorem Canonical.startPulse {s : State} (h : Canonical s) : Canonical s.startPulse := .refreshSide (.record h)

theorem Canonical.markPulse {s : State} {p : Nat} (h : Canonical s) : Canonical (s.markPulse p) :=
  .ite (.ite (.startPulse h) (.ite (.bump h) (.bumpSat h))) h

theorem Canonical.changeSide {s : State} {func : Nat} (h : Canonical s) : Canonical (s.changeSide func) := .ite h (.wr (.wr (.bumpSat (.record h))))

theorem FstCanonical.sideWrite {s : State} {func level part : Nat} (h : Canonical s) : FstCanonical (s.sideWrite func level part) :=
  .ite (.pair (.accessError h)) (.ite (.pair (.refreshSide (.wr (.wr (.wr (.changeSide h)))))) (.ite (.pair (.refreshSide (.wr (.wr (.wr
      (.changeSide h)))))) (.ite (.pair (.wr h)) (.pair (.refreshSide (.wr (.wr (.wr (.changeSide h)))))))))

theorem Canonical.writeSide {s : State} {q : RegWriteReq} (h : Canonical s) : Canonical (s.writeSide q) := .ite (.of_fst (.sideWrite h)) h

theorem NextCanonical.sideCfgWrite {a : Access} {s : State} (h : Canonical s) : NextCanonical (execSideCfgWrite a s) :=
  .onWrite h (fun _ => .writeSide h)

theorem NextCanonical.setStateEffecterStates {m : Medium} {id state : Nat} {s : State} (h : Canonical s) :
    NextCanonical (execSetStateEffecterStates m id state s) := by
  unfold execSetStateEffecterStates
  dsimp only
  exact .pldmRequest h (fun _ ht => .ite (.pldm ht) (.ite (.pldm ht) (.pldm (.of_fst (.sideWrite ht)))))

theorem NextCanonical.sidePulseEnd {s : State} (h : Canonical s) : NextCanonical (execSidePulseEnd s) := by
  unfold execSidePulseEnd
  dsimp only
  split
  · exact .ite (.next (.refreshSide (.record h))) (.next h)
  · exact .ite (.ite (.next (.startPulse (.wr (.record h)))) (.next (.record h))) (.next h)
  · exact .next h

theorem NextCanonical.setEventReceiver {m : Medium} {eid : Nat} {s : State} (h : Canonical s) : NextCanonical (execSetEventReceiver m eid s) :=
  .pldmRequest h (fun _ ht => .pldm (.record ht))

theorem NextCanonical.getFruRecordTableMetadata {m : Medium} {s : State} (h : Canonical s) : NextCanonical (execGetFruRecordTableMetadata m s) :=
  .pldmRequest h (fun _ ht => .pldm ht)

theorem NextCanonical.getFruRecordTable {m : Medium} {s : State} (h : Canonical s) : NextCanonical (execGetFruRecordTable m s) :=
  .pldmRequest h (fun _ ht => .pldm ht)

theorem NextCanonical.updateCommand {s : State} {m : Medium} {code : Nat} {f : State → State} (h : Canonical s)
    (hf : ∀ t, Canonical t → Canonical (f t)) :
    NextCanonical (s.updateCommand m code f) := .pldmRequest h (fun _ ht => .ite (.pldm ht) ((hf _) ht))

theorem NextCanonical.inUpdate {s : State} {m : Medium} {code : Nat} {f : PldmUpdate → State → State} (h : Canonical s)
    (hf : ∀ x t, Canonical t → Canonical (f x t)) :
    NextCanonical (s.inUpdate m code f) := by
  unfold State.inUpdate
  refine .updateCommand h (fun _ ht => ?_)
  split
  · exact hf _ _ ht
  · exact .pldm ht

theorem Canonical.setUpdate {s : State} {u : Option PldmUpdate} (h : Canonical s) : Canonical (s.setUpdate u) := .record h

theorem NextCanonical.requestUpdate {m : Medium} {s : State} (h : Canonical s) : NextCanonical (execRequestUpdate m s) :=
  .updateCommand h (fun _ ht => .ite (.pldm (.wr (.setUpdate ht))) (.pldm ht))

theorem NextCanonical.passComponentTable {m : Medium} {types : List Nat} {s : State} (h : Canonical s) :
    NextCanonical (execPassComponentTable m types s) := .inUpdate h (fun _ _ ht => .ite (.pldm (.setUpdate ht)) (.pldm ht))

theorem NextCanonical.updateComponent {m : Medium} {ty : Nat} {image : List Byte} {digestOk signaturesOk : Bool} {s : State} (h : Canonical s) :
    NextCanonical (execUpdateComponent m ty image digestOk signaturesOk s) := by
  unfold execUpdateComponent
  refine .inUpdate h (fun _ _ ht => ?_)
  refine .ite (.pldm ht) ?_
  dsimp only
  split
  · exact .send (.wr (.send (.send (.pldm ht))))
  · exact .beginStaging (.setUpdate (.send (.send (.send (.pldm ht)))))

theorem NextCanonical.activateFirmware {m : Medium} {s : State} (h : Canonical s) : NextCanonical (execActivateFirmware m s) :=
  .inUpdate h (fun _ _ ht => .ite (.pldm ht) (.pldm (.activateRequest (.wr (.setUpdate ht)))))

theorem NextCanonical.getStatus {m : Medium} {s : State} (h : Canonical s) : NextCanonical (execGetStatus m s) :=
  .updateCommand h (fun _ ht => .pldm ht)

theorem Canonical.dropStaging {s : State} (h : Canonical s) : Canonical s.dropStaging := by
  unfold State.dropStaging
  split
  · exact .ite (.record h) h
  · exact h

theorem NextCanonical.cancelUpdateComponent {m : Medium} {s : State} (h : Canonical s) : NextCanonical (execCancelUpdateComponent m s) :=
  .inUpdate h (fun _ _ ht => .pldm (.dropStaging (.setUpdate ht)))

theorem NextCanonical.cancelUpdate {m : Medium} {s : State} (h : Canonical s) : NextCanonical (execCancelUpdate m s) :=
  .inUpdate h (fun _ _ ht => .pldm (.wr (.dropStaging (.setUpdate ht))))

theorem NextCanonical.recoveryImage {region : Nat} {image : List Byte} {digestOk signaturesOk : Bool} {s : State} (h : Canonical s) :
    NextCanonical (execRecoveryImage region image digestOk signaturesOk s) := by
  unfold execRecoveryImage
  refine .ite ?_ (.next h)
  split
  · exact .ite (.next (.serveWaits (.fwRun (.record h)))) (.next h)
  · exact .next h

-- the journals of sketchbooks

theorem Canonical.setSkb {s : State} {p : Nat} {k : SkbSt} (h : Canonical s) : Canonical (s.setSkb p k) := .record h
theorem Canonical.skbOcc {s : State} {p : Nat} (h : Canonical s) : Canonical (s.skbOcc p) := .wr h

theorem Canonical.skbPush {s : State} {p kind : Nat} {digest : Bool} {ctx source : Nat} {payload : List Byte} (h : Canonical s) :
    Canonical (s.skbPush p kind digest ctx source payload) := .skbOcc (.setSkb h)

theorem Canonical.skbEnd {s : State} {p reason : Nat} (h : Canonical s) : Canonical (s.skbEnd p reason) := .wr (.setSkb (.skbPush h))

theorem Canonical.journal {s : State} {p kind ctx source : Nat} {payload : List Byte} {digest : Bool} (h : Canonical s) :
    Canonical (s.journal p kind ctx source payload digest) := .ite (.skbPush h) (.wr (.skbEnd h))

theorem Canonical.journalCtx {s : State} {ctx kind source : Nat} {payload : List Byte} {digest : Bool} (h : Canonical s) :
    Canonical (s.journalCtx ctx kind source payload digest) := .ite (.journal h) h

theorem Canonical.diverge {s : State} {p cause seq : Nat} (h : Canonical s) : Canonical (s.diverge p cause seq) := .ite (.wr (.wr (.wr h))) h
theorem Canonical.replayEnd {s : State} {p : Nat} (h : Canonical s) : Canonical (s.replayEnd p) := .ite (.wr h) h
theorem Canonical.consumeKeyed {s : State} {p seq : Nat} (h : Canonical s) : Canonical (s.consumeKeyed p seq) := .replayEnd (.setSkb h)

-- ports

theorem Canonical.setJob {s : State} {n : Nat} {j : JobSlot} (h : Canonical s) : Canonical (s.setJob n j) := .record h
theorem Canonical.setPort {s : State} {b : Nat} {x : PortSt} (h : Canonical s) : Canonical (s.setPort b x) := .record h

theorem Canonical.settlePfc {s : State} {b prio : Nat} (h : Canonical s) : Canonical (s.settlePfc b prio) :=
  .ite (.foldl (fun _ _ ht => .send ht) (.setPort h)) (.ite (.foldl (fun _ _ ht => .send ht) (.setPort h)) h)

theorem Canonical.bufferFrame {s : State} {b : Nat} {f : Frame} (h : Canonical s) : Canonical (s.bufferFrame b f) := by
  unfold State.bufferFrame
  split
  · exact .ite (.send h) (.bump h)
  · refine .ite (.bump h) ?_
    split
    · exact .bump h
    · exact .settlePfc (.setPort h)

theorem Canonical.macsecReceive {s t : State} {b : Nat} {f : Frame} (h : Canonical s) (he : s.macsecReceive b f = some t) : Canonical t := by
  unfold State.macsecReceive at he
  dsimp only at he
  split at he
  · exact nomatch he
  · split at he
    · exact nomatch he
    · split at he
      · exact nomatch he
      · exact Option.some.inj he ▸ .record h

theorem NextCanonical.frameReceive {block : Nat} {f : Frame} {s : State} (h : Canonical s) : NextCanonical (execFrameReceive block f s) := by
  unfold execFrameReceive
  refine .ite ?_ (.next h)
  refine .ite ?_ (.next (.bufferFrame h))
  split
  · next _ he => exact .next (.bufferFrame (h.macsecReceive he))
  · exact .next (.bumpSat h)

theorem Canonical.emit {s : State} {b : Nat} {f : TxFrame} (h : Canonical s) : Canonical (s.emit b f) := by
  unfold State.emit
  refine .ite ?_ (.send h)
  dsimp only
  split
  · exact .bumpSat h
  · exact .ite (.bumpSat (.wr h)) (.send (.ite (.wr (.record h)) (.record h)))

theorem Canonical.handOver {s : State} {b : Nat} {f : TxFrame} (h : Canonical s) : Canonical (s.handOver b f) :=
  .ite (.bump h) (.ite (.setPort h) (.emit h))

theorem NextCanonical.pfcReceive {block sub prio : Nat} {xoff : Bool} {s : State} (h : Canonical s) :
    NextCanonical (execPfcReceive block sub prio xoff s) :=
  .ite (.ite (.next (.setPort h)) (.next (.foldl (fun _ _ ht => .handOver ht) (.setPort h)))) (.next h)

theorem Canonical.xmit {s : State} {n rank : Nat} {pkt : NetPkt} (h : Canonical s) : Canonical (s.xmit n rank pkt) := by
  unfold State.xmit
  refine .ite h ?_
  split
  · exact h
  · split
    · exact h
    · dsimp only
      split
      · exact .bufferFrame h
      · exact .handOver h

theorem Canonical.setFlow {s : State} {n rank : Nat} {fletus : Bool} {f : Flow} (h : Canonical s) : Canonical (s.setFlow n rank fletus f) :=
  .setJob h

theorem Canonical.sendRoce {s : State} {n rank psn : Nat} {op : RoceOp} (h : Canonical s) : Canonical (s.sendRoce n rank psn op) := .xmit h

theorem Canonical.sendFletus {s : State} {n rank seq : Nat} {restart echo : Bool} {msg : FletusMsg} (h : Canonical s) :
    Canonical (s.sendFletus n rank seq restart echo msg) := .xmit h

theorem Canonical.sendLaunch {s : State} {n rank : Nat} {msg : FletusMsg} (h : Canonical s) : Canonical (s.sendLaunch n rank msg) := .sendFletus h

theorem Canonical.streamSend {s : State} {n rank : Nat} {msg : FletusMsg} {q cmd : Nat} (h : Canonical s) :
    Canonical (s.streamSend n rank msg q cmd) := .xmit (.setFlow h)

theorem Canonical.streamAll {s : State} {n : Nat} {ranks : List Nat} {msg : FletusMsg} {q cmd : Nat} (h : Canonical s) :
    Canonical (s.streamAll n ranks msg q cmd) := .foldl (fun _ _ ht => .streamSend ht) h

theorem Canonical.journalPacket {s : State} {f : RxFrame} (h : Canonical s) : Canonical (s.journalPacket f) := .ite h (.journalCtx h)
theorem Canonical.dropFrame {s : State} {b : Nat} {x : RxFrame} (h : Canonical s) : Canonical (s.dropFrame b x) := .settlePfc (.setPort h)

theorem NextCanonical.onPacket {s : State} {b : Nat} {kind : NetPkt → Bool} {f : State → Nat → RxFrame → State × Bool} (h : Canonical s)
    (hf : ∀ t y z, Canonical t → FstCanonical (f t y z)) :
    NextCanonical (s.onPacket b kind f) := by
  unfold State.onPacket
  split
  · exact .next h
  · refine .ite (.next (.bump (.dropFrame h))) ?_
    refine .ite (.next h) ?_
    split
    · next _ he => exact .next (.dropFrame (.of_eq_mk he ((hf _ _ _) h)))
    · next _ he => exact .next (.of_eq_mk he ((hf _ _ _) h))

theorem Canonical.echoCe {s : State} {n : Nat} {x : RxFrame} (h : Canonical s) : Canonical (s.echoCe n x) :=
  .ite h (.ite h (.ite (.sendFletus (.setFlow h)) (.sendRoce (.setFlow h))))

theorem NextCanonical.rateRecovery {part slot rank : Nat} {fletus : Bool} {s : State} (h : Canonical s) :
    NextCanonical (execRateRecovery part slot rank fletus s) := .ite (.next (.setFlow h)) (.next h)

theorem NextCanonical.ackCoalesceTimeout {part slot rank : Nat} {fletus : Bool} {s : State} (h : Canonical s) :
    NextCanonical (execAckCoalesceTimeout part slot rank fletus s) :=
  .ite (.next (.ite (.sendFletus (.setFlow h)) (.sendRoce (.setFlow h)))) (.next h)

theorem Canonical.holdAck {s : State} {n rank : Nat} {fletus : Bool} (h : Canonical s) : Canonical (s.holdAck n rank fletus) :=
  .ite (.ite (.sendFletus (.setFlow h)) (.sendRoce (.setFlow h))) (.setFlow h)

theorem Canonical.resend {s : State} {n rank : Nat} {fletus : Bool} (h : Canonical s) : Canonical (s.resend n rank fletus) :=
  .foldl (fun _ _ ht => .xmit ht) (.setFlow h)

theorem Canonical.expire {s : State} {n rank : Nat} {fletus : Bool} (h : Canonical s) : Canonical (s.expire n rank fletus) := .resend (.setFlow h)

-- queues

theorem Canonical.setQueue {s : State} {q : Nat} {x : QueueSt} (h : Canonical s) : Canonical (s.setQueue q x) := .ite (.wr (.record h)) (.record h)
theorem Canonical.updCmd {s : State} {q seq : Nat} {f : Cmd → Cmd} (h : Canonical s) : Canonical (s.updCmd q seq f) := .setQueue h

theorem Canonical.endCmd {s : State} {q seq status result fault : Nat} (h : Canonical s) : Canonical (s.endCmd q seq status result fault) :=
  .updCmd h

end Sys2Proof.Machine
end

section
/-! PROOFS. The canonical form of memory through tasks, their instructions and their counters (O59). -/

namespace Sys2Proof.Machine

open Sys2Proof.Claims

-- tasks

theorem Canonical.updTask {s : State} {t : Nat} {f : Task → Task} (h : Canonical s) : Canonical (s.updTask t f) := .record h

theorem Canonical.refreshCtx {s : State} {ctx : Nat} (h : Canonical s) : Canonical (s.refreshCtx ctx) :=
  .ite (.ite (.wr h) h) (.ite (.wr h) (.wr h))

theorem Canonical.cancelWaits {s : State} {c : Nat} (h : Canonical s) : Canonical (s.cancelWaits c) :=
  .setCore (.foldl (fun _ _ ht => .xfrCancel ht) h)

theorem Canonical.leaveCore {s : State} {t : Nat} {k : Task} {cancel : Bool} {c : Nat} (h : Canonical s) :
    Canonical (s.leaveCore t k cancel c) := .setCore (.ite (.cancelWaits (.ite (.writeMem (.record h)) h)) (.ite (.writeMem (.record h)) h))

theorem Canonical.endTask {s : State} {t status : Nat} {cancel : Bool} (h : Canonical s) : Canonical (s.endTask t status cancel) := by
  unfold State.endTask
  split
  · exact h
  · refine .ite h ?_
    refine .ite ?_ ?_
    · refine .diverge ?_
      refine .refreshCtx ?_
      split
      · refine .endCmd ?_
        refine .updTask ?_
        split
        · exact .ite (.writeMem (.foldl (fun _ _ ht => .leaveCore ht) h)) (.foldl (fun _ _ ht => .leaveCore ht) h)
        · exact .foldl (fun _ _ ht => .leaveCore ht) h
      · refine .updTask ?_
        split
        · exact .ite (.writeMem (.foldl (fun _ _ ht => .leaveCore ht) h)) (.foldl (fun _ _ ht => .leaveCore ht) h)
        · exact .foldl (fun _ _ ht => .leaveCore ht) h
    · refine .refreshCtx ?_
      split
      · refine .endCmd ?_
        refine .updTask ?_
        split
        · exact .ite (.writeMem (.foldl (fun _ _ ht => .leaveCore ht) h)) (.foldl (fun _ _ ht => .leaveCore ht) h)
        · exact .foldl (fun _ _ ht => .leaveCore ht) h
      · refine .updTask ?_
        split
        · exact .ite (.writeMem (.foldl (fun _ _ ht => .leaveCore ht) h)) (.foldl (fun _ _ ht => .leaveCore ht) h)
        · exact .foldl (fun _ _ ht => .leaveCore ht) h

theorem Canonical.settleWg {s : State} {c slot : Nat} (h : Canonical s) : Canonical (s.settleWg c slot) := by
  unfold State.settleWg
  dsimp only
  split
  · exact .ite (.ite (.endTask (.updTask (.setCore h))) (.updTask (.setCore h))) h
  · exact h

theorem Canonical.settleBarriers {s : State} {c slot n : Nat} (h : Canonical s) : Canonical (s.settleBarriers c slot n) := by
  induction n generalizing s with
  | zero => exact h
  | succ n ih =>
    unfold State.settleBarriers
    dsimp only
    split
    · exact h
    · exact ih (.setCore h)

theorem FstCanonical.writeFault {s : State} {k : Task} {c wg group : Nat} {f : PendFault} {deferred held : Bool} (h : Canonical s) :
    FstCanonical (s.writeFault k c wg group f deferred held) := .ite (.pair (.bumpSat h)) (.pair (.bump (.ite (.writeMem h) h)))

theorem Canonical.runOut {s : State} {c pos : Nat} (h : Canonical s) : Canonical (s.runOut c pos) := by
  unfold State.runOut
  dsimp only
  split
  · exact h
  · exact .settleWg (.settleBarriers (.setCore h))

theorem Canonical.stopTask {s : State} {t status : Nat} (h : Canonical s) : Canonical (s.stopTask t status) := .endTask h

theorem Canonical.recordFault {s : State} {c pos : Nat} {f : PendFault} {deferred : Bool} (h : Canonical s) :
    Canonical (s.recordFault c pos f deferred) := by
  unfold State.recordFault
  extract_lets x
  split
  · refine .ite h ?_
    extract_lets wg hold
    split
    next _ _ he => exact .updTask (.of_eq_mk he (.writeFault h))
  · exact h

theorem Canonical.applyPolicy {s : State} {c pos : Nat} (h : Canonical s) : Canonical (s.applyPolicy c pos) := by
  unfold State.applyPolicy
  dsimp only
  split
  · exact .ite h (.ite (.stopTask h) (.ite (.runOut h) (.refreshCtx (.setCore h))))
  · exact h

theorem Canonical.takeFault {s : State} {c pos : Nat} {f : PendFault} {deferred : Bool} (h : Canonical s) :
    Canonical (s.takeFault c pos f deferred) := .applyPolicy (.recordFault h)

theorem Canonical.takeFaults {s : State} {c : Nat} {l : List PendFault} (h : Canonical s) : Canonical (s.takeFaults c l) :=
  .foldl (fun _ _ ht => .applyPolicy ht) (.foldl (fun _ _ ht => .recordFault ht) h)

theorem FstCanonical.deadlockFaults {s : State} {core : Nat} {l : List (Nat × Group × List Nat × Nat)} (h : Canonical s) :
    FstCanonical (s.deadlockFaults core l) := .pair (.foldl (fun _ _ ht => .setCore ht) h)

theorem NextCanonical.barrierDeadlock {core slot : Nat} {s : State} (h : Canonical s) : NextCanonical (execBarrierDeadlock core slot s) := by
  unfold execBarrierDeadlock
  dsimp only
  exact .next (.takeFaults (.of_fst (.deadlockFaults h)))

theorem NextCanonical.deferredFault {core index : Nat} {s : State} (h : Canonical s) : NextCanonical (execDeferredFault core index s) := by
  unfold execDeferredFault
  dsimp only
  split
  · exact .next h
  · exact .next (.settleWg (.takeFault (.setCore h)))

theorem Canonical.releaseHeld {s : State} {ctx : Nat} (h : Canonical s) : Canonical (s.releaseHeld ctx) :=
  .refreshCtx (.foldl (fun _ _ ht => .foldl (fun _ _ hu => .ite (.foldl (fun _ _ hv => .runOut hv) hu) hu) (.updTask ht)) h)

theorem Canonical.writeFaultPolicy {s : State} {q : RegWriteReq} (h : Canonical s) : Canonical (s.writeFaultPolicy q) :=
  .ite (.releaseHeld (.store h)) (.store h)

theorem NextCanonical.faultRelease {a : Access} {s : State} (h : Canonical s) : NextCanonical (execFaultRelease a s) :=
  .onWrite h (fun _ => .writeFaultPolicy h)

theorem Canonical.writeFaultRead {s : State} {q : RegWriteReq} (h : Canonical s) : Canonical (s.writeFaultRead q) :=
  .ite (.accessError h) (.store h)

theorem NextCanonical.faultReadWrite {a : Access} {s : State} (h : Canonical s) : NextCanonical (execFaultReadWrite a s) :=
  .onWrite h (fun _ => .writeFaultRead h)

-- instructions that issue

theorem Canonical.settleFences {s : State} {c : Nat} (h : Canonical s) : Canonical (s.settleFences c) := .setCore h

theorem Canonical.issued {s : State} {i : Issue} {r : Ready} {g : Group} (h : Canonical s) : Canonical (s.issued i r g) :=
  .ite (.bumpRun (.bumpRun (.setCore h))) (.bumpRun (.setCore h))

theorem Canonical.issuedSame {s : State} {i : Issue} {r : Ready} (h : Canonical s) : Canonical (s.issuedSame i r) := .issued h

theorem Canonical.precise {s : State} {i : Issue} {r : Ready} {code detail : Nat} {addr : Word} {lanes : List Nat} (h : Canonical s) :
    Canonical (s.precise i r code detail addr lanes) := .takeFault (.issuedSame h)

theorem Canonical.done {s : State} {i : Issue} {r : Ready} {g : Group} (h : Canonical s) : Canonical (s.done i r g) := .issued h

theorem FstCanonical.fetchWord {s : State} {i : Issue} {r : Ready} {va : Word} (h : Canonical s) : FstCanonical (s.fetchWord i r va) := by
  unfold State.fetchWord
  dsimp only
  split
  · next _ _ _ _ he =>
    have h₁ := Canonical.of_eq_mk he (.access h)
    split
    · exact .pair (.of_fst (.xfrReport h₁))
    · exact .pair (.setCore (.of_fst (.xfrReport h₁)))
  · next _ _ he =>
    have h₁ := Canonical.of_eq_mk he (.access h)
    exact .ite (.pair (.takeFault h₁)) (.pair h₁)
  · next _ he => exact .pair (.of_eq_mk he (.access h))
  · next _ _ he =>
    have h₁ := Canonical.of_eq_mk he (.access h)
    split
    · exact .pair (.takeFault h₁)
    · exact .pair h₁

theorem FstCanonical.fetch {s : State} {i : Issue} {r : Ready} (h : Canonical s) : FstCanonical (s.fetch i r) := by
  unfold State.fetch
  dsimp only
  exact .ite (.fetchWord (.of_fst (.fetchWord h))) (.pair (.of_fst (.fetchWord h)))

theorem NextCanonical.onIssue {s : State} {i : Issue} {bad : Ready → List Bad} {regs : List (Bool × Nat)} {f : State → Ready → State}
    (h : Canonical s) (hf : ∀ t y, Canonical t → Canonical (f t y)) :
    NextCanonical (s.onIssue i bad regs f) := by
  unfold State.onIssue
  split
  · exact .next h
  · refine .ite (.next h) ?_
    refine .ite ?_ (.next (.of_fst (.fetch h)))
    split
    · exact .next (.precise (.of_fst (.fetch h)))
    · exact .next ((hf _ _) (.of_fst (.fetch h)))

theorem Canonical.orFlags {s : State} {ctx : Nat} {f : FpFlags} (h : Canonical s) : Canonical (s.orFlags ctx f) := .setReg h
theorem Canonical.orDrain {s : State} {ctx bits : Nat} (h : Canonical s) : Canonical (s.orDrain ctx bits) := .setReg h

theorem NextCanonical.groupPromotion {core pos : Nat} {s : State} (h : Canonical s) : NextCanonical (execGroupPromotion core pos s) := by
  unfold execGroupPromotion
  dsimp only
  split
  · exact .ite (.next (.bumpRun (.setCore h))) (.next h)
  · exact .next h

theorem NextCanonical.setPromotion {core pos lane : Nat} {s : State} (h : Canonical s) : NextCanonical (execSetPromotion core pos lane s) := by
  unfold execSetPromotion
  dsimp only
  split
  · exact .ite (.next (.bumpRun (.setCore h))) (.next h)
  · exact .next h

-- integer instructions

theorem NextCanonical.intOp {s : State} {i : Issue} {ua ub uc : Use} {bi sgn : Bool} {f : Group → Nat → Nat} (h : Canonical s) :
    NextCanonical (s.intOp i ua ub uc bi sgn f) := .onIssue h (fun _ _ ht => .done ht)

theorem NextCanonical.int2 {s : State} {i : Issue} {sgn : Bool} {f : Nat → Nat → Nat} (h : Canonical s) : NextCanonical (s.int2 i sgn f) := .intOp h
theorem NextCanonical.int1 {s : State} {i : Issue} {f : Nat → Nat} (h : Canonical s) : NextCanonical (s.int1 i f) := .intOp h
theorem NextCanonical.mov {x : Issue} {s : State} (h : Canonical s) : NextCanonical (execMov x s) := .int1 h
theorem NextCanonical.add {x : Issue} {s : State} (h : Canonical s) : NextCanonical (execAdd x s) := .int2 h
theorem NextCanonical.sub {x : Issue} {s : State} (h : Canonical s) : NextCanonical (execSub x s) := .int2 h
theorem NextCanonical.mul {x : Issue} {s : State} (h : Canonical s) : NextCanonical (execMul x s) := .int2 h
theorem NextCanonical.mulhi {x : Issue} {s : State} (h : Canonical s) : NextCanonical (execMulhi x s) := .int2 h
theorem NextCanonical.mad {x : Issue} {s : State} (h : Canonical s) : NextCanonical (execMad x s) := .intOp h
theorem NextCanonical.min {x : Issue} {s : State} (h : Canonical s) : NextCanonical (execMin x s) := .int2 h
theorem NextCanonical.max {x : Issue} {s : State} (h : Canonical s) : NextCanonical (execMax x s) := .int2 h
theorem NextCanonical.and {x : Issue} {s : State} (h : Canonical s) : NextCanonical (execAnd x s) := .int2 h
theorem NextCanonical.or {x : Issue} {s : State} (h : Canonical s) : NextCanonical (execOr x s) := .int2 h
theorem NextCanonical.xor {x : Issue} {s : State} (h : Canonical s) : NextCanonical (execXor x s) := .int2 h
theorem NextCanonical.not {x : Issue} {s : State} (h : Canonical s) : NextCanonical (execNot x s) := .int1 h
theorem NextCanonical.shl {x : Issue} {s : State} (h : Canonical s) : NextCanonical (execShl x s) := .int2 h
theorem NextCanonical.shr {x : Issue} {s : State} (h : Canonical s) : NextCanonical (execShr x s) := .int2 h
theorem NextCanonical.sar {x : Issue} {s : State} (h : Canonical s) : NextCanonical (execSar x s) := .int2 h
theorem NextCanonical.popc {x : Issue} {s : State} (h : Canonical s) : NextCanonical (execPopc x s) := .int1 h
theorem NextCanonical.clz {x : Issue} {s : State} (h : Canonical s) : NextCanonical (execClz x s) := .int1 h
theorem NextCanonical.bfe {x : Issue} {s : State} (h : Canonical s) : NextCanonical (execBfe x s) := .intOp h
theorem NextCanonical.sel {x : Issue} {s : State} (h : Canonical s) : NextCanonical (execSel x s) := .onIssue h (fun _ _ ht => .done ht)
theorem NextCanonical.cmp {x : Issue} {s : State} (h : Canonical s) : NextCanonical (execCmp x s) := .onIssue h (fun _ _ ht => .done ht)
theorem NextCanonical.shfl {x : Issue} {s : State} (h : Canonical s) : NextCanonical (execShfl x s) := .onIssue h (fun _ _ ht => .done ht)
theorem NextCanonical.vote {x : Issue} {s : State} (h : Canonical s) : NextCanonical (execVote x s) := .onIssue h (fun _ _ ht => .done ht)
theorem NextCanonical.pop {x : Issue} {s : State} (h : Canonical s) : NextCanonical (execPop x s) := .onIssue h (fun _ _ ht => .done ht)

-- floating-point instructions

theorem NextCanonical.fpOp {s : State} {i : Issue} {ua ub uc : Use} {bi sr fu : Bool} {f : Format → RoundEnv → Nat → Nat → Nat → Nat × FpFlags}
    (h : Canonical s) :
    NextCanonical (s.fpOp i ua ub uc bi sr fu f) := by
  unfold State.fpOp
  dsimp only
  exact .onIssue h (fun _ _ ht => .done (.orFlags ht))

theorem NextCanonical.fpAdd {x : Issue} {s : State} (h : Canonical s) : NextCanonical (execFpAdd x s) := .fpOp h
theorem NextCanonical.fpSub {x : Issue} {s : State} (h : Canonical s) : NextCanonical (execFpSub x s) := .fpOp h
theorem NextCanonical.fpMul {x : Issue} {s : State} (h : Canonical s) : NextCanonical (execFpMul x s) := .fpOp h
theorem NextCanonical.fpFma {x : Issue} {s : State} (h : Canonical s) : NextCanonical (execFpFma x s) := .fpOp h
theorem NextCanonical.fpDiv {x : Issue} {s : State} (h : Canonical s) : NextCanonical (execFpDiv x s) := .fpOp h
theorem NextCanonical.fpSqrt {x : Issue} {s : State} (h : Canonical s) : NextCanonical (execFpSqrt x s) := .fpOp h
theorem NextCanonical.fpMin {x : Issue} {s : State} (h : Canonical s) : NextCanonical (execFpMin x s) := .fpOp h
theorem NextCanonical.fpMax {x : Issue} {s : State} (h : Canonical s) : NextCanonical (execFpMax x s) := .fpOp h
theorem NextCanonical.fpNeg {x : Issue} {s : State} (h : Canonical s) : NextCanonical (execFpNeg x s) := .fpOp h
theorem NextCanonical.fpAbs {x : Issue} {s : State} (h : Canonical s) : NextCanonical (execFpAbs x s) := .fpOp h

theorem NextCanonical.fpCmp {x : Issue} {s : State} (h : Canonical s) : NextCanonical (execFpCmp x s) := by
  unfold execFpCmp
  dsimp only
  exact .onIssue h (fun _ _ ht => .done (.orFlags ht))

theorem NextCanonical.fpClass {x : Issue} {s : State} (h : Canonical s) : NextCanonical (execFpClass x s) := .onIssue h (fun _ _ ht => .done ht)

theorem NextCanonical.fpFromint {x : Issue} {s : State} (h : Canonical s) : NextCanonical (execFpFromint x s) := by
  unfold execFpFromint
  dsimp only
  exact .onIssue h (fun _ _ ht => .done (.orFlags ht))

theorem NextCanonical.fpToint {x : Issue} {s : State} (h : Canonical s) : NextCanonical (execFpToint x s) := by
  unfold execFpToint
  dsimp only
  exact .onIssue h (fun _ _ ht => .done (.orFlags ht))

theorem NextCanonical.fuOp {s : State} {x : Issue} {fn : Nat} (h : Canonical s) : NextCanonical (s.fuOp x fn) := .fpOp h
theorem NextCanonical.fpExp {x : Issue} {s : State} (h : Canonical s) : NextCanonical (execFpExp x s) := .fuOp h
theorem NextCanonical.fpLog {x : Issue} {s : State} (h : Canonical s) : NextCanonical (execFpLog x s) := .fuOp h
theorem NextCanonical.fpRsqrt {x : Issue} {s : State} (h : Canonical s) : NextCanonical (execFpRsqrt x s) := .fuOp h
theorem NextCanonical.fpSin {x : Issue} {s : State} (h : Canonical s) : NextCanonical (execFpSin x s) := .fuOp h
theorem NextCanonical.fpCos {x : Issue} {s : State} (h : Canonical s) : NextCanonical (execFpCos x s) := .fuOp h

theorem NextCanonical.cvt {x : Issue} {s : State} (h : Canonical s) : NextCanonical (execCvt x s) := by
  unfold execCvt
  dsimp only
  exact .onIssue h (fun _ _ ht => .done (.orFlags ht))

-- control transfers and barriers

theorem NextCanonical.nop {x : Issue} {s : State} (h : Canonical s) : NextCanonical (execNop x s) := .onIssue h (fun _ _ ht => .done ht)
theorem NextCanonical.bra {x : Issue} {s : State} (h : Canonical s) : NextCanonical (execBra x s) := .onIssue h (fun _ _ ht => .issued ht)
theorem NextCanonical.call {x : Issue} {s : State} (h : Canonical s) : NextCanonical (execCall x s) := .onIssue h (fun _ _ ht => .issued ht)

theorem NextCanonical.jmp {x : Issue} {s : State} (h : Canonical s) : NextCanonical (execJmp x s) := by
  unfold execJmp
  refine .onIssue h (fun _ _ ht => ?_)
  dsimp only
  split
  · exact .precise ht
  · exact .issued ht

theorem NextCanonical.converge {x : Issue} {s : State} (h : Canonical s) : NextCanonical (execConverge x s) :=
  .onIssue h (fun _ _ ht => .setCore ht)

theorem NextCanonical.convergeRelease {core pos : Nat} {s : State} (h : Canonical s) : NextCanonical (execConvergeRelease core pos s) := by
  unfold execConvergeRelease
  dsimp only
  split
  · exact .ite (.next (.ite (.bumpRun (.bumpRun (.setCore h))) (.bumpRun (.setCore h)))) (.next h)
  · exact .next h

theorem NextCanonical.exit {x : Issue} {s : State} (h : Canonical s) : NextCanonical (execExit x s) :=
  .onIssue h (fun _ _ ht => .settleWg (.settleBarriers (.issued ht)))

theorem NextCanonical.trap {x : Issue} {s : State} (h : Canonical s) : NextCanonical (execTrap x s) :=
  .onIssue h (fun _ _ ht => .ite (.done ht) (.precise ht))

theorem NextCanonical.barrierOp {s : State} {i : Issue} {arrives : Bool} {rule : BarRule} (h : Canonical s) :
    NextCanonical (s.barrierOp i arrives rule) := by
  unfold State.barrierOp
  dsimp only
  exact .ite (.next h) (.onIssue h (fun _ _ ht => .ite (.takeFaults (.of_fst (.deadlockFaults (.issued ht)))) (.settleBarriers (.issued ht))))

theorem NextCanonical.barSync {x : Issue} {s : State} (h : Canonical s) : NextCanonical (execBarSync x s) := .barrierOp h
theorem NextCanonical.barArrive {x : Issue} {s : State} (h : Canonical s) : NextCanonical (execBarArrive x s) := .barrierOp h
theorem NextCanonical.barWait {x : Issue} {s : State} (h : Canonical s) : NextCanonical (execBarWait x s) := .barrierOp h

-- counters

theorem Canonical.countEventOf {s : State} {c pos : Nat} (h : Canonical s) : Canonical (s.countEventOf c pos) := .setCore h

theorem Canonical.groupJournal {s : State} {k : Task} {c pos kind : Nat} {tail : List Byte} (h : Canonical s) :
    Canonical (s.groupJournal k c pos kind tail) := .ite (.ite (.countEventOf (.journalCtx h)) (.setCore (.countEventOf (.journalCtx h)))) h

theorem FstCanonical.groupReplay {s : State} {k : Task} {c pos kind : Nat} {test : List Byte → Bool} (h : Canonical s) :
    FstCanonical (s.groupReplay k c pos kind test) := by
  unfold State.groupReplay
  refine .ite ?_ (.pair h)
  dsimp only
  split
  · exact .ite (.pair (.countEventOf (.consumeKeyed h))) (.pair (.diverge h))
  · exact .pair (.diverge h)

theorem Canonical.setCtr {s : State} {n : CtrName} {v : Nat} (h : Canonical s) : Canonical (s.setCtr n v) := by
  unfold State.setCtr
  split
  · exact .setCore h
  · exact .record h

theorem Canonical.addTo {s : State} {n : CtrName} {v ctx : Nat} (h : Canonical s) : Canonical (s.addTo n v ctx) := by
  unfold State.addTo
  refine .ite ?_ (.setCtr h)
  split
  all_goals exact .hwEvent (.setCtr h)

theorem Canonical.discardAdd {s : State} {c ctx : Nat} (h : Canonical s) : Canonical (s.discardAdd c ctx) := .hwEvent (.bump h)

theorem Canonical.coreAdd {s : State} {t c i v : Nat} (h : Canonical s) : Canonical (s.coreAdd t c i v) :=
  .ite (.discardAdd h) (.ite (.addTo h) (.setCore h))

theorem Canonical.regionAdd {s : State} {ctx r i v : Nat} (h : Canonical s) : Canonical (s.regionAdd ctx r i v) := .ite (.addTo h) (.bump h)

theorem Canonical.endWait {s : State} {p : Pending} {e : WaitEnd} {replayed : Bool} (h : Canonical s) : Canonical (s.endWait p e replayed) := by
  unfold State.endWait
  dsimp only
  split
  · exact .ite (.groupJournal (.setCore h)) (.setCore h)
  · exact h

theorem Canonical.endCmdWait {s : State} {q : Nat} {c : Cmd} {e : WaitEnd} (h : Canonical s) : Canonical (s.endCmdWait q c e) :=
  .journalCtx (.endCmd h)

theorem Canonical.endCmdWaits {s : State} {n : CtrName} {test : Cmd → Bool} {e : WaitEnd} (h : Canonical s) :
    Canonical (s.endCmdWaits n test e) := by
  unfold State.endCmdWaits
  split
  · exact h
  · exact .foldl (fun _ _ ht => .endCmdWait ht) h

theorem Canonical.endWaits {s : State} {l : List Pending} {e : WaitEnd} (h : Canonical s) : Canonical (s.endWaits l e) :=
  .foldl (fun _ _ ht => .endWait ht) h

theorem Canonical.settleCtr {s : State} {n : CtrName} (h : Canonical s) : Canonical (s.settleCtr n) := by
  unfold State.settleCtr
  refine .endCmdWaits ?_
  refine .endWaits ?_
  refine .endWaits ?_
  split
  · exact .ite (.endWait (.setCtr (.endCmdWaits (.endWaits h)))) (.endCmdWaits (.endWaits h))
  · exact .endCmdWaits (.endWaits h)

theorem Canonical.defer {s : State} {i : Issue} {r : Ready} {code detail : Nat} {addr : Word} {lanes : List Nat} (h : Canonical s) :
    Canonical (s.defer i r code detail addr lanes) := .setCore h

theorem Canonical.fly {s : State} {core pos task : Nat} {n : CtrName} {op : CtrOp} (h : Canonical s) : Canonical (s.fly core pos task n op) :=
  .setCore h

theorem NextCanonical.cntOp {s : State} {i : Issue} {d : Use} {b timed add : Bool} {f : State → Ready → CtrName → State} (h : Canonical s)
    (hf : ∀ t y z, Canonical t → Canonical (f t y z)) :
    NextCanonical (s.cntOp i d b timed add f) := by
  unfold State.cntOp
  refine .onIssue h (fun _ _ ht => ?_)
  dsimp only
  split
  · exact .precise ht
  · refine .ite (.done ht) ?_
    split
    · exact .defer (.done ht)
    · exact .ite ht ((hf _ _ _) ht)

theorem NextCanonical.cntAdd {x : Issue} {s : State} (h : Canonical s) : NextCanonical (execCntAdd x s) :=
  .cntOp h (fun _ _ _ ht => .fly (.done ht))

theorem NextCanonical.cntWaitOp {s : State} {x : Issue} {claim : Bool} (h : Canonical s) : NextCanonical (s.cntWaitOp x claim) :=
  .cntOp h (fun _ _ _ ht => .ite ht (.fly (.issued ht)))

theorem NextCanonical.cntWait {x : Issue} {s : State} (h : Canonical s) : NextCanonical (execCntWait x s) := .cntWaitOp h
theorem NextCanonical.cntClaim {x : Issue} {s : State} (h : Canonical s) : NextCanonical (execCntClaim x s) := .cntWaitOp h

theorem NextCanonical.cntRead {x : Issue} {s : State} (h : Canonical s) : NextCanonical (execCntRead x s) :=
  .cntOp h (fun _ _ _ ht => .fly (.done ht))

theorem Canonical.waitArrives {s : State} {core : Nat} {f : CtrFlight} (h : Canonical s) : Canonical (s.waitArrives core f) := by
  unfold State.waitArrives
  dsimp only
  split
  · split
    · exact h
    · refine .ite (.endWait h) ?_
      refine .ite ?_ (.setCore h)
      split
      · next _ he => exact .setCore (.of_eq_mk he (.groupReplay h))
      · next _ _ he =>
        have h₁ := Canonical.of_eq_mk he (.groupReplay h)
        exact .ite (.setCore h₁) (.endWait h₁)
  · exact h

theorem Canonical.readArrives {s : State} {core : Nat} {f : CtrFlight} {reg : Nat} (h : Canonical s) : Canonical (s.readArrives core f reg) := by
  unfold State.readArrives
  dsimp only
  split
  · split
    · next _ _ he => exact .setCore (.of_eq_mk he (.groupReplay h))
    · next _ he => exact .groupJournal (.setCore (.of_eq_mk he (.groupReplay h)))
  · exact h

theorem NextCanonical.counterArbitration {ctr : CtrName} {sources : List (Nat × Nat)} {s : State} (h : Canonical s) :
    NextCanonical (execCounterArbitration ctr sources s) := by
  unfold execCounterArbitration
  refine .next ?_
  refine .foldl (fun _ _ ht => ?_) ?_
  · split
    · exact .readArrives ht
    · exact ht
  · refine .settleCtr ?_
    refine .record ?_
    refine .foldl (fun _ _ ht => ?_) ?_
    · split
      · exact .waitArrives ht
      · exact ht
    · refine .foldl (fun _ _ ht => ?_) ?_
      · split
        · exact .coreAdd ht
        · exact .regionAdd ht
        · exact ht
      · refine .of_fst ?_
        refine .foldl (fun _ _ ht => ?_) (.pair h)
        dsimp only
        split
        · exact .ite (.pair (.setCore (.of_fst ht))) ht
        · exact ht

theorem NextCanonical.counterDeadline {w : WaitName} {s : State} (h : Canonical s) : NextCanonical (execCounterDeadline w s) := by
  unfold execCounterDeadline
  split
  · split
    · split
      · exact .next (.ite (.settleCtr h) h)
      · exact .next h
    · exact .next h
  · split
    · split
      · exact .next (.ite (.settleCtr h) h)
      · exact .next h
    · exact .next h

theorem Canonical.revokeBlock {s : State} {r b : Nat} (h : Canonical s) : Canonical (s.revokeBlock r b) :=
  .foldl (fun _ _ ht => .endCmdWait ht) (.endWaits h)

theorem Canonical.writeCntOwner {s : State} {q : RegWriteReq} (h : Canonical s) : Canonical (s.writeCntOwner q) :=
  .ite (.accessError h) (.ite (.ite (.accessError h) h) (.ite (.record (.store h)) (.ite (.revokeBlock (.store h)) (.store h))))

theorem NextCanonical.regionCounterGrant {a : Access} {s : State} (h : Canonical s) : NextCanonical (execRegionCounterGrant a s) :=
  .onWrite h (fun _ => .writeCntOwner h)

theorem NextCanonical.regionCounterRevoke {a : Access} {s : State} (h : Canonical s) : NextCanonical (execRegionCounterRevoke a s) :=
  .onWrite h (fun _ => .writeCntOwner h)

theorem Canonical.countRetained {s : State} {r : Nat} (h : Canonical s) : Canonical (s.countRetained r) := .wr h

theorem NextCanonical.retentionEntry {core : Nat} {s : State} (h : Canonical s) : NextCanonical (execRetentionEntry core s) := by
  unfold execRetentionEntry
  dsimp only
  split
  · exact .ite (.next (.countRetained (.bump (.setCore h)))) (.next h)
  · exact .next h

theorem Canonical.leaveRetention {s : State} {core : Nat} (h : Canonical s) : Canonical (s.leaveRetention core) :=
  .ite (.countRetained (.bump (.setCore h))) h

theorem NextCanonical.retentionExit {core : Nat} {s : State} (h : Canonical s) : NextCanonical (execRetentionExit core s) :=
  .next (.ite (.leaveRetention h) h)

theorem NextCanonical.sysGet {x : Issue} {s : State} (h : Canonical s) : NextCanonical (execSysGet x s) := by
  unfold execSysGet
  refine .onIssue h (fun _ _ ht => ?_)
  refine .ite ?_ (.done ht)
  split
  · next _ _ he => exact .done (.of_eq_mk he (.groupReplay ht))
  · next _ he => exact .done (.groupJournal (.of_eq_mk he (.groupReplay ht)))

-- dispatch and the switching of contexts

theorem NextCanonical.taskBind {task : Nat} {s : State} (h : Canonical s) : NextCanonical (execTaskBind task s) := by
  unfold execTaskBind
  split
  · exact .ite (.next (.updTask (.foldl (fun _ _ ht => .setCore ht) h))) (.next h)
  · exact .next h

theorem Canonical.startTask {s : State} {t : Nat} {k : Task} (h : Canonical s) : Canonical (s.startTask t k) :=
  .journalCtx (.refreshCtx (.updTask h))

theorem Canonical.takePending {s : State} {t ctx c : Nat} (h : Canonical s) : Canonical (s.takePending t ctx c) :=
  .foldl (fun _ _ ht => .addTo ht) (.setCore h)

theorem NextCanonical.coreTaskBegin {task core : Nat} {s : State} (h : Canonical s) : NextCanonical (execCoreTaskBegin task core s) := by
  unfold execCoreTaskBegin
  split
  · exact .ite (.next (.takePending (.updTask (.setCore (.ite (.startTask h) h))))) (.next h)
  · exact .next h

theorem NextCanonical.workgroupDispatch {task core : Nat} {s : State} (h : Canonical s) : NextCanonical (execWorkgroupDispatch task core s) := by
  unfold execWorkgroupDispatch
  split
  · refine .ite ?_ (.next h)
    split
    · exact .next (.updTask (.setCore h))
    · exact .next h
  · exact .next h

theorem NextCanonical.timeLimitExpiry {task : Nat} {s : State} (h : Canonical s) : NextCanonical (execTimeLimitExpiry task s) := by
  unfold execTimeLimitExpiry
  split
  · exact .ite (.next (.stopTask (.updTask (.foldl (fun _ _ ht => .ite (.leaveRetention ht) ht) (.journalCtx h))))) (.next h)
  · exact .next h

theorem Canonical.saveCore {s : State} {k : Task} {c : Nat} (h : Canonical s) : Canonical (s.saveCore k c) := by
  unfold State.saveCore
  dsimp only
  exact .writeMem (.foldl (fun _ _ ht => .markPoison ht) (.writeMem (.writeMem (.writeMem (.writeMem (.writeMem (.ite (.writeMem (.draw h))
      (.writeMem (.writeMem (.draw h))))))))))

theorem Canonical.switchOut {s : State} {t : Nat} {k : Task} {c : Nat} (h : Canonical s) : Canonical (s.switchOut t k c) :=
  .setCore (.record (.saveCore (.leaveRetention h)))

theorem Canonical.flushFaults {s : State} {c : Nat} (h : Canonical s) : Canonical (s.flushFaults c) :=
  .foldl (fun _ _ ht => .takeFault ht) (.setCore h)

theorem NextCanonical.contextSwitch {ctx : Nat} {s : State} (h : Canonical s) : NextCanonical (execContextSwitch ctx s) := by
  unfold execContextSwitch
  split
  · refine .ite ?_ (.next h)
    dsimp only
    split
    · exact .ite (.next (.wr (.writeMem (.draw (.updTask (.foldl (fun _ _ ht => .switchOut ht) (.foldl (fun _ _ ht => .flushFaults ht) h)))))))
        (.next (.foldl (fun _ _ ht => .flushFaults ht) h))
    · exact .next (.foldl (fun _ _ ht => .flushFaults ht) h)
  · exact .next h

theorem Canonical.switchIn {s : State} {t : Nat} {k : Task} {c : Nat} {v : SavedCore} (h : Canonical s) : Canonical (s.switchIn t k c v) := by
  unfold State.switchIn
  refine .foldl (fun _ _ ht => ?_) (.takePending (.setCore h))
  split
  · exact .fly ht
  · exact ht

theorem NextCanonical.contextResume {ctx : Nat} {s : State} (h : Canonical s) : NextCanonical (execContextResume ctx s) := by
  unfold execContextResume
  split
  · exact .ite (.next (.refreshCtx (.wr (.updTask (.foldl (fun _ _ ht => .switchIn ht) h))))) (.next h)
  · exact .next h

theorem Canonical.orphan {s : State} {c : Nat} (h : Canonical s) : Canonical (s.orphan c) := .setCore h

theorem Canonical.cellError {s : State} {c code : Nat} (h : Canonical s) : Canonical (s.cellError c code) := by
  unfold State.cellError
  dsimp only
  split
  · exact .ite (.stopTask (.foldl (fun _ _ ht => .recordFault ht) (.orphan h))) (.refreshCtx (.foldl (fun _ _ ht => .runOut ht) (.updTask (.foldl
      (fun _ _ ht => .recordFault ht) (.orphan h)))))
  · exact .foldl (fun _ _ ht => .recordFault ht) (.orphan h)

theorem Canonical.resetCell {s : State} {c : Nat} (h : Canonical s) : Canonical (s.resetCell c) := .setCore (.leaveRetention h)

theorem Canonical.agentDies {s : State} {hart : Nat} (h : Canonical s) : Canonical (s.agentDies hart) :=
  .ite h (.foldl (fun _ _ ht => .wr (.bump ht)) (.record h))

theorem NextCanonical.cellFault {core code : Nat} {s : State} (h : Canonical s) : NextCanonical (execCellFault core code s) :=
  .ite (.ite (.next h) (.next (.resetCell (.cellError (.hwEvent h))))) (.ite (.next (.agentDies (.hwEvent h))) (.next h))

theorem Canonical.stopCluster {s : State} {k : Nat} (h : Canonical s) : Canonical (s.stopCluster k) :=
  .ite h (.foldl (fun _ _ ht => .resetCell (.cellError ht)) (.record (.hwEvent h)))

theorem Canonical.stackDown {s : State} {k : Nat} (h : Canonical s) : Canonical (s.stackDown k) := by
  unfold State.stackDown
  refine .ite h ?_
  refine .foldl (fun _ _ ht => ?_) (.hwEvent (.wr (.record h)))
  dsimp only
  split
  · exact ht
  · exact .foldl (fun _ _ hu => .hwEvent hu) (.record ht)

theorem NextCanonical.blockFault {part : BlockPart} {s : State} (h : Canonical s) : NextCanonical (execBlockFault part s) := by
  unfold execBlockFault
  split
  · exact .next (.ite (.stopCluster h) h)
  · exact .next (.ite (.stackDown h) h)
  · exact .next (.ite (.portDown h) h)

theorem NextCanonical.coreDisable {core : Nat} {s : State} (h : Canonical s) : NextCanonical (execCoreDisable core s) :=
  .ite (.next (.logDirect (.bumpSat (.record (.wr (.wr (.wr (.wr (.resetCell (.cellError h)))))))))) (.next h)

end Sys2Proof.Machine
end

section
/-! PROOFS. The canonical form of memory through caches, stacks, grants and sketchbooks (O59). -/

namespace Sys2Proof.Machine

open Sys2Proof.Claims

-- caches and their homes

theorem Canonical.stkCount {s : State} {f : Fld} {k n : Nat} (h : Canonical s) : Canonical (s.stkCount f k n) := .bumpRun h

theorem Canonical.openRow {s : State} {c b : Nat} (h : Canonical s) : Canonical (s.openRow c b) := by
  unfold State.openRow
  refine .record ?_
  split
  · exact .ite h (.stkCount h)
  · exact h

theorem Canonical.turnBus {s : State} {c : Nat} {write : Bool} (h : Canonical s) : Canonical (s.turnBus c write) := .ite h (.stkCount (.record h))

theorem Canonical.drainWrites {s : State} {c : Nat} (h : Canonical s) : Canonical (s.drainWrites c) :=
  .ite h (.record (.foldl (fun _ _ ht => .stkCount (.openRow ht)) (.turnBus h)))

theorem Canonical.readBurst {s : State} {b : Nat} (h : Canonical s) : Canonical (s.readBurst b) := by
  unfold State.readBurst
  split
  · exact h
  · exact .ite h (.stkCount (.openRow (.turnBus h)))

theorem Canonical.writeBurst {s : State} {b : Nat} (h : Canonical s) : Canonical (s.writeBurst b) := by
  unfold State.writeBurst
  split
  · exact h
  · exact .ite h (.ite (.drainWrites (.record h)) (.record h))

theorem Canonical.atomFlush {s : State} {b : Nat} (h : Canonical s) : Canonical (s.atomFlush b) := by
  unfold State.atomFlush
  split
  · exact h
  · exact .ite (.writeBurst (.record h)) h

theorem Canonical.atomUse {s : State} {b : Nat} (h : Canonical s) : Canonical (s.atomUse b) := by
  unfold State.atomUse
  split
  · exact h
  · dsimp only
    split
    · exact .writeBurst (.record (.ite h (.readBurst h)))
    · exact .record (.ite h (.readBurst h))

theorem NextCanonical.writeBatchTurn {chan : Nat} {s : State} (h : Canonical s) : NextCanonical (execWriteBatchTurn chan s) :=
  .ite (.next (.drainWrites h)) (.next h)

theorem Canonical.tierWrite {s : State} {line mask : Nat} (h : Canonical s) : Canonical (s.tierWrite line mask) :=
  .foldl (fun _ _ ht => .writeBurst (.atomFlush ht)) h

theorem Canonical.vcDrop {s : State} {r k : Nat} (h : Canonical s) : Canonical (s.vcDrop r k) := by
  unfold State.vcDrop
  dsimp only
  split
  · exact h
  · exact .tierWrite (.record h)

theorem Canonical.vcInsert {s : State} {r : Nat} {v : Victim} (h : Canonical s) : Canonical (s.vcInsert r v) := by
  unfold State.vcInsert
  refine .record ?_
  refine .vcDrop ?_
  split
  · exact .vcDrop h
  · exact h

theorem Canonical.serveOffer {s : State} {canvas : Nat} {v : Victim} (h : Canonical s) : Canonical (s.serveOffer canvas v) := by
  unfold State.serveOffer
  split
  · exact h
  · exact .ite (.ite (.vcInsert h) (.tierWrite h)) (.ite (.vcInsert h) (.bumpRun h))

theorem NextCanonical.victimOffer {canvas : Nat} {s : State} (h : Canonical s) : NextCanonical (execVictimOffer canvas s) := by
  unfold execVictimOffer
  dsimp only
  split
  · exact .next h
  · exact .next (.serveOffer (.record h))

theorem Canonical.offersFor {s : State} {line : Nat} (h : Canonical s) : Canonical (s.offersFor line) := by
  unfold State.offersFor
  dsimp only
  exact .foldl (fun _ _ ht => .ite ht (.foldl (fun _ _ hu => .serveOffer hu) (.record ht))) h

theorem Canonical.setCacheSet {s : State} {agent set : Nat} {x : CacheSet} (h : Canonical s) : Canonical (s.setCacheSet agent set x) :=
  .ite (.record h) (.record h)

theorem Canonical.setAgentState {s : State} {agent sector : Nat} {st : Sector} (h : Canonical s) : Canonical (s.setAgentState agent sector st) := by
  unfold State.setAgentState
  dsimp only
  split
  · exact h
  · exact .setCacheSet h

theorem Canonical.setMirror {s : State} {home agent line : Nat} {m : MirrorSet} (h : Canonical s) : Canonical (s.setMirror home agent line m) :=
  .record h

theorem Canonical.setView {s : State} {home agent sector : Nat} {v : MirrorView} (h : Canonical s) : Canonical (s.setView home agent sector v) := by
  unfold State.setView
  dsimp only
  split
  · exact h
  · exact .setMirror h

theorem Canonical.cohCount {s : State} {f : Fld} {home : Nat} (h : Canonical s) : Canonical (s.cohCount f home) := .bumpRun h

theorem Canonical.dirtyOut {s : State} {agent sector : Nat} (h : Canonical s) : Canonical (s.dirtyOut agent sector) :=
  .tierWrite (.ite (.bumpRun h) h)

theorem Canonical.snoopInvalidate {s : State} {home agent sector : Nat} {back : Bool} (h : Canonical s) :
    Canonical (s.snoopInvalidate home agent sector back) := .setView (.setAgentState (.ite (.dirtyOut (.cohCount h)) (.cohCount h)))

theorem Canonical.snoopShared {s : State} {home agent sector : Nat} (h : Canonical s) : Canonical (s.snoopShared home agent sector) := by
  unfold State.snoopShared
  dsimp only
  split
  · exact .setView (.setAgentState (.cohCount h))
  · exact .cohCount h
  · exact .setView (.setAgentState (.cohCount h))
  · exact .setView (.cohCount h)
  · exact .setView (.cohCount h)

theorem Canonical.snoopPurge {s : State} {home agent line : Nat} (h : Canonical s) : Canonical (s.snoopPurge home agent line) :=
  .setMirror (.ite (.wr (.setCacheSet (.cohCount (.cohCount h)))) (.setCacheSet (.cohCount (.cohCount h))))

theorem Canonical.invalidateHolders {s : State} {home sector : Nat} {except : Option Nat} {back : Bool} (h : Canonical s) :
    Canonical (s.invalidateHolders home sector except back) :=
  .foldl (fun _ _ ht => .ite ht (.ite (.snoopInvalidate ht) (.ite (.snoopPurge ht) ht))) h

theorem Canonical.recallWay {s : State} {home agent line key : Nat} (h : Canonical s) : Canonical (s.recallWay home agent line key) := by
  unfold State.recallWay
  dsimp only
  split
  · exact h
  · exact .foldl (fun _ _ ht => .snoopInvalidate ht) (.cohCount h)

theorem Canonical.mirrorRoom {s : State} {home agent line : Nat} (h : Canonical s) : Canonical (s.mirrorRoom home agent line) := by
  unfold State.mirrorRoom
  refine .ite h ?_
  dsimp only
  split
  · refine .setMirror ?_
    refine .ite h ?_
    split
    · exact .ite (.setMirror (.ite (.cohCount h) (.bump (.cohCount h)))) (.recallWay h)
    · exact .recallWay h
  · refine .ite h ?_
    split
    · exact .ite (.setMirror (.ite (.cohCount h) (.bump (.cohCount h)))) (.recallWay h)
    · exact .recallWay h

theorem Canonical.evictSector {s : State} {agent sector : Nat} {st : Sector} (h : Canonical s) : Canonical (s.evictSector agent sector st) := by
  unfold State.evictSector
  split
  · exact h
  · exact .ite (.setView h) h

theorem Canonical.drawIf {s : State} {c : Prop} [Decidable c] (h : Canonical s) : Canonical (if c then s.draw else (0, s)).2 := by
  split
  · exact .draw h
  · exact h

theorem Canonical.cacheRoom {s : State} {agent line : Nat} {stream : Bool} (h : Canonical s) : Canonical (s.cacheRoom agent line stream) := by
  unfold State.cacheRoom
  dsimp only
  refine .ite h ?_
  have hd := Canonical.drawIf (c := 16 ≤ agent) h
  generalize (if 16 ≤ agent then s.draw else (0, s)) = p at hd ⊢
  refine .setCacheSet (.ite (.record ?_) ?_)
  all_goals
    split
    · exact hd
    · refine .ite (.record ?_) ?_
      all_goals exact .foldl (fun _ _ ht => .ite (.bumpRun (.evictSector ht)) (.ite (.tierWrite (.evictSector ht)) (.evictSector ht))) hd

theorem FstCanonical.vcLookup {s : State} {home sector : Nat} {take : Bool} (h : Canonical s) : FstCanonical (s.vcLookup home sector take) := by
  unfold State.vcLookup
  refine .ite ?_ (.pair h)
  dsimp only
  split
  · exact .pair (.vcDrop (.bump (.offersFor h)))
  · exact .pair (.bump (.offersFor h))

theorem Canonical.homeFill {s : State} {home agent sector : Nat} {data : Bool} (h : Canonical s) :
    Canonical (s.homeFill home agent sector data) := by
  unfold State.homeFill
  dsimp only
  exact .ite (.of_fst (.vcLookup h)) (.foldl (fun _ _ ht => .readBurst (.atomFlush ht)) (.of_fst (.vcLookup h)))

theorem Canonical.serveReadShared {s : State} {home agent sector : Nat} {stream : Bool} (h : Canonical s) :
    Canonical (s.serveReadShared home agent sector stream) := by
  unfold State.serveReadShared
  refine .setView ?_
  refine .setAgentState ?_
  refine .homeFill ?_
  split
  · exact .snoopShared (.mirrorRoom (.cacheRoom h))
  · exact .mirrorRoom (.cacheRoom h)

theorem Canonical.serveUnique {s : State} {home agent sector : Nat} {data stream : Bool} (h : Canonical s) :
    Canonical (s.serveUnique home agent sector data stream) :=
  .setView (.setAgentState (.homeFill (.invalidateHolders (.mirrorRoom (.cacheRoom h)))))

theorem Canonical.serveCoh {s : State} {home agent sector : Nat} {k : CohKind} (h : Canonical s) : Canonical (s.serveCoh home agent sector k) := by
  unfold State.serveCoh
  split
  · exact .serveReadShared h
  · exact .serveUnique h
  · exact .serveUnique h
  · exact .serveUnique h
  · exact .setView h
  · exact .ite (.record h) (.ite (.serveOffer (.bumpRun (.setView (.record h)))) (.tierWrite (.setView (.record h))))

theorem Canonical.serveWaiting {home sector n : Nat} {s : State} (h : Canonical s) : Canonical (State.serveWaiting home sector n s) := by
  induction n generalizing s with
  | zero => exact h
  | succ n ih =>
    unfold State.serveWaiting
    dsimp only
    refine .ite h ?_
    split
    · exact h
    · exact ih (.ite (.record (.serveCoh (.record h))) (.serveCoh (.record h)))

theorem Canonical.cohRequest {s : State} {agent sector : Nat} {k : CohKind} (h : Canonical s) : Canonical (s.cohRequest agent sector k) := by
  unfold State.cohRequest
  split
  · exact h
  · exact .ite (.record h) (.serveWaiting (.record h))

theorem NextCanonical.cohFromI {s : State} {agent sector : Nat} {k : CohKind} (h : Canonical s) : NextCanonical (s.cohFromI agent sector k) :=
  .next (.ite (.cohRequest h) h)

theorem NextCanonical.readShared {agent sector : Nat} {s : State} (h : Canonical s) : NextCanonical (execReadShared agent sector s) := .cohFromI h
theorem NextCanonical.readUnique {agent sector : Nat} {s : State} (h : Canonical s) : NextCanonical (execReadUnique agent sector s) := .cohFromI h

theorem NextCanonical.readUniqueNoData {agent sector : Nat} {s : State} (h : Canonical s) :
    NextCanonical (execReadUniqueNoData agent sector s) := .cohFromI h

theorem NextCanonical.upgrade {agent sector : Nat} {s : State} (h : Canonical s) : NextCanonical (execUpgrade agent sector s) := by
  unfold execUpgrade
  split
  · exact .next h
  · exact .next h
  · exact .next (.cohRequest h)

theorem NextCanonical.cleanEvict {agent sector : Nat} {s : State} (h : Canonical s) : NextCanonical (execCleanEvict agent sector s) := by
  unfold execCleanEvict
  split
  · exact .next (.ite (.setAgentState h) (.cohRequest (.setAgentState h)))
  · exact .next (.ite (.setAgentState h) (.cohRequest (.setAgentState h)))
  · exact .next h

theorem NextCanonical.writeBack {agent sector : Nat} {s : State} (h : Canonical s) : NextCanonical (execWriteBack agent sector s) := by
  unfold execWriteBack
  split
  · exact .ite (.next (.cohRequest (.record (.setAgentState h)))) (.next h)
  · exact .next h

theorem NextCanonical.grantAcknowledge {agent sector : Nat} {s : State} (h : Canonical s) :
    NextCanonical (execGrantAcknowledge agent sector s) := by
  unfold execGrantAcknowledge
  dsimp only
  split
  · exact .next h
  · exact .ite (.next (.serveWaiting (.record h))) (.next h)

theorem NextCanonical.snoopShared {agent sector : Nat} {s : State} (h : Canonical s) : NextCanonical (execSnoopShared agent sector s) := by
  unfold execSnoopShared
  split
  · exact .next (.snoopShared h)
  · exact .next h

theorem NextCanonical.snoopInvalidate {agent sector : Nat} {s : State} (h : Canonical s) : NextCanonical (execSnoopInvalidate agent sector s) := by
  unfold execSnoopInvalidate
  split
  · exact .next (.snoopInvalidate h)
  · exact .next h

theorem NextCanonical.snoopPeek {agent sector : Nat} {s : State} (h : Canonical s) : NextCanonical (execSnoopPeek agent sector s) := by
  unfold execSnoopPeek
  split
  · exact .next (.ite (.cohCount h) (.setView (.cohCount h)))
  · exact .next h

theorem NextCanonical.snoopPurge {agent line : Nat} {s : State} (h : Canonical s) : NextCanonical (execSnoopPurge agent line s) := by
  unfold execSnoopPurge
  split
  · exact .next (.ite (.snoopPurge h) h)
  · exact .next h

/-- A read that finds no victim goes to its rows. -/
theorem Canonical.unlessHit {p : State × Bool} {blocks : List Nat} (h : FstCanonical p) :
    Canonical (if p.2 then p.1 else blocks.foldl (fun (t : State) b => if t.atomHeld b then t else t.readBurst b) p.1) :=
  .ite (.of_fst h) (.foldl (fun _ _ ht => .ite ht (.readBurst ht)) (.of_fst h))

theorem Canonical.ncRead {s : State} {home sector : Nat} {blocks : List Nat} (h : Canonical s) : Canonical (s.ncRead home sector blocks) := by
  unfold State.ncRead
  dsimp only
  split
  · exact .ite (.of_fst (.vcLookup (.cohCount h))) (.unlessHit (.vcLookup (.setView (.cohCount h))))
  · exact .unlessHit (.vcLookup h)

theorem Canonical.ncWrite {s : State} {home sector : Nat} {whole : Bool} {blocks : List (Nat × Bool)} (h : Canonical s) :
    Canonical (s.ncWrite home sector whole blocks) := by
  unfold State.ncWrite
  dsimp only
  split
  · exact .record (.of_fst (.vcLookup (.invalidateHolders h)))
  · exact .foldl (fun _ _ ht => .ite ht (.writeBurst (.ite ht (.readBurst ht)))) (.of_fst (.vcLookup (.invalidateHolders h)))

theorem Canonical.ncAtomic {s : State} {home b : Nat} (h : Canonical s) : Canonical (s.ncAtomic home b) := by
  unfold State.ncAtomic
  dsimp only
  exact .atomUse (.of_fst (.vcLookup (.invalidateHolders h)))

theorem Canonical.ncReadRange {s : State} {a n : Nat} (h : Canonical s) : Canonical (s.ncReadRange a n) := by
  unfold State.ncReadRange
  refine .foldl (fun _ _ ht => ?_) h
  split
  · exact .ncRead ht
  · exact ht

theorem Canonical.ncWriteRange {s : State} {a : Nat} {bs : List Byte} (h : Canonical s) : Canonical (s.ncWriteRange a bs) := by
  unfold State.ncWriteRange
  refine .writeMem ?_
  refine .foldl (fun _ _ ht => ?_) h
  split
  · exact .ncWrite ht
  · exact ht

theorem Canonical.l2Touch {s : State} {canvas line : Nat} {stream : Bool} (h : Canonical s) : Canonical (s.l2Touch canvas line stream) := by
  unfold State.l2Touch
  dsimp only
  split
  · exact h
  · exact .setCacheSet h

theorem Canonical.l2Read {s : State} {canvas line mask : Nat} {stream : Bool} (h : Canonical s) : Canonical (s.l2Read canvas line mask stream) := by
  unfold State.l2Read
  refine .ite (.l2Touch (.bumpRun h)) ?_
  refine .foldl (fun _ _ ht => ?_) (.ite (.l2Touch (.bumpRun h)) (.bumpRun h))
  split
  · exact .serveReadShared ht
  · exact ht

theorem Canonical.l2Write {s : State} {canvas line mask full : Nat} (h : Canonical s) : Canonical (s.l2Write canvas line mask full) := by
  unfold State.l2Write
  refine .foldl (fun _ _ ht => ?_) (.l2Touch (.ite (.bumpRun h) (.ite (.bumpRun h) h)))
  dsimp only
  split
  · exact ht
  · split
    · exact ht
    · exact .setAgentState ht
    · exact .serveUnique ht
    · exact .serveUnique ht
    · exact .serveUnique ht

theorem Canonical.bypassWrite {s : State} {canvas line : Nat} (h : Canonical s) : Canonical (s.bypassWrite canvas line) := by
  unfold State.bypassWrite
  refine .tierWrite ?_
  split
  · split
    · refine .record ?_
      refine .offersFor ?_
      refine .foldl (fun _ _ ht => ?_) (.bumpRun h)
      split
      · exact .invalidateHolders ht
      · exact ht
    · refine .offersFor ?_
      refine .foldl (fun _ _ ht => ?_) (.bumpRun h)
      split
      · exact .invalidateHolders ht
      · exact ht
  · refine .offersFor ?_
    refine .foldl (fun _ _ ht => ?_) (.bumpRun h)
    split
    · exact .invalidateHolders ht
    · exact ht

theorem Canonical.l2Store {s : State} {core line mask full : Nat} (h : Canonical s) : Canonical (s.l2Store core line mask full) :=
  .ite (.bypassWrite (.record h)) (.l2Write (.record h))

theorem Canonical.reclaimPoison {s : State} {home sector : Nat} (h : Canonical s) : Canonical (s.reclaimPoison home sector) :=
  .bump (.markPoison (.markPoison h))

theorem Canonical.reclaimOwner_ask {home sector : Nat} {l : List Nat} {t : State} (h : Canonical t) :
    Canonical (State.reclaimOwner.ask home sector l t) := by
  induction l generalizing t with
  | nil => exact .reclaimPoison h
  | cons a l ih => exact .ite (.tierWrite (.snoopShared h)) (ih (.snoopShared h))

theorem Canonical.reclaimOwner {s : State} {home agent sector : Nat} (h : Canonical s) : Canonical (s.reclaimOwner home agent sector) := by
  unfold State.reclaimOwner
  split
  · exact .reclaimPoison h
  · exact .reclaimOwner_ask h
  · exact h

theorem Canonical.reclaimAt {s : State} {home agent : Nat} (h : Canonical s) : Canonical (s.reclaimAt home agent) :=
  .hwEvent (.record (.wr (.foldl (fun _ _ ht => .ite (.reclaimPoison ht) (.reclaimOwner ht)) h)))

theorem NextCanonical.agentReclaim {agent : Nat} {s : State} (h : Canonical s) : NextCanonical (execAgentReclaim agent s) := by
  unfold execAgentReclaim
  refine .ite ?_ (.next h)
  refine .next ?_
  refine .foldl (fun _ _ ht => ?_) (.foldl (fun _ _ ht => .wr ht) (.record (.foldl (fun _ _ ht => .reclaimAt ht) h)))
  split
  · exact .ite ht (.serveWaiting ht)
  · exact ht

theorem NextCanonical.nonCachingRead {sector : Nat} {s : State} (h : Canonical s) : NextCanonical (execNonCachingRead sector s) :=
  .next (.ncReadRange h)

theorem NextCanonical.nonCachingWrite {sector offset : Nat} {bytes : List Byte} {s : State} (h : Canonical s) :
    NextCanonical (execNonCachingWrite sector offset bytes s) := .ite (.next (.ncWriteRange h)) (.next h)

theorem Canonical.atomicAt {s : State} {a : Nat} {op : AtomOp} {signed : Bool} {size b c : Nat} (h : Canonical s) :
    Canonical (s.atomicAt a op signed size b c) := .ite h (.writeMem h)

theorem NextCanonical.nonCachingAtomic {addr : Nat} {op : AtomOp} {size data cmp : Nat} {s : State} (h : Canonical s) :
    NextCanonical (execNonCachingAtomic addr op size data cmp s) := by
  unfold execNonCachingAtomic
  split
  · exact .ite (.next (.atomicAt (.ncAtomic h))) (.next h)
  · exact .next h

-- memory stacks and region SRAM

theorem Canonical.throttleAcc {s : State} {k : Nat} (h : Canonical s) : Canonical (s.throttleAcc k) := by
  unfold State.throttleAcc
  dsimp only
  split
  · exact h
  · exact .stkCount (.record h)

theorem NextCanonical.stackTempRead {stack temp : Nat} {s : State} (h : Canonical s) : NextCanonical (execStackTempRead stack temp s) :=
  .ite (.ite (.next (.ite (.wr (.throttleAcc (.wr h))) (.ite (.wr (.throttleAcc (.wr h))) (.throttleAcc (.wr h))))) (.next (.ite (.record (.ite (.wr
      (.throttleAcc (.wr h))) (.ite (.wr (.throttleAcc (.wr h))) (.throttleAcc (.wr h))))) (.hwEvent (.wr (.record (.ite (.wr (.throttleAcc (.wr
      h))) (.ite (.wr (.throttleAcc (.wr h))) (.throttleAcc (.wr h)))))))))) (.next h)

theorem NextCanonical.stackOffline {stack : Nat} {s : State} (h : Canonical s) : NextCanonical (execStackOffline stack s) :=
  .ite (.next (.stackDown (.throttleAcc h))) (.next h)

theorem NextCanonical.scrub {stack addr : Nat} {result : ScrubResult} {s : State} (h : Canonical s) :
    NextCanonical (execScrub stack addr result s) := by
  unfold execScrub
  refine .ite ?_ ?_
  · split
    · exact .next h
    · exact .next (.hwEvent (.writeBurst h))
    · exact .next (.hwEvent (.markPoison h))
  · split
    · refine .ite ?_ (.next h)
      split
      · exact .next h
      · exact .next (.hwEvent h)
      · exact .next (.hwEvent (.markPoison h))
    · exact .next h

theorem Canonical.recallRange {s : State} {home lo hi : Nat} {back : Bool} (h : Canonical s) : Canonical (s.recallRange home lo hi back) :=
  .foldl (fun _ _ ht => .foldl (fun _ _ hu => .ite (.snoopInvalidate hu) hu) ht) h

theorem Canonical.writeSramCfg {s : State} {q : RegWriteReq} (h : Canonical s) : Canonical (s.writeSramCfg q) :=
  .ite (.accessError h) (.ite (.accessError h) (.ite (.store h) (.record (.ite (.recallRange (.foldl (fun _ _ ht => .vcDrop ht) (.wr (.store h))))
      (.foldl (fun _ _ ht => .vcDrop ht) (.wr (.store h)))))))

theorem NextCanonical.splitChange {a : Access} {s : State} (h : Canonical s) : NextCanonical (execSplitChange a s) :=
  .onWrite h (fun _ => .writeSramCfg h)

theorem NextCanonical.splitChangeDone {region : Nat} {s : State} (h : Canonical s) : NextCanonical (execSplitChangeDone region s) := by
  unfold execSplitChangeDone
  dsimp only
  split
  · exact .next h
  · exact .next (.wr (.wr (.foldl (fun _ _ ht => .clearReg ht) (.record (.zeroRange h)))))

theorem NextCanonical.fineRequest {ctx va : Nat} {op : FineOp} {s : State} (h : Canonical s) : NextCanonical (execFineRequest ctx va op s) := by
  unfold execFineRequest
  refine .ite ?_ (.next h)
  split
  · next _ _ he =>
    have h₁ := Canonical.of_eq_mk he (.access h)
    split
    · exact .next (.ncReadRange h₁)
    · exact .next (.ncWriteRange h₁)
    · split
      · exact .next (.atomicAt (.ncAtomic h₁))
      · exact .next h₁
  · next _ _ he => exact .next (.of_eq_mk he (.access h))

-- fault records and grants

theorem Canonical.failCmd {s : State} {q seq status : Nat} (h : Canonical s) : Canonical (s.failCmd q seq status) := by
  unfold State.failCmd
  split
  · exact .endCmd h
  · exact h

theorem Canonical.stopQueue {s : State} {q error : Nat} (h : Canonical s) : Canonical (s.stopQueue q error) := .ite h (.wr (.wr h))
theorem Canonical.ringFails {s : State} {q : Nat} (h : Canonical s) : Canonical (s.ringFails q) := .stopQueue (.setQueue h)
theorem Canonical.pushFault {s : State} {c : Nat} {f : PendFault} (h : Canonical s) : Canonical (s.pushFault c f) := .setCore h
theorem Canonical.resolveCore {s : State} {c r n : Nat} {o : XfrOutcome} (h : Canonical s) : Canonical (s.resolveCore c r n o) := .setCore h

theorem Canonical.resolveQueue {s : State} {q r n : Nat} {o : XfrOutcome} (h : Canonical s) : Canonical (s.resolveQueue q r n o) :=
  .ite (.ite (.ringFails (.setQueue (.foldl (fun _ _ ht => .ite (.failCmd (.updCmd ht)) (.updCmd ht)) h))) (.setQueue (.foldl (fun _ _ ht => .ite
      (.failCmd (.updCmd ht)) (.updCmd ht)) h))) (.foldl (fun _ _ ht => .ite (.failCmd (.updCmd ht)) (.updCmd ht)) h)

theorem Canonical.writeXfrRespond {s : State} {q : RegWriteReq} (h : Canonical s) : Canonical (s.writeXfrRespond q) := by
  unfold State.writeXfrRespond
  dsimp only
  split
  · exact h
  · exact .ite (.record (.foldl (fun _ _ ht => .resolveQueue ht) (.foldl (fun _ _ ht => .ite (.resolveCore ht) ht) (.xfrStatus (.record h)))))
      (.bumpSat h)

theorem NextCanonical.onRespond {s : State} {a : Access} {k : Nat} (h : Canonical s) : NextCanonical (s.onRespond a k) :=
  .onWrite h (fun _ => .ite (.writeXfrRespond h) h)

theorem NextCanonical.xfrRetry {a : Access} {s : State} (h : Canonical s) : NextCanonical (execXfrRetry a s) := .onRespond h
theorem NextCanonical.xfrFailUnmapped {a : Access} {s : State} (h : Canonical s) : NextCanonical (execXfrFailUnmapped a s) := .onRespond h
theorem NextCanonical.xfrFailPermission {a : Access} {s : State} (h : Canonical s) : NextCanonical (execXfrFailPermission a s) := .onRespond h
theorem Canonical.writeXfrRead {s : State} {q : RegWriteReq} (h : Canonical s) : Canonical (s.writeXfrRead q) := .ite h (.store h)

theorem NextCanonical.xfrReadWrite {a : Access} {s : State} (h : Canonical s) : NextCanonical (execXfrReadWrite a s) :=
  .onWrite h (fun _ => .writeXfrRead h)

theorem Canonical.writeXfrBase {s : State} {q : RegWriteReq} (h : Canonical s) : Canonical (s.writeXfrBase q) :=
  .ite (.accessError h) (.ite (.store h) (.accessError h))

theorem Canonical.dropTranslations {s : State} {ctx : Nat} (h : Canonical s) : Canonical (s.dropTranslations ctx) := .record h
theorem Canonical.writeTlbInv {s : State} {q : RegWriteReq} (h : Canonical s) : Canonical (s.writeTlbInv q) := .ite (.wr (.dropTranslations h)) h

theorem NextCanonical.tlbInvalidate {a : Access} {done : Bool} {s : State} (h : Canonical s) : NextCanonical (execTlbInvalidate a done s) := by
  unfold execTlbInvalidate
  refine .ite ?_ (.onWrite h (fun _ => .writeTlbInv h))
  split
  · exact .next (.ite (.wr h) h)
  · exact .next h

theorem Canonical.writePt {s : State} {q : RegWriteReq} (h : Canonical s) : Canonical (s.writePt q) :=
  .ite (.accessError h) (.dropTranslations (.store h))

theorem NextCanonical.ctxPtWrite {a : Access} {s : State} (h : Canonical s) : NextCanonical (execCtxPtWrite a s) := .onWrite h (fun _ => .writePt h)

theorem NextCanonical.sfenceBroadcast {region _ctx : Nat} {va asid : Option Nat} {s : State} (h : Canonical s) :
    NextCanonical (execSfenceBroadcast region _ctx va asid s) := .ite (.next (.record h)) (.next h)

theorem Canonical.setGrant {s : State} {fm fc : Fld} {n pa mode ctx : Nat} (h : Canonical s) : Canonical (s.setGrant fm fc n pa mode ctx) :=
  .ite (.scramble (.wr (.wr h))) (.wr (.wr h))

theorem Canonical.writeGrant {s : State} {q : RegWriteReq} (h : Canonical s) : Canonical (s.writeGrant q) := by
  unfold State.writeGrant
  split
  · exact h
  · exact .ite (.accessError h) (.ite h (.setGrant (.ite (.recallRange h) h)))

theorem NextCanonical.grantWrite {a : Access} {s : State} (h : Canonical s) : NextCanonical (execGrantWrite a s) := by
  unfold execGrantWrite
  refine .onWrite h (fun _ => ?_)
  split
  · exact .ite (.writeGrant h) h
  · exact h

theorem NextCanonical.grantFlushWrite {a : Access} {s : State} (h : Canonical s) : NextCanonical (execGrantFlushWrite a s) := by
  unfold execGrantFlushWrite
  refine .onWrite h (fun _ => ?_)
  split
  · exact .ite (.writeGrant h) h
  · exact h

-- recording and replay

theorem Canonical.grantNone {s : State} {base size : Nat} (h : Canonical s) : Canonical (s.grantNone base size) := by
  unfold State.grantNone
  refine .foldl (fun _ _ ht => ?_) h
  split
  · exact .ite ht (.setGrant ht)
  · exact ht

theorem Canonical.recordStart {s : State} {p : Nat} (h : Canonical s) : Canonical (s.recordStart p) := by
  unfold State.recordStart
  dsimp only
  split
  · exact .skbPush (.setSkb (.wr (.wr (.wr (.grantNone (.wr (.wr (.wr h))))))))
  · exact .wr h

theorem Canonical.recordStop {s : State} {p : Nat} (h : Canonical s) : Canonical (s.recordStop p) :=
  .ite (.ite (.skbEnd (.wr h)) (.setSkb (.wr h))) (.wr h)

theorem Canonical.replayPause {s : State} {p : Nat} (h : Canonical s) : Canonical (s.replayPause p) := .ite (.wr h) h

theorem Canonical.replayStart {s : State} {p : Nat} (h : Canonical s) : Canonical (s.replayStart p) := by
  unfold State.replayStart
  dsimp only
  split
  · exact .ite (.replayEnd (.replayPause (.setSkb (.wr (.wr (.wr (.wr (.wr (.wr (.wr (.foldl (fun _ _ ht => .ite ht (.setReg (.setReg (.setReg
      (.setReg ht))))) h))))))))))) (.wr h)
  · exact .wr h

theorem Canonical.writeSkbCfg {s : State} {q : RegWriteReq} (h : Canonical s) : Canonical (s.writeSkbCfg q) := by
  unfold State.writeSkbCfg
  refine .ite (.ite (.wr (.ite (.wr (.ite (.ite (.accessError h) h) (.ite (.wr h) (.wr (.wr h))))) (.ite (.ite (.accessError h) h) (.ite (.wr h)
      (.wr (.wr h)))))) (.ite (.wr (.ite (.ite (.accessError h) h) (.ite (.wr h) (.wr (.wr h))))) (.ite (.ite (.accessError h) h) (.ite (.wr h) (.wr
      (.wr h)))))) ?_
  split
  · exact .recordStart (.ite (.wr (.ite (.wr (.ite (.ite (.accessError h) h) (.ite (.wr h) (.wr (.wr h))))) (.ite (.ite (.accessError h) h) (.ite
      (.wr h) (.wr (.wr h)))))) (.ite (.wr (.ite (.ite (.accessError h) h) (.ite (.wr h) (.wr (.wr h))))) (.ite (.ite (.accessError h) h) (.ite (.wr
      h) (.wr (.wr h))))))
  · exact .replayStart (.ite (.wr (.ite (.wr (.ite (.ite (.accessError h) h) (.ite (.wr h) (.wr (.wr h))))) (.ite (.ite (.accessError h) h) (.ite
      (.wr h) (.wr (.wr h)))))) (.ite (.wr (.ite (.ite (.accessError h) h) (.ite (.wr h) (.wr (.wr h))))) (.ite (.ite (.accessError h) h) (.ite (.wr
      h) (.wr (.wr h))))))
  · exact .recordStop (.ite (.wr (.ite (.wr (.ite (.ite (.accessError h) h) (.ite (.wr h) (.wr (.wr h))))) (.ite (.ite (.accessError h) h) (.ite
      (.wr h) (.wr (.wr h)))))) (.ite (.wr (.ite (.ite (.accessError h) h) (.ite (.wr h) (.wr (.wr h))))) (.ite (.ite (.accessError h) h) (.ite (.wr
      h) (.wr (.wr h))))))
  · exact .wr (.wr (.ite (.wr (.ite (.wr (.ite (.ite (.accessError h) h) (.ite (.wr h) (.wr (.wr h))))) (.ite (.ite (.accessError h) h) (.ite (.wr
      h) (.wr (.wr h)))))) (.ite (.wr (.ite (.ite (.accessError h) h) (.ite (.wr h) (.wr (.wr h))))) (.ite (.ite (.accessError h) h) (.ite (.wr h)
      (.wr (.wr h)))))))
  · exact .accessError (.ite (.wr (.ite (.wr (.ite (.ite (.accessError h) h) (.ite (.wr h) (.wr (.wr h))))) (.ite (.ite (.accessError h) h) (.ite
      (.wr h) (.wr (.wr h)))))) (.ite (.wr (.ite (.ite (.accessError h) h) (.ite (.wr h) (.wr (.wr h))))) (.ite (.ite (.accessError h) h) (.ite (.wr
      h) (.wr (.wr h))))))

theorem NextCanonical.onSkbMode {s : State} {a : Access} {was new : Nat} (h : Canonical s) : NextCanonical (s.onSkbMode a was new) :=
  .onWrite h (fun _ => .ite (.writeSkbCfg h) h)

theorem NextCanonical.recordStart {a : Access} {s : State} (h : Canonical s) : NextCanonical (execRecordStart a s) := .onSkbMode h
theorem NextCanonical.recordStop {a : Access} {s : State} (h : Canonical s) : NextCanonical (execRecordStop a s) := .onSkbMode h
theorem NextCanonical.replayStart {a : Access} {s : State} (h : Canonical s) : NextCanonical (execReplayStart a s) := .onSkbMode h
theorem NextCanonical.replayStop {a : Access} {s : State} (h : Canonical s) : NextCanonical (execReplayStop a s) := .onSkbMode h

theorem NextCanonical.skbRelease {a : Access} {s : State} (h : Canonical s) : NextCanonical (execSkbRelease a s) :=
  .onWrite h (fun _ => .ite (.writeSkbCfg h) h)

theorem Canonical.flushBuf {s : State} {p : Nat} (h : Canonical s) : Canonical (s.flushBuf p) :=
  .skbOcc (.setSkb (.foldl (fun _ _ ht => .bump (.bump (.writeMem ht))) h))

theorem Canonical.unstallGroups {s : State} {p : Nat} (h : Canonical s) : Canonical (s.unstallGroups p) := .record h

theorem NextCanonical.journalFlush {part : Nat} {s : State} (h : Canonical s) : NextCanonical (execJournalFlush part s) :=
  .ite (.next (.unstallGroups (.ite (.flushBuf (.skbEnd (.flushBuf h))) (.flushBuf h)))) (.next h)

theorem Canonical.writeSkbMark {s : State} {q : RegWriteReq} (h : Canonical s) : Canonical (s.writeSkbMark q) := .ite (.markPulse (.journal h)) h
theorem NextCanonical.skbMark {a : Access} {s : State} (h : Canonical s) : NextCanonical (execSkbMark a s) := .onWrite h (fun _ => .writeSkbMark h)

theorem Canonical.serveCheck {s : State} {p : Nat} (h : Canonical s) : Canonical (s.serveCheck p) := by
  unfold State.serveCheck
  split
  · exact h
  · refine .ite h ?_
    dsimp only
    split
    · exact .ite (.wr (.setSkb h)) (.diverge (.wr (.setSkb h)))
    · exact .journal (.wr (.setSkb h))

theorem Canonical.writeCheckAddr {s : State} {q : RegWriteReq} (h : Canonical s) : Canonical (s.writeCheckAddr q) :=
  .ite (.accessError h) (.store h)

theorem Canonical.writeCheckLen {s : State} {q : RegWriteReq} (h : Canonical s) : Canonical (s.writeCheckLen q) :=
  .ite (.accessError h) (.ite h (.ite (.accessError h) (.serveCheck (.setSkb (.wr h)))))

theorem NextCanonical.skbCheck {a : Access} {s : State} (h : Canonical s) : NextCanonical (execSkbCheck a s) :=
  .onWrite h (fun _ => .ite (.writeCheckAddr h) (.writeCheckLen h))

theorem Canonical.writeSkbSetup {s : State} {q : RegWriteReq} (h : Canonical s) : Canonical (s.writeSkbSetup q) :=
  .ite (.accessError h) (.ite (.accessError h) (.store h))

theorem Canonical.writePauseSeq {s : State} {q : RegWriteReq} (h : Canonical s) : Canonical (s.writePauseSeq q) := .replayPause (.store h)

theorem NextCanonical.replayPauseSeq {a : Access} {s : State} (h : Canonical s) : NextCanonical (execReplayPauseSeq a s) :=
  .onWrite h (fun _ => .writePauseSeq h)

theorem NextCanonical.replayStall {part : Nat} {s : State} (h : Canonical s) : NextCanonical (execReplayStall part s) :=
  .ite (.next (.diverge h)) (.next h)

end Sys2Proof.Machine
end

section
/-! PROOFS. The canonical form of memory through queues, host commands, resets and the resident operators (O59). -/

namespace Sys2Proof.Machine

open Sys2Proof.Claims

-- queues and their commands

theorem FstCanonical.engineAccess {s : State} {e : EngineInfo} {va : Nat} {k : AccKind} (h : Canonical s) :
    FstCanonical (s.engineAccess e va k) := by
  unfold State.engineAccess
  split
  · next _ _ he => exact .pair (.of_eq_mk he (.access h))
  · next _ he => exact .pair (.of_eq_mk he (.access h))
  · next _ _ _ _ he => exact .pair (.of_fst (.xfrReport (.of_eq_mk he (.access h))))
  · next _ _ he => exact .pair (.of_eq_mk he (.access h))

theorem FstCanonical.ctxReadPages {e : EngineInfo} {l : List (Nat × Nat)} {s : State} (h : Canonical s) :
    FstCanonical (State.ctxReadPages e l s) := by
  induction l generalizing s with
  | nil => exact .pair h
  | cons x l ih =>
    unfold State.ctxReadPages
    split
    · next _ _ he =>
      have h₁ := Canonical.of_eq_mk he (.engineAccess h)
      refine .ite (.pair h₁) ?_
      split
      · next _ _ he => exact .pair (.of_eq_mk he (ih (.ncReadRange h₁)))
      · exact ih (.ncReadRange h₁)
    · next _ _ he => exact .pair (.of_eq_mk he (.engineAccess h))
    · next _ _ he => exact .pair (.of_eq_mk he (.engineAccess h))
    · next _ he => exact .pair (.of_eq_mk he (.engineAccess h))

theorem FstCanonical.ctxRead {s : State} {e : EngineInfo} {va n : Nat} (h : Canonical s) : FstCanonical (s.ctxRead e va n) := .ctxReadPages h

theorem FstCanonical.ctxWritePages {e : EngineInfo} {l : List (Nat × Nat)} {bs : List Byte} {s : State} (h : Canonical s) :
    FstCanonical (State.ctxWritePages e l bs s) := by
  induction l generalizing s bs with
  | nil => exact .pair h
  | cons x l ih =>
    unfold State.ctxWritePages
    split
    · next _ _ he => exact ih (.ncWriteRange (.of_eq_mk he (.engineAccess h)))
    · next _ _ he => exact .pair (.of_eq_mk he (.engineAccess h))
    · next _ _ he => exact .pair (.of_eq_mk he (.engineAccess h))
    · next _ he => exact .pair (.of_eq_mk he (.engineAccess h))

theorem FstCanonical.ctxWrite {s : State} {e : EngineInfo} {va : Nat} {bs : List Byte} (h : Canonical s) : FstCanonical (s.ctxWrite e va bs) :=
  .ctxWritePages h

theorem Canonical.queueDrained {s : State} {q : Nat} (h : Canonical s) : Canonical (s.queueDrained q) := .ite (.wr h) h

theorem Canonical.abortCmds {s : State} {q status : Nat} {test : Cmd → Bool} (h : Canonical s) : Canonical (s.abortCmds q status test) := by
  unfold State.abortCmds
  refine .foldl (fun _ _ ht => ?_) h
  split
  · exact .stopTask ht
  · exact .failCmd ht

theorem Canonical.enableQueue {s : State} {q : Nat} (h : Canonical s) : Canonical (s.enableQueue q) :=
  .ite (.stopQueue (.wr (.wr (.wr (.setQueue h))))) (.wr (.wr (.wr (.setQueue h))))

theorem Canonical.disableQueue {s : State} {q : Nat} (h : Canonical s) : Canonical (s.disableQueue q) := .queueDrained (.abortCmds (.wr (.wr h)))

theorem Canonical.writeQpCfg {s : State} {r : RegWriteReq} (h : Canonical s) : Canonical (s.writeQpCfg r) := by
  unfold State.writeQpCfg
  dsimp only
  exact .ite (.accessError h) (.ite (.ite (.wr (.store (.of_fst (.ite (.pair (.accessError h)) (.pair h))))) (.store (.of_fst (.ite (.pair
      (.accessError h)) (.pair h))))) (.ite (.ite (.accessError (.ite (.wr (.store (.of_fst (.ite (.pair (.accessError h)) (.pair h))))) (.store
      (.of_fst (.ite (.pair (.accessError h)) (.pair h)))))) (.enableQueue (.ite (.wr (.store (.of_fst (.ite (.pair (.accessError h)) (.pair h)))))
      (.store (.of_fst (.ite (.pair (.accessError h)) (.pair h))))))) (.disableQueue (.ite (.wr (.store (.of_fst (.ite (.pair (.accessError h))
      (.pair h))))) (.store (.of_fst (.ite (.pair (.accessError h)) (.pair h))))))))

theorem Canonical.writeQpBase {s : State} {r : RegWriteReq} (h : Canonical s) : Canonical (s.writeQpBase r) :=
  .ite (.accessError h) (.ite h (.store h))

theorem Canonical.writeQpDlb {s : State} {r : RegWriteReq} (h : Canonical s) : Canonical (s.writeQpDlb r) := .ite (.store h) (.accessError h)

theorem NextCanonical.queueEnable {a : Access} {s : State} (h : Canonical s) : NextCanonical (execQueueEnable a s) :=
  .onWrite h (fun _ => .ite (.writeQpCfg h) h)

theorem NextCanonical.queueDisable {a : Access} {s : State} (h : Canonical s) : NextCanonical (execQueueDisable a s) :=
  .onWrite h (fun _ => .ite (.writeQpCfg h) h)

theorem NextCanonical.sqDoorbell {fn q value : Nat} {s : State} (h : Canonical s) : NextCanonical (execSqDoorbell fn q value s) :=
  .ite (.next (.accessError h)) (.next (.ite (.stopQueue (.setQueue h)) (.setQueue h)))

theorem NextCanonical.cqDoorbell {fn q value : Nat} {s : State} (h : Canonical s) : NextCanonical (execCqDoorbell fn q value s) :=
  .ite (.next (.accessError h)) (.next (.ite (.stopQueue (.setQueue h)) (.setQueue h)))

theorem Canonical.acceptCmd {s : State} {q : Nat} {header data : List Byte} (h : Canonical s) : Canonical (s.acceptCmd q header data) := by
  unfold State.acceptCmd
  dsimp only
  split
  · exact .endCmd (.setQueue (.journalCtx h))
  · exact .setQueue (.journalCtx h)

theorem FstCanonical.readEntries {q n i : Nat} {s : State} (h : Canonical s) : FstCanonical (State.readEntries q n i s) := by
  induction n generalizing s i with
  | zero => exact .pair h
  | succ n ih =>
    unfold State.readEntries
    dsimp only
    split
    · next _ _ he =>
      have h₁ := Canonical.of_eq_mk he (.ctxRead h)
      split
      · next _ _ he => exact .pair (.of_eq_mk he (ih h₁))
      · exact ih h₁
    · exact .ctxRead h

theorem FstCanonical.readCommand {s : State} {q : Nat} {ans : HostAns} (h : Canonical s) : FstCanonical (s.readCommand q ans) := by
  unfold State.readCommand
  refine .ite ?_ ?_
  · split
    · next _ _ he =>
      have h₁ := Canonical.of_eq_mk he (.readEntries h)
      split
      · next _ _ he => exact .pair (.of_eq_mk he (.readEntries h₁))
      · exact .readEntries h₁
    · exact .readEntries h
  · split
    · exact .pair h
    · exact .ite (.pair h) (.pair h)

theorem NextCanonical.commandFetch {q : Nat} {ans : HostAns} {s : State} (h : Canonical s) : NextCanonical (execCommandFetch q ans s) := by
  unfold execCommandFetch
  refine .ite ?_ (.next h)
  split
  · next _ _ he =>
    have h₁ := Canonical.of_eq_mk he (.readCommand h)
    exact .ite (.next (.stopQueue h₁)) (.ite (.next h₁) (.next (.acceptCmd (.wr h₁))))
  · next _ _ he => exact .next (.ringFails (.of_eq_mk he (.readCommand h)))
  · next _ _ he => exact .next (.setQueue (.of_eq_mk he (.readCommand h)))
  · next _ he => exact .next (.of_eq_mk he (.readCommand h))

theorem Canonical.journalRecord {s : State} {q : Nat} {c : Cmd} (h : Canonical s) : Canonical (s.journalRecord q c) :=
  .ite (.setSkb h) (.journalCtx h)

theorem Canonical.dropCmd {s : State} {q seq : Nat} (h : Canonical s) : Canonical (s.dropCmd q seq) := .serveCheck (.queueDrained (.setQueue h))
theorem Canonical.recordIrqOf {s : State} {q : Nat} {c : Cmd} (h : Canonical s) : Canonical (s.recordIrqOf q c) := .ite (.send h) h
theorem Canonical.recorded {s : State} {q : Nat} {c : Cmd} (h : Canonical s) : Canonical (s.recorded q c) := .dropCmd (.journalRecord (.bump h))

theorem FstCanonical.writeRecord {s : State} {q : Nat} {c : Cmd} {hostOk : Bool} (h : Canonical s) : FstCanonical (s.writeRecord q c hostOk) := by
  unfold State.writeRecord
  refine .ite ?_ (.ite (.pair (.recorded (.send h))) (.pair (.ringFails h)))
  split
  · next _ he => exact .pair (.recorded (.of_eq_mk he (.ctxWrite h)))
  · next _ _ he => exact .pair (.ringFails (.of_eq_mk he (.ctxWrite h)))
  · next _ _ he => exact .pair (.setQueue (.of_eq_mk he (.ctxWrite h)))
  · next _ he => exact .pair (.of_eq_mk he (.ctxWrite h))

theorem Canonical.remoteDone {s : State} {n : Nat} {c : Cmd} (h : Canonical s) : Canonical (s.remoteDone n c) := by
  unfold State.remoteDone
  dsimp only
  split
  · exact .setQueue h
  · exact .serveCheck (.streamSend (.setJob (.setQueue h)))

theorem NextCanonical.completionRecord {q seq : Nat} {hostOk : Bool} {s : State} (h : Canonical s) :
    NextCanonical (execCompletionRecord q seq hostOk s) := by
  unfold execCompletionRecord
  split
  · exact .next h
  · refine .ite (.next h) ?_
    refine .ite (.next (.remoteDone h)) ?_
    refine .ite (.next (.dropCmd h)) ?_
    refine .ite (.next h) ?_
    refine .ite (.ite (.next h) (.next (.bump (.setQueue h)))) ?_
    refine .ite (.next h) ?_
    split
    · next _ he => exact .next (.recordIrqOf (.of_eq_mk he (.writeRecord h)))
    · next _ he => exact .next (.of_eq_mk he (.writeRecord h))

theorem NextCanonical.onStart {s : State} {q seq opcode : Nat} {ok : Cmd → Bool} {f : Cmd → State} (h : Canonical s) (hf : ∀ x, Canonical (f x)) :
    NextCanonical (s.onStart q seq opcode ok f) := by
  unfold State.onStart
  split
  · exact .next h
  · exact .ite (.ite (.next (hf _)) (.next (.endCmd h))) (.next h)

theorem Canonical.runCmd {s : State} {q seq : Nat} (h : Canonical s) : Canonical (s.runCmd q seq) := .updCmd h

theorem NextCanonical.nopCommand {q seq : Nat} {s : State} (h : Canonical s) : NextCanonical (execNopCommand q seq s) :=
  .onStart h (fun _ => .endCmd h)

theorem NextCanonical.fence {q seq : Nat} {s : State} (h : Canonical s) : NextCanonical (execFence q seq s) := .onStart h (fun _ => .endCmd h)

-- the commands of the host

theorem Canonical.acceptTask {s : State} {q : Nat} {c : Cmd} {d : LaunchDesc} {args : List Byte} (h : Canonical s) :
    Canonical (s.acceptTask q c d args) := .updCmd (.record h)

theorem Canonical.ioFail {α : Type} {s : State} {q seq : Nat} {r : CtxIo α} (h : Canonical s) : Canonical (s.ioFail q seq r) := by
  unfold State.ioFail
  split
  · exact .failCmd h
  · exact .updCmd h
  · exact h

theorem Canonical.launchStarts {s : State} {q seq : Nat} (h : Canonical s) : Canonical (s.launchStarts q seq) := .ite (.runCmd h) h

theorem NextCanonical.launch {q seq : Nat} {s : State} (h : Canonical s) : NextCanonical (execLaunch q seq s) := by
  unfold execLaunch
  split
  · exact .next h
  · refine .ite (.next h) ?_
    refine .ite (.next (.launchStarts h)) ?_
    refine .ite (.next (.endCmd h)) ?_
    dsimp only
    split
    · next _ _ he =>
      have h₁ := Canonical.of_eq_mk he (.ctxRead h)
      split
      · exact .next (.endCmd h₁)
      · refine .ite (.next (.launchStarts (.acceptTask h₁))) ?_
        split
        · next _ _ he => exact .next (.launchStarts (.acceptTask (.of_eq_mk he (.ctxRead h₁))))
        · next _ _ he => exact .next (.ioFail (.of_eq_mk he (.ctxRead h₁)))
    · next _ _ he => exact .next (.ioFail (.of_eq_mk he (.ctxRead h)))

theorem NextCanonical.cntAddCommand {q seq : Nat} {s : State} (h : Canonical s) : NextCanonical (execCntAddCommand q seq s) := by
  unfold execCntAddCommand
  refine .onStart h (fun _ => ?_)
  refine .ite h ?_
  split
  · exact .endCmd h
  · exact .endCmd (.settleCtr (.regionAdd h))

theorem FstCanonical.replayCntWait {s : State} {q : Nat} {c : Cmd} (h : Canonical s) : FstCanonical (s.replayCntWait q c) := by
  unfold State.replayCntWait
  refine .ite ?_ (.pair h)
  split
  · exact .ite (.pair (.consumeKeyed h)) (.pair (.diverge h))
  · exact .pair (.diverge h)

theorem NextCanonical.cntWaitCommand {q seq : Nat} {s : State} (h : Canonical s) : NextCanonical (execCntWaitCommand q seq s) := by
  unfold execCntWaitCommand
  refine .onStart h (fun _ => ?_)
  split
  · exact .endCmd h
  · refine .ite h ?_
    split
    · next _ _ _ he => exact .endCmd (.of_eq_mk he (.replayCntWait h))
    · next _ he => exact .settleCtr (.updCmd (.of_eq_mk he (.replayCntWait h)))

theorem Canonical.placePage {s : State} {a log2 ctx : Nat} (h : Canonical s) : Canonical (s.placePage a log2 ctx) := by
  unfold State.placePage
  refine .record ?_
  refine .zeroRange ?_
  refine .foldl (fun _ _ ht => ?_) h
  split
  · exact .setGrant ht
  · exact ht

theorem FstCanonical.probeWrite {e : EngineInfo} {l : List (Nat × Nat)} {s : State} (h : Canonical s) :
    FstCanonical (State.probeWrite e l s) := by
  induction l generalizing s with
  | nil => exact .pair h
  | cons x l ih =>
    unfold State.probeWrite
    split
    · next _ _ he => exact ih (.of_eq_mk he (.engineAccess h))
    · next _ _ he => exact .pair (.of_eq_mk he (.engineAccess h))
    · next _ _ he => exact .pair (.of_eq_mk he (.engineAccess h))
    · next _ he => exact .pair (.of_eq_mk he (.engineAccess h))

theorem Canonical.placeOne {s t : State} {p log2 ctx a : Nat} {near : Bool} {l : List (Bool × Nat)}
    (h : Canonical s) (he : State.placeOne s p log2 ctx l = some (t, a, near)) : Canonical t := by
  induction l with
  | nil => exact nomatch he
  | cons x l ih =>
    unfold State.placeOne at he
    dsimp only at he
    split at he
    · exact (Prod.mk.inj (Option.some.inj he)).1 ▸ .placePage (.draw h)
    · exact ih he

theorem Canonical.placeAll {s t : State} {p region log2 ctx n : Nat} {far : Bool} {order : List (Bool × Nat)} {r : List Nat × Nat × Nat}
    (h : Canonical s) (he : State.placeAll p region log2 ctx far order n s = some (t, r)) : Canonical t := by
  induction n generalizing s t r with
  | zero => exact (Prod.mk.inj (Option.some.inj he)).1 ▸ h
  | succ n ih =>
    unfold State.placeAll at he
    split at he
    · exact nomatch he
    · next u _ _ hone =>
      obtain ⟨⟨v, x⟩, hall, heq⟩ := Option.map_eq_some_iff.1 he
      have hu := h.placeOne hone
      exact (Prod.mk.inj heq).1 ▸ ih (.ite (.bump hu) hu) hall

theorem NextCanonical.alloc {q seq : Nat} {s : State} (h : Canonical s) : NextCanonical (execAlloc q seq s) := by
  unfold execAlloc
  refine .onStart h fun c => ?_
  dsimp only
  refine .ite h ?_
  split
  · next _ _ he => exact .ioFail (.of_eq_mk he (.probeWrite h))
  · next _ he => exact .of_eq_mk he (.probeWrite h)
  · next t probe _ _ he =>
    have h₁ := Canonical.of_eq_mk he (.probeWrite h)
    split
    · exact .endCmd h₁
    · next _ _ _ _ hall =>
      have h₂ := h₁.placeAll hall
      split
      · exact .endCmd h₁
      · split
        · next _ _ he => exact .endCmd (.of_eq_mk he (.ctxWrite h₂))
        · exact .endCmd h₁
        · exact h₁

theorem Canonical.freePages {s : State} {l : List Nat} {log2 : Nat} (h : Canonical s) : Canonical (s.freePages l log2) := by
  unfold State.freePages
  refine .foldl (fun _ _ ht => ?_) (.record h)
  refine .ite ht ?_
  split
  · exact .setGrant ht
  · exact ht

theorem NextCanonical.free {q seq : Nat} {s : State} (h : Canonical s) : NextCanonical (execFree q seq s) := by
  unfold execFree
  refine .onStart h (fun _ => ?_)
  refine .ite h ?_
  split
  · next _ _ he =>
    have h₁ := Canonical.of_eq_mk he (.ctxRead h)
    exact .ite (.endCmd (.freePages h₁)) (.endCmd h₁)
  · next _ _ he => exact .ioFail (.of_eq_mk he (.ctxRead h))

theorem NextCanonical.hostToDev {q seq : Nat} {s : State} (h : Canonical s) : NextCanonical (execHostToDev q seq s) :=
  .onStart h (fun _ => .runCmd h)

theorem NextCanonical.devToHost {q seq : Nat} {s : State} (h : Canonical s) : NextCanonical (execDevToHost q seq s) :=
  .onStart h (fun _ => .runCmd h)

theorem NextCanonical.copy {q seq : Nat} {s : State} (h : Canonical s) : NextCanonical (execCopy q seq s) := .onStart h (fun _ => .runCmd h)
theorem NextCanonical.fill {q seq : Nat} {s : State} (h : Canonical s) : NextCanonical (execFill q seq s) := .onStart h (fun _ => .runCmd h)

theorem NextCanonical.inlineWrite {q seq : Nat} {s : State} (h : Canonical s) : NextCanonical (execInlineWrite q seq s) :=
  .onStart h (fun _ => .runCmd h)

theorem Canonical.checkDigest {s : State} {q : Nat} {c : Cmd} (h : Canonical s) : Canonical (s.checkDigest q c) := by
  unfold State.checkDigest
  refine .ite ?_ h
  split
  · exact .ite h (.diverge h)
  · exact h

theorem Canonical.chunkDone {s : State} {q seq index sum : Nat} (h : Canonical s) : Canonical (s.chunkDone q seq index sum) := by
  unfold State.chunkDone
  dsimp only
  split
  · exact .updCmd h
  · exact .ite (.updCmd h) (.endCmd (.ite (.journalCtx (.checkDigest (.updCmd h))) (.checkDigest (.updCmd h))))

theorem FstCanonical.chunkSource {s : State} {q : Nat} {c : Cmd} {index : Nat} (h : Canonical s) : FstCanonical (s.chunkSource q c index) := by
  unfold State.chunkSource
  dsimp only
  split
  · exact .ctxRead h
  · exact .ctxRead h
  · exact .pair h
  · exact .pair h

theorem Canonical.writeChunk {s : State} {q seq : Nat} {c : Cmd} {index : Nat} {bs : List Byte} {sum : Nat} (h : Canonical s) :
    Canonical (s.writeChunk q seq c index bs sum) := by
  unfold State.writeChunk
  split
  · next _ he => exact .chunkDone (.of_eq_mk he (.ctxWrite h))
  · next _ _ he => exact .ioFail (.of_eq_mk he (.ctxWrite h))

theorem Canonical.hostChunk {s : State} {q seq : Nat} {c : Cmd} {index : Nat} {bs : List Byte} (h : Canonical s) :
    Canonical (s.hostChunk q seq c index bs) := .ite (.journalCtx (.writeChunk h)) (.writeChunk h)

theorem NextCanonical.dmaChunk {q seq index : Nat} {ans : HostAns} {s : State} (h : Canonical s) :
    NextCanonical (execDmaChunk q seq index ans s) := by
  unfold execDmaChunk
  split
  · exact .next h
  · refine .ite (.next h) ?_
    refine .ite ?_ ?_
    · split
      · exact .next (.failCmd h)
      · exact .next (.ite (.hostChunk h) h)
    · split
      · next _ _ he =>
        have h₁ := Canonical.of_eq_mk he (.chunkSource h)
        exact .ite (.next (.chunkDone (.send h₁))) (.next (.writeChunk h₁))
      · next _ _ he => exact .next (.ioFail (.of_eq_mk he (.chunkSource h)))

-- resets

theorem Canonical.holdQueues {s : State} {before after : Nat} (h : Canonical s) : Canonical (s.holdQueues before after) :=
  .foldl (fun _ _ ht => .ite (.wr ht) ht) h

theorem Canonical.hostLost {s : State} {cause : Nat} (h : Canonical s) : Canonical (s.hostLost cause) :=
  .ite (.holdQueues (.wr (.record (.clearReg (.wr h))))) (.record (.clearReg (.wr h)))

theorem Canonical.resetRecords {s : State} {q : Nat} (h : Canonical s) : Canonical (s.resetRecords q) :=
  .ite h (.foldl (fun _ _ ht => .ite ht (.recordIrqOf (.bump (.send ht)))) h)

theorem Canonical.endQueues {s : State} {ps : List Nat} (h : Canonical s) : Canonical (s.endQueues ps) :=
  .foldl (fun _ _ ht => .ite (.resetRecords ht) ht) h

theorem Canonical.keepRegs {s : State} {k : Reg → Nat → Bool} (h : Canonical s) : Canonical (s.keepRegs k) := .record h

theorem Canonical.loseKeys {s : State} {rs : List Nat} (h : Canonical s) : Canonical (s.loseKeys rs) := by
  unfold State.loseKeys
  refine .foldl (fun _ _ ht => ?_) h
  split
  · exact .ite (.scramble ht) ht
  · exact .ite (.scramble ht) ht
  · exact ht

theorem Canonical.clearTables {s : State} {mode : Nat} {rs : List Nat} (h : Canonical s) : Canonical (s.clearTables mode rs) := .record h

theorem Canonical.zeroRegion {s : State} {tiers : Bool} {r : Nat} (h : Canonical s) : Canonical (s.zeroRegion tiers r) :=
  .ite (.zeroRange (.zeroRange (.zeroRange h))) (.zeroRange h)

theorem Canonical.loadRegion {s : State} {r : Nat} (h : Canonical s) : Canonical (s.loadRegion r) :=
  .foldl (fun _ _ ht => .wr (.wr (.wr (.wr (.wr ht))))) (.setReg (.wr h))

theorem Canonical.loadRepair {s : State} (h : Canonical s) : Canonical s.loadRepair := .wr (.wr (.wr (.wr h)))
theorem Canonical.numberCluster {s : State} {k : Nat} (h : Canonical s) : Canonical (s.numberCluster k) := .wr (.foldl (fun _ _ ht => .wr ht) h)

theorem Canonical.numberCores {s : State} (h : Canonical s) : Canonical s.numberCores :=
  .wr (.foldl (fun _ _ ht => .ite ht (.numberCluster ht)) (.foldl (fun _ _ ht => .wr ht) h))

theorem Canonical.slotFails {s : State} {cold : Bool} {k slot : Nat} (h : Canonical s) : Canonical (s.slotFails cold k slot) := by
  unfold State.slotFails
  refine .ite h ?_
  refine .logDirect ?_
  refine .ite (.bumpSat (.record h)) ?_
  dsimp only
  split
  · exact .wr (.wr (.wr (.wr (.bumpSat (.record h)))))
  · exact .wr (.bumpSat (.record h))

theorem Canonical.bondFails {s : State} {canvas bad : Nat} (h : Canonical s) : Canonical (s.bondFails canvas bad) := .wr (.wr h)

theorem Canonical.seamFails {s : State} {seam : Nat} (h : Canonical s) : Canonical (s.seamFails seam) := by
  unfold State.seamFails
  split
  · exact .ite h (.hwEvent (.wr h))
  · exact h

theorem Canonical.selfTest {s : State} {t : SelfTest} {cold : Bool} {rs : List Nat} (h : Canonical s) : Canonical (s.selfTest t cold rs) := by
  unfold State.selfTest
  refine .ite ?_ ?_
  · refine .foldl (fun _ _ ht => .ite (.stackDown ht) ht) ?_
    refine .foldl (fun _ _ ht => ?_) ?_
    · split
      · exact .ite (.seamFails ht) ht
      · exact ht
    · refine .foldl (fun _ _ ht => ?_) (.foldl (fun _ _ ht => .ite (.slotFails ht) ht) h)
      refine .ite ?_ ht
      split
      · exact .bondFails ht
      · exact ht
  · refine .foldl (fun _ _ ht => ?_) ?_
    · split
      · exact .ite (.seamFails ht) ht
      · exact ht
    · refine .foldl (fun _ _ ht => ?_) (.foldl (fun _ _ ht => .ite (.slotFails ht) ht) h)
      refine .ite ?_ ht
      split
      · exact .bondFails ht
      · exact ht

theorem Canonical.recordBoot {s : State} {t : SelfTest} {r ty bank : Nat} (h : Canonical s) : Canonical (s.recordBoot t r ty bank) :=
  .wr (.record h)

theorem Canonical.bootCore {s : State} {t : SelfTest} {fw : Nat} (h : Canonical s) : Canonical (s.bootCore t fw) := .ite (.setFwState h) (.fwRun h)

theorem Canonical.bootRegion {s : State} {t : SelfTest} {r : Nat} (h : Canonical s) : Canonical (s.bootRegion t r) := by
  unfold State.bootRegion
  dsimp only
  split
  · exact .wr (.wr h)
  · refine .ite (.bootCore (.recordBoot (.wr (.wr h)))) ?_
    refine .foldl (fun _ _ ht => ?_) (.bootCore (.recordBoot (.wr (.wr h))))
    split
    · exact .foldl (fun _ _ hu => .bootCore hu) (.recordBoot ht)
    · exact .foldl (fun _ _ hu => .setFwState hu) ht

theorem Canonical.bootArmed {s : State} {t : SelfTest} {p : Nat} (h : Canonical s) : Canonical (s.bootArmed t p) := by
  unfold State.bootArmed
  refine .ite h ?_
  refine .ite ?_ ?_
  · refine .wr ?_
    refine .record ?_
    refine .foldl (fun _ _ ht => ?_) h
    split
    · exact .ite (.recordBank ht) ht
    · exact ht
  · refine .record ?_
    refine .foldl (fun _ _ ht => ?_) h
    split
    · exact .ite (.recordBank ht) ht
    · exact ht

theorem Canonical.bootPart {s : State} {t : SelfTest} {p : Nat} (h : Canonical s) : Canonical (s.bootPart t p) :=
  .foldl (fun _ _ ht => .refreshPorts ht) (.setPartState (.foldl (fun _ _ ht => .foldl (fun _ _ hu => .wr hu) (.wr ht)) (.wr (.wr (.wr (.foldl (fun
      _ _ ht => .ite (.hwEvent ht) ht) (.foldl (fun _ _ ht => .refreshPwr (.bootRegion (.setPwr ht))) (.bootArmed (.setPartState h)))))))))

theorem Canonical.settleRoot {s : State} (h : Canonical s) : Canonical s.settleRoot := .serveWaits (.rootServes (.refreshRoot h))

theorem Canonical.resetFwu {s : State} (h : Canonical s) : Canonical s.resetFwu :=
  .ite (.wr (.wr (.foldl (fun _ _ ht => .clearReg ht) (.record h)))) (.wr (.foldl (fun _ _ ht => .clearReg ht) (.record h)))

theorem Canonical.loadCal {s : State} (h : Canonical s) : Canonical s.loadCal := by
  unfold State.loadCal
  dsimp only
  split
  · exact .wr (.wr (.wr (.record h)))
  · exact .wr (.wr (.record h))

theorem Canonical.withFuses {t s : State} (h : Canonical t) : Canonical (t.withFuses s) :=
  .foldl (fun _ _ ht => .wr (.wr ht)) (.foldl (fun _ _ ht => .wr ht) h)

theorem Canonical.coldStart {s : State} : Canonical s.coldStart := by
  unfold State.coldStart
  exact .withFuses (.of_empty rfl rfl)

theorem Canonical.coldBoot {s : State} {t : SelfTest} {why : Nat} : Canonical (s.coldBoot t why) :=
  .refreshSide (.settleRoot (.wr (.foldl (fun _ _ ht => .bootPart ht) (.wr (.wr (.wr (.numberCores (.selfTest (.wr (.wr (.wr (.wr (.wr (.foldl
    (fun _ _ ht => .loadRegion ht) (.loadRepair (.wr (.wr (.foldl (fun _ _ ht => .wr ht) (.wr (.wr (.record (.wr (.wr (.wr (.record (.loadCal
      .coldStart))))))))))))))))))))))))))

theorem Canonical.rebootAll {s : State} {t : SelfTest} {mode : Nat} (h : Canonical s) : Canonical (s.rebootAll t mode) :=
  .refreshSide (.settleRoot (.wr (.foldl (fun _ _ ht => .bootPart ht) (.resetFwu (.wr (.selfTest (.wr (.foldl (fun _ _ ht => .loadRegion ht)
      h))))))))

theorem Canonical.clearDevice {s : State} (h : Canonical s) : Canonical s.clearDevice := .record h

theorem Canonical.changeMode {s : State} {mode : Nat} (h : Canonical s) : Canonical (s.changeMode mode) :=
  .ite (.record (.foldl (fun _ _ ht => .ite (.wr ht) ht) h)) (.foldl (fun _ _ ht => .ite (.wr ht) ht) h)

theorem Canonical.cleared {s : State} : Canonical { s with mem := [], poison := [], scrambled := [] } := .of_empty rfl rfl

theorem Canonical.warmBoot {s : State} {t : SelfTest} {why : Nat} : Canonical (s.warmBoot t why) := by
  unfold State.warmBoot
  exact .rebootAll (.wr (.wr (.foldl (fun _ _ ht => .ite (.setPartState ht) ht) (.wr (.wr (.wr (.wr .cleared)))))))

theorem Canonical.refreshHeld {s : State} (h : Canonical s) : Canonical s.refreshHeld := .wr h
theorem Canonical.keepScratch {s : State} {r : Nat} (h : Canonical s) : Canonical (s.keepScratch r) := .wr (.wr (.clearReg h))
theorem Canonical.keepSketch {s : State} {p held : Nat} (h : Canonical s) : Canonical (s.keepSketch p held) := .wr (.clearReg h)

theorem Canonical.clearPart {s : State} {p : Nat} {zero : Bool} (h : Canonical s) : Canonical (s.clearPart p zero) :=
  .refreshHeld (.foldl (fun _ _ ht => .loadRegion (.zeroRegion ht)) (.keepSketch (.foldl (fun _ _ ht => .keepScratch ht) (.keepRegs (.clearTables
      (.ite (.refreshRoot (.foldl (fun _ _ ht => .portDown ht) (.setPartState (.endQueues h)))) (.loseKeys (.refreshRoot (.foldl (fun _ _ ht =>
      .portDown ht) (.setPartState (.endQueues h)))))))))))

theorem Canonical.partReset {s : State} {t : SelfTest} {p : Nat} {zero : Bool} (h : Canonical s) : Canonical (s.partReset t p zero) :=
  .settleRoot (.bootPart (.selfTest (.wr (.clearPart h))))

theorem Canonical.cutActivation {s : State} {p : Nat} (h : Canonical s) : Canonical (s.cutActivation p) := by
  unfold State.cutActivation
  split
  · exact .ite (.endActivation h) h
  · exact h

theorem Canonical.partRequest {s : State} {t : SelfTest} {p : Nat} {zero : Bool} (h : Canonical s) : Canonical (s.partRequest t p zero) :=
  .ite (.accessError h) (.ite h (.partReset (.cutActivation h)))

theorem Canonical.writePartCtl {s : State} {t : SelfTest} {q : RegWriteReq} (h : Canonical s) : Canonical (s.writePartCtl t q) :=
  .foldl (fun _ _ ht => .partRequest ht) h

theorem NextCanonical.partitionReset {a : Access} {t : SelfTest} {s : State} (h : Canonical s) : NextCanonical (execPartitionReset a t s) :=
  .onWrite h (fun _ => .writePartCtl h)

theorem Canonical.enterStandby {s : State} (h : Canonical s) : Canonical s.enterStandby :=
  .refreshHeld (.wr (.keepRegs (.clearTables (.loseKeys (.foldl (fun _ _ ht => .setPartState (.foldl (fun _ _ hu => .portDown hu) ht)) (.record
      (.endQueues h)))))))

theorem Canonical.exitStandby {s : State} {t : SelfTest} (h : Canonical s) : Canonical (s.exitStandby t) :=
  .rebootAll (.wr (.wr (.wr (.wr (.foldl (fun _ _ ht => .keepSketch ht) (.foldl (fun _ _ ht => .zeroRegion (.keepScratch ht)) (.keepRegs
      (.clearDevice (.clearTables (.record h))))))))))

theorem NextCanonical.insertion {s : State} (h : Canonical s) : NextCanonical (execInsertion s) := .next (.ite h (.record h))
theorem NextCanonical.mainSwitchClose {s : State} (h : Canonical s) : NextCanonical (execMainSwitchClose s) := .next (.ite (.record h) h)
theorem Canonical.powerLost {s : State} {m : ModuleSt} : Canonical (s.powerLost m) := .record .coldStart
theorem NextCanonical.extraction {s : State} (h : Canonical s) : NextCanonical (execExtraction s) := .next (.ite .powerLost h)

theorem NextCanonical.inputUndervoltage {s : State} (h : Canonical s) : NextCanonical (execInputUndervoltage s) :=
  .next (.ite (.record (.deviceFault h)) h)

theorem NextCanonical.inputReturn {t : SelfTest} {s : State} (h : Canonical s) : NextCanonical (execInputReturn t s) :=
  .ite (.next (.ite .coldBoot .coldStart)) (.next h)

theorem NextCanonical.powerUp {t : SelfTest} {s : State} (h : Canonical s) : NextCanonical (execPowerUp t s) :=
  .ite (.next (.ite .coldBoot (.record h))) (.next h)

theorem NextCanonical.perstDeassert {s : State} (h : Canonical s) : NextCanonical (execPerstDeassert s) := .next (.record h)

theorem NextCanonical.refclkLoss {s : State} (h : Canonical s) : NextCanonical (execRefclkLoss s) :=
  .ite (.ite (.next (.record (.hostLost (.wr (.record h))))) (.next (.record h))) (.next h)

theorem NextCanonical.refclkReturn {s : State} (h : Canonical s) : NextCanonical (execRefclkReturn s) :=
  .ite (.next h) (.next (.ite (.wr (.record h)) (.record h)))

theorem NextCanonical.hostLinkUp {rate width : Nat} {flit : Bool} {s : State} (h : Canonical s) :
    NextCanonical (execHostLinkUp rate width flit s) := .ite (.next (.wr (.wr (.wr (.wr (.record h)))))) (.next h)

theorem Canonical.writeResetCtl {s : State} {t : SelfTest} {q : RegWriteReq} (h : Canonical s) : Canonical (s.writeResetCtl t q) :=
  .ite (.accessError h) (.ite .coldBoot (.ite (.ite (.accessError h) .warmBoot) h))

theorem NextCanonical.coldReset {a : Access} {t : SelfTest} {s : State} (h : Canonical s) : NextCanonical (execColdReset a t s) :=
  .onWrite h (fun _ => .ite (.writeResetCtl h) h)

theorem NextCanonical.warmReset {a : Access} {t : SelfTest} {s : State} (h : Canonical s) : NextCanonical (execWarmReset a t s) :=
  .onWrite h (fun _ => .ite (.writeResetCtl h) h)

theorem NextCanonical.standbyEntry {s : State} (h : Canonical s) : NextCanonical (execStandbyEntry s) :=
  .ite (.next (.enterStandby h)) (.ite (.next (.record h)) (.next h))

theorem NextCanonical.standbyExit {t : SelfTest} {s : State} (h : Canonical s) : NextCanonical (execStandbyExit t s) :=
  .ite (.next (.exitStandby h)) (.next (.record h))

-- the host session

theorem NextCanonical.hostLoss {cause : Nat} {s : State} (h : Canonical s) : NextCanonical (execHostLoss cause s) :=
  .ite (.next (.hostLost h)) (.next h)

theorem NextCanonical.heartbeatExpiry {s : State} (h : Canonical s) : NextCanonical (execHeartbeatExpiry s) := .ite (.next (.hostLost h)) (.next h)
theorem Canonical.writeHeartbeat {s : State} {q : RegWriteReq} (h : Canonical s) : Canonical (s.writeHeartbeat q) := .store (.ite (.record h) h)

theorem NextCanonical.heartbeatKick {a : Access} {s : State} (h : Canonical s) : NextCanonical (execHeartbeatKick a s) :=
  .onWrite h (fun _ => .writeHeartbeat h)

theorem Canonical.writeToken {s : State} {q : RegWriteReq} (h : Canonical s) : Canonical (s.writeToken q) := .ite (.record h) (.record h)

theorem Canonical.writeHeld {s : State} {q : Nat} (h : Canonical s) : Canonical (s.writeHeld q) := by
  unfold State.writeHeld
  refine .ite h ?_
  refine .ite ?_ ?_
  · refine .send ?_
    refine .foldl (fun _ _ ht => ?_) (.setQueue h)
    split
    · exact .ite ht (.of_fst (.writeRecord ht))
    · exact ht
  · refine .foldl (fun _ _ ht => ?_) (.setQueue h)
    split
    · exact .ite ht (.of_fst (.writeRecord ht))
    · exact ht

theorem Canonical.resumeSession {s : State} {clear : Bool} (h : Canonical s) : Canonical (s.resumeSession clear) :=
  .refreshHeld (.foldl (fun _ _ ht => .writeHeld ht) (.holdQueues (.ite (.foldl (fun _ _ ht => .abortCmds ht) (.keepRegs (.record (.wr h))))
      (.record (.wr h)))))

theorem Canonical.claimSession {s : State} {clear : Bool} (h : Canonical s) : Canonical (s.claimSession clear) :=
  .ite (.resumeSession h) (.bumpSat (.record h))

theorem Canonical.attachFresh {s : State} (h : Canonical s) : Canonical s.attachFresh := .rootServes (.record (.ite (.wr .warmBoot) h))

theorem Canonical.sessionAction {s : State} {act : Nat} (h : Canonical s) : Canonical (s.sessionAction act) := by
  unfold State.sessionAction
  refine .ite h ?_
  split
  · exact .ite (.ite h (.attachFresh h)) (.accessError h)
  · exact .accessError h
  · exact .ite (.ite (.accessError h) (.attachFresh h)) (.claimSession h)

theorem Canonical.writeSessionCtl {s : State} {q : RegWriteReq} (h : Canonical s) : Canonical (s.writeSessionCtl q) :=
  .ite (.hostLost (.sessionAction h)) (.sessionAction h)

theorem NextCanonical.onSession {s : State} {a : Access} {act : Nat} (h : Canonical s) : NextCanonical (s.onSession a act) :=
  .onWrite h (fun _ => .ite (.writeSessionCtl h) h)

theorem NextCanonical.detach {a : Access} {s : State} (h : Canonical s) : NextCanonical (execDetach a s) := .onSession h
theorem NextCanonical.attachFresh {a : Access} {s : State} (h : Canonical s) : NextCanonical (execAttachFresh a s) := .onSession h
theorem NextCanonical.resume {a : Access} {s : State} (h : Canonical s) : NextCanonical (execResume a s) := .onSession h
theorem NextCanonical.resumeHost {a : Access} {s : State} (h : Canonical s) : NextCanonical (execResumeHost a s) := .onSession h

theorem FstCanonical.readToken {s : State} {hi : Bool} {size : Nat} (h : Canonical s) : FstCanonical (s.readToken hi size) := by
  unfold State.readToken
  dsimp only
  split
  · exact .pair h
  · exact .ite (.pair h) (.pair (.record h))

theorem Canonical.answerRead {s : State} {bytes : List Byte} {poisoned : Bool} (h : Canonical s) : Canonical (s.answerRead bytes poisoned) :=
  .send (.record h)

theorem NextCanonical.tokenRead {fn : Nat} {hi : Bool} {size : Nat} {s : State} (h : Canonical s) : NextCanonical (execTokenRead fn hi size s) := by
  unfold execTokenRead
  dsimp only
  exact .ite (.next (.accessError (.answerRead h))) (.next (.answerRead (.of_fst (.readToken h))))

theorem NextCanonical.tokenLockoutEnd {s : State} (h : Canonical s) : NextCanonical (execTokenLockoutEnd s) := by
  unfold execTokenLockoutEnd
  dsimp only
  split
  · exact .next (.ite (.record h) h)
  · exact .next h

theorem Canonical.flrQueue {s : State} {q : Nat} (h : Canonical s) : Canonical (s.flrQueue q) := .wr (.wr (.setQueue (.abortCmds h)))

theorem NextCanonical.vfFlr {v : Nat} {s : State} (h : Canonical s) : NextCanonical (execVfFlr v s) :=
  .ite (.next (.refreshHeld (.foldl (fun _ _ ht => .ite (.flrQueue ht) ht) h))) (.next h)

theorem Canonical.writeVfCfg {s : State} {q : RegWriteReq} (h : Canonical s) : Canonical (s.writeVfCfg q) := .ite (.accessError h) (.store h)
theorem NextCanonical.vfAssign {a : Access} {s : State} (h : Canonical s) : NextCanonical (execVfAssign a s) := .onWrite h (fun _ => .writeVfCfg h)
theorem Canonical.writeCtxState {s : State} {q : RegWriteReq} (h : Canonical s) : Canonical (s.writeCtxState q) := .ite (.accessError h) (.store h)
theorem Canonical.writeHwt {s : State} {q : RegWriteReq} (h : Canonical s) : Canonical (s.writeHwt q) := .ite (.accessError h) (.store h)
theorem Canonical.writeAwt {s : State} {q : RegWriteReq} (h : Canonical s) : Canonical (s.writeAwt q) := .ite (.accessError h) (.store h)

-- tensor records

theorem Canonical.writePieces {s : State} {l : List (Nat × Nat)} {bs : List Byte} (h : Canonical s) : Canonical (s.writePieces l bs) := by
  induction l generalizing s bs with
  | nil => exact h
  | cons x l ih => exact ih (.ncWriteRange h)

theorem FstCanonical.readPieces {s : State} {l : List (Nat × Nat)} (h : Canonical s) : FstCanonical (s.readPieces l) := by
  induction l generalizing s with
  | nil => exact .pair h
  | cons x l ih => exact .pair (.of_fst (ih (.ncReadRange h)))

theorem NextCanonical.recordMerge {index : Nat} {s : State} (h : Canonical s) : NextCanonical (execRecordMerge index s) := by
  unfold execRecordMerge
  split
  · exact .next h
  · exact .next (.record (.orDrain (.writePieces (.of_fst (.readPieces h)))))

-- the resident operators

theorem FstCanonical.readRows {e : EngineInfo} {t : Tensor} {l : List Nat} {s : State} (h : Canonical s) :
    FstCanonical (State.readRows e t l s) := by
  induction l generalizing s with
  | nil => exact .pair h
  | cons x l ih =>
    unfold State.readRows
    split
    · next _ _ he =>
      have h₁ := Canonical.of_eq_mk he (.ctxRead h)
      split
      · next _ _ he => exact .pair (.of_eq_mk he (ih h₁))
      · exact ih h₁
    · next _ _ he => exact .pair (.of_eq_mk he (.ctxRead h))
    · next _ _ he => exact .pair (.of_eq_mk he (.ctxRead h))
    · next _ he => exact .pair (.of_eq_mk he (.ctxRead h))

theorem FstCanonical.readTensors {e : EngineInfo} {l : List Tensor} {s : State} (h : Canonical s) : FstCanonical (State.readTensors e l s) := by
  induction l generalizing s with
  | nil => exact .pair h
  | cons t l ih =>
    unfold State.readTensors
    split
    · next _ _ he =>
      have h₁ := Canonical.of_eq_mk he (.readRows h)
      split
      · next _ _ he => exact .pair (.of_eq_mk he (ih h₁))
      · exact ih h₁
    · next _ _ he => exact .pair (.of_eq_mk he (.readRows h))
    · next _ _ he => exact .pair (.of_eq_mk he (.readRows h))
    · next _ he => exact .pair (.of_eq_mk he (.readRows h))

theorem FstCanonical.probeAll {e : EngineInfo} {l : List (Nat × Nat)} {s : State} (h : Canonical s) : FstCanonical (State.probeAll e l s) := by
  induction l generalizing s with
  | nil => exact .pair h
  | cons x l ih =>
    unfold State.probeAll
    split
    · next _ _ he => exact ih (.of_eq_mk he (.probeWrite h))
    · exact .probeWrite h

theorem FstCanonical.writeAll {e : EngineInfo} {l : List (Nat × List Byte)} {s : State} (h : Canonical s) :
    FstCanonical (State.writeAll e l s) := by
  induction l generalizing s with
  | nil => exact .pair h
  | cons x l ih =>
    unfold State.writeAll
    split
    · next _ _ he => exact ih (.of_eq_mk he (.ctxWrite h))
    · exact .ctxWrite h

theorem FstCanonical.opRecord {s : State} {e : EngineInfo} {r : Option (Tensor × List Cls)} (h : Canonical s) : FstCanonical (s.opRecord e r) := by
  unfold State.opRecord
  split
  · exact .pair h
  · refine .ite (.pair h) ?_
    refine .ite (.pair h) ?_
    split
    · next _ _ he => exact .pair (.of_eq_mk he (.ctxRead h))
    · next _ _ he => exact .pair (.of_eq_mk he (.ctxRead h))
    · next _ _ he => exact .pair (.of_eq_mk he (.ctxRead h))
    · next _ he => exact .pair (.of_eq_mk he (.ctxRead h))

theorem Canonical.finishOperator {s : State} {e : EngineInfo} {q seq : Nat} {r : OpRes} (h : Canonical s) :
    Canonical (s.finishOperator e q seq r) := by
  unfold State.finishOperator
  split
  · next _ _ _ he =>
    have h₁ := Canonical.of_eq_mk he (.opRecord h)
    dsimp only
    split
    · next _ he =>
      have h₂ := Canonical.of_eq_mk he (.probeAll h₁)
      split
      · next _ he => exact .endCmd (.orDrain (.orFlags (.of_eq_mk he (.writeAll h₂))))
      · next _ _ he => exact .ioFail (.of_eq_mk he (.writeAll h₂))
    · next _ _ he => exact .ioFail (.of_eq_mk he (.probeAll h₁))
  · next _ _ he => exact .ioFail (.of_eq_mk he (.opRecord h))

theorem Canonical.runOperator {s : State} {q seq : Nat} {c : Cmd} {ins : List Tensor} {f : List (List Nat) → OpRes} (h : Canonical s) :
    Canonical (s.runOperator q seq c ins f) := by
  unfold State.runOperator
  refine .ite h ?_
  refine .ite (.endCmd h) ?_
  split
  · next _ _ he => exact .finishOperator (.of_eq_mk he (.readTensors h))
  · next _ _ he => exact .ioFail (.of_eq_mk he (.readTensors h))

theorem NextCanonical.matmul {q seq : Nat} {s : State} (h : Canonical s) : NextCanonical (execMatmul q seq s) := by
  unfold execMatmul
  dsimp only
  exact .onStart h (fun _ => .runOperator h)

theorem NextCanonical.conv {q seq : Nat} {s : State} (h : Canonical s) : NextCanonical (execConv q seq s) := by
  unfold execConv
  dsimp only
  exact .onStart h (fun _ => .runOperator h)

theorem NextCanonical.mapOp {s : State} {q seq sub : Nat} (h : Canonical s) : NextCanonical (s.mapOp q seq sub) := by
  unfold State.mapOp
  split
  · exact .next h
  · exact .ite (.next h) (.onStart h (fun _ => .runOperator h))

theorem NextCanonical.mapConvert {q seq : Nat} {s : State} (h : Canonical s) : NextCanonical (execMapConvert q seq s) := .mapOp h
theorem NextCanonical.mapAdd {q seq : Nat} {s : State} (h : Canonical s) : NextCanonical (execMapAdd q seq s) := .mapOp h
theorem NextCanonical.mapSubtract {q seq : Nat} {s : State} (h : Canonical s) : NextCanonical (execMapSubtract q seq s) := .mapOp h
theorem NextCanonical.mapMultiply {q seq : Nat} {s : State} (h : Canonical s) : NextCanonical (execMapMultiply q seq s) := .mapOp h
theorem NextCanonical.mapFma {q seq : Nat} {s : State} (h : Canonical s) : NextCanonical (execMapFma q seq s) := .mapOp h
theorem NextCanonical.mapDivide {q seq : Nat} {s : State} (h : Canonical s) : NextCanonical (execMapDivide q seq s) := .mapOp h
theorem NextCanonical.mapSquareRoot {q seq : Nat} {s : State} (h : Canonical s) : NextCanonical (execMapSquareRoot q seq s) := .mapOp h
theorem NextCanonical.mapMin {q seq : Nat} {s : State} (h : Canonical s) : NextCanonical (execMapMin q seq s) := .mapOp h
theorem NextCanonical.mapMax {q seq : Nat} {s : State} (h : Canonical s) : NextCanonical (execMapMax q seq s) := .mapOp h
theorem NextCanonical.mapRelu {q seq : Nat} {s : State} (h : Canonical s) : NextCanonical (execMapRelu q seq s) := .mapOp h
theorem NextCanonical.mapExp {q seq : Nat} {s : State} (h : Canonical s) : NextCanonical (execMapExp q seq s) := .mapOp h
theorem NextCanonical.mapLog {q seq : Nat} {s : State} (h : Canonical s) : NextCanonical (execMapLog q seq s) := .mapOp h

theorem NextCanonical.mapReciprocalSquareRoot {q seq : Nat} {s : State} (h : Canonical s) :
    NextCanonical (execMapReciprocalSquareRoot q seq s) := .mapOp h

theorem NextCanonical.mapSine {q seq : Nat} {s : State} (h : Canonical s) : NextCanonical (execMapSine q seq s) := .mapOp h
theorem NextCanonical.mapCosine {q seq : Nat} {s : State} (h : Canonical s) : NextCanonical (execMapCosine q seq s) := .mapOp h

theorem NextCanonical.reduceOp {s : State} {q seq sub : Nat} {f : Cmd → Tensor → Tensor → RoundEnv → List (List Nat) → OpRes} (h : Canonical s) :
    NextCanonical (s.reduceOp q seq sub f) := by
  unfold State.reduceOp
  split
  · exact .next h
  · exact .ite (.next h) (.onStart h (fun _ => .runOperator h))

theorem NextCanonical.reduceSum {q seq : Nat} {s : State} (h : Canonical s) : NextCanonical (execReduceSum q seq s) := .reduceOp h

theorem NextCanonical.reducePick {s : State} {q seq sub : Nat} {greater : Bool} (h : Canonical s) :
    NextCanonical (s.reducePick q seq sub greater) := .reduceOp h

theorem NextCanonical.reduceMin {q seq : Nat} {s : State} (h : Canonical s) : NextCanonical (execReduceMin q seq s) := .reducePick h
theorem NextCanonical.reduceMax {q seq : Nat} {s : State} (h : Canonical s) : NextCanonical (execReduceMax q seq s) := .reducePick h
theorem NextCanonical.sort {q seq : Nat} {s : State} (h : Canonical s) : NextCanonical (execSort q seq s) := .onStart h (fun _ => .runOperator h)

theorem NextCanonical.select {q seq : Nat} {s : State} (h : Canonical s) : NextCanonical (execSelect q seq s) := by
  unfold execSelect
  exact .onStart h fun c => .runOperator (.drawIf h)

end Sys2Proof.Machine
end

section
/-! PROOFS. The canonical form of memory through RoCE, Fletus and the launch tree (O59). -/

namespace Sys2Proof.Machine

open Sys2Proof.Claims

-- RoCE

theorem Canonical.netAdd {s : State} {ctx ref v : Nat} (h : Canonical s) : Canonical (s.netAdd ctx ref v) := by
  unfold State.netAdd
  refine .ite ?_ (.settleCtr (.regionAdd h))
  dsimp only
  split
  · exact .ite (.settleCtr (.coreAdd h)) (.discardAdd h)
  · exact .discardAdd h

theorem Canonical.credit {s : State} {q cmd n : Nat} (h : Canonical s) : Canonical (s.credit q cmd n) := .updCmd h

theorem Canonical.succeed {s : State} {q cmd : Nat} (h : Canonical s) : Canonical (s.succeed q cmd) := by
  unfold State.succeed
  split
  · exact .endCmd h
  · exact h

theorem Canonical.sendWork {s : State} {n rank : Nat} {w : SendWork} {len : Nat} {last : Bool} {op : RoceOp} (h : Canonical s) :
    Canonical (s.sendWork n rank w len last op) := .ite (.ite (.succeed (.credit (.setFlow h))) (.credit (.setFlow h))) (.xmit (.setFlow h))

theorem Canonical.pump {n rank k : Nat} {s : State} (h : Canonical s) : Canonical (State.pump n rank k s) := by
  induction k generalizing s with
  | zero => exact h
  | succ k ih =>
    unfold State.pump
    dsimp only
    refine .ite h ?_
    split
    · exact h
    · split
      · exact ih (.setFlow h)
      · refine .ite h ?_
        split
        · exact ih (.sendWork h)
        · exact ih (.sendWork h)
        · split
          · next _ _ he => exact ih (.sendWork (.of_eq_mk he (.ctxRead h)))
          · next _ _ he => exact ih (.failCmd (.of_eq_mk he (.ctxRead h)))
          · next _ _ _ _ he => exact .ioFail (.of_eq_mk he (.ctxRead h))

theorem Canonical.pumpFlow {s : State} {n rank : Nat} (h : Canonical s) : Canonical (s.pumpFlow n rank) := .pump h

theorem FstCanonical.ackTo {n rank psn k : Nat} {s : State} (h : Canonical s) : FstCanonical (State.ackTo n rank psn k s) := by
  induction k generalizing s with
  | zero => exact .pair h
  | succ k ih =>
    unfold State.ackTo
    dsimp only
    split
    · exact .pair h
    · refine .ite (.pair h) ?_
      split
      · exact ih (.ite (.succeed (.credit (.setFlow h))) (.credit (.setFlow h)))
      · exact .pair h

theorem Canonical.ackThrough {s : State} {n rank psn : Nat} (h : Canonical s) : Canonical (s.ackThrough n rank psn) := by
  unfold State.ackThrough
  split
  · next _ he => exact .resend (.of_eq_mk he (.ackTo h))
  · next _ he => exact .of_eq_mk he (.ackTo h)

theorem Canonical.failSent {s : State} {n rank psn status : Nat} (h : Canonical s) : Canonical (s.failSent n rank psn status) := by
  unfold State.failSent
  dsimp only
  split
  · exact h
  · exact .pumpFlow (.resend (.failCmd (.setFlow h)))

theorem Canonical.netStart {s : State} {q seq : Nat} {c : Cmd} {f : Nat → Nat → State} (h : Canonical s) (hf : ∀ x y, Canonical (f x y)) :
    Canonical (s.netStart q seq c f) := .ite (.endCmd h) (.ite (.endCmd h) (.ite h (hf _ _)))

theorem Canonical.startRdma {s : State} {q seq : Nat} {c : Cmd} (h : Canonical s) : Canonical (s.startRdma q seq c) :=
  .netStart h (fun _ _ => .pumpFlow (.setFlow (.runCmd h)))

theorem NextCanonical.rdmaCmd {s : State} {q seq opcode : Nat} {ok : Cmd → Bool} (h : Canonical s) : NextCanonical (s.rdmaCmd q seq opcode ok) := by
  unfold State.rdmaCmd
  split
  · exact .ite (.next (.pumpFlow h)) (.onStart h (fun _ => .startRdma h))
  · exact .next h

theorem NextCanonical.rdmaWrite {q seq : Nat} {s : State} (h : Canonical s) : NextCanonical (execRdmaWrite q seq s) := .rdmaCmd h
theorem NextCanonical.rdmaRead {q seq : Nat} {s : State} (h : Canonical s) : NextCanonical (execRdmaRead q seq s) := .rdmaCmd h
theorem NextCanonical.rdmaCntAdd {q seq : Nat} {s : State} (h : Canonical s) : NextCanonical (execRdmaCntAdd q seq s) := .rdmaCmd h

theorem FstCanonical.serve {s : State} {n : Nat} {op : RoceOp} (h : Canonical s) : FstCanonical (s.serve n op) := by
  unfold State.serve
  split
  · refine .ite (.pair h) ?_
    split
    · next _ he =>
      have h₁ := Canonical.of_eq_mk he (.probeWrite h)
      split
      · next _ he =>
        have h₂ := Canonical.of_eq_mk he (.ctxWrite h₁)
        refine .pair ?_
        split
        · exact .netAdd h₂
        · exact h₂
      · next _ _ he => exact .pair (.of_eq_mk he (.ctxWrite h₁))
    · next _ _ he => exact .pair (.of_eq_mk he (.probeWrite h))
  · exact .pair (.of_fst (.ctxRead h))
  · exact .pair h

theorem Canonical.answerOp {s : State} {n src psn : Nat} {op : RoceOp} {data : List Byte} (h : Canonical s) :
    Canonical (s.answerOp n src psn op data) := by
  unfold State.answerOp
  split
  · exact .sendRoce (.setFlow h)
  · exact .holdAck h

theorem FstCanonical.request {s : State} {n : Nat} {x : RxFrame} {psn : Nat} {op : RoceOp} (h : Canonical s) :
    FstCanonical (s.request n x psn op) := by
  unfold State.request
  refine .ite (.pair (.sendRoce (.setFlow (.echoCe h)))) ?_
  refine .ite ?_ ?_
  · split
    · exact .pair (.sendRoce (.setFlow (.setFlow (.echoCe h))))
    · split
      · next _ _ he => exact .pair (.answerOp (.setFlow (.journalPacket (.of_eq_mk he (.serve (.setFlow (.echoCe h)))))))
      · next _ _ he => exact .pair (.sendRoce (.setFlow (.of_eq_mk he (.serve (.setFlow (.echoCe h))))))
      · next _ _ he => exact .pair (.sendRoce (.of_eq_mk he (.serve (.setFlow (.echoCe h)))))
      · next _ he => exact .pair (.of_eq_mk he (.serve (.setFlow (.echoCe h))))
  · refine .ite (.pair (.sendRoce (.setFlow (.echoCe h)))) ?_
    split
    · split
      · next _ _ he => exact .pair (.sendRoce (.of_eq_mk he (.ctxRead (.setFlow (.echoCe h)))))
      · next _ he => exact .pair (.of_eq_mk he (.ctxRead (.setFlow (.echoCe h))))
      · next _ _ he => exact .pair (.sendRoce (.of_eq_mk he (.ctxRead (.setFlow (.echoCe h)))))
      · next _ _ he => exact .pair (.sendRoce (.of_eq_mk he (.ctxRead (.setFlow (.echoCe h)))))
    · exact .pair (.sendRoce (.setFlow (.echoCe h)))

theorem NextCanonical.rdmaWritePacket {block : Nat} {s : State} (h : Canonical s) : NextCanonical (execRdmaWritePacket block s) := by
  unfold execRdmaWritePacket
  refine .onPacket h (fun _ _ _ ht => ?_)
  split
  · exact .request ht
  · exact .pair ht

theorem NextCanonical.rdmaReadRequest {block : Nat} {s : State} (h : Canonical s) : NextCanonical (execRdmaReadRequest block s) := by
  unfold execRdmaReadRequest
  refine .onPacket h (fun _ _ _ ht => ?_)
  split
  · exact .request ht
  · exact .pair ht

theorem FstCanonical.readBack {s : State} {n : Nat} {x : RxFrame} {psn : Nat} {data : List Byte} (h : Canonical s) :
    FstCanonical (s.readBack n x psn data) := by
  unfold State.readBack
  dsimp only
  split
  · exact .pair (.ackThrough (.echoCe h))
  · split
    · refine .ite (.pair (.ackThrough (.echoCe h))) ?_
      split
      · exact .pair (.pumpFlow (.setFlow (.ackThrough (.echoCe h))))
      · refine .ite (.pair (.ackThrough (.echoCe h))) ?_
        split
        · next _ he =>
          have h₁ := Canonical.of_eq_mk he (.ctxWrite (.ackThrough (.echoCe h)))
          refine .pair ?_
          refine .pumpFlow ?_
          refine .ite ?_ (.credit (.journalPacket (.setFlow h₁)))
          refine .succeed ?_
          split
          · exact .netAdd (.credit (.journalPacket (.setFlow h₁)))
          · exact .credit (.journalPacket (.setFlow h₁))
        · next _ _ he => exact .pair (.pumpFlow (.failCmd (.setFlow (.of_eq_mk he (.ctxWrite (.ackThrough (.echoCe h)))))))
        · next _ _ he => exact .pair (.updCmd (.of_eq_mk he (.ctxWrite (.ackThrough (.echoCe h)))))
        · next _ he => exact .pair (.of_eq_mk he (.ctxWrite (.ackThrough (.echoCe h))))
    · exact .pair (.ackThrough (.echoCe h))

theorem NextCanonical.rdmaReadResponse {block : Nat} {s : State} (h : Canonical s) : NextCanonical (execRdmaReadResponse block s) := by
  unfold execRdmaReadResponse
  refine .onPacket h (fun _ _ _ ht => ?_)
  split
  · exact .readBack ht
  · exact .pair ht

theorem NextCanonical.roceAcknowledge {block : Nat} {s : State} (h : Canonical s) : NextCanonical (execRoceAcknowledge block s) := by
  unfold execRoceAcknowledge
  refine .onPacket h (fun _ _ _ ht => ?_)
  split
  · exact .pair (.pumpFlow (.ackThrough (.echoCe ht)))
  · exact .pair ht

theorem Canonical.nak {s : State} {n : Nat} {x : RxFrame} {psn : Nat} {op : RoceOp} (h : Canonical s) : Canonical (s.nak n x psn op) := by
  unfold State.nak
  dsimp only
  split
  · exact .pumpFlow (.resend (.ackThrough (.echoCe h)))
  · exact .setFlow (.ackThrough (.echoCe h))
  · exact .failSent (.ackThrough (.echoCe h))
  · exact .failSent (.ackThrough (.echoCe h))

theorem NextCanonical.roceNak {block : Nat} {s : State} (h : Canonical s) : NextCanonical (execRoceNak block s) := by
  unfold execRoceNak
  refine .onPacket h (fun _ _ _ ht => ?_)
  split
  · exact .pair (.nak ht)
  · exact .pair ht

theorem NextCanonical.cnp {block : Nat} {s : State} (h : Canonical s) : NextCanonical (execCnp block s) :=
  .onPacket h (fun _ _ _ ht => .pair (.setFlow ht))

theorem NextCanonical.rnrRetryTimeout {part slot rank : Nat} {s : State} (h : Canonical s) :
    NextCanonical (execRnrRetryTimeout part slot rank s) := .ite (.next (.pumpFlow (.resend (.setFlow h)))) (.next h)

theorem Canonical.failCmds {s : State} {l : List (Nat × Nat)} {status : Nat} (h : Canonical s) : Canonical (s.failCmds l status) :=
  .foldl (fun _ _ ht => .failCmd ht) h

theorem Canonical.endColl {s : State} {n coll status : Nat} (h : Canonical s) : Canonical (s.endColl n coll status) := by
  unfold State.endColl
  dsimp only
  split
  · exact h
  · exact .endCmd (.setJob h)

theorem Canonical.connUnreachable {s : State} {n rank : Nat} (h : Canonical s) : Canonical (s.connUnreachable n rank) :=
  .sendFletus (.setFlow (.failCmds h))

theorem Canonical.streamUnreachable {s : State} {n rank : Nat} (h : Canonical s) : Canonical (s.streamUnreachable n rank) :=
  .setFlow (.setJob (.foldl (fun _ _ ht => .endCmd ht) (.foldl (fun _ _ ht => .endColl ht) h)))

theorem NextCanonical.retransmitTimeout {part slot rank : Nat} {fletus : Bool} {s : State} (h : Canonical s) :
    NextCanonical (execRetransmitTimeout part slot rank fletus s) :=
  .ite (.next (.ite (.expire h) (.ite (.streamUnreachable h) (.connUnreachable h)))) (.next h)

-- Fletus and the collectives

theorem Canonical.streamAck {s : State} {n rank ack : Nat} (h : Canonical s) : Canonical (s.streamAck n rank ack) := .ite h (.setFlow h)

theorem Canonical.streamCommon {s : State} {n : Nat} {x : RxFrame} {p : FletusPkt} (h : Canonical s) : Canonical (s.streamCommon n x p) :=
  .streamAck (.ite (.setFlow (.echoCe h)) (.echoCe h))

theorem Canonical.sendNack {s : State} {n rank : Nat} (h : Canonical s) : Canonical (s.sendNack n rank) := .ite h (.sendFletus (.setFlow h))

theorem FstCanonical.streamIn {s : State} {n : Nat} {x : RxFrame} {p : FletusPkt} {f : State → State × Taken} (h : Canonical s)
    (hf : ∀ t, Canonical t → FstCanonical (f t)) :
    FstCanonical (s.streamIn n x p f) := by
  unfold State.streamIn
  refine .ite (.pair (.sendNack (.ite (.setFlow (.streamCommon h)) (.streamCommon h)))) ?_
  split
  · next _ he => exact .pair (.journalPacket (.holdAck (.setFlow (.of_eq_mk he ((hf _) (.ite (.setFlow (.streamCommon h)) (.streamCommon h)))))))
  · next _ he => exact .pair (.sendNack (.ite (.setFlow (.streamCommon h)) (.streamCommon h)))
  · next _ he => exact .pair (.of_eq_mk he ((hf _) (.ite (.setFlow (.streamCommon h)) (.streamCommon h))))

theorem NextCanonical.onFletus {s : State} {b : Nat} {kind : FletusMsg → Bool} {f : State → Nat → RxFrame → FletusPkt → State × Bool}
    (h : Canonical s) (hf : ∀ t y z w, Canonical t → FstCanonical (f t y z w)) :
    NextCanonical (s.onFletus b kind f) := by
  unfold State.onFletus
  refine .onPacket h (fun _ _ _ ht => ?_)
  split
  · exact hf _ _ _ _ ht
  · exact .pair ht

theorem NextCanonical.fletusAck {block : Nat} {s : State} (h : Canonical s) : NextCanonical (execFletusAck block s) :=
  .onFletus h (fun _ _ _ _ ht => .pair (.ite (.setFlow (.streamCommon ht)) (.streamCommon ht)))

theorem NextCanonical.fletusNack {block : Nat} {s : State} (h : Canonical s) : NextCanonical (execFletusNack block s) :=
  .onFletus h (fun _ _ _ _ ht => .pair (.resend (.streamCommon ht)))

theorem NextCanonical.remoteOp {q seq : Nat} {s : State} (h : Canonical s) : NextCanonical (execRemoteOp q seq s) := by
  unfold execRemoteOp
  refine .onStart h (fun _ => ?_)
  refine .ite h ?_
  refine .netStart h (fun _ _ => ?_)
  split
  · next _ _ he => exact .streamSend (.setJob (.runCmd (.of_eq_mk he (.ctxRead h))))
  · next _ _ he => exact .ioFail (.of_eq_mk he (.ctxRead h))

theorem Canonical.takeCmd {s : State} {n src : Nat} {bs : List Byte} (h : Canonical s) : Canonical (s.takeCmd n src bs) := by
  unfold State.takeCmd
  refine .ite (.streamSend h) ?_
  dsimp only
  split
  · exact .endCmd (.setJob (.setQueue h))
  · exact .setJob (.setQueue h)

theorem NextCanonical.cmd {block : Nat} {s : State} (h : Canonical s) : NextCanonical (execCmd block s) := by
  unfold execCmd
  refine .onFletus h (fun _ _ _ _ ht => ?_)
  split
  · exact .streamIn ht (fun _ hu => .pair (.takeCmd hu))
  · exact .pair ht

theorem Canonical.takeDone {s : State} {n src : Nat} {rec : List Byte} (h : Canonical s) : Canonical (s.takeDone n src rec) := by
  unfold State.takeDone
  dsimp only
  split
  · exact h
  · exact .endCmd (.setJob h)

theorem NextCanonical.cmdDone {block : Nat} {s : State} (h : Canonical s) : NextCanonical (execCmdDone block s) := by
  unfold execCmdDone
  refine .onFletus h (fun _ _ _ _ ht => ?_)
  split
  · exact .streamIn ht (fun _ hu => .pair (.takeDone hu))
  · exact .pair ht

theorem FstCanonical.readElems {e : EngineInfo} {t : Tensor} {lf : Bool} {l : List Nat} {s : State} (h : Canonical s) :
    FstCanonical (State.readElems e t lf l s) := by
  induction l generalizing s with
  | nil => exact .pair h
  | cons x l ih =>
    unfold State.readElems
    split
    · next _ _ he =>
      have h₁ := Canonical.of_eq_mk he (.ctxRead h)
      split
      · next _ _ he => exact .pair (.of_eq_mk he (ih h₁))
      · exact ih h₁
    · next _ _ he => exact .pair (.of_eq_mk he (.ctxRead h))
    · next _ _ he => exact .pair (.of_eq_mk he (.ctxRead h))
    · next _ he => exact .pair (.of_eq_mk he (.ctxRead h))

theorem Canonical.finishColl {s : State} {n coll : Nat} (h : Canonical s) : Canonical (s.finishColl n coll) := by
  unfold State.finishColl
  split
  · exact h
  · split
    · exact h
    · refine .ite h ?_
      dsimp only
      split
      · refine .ite ?_ (.finishOperator h)
        split
        · next _ _ he =>
          have h₁ := Canonical.of_eq_mk he (.ctxRead h)
          split
          · next _ he => exact .endCmd (.orDrain (.of_eq_mk he (.ctxWrite h₁)))
          · next _ _ he => exact .ioFail (.of_eq_mk he (.ctxWrite h₁))
        · next _ _ he => exact .ioFail (.of_eq_mk he (.ctxRead h))
      · refine .setJob ?_
        refine .ite ?_ (.finishOperator h)
        split
        · next _ _ he =>
          have h₁ := Canonical.of_eq_mk he (.ctxRead h)
          split
          · next _ he => exact .endCmd (.orDrain (.of_eq_mk he (.ctxWrite h₁)))
          · next _ _ he => exact .ioFail (.of_eq_mk he (.ctxWrite h₁))
        · next _ _ he => exact .ioFail (.of_eq_mk he (.ctxRead h))

theorem Canonical.disagree {s : State} {n coll status : Nat} (h : Canonical s) : Canonical (s.disagree n coll status) := by
  unfold State.disagree
  split
  · exact h
  · exact .endColl (.streamAll h)

theorem Canonical.applyMsg {s : State} {n src : Nat} {msg : FletusMsg} (h : Canonical s) : Canonical (s.applyMsg n src msg) := by
  unfold State.applyMsg
  dsimp only
  split
  · split
    · exact h
    · split
      · exact .disagree h
      · refine .ite (.disagree h) ?_
        split
        · exact .disagree h
        · split
          · exact .disagree h
          · exact .finishColl (.setJob h)
  · split
    · exact h
    · refine .ite (.disagree h) ?_
      split
      · exact .disagree h
      · exact .finishColl (.setJob h)
  · exact h

theorem FstCanonical.collIn {s : State} {b n src coll use size : Nat} {msg : FletusMsg} (h : Canonical s) :
    FstCanonical (s.collIn b n src coll use size msg) := by
  unfold State.collIn
  dsimp only
  split
  · exact .ite (.pair (.applyMsg h)) (.ite (.ite (.pair h) (.pair (.setJob h))) (.pair (.disagree (.bump h))))
  · exact .ite (.ite (.pair h) (.pair (.setJob h))) (.pair (.bump h))

theorem NextCanonical.fletusData {block : Nat} {s : State} (h : Canonical s) : NextCanonical (execFletusData block s) := by
  unfold execFletusData
  refine .onFletus h (fun _ _ _ _ ht => ?_)
  split
  · exact .streamIn ht (fun _ hu => .collIn hu)
  · exact .pair ht

theorem NextCanonical.fletusRecord {block : Nat} {s : State} (h : Canonical s) : NextCanonical (execFletusRecord block s) := by
  unfold execFletusRecord
  refine .onFletus h (fun _ _ _ _ ht => ?_)
  split
  · exact .streamIn ht (fun _ hu => .collIn hu)
  · exact .pair ht

theorem FstCanonical.collInput {s : State} {e : EngineInfo} {c : Cmd} {own root : Nat} (h : Canonical s) :
    FstCanonical (s.collInput e c own root) := by
  unfold State.collInput
  refine .ite ?_ ?_
  · split
    · next _ _ he => exact .pair (.of_eq_mk he (.ctxRead h))
    · next _ _ he => exact .pair (.of_eq_mk he (.ctxRead h))
    · next _ _ he => exact .pair (.of_eq_mk he (.ctxRead h))
    · next _ he => exact .pair (.of_eq_mk he (.ctxRead h))
  · refine .ite (.pair h) ?_
    dsimp only
    split
    · next _ _ he => exact .pair (.of_eq_mk he (.readElems h))
    · next _ _ he => exact .pair (.of_eq_mk he (.readElems h))
    · next _ _ he => exact .pair (.of_eq_mk he (.readElems h))
    · next _ he => exact .pair (.of_eq_mk he (.readElems h))

theorem Canonical.issueColl {s : State} {n q seq : Nat} {c : Cmd} {pos : Nat} {data : List Nat} {rec : List Byte} (h : Canonical s) :
    Canonical (s.issueColl n q seq c pos data rec) :=
  .finishColl (.foldl (fun _ _ ht => .applyMsg ht) (.foldl (fun _ _ ht => .foldl (fun _ _ hu => .streamSend hu) ht) (.setJob (.runCmd h))))

theorem NextCanonical.collOp {s : State} {q seq sub : Nat} (h : Canonical s) : NextCanonical (s.collOp q seq sub) := by
  unfold State.collOp
  split
  · exact .next h
  · refine .ite (.next h) ?_
    refine .ite (.next (.finishColl h)) ?_
    refine .onStart h (fun _ => ?_)
    refine .ite h ?_
    refine .ite (.endCmd h) ?_
    refine .ite (.endCmd h) ?_
    split
    · refine .ite h ?_
      split
      · next _ _ _ he => exact .issueColl (.of_eq_mk he (.collInput h))
      · next _ _ he => exact .ioFail (.of_eq_mk he (.collInput h))
    · exact .endCmd h

theorem NextCanonical.allReduce {q seq : Nat} {s : State} (h : Canonical s) : NextCanonical (execAllReduce q seq s) := .collOp h
theorem NextCanonical.reduceScatter {q seq : Nat} {s : State} (h : Canonical s) : NextCanonical (execReduceScatter q seq s) := .collOp h
theorem NextCanonical.allGather {q seq : Nat} {s : State} (h : Canonical s) : NextCanonical (execAllGather q seq s) := .collOp h
theorem NextCanonical.broadcast {q seq : Nat} {s : State} (h : Canonical s) : NextCanonical (execBroadcast q seq s) := .collOp h
theorem NextCanonical.reduceToRoot {q seq : Nat} {s : State} (h : Canonical s) : NextCanonical (execReduceToRoot q seq s) := .collOp h
theorem NextCanonical.recordAllReduce {q seq : Nat} {s : State} (h : Canonical s) : NextCanonical (execRecordAllReduce q seq s) := .collOp h
theorem NextCanonical.collectiveBarrier {q seq : Nat} {s : State} (h : Canonical s) : NextCanonical (execCollectiveBarrier q seq s) := .collOp h

-- jobs and the launch tree

theorem Canonical.slotIdle {s : State} {n : Nat} {timedOut : Bool} (h : Canonical s) : Canonical (s.slotIdle n timedOut) :=
  .wr (.wr (.setJob (.record h)))

theorem Canonical.endLoad {s : State} {n status result : Nat} (h : Canonical s) : Canonical (s.endLoad n status result) := by
  unfold State.endLoad
  dsimp only
  split
  · exact .endCmd (.setJob h)
  · exact h

theorem Canonical.setRound {s : State} {n : Nat} {r : LaunchRound} (h : Canonical s) : Canonical (s.setRound n r) := .setJob h

theorem Canonical.askRanks {s : State} {n : Nat} {kind : RoundKind} {ranks : List Nat} (h : Canonical s) : Canonical (s.askRanks n kind ranks) := by
  unfold State.askRanks
  dsimp only
  split
  · exact h
  · exact .foldl (fun _ _ ht => .sendLaunch ht) (.setRound h)

theorem Canonical.writeFail {s : State} {n : Nat} {l : List Nat} (h : Canonical s) : Canonical (s.writeFail n l) := by
  unfold State.writeFail
  dsimp only
  split
  · split
    · exact .of_fst (.ctxWrite h)
    · exact h
  · exact h

theorem Canonical.armSlot {s : State} {n status : Nat} (h : Canonical s) : Canonical (s.armSlot n status) := .endLoad (.wr h)

theorem Canonical.startRound {s : State} {n : Nat} {kind : RoundKind} {parent : Option Nat} {prep : SubtreeResult} (h : Canonical s) :
    Canonical (s.startRound n kind parent prep) := .askRanks (.setRound h)

theorem Canonical.rootEnds {s : State} {n : Nat} {r : LaunchRound} (h : Canonical s) : Canonical (s.rootEnds n r) := by
  unfold State.rootEnds
  split
  · exact .slotIdle (.endLoad (.writeFail h))
  · exact .ite (.armSlot h) (.armSlot (.writeFail h))

theorem Canonical.settleRound {s : State} {n : Nat} (h : Canonical s) : Canonical (s.settleRound n) := by
  unfold State.settleRound
  dsimp only
  split
  · exact h
  · refine .ite h ?_
    split
    · exact .sendLaunch (.wr h)
    · exact .sendLaunch h
    · exact .slotIdle (.endLoad (.sendLaunch h))
    · split
      · exact .ite (.rootEnds (.ite (.startRound (.wr h)) (.startRound h))) (.ite (.startRound (.wr h)) (.startRound h))
      · exact .ite (.startRound (.wr h)) (.startRound h)
    · exact .rootEnds h

theorem Canonical.settleChild {s : State} {n child : Nat} {kind : RoundKind} {res : SubtreeResult} {ask : List Nat} (h : Canonical s) :
    Canonical (s.settleChild n child kind res ask) := by
  unfold State.settleChild
  dsimp only
  split
  · exact h
  · exact .ite h (.settleRound (.askRanks (.setRound h)))

theorem Canonical.failChild {s : State} {n child : Nat} {kind : RoundKind} (h : Canonical s) : Canonical (s.failChild n child kind) :=
  .settleChild h

theorem Canonical.takePrepare {s : State} {n src : Nat} {p : PrepareInfo} (h : Canonical s) : Canonical (s.takePrepare n src p) := by
  unfold State.takePrepare
  refine .ite h ?_
  refine .ite (.sendLaunch h) ?_
  split
  · exact .ite (.settleRound (.setRound h)) h
  · exact .settleRound (.startRound h)

theorem Canonical.takeArm {s : State} {n src : Nat} (h : Canonical s) : Canonical (s.takeArm n src) := by
  unfold State.takeArm
  refine .ite h ?_
  refine .ite (.settleRound (.startRound (.armSlot h))) ?_
  split
  · exact .ite (.settleRound (.setRound h)) h
  · exact h

theorem Canonical.takeAbort {s : State} {n src : Nat} (h : Canonical s) : Canonical (s.takeAbort n src) := by
  unfold State.takeAbort
  refine .ite h ?_
  refine .ite ?_ (.ite (.settleRound (.startRound (.wr h))) h)
  split
  · exact .settleRound (.setRound h)
  · exact h

theorem NextCanonical.onLaunch {s : State} {b : Nat} {kind : FletusMsg → Bool} {f : State → Nat → Nat → FletusMsg → State} (h : Canonical s)
    (hf : ∀ t y z w, Canonical t → Canonical (f t y z w)) :
    NextCanonical (s.onLaunch b kind f) := .onFletus h (fun _ _ _ _ ht => .pair ((hf _ _ _ _) ht))

theorem NextCanonical.prepare {block : Nat} {s : State} (h : Canonical s) : NextCanonical (execPrepare block s) := by
  unfold execPrepare
  refine .onLaunch h (fun _ _ _ _ ht => ?_)
  split
  · exact .takePrepare ht
  · exact ht

theorem NextCanonical.prepareAck {block : Nat} {s : State} (h : Canonical s) : NextCanonical (execPrepareAck block s) := by
  unfold execPrepareAck
  refine .onLaunch h (fun _ _ _ _ ht => ?_)
  split
  · exact .settleChild ht
  · exact ht

theorem NextCanonical.notPrepared {block : Nat} {s : State} (h : Canonical s) : NextCanonical (execNotPrepared block s) :=
  .onLaunch h (fun _ _ _ _ ht => .failChild ht)

theorem NextCanonical.arm {block : Nat} {s : State} (h : Canonical s) : NextCanonical (execArm block s) :=
  .onLaunch h (fun _ _ _ _ ht => .takeArm ht)

theorem NextCanonical.armAck {block : Nat} {s : State} (h : Canonical s) : NextCanonical (execArmAck block s) := by
  unfold execArmAck
  refine .onLaunch h (fun _ _ _ _ ht => ?_)
  split
  · exact .settleChild ht
  · exact ht

theorem NextCanonical.abort {block : Nat} {s : State} (h : Canonical s) : NextCanonical (execAbort block s) :=
  .onLaunch h (fun _ _ _ _ ht => .takeAbort ht)

theorem NextCanonical.abortAck {block : Nat} {s : State} (h : Canonical s) : NextCanonical (execAbortAck block s) := by
  unfold execAbortAck
  refine .onLaunch h (fun _ _ _ _ ht => ?_)
  split
  · exact .settleChild ht
  · exact ht

theorem NextCanonical.launchChildTimeout {part slot child : Nat} {s : State} (h : Canonical s) :
    NextCanonical (execLaunchChildTimeout part slot child s) := by
  unfold execLaunchChildTimeout
  dsimp only
  split
  · exact .next h
  · exact .ite (.next (.failChild h)) (.next h)

theorem NextCanonical.launchHoldTimeout {part slot : Nat} {s : State} (h : Canonical s) : NextCanonical (execLaunchHoldTimeout part slot s) :=
  .ite (.next (.slotIdle (.endLoad h))) (.next h)

theorem Canonical.loadRanks {s : State} {n base count : Nat} {b : List Byte} (h : Canonical s) : Canonical (s.loadRanks n base count b) := .record h

theorem Canonical.loadSlot {s : State} {n q seq : Nat} {c : Cmd} {b : List Byte} (h : Canonical s) : Canonical (s.loadSlot n q seq c b) :=
  .runCmd (.setJob (.wr (.wr (.wr (.wr (.wr (.wr (.wr (.wr (.loadRanks h))))))))))

theorem Canonical.beginLaunch {s : State} {n q : Nat} {c : Cmd} (h : Canonical s) : Canonical (s.beginLaunch n q c) := by
  unfold State.beginLaunch
  refine .ite ?_ (.ite (.settleRound (.startRound h)) h)
  split
  · exact .armSlot h
  · exact .slotIdle (.endLoad h)
  · exact h

theorem NextCanonical.jobLoad {q seq : Nat} {s : State} (h : Canonical s) : NextCanonical (execJobLoad q seq s) := by
  unfold execJobLoad
  refine .onStart h (fun _ => ?_)
  refine .ite h ?_
  refine .ite (.endCmd h) ?_
  refine .ite (.endCmd h) ?_
  split
  · next _ _ he =>
    have h₁ := Canonical.of_eq_mk he (.ctxRead h)
    exact .ite (.beginLaunch (.loadSlot h₁)) (.endCmd h₁)
  · next _ _ he => exact .ioFail (.of_eq_mk he (.ctxRead h))

theorem Canonical.endSlotCmds {s : State} {n : Nat} (h : Canonical s) : Canonical (s.endSlotCmds n) :=
  .setJob (.foldl (fun _ _ ht => .endCmd ht) (.failCmds h))

theorem NextCanonical.jobTeardown {q seq : Nat} {s : State} (h : Canonical s) : NextCanonical (execJobTeardown q seq s) :=
  .onStart h (fun _ => .ite (.endCmd h) (.runCmd (.setJob (.wr (.endSlotCmds (.endLoad h))))))

theorem NextCanonical.teardownDone {part slot : Nat} {s : State} (h : Canonical s) : NextCanonical (execTeardownDone part slot s) := by
  unfold execTeardownDone
  dsimp only
  split
  · exact .next h
  · exact .ite (.next (.endCmd (.slotIdle h))) (.next h)

theorem NextCanonical.ptpSync {offset residual rate : ℤ} {s : State} (h : Canonical s) : NextCanonical (execPtpSync offset residual rate s) :=
  .ite (.next (.ite (.wr (.record (.wr (.wr (.wr h))))) (.ite (.wr (.record (.wr (.wr (.wr h))))) (.record (.wr (.wr (.wr h))))))) (.next h)

theorem NextCanonical.ptpSyncLoss {s : State} (h : Canonical s) : NextCanonical (execPtpSyncLoss s) := .ite (.next (.record (.wr h))) (.next h)

theorem Canonical.writePortCfg {s : State} {q : RegWriteReq} (h : Canonical s) : Canonical (s.writePortCfg q) :=
  .foldl (fun _ _ ht => .settlePfc ht) (.store (.ite (.record h) h))

theorem NextCanonical.splitWrite {a : Access} {s : State} (h : Canonical s) : NextCanonical (execSplitWrite a s) :=
  .onWrite h (fun _ => .ite (.writePortCfg h) h)

theorem Canonical.writePortAddr {s : State} {q : RegWriteReq} (h : Canonical s) : Canonical (s.writePortAddr q) := .ite (.store h) (.accessError h)
theorem Canonical.writeNetCfg {s : State} {q : RegWriteReq} (h : Canonical s) : Canonical (s.writeNetCfg q) := .ite (.store h) (.accessError h)

end Sys2Proof.Machine
end

section
/-! PROOFS. The canonical form of memory through register writes, host accesses and the engines, and through a step (O59). -/

namespace Sys2Proof.Machine

open Sys2Proof.Claims

-- writes of registers

theorem Canonical.writePartCfg {s : State} {q : RegWriteReq} (h : Canonical s) : Canonical (s.writePartCfg q) := .wr (.store h)
theorem Canonical.writeFpMode {s : State} {q : RegWriteReq} (h : Canonical s) : Canonical (s.writeFpMode q) := .store h
theorem Canonical.writeDrainCfg {s : State} {q : RegWriteReq} (h : Canonical s) : Canonical (s.writeDrainCfg q) := .store h

theorem Canonical.writeFaultRing {s : State} {q : RegWriteReq} (h : Canonical s) : Canonical (s.writeFaultRing q) :=
  .ite (.store h) (.accessError h)

theorem Canonical.writeCountCtl {s : State} {q : RegWriteReq} (h : Canonical s) : Canonical (s.writeCountCtl q) := by
  unfold State.writeCountCtl
  split
  · exact h
  · exact .ite (.foldl (fun _ _ ht => .clearReg ht) (.store (.ite (.throttleAcc h) h))) (.store (.ite (.throttleAcc h) h))

theorem Canonical.writeStageAddr {s : State} {q : RegWriteReq} (h : Canonical s) : Canonical (s.writeStageAddr q) :=
  .ite (.store h) (.accessError h)

theorem Canonical.writeStageCtl {s : State} {e : WriteEnv} {q : RegWriteReq} (h : Canonical s) : Canonical (s.writeStageCtl e q) :=
  .ite (.fwuRequest h) (.ite h (.accessError h))

theorem Canonical.writeCalCtl {s : State} {e : WriteEnv} {q : RegWriteReq} (h : Canonical s) : Canonical (s.writeCalCtl e q) :=
  .ite (.calImport (.ite (.calExport h) h)) (.ite (.calExport h) h)

theorem Canonical.writeFwuActivate {s : State} {q : RegWriteReq} (h : Canonical s) : Canonical (s.writeFwuActivate q) :=
  .ite (.writeActivate h) (.ite h (.accessError h))

theorem Canonical.regWrite {s : State} {e : WriteEnv} {q : RegWriteReq} (h : Canonical s) : Canonical (s.regWrite e q) := by
  unfold State.regWrite
  split
  · exact .writePartCfg h
  · exact .writePartCtl h
  · exact .writeFpMode h
  · exact .writeDrainCfg h
  · exact .writeCountCtl h
  · exact .writeCountCtl h
  · exact .writeCountCtl h
  · exact .writeCountCtl h
  · exact .writeCountCtl h
  · exact .writeCountCtl h
  · exact .writeCtxState h
  · exact .writeFaultRing h
  · exact .writeFaultRead h
  · exact .writeFaultPolicy h
  · exact .writeCntOwner h
  · exact .writeSramCfg h
  · exact .writeGrant h
  · exact .writeGrant h
  · exact .writeGrant h
  · exact .writePt h
  · exact .writePt h
  · exact .writeTlbInv h
  · exact .writeXfrBase h
  · exact .writeXfrRead h
  · exact .writeXfrRespond h
  · exact .writeVfCfg h
  · exact .writeQpCfg h
  · exact .writeQpBase h
  · exact .writeQpBase h
  · exact .writeQpDlb h
  · exact .writeSessionCtl h
  · exact .writeToken h
  · exact .writeHeartbeat h
  · exact .writeHwt h
  · exact .writeAwt h
  · exact .writePortCfg h
  · exact .writePortAddr h
  · exact .writePortAddr h
  · exact .writeNetCfg h
  · exact .writeSkbCfg h
  · exact .writeSkbSetup h
  · exact .writeSkbSetup h
  · exact .writeSkbSetup h
  · exact .writePauseSeq h
  · exact .writeSkbMark h
  · exact .writeCheckAddr h
  · exact .writeCheckLen h
  · exact .writePwrCap h
  · exact .writePwrShare h
  · exact .writePwrCfg h
  · exact .writeStageAddr h
  · exact .writeStageCtl h
  · exact .writeFwuActivate h
  · exact .writeRasCfg h
  · exact .writeIsolate h
  · exact .writeCalCtl h
  · exact .writeEvtBase h
  · exact .writeSecCfg h
  · exact .writeMemCrypt h
  · exact .writeSide h
  · exact .writeResetCtl h
  · exact .store h

theorem Canonical.writeAccess {s : State} {e : WriteEnv} {a : Access} (h : Canonical s) : Canonical (s.writeAccess e a) := by
  unfold State.writeAccess
  split
  · exact .accessError h
  · exact h
  · exact .regWrite h

theorem NextCanonical.registerWrite {a : Access} {s : State} (h : Canonical s) : NextCanonical (execRegisterWrite a s) := .next (.writeAccess h)

theorem NextCanonical.countCtlClear {a : Access} {s : State} (h : Canonical s) : NextCanonical (execCountCtlClear a s) := by
  unfold execCountCtlClear
  refine .onWrite h (fun _ => ?_)
  split
  · exact .ite (.writeCountCtl h) h
  · exact h

theorem FstCanonical.readReg {s : State} {r : Reg} {n size : Nat} (h : Canonical s) : FstCanonical (s.readReg r n size) := by
  unfold State.readReg
  split
  · exact .readToken h
  · exact .pair h

theorem FstCanonical.readAccess {s : State} {a : Access} (h : Canonical s) : FstCanonical (s.readAccess a) := by
  unfold State.readAccess
  dsimp only
  split
  · split
    · exact .pair h
    · exact .pair (.accessError h)
  · exact .ite (.pair (.accessError h)) (.ite (.pair h) (.pair (.of_fst (.readReg h))))

-- the host BARs

theorem Canonical.barRefuse {s : State} {r : BarReq} (h : Canonical s) : Canonical (s.barRefuse r) :=
  .ite (.accessError h) (.accessError (.send (.record h)))

theorem Canonical.barHole {s : State} {r : BarReq} (h : Canonical s) : Canonical (s.barHole r) :=
  .ite (.accessError h) (.accessError (.answerRead h))

theorem Canonical.bar0 {s : State} {r : BarReq} (h : Canonical s) : Canonical (s.bar0 r) :=
  .ite (.barHole h) (.ite (.writeAccess h) (.answerRead (.of_fst (.readAccess h))))

theorem Canonical.ringBell {s : State} {fn q bell v : Nat} (h : Canonical s) : Canonical (s.ringBell fn q bell v) := by
  have hbell : NextCanonical (if bell = 0 then execSqDoorbell fn q v s else execCqDoorbell fn q v s) := .ite (.sqDoorbell h) (.cqDoorbell h)
  unfold State.ringBell
  split
  · next _ he => exact hbell.of_next _ he
  · exact h

theorem Canonical.doorbellPage {s : State} {r : BarReq} (h : Canonical s) : Canonical (s.doorbellPage r) :=
  .ite (.barHole h) (.ite (.ite (.accessError h) (.ite h (.ringBell h))) (.ite (.barHole h) (.answerRead h)))

theorem Canonical.bar4 {s : State} {r : BarReq} (h : Canonical s) : Canonical (s.bar4 r) :=
  .ite (.barHole h) (.ite (.doorbellPage h) (.ite (.ite (.record h) (.answerRead h)) (.ite (.ite h (.answerRead h)) (.barHole h))))

theorem FstCanonical.barRead {s : State} {pa len : Nat} (h : Canonical s) : FstCanonical (s.barRead pa len) := .pair (.ncReadRange h)

theorem Canonical.barWrite {s : State} {pa : Nat} {bs : List Byte} {poisoned : Bool} (h : Canonical s) : Canonical (s.barWrite pa bs poisoned) :=
  .ite (.foldl (fun _ _ ht => .markPoison ht) (.ncWriteRange h)) (.ncWriteRange h)

theorem Canonical.barMem {s : State} {r : BarReq} {ctx : Option Nat} {pa : Nat} (h : Canonical s) : Canonical (s.barMem r ctx pa) := by
  unfold State.barMem
  split
  · exact .barHole h
  · exact .ite (.barWrite h) (.answerRead (.of_fst (.barRead h)))
  · exact .record h

theorem Canonical.barRetry {s : State} {w : BarRead} (h : Canonical s) : Canonical (s.barRetry w) := by
  unfold State.barRetry
  dsimp only
  split
  · exact .barWrite (.record h)
  · exact .ite h (.send (.of_fst (.barRead (.record h))))
  · exact .accessError (.record h)
  · exact .accessError (.send (.record h))
  · exact h

theorem Canonical.barRetryAll {s : State} (h : Canonical s) : Canonical s.barRetryAll := .foldl (fun _ _ ht => .barRetry ht) h
theorem Canonical.bar2 {s : State} {r : BarReq} (h : Canonical s) : Canonical (s.bar2 r) := .ite (.barHole h) (.barMem h)

theorem Canonical.aperture {s : State} {r : BarReq} (h : Canonical s) : Canonical (s.aperture r) := by
  unfold State.aperture
  refine .ite (.barHole h) ?_
  refine .ite h ?_
  dsimp only
  split
  · next _ _ he =>
    have h₁ := Canonical.of_eq_mk he (.translate h)
    split
    · exact .barHole (.grantEvent h₁)
    · exact .barMem h₁
  · next _ _ he => exact .barHole (.of_eq_mk he (.translate h))

theorem Canonical.barServe {s : State} {r : BarReq} (h : Canonical s) : Canonical (s.barServe r) :=
  .ite (.barRefuse (.barRetryAll h)) (.ite (.bar0 (.barRetryAll h)) (.ite (.bar4 (.barRetryAll h)) (.ite (.bar2 (.barRetryAll h)) (.aperture
      (.barRetryAll h)))))

theorem NextCanonical.barAccess {r : BarReq} {s : State} (h : Canonical s) : NextCanonical (execBarAccess r s) := .next (.ite (.barServe h) h)
theorem NextCanonical.bar2Access {r : BarReq} {s : State} (h : Canonical s) : NextCanonical (execBar2Access r s) := .next (.ite (.barServe h) h)

theorem NextCanonical.apertureAccess {r : BarReq} {s : State} (h : Canonical s) : NextCanonical (execApertureAccess r s) :=
  .next (.ite (.barServe h) h)

theorem NextCanonical.barReadTimeout {id : Nat} {s : State} (h : Canonical s) : NextCanonical (execBarReadTimeout id s) := by
  unfold execBarReadTimeout
  dsimp only
  split
  · exact .ite (.next (.hwEvent (.send (.record (.barRetryAll h))))) (.next (.barRetryAll h))
  · exact .next (.barRetryAll h)

-- memory instructions

theorem FstCanonical.resolve {s : State} {core ctx : Nat} {op : MemOp} (h : Canonical s) : FstCanonical (s.resolve core ctx op) := by
  unfold State.resolve
  dsimp only
  exact .foldl (fun _ _ ht => .pair (.of_fst (.access (.of_fst ht)))) (.pair h)

theorem Canonical.addTxn {s : State} {core : Nat} {t : Txn} (h : Canonical s) : Canonical (s.addTxn core t) := .setCore h

theorem FstCanonical.caLines {s : State} {core : Nat} {lines : List Nat} (h : Canonical s) : FstCanonical (s.caLines core lines) := by
  unfold State.caLines
  refine .foldl (fun _ _ ht => ?_) (.pair h)
  dsimp only
  split
  · exact .pair (.bumpRun (.setCore (.of_fst ht)))
  · exact .pair (.l2Read (.bumpRun (.of_fst ht)))

theorem FstCanonical.loadMemory {s : State} {core : Nat} {op : MemOp} {ms : List (LaneAcc × Nat)} (h : Canonical s) :
    FstCanonical (s.loadMemory core op ms) := by
  unfold State.loadMemory
  dsimp only
  exact .ite (.pair (.of_fst (.caLines h))) (.ite (.pair (.foldl (fun _ _ ht => .ncReadRange ht) h)) (.pair (.foldl (fun _ _ ht => .l2Read ht) h)))

theorem Canonical.storeMemory {s : State} {core : Nat} {fine : Bool} {bytes : NMap Byte} (h : Canonical s) :
    Canonical (s.storeMemory core fine bytes) :=
  .ite (.foldl (fun _ _ ht => .ncWriteRange ht) (.setCore h)) (.foldl (fun _ _ ht => .writeMem ht) (.foldl (fun _ _ ht => .l2Store ht) (.setCore
      h)))

theorem Canonical.poisonEvent {s : State} {ctx pa : Nat} (h : Canonical s) : Canonical (s.poisonEvent ctx pa) := .hwEvent h

theorem FstCanonical.atomics {s : State} {ctx : Nat} {op : MemOp} {a : AtomOp} {ms : List (LaneAcc × Nat)} (h : Canonical s) :
    FstCanonical (s.atomics ctx op a ms) :=
  .foldl (fun _ _ ht => .ite (.ite (.pair (.ncAtomic (.of_fst ht))) (.pair (.poisonEvent (.ncAtomic (.of_fst ht))))) (.pair (.atomicAt (.ncAtomic
      (.of_fst ht))))) (.pair h)

theorem FstCanonical.registerLanes {s : State} {core : Nat} {op : MemOp} {l : List (LaneAcc × Nat)} (h : Canonical s) :
    FstCanonical (s.registerLanes core op l) := by
  unfold State.registerLanes
  refine .foldl (fun _ _ ht => ?_) (.pair h)
  dsimp only
  split
  · exact .pair (.of_fst (.readAccess (.of_fst ht)))
  · exact .pair (.writeAccess (.of_fst ht))
  · exact .pair (.accessError (.of_fst ht))

theorem FstCanonical.takeEvent {s : State} {k : Task} {core pos : Nat} (h : Canonical s) : FstCanonical (s.takeEvent k core pos) :=
  .pair (.ite (.countEventOf h) h)

theorem FstCanonical.hostLanes {s : State} {core t : Nat} {k : Task} {op : MemOp} {base : Nat} {l : List (LaneAcc × Nat × Nat × Nat)}
    (h : Canonical s) :
    FstCanonical (s.hostLanes core t k op base l) := by
  unfold State.hostLanes
  refine .foldl (fun _ _ ht => ?_) (.pair h)
  refine .ite ?_ (.pair (.addTxn (.of_fst ht)))
  split
  · next _ _ he => exact .pair (.of_eq_mk he (.groupReplay (.of_fst ht)))
  · next _ he => exact .pair (.addTxn (.of_fst (.takeEvent (.of_eq_mk he (.groupReplay (.of_fst ht))))))

theorem FstCanonical.vaPieces {s : State} {core ctx f va n : Nat} {kind : AccKind} (h : Canonical s) :
    FstCanonical (s.vaPieces core ctx kind f va n) := by
  induction f generalizing s va n with
  | zero => exact .pair h
  | succ f ih =>
    unfold State.vaPieces
    dsimp only
    refine .ite (.pair h) ?_
    split
    · next _ _ he =>
      have h₁ := Canonical.of_eq_mk he (.access h)
      split
      · next _ _ he => exact .pair (.of_eq_mk he (ih h₁))
      · next _ _ he => exact .pair (.of_eq_mk he (ih h₁))
    · next _ _ _ he => exact .pair (.of_eq_mk he (.access h))

theorem Canonical.stallLanes {s : State} {core t : Nat} {k : Task} {op : MemOp} {base : Nat} {rs : Resolved} (h : Canonical s) :
    Canonical (s.stallLanes core t k op base rs) := by
  unfold State.stallLanes
  refine .foldl (fun _ _ ht => .addTxn ht) ?_
  refine .of_fst ?_
  refine .foldl (fun _ _ ht => ?_) (.pair h)
  split
  · exact .pair (.of_fst ht)
  · exact .pair (.of_fst (.xfrReport (.of_fst ht)))
  · exact .pair (.of_fst ht)
  · exact ht

theorem Canonical.exactLanes {s : State} {core t : Nat} {k : Task} {op : MemOp} {base : Nat} {ms : List (LaneAcc × Nat)} (h : Canonical s) :
    Canonical (s.exactLanes core t k op base ms) := .foldl (fun _ _ ht => .addTxn ht) h

theorem FstCanonical.longLanes {s : State} {core t : Nat} {k : Task} {op : MemOp} {base : Nat} {ms : List (LaneAcc × Nat)} (h : Canonical s) :
    FstCanonical (s.longLanes core t k op base ms) := by
  unfold State.longLanes
  refine .foldl (fun _ _ ht => ?_) (.pair h)
  dsimp only
  split
  · next _ _ he => exact .pair (.addTxn (.of_eq_mk he (.vaPieces (.of_fst ht))))
  · next _ _ he => exact .pair (.of_eq_mk he (.vaPieces (.of_fst ht)))

theorem Canonical.failLanes {s : State} {core : Nat} {op : MemOp} {l : List (LaneAcc × Nat)} (h : Canonical s) :
    Canonical (s.failLanes core op l) := by
  unfold State.failLanes
  split
  · exact h
  · exact .pushFault h

theorem Canonical.runLanes {s : State} {core t : Nat} {k : Task} {op : MemOp} {base : Nat} {rs : Resolved} (h : Canonical s) :
    Canonical (s.runLanes core t k op base rs) := by
  unfold State.runLanes
  dsimp only
  split
  · exact .failLanes (.stallLanes (.ite (.of_fst (.hostLanes (.of_fst (.registerLanes (.of_fst (.loadMemory h)))))) (.addTxn (.of_fst (.hostLanes
      (.of_fst (.registerLanes (.of_fst (.loadMemory h)))))))))
  · exact .failLanes (.stallLanes (.of_fst (.hostLanes (.of_fst (.registerLanes (.ite h (.storeMemory h)))))))
  · exact .failLanes (.stallLanes (.ite (.of_fst (.registerLanes (.of_fst (.atomics (.setCore h))))) (.addTxn (.of_fst (.registerLanes (.of_fst
      (.atomics (.setCore h))))))))
  · exact .failLanes (.stallLanes (.ite (.of_fst (.registerLanes (.exactLanes (.setCore h)))) (.addTxn (.of_fst (.registerLanes (.exactLanes
      (.setCore h)))))))
  · exact .failLanes (.stallLanes (.of_fst (.registerLanes (.of_fst (.longLanes h)))))

theorem Canonical.global {s : State} {i : Issue} {r : Ready} {op : MemOp} (h : Canonical s) : Canonical (s.global i r op) := by
  unfold State.global
  dsimp only
  exact .ite (.done h) (.ite (.ite h (.addTxn (.setCore (.done h)))) (.ite h (.runLanes (.setCore (.done (.of_fst (.resolve h)))))))

theorem Canonical.shared {s : State} {i : Issue} {r : Ready} {op : MemOp} (h : Canonical s) : Canonical (s.shared i r op) := by
  unfold State.shared
  dsimp only
  split
  · exact .precise h
  · refine .ite h ?_
    split
    · exact .failLanes (.done (.bumpRun h))
    · exact .setCore (.done (.bumpRun h))

theorem Canonical.argument {s : State} {i : Issue} {r : Ready} {op : MemOp} (h : Canonical s) : Canonical (s.argument i r op) := .done h

theorem Canonical.memAccess {s : State} {i : Issue} {r : Ready} {op : MemOp} (h : Canonical s) : Canonical (s.memAccess i r op) := by
  unfold State.memAccess
  dsimp only
  split
  · exact .precise h
  · split
    · exact .global h
    · exact .shared h
    · exact .argument h

theorem NextCanonical.ld {x : Issue} {s : State} (h : Canonical s) : NextCanonical (execLd x s) := .onIssue h (fun _ _ ht => .memAccess ht)
theorem NextCanonical.st {x : Issue} {s : State} (h : Canonical s) : NextCanonical (execSt x s) := .onIssue h (fun _ _ ht => .memAccess ht)

theorem NextCanonical.atom {s : State} {x : Issue} {a : AtomOp} {sx : Bool} (h : Canonical s) : NextCanonical (s.atom x a sx) := by
  unfold State.atom
  exact .onIssue h fun _ _ ht => .memAccess ht

theorem NextCanonical.atomAdd {x : Issue} {s : State} (h : Canonical s) : NextCanonical (execAtomAdd x s) := .atom h
theorem NextCanonical.atomMin {x : Issue} {s : State} (h : Canonical s) : NextCanonical (execAtomMin x s) := .atom h
theorem NextCanonical.atomMax {x : Issue} {s : State} (h : Canonical s) : NextCanonical (execAtomMax x s) := .atom h
theorem NextCanonical.atomAnd {x : Issue} {s : State} (h : Canonical s) : NextCanonical (execAtomAnd x s) := .atom h
theorem NextCanonical.atomOr {x : Issue} {s : State} (h : Canonical s) : NextCanonical (execAtomOr x s) := .atom h
theorem NextCanonical.atomXor {x : Issue} {s : State} (h : Canonical s) : NextCanonical (execAtomXor x s) := .atom h
theorem NextCanonical.atomExch {x : Issue} {s : State} (h : Canonical s) : NextCanonical (execAtomExch x s) := .atom h
theorem NextCanonical.atomCas {x : Issue} {s : State} (h : Canonical s) : NextCanonical (execAtomCas x s) := .atom h

theorem NextCanonical.atomExact {x : Issue} {s : State} (h : Canonical s) : NextCanonical (execAtomExact x s) :=
  .onIssue h (fun _ _ ht => .memAccess ht)

theorem NextCanonical.atomLf {x : Issue} {s : State} (h : Canonical s) : NextCanonical (execAtomLf x s) := by
  unfold execAtomLf
  refine .onIssue h (fun _ _ ht => ?_)
  dsimp only
  split
  · exact .precise ht
  · split
    · exact .precise ht
    · exact .ite (.global ht) (.failLanes (.global ht))

theorem NextCanonical.fenceOp {s : State} {i : Issue} {kind : Nat} (h : Canonical s) : NextCanonical (s.fenceOp i kind) :=
  .onIssue h (fun _ _ ht => .ite (.done ht) (.setCore (.done ht)))

theorem NextCanonical.fenceWg {x : Issue} {s : State} (h : Canonical s) : NextCanonical (execFenceWg x s) := .fenceOp h
theorem NextCanonical.fencePart {x : Issue} {s : State} (h : Canonical s) : NextCanonical (execFencePart x s) := .fenceOp h
theorem NextCanonical.fenceRemote {x : Issue} {s : State} (h : Canonical s) : NextCanonical (execFenceRemote x s) := .fenceOp h
theorem NextCanonical.fenceGlobal {x : Issue} {s : State} (h : Canonical s) : NextCanonical (execFenceGlobal x s) := .fenceOp h

theorem NextCanonical.ncInv {x : Issue} {s : State} (h : Canonical s) : NextCanonical (execNcInv x s) :=
  .onIssue h (fun _ _ ht => .ite (.done ht) (.setCore (.done ht)))

theorem Canonical.retire {s : State} {core : Nat} {t : Txn} (h : Canonical s) : Canonical (s.retire core t) := .settleWg (.setCore h)
theorem Canonical.giveRegs {s : State} {core pos : Nat} {ws : List RegWrite} (h : Canonical s) : Canonical (s.giveRegs core pos ws) := .setCore h

theorem NextCanonical.loadReturn {core txn : Nat} {ans : HostAns} {s : State} (h : Canonical s) :
    NextCanonical (execLoadReturn core txn ans s) := by
  unfold execLoadReturn
  dsimp only
  split
  · exact .next h
  · split
    · exact .next (.retire (.setCore (.giveRegs h)))
    · refine .ite (.next h) ?_
      refine .ite (.next (.retire (.setCore (.send h)))) ?_
      split
      · exact .next (.retire (.failLanes h))
      · refine .ite (.next h) ?_
        refine .next ?_
        refine .retire ?_
        split
        · exact .ite (.ite (.journalCtx (.giveRegs h)) (.setCore (.journalCtx (.giveRegs h)))) (.giveRegs h)
        · exact .giveRegs h
    · exact .next (.ite (.retire h) h)
    · split
      · exact .next h
      · exact .ite (.next h) (.next (.settleWg (.settleFences (.runLanes (.setCore (.of_fst (.resolve h)))))))
    · exact .next h

theorem NextCanonical.exactAddApply {core txn : Nat} {s : State} (h : Canonical s) : NextCanonical (execExactAddApply core txn s) := by
  unfold execExactAddApply
  dsimp only
  split
  · exact .next h
  · split
    · refine .ite (.next h) ?_
      refine .ite ?_ ?_
      · split
        · exact .next (.retire (.pushFault (.ncAtomic h)))
        · exact .next (.retire (.poisonEvent (.ncAtomic h)))
      · refine .next ?_
        refine .retire ?_
        split
        · refine .giveRegs ?_
          refine .ite ?_ (.writeMem (.ncAtomic h))
          split
          · exact .stkCount (.writeMem (.ncAtomic h))
          · exact .bump (.writeMem (.ncAtomic h))
        · refine .ite ?_ (.writeMem (.ncAtomic h))
          split
          · exact .stkCount (.writeMem (.ncAtomic h))
          · exact .bump (.writeMem (.ncAtomic h))
    · exact .next h

theorem NextCanonical.longFormAdd {core txn : Nat} {s : State} (h : Canonical s) : NextCanonical (execLongFormAdd core txn s) := by
  unfold execLongFormAdd
  dsimp only
  split
  · exact .next h
  · split
    · refine .ite (.next h) ?_
      split
      · exact .next (.retire (.poisonEvent (.foldl (fun _ _ ht => .ncAtomic ht) h)))
      · exact .next (.retire (.orDrain (.of_fst (.foldl (fun _ _ ht => .pair (.writeMem (.of_fst ht))) (.pair (.foldl (fun _ _ ht => .ncAtomic ht)
          h))))))
    · exact .next h

-- tile movers

theorem FstCanonical.spans {s : State} {core f va n : Nat} {k : Task} {kind : AccKind} (h : Canonical s) :
    FstCanonical (s.spans core k kind f va n) := by
  induction f generalizing s va n with
  | zero => exact .pair h
  | succ f ih =>
    have hmore {u : State} {d : Dest} {va n m : Nat} (hu : Canonical u) : FstCanonical (match State.spans u core k kind f va n with
        | (u, .ok l) => (u, Except.ok ((d, m) :: l))
        | (u, .error e) => (u, .error e)) := by
      split
      · next _ _ he => exact .pair (.of_eq_mk he (ih hu))
      · next _ _ he => exact .pair (.of_eq_mk he (ih hu))
    unfold State.spans
    dsimp only
    refine .ite (.pair h) ?_
    split
    · next _ _ he => exact hmore (.of_eq_mk he (.access h))
    · next _ _ he =>
      have h₁ := Canonical.of_eq_mk he (.access h)
      split
      · exact hmore h₁
      · exact .pair h₁
    · next _ _ he => exact .pair (.of_eq_mk he (.access h))
    · next _ _ _ _ _ he => exact .pair (.of_eq_mk he (.access h))

theorem FstCanonical.allSpans {s : State} {core : Nat} {k : Task} {kind : AccKind} {l : List (Nat × Nat)} (h : Canonical s) :
    FstCanonical (s.allSpans core k kind l) := by
  induction l generalizing s with
  | nil => exact .pair h
  | cons x l ih =>
    unfold State.allSpans
    split
    · next _ _ he => exact .pair (.of_eq_mk he (.spans h))
    · next _ _ he =>
      have h₁ := Canonical.of_eq_mk he (.spans h)
      split
      · next _ _ he => exact .pair (.of_eq_mk he (ih h₁))
      · next _ _ he => exact .pair (.of_eq_mk he (ih h₁))

theorem FstCanonical.engFail {s : State} {core : Nat} {k : Task} {engine detail : Nat} {kind : AccKind} {va : Nat} {r : AccRes} (h : Canonical s) :
    FstCanonical (s.engFail core k engine detail kind va r) := by
  unfold State.engFail
  split
  · dsimp only
    split
    all_goals exact .pair (.of_fst (.xfrReport h))
  · exact .pair h
  · exact .pair h

theorem FstCanonical.engRead {s : State} {core : Nat} {l : List (Dest × Nat)} (h : Canonical s) : FstCanonical (s.engRead core l) := by
  induction l generalizing s with
  | nil => exact .pair h
  | cons x l ih =>
    obtain ⟨d, n⟩ := x
    cases d with
    | host => exact .pair (.of_fst (ih h))
    | mem => exact .pair (.of_fst (ih (.foldl (fun _ _ ht => .l2Read ht) h)))

theorem Canonical.engWrite {s : State} {core pos : Nat} {l : List (Dest × Nat)} {bs : List (Byte × Bool)} (h : Canonical s) :
    Canonical (s.engWrite core pos l bs) := by
  induction l generalizing s bs with
  | nil => exact h
  | cons x l ih =>
    obtain ⟨d, n⟩ := x
    cases d with
    | host => exact ih (.setCore (.send h))
    | mem => exact ih (.foldl (fun _ _ ht => .ite (.markPoison ht) ht) (.storeMemory h))

theorem NextCanonical.tmCopy {x : Issue} {s : State} (h : Canonical s) : NextCanonical (execTmCopy x s) := by
  unfold execTmCopy
  refine .onIssue h (fun _ _ ht => ?_)
  refine .ite (.done ht) ?_
  dsimp only
  split
  · exact .precise ht
  · exact .ite (.precise ht) (.ite ht (.setCore (.done ht)))

theorem Canonical.tmSignal {s : State} {k : Task} {d : TmDesc} {c : Nat} (h : Canonical s) : Canonical (s.tmSignal k d c) :=
  .ite (.ite (.settleCtr (.addTo h)) (.discardAdd h)) h

theorem Canonical.tmPop {s : State} {core mover : Nat} (h : Canonical s) : Canonical (s.tmPop core mover) := .setCore h

theorem NextCanonical.tileMoveComplete {core mover : Nat} {s : State} (h : Canonical s) : NextCanonical (execTileMoveComplete core mover s) := by
  unfold execTileMoveComplete
  dsimp only
  split
  · refine .ite ?_ (.next h)
    split
    · next _ _ _ he =>
      have h₁ := Canonical.of_eq_mk he (.allSpans h)
      split
      · next _ he => exact .next (.of_eq_mk he (.engFail h₁))
      · next _ _ he => exact .next (.setCore (.of_eq_mk he (.engFail h₁)))
      · next _ _ he => exact .next (.settleFences (.pushFault (.tmPop (.of_eq_mk he (.engFail h₁)))))
    · next _ _ he =>
      have h₁ := Canonical.of_eq_mk he (.allSpans h)
      exact .ite (.next h₁) (.ite (.next (.settleFences (.tmSignal (.tmPop (.foldl (fun _ _ ht => .engWrite ht) h₁))))) (.next (.settleFences
          (.foldl (fun _ _ ht => .tmSignal ht) (.tmPop (.foldl (fun _ _ ht => .setCore ht) (.of_fst (.foldl (fun _ _ ht => .pair (.of_fst (.engRead
          (.of_fst ht)))) (.pair h₁)))))))))
  · exact .next h

-- the matrix engine

theorem Canonical.enqueueMx {s : State} {i : Issue} {r : Ready} {op : MxOp} (h : Canonical s) : Canonical (s.enqueueMx i r op) := .setCore (.done h)

theorem Canonical.mxChecked {s : State} {i : Issue} {r : Ready} {ops : List (Nat × Nat × Nat)} {f : State → State} (h : Canonical s)
    (hf : ∀ t, Canonical t → Canonical (f t)) :
    Canonical (s.mxChecked i r ops f) := by
  unfold State.mxChecked
  refine .ite (.precise h) ?_
  split
  · exact .precise h
  · dsimp only
    split
    · exact .precise h
    · exact hf _ h

theorem NextCanonical.mxMma {x : Issue} {s : State} (h : Canonical s) : NextCanonical (execMxMma x s) := by
  unfold execMxMma
  refine .onIssue h (fun _ _ ht => ?_)
  refine .mxChecked ht (fun _ hu => ?_)
  dsimp only
  split
  · exact hu
  · exact .ite (.precise hu) (.ite hu (.enqueueMx hu))

theorem NextCanonical.mxLdlf {x : Issue} {s : State} (h : Canonical s) : NextCanonical (execMxLdlf x s) :=
  .onIssue h (fun _ _ ht => .mxChecked ht (fun _ hu => .ite hu (.enqueueMx hu)))

theorem NextCanonical.mxZero {x : Issue} {s : State} (h : Canonical s) : NextCanonical (execMxZero x s) :=
  .onIssue h (fun _ _ ht => .mxChecked ht (fun _ hu => .ite hu (.setCore (.done hu))))

theorem NextCanonical.mxDrain {x : Issue} {s : State} (h : Canonical s) : NextCanonical (execMxDrain x s) := by
  unfold execMxDrain
  refine .onIssue h (fun _ _ ht => ?_)
  dsimp only
  split
  · exact .precise ht
  · exact .ite (.precise ht) (.ite (.precise ht) (.ite (.precise ht) (.ite ht (.enqueueMx ht))))

theorem Canonical.mxPop {s : State} {core : Nat} {e : MxEntry} (h : Canonical s) : Canonical (s.mxPop core e) := .settleWg (.setCore h)

theorem Canonical.mxFail {s : State} {core : Nat} {e : MxEntry} {code detail addr : Nat} (h : Canonical s) :
    Canonical (s.mxFail core e code detail addr) := .mxPop (.pushFault h)

theorem Canonical.runMma {s : State} {core : Nat} {k : Task} {e : MxEntry} {slot kv : Nat} {fa fb : Format} {ta tb : Tile} {flushIn : Bool}
    (h : Canonical s) :
    Canonical (s.runMma core k e slot kv fa fb ta tb flushIn) := by
  unfold State.runMma
  dsimp only
  split
  · exact .mxPop (.bumpRun (.bumpRun (.orFlags (.setCore h))))
  · exact .mxFail h
  · exact .mxFail h

theorem Canonical.runLdlf {s : State} {core : Nat} {k : Task} {e : MxEntry} {slot off : Nat} (h : Canonical s) :
    Canonical (s.runLdlf core k e slot off) := by
  unfold State.runLdlf
  refine .ite (.mxFail h) ?_
  dsimp only
  split
  · exact .mxFail h
  · exact .mxPop (.setCore h)

theorem FstCanonical.drainSpans {s : State} {core : Nat} {k : Task} {l : List (AccKind × Nat × List (Nat × Nat))} (h : Canonical s) :
    FstCanonical (s.drainSpans core k l) := by
  induction l generalizing s with
  | nil => exact .pair h
  | cons x l ih =>
    unfold State.drainSpans
    split
    · next _ _ _ he => exact .pair (.of_eq_mk he (.allSpans h))
    · next _ _ he =>
      have h₁ := Canonical.of_eq_mk he (.allSpans h)
      split
      · next _ _ he => exact .pair (.of_eq_mk he (ih h₁))
      · next _ _ he => exact .pair (.of_eq_mk he (ih h₁))

theorem Canonical.drainRecords {s : State} {core : Nat} {e : MxEntry} {d : DrainOp} {els : List (List (Nat × Rounded))} {record : List (Dest × Nat)}
    (h : Canonical s) :
    Canonical (s.drainRecords core e d els record) := by
  unfold State.drainRecords
  refine .ite ?_ ?_
  · split
    · exact .setCore (.orDrain (.orFlags h))
    · exact .orDrain (.orFlags h)
  · refine .record ?_
    refine .ite ?_ ?_
    · refine .updTask ?_
      refine .writePieces ?_
      split
      · exact .setCore (.orDrain (.orFlags h))
      · exact .orDrain (.orFlags h)
    · split
      · exact .setCore (.orDrain (.orFlags h))
      · exact .orDrain (.orFlags h)

theorem Canonical.runDrain {s : State} {core : Nat} {k : Task} {e : MxEntry} {d : DrainOp} (h : Canonical s) :
    Canonical (s.runDrain core k e d) := by
  have hclear {u : State} {x : CoreSt} (hu : Canonical u) : Canonical (if d.clear then u.setCore core x else u) := .ite (.setCore hu) hu
  unfold State.runDrain
  dsimp only
  split
  · next _ _ _ _ _ he =>
    have h₁ := Canonical.of_eq_mk he (.drainSpans h)
    split
    · next _ he => exact .of_eq_mk he (.engFail h₁)
    · next _ _ he => exact .setCore (.of_eq_mk he (.engFail h₁))
    · next _ _ he => exact .mxFail (hclear (.of_eq_mk he (.engFail h₁)))
  · next t _ he =>
    have h₁ := Canonical.of_eq_mk he (.drainSpans h)
    have hread {l : List (Dest × Nat)} : Canonical (t.engRead core l).1 := .of_fst (.engRead h₁)
    refine .ite h₁ (.ite (.mxFail (hclear hread)) (.mxPop (hclear (.ite ?_ (.drainRecords ?_)))))
    all_goals exact .ite (.foldl (fun _ _ ht => .engWrite ht) hread) (.foldl (fun _ _ ht => .setCore ht) hread)

theorem NextCanonical.matrixInstructionStart {core : Nat} {s : State} (h : Canonical s) : NextCanonical (execMatrixInstructionStart core s) := by
  unfold execMatrixInstructionStart
  dsimp only
  split
  · exact .next h
  · split
    · exact .next h
    · refine .ite ?_ (.next h)
      split
      · exact .next (.runMma h)
      · exact .next (.runLdlf h)
      · exact .next (.runDrain h)

-- replayed accesses

theorem Canonical.replayStep {s : State} {p : Nat} {e : JRead} (h : Canonical s) : Canonical (s.replayStep p e) :=
  .replayEnd (.replayPause (.ite (.bump (.bump h)) (.setSkb (.bump (.bump h)))))

theorem Canonical.replayCommand {s : State} {p q : Nat} {e : JRead} {b : List Byte} (h : Canonical s) : Canonical (s.replayCommand p q e b) :=
  .ite (.replayStep (.acceptCmd h)) h

theorem Canonical.replayTaskStart {s : State} {p q : Nat} {e : JRead} {b : List Byte} (h : Canonical s) :
    Canonical (s.replayTaskStart p q e b) := .replayStep (.setReg (.setReg h))

theorem Canonical.replayHostData {s : State} {p q : Nat} {e : JRead} {b : List Byte} (h : Canonical s) : Canonical (s.replayHostData p q e b) := by
  unfold State.replayHostData
  dsimp only
  split
  · exact .ite (.replayStep h) h
  · refine .ite h ?_
    split
    · exact h
    · exact .ite (.hostChunk h) (.replayStep (.hostChunk h))

theorem Canonical.replayPacket {s : State} {p : Nat} {e : JRead} {b : List Byte} (h : Canonical s) : Canonical (s.replayPacket p e b) :=
  .replayStep (.setPort h)

theorem Canonical.replayTimeLimit {s : State} {p q : Nat} {e : JRead} {b : List Byte} (h : Canonical s) :
    Canonical (s.replayTimeLimit p q e b) := by
  unfold State.replayTimeLimit
  split
  · exact .replayStep (.stopTask (.updTask (.foldl (fun _ _ ht => .ite (.leaveRetention ht) ht) h)))
  · exact h

theorem Canonical.replayCompletion {s : State} {p : Nat} {e : JRead} {b : List Byte} (h : Canonical s) : Canonical (s.replayCompletion p e b) := by
  unfold State.replayCompletion
  dsimp only
  split
  · exact h
  · exact .ite (.replayStep (.setSkb h)) (.diverge (.setSkb h))

theorem Canonical.replayCheck {s : State} {p : Nat} {e : JRead} {b : List Byte} (h : Canonical s) : Canonical (s.replayCheck p e b) :=
  .ite (.serveCheck (.setSkb h)) (.replayStep (.serveCheck (.setSkb h)))

theorem NextCanonical.replayEntry {part : Nat} {s : State} (h : Canonical s) : NextCanonical (execReplayEntry part s) := by
  unfold execReplayEntry
  refine .ite ?_ (.next h)
  refine .ite (.next (.replayEnd h)) ?_
  dsimp only
  split
  · exact .next (.replayCommand h)
  · exact .next (.replayTaskStart h)
  · exact .next (.replayHostData h)
  · exact .next (.replayPacket h)
  · exact .next (.replayTimeLimit h)
  · exact .next (.replayCompletion h)
  · exact .next (.replayCheck h)
  · exact .next (.replayStep (.markPulse h))
  · exact .next (.replayStep h)

-- a step

theorem Canonical.trackIdle {s : State} {c : Nat} (h : Canonical s) : Canonical (s.trackIdle c) := by
  unfold State.trackIdle
  dsimp only
  split
  · exact .setCore h
  · exact .setCore h
  · exact h

theorem Canonical.tick {s : State} (h : Canonical s) : Canonical s.tick := .foldl (fun _ _ ht => .trackIdle ht) (.record h)

/-- Every command keeps the canonical form: one lemma for each row of the table. -/
theorem NextCanonical.exec {s : State} (h : Canonical s) (i : Instr) : NextCanonical (exec i s) := by
  cases i with
  | registerWrite => exact .registerWrite h
  | invalidAccess => exact .invalidAccess h
  | seamFail => exact .seamFail h
  | partitionReset => exact .partitionReset h
  | cellFault => exact .cellFault h
  | blockFault => exact .blockFault h
  | regionStop => exact .regionStop h
  | coreDisable => exact .coreDisable h
  | mov => exact .mov h
  | add => exact .add h
  | sub => exact .sub h
  | mul => exact .mul h
  | mulhi => exact .mulhi h
  | mad => exact .mad h
  | min => exact .min h
  | max => exact .max h
  | and => exact .and h
  | or => exact .or h
  | xor => exact .xor h
  | not => exact .not h
  | shl => exact .shl h
  | shr => exact .shr h
  | sar => exact .sar h
  | popc => exact .popc h
  | clz => exact .clz h
  | bfe => exact .bfe h
  | sel => exact .sel h
  | cmp => exact .cmp h
  | shfl => exact .shfl h
  | vote => exact .vote h
  | pop => exact .pop h
  | fpAdd => exact .fpAdd h
  | fpSub => exact .fpSub h
  | fpMul => exact .fpMul h
  | fpFma => exact .fpFma h
  | fpDiv => exact .fpDiv h
  | fpSqrt => exact .fpSqrt h
  | fpMin => exact .fpMin h
  | fpMax => exact .fpMax h
  | fpNeg => exact .fpNeg h
  | fpAbs => exact .fpAbs h
  | fpCmp => exact .fpCmp h
  | fpClass => exact .fpClass h
  | fpFromint => exact .fpFromint h
  | fpToint => exact .fpToint h
  | fpExp => exact .fpExp h
  | fpLog => exact .fpLog h
  | fpRsqrt => exact .fpRsqrt h
  | fpSin => exact .fpSin h
  | fpCos => exact .fpCos h
  | cvt => exact .cvt h
  | ld => exact .ld h
  | st => exact .st h
  | atomAdd => exact .atomAdd h
  | atomMin => exact .atomMin h
  | atomMax => exact .atomMax h
  | atomAnd => exact .atomAnd h
  | atomOr => exact .atomOr h
  | atomXor => exact .atomXor h
  | atomExch => exact .atomExch h
  | atomCas => exact .atomCas h
  | atomExact => exact .atomExact h
  | atomLf => exact .atomLf h
  | fenceWg => exact .fenceWg h
  | fencePart => exact .fencePart h
  | fenceRemote => exact .fenceRemote h
  | fenceGlobal => exact .fenceGlobal h
  | ncInv => exact .ncInv h
  | tmCopy => exact .tmCopy h
  | tileMoveComplete => exact .tileMoveComplete h
  | nop => exact .nop h
  | bra => exact .bra h
  | call => exact .call h
  | jmp => exact .jmp h
  | converge => exact .converge h
  | convergeRelease => exact .convergeRelease h
  | exit => exact .exit h
  | trap => exact .trap h
  | barSync => exact .barSync h
  | barArrive => exact .barArrive h
  | barWait => exact .barWait h
  | barrierDeadlock => exact .barrierDeadlock h
  | groupPromotion => exact .groupPromotion h
  | setPromotion => exact .setPromotion h
  | mxMma => exact .mxMma h
  | mxLdlf => exact .mxLdlf h
  | mxDrain => exact .mxDrain h
  | mxZero => exact .mxZero h
  | matrixInstructionStart => exact .matrixInstructionStart h
  | recordMerge => exact .recordMerge h
  | cntAdd => exact .cntAdd h
  | cntWait => exact .cntWait h
  | cntClaim => exact .cntClaim h
  | cntRead => exact .cntRead h
  | sysGet => exact .sysGet h
  | counterArbitration => exact .counterArbitration h
  | counterDeadline => exact .counterDeadline h
  | taskBind => exact .taskBind h
  | regionCounterGrant => exact .regionCounterGrant h
  | regionCounterRevoke => exact .regionCounterRevoke h
  | retentionEntry => exact .retentionEntry h
  | retentionExit => exact .retentionExit h
  | loadReturn => exact .loadReturn h
  | deferredFault => exact .deferredFault h
  | faultReadWrite => exact .faultReadWrite h
  | faultRelease => exact .faultRelease h
  | workgroupDispatch => exact .workgroupDispatch h
  | coreTaskBegin => exact .coreTaskBegin h
  | timeLimitExpiry => exact .timeLimitExpiry h
  | contextSwitch => exact .contextSwitch h
  | contextResume => exact .contextResume h
  | victimOffer => exact .victimOffer h
  | splitChange => exact .splitChange h
  | splitChangeDone => exact .splitChangeDone h
  | fineRequest => exact .fineRequest h
  | exactAddApply => exact .exactAddApply h
  | longFormAdd => exact .longFormAdd h
  | writeBatchTurn => exact .writeBatchTurn h
  | stackTempRead => exact .stackTempRead h
  | stackOffline => exact .stackOffline h
  | scrub => exact .scrub h
  | readShared => exact .readShared h
  | readUnique => exact .readUnique h
  | readUniqueNoData => exact .readUniqueNoData h
  | upgrade => exact .upgrade h
  | cleanEvict => exact .cleanEvict h
  | writeBack => exact .writeBack h
  | grantAcknowledge => exact .grantAcknowledge h
  | snoopShared => exact .snoopShared h
  | snoopInvalidate => exact .snoopInvalidate h
  | snoopPeek => exact .snoopPeek h
  | snoopPurge => exact .snoopPurge h
  | nonCachingRead => exact .nonCachingRead h
  | nonCachingWrite => exact .nonCachingWrite h
  | nonCachingAtomic => exact .nonCachingAtomic h
  | agentReclaim => exact .agentReclaim h
  | streamPrefetch => exact .streamPrefetch h
  | faultBatchClose => exact .faultBatchClose h
  | xfrRetry => exact .xfrRetry h
  | xfrFailUnmapped => exact .xfrFailUnmapped h
  | xfrFailPermission => exact .xfrFailPermission h
  | xfrReadWrite => exact .xfrReadWrite h
  | tlbInvalidate => exact .tlbInvalidate h
  | ctxPtWrite => exact .ctxPtWrite h
  | grantWrite => exact .grantWrite h
  | grantFlushWrite => exact .grantFlushWrite h
  | sfenceBroadcast _ ctx => exact .sfenceBroadcast (_ctx := ctx) h
  | barAccess => exact .barAccess h
  | bar2Access => exact .bar2Access h
  | apertureAccess => exact .apertureAccess h
  | barReadTimeout => exact .barReadTimeout h
  | vfAssign => exact .vfAssign h
  | sqDoorbell => exact .sqDoorbell h
  | cqDoorbell => exact .cqDoorbell h
  | commandFetch => exact .commandFetch h
  | completionRecord => exact .completionRecord h
  | queueEnable => exact .queueEnable h
  | queueDisable => exact .queueDisable h
  | dmaChunk => exact .dmaChunk h
  | nopCommand => exact .nopCommand h
  | fence => exact .fence h
  | launch => exact .launch h
  | cntAddCommand => exact .cntAddCommand h
  | cntWaitCommand => exact .cntWaitCommand h
  | alloc => exact .alloc h
  | free => exact .free h
  | hostToDev => exact .hostToDev h
  | devToHost => exact .devToHost h
  | copy => exact .copy h
  | fill => exact .fill h
  | inlineWrite => exact .inlineWrite h
  | matmul => exact .matmul h
  | conv => exact .conv h
  | mapConvert => exact .mapConvert h
  | mapAdd => exact .mapAdd h
  | mapSubtract => exact .mapSubtract h
  | mapMultiply => exact .mapMultiply h
  | mapFma => exact .mapFma h
  | mapDivide => exact .mapDivide h
  | mapSquareRoot => exact .mapSquareRoot h
  | mapMin => exact .mapMin h
  | mapMax => exact .mapMax h
  | mapRelu => exact .mapRelu h
  | mapExp => exact .mapExp h
  | mapLog => exact .mapLog h
  | mapReciprocalSquareRoot => exact .mapReciprocalSquareRoot h
  | mapSine => exact .mapSine h
  | mapCosine => exact .mapCosine h
  | reduceSum => exact .reduceSum h
  | reduceMin => exact .reduceMin h
  | reduceMax => exact .reduceMax h
  | sort => exact .sort h
  | select => exact .select h
  | hostLoss => exact .hostLoss h
  | heartbeatExpiry => exact .heartbeatExpiry h
  | heartbeatKick => exact .heartbeatKick h
  | detach => exact .detach h
  | vfFlr => exact .vfFlr h
  | attachFresh => exact .attachFresh h
  | resume => exact .resume h
  | resumeHost => exact .resumeHost h
  | tokenRead => exact .tokenRead h
  | tokenLockoutEnd => exact .tokenLockoutEnd h
  | frameReceive => exact .frameReceive h
  | pfcReceive => exact .pfcReceive h
  | splitWrite => exact .splitWrite h
  | rdmaWritePacket => exact .rdmaWritePacket h
  | rdmaReadRequest => exact .rdmaReadRequest h
  | rdmaReadResponse => exact .rdmaReadResponse h
  | roceAcknowledge => exact .roceAcknowledge h
  | roceNak => exact .roceNak h
  | cnp => exact .cnp h
  | rateRecovery => exact .rateRecovery h
  | retransmitTimeout => exact .retransmitTimeout h
  | rdmaWrite => exact .rdmaWrite h
  | rdmaRead => exact .rdmaRead h
  | rdmaCntAdd => exact .rdmaCntAdd h
  | remoteOp => exact .remoteOp h
  | jobLoad => exact .jobLoad h
  | jobTeardown => exact .jobTeardown h
  | teardownDone => exact .teardownDone h
  | allReduce => exact .allReduce h
  | reduceScatter => exact .reduceScatter h
  | allGather => exact .allGather h
  | broadcast => exact .broadcast h
  | reduceToRoot => exact .reduceToRoot h
  | recordAllReduce => exact .recordAllReduce h
  | collectiveBarrier => exact .collectiveBarrier h
  | fletusData => exact .fletusData h
  | fletusAck => exact .fletusAck h
  | fletusNack => exact .fletusNack h
  | prepare => exact .prepare h
  | prepareAck => exact .prepareAck h
  | notPrepared => exact .notPrepared h
  | arm => exact .arm h
  | armAck => exact .armAck h
  | abort => exact .abort h
  | abortAck => exact .abortAck h
  | launchChildTimeout => exact .launchChildTimeout h
  | launchHoldTimeout => exact .launchHoldTimeout h
  | cmd => exact .cmd h
  | cmdDone => exact .cmdDone h
  | fletusRecord => exact .fletusRecord h
  | ptpSync => exact .ptpSync h
  | ptpSyncLoss => exact .ptpSyncLoss h
  | recordStart => exact .recordStart h
  | recordStop => exact .recordStop h
  | replayStart => exact .replayStart h
  | replayStop => exact .replayStop h
  | journalFlush => exact .journalFlush h
  | skbMark => exact .skbMark h
  | skbCheck => exact .skbCheck h
  | skbRelease => exact .skbRelease h
  | replayPauseSeq => exact .replayPauseSeq h
  | replayEntry => exact .replayEntry h
  | replayStall => exact .replayStall h
  | powerPeriod => exact .powerPeriod h
  | powerReport => exact .powerReport h
  | powerReportTimeout => exact .powerReportTimeout h
  | thermalSample => exact .thermalSample h
  | fastLimitSample => exact .fastLimitSample h
  | supplyFault => exact .supplyFault h
  | droop => exact .droop h
  | vddUndervoltage => exact .vddUndervoltage h
  | vddOvervoltage => exact .vddOvervoltage h
  | ageingUpdate => exact .ageingUpdate h
  | watchdogExpiry => exact .watchdogExpiry h
  | firmwareRestartDone => exact .firmwareRestartDone h
  | eventDrain => exact .eventDrain h
  | stageImage => exact .stageImage h
  | stagingDone => exact .stagingDone h
  | activate => exact .activate h
  | activateOnReset => exact .activateOnReset h
  | activateCancel => exact .activateCancel h
  | activationQuiesce => exact .activationQuiesce h
  | quiesceTimeout => exact .quiesceTimeout h
  | confirmTimeout => exact .confirmTimeout h
  | activationConfirm => exact .activationConfirm h
  | fwuNoRootTimeout => exact .fwuNoRootTimeout h
  | rowRetire => exact .rowRetire h
  | laneRetrain => exact .laneRetrain h
  | eventIrqDeferred => exact .eventIrqDeferred h
  | evtBaseWrite => exact .evtBaseWrite h
  | calExport => exact .calExport h
  | calImport => exact .calImport h
  | getVersion => exact .getVersion h
  | getCapabilities => exact .getCapabilities h
  | negotiateAlgorithms => exact .negotiateAlgorithms h
  | getDigests => exact .getDigests h
  | getCertificate => exact .getCertificate h
  | challenge => exact .challenge h
  | getMeasurements => exact .getMeasurements h
  | keyExchange => exact .keyExchange h
  | finish => exact .finish h
  | heartbeat => exact .heartbeat h
  | keyUpdate => exact .keyUpdate h
  | endSession => exact .endSession h
  | getSessionToken => exact .getSessionToken h
  | macsecSetSa => exact .macsecSetSa h
  | macsecClearSa => exact .macsecClearSa h
  | setPolicy => exact .setPolicy h
  | query => exact .query h
  | keyProg => exact .keyProg h
  | kSetGo => exact .kSetGo h
  | kSetStop => exact .kSetStop h
  | ideCheckFail => exact .ideCheckFail h
  | macsecTxAnWrite => exact .macsecTxAnWrite h
  | memCryptEnable => exact .memCryptEnable h
  | setEndpointId => exact .setEndpointId h
  | getEndpointId => exact .getEndpointId h
  | getMctpVersionSupport => exact .getMctpVersionSupport h
  | getMessageTypeSupport => exact .getMessageTypeSupport h
  | getEndpointUuid => exact .getEndpointUuid h
  | setdasa => exact .setdasa h
  | entdaa => exact .entdaa h
  | getTid => exact .getTid h
  | setTid => exact .setTid h
  | getPldmVersion => exact .getPldmVersion h
  | getPldmTypes => exact .getPldmTypes h
  | getPldmCommands => exact .getPldmCommands h
  | getPdrRepositoryInfo => exact .getPdrRepositoryInfo h
  | getPdr => exact .getPdr h
  | getSensorReading => exact .getSensorReading h
  | getStateSensorReadings => exact .getStateSensorReadings h
  | getNumericEffecterValue => exact .getNumericEffecterValue h
  | setNumericEffecterValue => exact .setNumericEffecterValue h
  | setStateEffecterStates => exact .setStateEffecterStates h
  | setEventReceiver => exact .setEventReceiver h
  | getFruRecordTableMetadata => exact .getFruRecordTableMetadata h
  | getFruRecordTable => exact .getFruRecordTable h
  | requestUpdate => exact .requestUpdate h
  | passComponentTable => exact .passComponentTable h
  | updateComponent => exact .updateComponent h
  | activateFirmware => exact .activateFirmware h
  | getStatus => exact .getStatus h
  | cancelUpdateComponent => exact .cancelUpdateComponent h
  | cancelUpdate => exact .cancelUpdate h
  | sideCfgWrite => exact .sideCfgWrite h
  | sidePulseEnd => exact .sidePulseEnd h
  | recoveryImage => exact .recoveryImage h
  | insertion => exact .insertion h
  | mainSwitchClose => exact .mainSwitchClose h
  | extraction => exact .extraction h
  | inputUndervoltage => exact .inputUndervoltage h
  | inputReturn => exact .inputReturn h
  | powerUp => exact .powerUp h
  | perstDeassert => exact .perstDeassert h
  | refclkLoss => exact .refclkLoss h
  | refclkReturn => exact .refclkReturn h
  | coldReset => exact .coldReset h
  | warmReset => exact .warmReset h
  | standbyEntry => exact .standbyEntry h
  | standbyExit => exact .standbyExit h
  | hostInterfaceFault => exact .hostInterfaceFault h
  | hostLinkUp => exact .hostLinkUp h
  | laneTrainingDone => exact .laneTrainingDone h
  | countCtlClear => exact .countCtlClear h
  | ackCoalesceTimeout => exact .ackCoalesceTimeout h
  | rnrRetryTimeout => exact .rnrRetryTimeout h

theorem NextCanonical.step {s : State} (h : Canonical s) : NextCanonical (step s) := by
  unfold Machine.step
  split
  · exact .next (.tick h)
  · exact .exec (.record h) _

/-- Settles O59: each operation of the state keeps the canonical form of memory, and so does every command made of them. -/
theorem stepKeepsMemoryCanonical : Obligations.StepKeepsMemoryCanonical := fun _ t hwf hstep =>
  ((NextCanonical.step ⟨hwf⟩).of_next t hstep).wf

end Sys2Proof.Machine
end
